-- ==== Sys2Proof/Word.lean ====
section
/-! DEFINITION. The plainest types: bytes, byte strings, and tables keyed by numbers. -/

namespace Sys2Proof

/-- One byte. -/
abbrev Byte := BitVec 8

/-- A byte string, lowest address first. -/
abbrev Bytes := List Byte

/-- 16-, 32- and 64-bit words, where the spec numbers their bits. -/
abbrev Word16 := BitVec 16
abbrev Word32 := BitVec 32
abbrev Word64 := BitVec 64

/-- A time of day or a duration, in the unit of R27: 2^-16 ns, signed where the spec signs it. -/
abbrev Units := Int

end Sys2Proof
end

