-- ==== Sys2Proof/Syntax.lean ====
section
/-! DEFINITION. The commands: one constructor of `Instr` per row of spec/opcode_table.json, with the operands that
come from outside the engine (written values and their source tags, received cells and fields, measured quantities,
errors that a read met) and the names of what the command acts on. Field names follow the spec's. -/

namespace Sys2Proof

/-- The header fields of a PTP message that the engine looks at (R30, R31). -/
structure PtpHeader where
  domain     : Nat
  sdo        : Nat
  seq        : Nat
  correction : Units
  deriving DecidableEq, Repr

/-- A timestamp as a timestamp unit takes it: hall time in 1/64 of a lane-clock cycle, 12.5 ps, before any latency is
taken off (R29). -/
abbrev Stamp := Int

/-- What the filters of the discipline loop give at a reference event: the filtered offset,
the frequency correction then in force and the error of the frequency estimate, both in 10^-12 (R36). -/
structure LoopMeas where
  filtered : Units
  freq     : Int
  freqErr  : Int
  deriving DecidableEq, Repr

/-- The fields of a hail cell (R261). -/
structure Hail where
  format   : Nat
  role     : Nat
  port     : Nat
  flags    : Nat
  chip     : Nat
  serial   : Word64
  version  : Word32
  firmware : Word32
  imageHash : Bytes
  mapHash  : Bytes
  hailTide : Nat
  seenChip : Nat
  seenSerial : Word64
  seenPort : Nat
  deriving DecidableEq, Repr

/-- The header of a transfer block (R324). -/
structure BlockHeader where
  kind      : Nat
  status    : Nat
  length    : Nat
  addr      : Nat
  replyAddr : Nat
  transfer  : Nat
  block     : Nat
  deriving DecidableEq, Repr

/-- Where a transfer block arrived: the group, its rail, whether it came from the successor's side, and its service: 0
on VC1, f + 1 on VC2 flow f (R323, R326). -/
structure BlockFrom where
  group   : Nat
  rail    : Nat
  fromSuccessor : Bool
  service : Nat
  deriving DecidableEq, Repr

/-- The fields of a recovery cell (R258); `port` is where it arrived, LIST as its words. -/
structure RecoveryCell where
  port   : Nat
  group  : Nat
  code   : Nat
  state  : Nat
  sender : Nat
  step   : Nat
  table  : Nat
  lost   : Nat
  part   : Nat
  parts  : Nat
  tR     : Nat
  round  : Nat
  list   : List Nat
  deriving DecidableEq, Repr

/-- What a hop, delivery or fold meets from outside its own arithmetic: the input region's bytes as the fabric port
returns them, the errors its reads met (R22, R23, R395), and cells changed in staging after receipt or after encoding
(index in the chunk and bytes as read; R22, R185). -/
structure HopEnv where
  grad      : Bytes
  contextUE : Bool
  sramCE    : Nat
  stackCE   : Nat
  stackUE   : List Nat
  stagedIn  : List (Nat × Bytes)
  stagedOut : List (Nat × Bytes)
  deriving DecidableEq, Repr

/-- A table of the express and tables region (R21): a tide table, a group's ring view, a bucket's record, a codebook, a
group's express state, the neighbour entry of a port, a trigger counter. -/
inductive SramTable where
  | tide (table : Nat)
  | ring (group : Nat)
  | bucket (bucket : Nat)
  | book (codebook : Nat)
  | express (group : Nat)
  | neighbour (port : Nat)
  | trigger (counter : Nat)
  deriving DecidableEq, Repr

/-- Errors that SRAM checks met in a tide outside the hops (R22): corrected words, tables that could be rebuilt before
the boundary, tables that could not, the active image bank, lost entries of step records and ledgers (group, of the last
committed step, of the ledger, entry number), and chunk contexts with an uncorrectable error (group, bucket, chunk). -/
structure TideEnv where
  sramCE     : Nat
  rebuilt    : Nat
  tableLost  : List SramTable
  imageUE    : Bool
  ledgerLost : List (Nat × Bool × Bool × Nat)
  contextLost : List (Nat × Nat × Nat)
  deriving DecidableEq, Repr

/-- What reads of the stacks met: errors that were corrected, and 256 B units that could not be (R23, R395). -/
structure StackReads where
  corrected : Nat
  bad       : List Nat
  deriving DecidableEq, Repr

/-- A skip close: the group, and what the reads of its generation copy met (R218). -/
structure SkipClose where
  group : Nat
  met   : StackReads
  deriving DecidableEq, Repr

/-- What a diagnosis replay read: the chunk contents by index, and what its stack reads met (R220, R356). -/
structure DiagReads where
  chunks : List (Nat × Bytes)
  met    : StackReads
  deriving DecidableEq, Repr

/-- What a start-up step reports when it completes (R394, R410, R416, R418), the errors that the warm test's reading of the
stacks corrected, and what a redelivery's reads of retention met (R23, R213). -/
structure StartReport where
  stacksKept : Bool
  badCoves   : List (Nat × Nat)
  badBays    : List Nat
  badPorts   : List Nat
  noSpare    : Option Nat
  savedUE    : Bool
  stackCE    : Nat
  retention  : StackReads
  deriving DecidableEq, Repr

/-- What a fetch, or the completion write it follows, met at the queue's memory (R315). -/
inductive FetchResult where
  | data (b : Bytes)
  | fetchFault
  | complFault (index : Nat)
  deriving DecidableEq, Repr

/-- What ended a port's training (R252). -/
inductive LossCause where
  | signal | codewords | delimiter
  deriving DecidableEq, Repr

/-- Instructions of the test access port (R421): the four the engine accepts while MOD_RESET_N is high, and the
others, by their opcode. -/
inductive TapInstr where
  | bypass | idcode | samplePreload | ijtagRead
  | other (opcode : Nat)
  deriving DecidableEq, Repr

/-- A test access event (R421): an instruction with the bits that its data register captures from outside the engine's state
(for SAMPLE/PRELOAD the levels of MOD_WARM_N, TIME_PPS_IN and TIME_PPS_OUT; for IEEE 1687 access what the instrument shows),
or TRST_N. -/
inductive TapEvent where
  | instruction (name : TapInstr) (bits : List Bool)
  | trst (low : Bool)
  deriving DecidableEq, Repr

/-- The commands of the engine, in the order of spec/opcode_table.json. `tag` is the source tag of R302. -/
inductive Instr where
  | tideBoundary (env : TideEnv)
  | tideMarkReceived (port : Nat) (arrival : Stamp) (cell : Bytes)
  | sync (port : Nat) (rx : Stamp) (cell : Bytes) (meas : LoopMeas)
  | followUp (port : Nat) (cell : Bytes)
  | delayResp (port : Nat) (cell : Bytes)
  | announce (port : Nat) (cell : Bytes)
  | delayReqSend (port : Nat) (tx : Stamp)
  | syncTimeout (port : Nat)
  | announceReceiptTimeout (port : Nat)
  | holdoverBoundReached
  | timeLost
  | ppsOut
  | ppsInEdge (edge : Stamp) (meas : LoopMeas)
  | ppsTodWrite (tag : Nat) (value : Word64)
  | temperatureUpdate (temps : List Int)
  | thermalShutdown
  | calDataWrite (tag : Nat) (value : Word32)
  | calDataRead (tag : Nat)
  | calCommit (tag : Nat) (value : Word32)
  | calCommitDone (ok : Bool)
  | calReload (tag : Nat) (value : Word32)
  | delayMeas (tag : Nat) (port : Nat)
  | powerOn
  | pwrGoodLoss
  | moduleReset
  | moduleResetRelease
  | modWarm
  | warmRestart (tag : Nat) (value : Word32)
  | coldRestart (tag : Nat) (value : Word32)
  | watchdog
  | powerCtrlFull (tag : Nat)
  | powerCtrlIdle (tag : Nat)
  | powerCtrlHold (tag : Nat)
  | holdEntryDone
  | wakeComplete
  | startUpStep (rep : StartReport)
  | portEnable (tag : Nat) (port : Nat)
  | portDisable (tag : Nat) (port : Nat)
  | retrain (tag : Nat) (port : Nat)
  | prbsEnable (tag : Nat) (port : Nat)
  | signalLock (port : Nat) (polarity : BitVec 4)
  | signalTrainTimeout (port : Nat)
  | frameLock (port : Nat)
  | alignComplete (port : Nat)
  | linkLoss (port : Nat) (cause : LossCause)
  | fecDegradeCheck (port : Nat) (corrected : Nat)
  | chunkCellReceived (port : Nat) (slot : Nat) (delimiter : Nat) (fecBad : Bool) (cell : Bytes)
  | retransmission (port : Nat) (vc : Nat)
  | hailSend (port : Nat)
  | hailReceived (port : Nat) (cell : Bytes)
  | quarantineEffect (port : Nat)
  | hailTimeout (port : Nat)
  | delayExchange (port : Nat) (t1 : Stamp)
  | delayRequestReceived (port : Nat) (t2 : Stamp) (t3 : Stamp) (cell : Bytes)
  | delayResponseReceived (port : Nat) (t4 : Stamp) (cell : Bytes)
  | delayTimeout (port : Nat)
  | prbsCellReceived (port : Nat) (cell : Bytes)
  | queueTailWrite (tag : Nat) (group : Nat) (value : Word32)
  | complHeadWrite (tag : Nat) (group : Nat) (value : Word32)
  | queueStart (tag : Nat) (group : Nat)
  | queueStop (tag : Nat) (group : Nat)
  | clearErr (tag : Nat) (group : Nat)
  | queueStopped (group : Nat)
  | descriptorFetch (group : Nat) (res : FetchResult)
  | trigValueWrite (tag : Nat) (counter : Nat) (value : Word32)
  | trigAdd (tag : Nat) (counter : Nat) (value : Word32)
  | eventCtrlWrite (tag : Nat) (ring : Nat) (value : Word32)
  | eventHeadWrite (tag : Nat) (ring : Nat) (value : Word32)
  | eventRecordWrite (badRings : List Nat)
  | attach (tag : Nat) (part : Nat)
  | detach (tag : Nat) (part : Nat)
  | forceDetach (tag : Nat) (part : Nat)
  | quiesced (part : Nat)
  | detachComplete (part : Nat)
  | privGrantWrite (tag : Nat) (value : Word32)
  | registerWrite (tag : Nat) (addr : Nat) (size : Nat) (value : Word64)
  | exchange (group : Nat) (index : Nat)
  | sparseExchange (group : Nat) (index : Nat)
  | barrier (group : Nat) (index : Nat)
  | scalar (group : Nat) (index : Nat)
  | commit (group : Nat) (index : Nat)
  | triggerAdd (group : Nat) (index : Nat)
  | fence (group : Nat) (index : Nat)
  | put (group : Nat) (index : Nat) (data : Bytes)
  | get (group : Nat) (index : Nat)
  | putBlockReceived (src : BlockFrom)
  | getRequestReceived (src : BlockFrom) (data : Bytes)
  | getDataReceived (src : BlockFrom)
  | putAckReceived (src : BlockFrom)
  | flowCellReceived (port : Nat) (cell : Bytes)
  | flowResend (port : Nat) (flow : Nat)
  | ebbFirstHop (group : Nat) (bucket : Nat) (chunk : Nat) (env : HopEnv)
  | ebbHop (group : Nat) (bucket : Nat) (chunk : Nat) (env : HopEnv)
  | ownerHop (group : Nat) (bucket : Nat) (chunk : Nat) (env : HopEnv)
  | floodReceive (group : Nat) (bucket : Nat) (chunk : Nat) (env : HopEnv)
  | verdict (group : Nat) (index : Nat) (round : Nat)
  | coveTakeover (bay : Nat)
  | bayRetirement (bay : Nat)
  | replayRoundLaunch (group : Nat) (index : Nat) (round : Nat)
  | floodReplay (group : Nat) (bucket : Nat) (chunk : Nat) (env : HopEnv)
  | fold (group : Nat) (index : Nat) (env : HopEnv)
  | foldComplete (group : Nat) (index : Nat)
  | spareResidualWrite (group : Nat) (index : Nat) (env : HopEnv)
  | appliedSeqReport (unit : Nat) (seq : Word32)
  | unitReset (unit : Nat) (met : StackReads)
  | appliedVote (group : Nat)
  | commitEffect (group : Nat)
  | openEffect (group : Nat)
  | barrierMessage (port : Nat) (field : Word64) (second : Bool)
  | scalarMessage (port : Nat) (field : Word64) (second : Bool)
  | statMessage (port : Nat) (field : Word64) (second : Bool)
  | verdictMessage (port : Nat) (field : Word64) (second : Bool)
  | commitMessage (port : Nat) (field : Word64) (second : Bool)
  | readyMessage (port : Nat) (field : Word64) (second : Bool)
  | openMessage (port : Nat) (field : Word64) (second : Bool)
  | expressEffect (group : Nat) (kind : Nat) (xtag : Nat)
  | abortToken (port : Nat) (field : Word64) (second : Bool)
  | abortReport (group : Nat)
  | abortResend (group : Nat)
  | slipBarrierTimeout (group : Nat) (index : Nat)
  | foldTimeout (group : Nat) (index : Nat)
  | openTimeout (group : Nat)
  | expressHoldTimeout (group : Nat) (kind : Nat) (xtag : Nat)
  | commitHoldTimeout (group : Nat)
  | broadcastLossTimeout (group : Nat) (kind : Nat) (xtag : Nat)
  | propose (port : Nat) (cell : Bytes)
  | census (port : Nat) (cell : Bytes)
  | decide (port : Nat) (cell : Bytes) (met : StackReads)
  | ack (port : Nat) (cell : Bytes)
  | coordinatorDeadline (group : Nat)
  | rejoinWaitExpiry (group : Nat)
  | resumeTide (group : Nat)
  | skipClose (close : SkipClose)
  | recoveryCtrlArm (tag : Nat) (group : Nat) (value : Word32)
  | stepDiscard (tag : Nat) (group : Nat)
  | stepHoldWrite (tag : Nat) (group : Nat) (value : Word32)
  | groupStepWrite (tag : Nat) (group : Nat) (value : Word64)
  | diagStart (tag : Nat) (group : Nat)
  | diagDone (group : Nat) (inputs : DiagReads)
  | spillStore (group : Nat) (index : Nat)
  | spillLoad (group : Nat) (index : Nat)
  | spillStoreTile (area : Nat) (tiles : List Bytes)
  | spillLoadTile (area : Nat) (met : StackReads)
  | imageWindowWrite (tag : Nat) (offset : Nat) (size : Nat) (value : Word64)
  | verify (tag : Nat)
  | verifyDone
  | loadNv (tag : Nat) (slot : Nat)
  | store (tag : Nat) (slot : Nat)
  | storeActive (tag : Nat) (slot : Nat)
  | storeDone (ok : Bool)
  | activate (tag : Nat)
  | cancel (tag : Nat)
  | activation
  | keyProgram (tag : Nat) (value : Word32)
  | keyRevoke (tag : Nat) (value : Word32)
  | fuseDone
  | rollbackCtrlWrite (tag : Nat) (value : Word32)
  | codebookCmd (tag : Nat) (value : Word32)
  | snapReq (tag : Nat) (page : Nat) (value : Word32)
  | snapshotLatch (page : Nat)
  | timeSnapshotRead (tag : Nat) (page : Nat)
  | statClear (tag : Nat) (page : Option Nat) (value : Word32)
  | ctxSelWrite (tag : Nat) (value : Word32)
  | ctxCopy
  | maintReq (tag : Nat) (value : Word32)
  | maintRelease (tag : Nat)
  | tokenLapse
  | bistCtrlWrite (tag : Nat) (value : Word32)
  | bistSlice (signature : Word32)
  | standbyHandover (bay : Nat)
  | patrolScrub (corrected : List Nat) (badUnits : List Nat)
  | sweepComplete
  | localFrameBoundary (port : Nat)
  | registerRead (tag : Nat) (addr : Nat) (size : Nat)
  | testAccessPortInstruction (ev : TapEvent)
  | imageReloadDone
  deriving DecidableEq, Repr

end Sys2Proof
end

