-- ==== Sys2Proof/Config.lean ====
section
/-! DEFINITION. What the spec fixes as constants of the engine, and the values it leaves open: each open value is a
function without a body, applied to what it depends on, so that nothing can be proved of its choice (log entry 8). -/

namespace Sys2Proof.Config

/-- ENGINE_ID: design identity 0x5A34, major 1, minor 0 (R335). -/
def engineVersion : Nat := 0x5A340100

/-- FREE VALUE. The 48-byte hash of a disabled-unit map: retired coves (bay, cove), bays, ports. The spec names the
hash (R20) and gives no layout of what is hashed. -/
opaque dumapHash : List (Nat × Nat) → List Nat → List Nat → Bytes

/-- FREE VALUE. The update unit of the compute die whose memory holds an address (R201); the split of compute memory
among dies is not given. -/
opaque updateUnit : Nat → Nat

/-- FREE VALUE. Where in its bucket's retention slot the owner's wide sum of a chunk lies (R150, R205), in units of 256 B
modulo the places that the slot has: hash of the active image, bucket, chunk. The image fixes it (R16), and no record of it
has a field for it. -/
opaque retainOffset : Bytes → Nat → Nat → Nat

/-- FREE VALUE. Where in its bucket's retention slot a chunk's flood cells lie (R16, R205), as the wide sum's place is given:
hash of the active image, bucket, chunk. -/
opaque retainCells : Bytes → Nat → Nat → Nat

/-- FREE VALUE. Which logical cove position of a bay does the work of a slot (R16), modulo 15: hash of the active image,
hall chip number, table, port, direction, slot. The active table and image fix it, and no record of the image has a field
for it. -/
opaque cove : Bytes → Nat → Nat → Nat → Nat → Nat → Nat

/-- FREE VALUE. The first staging cell of a chunk context (R150): bucket, chunk, tide. -/
opaque stagingCell : Nat → Nat → Nat → Nat

/-- FREE VALUE. CODE of the recovery cells of a group whose member has seen no abort (R258, R425), as a place in the list of
the codes that may end a step, modulo its length: group, step. -/
opaque recoveryCode : Nat → Nat → Nat

/-- FREE VALUE. PARTITION in the chunk contexts of a group that the hall controller owns (R150), modulo 8: group. -/
opaque hallPart : Nat → Nat

/-- FREE VALUE. The size, as a binary32 code of a finite value, of an intermediate of the spill encoder beyond the largest
finite binary32 (R73, R230): its exact value as m · 2^e. -/
opaque overflow32 : Int → Int → Nat

/-- FREE VALUE. The byte address that a MEMORY_UE event names in an SRAM region (R388). -/
opaque sramAddress : Nat → Nat → Nat

/-- FREE VALUE. RANK in the header of an ESCAPED slot whose tile formed no factors (R226, R229, R231): area, tile, the tile's
bytes. -/
opaque escapedRank : Nat → Nat → Bytes → Nat

/-- FREE VALUE. The measured error, in units of 2^-24, of a tile whose norm is zero in binary32 although the tile is
not (R231 divides by it): area, tile, the tile's bytes. -/
opaque tinyTileErr : Nat → Nat → Bytes → Nat

/-- FREE VALUE. Of the spill tiles and folds of a group's step under DYN_BALANCE how many ran outside their named bays (R370,
R374), modulo one more than there were: which free lane capacity such work takes is not given: group, step, attempt. -/
opaque itemsMoved : Nat → Nat → Nat → Nat

/-- FREE VALUE. What an image slot holds after a STORE to it failed or was interrupted (R292): slot, draw. -/
opaque cutSlot : Nat → Nat → Bytes

/-- FREE VALUE. Which tests of R55 a calibration record fails whose commit failed or was interrupted, by draw: 1 + this
modulo 7. -/
opaque cutRecord : Nat → Nat

/-- FREE VALUE. Whether a fuse operation on a slot that a loss of power or a reset interrupted has taken effect (R342):
slot, draw. -/
opaque cutFuse : Nat → Nat → Bool

/-- FREE VALUE. The 32 bytes that a step record entry shows once it has been lost (R22): group, step, attempt, entry. -/
opaque lostEntry : Nat → Nat → Nat → Nat → Bytes

end Sys2Proof.Config
end

