-- ==== Sys2Proof/Machine/Types.lean ====
section
/-! DEFINITION. The parts of the state, as plain data: what the structure image holds (spec/12), ports, queues,
groups, chunk contexts, express and recovery bookkeeping, spill areas, rings, maintenance. Defaults are reset values. -/

namespace Sys2Proof.Machine

open Sys2Proof

/-- A table keyed by numbers, kept with rising keys. -/
abbrev Tbl (α : Type) := List (Nat × α)

/-- A byte memory: addresses rising, no byte listed that equals what an unlisted address reads as (zero). -/
abbrev Mem := List Host.Cell

/-! ### The structure image (R272 to R289) -/

/-- TIME section (R277), with the defaults its zero fields select already put in. -/
structure ImgTime where
  domain      : Nat := 0
  sdo         : Nat := 0
  syncLog     : Int := -7
  announceLog : Int := 0
  classMax    : Nat := 6
  loopBw      : Nat := 3
  holdoverH   : Nat := 500
  ppsRef      : Bool := false
  revert      : Bool := false
  deriving DecidableEq, Repr

/-- A port word of a CHIPS entry (R278); role 0 OFF, 1 RING, 2 TIME, 3 OPEN. -/
structure ImgPort where
  partner     : Nat
  partnerPort : Nat
  role        : Nat
  deriving DecidableEq, Repr

structure ImgChip where
  chip        : Nat
  cls         : Nat
  timePrimary : Nat
  timeBackup  : Nat
  serial      : Nat
  mapHash     : Bytes
  ports       : List ImgPort
  deriving DecidableEq, Repr

/-- A bay word of a CLASSES record (R280). -/
structure ImgBay where
  ebb    : Bool
  flood  : Bool
  select : Bool
  spill  : Bool
  fabric : Nat
  deriving DecidableEq, Repr

structure ImgClass where
  cls  : Nat
  bays : List ImgBay
  deriving DecidableEq, Repr

/-- A table descriptor with its reassignments (R281); `changed` is the group bitmap. -/
structure ImgTable where
  index    : Nat
  valid    : Bool
  changed  : Nat
  reassign : List (Nat × Nat)
  deriving DecidableEq, Repr

/-- A run of slots (R282). -/
structure ImgRun where
  first : Nat
  count : Nat
  vc    : Nat
  use   : Nat
  group : Nat
  rail  : Nat
  bay   : Nat
  dir   : Nat
  port  : Nat
  deriving DecidableEq, Repr

structure ImgBlock where
  table     : Nat
  cls       : Nat
  stackLoad : Nat
  lMax      : List Nat
  bayLoad   : List Nat
  runs      : List ImgRun
  deriving DecidableEq, Repr

structure ImgGroup where
  group    : Nat
  owner    : Nat
  slip     : Bool
  timeout  : Nat
  stepBase : Nat
  deriving DecidableEq, Repr

/-- A ring member: its chip and its transmit ports for rails 0 to 3 (R283). -/
structure ImgMember where
  chip : Nat
  tx   : List Nat
  deriving DecidableEq, Repr

structure ImgRing where
  group   : Nat
  table   : Nat
  n       : Nat
  rails   : Nat
  hG      : Nat
  wait    : Nat
  members : List ImgMember
  deriving DecidableEq, Repr

/-- The four dense encodings (R68). -/
inductive Enc where
  | t4 | k4 | s1 | t8
  deriving DecidableEq, Repr

/-- Kinds of fall-back (R86, R106). -/
inductive FbKind where
  | none | extend | codebook | margin
  deriving DecidableEq, Repr

/-- A BUCKETS record (R285). `rotSize` is the size itself: 16, 64 or 256. -/
structure ImgBucket where
  bucket       : Nat
  group        : Nat
  enc          : Enc
  sparse       : Bool
  counts       : Bool
  l            : Nat
  chunkCells   : Nat
  outlierCells : Nat
  rotSize      : Nat
  rotSeed      : Nat
  extSeed      : Nat
  resFp32      : Bool
  etInit       : Int
  etMargin     : Nat
  fbKind       : FbKind
  fbParam      : Nat
  codebook     : Nat
  fbHold       : Nat
  clipThresh   : Nat
  ovfThresh    : Nat
  retClip      : Nat
  retOvf       : Nat
  span         : Nat
  listCells    : Nat
  selK         : Nat
  replayRounds : Nat
  offsetD      : Nat
  slotPos      : Nat
  resOff       : Nat
  retOff       : Nat
  retBytes     : Nat
  deriving DecidableEq, Repr

/-- A PARTITIONS entry (R287). -/
structure ImgPart where
  valid        : Bool := false
  privileged   : Bool := false
  trigFirst    : Nat := 0
  trigCount    : Nat := 0
  spillQuota   : Nat := 0
  stagingShare : Nat := 0
  contextShare : Nat := 0
  groups       : Nat := 0
  windows      : List (Nat × Nat) := []
  flows        : List (Nat × Nat) := []
  deriving DecidableEq, Repr

structure ImgBist where
  patternSeed : Nat := 0
  coveSig     : List Nat := []
  baySig      : List Nat := []
  deriving DecidableEq, Repr

/-- A FAULT entry (R289, R209). -/
structure ImgFault where
  group        : Nat
  auto         : Bool
  zero         : Bool
  rejoinWait   : Nat
  recoveryLead : Nat
  alt          : List (Nat × Nat)
  deriving DecidableEq, Repr

/-- A SPILL entry (R223, R289). -/
structure ImgArea where
  area         : Nat
  part         : Nat
  cls          : Nat
  escPerTide   : Nat
  tiles        : Nat
  base         : Nat
  escBase      : Nat
  escSlots     : Nat
  errBound     : Nat
  tilesPerTide : Nat
  sketchSeed   : Nat
  decoders     : Nat
  fabric       : Nat
  coves        : Nat
  deriving DecidableEq, Repr

/-- The contents of a structure image, as its sections give them. -/
structure Image where
  length        : Nat := 0
  rollback      : Nat := 0
  engineVersion : Nat := 0
  epochSec      : Nat := 0
  epochNs       : Nat := 0
  dynBalance    : Bool := false
  res0          : Nat × Nat := (0, 0)
  res1          : Nat × Nat := (0, 0)
  retain        : Nat × Nat := (0, 0)
  spill         : Nat × Nat := (0, 0)
  time          : ImgTime := {}
  chips         : List ImgChip := []
  classes       : List ImgClass := []
  tables        : List ImgTable := []
  blocks        : List ImgBlock := []
  groups        : List ImgGroup := []
  rings         : List ImgRing := []
  buckets       : List ImgBucket := []
  codebooks     : List (Nat × List Int) := []
  parts         : List ImgPart := []
  bist          : ImgBist := {}
  faults        : List ImgFault := []
  areas         : List ImgArea := []
  deriving DecidableEq, Repr

/-- One image bank (R271): its bytes, the contents that verification expanded, and its image hash. -/
structure Bank where
  bytes : Mem := []
  image : Option Image := none
  hash  : Bytes := []
  deriving DecidableEq, Repr

/-- Long image operations in progress (R291, R292). -/
inductive ImageJob where
  | none | verify
  | store (slot : Nat) (active : Bool)
  deriving DecidableEq, Repr

/-- SHADOW of IMAGE_STATUS (R341). -/
inductive ShadowState where
  | empty | written | verified | refused
  deriving DecidableEq, Repr

structure ImageState where
  active       : Bank := {}
  shadow       : Bank := {}
  shadowState  : ShadowState := .empty
  job          : ImageJob := .none
  reason       : Nat := 0
  pending      : Option Nat := none
  actRefusal   : Nat := 0
  shadowInUse  : Bool := false
  storeRefused : Bool := false
  rollbackIgnored : Bool := false
  mapMismatch  : Bool := false
  absent       : Bool := false
  cmdIgnored   : Bool := false
  lastStore    : Nat := 0
  actStep      : Nat := 0
  reloading    : Bool := false
  deriving DecidableEq, Repr

/-- A codebook generation slot (R299). -/
structure CbSlot where
  levels : List Int := []
  gen    : Nat := 0
  refs   : Nat := 0
  deriving DecidableEq, Repr

/-- A codebook number's two slots, the current one, and the replacement request (R299, R300, R343).
`waiting` lists the groups that have not yet passed the first check tide of the replacement's step. -/
structure Codebook where
  slot0   : CbSlot := {}
  slot1   : CbSlot := {}
  cur     : Bool := false
  pending : Option Nat := none
  waiting : List Nat := []
  outcome : Nat := 0
  deriving DecidableEq, Repr

structure CodebookRegs where
  sel    : Nat := 0
  step   : Nat := 0
  levels : Bytes := []
  deriving DecidableEq, Repr

/-! ### Identity, power, store -/

structure Identity where
  serial    : Nat := 0
  firmware  : Nat := 0
  hallChip  : Nat := 0xFFFFF
  fromImage : Bool := false
  scratch   : Word64 := 0
  deriving DecidableEq, Repr

/-- Power states of R408. -/
inductive PowerMode where
  | full | idle | hold | off
  deriving DecidableEq, Repr

/-- What asked for a restart, and what it waits for (R414, R415). -/
inductive Restart where
  | none | warm | cold | hold
  deriving DecidableEq, Repr

/-- The disabled-unit map (R20, R346): retired coves (bay, physical cove), bays and ports. -/
structure DuMap where
  coves : List (Nat × Nat) := []
  bays  : List Nat := []
  ports : List Nat := []
  deriving DecidableEq, Repr

structure FaultStatus where
  sramUE       : Bool := false
  stackUE      : Bool := false
  coveRetired  : Bool := false
  bayRetired   : Bool := false
  coverageLost : Bool := false
  calInvalid   : Bool := false
  timeLost     : Bool := false
  deriving DecidableEq, Repr

/-- `timeOwed`: start-up has gone on to step 5 with step 4 still to complete (R417). -/
structure Power where
  mode        : PowerMode := .full
  ctrl        : Nat := 0
  reqIgnored  : Bool := false
  thermalWarn : Bool := false
  thermalCrit : Bool := false
  thermAlert  : Bool := false
  resetCause  : BitVec 6 := 1
  modResetLow : Bool := false
  railEnCore  : Bool := true
  dieTemp     : List Int := [0, 0, 0, 0, 0, 0]
  faults      : FaultStatus := {}
  startStep   : Nat := 0
  ready       : Bool := false
  warm        : Bool := false
  idleAsked   : Bool := false
  wakeAt      : Option Nat := none
  holdEntry   : Bool := false
  railsDown   : Bool := false
  restart     : Restart := .none
  halted      : Bool := false
  timeOwed    : Bool := false
  dumap       : DuMap := {}
  deriving DecidableEq, Repr

/-- A key fuse slot (R275). -/
structure KeySlot where
  digest     : Bytes := []
  programmed : Bool := false
  revoked    : Bool := false
  deriving DecidableEq, Repr

inductive FuseJob where
  | none | program (slot : Nat) (digest : Bytes) | revoke (slot : Nat)
  deriving DecidableEq, Repr

/-- The non-volatile store and the fuses (R269, R275, R342). `calCut` and `cutSlots` name what an interrupted or failed
write left invalid: the calibration record and image slots (R56, R292), each with its draw of free values; `draws` counts
the draws made. -/
structure NvState where
  bytes    : Mem := []
  keys     : List KeySlot := [{}, {}, {}, {}]
  floor    : Nat := 0
  job      : FuseJob := .none
  failed   : Bool := false
  keyHash  : Bytes := []
  calCut   : Option Nat := none
  cutSlots : List (Nat × Nat) := []
  draws    : Nat := 0
  deriving DecidableEq, Repr

/-! ### Time -/

/-- States of the discipline loop (R36). -/
inductive Loop where
  | freerun | freqAcquire | phaseAcquire | locked | holdover | timeLost
  deriving DecidableEq, Repr

/-- The reference that delivers to the loop (R40). -/
inductive RefSource where
  | none | primary | backup | pps
  deriving DecidableEq, Repr

/-- PTP bookkeeping of one designated time port (R30, R32, R39). `silent`: no Announce has come since the receipt timeout;
`rx`, `origin` and `corr` are those of the last Sync that is complete (`paired`), `rxNext` and `corrNext` those of a
two-step Sync whose Follow_Up is awaited; `lastSync`, `lastAnnounce` and `lastReq` count as `TimeState.ticks` does. -/
structure TimePort where
  lost      : Bool := true
  silent    : Bool := false
  lastSync  : Nat := 0
  lastAnnounce : Nat := 0
  lastReq   : Option Nat := none
  driftLost : Bool := false
  syncs     : Nat := 0
  twoStepSeq : Option Nat := none
  origin    : Units := 0
  rx        : Units := 0
  corr      : Units := 0
  rxNext    : Units := 0
  corrNext  : Units := 0
  paired    : Bool := false
  reqSeq    : Nat := 0
  reqTx     : Option Units := none
  pathDelay : Units := 0
  offset    : Units := 0
  clockClass : Nat := 0
  deriving DecidableEq, Repr

/-- A latched tide boundary (R41, R360). -/
structure TideSnap where
  tide : Nat := 0
  sec  : Nat := 0
  ns   : Nat := 0
  deriving DecidableEq, Repr

/-- What the engine reads from the BOOT slot's image before an image is active (R417): the TIME section and the ports of
its CHIPS entry, 0xFF where none. -/
structure BootTime where
  cfg     : ImgTime
  primary : Nat
  backup  : Nat
  deriving DecidableEq, Repr

/-- `ticks` counts tide boundaries and local frames since the start-up began; durations in tides are taken from it.
`boundaryOpen`: actions of the boundary in progress still wait for those before them in the order of R46; `freqSince`: since
when the frequency estimate of FREQ_ACQUIRE has been within its bound (R36); `freqs`: the frequency corrections of the last
second of LOCKED with their ticks; `ppsTodAt`: when PPS_TOD was written; `lostAsked`: when the end of HOLDOVER was decided;
`ppsOutSec`: the second of the last pulse; `ppsUntil`: the hall time at which the pulse in progress ends. -/
structure TimeState where
  hall         : Nat := 0
  tide         : Nat := 0
  localFrames  : Nat := 0
  ticks        : Nat := 0
  boot         : Option BootTime := none
  loop         : Loop := .freerun
  frame        : Bool := false
  refSource    : RefSource := .none
  refPort      : Nat := 0
  lastRef      : RefSource := .none
  lastRefPort  : Nat := 0
  calValid     : Bool := false
  driftWarn    : Bool := false
  driftAbort   : Bool := false
  holdoverSeen : Bool := false
  alignFault   : Bool := false
  bound        : Nat := 0
  boundStart   : Nat := 0
  boundTide    : Nat := 0
  lostAsked    : Option Nat := none
  stepped      : Bool := false
  lockCount    : Nat := 0
  loopOffset   : Units := 0
  loopFreq     : Int := 0
  freqSince    : Option Nat := none
  ppsWidth     : Nat := 10000
  ppsOutEnable : Bool := true
  ppsInEnable  : Bool := false
  ppsInOffset  : Units := 0
  ppsInValid   : Bool := false
  ppsTod       : Nat := 0
  ppsArmed     : Bool := false
  ppsTodAt     : Nat := 0
  ppsOutSec    : Option Nat := none
  ppsUntil     : Option Nat := none
  boundaryOpen : Bool := false
  freqs        : List (Nat × Int) := []
  ports        : Tbl TimePort := []
  snap         : TideSnap := {}
  deriving DecidableEq, Repr

/-- Compensated values of R59: per-port latencies and temperatures, the six readings, the oscillator trim. -/
structure CompValues where
  dies  : List Int := []
  txLat : List Int := []
  rxLat : List Int := []
  temp  : List Int := []
  osc   : Int := 0
  deriving DecidableEq, Repr

structure CalState where
  work         : Mem := []
  inEffect     : Mem := []
  offset       : Nat := 0
  autoInc      : Bool := true
  busy         : Bool := false
  result       : Nat := 0
  committing   : Mem := []
  writeBlocked : Bool := false
  reloadAsked  : Bool := false
  comp         : CompValues := {}
  compNext     : Option CompValues := none
  lastTemp     : Option Nat := none
  deriving DecidableEq, Repr

/-! ### Link ports -/

/-- Training states of a port (R251). -/
inductive Link where
  | off | signal | frame | discover | align | service | quarantine
  deriving DecidableEq, Repr

/-- STATE of a neighbour entry (R264). -/
inductive NbState where
  | none | accepted | quarantined | lost
  deriving DecidableEq, Repr

/-- A neighbour entry (R264), with the identity last accepted (R261). -/
structure Neighbour where
  state      : NbState := .none
  chip       : Nat := 0xFFFFF
  serial     : Nat := 0
  port       : Nat := 0
  role       : Nat := 0
  version    : Nat := 0
  firmware   : Nat := 0
  imageHash  : Bytes := []
  mapHash    : Bytes := []
  lastHail   : Nat := 0
  seenChip   : Nat := 0xFFFFF
  seenSerial : Nat := 0
  seenPort   : Nat := 0xFF
  deriving DecidableEq, Repr

/-- A delay request on its way (R256); `auto`: of an automatic exchange, not of a remeasurement (R399). -/
structure DelayReq where
  id   : Nat
  t1   : Units
  at_  : Nat
  auto : Bool
  deriving DecidableEq, Repr

/-- A remeasurement of DELAY: the exchanges still to make and the delays so far (R58, R399); `under`: it was requested while
the hall controller held the port's calibration token (R402). -/
structure Remeasure where
  left    : Nat
  samples : List Units
  under   : Bool := false
  deriving DecidableEq, Repr

/-- A cell's fields, but for the checks that follow from them (R244, R245, R248). -/
structure CellFields where
  type   : Nat
  vc     : Nat
  cls    : Nat
  group  : Nat
  ref    : Nat
  seq    : Nat
  swash  : Nat := 0
  payload : Bytes
  ledger : Nat := 0
  tally  : Nat := 0
  again  : Option (Nat × Nat) := none
  retx   : Bool := false
  last   : Bool := false
  deriving DecidableEq, Repr

/-- A VC3 cell that waits for its slot (R45, R253): rank 0 time, 2 RECOVERY, 3 DELAY (hail and PRBS cells are formed
when they are sent), type, GROUP field and payload. -/
structure Vc3Item where
  rank    : Nat
  type    : Nat
  group   : Nat
  payload : Bytes
  deriving DecidableEq, Repr

/-- Where a receiver stands in the VC1 blocks of a group on a port (R325): the current block and its next cell, the bad
cells since the last good one, the block that is processed next, and whether a cell of that block is lost for good. -/
structure Vc1Rx where
  block  : Nat := 0
  next   : Nat := 0
  gaps   : Nat := 0
  take   : Nat := 0
  failed : Bool := false
  deriving DecidableEq, Repr

/-- A cell kept for repeat (R176). -/
structure KeptCell where
  tide : Nat
  slot : Nat
  vc   : Nat
  cell : Bytes
  deriving DecidableEq, Repr

/-- A link port. `tideFrame`: it sends the tide frame (R243); `mark`: the payload of slot 0 of the frame in progress;
`tx`: that frame's VC0 and VC1 cells by slot; `vc1` (each cell with its rail), `vc3`, `exprQueue`, `repeatOut`: what
waits to be sent; `hailSent`: the content of the last hail; `prbsTx`, `prbsTxSeq`, `scr`: the generator and the
scrambler; `wrr`: the VC2 flow served last and the cells it may still send; `load`: the last frame's non-idle cells in
per mille of slots 8 to 1,023; `seenReq`: the repeat requests received of late (slot, tide modulo 4, tide of receipt);
`badRepeats`: the requested slots whose repeats came bad; `qAt`: when the pending quarantine arose (R263); `rxTide`:
the partner sends the tide frame, as its last mark said (R254); `prbsWaits`: a PRBS check waits for its token (R401);
`measWaits`: a DELAY_MEAS waits, asked under the port's calibration token or not (R399, R402); `exch`: the automatic delay
exchange (0 none, 1 due in this tide, 2 deferred, 3 granted, R399, R401); `hailHold`: when an exchange ended for which a hail
waits; `leftSignal`: the port has left SIGNAL since reset (R394). -/
structure PortState where
  enable     : Bool := true
  prbs       : Bool := false
  link       : Link := .off
  qreason    : Nat := 0
  polarity   : BitVec 4 := 0
  vc3Only    : Bool := false
  align      : Units := 0
  marks      : Nat := 0
  residual   : Units := 0
  samples    : List Units := []
  drifted    : Bool := false
  lp         : Nat := 0
  phi        : Units := 0
  nb         : Neighbour := {}
  qPending   : Option Nat := none
  qAt        : Nat := 0
  lastHail   : Nat := 0
  hailDue    : Bool := false
  delayReq   : Option DelayReq := none
  delayId    : Nat := 0
  remeasure  : Option Remeasure := none
  measWaits  : Option Bool := none
  exch       : Nat := 0
  hailHold   : Option Nat := none
  requests   : List (Nat × Nat) := []
  seenReq    : List (Nat × Nat × Nat) := []
  asked      : List (Nat × Nat) := []
  repaired   : List (Nat × Nat) := []
  badRepeats : List Nat := []
  kept       : List KeptCell := []
  retxDone   : List Nat := []
  exprQueue  : List Word64 := []
  exprFirst  : List (Word64 × Nat) := []
  prbsRx     : Option Nat := none
  prbsSeq    : Nat := 0
  prbsWaits  : Bool := false
  localCount : Nat := 0
  rxTide     : Bool := false
  tideFrame  : Bool := false
  mark       : Option Bytes := none
  tx         : Tbl Bytes := []
  vc1        : List (Nat × CellFields) := []
  vc3        : List Vc3Item := []
  repeatOut  : List (Nat × Nat) := []
  hailSent   : Option Hail := none
  prbsTx     : Nat := 1
  prbsTxSeq  : Nat := 0
  scr        : Nat := 0
  wrr        : Nat × Nat := (0, 0)
  load       : Nat := 0
  driftBar   : Bool := false
  leftSignal : Bool := false
  lastReq    : Option Nat := none
  deriving DecidableEq, Repr

/-! ### Queues and operations -/

/-- Where a fetched operation stands. -/
inductive OpPhase where
  | waiting | running | deferred | done
  deriving DecidableEq, Repr

/-- The fold of a deferred operation (R154). -/
inductive FoldPhase where
  | none | due | running | done
  deriving DecidableEq, Repr

/-- What a launched exchange latched at its check tide, and its course (R140, R153, R190, R216). `chunks` lists the
chunks carried, in the order of the dealing; `replays` the chunk sets of the replay rounds so far. -/
structure Launch where
  bucket    : Nat
  s0        : Nat
  et        : Int
  fallback  : Bool
  gen       : Nat
  levels    : List Int
  n         : Nat
  rails     : Nat
  deferred  : Bool
  chunks    : List Nat
  replays   : List (List Nat)
  waiting   : List Nat
  fold      : FoldPhase
  tallyShort : Bool
  deriving DecidableEq, Repr

/-- A fetched descriptor with its course (R315, R316). `readyAt` is the tide it was found ready; `lastLaunch` the launch of
an attempt of the step that was aborted (R215); `books` the codebook slots (number, slot) on which the operation holds
references, one for each time it latched a generation in the step (R299). -/
structure QueueOp where
  index    : Nat
  raw      : Bytes
  phase    : OpPhase := .waiting
  readyAt  : Option Nat := none
  seq      : Nat := 0
  varied   : Bool := false
  replayed : Bool := false
  launch   : Option Launch := none
  lastLaunch : Option Launch := none
  slip     : Option Nat := none
  spareDone : Bool := false
  books    : List (Nat × Nat) := []
  recorded : Bool := false
  deriving DecidableEq, Repr

/-- A completion record that waits for its write: the tide of the completion, bytes without PHASE, and the trigger add
that follows it (R322, R328). -/
structure DueRecord where
  tide  : Nat
  index : Nat
  bytes : Bytes
  add   : Option (Nat × Nat)
  deriving DecidableEq, Repr

/-- STATE of QUEUE_STATUS (R314). -/
inductive QState where
  | stopped | running | stopping | error
  deriving DecidableEq, Repr

/-- A group's queue (R311 to R314). `waitedAt`: the tide of the last completion that STOPPING has waited for (R426). -/
structure Queue where
  base      : Nat := 0
  complBase : Nat := 0
  tail      : Word32 := 0
  fetch     : Word32 := 0
  complTail : Word32 := 0
  complHead : Word32 := 0
  state     : QState := .stopped
  tailErr   : Bool := false
  fetchErr  : Bool := false
  complErr  : Bool := false
  lastCode  : Nat := 0
  lastAbort : Nat := 0xFFFFFFFF
  seq       : Nat := 0
  waitedAt  : Option Nat := none
  ops       : List QueueOp := []
  written   : List DueRecord := []
  due       : List DueRecord := []
  deriving DecidableEq, Repr

/-! ### Groups -/

/-- Step states of R200. -/
inductive StepState where
  | closed | exchange | released | applied | aborted | recovering
  deriving DecidableEq, Repr

/-- What an accepted ARM took from RECOVERY_CTRL and RECOVERY_TR (R352): action 0 RESUME, 1 SUBSTITUTE, 2 SKIP. -/
structure Armed where
  action : Nat
  table  : Nat
  tR     : Nat
  deriving DecidableEq, Repr

structure RecoveryCtrl where
  action   : Nat := 0
  table    : Nat := 0
  skip     : Bool := false
  status   : Nat := 0
  conflict : Bool := false
  tR       : Nat := 0
  armed    : Option Armed := none
  deriving DecidableEq, Repr

/-- PHASE of a chunk context (R150). -/
inductive CtxPhase where
  | free | launched | ebbWait | ebbSent | ownerDone | floodWait | delivered | replay
  deriving DecidableEq, Repr

/-- A chunk context (R150) with what the hop keeps beside it: statistics of the attempt (R98), ledgers for the step
record (R206), the verdict messages (R166) and saturated positions (R81). -/
structure Ctx where
  number    : Nat := 0
  phase     : CtxPhase := .free
  group     : Nat := 0
  bucket    : Nat := 0
  chunk     : Nat := 0
  opIndex   : Nat := 0
  step      : Nat := 0
  fb        : Bool := false
  gen       : Nat := 0
  sparse    : Bool := false
  cells     : Nat := 0
  rail      : Nat := 0
  role      : Nat := 0
  deferred  : Bool := false
  owner     : Nat := 0
  tally     : Nat := 0
  part      : Nat := 0
  mayVary   : Bool := false
  ledger    : Nat := 0
  outAddr   : Nat := 0
  inAddr    : Nat := 0
  retainAt  : Nat := 0
  start     : Nat := 0
  round     : Nat := 0
  bay       : Nat := 0
  firstCell : Nat := 0
  ownPass   : Bool := false
  checked   : Bool := false
  vTaken    : Bool := false
  vPass     : Bool := false
  replays   : Nat := 0
  errCode   : Nat := 0
  parked    : Option Nat := none
  ebbIn     : Nat := 0
  ebbOut    : Nat := 0
  flood     : Nat := 0
  ebbDone   : Bool := false
  floodDone : Bool := false
  nonfinite : Bool := false
  clip      : Nat := 0
  ovf       : Nat := 0
  vHeld     : Option Word64 := none
  vResult   : Option Nat := none
  replayKind : Nat := 0
  cove      : Nat := 0
  deriving DecidableEq, Repr

/-- Statistics of one bucket in the step, at the levels of R12 (R97, R98): per bay the binary32 code of the largest |x|
and the outlier overflow, per physical cove (16 · bay + cove) the clipped codes. The reduced values are those of the STAT
instances (R165). -/
structure BucketStats where
  bayMax  : Tbl Nat := []
  coveClip : Tbl Nat := []
  bayOvf  : Tbl Nat := []
  entered : Bool := false
  deriving DecidableEq, Repr

/-- One express case of the group other than VERDICT and ABORT (R160, R161). -/
structure Express where
  kind      : Nat
  tag       : Nat
  op        : Nat := 0
  own       : Option Word32 := none
  held      : Option Word64 := none
  since     : Nat := 0
  forwarded : Option Nat := none
  result    : Option Word32 := none
  flag      : Bool := false
  effectAt  : Option Nat := none
  late      : Bool := false
  lost      : Bool := false
  done      : Bool := false
  deriving DecidableEq, Repr

/-- An abort in progress (R169): tokens are (code, VALUE). -/
structure AbortState where
  kept      : Nat × Nat
  own       : List (Nat × Nat)
  sentAt    : Nat
  changedAt : Nat
  firstAt   : Nat
  returned  : Bool
  reported  : Bool
  deriving DecidableEq, Repr

/-- A step record entry (R206). `attempt`: the attempt whose hop it shows, kept beside it. -/
structure RecEntry where
  chunk     : Nat
  bucket    : Nat
  released  : Bool := false
  deferred  : Bool := false
  owner     : Bool := false
  delivered : Bool := false
  verdict   : Nat := 0
  replays   : Nat := 0
  ownPass   : Bool := false
  vTaken    : Bool := false
  ebbIn     : Nat := 0
  ebbOut    : Nat := 0
  flood     : Nat := 0
  attempt   : Nat := 0
  lost      : Bool := false
  deriving DecidableEq, Repr

/-- A step record (R206). -/
structure StepRecord where
  step        : Nat := 0
  state       : StepState := .closed
  table       : Nat := 0
  n           : Nat := 0
  position    : Nat := 0
  abortCode   : Nat := 0
  abortChunk  : Nat := 0xFFFFF
  abortBucket : Nat := 0xFFF
  attempt     : Nat := 0
  base        : Nat := 0
  done        : Nat := 0
  firmware    : Nat := 0
  mapHash     : Nat := 0
  entries     : List RecEntry := []
  deriving DecidableEq, Repr

/-- A step ledger entry (R373, R374). -/
structure LedgerEntry where
  kind    : Nat
  group   : Nat
  bucket  : Nat
  step    : Nat
  attempt : Nat
  arg     : Nat
  tide    : Nat
  lost    : Bool := false
  deriving DecidableEq, Repr

/-- A diagnosis report entry (R356). -/
structure DiagEntry where
  chunk    : Nat
  bucket   : Nat
  result   : Nat
  firstPos : Nat
  deriving DecidableEq, Repr

/-- A diagnosis report (R356): whether the replay ended early, its step and its entries. -/
structure DiagReport where
  incomplete : Bool
  step       : Nat
  entries    : List DiagEntry
  deriving DecidableEq, Repr

/-- DIAG_CTRL (R351) and the report. -/
structure Diag where
  busy       : Bool := false
  done       : Bool := false
  incomplete : Bool := false
  report     : Option DiagReport := none
  deriving DecidableEq, Repr

/-- What retention keeps of a chunk (R205): its flood cells, and for the owner the wide sum; with the launch, the
bays of its hop and of its delivery, and the counts of its hop with the cove position that made them. -/
structure Retained where
  bucket : Nat
  chunk  : Nat
  cells  : List Bytes
  wide   : Option (List Int)
  indices : List (Nat × Nat)
  marks   : List Nat
  ebbCells : List Bytes
  clip   : Nat
  ovf    : Nat
  cove   : Nat
  ebbBay : Nat
  launch : Option Launch
  bay    : Nat
  deriving DecidableEq, Repr

/-- A release made in the step (R201). -/
structure Release where
  bucket : Nat
  chunk  : Nat
  unit   : Nat
  rseq   : Word32
  tide   : Nat
  length : Nat
  addr   : Nat
  deriving DecidableEq, Repr

/-- A DECIDE held by a member (R210). -/
structure Decision where
  action : Nat
  table  : Nat
  tR     : Nat
  set    : List Nat
  acked  : Bool
  code   : Nat
  deriving DecidableEq, Repr

/-- Recovery bookkeeping (R210, R211, R213, R258). `wasLost`: the member restarted while the other members were in the step
or in its recovery, and so was lost to them; `spare`: the engine joined the step by a SUBSTITUTE (R216); `action`: the action
last carried out. Cells collected are kept with their kind (0 PROPOSE, 1 CENSUS, 2 DECIDE, 3 ACK). -/
structure Recovery where
  round        : Nat := 0
  reports      : Nat := 0
  cells        : List (Nat × RecoveryCell) := []
  firstPropose : Option Nat := none
  rejoinUntil  : Option Nat := none
  decision     : Option Decision := none
  heldDecide   : Bool := false
  lostChip     : Nat := 0xFFFFF
  fromState    : StepState := .closed
  rejoined     : Bool := false
  wasLost      : Bool := false
  substituted  : Bool := false
  spare        : Bool := false
  action       : Nat := 0
  releasedSet  : List Nat := []
  timedOut     : Bool := false
  deriving DecidableEq, Repr

/-- A group. `movable`, `tilesFast`: the spill tiles and folds that its queue has run against the current step under
DYN_BALANCE at their planned rate, and the spill tiles above that rate (R370, R374). -/
structure Group where
  established : Bool := false
  step        : Nat := 0
  state       : StepState := .closed
  openRefused : Bool := false
  writeIgnored : Bool := false
  abortCode   : Nat := 0
  hold        : Bool := false
  actHeld     : Bool := false
  rc          : RecoveryCtrl := {}
  sigma       : Nat := 0
  base        : Nat := 0
  table       : Nat := 0
  attempt     : Nat := 0
  openAt      : Option Nat := none
  stepOpen    : Bool := false
  releasedAt  : Option Nat := none
  ctxs        : List Ctx := []
  parkCount   : Nat := 0
  stats       : Tbl BucketStats := []
  express     : List Express := []
  abort       : Option AbortState := none
  recovery    : Recovery := {}
  record      : Option StepRecord := none
  lastRecord  : Option StepRecord := none
  ledger      : List LedgerEntry := []
  lastLedger  : List LedgerEntry := []
  diag        : Diag := {}
  retained    : List Retained := []
  releases    : List Release := []
  written     : List Nat := []
  movable     : Nat := 0
  tilesFast   : Nat := 0
  deriving DecidableEq, Repr

/-- A bucket's latched state (R353). -/
structure BucketState where
  defined  : Bool := false
  et       : Int := 0
  fallback : Bool := false
  hold     : Nat := 0
  selector : Bool := false
  gen      : Nat := 0
  qMax     : Nat := 0
  clip     : Nat := 0
  ovf      : Nat := 0
  step     : Nat := 0
  deriving DecidableEq, Repr

/-! ### Memories, units, transfers, spill -/

/-- A received cell in staging (R21): the chunk it belongs to by group, lap, rail and plan reference, and its index. -/
structure StagedCell where
  group : Nat
  lap   : Nat
  rail  : Nat
  ref   : Nat
  index : Nat
  tide  : Nat
  cell  : Bytes
  port  : Nat := 0
  deriving DecidableEq, Repr

/-- An update unit as the engine sees it (R201, R202). -/
structure UpdateUnit where
  rseq    : Word32 := 0
  applied : Word32 := 0
  deriving DecidableEq, Repr

/-- A PUT or GET in progress (R323). -/
structure Transfer where
  group   : Nat
  index   : Nat
  isPut   : Bool
  blocks  : Nat
  acked   : Nat
  deriving DecidableEq, Repr

/-- A VC2 flow on one port (R326): cells in the window and not acknowledged, how many of them have gone out since the
last resend, and how many ever (`begun`), cells that wait for the window, each with its LAST flag; whether the cell last
acknowledged left a block unfinished; whether an ACK is due; the stream received and not yet processed. -/
structure Flow where
  acked   : Word32 := 0
  expect  : Word32 := 0
  unacked : List (Bytes × Bool) := []
  sent    : Nat := 0
  begun   : Nat := 0
  inBlock : Bool := false
  waiting : List (Bytes × Bool) := []
  since   : Nat := 0
  resends : Nat := 0
  ackDue  : Bool := false
  rx      : List (Bytes × Bool) := []
  deriving DecidableEq, Repr

/-- A spill operation (R234, R235): the tide it became ready in, the next tile, the tide that last processed tiles of it. -/
structure SpillOp where
  group   : Nat
  index   : Nat
  isStore : Bool
  newPass : Bool
  first   : Nat
  count   : Nat
  stride  : Nat
  grid    : Nat
  addr    : Nat
  readyAt : Nat
  next    : Nat
  lastTide : Option Nat := none
  escaped : Nat
  overBound : Nat
  stale   : Nat
  bad     : Nat
  deriving DecidableEq, Repr

structure Area where
  cursor  : Nat := 0
  pass    : Nat := 0
  running : Option SpillOp := none
  waiting : List SpillOp := []
  escTide : Nat := 0
  escUsed : Nat := 0
  deriving DecidableEq, Repr

/-! ### Events, counters, snapshots -/

/-- A raised event waiting for its rings (R384, R386). `group`: that of a class G record, the ones that set HAS_GROUP (DESIGN
CHOICE, log entry 135). `ledger` replaces SUBJECT, ARG and REPEAT in a LEDGER record. -/
structure Event where
  type     : Nat
  severity : Nat
  code     : Nat := 0
  group    : Option Nat := none
  tide     : Nat := 0
  subject  : Nat := 0
  arg      : Nat := 0
  repeats  : Nat := 1
  ledger   : Option Bytes := none
  rings    : List Nat := []
  deriving DecidableEq, Repr

/-- A coalescing window of one ring (R387). -/
structure Window where
  type    : Nat
  group   : Option Nat
  subject : Nat
  tide    : Nat
  held    : Nat
  deriving DecidableEq, Repr

/-- An event ring (R329). `dropTide`: the tide of the event dropped last. -/
structure EventRing where
  base        : Nat := 0
  enable      : Bool := false
  size        : Nat := 0
  head        : Word32 := 0
  tail        : Word32 := 0
  overflow    : Bool := false
  ctrlIgnored : Bool := false
  writeFault  : Bool := false
  dropped     : Nat := 0
  dropTide    : Nat := 0
  windows     : List Window := []
  deriving DecidableEq, Repr

structure Counter where
  count : Nat := 0
  ovf   : Bool := false
  deriving DecidableEq, Repr

/-- Statistics (R357 to R361): engine counters by index, port counters by 32 · port + j, partition copies by
32 · partition + k. -/
structure Stats where
  engine : Tbl Counter := []
  port   : Tbl Counter := []
  part   : Tbl Counter := []
  deriving DecidableEq, Repr

/-- What a snapshot took at its boundary: the INVALID bits, SNAP_TAG and the values of all selectors (R360, R383). -/
structure SnapCatch where
  invalid : Nat
  tag     : Nat
  vals    : Tbl Nat
  deriving DecidableEq, Repr

/-- A snapshot page. `caught`: what the boundary has taken and the registers do not show yet. -/
structure SnapPage where
  pending : Bool := false
  askedAt : Nat := 0
  invalid : Nat := 0
  tag     : Nat := 0
  sel     : Tbl Nat := []
  vals    : Tbl Nat := []
  caught  : Option SnapCatch := none
  frozen  : Option TideSnap := none
  deriving DecidableEq, Repr

structure CtxInspect where
  sel     : Nat := 0
  ready   : Bool := false
  invalid : Bool := false
  asked   : Bool := false
  askedAt : Nat := 0
  data    : Bytes := []
  deriving DecidableEq, Repr

/-! ### Partitions, host access, maintenance, test access -/

/-- Partition states (R308). -/
inductive PState where
  | detached | attached | quiescing | quiesced
  deriving DecidableEq, Repr

structure Parts where
  state      : List PState := [.detached, .detached, .detached, .detached, .detached, .detached, .detached, .detached]
  attachAsked : List Nat := []
  forced     : List Nat := []
  quietAt    : Tbl Nat := []
  privGrant  : BitVec 8 := 0
  cmdIgnored : Bool := false
  deriving DecidableEq, Repr

/-- Latches of the host access port (R305, R334), per source tag: (tag, address, value). -/
structure HostPort where
  readHigh : List (Nat × Nat × Nat) := []
  writeLow : List (Nat × Nat × Nat) := []
  deriving DecidableEq, Repr

/-- A bay's coves and self-test (R17 to R19, R347, R391): the standby cove, and the physical cove at each of the 15 logical
positions. -/
structure BayTest where
  standby : Nat := 0
  phys    : List Nat := [1, 2, 3, 4, 5, 6, 7, 8, 9, 10, 11, 12, 13, 14, 15]
  absent  : Bool := false
  slice   : Nat := 0
  failed  : Bool := false
  passed  : Bool := false
  deriving DecidableEq, Repr

/-- Resources of R400. -/
inductive Resource where
  | ts (port : Nat) | nb (port : Nat) | prbs (port : Nat) | tan (bay : Nat) | stk (stack : Nat)
  deriving DecidableEq, Repr

/-- A token held (R400): activity code, resource number, when granted, whether the hall controller's. -/
structure Token where
  activity : Nat
  resource : Nat
  granted  : Nat
  ofHall   : Bool
  deriving DecidableEq, Repr

/-- `wrote`: the stack units that scheduled work has written in the tide in progress (R396); `partWritten`: the ranges (unit,
first byte, end) of units found bad that have been written since (R404); `found`, `fixed`: the units in which patrol and a
requested sweep have found uncorrectable and correctable errors in it; `sliceAt`: the tide whose slice was granted (R401);
`extra`: a tide, and the stack bytes and lane-operations that spill tiles above their planned rate have taken in it (R370). -/
structure Maint where
  rotate     : Bool := true
  bays       : Tbl BayTest := []
  lastFail   : Nat := 0
  tokens     : List Token := []
  status     : Nat := 0
  conflict   : Nat := 0
  conflictRes : Nat := 0
  asked      : Option (Nat × Nat) := none
  sweeps     : Nat := 0
  scrubAt    : Nat := 0
  sweep      : Option (Nat × Nat) := none
  selfFails  : List (Nat × Nat × Nat) := []
  takeovers  : List (Nat × Nat) := []
  retiring   : List Nat := []
  rotateTide : Bool := true
  lastSlice  : Option Nat := none
  lastScrub  : Option Nat := none
  wrote      : List Nat := []
  partWritten : List (Nat × Nat × Nat) := []
  found      : List Nat := []
  fixed      : List Nat := []
  sliceAt    : Option Nat := none
  swapAt     : Option Nat := none
  tableAt    : Option Nat := none
  extra      : Nat × Nat × Nat := (0, 0, 0)
  deriving DecidableEq, Repr

structure Tap where
  instr   : TapInstr := .bypass
  trstLow : Bool := false
  deriving DecidableEq, Repr

/-- What Hold entry keeps of the state (R409). -/
structure Saved where
  buckets  : Tbl BucketState
  areas    : Tbl Area
  groups   : Tbl Group
  parts    : Parts
  queues   : Tbl Queue
  triggers : Tbl Word32
  rings    : Tbl EventRing
  events   : List Event
  hash     : Bytes
  deriving DecidableEq, Repr

/-! ### What the engine sends out -/

/-- What the engine puts out at its interfaces (R3): frames of cells with the symbols of the four lanes, writes through the
fabric port that the image binds, records, release records, register reads, PPS pulses (the internal time of the edge), the
end of a pulse that is cut short, the start of fabric reads through a fabric port, the reads of a range of compute memory
through one, and the bits that leave the test access port. -/
inductive Output where
  | frame (port : Nat) (tide : Bool) (count : Nat) (cells : List Bytes) (lanes : List (List Nat))
  | memWrite (fabric : Nat) (addr : Nat) (bytes : Bytes)
  | completion (group : Nat) (addr : Nat) (bytes : Bytes)
  | eventRecord (ring : Nat) (addr : Nat) (bytes : Bytes)
  | release (unit : Nat) (record : Bytes)
  | readData (tag : Nat) (value : Nat)
  | ppsPulse (edge : Units) (widthUs : Nat)
  | ppsLow
  | fetchReads (fabric : Nat) (group : Nat) (bucket : Nat)
  | memRead (fabric : Nat) (addr : Nat) (len : Nat)
  | tapData (instr : TapInstr) (bits : List Bool)
  deriving DecidableEq, Repr

end Sys2Proof.Machine
end

