-- ==== Sys2Proof/Machine/State.lean ====
section
/-! DEFINITION. The state of the engine, the reasons a step could stop, and the state after reset. -/

namespace Sys2Proof.Machine

open Sys2Proof

/-- The engine's state (INVENTORY.md, State). `pending` is the queue of commands that wait; `out` is what the engine
has put out at its interfaces, oldest first. -/
structure State where
  pending  : List Instr := []
  out      : List Output := []
  ident    : Identity := {}
  power    : Power := {}
  saved    : Option Saved := none
  nv       : NvState := {}
  time     : TimeState := {}
  cal      : CalState := {}
  ports    : Tbl PortState := []
  image    : ImageState := {}
  books    : Tbl Codebook := []
  bookRegs : CodebookRegs := {}
  parts    : Parts := {}
  host     : HostPort := {}
  queues   : Tbl Queue := []
  triggers : Tbl Word32 := []
  groups   : Tbl Group := []
  buckets  : Tbl BucketState := []
  staging  : List StagedCell := []
  stack    : Mem := []
  badUnits : List Nat := []
  units    : Tbl UpdateUnit := []
  xfers    : List Transfer := []
  blockCount : Tbl Nat := []
  blockRx  : Tbl Vc1Rx := []
  flows    : Tbl Flow := []
  areas    : Tbl Area := []
  rings    : Tbl EventRing := []
  events   : List Event := []
  stats    : Stats := {}
  snaps    : Tbl SnapPage := []
  ctxView  : CtxInspect := {}
  recSel   : Nat := 0
  maint    : Maint := {}
  tap      : Tap := {}
  deriving DecidableEq, Repr

/-- Reasons for a fault. No command of this engine ends in a fault: what goes wrong is reported in its registers,
counters, events and error codes (INVENTORY.md, Faults). The constructor is raised by no meaning; it is safe. -/
inductive Fault where
  /-- Raised by nothing; safe. -/
  | unused
  deriving DecidableEq, Repr

/-- Reasons for a refusal. -/
inductive Refusal where
  /-- Raised by an arm of `exec` whose command has no meaning yet; safe. -/
  | notModelled (mnemonic : String)
  deriving DecidableEq, Repr

/-- The engine right after a power-on reset, before its start-up begins (R346, R416): every register at the reset
value the spec gives, memories and tables empty; the values it does not give are those of log entries 2 to 7. -/
def State.reset : State := {}

end Sys2Proof.Machine
end

