-- ==== Sys2Proof/Machine/Counters.lean ====
section
/-! DEFINITION. The names of the statistics counters with their indices: engine counters (R358), port counters (R359),
partition copies (R361). -/

namespace Sys2Proof.Machine

/-- Engine statistics counters (R358). -/
inductive EStat where
  | bistPass | coveRetired | bayRetired | sramCe | sramUe | stackCe | stackUe | ppsMissing | timeLost
  | holdoverEntry | holdoverExit | timePortSwitch | fmtMalformed | fmtZeroBlock | fmtFlush | fmtSatBlock
  | outlierSat | outlierOvf | accInexact | accSat | outSat | outUnderflow | meanEmpty | nonfiniteIn
  | nonfiniteZero | nonfiniteSkip | contribSat | resSat | resUnderflow | resDiscard | etHold | etClamp
  | fbEnter | fbPersist | fbExit | selShort | selTrim | selPad | selModeRefused | admitRefused | deferOps
  | deferFold | slipTides | ringLinkLost | expressLate | expressMismatch | scalarSat | ownCheckFail
  | recvCheckFail | hopSelfFail | verdictFail | replayEbb | replayFlood | replayExhausted | replayMismatch
  | releaseResent | commit | memberLost | commitTimeout | stepExhausted | recoveryConflict | recoveryTimeout
  | reapply | lateRelease | memberReplaced | stepDiscard | diagRun | spillEscaped | spillEscFull
  | spillEscRate | spillNonfinite | spillStale | spillBad | spillOverBoundLoad | spillLoadStall
  | imageMismatch | codebookBusy | codebookReplaced | partViolation | accessMalformed | descRefused
  | transferViolation | eventLost
  deriving DecidableEq, Repr

/-- Index of a counter in its block. -/
def EStat.index : EStat → Nat
  | .bistPass => 0
  | .coveRetired => 1
  | .bayRetired => 2
  | .sramCe => 3
  | .sramUe => 4
  | .stackCe => 5
  | .stackUe => 6
  | .ppsMissing => 8
  | .timeLost => 9
  | .holdoverEntry => 10
  | .holdoverExit => 11
  | .timePortSwitch => 12
  | .fmtMalformed => 16
  | .fmtZeroBlock => 17
  | .fmtFlush => 18
  | .fmtSatBlock => 19
  | .outlierSat => 20
  | .outlierOvf => 21
  | .accInexact => 22
  | .accSat => 23
  | .outSat => 24
  | .outUnderflow => 25
  | .meanEmpty => 26
  | .nonfiniteIn => 27
  | .nonfiniteZero => 28
  | .nonfiniteSkip => 29
  | .contribSat => 30
  | .resSat => 32
  | .resUnderflow => 33
  | .resDiscard => 34
  | .etHold => 35
  | .etClamp => 36
  | .fbEnter => 37
  | .fbPersist => 38
  | .fbExit => 39
  | .selShort => 40
  | .selTrim => 41
  | .selPad => 42
  | .selModeRefused => 43
  | .admitRefused => 44
  | .deferOps => 45
  | .deferFold => 46
  | .slipTides => 47
  | .ringLinkLost => 48
  | .expressLate => 49
  | .expressMismatch => 50
  | .scalarSat => 51
  | .ownCheckFail => 52
  | .recvCheckFail => 53
  | .hopSelfFail => 54
  | .verdictFail => 55
  | .replayEbb => 56
  | .replayFlood => 57
  | .replayExhausted => 58
  | .replayMismatch => 59
  | .releaseResent => 60
  | .commit => 61
  | .memberLost => 62
  | .commitTimeout => 63
  | .stepExhausted => 64
  | .recoveryConflict => 65
  | .recoveryTimeout => 66
  | .reapply => 67
  | .lateRelease => 68
  | .memberReplaced => 69
  | .stepDiscard => 70
  | .diagRun => 71
  | .spillEscaped => 72
  | .spillEscFull => 73
  | .spillEscRate => 74
  | .spillNonfinite => 75
  | .spillStale => 76
  | .spillBad => 77
  | .spillOverBoundLoad => 78
  | .spillLoadStall => 79
  | .imageMismatch => 80
  | .codebookBusy => 81
  | .codebookReplaced => 82
  | .partViolation => 83
  | .accessMalformed => 84
  | .descRefused => 85
  | .transferViolation => 86
  | .eventLost => 87

/-- Port statistics counters (R359). -/
inductive PStat where
  | crcFail | vc2CrcDrop | retxSent | retxStale | retxOverflow | retxLost | retxFail | cellMalformed
  | cellMisplaced | delimErr | linkTrainFail | linkDown | fecDegrade | delayTimeout | prbsErr | quarantine
  | quarantineDrop | hailLost | ptpDiscard | portLatencyRefused | tideAlignFault | calDrift | calDriftAbort
  | expressMalformed | expressLost
  deriving DecidableEq, Repr

/-- Index of a counter in its block. -/
def PStat.index : PStat → Nat
  | .crcFail => 0
  | .vc2CrcDrop => 1
  | .retxSent => 2
  | .retxStale => 3
  | .retxOverflow => 4
  | .retxLost => 5
  | .retxFail => 6
  | .cellMalformed => 7
  | .cellMisplaced => 8
  | .delimErr => 9
  | .linkTrainFail => 10
  | .linkDown => 11
  | .fecDegrade => 12
  | .delayTimeout => 13
  | .prbsErr => 14
  | .quarantine => 15
  | .quarantineDrop => 16
  | .hailLost => 17
  | .ptpDiscard => 18
  | .portLatencyRefused => 19
  | .tideAlignFault => 20
  | .calDrift => 21
  | .calDriftAbort => 22
  | .expressMalformed => 23
  | .expressLost => 24

/-- Index of the partition copy of an engine counter, if it has one (R361). -/
def EStat.copyIndex : EStat → Option Nat
  | .eventLost => some 0
  | .partViolation => some 1
  | .accessMalformed => some 2
  | .descRefused => some 3
  | .admitRefused => some 4
  | .selModeRefused => some 5
  | .transferViolation => some 6
  | .commit => some 7
  | .deferOps => some 8
  | .deferFold => some 9
  | .slipTides => some 10
  | .verdictFail => some 11
  | .replayEbb => some 12
  | .replayFlood => some 13
  | .memberLost => some 14
  | .expressLate => some 15
  | .scalarSat => some 16
  | .nonfiniteIn => some 17
  | .outSat => some 18
  | .outUnderflow => some 19
  | .meanEmpty => some 20
  | .spillEscaped => some 21
  | .spillEscFull => some 22
  | .spillEscRate => some 23
  | .spillNonfinite => some 24
  | .spillStale => some 25
  | .spillBad => some 26
  | .spillOverBoundLoad => some 27
  | .spillLoadStall => some 28
  | _ => none

end Sys2Proof.Machine
end

