-- ==== Sys2Proof/Machine/Ops.lean ====
section
/-! DEFINITION. The named operations every meaning uses: bit fields and byte order (R5, R6), tables, byte memories,
access to the parts of the state, statistics counters (R381) and events (R384 to R389). -/

namespace Sys2Proof.Machine

open Sys2Proof

/-! ### Bit fields and byte order -/

/-- Bits [lo + n − 1 : lo] of a word. -/
def field (w lo n : Nat) : Nat := (w >>> lo) % 2 ^ n

/-- One bit of a word. -/
def bitAt (w i : Nat) : Bool := (w >>> i) % 2 == 1

/-- 1 or 0. -/
def bnat (b : Bool) : Nat := if b then 1 else 0

/-- The value of bytes in little-endian order (R5). -/
def leNat : Bytes → Nat
  | [] => 0
  | b :: bs => b.toNat + 256 * leNat bs

/-- The `n` low bytes of a value, least significant first (R5). -/
def leBytes : Nat → Nat → Bytes
  | 0, _ => []
  | n + 1, v => BitVec.ofNat 8 v :: leBytes n (v / 256)

/-- The value of bytes in big-endian order. -/
def beNat (b : Bytes) : Nat := leNat b.reverse

/-- `n` bytes in big-endian order. -/
def beBytes (n v : Nat) : Bytes := (leBytes n v).reverse

/-- The little-endian field of `n` bytes at offset `off`; bytes past the end count as zero. -/
def rd (b : Bytes) (off n : Nat) : Nat := leNat ((b.drop off).take n)

/-- `b` cut or filled with zeros to `n` bytes. -/
def padTo (n : Nat) (b : Bytes) : Bytes := b.take n ++ List.replicate (n - b.length) 0

/-- The signed value of a field of `n` bits. -/
def signed (n v : Nat) : Int := if v % 2 ^ n < 2 ^ (n - 1) then ((v % 2 ^ n : Nat) : Int) else ((v % 2 ^ n : Nat) : Int) - (2 ^ n : Nat)

/-- The field of `n` bits that holds a signed value. -/
def unsigned (n : Nat) (v : Int) : Nat := (v % ((2 ^ n : Nat) : Int)).toNat

/-- A value kept within bounds. -/
def clampInt (lo hi v : Int) : Int := if v < lo then lo else if hi < v then hi else v

/-- `ceil (a / b)`. -/
def ceilDiv (a b : Nat) : Nat := (a + b - 1) / b

/-- `a` is at or after `b` modulo 2^w, within half the range (R380). -/
def atOrAfter (w a b : Nat) : Bool := decide ((a + 2 ^ w - b % 2 ^ w) % 2 ^ w < 2 ^ (w - 1))

/-- The numbers below `n` from `a` on: a, …, a + n − 1. -/
def rangeFrom (a n : Nat) : List Nat := (List.range n).map (a + ·)

/-! ### Tables -/

/-- The entry for a key, or the default. -/
def Tbl.get {α : Type} (d : α) : Tbl α → Nat → α
  | [], _ => d
  | (k, v) :: t, i => if k = i then v else Tbl.get d t i

/-- Put an entry, keeping the keys rising. -/
def Tbl.set {α : Type} : Tbl α → Nat → α → Tbl α
  | [], i, x => [(i, x)]
  | (k, v) :: t, i, x =>
    if i < k then (i, x) :: (k, v) :: t
    else if k = i then (i, x) :: t
    else (k, v) :: Tbl.set t i x

/-- Change an entry. -/
def Tbl.mod {α : Type} (d : α) (t : Tbl α) (i : Nat) (f : α → α) : Tbl α := t.set i (f (t.get d i))

/-! ### Byte memories -/

/-- The byte at an address; zero where nothing is listed. -/
def Mem.read : Mem → Nat → Byte
  | [], _ => 0
  | (k, v) :: m, a => if k = a then v else Mem.read m a

/-- Write one byte, keeping the canonical form: addresses rising, no zero listed. -/
def Mem.write : Mem → Nat → Byte → Mem
  | [], a, b => if b = 0 then [] else [(a, b)]
  | (k, v) :: m, a, b =>
    if a < k then (if b = 0 then (k, v) :: m else (a, b) :: (k, v) :: m)
    else if k = a then (if b = 0 then m else (a, b) :: m)
    else (k, v) :: Mem.write m a b

/-- `n` bytes from an address on. -/
def Mem.readBytes (m : Mem) (a n : Nat) : Bytes := (rangeFrom a n).map m.read

/-- Bytes written from an address on. -/
def Mem.writeBytes : Mem → Nat → Bytes → Mem
  | m, _, [] => m
  | m, a, b :: bs => Mem.writeBytes (m.write a b) (a + 1) bs

/-- The entries below an address bound. -/
def Mem.below (m : Mem) (n : Nat) : Mem := m.filter (fun c => decide (c.1 < n))

/-- The canonical form of a byte memory. -/
def Mem.wf : Mem → Bool
  | [] => true
  | [(_, v)] => v != 0
  | (k, v) :: (k', v') :: m => v != 0 && decide (k < k') && Mem.wf ((k', v') :: m)

/-! ### Lists as small stores -/

/-- Replace the entries that a test picks. -/
def updateWhere {α : Type} (p : α → Bool) (f : α → α) (l : List α) : List α := l.map (fun x => if p x then f x else x)

/-- Add at the end unless already there. -/
def addOnce {α : Type} [DecidableEq α] (l : List α) (x : α) : List α := if x ∈ l then l else l ++ [x]

/-- Insert keeping the order of `le`, before the first entry it is at most. -/
def insertBy {α : Type} (le : α → α → Bool) (x : α) : List α → List α
  | [] => [x]
  | y :: l => if le x y then x :: y :: l else y :: insertBy le x l

/-- Sort; entries that `le` holds equal keep their order. -/
def sortBy {α : Type} (le : α → α → Bool) : List α → List α
  | [] => []
  | x :: l => insertBy le x (sortBy le l)

/-- Replace the i-th entry. -/
def setAt {α : Type} (l : List α) (i : Nat) (x : α) : List α := l.set i x

/-! ### The parts of the state -/

namespace State

def port (s : State) (p : Nat) : PortState := s.ports.get {} p
def setPort (s : State) (p : Nat) (v : PortState) : State := { s with ports := s.ports.set p v }
def modPort (s : State) (p : Nat) (f : PortState → PortState) : State := s.setPort p (f (s.port p))
def group (s : State) (g : Nat) : Group := s.groups.get {} g
def setGroup (s : State) (g : Nat) (v : Group) : State := { s with groups := s.groups.set g v }
def modGroup (s : State) (g : Nat) (f : Group → Group) : State := s.setGroup g (f (s.group g))
def queue (s : State) (g : Nat) : Queue := s.queues.get {} g
def setQueue (s : State) (g : Nat) (v : Queue) : State := { s with queues := s.queues.set g v }
def modQueue (s : State) (g : Nat) (f : Queue → Queue) : State := s.setQueue g (f (s.queue g))
def bucket (s : State) (b : Nat) : BucketState := s.buckets.get {} b
def setBucket (s : State) (b : Nat) (v : BucketState) : State := { s with buckets := s.buckets.set b v }
def trigger (s : State) (n : Nat) : Word32 := s.triggers.get 0 n
def setTrigger (s : State) (n : Nat) (v : Word32) : State := { s with triggers := s.triggers.set n v }
def area (s : State) (a : Nat) : Area := s.areas.get {} a
def setArea (s : State) (a : Nat) (v : Area) : State := { s with areas := s.areas.set a v }
def ring (s : State) (r : Nat) : EventRing := s.rings.get {} r
def setRing (s : State) (r : Nat) (v : EventRing) : State := { s with rings := s.rings.set r v }
def book (s : State) (c : Nat) : Codebook := s.books.get {} c
def setBook (s : State) (c : Nat) (v : Codebook) : State := { s with books := s.books.set c v }
def unit (s : State) (u : Nat) : UpdateUnit := s.units.get {} u
def setUnit (s : State) (u : Nat) (v : UpdateUnit) : State := { s with units := s.units.set u v }
def flow (s : State) (f : Nat) : Flow := s.flows.get {} f
def setFlow (s : State) (f : Nat) (v : Flow) : State := { s with flows := s.flows.set f v }
/-- The block counts of a group start again, at both ends of its links (R325). Keys are 64 · group + port. -/
def resetBlocks (s : State) (g : Nat) : State :=
  { s with blockCount := s.blockCount.filter (fun x => x.1 / 64 != g), blockRx := s.blockRx.filter (fun x => x.1 / 64 != g) }
def snap (s : State) (p : Nat) : SnapPage := s.snaps.get {} p
def setSnap (s : State) (p : Nat) (v : SnapPage) : State := { s with snaps := s.snaps.set p v }
def bay (s : State) (b : Nat) : BayTest := s.maint.bays.get {} b
def setBay (s : State) (b : Nat) (v : BayTest) : State := { s with maint := { s.maint with bays := s.maint.bays.set b v } }
def timePort (s : State) (p : Nat) : TimePort := s.time.ports.get {} p
def setTimePort (s : State) (p : Nat) (v : TimePort) : State :=
  { s with time := { s.time with ports := s.time.ports.set p v } }
def emit (s : State) (o : Output) : State := { s with out := s.out ++ [o] }
def emits (s : State) (os : List Output) : State := { s with out := s.out ++ os }

/-- The contents of the active image. -/
def img (s : State) : Option Image := s.image.active.image

/-- The partition state of R308; a number past 7 names none and counts as DETACHED. -/
def pstate (s : State) (p : Nat) : PState := s.parts.state.getD p .detached
def setPstate (s : State) (p : Nat) (v : PState) : State :=
  { s with parts := { s.parts with state := setAt s.parts.state p v } }

/-- Ring number of the hall controller's event ring; 0 to 7 are the partitions' (R329, R362). -/
def hallRing : Nat := 8

/-! ### Events (R384 to R389) -/

/-- OWNER of a group under the active image (R284). -/
def groupOwner (s : State) (g : Nat) : Option Nat :=
  (s.img.bind (fun im => im.groups.find? (fun d => d.group == g))).map (·.owner)

/-- Units of R27 in a nanosecond, and in a tide (R41). -/
def nsUnits : Nat := 65536
def tideUnits : Nat := 2560 * nsUnits

/-- The hall epoch in units of R27 (R41, R274). -/
def epochOf (im : Image) : Nat := (im.epochSec * 1000000000 + im.epochNs) * nsUnits

/-- Hall time is earlier than the active image's epoch; without an active image there is no epoch to have passed. -/
def beforeEpoch (s : State) : Bool :=
  match s.img with
  | some im => decide (s.time.hall < epochOf im)
  | none => true

/-- The tide, or before the epoch the local frame count, that an event records (R384). -/
def eventTide (s : State) : Nat := if s.beforeEpoch then s.time.localFrames else s.time.tide

/-- Rings of routing class E, G, P and A (R386). A DETACHED partition receives nothing. -/
def ringsE (_ : State) : List Nat := [hallRing]
def ringsP (s : State) (p : Nat) : List Nat :=
  if p < 8 && s.pstate p != .detached then [hallRing, p] else [hallRing]
def ringsG (s : State) (g : Nat) : List Nat :=
  match s.groupOwner g with
  | some p => s.ringsP p
  | none => [hallRing]
def ringsA (s : State) : List Nat := hallRing :: (List.range 8).filter (fun p => s.pstate p != .detached)

/-- Types whose records are never coalesced beside those of severity ERROR and CRITICAL: LEDGER, STEP_ABORT and
EVENT_OVERFLOW (R387). -/
def coalesces (e : Event) : Bool :=
  decide (e.severity ≤ 2) && e.type != 0x0003 && e.type != 0x0010 && e.type != 0x0002

def sameEvent (a b : Event) : Bool :=
  a.type == b.type && a.group == b.group && a.subject == b.subject && a.rings == b.rings && a.tide == b.tide

/-- Raise an event: it waits for EVENT_RECORD_WRITE. Occurrences of one tide are folded into one record (R387). -/
def raise (s : State) (e : Event) : State :=
  let e := { e with tide := s.eventTide }
  if coalesces e && s.events.any (sameEvent e) then
    let again (x : Event) : Event := { x with repeats := Nat.min (x.repeats + 1) 0xFFFFFFFF }
    { s with events := updateWhere (sameEvent e) again s.events }
  else { s with events := s.events ++ [e] }

/-! ### Statistics counters (R357, R381) -/

/-- Largest COUNT. -/
def countMax : Nat := 0xFFFFFFFFFFFF

/-- Add to a counter: it saturates, and the second part tells whether OVF has just been set. -/
def addCounter (c : Counter) (k : Nat) : Counter × Bool :=
  if c.ovf then (c, false)
  else if c.count + k > countMax then ({ count := countMax, ovf := true }, true)
  else ({ c with count := c.count + k }, false)

/-- The STAT_OVERFLOW event of a counter at a host access port address. -/
def overflowEvent (addr : Nat) (rings : List Nat) : Event :=
  { type := 0x0001, severity := 1, subject := addr, rings := rings }

/-- Add `k` to an engine counter. -/
def bumpBy (s : State) (c : EStat) (k : Nat) : State :=
  let r := addCounter (s.stats.engine.get {} c.index) k
  let s := { s with stats := { s.stats with engine := s.stats.engine.set c.index r.1 } }
  if r.2 then s.raise (overflowEvent (0x060000 + 8 * c.index) s.ringsE) else s

/-- Add 1 to an engine counter. -/
def bump (s : State) (c : EStat) : State := s.bumpBy c 1

/-- Add `k` to the copy of a counter that partition `p` sees (R361). -/
def bumpCopy (s : State) (c : EStat) (p k : Nat) : State :=
  match c.copyIndex with
  | none => s
  | some i =>
    if p < 8 then
      let r := addCounter (s.stats.part.get {} (32 * p + i)) k
      let s := { s with stats := { s.stats with part := s.stats.part.set (32 * p + i) r.1 } }
      if r.2 then s.raise (overflowEvent (0x01000000 + p * 0x100000 + 0x20100 + 8 * i) (s.ringsP p)) else s
    else s

/-- Add `k` to an engine counter for something of partition `p`, and to the partition's copy. -/
def bumpP (s : State) (c : EStat) (p k : Nat) : State := (s.bumpBy c k).bumpCopy c p k

/-- Add `k` to an engine counter for something of a group, and to its partition's copy. -/
def bumpG (s : State) (c : EStat) (g k : Nat) : State :=
  match s.groupOwner g with
  | some p => s.bumpP c p k
  | none => s.bumpBy c k

/-- Add `k` to a port counter. -/
def bumpPort (s : State) (p : Nat) (c : PStat) (k : Nat) : State :=
  let r := addCounter (s.stats.port.get {} (32 * p + c.index)) k
  let s := { s with stats := { s.stats with port := s.stats.port.set (32 * p + c.index) r.1 } }
  if r.2 then s.raise (overflowEvent (0x061000 + 256 * p + 8 * c.index) s.ringsE) else s

/-- COUNT of an engine counter. -/
def count (s : State) (c : EStat) : Nat := (s.stats.engine.get {} c.index).count

/-- COUNT of a port counter. -/
def portCount (s : State) (p : Nat) (c : PStat) : Nat := (s.stats.port.get {} (32 * p + c.index)).count

end State

/-! ### Ways a meaning ends -/

/-- The outcome of a meaning: the next state. -/
abbrev Result := Host.Outcome State Fault Refusal

/-- Powered and out of reset: the engine acts (R407, R408, R414). -/
def State.alive (s : State) : Bool := s.power.mode != .off && !s.power.modResetLow

/-- In Full or Idle and out of reset: everything but Hold's four registers answers (R408). -/
def State.running (s : State) : Bool := s.alive && s.power.mode != .hold

/-- Answer `f s` while the engine runs, and `s` unchanged otherwise. -/
def whenRunning (s : State) (f : State → State) : Result := .next (if s.running then f s else s)

/-- Answer `f s` while the engine is powered and out of reset, and `s` unchanged otherwise. -/
def whenAlive (s : State) (f : State → State) : Result := .next (if s.alive then f s else s)

end Sys2Proof.Machine
end

