-- ==== Sys2Proof/Machine/Exact.lean ====
section
/-! DEFINITION. Exact numbers m · 2^e, the rounding of R73, and the input and output formats of R62, R63, R82. -/

namespace Sys2Proof.Machine

open Sys2Proof

/-- The exact value m · 2^e. -/
structure Dy where
  m : Int
  e : Int
  deriving DecidableEq, Repr

namespace Dy

def zero : Dy := ⟨0, 0⟩
def ofInt (m : Int) : Dy := ⟨m, 0⟩

/-- The numerator of a value in units of 2^e, for e at most its own exponent. -/
def inUnits (x : Dy) (e : Int) : Int := x.m * 2 ^ (x.e - e).toNat

def add (x y : Dy) : Dy := let e := min x.e y.e; ⟨x.inUnits e + y.inUnits e, e⟩
def neg (x : Dy) : Dy := ⟨-x.m, x.e⟩
def sub (x y : Dy) : Dy := x.add y.neg
def scale (x : Dy) (k : Int) : Dy := ⟨x.m, x.e + k⟩
def isZero (x : Dy) : Bool := x.m == 0
def lt (x y : Dy) : Bool := decide (x.inUnits (min x.e y.e) < y.inUnits (min x.e y.e))
def le (x y : Dy) : Bool := !y.lt x
def abs (x : Dy) : Dy := ⟨(x.m.natAbs : Int), x.e⟩

end Dy

/-- Round num / den to an integer, ties away from zero (R73). -/
def roundAwayDiv (num : Int) (den : Nat) : Int :=
  let q : Int := (((2 * num.natAbs + den) / (2 * den) : Nat) : Int)
  if num < 0 then -q else q

/-- Round a / 2^k, ties away from zero, as the shift of R81 does. -/
def roundShift (a : Int) (k : Nat) : Int := roundAwayDiv a (2 ^ k)

/-- Round an exact value to an integer. -/
def Dy.round (x : Dy) : Int := if x.e < 0 then roundAwayDiv x.m (2 ^ (-x.e).toNat) else x.m * 2 ^ x.e.toNat

/-- A binary floating-point format. -/
structure Fmt where
  expBits  : Nat
  fracBits : Nat
  bias     : Int
  deriving DecidableEq, Repr

def fp32 : Fmt := ⟨8, 23, 127⟩
def fp16 : Fmt := ⟨5, 10, 15⟩
def bf16 : Fmt := ⟨8, 7, 127⟩

def Fmt.signBit (f : Fmt) : Nat := 2 ^ (f.expBits + f.fracBits)
def Fmt.maxCode (f : Fmt) : Nat := (2 ^ f.expBits - 1) * 2 ^ f.fracBits - 1

/-- The exact value of a code; none for infinities and NaNs (R62, R64). -/
def Fmt.decode (f : Fmt) (w : Nat) : Option Dy :=
  let ex := field w f.fracBits f.expBits
  let fr := field w 0 f.fracBits
  let sg : Int := if bitAt w (f.expBits + f.fracBits) then -1 else 1
  if ex = 2 ^ f.expBits - 1 then none
  else if ex = 0 then some ⟨sg * fr, 1 - f.bias - f.fracBits⟩
  else some ⟨sg * ((2 ^ f.fracBits + fr : Nat) : Int), (ex : Int) - f.bias - f.fracBits⟩

/-- The largest finite value. -/
def Fmt.maxValue (f : Fmt) : Dy := (f.decode f.maxCode).getD Dy.zero

/-- A magnitude exceeds the largest finite value, whatever it rounds to (R87, R89). -/
def Fmt.exceeds (f : Fmt) (x : Dy) : Bool := f.maxValue.lt x.abs

/-- What rounding to a format gives: the code, whether the magnitude went past the largest finite value, and whether a
non-zero value became zero (R82, R89). -/
structure Rounded where
  code  : Nat
  sat   : Bool
  under : Bool
  deriving DecidableEq, Repr

/-- Round (num / den) · 2^e once to a format: ties away from zero, subnormals kept, saturation at the largest finite
value, never a negative zero (R73, R82). -/
def Fmt.roundQuot (f : Fmt) (num : Int) (den : Nat) (e : Int) : Rounded :=
  let a := num.natAbs
  if a = 0 then ⟨0, false, false⟩
  else
    let la : Int := (Nat.log2 a : Int) - Nat.log2 den
    let below := if la < 0 then decide (a * 2 ^ (-la).toNat < den) else decide (a < den * 2 ^ la.toNat)
    let top := (if below then la - 1 else la) + e
    let q := max (top - f.fracBits) (1 - f.bias - f.fracBits)
    let sh := e - q
    let mant := if sh < 0 then roundAwayDiv a (den * 2 ^ (-sh).toNat) else roundAwayDiv (a * 2 ^ sh.toNat) den
    let code := ((q + f.fracBits + f.bias - 1) * 2 ^ f.fracBits + mant).toNat
    let sat := decide (f.maxCode < code)
    let c := if sat then f.maxCode else code
    ⟨if c = 0 then 0 else if num < 0 then c + f.signBit else c, sat, c == 0⟩

/-- Round an exact value once to a format. -/
def Fmt.round (f : Fmt) (x : Dy) : Rounded := f.roundQuot x.m 1 x.e

/-- The exact value of a finite code. -/
def Fmt.value (f : Fmt) (w : Nat) : Dy := (f.decode w).getD Dy.zero

/-- The exact value of a J8 code; none for its NaNs (R63). -/
def decodeJ8 (w : Nat) : Option Dy :=
  let f := field w 3 4
  let m := field w 0 3
  let sg : Int := if bitAt w 7 then -1 else 1
  if f = 0 then some ⟨sg * m, -10⟩
  else if f = 15 ∧ m = 7 then none
  else some ⟨sg * ((8 + m : Nat) : Int), (f : Int) - 11⟩

/-- Input formats of R62 by their IN_FMT code (R319). -/
inductive InFmt where
  | fp32 | fp16 | bf16 | j8
  deriving DecidableEq, Repr

def InFmt.ofCode : Nat → Option InFmt
  | 0 => some .fp32 | 1 => some .fp16 | 2 => some .bf16 | 3 => some .j8 | _ => none

def InFmt.width : InFmt → Nat
  | .fp32 => 4 | .fp16 => 2 | .bf16 => 2 | .j8 => 1

def InFmt.decode : InFmt → Nat → Option Dy
  | .fp32, w => Machine.fp32.decode w
  | .fp16, w => Machine.fp16.decode w
  | .bf16, w => Machine.bf16.decode w
  | .j8, w => decodeJ8 w

/-- Output formats of R82 and R83 by their OUT_FMT code (R319). -/
inductive OutFmt where
  | fp32 | bf16 | pair
  deriving DecidableEq, Repr

def OutFmt.ofCode : Nat → Option OutFmt
  | 0 => some .fp32 | 1 => some .bf16 | 2 => some .pair | _ => none

def OutFmt.width : OutFmt → Nat
  | .bf16 => 2 | _ => 4

/-- The value (num / den) · 2^e as an output element of R82 to R84: its code, and what R82 counts for it. -/
def OutFmt.convert (o : OutFmt) (num : Int) (den : Nat) (e : Int) : Rounded :=
  match o with
  | .fp32 => Machine.fp32.roundQuot num den e
  | .bf16 => Machine.bf16.roundQuot num den e
  | .pair =>
    let h := Machine.bf16.roundQuot num den e
    let hv := Machine.bf16.value h.code
    let ee := min e hv.e
    let rest : Int := num * 2 ^ (e - ee).toNat - hv.inUnits ee * den
    let l := Machine.bf16.roundQuot rest den ee
    ⟨h.code + 65536 * l.code, h.sat, h.code == 0 && l.code == 0 && num != 0⟩

/-- floor (log2 x) of a positive exact value. -/
def Dy.log2 (x : Dy) : Int := (Nat.log2 x.m.natAbs : Int) + x.e

/-! ### Vectors in one unit -/

/-- A vector of exact values v[i] · 2^e. -/
structure Vec where
  e : Int
  v : List Int
  deriving DecidableEq, Repr

/-- The same values in a finer unit. -/
def Vec.toUnit (x : Vec) (e : Int) : Vec := ⟨e, x.v.map (· * 2 ^ (x.e - e).toNat)⟩

def Vec.add (x y : Vec) : Vec :=
  let e := min x.e y.e
  ⟨e, List.zipWith (· + ·) (x.toUnit e).v (y.toUnit e).v⟩

def Vec.sub (x y : Vec) : Vec :=
  let e := min x.e y.e
  ⟨e, List.zipWith (· - ·) (x.toUnit e).v (y.toUnit e).v⟩

/-- Exact values brought to one unit. -/
def Vec.ofDys (l : List Dy) : Vec :=
  let e := l.foldl (fun a x => if x.isZero then a else min a x.e) 0
  ⟨e, l.map (fun x => if x.isZero then 0 else x.inUnits e)⟩

def Vec.toDys (x : Vec) : List Dy := x.v.map (fun a => ⟨a, x.e⟩)

/-- The first `k` pieces of `n` entries each. -/
def pieces {α : Type} (n : Nat) : Nat → List α → List (List α)
  | 0, _ => []
  | k + 1, l => l.take n :: pieces n k (l.drop n)

end Sys2Proof.Machine
end

