-- ==== Sys2Proof/Machine/Codec.lean ====
section
/-! DEFINITION. The short codes of spec/03: block encoding and decoding (R66 to R77), outlier entries (R72, R79,
R102 to R104), and the cell payloads of dense chunks (R70). Values are integers of the wide accumulator, in units of
2^(E_t − 40) (R78); the exponent e_b of a block becomes a shift. -/

namespace Sys2Proof.Machine

open Sys2Proof

/-! ### Parameters of an encoding -/

/-- How a chunk is encoded: the encoding, the K4 levels and generation, whether the fall-back is in force, and E_t. -/
structure Coding where
  enc    : Enc
  levels : List Int := []
  gen    : Nat := 0
  fb     : Bool := false
  et     : Int := 0
  deriving DecidableEq, Repr

/-- e_b + shiftOf is the shift of R68. -/
def shiftOf : Enc → Int
  | .t4 => 40 | .k4 => 37 | .s1 => 40 | .t8 => 36

def codeBits : Enc → Nat
  | .t4 => 4 | .k4 => 4 | .s1 => 1 | .t8 => 8

/-- Blocks per cell (R70). -/
def blocksPerCell : Enc → Nat
  | .t4 => 12 | .k4 => 12 | .s1 => 36 | .t8 => 6

def headerSize : Enc → Nat
  | .t8 => 4 | _ => 2

def codeBytes : Enc → Nat
  | .t4 => 16 | .k4 => 16 | .s1 => 4 | .t8 => 32

def elemsPerCell (e : Enc) : Nat := 32 * blocksPerCell e

/-- Where a cell's code bytes start (R70). -/
def codesAt (e : Enc) : Nat := headerSize e * blocksPerCell e

def level (c : Coding) (i : Nat) : Int := c.levels.getD i 0

/-- The clip limit of R68 in units of the accumulator. -/
def clipLimit (c : Coding) : Int :=
  match c.enc with
  | .t4 => 7 * 2 ^ 47
  | .k4 => min (level c 15) (-level c 0) * 2 ^ 44
  | .s1 => 2 ^ 47
  | .t8 => 127 * 2 ^ 43

/-! ### A block -/

/-- An encoded block: its header fields (R66) and codes. `eb` is none for a zero block. -/
structure Block where
  eb      : Option Int
  z       : Nat
  codes   : List Nat
  outlier : Bool := false
  sat     : Bool := false
  defer   : Bool := false
  deriving DecidableEq, Repr

/-- What encoding a block adds to the statistics (R75, R76). -/
structure EncCount where
  clipped : Nat := 0
  zero    : Nat := 0
  flush   : Nat := 0
  satBlock : Nat := 0
  deriving DecidableEq, Repr

def EncCount.add (a b : EncCount) : EncCount :=
  ⟨a.clipped + b.clipped, a.zero + b.zero, a.flush + b.flush, a.satBlock + b.satBlock⟩

/-- The largest positive and negative magnitudes, as R74 takes them. -/
def posMax (x : List Int) : Nat := x.foldl (fun m a => max m a.toNat) 0
def negMax (x : List Int) : Nat := x.foldl (fun m a => max m (-a).toNat) 0

/-- 2^(e_b + shift) for an exponent of −31 to +7. -/
def unitAt (sh e : Int) : Nat := 2 ^ (e + sh).toNat

/-- The exponents −31 to +7 of the search (R74). -/
def exponents : List Int := (List.range 39).map (fun (i : Nat) => (i : Int) - 31)

/-- Zero point bounds of R74 at a unit for a code of 0 to `top`: zlo and zhi. -/
def zBounds (top : Nat) (mp mn u : Nat) : Int × Int := ((ceilDiv mn u : Nat), (top : Int) - (ceilDiv mp u : Nat))

/-- The zero point of a fitting block. -/
def zPick (top : Nat) (mp mn u : Nat) : Nat :=
  let b := zBounds top mp mn u
  (b.1 + (b.2 - b.1) / 2).toNat

/-- Whether a block fits at a unit, by encoding (R74). `u` is the code unit, which for K4 is one level. -/
def fits (c : Coding) (mp mn u : Nat) : Bool :=
  match c.enc with
  | .t4 => decide (ceilDiv mn u + ceilDiv mp u ≤ 15)
  | .k4 => decide ((mp : Int) ≤ level c 15 * u ∧ (mn : Int) ≤ -level c 0 * u)
  | .t8 => decide (ceilDiv mn u + ceilDiv mp u ≤ 255)
  | .s1 => false

/-- Nearest level of a K4 codebook; of two equally near, the one of larger magnitude (R74). -/
def nearestLevel (c : Coding) (a : Int) (u : Nat) : Nat :=
  let d (i : Nat) : Nat := (a - level c i * u).natAbs
  (List.range 16).foldl (fun best i =>
    if d i < d best then i
    else if d i = d best ∧ (level c best).natAbs < (level c i).natAbs then i else best) 0

/-- A clamped code and whether clamping changed it (R75). -/
def clampCode (top : Nat) (v : Int) : Nat × Bool := ((clampInt 0 top v).toNat, decide (v < 0 ∨ (top : Int) < v))

/-- The code of one value (R74): code and whether it is clipped. -/
def codeOf (c : Coding) (z u : Nat) (sat : Bool) (a : Int) : Nat × Bool :=
  match c.enc with
  | .t4 => clampCode 15 (roundAwayDiv a u + z)
  | .t8 => clampCode 255 (roundAwayDiv a u + z)
  | .k4 => (nearestLevel c a u, decide (level c 15 * u < a ∨ a < level c 0 * u))
  | .s1 => (bnat (decide (a < 0)), sat && decide (u < a.natAbs))

/-- Whether a code decodes to zero (R76). -/
def codeZero (c : Coding) (z k : Nat) : Bool :=
  match c.enc with
  | .k4 => level c k == 0
  | .s1 => false
  | _ => k == z

/-- The zero point of a block that fits nowhere (R74). -/
def zSaturated (top mp mn : Nat) : Nat :=
  (clampInt 0 top (roundAwayDiv ((top * mn : Nat) : Int) (mp + mn))).toNat

/-- The S1 exponent n of R74 in accumulator units: the block's mean magnitude μ is total / 32. -/
def s1Exponent (total : Nat) : Int :=
  let n : Int := (Nat.log2 total : Int) - 5
  let up := if n - 1 < 0 then decide (3 ≤ total / 16) else decide (3 * 2 ^ (n - 1).toNat * 32 ≤ total)
  (if up then n + 1 else n) - 40

/-- A zero block of the chunk's encoding. -/
def zeroBlock : Block := { eb := none, z := 0, codes := List.replicate 32 0 }

/-- Encode one block of 32 values (R74 to R76). -/
def encodeBlock (c : Coding) (x : List Int) : Block × EncCount :=
  let mp := posMax x
  let mn := negMax x
  if mp = 0 ∧ mn = 0 then (zeroBlock, { zero := 1 })
  else
    match c.enc with
    | .s1 =>
      let n := s1Exponent (x.foldl (fun t a => t + a.natAbs) 0)
      let sat := decide (7 < n)
      let flush := decide (n < -31)
      let e := clampInt (-31) 7 n
      let cs := x.map (codeOf c 0 (unitAt 40 e) sat)
      ({ eb := some e, z := 0, codes := cs.map (·.1), sat := sat },
        { clipped := cs.countP (·.2), flush := bnat flush, satBlock := bnat sat })
    | _ =>
      let sh := shiftOf c.enc
      let top := if c.enc == .t8 then 255 else 15
      match exponents.find? (fun e => fits c mp mn (unitAt sh e)) with
      | some e =>
        let u := unitAt sh e
        let z := if c.enc == .k4 then 0 else zPick top mp mn u
        let cs := x.map (codeOf c z u false)
        if cs.all (fun k => codeZero c z k.1) then (zeroBlock, { zero := 1, flush := 1 })
        else
          ({ eb := some e, z := z, codes := cs.map (·.1) },
            { clipped := cs.countP (·.2), flush := bnat (e == -31 && fits c mp mn (unitAt sh (-32))) })
      | none =>
        let u := unitAt sh 7
        let z := if c.enc == .k4 then 0 else zSaturated top mp mn
        let cs := x.map (codeOf c z u true)
        ({ eb := some 7, z := z, codes := cs.map (·.1), sat := true },
          { clipped := cs.countP (·.2), satBlock := 1 })

/-- The accumulator value of one code (R79). -/
def decodeCode (c : Coding) (eb : Int) (z k : Nat) : Int :=
  match c.enc with
  | .t4 => ((k : Int) - z) * (unitAt 40 eb : Nat)
  | .k4 => level c k * (unitAt 37 eb : Nat)
  | .s1 => (if k = 1 then -1 else 1) * (unitAt 40 eb : Nat)
  | .t8 => ((k : Int) - z) * (unitAt 36 eb : Nat)

/-- The 32 accumulator values of a block. -/
def decodeBlock (c : Coding) (b : Block) : List Int :=
  match b.eb with
  | none => List.replicate 32 0
  | some e => b.codes.map (decodeCode c e b.z)

/-- The header word of a block (R66): FALLBACK and GEN are those of the chunk. -/
def blockHeader (c : Coding) (b : Block) : Nat :=
  unsigned 6 (b.eb.getD (-32)) + (if c.enc == .t4 then b.z else 0) * 2 ^ 6 + bnat b.outlier * 2 ^ 10
    + bnat b.sat * 2 ^ 11 + bnat c.fb * 2 ^ 12 + bnat b.defer * 2 ^ 13
    + (if c.enc == .k4 then c.gen % 4 else 0) * 2 ^ 14

/-- The header bytes of a block: the word, and for T8 the zero point and a reserved byte. -/
def headerBytes (c : Coding) (b : Block) : Bytes :=
  leBytes 2 (blockHeader c b) ++ (if c.enc == .t8 then leBytes 2 b.z else [])

/-- The codes of a block packed as R6 packs them. -/
def packCodes (w : Nat) (codes : List Nat) : Nat :=
  codes.foldr (fun k acc => k % 2 ^ w + 2 ^ w * acc) 0

/-- `n` codes of `w` bits unpacked. -/
def unpackCodes (w : Nat) : Nat → Nat → List Nat
  | 0, _ => []
  | n + 1, v => v % 2 ^ w :: unpackCodes w n (v / 2 ^ w)

/-- The payload of one data cell (R70). -/
def cellPayload (c : Coding) (blocks : List Block) : Bytes :=
  padTo 224 (blocks.flatMap (headerBytes c) ++
    blocks.flatMap (fun b => leBytes (codeBytes c.enc) (packCodes (codeBits c.enc) b.codes)))

/-- A block read back from a payload; the Bool tells that it is malformed (R67), and it then decodes as zeros. -/
def readBlock (c : Coding) (payload : Bytes) (j : Nat) : Block × Bool :=
  let h := rd payload (headerSize c.enc * j) 2
  let t8z := if c.enc == .t8 then rd payload (4 * j + 2) 1 else 0
  let t8r := if c.enc == .t8 then rd payload (4 * j + 3) 1 else 0
  let eb := signed 6 (field h 0 6)
  let zp := field h 6 4
  let zero := eb == -32
  let bad := decide (7 < eb) || t8r != 0
    || (!zero && c.enc != .t4 && zp != 0)
    || bitAt h 12 != c.fb
    || (if c.enc == .k4 then field h 14 2 != c.gen % 4 else field h 14 2 != 0)
  let codes := unpackCodes (codeBits c.enc) 32 (rd payload (codesAt c.enc + codeBytes c.enc * j) (codeBytes c.enc))
  let z := match c.enc with | .t4 => zp | .t8 => t8z | _ => 0
  if bad then (zeroBlock, true)
  else ({ eb := if zero then none else some eb, z := z, codes := codes,
          outlier := bitAt h 10, sat := bitAt h 11, defer := bitAt h 13 }, false)

/-! ### Outliers -/

/-- An outlier entry (R72). -/
structure OutEntry where
  index   : Nat
  value   : Nat
  rounded : Bool
  sat     : Bool
  deriving DecidableEq, Repr

/-- The outlier cap of R79. -/
def outlierCap (et : Int) : Dy := ⟨255, min (et + 8) 120⟩

/-- Form an outlier entry from an accumulator value (R79, R104), and its accumulator value. -/
def mkOutlier (et : Int) (i : Nat) (a : Int) : OutEntry × Int :=
  let x : Dy := ⟨a, et - 40⟩
  let r := bf16.round x
  let cap := outlierCap et
  let capped := r.sat || cap.lt (bf16.value r.code).abs
  let code := if capped then (bf16.round (if a < 0 then cap.neg else cap)).code else r.code
  let v := bf16.value code
  let back := v.scale (40 - et)
  (⟨i, code, !(v.sub x).isZero, capped⟩, back.round)

/-- Outlier entry bits (R72). -/
def outlierBytes (o : OutEntry) : Bytes :=
  leBytes 5 (o.index + o.value * 2 ^ 20 + bnat o.rounded * 2 ^ 36 + bnat o.sat * 2 ^ 37)

/-- A sentinel outlier entry. -/
def outlierSentinel : Bytes := leBytes 5 0xFFFFF

/-- The payload of outlier cells: 44 entries each (R72, R102). -/
def outlierPayloads (cells : Nat) (es : List OutEntry) : List Bytes :=
  let all := es.map outlierBytes ++ List.replicate (44 * cells - es.length) outlierSentinel
  (pieces 44 cells all).map (fun p => padTo 224 p.flatten)

/-- What one received outlier entry adds: index and accumulator value, or a malformed entry (R85), or nothing. -/
inductive OutRead where
  | none | bad | at (i : Nat) (a : Int)
  deriving DecidableEq, Repr

/-- Read an entry. DESIGN CHOICE (log entry 80): INDEX 0xF_FFFF is a sentinel whatever else the entry holds, bits [39:38]
are ignored, and a VALUE above the outlier cap counts as it stands. -/
def readOutlier (et : Int) (span : Nat) (w : Nat) : OutRead :=
  let i := field w 0 20
  if i = 0xFFFFF then .none
  else
    match bf16.decode (field w 20 16) with
    | none => .bad
    | some v =>
      let x := v.scale (40 - et)
      if span ≤ i then .bad
      else if x.isZero then .at i 0
      else if x.e < 0 ∧ x.m % 2 ^ (-x.e).toNat ≠ 0 then .bad
      else .at i (Dy.round x)

/-- Ranking by magnitude, ties to the lower position (R102, R117): the `b` first of (position, value) pairs. -/
def topByMagnitude (b : Nat) (l : List (Nat × Int)) : List (Nat × Int) :=
  (sortBy (fun x y => decide (y.2.natAbs < x.2.natAbs ∨ (x.2.natAbs = y.2.natAbs ∧ x.1 ≤ y.1))) l).take b

/-- The outlier candidates taken by a chunk, in ascending position, and how many are left (R102, R103). -/
def takeOutliers (c : Coding) (capacity : Nat) (acc : List Int) : List (Nat × Int) × Nat :=
  let cand := (acc.zipIdx.map (fun x => (x.2, x.1))).filter (fun x => decide (clipLimit c < x.2.natAbs))
  let taken := sortBy (fun x y => decide (x.1 ≤ y.1)) (topByMagnitude capacity cand)
  (taken, cand.length - taken.length)

/-! ### A dense chunk -/

/-- What encoding a chunk gives: its payloads, the values it decodes to, its statistics, and for a sparse chunk its
entries as (INDEX, COUNT). -/
structure Encoded where
  payloads : List Bytes
  sent     : List Int
  count    : EncCount := {}
  overflow : Nat := 0
  outSat   : Nat := 0
  trim     : Nat := 0
  pad      : Nat := 0
  entries  : List (Nat × Nat) := []
  deriving DecidableEq, Repr

/-- Encode a dense chunk of `cells` data cells and `outCells` outlier cells from its accumulator values (R102, R143
step 3). `marks` lists the saturated positions (R81). Positions past the end of `acc` are padding (R77). -/
def encodeDense (c : Coding) (cells outCells : Nat) (defer : Bool) (marks : List Nat) (acc : List Int) : Encoded :=
  let t := takeOutliers c (44 * outCells) acc
  let outs := t.1.map (fun x => mkOutlier c.et x.1 x.2)
  let isOut (i : Nat) : Bool := t.1.any (fun x => x.1 == i)
  let rest := acc.zipIdx.map (fun x => if isOut x.2 then 0 else x.1)
  let blockIn := pieces 32 (cells * blocksPerCell c.enc)
    (rest ++ List.replicate (cells * elemsPerCell c.enc - rest.length) 0)
  let enc := blockIn.map (encodeBlock c)
  let blocks := enc.zipIdx.map (fun x =>
    let lo := 32 * x.2
    let inside (i : Nat) : Bool := decide (lo ≤ i ∧ i < lo + 32)
    { x.1.1 with outlier := t.1.any (fun y => inside y.1), sat := x.1.1.sat || marks.any inside, defer := defer })
  let plain := (blocks.flatMap (decodeBlock c)).take acc.length
  let sent := outs.foldl (fun l o => setAt l o.1.index (l.getD o.1.index 0 + o.2)) plain
  { payloads := (pieces (blocksPerCell c.enc) cells blocks).map (cellPayload c) ++ outlierPayloads outCells (outs.map (·.1)),
    sent := sent,
    count := enc.foldl (fun a x => a.add x.2) {},
    overflow := t.2,
    outSat := outs.countP (fun o => o.1.sat) }

/-- What decoding a chunk gives: the accumulator values, the same without the bounds of R81 as the linear check takes them
(R180), the positions those bounds cut, how many malformed items the chunk held, and for a sparse chunk its entries as
(INDEX, COUNT). -/
structure Decoded where
  values    : List Int
  exact     : List Int
  marks     : List Nat := []
  malformed : Nat
  entries   : List (Nat × Nat) := []
  deriving DecidableEq, Repr

/-- Bound of the wide accumulator (R78). -/
def accMax : Int := 2 ^ 63 - 1

/-- Add the received outlier entries to the decoded codes, one addition after the other: a sum out of range takes the nearer
bound and marks its position (R81). -/
def addOutliers (outs : List OutRead) (plain : List Int) : List Int × List Nat :=
  outs.foldl (fun r o =>
    match o with
    | .at i a =>
      let v := r.1.getD i 0 + a
      (setAt r.1 i (clampInt (-accMax) accMax v), if accMax < v.natAbs then addOnce r.2 i else r.2)
    | _ => r) (plain, [])

/-- Decode a dense chunk of `limit` data positions (R67, R79, R81, R85). DESIGN CHOICE (log entry 80): two entries of one
INDEX both add, and an entry is not compared with its block's OUTLIER bit. -/
def decodeDense (c : Coding) (cells outCells limit : Nat) (payloads : List Bytes) : Decoded :=
  let bl := (payloads.take cells).flatMap (fun p => (List.range (blocksPerCell c.enc)).map (readBlock c p))
  let plain := (bl.flatMap (fun b => decodeBlock c b.1)).take limit
  let ents := ((payloads.drop cells).take outCells).flatMap (fun p => (List.range 44).map (fun j => rd p (5 * j) 5))
  let outs := ents.map (readOutlier c.et limit)
  let vals := outs.foldl (fun l o => match o with | .at i a => setAt l i (l.getD i 0 + a) | _ => l) plain
  let sums := addOutliers outs plain
  { values := sums.1, exact := vals, marks := sortBy (fun a b => decide (a ≤ b)) sums.2, malformed := bl.countP (·.2) + outs.countP (fun o => o == .bad) }

end Sys2Proof.Machine
end

