-- ==== Sys2Proof/Machine/Rotate.lean ====
section
/-! DEFINITION. Rotation and the extension stage (R91 to R95), forming the contribution (R87, R90), adding it into the
wide accumulator (R80, R81), and the residual write (R88, R89). -/

namespace Sys2Proof.Machine

open Sys2Proof

/-- The mixing function of R92 and R179. -/
def mix (z : Nat) : Nat :=
  let z := z ^^^ (z >>> 31)
  let z := z * 0xB4E695A3C1D82F17 % 2 ^ 64
  let z := z ^^^ (z >>> 29)
  let z := z * 0x8F3BD2657A4CE1A9 % 2 ^ 64
  z ^^^ (z >>> 32)

/-- The sign of R92 at a rotated position; true for −1. -/
def signBit (seed p : Nat) : Bool := mix (seed ^^^ (p * 0xC2D71E5BA39F6E0D % 2 ^ 64)) % 2 == 1

/-- `m` levels of the Sylvester Hadamard butterfly over the top index of a list of 2^m · k entries; k = 1 gives H_n. -/
def hadamard : Nat → List Int → List Int
  | 0, l => l
  | m + 1, l =>
    let x := hadamard m (l.take (l.length / 2))
    let y := hadamard m (l.drop (l.length / 2))
    List.zipWith (· + ·) x y ++ List.zipWith (· - ·) x y

/-- Apply signs from rotated position `p` on. -/
def applySigns (seed p : Nat) (l : List Int) : List Int :=
  l.zipIdx.map (fun x => if signBit seed (p + x.2) then -x.1 else x.1)

/-- Rotate blocks of 2^m · k entries, m levels each, beginning at position `p`, forward or inverse. -/
def rotBlocks (fwd : Bool) (seed m size p : Nat) (l : List Int) : List Int :=
  ((pieces size (ceilDiv l.length size) l).zipIdx.map (fun b =>
    let q := p + size * b.2
    if fwd then hadamard m (applySigns seed q b.1) else applySigns seed q (hadamard m b.1))).flatten

/-- The base rotation of R91 or its inverse, for a vector that begins at position `p` of the bucket. -/
def baseRot (fwd : Bool) (d : ImgBucket) (p : Nat) (x : Vec) : Vec :=
  let m := Nat.log2 d.rotSize
  ⟨x.e - ((m / 2 : Nat) : Int), rotBlocks fwd d.rotSeed m d.rotSize p x.v⟩

/-- The extension stage Q of R95 or its inverse; the identity when `on` is false. -/
def extRot (fwd on : Bool) (d : ImgBucket) (p : Nat) (x : Vec) : Vec :=
  if on then
    let m := Nat.log2 d.fbParam
    ⟨x.e - ((m / 2 : Nat) : Int), rotBlocks fwd d.extSeed m (d.rotSize * d.fbParam) p x.v⟩
  else x

/-- The rotation span n_r and the rotated length L_r of R93. -/
def rotSpan (d : ImgBucket) : Nat := if d.fbKind = .extend then max d.rotSize (d.rotSize * d.fbParam) else d.rotSize
def rotLength (d : ImgBucket) : Nat := ceilDiv d.l (rotSpan d) * rotSpan d

/-- Storage of residuals (R89). -/
def resFmt (d : ImgBucket) : Fmt := if d.resFp32 then fp32 else bf16
def resWidth (d : ImgBucket) : Nat := if d.resFp32 then 4 else 2

/-- Residuals read back from their bytes. -/
def readResiduals (d : ImgBucket) (b : Bytes) : Vec :=
  let w := resWidth d
  Vec.ofDys ((List.range (b.length / w)).map (fun i => (resFmt d).value (rd b (w * i) w)))

/-- Residuals stored: the bytes, how many saturated and underflowed, and the first saturated entry (R89). -/
structure ResidualStore where
  bytes : Bytes
  sat   : List Nat
  under : Nat
  deriving DecidableEq, Repr

def storeResiduals (d : ImgBucket) (r : Vec) : ResidualStore :=
  let rs := r.toDys.map (resFmt d).round
  { bytes := rs.flatMap (fun x => leBytes (resWidth d) x.code),
    sat := (r.toDys.zipIdx.filter (fun x => (resFmt d).exceeds x.1)).map (·.2),
    under := rs.countP (fun x => x.under) }

/-- The gradient elements of a chunk that begins at position `p` and holds `limit` positions: zero at fill positions,
the number of nonfinite elements, which enter as zero (R64, R87, R90). -/
def readGradient (d : ImgBucket) (f : InFmt) (p limit : Nat) (b : Bytes) : Vec × Nat :=
  let raw := (List.range limit).map (fun i =>
    if p + i < d.l then f.decode (rd b (f.width * i) f.width) else some Dy.zero)
  (Vec.ofDys (raw.map (·.getD Dy.zero)), raw.countP (·.isNone))

/-- A member's contribution to a chunk (R87): u exactly, x as binary32 codes, how many saturated, and the nonfinite
inputs met. -/
structure Contribution where
  u         : Vec
  x         : List Nat
  sat       : Nat
  nonfinite : Nat
  deriving DecidableEq, Repr

/-- Form a contribution from gradient and residual. -/
def contribute (d : ImgBucket) (ext : Bool) (f : InFmt) (p limit : Nat) (grad : Bytes) (res : Vec) : Contribution :=
  let g := readGradient d f p limit grad
  let u := extRot true ext d p ((baseRot true d p g.1).add res)
  let rs := u.toDys.map fp32.round
  { u := u, x := rs.map (·.code), sat := u.toDys.countP fp32.exceeds, nonfinite := g.2 }

/-- What a deferred member forms: u := Q(r_A), and it adds nothing (R153). -/
def contributeDeferred (d : ImgBucket) (ext : Bool) (p : Nat) (res : Vec) : Contribution :=
  let u := extRot true ext d p res
  { u := u, x := u.v.map (fun _ => 0), sat := 0, nonfinite := 0 }

/-- The binary32 code of a magnitude. -/
def magBits (x : Nat) : Nat := x % 2 ^ 31

/-- The largest |x| as a binary32 code (R97). -/
def largest (x : List Nat) : Nat := x.foldl (fun m c => max m (magBits c)) 0

/-! ### The wide accumulator -/

/-- A sum of contributions: the accumulator values, the integers actually added (R183), the saturated positions, and
the inexact conversions (R80, R81). -/
structure Accumulated where
  acc     : List Int
  added   : List Int
  marks   : List Nat
  inexact : Nat
  deriving DecidableEq, Repr

/-- x · 2^(40 − E_t) rounded to the accumulator's unit, and whether that was inexact (R80). -/
def toAcc (et : Int) (code : Nat) : Int × Bool :=
  let v := (fp32.value code).scale (40 - et)
  let a := v.round
  (a, !((Dy.ofInt a).sub v).isZero)

/-- Add contributions at the positions `own` picks into incoming values. -/
def accumulate (et : Int) (own : Nat → Bool) (incoming : List Int) (x : List Nat) : Accumulated :=
  let one (c : Nat × Nat) (a : Int) : Int × Int × Bool × Bool :=
    if own c.2 then
      let t := toAcc et c.1
      let s := clampInt (-accMax) accMax (a + t.1)
      (s, s - a, decide (s ≠ a + t.1), t.2)
    else (a, 0, false, false)
  let r := List.zipWith one x.zipIdx incoming
  { acc := r.map (·.1), added := r.map (·.2.1),
    marks := (r.zipIdx.filter (fun y => y.1.2.2.1)).map (·.2),
    inexact := r.countP (fun y => y.2.2.2) }

/-- The values of accumulator integers (R78). -/
def accVec (et : Int) (a : List Int) : Vec := ⟨et - 40, a⟩

/-- The residual r_B := Q^-1(u − Δ) of R88, exactly. -/
def newResidual (d : ImgBucket) (ext : Bool) (p : Nat) (et : Int) (u : Vec) (delta : List Int) : Vec :=
  extRot false ext d p (u.sub (accVec et delta))

/-- The inverse of extension and rotation on delivered values (R94). -/
def unrotate (d : ImgBucket) (ext : Bool) (p : Nat) (x : Vec) : Vec := baseRot false d p (extRot false ext d p x)

end Sys2Proof.Machine
end

