-- ==== Sys2Proof/Machine/Sparse.lean ====
section
/-! DEFINITION. Sparse lists (spec/05, R71): selection, merging, trimming, encoding and decoding. -/

namespace Sys2Proof.Machine

open Sys2Proof

/-! ### Selection (R114, R115) -/

/-- The selection key of a non-zero binary32 code. -/
def selKey (code : Nat) : Nat := field code 21 10

/-- Histogram of keys: how many non-zero codes have key `b`. -/
def keyCount (x : List Nat) (b : Nat) : Nat := x.countP (fun c => magBits c != 0 && selKey c == b)

/-- The threshold scan from bin `b` down: the threshold bin and how many of it are needed; none when fewer than `ks`
keys exist. -/
def selScan (x : List Nat) (ks : Nat) : Nat → Nat → Option (Nat × Nat)
  | 0, _ => none
  | b + 1, cum =>
    let h := keyCount x b
    if ks ≤ cum + h then some (b, ks - cum) else selScan x ks b (cum + h)

/-- Positions selected in ascending order, given the threshold. -/
def selPick (t : Option (Nat × Nat)) : Nat → List (Nat × Nat) → List Nat
  | _, [] => []
  | need, (c, p) :: l =>
    if magBits c = 0 then selPick t need l
    else
      match t with
      | none => p :: selPick t need l
      | some (b, _) =>
        if b < selKey c then p :: selPick t need l
        else if selKey c = b ∧ 0 < need then p :: selPick t (need - 1) l
        else selPick t need l

/-- The member's own selection of `ks` entries, and whether it is short (R115). -/
def select (x : List Nat) (ks : Nat) : List Nat × Bool :=
  let t := selScan x ks 1024 0
  (selPick t ((t.map (·.2)).getD 0) x.zipIdx, t.isNone)

/-! ### Encoding (R119 to R122) -/

/-- A sentinel's INDEX. -/
def sentinel : Nat := 0xFFFFF

/-- One group of at most 16 valid entries, encoded: exponent byte, codes, decoded values and statistics. -/
structure SparseGroup where
  eb    : Option Int
  sat   : Bool
  codes : List Nat
  count : EncCount
  deriving DecidableEq, Repr

def sparseCode (u : Nat) (a : Int) : Nat × Bool := clampCode 15 (roundAwayDiv a u + 8)

/-- Encode the values of a group (R74, R75, R76, R121). DEDUCED (log entry 45): a group that holds only sentinels
does not count in STAT_FMT_ZERO_BLOCK. -/
def encodeGroup (x : List Int) : SparseGroup :=
  let mp := posMax x
  let mn := negMax x
  let flat (flush : Nat) : SparseGroup := ⟨none, false, x.map (fun _ => 8), { zero := 1, flush := flush }⟩
  if x.isEmpty then ⟨none, false, [], {}⟩
  else if mp = 0 ∧ mn = 0 then flat 0
  else
    let fitsAt (e : Int) : Bool := decide (mp ≤ 7 * unitAt 40 e ∧ mn ≤ 8 * unitAt 40 e)
    match exponents.find? fitsAt with
    | some e =>
      let cs := x.map (sparseCode (unitAt 40 e))
      if cs.all (fun k => k.1 == 8) then flat 1
      else ⟨some e, false, cs.map (·.1),
        { clipped := cs.countP (·.2), flush := bnat (e == -31 && fitsAt (-32)) }⟩
    | none =>
      let cs := x.map (sparseCode (unitAt 40 7))
      ⟨some 7, true, cs.map (·.1), { clipped := cs.countP (·.2), satBlock := 1 }⟩

def groupValues (g : SparseGroup) : List Int :=
  match g.eb with
  | none => g.codes.map (fun _ => 0)
  | some e => g.codes.map (fun (k : Nat) => ((k : Int) - 8) * (unitAt 40 e : Nat))

/-- A list cell's payload from its four groups and its 64 entries (INDEX, CODE). -/
def listPayload (bytes : List Nat) (entries : List (Nat × Nat)) : Bytes :=
  padTo 224 (bytes.flatMap (leBytes 1) ++ entries.flatMap (fun x => leBytes 3 (x.1 + x.2 * 2 ^ 20)))

/-- The list and count cells of a chunk from its entries in slot order: (INDEX, CODE, COUNT) and group bytes. -/
def sparsePayloads (cells : Nat) (counts : Bool) (groups : List Nat) (slots : List (Nat × Nat × Nat)) : List Bytes :=
  let lists := (List.range cells).map (fun i =>
    listPayload ((groups.drop (4 * i)).take 4) (((slots.drop (64 * i)).take 64).map (fun x => (x.1, x.2.1))))
  let cc := if counts then
    (pieces 112 (ceilDiv (64 * cells) 112) slots).map (fun p => padTo 224 (p.flatMap (fun x => leBytes 2 x.2.2)))
    else []
  lists ++ cc

/-- Encode a sparse chunk: `vals` are the accumulator values over the span, `union` the indices held with their counts
in ascending order; `marks` the saturated positions. -/
def encodeSparse (cells : Nat) (counts defer : Bool) (marks : List Nat) (vals : List Int)
    (union : List (Nat × Nat)) : Encoded :=
  let kc := 64 * cells
  let ranked := topByMagnitude kc (union.map (fun x => (x.1, vals.getD x.1 0)))
  let kept := union.filter (fun x => ranked.any (fun y => y.1 == x.1))
  let gs := (pieces 16 (4 * cells) kept).map (fun es => (es, encodeGroup (es.map (fun x => vals.getD x.1 0))))
  let byteOf (g : List (Nat × Nat) × SparseGroup) : Nat :=
    unsigned 6 (g.2.eb.getD (-32)) + bnat (g.2.sat || g.1.any (fun x => marks.contains x.1)) * 64 + bnat defer * 128
  let slots := gs.flatMap (fun g => List.zipWith (fun x k => (x.1, k, x.2)) g.1 g.2.codes)
  let all := slots ++ List.replicate (kc - slots.length) (sentinel, 0, 0)
  let sentAt := gs.flatMap (fun g => List.zipWith (fun x v => (x.1, v)) g.1 (groupValues g.2))
  { payloads := sparsePayloads cells counts (gs.map byteOf) all,
    sent := sentAt.foldl (fun l x => setAt l x.1 x.2) (List.replicate vals.length 0),
    count := gs.foldl (fun a g => a.add g.2.count) {},
    trim := union.length - kept.length,
    pad := kc - slots.length,
    entries := (all.map (fun x => (x.1, if counts then x.2.2 else 0))) }

/-! ### Decoding (R113) -/

/-- A received slot: INDEX, CODE, COUNT and its group's EB. -/
structure Slot where
  index : Nat
  code  : Nat
  count : Nat
  eb    : Int
  deriving DecidableEq, Repr

def readSlots (cells : Nat) (counts : Bool) (payloads : List Bytes) : List Slot :=
  (List.range (64 * cells)).map (fun j =>
    let p := payloads.getD (j / 64) []
    let e := rd p (4 + 3 * (j % 64)) 3
    let c := payloads.getD (cells + j / 112) []
    { index := field e 0 20, code := field e 20 4,
      count := if counts then rd c (2 * (j % 112)) 2 else 0,
      eb := signed 6 (rd p (j % 64 / 16) 1) })

/-- Whether a slot is well formed after the slots before it: `last` is the last valid INDEX plus one, `ended` tells that a
sentinel has come. A valid entry in a group whose EB is +8 to +31 counts as malformed, and such a group of sentinels alone
does not (DESIGN CHOICE, log entry 109: R66 calls those values invalid, R113 gives them no outcome). -/
def slotOk (limit : Nat) (counts : Bool) (last : Nat) (ended : Bool) (s : Slot) : Bool :=
  if s.index = sentinel then s.code == 0 && (!counts || s.count == 0)
  else !ended && decide (last ≤ s.index) && decide (s.index < limit) && decide (s.eb ≤ 7)
    && (s.eb != -32 || s.code == 8) && (!counts || s.count != 0)

/-- The valid entries before the first malformed one as (INDEX, value, COUNT), and whether one was malformed. -/
def wellFormedPart (limit : Nat) (counts : Bool) : Nat → Bool → List Slot → List (Nat × Int × Nat) × Bool
  | _, _, [] => ([], false)
  | last, ended, s :: l =>
    if slotOk limit counts last ended s then
      if s.index = sentinel then wellFormedPart limit counts last true l
      else
        let r := wellFormedPart limit counts (s.index + 1) ended l
        let v : Int := if s.eb = -32 then 0 else ((s.code : Int) - 8) * (unitAt 40 s.eb : Nat)
        ((s.index, v, s.count) :: r.1, r.2)
    else ([], true)

/-- Decode a sparse chunk of `limit` positions. `entries` holds every slot as received, for the structure check. -/
def decodeSparse (cells : Nat) (counts : Bool) (limit : Nat) (payloads : List Bytes) : Decoded × List (Nat × Nat) :=
  let slots := readSlots cells counts payloads
  let r := wellFormedPart limit counts 0 false slots
  let v := r.1.foldl (fun l x => setAt l x.1 x.2.1) (List.replicate limit 0)
  ({ values := v, exact := v,
     malformed := bnat r.2,
     entries := slots.map (fun s => (s.index, s.count)) },
   r.1.map (fun x => (x.1, x.2.2)))

/-- The union of incoming and own indices with their counts, ascending (R119). -/
def mergeUnion (incoming : List (Nat × Nat)) (own : List Nat) : List (Nat × Nat) :=
  let added := incoming.map (fun x => if own.contains x.1 then (x.1, x.2 + 1) else x)
  let fresh := (own.filter (fun p => !incoming.any (fun x => x.1 == p))).map (fun p => (p, 1))
  sortBy (fun x y => decide (x.1 ≤ y.1)) (added ++ fresh)

end Sys2Proof.Machine
end

