-- ==== Sys2Proof/Machine/Integrity.lean ====
section
/-! DEFINITION. CRCs (R173, R245), the linear check (R179 to R184) and the structure check (R126). -/

namespace Sys2Proof.Machine

open Sys2Proof

/-- One bit step of a reflected CRC-32C. -/
def crcBit (c : Nat) : Nat := if c % 2 = 1 then (c >>> 1) ^^^ 0x82F63B78 else c >>> 1

/-- `n` bit steps. -/
def crcBits : Nat → Nat → Nat
  | 0, c => c
  | n + 1, c => crcBits n (crcBit c)

/-- CRC-32C: Castagnoli polynomial, reflected, initial value and final XOR all ones (R173). -/
def crc32c (b : Bytes) : Nat :=
  (b.foldl (fun c x => crcBits 8 (c ^^^ x.toNat)) 0xFFFFFFFF) ^^^ 0xFFFFFFFF

/-- One bit step of CRC-16 with polynomial 0x1021, not reflected. -/
def crc16Bit (c : Nat) : Nat := if bitAt c 15 then (c * 2 % 65536) ^^^ 0x1021 else c * 2 % 65536

def crc16Bits : Nat → Nat → Nat
  | 0, c => c
  | n + 1, c => crc16Bits n (crc16Bit c)

/-- The CRC-16 of HOP_CHECK (R245): initial value 0xFFFF, no reflection, no final XOR. -/
def crc16 (b : Bytes) : Nat := b.foldl (fun c x => crc16Bits 8 (c ^^^ (x.toNat * 256))) 0xFFFF

/-- M of R179. -/
def lcMod : Nat := 2 ^ 61 - 1

/-- The weight of a position (R179). -/
def weight (seed step c p : Nat) : Nat :=
  let k := ((step % 2 ^ 24) * 2 ^ 40 + (c % 2 ^ 20) * 2 ^ 20 + p % 2 ^ 20) % 2 ^ 64
  let z := (seed ^^^ 0x3C6EF372FE94F82B) ^^^ (k * 0xC2D71E5BA39F6E0D % 2 ^ 64)
  mix z % (2 ^ 61 - 2) + 1

/-- The residue of an accumulator integer. -/
def res (a : Int) : Nat := (a % (lcMod : Int)).toNat

/-- The linear check of a vector (R180). -/
def lc (seed step c : Nat) (v : List Int) : Nat :=
  (v.zipIdx.foldl (fun s x => s + weight seed step c x.2 * res x.1) 0) % lcMod

/-- The structure check S of a sparse list's slots as (INDEX, COUNT) (R126). -/
def structureCheck (seed step c : Nat) (slots : List (Nat × Nat)) : Nat :=
  (slots.zipIdx.foldl (fun s x => s + weight seed step c x.2 * (x.1.1 + 2 ^ 20 * x.1.2)) 0) % lcMod

end Sys2Proof.Machine
end

