-- ==== Sys2Proof/Machine/Plan.lean ====
section
/-! DEFINITION. What the image in force says: own chip, ports, rings, slots, buckets, chunks and the dealing of an
operation's chunks to rails, rounds and owners (R127 to R138, R189, R190, R249, R250, R279 to R289). -/

namespace Sys2Proof.Machine

open Sys2Proof

/-! ### Lookups in an image -/

namespace Image

def chipOf (im : Image) (serial : Nat) : Option ImgChip := im.chips.find? (fun c => c.serial == serial)
def chipNo (im : Image) (chip : Nat) : Option ImgChip := im.chips.find? (fun c => c.chip == chip)
def groupDesc (im : Image) (g : Nat) : Option ImgGroup := im.groups.find? (fun d => d.group == g)
def bucketDesc (im : Image) (b : Nat) : Option ImgBucket := im.buckets.find? (fun d => d.bucket == b)
def faultDesc (im : Image) (g : Nat) : Option ImgFault := im.faults.find? (fun d => d.group == g)
def areaDesc (im : Image) (a : Nat) : Option ImgArea := im.areas.find? (fun d => d.area == a)
def partDesc (im : Image) (p : Nat) : ImgPart := im.parts.getD p {}
def tableDesc (im : Image) (t : Nat) : Option ImgTable := im.tables.find? (fun d => d.index == t && d.valid)
def ringRecord (im : Image) (g t : Nat) : Option ImgRing := im.rings.find? (fun r => r.group == g && r.table == t)

/-- The ring of a group under a table: its record for the table, or else for table 0 (R283). -/
def ringUnder (im : Image) (g t : Nat) : Option ImgRing := (im.ringRecord g t).or (im.ringRecord g 0)

/-- The class of a chip under a table (R281). -/
def classUnder (im : Image) (c : ImgChip) (t : Nat) : Nat :=
  match (im.tableDesc t).bind (fun d => d.reassign.find? (fun r => r.1 == c.chip)) with
  | some r => r.2
  | none => c.cls

/-- The table block a class uses under a table (R281). -/
def blockUnder (im : Image) (t cls : Nat) : Option ImgBlock :=
  (im.blocks.find? (fun b => b.table == t && b.cls == cls)).or
    (im.blocks.find? (fun b => b.table == 0 && b.cls == cls))

def bucketsOf (im : Image) (g : Nat) : List ImgBucket := im.buckets.filter (fun d => d.group == g)

end Image

/-! ### Chunks of a bucket (R111, R130, R131) -/

def listCap (d : ImgBucket) : Nat := 64 * d.listCells
def countCells (d : ImgBucket) : Nat := if d.counts then ceilDiv (listCap d) 112 else 0
def chunkCellsOf (d : ImgBucket) : Nat :=
  if d.sparse then d.listCells + countCells d else d.chunkCells + d.outlierCells
def spanOf (d : ImgBucket) : Nat := if d.sparse then d.span else d.chunkCells * elemsPerCell d.enc
def chunkCount (d : ImgBucket) : Nat := ceilDiv (rotLength d) (spanOf d)

/-- Data positions of a chunk: its span cut at L_r. -/
def chunkLimit (d : ImgBucket) (c : Nat) : Nat := min (spanOf d) (rotLength d - c * spanOf d)

/-- The plan reference of a chunk before reduction modulo 2^18 (R250). -/
def planOrder (im : Image) (g : Nat) : List ImgBucket :=
  sortBy (fun a b => decide (a.offsetD < b.offsetD ∨ (a.offsetD = b.offsetD ∧ a.bucket ≤ b.bucket))) (im.bucketsOf g)

def planRef (im : Image) (d : ImgBucket) (c : Nat) : Nat :=
  let before := (planOrder im d.group).takeWhile (fun e => e.bucket != d.bucket)
  ((before.map chunkCount).foldl (· + ·) 0 + c) % 2 ^ 18

/-- Λ_N of R137. -/
def lambda (n : Nat) : Nat := ceilDiv (72 * n) 2560 + 1

/-! ### The engine's own place -/

namespace State

def im (s : State) : Image := s.img.getD {}

/-- The engine's own CHIPS entry (R279). -/
def self (s : State) : Option ImgChip := s.im.chipOf s.ident.serial

/-- Role of a port: 0 OFF, 1 RING, 2 TIME, 3 OPEN; without an active image the time ports of R417 are TIME, every other
port OPEN (R293). -/
def role (s : State) (p : Nat) : Nat :=
  match s.self with
  | some c => ((c.ports[p]?).map (·.role)).getD 0
  | none => match s.time.boot with
    | some b => if s.img.isNone && (b.primary == p || b.backup == p) then 2 else 3
    | none => 3

def portWord (s : State) (p : Nat) : Option ImgPort := s.self.bind (fun c => c.ports[p]?)

/-- The ring in force of a group (R283). -/
def ringOf (s : State) (g : Nat) : Option ImgRing := s.im.ringUnder g (s.group g).table

/-- The engine's ring position in a ring record (R132). -/
def posIn (s : State) (r : ImgRing) : Option Nat := r.members.findIdx? (fun m => m.chip == s.ident.hallChip)

def memberAt (r : ImgRing) (q : Nat) : Option ImgMember := r.members[q % r.n]?

/-- The transmit port of a rail. -/
def txPort (s : State) (r : ImgRing) (rail : Nat) : Option Nat :=
  (s.posIn r).bind (fun q => (memberAt r q).bind (fun m => m.tx[rail]?))

/-- The receive port of a rail: the own port whose partner is the predecessor's transmit port (R283). -/
def rxPort (s : State) (r : ImgRing) (rail : Nat) : Option Nat :=
  (s.posIn r).bind (fun q => (memberAt r (q + r.n - 1)).bind (fun m =>
    s.self.bind (fun c => c.ports.findIdx? (fun w =>
      w.role == 1 && w.partner == m.chip && w.partnerPort == m.tx.getD rail 0))))

/-- Ports a ring uses on this engine. -/
def ringPorts (s : State) (r : ImgRing) : List Nat :=
  (List.range r.rails).flatMap (fun k => (s.txPort r k).toList ++ (s.rxPort r k).toList)

/-- Whether the engine is a member of a group's ring in force. -/
def member (s : State) (g : Nat) : Bool := ((s.ringOf g).bind s.posIn).isSome

/-- The groups that the image defines and the engine is a member of. -/
def ownGroups (s : State) : List Nat := (s.im.groups.map (·.group)).filter s.member

/-- The groups whose ring uses a port. -/
def groupsOnPort (s : State) (p : Nat) : List Nat :=
  s.ownGroups.filter (fun g => match s.ringOf g with | some r => (s.ringPorts r).contains p | none => false)

/-- The block of runs that serves a group's slots, or without a group the primary table's (R212, R281). -/
def blockFor (s : State) (t : Nat) : Option ImgBlock :=
  s.self.bind (fun c => s.im.blockUnder t (s.im.classUnder c t))

/-- The runs of a port and direction in force: each group's under its own table, the others under table 0. -/
def runsOf (s : State) (port dir : Nat) : List ImgRun :=
  let of_ (t : Nat) : List ImgRun := ((s.blockFor t).map (·.runs)).getD []
  let mine (r : ImgRun) : Bool := r.port == port && r.dir == dir
  let tables := ((s.im.groups.map (fun (d : ImgGroup) => (s.group d.group).table)) ++ [0]).eraseDups
  tables.flatMap (fun t => (of_ t).filter (fun r =>
    mine r && (if r.vc ≤ 1 then decide ((s.group r.group).table = t) else decide (t = 0))))

def slotsOfRun (r : ImgRun) : List Nat := rangeFrom r.first r.count

/-- The run that covers a slot. -/
def runAt (s : State) (port dir slot : Nat) : Option ImgRun :=
  (s.runsOf port dir).find? (fun r => decide (r.first ≤ slot ∧ slot < r.first + r.count))

/-- The slots of one use on a port, ascending: the ebb or flood sequence of a rail (R135), or the retransmission
slots. -/
def useSlots (s : State) (port dir vc use : Nat) (ok : ImgRun → Bool) : List Nat :=
  sortBy (fun a b => decide (a ≤ b))
    (((s.runsOf port dir).filter (fun r => r.vc == vc && r.use == use && ok r)).flatMap slotsOfRun)

def sequence (s : State) (g rail port dir use : Nat) : List Nat :=
  s.useSlots port dir 0 use (fun r => r.group == g && r.rail == rail)

/-- Bays that the table binds to a rail of a group. -/
def railBays (s : State) (g rail : Nat) : List Nat :=
  (((s.blockFor (s.group g).table).map (·.runs)).getD [] |>.filter
    (fun r => r.vc == 0 && r.group == g && r.rail == rail) |>.map (·.bay)).eraseDups

/-- Bays that serve a group (R20). -/
def groupBays (s : State) (g : Nat) : List Nat :=
  (((s.blockFor (s.group g).table).map (·.runs)).getD [] |>.filter
    (fun r => r.vc ≤ 1 && r.group == g) |>.map (·.bay)).eraseDups

/-- A bay that the group depends on has been retired: the engine takes no further part in the group (R20). -/
def bayLost (s : State) (g : Nat) : Bool := (s.groupBays g).any s.power.dumap.bays.contains

/-- How a hail's image hash stands to the engine's own: 0 neither, 1 the active image's, 2 the shadow image's (R264, R271). -/
def imageMatch (s : State) (h : Bytes) : Nat :=
  if s.image.active.image.isSome && h == s.image.active.hash then 1
  else if s.image.shadow.image.isSome && h == s.image.shadow.hash then 2
  else 0

/-- The fabric port that the image binds to a bay under a table (R16, R147, R280). -/
def bayFabric (s : State) (t bay : Nat) : Nat :=
  ((s.self.bind (fun c => s.im.classes.find? (fun k => k.cls == s.im.classUnder c t))).bind
    (fun k => (k.bays[bay]?).map (·.fabric))).getD 0

/-- The physical cove at a logical position of a bay (R17). -/
def coveAt (s : State) (bay position : Nat) : Nat := (s.bay bay).phys.getD position 0

def timeoutOf (s : State) (g : Nat) : Nat := ((s.im.groupDesc g).map (·.timeout)).getD 32768
def slipGroup (s : State) (g : Nat) : Bool := ((s.im.groupDesc g).map (·.slip)).getD false
def zeroPolicy (s : State) (g : Nat) : Bool := ((s.im.faultDesc g).map (·.zero)).getD false

/-! ### Byte addresses in the stacks (R276, R285) -/

def mib : Nat := 2 ^ 20

/-- Where generation A or B of a bucket begins; the selector names the region of A (R198, R276). -/
def genBase (s : State) (d : ImgBucket) (genB : Bool) : Nat :=
  let r := if (s.bucket d.bucket).selector != genB then s.im.res1 else s.im.res0
  r.1 * mib + d.resOff

/-- Bytes of a residual generation at rotated positions p, …, p + n − 1. -/
def genAddr (s : State) (d : ImgBucket) (genB : Bool) (p : Nat) : Nat := s.genBase d genB + resWidth d * p

/-- The 256 B interleave units that a byte range touches (R23). -/
def unitsOf (a n : Nat) : List Nat := if n = 0 then [] else rangeFrom (a / 256) ((a + n - 1) / 256 - a / 256 + 1)

end State

/-! ### The course of an operation (R134 to R138, R189 to R191, R216) -/

/-- An operation of a step with what the image says of its bucket. -/
structure OpView where
  g     : Nat
  op    : QueueOp
  l     : Launch
  d     : ImgBucket
  q     : Nat
  deriving DecidableEq, Repr

namespace OpView

/-- Rounds an operation's chunks take. -/
def rounds (v : OpView) : Nat := ceilDiv (ceilDiv v.l.chunks.length v.l.rails) v.l.n

/-- A chunk's number in the dealing. -/
def dealt (v : OpView) (c : Nat) : Nat := v.l.chunks.idxOf c

def railOf (v : OpView) (c : Nat) : Nat := v.dealt c % v.l.rails
def ownerOf (v : OpView) (c : Nat) : Nat := v.dealt c / v.l.rails % v.l.n
def firstRound (v : OpView) (c : Nat) : Nat := v.dealt c / v.l.rails / v.l.n

/-- Hop number of the engine for a chunk (R134). -/
def hop (v : OpView) (c : Nat) : Nat := (v.q + 2 * v.l.n - v.ownerOf c - 1) % v.l.n + 1

/-- Which flood receiver the engine is: k, or 0 for the owner. -/
def floodNo (v : OpView) (c : Nat) : Nat := (v.q + v.l.n - v.ownerOf c) % v.l.n

/-- The verdict tide of a round that starts at a tide (R137). -/
def verdictAfter (v : OpView) (start : Nat) : Nat := start + 2 * v.l.n - 2 + lambda v.l.n

/-- V_L, the verdict tide of the last original round (R190). -/
def lastVerdict (v : OpView) : Nat := v.verdictAfter (v.l.s0 + (v.rounds - 1) * v.l.n)

/-- Start tide of replay round k: S_k := V_(k−1) + 2 (R190). -/
def replayStart (v : OpView) (k : Nat) : Nat :=
  v.lastVerdict + 2 + k * (2 * v.l.n + lambda v.l.n)

/-- Start tide of a round, replay rounds counted on after the original ones (R136, R166, R190). -/
def startOf (v : OpView) (r : Nat) : Nat :=
  if r < v.rounds then v.l.s0 + r * v.l.n else v.replayStart (r - v.rounds)

def verdictTide (v : OpView) (r : Nat) : Nat := v.verdictAfter (v.startOf r)

/-- The round a chunk is in: the last replay round it joined, or its original round. -/
def roundOf (v : OpView) (c : Nat) : Nat :=
  let joined := (List.range v.l.replays.length).filter (fun k => (v.l.replays.getD k []).contains c)
  match joined.getLast? with
  | some k => v.rounds + k
  | none => v.firstRound c

/-- The chunks of a round. -/
def chunksOf (v : OpView) (r : Nat) : List Nat :=
  if r < v.rounds then v.l.chunks.filter (fun c => v.firstRound c == r) else v.l.replays.getD (r - v.rounds) []

/-- The encoding of an operation's chunks as latched (R106, R140). -/
def coding (v : OpView) : Coding :=
  let e := if v.l.fallback && v.d.fbKind == .codebook then Enc.k4 else v.d.enc
  { enc := e, levels := v.l.levels, gen := v.l.gen, fb := v.l.fallback, et := v.l.et }

/-- Whether the extension stage is in force. -/
def ext (v : OpView) : Bool := v.l.fallback && v.d.fbKind == .extend

/-- Data positions, first position and cell count of a chunk. -/
def limit (v : OpView) (c : Nat) : Nat := chunkLimit v.d c
def base (v : OpView) (c : Nat) : Nat := c * spanOf v.d

end OpView

/-- The launched operation of a group that exchanges a bucket, and the engine's place in its ring. -/
def State.opOf (s : State) (g b : Nat) : Option OpView :=
  ((s.queue g).ops.find? (fun o => match o.launch with | some l => l.bucket == b && o.phase != .done | none => false)).bind
    (fun o => o.launch.bind (fun l => (s.im.bucketDesc b).bind (fun d =>
      ((s.ringOf g).bind s.posIn).map (fun q => { g := g, op := o, l := l, d := d, q := q }))))

/-- The operation at a queue index, launched. -/
def State.opAt (s : State) (g i : Nat) : Option OpView :=
  ((s.queue g).ops.find? (fun o => o.index == i)).bind
    (fun o => o.launch.bind (fun l => (s.im.bucketDesc l.bucket).bind (fun d =>
      ((s.ringOf g).bind s.posIn).map (fun q => { g := g, op := o, l := l, d := d, q := q }))))

/-- Change a fetched operation. -/
def State.modOp (s : State) (g i : Nat) (f : QueueOp → QueueOp) : State :=
  s.modQueue g (fun q => { q with ops := updateWhere (fun o => o.index == i) f q.ops })

/-- Change the launch of an operation. -/
def State.modLaunch (s : State) (g i : Nat) (f : Launch → Launch) : State :=
  s.modOp g i (fun o => { o with launch := o.launch.map f })

/-- A chunk's context in a group. -/
def State.ctx (s : State) (g b c : Nat) : Option Ctx :=
  (s.group g).ctxs.find? (fun x => x.bucket == b && x.chunk == c)

def State.modCtx (s : State) (g b c : Nat) (f : Ctx → Ctx) : State :=
  s.modGroup g (fun gr => { gr with ctxs := updateWhere (fun x => x.bucket == b && x.chunk == c) f gr.ctxs })

/-- The tide in progress, where the tide frame is valid. -/
def State.now (s : State) : Nat := s.time.tide

end Sys2Proof.Machine
end

