-- ==== Sys2Proof/Machine/Cells.lean ====
section
/-! DEFINITION. The cell: control word, flags word, ledger word, CRC (R244 to R248), the payloads of the VC3 and FLOW
cells (R254 to R258, R261, R326), and express fields (R158). -/

namespace Sys2Proof.Machine

open Sys2Proof

/-- Bytes 0 to 5 of the control word (R245). -/
def controlLow (c : CellFields) : Nat :=
  c.type + c.vc * 2 ^ 4 + c.cls * 2 ^ 6 + c.group * 2 ^ 8 + c.ref * 2 ^ 16 + c.seq * 2 ^ 34

/-- The control word with its HOP_CHECK. -/
def controlBytes (c : CellFields) : Bytes :=
  let low := leBytes 6 (controlLow c)
  low ++ leBytes 2 (crc16 low)

/-- REPEAT_SLOT, REPEAT_TIDE and REPEAT_VALID in their places: the slot asked for and its tide modulo 4 (R175, R248). -/
def repeatBits : Option (Nat × Nat) → Nat
  | some (slot, tide) => slot % 2 ^ 10 * 2 ^ 15 + tide % 4 * 2 ^ 25 + 2 ^ 27
  | none => 0

/-- The flags word (R248). -/
def flagsWord (c : CellFields) : Nat :=
  c.tally % 2 ^ 15 + repeatBits c.again + bnat c.retx * 2 ^ 28 + bnat c.last * 2 ^ 29

/-- Bytes with the CRC-32C that covers them behind them (R173). -/
def withCrc (body : Bytes) : Bytes := body ++ leBytes 4 (crc32c body)

/-- The 256 bytes of a cell (R244). -/
def mkCell (c : CellFields) : Bytes :=
  withCrc (controlBytes c ++ leBytes 8 c.swash ++ padTo 224 c.payload ++ leBytes 8 c.ledger ++ leBytes 4 (flagsWord c))

/-- The repeat request a cell carries: slot and tide modulo 4 (R175, R248). -/
def repeatOf (b : Bytes) : Option (Nat × Nat) :=
  let f := rd b 248 4
  if bitAt f 27 then some (field f 15 10, field f 25 2) else none

/-- Read a cell's fields back. -/
def readCell (b : Bytes) : CellFields :=
  let w := rd b 0 6
  let f := rd b 248 4
  { type := field w 0 4, vc := field w 4 2, cls := field w 6 2, group := field w 8 8, ref := field w 16 18,
    seq := field w 34 14, swash := rd b 8 8, payload := (b.drop 16).take 224, ledger := rd b 240 8,
    tally := field f 0 15, again := repeatOf b, retx := bitAt f 28, last := bitAt f 29 }

def hopCheckOk (b : Bytes) : Bool := rd b 6 2 == crc16 (b.take 6)
def crcOk (b : Bytes) : Bool := rd b 252 4 == crc32c (b.take 252)

/-- A cell passes both its checks (R173, R247). -/
def cellOk (b : Bytes) : Bool := crcOk b && hopCheckOk b

/-- A cell as it goes out: its content, the swash field and REPEAT fields due, a fresh CRC (R171, R173, R175). -/
def fillCell (b : Bytes) (swash : Nat) (again : Option (Nat × Nat)) : Bytes :=
  let f := rd b 248 4
  let f := f % 2 ^ 15 + repeatBits again + f / 2 ^ 28 * 2 ^ 28
  withCrc (b.take 8 ++ leBytes 8 swash ++ (b.drop 16).take 232 ++ leBytes 4 f)

/-- A cell sent again: RETX set, its content unchanged (R176, R248). -/
def asRepeat (b : Bytes) : Bytes :=
  let f := rd b 248 4
  withCrc (b.take 248 ++ leBytes 4 (f - bnat (bitAt f 28) * 2 ^ 28 + 2 ^ 28))

/-- The cell of a type that carries nothing but its payload (R245, R246). -/
def plainCell (type vc group : Nat) (payload : Bytes) : Bytes :=
  mkCell { type := type, vc := vc, cls := 0, group := group, ref := 0, seq := 0, payload := payload }

/-- An IDLE cell of a slot's VC (R246, R254). -/
def idleCell (vc : Nat) : Bytes := plainCell 0 vc 0 []

/-- The VC of a cell type and its largest CLASS; reserved types have none (R246). -/
def typeShape (type : Nat) : Option (Option Nat × Nat) :=
  match type with
  | 0 => some (none, 0)
  | 1 => some (some 3, 0)
  | 2 => some (some 0, 1)
  | 3 => some (some 1, 2)
  | 4 => some (some 2, 0)
  | 5 => some (some 3, 0)
  | 6 => some (some 3, 0)
  | 7 => some (some 3, 0)
  | 8 => some (some 3, 0)
  | 9 => some (some 3, 0)
  | _ => none

/-- TYPE, VC and CLASS fit the table of R246. -/
def shapeOk (f : CellFields) : Bool :=
  match typeShape f.type with
  | some (vc, cls) => (match vc with | some v => f.vc == v | none => true) && decide (f.cls ≤ cls)
  | none => false

/-! ### Payloads of the VC3 cells (R254 to R258, R261) -/

/-- The payload of a tide mark (R254). -/
def markPayload (low flags table : Nat) : Bytes := padTo 224 (leBytes 4 low ++ leBytes 1 flags ++ leBytes 1 table)

/-- A time value of R27 in 12 bytes: seconds, nanoseconds, fraction (R256). -/
def timeBytes (t : Units) : Bytes :=
  let u := t.toNat
  leBytes 6 (u / (1000000000 * 65536)) ++ leBytes 4 (u / 65536 % 1000000000) ++ leBytes 2 (u % 65536)

def readTime (b : Bytes) : Units :=
  (((rd b 0 6 * 1000000000 + rd b 6 4) * 65536 + rd b 10 2 : Nat) : Int)

/-- The payload of a DELAY cell (R256). -/
def delayPayload (response : Bool) (id : Nat) (t2 t3 : Units) : Bytes :=
  padTo 224 (leBytes 1 (bnat response) ++ leBytes 3 0 ++ leBytes 4 id
    ++ (if response then timeBytes t2 ++ timeBytes t3 else []))

/-- The payload of a hail cell (R261). SEEN_CHIP with no partner seen is all ones in its 20 bits, the bits above 0 (DESIGN
CHOICE, log entry 113). -/
def hailPayload (h : Hail) : Bytes :=
  padTo 224 (leBytes 1 h.format ++ leBytes 1 h.role ++ leBytes 1 h.port ++ leBytes 1 h.flags ++ leBytes 4 h.chip
    ++ leBytes 8 h.serial.toNat ++ leBytes 4 h.version.toNat ++ leBytes 4 h.firmware.toNat ++ padTo 48 h.imageHash
    ++ padTo 48 h.mapHash ++ leBytes 8 h.hailTide ++ leBytes 4 h.seenChip ++ leBytes 8 h.seenSerial.toNat
    ++ leBytes 1 h.seenPort)

/-- The hail that a payload holds; reserved bytes are ignored (R261). -/
def readHail (b : Bytes) : Hail :=
  { format := rd b 0 1, role := rd b 1 1, port := rd b 2 1, flags := rd b 3 1, chip := rd b 4 4 % 2 ^ 20,
    serial := BitVec.ofNat 64 (rd b 8 8), version := BitVec.ofNat 32 (rd b 0x10 4),
    firmware := BitVec.ofNat 32 (rd b 0x14 4), imageHash := (b.drop 0x18).take 48, mapHash := (b.drop 0x48).take 48,
    hailTide := rd b 0x78 8, seenChip := rd b 0x80 4, seenSerial := BitVec.ofNat 64 (rd b 0x84 8),
    seenPort := rd b 0x8C 1 }

/-- An entry of a recovery list: chunk in bits [19:0], bucket in bits [31:20], as the model keeps it too. -/
def recoveryList (l : List Nat) : Bytes := l.flatMap (leBytes 4)

/-- The payload of a recovery cell (R258): LIST holds 47 entries, unused ones 0. LOST with no chip named is all ones in its
20 bits, the bits above 0 (DESIGN CHOICE, log entry 113). -/
def recoveryPayload (kind : Nat) (c : RecoveryCell) : Bytes :=
  padTo 224 (leBytes 1 kind ++ leBytes 1 c.group ++ leBytes 1 c.code ++ leBytes 1 c.state ++ leBytes 4 c.sender
    ++ leBytes 6 c.step ++ leBytes 1 c.table ++ leBytes 1 0 ++ leBytes 4 c.lost ++ leBytes 2 c.part
    ++ leBytes 2 c.parts ++ leBytes 8 c.tR ++ leBytes 1 c.list.length ++ leBytes 1 c.round ++ leBytes 2 0
    ++ recoveryList c.list)

/-- The recovery cell that a payload holds, with the port it came on. -/
def readRecovery (port : Nat) (b : Bytes) : RecoveryCell :=
  { port := port, group := rd b 1 1, code := rd b 2 1, state := rd b 3 1, sender := rd b 4 4 % 2 ^ 20,
    step := rd b 8 6, table := rd b 0x0E 1, lost := rd b 0x10 4 % 2 ^ 20, part := rd b 0x14 2, parts := rd b 0x16 2,
    tR := rd b 0x18 8, round := rd b 0x21 1,
    list := (List.range (min (rd b 0x20 1) 47)).map (fun i => rd b (0x24 + 4 * i) 4) }

/-- The payload of a TIME cell: LENGTH and the PTP message (R255). -/
def timePayload (m : Bytes) : Bytes := padTo 224 (leBytes 2 m.length ++ m)

/-- The PTP message of a TIME cell; none where LENGTH is out of its range (R255). -/
def ptpMessage (b : Bytes) : Option Bytes :=
  let n := rd b 0 2
  if 34 ≤ n ∧ n ≤ 222 then some ((b.drop 2).take n) else none

/-- The payload of a PRBS cell (R257). -/
def prbsPayload (seq : Nat) (pattern : Bytes) : Bytes := padTo 224 (leBytes 4 seq ++ padTo 220 pattern)

/-- The payload of a FLOW cell: its header and up to 208 B of the stream (R326). -/
def flowPayload (flow : Nat) (seq ack : Word32) (data : Bytes) : Bytes :=
  padTo 224 (leBytes 4 seq.toNat ++ leBytes 4 ack.toNat ++ leBytes 1 flow ++ leBytes 7 0 ++ padTo 208 data)

/-! ### PTP messages (R30, R255; IEEE 1588-2019, log entry 77) -/

def ptpSync : Nat := 0
def ptpDelayReq : Nat := 1
def ptpFollowUp : Nat := 8
def ptpDelayResp : Nat := 9
def ptpAnnounce : Nat := 11

/-- A PTP timestamp at an offset: seconds and nanoseconds, big-endian, in units of R27. -/
def ptpStamp (m : Bytes) (off : Nat) : Units :=
  let s := beNat ((m.drop off).take 6)
  let n := beNat ((m.drop (off + 6)).take 4)
  (((s * 1000000000 + n) * 65536 : Nat) : Int)

/-- requestingPortIdentity of a Delay_Resp (log entry 77). -/
def ptpRequester (m : Bytes) : Bytes := (m.drop 44).take 10

def ptpType (m : Bytes) : Nat := rd m 0 1 % 16

/-- The header fields the engine looks at (R30, R31): sdoId in its two parts, domain, correction, sequence number. -/
def readPtp (m : Bytes) : PtpHeader :=
  { domain := rd m 4 1, sdo := rd m 0 1 / 16 * 256 + rd m 5 1, seq := beNat ((m.drop 30).take 2),
    correction := signed 64 (beNat ((m.drop 8).take 8)) }

/-- twoStepFlag of a Sync. -/
def ptpTwoStep (m : Bytes) : Bool := bitAt (rd m 6 1) 1

/-- grandmasterClockQuality.clockClass of an Announce. -/
def ptpClass (m : Bytes) : Nat := rd m 48 1

/-- The Delay_Req of a sequence number: originTimestamp 0 (R255). `id` is the sender's port identity. -/
def delayReqMessage (sdo domain seq : Nat) (id : Bytes) (interval : Int) : Bytes :=
  leBytes 1 (sdo / 256 % 16 * 16 + ptpDelayReq) ++ leBytes 1 0x12 ++ beBytes 2 44 ++ leBytes 1 domain
    ++ leBytes 1 (sdo % 256) ++ beBytes 2 0 ++ beBytes 8 0 ++ beBytes 4 0 ++ padTo 10 id ++ beBytes 2 seq
    ++ leBytes 1 1 ++ leBytes 1 (unsigned 8 interval) ++ beBytes 10 0

/-! ### Ledger words (R181) -/

def ledgerWord (value : Nat) (flood : Bool) (attempt : Nat) : Nat :=
  value % 2 ^ 61 + bnat flood * 2 ^ 61 + (attempt % 4) * 2 ^ 62

/-! ### Express fields (R158) -/

def kEmpty : Nat := 0
def kBarrier : Nat := 1
def kScalar : Nat := 2
def kStat : Nat := 3
def kVerdict : Nat := 4
def kCommit : Nat := 5
def kReady : Nat := 6
def kAbort : Nat := 7
def kOpen : Nat := 8

/-- The fields of an express message. -/
structure Msg where
  kind  : Nat
  lap   : Bool
  flag  : Bool
  group : Nat
  tag   : Nat
  op    : Nat
  value : Nat
  deriving DecidableEq, Repr

def msgWord (m : Msg) : Word64 :=
  BitVec.ofNat 64 (m.kind % 16 + bnat m.lap * 2 ^ 4 + bnat m.flag * 2 ^ 5 + (m.group % 256) * 2 ^ 6
    + (m.tag % 2 ^ 14) * 2 ^ 14 + (m.op % 16) * 2 ^ 28 + (m.value % 2 ^ 32) * 2 ^ 32)

def readMsg (w : Word64) : Msg :=
  let n := w.toNat
  { kind := field n 0 4, lap := bitAt n 4, flag := bitAt n 5, group := field n 6 8, tag := field n 14 14,
    op := field n 28 4, value := field n 32 32 }

/-- Fields that must be 0 for the kind are 0, and KIND and OP are not reserved (R158). A STAT of the reserved statistic 3
and an ABORT with LAP 1 are malformed too (DESIGN CHOICE, log entry 110: the rule names neither). -/
def msgOk (m : Msg) : Bool :=
  decide (1 ≤ m.kind ∧ m.kind ≤ 8)
  && (m.kind == kScalar || m.op == 0) && decide (m.op ≤ 6)
  && (!m.flag || m.kind == kScalar || m.kind == kStat || m.kind == kCommit)
  && (m.kind != kStat || field m.tag 12 2 != 3)
  && (m.kind != kReady || field m.tag 10 4 == 0)
  && (m.kind != kOpen || m.tag == 0)
  && (m.kind != kAbort || (field m.tag 8 6 == 0 && !m.lap))
  && (m.kind != kVerdict || field m.value 16 16 == 0)
  && (m.kind != kBarrier || m.lap || m.value == 0)

/-- Rank in the order of R171: a lower rank is sent first. -/
def msgRank (m : Msg) : Nat :=
  if m.kind = kAbort then 0 else if m.kind = kVerdict then 1 else if m.kind = kCommit then 2
  else if m.kind = kReady ∨ m.kind = kOpen then 3 else if m.kind = kStat then 4 else 5

end Sys2Proof.Machine
end

