-- ==== Sys2Proof/Machine/Line.lean ====
section
/-! DEFINITION. The line (R241 to R243): the message stream of a frame, its scrambler, the RS(544,514) codewords and the
lanes; and how the cells of a frame are put together (R45, R47, R171, R175, R253). -/

namespace Sys2Proof.Machine

open Sys2Proof

/-! ### The message stream (R242) -/

/-- Slots of a frame. -/
def frameSlots : Nat := 1024

/-- The `n` low bits of a number, least significant first. -/
def lowBits (n v : Nat) : List Bool := (List.range n).map (bitAt v)

/-- Bits of a byte string in the order they are sent (R242). -/
def bitsOf (b : Bytes) : List Bool := b.flatMap (fun x => lowBits 8 x.toNat)

/-- The scrambler x^58 + x^39 + 1 over cell bits: bit i of the state is the scrambled bit i + 1 places back (R242). -/
def scramble : Nat → List Bool → Nat × List Bool
  | st, [] => (st, [])
  | st, b :: bs =>
    let o := (b != bitAt st 38) != bitAt st 57
    let r := scramble ((st * 2 + bnat o) % 2 ^ 58) bs
    (r.1, o :: r.2)

/-- Delimiters and scrambled cells of the slots from k on. A delimiter goes least significant bit first (DESIGN CHOICE, log
entry 143: R242 gives the order of a cell's bits alone). -/
def slotBits : Nat → Nat → List Bytes → Nat × List Bool
  | st, _, [] => (st, [])
  | st, k, c :: cs =>
    let x := scramble st (bitsOf c)
    let r := slotBits x.1 (k + 1) cs
    (r.1, lowBits 10 k ++ x.2 ++ r.2)

/-- The message stream of a frame, with the scrambler's state after it. -/
def messageStream (st : Nat) (cells : List Bytes) : Nat × List Bool :=
  let r := slotBits st 0 cells
  (r.1, r.2 ++ List.replicate 8 false)

/-! ### Codewords (R241; the code of IEEE 802.3, log entry 78) -/

/-- Codewords of a frame; message and parity symbols of a codeword. -/
def frameWords : Nat := 410
def messageSyms : Nat := 514
def paritySyms : Nat := 30

/-- The product in GF(2^10) with x^10 + x^3 + 1, by the bits of the second factor from bit n − 1 down. -/
def gfMul (a b : Nat) : Nat → Nat
  | 0 => 0
  | n + 1 =>
    let r := gfMul a b n * 2
    let r := if bitAt r 10 then r ^^^ 0x409 else r
    if bitAt b (9 - n) then r ^^^ a else r

def gf (a b : Nat) : Nat := gfMul a b 10

/-- The coefficients of the generator, lowest degree first, without the leading 1: the product of x − α^i, i below n. -/
def rsGenerator : Nat → Nat → List Nat
  | 0, _ => []
  | n + 1, root =>
    let g := rsGenerator n (gf root 2)
    List.zipWith (fun lower same => lower ^^^ gf root same) (0 :: g) (g ++ [1])

/-- One message symbol through the encoder's register, highest degree last. -/
def rsStep (gen reg : List Nat) (m : Nat) : List Nat :=
  let f := m ^^^ reg.getLastD 0
  List.zipWith (fun r g => r ^^^ gf f g) (0 :: reg.dropLast) gen

/-- The parity symbols of a message, highest degree first. -/
def rsParity (m : List Nat) : List Nat :=
  (m.foldl (rsStep (rsGenerator paritySyms 1)) (List.replicate paritySyms 0)).reverse

/-- Ten-bit symbols of a bit stream, bit 0 first. -/
def symbols : Nat → List Bool → List Nat
  | 0, _ => []
  | n + 1, bs => (bs.take 10).reverse.foldl (fun v b => v * 2 + bnat b) 0 :: symbols n (bs.drop 10)

/-- The codewords of a list of message symbols. -/
def codewords : Nat → List Nat → List Nat
  | 0, _ => []
  | n + 1, ms => ms.take messageSyms ++ rsParity (ms.take messageSyms) ++ codewords n (ms.drop messageSyms)

/-- The symbols of one lane: symbol i of each codeword goes to lane i mod 4, and 544 is a multiple of 4. -/
def laneOf (lane : Nat) (syms : List Nat) : List Nat :=
  (syms.zipIdx.filter (fun x => x.2 % 4 == lane)).map (·.1)

/-- What a port sends for a frame of cells: the scrambler's state after it, and each lane's symbols. -/
def lineFrame (st : Nat) (cells : List Bytes) : Nat × List (List Nat) :=
  let m := messageStream st cells
  let syms := codewords frameWords (symbols (frameWords * messageSyms) m.2)
  (m.1, (List.range 4).map (fun l => laneOf l syms))

/-! ### PRBS31 (R257) -/

/-- The next bit of the sequence x^31 + x^28 + 1 from a history word whose bit i is the bit i + 1 places back. -/
def prbsNext (h : Nat) : Bool := bitAt h 30 != bitAt h 27

def prbsPush (h : Nat) (b : Bool) : Nat := (h * 2 + bnat b) % 2 ^ 31

/-- The next `n` bits of the sequence. -/
def prbsBits : Nat → Nat → Nat × List Bool
  | 0, h => (h, [])
  | n + 1, h =>
    let b := prbsNext h
    let r := prbsBits n (prbsPush h b)
    (r.1, b :: r.2)

/-- Bytes of a bit stream, least significant bit first. -/
def bytesOf : Nat → List Bool → Bytes
  | 0, _ => []
  | n + 1, bs => BitVec.ofNat 8 ((bs.take 8).reverse.foldl (fun v b => v * 2 + bnat b) 0) :: bytesOf n (bs.drop 8)

/-- Cells of the sequence that continues a port's previous PRBS cell: history, next sequence number, cells. -/
def prbsCells : Nat → Nat → Nat → Nat × Nat × List Bytes
  | 0, h, seq => (h, seq, [])
  | n + 1, h, seq =>
    let b := prbsBits 1760 h
    let r := prbsCells n b.1 ((seq + 1) % 2 ^ 32)
    (r.1, r.2.1, plainCell 8 3 0 (prbsPayload seq (bytesOf 220 b.2)) :: r.2.2)

/-- Check bits against the sequence continued from a history; the history follows the sequence. -/
def prbsCheck : Nat → List Bool → Nat × Nat
  | h, [] => (h, 0)
  | h, b :: bs =>
    let e := prbsNext h
    let r := prbsCheck (prbsPush h e) bs
    (r.1, r.2 + bnat (b != e))

/-- Take the 31 bits that synchronise the checker. -/
def prbsSync (bits : List Bool) : Nat := (bits.take 31).foldl prbsPush 0

/-! ### Swash fields and repeat requests of a frame (R159, R171, R175) -/

/-- Express messages in the order of R171: by class, oldest first within one. -/
def expressOrder (q : List Word64) : List Word64 :=
  sortBy (fun a b => decide (msgRank (readMsg a) ≤ msgRank (readMsg b))) q

/-- Each message in two consecutive fields (R159). -/
def swashFields (q : List Word64) : List Nat := q.flatMap (fun w => [w.toNat, w.toNat])

/-- Messages that one frame carries. -/
def swashPairs : Nat := frameSlots / 2

/-- Requests of a frame at their cells: each in two consecutive cells, ascending, a request for slot k of the tide `now`
not before slot k + lp + 1 (log entry 79). Answers the carrying slots and the requests left for the next frame. -/
def placeRequests (now lp : Nat) : Nat → List (Nat × Nat) → List (Nat × Nat × Nat) × List (Nat × Nat)
  | _, [] => ([], [])
  | free, (slot, tide) :: rs =>
    let at_ := max free (if tide = now then slot + lp + 1 else 0)
    if at_ + 1 < frameSlots then
      let r := placeRequests now lp (at_ + 2) rs
      ((at_, slot, tide % 4) :: (at_ + 1, slot, tide % 4) :: r.1, r.2)
    else
      let r := placeRequests now lp free rs
      (r.1, (slot, tide) :: r.2)

/-- The cells of a frame as they go out, from the contents of its slots (R171, R173, R175). -/
def fillFrame (contents : List Bytes) (swash : List Nat) (again : List (Nat × Nat × Nat)) : List Bytes :=
  contents.zipIdx.map (fun x =>
    fillCell x.1 (swash.getD x.2 0) ((again.find? (fun a => a.1 == x.2)).map (·.2)))

/-- Non-idle cells of slots 8 to 1,023, in per mille of those slots, rounded as every rounding of the engine (R54, R73). -/
def loadOf (contents : List Bytes) : Nat :=
  (roundAwayDiv (((contents.drop 8).countP (fun c => rd c 0 1 % 16 != 0)) * 1000 : Nat) 1016).toNat

end Sys2Proof.Machine
end

