-- ==== Sys2Proof/Machine/Common.lean ====
section
/-! DEFINITION. Shared happenings of a group's step: sending express messages (R158, R159, R171), the step ledger
(R372 to R375), the step record (R206), and starting an abort (R169). -/

namespace Sys2Proof.Machine

open Sys2Proof

namespace State

/-! ### Sending on a port -/

/-- A port in SERVICE that carries scheduled slots. -/
def inService (s : State) (p : Nat) : Bool := (s.port p).link == .service && !(s.port p).vc3Only

/-- The port receives the tide frame: in scheduled service, or as the partner's last mark said (R243, R254). -/
def receivesTide (s : State) (p : Nat) : Bool := s.inService p || (s.port p).rxTide

/-- Queue an express message on a port; its frames carry it while the port is in scheduled service (R171). -/
def sendOn (s : State) (p : Nat) (m : Msg) : State :=
  s.modPort p (fun x => { x with exprQueue := x.exprQueue ++ [msgWord m] })

/-- Count a message of a group whose copies were both lost, on the port it would have come on (R159, R172). -/
def countLost (s : State) (g : Nat) : State :=
  match (s.ringOf g).bind (fun r => s.rxPort r 0) with
  | some p => s.bumpPort p .expressLost 1
  | none => s

/-- Send an express message of a group on its rail-0 transmit port (R158). -/
def send (s : State) (m : Msg) : State :=
  match (s.ringOf m.group).bind (fun r => s.txPort r 0) with
  | some p => s.sendOn p m
  | none => s

/-! ### The step ledger -/

/-- Largest number of ledger entries of a step (R372). -/
def ledgerMax : Nat := 4096

/-- The 16 bytes of an entry (R373). -/
def ledgerBytes (e : LedgerEntry) : Bytes :=
  leBytes 1 e.kind ++ leBytes 1 e.group ++ leBytes 2 e.bucket ++ leBytes 6 e.step ++ leBytes 1 e.attempt
    ++ leBytes 1 0 ++ leBytes 4 e.arg

/-- Append an entry; entries of one tide stand in ascending KIND (R372). -/
def appendLedger : List LedgerEntry → LedgerEntry → List LedgerEntry
  | [], e => [e]
  | x :: l, e => if x.tide = e.tide ∧ e.kind < x.kind then e :: x :: l else x :: appendLedger l e

/-- The LEDGER_FULL entry that takes the slot of another (R372). -/
def fullEntry (e : LedgerEntry) : LedgerEntry := { e with kind := 10, bucket := 0xFFF, arg := 1 }

/-- The ledger after an entry arises: the 4,096th slot takes LEDGER_FULL, which then counts (R372). -/
def ledgerAdd (l : List LedgerEntry) (e : LedgerEntry) : List LedgerEntry :=
  if l.length + 1 < ledgerMax then appendLedger l e
  else if l.length + 1 = ledgerMax then l ++ [fullEntry e]
  else updateWhere (fun x => x.kind == 10) (fun x => { x with arg := Nat.min (x.arg + 1) 0xFFFFFFFF }) l

/-- The event of a ledger entry (R375, R384, R388). -/
def ledgerEvent (s : State) (e : LedgerEntry) : State :=
  s.raise { type := 0x0003, severity := if e.kind = 1 ∨ e.kind = 2 ∨ e.kind = 8 then 1 else 0, group := some e.group,
            ledger := some (ledgerBytes e), subject := rd (ledgerBytes e) 0 8, rings := s.ringsG e.group }

/-- Enter a ledger entry of a group and deliver it as an event (R374, R375). The LEDGER_FULL entry is delivered beside the
entry whose slot it takes (DESIGN CHOICE, log entry 115: R375 does not say whether an entry not retained is still
delivered). -/
def enterLedger (s : State) (g kind bucket arg : Nat) : State :=
  let gr := s.group g
  let e : LedgerEntry :=
    { kind := kind, group := g, bucket := bucket, step := gr.step,
      attempt := gr.attempt % 256, arg := Nat.min arg 0xFFFFFFFF, tide := s.now }
  let s := (s.modGroup g (fun x => { x with ledger := ledgerAdd x.ledger e })).ledgerEvent e
  if gr.ledger.length + 1 = ledgerMax then s.ledgerEvent (fullEntry e) else s

/-! ### The step record -/

/-- Change the step record of a group. -/
def modRecord (s : State) (g : Nat) (f : StepRecord → StepRecord) : State :=
  s.modGroup g (fun x => { x with record := x.record.map f })

/-- Change a chunk's entry in the step record, adding one if there is none. -/
def modEntry (s : State) (g b c : Nat) (f : RecEntry → RecEntry) : State :=
  s.modRecord g (fun r =>
    if r.entries.any (fun e => e.bucket == b && e.chunk == c) then
      { r with entries := updateWhere (fun e => e.bucket == b && e.chunk == c) f r.entries }
    else { r with entries := r.entries ++ [f { chunk := c, bucket := b }] })

def entry (s : State) (g b c : Nat) : Option RecEntry :=
  (s.group g).record.bind (fun r => r.entries.find? (fun e => e.bucket == b && e.chunk == c))

/-! ### Aborts (R169) -/

/-- Whether a group has something an abort could end: a step, an OPEN it has entered, or a recovery that runs. -/
def abortable (s : State) (g : Nat) : Bool :=
  let gr := s.group g
  gr.openAt.isSome || (gr.state != .closed && gr.state != .aborted)

/-- Whether a received token ends something on the member: every member of the ring takes part, one in CLOSED that has not
entered the OPEN too (R156, R169, R208). -/
def takesToken (s : State) (g : Nat) : Bool := (s.group g).established && (s.group g).state != .aborted

/-- Rank of a token: by VALUE, then by error code. -/
def tokenBefore (a b : Nat × Nat) : Bool := decide (a.2 < b.2 ∨ (a.2 = b.2 ∧ a.1 < b.1))

/-- VALUE of a token that concerns no chunk. -/
def noChunk : Nat := 0xFFFFFFFF

/-- Which of two tokens is kept: the one that ranks lower, but of an OPEN that times out while a member holds it for a hash
every member ends with image mismatch in place of timeout (R169, R298). -/
def tokenWins (opening : Bool) (a b : Nat × Nat) : Bool :=
  if opening && a == (0x07, noChunk) && b == (0x01, noChunk) then true
  else if opening && a == (0x01, noChunk) && b == (0x07, noChunk) then false
  else tokenBefore a b

/-- The VALUE of an abort token. -/
def abortValue (chunk bucket : Nat) : Nat := chunk % 2 ^ 20 + (bucket % 2 ^ 12) * 2 ^ 20

def abortMsg (g : Nat) (t : Nat × Nat) : Msg := ⟨kAbort, false, false, g, t.1, 0, t.2⟩

/-- Keep the lowest token (R169); the contexts show its code (R150), and reduce messages that the member holds are dropped
(R172). -/
def keepToken (s : State) (g : Nat) (t : Nat × Nat) (own : Bool) : State :=
  s.modGroup g (fun (gr : Group) =>
    let better := match gr.abort with
      | none => true
      | some a => !a.reported && tokenWins (gr.openAt.isSome || gr.state == StepState.closed) t a.kept
    let gr := if better then { gr with ctxs := gr.ctxs.map (fun x => { x with errCode := t.1 }) } else gr
    match gr.abort with
    | none =>
      { gr with express := gr.express.map (fun e => { e with held := none }),
                abort := some { kept := t, own := if own then [t] else [], sentAt := s.now, changedAt := s.now,
                                firstAt := s.now, returned := false, reported := false } }
    | some a =>
      { gr with abort := some { a with kept := if better then t else a.kept, own := if own then a.own ++ [t] else a.own,
                                       changedAt := if better then s.now else a.changedAt } })

/-- A member detects a condition that ends the step: it sends a token unless it has seen an abort of the step. -/
def abort (s : State) (g code chunk bucket : Nat) : State :=
  if s.abortable g && (s.group g).abort.isNone then
    let t := (code, abortValue chunk bucket)
    (s.keepToken g t true).send (abortMsg g t)
  else s

/-- Folds or spill tiles at their planned rate have run for a group: under DYN_BALANCE they may have run elsewhere (R370). -/
def noteMovable (s : State) (g n : Nat) : State :=
  if s.im.dynBalance then s.modGroup g (fun x => { x with movable := x.movable + n }) else s

/-- An abort that concerns no chunk. -/
def abortGroup (s : State) (g code : Nat) : State := s.abort g code 0xFFFFF 0xFFF

/-- Abort each of some groups. -/
def abortGroups (s : State) (gs : List Nat) (code : Nat) : State := gs.foldl (fun s g => s.abortGroup g code) s

/-- Laps as staging names them: 0 ebb, 1 flood, 2 the VC1 cells. -/
def vc1Lap : Nat := 2

/-- No chunk cell of an ended or earlier step stays staged for a group (R21, R208); transfers belong to no step (R316). -/
def clearStaging (s : State) (g : Nat) : State :=
  { s with staging := s.staging.filter (fun x => x.group != g || x.lap == vc1Lap) }

/-- Whether the group runs a step in which nothing has been aborted. -/
def stepRuns (s : State) (g : Nat) : Bool :=
  let gr := s.group g
  gr.abort.isNone && (gr.state == .exchange || gr.state == .released || gr.state == .applied)

end State

end Sys2Proof.Machine
end

