-- ==== Sys2Proof/Machine/Operands.lean ====
section
/-! DEFINITION. The fields of a descriptor (R317 to R319), and completion records (R322, R327, R328). -/

namespace Sys2Proof.Machine

open Sys2Proof

/-! ### Descriptor fields -/

namespace Desc

def opcode (b : Bytes) : Nat := rd b 0 1
def flags (b : Bytes) : Nat := rd b 1 1
def mayVary (b : Bytes) : Bool := bitAt (flags b) 0
def immediate (b : Bytes) : Bool := bitAt (flags b) 1
def complAdd (b : Bytes) : Bool := bitAt (flags b) 2
def trigger (b : Bytes) : Nat := field (rd b 2 2) 0 12
def threshold (b : Bytes) : Nat := rd b 4 4
def complCounter (b : Bytes) : Nat := field (rd b 8 2) 0 12
def complInc (b : Bytes) : Nat := rd b 0x0C 4
def userTag (b : Bytes) : Nat := rd b 0x10 8
def bucket (b : Bytes) : Nat := field (rd b 0x18 2) 0 12
def inFmt (b : Bytes) : Option InFmt := InFmt.ofCode (rd b 0x1A 1)
def outFmt (b : Bytes) : Option OutFmt := OutFmt.ofCode (rd b 0x1B 1)
def reduce (b : Bytes) : Nat := rd b 0x1C 1
def form (b : Bytes) : Nat := rd b 0x1D 1
def inAddr (b : Bytes) : Nat := rd b 0x20 8
def outAddr (b : Bytes) : Nat := rd b 0x28 8
def rail (b : Bytes) : Nat := rd b 0x18 1
def peer (b : Bytes) : Nat := rd b 0x19 1
def service (b : Bytes) : Nat := rd b 0x1A 1
def flowNo (b : Bytes) : Nat := rd b 0x1B 1
def length (b : Bytes) : Nat := rd b 0x1C 4
def localAddr (b : Bytes) : Nat := rd b 0x20 8
def remoteAddr (b : Bytes) : Nat := rd b 0x28 8
def scalarOp (b : Bytes) : Nat := rd b 0x18 1
def operand (b : Bytes) : Nat := rd b 0x1C 4
def areaNo (b : Bytes) : Nat := rd b 0x18 1
def sflags (b : Bytes) : Nat := rd b 0x19 1
def firstTile (b : Bytes) : Nat := rd b 0x1C 4
def count (b : Bytes) : Nat := rd b 0x20 4
def rowStride (b : Bytes) : Nat := rd b 0x24 4
def gridWidth (b : Bytes) : Nat := rd b 0x28 4
def addr (b : Bytes) : Nat := rd b 0x30 8
def target (b : Bytes) : Nat := field (rd b 0x18 2) 0 12
def amount (b : Bytes) : Nat := rd b 0x1C 4

def opExchange : Nat := 1
def opSparse : Nat := 2
def opPut : Nat := 3
def opGet : Nat := 4
def opBarrier : Nat := 5
def opScalar : Nat := 6
def opSpillStore : Nat := 7
def opSpillLoad : Nat := 8
def opCommit : Nat := 9
def opTriggerAdd : Nat := 10
def opFence : Nat := 11

/-- EXCHANGE and SPARSE_EXCHANGE. -/
def isExchange (b : Bytes) : Bool := opcode b == opExchange || opcode b == opSparse

/-- Step operations (R316, R318). -/
def isStep (b : Bytes) : Bool :=
  isExchange b || opcode b == opBarrier || opcode b == opScalar || opcode b == opCommit

end Desc

namespace State

/-! ### Trigger counters -/

/-- Add to a trigger counter, modulo 2^32 (R321). -/
def addTrigger (s : State) (n v : Nat) : State := s.setTrigger n (s.trigger n + BitVec.ofNat 32 v)

/-- The partition of a group's owner, 8 for the hall controller. -/
def ownerOr8 (s : State) (g : Nat) : Nat := (s.groupOwner g).getD 8

/-- A trigger counter lies in a partition's range. -/
def triggerOk (s : State) (p n : Nat) : Bool :=
  p == 8 || decide ((s.im.partDesc p).trigFirst ≤ n ∧ n < (s.im.partDesc p).trigFirst + (s.im.partDesc p).trigCount)

/-- The counter belongs to a partition that is DETACHED (R331). -/
def trigDetached (s : State) (n : Nat) : Bool :=
  (List.range 8).any (fun p => (s.im.partDesc p).valid && s.triggerOk p n && s.pstate p == .detached)

/-- An add is dropped, counted for the tag that made it, and reported (R331). -/
def dropAdd (s : State) (tag subject arg : Nat) : State :=
  (s.bumpP .partViolation tag 1).raise
    { type := 0x0020, severity := 2, code := 0x08, subject := subject, arg := arg, rings := s.ringsE }

/-- The add of a queue's descriptor, which is dropped where the counter's partition is DETACHED: only a queue of the hall
controller reaches one (R321, R331). The record carries the descriptor's queue index, and its bits write and descriptor
are set (DEDUCED, log entry 28). -/
def queueAdd (s : State) (g index n v : Nat) : State :=
  if s.trigDetached n then s.dropAdd (s.ownerOr8 g) index (s.ownerOr8 g + 2 ^ 4 + 2 ^ 5) else s.addTrigger n v

/-- Readiness of a descriptor (R139, R317, R380). -/
def descReady (s : State) (b : Bytes) : Bool :=
  Desc.immediate b || atOrAfter 32 (s.trigger (Desc.trigger b)).toNat (Desc.threshold b)

/-- An earlier FENCE of the queue has not completed (R318). -/
def fenced (s : State) (g i : Nat) : Bool :=
  ((s.queue g).ops.takeWhile (fun o => o.index != i)).any
    (fun o => Desc.opcode o.raw == Desc.opFence && o.phase != .done)

/-- Readiness of a fetched operation: no FENCE holds it and its descriptor is ready. -/
def opReady (s : State) (g : Nat) (op : QueueOp) : Bool := !s.fenced g op.index && s.descReady op.raw

/-! ### Completion records -/

/-- A completion record without its PHASE (R327). -/
def completionBytes (s : State) (g : Nat) (op : QueueOp) (code result : Nat) (scalarFlag : Bool) : Bytes :=
  let flags := bnat op.varied * 2 + bnat scalarFlag * 4 + bnat (op.replayed || (Desc.isStep op.raw && (s.group g).attempt != 0)) * 8
  leBytes 4 op.index ++ leBytes 1 (Desc.opcode op.raw) ++ leBytes 1 code ++ leBytes 1 g ++ leBytes 1 flags
    ++ leBytes 6 (s.group g).step ++ leBytes 2 0 ++ leBytes 8 (Desc.userTag op.raw) ++ leBytes 4 result
    ++ leBytes 4 (s.now % 2 ^ 32)

/-- PHASE of the record with number n (R328). -/
def completionPhase (n : Nat) : Nat := (n / 1024 + 1) % 2

/-- Put PHASE into a record. -/
def withPhase (n : Nat) (b : Bytes) : Bytes := setAt b 7 (b.getD 7 0 ||| BitVec.ofNat 8 (completionPhase n))

/-- The completion ring holds 1,024 records that software has not yet taken (R313). -/
def complFull (q : Queue) : Bool := (q.complTail - q.complHead).toNat ≥ 1024

/-- A record as the queue keeps it once written: a dropped add is not made again with it (R331). -/
def asWritten (s : State) (r : DueRecord) : DueRecord :=
  { r with add := r.add.filter (fun a => !s.trigDetached a.1) }

/-- Write one completion record: the record, COMPL_TAIL, then the trigger add (R328). -/
def writeRecord (s : State) (g : Nat) (r : DueRecord) : State :=
  let q := s.queue g
  let n := q.complTail.toNat
  let s := s.emit (.completion g (q.complBase + 32 * (n % 1024)) (withPhase n r.bytes))
  let s := s.setQueue g { q with complTail := q.complTail + 1, written := q.written ++ [s.asWritten r] }
  match r.add with
  | some (c, v) => s.queueAdd g r.index c v
  | none => s

/-- Write the records that wait while the ring has room, in order; `fuel` bounds them. The records of the running tide
wait for its end, unless `all` is set: that is when their order is known (R328). After a failed write they wait until the
queue is restarted (R331). -/
def flushDue (all : Bool) : Nat → State → Nat → State
  | 0, s, _ => s
  | n + 1, s, g =>
    let q := s.queue g
    match q.due with
    | [] => s
    | r :: rest =>
      if complFull q || q.complErr || (!all && r.tide == s.now) then s
      else flushDue all n ((s.setQueue g { q with due := rest }).writeRecord g r) g

/-- Write what a queue's ring has room for, of the tides before this one. -/
def flushQueue (s : State) (g : Nat) : State := flushDue false ((s.queue g).due.length) s g

/-- The end of a tide: the records of its completions are written (R328). -/
def flushTide (s : State) : State := s.queues.foldl (fun s (x : Nat × Queue) => flushDue true x.2.due.length s x.1) s

/-- Put a record behind those of earlier tides, and in ascending INDEX among those of its own (R328). -/
def insertDue (r : DueRecord) : List DueRecord → List DueRecord
  | [] => [r]
  | x :: l => if x.tide = r.tide ∧ r.index < x.index then r :: x :: l else x :: insertDue r l

/-- Complete an operation with a code: exactly one record (R322, R328); a replayed operation that has its record
already writes no second one. -/
def complete (s : State) (g : Nat) (op : QueueOp) (code result : Nat) (scalarFlag : Bool) : State :=
  let add := if Desc.complAdd op.raw && code == 0 then some (Desc.complCounter op.raw, Desc.complInc op.raw) else none
  let r : DueRecord := { tide := s.now, index := op.index, add := add
                         bytes := s.completionBytes g op code result scalarFlag }
  let s := s.modOp g op.index (fun o => { o with phase := .done, recorded := true })
  let s := if (s.queue g).state == .stopping then s.modQueue g (fun q => { q with waitedAt := some s.now }) else s
  if op.recorded then s else
  s.modQueue g (fun q => { q with due := insertDue r q.due, lastCode := if code = 0 then q.lastCode else code })

/-- Drop completed operations that no step still needs (R316). -/
def dropDone (s : State) (g : Nat) : State :=
  s.modQueue g (fun q => { q with ops := q.ops.filter (fun o => o.phase != .done || Desc.isStep o.raw) })

/-- Complete an operation that belongs to no step. -/
def completeAlone (s : State) (g : Nat) (op : QueueOp) (code result : Nat) : State :=
  (s.complete g op code result false).dropDone g

/-- Mark an operation as varied (R371). -/
def markVaried (s : State) (g i : Nat) : State := s.modOp g i (fun o => { o with varied := true })

end State

end Sys2Proof.Machine
end

