-- ==== Sys2Proof/Machine/ExpressCore.lean ====
section
/-! DEFINITION. Express instances (R158 to R168): copies of a message, operands, the combination rules, the reduce and
broadcast laps. -/

namespace Sys2Proof.Machine

open Sys2Proof

/-! ### Combination rules -/

/-- The signed value of a 32-bit word. -/
def s32 (v : Nat) : Int := signed 32 v

/-- What combining gives: the new VALUE, and whether it saturated or an input was replaced. -/
structure Combined where
  value : Nat
  flag  : Bool
  deriving DecidableEq, Repr

/-- A binary32 operand as SUM_F32 takes it: nonfinite enters as +0 (R163). -/
def sumOperand (v : Nat) : Dy × Bool :=
  match fp32.decode v with
  | none => (Dy.zero, true)
  | some x => (x, false)

/-- Combine a member's operand into a SCALAR value (R163). -/
def combineScalar (op acc v : Nat) : Combined :=
  match op with
  | 0 =>
    let t := s32 acc + s32 v
    let c := clampInt (-2 ^ 31) (2 ^ 31 - 1) t
    ⟨unsigned 32 c, decide (c ≠ t)⟩
  | 1 => ⟨unsigned 32 (max (s32 acc) (s32 v)), false⟩
  | 2 => ⟨unsigned 32 (min (s32 acc) (s32 v)), false⟩
  | 3 => ⟨acc &&& v, false⟩
  | 4 => ⟨acc ||| v, false⟩
  | 5 => ⟨(acc + if v = 0 then 0 else 1) % 2 ^ 32, false⟩
  | _ =>
    let x := sumOperand v
    let a := sumOperand acc
    let r := fp32.round (a.1.add x.1)
    ⟨r.code, x.2 || r.sat⟩

/-- The operand of position 0 as it enters the lap (R160, R163). -/
def originScalar (op v : Nat) : Combined :=
  match op with
  | 5 => ⟨if v = 0 then 0 else 1, false⟩
  | 6 => let x := sumOperand v; ⟨(fp32.round x.1).code, x.2⟩
  | _ => ⟨v, false⟩

/-- Combine a statistic (R165): 0 Q_MAX by signed maximum, CLIP and OVF by a sum saturating at 2^32 − 1. -/
def combineStat (stat acc v : Nat) : Combined :=
  if stat = 0 then ⟨unsigned 32 (max (s32 acc) (s32 v)), false⟩
  else if acc + v > 0xFFFFFFFF then ⟨0xFFFFFFFF, true⟩ else ⟨acc + v, false⟩

/-- Kinds whose effect falls on the tide the broadcast names (R161). -/
def timedKind (k : Nat) : Bool := k == kBarrier || k == kOpen || k == kReady || k == kCommit

namespace State

/-! ### Receiving a message -/

/-- The rail-0 receive port of a group. -/
def expressRx (s : State) (g : Nat) : Option Nat := (s.ringOf g).bind (fun r => s.rxPort r 0)

/-- Two copies match by KIND, GROUP and TAG, and for VERDICT by the identity bits of VALUE; the lap tells a reduce
message from its broadcast (R159). -/
def sameMsg (a b : Msg) : Bool :=
  a.kind == b.kind && a.group == b.group && a.tag == b.tag && a.lap == b.lap
    && (a.kind != kVerdict || field a.value 3 13 == field b.value 3 13)
    && (a.kind != kAbort || a.value == b.value)

/-- Take a received copy: none when it is ignored as the second copy of a message already taken, or discarded as
malformed; else the message and the state that remembers a first copy (R158, R159). A message of a known group that comes on
another port than its rail-0 receive port is malformed (DESIGN CHOICE, log entry 110: R158 says only where messages are
received). -/
def takeMsg (s : State) (p : Nat) (w : Word64) (second : Bool) : State × Option Msg :=
  let m := readMsg w
  if !s.inService p then (s, none)
  else if !msgOk m || s.expressRx m.group != some p then (s.bumpPort p .expressMalformed 1, none)
  else if second && (s.port p).exprFirst.any (fun x => sameMsg (readMsg x.1) m) then
    (s.modPort p (fun q => { q with exprFirst := q.exprFirst.filter (fun x => !sameMsg (readMsg x.1) m) }), none)
  else if second then (s, some m)
  else (s.modPort p (fun q => { q with exprFirst := [(w, s.now)] }), some m)

/-! ### The instances of a group -/

def findExpress (s : State) (g kind tag : Nat) : Option Express :=
  (s.group g).express.find? (fun e => e.kind == kind && e.tag == tag && !e.done)

/-- Change an instance, adding it if it is not there. -/
def modExpress (s : State) (g kind tag : Nat) (f : Express → Express) : State :=
  s.modGroup g (fun gr =>
    if gr.express.any (fun e => e.kind == kind && e.tag == tag && !e.done) then
      { gr with express := updateWhere (fun e => e.kind == kind && e.tag == tag && !e.done) f gr.express }
    else { gr with express := gr.express ++ [f { kind := kind, tag := tag, since := s.now }] })

/-- Ring size and own position of a group. -/
def ringN (s : State) (g : Nat) : Nat := ((s.ringOf g).map (·.n)).getD 2
def ringPos (s : State) (g : Nat) : Option Nat := (s.ringOf g).bind s.posIn
def hG (s : State) (g : Nat) : Nat := ((s.ringOf g).map (·.hG)).getD 0

/-- The member's operand combined into a reduce message (R160, R163, R165, R168). -/
def combineMsg (m : Msg) (own : Nat) (ownFlag : Bool) : Msg :=
  if m.kind = kScalar then
    let c := combineScalar m.op m.value own
    { m with value := c.value, flag := m.flag || c.flag }
  else if m.kind = kStat then
    let c := combineStat (field m.tag 12 2) m.value own
    { m with value := c.value, flag := m.flag || c.flag || ownFlag }
  else if m.kind = kCommit then { m with flag := m.flag || ownFlag }
  else m

/-- Count SCALAR saturation (R163). -/
def countScalar (s : State) (before after : Msg) (own : Nat) : State :=
  if after.kind = kScalar then
    let c := combineScalar after.op before.value own
    if c.flag then s.bumpG .scalarSat after.group 1 else s
  else s

/-- Forward a held reduce message once the member has its operand. -/
def forwardReduce (s : State) (g kind tag : Nat) : State :=
  match s.findExpress g kind tag with
  | some e =>
    match e.own, e.held with
    | some own, some w =>
      if s.ringPos g = some 0 then s
      else
        let m := readMsg w
        let m' := combineMsg m own.toNat e.flag
        let s := s.countScalar m m' own.toNat
        (s.modExpress g kind tag (fun e => { e with held := none, forwarded := some s.now })).send m'
    | _, _ => s
  | none => s

/-- The message with which position 0 opens the reduce lap. -/
def originMsg (g : Nat) (e : Express) (own : Nat) : Msg :=
  if e.kind = kScalar then
    let c := originScalar e.op own
    ⟨kScalar, false, c.flag, g, e.tag, e.op, c.value⟩
  else if e.kind = kStat then ⟨kStat, false, e.flag, g, e.tag, 0, own⟩
  else if e.kind = kCommit then ⟨kCommit, false, e.flag, g, e.tag, 0, 0⟩
  else ⟨e.kind, false, false, g, e.tag, 0, 0⟩

/-- The member's operand of an instance becomes available: position 0 starts the lap, another member forwards a message
it holds (R160). -/
def giveOperand (s : State) (g kind tag op own : Nat) (flag : Bool) : State :=
  let s := s.modExpress g kind tag
    (fun e => { e with own := some (BitVec.ofNat 32 own), op := op, flag := flag,
                       since := if e.held.isSome then e.since else s.now })
  if s.ringPos g = some 0 then
    match s.findExpress g kind tag with
    | some e =>
      if e.forwarded.isSome then s
      else
        let m := originMsg g e own
        let s := if m.kind = kScalar ∧ m.flag then s.bumpG .scalarSat g 1 else s
        (s.modExpress g kind tag (fun e => { e with forwarded := some s.now })).send m
    | none => s
  else s.forwardReduce g kind tag

/-- A reduce message reaches a member that is not the origin: it holds the message, and forwards it when it has its
operand (R160). -/
def holdReduce (s : State) (m : Msg) : State :=
  (s.modExpress m.group m.kind m.tag (fun e => { e with held := some (msgWord m), since := s.now })).forwardReduce
    m.group m.kind m.tag

/-- Tide E that a 32-bit VALUE names, nearest to the tide in progress. -/
def tideNear (s : State) (v : Nat) : Nat :=
  let low := s.now % 2 ^ 32
  let d : Int := signed 32 ((v + 2 ^ 32 - low) % 2 ^ 32)
  ((s.now : Int) + d).toNat

/-- A member takes the result of a timed instance: it applies at E, or at the next boundary if E is past (R161). -/
def takeTimed (s : State) (g kind tag e : Nat) (flag : Bool) : State :=
  let late := decide (e ≤ s.now)
  s.modExpress g kind tag
    (fun x => { x with result := some (BitVec.ofNat 32 e), flag := flag, late := late,
                       effectAt := some (if late then s.now + 1 else e) })

/-- The reduce lap returns to the origin, which starts the broadcast and takes the result (R160, R161). -/
def completeLap (s : State) (m : Msg) : State :=
  let g := m.group
  if timedKind m.kind then
    let e := s.now + s.hG g
    (s.takeTimed g m.kind m.tag e m.flag).send { m with lap := true, value := e % 2 ^ 32 }
  else
    (s.modExpress g m.kind m.tag
      (fun x => { x with result := some (BitVec.ofNat 32 m.value), flag := m.flag, effectAt := some (s.now + 1) })).send
        { m with lap := true }

/-- A broadcast reaches a member: it takes the result and forwards the message, but for position N − 1 (R160). -/
def takeBroadcast (s : State) (m : Msg) : State :=
  let g := m.group
  let s :=
    if timedKind m.kind then s.takeTimed g m.kind m.tag (s.tideNear m.value) m.flag
    else s.modExpress g m.kind m.tag
      (fun x => { x with result := some (BitVec.ofNat 32 m.value), flag := m.flag, effectAt := some (s.now + 1) })
  if s.ringPos g = some (s.ringN g - 1) then s else s.send m

/-- Where a standard message goes by its lap and the member's position. An instance whose broadcast has come already
takes no other. -/
def routeMsg (s : State) (m : Msg) : State :=
  if m.lap then (if s.ringPos m.group = some 0 then s else s.takeBroadcast m)
  else if s.ringPos m.group = some 0 then
    (match s.findExpress m.group m.kind m.tag with
     | some e => if e.forwarded.isSome && e.result.isNone then s.completeLap m else s
     | none => s)
  else s.holdReduce m

/-- A standard message of one kind is received (R160): an aborted step ignores it (R169). -/
def receiveStandard (s : State) (p : Nat) (w : Word64) (second : Bool) (kind : Nat) (check : State → Msg → State) : State :=
  if w = 0 ∨ (msgOk (readMsg w) ∧ (readMsg w).kind ≠ kind) then s
  else
  let r := s.takeMsg p w second
  match r.2 with
  | some m =>
    if (r.1.group m.group).abort.isSome then r.1
    else
      let s := check r.1 m
      if (s.group m.group).abort.isSome then s else s.routeMsg m
  | none => r.1

/-- An express result that came late: the event, the counter and the may-vary entry (R161, R374). -/
def lateEffect (s : State) (g : Nat) (e : Express) : State :=
  if e.late then
    let due := s.tideNear ((e.result.map (·.toNat)).getD 0)
    (s.bumpG .expressLate g 1).enterLedger g 6 0xFFF
      (e.tag % 2 ^ 14 + e.kind % 16 * 2 ^ 14 + Nat.min (s.now - due) (2 ^ 14 - 1) * 2 ^ 18)
  else s

end State

end Sys2Proof.Machine
end

