-- ==== Sys2Proof/Machine/HopCore.lean ====
section
/-! DEFINITION. What a hop shares (R143 to R151, R173 to R186): contexts, staging, reading and writing residuals,
encoding, the ledger, the self-check, sending, delivery, and the member's part of a verdict lap. -/

namespace Sys2Proof.Machine

open Sys2Proof

namespace State

/-! ### Chunk contexts (R150, R151) -/

/-- The lowest context number not in use. -/
def freeCtx (s : State) : Nat :=
  let used := s.groups.flatMap (fun g => g.2.ctxs.filter (fun x => x.parked.isNone) |>.map (·.number))
  ((List.range (used.length + 1)).find? (fun n => !used.contains n)).getD used.length

/-- Bytes of one element in the output region, and where a chunk's output begins (R125, R150, R319). -/
def outOffset (v : OpView) (c : Nat) : Nat :=
  if v.d.sparse && Desc.form v.op.raw == 1 then 16 * listCap v.d * c
  else ((Desc.outFmt v.op.raw).map (·.width)).getD 4 * v.base c

def inOffset (v : OpView) (c : Nat) : Nat := ((Desc.inFmt v.op.raw).map (·.width)).getD 4 * v.base c

/-- Where in a bucket's retention slot a place named by a free value lies, that leaves room for `n` bytes where the slot has
it (R205, R285). -/
def slotPlace (d : ImgBucket) (free n : Nat) : Nat := 256 * (free % ((d.retBytes - n) / 256 + 1))

/-- The places of a chunk's wide sum, 8 B a position, and of its flood cells in its bucket's retention slot. -/
def widePlace (s : State) (v : OpView) (c : Nat) : Nat :=
  slotPlace v.d (Config.retainOffset s.image.active.hash v.d.bucket c) (8 * v.limit c)
def cellPlace (s : State) (v : OpView) (c : Nat) : Nat :=
  slotPlace v.d (Config.retainCells s.image.active.hash v.d.bucket c) (256 * chunkCellsOf v.d)

/-- Hop role of R150. -/
def roleOf (v : OpView) (c : Nat) : Nat :=
  let j := v.hop c
  if j = v.l.n then 2 else if j = 1 then 0 else 1

/-- A context for a chunk in its round, as the member first handles it, in a PHASE (R150, R151). -/
def newCtx (s : State) (v : OpView) (c bay : Nat) (phase : CtxPhase) : Ctx :=
  { number := s.freeCtx, phase := phase, group := v.g, bucket := v.d.bucket, chunk := c,
    opIndex := v.op.index, step := (s.group v.g).step, fb := v.l.fallback, gen := v.l.gen % 4, sparse := v.d.sparse,
    cells := chunkCellsOf v.d, rail := v.railOf c, role := roleOf v c, deferred := v.l.deferred,
    owner := v.ownerOf c, part := s.ownerOr8 v.g, mayVary := Desc.mayVary v.op.raw,
    outAddr := Desc.outAddr v.op.raw + outOffset v c, inAddr := Desc.inAddr v.op.raw + inOffset v c,
    retainAt := if roleOf v c = 2 then (v.d.retOff + s.widePlace v c) / 256 else 0,
    start := v.startOf (v.roundOf c), round := v.roundOf c, bay := bay,
    firstCell := Config.stagingCell v.d.bucket c s.now }

/-- The context of a chunk, taken if the member has none yet. -/
def takeCtx (s : State) (v : OpView) (c bay : Nat) (phase : CtxPhase) : State :=
  if (s.ctx v.g v.d.bucket c).isSome then s
  else s.modGroup v.g (fun gr => { gr with ctxs := gr.ctxs ++ [s.newCtx v c bay phase] })

/-- A chunk's first slot of a use, on the port and direction given. -/
def chunkSlot (s : State) (v : OpView) (c port dir use : Nat) : Nat :=
  (s.sequence v.g (v.railOf c) port dir use).getD v.d.slotPos 0

/-- The bay that the table binds to a chunk's first slot of a use, on the port and direction given. -/
def chunkBay (s : State) (v : OpView) (c port dir use : Nat) : Nat :=
  ((s.runAt port dir (s.chunkSlot v c port dir use)).map (·.bay)).getD 0

def txOf (s : State) (v : OpView) (c : Nat) : Nat := ((s.ringOf v.g).bind (fun r => s.txPort r (v.railOf c))).getD 0
def rxOf (s : State) (v : OpView) (c : Nat) : Nat := ((s.ringOf v.g).bind (fun r => s.rxPort r (v.railOf c))).getD 0

/-- The bay of the member's hop of a chunk, and the logical position of the cove that does it: at the first member those of
the slot that it sends in, else of the slot that it receives in (R16). -/
def hopBay (s : State) (v : OpView) (c : Nat) : Nat :=
  if v.hop c = 1 then s.chunkBay v c (s.txOf v c) 0 0 else s.chunkBay v c (s.rxOf v c) 1 0
def hopCove (s : State) (v : OpView) (c : Nat) : Nat :=
  let port := if v.hop c = 1 then s.txOf v c else s.rxOf v c
  let dir := if v.hop c = 1 then 0 else 1
  Config.cove s.image.active.hash s.ident.hallChip (s.group v.g).table port dir (s.chunkSlot v c port dir 0) % 15

/-- The fabric reads of a chunk's part of the input region, through the fabric port of the bay that does its hop (R16, R147,
R150). -/
def gradReads (s : State) (v : OpView) (c : Nat) : Output :=
  .memRead (s.bayFabric (s.group v.g).table (s.hopBay v c)) (Desc.inAddr v.op.raw + inOffset v c)
    (((Desc.inFmt v.op.raw).map (·.width)).getD 4 * min (v.limit c) (v.d.l - v.base c))

/-! ### Errors that reads meet (R22, R23) -/

/-- Set bits of FAULT_STATUS (R346). -/
def setFaults (s : State) (f : FaultStatus → FaultStatus) : State :=
  { s with power := { s.power with faults := f s.power.faults } }

/-- MEMORY_UE of SRAM region r (R22, R388). -/
def sramUE (s : State) (region code : Nat) : State :=
  let s := s.setFaults (fun f => { f with sramUE := true })
  let a := Config.sramAddress region s.now
  (s.bump .sramUe).raise
    { type := 0x0063, severity := 3, code := code, subject := a / 256 * 256, arg := region, rings := s.ringsE }

/-- MEMORY_UE of a stack unit (R395). -/
def stackUE (s : State) (unit code : Nat) : State :=
  let s := s.setFaults (fun f => { f with stackUE := true })
  (s.bump .stackUe).raise
    { type := 0x0063, severity := 3, code := code, subject := 1 + unit * 256, arg := 0, rings := s.ringsE }

/-- Note corrected errors and errors of cells in staging, received or waiting for their slots, that a hop meets (R22). -/
def noteErrors (s : State) (env : HopEnv) : State :=
  let s := if env.sramCE = 0 then s else s.bumpBy .sramCe env.sramCE
  let s := if env.stackCE = 0 then s else s.bumpBy .stackCe env.stackCE
  (env.stagedIn ++ env.stagedOut).foldl (fun s _ => s.sramUE 0 0) s

/-- Count the errors that reads of the stacks corrected (R395). -/
def readStack (s : State) (met : StackReads) : State :=
  if met.corrected = 0 then s else s.bumpBy .stackCe met.corrected

/-- The units of a range that cannot be read: those known to be bad and those the read meets. -/
def badIn (s : State) (met : List Nat) (a n : Nat) : List Nat :=
  (unitsOf a n).filter (fun u => s.badUnits.contains u || met.contains u)

/-! ### Received cells (R21, R178, R181) -/

/-- The staged cells of a chunk in index order; an absent one is none. -/
def stagedCells (s : State) (v : OpView) (c lap : Nat) : List (Option Bytes) :=
  let ref := planRef s.im v.d c
  (List.range (chunkCellsOf v.d)).map (fun i =>
    (s.staging.find? (fun x => x.group == v.g && x.lap == lap && x.rail == v.railOf c && x.ref == ref
      && x.index == i)).map (·.cell))

/-- Cells read from staging with the errors that the reads meet. -/
def withErrors (cells : List Bytes) (errs : List (Nat × Bytes)) : List Bytes :=
  cells.zipIdx.map (fun x => match errs.find? (fun e => e.1 == x.2) with | some e => padTo 256 e.2 | none => x.1)

def dropStaged (s : State) (v : OpView) (c lap : Nat) : State :=
  let ref := planRef s.im v.d c
  { s with staging := s.staging.filter (fun x => !(x.group == v.g && x.lap == lap && x.rail == v.railOf c && x.ref == ref)) }

/-- The retransmission slots of a VC that a port receives. -/
def repeatSlots (s : State) (p vc : Nat) : Nat := (s.useSlots p 1 vc 2 (fun _ => true)).length

/-- The requests of the tide before that the sender has slots for, in ascending slot order (R176, R178). -/
def servable (s : State) (p vc : Nat) : List Nat :=
  let ks := ((s.port p).asked.filter (fun a =>
    decide (a.2 + 1 = s.now) && ((s.runAt p 1 a.1).map (·.vc)).getD 3 == vc)).map (·.1)
  (sortBy (fun a b => decide (a ≤ b)) ks).take (s.repeatSlots p vc)

/-- Count the slots of a VC whose cells are still missing although a repeat was asked for: RETX_FAIL for each; RETX_LOST
where nothing came for a request that the sender had a slot for (R178). -/
def countMissing (s : State) (p vc missing : Nat) (slots : List Nat) : State :=
  let due := slots.filter (s.servable p vc).contains
  let lost := (due.filter (fun k => !(s.port p).badRepeats.contains k)).length
  let s := s.bumpPort p .retxFail missing
  if lost = 0 then s else s.bumpPort p .retxLost lost

/-- A missing cell at processing: hop check unrecoverable (R157, R178). -/
def missingCells (s : State) (v : OpView) (c lap : Nat) (cells : List (Option Bytes)) : State :=
  let port := ((s.ringOf v.g).bind (fun r => s.rxPort r (v.railOf c))).getD 0
  let seq := s.sequence v.g (v.railOf c) port 1 lap
  let lost := (cells.zipIdx.filter (fun x => x.1.isNone)).map (fun x => seq.getD (v.d.slotPos + x.2) 0)
  (s.countMissing port 0 lost.length lost).abort v.g 0x04 c v.d.bucket

/-- Ledger word and tally of the lowest-numbered cell, and whether every test of R144 and R181 passes. -/
structure Trailer where
  ledger : Nat
  tally  : Nat
  ok     : Bool
  deriving DecidableEq, Repr

def trailerOf (lap attempt : Nat) (cells : List Bytes) : Trailer :=
  let fs := cells.map readCell
  let w := ((fs.head?).map (·.ledger)).getD 0
  let t := ((fs.head?).map (·.tally)).getD 0
  { ledger := w % 2 ^ 61, tally := t,
    ok := fs.all (fun f => f.ledger == w && f.tally == t) && decide (w % 2 ^ 61 < lcMod)
      && bitAt w 61 == (lap == 1) && field w 62 2 == attempt % 4 }

/-! ### Residuals -/

/-- Generation A or B of a chunk's positions. -/
def readGen (s : State) (v : OpView) (genB : Bool) (c : Nat) : Vec :=
  readResiduals v.d (s.stack.readBytes (s.genAddr v.d genB (v.base c)) (resWidth v.d * v.limit c))

/-- Units of a generation's range of a chunk that cannot be read. -/
def genBad (s : State) (v : OpView) (genB : Bool) (c : Nat) (met : List Nat) : List Nat :=
  s.badIn met (s.genAddr v.d genB (v.base c)) (resWidth v.d * v.limit c)

/-- Scheduled work writes bytes of the stacks: a unit written whole, at once or in parts, has no error any more (R396,
R404). -/
def writeUnits (s : State) (a n : Nat) : State :=
  let us := unitsOf a n
  let part (u : Nat) : Nat × Nat × Nat := (u, max a (256 * u) - 256 * u, min (a + n) (256 * u + 256) - 256 * u)
  let parts := s.maint.partWritten ++ (us.filter s.badUnits.contains).map part
  let done (u : Nat) : Bool := (List.range 256).all (fun i => parts.any (fun x => x.1 == u && decide (x.2.1 ≤ i ∧ i < x.2.2)))
  let good := us.filter done
  { s with badUnits := s.badUnits.filter (fun u => !good.contains u),
           maint := { s.maint with wrote := us.foldl addOnce s.maint.wrote,
                                   partWritten := parts.filter (fun x => !good.contains x.1) } }

/-- Units that a read could not correct are bad from then on. -/
def markBad (s : State) (us : List Nat) : State :=
  us.foldl (fun s u =>
    { s with badUnits := addOnce s.badUnits u,
             maint := { s.maint with partWritten := s.maint.partWritten.filter (fun x => x.1 != u) } }) s

/-- Write generation B of a chunk's positions with the counters and the event of R89. -/
def writeGen (s : State) (v : OpView) (c : Nat) (r : Vec) : State :=
  let st := storeResiduals v.d r
  let a := s.genAddr v.d true (v.base c)
  let s := ({ s with stack := s.stack.writeBytes a st.bytes } : State).writeUnits a st.bytes.length
  let s := if st.sat.isEmpty then s else
    (s.bumpBy .resSat st.sat.length).raise
      { type := 0x0015, severity := 1, group := some v.g, subject := v.d.bucket,
        arg := (v.base c + st.sat.headD 0) % 2 ^ 32, rings := s.ringsG v.g }
  let s := if st.under = 0 then s else s.bumpBy .resUnderflow st.under
  s.modGroup v.g (fun gr => { gr with written := addOnce gr.written (v.d.bucket * 2 ^ 20 + c) })

/-- An uncorrectable residual or retention read ends the step with 0x0B, naming bucket and chunk (R23). -/
def residualLost (s : State) (g b c : Nat) (units : List Nat) : State :=
  let s := s.markBad units
  let s := s.stackUE (units.headD 0) 0x0B
  s.abort g 0x0B c b

/-! ### The arithmetic of a hop -/

/-- What the first member starts from: nothing. -/
def noInput (n : Nat) : Decoded := { values := List.replicate n 0, exact := List.replicate n 0, malformed := 0 }

/-- Decode the payloads of received cells (R79, R113). -/
def decodeCells (v : OpView) (c : Nat) (cells : List Bytes) : Decoded × List (Nat × Nat) :=
  let ps := cells.map (fun b => (readCell b).payload)
  if v.d.sparse then decodeSparse v.d.listCells v.d.counts (v.limit c) ps
  else (decodeDense v.coding v.d.chunkCells v.d.outlierCells (v.limit c) ps, [])

/-- What a member does with a chunk at its hop: contribution, sum, encoding. -/
structure HopWork where
  con   : Contribution
  acc   : Accumulated
  enc   : Encoded
  union : List (Nat × Nat)
  short : Bool
  delta : List Int
  deriving DecidableEq, Repr

/-- Encode the running sum (R102, R119 to R121). -/
def encodeChunk (v : OpView) (defer : Bool) (marks : List Nat) (acc : List Int) (union : List (Nat × Nat)) : Encoded :=
  if v.d.sparse then encodeSparse v.d.listCells v.d.counts defer marks acc union
  else encodeDense v.coding v.d.chunkCells v.d.outlierCells defer marks acc

/-- Steps 1 to 4 of R143 on the decoded incoming chunk; `mark` puts DEFER into what is sent. Δ is taken against the exact
incoming values (R180, R182); the bounds of R81 hold for the sum. -/
def hopWork (v : OpView) (c : Nat) (deferred mark : Bool) (grad : Bytes) (resA : Vec) (inp : Decoded)
    (inUnion : List (Nat × Nat)) : HopWork :=
  let con :=
    if deferred then contributeDeferred v.d v.ext (v.base c) resA
    else contribute v.d v.ext ((Desc.inFmt v.op.raw).getD .fp32) (v.base c) (v.limit c) grad resA
  let sel := if v.d.sparse && !deferred then select con.x v.d.selK else ([], false)
  let own (p : Nat) : Bool := !deferred && (!v.d.sparse || sel.1.contains p)
  let acc := accumulate v.l.et own inp.values con.x
  let acc := { acc with marks := sortBy (fun a b => decide (a ≤ b)) ((inp.marks ++ acc.marks).eraseDups) }
  let union := mergeUnion inUnion sel.1
  let enc := encodeChunk v mark acc.marks acc.acc union
  { con := con, acc := acc, enc := enc, union := union, short := sel.2,
    delta := List.zipWith (· - ·) enc.sent inp.exact }

/-- A vector's linear check under a group's step (R180). -/
def lcOf (s : State) (v : OpView) (c : Nat) (x : List Int) : Nat := lc v.d.rotSeed ((s.group v.g).step % 2 ^ 24) c x

/-- The structure check of a list's slots; zero for a dense chunk (R126, R184). -/
def structOf (s : State) (v : OpView) (c : Nat) (slots : List (Nat × Nat)) : Nat :=
  if v.d.sparse then structureCheck v.d.rotSeed ((s.group v.g).step % 2 ^ 24) c slots else 0

/-! ### Counters of a hop -/

/-- Additions that left the accumulator's range: the counter and the event (R81). -/
def noteMarks (s : State) (v : OpView) (c : Nat) (marks : List Nat) : State :=
  if marks.isEmpty then s
  else
    (s.bumpG .accSat v.g marks.length).raise
      { type := 0x0014, severity := 1, group := some v.g, subject := v.d.bucket + c * 2 ^ 12, arg := marks.headD 0,
        rings := s.ringsG v.g }

/-- Count a number of occurrences for a group, if any. -/
def addG (s : State) (k : EStat) (g n : Nat) : State := if n = 0 then s else s.bumpG k g n

/-- Counters of an encoding (R75, R76, R79, R103, R104, R120, R122). -/
def countEnc (s : State) (g : Nat) (e : Encoded) : State :=
  (((((((s.addG .fmtZeroBlock g e.count.zero).addG .fmtFlush g e.count.flush).addG .fmtSatBlock g e.count.satBlock).addG
    .outlierSat g e.outSat).addG .outlierOvf g e.overflow).addG .selTrim g e.trim).addG .selPad g e.pad)

/-- Counters of forming and adding a contribution and of encoding (R80, R81, R87, R90), with the accumulator event. -/
def countHop (s : State) (v : OpView) (c : Nat) (w : HopWork) : State :=
  let g := v.g
  let add (k : EStat) (n : Nat) (s : State) : State := s.addG k g n
  let s := add .nonfiniteIn w.con.nonfinite s
  let s := if s.zeroPolicy g && w.con.nonfinite != 0 then s.bumpBy .nonfiniteZero w.con.nonfinite else s
  let s := add .contribSat w.con.sat s
  let s := add .accInexact w.acc.inexact s
  let s := s.noteMarks v c w.acc.marks
  (add .selShort (bnat w.short) s).countEnc g w.enc

/-- PHASE while a chunk is replayed stays REPLAY (R194). -/
def phaseOr (x : Ctx) (p : CtxPhase) : CtxPhase := if x.replayKind = 0 then p else .replay

/-- Change the statistics of a bucket. -/
def modStats (s : State) (g b : Nat) (f : BucketStats → BucketStats) : State :=
  s.modGroup g (fun gr => { gr with stats := gr.stats.mod {} b f })

/-- A bay's absolute maximum takes a value in (R97). -/
def noteMax (s : State) (g b bay maxBits : Nat) : State :=
  s.modStats g b (fun st => { st with bayMax := st.bayMax.mod 0 bay (max maxBits) })

/-- Keep the statistics of an attempt in the context with the cove position that counted them, and the largest |x| in the
bay's maximum (R97, R98). -/
def keepStats (s : State) (v : OpView) (c bay cove : Nat) (w : HopWork) : State :=
  let s := s.modCtx v.g v.d.bucket c (fun x =>
    { x with clip := w.enc.count.clipped, ovf := w.enc.overflow, nonfinite := decide (w.con.nonfinite ≠ 0), cove := cove })
  s.noteMax v.g v.d.bucket bay (largest w.con.x)

/-- The counts of a chunk whose verdict passed: clipped codes at the cove, overflow at the bay (R97, R98). -/
def addCounts (s : State) (g b bay cove clip ovf : Nat) : State :=
  let key := 16 * bay + s.coveAt bay cove
  s.modStats g b (fun st =>
    { st with coveClip := st.coveClip.mod 0 key (· + clip), bayOvf := st.bayOvf.mod 0 bay (· + ovf) })

/-! ### Sending a chunk -/

/-- The cells of a chunk as sent: context reference, sequence and trailer (R245, R248, R250). -/
def chunkCells (s : State) (v : OpView) (c lap tally ledger : Nat) (payloads : List Bytes) : List Bytes :=
  let ref := planRef s.im v.d c
  payloads.zipIdx.map (fun p => mkCell
    { type := 2, vc := 0, cls := lap, group := v.g, ref := ref, seq := p.2 + (s.now % 64) * 256, payload := p.1,
      ledger := ledger, tally := tally, retx := false, last := p.2 + 1 == payloads.length })

/-- A rail may carry scheduled cells: both its ports are in scheduled service, with the neighbours that the ring names
(R133), and the engine has kept the bays that serve the group (R20). -/
def railServes (s : State) (g rail : Nat) : Bool :=
  match s.ringOf g with
  | none => false
  | some r =>
    match s.posIn r, s.txPort r rail, s.rxPort r rail with
    | some q, some t, some x =>
      let is (p q' : Nat) : Bool :=
        match memberAt r q' with
        | some m =>
          (s.port p).nb.chip == m.chip
            && (match s.im.chipNo m.chip with | some e => e.serial == (s.port p).nb.serial | none => false)
        | none => false
      !s.bayLost g && s.inService t && s.inService x && is t (q + 1) && is x (q + r.n - 1)
    | _, _, _ => false

/-- Put cells into the slots of the frame in progress, keeping copies for repeat (R135, R176). -/
def placeCells (s : State) (p vc : Nat) (cells : List (Nat × Bytes)) : State :=
  s.modPort p (fun q =>
    { q with tx := cells.foldl (fun t x => t.set x.1 x.2) q.tx,
             kept := q.kept ++ cells.map (fun x => ⟨s.now, x.1, vc, x.2⟩) })

/-- Send cells in the chunk's slots of a lap, on a rail that may carry them (R133, R135, R176). -/
def sendChunk (s : State) (v : OpView) (c lap : Nat) (cells : List Bytes) : State :=
  match (s.ringOf v.g).bind (fun r => s.txPort r (v.railOf c)) with
  | none => s
  | some p =>
    if s.railServes v.g (v.railOf c) then
      let seq := s.sequence v.g (v.railOf c) p 0 lap
      s.placeCells p 0 (cells.zipIdx.map (fun x => (seq.getD (v.d.slotPos + x.2) 0, x.1)))
    else s

/-! ### Self-check (R185, R186) -/

def selfFailWindow : Nat := 327680

/-- Whether a bay has a standby cove. -/
def hasStandby (s : State) (b : Nat) : Bool := !(s.bay b).absent

/-- A false self_ok: the event, the counter, and at the second failure of the cove the fault it has (R186). -/
def selfFail (s : State) (v : OpView) (c bay cove : Nat) : State :=
  let s := (s.bump .hopSelfFail).raise
    { type := 0x0060, severity := 2, subject := bay + cove * 2 ^ 6, arg := v.d.bucket + c * 2 ^ 12, rings := s.ringsE }
  let again := s.maint.selfFails.any (fun f =>
    f.1 == bay && f.2.1 == cove && decide (s.now - f.2.2 ≤ selfFailWindow))
  let m := { s.maint with selfFails := s.maint.selfFails ++ [(bay, cove, s.now)] }
  { s with maint :=
      if again then
        (if s.hasStandby bay then { m with takeovers := addOnce m.takeovers (bay, cove) }
         else { m with retiring := addOnce m.retiring bay })
      else m }

/-- The test of R185 on the cells placed in staging. -/
def selfCheck (s : State) (v : OpView) (c bay : Nat) (staged : List Bytes) (inp delta : List Int) : State :=
  let sent := (decodeCells v c staged).1.exact
  if s.lcOf v c sent = (s.lcOf v c inp + s.lcOf v c delta) % lcMod then s
  else s.selfFail v c bay (s.coveAt bay (s.hopCove v c))

/-! ### Delivery (R82 to R84, R94, R123 to R125, R147, R148) -/

/-- Bytes written for a chunk, how many results they hold, and elements that saturated and underflowed. -/
structure Delivered where
  bytes : Bytes
  results : Nat
  sat   : Nat
  under : Nat
  deriving DecidableEq, Repr

/-- Divisor of a reduction: SUM 1, MEAN the tally, SUM_N the member count (R148, R123). -/
def divisorOf (v : OpView) (tally : Nat) : Nat :=
  if v.d.sparse then (if Desc.reduce v.op.raw = 1 then v.l.n else 1)
  else if Desc.reduce v.op.raw = 1 then tally
  else if Desc.reduce v.op.raw = 2 then v.l.n else 1

/-- A value over a divisor in the output format; a mean over 0 is +0 (R84). -/
def convertOver (o : OutFmt) (x : Dy) (den : Nat) : Rounded :=
  if den = 0 then ⟨0, false, false⟩ else o.convert x.m den x.e

def gather (o : OutFmt) (rs : List Rounded) : Delivered :=
  { bytes := rs.flatMap (fun r => leBytes o.width r.code), results := rs.length, sat := rs.countP (·.sat), under := rs.countP (·.under) }

/-- The dense form of a chunk: positions below L, inverse-rotated; a sparse rotation block without a listed index is
+0 (R94, R124). -/
def denseForm (v : OpView) (c tally : Nat) (values : List Int) : Delivered :=
  let o := (Desc.outFmt v.op.raw).getD .fp32
  let r := unrotate v.d v.ext (v.base c) (accVec v.l.et values)
  let keep := v.d.l - v.base c
  gather o ((r.toDys.take keep).map (fun x => convertOver o x (divisorOf v tally)))

/-- The list form: one record of 16 B per slot (R125). -/
def listForm (v : OpView) (c : Nat) (values : List Int) (slots : List (Nat × Nat)) : Delivered :=
  let o := (Desc.outFmt v.op.raw).getD .fp32
  let den (n : Nat) : Nat := if Desc.reduce v.op.raw = 2 then n else divisorOf v 0
  let rec_ (x : Nat × Nat) : Rounded × Bytes :=
    if x.1 = sentinel then
      (⟨0, false, false⟩, leBytes 4 0 ++ leBytes 4 sentinel ++ leBytes 2 0 ++ leBytes 4 c ++ leBytes 2 0)
    else
      let r := convertOver o ⟨values.getD x.1 0, v.l.et - 40⟩ (den x.2)
      (r, leBytes 4 r.code ++ leBytes 4 x.1 ++ leBytes 2 (if v.d.counts then x.2 else 0) ++ leBytes 4 c ++ leBytes 2 0)
  let rs := slots.map rec_
  { bytes := rs.flatMap (·.2), results := rs.length, sat := rs.countP (·.1.sat), under := rs.countP (·.1.under) }

/-- Bytes that a chunk's delivery writes. -/
def deliverForm (v : OpView) (c tally : Nat) (values : List Int) (slots : List (Nat × Nat)) : Delivered :=
  if v.d.sparse && Desc.form v.op.raw == 1 then listForm v c values slots else denseForm v c tally values

/-- Whether a chunk has been released in the step (R215). -/
def released (s : State) (v : OpView) (c : Nat) : Bool := ((s.entry v.g v.d.bucket c).map (·.released)).getD false

/-- A delivered tally below N varies the operation, once entered (R371, R374). -/
def noteTally (s : State) (v : OpView) (tally : Nat) : State :=
  if tally < v.l.n then
    let s := s.markVaried v.g v.op.index
    if ((s.opAt v.g v.op.index).map (·.l.tallyShort)).getD true then s
    else
      (s.modLaunch v.g v.op.index (fun l => { l with tallyShort := true })).enterLedger v.g 2 v.d.bucket
        (tally + v.op.index % 1024 * 2 ^ 15)
  else s

/-- The write of a chunk's converted values to compute memory, through a bay's fabric port (R16, R147). -/
def chunkWrite (s : State) (v : OpView) (c bay tally : Nat) (values : List Int) (slots : List (Nat × Nat)) : List Output :=
  let d := deliverForm v c tally values slots
  if d.bytes.isEmpty then []
  else [.memWrite (s.bayFabric (s.group v.g).table bay) (Desc.outAddr v.op.raw + outOffset v c) d.bytes]

/-- Convert a chunk's values and write them to compute memory through a bay's fabric port (R147). -/
def writeOutput (s : State) (v : OpView) (c bay tally : Nat) (values : List Int) (slots : List (Nat × Nat)) : State :=
  let d := deliverForm v c tally values slots
  let add (k : EStat) (n : Nat) (s : State) : State := s.addG k v.g n
  let s := add .outSat d.sat s
  let s := add .outUnderflow d.under s
  let s := if divisorOf v tally = 0 then add .meanEmpty d.results s else s
  s.emits (s.chunkWrite v c bay tally values slots)

/-- Deliver a chunk; one released before is not written (R147, R215). -/
def deliver (s : State) (v : OpView) (c bay tally : Nat) (values : List Int) (slots : List (Nat × Nat)) : State :=
  let s := s.noteTally v tally
  let s := s.modEntry v.g v.d.bucket c (fun e => { e with delivered := true })
  if s.released v c then s else s.writeOutput v c bay tally values slots

/-! ### Retention (R205) -/

/-- A byte range from a place in a bucket's retention slot on, no further than the slot's end (R205, R285). -/
def slotRange (s : State) (d : ImgBucket) (place n : Nat) : Nat × Nat :=
  (s.im.retain.1 * mib + d.retOff + place, min n (d.retBytes - place))
def wideRange (s : State) (v : OpView) (c : Nat) : Nat × Nat := s.slotRange v.d (s.widePlace v c) (8 * v.limit c)
def cellRange (s : State) (v : OpView) (c : Nat) : Nat × Nat :=
  s.slotRange v.d (s.cellPlace v c) (256 * chunkCellsOf v.d)

/-- The units of a chunk's wide sum in its bucket's retention slot, and of its flood cells (R23, R150, R205). -/
def wideUnits (s : State) (v : OpView) (c : Nat) : List Nat := unitsOf (s.wideRange v c).1 (s.wideRange v c).2
def retainUnits (s : State) (v : OpView) (c : Nat) : List Nat := unitsOf (s.cellRange v c).1 (s.cellRange v c).2

/-- Keep something of a chunk in retention. -/
def retain (s : State) (v : OpView) (c : Nat) (f : Retained → Retained) : State :=
  let f (r : Retained) : Retained := { f r with launch := some v.l }
  s.modGroup v.g (fun gr =>
    if gr.retained.any (fun r => r.bucket == v.d.bucket && r.chunk == c) then
      { gr with retained := updateWhere (fun r => r.bucket == v.d.bucket && r.chunk == c) f gr.retained }
    else
      { gr with retained := gr.retained ++ [f ⟨v.d.bucket, c, [], none, [], [], [], 0, 0, 0, 0, none, 0⟩] })

/-- The chunk's units in the retention region are written anew: its flood cells, and at the owner the wide sum. -/
def writeRetention (s : State) (v : OpView) (c : Nat) (owner : Bool) : State :=
  let s := s.writeUnits (s.cellRange v c).1 (s.cellRange v c).2
  if owner then s.writeUnits (s.wideRange v c).1 (s.wideRange v c).2 else s

def retainedOf (s : State) (g b c : Nat) : Option Retained :=
  (s.group g).retained.find? (fun r => r.bucket == b && r.chunk == c)

/-! ### The verdict lap of a chunk (R166) -/

/-- Identity bits of a chunk's VERDICT. -/
def verdictId (v : OpView) (c : Nat) : Nat :=
  v.railOf c * 2 ^ 3 + v.op.index % 1024 * 2 ^ 5 + v.roundOf c % 2 * 2 ^ 15

def verdictMsg (v : OpView) (c : Nat) (lap : Bool) (bits : Nat) : Msg :=
  ⟨kVerdict, lap, false, v.g, v.ownerOf c, 0, bits + verdictId v c⟩

/-- The result bits a member adds: the owner's or receiver's failed check, and a nonfinite input of its own. -/
def ownBits (x : Ctx) : Nat :=
  (if x.ownPass then 0 else if x.role = 2 then 1 else 2) ||| (if x.nonfinite then 4 else 0)

/-- The owner starts the lap after its hop (R166). -/
def startVerdict (s : State) (v : OpView) (c : Nat) : State :=
  match s.ctx v.g v.d.bucket c with
  | some x => s.send (verdictMsg v c false (ownBits x))
  | none => s

/-- A flood receiver that holds the reduce message and has made its check combines and forwards; the last receiver
becomes the origin of the broadcast and takes the result (R166). -/
def forwardVerdict (s : State) (v : OpView) (c : Nat) : State :=
  match s.ctx v.g v.d.bucket c with
  | some x =>
    match x.vHeld with
    | some w =>
      if x.checked then
        let bits := field (readMsg w).value 0 3 ||| ownBits x
        if v.floodNo c + 1 = v.l.n then
          (s.modCtx v.g v.d.bucket c (fun x => { x with vHeld := none, vResult := some bits })).send
            (verdictMsg v c true bits)
        else (s.modCtx v.g v.d.bucket c (fun x => { x with vHeld := none })).send (verdictMsg v c false bits)
      else s
    | none => s
  | none => s

end State

end Sys2Proof.Machine
end

