-- ==== Sys2Proof/Machine/Hop.lean ====
section
/-! DEFINITION. The commands of the ebb and flood laps (R136, R143 to R147, R181 to R185, R193). Each is due in one tide
of the plan; in another tide, or where its chunk is not the member's, it does not occur. -/

namespace Sys2Proof.Machine

open Sys2Proof

namespace State

/-- The chunk's ebb lap runs in its round: an original round, or an ebb replay (R192, R193). -/
def ebbRound (s : State) (v : OpView) (c : Nat) : Bool :=
  decide (v.roundOf c < v.rounds) || ((s.ctx v.g v.d.bucket c).map (·.replayKind)).getD 0 == 1

/-- The member's ebb work on the chunk in its round is still to do. -/
def ebbDue (s : State) (v : OpView) (c : Nat) : Bool :=
  s.stepRuns v.g && v.l.chunks.contains c && s.ebbRound v c
    && !((s.ctx v.g v.d.bucket c).map (·.ebbDone)).getD false

/-- The operation and chunk of a hop command when the hop is due in this tide. -/
def hopAt (s : State) (g b c : Nat) (place : OpView → Bool) : Option OpView :=
  match s.opOf g b with
  | some v =>
    if s.ebbDue v c && place v && decide (s.now = v.startOf (v.roundOf c) + v.hop c - 1) then some v else none
  | none => none

/-- The replay count of a chunk's context. -/
def replaysOf (s : State) (v : OpView) (c : Nat) : Nat := ((s.ctx v.g v.d.bucket c).map (·.replays)).getD 0

/-- What follows the encoding on the ebb lap: residual, counters, self-check, sending, record (R143 steps 4 to 6). -/
def finishEbb (s : State) (v : OpView) (c : Nat) (env : HopEnv) (w : HopWork) (inp : List Int)
    (ledgerIn ledgerOut tally : Nat) (ebbCells : List Bytes) : State :=
  let b := v.d.bucket
  let bay := ((s.ctx v.g b c).map (·.bay)).getD 0
  let s := (s.countHop v c w).keepStats v c bay (s.hopCove v c) w
  let s := s.writeGen v c (newResidual v.d v.ext (v.base c) v.l.et w.con.u w.delta)
  let cells := s.chunkCells v c 0 tally (ledgerOut + s.replaysOf v c % 4 * 2 ^ 62) w.enc.payloads
  let staged := withErrors cells env.stagedOut
  let s := s.selfCheck v c bay staged inp w.delta
  let s := s.sendChunk v c 0 staged
  let s := s.modCtx v.g b c (fun x =>
    { x with phase := phaseOr x .ebbSent, ebbIn := ledgerIn, ebbOut := ledgerOut, ledger := ledgerOut, tally := tally,
             ebbDone := true })
  let s := s.retain v c (fun r =>
    { r with ebbCells := ebbCells, clip := w.enc.count.clipped, ovf := w.enc.overflow, cove := s.hopCove v c, ebbBay := bay })
  s.modEntry v.g b c (fun e =>
    { e with deferred := v.l.deferred, attempt := (s.group v.g).attempt, ebbIn := ledgerIn, ebbOut := ledgerOut })

/-- Run `f` on a chunk unless a context error or an unreadable residual ends the step first (R22, R23). A member that does
not defer reads its part of the input region for it (R143). -/
def withReads (s : State) (v : OpView) (c : Nat) (env : HopEnv) (f : State → State) : State :=
  let s := s.noteErrors env
  if env.contextUE then (s.sramUE 1 0x04).abort v.g 0x04 c v.d.bucket
  else
    let bad := s.genBad v false c env.stackUE
    if bad.isEmpty then f (if v.l.deferred then s else s.emit (s.gradReads v c)) else s.residualLost v.g v.d.bucket c bad

/-- The first member's hop (R143): own contribution, encoded and sent. -/
def ebbFirst (s : State) (v : OpView) (c : Nat) (env : HopEnv) : State :=
  let s := s.takeCtx v c (s.hopBay v c) .launched
  s.withReads v c env (fun s =>
    let none_ := noInput (v.limit c)
    let w := hopWork v c v.l.deferred v.l.deferred env.grad (s.readGen v false c) none_ []
    s.finishEbb v c env w none_.exact 0 (s.lcOf v c w.delta) (bnat (!v.l.deferred)) [])

/-- Decode the staged cells of a lap, or end the step on a missing one. -/
def withCells (s : State) (v : OpView) (c lap : Nat) (env : HopEnv) (f : State → List Bytes → State) : State :=
  let got := s.stagedCells v c lap
  if got.any (·.isNone) then s.missingCells v c lap got
  else (f s (withErrors (got.filterMap id) env.stagedIn)).dropStaged v c lap

/-- Count malformed items and a failed trailer test (R85, R113, R144, R181). -/
def countBad (s : State) (v : OpView) (malformed : Nat) (t : Trailer) : State :=
  let n := malformed + bnat (!t.ok)
  if n = 0 then s else s.bumpG .fmtMalformed v.g n

/-- A middle member's hop (R143, R181, R182). A failed trailer test or a malformed item is carried on to the owner as
LEDGER M (R85, R113, R128, R181). -/
def ebbMiddle (s : State) (v : OpView) (c : Nat) (env : HopEnv) : State :=
  let s := s.takeCtx v c (s.hopBay v c) .ebbWait
  s.withReads v c env (fun s => s.withCells v c 0 env (fun s cells =>
    let t := trailerOf 0 (s.replaysOf v c) cells
    let d := decodeCells v c cells
    let s := s.countBad v d.1.malformed t
    let w := hopWork v c v.l.deferred v.l.deferred env.grad (s.readGen v false c) d.1 d.2
    let out := if t.ok && d.1.malformed == 0 then (t.ledger + s.lcOf v c w.delta) % lcMod else lcMod
    s.finishEbb v c env w d.1.exact t.ledger out ((t.tally + bnat (!v.l.deferred)) % 2 ^ 15) cells))

/-- Entries of a list that are no sentinels. -/
def validEntries (l : List (Nat × Nat)) : List (Nat × Nat) := l.filter (fun x => x.1 != sentinel)

/-- The owner's new F against the F held in retention, for a chunk released before (R215). -/
def sameAsHeld (s : State) (v : OpView) (c : Nat) (payloads : List Bytes) : Bool :=
  match s.retainedOf v.g v.d.bucket c with
  | some r => r.cells.map (fun b => (readCell b).payload) == payloads
  | none => true

/-- The units of a chunk's retained flood cells that a read cannot read (R23, R395). -/
def floodBad (s : State) (v : OpView) (c : Nat) (met : List Nat) : List Nat :=
  match s.retainedOf v.g v.d.bucket c with
  | some r => if r.cells.isEmpty then [] else
      (s.retainUnits v c).filter (fun u => s.badUnits.contains u || met.contains u)
  | none => []

/-- The owner's hop (R145, R183, R184). The F of a chunk released before is held against the one in retention, where that can
be read (R197, R215). -/
def ownerStep (s : State) (v : OpView) (c : Nat) (env : HopEnv) : State :=
  let b := v.d.bucket
  let bay := s.hopBay v c
  let s := s.takeCtx v c bay .ebbWait
  s.withReads v c env (fun s => s.withCells v c 0 env (fun s cells =>
    let t := trailerOf 0 (s.replaysOf v c) cells
    let d := decodeCells v c cells
    let s := s.countBad v d.1.malformed t
    let w := hopWork v c v.l.deferred false env.grad (s.readGen v false c) d.1 d.2
    let tally := (t.tally + bnat (!v.l.deferred)) % 2 ^ 15
    let pass := t.ok && d.1.malformed == 0 &&
      decide (s.lcOf v c w.acc.acc = (t.ledger + s.lcOf v c w.acc.added) % lcMod)
    let s := if pass then s else s.bump .ownCheckFail
    let s := (s.countHop v c w).keepStats v c bay (s.hopCove v c) w
    let s := s.writeGen v c (newResidual v.d v.ext (v.base c) v.l.et w.con.u w.delta)
    let flood := (s.lcOf v c w.enc.sent + s.structOf v c w.enc.entries) % lcMod
    let out := s.chunkCells v c 1 tally (flood + 2 ^ 61 + s.replaysOf v c % 4 * 2 ^ 62) w.enc.payloads
    let staged := withErrors out env.stagedOut
    let s := s.selfCheck v c bay staged d.1.exact w.delta
    let bad := if s.released v c then s.floodBad v c env.stackUE else []
    if !bad.isEmpty then s.residualLost v.g b c bad
    else if s.released v c && !s.sameAsHeld v c w.enc.payloads then
      (s.bump .replayMismatch).abort v.g 0x03 c b
    else
      let s := s.retain v c (fun r =>
        { r with wide := some w.acc.acc, indices := validEntries w.enc.entries, marks := w.acc.marks, cells := out,
                 ebbCells := cells, clip := w.enc.count.clipped, ovf := w.enc.overflow, cove := s.hopCove v c, ebbBay := bay,
                 bay := bay })
      let s := s.writeRetention v c true
      let s := s.deliver v c bay tally w.enc.sent w.enc.entries
      let s := s.sendChunk v c 1 staged
      let s := s.modCtx v.g b c (fun x =>
        { x with phase := phaseOr x .ownerDone, ebbIn := t.ledger, ebbOut := (t.ledger + s.lcOf v c w.delta) % lcMod,
                 flood := flood, ledger := flood, tally := tally, ebbDone := true, floodDone := true,
                 ownPass := pass, checked := true })
      let s := s.modEntry v.g b c (fun e =>
        { e with deferred := v.l.deferred, attempt := (s.group v.g).attempt, owner := true, ebbIn := t.ledger,
                 ebbOut := (t.ledger + s.lcOf v c w.delta) % lcMod, flood := flood, ownPass := pass })
      s.startVerdict v c))

/-! ### The flood lap -/

/-- The operation of a flood command when the member is due in this tide; its own hop of the chunk is done (R25). -/
def floodAt (s : State) (g b c : Nat) : Option OpView :=
  match s.opOf g b with
  | some v =>
    if s.stepRuns g && v.l.chunks.contains c && decide (v.floodNo c ≠ 0)
        && ((s.ctx g b c).map (fun x => x.ebbDone && !x.floodDone)).getD false
        && decide (s.now = v.startOf (v.roundOf c) + v.l.n - 1 + v.floodNo c) then some v else none
  | none => none

/-- Forwarded cells: content unchanged, the tide of this transmission (R147, R245). -/
def forwarded (s : State) (cells : List Bytes) : List Bytes :=
  cells.map (fun b => let f := readCell b; mkCell { f with seq := f.seq % 256 + s.now % 64 * 256, retx := false })

/-- A flood receiver's delivery (R147, R184). -/
def floodDeliver (s : State) (v : OpView) (c : Nat) (env : HopEnv) : State :=
  let b := v.d.bucket
  let bay := s.chunkBay v c (s.rxOf v c) 1 1
  let s := s.noteErrors env
  if env.contextUE then (s.sramUE 1 0x04).abort v.g 0x04 c b
  else s.withCells v c 1 env (fun s cells =>
    let t := trailerOf 1 (s.replaysOf v c) cells
    let d := decodeCells v c cells
    let s := (s.countBad v d.1.malformed t).noteMarks v c d.1.marks
    let pass := t.ok && d.1.malformed == 0 &&
      decide ((s.lcOf v c d.1.exact + s.structOf v c d.1.entries) % lcMod = t.ledger)
    let s := if pass then s else s.bump .recvCheckFail
    let s := s.deliver v c bay t.tally d.1.values
      (if v.d.sparse then
        (d.2 ++ List.replicate (listCap v.d - d.2.length) (sentinel, 0)) else [])
    let s := (s.retain v c (fun r => { r with cells := cells, bay := bay })).writeRetention v c false
    let s := if v.floodNo c + 1 = v.l.n then s else s.sendChunk v c 1 (withErrors (s.forwarded cells) env.stagedOut)
    let s := s.modCtx v.g b c (fun x =>
      { x with phase := phaseOr x .delivered, flood := t.ledger, ledger := t.ledger, tally := t.tally, floodDone := true,
               role := if v.floodNo c + 1 = v.l.n then 4 else 3, ownPass := pass, checked := true })
    let s := s.modEntry v.g b c (fun e => { e with flood := t.ledger, ownPass := pass })
    s.forwardVerdict v c)

/-- The units that a retention read of a chunk's wide sum cannot read: those the read meets and those known to be bad
(R23, R396). -/
def retainBad (s : State) (v : OpView) (c : Nat) (met : List Nat) : List Nat :=
  met ++ (s.wideUnits v c).filter s.badUnits.contains

/-- The owner's part in a flood replay (R193). -/
def replayFlood (s : State) (v : OpView) (c : Nat) (env : HopEnv) : State :=
  let b := v.d.bucket
  let s := s.noteErrors env
  if env.contextUE then (s.sramUE 1 0x04).abort v.g 0x04 c b
  else if !(s.retainBad v c env.stackUE).isEmpty then
    s.residualLost v.g b c (s.retainBad v c env.stackUE)
  else
    match (s.retainedOf v.g b c).bind (·.wide), s.ctx v.g b c with
    | some wide, some x =>
      let enc := encodeChunk v false (((s.retainedOf v.g b c).map (·.marks)).getD []) wide (((s.retainedOf v.g b c).map (·.indices)).getD [])
      let flood := (s.lcOf v c enc.sent + s.structOf v c enc.entries) % lcMod
      if flood ≠ x.flood then (s.bump .replayMismatch).abort v.g 0x03 c b
      else
        let out := s.chunkCells v c 1 x.tally (flood + 2 ^ 61 + x.replays % 4 * 2 ^ 62) enc.payloads
        let s := s.countEnc v.g enc
        let s := (s.retain v c (fun r => { r with cells := out })).writeRetention v c false
        let s := s.sendChunk v c 1 (withErrors out env.stagedOut)
        let s := s.modCtx v.g b c (fun x =>
          { x with phase := phaseOr x .ownerDone, floodDone := true, ownPass := true, checked := true })
        s.startVerdict v c
    | _, _ => s

end State

/-- EBB_FIRST_HOP (R136, R143). -/
def execEbbFirstHop (group bucket chunk : Nat) (env : HopEnv) (s : State) : Result :=
  whenRunning s (fun s =>
    match s.hopAt group bucket chunk (fun v => v.hop chunk == 1) with
    | some v => s.ebbFirst v chunk env
    | none => s)

/-- EBB_HOP (R136, R143). -/
def execEbbHop (group bucket chunk : Nat) (env : HopEnv) (s : State) : Result :=
  whenRunning s (fun s =>
    match s.hopAt group bucket chunk (fun v => v.hop chunk != 1 && v.hop chunk != v.l.n) with
    | some v => s.ebbMiddle v chunk env
    | none => s)

/-- OWNER_HOP (R136, R145). -/
def execOwnerHop (group bucket chunk : Nat) (env : HopEnv) (s : State) : Result :=
  whenRunning s (fun s =>
    match s.hopAt group bucket chunk (fun v => v.hop chunk == v.l.n) with
    | some v => s.ownerStep v chunk env
    | none => s)

/-- FLOOD_RECEIVE (R136, R147). -/
def execFloodReceive (group bucket chunk : Nat) (env : HopEnv) (s : State) : Result :=
  whenRunning s (fun s =>
    match s.floodAt group bucket chunk with
    | some v => s.floodDeliver v chunk env
    | none => s)

/-- FLOOD_REPLAY (R193): due in tide S_q + N − 1 at the owner of a chunk whose replay is a flood replay. -/
def execFloodReplay (group bucket chunk : Nat) (env : HopEnv) (s : State) : Result :=
  whenRunning s (fun s =>
    match s.opOf group bucket with
    | some v =>
      if s.stepRuns group && v.l.chunks.contains chunk && decide (v.rounds ≤ v.roundOf chunk)
          && v.hop chunk == v.l.n && ((s.ctx group bucket chunk).map (fun x => x.replayKind == 2 && !x.floodDone)).getD false
          && decide (s.now = v.startOf (v.roundOf chunk) + v.l.n - 1) then s.replayFlood v chunk env
      else s
    | none => s)

end Sys2Proof.Machine
end

