-- ==== Sys2Proof/Machine/Verdict.lean ====
section
/-! DEFINITION. Verdicts, releases, replay rounds and folds (R149, R154, R166, R167, R187 to R195, R201, R216), and
what follows the release of an operation's last chunk (R98, R149, R200). -/

namespace Sys2Proof.Machine

open Sys2Proof

namespace State

/-! ### Release (R201) -/

/-- Bytes that a chunk's delivery writes to the output region. -/
def outputBytes (v : OpView) (c : Nat) : Nat :=
  if v.d.sparse && Desc.form v.op.raw == 1 then 16 * listCap v.d
  else ((Desc.outFmt v.op.raw).map (·.width)).getD 4 * min (v.limit c) (v.d.l - v.base c)

/-- A release record (R201). -/
def releaseBytes (rseq g kind b c step len addr : Nat) : Bytes :=
  leBytes 4 rseq ++ leBytes 1 g ++ leBytes 1 kind ++ leBytes 2 b ++ leBytes 4 c ++ leBytes 6 step ++ leBytes 2 0
    ++ leBytes 4 len ++ leBytes 8 addr

/-- Send a release of bytes at an address to the update unit concerned, with the unit's next RSEQ. -/
def sendRelease (s : State) (g kind b c len addr : Nat) : State :=
  let u := Config.updateUnit addr
  let n := (s.unit u).rseq + 1
  let s := s.setUnit u { s.unit u with rseq := n }
  let s := s.emit (.release u (releaseBytes n.toNat g kind b c (s.group g).step len addr))
  s.modGroup g (fun gr => { gr with releases := gr.releases.filter (fun r => !(r.bucket == b && r.chunk == c)) ++
    [{ bucket := b, chunk := c, unit := u, rseq := n, tide := s.now, length := len, addr := addr }] })

/-- Release a chunk (R149); one released before in the step is not released again (R215). -/
def release (s : State) (v : OpView) (c kind : Nat) : State :=
  if s.released v c then s
  else
    (s.sendRelease v.g kind v.d.bucket c (outputBytes v c) (Desc.outAddr v.op.raw + outOffset v c)).modEntry
      v.g v.d.bucket c (fun e => { e with released := true })

/-! ### When the step is released (R200) -/

/-- The operations of the step in progress: fetched step operations up to the first COMMIT (R316). -/
def stepOps (s : State) (g : Nat) : List QueueOp :=
  let ops := ((s.queue g).ops.filter (fun o => Desc.isStep o.raw))
  let front := ops.takeWhile (fun o => Desc.opcode o.raw != Desc.opCommit)
  front ++ ((ops.drop front.length).take 1)

/-- The step's COMMIT descriptor, if it has been fetched. -/
def commitOp (s : State) (g : Nat) : Option QueueOp :=
  (s.stepOps g).find? (fun o => Desc.opcode o.raw == Desc.opCommit)

/-- RELEASED is reached once COMMIT has been fetched and every operation before it has completed (R200). -/
def checkReleased (s : State) (g : Nat) : State :=
  let gr := s.group g
  if gr.state = .exchange ∧ gr.abort.isNone ∧ ((s.commitOp g).map (fun o => !s.fenced g o.index)).getD false
      ∧ (s.stepOps g).all (fun o => Desc.opcode o.raw == Desc.opCommit || o.phase == .done) then
    (s.modGroup g (fun x => { x with state := .released, releasedAt := some s.now })).modRecord g
      (fun r => { r with state := .released })
  else s

/-! ### Statistics (R98, R165) -/

/-- Q_MAX of the largest |x| as a 16-bit signed integer carried in 32 bits. -/
def qMaxOf (maxBits : Nat) : Nat :=
  if maxBits = 0 then unsigned 32 (-32768) else unsigned 32 (fp32.value maxBits).log2

/-- The largest value and the sum of a table's entries. -/
def tblMax (t : Tbl Nat) : Nat := t.foldl (fun m x => max m x.2) 0
def tblSum (t : Tbl Nat) : Nat := t.foldl (fun m x => m + x.2) 0

/-- Clipped codes of a bay: the sum of its coves' (R14). -/
def bayClip (st : BucketStats) (bay : Nat) : Nat := tblSum (st.coveClip.filter (fun x => x.1 / 16 == bay))

/-- The engine's values of a bucket: the largest of the bays' maxima, the sums of the bays' clipped codes and overflow
(R14). -/
def engineMax (st : BucketStats) : Nat := tblMax st.bayMax
def engineClip (st : BucketStats) : Nat := ((List.range 40).map (bayClip st)).foldl (· + ·) 0
def engineOvf (st : BucketStats) : Nat := tblSum st.bayOvf

/-- A statistic of 32 bits that would exceed them saturates and sets FLAG (R98, R165). -/
def giveCount (s : State) (g tag n : Nat) : State :=
  s.giveOperand g kStat tag 0 (Nat.min n 0xFFFFFFFF) (decide (0xFFFFFFFF < n))

/-- Enter the three statistics of a bucket into the group's reductions. -/
def enterStats (s : State) (g b : Nat) : State :=
  let st := (s.group g).stats.get {} b
  if st.entered then s
  else
    let s := s.modStats g b (fun x => { x with entered := true })
    let s := s.giveOperand g kStat b 0 (qMaxOf (engineMax st)) false
    (s.giveCount g (b + 2 ^ 12) (engineClip st)).giveCount g (b + 2 ^ 13) (engineOvf st)

/-! ### The course of verdicts -/

/-- What follows the release of an operation's last chunk: statistics, or the fold of a deferred member, and the
completion record (R98, R149, R154, R195). -/
def finishOp (s : State) (v : OpView) : State :=
  let s :=
    if v.l.deferred then s.modLaunch v.g v.op.index (fun l => { l with fold := .due })
    else s.enterStats v.g v.d.bucket
  match (s.queue v.g).ops.find? (fun o => o.index == v.op.index) with
  | some op => (s.complete v.g op 0 0 false).checkReleased v.g
  | none => s

/-- What a verdict brings beside its outcome: the record, and under the ZERO policy the entry of one that carries NONFINITE,
whether it passed or failed (R167, R206, R374). -/
def noteVerdict (s : State) (v : OpView) (c bits : Nat) : State :=
  let s := if bitAt bits 2 && s.zeroPolicy v.g then s.enterLedger v.g 7 v.d.bucket c else s
  s.modEntry v.g v.d.bucket c (fun e => { e with verdict := bits, vTaken := true, replays := s.replaysOf v c })

/-- A failed verdict is counted and entered (R187, R374). -/
def countFailed (s : State) (v : OpView) (c bits : Nat) : State :=
  (s.bumpG .verdictFail v.g 1).enterLedger v.g 9 v.d.bucket (c + bits * 2 ^ 20)

/-- A chunk whose verdict passed: its statistics count, it is released, its context is done (R98, R149, R187). -/
def passChunk (s : State) (v : OpView) (c bits : Nat) : State :=
  let b := v.d.bucket
  let s := match s.ctx v.g b c with
    | some x => s.addCounts v.g b x.bay x.cove x.clip x.ovf
    | none => s
  let s := (s.release v c 0).noteVerdict v c bits
  let s := s.modCtx v.g b c (fun x => { x with vTaken := true, vPass := true })
  s.modLaunch v.g v.op.index (fun l => { l with waiting := l.waiting.filter (· != c) })

/-- A chunk whose verdict failed awaits its replay, its context parked (R187, R194). Without replay rounds the step ends
at once, and no replay is counted (R189). -/
def failChunk (s : State) (v : OpView) (c bits : Nat) : State :=
  let b := v.d.bucket
  let ebb := bitAt bits 0
  let s := if v.d.replayRounds = 0 then s else if ebb then s.bumpG .replayEbb v.g 1 else s.bumpG .replayFlood v.g 1
  let s := (s.countFailed v c bits).noteVerdict v c bits
  let n := (s.group v.g).parkCount
  let s := s.modGroup v.g (fun gr => { gr with parkCount := n + 1 })
  s.modCtx v.g b c (fun x =>
    { x with phase := .replay, vTaken := true, vPass := false, parked := some (s.time.ticks * 2 ^ 24 + n),
             replayKind := if ebb then 1 else 2, vHeld := none, vResult := none })

/-- The verdict value a member has for a chunk whose phases before the verdict it has finished (R25). -/
def verdictOf (s : State) (v : OpView) (c : Nat) : Option Nat :=
  (s.ctx v.g v.d.bucket c).bind (fun x => if x.floodDone then x.vResult else none)

/-- The launched operations of a group. -/
def launched (s : State) (g : Nat) : List OpView :=
  (s.queue g).ops.filterMap (fun o => s.opAt g o.index)

/-- The verdicts of a group that take effect in this tide and have not been taken yet, of every operation: view, chunk and
value (R187). -/
def verdictsNow (s : State) (g : Nat) : List (OpView × Nat × Nat) :=
  (s.launched g).flatMap (fun v =>
    (List.range (v.rounds + v.l.replays.length)).flatMap (fun r =>
      if v.verdictTide r = s.now then
        (v.chunksOf r).filterMap (fun c =>
          if ((s.ctx v.g v.d.bucket c).map (·.vTaken)).getD false then none
          else (s.verdictOf v c).map (fun bits => (v, c, bits)))
      else []))

/-- Under SKIP, a nonfinite verdict that takes effect in this tide: its operation's bucket and chunk (R167). -/
def skipNow (s : State) (g : Nat) : Option (Nat × Nat) :=
  if s.zeroPolicy g then none
  else ((s.verdictsNow g).find? (fun x => bitAt x.2.2 2)).map (fun x => (x.1.d.bucket, x.2.1))

/-- Verdicts that release nothing any more are recorded, the failed ones counted; NONFINITE fails a verdict under SKIP. -/
def closeVerdicts (s : State) (xs : List (OpView × Nat × Nat)) : State :=
  xs.foldl (fun s x =>
    let s := s.noteVerdict x.1 x.2.1 x.2.2
    if x.2.2 % 4 != 0 || (bitAt x.2.2 2 && !s.zeroPolicy x.1.g) then s.countFailed x.1 x.2.1 x.2.2 else s) s

/-- REPLAY_ROUNDS of the operation's bucket. -/
def replayRounds (v : OpView) : Nat := v.d.replayRounds

/-- A failed chunk that awaits its replay round (R194). -/
def parked (s : State) (v : OpView) (c : Nat) : Bool := ((s.ctx v.g v.d.bucket c).bind (·.parked)).isSome

/-- The verdicts of one round take effect (R187). A missing one ends the step, and so does a nonfinite one under SKIP; the
other verdicts of the tide are recorded and counted all the same. Where one verdict of the tide is missing and another is
nonfinite under SKIP, the round taken first decides between 0x04 and 0x05, and a missing verdict of that round comes before
(DESIGN CHOICE, log entry 124: R187 does not say). -/
def takeVerdicts (s : State) (v : OpView) (r : Nat) : State :=
  let cs := v.chunksOf r
  match cs.filter (fun c => (s.verdictOf v c).isNone) with
  | c :: more =>
    let s := match s.expressRx v.g with | some p => s.bumpPort p .expressLost (more.length + 1) | none => s
    (s.closeVerdicts (s.verdictsNow v.g)).abort v.g 0x04 c v.d.bucket
  | [] =>
    match s.skipNow v.g with
    | some (b, c) => ((s.closeVerdicts (s.verdictsNow v.g)).bump .nonfiniteSkip).abort v.g 0x05 c b
    | none =>
      let s := cs.foldl (fun s c =>
        let bits := (s.verdictOf v c).getD 0
        if bits % 4 = 0 then s.passChunk v c bits else s.failChunk v c bits) s
      match s.opAt v.g v.op.index with
      | some v' =>
        if v'.l.waiting.isEmpty then s.finishOp v'
        else
          let left := v'.l.waiting.filter (s.parked v)
          if !left.isEmpty && (replayRounds v == 0 || decide (v.rounds + replayRounds v ≤ r + 1)) then
            let s := if replayRounds v = 0 then s else s.bump .replayExhausted
            s.abort v.g 0x04 (left.headD 0) v.d.bucket
          else s
      | none => s

/-! ### Replay rounds (R190, R191, R194) -/

/-- The chunk set of the next replay round: for each rail and owner the lowest-numbered chunk that waits. -/
def replaySet (s : State) (v : OpView) : List Nat :=
  let waiting := sortBy (fun a b => decide (a ≤ b))
    (v.l.waiting.filter (s.parked v))
  waiting.filter (fun c => !waiting.any (fun d =>
    decide (d < c) && v.railOf d == v.railOf c && v.ownerOf d == v.ownerOf c))

/-- A parked context restored for its replay round (R192, R194). -/
def restoreCtx (s : State) (v : OpView) (c start round : Nat) : State :=
  let n := s.freeCtx
  s.modCtx v.g v.d.bucket c (fun x =>
    { x with number := n, parked := none, replays := (x.replays + 1) % 32, start := start, round := round,
             ebbDone := x.replayKind == 2, floodDone := false, checked := false, vTaken := false, vPass := false,
             vHeld := none, vResult := none, ledger := if x.replayKind = 1 then 0 else x.ledger,
             clip := if x.replayKind = 1 then 0 else x.clip, ovf := if x.replayKind = 1 then 0 else x.ovf })

/-- Launch replay round q of an operation. -/
def launchReplay (s : State) (v : OpView) (q : Nat) : State :=
  let set := s.replaySet v
  let s := set.foldl (fun s c => s.restoreCtx v c (v.replayStart q) (v.rounds + q)) s
  let s := if set.isEmpty then s else s.modOp v.g v.op.index (fun o => { o with replayed := true })
  s.modLaunch v.g v.op.index (fun l => { l with replays := l.replays ++ [set] })

/-! ### Folds (R154, R216) -/

/-- Generation B as a fold reads it. -/
def readGenB (s : State) (v : OpView) (c : Nat) : Vec := s.readGen v true c

/-- Count a fold's nonfinite elements and enter the chunk that holds them (R154). -/
def foldNonfinite (s : State) (v : OpView) (c n : Nat) : State :=
  if n = 0 then s
  else ((s.bumpG .nonfiniteIn v.g n).bumpBy .nonfiniteZero n).enterLedger v.g 7 v.d.bucket c

/-- R(g) of a chunk, from the whole input region, and how many of its elements are nonfinite (R64, R90, R154). -/
def rotatedInput (v : OpView) (grad : Bytes) (c : Nat) : Vec × Nat :=
  let f := (Desc.inFmt v.op.raw).getD .fp32
  let g := readGradient v.d f (v.base c) (v.limit c) (grad.drop (f.width * v.base c))
  (baseRot true v.d (v.base c) g.1, g.2)

/-- Fold one chunk of a deferred operation: x_d into the statistic, r_B + R(g) stored (R154). -/
def foldChunk (s : State) (v : OpView) (grad : Bytes) (c : Nat) : State :=
  let g := rotatedInput v grad c
  let xd := (extRot true v.ext v.d (v.base c) (g.1.add (s.readGen v false c))).toDys.map (fun x => (fp32.round x).code)
  let s := (s.emit (s.gradReads v c)).noteMax v.g v.d.bucket (s.hopBay v c) (largest xd)
  (s.foldNonfinite v c g.2).writeGen v c ((s.readGenB v c).add g.1)

/-- The engine joined the step by a SUBSTITUTE: it is the step's spare (R216). -/
def isSpare (s : State) (g : Nat) : Bool := (s.group g).recovery.substituted && (s.group g).recovery.spare

/-- Write a spare's generation B at a released chunk's positions, as a fold would: r_B := Q^-1(Q(R(g))) (R154, R216). -/
def spareChunk (s : State) (v : OpView) (grad : Bytes) (c : Nat) : State :=
  let g := rotatedInput v grad c
  ((s.emit (s.gradReads v c)).foldNonfinite v c g.2).writeGen v c g.1

/-- The view in which a spare writes an operation's released positions, launched or not: the bays that serve these chunks are
those of the dealing of them all on the ring in force (DEDUCED, log entry 106). -/
def spareView (s : State) (g : Nat) (op : QueueOp) (d : ImgBucket) (q : Nat) : OpView :=
  let l := op.launch.getD
    { bucket := d.bucket, s0 := 0, et := 0, fallback := false, gen := 0, levels := [], n := s.ringN g,
      rails := ((s.ringOf g).map (·.rails)).getD 1, deferred := false, chunks := [], replays := [], waiting := [],
      fold := .none, tallyShort := false }
  { g := g, op := op, d := d, q := q, l := { l with chunks := List.range (chunkCount d), replays := [] } }

/-- The released chunks of a bucket at which a spare has yet to write (R216): generation B of the others stands. -/
def spareChunks (s : State) (g b : Nat) : List Nat :=
  let gr := s.group g
  ((gr.recovery.releasedSet.filter (fun x => x / 2 ^ 20 == b && !gr.written.contains x))).map (· % 2 ^ 20)

/-- Bad units that a fold's reads of both generations meet, with the chunk they lie in. -/
def foldBad (s : State) (v : OpView) (env : HopEnv) : Option (Nat × List Nat) :=
  (v.l.chunks.map (fun c => (c, s.genBad v false c env.stackUE ++ s.genBad v true c env.stackUE))).find? (fun x => !x.2.isEmpty)

end State

/-- VERDICT (R137, R187): due in the verdict tide of the round. -/
def execVerdict (group index round : Nat) (s : State) : Result :=
  whenRunning s (fun s =>
    match s.opAt group index with
    | some v =>
      if s.stepRuns group && decide (v.op.phase ≠ .done) && decide (round < v.rounds + v.l.replays.length)
          && decide (s.now = v.verdictTide round)
          && (v.chunksOf round).any (fun c => !((s.ctx group v.d.bucket c).map (·.vTaken)).getD false)
      then s.takeVerdicts v round else s
    | none => s)

/-- REPLAY_ROUND_LAUNCH (R190, R191): in the two launch tides of the round, once. -/
def execReplayRoundLaunch (group index round : Nat) (s : State) : Result :=
  whenRunning s (fun s =>
    match s.opAt group index with
    | some v =>
      if s.stepRuns group && decide (v.op.phase ≠ .done) && decide (round = v.l.replays.length)
          && decide (round < State.replayRounds v)
          && decide (v.replayStart round ≤ s.now + 2 ∧ s.now < v.replayStart round)
      then s.launchReplay v round else s
    | none => s)

/-- FOLD (R154): once every hop of the deferred operation is done and its descriptor is ready. `env.grad` is the whole
input region. -/
def execFold (group index : Nat) (env : HopEnv) (s : State) : Result :=
  whenRunning s (fun s =>
    match s.opAt group index with
    | some v =>
      if (s.group group).abort.isNone && v.l.deferred && v.l.fold == .due && s.opReady group v.op then
        let s := s.noteErrors env
        match s.foldBad v env with
        | some (c, units) => s.residualLost group v.d.bucket c units
        | none =>
          let s := v.l.chunks.foldl (fun s c => s.foldChunk v env.grad c) s
          (s.bumpG .deferFold group 1).modLaunch group index (fun l => { l with fold := .running })
      else s
    | none => s)

/-- FOLD_COMPLETE (R154): the member then enters the bucket's statistics (R98). -/
def execFoldComplete (group index : Nat) (s : State) : Result :=
  whenRunning s (fun s =>
    match s.opAt group index with
    | some v =>
      if (s.group group).abort.isNone && v.l.fold == .running then
        ((s.modLaunch group index (fun l => { l with fold := .done })).noteMovable group 1).enterStats group v.d.bucket
      else s
    | none => s)

/-- SPARE_RESIDUAL_WRITE (R216): a spare's writes at the released positions of a ready operation of the step. `env.grad` is
the whole input region. -/
def execSpareResidualWrite (group index : Nat) (env : HopEnv) (s : State) : Result :=
  whenRunning s (fun s =>
    match (s.stepOps group).find? (fun o => o.index == index) with
    | some op =>
      match s.im.bucketDesc (Desc.bucket op.raw), s.ringPos group with
      | some d, some q =>
        if s.isSpare group && Desc.isExchange op.raw && s.opReady group op && !op.spareDone then
          let s := (s.spareChunks group d.bucket).foldl (fun s c => s.spareChunk (s.spareView group op d q) env.grad c)
            (s.noteErrors env)
          s.modOp group index (fun o => { o with spareDone := true })
        else s
      | _, _ => s
    | none => s)

end Sys2Proof.Machine
end

