-- ==== Sys2Proof/Machine/DescCheck.lean ====
section
/-! DEFINITION. Tests of a descriptor (R142, R317 to R320), of a rail (R133), and admission (R141). -/

namespace Sys2Proof.Machine

open Sys2Proof

/-- Bytes `off` to `off + n − 1` are zero. -/
def zeroAt (b : Bytes) (off n : Nat) : Bool := rd b off n == 0

namespace Desc

/-- Reserved bits and bytes of a descriptor are zero (R317, R319). -/
def reservedOk (b : Bytes) : Bool :=
  field (flags b) 3 5 == 0 && field (rd b 2 2) 12 4 == 0 && field (rd b 8 2) 12 4 == 0 && zeroAt b 0x0A 2 &&
  (if opcode b = opExchange then field (rd b 0x18 2) 12 4 == 0 && zeroAt b 0x1D 3 && zeroAt b 0x30 16
   else if opcode b = opSparse then field (rd b 0x18 2) 12 4 == 0 && zeroAt b 0x1E 2 && zeroAt b 0x30 16
   else if opcode b = opPut ∨ opcode b = opGet then zeroAt b 0x30 16
   else if opcode b = opScalar then zeroAt b 0x19 3 && zeroAt b 0x20 32
   else if opcode b = opSpillStore ∨ opcode b = opSpillLoad then
     field (sflags b) 1 7 == 0 && (opcode b == opSpillStore || sflags b == 0) && zeroAt b 0x1A 2 && zeroAt b 0x2C 4
       && zeroAt b 0x38 8
   else if opcode b = opTriggerAdd then field (rd b 0x18 2) 12 4 == 0 && zeroAt b 0x1A 2 && zeroAt b 0x20 32
   else zeroAt b 0x18 40)

def opcodeOk (b : Bytes) : Bool := decide (1 ≤ opcode b ∧ opcode b ≤ 0x0B)

end Desc

/-- Two byte regions overlap. -/
def overlap (a n b m : Nat) : Bool := decide (a < b + m ∧ b < a + n ∧ 0 < n ∧ 0 < m)

namespace State

/-- A region lies wholly inside one window of a partition; for OWNER 8 only SPACE 0 is required (R320). -/
def regionOk (s : State) (p a n : Nat) : Bool :=
  if p = 8 then decide (a < 2 ^ 63)
  else (s.im.partDesc p).windows.any (fun w => decide (0 < w.2 ∧ w.1 ≤ a ∧ a + n ≤ w.1 + w.2))

/-- Bytes from ADDR to the end of the last row that a spill operation's tiles reach (R225). -/
def spillExtent (b : Bytes) : Nat :=
  let w := Desc.gridWidth b
  let last := Desc.count b - 1
  let rows (a : Nat) : Nat := (64 * a + 63) * Desc.rowStride b
  let own := rows (last / w) + 128 * (last % w) + 128
  if last / w = 0 then own else max own (rows (last / w - 1) + 128 * w)

/-- Regions a descriptor names for data: address and length. -/
def descRegions (s : State) (b : Bytes) : List (Nat × Nat) :=
  if Desc.isExchange b then
    match s.im.bucketDesc (Desc.bucket b) with
    | some d =>
      let out := ((Desc.outFmt b).map (·.width)).getD 4
      [(Desc.inAddr b, ((Desc.inFmt b).map (·.width)).getD 4 * d.l),
       (Desc.outAddr b, if Desc.opcode b = Desc.opSparse ∧ Desc.form b = 1 then 1024 * d.listCells * chunkCount d
                        else out * d.l)]
    | none => []
  else if Desc.opcode b = Desc.opPut ∨ Desc.opcode b = Desc.opGet then
    [(Desc.localAddr b, Desc.length b), (Desc.remoteAddr b, Desc.length b)]
  else if Desc.opcode b = Desc.opSpillStore ∨ Desc.opcode b = Desc.opSpillLoad then
    if Desc.count b = 0 then [] else [(Desc.addr b, spillExtent b)]
  else []

/-- A spill descriptor names an area that is not the owning partition's, one that the image does not define among them, or
that a queue of the hall controller may not name (R223, R225, R320). -/
def areaForeign (s : State) (g : Nat) (b : Bytes) : Bool :=
  (Desc.opcode b == Desc.opSpillStore || Desc.opcode b == Desc.opSpillLoad)
    && (match s.im.areaDesc (Desc.areaNo b) with
        | some a => a.part != s.ownerOr8 g
        | none => decide (Desc.areaNo b < 64))

/-- Faults of the first row of R320 but for a foreign area. -/
def descOutside (s : State) (g : Nat) (b : Bytes) : Bool :=
  let p := s.ownerOr8 g
  (!Desc.immediate b && !s.triggerOk p (Desc.trigger b))
  || (Desc.complAdd b && !s.triggerOk p (Desc.complCounter b))
  || (Desc.opcode b == Desc.opTriggerAdd && !s.triggerOk p (Desc.target b))
  || ((Desc.opcode b == Desc.opPut || Desc.opcode b == Desc.opGet) && Desc.service b == 1
      && !(s.im.partDesc p).flows.any (fun f => f.1 == Desc.flowNo b))
  || (s.descRegions b).any (fun r => !s.regionOk p r.1 r.2)

/-- Faults of the first row of R320: partition violation. -/
def descViolation (s : State) (g : Nat) (b : Bytes) : Bool := s.areaForeign g b || s.descOutside g b

/-- SUM_COUNT without counts or in form DENSE (R123). -/
def selModeBad (s : State) (b : Bytes) : Bool :=
  Desc.opcode b == Desc.opSparse && Desc.reduce b == 2
    && (Desc.form b == 0 || !((s.im.bucketDesc (Desc.bucket b)).map (·.counts)).getD true)

/-- Faults of the second row of R320, with the cases of R142. -/
def descMalformed (s : State) (g : Nat) (b : Bytes) : Bool :=
  !Desc.opcodeOk b || !Desc.reservedOk b ||
  (if Desc.isExchange b then
     match s.im.bucketDesc (Desc.bucket b) with
     | none => true
     | some d =>
       d.group != g || (d.sparse != (Desc.opcode b == Desc.opSparse)) || (Desc.inFmt b).isNone || (Desc.outFmt b).isNone
         || decide (2 < Desc.reduce b) || decide (1 < Desc.form b) || s.selModeBad b
         || (match s.descRegions b with
             | [i, o] => overlap i.1 i.2 o.1 o.2
             | _ => false)
   else if Desc.opcode b = Desc.opPut ∨ Desc.opcode b = Desc.opGet then
     decide (((s.ringOf g).map (·.rails)).getD 0 ≤ Desc.rail b) || decide (1 < Desc.peer b) || decide (1 < Desc.service b)
       || (Desc.service b == 0 && Desc.flowNo b != 0) || Desc.length b == 0
       || (Desc.service b == 1 && !Desc.mayVary b)
   else if Desc.opcode b = Desc.opScalar then decide (6 < Desc.scalarOp b)
   else if Desc.opcode b = Desc.opSpillStore ∨ Desc.opcode b = Desc.opSpillLoad then
     decide (63 < Desc.areaNo b) || Desc.rowStride b % 128 != 0 || decide (Desc.rowStride b < 128) || Desc.gridWidth b == 0 || decide (65536 < Desc.gridWidth b)
   else false)

/-- The code with which a descriptor is refused, if it is (R320). -/
def descFault (s : State) (g : Nat) (b : Bytes) : Option Nat :=
  if s.descViolation g b then some 0x08 else if s.descMalformed g b then some 0x06 else none

/-- A spill descriptor names an area that the image does not define. -/
def areaMissing (s : State) (b : Bytes) : Bool :=
  (Desc.opcode b == Desc.opSpillStore || Desc.opcode b == Desc.opSpillLoad) && (s.im.areaDesc (Desc.areaNo b)).isNone

/-- The code with which a descriptor of no step completes when it is fetched; another partition's area alone is refused at
launch (R225, R320). -/
def fetchFault (s : State) (g : Nat) (b : Bytes) : Option Nat :=
  if s.descOutside g b || s.descMalformed g b || s.areaMissing b then s.descFault g b else none

/-- Count a refused descriptor and raise the event of a violation (R320). STAT_SEL_MODE_REFUSED counts whenever the descriptor
breaks R123, also where it is refused with 0x08 (DESIGN CHOICE, log entry 131: R123 does not say). The record names no group,
as only class G records do (DESIGN CHOICE, log entry 135: R384 does not say which set HAS_GROUP). -/
def noteRefusal (s : State) (g index code : Nat) (b : Bytes) : State :=
  let s := s.bumpG .descRefused g 1
  let s := if s.selModeBad b then s.bumpG .selModeRefused g 1 else s
  if code = 0x08 then
    let p := s.ownerOr8 g
    s.raise { type := 0x0020, severity := 2, code := 0x08, subject := index, arg := p + 2 ^ 5,
              rings := if p < 8 then s.ringsP p else s.ringsE }
  else s

/-! ### Rails (R133) -/

/-- A port shows the chip and serial expected of a ring neighbour. -/
def facesChip (s : State) (port chip : Nat) : Bool :=
  let n := (s.port port).nb
  n.state == .accepted && n.chip == chip && n.serial == ((s.im.chipNo chip).map (·.serial)).getD 0

/-- Every rail of the group's ring passes R133, and no bay that serves the group is retired (R20). -/
def railsOk (s : State) (g : Nat) : Bool :=
  match s.ringOf g with
  | none => false
  | some r =>
    match s.posIn r with
    | none => false
    | some q =>
      !s.bayLost g && (List.range r.rails).all (fun k =>
        match s.txPort r k, s.rxPort r k, memberAt r (q + 1), memberAt r (q + r.n - 1) with
        | some t, some x, some nx, some pv =>
          s.inService t && s.inService x && s.facesChip t nx.chip && s.facesChip x pv.chip
        | _, _, _, _ => false)

/-! ### Admission (R141) -/

/-- Context demand of an operation. -/
def contextDemand (d : ImgBucket) (n rails : Nat) : Nat :=
  let c := chunkCount d
  let rounds := ceilDiv (ceilDiv c rails) n
  min c (rails * n * min rounds (ceilDiv (2 * n - 1 + lambda n) n))

/-- Staging demand of an operation in a bay: 4 · c cells for each rail bound to it. -/
def stagingDemand (s : State) (d : ImgBucket) (rails bay : Nat) : Nat :=
  4 * chunkCellsOf d * ((List.range rails).filter (fun k => (s.railBays d.group k).contains bay)).length

/-- Operations in progress on the engine: bucket descriptors with ring sizes. -/
def inProgress (s : State) : List (Nat × ImgBucket × Nat × Nat) :=
  s.queues.flatMap (fun gq => gq.2.ops.filterMap (fun o =>
    if o.phase = .done then none
    else o.launch.bind (fun l => (s.im.bucketDesc l.bucket).map (fun d => (gq.1, d, l.n, l.rails)))))

def sumBy {α : Type} (f : α → Nat) (l : List α) : Nat := l.foldl (fun a x => a + f x) 0

/-- Whether an operation of a group is admitted beside those in progress. -/
def admitted (s : State) (g : Nat) (d : ImgBucket) (n rails : Nat) : Bool :=
  match s.groupOwner g with
  | some p =>
    if p = 8 then true
    else
      let all := (g, d, n, rails) :: s.inProgress
      let mine := all.filter (fun x => s.groupOwner x.1 == some p)
      let ctxs (l : List (Nat × ImgBucket × Nat × Nat)) : Nat := sumBy (fun x => contextDemand x.2.1 x.2.2.1 x.2.2.2) l
      let staged (l : List (Nat × ImgBucket × Nat × Nat)) (bay : Nat) : Nat :=
        sumBy (fun x => s.stagingDemand x.2.1 x.2.2.2 bay) l
      let e := s.im.partDesc p
      decide (ctxs all ≤ 262144) && decide (ctxs mine ≤ e.contextShare)
        && (List.range 40).all (fun bay => decide (staged all bay ≤ 49152) && decide (staged mine bay ≤ e.stagingShare))
  | none => true

end State

end Sys2Proof.Machine
end

