-- ==== Sys2Proof/Machine/Exchange.lean ====
section
/-! DEFINITION. The check tide of an exchange (R138 to R142, R152, R153, R155) and the codebook generation it latches
(R299, R300). -/

namespace Sys2Proof.Machine

open Sys2Proof

namespace State

/-- The planned start S_0 = B_s + D + σ of an operation (R138). -/
def plannedStart (s : State) (g : Nat) (d : ImgBucket) : Nat := (s.group g).base + d.offsetD + (s.group g).sigma

/-- The codebook an operation refers to, if its encoding has one (R99, R106). -/
def codebookOf (d : ImgBucket) (fb : Bool) : Option Nat :=
  if fb && d.fbKind == .codebook then some d.fbParam
  else if d.enc = .k4 ∧ !d.sparse then some d.codebook else none

/-- The slot a group latches: the new one from the first check tide of step S_c on (R300). -/
def latchSlot (s : State) (g : Nat) (b : Codebook) : Bool :=
  match b.pending with
  | some sc => if sc ≤ (s.group g).step then !b.cur else b.cur
  | none => b.cur

/-- Change one slot of a codebook. -/
def modSlot (b : Codebook) (second : Bool) (f : CbSlot → CbSlot) : Codebook :=
  if second then { b with slot1 := f b.slot1 } else { b with slot0 := f b.slot0 }

def slotOf (b : Codebook) (second : Bool) : CbSlot := if second then b.slot1 else b.slot0

/-- The first check tide of the group's step S_c is over, or a later step runs (R140, R300, R343). -/
def passedCheck (s : State) (g sc : Nat) : Bool :=
  let gr := s.group g
  decide (sc < gr.step)
    || (gr.step == sc && (gr.state == .exchange || gr.state == .released || gr.state == .applied)
        && decide (gr.base ≤ s.now) && (s.im.bucketsOf g).any (fun d => decide (s.plannedStart g d < s.now + 2)))

/-- A replacement stays pending until each group that waits for it has passed its first check tide; the new slot is then the
current one (R299, R300, R343). -/
def settleBook (s : State) (b : Codebook) : Codebook :=
  match b.pending with
  | some sc =>
    let w := b.waiting.filter (fun g => !s.passedCheck g sc)
    if w.isEmpty then { b with waiting := [], pending := none, cur := !b.cur } else { b with waiting := w }
  | none => b

/-- Pending replacements at a tide boundary. -/
def settleBooks (s : State) : State := { s with books := s.books.map (fun x => (x.1, s.settleBook x.2)) }

/-- Latch a codebook for an operation: levels, generation, and the reference taken (R299). -/
def latchBook (s : State) (g c : Nat) : State × List Int × Nat × List (Nat × Nat) :=
  let b := s.book c
  let k := s.latchSlot g b
  (s.setBook c (modSlot b k (fun x => { x with refs := x.refs + 1 })), (slotOf b k).levels, (slotOf b k).gen, [(c, bnat k)])

/-- Chunks of a bucket that the step carries: after a SUBSTITUTE the unreleased ones (R216). -/
def carried (s : State) (g : Nat) (d : ImgBucket) : List Nat :=
  let r := (s.group g).recovery
  let all := List.range (chunkCount d)
  if r.substituted then all.filter (fun c => !r.releasedSet.contains (d.bucket * 2 ^ 20 + c)) else all

/-- The first chunk that the member reads the input of, one of those it is the first member of in the first round, and the
fabric reads for it, through the fabric port of the bay that its hop has (R16, R133, R140). -/
def firstChunk (v : OpView) : Nat :=
  (v.l.chunks.find? (fun c => v.hop c == 1 && v.roundOf c == 0)).getD (v.l.chunks.headD 0)
def firstReads (s : State) (v : OpView) : Output :=
  let c := firstChunk v
  .fetchReads (s.bayFabric (s.group v.g).table (s.chunkBay v c (s.txOf v c) 0 0)) v.g v.d.bucket
def readFirst (s : State) (v : OpView) : State := s.emit (s.firstReads v)

/-- Launch an operation, deferred or not, latching the bucket's state (R99, R140, R153); its fabric reads are issued in
the next tide, S_0 − 1. -/
def launch (s : State) (g : Nat) (op : QueueOp) (d : ImgBucket) (r : ImgRing) (deferred : Bool) : State :=
  let b := s.bucket d.bucket
  let cb := match codebookOf d b.fallback with
    | some c => s.latchBook g c
    | none => (s, [], 0, [])
  let cs := s.carried g d
  let l : Launch :=
    { bucket := d.bucket, s0 := s.plannedStart g d, et := b.et, fallback := b.fallback, gen := cb.2.2.1,
      levels := cb.2.1, n := r.n, rails := r.rails, deferred := deferred, chunks := cs, replays := [], waiting := cs,
      fold := .none, tallyShort := false }
  let s := cb.1
  let s := s.modOp g op.index (fun o =>
    { o with launch := some l, books := o.books ++ cb.2.2.2, phase := if deferred then .deferred else .running, readyAt := some s.now,
             varied := o.varied || deferred || (s.group g).sigma != 0 })
  let s := s.modGroup g (fun gr => { gr with stats := gr.stats.set d.bucket {} })
  let s :=
    if deferred then (s.bumpG .deferOps g 1).enterLedger g 1 d.bucket (op.index % 1024)
    else if l.s0 = s.now + 1 then s.readFirst { g := g, op := op, l := l, d := d, q := (s.ringPos g).getD 0 } else s
  if cs.isEmpty then
    match (s.queue g).ops.find? (fun o => o.index == op.index) with
    | some o => (s.complete g o 0 0 false).checkReleased g
    | none => s
  else s

/-- The fabric reads of the first chunks, in tide S_0 − 1 of their operations (R140). -/
def fetchFirst (s : State) : State :=
  s.queues.foldl (fun s (x : Nat × Queue) => x.2.ops.foldl (fun s (o : QueueOp) =>
    match o.launch with
    | some l =>
      if o.phase == .running && decide (l.s0 = s.now + 1) && !l.chunks.isEmpty && s.stepRuns x.1 then
        match s.opAt x.1 o.index with
        | some v => s.readFirst v
        | none => s
      else s
    | none => s) s) s

/-- Refuse a step operation at its check: counted, and an abort token with the code (R141, R142, R320). -/
def refuseStep (s : State) (g index code : Nat) (b : Bytes) : State :=
  (s.noteRefusal g index code b).abortGroup g code

/-- The tests of the check tide and what follows from them (R140 to R142). A rail that fails stands before a descriptor that is
not ready (DESIGN CHOICE, log entry 140: no rule orders 0x02 and 0x01). -/
def checkTide (s : State) (g : Nat) (op : QueueOp) : State :=
  match s.ringOf g with
  | none => s
  | some r =>
    let ready := s.opReady g op
    if !s.railsOk g then s.abortGroup g 0x02
    else if !ready && !s.slipGroup g && !Desc.mayVary op.raw then s.abortGroup g 0x01
    else
      match s.descFault g op.raw, s.im.bucketDesc (Desc.bucket op.raw) with
      | some code, _ => s.refuseStep g op.index code op.raw
      | none, none => s.refuseStep g op.index 0x06 op.raw
      | none, some d =>
        if s.admitted g d r.n r.rails then s.launch g op d r (!ready && !s.slipGroup g)
        else (s.bumpG .admitRefused g 1).abortGroup g 0x06

/-- Under SLIP an exchange of the step is not fetched here that another member is ready for, and it may be planned no later
than the bucket's: a READY message is held for a descriptor that the queue has not reached, and the image has such a bucket
that no fetched exchange names (R140, R155). -/
def unfetchedWaits (s : State) (g : Nat) (d : ImgBucket) : Bool :=
  let ops := (s.stepOps g).filter (fun o => Desc.isExchange o.raw)
  (s.group g).express.any (fun e => e.kind == kReady && !e.done && e.held.isSome
      && !ops.any (fun o => o.index % 1024 == e.tag))
    && (s.im.bucketsOf g).any (fun e => decide (e.offsetD ≤ d.offsetD) && !ops.any (fun o => Desc.bucket o.raw == e.bucket))

/-- Under SLIP the ready barrier of another exchange of the step, planned no later, is still to come: its slip will move this
one too (R155; DESIGN CHOICE, log entry 123). -/
def slipWaits (s : State) (g : Nat) (op : QueueOp) (d : ImgBucket) : Bool :=
  s.unfetchedWaits g d || (s.stepOps g).any (fun o => o.index != op.index && Desc.isExchange o.raw && o.phase == .waiting && o.launch.isNone
    && o.slip.isNone
    && match s.im.bucketDesc (Desc.bucket o.raw) with
       | some e => decide (s.plannedStart g e ≤ s.plannedStart g d)
       | none => false)

/-- Whether an exchange's check falls in this tide: S_0 − 2, under SLIP after its ready barrier and those before it; a
descriptor whose bucket the image does not hold has no OFFSET_D, so no check tide, and is judged as soon as the step runs
(R140, R142, R155; DESIGN CHOICE, log entry 138). -/
def checkDue (s : State) (g : Nat) (op : QueueOp) : Bool :=
  s.stepRuns g && s.member g && (s.group g).state == .exchange && op.phase == .waiting && op.launch.isNone
    && (s.stepOps g).any (fun o => o.index == op.index)
    && match s.im.bucketDesc (Desc.bucket op.raw) with
       | some d =>
         if s.slipGroup g then
           op.slip.isSome && !s.slipWaits g op d && decide (s.plannedStart g d ≤ s.now + 2 ∧ s.now < s.plannedStart g d)
         else decide (s.now + 2 = s.plannedStart g d)
       | none => true

/-- The check of an operation with a given opcode. -/
def checkExchange (s : State) (g index opcode : Nat) : State :=
  match (s.queue g).ops.find? (fun o => o.index == index && Desc.opcode o.raw == opcode) with
  | some op => if s.checkDue g op then s.checkTide g op else s
  | none => s

end State

/-- EXCHANGE (R140). -/
def execExchange (group index : Nat) (s : State) : Result :=
  whenRunning s (fun s => s.checkExchange group index Desc.opExchange)

/-- SPARSE_EXCHANGE (R140). -/
def execSparseExchange (group index : Nat) (s : State) : Result :=
  whenRunning s (fun s => s.checkExchange group index Desc.opSparse)

end Sys2Proof.Machine
end

