-- ==== Sys2Proof/Machine/StepCore.lean ====
section
/-! DEFINITION. The beginning and the end of a group's step on a member: step holds (R204), entry into the OPEN barrier
(R138, R199, R298), the beginning of a step, and the commit (R100, R101, R108, R198, R199, R203). -/

namespace Sys2Proof.Machine

open Sys2Proof

/-- Largest step counter value (R199). -/
def stepMax : Nat := 2 ^ 48 - 1

/-- The code of FB_KIND (R285). -/
def FbKind.code : FbKind → Nat
  | .none => 0
  | .extend => 1
  | .codebook => 2
  | .margin => 3

namespace State

/-! ### Holds (R204, R294, R309) -/

def quiescing (s : State) (g : Nat) : Bool :=
  match s.groupOwner g with
  | some p => p < 8 && (s.pstate p == .quiescing || s.pstate p == .quiesced)
  | none => false

/-- The group's next OPEN is held by STEP_HOLD, a pending activation, a quiesce, a reload of the active image (R22), or an ARM
whose resume tide is to come (R219, R352; DEDUCED, log entry 63). -/
def openHold (s : State) (g : Nat) : Bool :=
  (s.group g).hold || (s.group g).actHeld || s.quiescing g || s.image.reloading || (s.group g).rc.armed.isSome

/-- A pending activation closes the group at the commit of its step (R294). -/
def actCloses (s : State) (g : Nat) : Bool :=
  match s.image.pending with
  | some sa => decide (sa ≤ (s.group g).step + 1)
  | none => false

/-- The member has a step hold as it enters its applied vote. -/
def voteHold (s : State) (g : Nat) : Bool :=
  (s.group g).hold || s.actCloses g || s.quiescing g || (s.queue g).state == .stopping

/-- STEP_STATE.HELD (R204, R351): the next OPEN waits. -/
def heldBit (s : State) (g : Nat) : Bool :=
  let gr := s.group g
  gr.state == .closed && gr.openAt.isNone
    && (s.openHold g || gr.express.any (fun e => e.kind == kOpen && e.held.isSome))

/-! ### Waking from Idle (R411) -/

/-- An entry to Hold that waited for the store is not made: POWER_CTRL 2 is no longer admitted (R411). -/
def dropHoldEntry (s : State) : State :=
  if s.power.restart == .hold then { s with power := { s.power with restart := .none, reqIgnored := true } } else s

/-- A wake from Idle to Full begins, unless one runs; an entry to Hold that waits gives way to it (DEDUCED, log entry 23). -/
def askWake (s : State) : State :=
  if s.power.mode == .idle then
    let s := s.dropHoldEntry
    if s.power.wakeAt.isNone then { s with power := { s.power with wakeAt := some (s.time.ticks + 4096) } } else s
  else s

/-- PUT, GET and the spill operations. -/
def wakes (b : Bytes) : Bool :=
  Desc.opcode b == Desc.opPut || Desc.opcode b == Desc.opGet || Desc.opcode b == Desc.opSpillStore
    || Desc.opcode b == Desc.opSpillLoad

/-- A transfer or spill descriptor that has become ready wakes the engine. -/
def wakeIfReady (s : State) : State :=
  if s.power.mode == .idle && s.queues.any (fun q => q.2.ops.any (fun o =>
      wakes o.raw && o.phase == .waiting && s.opReady q.1 o)) then s.askWake
  else s

/-! ### Entering the OPEN barrier -/

/-- Complete the group's fetched step operations that are outstanding with a code. -/
def endStepOps (s : State) (g code : Nat) (ops : List QueueOp) : State :=
  ops.foldl (fun s o =>
    match (s.queue g).ops.find? (fun x => x.index == o.index) with
    | some op => s.complete g op code 0 false
    | none => s) s

/-- The references that operations hold on codebook generations are returned (R299). -/
def returnBooks (s : State) (ops : List QueueOp) : State :=
  (ops.flatMap (·.books)).foldl (fun s x =>
    s.setBook x.1 (modSlot (s.book x.1) (x.2 == 1) (fun k => { k with refs := k.refs - 1 }))) s

/-- Drop the internal copies of a step's operations, returning their codebook references (R299, R316). -/
def dropStepOps (s : State) (g : Nat) (ops : List QueueOp) : State :=
  (s.returnBooks ops).modQueue g (fun q =>
    { q with ops := q.ops.filter (fun o => !ops.any (fun x => x.index == o.index)) })

/-- Every fetched step operation of a group. -/
def allStepOps (s : State) (g : Nat) : List QueueOp := (s.queue g).ops.filter (fun o => Desc.isStep o.raw)

/-- The OPEN is refused at the step counter's maximum (R199). -/
def refuseOpen (s : State) (g : Nat) : State :=
  if (s.group g).openRefused then s
  else
    let s := (s.modGroup g (fun gr => { gr with openRefused := true })).bumpG .stepExhausted g 1
    let ops := s.allStepOps g
    (s.endStepOps g 0x09 ops).dropStepOps g ops

/-- A neighbour on the group's rails whose last hail shows the given match: 0 neither hash, 1 active, 2 shadow. One that shows
neither is quarantined for it (R262, R298). -/
def neighboursWith (s : State) (g m : Nat) : Bool :=
  match s.ringOf g with
  | some r => (s.ringPorts r).any (fun p =>
      ((s.port p).nb.state == .accepted || (m == 0 && (s.port p).nb.state == .quarantined))
        && s.imageMatch (s.port p).nb.imageHash == m)
  | none => false

/-- The member's operand of the OPEN, once its rails pass R133, no neighbour's hash holds it and the engine is in Full (R157,
R298, R411). -/
def openOperand (s : State) (g : Nat) : State :=
  let gr := s.group g
  if gr.openAt.isSome && gr.abort.isNone && !gr.express.any (fun e => e.kind == kOpen && e.own.isSome) then
    if s.neighboursWith g 0 then (s.bump .imageMismatch).abortGroup g 0x07
    else if s.neighboursWith g 2 || !s.railsOk g || s.image.reloading || s.power.mode != .full then s
    else s.giveOperand g kOpen 0 0 0 false
  else s

/-- The group's step is open: from its entry into the OPEN, or from B_s of a step that follows a commit directly (R426). -/
def stepIsOpen (s : State) (g : Nat) : Bool :=
  (s.group g).stepOpen && !((s.group g).state == .exchange && decide (s.now < (s.group g).base))

/-- Enter the OPEN barrier. -/
def enterOpen (s : State) (g : Nat) : State :=
  (s.modGroup g (fun gr => { gr with openAt := some s.now, stepOpen := true })).openOperand g

/-- A member in CLOSED with a RUNNING queue and no hold enters the OPEN, or refuses it (R138, R199, R204). An engine whose
retired bay serves the group takes no part (R20). -/
def tryEnterOpen (s : State) (g : Nat) : State :=
  let gr := s.group g
  if gr.established && gr.state == .closed && gr.openAt.isNone && gr.abort.isNone
      && (s.queue g).state == .running && !s.openHold g && s.member g && !s.bayLost g && s.power.mode == .full then
    if gr.step = stepMax then s.refuseOpen g else s.enterOpen g
  else s

/-- Try to enter the OPEN for each of some groups. -/
def tryEnterOpens (s : State) (gs : List Nat) : State := gs.foldl tryEnterOpen s

/-! ### The beginning of a step -/

/-- The hash of the disabled-unit map, and what DUMAP_HASH shows and hails carry: zero until the start-up self-test has built
the map (R20, R346, R394; DEDUCED, log entry 128). -/
def mapHash (s : State) : Bytes :=
  padTo 48 (Config.dumapHash s.power.dumap.coves s.power.dumap.bays s.power.dumap.ports)
def dumapHash (s : State) : Bytes :=
  if s.power.startStep < 8 && !s.power.ready then List.replicate 48 0 else s.mapHash

/-- The record of a step that begins (R206). -/
def newRecord (s : State) (g base : Nat) : StepRecord :=
  let gr := s.group g
  { step := gr.step, state := .exchange, table := gr.table, n := s.ringN g, position := (s.ringPos g).getD 0,
    base := base, firmware := s.ident.firmware, mapHash := leNat (s.dumapHash.take 16) }

/-- The step of the counter's value begins at a base tide. -/
def beginStep (s : State) (g base : Nat) : State :=
  let r := s.newRecord g base
  (s.clearStaging g).modGroup g (fun gr =>
    { gr with state := .exchange, base := base, sigma := 0, attempt := 0, openAt := none, stepOpen := true,
              releasedAt := none, ctxs := [], parkCount := 0, stats := [], record := some r })

/-- The step begins at the effect of an OPEN. A spare joins a step that has been replayed once per recovery round
(R206, R216, R258). -/
def joinStep (s : State) (g base : Nat) : State :=
  let gr := s.group g
  let n := if s.isSpare g then gr.recovery.round + 1 else 0
  let s := s.beginStep g base
  if n = 0 then s
  else s.modGroup g (fun x => { x with attempt := n, record := x.record.map (fun r => { r with attempt := n }) })

/-- A step operation waits to start again in a replay of its step (R215); it keeps its references (R299), and `stands` says
that released chunks of it stand, whose variation its completion still shows (R216, R371). -/
def rewindOp (o : QueueOp) (stands : Bool) : QueueOp :=
  if Desc.isStep o.raw then
    { o with phase := .waiting, readyAt := none, launch := none, lastLaunch := o.launch.or o.lastLaunch, slip := none,
             spareDone := false, replayed := true, varied := o.varied && stands }
  else o

/-- Change the operations of the step in progress. -/
def modStepOps (s : State) (g : Nat) (f : QueueOp → QueueOp) : State :=
  let ops := s.stepOps g
  s.modQueue g (fun q => { q with ops := updateWhere (fun o => ops.any (fun x => x.index == o.index)) f q.ops })

/-- Released chunks of an operation stand when its step is replayed under SUBSTITUTE (R216). -/
def chunksStand (s : State) (g : Nat) (o : QueueOp) : Bool :=
  (s.group g).recovery.substituted && Desc.isExchange o.raw
    && (s.group g).recovery.releasedSet.any (fun x => x / 2 ^ 20 == Desc.bucket o.raw)

/-- A chunk of the step is released: the member released it, or the released set of a SUBSTITUTE names it. -/
def chunkReleased (s : State) (g b c : Nat) : Bool :=
  ((s.entry g b c).map (·.released)).getD false
    || ((s.group g).recovery.substituted && (s.group g).recovery.releasedSet.contains (b * 2 ^ 20 + c))

/-- Every chunk of the step's exchanges is released, and its other operations have completed (R215). -/
def allReleased (s : State) (g : Nat) : Bool :=
  (s.commitOp g).isSome && (s.stepOps g).all (fun o =>
    if Desc.isExchange o.raw then
      (o.launch.or o.lastLaunch).isSome && match s.im.bucketDesc (Desc.bucket o.raw) with
        | some d => (List.range (chunkCount d)).all (s.chunkReleased g d.bucket)
        | none => false
    else Desc.opcode o.raw == Desc.opCommit || o.phase == .done)

/-- An operation in a replay that carries no data: one that a late release has made whole completes, and its statistics
enter their reductions again, or for a deferred operation after its fold (R98, R214, R215). -/
def reenter (s : State) (v : OpView) : State :=
  if v.op.phase != .done then s.finishOp v
  else if v.l.chunks.isEmpty || (v.l.deferred && v.l.fold != .done) then s
  else (s.modStats v.g v.d.bucket (fun x => { x with entered := false })).enterStats v.g v.d.bucket

/-- A step operation in a replay that carries no data keeps its launch. -/
def keepOp (o : QueueOp) : QueueOp :=
  if Desc.isStep o.raw then { o with replayed := true, launch := o.launch.or o.lastLaunch } else o

/-- The step in progress resumes at a base tide as a further attempt (R211, R215, R216). A RESUME in which every chunk is
released carries no data, and keeps the operations and their statistics. -/
def resumeStep (s : State) (g base : Nat) : State :=
  let ended := (s.group g).recovery.action == 0 && s.allReleased g
  let s := (s.clearStaging g).modGroup g (fun gr =>
    { gr with state := .exchange, base := base, sigma := 0, attempt := gr.attempt + 1, openAt := none, stepOpen := true,
              releasedAt := none, ctxs := [], parkCount := 0, stats := if ended then gr.stats else [],
              express := [] })
  let s := s.modRecord g (fun r =>
    { r with state := .exchange, base := base, attempt := (s.group g).attempt, done := 0, table := (s.group g).table,
             n := s.ringN g, position := (s.ringPos g).getD 0 })
  if ended then
    let s := s.modStepOps g keepOp
    let s := (s.launched g).foldl reenter s
    s.checkReleased g
  else
    s.modStepOps g (fun o => rewindOp o (s.chunksStand g o))

/-! ### The applied vote (R202) -/

/-- The result of one statistic of a bucket. -/
def statResult (s : State) (g b stat : Nat) : Option Nat :=
  ((s.group g).express.find? (fun e => e.kind == kStat && e.tag == b + stat * 2 ^ 12)).bind
    (fun e => e.result.map (·.toNat))

/-- FLAG of a statistic's result: it has saturated (R165). -/
def statFlag (s : State) (g b stat : Nat) : Bool :=
  ((s.group g).express.find? (fun e => e.kind == kStat && e.tag == b + stat * 2 ^ 12 && e.result.isSome)).any (·.flag)

/-- The launched exchanges of the step that carry chunks. -/
def stepExchanges (s : State) (g : Nat) : List (QueueOp × Launch) :=
  (s.stepOps g).filterMap (fun o => o.launch.bind (fun l => if l.chunks.isEmpty then none else some (o, l)))

/-- Every release of the step has been applied. -/
def releasesApplied (s : State) (g : Nat) : Bool :=
  (s.group g).releases.all (fun r => atOrAfter 32 (s.unit r.unit).applied.toNat r.rseq.toNat)

/-- The spare's writes of R216 are done. -/
def spareWritesDone (s : State) (g : Nat) : Bool :=
  !s.isSpare g
    || (s.stepOps g).all (fun o => !Desc.isExchange o.raw || o.spareDone
        || (s.spareChunks g (Desc.bucket o.raw)).isEmpty)

/-- The four conditions of R202. -/
def mayVote (s : State) (g : Nat) : Bool :=
  (s.group g).state == .released && (s.group g).abort.isNone && s.releasesApplied g
    && (s.stepOps g).all (fun o => match o.launch with | some l => l.fold == .none || l.fold == .done | none => true)
    && s.spareWritesDone g
    && (s.stepExchanges g).all (fun x =>
        (s.statResult g x.2.bucket 0).isSome && (s.statResult g x.2.bucket 1).isSome
          && (s.statResult g x.2.bucket 2).isSome)

/-! ### The commit (R203) -/

/-- Every chunk of a bucket wrote generation B in the step (R198). -/
def writtenWhole (s : State) (g : Nat) (d : ImgBucket) : Bool :=
  (List.range (chunkCount d)).all (fun c => (s.group g).written.contains (d.bucket * 2 ^ 20 + c))

def flipSelector (s : State) (d : ImgBucket) : State :=
  s.setBucket d.bucket { s.bucket d.bucket with selector := !(s.bucket d.bucket).selector }

/-- CLIP_THRESH and OVF_THRESH that disable their triggers (R86). -/
def clipOff : Nat := 2 ^ 24
def ovfOff : Nat := 0xFFFFFFFF

/-- Fall-back state, hold count and counters of one bucket (R108). A saturated CLIP or OVF compares above every threshold
(R98), but for a trigger that its threshold disables (DESIGN CHOICE, log entry 83). -/
def nextFallback (s : State) (g : Nat) (d : ImgBucket) (clip ovf : Nat) : State :=
  let b := s.bucket d.bucket
  let m := s.ringN g * rotLength d
  let clipSat := s.statFlag g d.bucket 1
  let ovfSat := s.statFlag g d.bucket 2
  let above := decide (clip * 2 ^ 24 > d.clipThresh * m) || (clipSat && decide (d.clipThresh < clipOff))
    || decide (ovf > d.ovfThresh) || (ovfSat && decide (d.ovfThresh < ovfOff))
  let low := decide (clip * 2 ^ 24 ≤ d.retClip * m) && !clipSat && decide (ovf ≤ d.retOvf) && !ovfSat
  if d.fbKind == .none then s
  else if !b.fallback then
    if above then
      ((s.setBucket d.bucket { b with fallback := true, hold := 1 }).bumpG .fbEnter g 1).raise
        { type := 0x0018, severity := 1, group := some g,
          subject := d.bucket + (s.group g).step % 2 ^ 32 * 2 ^ 16, arg := d.fbKind.code, rings := s.ringsG g }
    else s
  else if above then (s.setBucket d.bucket { b with hold := 1 }).bumpG .fbPersist g 1
  else if low && decide (d.fbHold ≤ b.hold) then
    (s.setBucket d.bucket { b with fallback := false, hold := 0 }).bumpG .fbExit g 1
  else s.setBucket d.bucket { b with hold := Nat.min (b.hold + 1) 65535 }

/-- E_t for the next step (R100, R101). -/
def nextScale (s : State) (g : Nat) (d : ImgBucket) (qMax : Int) : State :=
  let b := s.bucket d.bucket
  if qMax = -32768 then s.bumpG .etHold g 1
  else
    let m : Int := d.etMargin + (if b.fallback && d.fbKind == .margin then (d.fbParam : Int) else 0)
    let e := qMax - 6 + m
    let c := clampInt (-128) 127 e
    let s := s.setBucket d.bucket { b with et := c }
    if c = e then s
    else
      (s.bumpG .etClamp g 1).raise
        { type := 0x0017, severity := 1, group := some g, subject := d.bucket, arg := unsigned 32 c,
          rings := s.ringsG g }

/-- Latch the reduced statistics of a bucket and derive its state for the next step; a bucket that had a chunk released
before a SUBSTITUTE keeps its state (R99, R217). -/
def latchBucket (s : State) (g : Nat) (l : Launch) (d : ImgBucket) : State :=
  let r := (s.group g).recovery
  if r.substituted && r.releasedSet.any (fun x => x / 2 ^ 20 == d.bucket) then s
  else
    let q := signed 16 ((s.statResult g d.bucket 0).getD 0)
    let clip := (s.statResult g d.bucket 1).getD 0
    let ovf := (s.statResult g d.bucket 2).getD 0
    let s := s.setBucket d.bucket
      { s.bucket d.bucket with qMax := unsigned 16 q, clip := clip, ovf := ovf, step := (s.group g).step, gen := l.gen % 4 }
    (s.nextFallback g d clip ovf).nextScale g d q

/-- Folds and spill tiles of the step that moved: the tiles above their planned rate, and of what ran under DYN_BALANCE beside
them as many as took lane capacity elsewhere, which is free (R370, R374). -/
def itemsMoved (s : State) (g : Nat) : Nat :=
  let x := s.group g
  x.tilesFast + Config.itemsMoved g x.step x.attempt % (x.movable + 1)

/-- A BALANCED ledger entry where folds or spill tiles moved (R370, R374). -/
def enterBalanced (s : State) (g : Nat) : State :=
  let k := s.itemsMoved g
  if k ≠ 0 then s.enterLedger g 5 0xFFF k else s

/-- Retention, releases and bookkeeping of the closed step go (R203, R205, R372). BARRIER and SCALAR instances of the
next step stay. -/
def freeStep (s : State) (g : Nat) (committed : Option StepRecord) : State :=
  (s.clearStaging g).modGroup g (fun gr =>
    { gr with retained := [], releases := [], written := [], movable := 0, tilesFast := 0, stats := [], ctxs := [],
              parkCount := 0, sigma := 0, releasedAt := none, openAt := none, stepOpen := false, recovery := {}, abort := none,
              record := none, lastRecord := committed, lastLedger := gr.ledger, ledger := [],
              express := gr.express.filter (fun e => (e.kind == kBarrier || e.kind == kScalar) && !e.done) })

/-- The actions of the commit in their order, for a commit at tide `e`; `close` enters CLOSED (R203, R204), where a pending
activation holds the group (R294). A bucket that the step did not exchange keeps its E_t, fall-back state and hold count,
and counts nothing (DESIGN CHOICE, log entry 84: R100 and R108 speak of reduced values that it does not have). -/
def commitStep (s : State) (g e : Nat) (close : Bool) : State :=
  let ops := s.stepOps g
  let s := s.enterBalanced g
  let s := match s.commitOp g with | some op => s.complete g op 0 0 false | none => s
  let s := (s.im.bucketsOf g).foldl (fun s d => if s.writtenWhole g d then s.flipSelector d else s) s
  let s := (s.stepExchanges g).foldl (fun s x =>
    match s.im.bucketDesc x.2.bucket with | some d => s.latchBucket g x.2 d | none => s) s
  let rec_ := (s.group g).record.map (fun r => { r with done := s.now })
  let s := s.freeStep g rec_
  let s := s.modGroup g (fun gr => { gr with step := gr.step + 1, attempt := 0 })
  let s := (s.dropStepOps g ops).bumpG .commit g 1
  if close || decide ((s.group g).step = stepMax) then
    (s.modGroup g (fun gr => { gr with state := .closed, actHeld := s.image.pending.isSome })).tryEnterOpen g
  else s.beginStep g (e + 1)

/-- The COMMIT instance of the step in progress. -/
def commitInstance (s : State) (g : Nat) : Option Express := s.findExpress g kCommit ((s.group g).step % 2 ^ 14)

end State

end Sys2Proof.Machine
end

