-- ==== Sys2Proof/Machine/Views.lean ====
section
/-! DEFINITION. Views of the host access port: which source tag reaches which window, and partition violations
(R302 to R306, R333). -/

namespace Sys2Proof.Machine

open Sys2Proof

/-- Base of partition window p (R303). -/
def windowBase (p : Nat) : Nat := 0x01000000 + p * 0x00100000

/-- Registers of the image block (R332, R339). -/
def imageReg (off : Nat) : Nat := 0x003000 + off
def imageWindow : Nat := 0x400000

namespace State

/-- BUSY (R341). -/
def imageBusy (s : State) : Bool := s.image.job != .none


/-- Any access by a tag discards the high half it holds latched (R334). -/
def touch (s : State) (tag : Nat) : State :=
  { s with host := { s.host with readHigh := s.host.readHigh.filter (fun l => l.1 != tag) } }

/-- A tag of a partition that is not DETACHED (R304, R308). -/
def tagLive (s : State) (tag : Nat) : Bool := decide (tag < 8) && s.pstate tag != .detached

/-- A tag with the privileged view (R303). -/
def tagPriv (s : State) (tag : Nat) : Bool :=
  tag == 8 || (s.tagLive tag && bitAt s.parts.privGrant.toNat tag)

/-- A tag that reaches partition window p. -/
def reaches (s : State) (tag p : Nat) : Bool := s.tagPriv tag || (s.tagLive tag && tag == p)

/-- A partition violation: no effect but the counter and the event (R304). -/
def violation (s : State) (tag addr : Nat) (write : Bool) : State :=
  (s.bumpP .partViolation tag 1).raise
    { type := 0x0020, severity := 2, code := 0x08, subject := addr, arg := tag + bnat write * 2 ^ 4,
      rings := s.ringsP tag }

/-- An access to an address of the privileged window; tags 9 to 15 are never forwarded (R302). -/
def asPriv (s : State) (tag addr : Nat) (write : Bool) (f : State → State) : State :=
  if tag > 8 then s
  else
    let s := s.touch tag
    if s.tagPriv tag then f s else s.violation tag addr write

/-- An access to an address of partition window p. While the partition is DETACHED its registers keep their reset values
(R364). -/
def asPart (s : State) (tag p addr : Nat) (write : Bool) (f : State → State) : State :=
  if tag > 8 then s
  else
    let s := s.touch tag
    if s.reaches tag p then (if s.pstate p == .detached then s else f s) else s.violation tag addr write

/-- Address of a register of a group's doorbell page or queue block: in the owner's window, or for OWNER 8 in the
privileged window (R311, R332). -/
def queueAddr (s : State) (tag g off : Nat) : Nat :=
  match s.groupOwner g with
  | some p => if p < 8 then windowBase p + off else 0x080000 + off
  | none => if tag < 8 then windowBase tag + off else 0x080000 + off

def doorbell (g off : Nat) : Nat := 64 * g + off
def block (g off : Nat) : Nat := 0x4000 + 192 * g + off

/-- An access to a group's doorbell page or queue block. -/
def asQueue (s : State) (tag g off : Nat) (write : Bool) (f : State → State) : State :=
  let a := s.queueAddr tag g off
  match s.groupOwner g with
  | some p => if p < 8 then s.asPart tag p a write f else s.asPriv tag a write f
  | none => s.asPriv tag a write id

/-- Address of a register of a group block (R332, R350). -/
def groupReg (g off : Nat) : Nat := 0x010000 + 256 * g + off

/-- A write of a register of a group block; there are 256 (R332). -/
def asGroup (s : State) (tag g off : Nat) (f : State → State) : State :=
  if 256 ≤ g then s else s.asPriv tag (groupReg g off) true f

end State

end Sys2Proof.Machine
end

