-- ==== Sys2Proof/Machine/StepCommit.lean ====
section
/-! DEFINITION. Commands of step commit (R168, R199 to R204, R219, R220): applied reports, the vote, the commit, the
OPEN's effect, the hall controller's writes to a group block, and the diagnosis replay. -/

namespace Sys2Proof.Machine

open Sys2Proof

namespace State

/-! ### Redelivery (R205, R213) -/

/-- A retained chunk's operation under the launch of its delivery, whatever has become of the operation since (R205). -/
def retView (s : State) (g b c : Nat) : Option OpView :=
  (s.retainedOf g b c).bind (fun r => r.launch.bind (fun l => (s.im.bucketDesc b).bind (fun d =>
    ((s.stepOps g).find? (fun o => Desc.isExchange o.raw && Desc.bucket o.raw == b)).map
      (fun op => { g := g, op := op, l := l, d := d, q := (s.ringPos g).getD 0 }))))

/-- The units that a redelivery of a chunk cannot read: those known to be bad and those its reads meet. -/
def redeliveryBad (s : State) (v : OpView) (c : Nat) (met : List Nat) : List Nat :=
  (s.retainUnits v c).filter (fun u => s.badUnits.contains u || met.contains u)

/-- Write a chunk's retained values to compute memory again, by steps 1 and 3 to 5 of R147, additions out of range counted
(R81). -/
def redeliver (s : State) (v : OpView) (c : Nat) : State :=
  match s.retainedOf v.g v.d.bucket c with
  | some r =>
    if r.cells.isEmpty then s
    else
      let d := decodeCells v c r.cells
      let slots := if v.d.sparse then
        d.2 ++ List.replicate (listCap v.d - d.2.length) (sentinel, 0) else []
      (s.noteMarks v c d.1.marks).writeOutput v c r.bay (((r.cells.head?).map (fun b => (readCell b).tally)).getD 0) d.1.values slots
  | none => s

/-- Redeliver a chunk and go on, or end the step where its retention cannot be read: residual store uncorrectable (R23,
R207). -/
def withRedelivery (s : State) (g b c : Nat) (met : List Nat) (f : State → State) : State :=
  match s.retView g b c with
  | some v =>
    let bad := s.redeliveryBad v c met
    if bad.isEmpty then f (s.redeliver v c) else s.residualLost g b c bad
  | none => f s

/-- Send a release again from retention, with a fresh RSEQ (R202). -/
def resend (s : State) (g : Nat) (met : List Nat) (r : Release) : State :=
  s.withRedelivery g r.bucket r.chunk met (fun s =>
    (s.bump .releaseResent).sendRelease g 1 r.bucket r.chunk r.length r.addr)

/-- The unapplied releases of a group on a unit, in ascending order of RSEQ. -/
def unapplied (s : State) (g u : Nat) : List Release :=
  let n := (s.unit u).applied.toNat
  sortBy (fun a b => decide ((a.rseq.toNat + 2 ^ 32 - n) % 2 ^ 32 ≤ (b.rseq.toNat + 2 ^ 32 - n) % 2 ^ 32))
    ((s.group g).releases.filter (fun r => r.unit == u && !atOrAfter 32 n r.rseq.toNat))

/-- Every unapplied release of all groups on a unit, in ascending order of RSEQ. -/
def unappliedAll (s : State) (u : Nat) : List (Nat × Release) :=
  let n := (s.unit u).applied.toNat
  sortBy (fun a b => decide ((a.2.rseq.toNat + 2 ^ 32 - n) % 2 ^ 32 ≤ (b.2.rseq.toNat + 2 ^ 32 - n) % 2 ^ 32))
    (s.groups.flatMap (fun x => (s.unapplied x.1 u).map (fun r => (x.1, r))))

/-! ### Discarding a step (R219) -/

/-- Zero generation content of a group's buckets in both generations, and the errors of units that lie wholly in it. -/
def clearGenerations (s : State) (g : Nat) : State :=
  (s.im.bucketsOf g).foldl (fun s d =>
    let len := resWidth d * rotLength d
    [false, true].foldl (fun s b =>
      let a := s.genAddr d b 0
      { s with stack := s.stack.filter (fun c => !(decide (a ≤ c.1 ∧ c.1 < a + len))),
               badUnits := s.badUnits.filter (fun u => !decide (a ≤ 256 * u ∧ 256 * u + 256 ≤ a + len)) }) s) s

/-- The group's buckets are established afresh, with zero residuals (R96, R216, R219). -/
def establishFresh (s : State) (g : Nat) : State :=
  let s := s.clearGenerations g
  (s.im.bucketsOf g).foldl (fun s d => s.setBucket d.bucket { defined := true, et := d.etInit }) s

/-- A diagnosis replay that ends early leaves an INCOMPLETE report; it has no entries (R222, R356; DESIGN CHOICE, log entry
112: which entries an ended replay has written is not given). -/
def endDiag (gr : Group) : Diag :=
  if gr.diag.busy then
    { gr.diag with busy := false, incomplete := true,
                   report := some { incomplete := true, step := gr.step, entries := [] } }
  else gr.diag

/-- For 0x0B the affected units of generation A are zeroed before the member leaves ABORTED (R208). -/
def zeroBadUnits (s : State) (g : Nat) : State :=
  if (s.group g).abortCode ≠ 0x0B then s
  else
    (s.im.bucketsOf g).foldl (fun s d =>
      let a := s.genAddr d false 0
      let bad := (unitsOf a (resWidth d * rotLength d)).filter s.badUnits.contains
      bad.foldl (fun s u =>
        let s := { s with stack := s.stack.filter (fun c => c.1 / 256 != u), badUnits := s.badUnits.filter (· != u) }
        (s.bump .resDiscard).raise
          { type := 0x0016, severity := 2, code := 0x0B, group := some g, subject := d.bucket, arg := (Nat.min (256 * u + 256) (a + resWidth d * rotLength d) - max (256 * u) a) / resWidth d,
            rings := s.ringsG g }) s) s

/-- Discard a group's step: record, retention and both generations go, its buckets are established afresh, the group enters
CLOSED, and outstanding step operations complete with the abort code (R219, R330). -/
def discardStep (s : State) (g : Nat) : State :=
  let gr := s.group g
  let step := gr.step
  let ops := s.stepOps g
  let s := if gr.state == .aborted then s.zeroBadUnits g else s
  let ended := gr.state == .aborted || gr.state == .recovering
  let s := if ended then s.endStepOps g gr.abortCode ops else s
  let s := if gr.state == .closed then s else s.dropStepOps g ops
  let s := s.establishFresh g
  let s := s.freeStep g gr.lastRecord
  let s := s.modGroup g (fun x =>
    { x with state := .closed, ledger := [], lastLedger := [], attempt := 0, diag := endDiag gr,
             rc := { x.rc with status := 0, armed := none }, actHeld := x.actHeld || s.image.pending.isSome })
  (s.bumpG .stepDiscard g 1).raise
    { type := 0x0011, severity := 3, group := some g, subject := step, rings := s.ringsG g }

/-- A refused write to a group block (R351). -/
def ignoreGroup (s : State) (g : Nat) : State := s.modGroup g (fun x => { x with writeIgnored := true })

/-! ### Diagnosis replay (R220, R356) -/

/-- Deferral of a bucket's operation on the member in an attempt, as the step ledger holds it (R375). -/
def ledgerDeferred (s : State) (g b attempt : Nat) : Bool :=
  (s.group g).ledger.any (fun e => e.kind == 1 && e.bucket == b && e.attempt == attempt % 256 && !e.lost)

/-- The units of generation A and of retention that the recomputation of a record entry cannot read (R220, R395). -/
def diagBad (s : State) (g : Nat) (met : List Nat) (e : RecEntry) : List Nat :=
  match s.retView g e.bucket e.chunk with
  | some v => s.genBad v false e.chunk met ++ s.floodBad v e.chunk met
  | none => []

/-- The result of recomputing one chunk of the step record; of one whose data cannot be read it is UNAVAILABLE (DESIGN CHOICE,
log entry 125). NOT_APPLICABLE marks a member other than the owner, which has no OWNER_MATCH (DEDUCED, log entry 126). -/
def diagEntry (s : State) (g : Nat) (inputs : List (Nat × Bytes)) (met : List Nat) (e : RecEntry) : DiagEntry :=
  let none_ (r : Nat) : DiagEntry := { chunk := e.chunk, bucket := e.bucket, result := r, firstPos := 0xFFFFFFFF }
  if e.lost || !(s.diagBad g met e).isEmpty then none_ 8
  else match s.retView g e.bucket e.chunk, s.retainedOf g e.bucket e.chunk with
  | some v, some r =>
    let c := e.chunk
    let grad := ((inputs.find? (fun x => x.1 == e.bucket * 2 ^ 20 + c)).map (·.2)).getD []
    let dIn := decodeCells v c r.ebbCells
    let inp := if r.ebbCells.isEmpty then noInput (v.limit c) else dIn.1
    let deferred := s.ledgerDeferred g e.bucket e.attempt
    let w := hopWork v c deferred (deferred && !e.owner) grad (s.readGen v false c) inp dIn.2
    let ebb := decide (s.lcOf v c w.delta = (e.ebbOut + lcMod - e.ebbIn) % lcMod)
    let own := decide ((s.lcOf v c w.enc.sent + s.structOf v c w.enc.entries) % lcMod = e.flood)
    let dF := decodeCells v c r.cells
    let fl := decide ((s.lcOf v c dF.1.exact + s.structOf v c dF.1.entries) % lcMod = e.flood)
    let at_ := (List.zipWith (fun a b => decide (a ≠ b)) w.enc.sent dF.1.exact).idxOf true
    if e.owner then
      if own || at_ ≥ w.enc.sent.length then none_ (bnat ebb + 2 * bnat own + 4 * bnat fl)
      else { none_ (bnat ebb + 4 * bnat fl + 16) with firstPos := at_ }
    else none_ (bnat ebb + 4 * bnat fl + 32)
  | _, _ => none_ 8

/-- Unreadable units that a read outside a running step meets: bad from then on and counted, each once; nothing is aborted
(R395; DESIGN CHOICE, log entry 125). -/
def noteBad (s : State) (us : List Nat) : State := us.eraseDups.foldl (fun s u => s.stackUE u 0) (s.markBad us)

/-- The diagnosis replay ends with its report, one entry per chunk entry of the step record (R220, R356). -/
def reportDiag (s : State) (g : Nat) (inputs : List (Nat × Bytes)) (met : List Nat) : State :=
  match (s.group g).record with
  | some r =>
    let rep : DiagReport := { incomplete := false, step := r.step, entries := r.entries.map (s.diagEntry g inputs met) }
    (s.noteBad (r.entries.flatMap (s.diagBad g met))).modGroup g (fun x =>
      { x with diag := { x.diag with busy := false, done := true, report := some rep } })
  | none => s.modGroup g (fun x => { x with diag := { x.diag with busy := false, done := true } })

/-! ### Effects of COMMIT and OPEN (R138, R203) -/

/-- The COMMIT instance takes effect at its tide E. -/
def commitEffect (s : State) (g : Nat) : State :=
  match s.commitInstance g with
  | some e =>
    match e.effectAt, e.result with
    | some t, some r =>
      if decide (t = s.now) && (s.group g).abort.isNone && (s.group g).state == .applied then
        (s.lateEffect g e).commitStep g (s.tideNear r.toNat) e.flag
      else s
    | _, _ => s
  | none => s

/-- The OPEN takes effect: its tide is B_s of the step that begins or resumes. A group that a pending activation held in
CLOSED is held again at a commit of that step (R294). In Idle it waits until Full (R408, R411). -/
def openEffect (s : State) (g : Nat) : State :=
  match s.findExpress g kOpen 0 with
  | some e =>
    match e.effectAt, e.result with
    | some t, some r =>
      let gr := s.group g
      if decide (t = s.now) && gr.abort.isNone && gr.openAt.isSome && s.power.mode == .full then
        let base := s.tideNear r.toNat
        let s := s.lateEffect g e
        let s := s.modGroup g (fun x => { x with express := x.express.filter (fun y => y.kind != kOpen), actHeld := false })
        if gr.state == .recovering && gr.recovery.fromState != .closed then s.resumeStep g base
        else if gr.state == .recovering || gr.state == .closed then s.joinStep g base
        else s
      else s
    | _, _ => s
  | none => s

/-! ### Writes of a group block (R219, R220, R350, R351) -/

/-- STEP_DISCARD: in ABORTED, RECOVERING or CLOSED. -/
def askDiscard (s : State) (g : Nat) : State :=
  let st := (s.group g).state
  if st == .aborted || st == .recovering || st == .closed then (s.discardStep g).tryEnterOpen g else s.ignoreGroup g

/-- STEP_HOLD. -/
def setHold (s : State) (g v : Nat) : State := (s.modGroup g (fun x => { x with hold := bitAt v 0 })).tryEnterOpen g

/-- GROUP_STEP: only with the queue STOPPED and the group CLOSED. -/
def setGroupStep (s : State) (g v : Nat) : State :=
  if (s.queue g).state == .stopped && (s.group g).state == .closed then
    s.modGroup g (fun x => { x with step := v % 2 ^ 48, openRefused := false })
  else s.ignoreGroup g

/-- DIAG_CTRL.START: in ABORTED with BUSY 0. -/
def startDiag (s : State) (g : Nat) : State :=
  let gr := s.group g
  if gr.state == .aborted && !gr.diag.busy then
    (s.modGroup g (fun x => { x with diag := { x.diag with busy := true } })).bump .diagRun
  else s.ignoreGroup g

end State

/-- APPLIED_SEQ_REPORT (R202): a report ahead of the last RSEQ sent is ignored; the report is cumulative. -/
def execAppliedSeqReport (unit : Nat) (seq : Word32) (s : State) : Result :=
  whenRunning s (fun s =>
    let u := s.unit unit
    if (atOrAfter 32 seq.toNat u.rseq.toNat && seq != u.rseq) || !atOrAfter 32 seq.toNat u.applied.toNat then s
    else s.setUnit unit { u with applied := seq })

/-- UNIT_RESET (R202). `met`: what the redelivery's reads of retention met. -/
def execUnitReset (unit : Nat) (met : StackReads) (s : State) : Result :=
  whenRunning s (fun s => (s.unappliedAll unit).foldl (fun s x => s.resend x.1 met.bad x.2) (s.readStack met))

/-- COMMIT (R168, R200): the descriptor closes the step's operations, whatever its own TRIGGER and THRESHOLD say (DEDUCED, log
entry 130: R200 asks that it has been fetched). -/
def execCommit (group index : Nat) (s : State) : Result :=
  whenRunning s (fun s =>
    match s.commitOp group with
    | some op =>
      if op.index == index && s.stepRuns group && op.phase == .waiting && !s.fenced group index then
        match s.descFault group op.raw with
        | some code => s.refuseStep group index code op.raw
        | none => (s.modOp group index (fun o => { o with phase := .running })).checkReleased group
      else s
    | none => s)

/-- APPLIED_VOTE (R202, R204): the member's operand of the COMMIT instance. -/
def execAppliedVote (group : Nat) (s : State) : Result :=
  whenRunning s (fun s =>
    if s.mayVote group then
      let hold := s.voteHold group
      let tag := (s.group group).step % 2 ^ 14
      let s := (s.modGroup group (fun x => { x with state := .applied })).modRecord group
        (fun r => { r with state := .applied })
      s.giveOperand group kCommit tag 0 0 hold
    else s)

/-- STEP_DISCARD (R219, R351). -/
def execStepDiscard (tag group : Nat) (s : State) : Result :=
  whenRunning s (fun s => s.asGroup tag group 0x18 (fun s => s.askDiscard group))

/-- STEP_HOLD_WRITE (R204, R350). -/
def execStepHoldWrite (tag group : Nat) (value : Word32) (s : State) : Result :=
  whenRunning s (fun s => s.asGroup tag group 0x14 (fun s => s.setHold group value.toNat))

/-- GROUP_STEP_WRITE (R199, R351). -/
def execGroupStepWrite (tag group : Nat) (value : Word64) (s : State) : Result :=
  whenRunning s (fun s => s.asGroup tag group 0x08 (fun s => s.setGroupStep group value.toNat))

/-- DIAG_START (R220, R351). -/
def execDiagStart (tag group : Nat) (s : State) : Result :=
  whenRunning s (fun s => s.asGroup tag group 0x1C (fun s => s.startDiag group))

end Sys2Proof.Machine
end

