-- ==== Sys2Proof/Machine/Express.lean ====
section
/-! DEFINITION. Commands of the express class (R155, R156, R158 to R168, R172): BARRIER and SCALAR descriptors, the
messages, the effects of BARRIER, SCALAR and READY instances, and the waits that the group timeout bounds. -/

namespace Sys2Proof.Machine

open Sys2Proof

namespace State

/-! ### BARRIER and SCALAR descriptors (R162 to R164) -/

def isExpressOp (b : Bytes) : Bool := Desc.opcode b == Desc.opBarrier || Desc.opcode b == Desc.opScalar

/-- The kind of instance of a BARRIER or SCALAR descriptor, and its OP. -/
def expressKind (b : Bytes) : Nat := if Desc.opcode b = Desc.opBarrier then kBarrier else kScalar
def expressOp (b : Bytes) : Nat := if Desc.opcode b = Desc.opBarrier then 0 else Desc.scalarOp b

/-- Most instances in flight of a group (R162). -/
def inFlightMax : Nat := 16

/-- An earlier BARRIER or SCALAR of the queue has not started, or the most are in flight. -/
def expressWaits (s : State) (g i : Nat) : Bool :=
  let ops := (s.queue g).ops.filter (fun o => isExpressOp o.raw)
  (ops.takeWhile (fun o => o.index != i)).any (fun o => o.phase == .waiting)
    || decide (inFlightMax ≤ (ops.filter (fun o => o.phase == .running)).length)

/-- The fetched BARRIER or SCALAR of the step with a TAG. -/
def expressOpAt (s : State) (g tag : Nat) : Option QueueOp :=
  (s.stepOps g).find? (fun o => isExpressOp o.raw && o.seq % 2 ^ 14 == tag && o.phase != .done)

/-- The members' queues differ: an abort with verdict mismatch (R162). -/
def mismatch (s : State) (g : Nat) : State := (s.bumpG .expressMismatch g 1).abortGroup g 0x03

/-- A held reduce message with the same TAG whose kind or OP differs from the descriptor's. -/
def heldMismatch (s : State) (g : Nat) (op : QueueOp) : Bool :=
  (s.group g).express.any (fun e => (e.kind == kBarrier || e.kind == kScalar) && e.tag == op.seq % 2 ^ 14 && !e.done
    && match e.held with
       | some w => e.kind != expressKind op.raw || (readMsg w).op != expressOp op.raw
       | none => false)

/-- A BARRIER or SCALAR starts: its descriptor is tested and the member gives its operand (R160, R320). A reduce message
that has come before is compared with the descriptor here, not when the descriptor is fetched (DESIGN CHOICE, log entry 111:
R162 does not say when). -/
def startExpress (s : State) (g index opcode : Nat) : State :=
  match (s.stepOps g).find? (fun o => o.index == index && Desc.opcode o.raw == opcode) with
  | some op =>
    if s.stepRuns g && op.phase == .waiting && s.opReady g op && !s.expressWaits g index then
      match s.descFault g op.raw with
      | some code => s.refuseStep g index code op.raw
      | none =>
        if s.heldMismatch g op then s.mismatch g
        else
          (s.modOp g index (fun o => { o with phase := .running, readyAt := some s.now })).giveOperand g
            (expressKind op.raw) (op.seq % 2 ^ 14) (expressOp op.raw) (if opcode = Desc.opScalar then Desc.operand op.raw else 0)
            false
    else s
  | none => s

/-- A reduce message that differs from the member's own descriptor of the same TAG (R162). -/
def checkMismatch (s : State) (m : Msg) : State :=
  if m.lap then s
  else match s.expressOpAt m.group m.tag with
  | some op => if expressKind op.raw != m.kind || expressOp op.raw != m.op then s.mismatch m.group else s
  | none => s

/-! ### VERDICT messages (R166) -/

/-- The chunk that a VERDICT's identity names, of an operation in progress. -/
def verdictChunk (s : State) (m : Msg) : Option (OpView × Nat) :=
  (s.launched m.group).findSome? (fun v =>
    ((v.l.chunks.find? (fun c => v.ownerOf c == m.tag && verdictId v c == m.value / 8 * 8
        && match s.ctx v.g v.d.bucket c with | some x => !x.vTaken | none => false)).map (fun c => (v, c))))

/-- A VERDICT message moves on: held for the member's own check on the reduce lap, taken on the broadcast. -/
def routeVerdict (s : State) (m : Msg) (v : OpView) (c : Nat) : State :=
  if m.lap then
    let s := s.modCtx v.g v.d.bucket c (fun x => { x with vResult := some (field m.value 0 3) })
    if v.floodNo c + 2 = v.l.n then s else s.send m
  else if v.floodNo c = 0 then s
  else (s.modCtx v.g v.d.bucket c (fun x => { x with vHeld := some (msgWord m) })).forwardVerdict v c

/-- A VERDICT message is received. -/
def receiveVerdict (s : State) (p : Nat) (w : Word64) (second : Bool) : State :=
  if w = 0 ∨ (msgOk (readMsg w) ∧ (readMsg w).kind ≠ kVerdict) then s
  else
    let r := s.takeMsg p w second
    match r.2 with
    | some m =>
      if (r.1.group m.group).abort.isSome then r.1
      else match r.1.verdictChunk m with
      | some (v, c) => r.1.routeVerdict m v c
      | none => r.1.bumpPort p .expressMalformed 1
    | none => r.1

/-! ### READY instances (R155) -/

/-- The READY barrier of an operation is open from tide S_0 − 2 − Λ_N on. -/
def readyOpen (s : State) (g : Nat) (op : QueueOp) : Bool :=
  match s.im.bucketDesc (Desc.bucket op.raw) with
  | some d =>
    s.slipGroup g && s.stepRuns g && Desc.isExchange op.raw && op.phase == .waiting && op.slip.isNone
      && decide (s.plannedStart g d ≤ s.now + 2 + lambda (s.ringN g))
  | none => false

/-- The member enters ready for each operation whose barrier is open and whose descriptor is ready. -/
def pollReady (s : State) (g : Nat) : State :=
  (s.stepOps g).foldl (fun s op =>
    if s.readyOpen g op && s.opReady g op
        && !(s.group g).express.any (fun e => e.kind == kReady && e.tag == op.index % 1024 && e.own.isSome)
    then s.giveOperand g kReady (op.index % 1024) 0 0 false else s) s

/-- Every group's ready barriers, when a trigger or a queue has moved. -/
def pollReadyAll (s : State) : State := s.ownGroups.foldl pollReady s

/-- A READY instance takes effect: the slip (R155, R374). -/
def readyEffect (s : State) (g tag e : Nat) : State :=
  match (s.stepOps g).find? (fun o => Desc.isExchange o.raw && o.index % 1024 == tag) with
  | some op =>
    match s.im.bucketDesc (Desc.bucket op.raw) with
    | some d =>
      let slip := e + 2 - s.plannedStart g d
      let s := s.modOp g op.index (fun o => { o with slip := some slip, varied := o.varied || slip != 0 })
      let s := s.modGroup g (fun gr => { gr with sigma := gr.sigma + slip })
      if slip = 0 then s else (s.enterLedger g 3 d.bucket slip).bumpG .slipTides g slip
    | none => s
  | none => s

/-- An instance of BARRIER, SCALAR or READY is done. -/
def endExpress (s : State) (g kind tag : Nat) : State := s.modExpress g kind tag (fun e => { e with done := true })

/-- The effect of an instance in its tide (R161, R163, R164). -/
def effectOf (s : State) (g kind tag : Nat) (e : Express) : State :=
  let v := (e.result.map (·.toNat)).getD 0
  if kind = kReady then ((s.lateEffect g e).readyEffect g tag (s.tideNear v)).endExpress g kind tag
  else
    let s := if kind = kBarrier then s.lateEffect g e else s
    let s := match s.expressOpAt g tag with
      | some op => s.complete g op 0 (if kind = kScalar then v else 0) (kind == kScalar && e.flag)
      | none => s
    (s.endExpress g kind tag).checkReleased g

/-- The effect of an instance in the tide it is due in, E or the tide after the broadcast of a SCALAR (R161, R367). -/
def expressEffect (s : State) (g kind tag : Nat) : State :=
  match s.findExpress g kind tag with
  | some e =>
    match e.effectAt with
    | some t =>
      if (kind == kBarrier || kind == kScalar || kind == kReady) && decide (t = s.now) && s.stepRuns g then
        s.effectOf g kind tag e
      else s
    | none => s
  | none => s

/-! ### Waits (R156, R172) -/

def overdue (s : State) (g since : Nat) : Bool := decide (since + s.timeoutOf g ≤ s.now)

/-- A member that has forwarded the reduce message of an instance counts a lost message where its wait ends without the result
(R159, R172; DESIGN CHOICE, log entry 85: it cannot tell a lost message from one that a member holds). -/
def countStalled (s : State) (g kind tag : Nat) : State :=
  match s.findExpress g kind tag with
  | some e => if e.forwarded.isSome && e.result.isNone then s.countLost g else s
  | none => s

/-- The origin's COMMIT reduce message has not come back within the group timeout plus H_G tides (R172). -/
def lapLost (s : State) (g : Nat) : Bool :=
  s.ringPos g == some 0 && match s.commitInstance g with
    | some e => e.result.isNone && (match e.forwarded with | some t => s.overdue g (t + s.hG g) | none => false)
    | none => false

/-- A STAT instance whose lap or broadcast is lost counts its loss once; its COMMIT waits (R165, R172). -/
def loseStat (s : State) (g tag : Nat) : State := (s.modExpress g kStat tag (fun e => { e with lost := true })).countLost g

end State

/-- BARRIER (R162, R164): the descriptor is ready and its turn has come. -/
def execBarrier (group index : Nat) (s : State) : Result :=
  whenRunning s (fun s => s.startExpress group index Desc.opBarrier)

/-- SCALAR (R162, R163). -/
def execScalar (group index : Nat) (s : State) : Result :=
  whenRunning s (fun s => s.startExpress group index Desc.opScalar)

/-- BARRIER_MESSAGE (R160, R164). -/
def execBarrierMessage (port : Nat) (field : Word64) (second : Bool) (s : State) : Result :=
  whenRunning s (fun s => s.receiveStandard port field second kBarrier State.checkMismatch)

/-- SCALAR_MESSAGE (R160, R163). -/
def execScalarMessage (port : Nat) (field : Word64) (second : Bool) (s : State) : Result :=
  whenRunning s (fun s => s.receiveStandard port field second kScalar State.checkMismatch)

/-- STAT_MESSAGE (R160, R165). -/
def execStatMessage (port : Nat) (field : Word64) (second : Bool) (s : State) : Result :=
  whenRunning s (fun s => s.receiveStandard port field second kStat (fun s _ => s))

/-- VERDICT_MESSAGE (R166). -/
def execVerdictMessage (port : Nat) (field : Word64) (second : Bool) (s : State) : Result :=
  whenRunning s (fun s => s.receiveVerdict port field second)

/-- COMMIT_MESSAGE (R168, R204). -/
def execCommitMessage (port : Nat) (field : Word64) (second : Bool) (s : State) : Result :=
  whenRunning s (fun s => s.receiveStandard port field second kCommit (fun s _ => s))

/-- READY_MESSAGE (R155). -/
def execReadyMessage (port : Nat) (field : Word64) (second : Bool) (s : State) : Result :=
  whenRunning s (fun s => s.receiveStandard port field second kReady (fun s m => s.pollReady m.group))

/-- OPEN_MESSAGE (R168, R204, R298). -/
def execOpenMessage (port : Nat) (field : Word64) (second : Bool) (s : State) : Result :=
  whenRunning s (fun s => s.receiveStandard port field second kOpen
    (fun s m => (s.tryEnterOpen m.group).openOperand m.group))

/-- SLIP_BARRIER_TIMEOUT (R156): measured from S_0 − 2, on every member. -/
def execSlipBarrierTimeout (group index : Nat) (s : State) : Result :=
  whenRunning s (fun s =>
    match (s.stepOps group).find? (fun o => o.index == index) with
    | some op =>
      match s.im.bucketDesc (Desc.bucket op.raw) with
      | some d =>
        if s.readyOpen group op && s.overdue group (s.plannedStart group d - 2) then
          (s.countStalled group kReady (op.index % 1024)).abortGroup group 0x01
        else s
      | none => s
    | none => s)

/-- FOLD_TIMEOUT (R156): measured from V of the operation's last chunk. -/
def execFoldTimeout (group index : Nat) (s : State) : Result :=
  whenRunning s (fun s =>
    match s.opAt group index with
    | some v =>
      if s.stepRuns group && (v.l.fold == .due || v.l.fold == .running)
          && s.overdue group (v.verdictTide (v.rounds + v.l.replays.length - 1)) then s.abortGroup group 0x01 else s
    | none => s)

/-- OPEN_TIMEOUT (R156, R298): measured from the member's own entry into the OPEN; the member whose timer expires sends the
token, whether it has forwarded the reduce message or not. -/
def execOpenTimeout (group : Nat) (s : State) : Result :=
  whenRunning s (fun s =>
    match (s.group group).openAt with
    | some t =>
      if s.overdue group t && (s.group group).abort.isNone
          && !(s.group group).express.any (fun e => e.kind == kOpen && e.result.isSome) then
        if s.neighboursWith group 2 then (s.bump .imageMismatch).abortGroup group 0x07
        else (s.countStalled group kOpen 0).abortGroup group 0x01
      else s
    | none => s)

/-- EXPRESS_HOLD_TIMEOUT (R156, R164): measured from the instance's first entry at the origin, whose token ends the others.
The origin counts a lap that has not come back as lost (R172; DESIGN CHOICE, log entry 85: it cannot tell it from one that
a member holds). -/
def execExpressHoldTimeout (group kind xtag : Nat) (s : State) : Result :=
  whenRunning s (fun s =>
    match s.findExpress group kind xtag with
    | some e =>
      match e.forwarded with
      | some t =>
        if (kind == kBarrier || kind == kScalar) && s.stepRuns group && e.result.isNone && s.ringPos group == some 0
            && s.overdue group t then (s.countLost group).abortGroup group 0x01
        else s
      | none => s
    | none => s)

/-- COMMIT_HOLD_TIMEOUT (R156, R203): measured from the tide in which the holding member reached RELEASED. Where the
reduce message was lost on a link, no member holds it, and the instance ends at the origin (R172). -/
def execCommitHoldTimeout (group : Nat) (s : State) : Result :=
  whenRunning s (fun s =>
    let gr := s.group group
    let holds := s.ringPos group == some 0 || ((s.commitInstance group).map (·.held.isSome)).getD false
    match gr.releasedAt with
    | some t =>
      if gr.state == .released && gr.abort.isNone && holds && s.overdue group t then
        (s.bumpG .commitTimeout group 1).abortGroup group 0x01
      else if gr.state == .applied && gr.abort.isNone && s.lapLost group then (s.countLost group).abortGroup group 0x01
      else s
    | none => s)

/-- BROADCAST_LOSS_TIMEOUT (R172): a member that has forwarded a reduce message has no broadcast within the group
timeout plus H_G tides. For STAT the COMMIT waits instead. -/
def execBroadcastLossTimeout (group kind xtag : Nat) (s : State) : Result :=
  whenRunning s (fun s =>
    match s.findExpress group kind xtag with
    | some e =>
      match e.forwarded with
      | some t =>
        if e.result.isNone && (s.group group).abort.isNone && s.overdue group (t + s.hG group) then
          if kind = kStat then (if e.lost then s else s.loseStat group xtag)
          else if s.ringPos group = some 0 then s
          else (s.countLost group).abortGroup group 0x01
        else s
      | none => s
    | none => s)

end Sys2Proof.Machine
end

