-- ==== Sys2Proof/Machine/Receive.lean ====
section
/-! DEFINITION. What every received cell and every VC3 cell share: bad cells (R173, R174, R247), repeat requests both ways
(R175, R176), malformed cells (R246), and the VC3 queue of a port (R45, R253). -/

namespace Sys2Proof.Machine

open Sys2Proof

/-- Cell types that commands bring (R246). -/
def tMark : Nat := 1
def tTransfer : Nat := 3
def tFlow : Nat := 4
def tTime : Nat := 5
def tHail : Nat := 6
def tDelay : Nat := 7
def tPrbs : Nat := 8
def tRecovery : Nat := 9

/-! ### Transfer blocks (R246, R324, R325) -/

/-- Data bytes of a full transfer block (R325). -/
def blockMax : Nat := 57312

def kPut : Nat := 0
def kGetRequest : Nat := 1
def kGetData : Nat := 2
def kPutAck : Nat := 3

/-- The 32 bytes of a block header (R324). -/
def transferHeader (h : BlockHeader) : Bytes :=
  leBytes 1 h.kind ++ leBytes 1 h.status ++ leBytes 2 0 ++ leBytes 4 h.length ++ leBytes 8 h.addr ++ leBytes 8 h.replyAddr
    ++ leBytes 4 h.transfer ++ leBytes 4 h.block

/-- The header that a block begins with. -/
def readHeader (b : Bytes) : BlockHeader :=
  { kind := rd b 0 1, status := rd b 1 1, length := rd b 4 4, addr := rd b 8 8, replyAddr := rd b 0x10 8,
    transfer := rd b 0x18 4, block := rd b 0x1C 4 }

/-- CLASS of a block's TRANSFER cells: put and its acknowledgement, get request, get response (R246, R325). -/
def blockClass (kind : Nat) : Nat := if kind = kGetRequest then 1 else if kind = kGetData then 2 else 0

/-- Cells of a block by its header. -/
def cellsOfBlock (h : BlockHeader) : Nat :=
  if h.kind = kPut ∨ h.kind = kGetData then max 1 (ceilDiv (32 + h.length) 224) else 1

/-- A cell's CLASS is that of its block: of the header in the first cell, of the block's cells received in the others (R246,
R249, R325). -/
def classFits (f : CellFields) (received : List StagedCell) : Bool :=
  if f.seq % 256 = 0 then f.cls == blockClass (rd f.payload 0 1) else received.all (fun c => (readCell c.cell).cls == f.cls)

/-- The header of a block whose first cell is staged. -/
def headerHeld (cs : List StagedCell) : Option BlockHeader :=
  (cs.find? (fun c => c.index == 0)).map (fun c => readHeader (readCell c.cell).payload)

/-- Ranks of the VC3 queue in the order of R45 and R253; hails have rank 1 and PRBS cells come last. -/
def rankTime : Nat := 0
def rankRecovery : Nat := 2
def rankDelay : Nat := 3

/-- A port in DISCOVER, ALIGN, SERVICE or QUARANTINE is trained (R251). -/
def trained (l : Link) : Bool := l == .discover || l == .align || l == .service || l == .quarantine

namespace State

/-- Queue a VC3 cell on a port. -/
def sendVc3 (s : State) (p rank type group : Nat) (payload : Bytes) : State :=
  s.modPort p (fun x => { x with vc3 := x.vc3 ++ [⟨rank, type, group, payload⟩] })

/-- Request a repeat of a slot of this tide on the reverse direction (R175). -/
def askRepeat (s : State) (p slot : Nat) : State :=
  if (s.port p).asked.any (fun a => a.1 == slot && a.2 == s.now) then s
  else s.modPort p (fun x =>
    { x with asked := x.asked ++ [(slot, s.now)], repeatOut := x.repeatOut ++ [(slot, s.now)] })

/-- A request is kept: for a slot whose copy is there, or for a VC1 slot of the tide in progress, whose cell the frame lays
out (R176). -/
def keepRequest (s : State) (p slot tide : Nat) : State :=
  let keep (s : State) : State := s.modPort p (fun x => { x with requests := x.requests ++ [(slot, tide)] })
  match (s.port p).kept.find? (fun k => k.slot == slot && k.tide == tide) with
  | some k => if (s.port p).retxDone.contains k.vc && tide + 1 == s.now then s.bumpPort p .retxStale 1 else keep s
  | none =>
    if tide = s.now && (match s.runAt p 0 slot with | some r => r.vc == 1 && r.use == 0 | none => false) then keep s
    else s.bumpPort p .retxStale 1

/-- Collect a repeat request carried in a good cell: its second copy is ignored, and so is every request on a port outside
scheduled service (R175, R176, R197). -/
def collectRequest (s : State) (p : Nat) (b : Bytes) : State :=
  match repeatOf b with
  | some (slot, t4) =>
    if !s.inService p then s
    else if (s.port p).seenReq.any (fun q => q.1 == slot && q.2.1 == t4 && decide (s.now ≤ q.2.2 + 1)) then s
    else
      let s := s.modPort p (fun x => { x with seenReq := x.seenReq ++ [(slot, t4, s.now)] })
      if t4 = s.now % 4 then s.keepRequest p slot s.now
      else if t4 = (s.now + 3) % 4 then s.keepRequest p slot (s.now - 1)
      else s.bumpPort p .retxStale 1
  | none => s

/-- The key of a group's blocks on a port. -/
def blockKey (g p : Nat) : Nat := 64 * g + p

def modBlock (s : State) (g p : Nat) (f : Vc1Rx → Vc1Rx) : State :=
  { s with blockRx := s.blockRx.mod {} (blockKey g p) f }

/-- The staged cells of a VC1 block of a group on a port, in order. -/
def blockCellsHeld (s : State) (g p ref : Nat) : List StagedCell :=
  sortBy (fun a b => decide (a.index ≤ b.index))
    (s.staging.filter (fun x => x.lap == vc1Lap && x.group == g && x.port == p && x.ref == ref))

/-- The requests for the tide before that no repeat has answered yet. -/
def openRequests (s : State) (p : Nat) : List (Nat × Nat) :=
  ((s.port p).asked.filter (fun a => decide (a.2 + 1 = s.now))).filter (fun a => !(s.port p).repaired.contains a)

/-- A tide ends in which requests for VC1 cells of a group have found no good repeat, and no later cell of the group has
come: the block in progress has lost its next cells for good (R178, R325; an unanswered request between two blocks is taken
for an IDLE cell unless its repeat came bad: DESIGN CHOICE, log entry 97). Its transfer ends with 0x04 (R178, R325), and so
does the group's step where one is open (R135). -/
def failBlock (s : State) (p g : Nat) (slots : List Nat) : State :=
  let x := s.blockRx.get {} (blockKey g p)
  let bad := slots.filter (s.port p).badRepeats.contains
  let short := match headerHeld (s.blockCellsHeld g p x.block) with
    | some h => min slots.length (cellsOfBlock h - x.next)
    | none => slots.length
  let n := if x.next = 0 then bad.length else short
  if x.gaps = 0 ∨ x.failed ∨ n = 0 then s
  else
    ((s.modBlock g p (fun x => { x with failed := true })).countMissing p 1 n (if x.next = 0 then bad else slots.take n)).abortGroup
      g 0x04

/-- The same for every group with open requests on a port. -/
def failBlocks (s : State) (p : Nat) : State :=
  let asked := (s.openRequests p).filterMap (fun a =>
    (s.runAt p 1 a.1).bind (fun r => if r.vc = 1 then some (r.group, a.1) else none))
  ((asked.map (·.1)).eraseDups).foldl (fun s g => s.failBlock p g ((asked.filter (fun a => a.1 == g)).map (·.2))) s

/-- A cell of a type is received on a trained port: a bad one is dropped, a good one brings its repeat request, and one
that does not fit the table of R246 is discarded. A cell of another type is not this command's. -/
def withCell (s : State) (p type : Nat) (cell : Bytes) (f : State → CellFields → State) : State :=
  let b := padTo 256 cell
  if !trained (s.port p).link then s
  else if !cellOk b then
    let s := s.bumpPort p .crcFail 1
    if type = tFlow && s.receivesTide p then s.bumpPort p .vc2CrcDrop 1 else s
  else if (readCell b).type != type then s
  else
    let s := s.collectRequest p b
    if shapeOk (readCell b) then f s (readCell b) else s.bumpPort p .cellMalformed 1

end State

end Sys2Proof.Machine
end

