-- ==== Sys2Proof/Machine/Recovery.lean ====
section
/-! DEFINITION. Aborts and recovery (R169, R205 to R222, R258): tokens and reports, recovery cells, the coordinator's
decision, the resume tide and the skip close. -/

namespace Sys2Proof.Machine

open Sys2Proof

/-- Kinds of a recovery cell (R258). -/
def rPropose : Nat := 0
def rCensus : Nat := 1
def rDecide : Nat := 2
def rAck : Nat := 3

/-- "No chip": all ones in 20 bits. -/
def noChip : Nat := 0xFFFFF

/-- The code of a step state (R200). -/
def StepState.code : StepState → Nat
  | .closed => 0
  | .exchange => 1
  | .released => 2
  | .applied => 3
  | .aborted => 4
  | .recovering => 5

namespace State

/-! ### Recovery cells -/

/-- Ports of the links of the group's ring in force and those that its other tables add (R210). -/
def recoveryPorts (s : State) (g : Nat) : List Nat :=
  (((s.im.rings.filter (fun r => r.group == g)).flatMap s.ringPorts) ++
    (match s.ringOf g with | some r => s.ringPorts r | none => [])).eraseDups

/-- Send a recovery cell on every link of the group but one, where the partner is in SERVICE (R258). -/
def sendCell (s : State) (kind : Nat) (c : RecoveryCell) (besides : Option Nat) : State :=
  ((s.recoveryPorts c.group).filter (fun p => some p != besides && (s.port p).link == .service)).foldl
    (fun s p => s.sendVc3 p rankRecovery tRecovery c.group (recoveryPayload kind c)) s

/-- The cells of a message: its list split over as many parts as it needs, 47 entries each. -/
def messageCells (c : RecoveryCell) (list : List Nat) : List RecoveryCell :=
  let parts := max 1 (ceilDiv list.length 47)
  (List.range parts).map (fun i => { c with part := i, parts := parts, list := (list.drop (47 * i)).take 47 })

/-- Send a message of the member's own, keeping its cells. -/
def sendMessage (s : State) (g kind : Nat) (c : RecoveryCell) (list : List Nat) : State :=
  (messageCells { c with group := g, sender := s.ident.hallChip, step := (s.group g).step,
                         round := (s.group g).recovery.round } list).foldl
    (fun s c => (s.modGroup g (fun x => { x with recovery := { x.recovery with
      cells := x.recovery.cells ++ [(kind, c)] } })).sendCell kind c none) s

/-- A message template. -/
def blankCell : RecoveryCell :=
  { port := 0, group := 0, code := 0, state := 0, sender := 0, step := 0, table := 0, lost := noChip, part := 0,
    parts := 1, tR := 0, round := 0, list := [] }

/-- The codes of step aborts (R425): 0x09 and 0x0A never end a step. -/
def abortCodes : List Nat := [0x01, 0x02, 0x03, 0x04, 0x05, 0x06, 0x07, 0x08, 0x0B, 0x0C, 0x0D]

/-- CODE of the member's recovery cells: that of the abort it last saw; of a member that has seen none it is not given. -/
def codeOf (s : State) (g : Nat) : Nat :=
  let gr := s.group g
  if gr.abortCode = 0 then abortCodes.getD (Config.recoveryCode g gr.step % 11) 0x01 else gr.abortCode

/-- The cells of one kind and sender that the member holds. -/
def cellsOf (s : State) (g kind sender : Nat) : List RecoveryCell :=
  ((s.group g).recovery.cells.filter (fun x => x.1 == kind && x.2.sender == sender)).map (·.2)

/-- The list of a message, once every part has arrived. -/
def messageList (s : State) (g kind sender : Nat) : Option (List Nat) :=
  let cs := s.cellsOf g kind sender
  match cs with
  | [] => none
  | c :: _ =>
    if (List.range c.parts).all (fun i => cs.any (fun x => x.part == i)) then
      some ((List.range c.parts).flatMap (fun i => ((cs.find? (fun x => x.part == i)).map (·.list)).getD []))
    else none

/-- Whether every part of a message has arrived. -/
def whole (s : State) (g kind sender : Nat) : Bool := (s.messageList g kind sender).isSome

/-- The chunks the member has released in the step, as list entries in ascending order. -/
def releasedEntries (s : State) (g : Nat) : List Nat :=
  sortBy (fun a b => decide (a ≤ b))
    ((((s.group g).record.map (·.entries)).getD []).filterMap
      (fun e => if e.released then some (e.bucket * 2 ^ 20 + e.chunk) else none))

/-- The release set of a CENSUS: chunks released in the last 2 · Λ_N tides before the abort was first seen, or for a
re-joining member every chunk released in the step (R210, R213). -/
def censusSet (s : State) (g firstAt : Nat) : List Nat :=
  let gr := s.group g
  if gr.recovery.rejoined then s.releasedEntries g
  else sortBy (fun a b => decide (a ≤ b))
    ((gr.releases.filter (fun r => decide (firstAt ≤ r.tide + 2 * lambda (s.ringN g)))).map
      (fun r => r.bucket * 2 ^ 20 + r.chunk))

/-! ### The coordinator (R210) -/

def ringChips (s : State) (g : Nat) : List Nat := ((s.ringOf g).map (fun r => r.members.map (·.chip))).getD []

/-- The PROPOSE cells of complete messages. -/
def proposals (s : State) (g : Nat) : List RecoveryCell :=
  ((s.group g).recovery.cells.filter (fun x => x.1 == rPropose && s.whole g rPropose x.2.sender)).map (·.2)

/-- Chips that a PROPOSE names as lost. -/
def proposedLost (s : State) (g : Nat) : List Nat :=
  (((s.proposals g).filter (fun c => c.lost != noChip)).map (·.lost)).eraseDups

/-- The member at position 0, or at position 1 where that member is the lost one. A member that has re-joined the step was the
lost one, unless its group stood in ABORTED before it restarted (R207, R210, R213). -/
def isCoordinator (s : State) (g : Nat) : Bool :=
  let firstLost := (s.proposedLost g).contains ((s.ringChips g).headD noChip)
  match s.ringPos g with
  | some 0 => !firstLost && !((s.group g).recovery.rejoined && (s.group g).recovery.wasLost)
  | some 1 => firstLost
  | _ => false

def hasPropose (s : State) (g : Nat) : Bool := !(s.proposals g).isEmpty

/-- Reachable members whose CENSUS has not arrived whole. -/
def missingCensus (s : State) (g : Nat) : List Nat :=
  ((s.ringChips g).filter (fun c => !(s.proposedLost g).contains c)).filter
    (fun c => !s.whole g rCensus c)

/-- The alternate table mapped for a lost chip, if it is valid. -/
def alternateFor (s : State) (g chip : Nat) : Option Nat :=
  ((s.im.faultDesc g).bind (fun f => f.alt.find? (fun a => a.1 == chip))).bind
    (fun a => if (s.im.tableDesc a.2).isSome then some a.2 else none)

def autoMode (s : State) (g : Nat) : Bool := ((s.im.faultDesc g).map (·.auto)).getD false

/-- The step's released set: what the coordinator has released and what any complete CENSUS names. -/
def unionSet (s : State) (g : Nat) : List Nat :=
  let census := ((s.group g).recovery.cells.filter (fun x => x.1 == rCensus && s.whole g rCensus x.2.sender)).flatMap
    (fun x => x.2.list)
  sortBy (fun a b => decide (a ≤ b)) ((s.releasedEntries g ++ census).eraseDups)

/-! ### Taking a DECIDE (R210, R211, R214) -/

/-- Whether the ring of a table has the engine among its members. -/
def inRing (s : State) (g t : Nat) : Bool := ((s.im.ringUnder g t).bind s.posIn).isSome

/-- Release a chunk of the released set that the member has not released; one that it holds only in retention is redelivered
first (R214). -/
def lateRelease (s : State) (g : Nat) (met : List Nat) (x : Nat) : State :=
  let b := x / 2 ^ 20
  let c := x % 2 ^ 20
  match s.retView g b c, s.retainedOf g b c with
  | some v, some r =>
    if s.released v c then s
    else
      let go (s : State) : State :=
        ((s.addCounts g b r.ebbBay r.cove r.clip r.ovf).bumpG .lateRelease g 1).release v c 2
      if ((s.entry g b c).map (·.delivered)).getD false then go s else s.withRedelivery g b c met go
  | _, _ => s

/-- The DECIDE and RECOVERY_CTRL disagree (R210). -/
def conflict (s : State) (g action table : Nat) : State :=
  let s := s.modGroup g (fun x => { x with rc := { x.rc with conflict := true } })
  (s.bump .recoveryConflict).raise
    { type := 0x0012, severity := 3, group := some g, subject := (s.group g).step,
      arg := table + action % 2 * 2 ^ 4, rings := s.ringsG g }

/-- What an ARM takes from RECOVERY_CTRL (R352). -/
def armedNow (rc : RecoveryCtrl) : Armed := { action := if rc.skip then 2 else rc.action, table := rc.table, tR := rc.tR }

/-- A DECIDE agrees with what an ARM took; under SKIP the table is ignored (R352). -/
def agrees (a : Armed) (action table tR : Nat) : Bool :=
  a.action == action && (action == 2 || a.table == table) && a.tR == tR

/-- A DECIDE disagrees with an armed RECOVERY_CTRL (R210). -/
def disagrees (s : State) (g action table tR : Nat) : Bool :=
  match (s.group g).rc.armed with
  | some a => !agrees a action table tR
  | none => false

/-- A RESUME on the table in force, acknowledged, ends what the member holds of a lost member that has returned (R210,
R213). -/
def forgetLost (s : State) (g : Nat) (d : Decision) : State :=
  if d.action = 0 ∧ d.table = (s.group g).table then
    s.modGroup g (fun x => { x with recovery := { x.recovery with lostChip := noChip, rejoined := false, wasLost := false } })
  else s

/-- Acknowledge a decision and enter RECOVERING (R211). The code of the ACK is that of the member's abort; a member without
one repeats the decision's. -/
def acknowledge (s : State) (g : Nat) (d : Decision) (met : List Nat) : State :=
  let s := s.zeroBadUnits g
  let s := d.set.foldl (fun s x => s.lateRelease g met x) s
  let closed := (s.group g).state == .closed
  let from_ := if closed then .closed else (s.group g).recovery.fromState
  let code := if closed && d.code != 0 then d.code else s.codeOf g
  let s := s.modGroup g (fun x =>
    { x with state := .recovering, abort := none,
             recovery := { x.recovery with decision := some { d with acked := true }, fromState := from_ } })
  let s := (s.modRecord g (fun r => { r with state := .recovering })).forgetLost g d
  s.sendMessage g rAck { blankCell with code := code, tR := d.tR } []

/-- A member in a state that takes a DECIDE: it is in ABORTED, or a spare or held member in CLOSED. -/
def mayTake (s : State) (g : Nat) : Bool :=
  let gr := s.group g
  (gr.state == .aborted && ((gr.abort.map (·.reported)).getD true)) || (gr.state == .closed && gr.openAt.isNone)

/-- A DECIDE has arrived whole, or is the coordinator's own. One that an armed RECOVERY_CTRL contradicts is a conflict, also
where its table leaves the member out or the member has acknowledged a decision, which then stands, and a diagnosis replay
holds one that the member takes (R210, R219, R220, R364). -/
def takeDecide (s : State) (g : Nat) (d : Decision) (met : List Nat) : State :=
  let gr := s.group g
  let held := match gr.recovery.decision with | some x => x.acked | none => false
  if s.disagrees g d.action d.table d.tR then
    (if held || !s.mayTake g then s
     else s.modGroup g (fun x => { x with recovery := { x.recovery with decision := some d } })).conflict g d.action d.table
  else if held || !s.mayTake g then s
  else if !s.inRing g (if d.action = 2 then gr.table else d.table) then s
  else if gr.diag.busy then
    s.modGroup g (fun x => { x with recovery := { x.recovery with decision := some d, heldDecide := true } })
  else s.acknowledge g d met

/-- The coordinator's DECIDE goes out, and the coordinator takes it. -/
def sendDecide (s : State) (g action table tR : Nat) : State :=
  let set := s.unionSet g
  let code := s.codeOf g
  let s := s.sendMessage g rDecide { blankCell with code := code, state := action, table := table, tR := tR } set
  s.takeDecide g { action := action, table := table, tR := tR, set := set, acked := false, code := code } []

def recoveryLead (s : State) (g : Nat) : Nat := ((s.im.faultDesc g).map (·.recoveryLead)).getD 65536

/-- Decide in AUTO mode. -/
def decideAuto (s : State) (g action table : Nat) : State := s.sendDecide g action table (s.now + s.recoveryLead g)

/-- Every surviving member had reached RELEASED or APPLIED. -/
def allReleasedStates (s : State) (g : Nat) (lost : List Nat) : Bool :=
  ((s.ringChips g).filter (fun c => !lost.contains c)).all (fun c =>
    s.whole g rCensus c && (s.cellsOf g rCensus c).any (fun x => x.state == 2 || x.state == 3))

/-- The coordinator's choice, given the members it counts as lost (R210). -/
def choose (s : State) (g : Nat) (lost : List Nat) : State :=
  let gr := s.group g
  let code := gr.abortCode
  let wait (s : State) : State := s.modGroup g (fun x => { x with recovery := { x.recovery with
    rejoinUntil := some (s.now + ((s.im.faultDesc g).map (·.rejoinWait)).getD 781250), lostChip := lost.headD noChip } })
  if code = 0x05 then s.decideAuto g 2 gr.table
  else if code = 0x06 ∨ code = 0x07 ∨ code = 0x08 ∨ code = 0x0C ∨ code = 0x0D then s
  else match lost with
  | [] => if code = 0x01 ∨ code = 0x03 ∨ code = 0x04 ∨ code = 0x0B then s.decideAuto g 0 gr.table else s
  | [chip] =>
    match s.alternateFor g chip with
    | some t => if s.allReleasedStates g lost then wait s else s.decideAuto g 1 t
    | none => wait s
  | _ => s

/-- Whether the coordinator still has to decide. -/
def undecided (s : State) (g : Nat) : Bool :=
  let gr := s.group g
  s.autoMode g && gr.state == .aborted && ((gr.abort.map (·.reported)).getD false) && gr.recovery.decision.isNone
    && gr.recovery.rejoinUntil.isNone && s.isCoordinator g && s.hasPropose g

/-- The coordinator decides once it holds a PROPOSE and a CENSUS from every reachable member; while it waits for a lost
member, that member's CENSUS is its return (R210, R213). -/
def coordinate (s : State) (g : Nat) : State :=
  let r := (s.group g).recovery
  if s.undecided g && (s.missingCensus g).isEmpty then
    s.choose g ((s.proposedLost g).filter (s.ringChips g).contains)
  else match r.rejoinUntil with
  | some t =>
    if decide (s.now < t) && r.decision.isNone && s.whole g rCensus r.lostChip then
      (s.modGroup g (fun x => { x with recovery := { x.recovery with rejoinUntil := none } })).decideAuto g 0
        (s.group g).table
    else s
  | none => s

/-! ### Receiving recovery cells (R258) -/

/-- The member's PROPOSE, as one that detected the fault; the first of its round is noted (R210). -/
def sendPropose (s : State) (g code lost : Nat) : State :=
  let s := s.sendMessage g rPropose { blankCell with code := code, lost := lost } []
  s.modGroup g (fun x => { x with recovery := { x.recovery with
    firstPropose := if x.recovery.firstPropose.isNone then some s.now else x.recovery.firstPropose } })

/-- The commit of step s, proved by a recovery cell of step s + 1, whose round the member takes. Its own token has then ended
step s + 1, so it proposes (R210, R222). -/
def lostCommit (s : State) (g code round : Nat) : State :=
  let own := ((s.group g).abort.map (·.own)).getD []
  let lost := (s.group g).recovery.lostChip
  let s := s.commitStep g s.now false
  let s := s.modRecord g (fun r => { r with state := .aborted, abortCode := code, done := s.now })
  let s := s.modGroup g (fun x =>
    { x with state := .aborted, abortCode := code,
             abort := some { kept := (code, 0xFFFFFFFF), own := own, sentAt := s.now, changedAt := s.now,
                             firstAt := s.now, returned := true, reported := true },
             recovery := { x.recovery with fromState := .exchange, reports := 1, round := round, lostChip := lost } })
  if own.isEmpty then s else s.sendPropose g code lost

/-- Whether the member missed only its COMMIT broadcast. -/
def missedCommit (s : State) (g : Nat) (c : RecoveryCell) : Bool :=
  let gr := s.group g
  (gr.state == .applied || (gr.state == .aborted && gr.recovery.fromState == .applied)) && c.step == gr.step + 1

/-- A later round is taken (R258). A member that had joined the recovery from CLOSED, outside the ring in force, holds
nothing of the earlier round any more. -/
def takeRound (s : State) (g round : Nat) : State :=
  s.modGroup g (fun x =>
    let joined := x.state == .recovering && x.recovery.fromState == .closed
    { x with state := if joined then .closed else x.state,
             recovery := { x.recovery with round := round, cells := [], firstPropose := none,
                                           decision := if joined then none else x.recovery.decision } })

/-- A cell is taken: rounds, duplicates, forwarding (R210, R258). The second part tells whether it was new. -/
def takeCell (s : State) (kind : Nat) (c : RecoveryCell) : State × Bool :=
  let g := c.group
  let r := (s.group g).recovery
  if (s.port c.port).link != .service || !(s.im.rings.any (fun r => r.group == g && (s.posIn r).isSome)) then (s, false)
  else if c.step ≠ (s.group g).step then (s, false)
  else if !atOrAfter 8 c.round r.round then (s, false)
  else
    let s := if c.round = r.round then s else s.takeRound g c.round
    if (s.group g).recovery.cells.any (fun x => x.1 == kind && x.2.sender == c.sender && x.2.part == c.part) then (s, false)
    else
      let s := s.modGroup g (fun x => { x with recovery := { x.recovery with
        cells := x.recovery.cells ++ [(kind, c)],
        firstPropose := if kind = rPropose && x.recovery.firstPropose.isNone then some s.now
                        else x.recovery.firstPropose } })
      (s.sendCell kind c (some c.port), true)

/-- What follows a new cell of a kind. A DECIDE that is whole only from its T_R on comes too late to be taken (R211); it still
conflicts with a RECOVERY_CTRL that is armed with other values (R364). -/
def actOn (s : State) (kind : Nat) (c : RecoveryCell) (met : List Nat) : State :=
  let g := c.group
  if kind = rDecide then
    match s.messageList g rDecide c.sender with
    | some set =>
      if c.tR ≤ s.now then (if s.disagrees g c.state c.table c.tR then s.conflict g c.state c.table else s)
      else s.takeDecide g { action := c.state, table := c.table, tR := c.tR, set := set, acked := false, code := c.code } met
    | none => s
  else s.coordinate g

/-- The member's CENSUS (R210). -/
def sendCensus (s : State) (g firstAt : Nat) : State :=
  s.sendMessage g rCensus
    { blankCell with code := s.codeOf g, state := (s.group g).recovery.fromState.code } (s.censusSet g firstAt)

/-- A recovery cell is received. -/
def receiveCell (s : State) (kind : Nat) (c : RecoveryCell) (met : List Nat) : State :=
  let g := c.group
  let s := if s.missedCommit g c && (s.port c.port).link == .service then
      (s.lostCommit g c.code c.round).sendCensus g s.now else s
  let r := s.takeCell kind c
  if r.2 then r.1.actOn kind c met else r.1

/-- A received RECOVERY cell of a kind (R246, R258). -/
def receiveRecovery (s : State) (p kind : Nat) (cell : Bytes) (met : List Nat) : State :=
  s.withCell p tRecovery cell (fun s f =>
    if rd f.payload 0 1 = kind then s.receiveCell kind (readRecovery p f.payload) met else s)

/-! ### Abort reports (R169, R208) -/

/-- Record an abort where the partition, the hall controller and the step record see it; a step that ends in its OPEN
has its record from then on (R206, R330). -/
def noteAbort (s : State) (g : Nat) (t : Nat × Nat) : State :=
  let s := s.modQueue g (fun q => { q with lastCode := t.1, lastAbort := t.2 })
  let s := if (s.group g).record.isSome then s else s.modGroup g (fun x => { x with record := some (s.newRecord g 0) })
  let s := s.modRecord g (fun r =>
    { r with state := .aborted, abortCode := t.1, abortChunk := t.2 % 2 ^ 20, abortBucket := t.2 / 2 ^ 20, done := s.now })
  s.raise { type := 0x0010, severity := 3, code := t.1, group := some g, subject := (s.group g).step, arg := t.2,
            rings := s.ringsG g }

/-- The member reports the kept token and enters ABORTED; its recovery round begins (R169, R208, R210, R258). -/
def reportAbort (s : State) (g : Nat) (a : AbortState) : State :=
  let gr := s.group g
  let from_ := if gr.state == .recovering then gr.recovery.fromState else gr.state
  let n := gr.recovery.reports % 256
  let keep := atOrAfter 8 gr.recovery.round n
  let s := (s.noteAbort g a.kept).clearStaging g
  let s := s.modGroup g (fun x =>
    { x with state := .aborted, abortCode := a.kept.1, abort := some { a with reported := true }, openAt := none,
             ctxs := [], parkCount := 0,
             express := x.express.filter (fun e => e.kind == kStat && e.result.isSome),
             rc := { x.rc with status := 0, armed := none },
             recovery := { x.recovery with
               reports := x.recovery.reports + 1, fromState := from_, decision := none, heldDecide := false,
               rejoinUntil := none, timedOut := false,
               round := if keep then x.recovery.round else n,
               cells := if keep then x.recovery.cells else [],
               firstPropose := if keep then x.recovery.firstPropose else none } })
  let s := if a.own.isEmpty && gr.recovery.lostChip = noChip then s
    else s.sendPropose g a.kept.1 gr.recovery.lostChip
  (s.sendCensus g a.firstAt).coordinate g

/-! ### The resume tide (R211, R212, R216) -/

/-- Enter the RECOVERY entry for the table now in force (R374). -/
def enterRecovery (s : State) (g action : Nat) (old : List Nat) : State :=
  let new := s.ringChips g
  let shorter := decide (new.length < old.length)
  let subst := new.any (fun c => !old.contains c)
  s.enterLedger g 8 0xFFF
    (new.length % 2 ^ 15 + (s.group g).table % 16 * 2 ^ 15 + bnat shorter * 2 ^ 19 + bnat subst * 2 ^ 20
      + bnat (action == 1) * 2 ^ 21)

/-- The member-replaced event for each position that changes its chip (R216). -/
def noteReplaced (s : State) (g : Nat) (old : List Nat) : State :=
  let new := s.ringChips g
  if new.length ≠ old.length then s
  else (old.zip new).foldl (fun s x =>
    if x.1 = x.2 then s
    else (s.bumpG .memberReplaced g 1).raise
      { type := 0x0013, severity := 1, code := 0x02, group := some g, subject := x.1, arg := x.2,
        rings := s.ringsG g }) s

/-- At T_R: the table, the ledger entry and the OPEN on the resulting ring, which in Idle asks for the wake and waits
(R411); a group held in CLOSED whose counter has reached its maximum refuses it (R199). -/
def resumeAt (s : State) (g : Nat) (d : Decision) : State :=
  let old := s.ringChips g
  let joins := !s.member g
  let byCtrl := (s.group g).rc.armed.isSome
  let before := (s.group g).table
  let s := s.modGroup g (fun x =>
    { x with table := d.table, abort := none, hold := x.hold && !byCtrl,
             rc := if byCtrl then { x.rc with status := 2, armed := none } else x.rc,
             recovery := { x.recovery with
               decision := none, heldDecide := false, cells := [], firstPropose := none, lostChip := noChip,
               rejoined := false, wasLost := false, substituted := x.recovery.substituted || d.action == 1,
               spare := x.recovery.spare || (joins && d.action == 1), action := d.action,
               releasedSet := if d.action = 1 then d.set else x.recovery.releasedSet } })
  let s := if joins then s.establishFresh g else s
  let s := if (s.group g).table = before then s
    else (({ s with maint := { s.maint with tableAt := some s.time.ticks } }) : State).resetBlocks g
  let s := (s.enterRecovery g d.action old).noteReplaced g old
  if (s.group g).recovery.fromState == .closed && (s.group g).step == stepMax then
    (s.modGroup g (fun x => { x with state := .closed })).refuseOpen g
  else (s.enterOpen g).askWake

/-- What the resume tide of an ARM brings in any case: the end of HOLD, and STATUS 2 (R351, R352). -/
def endArm (s : State) (g : Nat) : State :=
  s.modGroup g (fun x => { x with hold := false, rc := { x.rc with status := 2, armed := none } })

/-- A member in CLOSED that the armed table leaves out: the table and the end of HOLD are all that T_R brings (R219,
R351). -/
def leaveOut (s : State) (g table : Nat) : State :=
  let s := if (s.group g).table = table then s
    else { s with maint := { s.maint with tableAt := some s.time.ticks } }
  (s.modGroup g (fun x => { x with table := table })).endArm g

/-- The released chunks of a bucket in the step. -/
def releasedOf (s : State) (g : Nat) (d : ImgBucket) : List Nat :=
  (List.range (chunkCount d)).filter (fun c => ((s.entry g d.bucket c).map (·.released)).getD false)

/-- Copy generation B at a released chunk's positions over generation A. What cannot be read stays unreadable in the copy
(R395; DESIGN CHOICE, log entry 125); the generations lie alike in their units, since their bases are multiples of 1 MiB. -/
def copyChunk (s : State) (met : List Nat) (d : ImgBucket) (c : Nat) : State :=
  let n := resWidth d * chunkLimit d c
  let src := s.genAddr d true (c * spanOf d)
  let dst := s.genAddr d false (c * spanOf d)
  let bad := s.badIn met src n
  let s := { s with stack := s.stack.writeBytes dst (s.stack.readBytes src n) }
  ((s.writeUnits dst n).noteBad bad).markBad (bad.map (fun u => u - src / 256 + dst / 256))

/-- Copy generation B at the released positions over generation A (R218 step 1). -/
def copyReleased (s : State) (met : List Nat) (d : ImgBucket) (cs : List Nat) : State :=
  cs.foldl (fun s c => s.copyChunk met d c) s

/-- The skip close (R218): the step's record becomes the last committed one with ABORT_CODE 0x05, whatever code had ended
it. `met`: what the copy's reads met. -/
def skipStep (s : State) (g : Nat) (met : StackReads) : State :=
  let s := s.readStack met
  let gr := s.group g
  let ops := s.stepOps g
  let armed := gr.rc.armed.isSome
  let s := (s.im.bucketsOf g).foldl (fun s d =>
    let cs := s.releasedOf g d
    if cs.isEmpty then s
    else if cs.length = chunkCount d then s.flipSelector d else s.copyReleased met.bad d cs) s
  let s := s.enterLedger g 8 0xFFF (s.ringN g % 2 ^ 15 + gr.table % 16 * 2 ^ 15 + 2 ^ 22)
  let s := s.endStepOps g 0x05 ops
  let r := (s.group g).record.map (fun r => { r with done := s.now, state := .closed, abortCode := 0x05 })
  let s := (s.freeStep g r).dropStepOps g ops
  (s.modGroup g (fun x =>
    { x with step := Nat.min (x.step + 1) stepMax, attempt := 0, state := .closed,
             actHeld := s.image.pending.isSome, hold := x.hold && !armed,
             rc := if armed then { x.rc with status := 2, armed := none } else x.rc })).tryEnterOpen g

/-- The decision that T_R finds: the acknowledged one, or what an ARM of RECOVERY_CTRL took. -/
def decisionAt (s : State) (g : Nat) : Option Decision :=
  let gr := s.group g
  match gr.recovery.decision with
  | some d => if d.acked then some d else none
  | none =>
    gr.rc.armed.map (fun a => { action := a.action, table := a.table, tR := a.tR, set := [], acked := false, code := 0 })

/-- The resume tide of a decision has come: for a member that acknowledged it and has seen no further abort (R222), for one
in ABORTED that is armed, and for one in CLOSED that is armed. A diagnosis replay keeps an ABORTED one that the table names
(R211, R219, R220, R352). -/
def resumeDue (s : State) (g : Nat) : Bool :=
  let gr := s.group g
  match s.decisionAt g with
  | some d =>
    decide (d.tR ≤ s.now) && d.action != 2 && gr.openAt.isNone
      && ((gr.state == .recovering && gr.abort.isNone) || (gr.state == .aborted && (!gr.diag.busy || !s.inRing g d.table))
        || (gr.state == .closed && gr.rc.armed.isSome))
  | none => false

/-- T_R has come of an ARM that a DECIDE the member holds contradicts (R210). -/
def conflictDue (s : State) (g : Nat) (skip : Bool) : Bool :=
  let gr := s.group g
  match gr.recovery.decision, gr.rc.armed with
  | some d, some a =>
    !d.acked && !gr.recovery.heldDecide && !agrees a d.action d.table d.tR && (a.action == 2) == skip && decide (a.tR ≤ s.now)
  | _, _ => false

/-- The member stays as it is (R210); HOLD ends with the resume tide (R351), and STATUS shows that nothing is armed (DEDUCED,
log entry 63). -/
def endConflict (s : State) (g : Nat) : State :=
  (s.modGroup g (fun x => { x with hold := false, rc := { x.rc with status := 0, armed := none } })).tryEnterOpen g

/-- The member holds a whole DECIDE whose ring has no place for it (R219). -/
def leftOutBy (s : State) (g : Nat) : Bool :=
  (s.group g).recovery.cells.any (fun x => x.1 == rDecide && s.whole g rDecide x.2.sender
    && !s.inRing g (if x.2.state = 2 then (s.group g).table else x.2.table))

/-- A resume tide that the member knows only from others' cells has come (R211). -/
def missedResume (s : State) (g : Nat) : Bool :=
  !s.leftOutBy g && (s.group g).recovery.cells.any (fun x => (x.1 == rDecide || x.1 == rAck) && decide (x.2.tR ≤ s.now))

/-- A write of RECOVERY_CTRL (R352). An ARM that is ignored shows STATUS 3 and leaves what an earlier one armed. Any member
but the coordinator then waits for its DECIDE, with the released set, or for T_R (R210, R216). -/
def recoveryCtrl (s : State) (g v : Nat) : State :=
  let gr := s.group g
  let rc := { gr.rc with
    action := field v 0 1, table := field v 1 4, skip := bitAt v 5,
    conflict := gr.rc.conflict && !bitAt v 11 }
  if !bitAt v 8 then s.modGroup g (fun x => { x with rc := rc })
  else
    let busy := gr.state == .recovering
      || (match gr.recovery.decision with | some d => d.acked | none => false)
    let ok := (gr.state == .aborted || s.heldBit g) && decide (s.now + 4096 ≤ rc.tR)
      && (rc.skip || (s.im.tableDesc rc.table).isSome) && !busy
    if !ok then s.modGroup g (fun x => { x with rc := { rc with status := 3 } })
    else
      let a := armedNow rc
      let s := s.modGroup g (fun x => { x with rc := { rc with status := 1, armed := some a } })
      match gr.recovery.decision with
      | some d =>
        if agrees a d.action d.table d.tR then s.takeDecide g d [] else s.conflict g d.action d.table
      | none =>
        if s.isCoordinator g then s.sendDecide g a.action a.table a.tR else s

end State

/-- A member that holds the OPEN for a neighbour's hash as it times out ends it with image mismatch (R298). -/
def State.holdsForHash (s : State) (g : Nat) (t : Nat × Nat) : State :=
  if t == (0x01, State.noChunk) && (s.group g).openAt.isSome && s.neighboursWith g 2 then
    ((s.bump .imageMismatch).keepToken g (0x07, State.noChunk) true).send (State.abortMsg g (0x07, State.noChunk))
  else s

/-- ABORT_TOKEN (R169). -/
def execAbortToken (port : Nat) (field : Word64) (second : Bool) (s : State) : Result :=
  whenRunning s (fun s =>
    if field = 0 ∨ (msgOk (readMsg field) ∧ (readMsg field).kind ≠ kAbort) then s
    else
      let r := s.takeMsg port field second
      match r.2 with
      | some m =>
        let s := r.1
        let t := (m.tag % 256, m.value)
        match (s.group m.group).abort with
        | some a =>
          if a.own.contains t then
            s.modGroup m.group (fun x => { x with abort := x.abort.map (fun a => { a with returned := true }) })
          else (s.keepToken m.group t false).send m
        | none => if s.takesToken m.group then ((s.keepToken m.group t false).send m).holdsForHash m.group t else s.send m
      | none => r.1)

/-- ABORT_REPORT (R169): 2 · Λ_N tides after the kept token last changed. -/
def execAbortReport (group : Nat) (s : State) : Result :=
  whenRunning s (fun s =>
    match (s.group group).abort with
    | some a =>
      if !a.reported && decide (a.changedAt + 2 * lambda (s.ringN group) ≤ s.now) then s.reportAbort group a else s
    | none => s)

/-- ABORT_RESEND (R169): every Λ_N tides until the token returns or the sender has reported; the token that has not returned
counts as lost (R159; DESIGN CHOICE, log entry 85: the sender cannot tell lost copies from a broken ring). -/
def execAbortResend (group : Nat) (s : State) : Result :=
  whenRunning s (fun s =>
    match (s.group group).abort with
    | some a =>
      match a.own with
      | t :: _ =>
        if !a.reported && !a.returned && decide (a.sentAt + lambda (s.ringN group) ≤ s.now) then
          ((s.modGroup group (fun x => { x with abort := some { a with sentAt := s.now } })).countLost group).send
            (State.abortMsg group t)
        else s
      | [] => s
    | none => s)

/-- PROPOSE (R210). -/
def execPropose (port : Nat) (cell : Bytes) (s : State) : Result :=
  whenRunning s (fun s => s.receiveRecovery port rPropose cell [])

/-- CENSUS (R210). -/
def execCensus (port : Nat) (cell : Bytes) (s : State) : Result :=
  whenRunning s (fun s => s.receiveRecovery port rCensus cell [])

/-- DECIDE (R210, R214). `met`: what the reads of retention of a late release meet. -/
def execDecide (port : Nat) (cell : Bytes) (met : StackReads) (s : State) : Result :=
  whenRunning s (fun s => (s.readStack met).receiveRecovery port rDecide cell met.bad)

/-- ACK (R211). -/
def execAck (port : Nat) (cell : Bytes) (s : State) : Result :=
  whenRunning s (fun s => s.receiveRecovery port rAck cell [])

/-- COORDINATOR_DEADLINE (R210): 2N tides after the first PROPOSE, members without a CENSUS count as lost. -/
def execCoordinatorDeadline (group : Nat) (s : State) : Result :=
  whenRunning s (fun s =>
    match (s.group group).recovery.firstPropose with
    | some t =>
      if s.undecided group && decide (t + 2 * s.ringN group ≤ s.now) then
        s.choose group (((s.proposedLost group).filter (s.ringChips group).contains ++ s.missingCensus group).eraseDups)
      else s
    | none => s)

/-- REJOIN_WAIT_EXPIRY (R210, R222): the expiry prevails over a return in its tide. -/
def execRejoinWaitExpiry (group : Nat) (s : State) : Result :=
  whenRunning s (fun s =>
    let r := (s.group group).recovery
    match r.rejoinUntil with
    | some t =>
      if decide (t ≤ s.now) && r.decision.isNone then
        match s.alternateFor group r.lostChip with
        | some a => s.decideAuto group 1 a
        | none => s
      else s
    | none => s)

/-- What a resume tide brings a member: one in ABORTED that the armed table leaves out stays there (R211, R219, R351). -/
def State.takeResume (s : State) (g : Nat) (d : Decision) : State :=
  match (s.group g).state with
  | .recovering => s.resumeAt g d
  | .aborted => if s.inRing g d.table then (s.acknowledge g d []).resumeAt g d else s.endArm g
  | _ => if s.inRing g d.table then (s.acknowledge g d []).resumeAt g d else s.leaveOut g d.table

/-- What the resume tide of a SKIP brings a member (R218); for one outside the ring in force it is only the end of its ARM
(R351). -/
def State.takeSkip (s : State) (g : Nat) (d : Decision) (met : StackReads) : State :=
  let gr := s.group g
  if gr.state == .recovering then (if gr.abort.isNone then s.skipStep g met else s)
  else if !s.member g then (if gr.rc.armed.isSome then s.endArm g else s)
  else if (gr.state == .aborted && !gr.diag.busy) || (gr.state == .closed && gr.rc.armed.isSome) then
    (s.acknowledge g d []).skipStep g met
  else s

/-- SKIP_CLOSE (R218). -/
def execSkipClose (close : SkipClose) (s : State) : Result :=
  whenRunning s (fun s =>
    match s.decisionAt close.group with
    | some d => if decide (d.tR ≤ s.now) && d.action == 2 then s.takeSkip close.group d close.met else s
    | none => if s.conflictDue close.group true then s.endConflict close.group else s)

/-- RECOVERY_CTRL_ARM (R352): a write of RECOVERY_CTRL. -/
def execRecoveryCtrlArm (tag group : Nat) (value : Word32) (s : State) : Result :=
  whenRunning s (fun s => s.asGroup tag group 0x20 (fun s => s.recoveryCtrl group value.toNat))

/-- DIAG_DONE (R220, R356): the report is written; a DECIDE held meanwhile is then taken. `inputs.met`: what the reads of
generation A and of retention met. -/
def execDiagDone (group : Nat) (inputs : DiagReads) (s : State) : Result :=
  whenRunning s (fun s =>
    let gr := s.group group
    if gr.diag.busy then
      let s := (s.readStack inputs.met).reportDiag group inputs.chunks inputs.met.bad
      match gr.recovery.decision with
      | some x =>
        if gr.recovery.heldDecide && gr.state == .aborted then
          (s.modGroup group (fun y => { y with recovery := { y.recovery with decision := none, heldDecide := false } })).takeDecide
            group x []
        else s
      | none => s
    else s)

end Sys2Proof.Machine
end

