-- ==== Sys2Proof/Machine/LinkCore.lean ====
section
/-! DEFINITION. What time and links share: the calibration record's fields (R54), compensated values and the planes of
timestamps (R29, R59), the discipline loop's states and the loss of a reference (R32, R36 to R39), leaving training,
quarantine and alignment of a port (R48 to R51, R58, R60, R251, R252, R263 to R265). -/

namespace Sys2Proof.Machine

open Sys2Proof

namespace State

/-! ### The calibration record (R54) -/

def calEntry (p : Nat) : Nat := 0x100 + 128 * p

/-- A field of the record in force. -/
def calRd (s : State) (off n : Nat) : Nat := leNat (s.cal.inEffect.readBytes off n)

/-- The engine itself writes a field of the working copy; it is in force at once (R58). -/
def calWr (s : State) (off : Nat) (b : Bytes) : State :=
  { s with cal := { s.cal with work := s.cal.work.writeBytes off b,
                               inEffect := if s.time.calValid then s.cal.inEffect.writeBytes off b
                                           else s.cal.inEffect } }

def calFlags (s : State) (p : Nat) : Nat := s.calRd (calEntry p + 0x30) 1
def delayOf (s : State) (p : Nat) : Nat := s.calRd (calEntry p + 0x10) 4
def delayValid (s : State) (p : Nat) : Bool := bitAt (s.calFlags p) 2
def calPartner (s : State) (p : Nat) : Nat := s.calRd (calEntry p + 0x1C) 4 % 2 ^ 25
def calSerial (s : State) (p : Nat) : Nat := s.calRd (calEntry p + 0x20) 8

/-- DELAY is valid for the partner that the neighbour entry names. -/
def delayForPartner (s : State) (p : Nat) : Bool :=
  let n := (s.port p).nb
  s.delayValid p && s.calPartner p == n.chip % 2 ^ 20 + n.port % 32 * 2 ^ 20 && s.calSerial p == n.serial

/-- The partner seen differs from the record's: DELAY_VALID and ASYM_SET are cleared, ASYM is zero (R58). -/
def dropDelay (s : State) (p : Nat) : State :=
  let f := s.calFlags p
  let f := f - bnat (bitAt f 2) * 4 - bnat (bitAt f 3) * 8
  (s.calWr (calEntry p + 0x30) (leBytes 1 f)).calWr (calEntry p + 0x14) (leBytes 4 0)

/-- Whole-slot latency and arrival offset of a port (R48): 2.5 ns are 163,840 units. -/
def slotUnits : Nat := 163840
def latencyOf (s : State) (p : Nat) : Nat := (2 * s.delayOf p + slotUnits) / (2 * slotUnits)
def offsetOf (s : State) (p lp : Nat) : Int := (s.delayOf p : Int) - (slotUnits * lp : Nat)

/-- A signed field of the record in force. -/
def calSigned (s : State) (off n : Nat) : Int := signed (8 * n) (s.calRd off n)

/-- ASYM of a port, and the PPS latencies (R54). -/
def asymOf (s : State) (p : Nat) : Int := s.calSigned (calEntry p + 0x14) 4
def ppsOutLat (s : State) : Int := s.calSigned 0xD08 4
def ppsInLat (s : State) : Int := s.calSigned 0xD0C 4

/-- Bytes of the calibration record in the store (R54, R269). -/
def calBytes : Nat := 65536

/-- The word of the working copy that CAL_DATA shows, and DIRTY: the working copy differs from the stored record (R338). -/
def calWord (s : State) : Nat := leNat (s.cal.work.readBytes s.cal.offset 4)
def calDirty (s : State) : Bool := s.nv.calCut.isSome || s.cal.work != s.nv.bytes.below calBytes

/-- What R55 finds wrong with a record: bit 0 MAGIC, FORMAT or PORT_COUNT, bit 1 SERIAL, bit 2 the CRC. -/
def calFaults (s : State) (m : Mem) : Nat :=
  let f (off n : Nat) : Nat := leNat (m.readBytes off n)
  match s.nv.calCut with
  | some n => 1 + Config.cutRecord n % 7
  | none =>
    bnat (f 0 4 != 0x5243585A || f 4 2 != 1 || f 6 2 != 24) + bnat (f 8 8 != s.ident.serial) * 2
    + bnat (f 0xFFFC 4 != crc32c (m.readBytes 0 0xFFFC)) * 4

/-- The stored record becomes the working copy and is judged; a bad record counts as zeros (R55). -/
def loadCal (s : State) : State :=
  let m := s.nv.bytes.below calBytes
  let bad := s.calFaults m
  let s := { s with cal := { s.cal with work := if bad = 0 then m else [], inEffect := if bad = 0 then m else [], reloadAsked := false },
                    time := { s.time with calValid := bad == 0 } }
  if bad = 0 then s
  else
    ({ s with power := { s.power with faults := { s.power.faults with calInvalid := true } } }).raise
      { type := 0x0041, severity := 4, arg := bad, rings := s.ringsE }

/-! ### Tokens that hold a port (R400, R402) -/

/-- The hall controller holds the calibration token of a port (R402). -/
def calToken (s : State) (p : Nat) : Bool := s.maint.tokens.any (fun t => t.activity == 1 && t.resource == p)

/-! ### Compensated values (R59, R402) -/

/-- The temperature difference used: bounded to ±64 °C. -/
def tempDiff (t ref : Int) : Int := clampInt (-16384) 16384 (t - ref)

/-- A value compensated by a coefficient over a difference; 32-bit arithmetic. -/
def compensate (v tc dt : Int) : Int := signed 32 (unsigned 32 (v + tc * dt / 256))

/-- The values compensated for the temperature of each port and the six readings, by the record in force. -/
def compensation (s : State) (port : Nat → Int) (dies : List Int) : CompValues :=
  let lat (p off tcOff : Nat) : Int :=
    let e := calEntry p
    compensate (s.calSigned (e + off) 4) (s.calSigned (e + tcOff) 2) (tempDiff (port p) (s.calSigned (e + 0x0C) 2))
  let mean : Int := signed 16 (unsigned 16 ((dies.take 6).foldl (· + ·) 0 / 6))
  { dies := dies,
    txLat := (List.range 24).map (fun p => lat p 0x00 0x08), rxLat := (List.range 24).map (fun p => lat p 0x04 0x0A),
    temp := (List.range 24).map port,
    osc := compensate (s.calSigned 0xD00 4) (s.calSigned 0xD04 2) (tempDiff mean (s.calSigned 0xD06 2)) }

/-- The temperature a port was last compensated for; before the first time that of its entry. -/
def usedTemp (s : State) (p : Nat) : Int := s.cal.comp.temp.getD p (s.calSigned (calEntry p + 0x0C) 2)

/-- New readings take effect, but for the ports whose calibration token is held (R59, R402). -/
def applyTemps (s : State) (c : CompValues) : State :=
  let port (p : Nat) : Int := if s.calToken p then s.usedTemp p else c.temp.getD p 0
  { s with cal := { s.cal with comp := s.compensation port c.dies } }

/-- The values in force follow a change of the record, at the temperatures last used; before the first update they are the
record's own (DEDUCED, log entry 87). -/
def recompensate (s : State) : State :=
  if s.cal.comp.temp.isEmpty then s
  else { s with cal := { s.cal with comp := s.compensation s.usedTemp s.cal.comp.dies } }

def txLatOf (s : State) (c : CompValues) (p : Nat) : Int := c.txLat.getD p (s.calSigned (calEntry p) 4)
def rxLatOf (s : State) (c : CompValues) (p : Nat) : Int := c.rxLat.getD p (s.calSigned (calEntry p + 4) 4)

/-- The synthesizer trim of FREERUN, in 10^-12 (R54, R59). -/
def oscTrim (s : State) : Int := if s.cal.comp.temp.isEmpty then s.calSigned 0xD00 4 else s.cal.comp.osc

/-! ### Timestamps (R29) -/

/-- A timestamp of 12.5 ps in the units of R27, rounded to the nearest. -/
def stampUnits (t : Stamp) : Units := roundAwayDiv (t * 4096) 5

/-- A transmit timestamp at the reference plane of a port: the transmit latency lies behind the timestamp. -/
def txPlane (s : State) (p : Nat) (t : Stamp) : Units := stampUnits t + s.txLatOf s.cal.comp p

/-- A receive timestamp at the reference plane of a port: the receive latency lies before the timestamp. -/
def rxPlane (s : State) (p : Nat) (t : Stamp) : Units := stampUnits t - s.rxLatOf s.cal.comp p

/-! ### The discipline loop -/

def loopCode : Loop → Nat
  | .freerun => 0
  | .freqAcquire => 1
  | .phaseAcquire => 2
  | .locked => 3
  | .holdover => 4
  | .timeLost => 5

def refCode : RefSource → Nat
  | .none => 0
  | .primary => 1
  | .backup => 2
  | .pps => 3

/-- The tide of a hall time (R41). -/
def tideAt (s : State) (h : Nat) : Nat := (h - epochOf s.im) / tideUnits

/-- Holdover bound at entry: 1.5 ns; and the bound that ends it: 3.25 ns (R38). -/
def boundEntry : Nat := 98304
def boundLimit : Nat := 212992

/-- TIDE_VALID (R36, R41, R55): LOCKED, or HOLDOVER while its bound is at most 3.25 ns, after the epoch, with a valid
calibration record. -/
def frameNow (s : State) : Bool :=
  (s.time.loop == .locked || (s.time.loop == .holdover && decide (s.time.bound ≤ boundLimit))) && s.img.isSome
    && !s.beforeEpoch && s.time.calValid

/-- The PPS output goes low: a pulse in progress ends (R34, R61, R337). -/
def cutPps (s : State) : State :=
  match s.time.ppsUntil with
  | some t =>
    let s : State := { s with time := { s.time with ppsUntil := none } }
    if s.time.hall < t then s.emit .ppsLow else s
  | none => s

/-- TIDE_VALID follows the loop; with the tide frame gone the PPS output is held low. -/
def setFrame (s : State) : State :=
  let s := if s.frameNow then s else s.cutPps
  { s with time := { s.time with frame := s.frameNow } }

/-- The TIME_STATE event of a change of the loop's state or reference (R388). -/
def timeEvent (s : State) (old : Loop) (severity code : Nat) (ref : RefSource) (refPort : Nat) : State :=
  s.raise { type := 0x0040, severity := severity, code := code,
            subject := loopCode s.time.loop + loopCode old * 2 ^ 3 + refCode ref * 2 ^ 6 + refPort * 2 ^ 8,
            arg := Nat.min s.time.bound 0xFFFFFFFF, rings := s.ringsA }

/-- The mean of values, ties away from zero as every rounding of the engine (R73). -/
def meanOf (l : List Int) : Int := roundAwayDiv (l.foldl (· + ·) 0) l.length

/-- The frequency held in HOLDOVER: the mean over the last second of LOCKED (R36). -/
def heldFreq (s : State) : Int :=
  match s.time.freqs with
  | [] => s.time.loopFreq
  | l => meanOf (l.map (·.2))

/-- Keep a frequency correction of LOCKED for a second, 390,625 tides. -/
def noteFreq (s : State) : State :=
  { s with time := { s.time with freqs :=
      (s.time.freqs ++ [(s.time.ticks, s.time.loopFreq)]).filter (fun x => decide (s.time.ticks < x.1 + 390625)) } }

/-- Enter a state of the loop with what entry brings: FREERUN applies the trim, HOLDOVER and TIME_LOST the held frequency
(R36, R38). -/
def enterLoop (s : State) (l : Loop) : State :=
  let old := s.time.loop
  match l with
  | .locked =>
    let s := ({ s with time := { s.time with loop := l, bound := 0, lockCount := 0,
                                             freqs := [(s.time.ticks, s.time.loopFreq)] } }).setFrame
    s.timeEvent old 1 0 s.time.refSource s.time.refPort
  | .holdover =>
    let s := { s with time := { s.time with loop := l, bound := boundEntry, boundStart := boundEntry, loopFreq := s.heldFreq,
                                            boundTide := s.time.ticks, holdoverSeen := true, refSource := .none, refPort := 0, lockCount := 0 } }
    ((s.bump .holdoverEntry).setFrame).timeEvent old 2 0 s.time.lastRef s.time.lastRefPort
  | .timeLost =>
    let s := { s with time := { s.time with loop := l, bound := 0, refSource := .none, refPort := 0, lockCount := 0,
                                            loopFreq := s.heldFreq } }
    (s.setFrame).timeEvent old 4 0x0C s.time.lastRef s.time.lastRefPort
  | .phaseAcquire =>
    ({ s with time := { s.time with loop := l, bound := 0, stepped := false, lockCount := 0, freqSince := none } }).setFrame
  | .freqAcquire => ({ s with time := { s.time with loop := l, bound := 0, lockCount := 0, freqSince := none } }).setFrame
  | .freerun =>
    ({ s with time := { s.time with loop := l, bound := 0, refSource := .none, refPort := 0, lockCount := 0,
                                    loopFreq := s.oscTrim } }).setFrame

/-- The settings of time in force: the active image's, or before one is active those of R417. -/
def timeCfg (s : State) : ImgTime :=
  match s.img with
  | some im => im.time
  | none => (s.time.boot.map (·.cfg)).getD {}

/-- The designated time ports, primary and backup; 0xFF is none (R31, R417). -/
def timePorts (s : State) : Nat × Nat :=
  match s.img with
  | some _ => (s.self.map (fun c => (c.timePrimary, c.timeBackup))).getD (0xFF, 0xFF)
  | none => (s.time.boot.map (fun b => (b.primary, b.backup))).getD (0xFF, 0xFF)

/-- The designated time port of a source (R31). -/
def sourcePort (s : State) (r : RefSource) : Option Nat :=
  match r with
  | .primary => if s.timePorts.1 < 24 then some s.timePorts.1 else none
  | .backup => if s.timePorts.2 < 24 then some s.timePorts.2 else none
  | _ => none

def sourceOf (s : State) (p : Nat) : RefSource :=
  if s.sourcePort .primary = some p then .primary else if s.sourcePort .backup = some p then .backup else .none

/-- The reference that is not the given one, among the two time ports. -/
def otherSource : RefSource → RefSource
  | .primary => .backup
  | _ => .primary

/-- The conditions of R39 on a port the loop would switch to: Sync for 128 intervals, offset within ±1.0 ns. -/
def switchable (s : State) (r : RefSource) : Bool :=
  match s.sourcePort r with
  | some p =>
    let t := s.timePort p
    !t.lost && !t.driftLost && decide (128 ≤ t.syncs) && decide (t.offset.natAbs ≤ nsUnits)
  | none => false

/-- The active reference is lost: to the backup where R39 allows, else HOLDOVER; in acquisition FREERUN. DESIGN CHOICE (log
entry 88): with the backup active, LOCKED switches to the primary under the same two conditions, reversion on or off (R39
speaks of the backup only); and in HOLDOVER a reference that had returned and is lost again lets B grow on from its last
value, at the frequency held before (R38 does not say). -/
def loseReference (s : State) : State :=
  let s := { s with time := { s.time with lastRef := s.time.refSource, lastRefPort := s.time.refPort } }
  match s.time.loop with
  | .locked =>
    if s.switchable (otherSource s.time.refSource) then
      { s with time := { s.time with refSource := .none, refPort := 0 } }
    else s.enterLoop .holdover
  | .freqAcquire => s.enterLoop .freerun
  | .phaseAcquire => s.enterLoop .freerun
  | .holdover => { s with time := { s.time with refSource := .none, refPort := 0, boundTide := s.time.ticks,
                                                boundStart := s.time.bound, loopFreq := s.heldFreq } }
  | _ => { s with time := { s.time with refSource := .none, refPort := 0, boundTide := s.time.ticks,
                                        boundStart := s.time.bound } }

/-- A time port's reference is lost (R32). In LOCKED between two references the loss of the one that is awaited leaves
none. -/
def loseTimePort (s : State) (p : Nat) : State :=
  let r := s.sourceOf p
  if r = .none then s
  else
    let s := s.setTimePort p { s.timePort p with lost := true, syncs := 0, paired := false }
    if s.time.refSource = r then s.loseReference
    else if s.time.refSource = .none && s.time.loop == .locked && r == otherSource s.time.lastRef then s.enterLoop .holdover
    else s

/-! ### Groups and ports -/

/-- The map hash that the image records for a chip (R264). -/
def mapRecord (s : State) (chip : Nat) : Option Bytes := (s.im.chipNo chip).map (·.mapHash)

/-- A ring neighbour is lost to the groups that use a port: member lost (R157, R207). -/
def memberLost (s : State) (p : Nat) : State :=
  (s.groupsOnPort p).foldl (fun s g =>
    if s.abortable g then
      let s := s.modGroup g (fun x => { x with recovery := { x.recovery with lostChip := (s.port p).nb.chip } })
      ((s.bumpG .ringLinkLost g 1).bumpG .memberLost g 1).abortGroup g 0x02
    else s) s

/-- Tokens end; the hall controller's request is then idle again (R400). -/
def dropTokens (s : State) (p : Token → Bool) : State :=
  let hall := s.maint.tokens.any (fun t => p t && t.ofHall)
  { s with maint := { s.maint with tokens := s.maint.tokens.filter (fun t => !p t),
                                   status := if hall then 0 else s.maint.status } }

/-- A change of DELAY changes φ_p of a port in the tide frame at once, not L_p (R61). -/
def refreshPhi (s : State) (p : Nat) : State :=
  if (s.port p).link == .align || (s.port p).link == .service then
    s.modPort p (fun x => { x with phi := s.offsetOf p x.lp })
  else s

/-- The conflicting uses of a port's resources end with the port's training (R399, R404). -/
def dropPortWork (s : State) (p : Nat) : State :=
  let s := if (s.port p).remeasure.isSome then s.bumpPort p .delayTimeout 1 else s
  let s := s.dropTokens (fun t => (t.activity == 1 || t.activity == 2 || t.activity == 3) && t.resource == p)
  s.modPort p (fun x => { x with remeasure := none, delayReq := none, measWaits := none, exch := 0, hailHold := none,
                                 prbs := false, prbsRx := none, prbsWaits := false })

/-- What a port outside scheduled service holds no longer: the cells of the frame in progress, express messages, repeat
requests, RECOVERY cells (R171, R197, R258, R263). Transfer blocks wait for service to return. -/
def clearScheduled (x : PortState) : PortState :=
  { x with tx := [], exprQueue := [], exprFirst := [], requests := [], asked := [], repeatOut := [],
           seenReq := [], repaired := [], badRepeats := [], vc3 := x.vc3.filter (fun i => i.rank != rankRecovery) }

/-- A port leaves training for OFF or SIGNAL; its neighbour entry is LOST (R252, R265). -/
def leaveTraining (s : State) (p : Nat) (to_ : Link) : State :=
  if !trained (s.port p).link then s.modPort p (fun x => { x with link := to_ })
  else
    let s := s.bumpPort p .linkDown 1
    let s := s.memberLost p
    let s := s.dropPortWork p
    let s := s.modPort p (fun x =>
      { clearScheduled x with
        link := to_, qreason := 0, qPending := none, vc3Only := false, marks := 0, samples := [], drifted := false,
        residual := 0, kept := [], retxDone := [], hailDue := false, hailSent := none, vc3 := [], tideFrame := false,
        rxTide := false, prbsWaits := false, mark := none, lastReq := none, nb := { x.nb with state := .lost } })
    s.loseTimePort p

/-- A port enters DISCOVER: the local frame, and a hail (R243, R251, R259). -/
def enterDiscover (s : State) (p : Nat) : State :=
  s.modPort p (fun x =>
    { clearScheduled x with link := .discover, qreason := 0, qPending := none, marks := 0, tideFrame := false, mark := none,
                            hailDue := true })

/-- The reason that a port in QUARANTINE goes on with when another arises: LATENCY and DRIFT stand until RETRAIN; what the
latest hail failed replaces what an earlier one failed; else the lowest code (R262, R263). -/
def joinReason (old new : Nat) : Nat :=
  if old = 7 ∨ old = 9 then old else if old ≤ 6 ∧ new ≤ 7 then new else min old new

/-- Entry into QUARANTINE with a reason (R263); ALIGN retrains from DISCOVER at once. A changed identity marks the entry
LOST, and an entry that a hail marked LOST in SERVICE stays so (R265). -/
def enterQuarantine (s : State) (p r : Nat) : State :=
  let mark (n : Neighbour) : Neighbour :=
    { n with state := if r = 8 then n.state
                      else if r = 10 ∨ r = 11 ∨ ((s.port p).link = .service ∧ n.state = .lost) then .lost
                      else .quarantined }
  let s :=
    if (s.port p).link == .quarantine then
      s.modPort p (fun x => { x with qreason := joinReason x.qreason r, nb := mark x.nb })
    else
      let s := (s.bumpPort p .quarantine 1).raise
        { type := 0x0052, severity := 2, subject := p + (s.port p).nb.chip % 2 ^ 20 * 2 ^ 32, arg := r, rings := s.ringsE }
      if r = 8 then s.enterDiscover p
      else s.modPort p (fun x =>
        { clearScheduled x with link := .quarantine, qreason := r, marks := 0, qPending := none, vc3Only := false,
                                nb := mark x.nb })
  if r = 11 then s.loseTimePort p else s

/-- A quarantine arises: from SERVICE it waits for the next boundary, the lowest reason standing (R262, R263). -/
def quarantine (s : State) (p r : Nat) : State :=
  if (s.port p).link == .service then
    s.modPort p (fun x => { x with qPending := some (match x.qPending with | some q => min q r | none => r),
                                   qAt := if x.qPending.isSome then x.qAt else s.time.ticks })
  else s.enterQuarantine p r

/-- The quarantine takes effect at the boundary: groups using the port end their steps (R157, R263). -/
def quarantineNow (s : State) (p r : Nat) : State :=
  let s :=
    if r = 8 ∨ r = 9 then s.abortGroups (s.groupsOnPort p) 0x0D
    else if r = 10 then s.memberLost p
    else (s.groupsOnPort p).foldl (fun s g =>
      if s.abortable g then (s.bumpG .ringLinkLost g 1).abortGroup g 0x02 else s) s
  s.enterQuarantine p r

/-- A quarantine that arose in an earlier tide takes effect (R51, R263). -/
def quarantineDue (s : State) (p : Nat) : State :=
  match (s.port p).qPending with
  | some r => if (s.port p).link == .service && decide ((s.port p).qAt < s.time.ticks) then s.quarantineNow p r else s
  | none => s

/-- Scheduled slots are withdrawn: ports in ALIGN and SERVICE stay trained, in the local frame, and pass through ALIGN again
at the next TIDE_VALID (R38, R251, R268). -/
def withdraw (s : State) : State :=
  (List.range 24).foldl (fun s p =>
    if (s.port p).link == .service || (s.port p).link == .align then s.enterDiscover p
    else s.modPort p (fun x => { x with tideFrame := false, mark := none })) s

/-! ### Alignment (R48, R49, R251) -/

/-- The largest whole-slot latency that the image declares for a port (R49, R282): table 0's block, as L_p is fixed at
training, under whatever table (DESIGN CHOICE, log entry 89: R49 does not say which block's L_MAX counts while an alternate
with a block of its own is in force). -/
def imageLatency (s : State) (p : Nat) : Nat := ((s.blockFor 0).map (fun b => b.lMax.getD p 0)).getD 0

/-- A port with a latency fails R49. -/
def latencyBad (s : State) (p lp : Nat) : Bool :=
  !s.delayForPartner p || decide (400 < lp) || decide (s.imageLatency p < lp)

/-- The port-latency event and its counter (R49). -/
def refuseLatency (s : State) (p lp : Nat) : State :=
  (s.bumpPort p .portLatencyRefused 1).raise { type := 0x0050, severity := 2, subject := p, arg := lp, rings := s.ringsE }

/-- Enter ALIGN: L_p and φ_p are fixed, and the port changes to the tide frame; one that fails R49 goes to QUARANTINE. After a
drift abort a port goes no further than DISCOVER until it is recalibrated (R60). -/
def enterAlign (s : State) (p : Nat) : State :=
  let lp := s.latencyOf p
  let s := s.modPort p (fun x => { x with lp := lp, phi := s.offsetOf p lp, marks := 0 })
  if s.latencyBad p lp then (s.refuseLatency p lp).enterQuarantine p 7
  else s.modPort p (fun x => { x with link := .align, qreason := 0, tideFrame := true })

/-- A port in scheduled service or ALIGN that the image or the record no longer lets have scheduled slots (R49, R262). -/
def checkLatency (s : State) (p : Nat) : State :=
  let x := s.port p
  if (x.link == .service || x.link == .align) && s.latencyBad p x.lp
      && (match x.qPending with | some q => decide (7 < q) | none => true) then
    (s.refuseLatency p x.lp).quarantine p 7
  else s

/-- A port in DISCOVER proceeds to ALIGN once its partner is accepted, DELAY is valid and the tide frame is valid; after a
drift abort only once it is recalibrated (R60, R251). -/
def tryAlign (s : State) (p : Nat) : State :=
  if (s.port p).link == .discover && (s.port p).nb.state == .accepted && s.delayForPartner p && s.time.frame
      && !(s.port p).driftBar then
    s.enterAlign p
  else s

/-- A port in DISCOVER whose partner is accepted and whose DELAY is not valid measures it (R58, R256). -/
def needDelay (s : State) (p : Nat) : State :=
  if ((s.port p).link == .discover || (s.port p).link == .quarantine) && (s.port p).nb.chip != noChip
      && !s.delayForPartner p && (s.port p).remeasure.isNone then
    s.modPort p (fun x => { x with remeasure := some { left := 64, samples := [] } })
  else s

/-! ### Measured delays (R58, R60) -/

/-- Seconds, nanoseconds of hall time. -/
def hallSec (s : State) : Nat := s.time.hall / (1000000000 * nsUnits)
def hallNs (s : State) : Nat := s.time.hall / nsUnits % 1000000000

/-- A port has been recalibrated: what a drift abort bars is allowed again (R60, R61). -/
def recalibrated (s : State) (p : Nat) : State :=
  let s := s.modPort p (fun x => { x with driftBar := false })
  if s.sourceOf p = .none then s else s.setTimePort p { s.timePort p with driftLost := false }

/-- The last of the 64 exchanges is made: DELAY is stored with what R58 names beside it. -/
def storeDelay (s : State) (p : Nat) : State :=
  match (s.port p).remeasure with
  | some r =>
    let s := s.modPort p (fun x => { x with remeasure := none, samples := [], residual := 0, drifted := false })
    let s := s.dropTokens (fun t => t.activity == 2 && t.resource == p)
    let d := (meanOf r.samples).toNat
    let n := (s.port p).nb
    let e := calEntry p
    let s := s.calWr (e + 0x10) (leBytes 4 (d % 2 ^ 32))
    let s := s.calWr (e + 0x18) (leBytes 2 (unsigned 16 (s.power.dieTemp.getD (p / 4) 0)) ++ leBytes 2 (s.port p).load)
    let s := s.calWr (e + 0x1C) (leBytes 4 (n.chip % 2 ^ 20 + n.port % 32 * 2 ^ 20) ++ leBytes 8 n.serial
      ++ leBytes 6 s.hallSec)
    let f := s.calFlags p
    let s := s.calWr (e + 0x30) (leBytes 1 (f + bnat (!bitAt f 2) * 4))
    ((s.recalibrated p).refreshPhi p).tryAlign p
  | none => s

/-- An exchange of a remeasurement, no automatic one, has given a delay; an abandoned one is not among the 64 (R256, R268). -/
def countExchange (s : State) (p : Nat) (d : Units) : State :=
  match (s.port p).remeasure with
  | some r =>
    let r := { r with left := r.left - 1, samples := r.samples ++ [d] }
    let s := s.modPort p (fun x => { x with remeasure := some r })
    if r.left = 0 then s.storeDelay p else s
  | none => s

/-- |ρ| exceeds a limit given in tenths of a nanosecond. -/
def driftOver (sum : Int) (n tenths : Nat) : Bool := decide (sum.natAbs * 10 > tenths * nsUnits * n)

/-- The calibration-drift event (R60, R388). -/
def driftEvent (s : State) (p : Nat) (rho : Int) (ended : Bool) : State :=
  s.raise { type := 0x0042, severity := if ended then 3 else 2, code := if ended then 0x0D else 0,
            subject := p + unsigned 32 rho * 2 ^ 32,
            arg := unsigned 16 (s.power.dieTemp.getD (p / 4) 0) + (s.port p).load % 1024 * 2 ^ 16 + bnat ended * 2 ^ 26,
            rings := s.ringsE }

/-- The abort limit of the drift residual is passed (R60). The groups on the port end their steps at once, in the tide of
detection (DESIGN CHOICE, log entry 139: R60 names no tide, and R157 and R263 speak of the boundary of the quarantine). -/
def driftEnd (s : State) (p : Nat) (rho : Int) : State :=
  let s := { s with time := { s.time with driftAbort := true } }
  let s := s.modPort p (fun x => { x with driftBar := true })
  let s := (s.bumpPort p .calDriftAbort 1).driftEvent p rho true
  let s := (s.abortGroups (s.groupsOnPort p) 0x0D).quarantine p 9
  if s.sourceOf p == .none then s
  else (s.setTimePort p { s.timePort p with driftLost := true }).loseTimePort p

/-- A new measured one-way delay of a port in service whose DELAY is valid: the residual and its limits (R60); under the
port's calibration token the event limit is not applied (R402). -/
def measured (s : State) (p : Nat) (d : Units) : State :=
  if (s.port p).link != .service || !s.delayValid p then s
  else
    let l := (s.port p).samples ++ [d]
    let l := l.drop (l.length - 64)
    let n := l.length
    let sum : Int := l.foldl (· + ·) 0 - ((n * s.delayOf p : Nat) : Int)
    let rho : Int := roundAwayDiv sum n
    let was := (s.port p).drifted
    let warn := driftOver sum n 8
    let s := s.modPort p (fun x => { x with samples := l, residual := rho, drifted := if s.calToken p then was else warn })
    let s := if warn && !was && !s.calToken p then
        let s := { s with time := { s.time with driftWarn := true } }
        (s.bumpPort p .calDrift 1).driftEvent p rho false
      else s
    if driftOver sum n 18 && !(s.port p).driftBar then s.driftEnd p rho else s

end State

end Sys2Proof.Machine
end

