-- ==== Sys2Proof/Machine/Tokens.lean ====
section
/-! DEFINITION. Resource tokens of maintenance (R349, R397 to R402): which activity takes which resources, requests,
grants, and the end of a token; hails, which hold the neighbour entry until they go (R259, R261). -/

namespace Sys2Proof.Machine

open Sys2Proof

/-- Resources that an activity takes on its port, bay or stack (R400). -/
def resources (activity n : Nat) : List Resource :=
  match activity with
  | 1 => [.ts n, .tan (5 * n / 3)]
  | 2 => [.ts n, .nb n]
  | 3 => [.prbs n]
  | 4 => [.stk n]
  | 5 => [.tan n]
  | 6 => [.nb n]
  | _ => []

/-- Kind of an activity's resource as MAINT_REQ names it: 0 port, 1 bay, 2 stack (R347). -/
def resourceKind (activity : Nat) : Nat := if activity = 4 then 2 else if activity = 5 then 1 else 0

namespace State

/-- The bay that holds the self-test turn (R390). -/
def turnBay (s : State) : Nat := s.eventTide % 40

/-! ### Hail (R259, R261) -/

/-- The hail of a port (R261). -/
def hailOf (s : State) (p : Nat) : Hail :=
  let x := s.port p
  { format := 1, role := s.role p, port := p,
    flags := bnat s.time.frame + bnat (x.link == .service) * 2 + bnat (x.link == .quarantine) * 4
      + bnat s.time.calValid * 8,
    chip := s.ident.hallChip, serial := BitVec.ofNat 64 s.ident.serial,
    version := BitVec.ofNat 32 Config.engineVersion, firmware := BitVec.ofNat 32 s.ident.firmware,
    imageHash := padTo 48 s.image.active.hash,
    mapHash := s.dumapHash,
    hailTide := if x.tideFrame then s.time.tide else x.localCount,
    seenChip := x.nb.seenChip, seenSerial := BitVec.ofNat 64 x.nb.seenSerial, seenPort := x.nb.seenPort }

/-- A hail falls due on a trained port. -/
def askHail (s : State) (p : Nat) : State :=
  if trained (s.port p).link then s.modPort p (fun x => { x with hailDue := true }) else s

/-- A hail falls due on every trained port. -/
def askHails (s : State) : State := (List.range 24).foldl askHail s

/-- The content of the port's hail has changed since the last one; HAIL_TIDE is no content (R259). -/
def hailChanged (s : State) (p : Nat) : Bool :=
  (s.port p).hailSent.map (fun h => { h with hailTide := 0 }) != some { s.hailOf p with hailTide := 0 }

/-- A hail is due by its schedule: in the tide frame at t mod 1,024 = 42 p, in the local frame every 1,024 frames (R259). -/
def hailTideDue (s : State) (p : Nat) : Bool :=
  if (s.port p).tideFrame then s.now % 1024 == 42 * p % 1024 else (s.port p).localCount % 1024 == 0

/-- A hail waits: one is due or the content has changed (R259). -/
def hailWaits (s : State) (p : Nat) : Bool := trained (s.port p).link && ((s.port p).hailDue || s.hailChanged p)

/-- A hail is to be sent: one waits, and no delay exchange holds the neighbour entry or has ended in this tide; no exchange
begins before it (R259, R268, R400, R401). -/
def hailGoes (s : State) (p : Nat) : Bool :=
  s.hailWaits p && (s.port p).delayReq.isNone && (s.port p).hailHold != some s.time.ticks

/-! ### Who holds what (R399 to R402) -/

/-- What holds resources now: a bank swap until its boundary's actions are done, the tokens but those of remeasurements,
which take theirs one exchange at a time, exchanges on their way or granted, hails that wait for their slot or whose tide has
come, and the slice of the tide (R259, R399, R400). -/
def holders (s : State) : List (Nat × Nat) :=
  let ports (f : Nat → Bool) (activity : Nat) : List (Nat × Nat) := ((List.range 24).filter f).map (fun p => (activity, p))
  (if s.maint.swapAt = some s.time.ticks ∧ s.time.boundaryOpen then [(7, 0)] else [])
    ++ (s.maint.tokens.filter (fun t => t.activity != 2)).map (fun (t : Token) => (t.activity, t.resource))
    ++ ports (fun p => (s.port p).delayReq.isSome || (s.port p).exch == 3) 2
    ++ ports (fun p => (s.hailWaits p || (trained (s.port p).link && s.hailTideDue p)) && (s.port p).delayReq.isNone) 6
    ++ (if s.maint.sliceAt = some s.time.ticks then [(5, s.turnBay)] else [])

/-- A holder shares a resource with a request; a bank swap takes every resource. -/
def shares (activity n : Nat) (h : Nat × Nat) : Bool :=
  h.1 == 7 || (resources h.1 h.2).any (resources activity n).contains

/-- A token is held as a boundary begins: a bank swap, which takes every resource, is deferred to a later boundary (R400,
R401). A hail that waits for its slot is decided after the swap, and goes with the new image's content (DESIGN CHOICE, log
entry 149). -/
def swapDeferred (s : State) : Bool := s.holders.any (fun h => h.1 != 7 && h.1 != 6)

/-- The first holder, but for the one given, that shares a resource with a request. -/
def conflictBut (s : State) (own : Nat × Nat) (activity n : Nat) : Option (Nat × Nat) :=
  s.holders.find? (fun h => h != own && shares activity n h)

/-- The first holder that shares a resource with a request. -/
def conflictOf (s : State) (activity n : Nat) : Option (Nat × Nat) := s.holders.find? (shares activity n)

/-- A token is taken. -/
def addToken (s : State) (activity n : Nat) (ofHall : Bool) : State :=
  let t : Token := { activity := activity, resource := n, granted := s.time.ticks, ofHall := ofHall }
  { s with maint := { s.maint with tokens := s.maint.tokens ++ [t] } }

/-- A remeasurement of DELAY begins: 64 exchanges, `under` the port's calibration token or not (R399, R402). -/
def beginRemeasure (s : State) (p : Nat) (under : Bool) : State :=
  s.modPort p (fun x => { x with measWaits := none, remeasure := some { left := 64, samples := [], under := under } })

/-- DELAY_MEAS: a remeasurement begins, or waits for the one in progress; its exchanges wait for the port's resources, one by
one, but for those that the calibration token of the port holds at the request (R399, R402). Under that token it goes before
one in progress that the token holds up, which begins again after it (DESIGN CHOICE, log entry 119). -/
def askRemeasure (s : State) (p : Nat) : State :=
  match (s.port p).remeasure with
  | some m =>
    if s.calToken p && !m.under then (s.beginRemeasure p true).modPort p (fun x => { x with measWaits := some false })
    else s.modPort p (fun x => { x with measWaits := some (s.calToken p) })
  | none => s.beginRemeasure p (s.calToken p)

/-- A PRBS check takes the port's token, or waits for it (R398, R401). -/
def takePrbsToken (s : State) (p : Nat) : State :=
  if s.holders.contains (3, p) then s.modPort p (fun x => { x with prbsWaits := false })
  else if (s.conflictOf 3 p).isSome then s.modPort p (fun x => { x with prbsWaits := true })
  else (s.addToken 3 p false).modPort p (fun x => { x with prbsWaits := false })

/-- PORT_CTRL.PRBS: the check takes the port's token, which ends when the bit is cleared (R398, R400). -/
def setPrbs (s : State) (p : Nat) (on : Bool) : State :=
  let s := if on then s.takePrbsToken p
    else (s.dropTokens (fun t => t.activity == 3 && t.resource == p)).modPort p (fun x => { x with prbsWaits := false })
  s.modPort p (fun x => { x with prbs := on })

/-! ### What patrol finds (R395, R396) -/

/-- A unit lies in a region of the active image (R23, R276). -/
def inRegion (s : State) (u : Nat) : Bool :=
  let a := 256 * u
  [s.im.res0, s.im.res1, s.im.retain, s.im.spill].any (fun r => decide (r.1 * mib ≤ a ∧ a < (r.1 + r.2) * mib))

/-- Patrol finds a unit uncorrectable. -/
def scrubBad (s : State) (u : Nat) : State :=
  if s.inRegion u then (s.markBad [u]).stackUE u 0
  else
    ({ s with badUnits := s.badUnits.filter (· != u), stack := s.stack.filter (fun c => decide (c.1 / 256 ≠ u)) } : State).bump
      .stackUe

/-- The end of a tide: what patrol and a requested sweep found has its outcome, but for units that scheduled work has
written in the tide (R396). -/
def scrubOutcome (s : State) : State :=
  let m := s.maint
  let fixed := m.fixed.countP (fun u => !m.wrote.contains u)
  let s : State := { s with maint := { m with found := [], fixed := [], wrote := [] } }
  let s := if fixed = 0 then s else s.bumpBy .stackCe fixed
  (m.found.filter (fun u => !m.wrote.contains u)).foldl scrubBad s

/-! ### The hall controller's request -/

/-- What an activity does once granted; a sweep begins with the next reads of the stacks. -/
def startActivity (s : State) (activity n : Nat) : State :=
  if activity = 2 then s.beginRemeasure n false
  else if activity = 3 then s.modPort n (fun x => { x with prbs := true, prbsWaits := false })
  else if activity = 4 then { s with maint := { s.maint with
    sweep := some (n, if s.maint.lastScrub = some s.time.ticks then s.time.ticks + 1 else s.time.ticks) } }
  else s

/-- What defers a request: a holder, or for a remeasurement the one in progress on the port (R401; the latter a DESIGN CHOICE,
log entry 119). -/
def deferral (s : State) (activity n : Nat) : Option (Nat × Nat) :=
  match s.conflictOf activity n with
  | some h => some h
  | none => if activity = 2 ∧ (s.port n).remeasure.isSome then some (2, n) else none

/-- The request is judged: GRANTED, or DEFERRED with the holder named (R401). -/
def requestHall (s : State) (activity n : Nat) : State :=
  match s.deferral activity n with
  | some h =>
    { s with maint := { s.maint with status := 2, conflict := h.1, conflictRes := h.2 + resourceKind h.1 * 2 ^ 10,
                                     asked := some (activity, n) } }
  | none =>
    let s := { s with maint := { s.maint with status := 1, conflict := 0, conflictRes := 0, asked := none } }
    (s.addToken activity n true).startActivity activity n

/-- What stops when a token ends before its activity does. -/
def stopActivity (s : State) (t : Token) : State :=
  if t.activity = 2 then s.modPort t.resource (fun x => { x with remeasure := none })
  else if t.activity = 3 then s.modPort t.resource (fun x => { x with prbs := false, prbsWaits := false })
  else if t.activity = 4 then { s with maint := { s.maint with sweep := none } }
  else s

/-- Tokens end with their activities. -/
def endTokens (s : State) (p : Token → Bool) : State :=
  ((s.maint.tokens.filter p).foldl stopActivity s).dropTokens p

/-- RELEASE: the token held is returned, or the request that waits is withdrawn. -/
def releaseHall (s : State) : State :=
  let s := s.endTokens (fun t => t.ofHall)
  { s with maint := { s.maint with status := 0, conflict := 0, conflictRes := 0, asked := none } }

/-- A write of MAINT_REQ (R347, R402). -/
def maintRequest (s : State) (v : Nat) : State :=
  let activity := field v 0 4
  let n := field v 4 10
  let fits := (decide (1 ≤ activity ∧ activity ≤ 3) && field v 14 2 == 0 && decide (n < 24))
    || (activity == 4 && field v 14 2 == 2 && decide (n < 4))
  if bitAt v 31 then s.releaseHall
  else if s.maint.status ≠ 0 ∨ !fits then s
  else s.requestHall activity n

/-- The automatic exchange of a port at a boundary: due in every tide t of a port in SERVICE with t mod 1,024 = 42 p mod
1,024; deferred while its resources are held, and granted in the first tide after (R399, R401). -/
def turnExchange (s : State) (p : Nat) : State :=
  let x := s.port p
  let due := decide (s.now % 1024 = 42 * p % 1024)
  let e := if x.link != .service then 0
    else if !due && x.exch == 0 then 0
    else if (s.conflictBut (if x.exch = 3 ∧ x.delayReq.isNone then (2, p) else (0, 0)) 2 p).isSome then 2
    else if due then 1
    else 3
  if e = x.exch then s else s.modPort p (fun x => { x with exch := e })

/-- The self-test slice of the tide is granted to the standby cove of the bay that holds the turn, or its turn passes (R18,
R390, R401). A bay that the start-up bay test alone retired, with none of its coves retired, keeps its standby, its turns and
its handovers (DESIGN CHOICE, log entry 137: the spec does not say). -/
def grantSlice (s : State) : State :=
  let b := s.turnBay
  if s.maint.rotateTide && s.img.isSome && !(s.bay b).absent && !(s.bay b).passed && (s.conflictOf 5 b).isNone then
    { s with maint := { s.maint with sliceAt := some s.time.ticks } }
  else s

/-- At a boundary the requests of the tide are decided in the order of R401: after a bank swap and hails the slice, the
exchanges, and what waits for the hall controller. -/
def grantWaiting (s : State) : State :=
  let s := s.grantSlice
  let s := (List.range 24).foldl (fun s p =>
    match (s.port p).measWaits with
    | some under => if (s.port p).remeasure.isNone then s.beginRemeasure p under else s
    | none => s) s
  let s := (List.range 24).foldl turnExchange s
  let s := (List.range 24).foldl (fun s p => if (s.port p).prbsWaits then s.takePrbsToken p else s) s
  match s.maint.asked with
  | some a => if s.maint.status = 2 then s.requestHall a.1 a.2 else s
  | none => s

end State

end Sys2Proof.Machine
end

