-- ==== Sys2Proof/Machine/Frames.lean ====
section
/-! DEFINITION. The frames a port sends (R44 to R47, R171, R175, R243 to R248, R253, R254, R259, R263): its hail, the VC3
queue, the VC2 flows by weighted round robin, the VC1 cells that wait, and the cells of the tide frame and of the local
frame. A frame goes out as a whole when it ends (log entry 90). -/

namespace Sys2Proof.Machine

open Sys2Proof

/-- Most unacknowledged FLOW cells (R326). -/
def flowWindow : Nat := 1024

/-- Cells of a flow enter the window while it has room (R326). -/
def fillWindow (w : Flow) : Flow :=
  let n := flowWindow - w.unacked.length
  let u := w.unacked ++ w.waiting.take n
  { w with unacked := u, waiting := w.waiting.drop n }

/-- The first cell of a flow that has never gone out begins a block: the one before it ends one. -/
def flowStarts (w : Flow) : Bool := if w.begun = 0 then !w.inBlock else ((w.unacked[w.begun - 1]?).map (·.2)).getD true

/-- The key of a flow on a port. -/
def flowKey (port flow : Nat) : Nat := 4096 * port + flow

/-- Rank of a hail in the VC3 queue (R45). -/
def rankHail : Nat := 1

namespace State

/-! ### VC3 (R45, R253) -/

/-- The VC3 cells that wait on a port in the order they are sent: time, hail, RECOVERY, DELAY; RECOVERY goes only to partners
in SERVICE (R258). -/
def vc3Items (s : State) (p : Nat) : List Vc3Item :=
  let x := s.port p
  let hail : List Vc3Item :=
    if s.hailGoes p then [{ rank := rankHail, type := tHail, group := 0, payload := hailPayload (s.hailOf p) }] else []
  sortBy (fun a b => decide (a.rank ≤ b.rank))
    (x.vc3.filter (fun i => i.rank != rankRecovery || x.link == .service) ++ hail)

/-- Take the cells of `n` VC3 slots from the queue, PRBS cells in those it leaves free while the check runs (R253, R257,
R398). -/
def takeVc3 (s : State) (p n : Nat) : State × List Bytes :=
  let items := s.vc3Items p
  let sent := items.take n
  let hailed := sent.any (fun i => i.rank == rankHail)
  let h := s.hailOf p
  let x := s.port p
  let extra := if x.prbs && !x.prbsWaits then prbsCells (n - sent.length) x.prbsTx x.prbsTxSeq else (x.prbsTx, x.prbsTxSeq, [])
  (s.modPort p (fun y =>
    { y with vc3 := (items.drop n).filter (fun i => i.rank != rankHail), hailDue := y.hailDue && !hailed,
             hailSent := if hailed then some h else y.hailSent, prbsTx := extra.1, prbsTxSeq := extra.2.1 }),
   sent.map (fun i => plainCell i.type 3 i.group i.payload) ++ extra.2.2)

/-! ### VC2 (R45, R326) -/

/-- The image's flows with their weights, ascending (R287). -/
def imageFlows (s : State) : List (Nat × Nat) :=
  sortBy (fun a b => decide (a.1 ≤ b.1)) ((s.im.parts.flatMap (·.flows)).eraseDups)

/-- A flow has a cell to send on a port. -/
def flowReady (s : State) (p f : Nat) : Bool :=
  let w := s.flow (flowKey p f)
  decide (w.sent < w.unacked.length) || w.ackDue

/-- The flow that the next VC2 slot serves, with the cells it may send after this one: the last one while its weight lasts,
then the next in ascending order that has a cell (R45; DESIGN CHOICE, log entry 91). -/
def pickFlow (s : State) (p : Nat) : Option (Nat × Nat) :=
  let w := (s.port p).wrr
  if 0 < w.2 && s.flowReady p w.1 then some (w.1, w.2 - 1)
  else
    let fs := s.imageFlows
    ((fs.filter (fun f => decide (w.1 < f.1)) ++ fs.filter (fun f => decide (f.1 ≤ w.1))).find?
      (fun f => s.flowReady p f.1)).map (fun f => (f.1, f.2 - 1))

/-- SEQ of a FLOW cell without data: half the range away from the window, so that no receiver takes it for data (DESIGN
CHOICE, log entry 92). -/
def ackSeq (acked : Word32) : Word32 := acked + 0x80000000

/-- The next cell of a flow: data from the window, or an acknowledgement alone. -/
def flowCell (s : State) (p f : Nat) : Bytes :=
  let w := s.flow (flowKey p f)
  let cell (seq : Word32) (data : Bytes) (last : Bool) : Bytes :=
    mkCell { type := tFlow, vc := 2, cls := 0, group := f, ref := 0, seq := 0, payload := flowPayload f seq w.expect data,
             last := last }
  match w.unacked[w.sent]? with
  | some b => cell (w.acked + BitVec.ofNat 32 w.sent) b.1 b.2
  | none => cell (ackSeq w.acked) [] false

/-- Take the cells of `n` VC2 slots. -/
def takeVc2 : Nat → State → Nat → State × List Bytes
  | 0, s, _ => (s, [])
  | n + 1, s, p =>
    match s.pickFlow p with
    | none => (s, [])
    | some (f, left) =>
      let cell := s.flowCell p f
      let w := s.flow (flowKey p f)
      let s := s.setFlow (flowKey p f)
        { w with sent := min (w.sent + 1) w.unacked.length, begun := max w.begun (min (w.sent + 1) w.unacked.length),
                 ackDue := false,
                 since := if w.sent = 0 ∧ w.resends = 0 then s.now else w.since }
      let r := takeVc2 n (s.modPort p (fun x => { x with wrr := (f, left) })) p
      (r.1, cell :: r.2)

/-! ### VC1 (R323, R325) -/

/-- The port of a transfer: the rail's transmit port toward the successor, its receive port toward the predecessor
(R323). -/
def transferPort (s : State) (g rail : Nat) (successor : Bool) : Option Nat :=
  (s.ringOf g).bind (fun r => if successor then s.txPort r rail else s.rxPort r rail)

/-- A block of group `g` whose first cell has gone out still has cells in the queue; `seen` are the rails met before. -/
def blockOpen (g : Nat) : List Nat → List (Nat × CellFields) → Bool
  | _, [] => false
  | seen, c :: q =>
    if c.2.group != g || seen.contains c.1 then blockOpen g seen q
    else c.2.seq != 0 || blockOpen g (c.1 :: seen) q

/-- The waiting cell that a slot of a group and rail carries: the rail's next, which begins a block only where none of the
group is in progress, for all rails of the group count their blocks together (R323, R325). -/
def nextVc1 (g rail : Nat) (q : List (Nat × CellFields)) : Option (Nat × CellFields) :=
  (q.find? (fun c => c.2.group == g && c.1 == rail)).filter (fun c => c.2.seq != 0 || !blockOpen g [] q)

/-- Deal waiting TRANSFER cells to the first-send slots of their groups and rails, in order, each with the number of its
block; `n` are the block counts (R323, R325). -/
def dealVc1 (tide p : Nat) : List (Nat × Nat × Nat) → List (Nat × CellFields) → Tbl Nat →
    List (Nat × Bytes) × List (Nat × CellFields) × Tbl Nat
  | [], q, n => ([], q, n)
  | (k, g, rail) :: slots, q, n =>
    match nextVc1 g rail q with
    | some (_, c) =>
      let key := 64 * g + p
      let ref := n.get 0 key
      let r := dealVc1 tide p slots (q.eraseP (fun c => c.2.group == g && c.1 == rail))
        (if c.last then n.set key ((ref + 1) % 2 ^ 18) else n)
      ((k, mkCell { c with ref := ref, seq := c.seq % 256 + tide % 64 * 256 }) :: r.1, r.2)
    | none => dealVc1 tide p slots q n

/-- The waiting TRANSFER cells of a port take their slots in the frame in progress, as far as their rails may carry scheduled
cells; copies are kept for repeat (R133, R176). -/
def placeVc1 (s : State) (p : Nat) : State :=
  let mine := (s.useSlots p 0 1 0 (fun r => s.railServes r.group r.rail))
  let slots := mine.filterMap (fun k => (s.runAt p 0 k).map (fun r => (k, r.group, r.rail)))
  let r := dealVc1 s.now p slots (s.port p).vc1 s.blockCount
  (({ s with blockCount := r.2.2 } : State).modPort p (fun x => { x with vc1 := r.2.1 })).placeCells p 1 r.1

/-! ### A frame (R44, R47, R243, R253) -/

/-- The VC of slots 8 to 1,023 of the tide frame by the tables in force; 4 where no run covers a slot. -/
def slotVcs (s : State) (p : Nat) : List (Nat × Nat) :=
  (rangeFrom 8 1016).map (fun k => (k, ((s.runAt p 0 k).map (·.vc)).getD 4))

/-- Fill slots: VC0 and VC1 from the frame's cells, VC2 and VC3 from what they take; an unused slot sends an IDLE cell of its
VC, a slot that no run covers one of VC 3 (R47; the latter a DESIGN CHOICE, log entry 93). -/
def pour (tx : Tbl Bytes) : List (Nat × Nat) → List Bytes → List Bytes → List Bytes
  | [], _, _ => []
  | (k, vc) :: slots, c2, c3 =>
    if vc = 2 then c2.headD (idleCell 2) :: pour tx slots c2.tail c3
    else if vc = 3 then c3.headD (idleCell 3) :: pour tx slots c2 c3.tail
    else if vc = 4 then idleCell 3 :: pour tx slots c2 c3
    else tx.get (idleCell vc) k :: pour tx slots c2 c3

/-- The contents of slots 8 to 1,023 of a frame. In the tide frame, VC0 to VC2 cells go only in scheduled service. -/
def frameSlotsOf (s : State) (p : Nat) (tide : Bool) : State × List Bytes :=
  let vcs := if tide then s.slotVcs p else (rangeFrom 8 1016).map (fun k => (k, 3))
  let s := if tide && s.inService p then s.placeVc1 p else s
  let tx := (s.port p).tx
  let two := if tide && s.inService p then takeVc2 (vcs.countP (fun x => x.2 == 2)) s p else (s, [])
  let three := two.1.takeVc3 p (vcs.countP (fun x => x.2 == 3))
  (three.1, pour tx vcs two.2 three.2)

/-- FLAGS of a tide mark (R254). -/
def markFlags (s : State) (tide : Bool) : Nat :=
  bnat tide + bnat (s.time.loop == .locked) * 2 + bnat (s.time.loop == .holdover) * 4

/-- The table that a port's tide mark names: that of the groups whose ring uses the port, or the primary; where they run under
different tables the highest index (DESIGN CHOICE, log entry 107: R254 speaks of one table in force). -/
def markTable (s : State) (p : Nat) : Nat := (((s.groupsOnPort p).map (fun g => (s.group g).table)).foldl max 0)

/-- The payload of slot 0 (R254). -/
def markOf (s : State) (p : Nat) (tide : Bool) : Bytes :=
  markPayload ((if tide then s.time.tide else (s.port p).localCount) % 2 ^ 32) (s.markFlags tide) (s.markTable p)

/-- A port sends its frame; messages that wait on one outside scheduled service are dropped with it (DESIGN CHOICE, log
entry 108: R171 does not say whether they are kept). The frame: mark, seven idle cells, the slots, with the express
messages, repeat requests and CRC that each cell takes as it goes out (R46, R171, R173, R175, R242). -/
def sendFrame (s : State) (p : Nat) (tide : Bool) : State :=
  let mark := ((s.port p).mark).getD (s.markOf p tide)
  let r := s.frameSlotsOf p tide
  let s := r.1
  let x := s.port p
  let contents := plainCell tMark 3 0 mark :: (List.replicate 7 (idleCell 3) ++ r.2)
  let express := if s.inService p then expressOrder x.exprQueue else []
  let again := if s.inService p then
      placeRequests s.now x.lp 0 (sortBy (fun a b => decide (a.2 < b.2 ∨ (a.2 = b.2 ∧ a.1 ≤ b.1))) x.repeatOut)
    else ([], [])
  let cells := fillFrame contents (swashFields (express.take swashPairs)) again.1
  let line := lineFrame x.scr cells
  (s.modPort p (fun y =>
    { y with tx := [], mark := none, exprQueue := express.drop swashPairs, repeatOut := again.2, scr := line.1,
             load := loadOf contents })).emit
    (.frame p tide ((if tide then s.time.tide else x.localCount) % 2 ^ 32) cells line.2)

/-- Every port in the tide frame sends the frame of the tide that ends (R243). -/
def sendFrames (s : State) : State :=
  (List.range 24).foldl (fun s p => if (s.port p).tideFrame then s.sendFrame p true else s) s

/-- Slot 0 of the tide that begins holds the mark as the boundary's actions leave it (R46, R254). -/
def captureMarks (s : State) : State :=
  (List.range 24).foldl (fun s p =>
    if (s.port p).tideFrame then s.modPort p (fun x => { x with mark := some (s.markOf p true) }) else s) s

end State

end Sys2Proof.Machine
end

