-- ==== Sys2Proof/Machine/SpillQueue.lean ====
section
/-! DEFINITION. When transfers and spill operations become ready and start (R225, R232, R234, R235, R239, R323). -/

namespace Sys2Proof.Machine

open Sys2Proof

namespace State

/-- An operation of a queue waits, unheld by a FENCE and ready, with a given opcode. -/
def readyOp (s : State) (g index opcode : Nat) : Option QueueOp :=
  (s.queue g).ops.find? (fun o => o.index == index && Desc.opcode o.raw == opcode && o.phase == .waiting && s.opReady g o)

/-- The end of a tide: each transfer and spill operation that is ready has become so in it, or before. -/
def markReady (s : State) : State :=
  let mark (g : Nat) (o : QueueOp) : QueueOp :=
    if wakes o.raw && o.phase == .waiting && o.readyAt.isNone && s.opReady g o then { o with readyAt := some s.now } else o
  { s with queues := s.queues.map (fun (x : Nat × Queue) => (x.1, { x.2 with ops := x.2.ops.map (mark x.1) })) }

/-- An operation that waits has not completed. -/
def waitsStill (s : State) (o : SpillOp) : Option QueueOp :=
  (s.queue o.group).ops.find? (fun x => x.index == o.index && x.phase == .waiting)

/-- A new pass of an area begins (R232). -/
def newPass (s : State) (a : Nat) (o : SpillOp) : State :=
  if o.newPass && o.isStore then
    s.setArea a { s.area a with cursor := 0, pass := ((s.area a).pass + 1) % 2 ^ 16 } else s

/-- Why an operation does not start: the area is another partition's, or its tiles pass TILES (R225). -/
def spillRefusal (s : State) (a : Nat) (o : SpillOp) (op : QueueOp) : Option Nat :=
  if s.areaForeign o.group op.raw then some 0x08
  else if ((s.im.areaDesc a).map (·.tiles)).getD 0 < o.first + o.count then some 0x06
  else none

/-- An operation that is refused completes with the code. -/
def refuseSpill (s : State) (o : SpillOp) (op : QueueOp) (code : Nat) : State :=
  (s.noteRefusal o.group o.index code op.raw).completeAlone o.group op code 0

/-- Launch an operation in a free area, unless it is refused; a new pass begins (R225, R232). A partition that quiesces starts
none (R309). -/
def launchSpill (s : State) (a : Nat) (o : SpillOp) : State :=
  match s.waitsStill o with
  | some op =>
    if s.quiescing o.group then s
    else match s.spillRefusal a o op with
    | some code => s.refuseSpill o op code
    | none =>
      let s := s.newPass a o
      (s.setArea a { s.area a with running := some o }).modOp o.group o.index (fun x => { x with phase := .running })
  | none => s

/-- An operation with no tile completes in the tide after its readiness, whatever its area does; a refused one leaves the
area's queue (R239). -/
def completeEmpty (s : State) (a : Nat) (o : SpillOp) : State :=
  if o.count ≠ 0 ∨ s.now ≤ o.readyAt ∨ s.quiescing o.group then s
  else match s.waitsStill o with
  | some op =>
    match s.spillRefusal a o op with
    | some code =>
      (s.setArea a { s.area a with waiting := (s.area a).waiting.filter (· != o) }).refuseSpill o op code
    | none => s.completeAlone o.group op 0 0
  | none => s

/-- In a free area the operations at the head that had no tile and have completed go, each with the new pass it begins: that
keeps its place in the order of the area's operations (R235; DESIGN CHOICE, log entry 116). -/
def passEmpty (a : Nat) : List SpillOp → State → State
  | [], s => s
  | o :: rest, s =>
    if o.count = 0 ∧ (s.waitsStill o).isNone then
      passEmpty a rest ((s.setArea a { s.area a with waiting := rest }).newPass a o)
    else s

/-- In a free area the first operation that became ready in an earlier tide starts (R234, R235). -/
def nextSpill (s : State) (a : Nat) : State :=
  let s := (s.area a).waiting.foldl (fun s o => s.completeEmpty a o) s
  let s := if (s.area a).running.isNone then passEmpty a (s.area a).waiting s else s
  let ar := s.area a
  match ar.running, ar.waiting with
  | none, o :: rest => if o.readyAt < s.now then (s.setArea a { ar with waiting := rest }).launchSpill a o else s
  | _, _ => s

/-- The beginning of a tide: spill operations start. -/
def startSpills (s : State) : State := (s.areas.map (fun (x : Nat × Area) => x.1)).foldl nextSpill s

end State

end Sys2Proof.Machine
end

