-- ==== Sys2Proof/Machine/Registers.lean ====
section
/-! DEFINITION. What the host access port reads: every register of the privileged window and of a partition window
(R206, R305, R311 to R314, R321, R329, R332 to R363). -/

namespace Sys2Proof.Machine

open Sys2Proof

/-- The 32-bit word at an offset of a register, or of bytes in ascending order, that begins at another. -/
def part (v off base : Nat) : Nat := v / 2 ^ (8 * (off - base)) % 2 ^ 32

/-- Bytes as one number, the first least significant. -/
def byteReg (l : List Nat) (w : Nat) : Nat := (l.zipIdx.map (fun x => x.1 % 2 ^ w * 2 ^ (w * x.2))).foldl (· + ·) 0

/-- COUNT and OVF of a counter (R357). -/
def counterReg (c : Counter) : Nat := c.count + bnat c.ovf * 2 ^ 63

/-- Codes of states (R251, R264, R308, R314, R341). -/
def Link.code : Link → Nat
  | .off => 0
  | .signal => 1
  | .frame => 2
  | .discover => 3
  | .align => 4
  | .service => 5
  | .quarantine => 6

def NbState.code : NbState → Nat
  | .none => 0
  | .accepted => 1
  | .quarantined => 2
  | .lost => 3

def PState.code : PState → Nat
  | .detached => 0
  | .attached => 1
  | .quiescing => 2
  | .quiesced => 3

def QState.code : QState → Nat
  | .stopped => 0
  | .running => 1
  | .stopping => 2
  | .error => 3

def ShadowState.code : ShadowState → Nat
  | .empty => 0
  | .written => 1
  | .verified => 2
  | .refused => 3

def PowerMode.code : PowerMode → Nat
  | .full => 0
  | .idle => 1
  | _ => 2

def CtxPhase.code : CtxPhase → Nat
  | .free => 0
  | .launched => 1
  | .ebbWait => 2
  | .ebbSent => 3
  | .ownerDone => 4
  | .floodWait => 5
  | .delivered => 6
  | .replay => 7

/-! ### Bytes of records (R150, R206, R356) -/

/-- The 64 bytes of a chunk context (R150). PARTITION of a group that the hall controller owns, OWNER 8, is a free value (log
entry 133: R150 gives the field 3 bits and no value for it). -/
def ctxBytes (x : Ctx) : Bytes :=
  leBytes 1 x.phase.code ++ leBytes 1 x.group
    ++ leBytes 2 (x.bucket % 2 ^ 12 + bnat x.fb * 2 ^ 12 + x.gen % 4 * 2 ^ 13 + bnat x.sparse * 2 ^ 15)
    ++ leBytes 4 x.chunk ++ leBytes 6 x.step
    ++ leBytes 2 (x.cells % 2 ^ 9 + x.rail % 4 * 2 ^ 9 + x.role % 16 * 2 ^ 11 + bnat x.deferred * 2 ^ 15)
    ++ leBytes 2 (x.owner % 2 ^ 14) ++ leBytes 2 (x.tally % 2 ^ 15)
    ++ leBytes 4 (x.opIndex % 1024 + (if x.part < 8 then x.part else Config.hallPart x.group % 8) * 2 ^ 10 + bnat x.mayVary * 2 ^ 13)
    ++ leBytes 8 (x.ledger % 2 ^ 61) ++ leBytes 8 x.outAddr ++ leBytes 8 x.inAddr ++ leBytes 4 x.retainAt
    ++ leBytes 4 (x.start % 2 ^ 32) ++ leBytes 4 (x.bay % 2 ^ 6 + x.firstCell % 2 ^ 16 * 2 ^ 6)
    ++ leBytes 2 (bnat x.ownPass + bnat x.vTaken * 2 + bnat x.vPass * 4 + x.replays % 32 * 8 + x.errCode % 256 * 256)
    ++ leBytes 2 0

/-- The 32 bytes of a chunk entry of a step record (R206). -/
def entryBytes (e : RecEntry) : Bytes :=
  leBytes 4 e.chunk
    ++ leBytes 2 (e.bucket % 2 ^ 12 + bnat e.released * 2 ^ 12 + bnat e.deferred * 2 ^ 13 + bnat e.owner * 2 ^ 14
        + bnat e.delivered * 2 ^ 15)
    ++ leBytes 1 (e.verdict % 8 + e.replays % 32 * 8) ++ leBytes 1 (bnat e.ownPass + bnat e.vTaken * 2)
    ++ leBytes 8 (e.ebbIn % 2 ^ 61) ++ leBytes 8 (e.ebbOut % 2 ^ 61) ++ leBytes 8 (e.flood % 2 ^ 61)

/-- The 64 bytes of a step record's header (R206). -/
def headerRec (r : StepRecord) : Bytes :=
  leBytes 6 r.step ++ leBytes 1 r.state.code ++ leBytes 1 r.table ++ leBytes 2 (r.n % 2 ^ 15)
    ++ leBytes 2 (r.position % 2 ^ 14) ++ leBytes 1 r.abortCode ++ leBytes 3 (r.abortChunk % 2 ^ 20)
    ++ leBytes 2 (r.abortBucket % 2 ^ 12) ++ leBytes 2 (Nat.min r.attempt 0xFFFF) ++ leBytes 4 r.entries.length ++ leBytes 8 r.base
    ++ leBytes 8 r.done ++ leBytes 8 r.firmware ++ leBytes 16 r.mapHash

/-- A step record; entries that an error lost are open. -/
def recordBytes (g : Nat) (r : StepRecord) : Bytes :=
  headerRec r ++ r.entries.zipIdx.flatMap (fun x =>
    if x.1.lost then padTo 32 (Config.lostEntry g r.step r.attempt x.2) else entryBytes x.1)

/-- A diagnosis report (R356). -/
def diagBytes (d : DiagReport) : Bytes :=
  leBytes 6 d.step ++ leBytes 1 (if d.incomplete then 2 else 1) ++ leBytes 1 0 ++ leBytes 4 d.entries.length ++ leBytes 4 0
    ++ d.entries.flatMap (fun e => leBytes 4 e.chunk ++ leBytes 2 (e.bucket % 2 ^ 12) ++ leBytes 1 e.result ++ leBytes 1 0
        ++ leBytes 4 e.firstPos ++ leBytes 4 0)

namespace State

/-! ### Blocks of the privileged window -/

/-- Identity (R335). START_STATE shows the first step that is not complete (R416). -/
def identWord (s : State) (o : Nat) : Nat :=
  let i := s.ident
  if o = 0x00 then Config.engineVersion
  else if o = 0x04 then i.firmware
  else if o < 0x10 then part i.serial o 0x08
  else if o = 0x10 then i.hallChip + bnat i.fromImage * 2 ^ 31
  else if o = 0x14 then (if s.power.timeOwed then 4 else s.power.startStep) + bnat s.power.ready * 2 ^ 4
  else if o = 0x18 ∨ o = 0x1C then part i.scratch.toNat o 0x18
  else 0

/-- TIME_STATUS (R40). -/
def timeStatus (s : State) : Nat :=
  let t := s.time
  loopCode t.loop + bnat t.frame * 2 ^ 3 + bnat (s.img.isSome && s.beforeEpoch) * 2 ^ 4 + refCode t.refSource * 2 ^ 5
    + t.refPort * 2 ^ 7 + bnat t.calValid * 2 ^ 12 + bnat t.driftWarn * 2 ^ 13 + bnat t.driftAbort * 2 ^ 14
    + bnat t.holdoverSeen * 2 ^ 15 + bnat t.alignFault * 2 ^ 16

/-- Time and tide (R336, R337). -/
def timeWord (s : State) (o : Nat) : Nat :=
  let t := s.time
  if o = 0x00 then s.timeStatus
  else if o = 0x04 then t.ppsWidth + bnat t.ppsOutEnable * 2 ^ 20 + bnat t.ppsInEnable * 2 ^ 21
  else if o < 0x10 then part (if t.loop == .holdover then t.bound else 0) o 0x08
  else if o < 0x18 then part (unsigned 48 t.ppsInOffset + bnat t.ppsInValid * 2 ^ 63) o 0x10
  else if o < 0x20 then part (t.ppsTod + bnat t.ppsArmed * 2 ^ 63) o 0x18
  else if o < 0x28 then part (if s.beforeEpoch then 0 else t.tide) o 0x20
  else if o = 0x28 then unsigned 32 t.loopOffset
  else if o = 0x2C then unsigned 32 t.loopFreq
  else 0

/-- Calibration access (R338). -/
def calBlock (s : State) (o : Nat) : Nat :=
  let c := s.cal
  if o = 0x00 then c.offset + bnat c.autoInc * 2 ^ 16
  else if o = 0x04 then s.calWord
  else if o = 0x0C then bnat c.busy + c.result % 4 * 2 + bnat s.calDirty * 8 + bnat c.writeBlocked * 16
  else 0

/-- IMAGE_STATUS (R341). -/
def imageStatus (s : State) : Nat :=
  let i := s.image
  i.shadowState.code + bnat s.imageBusy * 2 ^ 2 + i.reason % 16 * 2 ^ 3 + bnat i.pending.isSome * 2 ^ 7
    + i.actRefusal % 8 * 2 ^ 8 + bnat i.shadowInUse * 2 ^ 11 + bnat i.storeRefused * 2 ^ 12 + bnat i.rollbackIgnored * 2 ^ 13
    + bnat i.mapMismatch * 2 ^ 14 + bnat i.absent * 2 ^ 15 + bnat i.cmdIgnored * 2 ^ 16 + i.lastStore % 4 * 2 ^ 17

/-- KEY_FUSE_STATUS (R342). -/
def fuseStatus (s : State) : Nat :=
  byteReg (s.nv.keys.map (fun (k : KeySlot) => bnat k.programmed)) 1
    + byteReg (s.nv.keys.map (fun (k : KeySlot) => bnat k.revoked)) 1 * 2 ^ 4
    + bnat (s.nv.job != .none) * 2 ^ 8 + bnat s.nv.failed * 2 ^ 9

/-- CODEBOOK_STATUS (R343). -/
def bookStatus (s : State) : Nat :=
  let b := s.book s.bookRegs.sel
  b.outcome % 8 + bnat b.pending.isSome * 2 ^ 3 + (slotOf b b.cur).gen % 2 ^ 16 * 2 ^ 16

/-- The image block (R339). -/
def imageBlock (s : State) (o : Nat) : Nat :=
  if o = 0x04 then s.imageStatus
  else if o = 0x08 ∨ o = 0x0C then part s.image.actStep o 0x08
  else if o = 0x14 then s.fuseStatus
  else if o = 0x1C then s.nv.floor
  else if o < 0x40 then 0
  else if o < 0x70 then part (leNat s.nv.keyHash) o 0x40
  else if o < 0x80 then 0
  else if o < 0xB0 then part (leNat s.image.active.hash) o 0x80
  else if o < 0xC0 then 0
  else if o < 0xF0 then part (leNat s.image.shadow.hash) o 0xC0
  else if o = 0x100 then s.bookRegs.sel
  else if o = 0x108 ∨ o = 0x10C then part s.bookRegs.step o 0x108
  else if 0x110 ≤ o ∧ o < 0x120 then part (leNat s.bookRegs.levels) o 0x110
  else if o = 0x120 then s.bookStatus
  else 0

/-- Partitions (R345). -/
def partBlock (s : State) (o : Nat) : Nat :=
  if o = 0x00 then s.parts.privGrant.toNat
  else if o = 0x08 then byteReg (s.parts.state.map PState.code) 2 + bnat s.parts.cmdIgnored * 2 ^ 16
  else 0

/-- FAULT_STATUS (R346). -/
def faultReg (f : FaultStatus) : Nat :=
  bnat f.sramUE + bnat f.stackUE * 2 + bnat f.coveRetired * 4 + bnat f.bayRetired * 8 + bnat f.coverageLost * 16
    + bnat f.calInvalid * 32 + bnat f.timeLost * 64

/-- Power, reset and faults (R346). DUMAP_HASH reads 0, its reset value, until the start-up self-test has built the map
(R20). -/
def powerBlock (s : State) (o : Nat) : Nat :=
  let p := s.power
  if o = 0x00 then p.mode.code + bnat p.reqIgnored * 4 + bnat p.thermalWarn * 8 + bnat p.thermalCrit * 16
  else if o = 0x04 then p.ctrl
  else if o = 0x08 then p.resetCause.toNat
  else if o < 0x10 then 0
  else if o < 0x1C then part (byteReg (p.dieTemp.map (unsigned 16)) 16) o 0x10
  else if o = 0x20 then faultReg p.faults
  else if o < 0x40 then 0
  else if o < 0x90 then
    part ((p.dumap.coves.eraseDups.map (fun c => 2 ^ (16 * c.1 + c.2))).foldl (· + ·) 0) o 0x40
  else if o < 0x98 then part ((p.dumap.bays.eraseDups.map (2 ^ ·)).foldl (· + ·) 0) o 0x90
  else if o < 0xA0 then part ((p.dumap.ports.eraseDups.map (2 ^ ·)).foldl (· + ·) 0) o 0x98
  else if o < 0xD0 then part (leNat s.dumapHash) o 0xA0
  else 0

/-- Maintenance (R347). -/
def maintBlock (s : State) (o : Nat) : Nat :=
  let m := s.maint
  if o = 0x00 then bnat m.rotate
  else if o = 0x04 then s.turnBay
  else if o = 0x0C then m.status % 4 + m.conflict % 16 * 4 + m.conflictRes % 2 ^ 12 * 2 ^ 6
  else if o = 0x10 ∨ o = 0x14 then part (m.sweeps % 2 ^ 32 + m.scrubAt / 4096 * 2 ^ 32) o 0x10
  else if o < 0x40 then 0
  else if o < 0x68 then
    part (byteReg ((List.range 40).map (fun b => (s.bay b).standby + bnat (s.bay b).absent * 2 ^ 7)) 8) o 0x40
  else if o < 0x80 then 0
  else if o < 0xD0 then part (byteReg ((List.range 40).map (fun b => (s.bay b).slice)) 16) o 0x80
  else if o = 0x100 ∨ o = 0x104 then part m.lastFail o 0x100
  else 0

/-- PORT_STATUS (R349). -/
def portStatus (s : State) (p : Nat) : Nat :=
  let x := s.port p
  let t := s.time
  x.link.code + x.qreason % 16 * 2 ^ 3
    + bnat ((t.refSource == .primary || t.refSource == .backup) && t.refPort == p) * 2 ^ 7
    + bnat (s.inService p) * 2 ^ 8 + x.polarity.toNat * 2 ^ 9

/-- MAP_MATCH of a neighbour entry: its map hash is the one the active image records for its chip (R264). -/
def mapMatches (s : State) (n : Neighbour) : Bool := s.mapRecord n.chip == some n.mapHash

/-- A port block with its neighbour entry (R348). -/
def portBlock (s : State) (p o : Nat) : Nat :=
  let x := s.port p
  let n := x.nb
  if o = 0x00 then bnat x.enable + bnat x.prbs * 8
  else if o = 0x04 then s.portStatus p
  else if o = 0x08 then unsigned 32 x.align
  else if o = 0x0C then unsigned 32 x.residual
  else if o = 0x10 then x.lp % 2 ^ 9
  else if o = 0x14 then unsigned 32 x.phi
  else if o = 0x18 then unsigned 16 (s.cal.comp.temp.getD p 0)
  else if o = 0x40 then
    n.state.code + s.imageMatch n.imageHash * 2 ^ 2 + bnat (s.mapMatches n) * 2 ^ 4 + n.role % 8 * 2 ^ 5 + n.port % 32 * 2 ^ 8
  else if o = 0x44 then n.chip % 2 ^ 20
  else if o = 0x48 ∨ o = 0x4C then part n.serial o 0x48
  else if o = 0x50 then n.version
  else if o = 0x54 then n.firmware
  else if o = 0x58 ∨ o = 0x5C then part n.lastHail o 0x58
  else 0

/-- GROUP_INFO (R350). The own ring position reads 0 where the ring does not name the engine (DESIGN CHOICE, log entry 147:
the spec gives none there). -/
def groupInfo (s : State) (g : Nat) : Nat :=
  match s.ringOf g, s.im.groupDesc g with
  | some r, some d =>
    r.n % 2 ^ 15 + (s.posIn r).getD 0 % 2 ^ 14 * 2 ^ 15 + (s.group g).table % 16 * 2 ^ 29 + r.rails % 8 * 2 ^ 33 + 2 ^ 36
      + d.owner % 16 * 2 ^ 40
  | _, _ => 0

/-- A group block (R350 to R352). -/
def groupBlock (s : State) (g o : Nat) : Nat :=
  let x := s.group g
  if o < 0x08 then part (s.groupInfo g) o 0x00
  else if o < 0x10 then part x.step o 0x08
  else if o = 0x10 then
    x.state.code + bnat (s.heldBit g) * 2 ^ 3 + bnat x.writeIgnored * 2 ^ 4 + x.abortCode % 256 * 2 ^ 8
  else if o = 0x14 then bnat x.hold
  else if o = 0x1C then bnat x.diag.busy * 2 + bnat x.diag.done * 4 + bnat x.diag.incomplete * 8
  else if o = 0x20 then
    x.rc.action % 2 + x.rc.table % 16 * 2 + bnat x.rc.skip * 2 ^ 5 + x.rc.status % 4 * 2 ^ 9 + bnat x.rc.conflict * 2 ^ 11
  else if o = 0x28 ∨ o = 0x2C then part x.rc.tR o 0x28
  else if o = 0x30 then x.sigma % 2 ^ 32
  else 0

/-- A bucket block (R353). -/
def bucketBlock (s : State) (b o : Nat) : Nat :=
  let x := s.bucket b
  if o = 0x00 then
    unsigned 8 x.et + bnat x.fallback * 2 ^ 8 + x.hold % 2 ^ 16 * 2 ^ 9 + bnat x.selector * 2 ^ 25 + bnat x.defined * 2 ^ 26
      + x.gen % 4 * 2 ^ 27
  else if o = 0x08 then x.qMax % 2 ^ 16
  else if o = 0x0C then x.clip % 2 ^ 32
  else if o = 0x10 then x.ovf % 2 ^ 32
  else if o = 0x18 ∨ o = 0x1C then part x.step o 0x18
  else 0

/-- A snapshot page; the engine's page has no partition counters (R360, R361). -/
def snapBlock (s : State) (page o : Nat) : Nat :=
  let x := s.snap page
  let t := x.frozen.getD s.time.snap
  if o < 0x08 then part s.time.snap.tide o 0x00
  else if o < 0x10 then part (t.sec % 2 ^ 48) o 0x08
  else if o < 0x18 then part (t.ns % 2 ^ 32) o 0x10
  else if o < 0x20 then 0
  else if o < 0x28 then part (bnat x.pending + x.invalid % 2 ^ 16 * 2) o 0x20
  else if o < 0x30 then part x.tag o 0x28
  else if o < 0x40 then 0
  else if o < 0x80 then x.sel.get 0xFFFFFFFF ((o - 0x40) / 4)
  else if o < 0x100 then part (x.vals.get 0 ((o - 0x80) / 8)) o (0x80 + (o - 0x80) / 8 * 8)
  else if page = 0 then 0
  else if o < 0x100 + 8 * 29 then
    let k := (o - 0x100) / 8
    part (counterReg (s.stats.part.get {} (32 * (page - 1) + k))) o (0x100 + 8 * k)
  else 0

/-- An event ring's registers (R329). -/
def ringBlock (s : State) (r o : Nat) : Nat :=
  let x := s.ring r
  if o < 0x08 then part x.base o 0x00
  else if o = 0x08 then bnat x.enable + x.size % 16 * 2
  else if o = 0x0C then x.head.toNat
  else if o = 0x10 then x.tail.toNat
  else if o = 0x14 then bnat x.overflow + bnat x.ctrlIgnored * 2 + bnat x.writeFault * 4
  else 0

/-- A doorbell page (R313). -/
def doorbellBlock (s : State) (g o : Nat) : Nat :=
  let q := s.queue g
  if o = 0x00 then q.tail.toNat
  else if o = 0x04 then q.complHead.toNat
  else if o = 0x08 then q.fetch.toNat
  else if o = 0x0C then q.complTail.toNat
  else 0

/-- A queue block (R314). -/
def queueBlock (s : State) (g o : Nat) : Nat :=
  let q := s.queue g
  if o < 0x08 then part q.base o 0x00
  else if o < 0x10 then part q.complBase o 0x08
  else if o = 0x14 then
    q.state.code + bnat q.tailErr * 2 ^ 2 + bnat q.fetchErr * 2 ^ 3 + (s.group g).state.code * 2 ^ 8 + q.lastCode % 256 * 2 ^ 16
  else if o = 0x18 then q.lastAbort
  else 0

/-- Doorbell pages and queue blocks of the groups with a given owner; others read zero (R314, R363). -/
def queuesWord (s : State) (owner o : Nat) : Nat :=
  let at_ (g v : Nat) : Nat := if s.groupOwner g = some owner then v else 0
  if o < 0x4000 then at_ (o / 64) (s.doorbellBlock (o / 64) (o % 64))
  else if o < 0x10000 then at_ ((o - 0x4000) / 192) (s.queueBlock ((o - 0x4000) / 192) ((o - 0x4000) % 192))
  else 0

/-- Trigger counters (R321): TRIG_ADD reads zero. -/
def triggerWord (s : State) (o : Nat) : Nat := if o % 8 = 0 then (s.trigger (o / 8)).toNat else 0

/-- Parked contexts in the order of parking (R194, R354). -/
def parkedCtxs (s : State) : List Ctx :=
  sortBy (fun a b => decide (a.parked.getD 0 ≤ b.parked.getD 0))
    (s.groups.flatMap (fun g => g.2.ctxs.filter (fun x => x.parked.isSome)))

/-- Context inspection (R354). -/
def ctxBlock (s : State) (o : Nat) : Nat :=
  let c := s.ctxView
  if o = 0x00 then c.sel
  else if o = 0x04 then bnat c.ready + bnat c.invalid * 2
  else if o = 0x08 then s.parkedCtxs.length
  else if 0x40 ≤ o ∧ o < 0x80 then part (leNat c.data) o 0x40
  else 0

/-- The record that STEPREC_SEL selects (R355). -/
def selectedRecord (s : State) : Option Bytes :=
  let g := field s.recSel 0 8
  let x := s.group g
  match field s.recSel 8 2 with
  | 0 => x.record.map (recordBytes g)
  | 1 => x.lastRecord.map (recordBytes g)
  | 2 => x.diag.report.map diagBytes
  | _ => none

/-- The step record window (R355). -/
def recordBlock (s : State) (o : Nat) : Nat :=
  if o = 0x00 then s.recSel
  else if o = 0x04 then
    bnat s.selectedRecord.isSome
      + bnat (field s.recSel 8 2 == 2 && (s.group (field s.recSel 0 8)).diag.report.any (fun r => !r.incomplete)) * 2
  else if o = 0x08 then (s.selectedRecord.map (·.length)).getD 0
  else if 0x1000 ≤ o ∧ o < 0x2000 then rd (s.selectedRecord.getD []) (4096 * (s.recSel / 2 ^ 10) + (o - 0x1000)) 4
  else 0

/-- IMAGE_WINDOW: the shadow bank, zero beyond a verified image (R344). -/
def windowWord (s : State) (o : Nat) : Nat :=
  let b := s.image.shadow
  if b.image.isSome && decide (leNat (b.bytes.readBytes 8 4) ≤ o) then 0 else leNat (b.bytes.readBytes o 4)

/-- The word at a privileged address (R332). -/
def privWord (s : State) (a : Nat) : Nat :=
  if a < 0x001000 then s.identWord a
  else if a < 0x002000 then s.timeWord (a - 0x001000)
  else if a < 0x003000 then s.calBlock (a - 0x002000)
  else if a < 0x004000 then s.imageBlock (a - 0x003000)
  else if a < 0x005000 then s.partBlock (a - 0x004000)
  else if a < 0x006000 then s.powerBlock (a - 0x005000)
  else if a < 0x007000 then s.maintBlock (a - 0x006000)
  else if a < 0x008000 then 0
  else if a < 0x009800 then s.portBlock ((a - 0x008000) / 256) (a % 256)
  else if a < 0x010000 then 0
  else if a < 0x020000 then s.groupBlock ((a - 0x010000) / 256) (a % 256)
  else if a < 0x060000 then s.bucketBlock ((a - 0x020000) / 64) (a % 64)
  else if a < 0x060000 + 8 * 88 then
    let i := (a - 0x060000) / 8
    part (counterReg (s.stats.engine.get {} i)) a (0x060000 + 8 * i)
  else if a < 0x061000 then 0
  else if a < 0x062800 then
    let i := (a - 0x061000) / 8
    if 25 ≤ i % 32 then 0 else part (counterReg (s.stats.port.get {} i)) a (0x061000 + 8 * i)
  else if a < 0x070000 then 0
  else if a < 0x071000 then s.snapBlock 0 (a - 0x070000)
  else if a < 0x072000 then s.ringBlock hallRing (a - 0x071000)
  else if a < 0x080000 then 0
  else if a < 0x090000 then s.queuesWord 8 (a - 0x080000)
  else if a < 0x098000 then s.triggerWord (a - 0x090000)
  else if a < 0x0A0000 then 0
  else if a < 0x0A1000 then s.ctxBlock (a - 0x0A0000)
  else if a < 0x0C0000 then 0
  else if a < 0x0C2000 then s.recordBlock (a - 0x0C0000)
  else if a < imageWindow then 0
  else if a < 0x800000 then s.windowWord (a - imageWindow)
  else 0

/-! ### Partition windows -/

/-- The reset value of a word of a partition window, read while its partition is DETACHED (R364). -/
def detachedWord (s : State) (p o : Nat) : Nat :=
  if 0x4000 ≤ o ∧ o < 0x10000 then
    (if (o - 0x4000) % 192 = 0x18 ∧ s.groupOwner ((o - 0x4000) / 192) = some p then 0xFFFFFFFF else 0)
  else if 0x20040 ≤ o ∧ o < 0x20080 then 0xFFFFFFFF
  else 0

/-- The word at an offset of partition window p (R332). -/
def partWord (s : State) (p o : Nat) : Nat :=
  if s.pstate p == .detached then s.detachedWord p o
  else if o < 0x10000 then s.queuesWord p o
  else if o < 0x18000 then (if s.triggerOk p ((o - 0x10000) / 8) then s.triggerWord (o - 0x10000) else 0)
  else if o < 0x20000 then 0
  else if o < 0x21000 then s.snapBlock (p + 1) (o - 0x20000)
  else if o < 0x30000 then 0
  else if o < 0x31000 then s.ringBlock p (o - 0x30000)
  else 0

/-- First address past every window (R333). -/
def windowsEnd : Nat := 0x01800000

/-- The word at a host access port address, for a view that reaches it. -/
def word (s : State) (a : Nat) : Nat :=
  if a < 0x01000000 then s.privWord a
  else if a < windowsEnd then s.partWord ((a - 0x01000000) / 0x00100000) (a % 0x00100000)
  else 0

/-- The 64 bits at an address that is a multiple of 8. -/
def word64 (s : State) (a : Nat) : Nat := s.word a + s.word (a + 4) * 2 ^ 32

/-- A partition's own view reaches an address: its window, and inside it only its groups and counters (R303, R304). -/
def ownReach (s : State) (p a : Nat) : Bool :=
  let o := a % 0x00100000
  decide (0x01000000 ≤ a ∧ a < windowsEnd) && (a - 0x01000000) / 0x00100000 == p &&
    (if o < 0x4000 then s.groupOwner (o / 64) == some p
     else if o < 0x10000 then s.groupOwner ((o - 0x4000) / 192) == some p
     else if o < 0x18000 then s.triggerOk p ((o - 0x10000) / 8)
     else true)

/-- What a tag's view reaches (R303, R304, R333). -/
def mayReach (s : State) (tag a : Nat) : Bool := s.tagPriv tag || (s.tagLive tag && s.ownReach tag a)

end State

end Sys2Proof.Machine
end

