-- ==== Sys2Proof/Machine/Rings.lean ====
section
/-! DEFINITION. The writing of event records into rings (R329, R384 to R387, R389). -/

namespace Sys2Proof.Machine

open Sys2Proof

/-- Records of a ring (R329). -/
def ringSize (r : EventRing) : Nat := 2 ^ (r.size + 6)

/-- Free records of a ring. -/
def ringFree (r : EventRing) : Nat := ringSize r - (r.tail - r.head).toNat

/-- The 32 bytes of a record, with PHASE and REPEAT (R384). -/
def eventBytes (e : Event) (phase repeats : Nat) : Bytes :=
  leBytes 2 e.type ++ leBytes 1 e.severity ++ leBytes 1 e.code ++ leBytes 1 (e.group.getD 0)
    ++ leBytes 1 (phase + bnat e.group.isSome * 2) ++ leBytes 2 0 ++ leBytes 8 e.tide
    ++ (match e.ledger with
        | some b => padTo 16 b
        | none => leBytes 8 e.subject ++ leBytes 4 e.arg ++ leBytes 4 repeats)

/-- Order of the records of one tide: TYPE, GROUP, SUBJECT (R387). -/
def eventBefore (a b : Event) : Bool :=
  decide (a.type < b.type ∨ (a.type = b.type ∧ (a.group.getD 0 < b.group.getD 0
    ∨ (a.group.getD 0 = b.group.getD 0 ∧ a.subject ≤ b.subject))))

/-- Tides of a coalescing window (R387). -/
def windowTides : Nat := 4096

namespace State

def modRing (s : State) (r : Nat) (f : EventRing → EventRing) : State := s.setRing r (f (s.ring r))

/-- Write one record into a ring that has room. -/
def putRecord (s : State) (r : Nat) (e : Event) (repeats : Nat) : State :=
  let x := s.ring r
  let n := x.tail.toNat
  let at_ := x.base + 32 * (n % ringSize x)
  (s.setRing r { x with tail := x.tail + 1 }).emit (.eventRecord r at_ (eventBytes e ((n / ringSize x + 1) % 2) repeats))

/-- Drop a ring's copy of a record that it does not take: one event lost (R329, R381, R386). -/
def dropEvent (s : State) (r : Nat) (e : Event) : State :=
  let s := s.modRing r (fun x => { x with overflow := true, dropped := x.dropped + 1, dropTide := e.tide })
  if r < 8 then s.bumpCopy .eventLost r 1 else s.bump .eventLost

/-- The write of a record failed: the ring is disabled and the record dropped (R329). -/
def ringFault (s : State) (r : Nat) (e : Event) : State :=
  let x := s.ring r
  let at_ := x.base + 32 * (x.tail.toNat % ringSize x)
  let s := (s.modRing r (fun x => { x with enable := false, writeFault := true })).dropEvent r e
  if r < 8 then
    s.raise { type := 0x0024, severity := 3, subject := at_, arg := r, rings := s.ringsE }
  else s

/-- A ring that dropped events has room again and is enabled: an EVENT_OVERFLOW record is owed (R329). -/
def owesRecord (x : EventRing) : Bool := x.enable && decide (0 < x.dropped ∧ 0 < ringFree x)

/-- The EVENT_OVERFLOW record of a ring. Its TIDE is that of the event dropped last, so that the ring's records stay in the
order of TIDE (DESIGN CHOICE, log entry 118: R387 does not say). -/
def overflowRecord (x : EventRing) : Event :=
  { type := 0x0002, severity := 2, tide := x.dropTide, arg := Nat.min x.dropped 0xFFFFFFFF }

/-- The EVENT_OVERFLOW record that a ring owes is written before any other, or fails as any record does (R329). -/
def catchUp (bad : List Nat) (s : State) (r : Nat) : State :=
  let x := s.ring r
  if owesRecord x then
    (if bad.contains r then s.ringFault r (overflowRecord x)
     else (s.putRecord r (overflowRecord x) 1).modRing r (fun y => { y with dropped := 0 }))
  else s

/-- The window of a ring for an event's type, group and subject. -/
def windowOf (x : EventRing) (e : Event) : Option Window :=
  x.windows.find? (fun w => w.type == e.type && w.group == e.group && w.subject == e.subject)

/-- Put a window in place of the one with its key. -/
def setWindow (x : EventRing) (w : Window) : EventRing :=
  { x with windows := x.windows.filter (fun y => !(y.type == w.type && y.group == w.group && y.subject == w.subject)) ++ [w] }

/-- Deliver an event to one ring: dropped, folded into an open window, or written (R329, R387, R389). -/
def deliverTo (s : State) (bad : List Nat) (e : Event) (r : Nat) : State :=
  if r < 8 && s.pstate r == .detached then s
  else
    let s := catchUp bad s r
    let x := s.ring r
    let w := if coalesces e then windowOf x e else none
    if !x.enable || ringFree x = 0 then
      let s := match w with
        | some y => s.modRing r (fun x => setWindow x { y with held := 0 })
        | none => s
      s.dropEvent r e
    else
      let folded := match w with
        | some y => decide (y.tide < e.tide ∧ e.tide ≤ y.tide + windowTides)
        | none => false
      if folded then
        match w with
        | some y => s.modRing r (fun x => setWindow x { y with held := y.held + e.repeats })
        | none => s
      else if bad.contains r then s.ringFault r e
      else
        let repeats := Nat.min (e.repeats + (w.map (·.held)).getD 0) 0xFFFFFFFF
        let s := s.putRecord r e repeats
        if coalesces e then
          s.modRing r (fun x => setWindow x { type := e.type, group := e.group, subject := e.subject, tide := e.tide, held := 0 })
        else s

/-- The next event to write: of the earliest tide, in the order of R387. Events of the tide in progress wait for its
end, so that the order holds. -/
def nextEvent (s : State) : Option Event :=
  match s.events with
  | [] => none
  | e :: _ =>
    if e.tide = s.eventTide then none
    else (sortBy eventBefore (s.events.takeWhile (fun x => x.tide == e.tide))).head?

/-- Two occurrences of one tide that one record of a ring holds (R387). -/
def oneRecord (a b : Event) : Bool :=
  coalesces a && coalesces b && a.type == b.type && a.group == b.group && a.subject == b.subject && a.tide == b.tide

/-- The occurrences that are written with an event, and the rings that any of them goes to. -/
def withEvent (s : State) (e : Event) : List Event := if coalesces e then s.events.filter (oneRecord e) else [e]

/-- Deliver to one ring what of some occurrences goes there, as one record (R387). -/
def deliverAll (bad : List Nat) (es : List Event) (s : State) (r : Nat) : State :=
  match es.filter (fun e => e.rings.contains r) with
  | [] => s
  | e :: rest => s.deliverTo bad { e with repeats := Nat.min ((rest.map (·.repeats)).foldl (· + ·) e.repeats) 0xFFFFFFFF } r

/-- Write the next event, with the occurrences that share its record, to each ring it is routed to. -/
def writeEvent (s : State) (bad : List Nat) : State :=
  match s.nextEvent with
  | some e =>
    let es := s.withEvent e
    let s := { s with events := if coalesces e then s.events.filter (fun x => !oneRecord e x) else s.events.erase e }
    ((es.flatMap (·.rings)).eraseDups).foldl (deliverAll bad es) s
  | none => s

/-- Every ring that owes an EVENT_OVERFLOW record writes it. -/
def catchUpAll (s : State) (bad : List Nat) : State := (List.range 9).foldl (catchUp bad) s

/-- Tides within which a record is written (R387). -/
def recordTides : Nat := 64

/-- The records of 64 tides ago that no command has brought to their rings are written (R387). -/
def writeOverdue (s : State) : State :=
  let late (t : Nat) (s : State) : Bool := decide (t + recordTides ≤ s.eventTide)
  let s := (List.range 9).foldl (fun s r => if late (s.ring r).dropTide s then catchUp [] s r else s) s
  s.events.foldl (fun s _ => if s.events.any (fun e => late e.tide s) then s.writeEvent [] else s) s

end State

end Sys2Proof.Machine
end

