-- ==== Sys2Proof/Machine/Snapshots.lean ====
section
/-! DEFINITION. Snapshot pages: selectors, and the latch at a tide boundary (R46, R360, R383). -/

namespace Sys2Proof.Machine

open Sys2Proof

/-- Address of a register of a snapshot page: page 0 the engine's, page p + 1 partition p's (R360). -/
def snapReg (page off : Nat) : Nat := if page = 0 then 0x070000 + off else windowBase (page - 1) + 0x020000 + off

namespace State

/-- An access to a register of a snapshot page. -/
def asSnap (s : State) (tag page off : Nat) (write : Bool) (f : State → State) : State :=
  if page = 0 then s.asPriv tag (snapReg 0 off) write f
  else if page ≤ 8 then s.asPart tag (page - 1) (snapReg page off) write f
  else s

def modSnap (s : State) (page : Nat) (f : SnapPage → SnapPage) : State := s.setSnap page (f (s.snap page))

/-- A write of SNAP_REQ. -/
def askSnap (s : State) (page v : Nat) : State :=
  if bitAt v 0 then s.modSnap page (fun x =>
    { x with pending := true, askedAt := if x.pending then x.askedAt else s.time.ticks }) else s

/-- A write of SNAP_SEL i. -/
def setSel (s : State) (page i v : Nat) : State := s.modSnap page (fun x => { x with sel := x.sel.set i (v % 2 ^ 32) })

/-- A page's view reaches an address (R360): the engine page's is privileged. -/
def pageReaches (s : State) (page a : Nat) : Bool := page == 0 || s.ownReach (page - 1) a

/-- A page was asked for a latch before the boundary last passed, and nothing has been taken for it yet. -/
def pageDue (s : State) (page : Nat) : Bool :=
  (s.snap page).pending && decide ((s.snap page).askedAt < s.time.ticks) && (s.snap page).caught.isNone

/-- Change what a page has taken. -/
def modCatch (s : State) (page : Nat) (f : SnapCatch → SnapCatch) : State :=
  s.modSnap page (fun x => { x with caught := x.caught.map f })

/-- Take one selected register as it stands in `vals`. -/
def takeSel (s : State) (page : Nat) (vals : State) (i : Nat) : State :=
  let a := (s.snap page).sel.get 0xFFFFFFFF i
  if a = 0xFFFFFFFF then s
  else if s.pageReaches page a && a % 8 == 0 then s.modCatch page (fun c => { c with vals := c.vals.set i (vals.word64 a) })
  else
    let s := s.modCatch page (fun c => { c with vals := c.vals.set i 0, invalid := c.invalid + 2 ^ i })
    if a % 8 = 0 then s.violation (page - 1) a false
    else if page = 0 then s.bump .accessMalformed else s.bumpP .accessMalformed (page - 1) 1

/-- A page that is due takes every selected register as it stands at the boundary (R360). -/
def catchPage (s vals : State) (page : Nat) : State :=
  if s.pageDue page then
    let s := s.modSnap page (fun x => { x with caught := some { invalid := 0, tag := s.time.tide, vals := x.vals } })
    (List.range 16).foldl (fun s i => s.takeSel page vals i) s
  else s

/-- Every page that is due, the engine's and the partitions', takes its registers in the same cycle (R360, R383). -/
def catchPages (s : State) : State := (List.range 9).foldl (fun u page => u.catchPage s page) s

/-- What a page has taken stands in SNAP_VAL, SNAP_STATUS and SNAP_TAG, and PENDING is clear (R360). -/
def showPage (s : State) (page : Nat) : State :=
  match (s.snap page).caught with
  | some c => s.modSnap page (fun x =>
      { x with caught := none, pending := false, invalid := c.invalid, tag := c.tag, vals := c.vals })
  | none => s

/-- The same for every page. -/
def showPages (s : State) : State := (List.range 9).foldl showPage s

/-- A read of TIME_SNAPSHOT_TIDE freezes seconds and nanoseconds at the same boundary. -/
def freezeTime (s : State) (page : Nat) : State := s.modSnap page (fun x => { x with frozen := some s.time.snap })

end State

end Sys2Proof.Machine
end

