-- ==== Sys2Proof/Machine/Time.lean ====
section
/-! DEFINITION. Commands of hall time (R27 to R42, R51, R61): PTP messages, the discipline loop, holdover, PPS, tide
marks, and the tide boundary with the actions that fall on it (R46). -/

namespace Sys2Proof.Machine

open Sys2Proof

/-- 390,625 tides are a second (R41). -/
def secondTides : Nat := 390625

/-- `n` intervals of 2^log s, log at most 0, have passed since a tick. -/
def passed (ticks since n : Nat) (log : Int) : Bool := decide (n * secondTides ≤ (ticks - since) * 2 ^ (-log).toNat)

namespace State

/-! ### PTP messages (R30, R31, R255) -/

/-- A PTP cell is processed: on a designated time port whose partner's hail is accepted, in DISCOVER, ALIGN or SERVICE,
with the image's domain and sdoId, and not on a port whose reference is lost to drift (R31, R61, R255). -/
def ptpOk (s : State) (p : Nat) (h : PtpHeader) : Bool :=
  s.sourceOf p != .none && (s.port p).nb.state == .accepted
    && ((s.port p).link == .discover || (s.port p).link == .align || (s.port p).link == .service)
    && h.domain == s.timeCfg.domain && h.sdo == s.timeCfg.sdo && !(s.timePort p).driftLost

/-- The messages that the engine processes on arrival (R30). -/
def ptpTaken (type : Nat) : Bool :=
  type == ptpSync || type == ptpFollowUp || type == ptpDelayResp || type == ptpAnnounce

/-- Run `f` on the PTP message of a TIME cell, if it is of the command's type. A message that is not processed where it comes,
Management, Signaling, peer delay and Delay_Req messages, and a LENGTH out of its range are discarded and counted (R30, R31,
R255). -/
def withPtp (s : State) (p type : Nat) (cell : Bytes) (f : State → PtpHeader → Bytes → State) : State :=
  s.withCell p tTime cell (fun s c =>
    match ptpMessage c.payload with
    | none => s.bumpPort p .ptpDiscard 1
    | some m =>
      if !s.ptpOk p (readPtp m) || !ptpTaken (ptpType m) then s.bumpPort p .ptpDiscard 1
      else if ptpType m = type then f s (readPtp m) m
      else s)

/-- The port identity of the engine in PTP messages (log entry 77). -/
def ptpIdentity (s : State) (p : Nat) : Bytes := beBytes 8 s.ident.serial ++ beBytes 2 (p + 1)

/-- ±0.25 ns, the bound of the filtered offset for LOCKED; 1,000 ns, that of a step (R36, R37). -/
def lockBound : Nat := 16384
def stepBound : Nat := 65536000

/-- Count consecutive references within the lock bound; at 128 the loop is LOCKED. -/
def countLock (s : State) (m : LoopMeas) : State :=
  let n := if m.filtered.natAbs ≤ lockBound then s.time.lockCount + 1 else 0
  let s := { s with time := { s.time with lockCount := n } }
  if 128 ≤ n then s.enterLoop .locked else s

/-- Step hall time by an offset; the tide index never decreases (R37). -/
def stepTime (s : State) (off : Units) : State :=
  let h := ((s.time.hall : Int) - off).toNat
  { s with time := { s.time with hall := h, stepped := true, lockCount := 0,
                                 tide := if s.img.isSome then max s.time.tide (s.tideAt h) else s.time.tide } }

/-- HOLDOVER is to end at the next boundary (R38, R61). -/
def askLost (s : State) : State :=
  { s with time := { s.time with lostAsked := if s.time.lostAsked.isSome then s.time.lostAsked else some s.time.ticks } }

/-- A reference in HOLDOVER with the offset measured (R38): one that is refused has the held frequency in force again
(R36). -/
def holdoverRef (s : State) (off : Units) (m : LoopMeas) : State :=
  if off.natAbs ≤ s.time.bound ∧ off.natAbs ≤ boundLimit then
    let b := off.natAbs + 32768
    let n := if m.filtered.natAbs ≤ lockBound then s.time.lockCount + 1 else 0
    let s := { s with time := { s.time with bound := b, boundStart := b, boundTide := s.time.ticks, lockCount := n,
                                            loopOffset := m.filtered, loopFreq := m.freq } }
    if 128 ≤ n then (s.bump .holdoverExit).enterLoop .locked else s
  else ({ s with time := { s.time with loopFreq := s.heldFreq } } : State).askLost

/-- The loop switches to another time port (R39). -/
def switchTo (s : State) (r : RefSource) (p : Nat) : State :=
  let s := { s with time := { s.time with refSource := r, refPort := p, lastRef := r, lastRefPort := p } }
  (s.bump .timePortSwitch).timeEvent s.time.loop 2 0 r p

/-- ±5 ppb, the bound of the frequency estimate, in 10^-12 (R36). -/
def freqBound : Nat := 5000

/-- FREQ_ACQUIRE judges the estimate of a reference event: within the bound for 100 ms it goes on to PHASE_ACQUIRE (R36; the
100 ms count in tides from the first event within the bound, DESIGN CHOICE, log entry 121). -/
def judgeFreq (s : State) (m : LoopMeas) : State :=
  if freqBound < m.freqErr.natAbs then { s with time := { s.time with freqSince := none } }
  else
    let since := s.time.freqSince.getD s.time.ticks
    let s : State := { s with time := { s.time with freqSince := some since } }
    if passed (s.time.ticks * 10) (since * 10) 1 0 then s.enterLoop .phaseAcquire else s

/-- A reference event of source `r` drives the loop (R36 to R39). `p` is its port, 0 for the PPS input; `off` the offset
measured, none where the port has completed no Sync since its reference was lost (log entry 16). In LOCKED after a
loss only the awaited port counts. An acquisition that Hold had cut off from its reference goes on with the first that comes
(R409). DESIGN CHOICE (log entry 88): LOCKED on the PPS input gives way to a time port only where the image enables
reversion and the port is the primary, and in FREQ_ACQUIRE, PHASE_ACQUIRE and HOLDOVER the reference that has delivered is
kept until it is lost, whatever its priority (R35 calls PPS the lowest priority and gives no rule for the change). -/
def reference (s : State) (r : RefSource) (p : Nat) (off : Option Units) (m : LoopMeas) : State :=
  let t := s.time
  let take (s : State) : State :=
    { s with time := { s.time with refSource := r, refPort := p, lastRef := r, lastRefPort := p } }
  let note (s : State) : State := { s with time := { s.time with loopOffset := m.filtered, loopFreq := m.freq } }
  match t.loop with
  | .freerun => (note (take s)).enterLoop .freqAcquire
  | .timeLost => if r == .pps then s else (note (take s)).enterLoop .phaseAcquire
  | .freqAcquire =>
    if t.refSource == r then (note s).judgeFreq m
    else if t.refSource == .none then
      (note (take { s with time := { s.time with freqSince := none } })).judgeFreq m
    else s
  | .phaseAcquire =>
    if t.refSource == .none then note (take s)
    else if t.refSource == r then
      (match off with
       | some o => if !t.stepped && decide (stepBound < o.natAbs) then (note s).stepTime o else (note s).countLock m
       | none => (note s).countLock m)
    else s
  | .locked =>
    if t.refSource == r then (note s).noteFreq
    else if t.refSource == .none then
      (if r != otherSource t.lastRef then s
       else if s.switchable r then ((note s).noteFreq).switchTo r p
       else s.enterLoop .holdover)
    else if r == .primary && s.timeCfg.revert && s.switchable .primary then ((note s).noteFreq).switchTo r p
    else s
  | .holdover =>
    match off with
    | some o => if t.refSource == .none || t.refSource == r then (take s).holdoverRef o m else s
    | none => s

/-- A Sync is complete: receive time, origin and correction go together from now on, and the offset of the port is receive
time less origin, correction and the delay of the receive direction, which is the mean path delay with ASYM (R54). -/
def setOffset (s : State) (p : Nat) (rx origin corr : Units) : State :=
  let t := s.timePort p
  s.setTimePort p { t with rx := rx, origin := origin, corr := corr, paired := true, twoStepSeq := none,
                           offset := rx - origin - corr - (t.pathDelay + s.asymOf p) }

/-- The offset measured at a port: that of its last complete Sync (R37, R38). -/
def measuredAt (s : State) (p : Nat) : Option Units :=
  let t := s.timePort p
  if t.paired then some t.offset else none

/-- A Sync is received. A port that has had no Announce since the receipt timeout stays lost (R32); before any Announce at all
the clockClass counts as 0, which every image accepts (DESIGN CHOICE, log entry 94: R32 does not say). -/
def takeSync (s : State) (p : Nat) (rx : Units) (h : PtpHeader) (msg : Bytes) (m : LoopMeas) : State :=
  let t := s.timePort p
  let t := { t with syncs := t.syncs + 1, lastSync := s.time.ticks,
                    lost := t.silent || decide (s.timeCfg.classMax < t.clockClass) }
  let s := s.setTimePort p t
  let s :=
    if ptpTwoStep msg then s.setTimePort p { t with twoStepSeq := some h.seq, rxNext := rx, corrNext := h.correction }
    else s.setOffset p rx (ptpStamp msg 34) h.correction
  if t.lost then s else s.reference (s.sourceOf p) p (s.measuredAt p) m

/-! ### The tide boundary (R46) -/

/-- Holdover bound at a tick: h ps/s over the 2,560 ns tides since it was set, rounded as every engine rounding (R38, R73). -/
def boundAt (s : State) (ticks : Nat) : Nat :=
  s.time.boundStart + (roundAwayDiv (s.timeCfg.holdoverH * (ticks - s.time.boundTide) * tideUnits : Nat) (10 ^ 12)).toNat

/-- Hall time at the next boundary: the next T(t), or before the epoch a tide's length on, no further than the epoch (R41). -/
def nextHall (s : State) : Nat :=
  let h := s.time.hall
  if s.img.isSome then
    let e := epochOf s.im
    if h < e then min (h + tideUnits) e else e + ((h - e) / tideUnits + 1) * tideUnits
  else h + tideUnits

/-- Time passes by one tide: hall time, the tide index, the local frame count, the holdover bound. -/
def passTide (s : State) : State :=
  let h := s.nextHall
  let s := { s with time := { s.time with hall := h, ticks := s.time.ticks + 1 } }
  let s := if s.beforeEpoch then { s with time := { s.time with localFrames := s.time.localFrames + 1 } }
    else { s with time := { s.time with tide := max s.time.tide (s.tideAt h) } }
  let s := if s.time.loop == .holdover && s.time.refSource == .none then
    { s with time := { s.time with bound := s.boundAt s.time.ticks } } else s
  s.setFrame

/-- Latch the tide index and T(t); before the epoch there is no tide to latch (R41). -/
def latchTime (s : State) : State :=
  if s.beforeEpoch then s
  else
    let t := epochOf s.im + s.time.tide * tideUnits
    { s with time := { s.time with snap := { tide := s.time.tide, sec := t / (1000000000 * nsUnits),
                                             ns := t / nsUnits % 1000000000 } } }

/-- A port's entry differs between two records. -/
def entryChanged (old new : Mem) (p : Nat) : Bool :=
  old.readBytes (calEntry p) 128 != new.readBytes (calEntry p) 128

/-- A record reloaded, compensated values and the working copy take effect (R46, R56, R59, R338). -/
def applyCal (s : State) : State :=
  let s := if s.cal.reloadAsked then s.loadCal.recompensate else s
  let old := s.cal.inEffect
  let now : Mem := if s.time.calValid then s.cal.work else []
  let next := s.cal.compNext
  let s := { s with cal := { s.cal with compNext := none, inEffect := now } }
  let s := match next with
    | some c => s.applyTemps c
    | none => s
  let s :=
    if old = now then s
    else (List.range 24).foldl (fun s p => if entryChanged old now p then (s.recalibrated p).refreshPhi p else s)
      s.recompensate
  if s.time.loop == .freerun then { s with time := { s.time with loopFreq := s.oscTrim } } else s

/-- ATTACH takes effect (R308). -/
def applyAttach (s : State) : State :=
  let s := s.parts.attachAsked.foldl (fun s p => s.setPstate p .attached) s
  { s with parts := { s.parts with attachAsked := [] } }

/-- Every group CLOSED, as one inside its OPEN still is (R200), and no PUT, GET or spill operation in progress (R411). -/
def resting (s : State) : Bool :=
  s.groups.all (fun x => x.2.state == .closed) && s.xfers.isEmpty
    && s.areas.all (fun x => x.2.running.isNone && x.2.waiting.isEmpty)

/-- Full to Idle at the boundary (R411). An OPEN in progress asks for the wake at once (log entry 23). -/
def applyIdle (s : State) : State :=
  if !s.power.idleAsked then s
  else if s.resting then
    let s : State := { s with power := { s.power with mode := .idle, idleAsked := false } }
    if s.groups.any (fun x => x.2.openAt.isSome) then s.askWake else s
  else { s with power := { s.power with reqIgnored := true, idleAsked := false } }

/-- Copies of cells are kept until the end of the tide after they were sent; requests of earlier tides are gone, first
copies of express messages of the tide before too (R159, R176). -/
def agePort (s : State) (p : Nat) : State :=
  s.modPort p (fun x =>
    { x with kept := x.kept.filter (fun k => decide (s.time.tide ≤ k.tide + 1)),
             asked := x.asked.filter (fun a => decide (s.time.tide ≤ a.2 + 1)),
             requests := x.requests.filter (fun a => decide (s.time.tide ≤ a.2 + 1)),
             seenReq := x.seenReq.filter (fun a => decide (s.time.tide ≤ a.2.2 + 1)),
             repaired := [], badRepeats := [],
             retxDone := [], exprFirst := x.exprFirst.filter (fun e => decide (s.time.tide ≤ e.2 + 1)) })

/-- Contexts are freed after V once the verdict has passed (R151). -/
def freeContexts (s : State) : State :=
  { s with groups := s.groups.map (fun g => (g.1, { g.2 with ctxs := g.2.ctxs.filter (fun x => !x.vPass) })) }

/-- A group uses a tide table: the one in force, or table 0 where that table has no block for the engine's class (R281). -/
def usesTable (s : State) (g t : Nat) : Bool :=
  let k := (s.group g).table
  let own := match s.self with
    | some c => s.im.blocks.any (fun b => b.table == k && b.cls == s.im.classUnder c k)
    | none => false
  t == k || (t == 0 && !own)

/-- A fetched operation that is not done refers to a trigger counter. -/
def usesTrigger (o : QueueOp) (n : Nat) : Bool :=
  o.phase != .done && ((!Desc.immediate o.raw && Desc.trigger o.raw == n) || (Desc.complAdd o.raw && Desc.complCounter o.raw == n)
    || (Desc.opcode o.raw == Desc.opTriggerAdd && Desc.target o.raw == n))

/-- The groups that use a table of the express and tables region (R21, R22; which groups use a neighbour entry or a trigger
counter is DEDUCED, log entry 127). -/
def tableUsers (s : State) (t : SramTable) : List Nat :=
  s.ownGroups.filter (fun g => match t with
    | .tide k => s.usesTable g k
    | .ring r => g == r
    | .bucket b => (s.im.bucketsOf g).any (fun d => d.bucket == b)
    | .book c => (s.im.bucketsOf g).any (fun d => d.enc == .k4 && d.codebook == c || d.fbKind == .codebook && d.fbParam == c)
    | .express r => g == r
    | .neighbour p => (s.groupsOnPort p).contains g
    | .trigger n => (s.queue g).ops.any (fun o => usesTrigger o n))

def loseAt {α : Type} (l : List α) (n : Nat) (f : α → α) : List α := l.zipIdx.map (fun y => if y.2 = n then f y.1 else y.1)

/-- An entry of the ledger region is lost (R22): of the step ledger or the step record, of the step in progress or of the last
committed one. -/
def loseEntry (s : State) (g : Nat) (last ledger : Bool) (n : Nat) : State :=
  let entry (l : List LedgerEntry) : List LedgerEntry := loseAt l n (fun e => { e with lost := true })
  let rec_ (r : StepRecord) : StepRecord := { r with entries := loseAt r.entries n (fun e => { e with lost := true }) }
  (s.sramUE 4 0).modGroup g (fun x =>
    match ledger, last with
    | true, false => { x with ledger := entry x.ledger }
    | true, true => { x with lastLedger := entry x.lastLedger }
    | false, false => { x with record := x.record.map rec_ }
    | false, true => { x with lastRecord := x.lastRecord.map rec_ })

/-- The SRAM errors of a tide outside the hops (R22). -/
def sramErrors (s : State) (env : TideEnv) : State :=
  let s := if env.sramCE = 0 then s else s.bumpBy .sramCe env.sramCE
  let s := (List.range env.rebuilt).foldl (fun s _ => s.sramUE 2 0) s
  let s := env.tableLost.foldl (fun s t => (s.sramUE 2 0x04).abortGroups (s.tableUsers t) 0x04) s
  let s := if env.imageUE then
      let s := s.sramUE 3 0x04
      let s := s.abortGroups s.ownGroups 0x04
      { s with image := { s.image with reloading := true } }
    else s
  let s := env.contextLost.foldl (fun s x =>
    if (s.ctx x.1 x.2.1 x.2.2).isSome then (s.sramUE 1 0x04).abort x.1 0x04 x.2.2 x.2.1 else s) s
  env.ledgerLost.foldl (fun s e => s.loseEntry e.1 e.2.1 e.2.2.1 e.2.2.2) s

/-! ### The order of a boundary's actions (R46) -/

/-- An instance's effect is due in this tide: a commit, an OPEN, a barrier, a scalar or a slip (R161). -/
def instanceDue (s : State) (g : Nat) (e : Express) : Bool :=
  let gr := s.group g
  !e.done && e.result.isSome && e.effectAt == some s.now
    && (if e.kind = kCommit then gr.abort.isNone && gr.state == .applied
        else if e.kind = kOpen then gr.abort.isNone && gr.openAt.isSome && s.power.mode == .full
        else e.kind != kStat && s.stepRuns g)

/-- An instance's effect (R161). -/
def runEffect (s : State) (g : Nat) (e : Express) : State :=
  if !s.instanceDue g e then s
  else if e.kind = kCommit then s.commitEffect g
  else if e.kind = kOpen then s.openEffect g
  else s.expressEffect g e.kind e.tag

/-- Some instance's effect is due. -/
def effectsDue (s : State) : Bool := s.groups.any (fun x => x.2.express.any (s.instanceDue x.1))

/-- Groups that the active or the shadow image defines. -/
def bothGroups (s : State) : List Nat :=
  ((s.im.groups ++ (s.image.shadow.image.getD {}).groups).map (·.group)).eraseDups

/-- A group is CLOSED, as it is until its OPEN takes effect (R200). -/
def rests (s : State) (g : Nat) : Bool := (s.group g).state == .closed

/-- The verified shadow image. -/
def verified (s : State) : Option Image := if s.image.shadowState == .verified then s.image.shadow.image else none

/-- Every group is held (R294). -/
def allHeld (s : State) : Bool := s.bothGroups.all s.rests

/-- An activation takes effect at the boundary in progress, once the effects of express instances are done, unless a token
that is held defers its bank swap (R46, R294, R401). -/
def activationDue (s : State) : Bool :=
  s.time.boundaryOpen && s.image.pending.isSome && s.verified.isSome && s.allHeld && !s.swapDeferred

/-- An alternate tide table takes effect at the boundary in progress: a resume tide is due that names another table than the
one in force (R46, R212). -/
def tableDue (s : State) (g : Nat) : Bool :=
  s.resumeDue g && (match s.decisionAt g with
    | some d => d.table != (s.group g).table && ((s.group g).state != .aborted || s.inRing g d.table)
    | none => false)

def tablesDue (s : State) : Bool := s.groups.any (fun x => s.tableDue x.1)

/-- No activation falls on this boundary, done or still due (R19). -/
def noActivation (s : State) : Bool :=
  s.maint.swapAt != some s.time.ticks && s.maint.tableAt != some s.time.ticks && !s.activationDue && !s.tablesDue

/-- A bay's standby role is to pass on (R18, R20). -/
def handoverWaits (s : State) (b : Nat) : Bool :=
  (s.bay b).passed && s.hasStandby b && s.maint.rotate

/-- A standby handover takes place at the boundary in progress, after the effects and activations due on it (R19, R46). -/
def handoverDue (s : State) (b : Nat) : Bool :=
  s.time.boundaryOpen && s.handoverWaits b && s.noActivation && !s.effectsDue

/-- Groups that a bay serves under their tables in force, on VC0 or VC1 (R20). -/
def bayGroups (s : State) (b : Nat) : List Nat := s.ownGroups.filter (fun g => (s.groupBays g).contains b)

/-- A group is at a step boundary: CLOSED, or between a commit and B_s of the step that follows it directly (R15, R138,
R219). -/
def betweenSteps (s : State) (g : Nat) : Bool :=
  let gr := s.group g
  gr.ctxs.isEmpty && (gr.state == .closed || (gr.state == .exchange && gr.attempt == 0 && decide (s.now ≤ gr.base)))

/-- A step boundary of every group that the bay serves (DEDUCED, log entry 40). -/
def atStepBoundary (s : State) (b : Nat) : Bool := (s.bayGroups b).all s.betweenSteps

/-- The takeover of a faulty cove's position takes place at the boundary in progress, as a handover does (R19, R186): a step
boundary of the bay on which no activation falls, once the effects due are done. -/
def takeoverDue (s : State) (b : Nat) : Bool :=
  s.time.boundaryOpen && s.maint.takeovers.any (fun x => x.1 == b) && s.atStepBoundary b && s.noActivation && !s.effectsDue

/-- The boundary's later actions wait for an earlier one that is due on it. -/
def boundaryWaits (s : State) : Bool :=
  s.effectsDue || s.activationDue || s.tablesDue || (List.range 40).any (fun b => s.handoverDue b || s.takeoverDue b)

/-- What comes before the latching of snapshots on a boundary is done, and the boundary is in progress. -/
def latchTurn (s : State) : Bool := s.time.boundaryOpen && !s.boundaryWaits

/-- The work of the tide that a boundary begins: spill operations start, and groups that wait enter or go on with their OPEN
or their slip barriers. -/
def beginTide (s : State) : State :=
  let s := s.startSpills
  let s := s.ownGroups.foldl (fun s g => (s.openOperand g).pollReady g) s
  s.tryEnterOpens s.ownGroups

/-- The later actions of a boundary in their order: snapshots, calibration values, what rests on them, and the beginning of
the tide. -/
def laterActions (s : State) : State :=
  let wasFramed := s.time.frame
  let s := s.latchTime.catchPages
  let s := ((s.applyCal).setFrame).applyAttach
  let s := if wasFramed && !s.time.frame then s.withdraw else s
  let s := (List.range 24).foldl checkLatency s
  let s := (List.range 24).foldl tryAlign s
  let s := s.grantWaiting.applyIdle.beginTide
  let s := (s.fetchFirst.captureMarks).wakeIfReady
  { s with time := { s.time with boundaryOpen := false } }

/-- Go on with the boundary, unless an action that comes before is still due. -/
def settle (s : State) : State := if s.latchTurn then s.laterActions else s

/-- The effects, quarantines and resume tides of the boundary in progress that no command has brought take place before its
tide ends (R161, R211, R263, R367). -/
def missedEffects (s : State) : State :=
  let s := (List.range 24).foldl quarantineDue s
  let s := s.groups.foldl (fun s (x : Nat × Group) => x.2.express.foldl (fun s e => s.runEffect x.1 e) s) s
  s.groups.foldl (fun s (x : Nat × Group) =>
    match s.decisionAt x.1 with
    | some d => if s.resumeDue x.1 then s.takeResume x.1 d else s
    | none => if s.conflictDue x.1 false then s.endConflict x.1 else s) s

/-- The boundary before and the effects due in the tide are brought to their end, before the frames go out. -/
def endTide (s : State) : State :=
  let s := s.missedEffects
  (if s.time.boundaryOpen then s.laterActions else s).showPages

/-- A tide boundary: the tide that ends is brought to its end, its frames go out, then time passes and the actions of the new
boundary begin. -/
def boundary (s : State) (env : TideEnv) : State :=
  let s := s.endTide.sendFrames.markReady
  let wasFramed := s.time.frame
  let s := (((List.range 24).foldl failBlocks s).scrubOutcome).sramErrors env
  let s := s.flushTide.passTide.writeOverdue
  let s := if wasFramed && !s.time.frame then s.withdraw else s
  let s := { s with maint := { s.maint with rotateTide := s.maint.rotate } }
  let s := (List.range 24).foldl agePort s
  let s := s.freeContexts.settleBooks
  ({ s with time := { s.time with boundaryOpen := true } } : State).settle

/-! ### Tide marks (R51) -/

/-- The misalignment of a mark against the nearest tide, judged with the compensated values that take effect at the
boundary, but for a port whose calibration token is held (R51, R61, R402; the nearest tide is the mark's, DESIGN CHOICE, log
entry 95). -/
def markAlign (s : State) (p : Nat) (arrival : Stamp) : Int :=
  let values := if s.calToken p then s.cal.comp else s.cal.compNext.getD s.cal.comp
  let rx := stampUnits arrival - s.rxLatOf values p
  let x : Int := rx + 10 * nsUnits - epochOf s.im
  x - (x + tideUnits / 2) / tideUnits * tideUnits

/-- A mark that arrives more than 10 ns off (R51). The groups on the port end their steps at once, in the tide of detection
(DESIGN CHOICE, log entry 139: R51 names no tide, and R157 and R263 speak of the boundary of the quarantine). -/
def alignFault (s : State) (p : Nat) : State :=
  let s := { s with time := { s.time with alignFault := true } }
  let s := s.bumpPort p .tideAlignFault 1
  let s := (s.abortGroups (s.groupsOnPort p) 0x0D).quarantine p 8
  if s.time.refSource != .none && s.time.refPort == p && s.sourceOf p != .none then s.loseTimePort p else s

/-- A tide mark tells the frame that the partner sends, and is measured and judged (R51, R251, R254, R262). One with
TIDE_VALID 0 carries no tide index. A mark that is dropped for its CRC measures nothing and leaves the count of consecutive
marks as it stands (DESIGN CHOICE, log entry 95: R251 does not say whether it breaks the run). -/
def takeMark (s : State) (p : Nat) (arrival : Stamp) (mark : Bytes) : State :=
  let s := s.modPort p (fun x => { x with rxTide := bitAt (rd mark 4 1) 0 })
  if !s.time.frame then s
  else
    let m := s.markAlign p arrival
    let late := decide (10 * nsUnits < m.natAbs)
    let own := bitAt (rd mark 4 1) 0 && rd mark 0 4 == s.time.tide % 2 ^ 32
    let s := s.modPort p (fun x => { x with align := m })
    if (s.port p).link == .align then
      s.modPort p (fun x => { x with marks := if !late && own then x.marks + 1 else 0 })
    else if (s.port p).link != .service then s
    else if late then s.alignFault p
    else if !own then s.quarantine p 8
    else s

/-! ### PPS (R34, R35) -/

def second : Nat := 1000000000 * nsUnits

/-- The first whole second of hall time not before the boundary last passed. -/
def nextSecond (s : State) : Nat := ceilDiv s.time.hall second

/-- The edge of a whole second that falls in the tide in progress, early by the output latency (R34). -/
def drivePps (s : State) : State :=
  let n := s.nextSecond
  if s.time.frame && s.time.ppsOutEnable && decide (n * second < s.time.hall + tideUnits) && s.time.ppsOutSec != some n then
    ({ s with time := { s.time with ppsOutSec := some n, ppsUntil := some (n * second + s.time.ppsWidth * 1000 * nsUnits) } } :
      State).emit (.ppsPulse ((n * second : Nat) - s.ppsOutLat) s.time.ppsWidth)
  else s

/-- PPS_TOD: a write arms it (R35, R336). -/
def setPpsTod (s : State) (v : Nat) : State :=
  { s with time := { s.time with ppsTod := v % 2 ^ 48, ppsArmed := true, ppsTodAt := s.time.ticks } }

/-- The PPS_TOD write that matches an edge: made at least 100 ms before it, and naming its second where hall time is held
already (R35; the lead counts in tides, DESIGN CHOICE, log entry 96). -/
def todMatches (s : State) (near : Int) : Bool :=
  s.time.ppsArmed && passed (s.time.ticks * 10) (s.time.ppsTodAt * 10) 1 0
    && ((s.time.loop != .locked && s.time.loop != .holdover) || (s.time.ppsTod : Int) == near)

/-- An edge uses up the PPS_TOD write, but for one that names a later second. -/
def useTod (s : State) (near : Int) : State :=
  let keep := s.time.ppsArmed && (s.time.loop == .locked || s.time.loop == .holdover) && decide (near < s.time.ppsTod)
  { s with time := { s.time with ppsArmed := keep } }

/-- An edge on TIME_PPS_IN (R35). An edge that is missing or has no PPS_TOD is counted and no more: the model never takes a
PPS reference for lost (DESIGN CHOICE, log entry 88: R32 gives conditions of loss for time ports only). -/
def takeEdge (s : State) (edge : Stamp) (meas : LoopMeas) : State :=
  let t := stampUnits edge - s.ppsInLat
  let near := (t + second / 2) / second
  let s := { s with time := { s.time with ppsInOffset := t - near * second, ppsInValid := true } }
  if !s.timeCfg.ppsRef then s
  else
    let good := s.todMatches near
    let s := s.useTod near
    if !good then s.bump .ppsMissing
    else if s.time.refSource == .primary || s.time.refSource == .backup then s
    else s.reference .pps 0 (some (t - s.time.ppsTod * second)) meas

end State

/-- TIDE_BOUNDARY (R46). The effects that have a command of their own (commits, activation, handover, snapshots) are
those commands' at the same boundary, in the order of R46. In Hold the counter and its loop run on (R408). -/
def execTideBoundary (env : TideEnv) (s : State) : Result :=
  whenAlive s (fun s => if s.power.mode == .hold then s.passTide else s.boundary env)

/-- TIDE_MARK_RECEIVED (R51, R251, R262). -/
def execTideMarkReceived (port : Nat) (arrival : Stamp) (cell : Bytes) (s : State) : Result :=
  whenRunning s (fun s => s.withCell port tMark cell (fun s c => s.takeMark port arrival c.payload))

/-- SYNC (R29, R30, R36). -/
def execSync (port : Nat) (rx : Stamp) (cell : Bytes) (meas : LoopMeas) (s : State) : Result :=
  whenRunning s (fun s => s.withPtp port ptpSync cell (fun s h m => s.takeSync port (s.rxPlane port rx) h m meas))

/-- FOLLOW_UP (R30). -/
def execFollowUp (port : Nat) (cell : Bytes) (s : State) : Result :=
  whenRunning s (fun s => s.withPtp port ptpFollowUp cell (fun s h m =>
    let t := s.timePort port
    if t.twoStepSeq == some h.seq then s.setOffset port t.rxNext (ptpStamp m 34) (t.corrNext + h.correction) else s))

/-- DELAY_RESP (R30, R60): the mean path delay from the last complete Sync, which is also the port's measured delay. A
response to another requester is none of the engine's. -/
def execDelayResp (port : Nat) (cell : Bytes) (s : State) : Result :=
  whenRunning s (fun s => s.withPtp port ptpDelayResp cell (fun s h m =>
    let t := s.timePort port
    match t.reqTx with
    | some tx =>
      if h.seq = (t.reqSeq + 2 ^ 16 - 1) % 2 ^ 16 ∧ ptpRequester m = s.ptpIdentity port ∧ t.paired then
        let d := roundAwayDiv ((t.rx - t.origin - t.corr) + (ptpStamp m 34 - tx - h.correction)) 2
        (s.setTimePort port { t with pathDelay := d, reqTx := none }).measured port d
      else s
    | none => s))

/-- ANNOUNCE (R30, R32). -/
def execAnnounce (port : Nat) (cell : Bytes) (s : State) : Result :=
  whenRunning s (fun s => s.withPtp port ptpAnnounce cell (fun s _ m =>
    let c := ptpClass m
    let s := s.setTimePort port
      { s.timePort port with clockClass := c, silent := false, lastAnnounce := s.time.ticks }
    if s.timeCfg.classMax < c then s.loseTimePort port else s))

/-- DELAY_REQ_SEND (R30, R255): one in each Sync interval; the transmit timestamp is the engine's own. -/
def execDelayReqSend (port : Nat) (tx : Stamp) (s : State) : Result :=
  whenRunning s (fun s =>
    let t := s.timePort port
    if s.sourceOf port != .none && (s.port port).nb.state == .accepted && trained (s.port port).link
        && (s.port port).link != .quarantine
        && (match t.lastReq with | some k => passed s.time.ticks k 1 s.timeCfg.syncLog | none => true) then
      (s.setTimePort port
        { t with reqTx := some (s.txPlane port tx), reqSeq := (t.reqSeq + 1) % 2 ^ 16, lastReq := some s.time.ticks }).sendVc3
        port rankTime tTime 0
        (timePayload (delayReqMessage s.timeCfg.sdo s.timeCfg.domain t.reqSeq (s.ptpIdentity port) 0x7F))
    else s)

/-- SYNC_TIMEOUT (R32): eight Sync intervals without a Sync. -/
def execSyncTimeout (port : Nat) (s : State) : Result :=
  whenRunning s (fun s =>
    if passed s.time.ticks (s.timePort port).lastSync 8 s.timeCfg.syncLog then s.loseTimePort port else s)

/-- ANNOUNCE_RECEIPT_TIMEOUT (R30, R32): three Announce intervals without an Announce. -/
def execAnnounceReceiptTimeout (port : Nat) (s : State) : Result :=
  whenRunning s (fun s =>
    if s.sourceOf port != .none && passed s.time.ticks (s.timePort port).lastAnnounce 3 s.timeCfg.announceLog then
      (s.setTimePort port { s.timePort port with silent := true }).loseTimePort port
    else s)

/-- HOLDOVER_BOUND_REACHED (R38, R61): the bound comes to 3.25 ns within the tide in progress; TIME_LOST follows at the next
boundary. -/
def execHoldoverBoundReached (s : State) : Result :=
  whenAlive s (fun s =>
    if s.time.loop == .holdover && s.time.refSource == .none && decide (State.boundLimit ≤ s.boundAt (s.time.ticks + 1)) then
      s.askLost
    else s)

/-- TIME_LOST (R38, R61, R268): at a boundary after the end of HOLDOVER was decided. -/
def execTimeLost (s : State) : Result :=
  whenAlive s (fun s =>
    match s.time.lostAsked with
    | some t =>
      if s.time.loop == .holdover && decide (t < s.time.ticks) then
        let s := { s with time := { s.time with lostAsked := none },
                          power := { s.power with faults := { s.power.faults with timeLost := true } } }
        let s := ((s.bump .timeLost).abortGroups s.ownGroups 0x0C).enterLoop .timeLost
        s.withdraw
      else s
    | none => s)

/-- PPS_OUT (R34, R337): driven while the tide frame is valid and OUT_ENABLE is 1. -/
def execPpsOut (s : State) : Result := whenRunning s State.drivePps

/-- PPS_IN_EDGE (R35): its offset at the ball; as a reference of lowest priority where the image permits. -/
def execPpsInEdge (edge : Stamp) (meas : LoopMeas) (s : State) : Result :=
  whenRunning s (fun s => if s.time.ppsInEnable then s.takeEdge edge meas else s)

/-- PPS_TOD_WRITE (R35, R336). -/
def execPpsTodWrite (tag : Nat) (value : Word64) (s : State) : Result :=
  whenRunning s (fun s => s.asPriv tag 0x1018 true (fun s => s.setPpsTod value.toNat))

/-- COMMIT_EFFECT (R203): the COMMIT instance takes effect at its tide E. -/
def execCommitEffect (group : Nat) (s : State) : Result := whenRunning s (fun s => (s.commitEffect group).settle)

/-- OPEN_EFFECT (R138, R161): the step begins or resumes. -/
def execOpenEffect (group : Nat) (s : State) : Result := whenRunning s (fun s => (s.openEffect group).settle)

/-- EXPRESS_EFFECT (R161): a BARRIER, SCALAR or READY instance takes effect. -/
def execExpressEffect (group kind xtag : Nat) (s : State) : Result :=
  whenRunning s (fun s => (s.expressEffect group kind xtag).settle)

/-- RESUME_TIDE (R211): an action of the boundary at T_R. An alternate table that it brings follows the effects of express
instances due there (R46). -/
def execResumeTide (group : Nat) (s : State) : Result :=
  whenRunning s (fun s =>
    let gr := s.group group
    match s.decisionAt group with
    | some d => if s.resumeDue group && !(s.tableDue group && s.effectsDue) then (s.takeResume group d).settle else s
    | none =>
      if s.conflictDue group false then s.endConflict group
      else if gr.state == .aborted && gr.recovery.decision.isNone && s.missedResume group && !gr.recovery.timedOut then
        (s.modGroup group (fun x => { x with recovery := { x.recovery with timedOut := true } })).bump .recoveryTimeout
      else s)

end Sys2Proof.Machine
end

