-- ==== Sys2Proof/Machine/Links.lean ====
section
/-! DEFINITION. Commands of link ports: training (R251, R252), hail (R259 to R265), delay exchanges (R256, R399), PRBS
(R257, R398), received chunk cells and retransmission (R173 to R178, R249). -/

namespace Sys2Proof.Machine

open Sys2Proof

/-- Address of a port's PORT_CTRL (R332, R348). -/
def portReg (p : Nat) : Nat := 0x008000 + 256 * p

namespace State

/-! ### Port control (R251, R252, R349) -/

/-- A port may train: enabled, not retired, and its role is not OFF. -/
def mayTrain (s : State) (p : Nat) : Bool :=
  (s.port p).enable && !s.power.dumap.ports.contains p && s.role p != 0

/-- Take an OFF port into SIGNAL where it may train. -/
def startPort (s : State) (p : Nat) : State :=
  if (s.port p).link == .off && s.mayTrain p then s.modPort p (fun x => { x with link := .signal }) else s

/-- A RETRAIN ends training and lifts a limit to VC3. -/
def retrainPort (s : State) (p : Nat) : State :=
  if (s.port p).link == .off then s else s.leaveTraining p .signal

/-! ### Hail (R58, R259 to R265) -/

/-- The partner seen in a hail is not the record's (R58). -/
def otherPartner (s : State) (p : Nat) (h : Hail) : Bool :=
  s.calPartner p != h.chip % 2 ^ 20 + h.port % 32 * 2 ^ 20 || s.calSerial p != h.serial.toNat

/-- R49 fails for the partner of a hail, whose DELAY is known: by the L_p fixed at ALIGN, or before it by the one that DELAY
gives (R262). -/
def latencyFails (s : State) (p : Nat) (h : Hail) : Bool :=
  let x := s.port p
  let lp := if x.link == .align || x.link == .service then x.lp else s.latencyOf p
  s.img.isSome && s.delayValid p && !s.otherPartner p h && (decide (400 < lp) || decide (s.imageLatency p < lp))

/-- The first test of R262 that a hail fails. -/
def hailFault (s : State) (p : Nat) (h : Hail) : Option Nat :=
  let role := s.role p
  let ring := role == 1
  let own := Config.engineVersion
  let v := h.version.toNat
  if (role == 1 && h.role != 1) || (role == 2 && h.role != 4) || (role == 3 && h.role != 1 && h.role != 3) || role == 0 then
    some 1
  else if ring && (match s.portWord p with
      | some w => w.partner != h.chip || w.partnerPort != h.port
      | none => true) then some 2
  else if h.role != 4 && (v / 2 ^ 16 != own / 2 ^ 16 || v / 2 ^ 8 % 256 != own / 2 ^ 8 % 256) then some 3
  else if ring && h.firmware.toNat != s.ident.firmware then some 4
  else if ring && s.imageMatch h.imageHash == 0 then some 5
  else if ring && s.mapRecord h.chip != some h.mapHash then some 6
  else if s.latencyFails p h then some 7
  else none

/-- The neighbour entry takes the hail's fields (R264). -/
def noteHail (s : State) (p : Nat) (h : Hail) : State :=
  s.modPort p (fun x => { x with nb :=
    { x.nb with chip := h.chip, serial := h.serial.toNat, port := h.port, role := h.role, version := h.version.toNat,
                firmware := h.firmware.toNat, imageHash := h.imageHash, mapHash := h.mapHash } })

/-- The identity of a hail differs from the neighbour entry's, an entry that is LOST keeping its own, and one that no hail
has filled yet having none (R262, R264, R265). -/
def newPartner (s : State) (p : Nat) (h : Hail) : Bool :=
  let n := (s.port p).nb
  n.state != .none && (n.chip != h.chip || n.serial != h.serial.toNat || n.port != h.port)

/-- The exchange of a port ends; a hail that waits for it goes in the next tide (R401). -/
def endExchange (s : State) (p : Nat) : State :=
  s.modPort p (fun x => { x with delayReq := none, hailHold := if s.hailWaits p then some s.time.ticks else x.hailHold })

/-- A changed partner: a remeasurement in progress is abandoned (R399). -/
def dropRemeasure (s : State) (p : Nat) : State :=
  if (s.port p).remeasure.isSome then
    (((s.bumpPort p .delayTimeout 1).modPort p (fun x => { x with remeasure := none })).endExchange p).dropTokens
      (fun t => t.activity == 2 && t.resource == p)
  else s

/-- A hail brings its identity: another partner than the entry's abandons a remeasurement, and
another than the record's ends what was measured of the old one (R58, R399). -/
def meetPartner (s : State) (p : Nat) (h : Hail) : State :=
  let s := if s.newPartner p h then s.dropRemeasure p else s
  (if s.otherPartner p h then s.dropDelay p else s).noteHail p h

/-- Where a port that leaves QUARANTINE goes: ALIGN, or DISCOVER while the tide frame or DELAY is not valid, or a drift abort
awaits a calibration (R60, R251, R263). -/
def leaveQuarantine (s : State) (p : Nat) : State :=
  if s.time.frame && s.delayForPartner p && !(s.port p).driftBar then s.enterAlign p else s.enterDiscover p

/-- Reasons of QUARANTINE that a hail which passes ends by itself (R263). -/
def hailEnds (r : Nat) : Bool := decide (1 ≤ r ∧ r ≤ 6) || r == 10

/-- A hail that passes on a port in QUARANTINE: from another partner it gives NEW_PARTNER in place of a reason that it ends;
else the port leaves where its reason allows (R262, R263). -/
def hailInQuarantine (s : State) (p : Nat) (fresh : Bool) : State :=
  let r := (s.port p).qreason
  if fresh then
    (if hailEnds r then s.modPort p (fun x => { x with qreason := 11 }) else s).enterQuarantine p 11
  else if hailEnds r || (r == 11 && s.delayForPartner p) then s.leaveQuarantine p
  else s

/-- A hail that passes every test is accepted (R262 to R265). -/
def acceptHail (s : State) (p : Nat) (h : Hail) : State :=
  let fresh := s.newPartner p h
  let s := s.meetPartner p h
  let s := s.modPort p (fun x => { x with lastHail := s.time.ticks, nb :=
    { x.nb with state := if fresh then .lost else .accepted, lastHail := s.now, seenChip := h.chip,
                seenSerial := h.serial.toNat, seenPort := h.port } })
  let s :=
    if (s.port p).link == .quarantine then s.hailInQuarantine p fresh
    else if fresh then s.quarantine p 11 else s
  let s := (s.needDelay p).tryAlign p
  (s.groupsOnPort p).foldl (fun s g => s.openOperand g) s

/-- A ring neighbour's hail that shows neither image hash ends the OPEN in progress of each group on its port (R298): the hail
of one that the image does not expect there is no neighbour's. -/
def endOpens (s : State) (p r : Nat) (h : Hail) : State :=
  if s.role p = 1 ∧ 2 < r ∧ s.imageMatch h.imageHash = 0 then
    (s.groupsOnPort p).foldl (fun s g =>
      if (s.group g).openAt.isSome && (s.group g).abort.isNone then (s.bump .imageMismatch).abortGroup g 0x07 else s) s
  else s

/-- A hail is judged (R261, R262); a refused one that changes the partner's identity marks the entry LOST too (R265). -/
def takeHail (s : State) (p : Nat) (h : Hail) : State :=
  if h.format != 1 then s.bumpPort p .cellMalformed 1
  else match s.hailFault p h with
  | some r =>
    let fresh := s.newPartner p h
    (((s.meetPartner p h).endOpens p r h).quarantine p r).modPort p (fun x =>
      { x with nb := { x.nb with state := if fresh then .lost else x.nb.state } })
  | none => s.acceptHail p h

/-! ### Delay exchanges (R256, R399) -/

/-- The automatic exchange of a port goes now: it is due or granted, and nothing else holds the port's resources (R399,
R401). -/
def autoGoes (s : State) (p : Nat) : Bool :=
  let x := s.port p
  x.link == .service && (x.exch == 1 || x.exch == 3)
    && (s.conflictBut (if x.exch = 3 then (2, p) else (0, 0)) 2 p).isNone

/-- The remeasurement in progress was asked for under the calibration token that the hall controller holds of the port, and
takes the timestamp unit from it (R402). -/
def measuresUnder (s : State) (p : Nat) : Bool := ((s.port p).remeasure.any (·.under)) && s.calToken p

/-- An exchange of a remeasurement goes now: after an automatic one that waits, but under the port's calibration token, where
it was asked for under it, it runs (R401, R402). -/
def measureGoes (s : State) (p : Nat) : Bool :=
  (s.port p).remeasure.isSome && (s.conflictBut (if s.measuresUnder p then (1, p) else (0, 0)) 2 p).isNone
    && ((s.port p).exch != 2 || s.measuresUnder p)

/-- A request goes out: at most one outstanding, and one in a tide; a hail that waits holds the neighbour entry (R256, R268,
R401). -/
def mayAskDelay (s : State) (p : Nat) : Bool :=
  trained (s.port p).link && (s.port p).delayReq.isNone && (s.port p).lastReq != some s.time.ticks
    && (s.autoGoes p || s.measureGoes p)

/-- Send a delay request with the transmit timestamp that its cell takes (R29, R256). -/
def askDelay (s : State) (p : Nat) (t1 : Stamp) : State :=
  let id := (s.port p).delayId
  let auto := s.autoGoes p
  (s.modPort p (fun y =>
    { y with delayReq := some { id := id, t1 := s.txPlane p t1, at_ := s.time.ticks, auto := auto },
             delayId := (id + 1) % 2 ^ 32, lastReq := some s.time.ticks, exch := if auto then 0 else y.exch })).sendVc3 p rankDelay tDelay 0 (delayPayload false id 0 0)

/-- Answer a delay request (R256). -/
def answerDelay (s : State) (p : Nat) (t2 t3 : Stamp) (request : Bytes) : State :=
  if rd request 0 1 = 0 then
    s.sendVc3 p rankDelay tDelay 0 (delayPayload true (rd request 4 4) (s.rxPlane p t2) (s.txPlane p t3))
  else s

/-- A delay response completes the exchange that its ID names: d := ((T4 − T1) − (T3 − T2)) / 2, rounded to the nearest
(R73, R256); the measured delay of every port but a time port (R60). -/
def takeDelay (s : State) (p : Nat) (t4 : Stamp) (response : Bytes) : State :=
  match (s.port p).delayReq with
  | some r =>
    if rd response 0 1 = 1 ∧ rd response 4 4 = r.id then
      let d : Units := roundAwayDiv
        ((s.rxPlane p t4 - r.t1) - (readTime (response.drop 0x14) - readTime (response.drop 8))) 2
      let s := if r.auto then s.endExchange p else (s.endExchange p).countExchange p d
      if s.sourceOf p == .none then s.measured p d else s
    else s
  | none => s

/-! ### PRBS (R257, R398) -/

/-- A PRBS cell against the sequence: the checker synchronises itself on the first cell, and again after a gap. -/
def takePrbs (s : State) (p : Nat) (payload : Bytes) : State :=
  let x := s.port p
  let seq := rd payload 0 4
  let bits := bitsOf (payload.drop 4)
  let r := match x.prbsRx with
    | some h => if x.prbsSeq = seq then prbsCheck h bits else prbsCheck (prbsSync bits) (bits.drop 31)
    | none => prbsCheck (prbsSync bits) (bits.drop 31)
  let s := s.modPort p (fun y => { y with prbsRx := some r.1, prbsSeq := (seq + 1) % 2 ^ 32 })
  if r.2 = 0 then s else s.bumpPort p .prbsErr r.2

/-! ### Staging (R21, R140, R151, R249) -/

/-- The chunk that a run expects in a slot in a tide, with the operation and the cell's index: from the plan of the
rail, the position of the slot in the lap's sequence, and the tide (R134 to R136). -/
def expectedIn (s : State) (tide : Nat) (r : ImgRun) (slot : Nat) : Option (OpView × Nat × Nat) :=
  let seq := s.sequence r.group r.rail r.port 1 r.use
  (s.launched r.group).findSome? (fun v =>
    let i := seq.idxOf slot
    if v.op.phase != .done && decide (v.d.slotPos ≤ i ∧ i < v.d.slotPos + chunkCellsOf v.d ∧ i < seq.length) then
      ((v.l.chunks.find? (fun c =>
        v.railOf c == r.rail &&
        (let start := v.startOf (v.roundOf c)
         if r.use = 0 then
           s.ebbRound v c && v.hop c != 1 && decide (tide + 1 = start + v.hop c - 1)
             && !((s.ctx v.g v.d.bucket c).map (·.ebbDone)).getD false
         else v.floodNo c != 0 && decide (tide + 1 = start + v.l.n - 1 + v.floodNo c)
             && !((s.ctx v.g v.d.bucket c).map (·.floodDone)).getD false))).map (fun c => (v, c, i - v.d.slotPos)))
    else none)

/-- What a run expects in a slot in this tide. -/
def expected (s : State) (r : ImgRun) (slot : Nat) : Option (OpView × Nat × Nat) := s.expectedIn s.now r slot

/-- Put a cell into staging, unless it is there. -/
def putStaged (s : State) (x : StagedCell) : State :=
  if s.staging.any (fun y => y.group == x.group && y.lap == x.lap && y.rail == x.rail && y.ref == x.ref
      && y.index == x.index && (x.lap != vc1Lap || y.port == x.port)) then s
  else { s with staging := s.staging ++ [x] }

/-- Stage a cell of a chunk; the member takes the chunk's context in this tide, the one before it processes the chunk
(R150, R151). -/
def stage (s : State) (v : OpView) (c lap p : Nat) (f : CellFields) (b : Bytes) : State :=
  let phase : CtxPhase := if lap = 0 then .ebbWait else .floodWait
  let s := s.takeCtx v c (s.chunkBay v c p 1 lap) phase
  let s := s.modCtx v.g v.d.bucket c (fun x => { x with phase := phaseOr x phase })
  s.putStaged { group := v.g, lap := lap, rail := v.railOf c, ref := f.ref, index := f.seq % 256, tide := s.now, cell := b,
                port := p }

/-- The chunk of an operation not launched here that a cell belongs to, for the token of R140. -/
def unlaunched (s : State) (g ref : Nat) : Option (Nat × Nat) :=
  (planOrder s.im g).findSome? (fun d =>
    ((List.range (chunkCount d)).find? (fun c => planRef s.im d c == ref)).map (fun c => (d.bucket, c)))

/-- A good VC0 cell in a first-send slot of a ring run (R140, R249). -/
def takeChunkCell (s : State) (p slot : Nat) (r : ImgRun) (f : CellFields) (b : Bytes) : State :=
  let ok := f.type == 2 && f.vc == 0 && f.cls == r.use && f.group == r.group && f.seq / 256 == s.now % 64
  match s.expected r slot with
  | some (v, c, i) =>
    if ok && f.ref == planRef s.im v.d c && f.seq % 256 == i then s.stage v c r.use p f b
    else if f.type == 0 then s.askRepeat p slot
    else (s.bumpPort p .cellMisplaced 1).askRepeat p slot
  | none =>
    if f.type == 0 then s
    else if ok && s.stepRuns r.group then
      match s.unlaunched r.group f.ref with
      | some (bk, c) =>
        if (s.launched r.group).any (fun v => v.d.bucket == bk) then s.bumpPort p .cellMisplaced 1
        else s.abort r.group 0x04 c bk
      | none => s.bumpPort p .cellMisplaced 1
    else s.bumpPort p .cellMisplaced 1

/-! ### VC1 blocks (R249, R325) -/

/-- A cell is the next one of the current or the next block, as far as the bad cells since the last good one may stand for
those between (R325; the latter a DESIGN CHOICE, log entry 97). -/
def blockFits (x : Vc1Rx) (ref index : Nat) : Bool :=
  let ahead := (ref + 2 ^ 18 - x.block) % 2 ^ 18
  if ahead = 0 then decide (x.next ≤ index ∧ index ≤ x.next + x.gaps) else decide (ahead + index ≤ x.gaps)

/-- The receiver's place after a cell. -/
def blockAfter (x : Vc1Rx) (ref index : Nat) (last : Bool) : Vc1Rx :=
  { x with block := if last then (ref + 1) % 2 ^ 18 else ref, next := if last then 0 else index + 1, gaps := 0,
           failed := x.failed && !last }

/-- A cell lies behind the receiver's place, in a block not processed yet. -/
def blockBehind (x : Vc1Rx) (ref index : Nat) : Bool :=
  let back := (x.block + 2 ^ 18 - ref) % 2 ^ 18
  if back = 0 then decide (index < x.next) else decide (back ≤ (x.block + 2 ^ 18 - x.take) % 2 ^ 18)

def stageBlock (s : State) (g rail p : Nat) (f : CellFields) (b : Bytes) : State :=
  s.putStaged { group := g, lap := vc1Lap, rail := rail, ref := f.ref, index := f.seq % 256, tide := s.now, cell := b,
                port := p }

/-- A cell of a VC1 slot is missing: a repeat is asked for. -/
def missBlock (s : State) (p slot : Nat) (r : ImgRun) : State :=
  (s.modBlock r.group p (fun x => { x with gaps := x.gaps + 1 })).askRepeat p slot

/-- A good cell in a first-send VC1 slot: IDLE, or the next cell of a block (R249, R325). -/
def takeBlockCell (s : State) (p slot : Nat) (r : ImgRun) (f : CellFields) (b : Bytes) : State :=
  if f.type == 0 then s
  else if f.type == tTransfer && f.vc == 1 && f.group == r.group && f.seq / 256 == s.now % 64
      && classFits f (s.blockCellsHeld r.group p f.ref)
      && blockFits (s.blockRx.get {} (blockKey r.group p)) f.ref (f.seq % 256) then
    (s.modBlock r.group p (fun x => blockAfter x f.ref (f.seq % 256) f.last)).stageBlock r.group r.rail p f b
  else (s.bumpPort p .cellMisplaced 1).missBlock p slot r

/-! ### Repeats as they arrive (R176, R249) -/

def repairedBy (s : State) (p : Nat) (a : Nat × Nat) : State :=
  s.modPort p (fun x => { x with repaired := x.repaired ++ [a] })

/-- The requested slot that a retransmission slot serves: both in ascending order (R176). -/
def servedBy (s : State) (p vc slot : Nat) : Option Nat :=
  (s.servable p vc)[(s.useSlots p 1 vc 2 (fun _ => true)).idxOf slot]?

/-- The request that a repeated chunk cell answers: its slot expected just this cell in the tide before (R249). -/
def repeatPlace (s : State) (p : Nat) (f : CellFields) : Option ((Nat × Nat) × OpView × Nat) :=
  (s.openRequests p).findSome? (fun a =>
    (s.runAt p 1 a.1).bind (fun r =>
      if r.vc = 0 && r.use == f.cls && r.group == f.group then
        (s.expectedIn (s.now - 1) r a.1).bind (fun (v, c, i) =>
          if planRef s.im v.d c = f.ref ∧ i = f.seq % 256 then some (a, v, c) else none)
      else none))

/-- The request that a repeated TRANSFER cell in a retransmission slot answers, with its run: the one that the slot serves
where it is of the cell's group, else the first of the group. -/
def blockPlace (s : State) (p slot : Nat) (f : CellFields) : Option ((Nat × Nat) × ImgRun) :=
  let all := s.openRequests p
  let served := all.filter (fun a => s.servedBy p 1 slot == some a.1)
  (served ++ all).findSome? (fun a =>
    (s.runAt p 1 a.1).bind (fun r => if r.vc = 1 && r.use == 0 && r.group == f.group then some (a, r) else none))

/-- A repeat is placed by its reference and sequence. -/
def takeRepeat (s : State) (p slot : Nat) (r : ImgRun) (f : CellFields) (b : Bytes) : State :=
  let fits := f.vc == r.vc && f.seq / 256 == (s.now - 1) % 64
  if fits && r.vc == 0 && f.type == 2 then
    match s.repeatPlace p f with
    | some (a, v, c) => (s.stage v c f.cls p f b).repairedBy p a
    | none => s.bumpPort p .cellMisplaced 1
  else if fits && r.vc == 1 && f.type == tTransfer && classFits f (s.blockCellsHeld f.group p f.ref) then
    match s.blockPlace p slot f with
    | some (a, r') =>
      let x := s.blockRx.get {} (blockKey f.group p)
      let i := f.seq % 256
      if blockBehind x f.ref i then (s.stageBlock f.group r'.rail p f b).repairedBy p a
      else if blockFits x f.ref i then
        ((s.modBlock f.group p (fun x => { blockAfter x f.ref i f.last with gaps := x.gaps })).stageBlock f.group r'.rail p f
          b).repairedBy p a
      else s.bumpPort p .cellMisplaced 1
    | none => s.bumpPort p .cellMisplaced 1
  else s.bumpPort p .cellMisplaced 1

/-! ### Cells of slots 8 to 1,023 (R173 to R178, R246, R247, R249, R263, R267) -/

/-- A cell that a VC0 or VC1 slot expected is missing: a repeat is asked for (R175, R249). A repeat has none. -/
def missing (s : State) (p slot : Nat) : State :=
  match s.runAt p 1 slot with
  | some r =>
    if !s.inService p || r.use ≠ 0 && (r.vc ≠ 0 || r.use ≠ 1) then s
    else if r.vc = 0 then (if (s.expected r slot).isSome then s.askRepeat p slot else s)
    else if r.vc = 1 then s.missBlock p slot r
    else s
  | none => s

/-- The VC of a slot of the frame received: in the tide frame by the table, which is the partner's too, VC3 where no run
covers the slot; in the local frame VC3 (R243, R246, R247, R263). -/
def slotVc (s : State) (p slot : Nat) : Nat := if s.receivesTide p then ((s.runAt p 1 slot).map (·.vc)).getD 3 else 3

/-- A bad cell, by its CRC, its HOP_CHECK or an uncorrectable codeword (R173, R174, R247). -/
def badCell (s : State) (p slot : Nat) : State :=
  let s := s.bumpPort p .crcFail 1
  let s := if s.slotVc p slot = 2 then s.bumpPort p .vc2CrcDrop 1 else s
  match s.runAt p 1 slot with
  | some r =>
    if decide (r.vc ≤ 1) && r.use == 2 && s.inService p then
      s.modPort p (fun x => { x with badRepeats := x.badRepeats ++ (s.servedBy p r.vc slot).toList })
    else s.missing p slot
  | none => s.missing p slot

/-- A good, well-formed cell in scheduled service against its slot's expectation (R249). -/
def placeCell (s : State) (p slot : Nat) (f : CellFields) (b : Bytes) : State :=
  match s.runAt p 1 slot with
  | some r =>
    if r.vc = 0 && r.use ≤ 1 then s.takeChunkCell p slot r f b
    else if r.vc ≤ 1 && r.use = 2 then (if f.type = 0 then s else s.takeRepeat p slot r f b)
    else if r.vc = 1 then s.takeBlockCell p slot r f b
    else if r.vc = 2 then (if f.type = 0 ∨ f.type = tFlow ∧ f.vc = 2 then s else s.bumpPort p .cellMisplaced 1)
    else if f.type = 0 ∨ f.vc = 3 then s else s.bumpPort p .cellMisplaced 1
  | none => if f.type = 0 ∨ f.vc = 3 then s else s.bumpPort p .cellMisplaced 1

/-- A good, well-formed cell in a port outside scheduled service: in the tide frame its slot's VC judges it, where a VC0 or
VC1 slot expects nothing; in QUARANTINE the cells of VC0 to VC2 are discarded (R249, R263). In the local frame a cell of VC0
to VC2 is misplaced (DESIGN CHOICE, log entry 122: R249 speaks of the tide frame only). -/
def placeOther (s : State) (p slot : Nat) (f : CellFields) : State :=
  let v := s.slotVc p slot
  if f.type = 0 then s
  else if (s.port p).link == .quarantine && f.vc != 3 then s.bumpPort p .quarantineDrop 1
  else if (f.vc = 3 ∧ v = 3) ∨ (f.vc = 2 ∧ v = 2) then s
  else s.bumpPort p .cellMisplaced 1

/-- A cell does not fit the table of R246, an IDLE cell the VC of its slot in the frame received. -/
def malformed (s : State) (p slot : Nat) (f : CellFields) : Bool :=
  !shapeOk f || (f.type == 0 && f.vc != s.slotVc p slot)

/-- A cell of slots 8 to 1,023 is received. One of VC0 to VC2 from a TIME_NODE on a port in QUARANTINE counts once, as dropped
there (DESIGN CHOICE, log entry 144: R263 and R267 each name a counter). -/
def receiveSlot (s : State) (p slot delimiter : Nat) (fecBad : Bool) (b : Bytes) : State :=
  let s := if delimiter = slot then s else s.bumpPort p .delimErr 1
  let f := readCell b
  if fecBad || !cellOk b then s.badCell p slot
  else
    let s := s.collectRequest p b
    if s.malformed p slot f then (s.bumpPort p .cellMalformed 1).missing p slot
    else if (s.port p).link != .quarantine && (s.port p).nb.role == 4 && f.type != 0 && f.vc != 3 then
      s.bumpPort p .cellMisplaced 1
    else if s.inService p then s.placeCell p slot f b
    else s.placeOther p slot f

/-! ### Retransmission (R176, R178) -/

/-- The rail that a transmit slot belongs to may carry scheduled cells (R133). -/
def slotServes (s : State) (p slot : Nat) : Bool :=
  match s.runAt p 0 slot with
  | some r => s.railServes r.group r.rail
  | none => false

/-- The collected requests of a VC for the tide before, ascending, whose rails may carry scheduled cells. -/
def wanted (s : State) (p vc : Nat) : List Nat :=
  sortBy (fun a b => decide (a ≤ b))
    (((s.port p).requests.filter (fun q => decide (q.2 + 1 = s.now) && s.slotServes p q.1
      && (s.port p).kept.any (fun k => k.slot == q.1 && k.tide == q.2 && k.vc == vc))).map (·.1))

/-- The requests for VC1 slots of the tide before that carried no cell (R176). -/
def unmet (s : State) (p : Nat) : Nat :=
  (s.port p).requests.countP (fun q => decide (q.2 + 1 = s.now)
    && !(s.port p).kept.any (fun k => k.slot == q.1 && k.tide == q.2))

/-- The kept copy of a slot of the tide before. -/
def keptCell (s : State) (p vc slot : Nat) : Option KeptCell :=
  (s.port p).kept.find? (fun k => k.slot == slot && decide (k.tide + 1 = s.now) && k.vc == vc)

/-- The requests are served, one per retransmission slot of the frame in progress, in ascending order of both. -/
def serveRepeats (s : State) (p vc : Nat) : State :=
  let want := s.wanted p vc
  let served := want.zip (s.useSlots p 0 vc 2 (fun _ => true))
  let lost := want.length - served.length
  let out := served.filterMap (fun x => (s.keptCell p vc x.1).map (fun k => (x.2, asRepeat k.cell)))
  let s := if out.isEmpty then s else s.bumpPort p .retxSent out.length
  let s := if lost = 0 then s else s.bumpPort p .retxOverflow lost
  let s := if vc = 1 ∧ s.unmet p ≠ 0 then s.bumpPort p .retxStale (s.unmet p) else s
  s.modPort p (fun x =>
    { x with retxDone := addOnce x.retxDone vc, tx := out.foldl (fun t y => t.set y.1 y.2) x.tx })

end State

/-- PORT_ENABLE (R251, R349). -/
def execPortEnable (tag port : Nat) (s : State) : Result :=
  whenRunning s (fun s => s.asPriv tag (portReg port) true (fun s =>
    if port < 24 then (s.modPort port (fun x => { x with enable := true })).startPort port else s))

/-- PORT_DISABLE (R252, R349). -/
def execPortDisable (tag port : Nat) (s : State) : Result :=
  whenRunning s (fun s => s.asPriv tag (portReg port) true (fun s =>
    if port < 24 then (s.modPort port (fun x => { x with enable := false })).leaveTraining port .off else s))

/-- RETRAIN (R252, R263). -/
def execRetrain (tag port : Nat) (s : State) : Result :=
  whenRunning s (fun s => s.asPriv tag (portReg port) true (fun s => if port < 24 then s.retrainPort port else s))

/-- PRBS_ENABLE (R398). -/
def execPrbsEnable (tag port : Nat) (s : State) : Result :=
  whenRunning s (fun s => s.asPriv tag (portReg port) true (fun s => if port < 24 then s.setPrbs port true else s))

/-- DELAY_MEAS (R58, R349). -/
def execDelayMeas (tag port : Nat) (s : State) : Result :=
  whenRunning s (fun s => s.asPriv tag (portReg port) true (fun s => if port < 24 then s.askRemeasure port else s))

/-- SIGNAL_LOCK (R240, R251). -/
def execSignalLock (port : Nat) (polarity : BitVec 4) (s : State) : Result :=
  whenRunning s (fun s =>
    if (s.port port).link == .signal then
      s.modPort port (fun x => { x with link := .frame, polarity := polarity, leftSignal := true })
    else s)

/-- SIGNAL_TRAIN_TIMEOUT (R251). -/
def execSignalTrainTimeout (port : Nat) (s : State) : Result :=
  whenRunning s (fun s => if (s.port port).link == .signal then s.bumpPort port .linkTrainFail 1 else s)

/-- FRAME_LOCK (R251, R264): the port enters DISCOVER and hails. -/
def execFrameLock (port : Nat) (s : State) : Result :=
  whenRunning s (fun s =>
    if (s.port port).link == .frame then
      (s.enterDiscover port).modPort port (fun x => { x with lastHail := s.time.ticks, nb := { x.nb with state := .none } })
    else s)

/-- ALIGN_COMPLETE (R251). -/
def execAlignComplete (port : Nat) (s : State) : Result :=
  whenRunning s (fun s =>
    if (s.port port).link == .align && decide (64 ≤ (s.port port).marks) && s.time.frame then
      let s := s.modPort port (fun x => { x with link := .service, marks := 0 })
      (s.groupsOnPort port).foldl (fun s g => s.openOperand g) s
    else s)

/-- LINK_LOSS (R252): each cause has the same effect. -/
def execLinkLoss (port : Nat) (_cause : LossCause) (s : State) : Result :=
  whenRunning s (fun s => if trained (s.port port).link then s.leaveTraining port .signal else s)

/-- FEC_DEGRADE_CHECK (R241, R252): a second holds 390,625 frames of 410 codewords of 544 symbols. -/
def execFecDegradeCheck (port corrected : Nat) (s : State) : Result :=
  whenRunning s (fun s =>
    if trained (s.port port).link && decide (390625 * 410 * 544 < corrected * 100000) then
      (s.bumpPort port .fecDegrade 1).raise
        { type := 0x0051, severity := 2, subject := port, arg := Nat.min corrected 0xFFFFFFFF, rings := s.ringsE }
    else s)

/-- CHUNK_CELL_RECEIVED (R173 to R176, R246, R247, R249, R263, R267): a cell of slots 8 to 1,023. The cells of VC2 and VC3
that it lets stand are those of the commands of their types. -/
def execChunkCellReceived (port slot delimiter : Nat) (fecBad : Bool) (cell : Bytes) (s : State) : Result :=
  whenRunning s (fun s =>
    if trained (s.port port).link then s.receiveSlot port slot delimiter fecBad (padTo 256 cell) else s)

/-- RETRANSMISSION (R176): the retransmission slots of a VC, once in a tide. -/
def execRetransmission (port vc : Nat) (s : State) : Result :=
  whenRunning s (fun s =>
    if s.inService port && decide (vc ≤ 1) && !(s.port port).retxDone.contains vc then s.serveRepeats port vc else s)

/-- HAIL_SEND (R259): the hail of the schedule falls due; the port's next free VC3 slot carries it (R45, R253). -/
def execHailSend (port : Nat) (s : State) : Result :=
  whenRunning s (fun s => if s.hailTideDue port then s.askHail port else s)

/-- HAIL_RECEIVED (R261 to R265). -/
def execHailReceived (port : Nat) (cell : Bytes) (s : State) : Result :=
  whenRunning s (fun s => s.withCell port tHail cell (fun s c => s.takeHail port (readHail c.payload)))

/-- QUARANTINE_EFFECT (R263): at the boundary after the tide in which the quarantine arose. -/
def execQuarantineEffect (port : Nat) (s : State) : Result :=
  whenRunning s (fun s => s.quarantineDue port)

/-- HAIL_TIMEOUT (R262, R265): 2,048 tides without an accepted hail mark the entry LOST; an entry that was ACCEPTED brings the
port into QUARANTINE, one already QUARANTINED keeps its reason. -/
def execHailTimeout (port : Nat) (s : State) : Result :=
  whenRunning s (fun s =>
    let x := s.port port
    if trained x.link && (x.nb.state == .accepted || x.nb.state == .quarantined)
        && decide (x.lastHail + 2048 ≤ s.time.ticks) then
      let s := s.bumpPort port .hailLost 1
      let s := s.modPort port (fun x => { x with nb := { x.nb with state := .lost } })
      if x.nb.state == .accepted then s.quarantine port 10 else s
    else s)

/-- DELAY_EXCHANGE (R256, R399). -/
def execDelayExchange (port : Nat) (t1 : Stamp) (s : State) : Result :=
  whenRunning s (fun s => if s.mayAskDelay port then s.askDelay port t1 else s)

/-- DELAY_REQUEST_RECEIVED (R256). -/
def execDelayRequestReceived (port : Nat) (t2 t3 : Stamp) (cell : Bytes) (s : State) : Result :=
  whenRunning s (fun s => s.withCell port tDelay cell (fun s c => s.answerDelay port t2 t3 c.payload))

/-- DELAY_RESPONSE_RECEIVED (R60, R256). -/
def execDelayResponseReceived (port : Nat) (t4 : Stamp) (cell : Bytes) (s : State) : Result :=
  whenRunning s (fun s => s.withCell port tDelay cell (fun s c => s.takeDelay port t4 c.payload))

/-- DELAY_TIMEOUT (R256): abandoned after 16 tides, and not among the 64 of a remeasurement (R268). -/
def execDelayTimeout (port : Nat) (s : State) : Result :=
  whenRunning s (fun s =>
    match (s.port port).delayReq with
    | some r => if r.at_ + 16 ≤ s.time.ticks then (s.bumpPort port .delayTimeout 1).endExchange port else s
    | none => s)

/-- PRBS_CELL_RECEIVED (R257, R398). -/
def execPrbsCellReceived (port : Nat) (cell : Bytes) (s : State) : Result :=
  whenRunning s (fun s => s.withCell port tPrbs cell (fun s c => s.takePrbs port c.payload))

end Sys2Proof.Machine
end

