-- ==== Sys2Proof/Machine/Queues.lean ====
section
/-! DEFINITION. Commands of queues (R311 to R316, R426) and of trigger counters (R318, R321, R322, R363). -/

namespace Sys2Proof.Machine

open Sys2Proof

namespace State

/-! ### Indices and control (R312, R314) -/

/-- The QUEUE_INDEX event of an ignored index write (R312, R388). -/
def indexEvent (s : State) (g which : Nat) (value : Word32) : State :=
  s.raise { type := 0x0021, severity := 2, group := some g, subject := which, arg := value.toNat, rings := s.ringsG g }

/-- An index write that takes no effect. -/
def badIndex (s : State) (g which : Nat) (value : Word32) : State :=
  (s.modQueue g (fun q => { q with tailErr := true })).indexEvent g which value

/-- A new QUEUE_TAIL t is good: 0 ≤ t − QUEUE_FETCH and t − COMPL_HEAD ≤ 1,024 (R312). -/
def tailOk (q : Queue) (t : Word32) : Bool :=
  atOrAfter 32 t.toNat q.fetch.toNat && decide (signed 32 (t - q.complHead).toNat ≤ 1024)

/-- A new consumer index h is good: 0 ≤ h − old and h − tail ≤ 0 (R312). -/
def headOk (old tail h : Word32) : Bool := atOrAfter 32 h.toNat old.toNat && atOrAfter 32 tail.toNat h.toNat

/-- The doorbell (R309, R312). -/
def writeTail (s : State) (g : Nat) (value : Word32) : State :=
  if s.quiescing g then s
  else if tailOk (s.queue g) value then s.modQueue g (fun q => { q with tail := value })
  else s.badIndex g 0 value

/-- COMPL_HEAD: records waiting for room are written (R312, R313). -/
def writeComplHead (s : State) (g : Nat) (value : Word32) : State :=
  let q := s.queue g
  if headOk q.complHead q.complTail value then
    let keep := (q.complTail - value).toNat
    let s := s.setQueue g { q with complHead := value, written := q.written.drop (q.written.length - keep) }
    s.flushQueue g
  else s.badIndex g 1 value

/-- A ring base of an owner satisfies R311: a multiple of 4 KiB, and in compute memory inside a window for its whole
extent. -/
def baseOkFor (s : State) (owner base bytes : Nat) : Bool :=
  base % 4096 == 0 && (decide (2 ^ 63 ≤ base) || s.regionOk owner base bytes)

/-- A base of a group's queue satisfies R311. -/
def baseOk (s : State) (g base bytes : Nat) : Bool := s.baseOkFor (s.ownerOr8 g) base bytes

/-- START: the records that failed are written again, and the member may enter the OPEN (R314, R331). -/
def startQueue (s : State) (g : Nat) : State :=
  let q := s.queue g
  if q.state == .stopped && s.baseOk g q.base 65536 && s.baseOk g q.complBase 32768 then
    let s := s.setQueue g { q with state := .running, complErr := false }
    ((s.flushQueue g).askWake).tryEnterOpen g
  else s

/-- Some fetched operation keeps the queue STOPPING, or the open step's COMMIT is still to come (R426). -/
def outstanding (s : State) (g : Nat) : Bool :=
  s.stepIsOpen g
    || (s.queue g).ops.any (fun o => !Desc.isStep o.raw && o.phase != .done)

/-- STOP (R314, R426). -/
def stopQueue (s : State) (g : Nat) : State :=
  if (s.queue g).state == .running then
    s.modQueue g (fun q => { q with state := if s.outstanding g then .stopping else .stopped, waitedAt := none })
  else s

def clearQueueErr (s : State) (g : Nat) : State :=
  if (s.queue g).state == .error then s.modQueue g (fun q => { q with state := .stopped }) else s

/-- A QUEUE_CTRL write with any of its bits: CLEAR_ERR, START, then STOP (DESIGN CHOICE, log entry 145: R314 gives no order
among the bits of one write). -/
def queueCtrl (s : State) (g v : Nat) : State :=
  let s := if bitAt v 2 then s.clearQueueErr g else s
  let s := if bitAt v 0 then s.startQueue g else s
  if bitAt v 1 then s.stopQueue g else s

/-! ### Fetching (R315, R316) -/

/-- Fetching goes on: RUNNING, or STOPPING or QUIESCING up to the COMMIT of the open step. A STOP or DETACH after the vote
leaves step s + 1 to follow directly (R204), and fetching goes on to its COMMIT (DEDUCED, log entry 129). -/
def mayFetch (s : State) (g : Nat) : Bool :=
  let q := s.queue g
  let upToCommit := s.stepIsOpen g && (s.commitOp g).isNone
  q.tail != q.fetch
    && ((q.state == .running && !s.quiescing g) || ((q.state == .running || q.state == .stopping) && upToCommit))

/-- The queue enters ERROR (R315). -/
def queueFault (s : State) (g addr compl : Nat) : State :=
  (s.modQueue g (fun q => { q with state := .error, fetchErr := true })).raise
    { type := 0x0022, severity := 3, group := some g, subject := addr, arg := compl, rings := s.ringsG g }

/-- Records from number `n` on were not written: they wait again, and their adds have not been made (R328, R331). -/
def unwrite (s : State) (g n : Nat) : State :=
  let q := s.queue g
  let k := (q.complTail - BitVec.ofNat 32 n).toNat
  if k = 0 ∨ q.written.length < k then s
  else
    let back := q.written.drop (q.written.length - k)
    let s := s.setQueue g { q with written := q.written.take (q.written.length - k), due := back ++ q.due,
                                   complTail := BitVec.ofNat 32 n, complErr := true }
    let s := back.foldl (fun s r => match r.add with
      | some (c, v) => s.setTrigger c (s.trigger c - BitVec.ofNat 32 v)
      | none => s) s
    s.queueFault g (q.complBase + 32 * (n % 1024)) 1

/-- Some ring record of the group names the engine, under any table (R316). -/
def everMember (s : State) (g : Nat) : Bool :=
  s.im.rings.any (fun r => r.group == g && r.members.any (fun m => m.chip == s.ident.hallChip))

/-- A fetched descriptor joins the queue's operations; what cannot run completes at once (R199, R316, R320). -/
def takeDescriptor (s : State) (g : Nat) (raw : Bytes) : State :=
  let q := s.queue g
  let express := Desc.opcode raw == Desc.opBarrier || Desc.opcode raw == Desc.opScalar
  let op : QueueOp := { index := q.fetch.toNat, raw := raw, seq := if express then q.seq else 0,
                        varied := Desc.opcode raw ≤ Desc.opGet && Desc.opPut ≤ Desc.opcode raw && Desc.service raw == 1 }
  let s := s.setQueue g { q with fetch := q.fetch + 1, ops := q.ops ++ [op],
                                 seq := if express then (q.seq + 1) % 2 ^ 14 else q.seq }
  let i := op.index
  if Desc.isStep raw then
    if !s.everMember g then (s.noteRefusal g i 0x06 raw).complete g op 0x06 0 false |>.dropStepOps g [op]
    else if (s.group g).openRefused then (s.complete g op 0x09 0 false).dropStepOps g [op]
    else (s.checkReleased g).pollReady g
  else if (Desc.opcode raw == Desc.opPut || Desc.opcode raw == Desc.opGet) && !s.everMember g then
    (s.noteRefusal g i 0x06 raw).completeAlone g op 0x06 0
  else
    match s.fetchFault g raw with
    | some code => (s.noteRefusal g i code raw).completeAlone g op code 0
    | none => s

/-! ### Trigger counters -/

/-- A tag may name a trigger counter: the privileged view any, a partition those of its range (R304, R363). -/
def trigReach (s : State) (tag n : Nat) : Bool :=
  s.tagPriv tag || (s.tagLive tag && s.triggerOk tag n)

/-- Address of a counter's register in the window its tag uses. -/
def trigAddr (s : State) (tag n off : Nat) : Nat :=
  if s.tagPriv tag then 0x090000 + 8 * n + off else windowBase tag + 0x10000 + 8 * n + off

/-- An access to a trigger counter. -/
def asTrigger (s : State) (tag n off : Nat) (f : State → State) : State :=
  if tag > 8 ∨ 4096 ≤ n then s
  else
    let s := s.touch tag
    if s.trigReach tag n then f s else s.violation tag (s.trigAddr tag n off) true

/-- TRIG_VALUE. -/
def writeTrigger (s : State) (n : Nat) (v : Word32) : State := ((s.setTrigger n v).pollReadyAll).wakeIfReady

/-- TRIG_ADD, at an address; an add to a counter of a DETACHED partition is dropped (R331). -/
def agentAdd (s : State) (tag n addr v : Nat) : State :=
  if s.trigDetached n then
    s.dropAdd tag addr (tag + 2 ^ 4)
  else ((s.addTrigger n v).pollReadyAll).wakeIfReady

end State

/-- QUEUE_TAIL_WRITE (R309, R312). -/
def execQueueTailWrite (tag group : Nat) (value : Word32) (s : State) : Result :=
  whenRunning s (fun s => s.asQueue tag group (State.doorbell group 0) true (fun s => s.writeTail group value))

/-- COMPL_HEAD_WRITE (R312). -/
def execComplHeadWrite (tag group : Nat) (value : Word32) (s : State) : Result :=
  whenRunning s (fun s => s.asQueue tag group (State.doorbell group 4) true (fun s => s.writeComplHead group value))

/-- QUEUE_START (R314). -/
def execQueueStart (tag group : Nat) (s : State) : Result :=
  whenRunning s (fun s => s.asQueue tag group (State.block group 0x10) true (fun s => s.startQueue group))

/-- QUEUE_STOP (R314, R426). -/
def execQueueStop (tag group : Nat) (s : State) : Result :=
  whenRunning s (fun s => s.asQueue tag group (State.block group 0x10) true (fun s => s.stopQueue group))

/-- CLEAR_ERR (R314). -/
def execClearErr (tag group : Nat) (s : State) : Result :=
  whenRunning s (fun s => s.asQueue tag group (State.block group 0x10) true (fun s => s.clearQueueErr group))

/-- QUEUE_STOPPED (R426): in the tide after the last completion waited for. -/
def execQueueStopped (group : Nat) (s : State) : Result :=
  whenRunning s (fun s =>
    if (s.queue group).state == .stopping && !s.outstanding group && (s.queue group).waitedAt != some s.now then
      s.modQueue group (fun q => { q with state := .stopped })
    else s)

/-- DESCRIPTOR_FETCH (R315, R316). -/
def execDescriptorFetch (group : Nat) (res : FetchResult) (s : State) : Result :=
  whenRunning s (fun s =>
    match res with
    | .complFault n => if (s.queue group).complErr then s else s.unwrite group n
    | .fetchFault =>
      if s.mayFetch group then
        s.queueFault group ((s.queue group).base + 64 * ((s.queue group).fetch.toNat % 1024)) 0
      else s
    | .data b => if s.mayFetch group then (s.takeDescriptor group (padTo 64 b)).wakeIfReady else s)

/-- TRIG_VALUE_WRITE (R321). -/
def execTrigValueWrite (tag counter : Nat) (value : Word32) (s : State) : Result :=
  whenRunning s (fun s => s.asTrigger tag counter 0 (fun s => s.writeTrigger counter value))

/-- TRIG_ADD (R321, R331). -/
def execTrigAdd (tag counter : Nat) (value : Word32) (s : State) : Result :=
  whenRunning s (fun s => s.asTrigger tag counter 4 (fun s => s.agentAdd tag counter (s.trigAddr tag counter 4) value.toNat))

/-- TRIGGER_ADD (R318, R331): the add, then the completion in the same tide. -/
def execTriggerAdd (group index : Nat) (s : State) : Result :=
  whenRunning s (fun s =>
    match s.readyOp group index Desc.opTriggerAdd with
    | some op => ((s.queueAdd group index (Desc.target op.raw) (Desc.amount op.raw)).completeAlone group op 0 0).pollReadyAll
    | none => s)

/-- FENCE (R318): every earlier descriptor of the queue has completed. -/
def execFence (group index : Nat) (s : State) : Result :=
  whenRunning s (fun s =>
    match s.readyOp group index Desc.opFence with
    | some op =>
      if ((s.queue group).ops.takeWhile (fun o => o.index != index)).all (fun o => o.phase == .done) then
        ((s.completeAlone group op 0 0).checkReleased group).pollReadyAll
      else s
    | none => s)

end Sys2Proof.Machine
end

