-- ==== Sys2Proof/Machine/Partitions.lean ====
section
/-! DEFINITION. Commands of partitions (R303, R308 to R310, R345): attach, quiesce, detach, and the grants of the
privileged view. -/

namespace Sys2Proof.Machine

open Sys2Proof

/-- Addresses of PRIV_GRANT and PARTITION_CTRL. -/
def privGrantReg : Nat := 0x004000
def partCtrlReg : Nat := 0x004004

namespace State

/-- Groups of a partition (R306). -/
def partGroups (s : State) (p : Nat) : List Nat := (s.im.groups.filter (fun d => d.owner == p)).map (·.group)

/-- Clear the trigger counters of a partition's range. -/
def clearTriggers (s : State) (p : Nat) : State :=
  let e := s.im.partDesc p
  { s with triggers := s.triggers.filter (fun x => !decide (e.trigFirst ≤ x.1 ∧ x.1 < e.trigFirst + e.trigCount)) }

/-- Clear the partition's copies of the counters (R361). -/
def clearCopies (s : State) (p : Nat) : State :=
  { s with stats := { s.stats with part := s.stats.part.filter (fun x => x.1 / 32 != p) } }

/-- Every register of the partition window at its reset value (R308). Snapshot page p is numbered p + 1. -/
def resetWindow (s : State) (p : Nat) : State :=
  let gs := s.partGroups p
  let s := { s with queues := s.queues.filter (fun q => !gs.contains q.1),
                    areas := s.areas.map (fun (x : Nat × Area) =>
                      (x.1, { x.2 with waiting := x.2.waiting.filter (fun o => !gs.contains o.group) })) }
  (((s.clearTriggers p).clearCopies p).setRing p {}).setSnap (p + 1) {}

/-- A command of PARTITION_CTRL that the partition's state does not admit (R345). -/
def ignorePart (s : State) : State := { s with parts := { s.parts with cmdIgnored := true } }

/-! ### A pending activation that is withdrawn (R294, R297) -/

/-- Held groups continue at once. -/
def releaseHeld (s : State) : State :=
  let gs := (s.groups.filter (fun x => x.2.actHeld)).map (fun (x : Nat × Group) => x.1)
  (gs.foldl (fun s g => s.modGroup g (fun x => { x with actHeld := false })) s).tryEnterOpens gs

/-- A pending activation is cancelled for a reason of R297; 0 leaves ACT_REFUSAL as it is (CANCEL). -/
def cancelActivation (s : State) (reason : Nat) : State :=
  match s.image.pending with
  | some _ =>
    ({ s with image := { s.image with pending := none,
                                      actRefusal := if reason = 0 then s.image.actRefusal else reason } }).releaseHeld
  | none => s

/-- The verified shadow image changes a partition's entry. -/
def entryChanges (s : State) (p : Nat) : Bool :=
  match s.image.shadow.image with
  | some im => im.partDesc p != s.im.partDesc p
  | none => false

/-- ATTACH (R308, R331). -/
def attach (s : State) (p : Nat) : State :=
  if s.pstate p == .detached && (s.im.partDesc p).valid then
    let s := s.resetWindow p
    let s := if s.entryChanges p then s.cancelActivation 4 else s
    { s with parts := { s.parts with attachAsked := addOnce s.parts.attachAsked p } }
  else s.ignorePart

/-- DETACH (R309). -/
def detach (s : State) (p : Nat) : State :=
  if s.pstate p == .attached then s.setPstate p .quiescing else s.ignorePart

def isTransfer (b : Bytes) : Bool := Desc.opcode b == Desc.opPut || Desc.opcode b == Desc.opGet
def isSpill (b : Bytes) : Bool := Desc.opcode b == Desc.opSpillStore || Desc.opcode b == Desc.opSpillLoad

/-- Blocks of stopped transfers that have not begun leave a port's VC1 queue; `drop` lists the rails of the group whose
block in progress is one. -/
def dropUnsent (g : Nat) (stopped : List Nat) : List Nat → List (Nat × CellFields) → List (Nat × CellFields)
  | _, [] => []
  | drop, c :: q =>
    if c.2.group ≠ g then c :: dropUnsent g stopped drop q
    else
      let drop :=
        if c.2.seq ≠ 0 then drop
        else if rd c.2.payload 0 1 ≤ kGetRequest && stopped.contains (rd c.2.payload 0x18 4) then c.1 :: drop
        else drop.filter (· != c.1)
      if drop.contains c.1 then dropUnsent g stopped drop q else c :: dropUnsent g stopped drop q

/-- A stopped transfer sends the block that a payload begins. -/
def blockOf (o : QueueOp) (b : Bytes) : Bool :=
  let h := readHeader b
  h.kind == (if Desc.opcode o.raw = Desc.opPut then kPut else kGetRequest) && h.transfer == o.index
    && h.addr == Desc.remoteAddr o.raw + (if h.kind = kPut then blockMax * h.block else 0)

/-- The same on a flow; `starts`: the next cell begins a block. -/
def dropUnsentFlow (stopped : List QueueOp) : Bool → Bool → List (Bytes × Bool) → List (Bytes × Bool)
  | _, _, [] => []
  | starts, drop, c :: q =>
    let d := if starts then stopped.any (fun o => blockOf o c.1) else drop
    if d then dropUnsentFlow stopped c.2 d q else c :: dropUnsentFlow stopped c.2 d q

/-- The cells of stopped transfers that a flow has not sent leave it; a block in progress goes on. -/
def stopFlow (stopped : List QueueOp) (w : Flow) : Flow :=
  fillWindow { w with unacked := w.unacked.take w.begun,
                      waiting := dropUnsentFlow stopped (flowStarts w) false (w.unacked.drop w.begun ++ w.waiting) }

/-- The PUT and GET operations of a group stop without a completion: their blocks that have not begun are not sent (R310; a
block in progress goes on, DESIGN CHOICE, log entry 97: its cells are numbered). -/
def stopTransfers (s : State) (g : Nat) : State :=
  let run := (s.queue g).ops.filter (fun o => isTransfer o.raw && o.phase == .running)
  let ports := run.filterMap (fun o => s.transferPort g (Desc.rail o.raw) (Desc.peer o.raw == 0))
  let s := { s with xfers := s.xfers.filter (fun x => x.group != g) }
  let s := (ports.eraseDups).foldl (fun s p =>
    s.modPort p (fun x => { x with vc1 := dropUnsent g (run.map (·.index)) [] x.vc1 })) s
  let s := run.foldl (fun s o =>
    if Desc.service o.raw = 0 then s
    else match s.transferPort g (Desc.rail o.raw) (Desc.peer o.raw == 0) with
      | some p => s.setFlow (flowKey p (Desc.flowNo o.raw)) (stopFlow run (s.flow (flowKey p (Desc.flowNo o.raw))))
      | none => s) s
  s.modQueue g (fun q => { q with ops := q.ops.filter (fun o => !(isTransfer o.raw && o.phase == .running)) })

/-- FORCE_DETACH (R310). -/
def forceDetach (s : State) (p : Nat) : State :=
  if s.pstate p == .quiescing then
    let s := { s with parts := { s.parts with forced := addOnce s.parts.forced p } }
    (s.partGroups p).foldl (fun s g =>
      let s := s.stopTransfers g
      if (s.group g).state != .closed || s.stepIsOpen g then s.discardStep g else s) s
  else s.ignorePart

/-- Operations that a quiesce still waits for: those that run, and the TRIGGER_ADD and FENCE operations that no
operation never to be started holds back (R309). -/
def remaining : List QueueOp → Bool → Bool
  | [], _ => false
  | o :: l, unstarted =>
    if o.phase = .done then remaining l unstarted
    else if o.phase = .running ∨ o.phase = .deferred then true
    else if Desc.opcode o.raw = Desc.opFence then (if unstarted then remaining_ l else true)
    else if Desc.opcode o.raw = Desc.opTriggerAdd then true
    else remaining l true
where
  /-- Behind a FENCE that never completes, only what runs already remains. -/
  remaining_ (l : List QueueOp) : Bool := l.any (fun o => o.phase == .running || o.phase == .deferred)

/-- Every group of the partition is CLOSED or held, and no operation remains (R309). -/
def quiet (s : State) (p : Nat) : Bool :=
  (s.partGroups p).all (fun g =>
    (s.group g).state == .closed && !s.stepIsOpen g && !remaining (s.queue g).ops false)

/-- The partition returns to DETACHED (R309). The records of completions still to be
written go first (R328); its window reads as after reset from then on (R364). -/
def finishDetach (s : State) (p : Nat) : State :=
  let forced := s.parts.forced.contains p
  let s := (s.partGroups p).foldl (fun s g => flushDue true ((s.queue g).due.length) s g) s
  let s := (s.resetWindow p).setPstate p .detached
  let s := { s with parts := { s.parts with forced := s.parts.forced.filter (· != p) } }
  s.raise { type := 0x0023, severity := 1, subject := p, arg := bnat forced, rings := s.ringsE }

/-- A partition becomes QUIESCED (R309). -/
def quiesce (s : State) (p : Nat) : State :=
  let s := s.setPstate p .quiesced
  { s with parts := { s.parts with quietAt := s.parts.quietAt.set p s.time.ticks } }

/-- PRIV_GRANT bit by bit: cleared, or set where the entry is PRIVILEGED (R303). -/
def grant (s : State) (v : Nat) : State :=
  let bits := (List.range 8).map (fun p =>
    bnat (bitAt v p && (bitAt s.parts.privGrant.toNat p || (s.im.partDesc p).privileged)) * 2 ^ p)
  { s with parts := { s.parts with privGrant := BitVec.ofNat 8 (bits.foldl (· + ·) 0) } }

end State

/-- ATTACH (R308, R345). -/
def execAttach (tag part : Nat) (s : State) : Result :=
  whenRunning s (fun s => s.asPriv tag partCtrlReg true (fun s => s.attach (part % 8)))

/-- DETACH (R309, R345). -/
def execDetach (tag part : Nat) (s : State) : Result :=
  whenRunning s (fun s => s.asPriv tag partCtrlReg true (fun s => s.detach (part % 8)))

/-- FORCE_DETACH (R310, R345). -/
def execForceDetach (tag part : Nat) (s : State) : Result :=
  whenRunning s (fun s => s.asPriv tag partCtrlReg true (fun s => s.forceDetach (part % 8)))

/-- QUIESCED (R309). -/
def execQuiesced (part : Nat) (s : State) : Result :=
  whenRunning s (fun s =>
    if s.pstate part == .quiescing && s.quiet part then s.quiesce part else s)

/-- DETACH_COMPLETE (R309): at the boundary after the partition became QUIESCED. -/
def execDetachComplete (part : Nat) (s : State) : Result :=
  whenRunning s (fun s =>
    if s.pstate part == .quiesced && decide (s.parts.quietAt.get 0 part < s.time.ticks) then s.finishDetach part else s)

/-- PRIV_GRANT_WRITE (R303). -/
def execPrivGrantWrite (tag : Nat) (value : Word32) (s : State) : Result :=
  whenRunning s (fun s => s.asPriv tag privGrantReg true (fun s => s.grant value.toNat))

end Sys2Proof.Machine
end

