-- ==== Sys2Proof/Machine/Transfers.lean ====
section
/-! DEFINITION. Plain transfers (R323 to R326): PUT and GET, transfer blocks on VC1, and VC2 flows. -/

namespace Sys2Proof.Machine

open Sys2Proof

/-- The blocks that carry data from an address on, with the headers' other fields given (R323, R325). A full block holds
57,312 B on VC2 too (DEDUCED, log entry 134: R326 has the layout of R325). -/
def dataBlocks (kind addr transfer : Nat) (data : Bytes) : List (BlockHeader × Bytes) :=
  ((pieces blockMax (ceilDiv data.length blockMax) data).zipIdx).map (fun x =>
    ({ kind := kind, status := 0, length := x.1.length, addr := addr + blockMax * x.2, replyAddr := 0,
       transfer := transfer, block := x.2 }, x.1))

/-- The payloads of a block cut to `n` bytes a cell, the header in the first, each with its LAST flag (R325, R326). -/
def blockPayloads (n : Nat) (h : BlockHeader) (data : Bytes) : List (Bytes × Bool) :=
  let b := transferHeader h ++ data
  let k := ceilDiv b.length n
  (pieces n k b).zipIdx.map (fun x => (x.1, x.2 + 1 == k))

/-- The TRANSFER cells of a block of a group (R325); their block numbers follow when they are sent. -/
def blockCells (g : Nat) (h : BlockHeader) (data : Bytes) : List CellFields :=
  (blockPayloads 224 h data).zipIdx.map (fun x =>
    { type := tTransfer, vc := 1, cls := blockClass h.kind, group := g, ref := 0, seq := x.2, payload := x.1.1, last := x.1.2 })

/-- A payload begins a PUT block. -/
def beginsPut (b : Bytes) : Bool := rd b 0 1 == kPut

/-- Blocks of a GET served go before the PUT blocks of their group and rail that have not begun, behind the block in
progress (R323, R331). -/
def joinCells (g rail : Nat) (new : List (Nat × CellFields)) : List (Nat × CellFields) → List (Nat × CellFields)
  | [] => new
  | c :: q =>
    if c.2.group == g && c.1 == rail && c.2.seq == 0 && beginsPut c.2.payload then new ++ c :: q
    else c :: joinCells g rail new q

/-- The same on a flow; `starts` tells whether the next cell begins a block. -/
def joinFlow (new : List (Bytes × Bool)) : Bool → List (Bytes × Bool) → List (Bytes × Bool)
  | _, [] => new
  | starts, c :: q => if starts && beginsPut c.1 then new ++ c :: q else c :: joinFlow new c.2 q

/-- Tides without progress before a resend; resends before giving up (R326). -/
def flowWait : Nat := 256
def flowResends : Nat := 16

/-- Cells of a GET served join a flow: behind the block in progress, before PUT blocks of which nothing has gone out, also
those in the window (R323, R331). -/
def joinBegun (w : Flow) (cells : List (Bytes × Bool)) : Flow :=
  { w with unacked := w.unacked.take w.begun,
           waiting := joinFlow cells (flowStarts w) (w.unacked.drop w.begun ++ w.waiting) }

/-- A block as received: its header, where its first cell came; its data; its class; the cells missing after their repeats. -/
structure RxBlock where
  hdr     : Option BlockHeader
  data    : Bytes
  cls     : Nat
  missing : Nat
  deriving DecidableEq, Repr

/-- TRANSFER and BLOCK of the acknowledgement of a PUT block whose first cell is lost (log entry 97). -/
def noTransfer : Nat := 0xFFFFFFFF

namespace State

/-! ### Sending -/

/-- Put the cells of a block on a flow. -/
def sendFlow (s : State) (p f : Nat) (h : BlockHeader) (data : Bytes) : State :=
  let w := s.flow (flowKey p f)
  let cells := blockPayloads 208 h data
  s.setFlow (flowKey p f)
    (fillWindow (if h.kind = kGetData then joinBegun w cells else { w with waiting := w.waiting ++ cells }))

/-- Put the cells of a block of a rail in the queue of a port's VC1 slots (R325). -/
def sendBlock (s : State) (g rail p : Nat) (h : BlockHeader) (data : Bytes) : State :=
  let cells := (blockCells g h data).map (fun c => (rail, c))
  s.modPort p (fun x => { x with vc1 := if h.kind = kGetData then joinCells g rail cells x.vc1 else x.vc1 ++ cells })

/-- Send a block on the service it belongs to. -/
def sendOut (s : State) (g rail p service flow : Nat) (h : BlockHeader) (data : Bytes) : State :=
  if service = 0 then s.sendBlock g rail p h data else s.sendFlow p flow h data

def sendBlocks (s : State) (g rail p service flow : Nat) (bs : List (BlockHeader × Bytes)) : State :=
  bs.foldl (fun s x => s.sendOut g rail p service flow x.1 x.2) s

/-- The fabric port that carries the memory accesses of a transfer's cells on a port and direction (0 sent, 1 received):
that of the bay their VC1 run names, which the class binds (R16, R280); a flow has none, and port 0 is taken (DESIGN CHOICE,
log entry 99). -/
def blockFabric (s : State) (g rail service p dir : Nat) : Nat :=
  if service = 0 then
    match (s.runsOf p dir).find? (fun r => r.vc == 1 && r.group == g && r.rail == rail) with
    | some r => s.bayFabric (s.group g).table r.bay
    | none => 0
  else 0

/-! ### Starting and completing -/

/-- An earlier PUT or GET of the same rail, direction and service has not completed (R323). -/
def transferWaits (s : State) (g : Nat) (op : QueueOp) : Bool :=
  ((s.queue g).ops.takeWhile (fun o => o.index != op.index)).any (fun o =>
    isTransfer o.raw && o.phase != .done && Desc.rail o.raw == Desc.rail op.raw && Desc.peer o.raw == Desc.peer op.raw
      && Desc.service o.raw == Desc.service op.raw)

/-- The operation became ready in an earlier tide (R323). -/
def readyBefore (s : State) (op : QueueOp) : Bool :=
  match op.readyAt with
  | some t => decide (t < s.now)
  | none => false

/-- A PUT's read of its source region (R16, R323). -/
def putReads (s : State) (g : Nat) (op : QueueOp) (p : Nat) : Output :=
  .memRead (s.blockFabric g (Desc.rail op.raw) (Desc.service op.raw) p 0) (Desc.localAddr op.raw) (Desc.length op.raw)

/-- Start a transfer with the blocks it sends, in the tide after it is ready (R323). A partition that quiesces starts none
(R309). -/
def startTransfer (s : State) (g index opcode : Nat) (blocks : QueueOp → List (BlockHeader × Bytes)) : State :=
  match s.readyOp g index opcode with
  | some op =>
    match s.transferPort g (Desc.rail op.raw) (Desc.peer op.raw == 0) with
    | some p =>
      if s.quiescing g || s.transferWaits g op then s
      else if s.power.mode != .full then s.askWake
      else if !s.readyBefore op then s
      else
        let t : Transfer := { group := g, index := index, isPut := opcode == Desc.opPut,
                              blocks := ceilDiv (Desc.length op.raw) blockMax, acked := 0 }
        let s := s.modOp g index (fun o => { o with phase := .running })
        let s := { s with xfers := s.xfers ++ [t] }
        let s := if t.isPut then s.emit (s.putReads g op p) else s
        s.sendBlocks g (Desc.rail op.raw) p (Desc.service op.raw) (Desc.flowNo op.raw) (blocks op)
    | none => s
  | none => s

/-- A transfer ends with a code; one of SERVICE 1 enters the ledger (R374). -/
def endTransfer (s : State) (g index code : Nat) : State :=
  let s := { s with xfers := s.xfers.filter (fun x => !(x.group == g && x.index == index)) }
  match (s.queue g).ops.find? (fun o => o.index == index) with
  | some op =>
    ((if Desc.service op.raw = 1 then s.enterLedger g 4 0xFFF (index % 1024) else s).completeAlone g op code 0).pollReadyAll
  | none => s

/-- One more block of a transfer is acknowledged or written, with a status (R323). -/
def countBlock (s : State) (x : Transfer) (status : Nat) : State :=
  if status ≠ 0 then s.endTransfer x.group x.index status
  else if x.blocks ≤ x.acked + 1 then s.endTransfer x.group x.index 0
  else { s with xfers := updateWhere (fun y => y.group == x.group && y.index == x.index)
                           (fun y => { y with acked := y.acked + 1 }) s.xfers }

/-- An operation of the group runs on the direction and service that a block came on. -/
def onRoute (s : State) (src : BlockFrom) (index : Nat) : Bool :=
  (s.queue src.group).ops.any (fun o => o.index == index && Desc.rail o.raw == src.rail
    && (Desc.peer o.raw == 0) == src.fromSuccessor && (Desc.service o.raw != 0) == (src.service != 0))

/-- The transfer that a reply belongs to. -/
def transferOf (s : State) (src : BlockFrom) (index : Nat) (put : Bool) : Option Transfer :=
  s.xfers.find? (fun x => x.group == src.group && x.index == index && x.isPut == put && s.onRoute src x.index)

/-- The GET, or the PUT, in progress on the route of a block: there is at most one (R323). -/
def runningOn (s : State) (src : BlockFrom) (put : Bool) : Option Transfer :=
  s.xfers.find? (fun x => x.group == src.group && x.isPut == put && s.onRoute src x.index)

/-- The KIND of a block: its header's. Without a header it is told by what came of it: GET_DATA by its class, else PUT; a
block of which nothing came is the answer that the transfer in progress on its route awaits, else a PUT (DESIGN CHOICE, log
entry 97: the spec does not say). -/
def kindOf (s : State) (src : BlockFrom) (b : RxBlock) : Nat :=
  match b.hdr with
  | some h => h.kind
  | none =>
    if b.cls = 2 then kGetData
    else if !b.data.isEmpty then kPut
    else if (s.runningOn src true).isSome then kPutAck
    else if (s.runningOn src false).isSome then kGetData
    else kPut

/-- The flow on which a best-effort reply goes: the one its request came on. -/
def replyFlow (src : BlockFrom) : Nat := src.service - 1

/-! ### Received blocks (R323 to R326) -/

/-- The staged cells of the block that a VC1 receiver processes next, in order. -/
def blockStaged (s : State) (g p : Nat) : List StagedCell := s.blockCellsHeld g p (s.blockRx.get {} (blockKey g p)).take

/-- The slots of a group's VC1 cells on a port whose repeats were asked for in a tide. -/
def askedBlocks (s : State) (g p tide : Nat) : List Nat :=
  (((s.port p).asked.filter (fun a => a.2 == tide)).map (·.1)).filter (fun k =>
    match s.runAt p 1 k with
    | some r => r.vc == 1 && r.group == g
    | none => false)

/-- The block to process next has lost its last cells (R325). -/
def lostTail (x : Vc1Rx) : Bool := x.failed && x.take == x.block

/-- The VC1 block to process next: one that has come whole, one that the receiver has passed and whose missing cells had
their repeats in an earlier tide than the requests of this one, or one whose last cells are lost (R178, R325). -/
def vc1Block (s : State) (g p : Nat) : Option RxBlock :=
  let x := s.blockRx.get {} (blockKey g p)
  let cs := s.blockStaged g p
  let fields := cs.map (fun c => readCell c.cell)
  let hdr := headerHeld cs
  let last := (cs.find? (fun c => (readCell c.cell).last)).map (·.index)
  let total := match last, hdr with
    | some i, _ => i + 1
    | none, some h => cellsOfBlock h
    | none, none => ((cs.getLast?).map (·.index)).getD 0 + 1
  let missing := total - cs.length
  let whole := last.isSome && missing == 0
  let passed := x.take != x.block && (s.askedBlocks g p s.now).isEmpty
  if whole || passed || lostTail x then
    some { hdr := hdr, data := (fields.flatMap (·.payload)).drop 32, cls := ((fields.head?).map (·.cls)).getD 0,
           missing := if lostTail x then max 1 missing else missing }
  else none

/-- The VC1 block leaves staging, its missing cells counted, and with them the group's step ends (R135, R178), but for those
of which both was done when its tail was found lost. -/
def dropBlock (s : State) (g p missing : Nat) : State :=
  let x := s.blockRx.get {} (blockKey g p)
  let s := if missing = 0 || lostTail x then s
    else (s.countMissing p 1 missing (s.askedBlocks g p (s.now - 1))).abortGroup g 0x04
  let next := (x.take + 1) % 2 ^ 18
  ({ s with staging := s.staging.filter (fun y => !(y.lap == vc1Lap && y.group == g && y.port == p && y.ref == x.take)) } :
    State).modBlock g p (fun x => if lostTail x then { x with take := next, block := next, next := 0, failed := false }
      else { x with take := next })

/-- The first whole block of a stream of FLOW cells, with what follows it. -/
def flowBlock : List (Bytes × Bool) → Option (Bytes × List (Bytes × Bool))
  | [] => none
  | (b, true) :: l => some (b, l)
  | (b, false) :: l => (flowBlock l).map (fun r => (b ++ r.1, r.2))

/-- Run `f` on the next block received from a source, if it is of the command's kind; the block is then used up. `f` is given
the port. The group and rail that a flow's block belongs to, and the rail of a VC1 block where a port serves two of its
group's, are the command's operands, unchecked (DESIGN CHOICE, log entry 146: no cell field names them, R326). -/
def withBlock (s : State) (src : BlockFrom) (kind : Nat) (f : State → Nat → RxBlock → State) : State :=
  match s.transferPort src.group src.rail src.fromSuccessor with
  | none => s
  | some p =>
    if src.service = 0 then
      match s.vc1Block src.group p with
      | some b => if s.kindOf src b = kind then f (s.dropBlock src.group p b.missing) p b else s
      | none => s
    else
      let key := flowKey p (replyFlow src)
      match flowBlock (s.flow key).rx with
      | some (b, rest) =>
        let r : RxBlock := { hdr := some (readHeader b), data := b.drop 32, cls := 0, missing := 0 }
        if s.kindOf src r = kind then f (s.setFlow key { s.flow key with rx := rest }) p r else s
      | none => s

/-- A region fails the receiver's test (R323). -/
def badRegion (s : State) (g addr len : Nat) : Bool := !s.regionOk (s.ownerOr8 g) addr len

/-- STATUS of a received block: its region fails, or a cell is missing after its repeat (R323, R325). -/
def blockStatus (s : State) (g : Nat) (h : BlockHeader) (b : RxBlock) : Nat :=
  if s.badRegion g h.addr h.length then 0x08
  else if b.missing ≠ 0 ∨ b.data.length < h.length then 0x04 else 0

/-- Write a received block's data to compute memory, unless its test fails. -/
def writeBlock (s : State) (src : BlockFrom) (p : Nat) (h : BlockHeader) (b : RxBlock) : State :=
  let c := s.blockStatus src.group h b
  if c = 0x08 then s.bumpG .transferViolation src.group 1
  else if c = 0 then s.emit (.memWrite (s.blockFabric src.group src.rail src.service p 1) h.addr (b.data.take h.length)) else s

/-- A received PUT block is written and acknowledged. One whose first cell is missing ends with 0x04 and names no transfer
(R325, log entry 97). -/
def takePut (s : State) (src : BlockFrom) (p : Nat) (b : RxBlock) : State :=
  let ack (s : State) (status transfer block : Nat) : State :=
    s.sendOut src.group src.rail p src.service (replyFlow src)
      { kind := kPutAck, status := status, length := 0, addr := 0, replyAddr := 0, transfer := transfer, block := block } []
  match b.hdr with
  | none => ack s 0x04 noTransfer noTransfer
  | some h => ack (s.writeBlock src p h b) (s.blockStatus src.group h b) h.transfer h.block

/-- A GET_REQUEST is served with the source region's bytes, which are read (R16), or answered with its violation. -/
def serveGet (s : State) (src : BlockFrom) (p : Nat) (h : BlockHeader) (data : Bytes) : State :=
  if s.badRegion src.group h.addr h.length then
    (s.bumpG .transferViolation src.group 1).sendOut src.group src.rail p src.service (replyFlow src)
      { kind := kGetData, status := 0x08, length := 0, addr := h.replyAddr, replyAddr := 0, transfer := h.transfer,
        block := 0 } []
  else
    (s.emit (.memRead (s.blockFabric src.group src.rail src.service p 0) h.addr h.length)).sendBlocks src.group src.rail p
      src.service (replyFlow src)
      (dataBlocks kGetData h.replyAddr h.transfer (padTo h.length data))

/-- A GET_DATA block is written and counted. One whose first cell is missing ends the GET that runs on its route. -/
def takeGetData (s : State) (src : BlockFrom) (p : Nat) (b : RxBlock) : State :=
  match b.hdr with
  | none =>
    match s.runningOn src false with
    | some x => s.countBlock x 0x04
    | none => s
  | some h =>
    match s.transferOf src h.transfer false with
    | some x =>
      if h.status ≠ 0 then s.countBlock x h.status
      else (s.writeBlock src p h b).countBlock x (s.blockStatus src.group h b)
    | none => s

/-- The transfer in progress on a route, a PUT before a GET, ends with a code. -/
def endOnRoute (s : State) (src : BlockFrom) (code : Nat) : State :=
  match s.runningOn src true <|> s.runningOn src false with
  | some x => s.countBlock x code
  | none => s

/-- A PUT_ACK counts its block; one that is lost, or that names no transfer, ends the transfer in progress on its route. -/
def takePutAck (s : State) (src : BlockFrom) (b : RxBlock) : State :=
  match b.hdr with
  | none => s.endOnRoute src 0x04
  | some h =>
    if h.block = noTransfer then s.endOnRoute src h.status
    else match s.transferOf src h.transfer true with
    | some x => s.countBlock x h.status
    | none => s

/-! ### Flows -/

/-- The peer has every cell before ACK: they leave the window (R326). -/
def ackFlow (s : State) (p f : Nat) (ack : Word32) : State :=
  let w := s.flow (flowKey p f)
  let k := (ack - w.acked).toNat
  if k = 0 ∨ w.unacked.length < k then s
  else s.setFlow (flowKey p f)
    (fillWindow { w with acked := ack, unacked := w.unacked.drop k, sent := w.sent - k, begun := w.begun - k,
                         inBlock := !((w.unacked[k - 1]?).map (·.2)).getD true, since := s.now, resends := 0 })

/-- A cell with data: accepted in SEQ order only; it, and one sent again, is answered with the cumulative ACK (R326). -/
def takeFlow (s : State) (p f : Nat) (seq : Word32) (data : Bytes) (last : Bool) : State :=
  let w := s.flow (flowKey p f)
  if seq = w.expect then
    s.setFlow (flowKey p f) { w with expect := w.expect + 1, ackDue := true, rx := w.rx ++ [(data, last)] }
  else if (w.expect - seq).toNat ≤ flowWindow ∨ (seq - w.expect).toNat ≤ flowWindow then
    s.setFlow (flowKey p f) { w with ackDue := true }
  else s

/-- A FLOW cell on a port: dropped in QUARANTINE and from a TIME_NODE, taken in scheduled service (R263, R267, R326). In the
local frame it is misplaced (DESIGN CHOICE, log entry 122); in the tide frame of a port that aligns it is dropped. -/
def receiveFlow (s : State) (p : Nat) (c : CellFields) : State :=
  let f := rd c.payload 8 1
  if (s.port p).link == .quarantine then s.bumpPort p .quarantineDrop 1
  else if (s.port p).nb.role == 4 then s.bumpPort p .cellMisplaced 1
  else if s.inService p then
    (s.ackFlow p f (BitVec.ofNat 32 (rd c.payload 4 4))).takeFlow p f (BitVec.ofNat 32 (rd c.payload 0 4))
      (c.payload.drop 16) c.last
  else if s.receivesTide p then s
  else s.bumpPort p .cellMisplaced 1

/-- The flow gives up: its transfers end with 0x04, and what they sent is dropped (R326). -/
def giveUpFlow (s : State) (p f : Nat) : State :=
  let w := s.flow (flowKey p f)
  let s := s.setFlow (flowKey p f) { w with unacked := [], waiting := [], sent := 0, begun := 0, inBlock := false, resends := 0 }
  (s.xfers.filter (fun x => (s.queue x.group).ops.any (fun o =>
      o.index == x.index && Desc.service o.raw == 1 && Desc.flowNo o.raw == f
        && s.transferPort x.group (Desc.rail o.raw) (Desc.peer o.raw == 0) == some p))).foldl
    (fun s x => s.endTransfer x.group x.index 0x04) s

/-- 256 tides without an advance of ACK: the flow sends again from ACK, or gives up after 16 such resends (R326). -/
def resendFlow (s : State) (p f : Nat) : State :=
  let w := s.flow (flowKey p f)
  if w.sent = 0 ∨ s.now < w.since + flowWait then s
  else if flowResends ≤ w.resends then s.giveUpFlow p f
  else s.setFlow (flowKey p f) { w with since := s.now, sent := 0, resends := w.resends + 1 }

end State

/-- PUT (R323): `data` is the source region. -/
def execPut (group index : Nat) (data : Bytes) (s : State) : Result :=
  whenRunning s (fun s => s.startTransfer group index Desc.opPut (fun op =>
    dataBlocks kPut (Desc.remoteAddr op.raw) index (padTo (Desc.length op.raw) data)))

/-- GET (R323). -/
def execGet (group index : Nat) (s : State) : Result :=
  whenRunning s (fun s => s.startTransfer group index Desc.opGet (fun op =>
    [({ kind := kGetRequest, status := 0, length := Desc.length op.raw, addr := Desc.remoteAddr op.raw,
        replyAddr := Desc.localAddr op.raw, transfer := index, block := 0 }, [])]))

/-- PUT_BLOCK_RECEIVED (R323 to R325). -/
def execPutBlockReceived (src : BlockFrom) (s : State) : Result :=
  whenRunning s (fun s => s.withBlock src kPut (fun s p b => s.takePut src p b))

/-- GET_REQUEST_RECEIVED (R323): `data` is what the source region holds. -/
def execGetRequestReceived (src : BlockFrom) (data : Bytes) (s : State) : Result :=
  whenRunning s (fun s => s.withBlock src kGetRequest (fun s p b =>
    match b.hdr with
    | some h => s.serveGet src p h data
    | none => s))

/-- GET_DATA_RECEIVED (R323). -/
def execGetDataReceived (src : BlockFrom) (s : State) : Result :=
  whenRunning s (fun s => s.withBlock src kGetData (fun s p b => s.takeGetData src p b))

/-- PUT_ACK_RECEIVED (R323). -/
def execPutAckReceived (src : BlockFrom) (s : State) : Result :=
  whenRunning s (fun s => s.withBlock src kPutAck (fun s _ b => s.takePutAck src b))

/-- FLOW_CELL_RECEIVED (R263, R267, R326). -/
def execFlowCellReceived (port : Nat) (cell : Bytes) (s : State) : Result :=
  whenRunning s (fun s => s.withCell port tFlow cell (fun s c => s.receiveFlow port c))

/-- FLOW_RESEND (R326). -/
def execFlowResend (port flow : Nat) (s : State) : Result := whenRunning s (fun s => s.resendFlow port flow)

end Sys2Proof.Machine
end

