-- ==== Sys2Proof/Machine/SpillCodec.lean ====
section
/-! DEFINITION. The spill codec (R224 to R231): slots, the encoder in binary32, the decoder. A tile is a list of 4,096
BF16 codes, row by row. -/

namespace Sys2Proof.Machine

open Sys2Proof

/-- Slot size and rank of a rate class (R224). -/
def slotSize (cls : Nat) : Nat := if cls = 0 then 4096 else if cls = 1 then 2560 else 2048
def slotRank (cls : Nat) : Nat := if cls = 0 then 31 else if cls = 1 then 19 else 15

/-- Bytes of a raw tile. -/
def tileBytes : Nat := 8192

/-- The header fields of a slot (R226). -/
structure SlotHeader where
  tile    : Nat
  area    : Nat
  pass    : Nat
  cls     : Nat
  rank    : Nat
  flags   : Nat
  escSlot : Nat
  err     : Nat
  deriving DecidableEq, Repr

/-- The 64 header bytes with a CRC field. -/
def slotHeaderBytes (h : SlotHeader) (crc : Nat) : Bytes :=
  leBytes 4 h.tile ++ leBytes 2 h.area ++ leBytes 2 h.pass ++ leBytes 1 h.cls ++ leBytes 1 h.rank ++ leBytes 2 h.flags
    ++ leBytes 4 h.escSlot ++ leBytes 4 h.err ++ leBytes 4 crc ++ List.replicate 40 0

/-- The CRC of a slot: the header with the field zero, then what follows it. -/
def slotCrc (h : SlotHeader) (rest : Bytes) : Nat := crc32c (slotHeaderBytes h 0 ++ rest)

def slotValid (flags : Nat) : Bool := bitAt flags 0
def slotZero (flags : Nat) : Bool := bitAt flags 1
def slotEscaped (flags : Nat) : Bool := bitAt flags 2
def slotOver (flags : Nat) : Bool := bitAt flags 3

/-! ### binary32 arithmetic under R73 -/

namespace F32

/-- Round an exact value to binary32. What one beyond the largest finite value gives is a free finite value of its sign (log
entry 136: R73 and R230 give no outcome). -/
def rnd (x : Dy) : Dy :=
  let r := fp32.round x
  if r.sat then
    let y := fp32.value (Config.overflow32 x.m x.e % 0x7F800000)
    if x.m < 0 then y.neg else y
  else fp32.value r.code

def add (x y : Dy) : Dy := rnd (x.add y)
def mul (x y : Dy) : Dy := rnd ⟨x.m * y.m, x.e + y.e⟩
def neg (x : Dy) : Dy := x.neg
def sum (l : List Dy) : Dy := l.foldl add Dy.zero
def dot (x y : List Dy) : Dy := sum (List.zipWith mul x y)

/-- x / y for a non-zero y. -/
def div (x y : Dy) : Dy :=
  let num : Int := if y.m < 0 then -x.m else x.m
  fp32.value (fp32.roundQuot num y.m.natAbs (x.e - y.e)).code

/-- The square root of a value at or above zero: cut far below its last binary32 place, then rounded, which under
ties away from zero gives the rounding of the exact root. -/
def sqrt (x : Dy) : Dy :=
  if x.isZero then Dy.zero
  else
    let k : Nat := 200 + ((x.e - 200) % 2).toNat
    rnd ⟨(Nat.sqrt (x.m.natAbs * 2 ^ k) : Int), (x.e - k) / 2⟩

/-- Sum of squares in ascending order. -/
def normSq (x : List Dy) : Dy := dot x x

end F32

/-! ### The encoder (R229, R230) -/

/-- A column of a row-major matrix of `w` columns. -/
def column (w : Nat) (x : List Dy) (k : Nat) : List Dy := (List.range (x.length / w)).map (fun i => x.getD (i * w + k) Dy.zero)

/-- The sketch Y = X · Ω of tile i: its r columns. -/
def sketch (seed i r : Nat) (rows : List (List Dy)) : List (List Dy) :=
  (List.range r).map (fun k => rows.map (fun row =>
    F32.sum (row.zipIdx.map (fun x => if signBit seed (2048 * i + 32 * x.2 + k) then x.1.neg else x.1))))

/-- Take the projection on each earlier column away, in turn. -/
def project (v : List Dy) (qs : List (List Dy)) : List Dy :=
  qs.foldl (fun v q =>
    let r := F32.dot q v
    List.zipWith (fun a b => F32.add a (F32.mul r b).neg) v q) v

/-- Modified Gram–Schmidt in ascending k; a column below the limit, or without a norm, becomes a zero column. A column is
normalised by the rounded square root of its squared norm, by which each element is divided with one rounding (DESIGN CHOICE,
log entry 142: R230 does not say how). -/
def orthonormal (limit : Dy) : List (List Dy) → List (List Dy) → List (List Dy)
  | qs, [] => qs
  | qs, y :: ys =>
    let v := project y qs
    let n := F32.normSq v
    let q := if n.lt limit || n.isZero then v.map (fun _ => Dy.zero)
      else let root := F32.sqrt n; v.map (fun a => F32.div a root)
    orthonormal limit (qs ++ [q]) ys

/-- The smallest e with max |x| ≤ 127 · 2^e. -/
def columnExp (x : List Dy) : Option Int :=
  let m := x.foldl (fun a v => if a.lt v.abs then v.abs else a) Dy.zero
  if m.isZero then none
  else
    let l := m.log2
    some (if m.le ⟨127, l - 6⟩ then l - 6 else l - 5)

/-- A quantised column: its exponent code (−128 for a zero column) and its elements (R230 steps 3 and 4). -/
def quantColumn (x : List Dy) : Int × List Int :=
  let zeros := x.map (fun _ => (0 : Int))
  match columnExp x with
  | none => (-128, zeros)
  | some e =>
    if e < -127 then (-128, zeros)
    else if 127 < e then (127, x.map (fun v => clampInt (-127) 127 (v.scale (-127)).round))
    else (e, x.map (fun v => (v.scale (-e)).round))

/-- The factors of a tile: columns of U and of V with their exponents. -/
structure Factors where
  u : List (Int × List Int)
  v : List (Int × List Int)
  deriving DecidableEq, Repr

/-- 2^-40 of a squared norm. -/
def gsLimit (f : Dy) : Dy := F32.rnd (f.scale (-40))

/-- Factors of tile i with elements x. -/
def tileFactors (seed i r : Nat) (x : List Dy) : Factors :=
  let rows := pieces 64 64 x
  let qs := orthonormal (gsLimit (F32.normSq x)) [] (sketch seed i r rows)
  let cols := (List.range 64).map (column 64 x)
  ⟨qs.map quantColumn, qs.map (fun q => quantColumn (cols.map (fun c => F32.dot q c)))⟩

/-- RANK: columns with both exponents valid. -/
def Factors.rank (f : Factors) : Nat :=
  ((List.zipWith (fun a b => (a.1 != -128) && (b.1 != -128)) f.u f.v).filter id).length

/-- The bytes that follow the header (R227). -/
def factorBytes (f : Factors) : Bytes :=
  let i8 (v : Int) : Byte := BitVec.ofInt 8 v
  let body (c : List (Int × List Int)) : Bytes := (List.range 64).flatMap (fun i => c.map (fun k => i8 (k.2.getD i 0)))
  f.u.map (fun c => i8 c.1) ++ f.v.map (fun c => i8 c.1) ++ body f.u ++ body f.v

/-- Factors read back from the bytes that follow a header. -/
def readFactors (r : Nat) (b : Bytes) : Factors :=
  let i8 (n : Nat) : Int := (b.getD n 0).toInt
  ⟨(List.range r).map (fun k => (i8 k, (List.range 64).map (fun i => i8 (2 * r + i * r + k)))),
   (List.range r).map (fun k => (i8 (r + k), (List.range 64).map (fun j => i8 (66 * r + j * r + k))))⟩

/-- The tile that factors decode to, as BF16 codes (R228). -/
def decodeFactors (f : Factors) : List Nat :=
  let cols := (f.u.zip f.v).filter (fun c => c.1.1 != -128 && c.2.1 != -128)
  (List.range 64).flatMap (fun i => (List.range 64).map (fun j =>
    (bf16.round (cols.foldl (fun a c => a.add ⟨c.1.2.getD i 0 * c.2.2.getD j 0, c.1.1 + c.2.1⟩) Dy.zero)).code))

/-- The measured error ε in binary32; none where the tile's norm is zero in binary32 (R231). -/
def tileError (x y : List Dy) : Option Dy :=
  let n := F32.sqrt (F32.normSq x)
  if n.isZero then none
  else some (F32.div (F32.sqrt (F32.normSq (List.zipWith (fun a b => F32.add a b.neg) x y))) n)

/-- ERR: the error in units of 2^-24, saturating. -/
def errField (e : Dy) : Nat := Nat.min (e.scale 24).round.toNat 0xFFFFFFFF

/-- BF16 codes of raw tile bytes, and the bytes of codes. -/
def tileCodes (b : Bytes) : List Nat := (List.range 4096).map (fun k => rd b (2 * k) 2)
def bf16Bytes (l : List Nat) : Bytes := l.flatMap (fun c => leBytes 2 c)

/-- A row of raw tile bytes. -/
def tileRow (b : Bytes) (i : Nat) : Bytes := (b.drop (128 * i)).take 128

end Sys2Proof.Machine
end

