-- ==== Sys2Proof/Machine/Spill.lean ====
section
/-! DEFINITION. Commands of the spill service (R225, R231 to R235, R238, R239). -/

namespace Sys2Proof.Machine

open Sys2Proof

namespace State

/-- Address in the stacks of tile i's slot, and of an escape slot (R224). -/
def slotAddr (s : State) (a : ImgArea) (i : Nat) : Nat := s.im.spill.1 * mib + a.base + i * slotSize a.cls
def escAddr (s : State) (a : ImgArea) (e : Nat) : Nat := s.im.spill.1 * mib + a.escBase + e * tileBytes

/-- Write bytes to the stacks (R396, R404). -/
def writeStack (s : State) (at_ : Nat) (b : Bytes) : State :=
  ({ s with stack := s.stack.writeBytes at_ b } : State).writeUnits at_ b.length

/-- Escapes written or read for an area in this tide. -/
def escUsedNow (s : State) (a : Nat) : Nat := if (s.area a).escTide = s.now then (s.area a).escUsed else 0

def useEscape (s : State) (a : Nat) : State :=
  s.setArea a { s.area a with escTide := s.now, escUsed := s.escUsedNow a + 1 }

/-- Change the operation that runs in an area. -/
def modSpill (s : State) (a : Nat) (f : SpillOp → SpillOp) : State :=
  s.setArea a { s.area a with running := (s.area a).running.map f }

/-! ### Starting and completing (R225, R232, R234, R235) -/

/-- The fields of a spill operation. -/
def spillOp (s : State) (g : Nat) (op : QueueOp) : SpillOp :=
  let b := op.raw
  { group := g, index := op.index, isStore := Desc.opcode b == Desc.opSpillStore, newPass := bitAt (Desc.sflags b) 0,
    first := Desc.firstTile b, count := Desc.count b, stride := Desc.rowStride b, grid := Desc.gridWidth b,
    addr := Desc.addr b, readyAt := op.readyAt.getD s.now, next := 0, escaped := 0, overBound := 0, stale := 0, bad := 0 }

/-- RESULT of a spill operation's completion (R327). -/
def spillResult (o : SpillOp) : Nat :=
  let half (n : Nat) : Nat := Nat.min n 0xFFFF
  if o.isStore then half o.escaped + half o.overBound * 2 ^ 16 else half o.stale + half o.bad * 2 ^ 16

/-- Operations of an area run in the order in which they became ready, then of ascending group number (R235), then
of their queue. -/
def spillBefore (x y : SpillOp) : Bool :=
  decide (x.readyAt < y.readyAt ∨ (x.readyAt = y.readyAt ∧ x.group < y.group))

/-- A spill operation has become ready: it waits for its area, where it starts in the tide after (R234, R235). -/
def startSpill (s : State) (g index opcode : Nat) : State :=
  match s.readyOp g index opcode with
  | some op =>
    let a := Desc.areaNo op.raw
    let ar := s.area a
    if s.quiescing g || ar.waiting.any (fun o => o.group == g && o.index == index) then s
    else if s.power.mode != .full then s.askWake
    else
      s.setArea a { ar with waiting := insertBy spillBefore (s.spillOp g op) ar.waiting }
  | none => s

/-- The running operation completes when its last tile is done. -/
def finishSpill (s : State) (a : Nat) : State :=
  match (s.area a).running with
  | some o =>
    if o.next < o.count then s
    else
      let s := s.setArea a { s.area a with running := none }
      match (s.queue o.group).ops.find? (fun x => x.index == o.index) with
      | some op => (s.completeAlone o.group op 0 (spillResult o)).pollReadyAll
      | none => s
  | none => s

/-- Owner partition of an area, for its counters and events. -/
def areaPart (s : State) (a : Nat) : Nat := ((s.im.areaDesc a).map (·.part)).getD 8

/-! ### Storing a tile (R229 to R232) -/

/-- Write a slot: header with its CRC, and the bytes that follow. -/
def writeSlot (s : State) (d : ImgArea) (h : SlotHeader) (rest crcOver : Bytes) : State :=
  s.writeStack (s.slotAddr d h.tile) (slotHeaderBytes h (slotCrc h crcOver) ++ rest)

/-- Why an escape cannot be served: 0 it can, 1 pool full, 2 the tide's limit (R232). -/
def escapeBar (s : State) (d : ImgArea) : Nat :=
  if (s.area d.area).cursor = d.escSlots then 1 else if d.escPerTide ≤ s.escUsedNow d.area then 2 else 0

/-- An escape that cannot be served: the escape-full event, and the counter of its reason (R232, R239). -/
def noteEscape (s : State) (d : ImgArea) (bar : Nat) : State :=
  (s.bumpP (if bar = 1 then .spillEscFull else .spillEscRate) d.part 1).raise
    { type := 0x0030, severity := 2, subject := d.area, arg := (s.area d.area).pass, rings := s.ringsP d.part }

/-- The tile goes raw to the escape slot at the cursor (R231), with the RANK of its factors (R230). -/
def storeEscaped (s : State) (d : ImgArea) (h : SlotHeader) (rank : Nat) (raw : Bytes) : State :=
  let ar := s.area d.area
  let h := { h with flags := 5, rank := rank, escSlot := ar.cursor, err := 0 }
  let s := (s.useEscape d.area)
  let s := s.setArea d.area { s.area d.area with cursor := ar.cursor + 1 }
  let s := s.writeStack (s.escAddr d ar.cursor) raw
  let s := s.writeSlot d h [] raw
  (s.modSpill d.area (fun o => { o with escaped := o.escaped + 1 })).bumpP .spillEscaped d.part 1

/-- Factors are written, with the flags given beside VALID. -/
def storeFactors (s : State) (d : ImgArea) (h : SlotHeader) (f : Factors) (err flags : Nat) : State :=
  let b := factorBytes f
  let pad := List.replicate (slotSize d.cls - 64 - b.length) 0
  s.writeSlot d { h with flags := flags, rank := f.rank, err := err } (b ++ pad) b

/-- The factors of a tile of finite elements, the error field that they give, and whether the error is above the area's bound
(R230, R231). -/
def tileCoding (d : ImgArea) (tile : Nat) (x : List Dy) (raw : Bytes) : Factors × Nat × Bool :=
  let f := tileFactors d.sketchSeed tile (slotRank d.cls) x
  match tileError x ((decodeFactors f).map bf16.value) with
  | some e => (f, errField e, Dy.lt ⟨d.errBound, -16⟩ e)
  | none =>
    let err := Config.tinyTileErr d.area tile raw % 2 ^ 32
    (f, err, decide (d.errBound * 256 < err))

/-- Whether a tile calls for an escape (R231, R232). -/
def callsEscape (d : ImgArea) (tile : Nat) (raw : Bytes) : Bool :=
  let raw := padTo tileBytes raw
  let codes := (tileCodes raw).map bf16.decode
  let x := codes.map (·.getD Dy.zero)
  !codes.all Option.isSome || (!x.all Dy.isZero && (tileCoding d tile x raw).2.2)

/-- A tile of finite elements: ZERO, factors, or an escape (R229 to R232). `flags` holds VALID and, for a tile whose
nonfinite elements were replaced, OVER_BOUND and NONFINITE; such a tile is not escaped. -/
def storeFinite (s : State) (d : ImgArea) (h : SlotHeader) (x : List Dy) (raw : Bytes) (flags : Nat) : State :=
  if x.all Dy.isZero then s.writeSlot d { h with flags := flags + 2, rank := 0, err := 0 } [] []
  else
    let (f, err, above) := tileCoding d h.tile x raw
    if !above || flags != 1 then s.storeFactors d h f err flags
    else
      let bar := s.escapeBar d
      if bar = 0 then s.storeEscaped d h f.rank raw
      else
        let s := s.noteEscape d bar
        let s := s.modSpill d.area (fun o => { o with overBound := o.overBound + 1 })
        s.storeFactors d h f err 9

/-- Where row i of the next tile of an operation lies in compute memory (R225). -/
def rowAddr (o : SpillOp) (i : Nat) : Nat :=
  o.addr + (64 * (o.next / o.grid) + i) * o.stride + 128 * (o.next % o.grid)

/-- The reads of a tile from compute memory through the area's fabric port, row by row (R225, R237). -/
def readRows (s : State) (d : ImgArea) (o : SpillOp) : State :=
  s.emits ((List.range 64).map (fun i => Output.memRead d.fabric (rowAddr o i) 128))

/-- Store one tile of the running operation. -/
def storeTile (s : State) (d : ImgArea) (raw : Bytes) : State :=
  match (s.area d.area).running with
  | some o =>
    let s := s.readRows d o
    let raw := padTo tileBytes raw
    let h : SlotHeader := { tile := o.first + o.next, area := d.area, pass := (s.area d.area).pass, cls := d.cls, rank := 0,
                            flags := 0, escSlot := 0, err := 0 }
    let codes := (tileCodes raw).map bf16.decode
    let s :=
      if codes.all Option.isSome then s.storeFinite d h (codes.map (·.getD Dy.zero)) raw 1
      else
        let bar := s.escapeBar d
        if bar = 0 then s.storeEscaped d h (Config.escapedRank d.area h.tile raw % (slotRank d.cls + 1)) raw
        else
          let s := (s.noteEscape d bar).bumpP .spillNonfinite d.part 1
          let s := s.modSpill d.area (fun o => { o with overBound := o.overBound + 1 })
          s.storeFinite d h (codes.map (·.getD Dy.zero)) raw 25
    s.modSpill d.area (fun o => { o with next := o.next + 1 })
  | none => s

/-! ### Loading a tile (R233) -/

/-- What a load makes of a tile. -/
inductive Loaded where
  | good (bytes : Bytes) (over_ : Bool)
  | stale
  | bad (unit : Option Nat)
  | wait
  deriving DecidableEq, Repr

/-- Units of a range with an uncorrectable error. -/
def badOf (s : State) (met : List Nat) (a n : Nat) : List Nat :=
  (unitsOf a n).filter (fun u => s.badUnits.contains u || met.contains u)

/-- Check and decode the slot of a tile; `met` are the units whose reads fail now. An escape read past the tide's limit
waits. A slot that is stale is stale whatever its CRC says (DESIGN CHOICE, log entry 141: R233 gives both outcomes and no
order). -/
def readTile (s : State) (d : ImgArea) (tile : Nat) (met : List Nat) : Loaded × Bool :=
  let at_ := s.slotAddr d tile
  let hb := s.stack.readBytes at_ 64
  let flags := rd hb 0x0A 2
  let r := slotRank d.cls
  let crcOf (rest : Bytes) : Nat := crc32c (hb.take 0x14 ++ [0, 0, 0, 0] ++ hb.drop 0x18 ++ rest)
  match s.badOf met at_ 64 with
  | u :: _ => (.bad (some u), false)
  | [] =>
    if !slotValid flags || rd hb 6 2 != (s.area d.area).pass || rd hb 0 4 != tile || field (rd hb 4 2) 0 6 != d.area then
      (.stale, false)
    else if slotEscaped flags then
      if d.escPerTide ≤ s.escUsedNow d.area then (.wait, false)
      else
        let ea := s.escAddr d (rd hb 0x0C 4)
        let raw := s.stack.readBytes ea tileBytes
        match s.badOf met ea tileBytes with
        | u :: _ => (.bad (some u), true)
        | [] => if crcOf raw == rd hb 0x14 4 then (.good raw (slotOver flags), true) else (.bad none, true)
    else if slotZero flags then
      (if crcOf [] == rd hb 0x14 4 then .good (List.replicate tileBytes 0) (slotOver flags) else .bad none, false)
    else
      let n := 130 * r
      match s.badOf met (at_ + 64) n with
      | u :: _ => (.bad (some u), false)
      | [] =>
        let fb := s.stack.readBytes (at_ + 64) n
        (if crcOf fb == rd hb 0x14 4 then .good (bf16Bytes (decodeFactors (readFactors r fb))) (slotOver flags) else .bad none,
         false)

/-- Write a tile to compute memory through the area's fabric port, row by row (R225, R237). -/
def writeTile (s : State) (d : ImgArea) (o : SpillOp) (b : Bytes) : State :=
  s.emits ((List.range 64).map (fun i => Output.memWrite d.fabric (rowAddr o i) (tileRow b i)))

/-- The stack error of a tile's read, and the bad tile (R233, R395). -/
def noteBadTile (s : State) (d : ImgArea) (tile : Nat) (unit : Option Nat) : State :=
  let s := match unit with
    | some u => (s.markBad [u]).stackUE u 0
    | none => s
  (s.bumpP .spillBad d.part 1).raise
    { type := 0x0031, severity := 2, subject := d.area + tile * 2 ^ 32, arg := bnat unit.isSome, rings := s.ringsP d.part }

/-- The tile of an operation is done: the next one follows. -/
def tileDone (s : State) (d : ImgArea) (f : SpillOp → SpillOp) : State :=
  s.modSpill d.area (fun o => { f o with next := o.next + 1 })

/-- Load one tile, with what the check of its slot has made of it. -/
def loadTile (s : State) (d : ImgArea) (o : SpillOp) (l : Loaded) : State :=
  let zero := List.replicate tileBytes 0
  match l with
  | .wait => s.bumpP .spillLoadStall d.part 1
  | .good b over_ => ((if over_ then s.bumpP .spillOverBoundLoad d.part 1 else s).writeTile d o b).tileDone d id
  | .stale => ((s.bumpP .spillStale d.part 1).writeTile d o zero).tileDone d (fun o => { o with stale := o.stale + 1 })
  | .bad u => ((s.noteBadTile d (o.first + o.next) u).writeTile d o zero).tileDone d (fun o => { o with bad := o.bad + 1 })

/-- Load the next tile of the running operation. -/
def loadNext (s : State) (d : ImgArea) (o : SpillOp) (met : List Nat) : State :=
  let r := s.readTile d (o.first + o.next) met
  (if r.2 then s.useEscape d.area else s).loadTile d o r.1

/-- Load tiles until the tide's share is done or one has to wait; `fuel` bounds them. -/
def loadTiles : Nat → State → ImgArea → List Nat → State
  | 0, s, _, _ => s
  | n + 1, s, d, met =>
    match (s.area d.area).running with
    | some o =>
      if o.next = o.count then s
      else if (s.readTile d (o.first + o.next) met).1 = .wait then s.loadNext d o met
      else loadTiles n (s.loadNext d o met) d met
    | none => s

/-- The blocks of the tide tables in force (R281). -/
def blocksInForce (s : State) : List ImgBlock :=
  ((s.ownGroups.map (fun g => (s.group g).table)) ++ [0]).eraseDups.filterMap s.blockFor

/-- What the plan leaves free in a tide: of the stack transfer of R24 with its reserve, and of the lane-operations of the bays
that work (R24, R26, R370). -/
def freeStack (s : State) : Nat := 26214400 - (s.blocksInForce.map (·.stackLoad)).foldl max 0
def freeLanes (s : State) : Nat :=
  (((List.range 40).filter (fun b => !s.power.dumap.bays.contains b)).map (fun b =>
    6144000 - (s.blocksInForce.map (fun k => k.bayLoad.getD b 0)).foldl max 0)).foldl (· + ·) 0

/-- The most stack bytes and lane-operations that n tiles of an area take (R224, R232, R236). -/
def tilesBytes (d : ImgArea) (n : Nat) : Nat := n * slotSize d.cls + min n d.escPerTide * tileBytes
def tilesLanes (d : ImgArea) (store : Bool) (n : Nat) : Nat :=
  let r := slotRank d.cls
  n * (if store then 8192 + 3200 * r + 16 * r * r else 4224 + 1024 * r)

/-- What tiles above their planned rate have taken in this tide. -/
def extraNow (s : State) : Nat × Nat := if s.maint.extra.1 = s.now then s.maint.extra.2 else (0, 0)

/-- Free capacity is left in this tide for n tiles of an area above their planned rate (R370; DEDUCED, log entry 73). -/
def roomFor (s : State) (d : ImgArea) (store : Bool) (n : Nat) : Bool :=
  s.im.dynBalance && decide (s.extraNow.1 + tilesBytes d n ≤ s.freeStack ∧ s.extraNow.2 + tilesLanes d store n ≤ s.freeLanes)

/-- The tiles of the turn that an operation has next. -/
def turnTiles (d : ImgArea) (o : SpillOp) : Nat := Nat.min d.tilesPerTide (o.count - o.next)

/-- A turn of an operation that has had one in this tide is above the planned rate. -/
def isFast (s : State) (o : SpillOp) : Bool := o.lastTide == some s.now

/-- Whether the area runs an operation of the given kind whose tiles of this tide are still to do: with DYN_BALANCE 1 further
turns may run above the planned rate while capacity is free (R234, R370). -/
def runs (s : State) (a : Nat) (store : Bool) : Option (ImgArea × SpillOp) :=
  match s.im.areaDesc a, (s.area a).running with
  | some d, some o =>
    if o.isStore = store ∧ (!s.isFast o || s.roomFor d store (turnTiles d o)) then some (d, o) else none
  | _, _ => none

/-- A further store turn of a tide waits for the next tide where the escapes it calls for do not all fit beside those that the
tide has had: it would else store a tile lossy that escapes at the planned rate (R232, R239, R366, R370; DEDUCED, log entry
73). -/
def escapesWait (s : State) (d : ImgArea) (o : SpillOp) (tiles : List Bytes) : Bool :=
  let wanted := (List.range (turnTiles d o)).countP (fun k => callsEscape d (o.first + o.next + k) (tiles.getD k []))
  s.isFast o && s.escUsedNow d.area != 0
    && decide (d.escPerTide < s.escUsedNow d.area + min wanted (d.escSlots - (s.area d.area).cursor))

/-- A further load turn of a tide has to wait for the next one at its first tile: the stall is counted already (R233). -/
def loadWaits (s : State) (d : ImgArea) (o : SpillOp) (met : List Nat) : Bool :=
  s.isFast o && decide (o.next < o.count) && decide ((s.readTile d (o.first + o.next) met).1 = .wait)

/-- The tiles of a turn are taken up; one above the planned rate takes of what is free. -/
def takeTurn (s : State) (d : ImgArea) (o : SpillOp) : State :=
  let n := turnTiles d o
  let s := if s.isFast o then
      { s with maint := { s.maint with
          extra := (s.now, s.extraNow.1 + tilesBytes d n, s.extraNow.2 + tilesLanes d o.isStore n) } }
    else s
  s.modSpill d.area (fun o => { o with lastTide := some s.now })

/-- The tiles that the operation `o` has run since it stood as given count for its group's step (R370, R374). -/
def countTiles (s : State) (a : Nat) (o : SpillOp) : State :=
  let n := (((s.area a).running.map (·.next)).getD o.next) - o.next
  if n = 0 then s
  else if s.isFast o then s.modGroup o.group (fun x => { x with tilesFast := x.tilesFast + n })
  else s.noteMovable o.group n

/-- The tiles of a store of one tide, in ascending t. -/
def storeTiles (s : State) (d : ImgArea) (n : Nat) (tiles : List Bytes) : State :=
  (List.range n).foldl (fun s k => s.storeTile d (tiles.getD k [])) s

end State

/-- SPILL_STORE (R225, R234, R235). -/
def execSpillStore (group index : Nat) (s : State) : Result :=
  whenRunning s (fun s => s.startSpill group index Desc.opSpillStore)

/-- SPILL_LOAD (R225, R233, R235). -/
def execSpillLoad (group index : Nat) (s : State) : Result :=
  whenRunning s (fun s => s.startSpill group index Desc.opSpillLoad)

/-- SPILL_STORE_TILE (R230 to R232, R234): the tiles of one tide, in ascending t. -/
def execSpillStoreTile (area : Nat) (tiles : List Bytes) (s : State) : Result :=
  whenRunning s (fun s =>
    match s.runs area true with
    | some (d, o) =>
      if s.escapesWait d o tiles then s
      else (((s.takeTurn d o).storeTiles d (State.turnTiles d o) tiles).countTiles d.area o).finishSpill d.area
    | none => s)

/-- SPILL_LOAD_TILE (R233, R234): the tiles of one tide, in ascending t, with what their reads of the stacks met. -/
def execSpillLoadTile (area : Nat) (met : StackReads) (s : State) : Result :=
  whenRunning s (fun s =>
    match s.runs area false with
    | some (d, o) =>
      if s.loadWaits d o met.bad then s
      else
        ((State.loadTiles (State.turnTiles d o) ((s.takeTurn d o).readStack met) d met.bad).countTiles d.area
          o).finishSpill d.area
    | none => s)

end Sys2Proof.Machine
end

