-- ==== Sys2Proof/Machine/Crypto.lean ====
section
/-! DEFINITION. SHA-384 and ECDSA verification over P-384 (R274, R275). The spec names the two standards and gives no
formulas: what stands here is taken from them (log entry 20). -/

namespace Sys2Proof.Machine

open Sys2Proof

namespace Sha384

/-- The 80 round constants. -/
def consts0 : List Nat :=
  [0x428A2F98D728AE22, 0x7137449123EF65CD, 0xB5C0FBCFEC4D3B2F, 0xE9B5DBA58189DBBC,
   0x3956C25BF348B538, 0x59F111F1B605D019, 0x923F82A4AF194F9B, 0xAB1C5ED5DA6D8118,
   0xD807AA98A3030242, 0x12835B0145706FBE, 0x243185BE4EE4B28C, 0x550C7DC3D5FFB4E2,
   0x72BE5D74F27B896F, 0x80DEB1FE3B1696B1, 0x9BDC06A725C71235, 0xC19BF174CF692694,
   0xE49B69C19EF14AD2, 0xEFBE4786384F25E3, 0x0FC19DC68B8CD5B5, 0x240CA1CC77AC9C65,
   0x2DE92C6F592B0275, 0x4A7484AA6EA6E483, 0x5CB0A9DCBD41FBD4, 0x76F988DA831153B5,
   0x983E5152EE66DFAB, 0xA831C66D2DB43210, 0xB00327C898FB213F, 0xBF597FC7BEEF0EE4,
   0xC6E00BF33DA88FC2, 0xD5A79147930AA725, 0x06CA6351E003826F, 0x142929670A0E6E70,
   0x27B70A8546D22FFC, 0x2E1B21385C26C926, 0x4D2C6DFC5AC42AED, 0x53380D139D95B3DF,
   0x650A73548BAF63DE, 0x766A0ABB3C77B2A8, 0x81C2C92E47EDAEE6, 0x92722C851482353B]

def consts1 : List Nat :=
  [0xA2BFE8A14CF10364, 0xA81A664BBC423001, 0xC24B8B70D0F89791, 0xC76C51A30654BE30,
   0xD192E819D6EF5218, 0xD69906245565A910, 0xF40E35855771202A, 0x106AA07032BBD1B8,
   0x19A4C116B8D2D0C8, 0x1E376C085141AB53, 0x2748774CDF8EEB99, 0x34B0BCB5E19B48A8,
   0x391C0CB3C5C95A63, 0x4ED8AA4AE3418ACB, 0x5B9CCA4F7763E373, 0x682E6FF3D6B2B8A3,
   0x748F82EE5DEFB2FC, 0x78A5636F43172F60, 0x84C87814A1F0AB72, 0x8CC702081A6439EC,
   0x90BEFFFA23631E28, 0xA4506CEBDE82BDE9, 0xBEF9A3F7B2C67915, 0xC67178F2E372532B,
   0xCA273ECEEA26619C, 0xD186B8C721C0C207, 0xEADA7DD6CDE0EB1E, 0xF57D4F7FEE6ED178,
   0x06F067AA72176FBA, 0x0A637DC5A2C898A6, 0x113F9804BEF90DAE, 0x1B710B35131C471B,
   0x28DB77F523047D84, 0x32CAAB7B40C72493, 0x3C9EBE0A15C9BEBC, 0x431D67C49C100D4C,
   0x4CC5D4BECB3E42B6, 0x597F299CFC657E2A, 0x5FCB6FAB3AD6FAEC, 0x6C44198C4A475817]

def consts : List Nat := consts0 ++ consts1

/-- The initial hash value. -/
def init : List Nat :=
  [0xCBBB9D5DC1059ED8, 0x629A292A367CD507, 0x9159015A3070DD17, 0x152FECD8F70E5939,
   0x67332667FFC00B31, 0x8EB44A8768581511, 0xDB0C2E0D64F98FA7, 0x47B5481DBEFA4FA4]

def w64 : Nat := 2 ^ 64

/-- Rotate a 64-bit word right. -/
def rotr (x n : Nat) : Nat := (x >>> n) ||| (x * 2 ^ (64 - n) % w64)

def bigSigma0 (x : Nat) : Nat := rotr x 28 ^^^ rotr x 34 ^^^ rotr x 39
def bigSigma1 (x : Nat) : Nat := rotr x 14 ^^^ rotr x 18 ^^^ rotr x 41
def smallSigma0 (x : Nat) : Nat := rotr x 1 ^^^ rotr x 8 ^^^ (x >>> 7)
def smallSigma1 (x : Nat) : Nat := rotr x 19 ^^^ rotr x 61 ^^^ (x >>> 6)
def ch (x y z : Nat) : Nat := (x &&& y) ^^^ ((w64 - 1 - x) &&& z)
def maj (x y z : Nat) : Nat := (x &&& y) ^^^ (x &&& z) ^^^ (y &&& z)

/-- The padded message. -/
def pad (b : Bytes) : Bytes :=
  let n := b.length
  b ++ [0x80] ++ List.replicate ((239 - n % 128) % 128) 0 ++ beBytes 16 (8 * n)

/-- The message schedule, newest word first: `n` more words after the first sixteen. -/
def schedule : Nat → List Nat → List Nat
  | 0, w => w
  | n + 1, w =>
    let x := (smallSigma1 (w.getD 1 0) + w.getD 6 0 + smallSigma0 (w.getD 14 0) + w.getD 15 0) % w64
    schedule n (x :: w)

/-- One round on the working variables a to h. -/
def round (v : List Nat) (kw : Nat) : List Nat :=
  match v with
  | [a, b, c, d, e, f, g, h] =>
    let t1 := h + bigSigma1 e + ch e f g + kw
    let t2 := bigSigma0 a + maj a b c
    [(t1 + t2) % w64, a, b, c, (d + t1) % w64, e, f, g]
  | _ => v

/-- One block of 128 bytes. -/
def block (h : List Nat) (b : Bytes) : List Nat :=
  let w := (pieces 8 16 b).map beNat
  let ws := (schedule 64 w.reverse).reverse
  let v := (List.zipWith (· + ·) consts ws).foldl round h
  List.zipWith (fun x y => (x + y) % w64) h v

/-- The digest of 48 bytes. -/
def hash (b : Bytes) : Bytes :=
  let m := pad b
  (((pieces 128 (m.length / 128) m).foldl block init).take 6).flatMap (beBytes 8)

end Sha384

namespace P384

/-- The field prime, the coefficient b, the order n and the base point. The coefficient a is −3. -/
def p : Nat := 2 ^ 384 - 2 ^ 128 - 2 ^ 96 + 2 ^ 32 - 1
def coeffB : Nat :=
  0xB3312FA7E23EE7E4988E056BE3F82D19181D9C6EFE8141120314088F5013875AC656398D8A2ED19D2A85C8EDD3EC2AEF
def n : Nat :=
  0xFFFFFFFFFFFFFFFFFFFFFFFFFFFFFFFFFFFFFFFFFFFFFFFFC7634D81F4372DDF581A0DB248B0A77AECEC196ACCC52973
def gx : Nat :=
  0xAA87CA22BE8B05378EB1C71EF320AD746E1D3B628BA79B9859F741E082542A385502F25DBF55296C3A545E3872760AB7
def gy : Nat :=
  0x3617DE4A96262C6F5D9E98BF9292DC29F8F41DBD289A147CE9DA3113B5F0B8C00A60B1CE1D7E819D7A431D7C90EA0E5F

/-- The bits of a number, most significant first. -/
def bits (k x : Nat) : List Bool := ((List.range k).map (fun i => bitAt x i)).reverse

/-- x^e mod m. -/
def powMod (m x e : Nat) : Nat :=
  (bits 384 e).foldl (fun a b => let a := a * a % m; if b then a * x % m else a) 1

/-- The inverse modulo a prime. -/
def inv (m x : Nat) : Nat := powMod m x (m - 2)

/-- Add in the field; subtract. -/
def sub (x y : Nat) : Nat := (x + p - y % p) % p

/-- A point of the curve; none is the point at infinity. -/
abbrev Point := Option (Nat × Nat)

def onCurve (x y : Nat) : Bool :=
  decide (x < p) && decide (y < p) && y * y % p == (x * x * x + (p - 3) * x + coeffB) % p

def double : Point → Point
  | none => none
  | some (x, y) =>
    if y = 0 then none
    else
      let l := (3 * x * x + p - 3) * inv p (2 * y % p) % p
      let x' := sub (l * l % p) (2 * x)
      some (x', sub (l * sub x x' % p) y)

def add : Point → Point → Point
  | none, q => q
  | q, none => q
  | some (x1, y1), some (x2, y2) =>
    if x1 = x2 then (if y1 = y2 then double (some (x1, y1)) else none)
    else
      let l := sub y2 y1 * inv p (sub x2 x1) % p
      let x' := sub (sub (l * l % p) x1) x2
      some (x', sub (l * sub x1 x' % p) y1)

def mul (k : Nat) (q : Point) : Point :=
  (bits 384 k).foldl (fun a b => let a := double a; if b then add a q else a) none

/-- ECDSA verification of a digest with an uncompressed public key and the signature's r and s. -/
def verify (pub digest r s : Bytes) : Bool :=
  let x := beNat ((pub.drop 1).take 48)
  let y := beNat ((pub.drop 49).take 48)
  let r := beNat r
  let s := beNat s
  if pub.head? != some 4 || !onCurve x y || r == 0 || s == 0 || decide (n ≤ r) || decide (n ≤ s) then false
  else
    let w := inv n s
    let u1 := beNat digest * w % n
    let u2 := r * w % n
    match add (mul u1 (some (gx, gy))) (mul u2 (some (x, y))) with
    | some q => q.1 % n == r
    | none => false

end P384

end Sys2Proof.Machine
end

