-- ==== Sys2Proof/Machine/ImageParse.lean ====
section
/-! DEFINITION. Reading a structure image from its bytes (R272 to R289), and the FORMAT check of R290. -/

namespace Sys2Proof.Machine

open Sys2Proof

/-- A directory entry (R273). -/
structure Section_ where
  type    : Nat
  version : Nat
  offset  : Nat
  size    : Nat
  count   : Nat
  deriving DecidableEq, Repr

namespace Parse

/-- The header's LENGTH. -/
def length (b : Bytes) : Nat := rd b 0x08 4

/-- The 32 directory entries. -/
def directory (b : Bytes) : List Section_ :=
  (List.range 32).map (fun i =>
    let o := 0x100 + 16 * i
    { type := rd b o 2, version := rd b (o + 2) 2, offset := rd b (o + 4) 4, size := rd b (o + 8) 4, count := rd b (o + 12) 4 })

/-- The used entries. -/
def used (b : Bytes) : List Section_ := (directory b).takeWhile (fun e => e.type != 0)

def find (b : Bytes) (t : Nat) : Option Section_ := (used b).find? (fun e => e.type == t)

/-- The bytes of a section; empty where it is absent. -/
def body (b : Bytes) (t : Nat) : Bytes :=
  match find b t with
  | some e => (b.drop e.offset).take e.size
  | none => []

def count (b : Bytes) (t : Nat) : Nat := ((find b t).map (·.count)).getD 0

/-- The records of a section of fixed record size. -/
def records (b : Bytes) (t n : Nat) : List Bytes := pieces n (count b t) (body b t)

/-- Group numbers of a bitmap of 32 bytes. -/
def bitmap (b : Bytes) : Nat := leNat (b.take 32)

def pair (w : Nat) : Nat × Nat := (field w 0 32, field w 32 32)

/-- TIME (R277). -/
def time (b : Bytes) : ImgTime :=
  let dflt (v d : Nat) : Nat := if v = 0 then d else v
  { domain := rd b 0 1, sdo := field (rd b 2 2) 0 12, syncLog := signed 8 (rd b 4 1), announceLog := signed 8 (rd b 5 1),
    classMax := dflt (rd b 6 1) 6, loopBw := dflt (rd b 7 1) 3, holdoverH := dflt (rd b 8 2) 500,
    ppsRef := bitAt (rd b 0x0A 1) 0, revert := bitAt (rd b 0x0A 1) 1 }

/-- CHIPS (R278). -/
def chip (b : Bytes) : ImgChip :=
  { chip := rd b 0 4, cls := rd b 4 2, timePrimary := rd b 6 1, timeBackup := rd b 7 1, serial := rd b 8 8,
    mapHash := (b.drop 0x10).take 48,
    ports := (List.range 24).map (fun p =>
      let w := rd b (0x40 + 4 * p) 4
      { partner := field w 0 20, partnerPort := field w 20 5, role := field w 25 2 }) }

/-- CLASSES (R280). -/
def cls (b : Bytes) : ImgClass :=
  { cls := rd b 0 2,
    bays := (List.range 40).map (fun i =>
      let w := rd b (0x10 + 4 * i) 4
      { ebb := bitAt w 0, flood := bitAt w 1, select := bitAt w 2, spill := bitAt w 3, fabric := field w 4 2 }) }

/-- A table descriptor of TABLES with its reassignments (R281). -/
def table (b : Bytes) (t : Nat) : ImgTable :=
  let d := (b.drop (64 * t)).take 64
  let n := rd d 2 2
  let o := rd d 4 4
  { index := t, valid := rd d 0 1 == 1, changed := bitmap (d.drop 8),
    reassign := (List.range n).map (fun i => let w := rd b (o + 8 * i) 8; (field w 0 20, field w 20 16)) }

/-- A run (R282). -/
def run (w : Nat) : ImgRun :=
  { first := field w 0 10, count := field w 10 10, vc := field w 20 2, use := field w 22 2, group := field w 24 8,
    rail := field w 32 2, bay := field w 34 6, dir := field w 40 1, port := field w 41 5 }

/-- Where the table blocks begin in TABLES. -/
def blocksAt (b : Bytes) : Nat := 1024 + 8 * ((List.range 16).map (fun t => rd b (64 * t + 2) 2)).foldl (· + ·) 0

def block (b : Bytes) : ImgBlock :=
  { table := rd b 0 1, cls := rd b 2 2, stackLoad := rd b 8 4, lMax := (List.range 24).map (fun p => rd b (0x10 + 2 * p) 2),
    bayLoad := (List.range 40).map (fun i => rd b (0x40 + 4 * i) 4),
    runs := (List.range (rd b 4 4)).map (fun i => run (rd b (256 + 8 * i) 8)) }

/-- Table blocks one after another: the blocks, and the bytes they take. -/
def blocks : Nat → Bytes → List ImgBlock × Nat
  | 0, _ => ([], 0)
  | n + 1, b =>
    let k := 256 + 8 * rd b 4 4
    let r := blocks n (b.drop k)
    (block b :: r.1, k + r.2)

/-- Ring records one after another (R283): the records, and the bytes they take. -/
def rings : Nat → Bytes → List ImgRing × Nat
  | 0, _ => ([], 0)
  | n + 1, b =>
    let m := rd b 2 2
    let r := rings n (b.drop (16 + 8 * m))
    ({ group := rd b 0 1, table := rd b 1 1, n := m, rails := rd b 4 1, hG := rd b 6 2, wait := rd b 8 4,
       members := (List.range m).map (fun i =>
         let w := rd b (16 + 8 * i) 8
         { chip := field w 0 20, tx := (List.range 4).map (fun k => field w (20 + 5 * k) 5) }) } :: r.1, 16 + 8 * m + r.2)

/-- GROUPS (R284); the default group timeout is 32,768 tides (R156). -/
def group (b : Bytes) : ImgGroup :=
  { group := rd b 0 1, owner := rd b 1 1, slip := bitAt (rd b 2 1) 0,
    timeout := if rd b 4 4 = 0 then 32768 else rd b 4 4, stepBase := rd b 8 6 }

def encOf : Nat → Enc
  | 0 => .t4 | 1 => .k4 | 2 => .s1 | _ => .t8

def fbOf : Nat → FbKind
  | 1 => .extend | 2 => .codebook | 3 => .margin | _ => .none

/-- BUCKETS (R285). -/
def bucket (b : Bytes) : ImgBucket :=
  let rot := rd b 0x0B 1
  { bucket := field (rd b 0 2) 0 12, group := rd b 2 1, enc := encOf (field (rd b 3 1) 0 2), sparse := bitAt (rd b 3 1) 2,
    counts := bitAt (rd b 3 1) 3, l := rd b 4 4, chunkCells := rd b 8 2, outlierCells := rd b 0x0A 1,
    rotSize := if rot = 0 then 16 else if rot = 1 then 64 else 256, rotSeed := rd b 0x0C 8, extSeed := rd b 0x14 8,
    resFp32 := rd b 0x1C 1 == 1, etInit := signed 8 (rd b 0x1D 1), etMargin := rd b 0x1E 1, fbKind := fbOf (rd b 0x1F 1),
    fbParam := rd b 0x20 1, codebook := rd b 0x21 1, fbHold := rd b 0x22 2, clipThresh := rd b 0x24 4,
    ovfThresh := rd b 0x28 4, retClip := rd b 0x2C 4, retOvf := rd b 0x30 4, span := rd b 0x34 4, listCells := rd b 0x38 2,
    selK := rd b 0x3A 2, replayRounds := rd b 0x3C 1, offsetD := rd b 0x40 4, slotPos := rd b 0x44 2, resOff := rd b 0x48 8,
    retOff := rd b 0x50 8, retBytes := rd b 0x58 8 }

/-- CODEBOOKS (R286). -/
def codebook (b : Bytes) : Nat × List Int := (rd b 0 1, (List.range 16).map (fun i => signed 8 (rd b (0x10 + i) 1)))

/-- PARTITIONS (R287). -/
def part (b : Bytes) : ImgPart :=
  { valid := bitAt (rd b 0 1) 0, privileged := bitAt (rd b 0 1) 1, trigFirst := rd b 2 2, trigCount := rd b 4 2,
    spillQuota := rd b 8 8, stagingShare := rd b 0x10 4, contextShare := rd b 0x14 4, groups := bitmap (b.drop 0x20),
    windows := (List.range 8).map (fun i => (rd b (0x40 + 16 * i) 8, rd b (0x48 + 16 * i) 8)),
    flows := (List.range 16).filterMap (fun i =>
      let w := rd b (0xC0 + 4 * i) 4
      if bitAt w 16 then some (field w 0 8, field w 8 8) else none) }

/-- BIST (R288). -/
def bist (b : Bytes) : ImgBist :=
  { patternSeed := rd b 0 8, coveSig := (List.range 512).map (fun i => rd b (0x10 + 4 * i) 4),
    baySig := (List.range 64).map (fun i => rd b (0x810 + 4 * i) 4) }

/-- FAULT (R289). -/
def fault (b : Bytes) : ImgFault :=
  { group := rd b 0 1, auto := rd b 1 1 == 1, zero := rd b 2 1 == 1, rejoinWait := rd b 4 4, recoveryLead := rd b 8 4,
    alt := (List.range (rd b 3 1)).map (fun i => let w := rd b (0x10 + 4 * i) 4; (field w 0 20, field w 20 4)) }

/-- SPILL (R289). -/
def area (b : Bytes) : ImgArea :=
  { area := rd b 0 1, part := rd b 1 1, cls := rd b 2 1, escPerTide := rd b 3 1, tiles := rd b 4 4, base := rd b 8 8,
    escBase := rd b 0x10 8, escSlots := rd b 0x18 4, errBound := rd b 0x1C 2, tilesPerTide := rd b 0x1E 2,
    sketchSeed := rd b 0x20 8, decoders := rd b 0x28 2, fabric := rd b 0x2A 1, coves := leNat ((b.drop 0x30).take 80) }

/-- The whole image. -/
def image (b : Bytes) : Image :=
  let dom := body b 1
  let tab := body b 5
  { length := length b, rollback := rd b 0x0C 4, engineVersion := rd b 0x1C 4, epochSec := rd dom 0 6, epochNs := rd dom 8 4,
    dynBalance := bitAt (rd dom 0x0C 4) 0, res0 := pair (rd dom 0x10 8), res1 := pair (rd dom 0x18 8),
    retain := pair (rd dom 0x20 8), spill := pair (rd dom 0x28 8), time := time (body b 2),
    chips := (records b 3 160).map chip, classes := (records b 4 256).map cls,
    tables := (List.range 16).map (table tab), blocks := (blocks (count b 5) (tab.drop (blocksAt tab))).1,
    groups := (records b 6 32).map group, rings := (rings (count b 7) (body b 7)).1,
    buckets := (records b 8 128).map bucket, codebooks := (records b 9 32).map codebook,
    parts := (records b 0x0A 256).map part, bist := bist (body b 0x0B), faults := (records b 0x0C 96).map fault,
    areas := (records b 0x0D 128).map area }

/-! ### FORMAT (R272, R273, R276 to R289) -/

/-- Bytes `off` to `off + n − 1` of a record are zero, for each of a list of ranges. -/
def zeros (b : Bytes) (l : List (Nat × Nat)) : Bool := l.all (fun r => zeroAt b r.1 r.2)

/-- Bits [lo + n − 1 : lo] of a field of `w` bytes are zero. -/
def zbits (b : Bytes) (off w lo n : Nat) : Bool := field (rd b off w) lo n == 0

/-- Consecutive entries rise by a key. -/
def rising {α : Type} (key : α → Nat) : List α → Bool
  | [] => true
  | x :: l => (match l.head? with | some y => decide (key x < key y) | none => true) && rising key l

/-- Record size of a section of fixed records, and its least and largest COUNT (R273). -/
def shape (t : Nat) : Option (Nat × Nat × Nat) :=
  match t with
  | 0x01 => some (64, 1, 1)
  | 0x02 => some (32, 1, 1)
  | 0x03 => some (160, 1, 16384)
  | 0x04 => some (256, 1, 256)
  | 0x06 => some (32, 0, 256)
  | 0x08 => some (128, 0, 4096)
  | 0x09 => some (32, 0, 64)
  | 0x0A => some (256, 8, 8)
  | 0x0B => some (2320, 1, 1)
  | 0x0C => some (96, 0, 256)
  | 0x0D => some (128, 0, 64)
  | _ => none

/-- SIZE and COUNT of a section agree. -/
def sizeOk (b : Bytes) (e : Section_) : Bool :=
  match shape e.type with
  | some (n, lo, hi) => decide (lo ≤ e.count ∧ e.count ≤ hi) && e.size == n * e.count
  | none =>
    if e.type = 5 then
      let tab := body b 5
      e.size == blocksAt tab + (blocks e.count (tab.drop (blocksAt tab))).2
    else if e.type = 7 then e.size == (rings e.count (body b 7)).2
    else false

/-- Sections lie in ascending OFFSET without overlap, from 0x300 on and before the signature block, with zeros between
them. -/
def placed (b : Bytes) (len : Nat) : Nat → List Section_ → Bool
  | at_, [] => decide (at_ + 256 ≤ len) && zeroAt b at_ (len - 256 - at_)
  | at_, e :: l =>
    decide (at_ ≤ e.offset) && e.offset % 256 == 0 && zeroAt b at_ (e.offset - at_) && placed b len (e.offset + e.size) l

def dirOk (b : Bytes) : Bool :=
  let d := directory b
  let u := used b
  (d.drop u.length).all (fun e => e == ⟨0, 0, 0, 0, 0⟩) && rising (·.type) u
    && u.all (fun e => e.version == 1 && decide (e.type ≤ 0x0D) && sizeOk b e) && placed b (length b) 0x300 u
    && [1, 2, 3, 4, 5, 0x0A, 0x0B].all (fun t => (find b t).isSome)
    && ((find b 6).isNone || ((find b 7).isSome && (find b 0x0C).isSome)) && count b 0x0C == count b 6

/-- Reserved fields of the records are zero. -/
def reservedOk (b : Bytes) : Bool :=
  let tab := body b 5
  zeros b [(0x06, 2), (0x20, 224)]
  && zeros (b.drop (length b - 256)) [(0x61, 3), (0xC4, 60)]
  && zeros (body b 1) [(6, 2), (0x30, 16)] && zbits (body b 1) 0x0C 4 1 31
  && zeros (body b 2) [(1, 1), (0x0B, 21)] && zbits (body b 2) 2 2 12 4 && zbits (body b 2) 0x0A 1 2 6
  && (records b 3 160).all (fun r => zbits r 0 4 20 12 && (List.range 24).all (fun p => zbits r (0x40 + 4 * p) 4 27 5))
  && (records b 4 256).all (fun r => zeros r [(2, 14), (0xB0, 80)]
       && (List.range 40).all (fun i => zbits r (0x10 + 4 * i) 4 6 26))
  && (List.range 16).all (fun t => zeros (tab.drop (64 * t)) [(1, 1), (0x28, 24)]
       && (List.range (rd tab (64 * t + 2) 2)).all (fun i => zbits tab (rd tab (64 * t + 4) 4 + 8 * i) 8 36 28))
  && blockReserved (count b 5) (tab.drop (blocksAt tab))
  && (records b 6 32).all (fun r => zeros r [(3, 1), (0x0E, 18)] && zbits r 2 1 1 7)
  && ringReserved (count b 7) (body b 7)
  && (records b 8 128).all (fun r => zbits r 0 2 12 4 && zbits r 3 1 4 4 && zeros r [(0x3D, 3), (0x46, 2), (0x60, 32)])
  && (records b 9 32).all (fun r => zeros r [(1, 15)])
  && (records b 0x0A 256).all (fun r => zbits r 0 1 2 6 && zeros r [(1, 1), (6, 2), (0x18, 8)]
       && (List.range 16).all (fun i => zbits r (0xC0 + 4 * i) 4 17 15))
  && zeros (body b 0x0B) [(0x0C, 4)]
  && (records b 0x0C 96).all (fun r => zeros r [(0x0C, 4), (0x50, 16)]
       && (List.range 16).all (fun i => zbits r (0x10 + 4 * i) 4 24 8 && (decide (i < rd r 3 1) || zeroAt r (0x10 + 4 * i) 4)))
  && (records b 0x0D 128).all (fun r => zeros r [(0x2B, 5)])
where
  /-- Reserved fields of table blocks and runs. -/
  blockReserved : Nat → Bytes → Bool
    | 0, _ => true
    | n + 1, b =>
      let k := rd b 4 4
      zeros b [(1, 1), (0x0C, 4), (0xE0, 32)] && (List.range k).all (fun i => zbits b (256 + 8 * i) 8 46 18)
        && blockReserved n (b.drop (256 + 8 * k))
  /-- Reserved fields of ring records. -/
  ringReserved : Nat → Bytes → Bool
    | 0, _ => true
    | n + 1, b =>
      let k := rd b 2 2
      zeros b [(5, 1), (0x0C, 4)] && (List.range k).all (fun i => zbits b (16 + 8 * i) 8 40 24)
        && ringReserved n (b.drop (16 + 8 * k))

/-- Records stand in the order that R273, R281 and R283 give. -/
def orderOk (im : Image) : Bool :=
  rising (·.chip) im.chips && rising (·.cls) im.classes && rising (fun x => x.table * 65536 + x.cls) im.blocks
    && rising (·.group) im.groups && rising (fun x => x.group * 256 + x.table) im.rings && rising (·.bucket) im.buckets
    && rising (fun x => x.1) im.codebooks && rising (·.group) im.faults && rising (·.area) im.areas
    && im.faults.map (·.group) == im.groups.map (·.group)

/-- The header of R272. -/
def headerOk (b : Bytes) : Bool :=
  let n := length b
  rd b 0 4 == 0x4D49585A && rd b 4 2 == 1 && n % 256 == 0 && decide (1024 ≤ n ∧ n ≤ 4157440)

/-- Check 1 of R290. -/
def formatOk (b : Bytes) : Bool := headerOk b && dirOk b && reservedOk b && orderOk (image b)

end Parse

end Sys2Proof.Machine
end

