-- ==== Sys2Proof/Machine/ImageCheck.lean ====
section
/-! DEFINITION. The checks of VERIFY after FORMAT, in the order of R290. -/

namespace Sys2Proof.Machine

open Sys2Proof

/-- Two lists' ranges (address, length) are free of overlaps among themselves. -/
def disjointRanges : List (Nat × Nat) → Bool
  | [] => true
  | x :: l => l.all (fun y => !overlap x.1 x.2 y.1 y.2) && disjointRanges l

/-- No element occurs twice. -/
def distinct : List Nat → Bool
  | [] => true
  | x :: l => !l.contains x && distinct l

namespace Check

def pub (b : Bytes) : Bytes := (b.drop (Parse.length b - 256)).take 97
def sigR (b : Bytes) : Bytes := (b.drop (Parse.length b - 256 + 0x64)).take 48
def sigS (b : Bytes) : Bytes := (b.drop (Parse.length b - 256 + 0x94)).take 48

/-- The image hash (R274). -/
def hash (b : Bytes) : Bytes := Sha384.hash (b.take (Parse.length b - 256))

/-- KEY: some programmed, unrevoked slot holds the digest of PUBKEY (R275). -/
def keyOk (keys : List KeySlot) (b : Bytes) : Bool :=
  let d := Sha384.hash (pub b)
  keys.any (fun k => k.programmed && !k.revoked && k.digest == d)

/-- VERSION (R272). -/
def versionOk (im : Image) : Bool :=
  let v := im.engineVersion
  v / 2 ^ 8 == Config.engineVersion / 2 ^ 8 && decide (v % 2 ^ 8 ≤ Config.engineVersion % 2 ^ 8)

/-! ### RANGE -/

def hasClass (im : Image) (c : Nat) : Bool := im.classes.any (fun x => x.cls == c)
def hasGroup (im : Image) (g : Nat) : Bool := im.groups.any (fun x => x.group == g)
def hasTable (im : Image) (t : Nat) : Bool := (im.tableDesc t).isSome
def groupsIn (bits : Nat) : List Nat := (List.range 256).filter (fun g => bitAt bits g)

def headRange (b : Bytes) (im : Image) : Bool :=
  let t := Parse.body b 2
  decide (im.rollback ≤ 64 ∧ im.epochNs ≤ 999999999) && decide (-7 ≤ im.time.syncLog ∧ im.time.syncLog ≤ -3)
    && decide (-3 ≤ im.time.announceLog ∧ im.time.announceLog ≤ 0) && decide (rd t 7 1 ≤ 10 ∧ rd t 8 2 ≤ 10000)

def chipRange (im : Image) (c : ImgChip) : Bool :=
  hasClass im c.cls && [c.timePrimary, c.timeBackup].all (fun p => p < 24 || p == 0xFF)
    && c.ports.all (fun w => if w.role = 1 then decide (w.partnerPort < 24) else w.partner == 0 && w.partnerPort == 0)

/-- Table descriptors (R281). -/
def tableRange (b : Bytes) (im : Image) : Bool :=
  let tab := Parse.body b 5
  hasTable im 0 && im.tables.all (fun t =>
    decide (rd tab (64 * t.index) 1 ≤ 1)
    && (t.index != 0 || (t.changed == 0 && t.reassign.isEmpty))
    && (groupsIn t.changed).all (hasGroup im) && t.reassign.all (fun r => hasClass im r.2)
    && (t.reassign.isEmpty ||
        (let o := rd tab (64 * t.index + 4) 4
         o % 8 == 0 && decide (1024 ≤ o ∧ o + 8 * t.reassign.length ≤ Parse.blocksAt tab))))

def runRange (im : Image) (r : ImgRun) : Bool :=
  decide (8 ≤ r.first ∧ 1 ≤ r.count ∧ r.first + r.count ≤ 1024 ∧ r.bay < 40 ∧ r.port < 24)
    && (if r.vc = 0 then decide (r.use ≤ 2) else if r.vc = 1 then r.use == 0 || r.use == 2 else r.use == 0)
    && (if r.vc ≤ 1 then hasGroup im r.group else r.group == 0 && r.rail == 0)

def blockRange (im : Image) (k : ImgBlock) : Bool :=
  hasTable im k.table && hasClass im k.cls && decide (1 ≤ k.runs.length ∧ k.runs.length ≤ 49152) && k.runs.all (runRange im)
    && k.lMax.all (fun l => decide (l ≤ 400))

def groupRange (im : Image) (g : ImgGroup) : Bool :=
  decide (g.owner ≤ 8) && (g.owner == 8 || (im.partDesc g.owner).valid)

def ringRange (im : Image) (r : ImgRing) : Bool :=
  hasGroup im r.group && hasTable im r.table && decide (2 ≤ r.n ∧ r.n ≤ 16384 ∧ 1 ≤ r.rails ∧ r.rails ≤ 4)
    && r.members.all (fun m => (m.tx.zipIdx).all (fun x => if x.2 < r.rails then decide (x.1 < 24) else x.1 == 0))

def hasBook (im : Image) (n : Nat) : Bool := im.codebooks.any (fun c => c.1 == n)

/-- The codebooks that a bucket names exist; a missing one is both a reference of RANGE and a case of CONSISTENCY (R290),
and RANGE stands first. -/
def booksNamed (im : Image) (d : ImgBucket) : Bool :=
  (d.enc != .k4 || hasBook im d.codebook) && (d.fbKind != .codebook || hasBook im d.fbParam)

/-- A bucket's own fields (R86, R111, R285). -/
def bucketRange (im : Image) (b : Bytes) : Bool :=
  let d := Parse.bucket b
  let kind := rd b 0x1F 1
  let p := d.fbParam
  hasGroup im d.group && decide (1 ≤ d.l) && decide (d.outlierCells ≤ 16) && decide (rd b 0x0B 1 ≤ 2) && decide (rd b 0x1C 1 ≤ 1)
    && decide (d.etMargin ≤ 24) && decide (kind ≤ 3)
    && (if kind = 1 then p == 4 || p == 16
        else if kind = 2 then decide (p < 64) && (d.sparse || d.enc == .t4 || d.enc == .k4)
        else if kind = 3 then decide (1 ≤ p ∧ p ≤ 8) else p == 0)
    && (if d.enc = .k4 then decide (d.codebook < 64) else d.codebook == 0)
    && decide (1 ≤ d.fbHold ∧ d.retClip ≤ d.clipThresh ∧ d.retOvf ≤ d.ovfThresh ∧ d.replayRounds ≤ 4 ∧ 2 ≤ d.offsetD
               ∧ d.slotPos ≤ 1015) && d.resOff % 256 == 0 && d.retOff % 256 == 0
    && (if d.sparse then d.enc == .t4 && d.chunkCells == 0 && decide (1 ≤ d.span ∧ d.span ≤ 1048575 ∧ 1 ≤ d.listCells
              ∧ d.listCells ≤ 256 ∧ 1 ≤ d.selK)
        else decide (1 ≤ d.chunkCells ∧ d.chunkCells ≤ 256) && d.span == 0 && d.listCells == 0 && d.selK == 0)

/-- A codebook obeys R69. -/
def levelsOk (l : List Int) : Bool :=
  l.length == 16 && (List.zipWith (fun a b => decide (a < b)) l (l.drop 1)).all id && l.contains 0
    && decide (l.getD 0 0 ≤ -1) && decide (1 ≤ l.getD 15 0)

def partRange (im : Image) (p : ImgPart) : Bool :=
  !p.valid || (decide (p.trigFirst ≤ 4095 ∧ p.trigFirst + p.trigCount ≤ 4096 ∧ p.stagingShare ≤ 49152
      ∧ p.contextShare ≤ 262144) && p.spillQuota % 2 ^ 20 == 0 && (groupsIn p.groups).all (hasGroup im)
    && p.windows.all (fun w => w.1 % 4096 == 0 && w.2 % 4096 == 0) && p.flows.all (fun f => decide (1 ≤ f.2)))

/-- A FAULT entry's own fields; an ALT word names a table other than 0 that is there (R209, R289, R290). -/
def faultRange (im : Image) (b : Bytes) : Bool :=
  let f := Parse.fault b
  decide (rd b 1 1 ≤ 1 ∧ rd b 2 1 ≤ 1 ∧ rd b 3 1 ≤ 16 ∧ 4096 ≤ f.recoveryLead ∧ f.recoveryLead ≤ 2 ^ 20)
    && f.alt.all (fun a => a.2 != 0 && (im.tableDesc a.2).isSome)

/-- A spill area's own fields (R223). -/
def areaRange (im : Image) (a : ImgArea) : Bool :=
  decide (a.area ≤ 63 ∧ a.part ≤ 7 ∧ a.cls ≤ 2 ∧ a.escPerTide ≤ 64 ∧ 1 ≤ a.tiles ∧ a.tiles ≤ 2 ^ 24 ∧ a.escSlots ≤ 2 ^ 20
          ∧ 1 ≤ a.errBound ∧ 1 ≤ a.tilesPerTide ∧ a.tilesPerTide ≤ 4096 ∧ 1 ≤ a.decoders ∧ a.decoders ≤ 600 ∧ a.fabric ≤ 3)
    && a.base % 2 ^ 20 == 0 && a.escBase % 2 ^ 20 == 0 && (im.partDesc a.part).valid

def rangeOk (b : Bytes) (im : Image) : Bool :=
  headRange b im && im.chips.all (chipRange im) && im.classes.all (fun c => decide (c.cls ≤ 255)) && tableRange b im
    && im.blocks.all (blockRange im) && im.groups.all (groupRange im) && im.rings.all (ringRange im)
    && (Parse.records b 8 128).all (bucketRange im) && im.buckets.all (booksNamed im) && im.codebooks.all (fun c => decide (c.1 < 64) && levelsOk c.2)
    && im.parts.all (partRange im) && rd (Parse.body b 0x0B) 8 2 == 512 && rd (Parse.body b 0x0B) 0x0A 2 == 64
    && (Parse.records b 0x0C 96).all (faultRange im) && im.areas.all (areaRange im)

/-! ### LAYOUT -/

def mibs (r : Nat × Nat) : Nat × Nat := (r.1 * 2 ^ 20, r.2 * 2 ^ 20)

/-- Slot and escape regions of an area, as offsets in the spill region. -/
def areaRanges (a : ImgArea) : List (Nat × Nat) :=
  [(a.base, a.tiles * slotSize a.cls), (a.escBase, a.escSlots * tileBytes)]

/-- R93, R95, R111, R130, R169 and the regions (R285). The one chunk of a dense bucket begins at position 0, so R93 asks
nothing of its span; R111 asks it of every sparse bucket. -/
def bucketLayout (im : Image) (d : ImgBucket) : Bool :=
  (d.fbKind != .extend || decide (d.rotSize * d.fbParam ≤ 256))
    && (spanOf d % rotSpan d == 0 || (!d.sparse && chunkCount d == 1))
    && (!d.sparse || (decide (d.selK ≤ listCap d) && d.outlierCells == 0 && d.fbKind != .codebook))
    && decide (1 ≤ chunkCellsOf d ∧ chunkCellsOf d ≤ 256) && decide (chunkCount d ≤ 2 ^ 20 - 1)
    && decide (d.resOff + rotLength d * resWidth d ≤ (mibs im.res0).2 ∧ d.retOff + d.retBytes ≤ (mibs im.retain).2)

def layoutOk (im : Image) : Bool :=
  let regions := [mibs im.res0, mibs im.res1, mibs im.retain, mibs im.spill]
  disjointRanges regions && regions.all (fun r => decide (r.1 + r.2 ≤ 2 ^ 35)) && im.res0.2 == im.res1.2
    && im.buckets.all (bucketLayout im)
    && disjointRanges (im.buckets.map (fun d => (d.resOff, rotLength d * resWidth d)))
    && disjointRanges (im.buckets.map (fun d => (d.retOff, d.retBytes)))
    && disjointRanges (im.areas.flatMap areaRanges)
    && (im.areas.flatMap areaRanges).all (fun r => decide (r.1 + r.2 ≤ (mibs im.spill).2))
    && (List.range 8).all (fun p =>
         let used := ((im.areas.filter (fun a => a.part == p)).flatMap areaRanges).map (fun x => x.2)
         decide (used.foldl (· + ·) 0 ≤ (im.partDesc p).spillQuota))

/-! ### SCHEDULE -/

/-- Runs of one port and direction as slot ranges. -/
def runRanges (k : ImgBlock) (port dir : Nat) : List (Nat × Nat) :=
  (k.runs.filter (fun r => r.port == port && r.dir == dir)).map (fun r => (r.first, r.count))

def vc3Slots (k : ImgBlock) (port dir : Nat) : Nat :=
  ((k.runs.filter (fun r => r.port == port && r.dir == dir && r.vc == 3)).map (·.count)).foldl (· + ·) 0

/-- Chips that use a block: those of its class under its table, and for a block of table 0 those of every table that
has no block of its own for the class. -/
def users (im : Image) (k : ImgBlock) : List ImgChip :=
  im.chips.filter (fun c => (List.range 16).any (fun t =>
    hasTable im t && im.blockUnder t (im.classUnder c t) == some k))

/-- A block's slots: no overlap, slots 0 to 7 free, L_MAX and retransmission slots (R177), and for every chip that uses the
block only VC3 on a port whose role is not RING (R282) and two VC3 slots in each direction of a port in use (R47). A run
before slot 8 and an L_MAX above 400 are outside their fields' own ranges (R282), so RANGE has refused them before. -/
def blockSchedule (im : Image) (k : ImgBlock) : Bool :=
  (List.range 24).all (fun p => [0, 1].all (fun dir => disjointRanges (runRanges k p dir)))
    && k.runs.all (fun r => decide (8 ≤ r.first)) && k.lMax.all (fun l => decide (l ≤ 400))
    && k.runs.all (fun r => r.use != 2 || decide (2 * k.lMax.getD r.port 0 + 24 ≤ r.first))
    && (users im k).all (fun c => (c.ports.zipIdx).all (fun w =>
         (w.1.role == 1 || k.runs.all (fun r => r.port != w.2 || r.vc == 3))
           && (w.1.role == 0 || [0, 1].all (fun dir => decide (2 ≤ vc3Slots k w.2 dir)))))

/-- Every chip has a block under every valid table. -/
def blocksThere (im : Image) : Bool :=
  (im.tables.filter (·.valid)).all (fun t => im.chips.all (fun c => (im.blockUnder t.index (im.classUnder c t.index)).isSome))

/-- Length of a rail's ebb or flood sequence on a member under a ring record. -/
def seqLength (im : Image) (r : ImgRing) (m : ImgMember) (rail use : Nat) : Nat :=
  match im.chipNo m.chip with
  | some c =>
    match im.blockUnder r.table (im.classUnder c r.table) with
    | some k => ((k.runs.filter (fun x => x.vc == 0 && x.use == use && x.dir == 0 && x.group == r.group && x.rail == rail
        && x.port == m.tx.getD rail 0)).map (·.count)).foldl (· + ·) 0
    | none => 0
  | none => 0

def slotPosOk (im : Image) (d : ImgBucket) : Bool :=
  (im.rings.filter (fun r => r.group == d.group)).all (fun r => r.members.all (fun m =>
    (List.range r.rails).all (fun k => [0, 1].all (fun use =>
      decide (d.slotPos + chunkCellsOf d ≤ seqLength im r m k use)))))

/-- The planned extent of a bucket's operation from B_s = 0: first tide and the verdict tide of its last replay round
(R138, R189, R190). -/
def extent (d : ImgBucket) (n rails : Nat) : Nat × Nat :=
  let v0 := d.offsetD + (ceilDiv (ceilDiv (chunkCount d) rails) n - 1) * n + 2 * n - 2 + lambda n
  let last := if d.replayRounds = 0 then v0 else v0 + 2 + (d.replayRounds - 1) * (2 * n + lambda n) + 2 * n - 2 + lambda n
  (d.offsetD - 2, last)

/-- Two buckets of a group share no slot position while their extents share a tide. -/
def apart (r : ImgRing) (a b : ImgBucket) : Bool :=
  let x := extent a r.n r.rails
  let y := extent b r.n r.rails
  decide (x.2 < y.1 ∨ y.2 < x.1) || !overlap a.slotPos (chunkCellsOf a) b.slotPos (chunkCellsOf b)

def pairsOk {α : Type} (f : α → α → Bool) : List α → Bool
  | [] => true
  | x :: l => l.all (f x) && pairsOk f l

/-- Slots of a group in a block, as (port, direction, slot, VC, use, rail, bay). -/
def groupSlots (k : Option ImgBlock) (g : Nat) : List (Nat × Nat × Nat × Nat × Nat × Nat × Nat) :=
  match k with
  | some k => (k.runs.filter (fun r => decide (r.vc ≤ 1) && r.group == g)).flatMap (fun r =>
      (rangeFrom r.first r.count).map (fun s => (r.port, r.dir, s, r.vc, r.use, r.rail, r.bay)))
  | none => []

/-- The ring under an alternate replaces one chip or leaves members out (R212). -/
def ringChange (old new : List Nat) : Bool :=
  if new.length = old.length then decide (((old.zip new).filter (fun x => x.1 != x.2)).length = 1)
  else decide (new.length < old.length) && new.isSublist old

/-- R212 for an alternate table. -/
def alternateOk (im : Image) (t : ImgTable) : Bool :=
  im.chips.all (fun c => im.groups.all (fun g =>
    bitAt t.changed g.group ||
      (let a := groupSlots (im.blockUnder t.index (im.classUnder c t.index)) g.group
       let b := groupSlots (im.blockUnder 0 (im.classUnder c 0)) g.group
       a.all b.contains && b.all a.contains)))
  && (groupsIn t.changed).all (fun g =>
    match im.ringRecord g 0, im.ringRecord g t.index with
    | some a, some b => ringChange (a.members.map (·.chip)) (b.members.map (·.chip))
    | _, _ => true)

def scheduleOk (im : Image) : Bool :=
  im.blocks.all (blockSchedule im) && blocksThere im && im.buckets.all (slotPosOk im)
    && im.groups.all (fun g => (im.rings.filter (fun r => r.group == g.group)).all (fun r =>
         pairsOk (apart r) (im.bucketsOf g.group)))
    && im.tables.all (fun t => !t.valid || t.index == 0 || alternateOk im t)

/-! ### LOAD, EXPRESS, FAULT, CONSISTENCY -/

/-- Lane-operations to store a tile at the area's rank (R236). -/
def storeCost (cls : Nat) : Nat := let r := slotRank cls; 8192 + 3200 * r + 16 * r * r

/-- Bytes a fabric port moves in a tide: 4 TB/s (R3) for 2.56 µs. -/
def fabricBytes : Nat := 10240000

/-- Fabric bytes per tide of the areas bound to a port (R237). -/
def fabricLoad (im : Image) (k : Nat) : Nat :=
  ((im.areas.filter (fun a => a.fabric == k)).map (fun a => a.tilesPerTide * tileBytes)).foldl (· + ·) 0

/-- LOAD (R24, R26, R109, R237). The image declares no share of a fabric port, so the areas of a port are held to all the
port can carry (log 98). -/
def loadOk (im : Image) : Bool :=
  im.blocks.all (fun k => decide (k.stackLoad ≤ 25165824) && k.bayLoad.all (fun l => decide (l ≤ 6144000)))
    && im.areas.all (fun a => decide (ceilDiv a.tilesPerTide a.decoders * storeCost a.cls ≤ 409600))
    && (List.range 4).all (fun k => decide (fabricLoad im k ≤ fabricBytes))

/-- L_MAX of a chip's port under a table. -/
def lMaxOf (im : Image) (t chip port : Nat) : Nat :=
  ((im.chipNo chip).bind (fun c => im.blockUnder t (im.classUnder c t))).elim 0 (fun k => k.lMax.getD port 0)

/-- Delay bound of a link in quarters of a nanosecond: 2.5 ns · L_max + 1.25 ns (R170). -/
def linkBound (im : Image) (t chip port : Nat) : Nat :=
  match (im.chipNo chip).bind (fun c => c.ports[port]?) with
  | some w => 10 * max (lMaxOf im t chip port) (lMaxOf im t w.partner w.partnerPort) + 5
  | none => 5

/-- The fit of R170. -/
def expressOk (im : Image) : Bool :=
  im.rings.all (fun r =>
    let links := (r.members.map (fun m => linkBound im r.table m.chip (m.tx.getD 0 0))).foldl (· + ·) 0
    decide (4 * 36 * r.n + links + 4 * r.wait ≤ 4 * (lambda r.n - 1) * 2560))

def faultOk (im : Image) : Bool :=
  im.faults.all (fun f =>
    (im.rings.filter (fun r => r.group == f.group)).all (fun r => decide (2 * r.n + 4096 ≤ f.recoveryLead))
      && f.alt.all (fun a => a.2 != 0 && ((im.tableDesc a.2).map (fun t => bitAt t.changed f.group)).getD false))

/-- A RING port's partner names it in return; time ports have ROLE TIME (R278). -/
def chipConsistent (im : Image) (c : ImgChip) : Bool :=
  [c.timePrimary, c.timeBackup].all (fun p => p == 0xFF || ((c.ports[p]?).map (·.role)) == some 2)
    && (c.ports.zipIdx).all (fun w => w.1.role != 1 ||
        (match (im.chipNo w.1.partner).bind (fun k => k.ports[w.1.partnerPort]?) with
         | some x => x.role == 1 && x.partner == c.chip && x.partnerPort == w.2
         | none => false))

/-- Group sets are those of the owners (R284), and what different partitions hold is disjoint (R287); one
partition may hold a flow number twice. -/
def partsConsistent (im : Image) : Bool :=
  (List.range 8).all (fun p => (List.range 256).all (fun g =>
      bitAt (im.partDesc p).groups g == im.groups.any (fun d => d.group == g && d.owner == p)))
    && disjointRanges (im.parts.map (fun p => (p.trigFirst, p.trigCount)))
    && distinct (im.parts.flatMap (fun p => (p.flows.map (fun f => f.1)).eraseDups))

/-- Rings are there where CHANGED says so, and their ports lead to the successors (R283). -/
def ringsConsistent (im : Image) : Bool :=
  im.groups.all (fun g => (List.range 16).all (fun t =>
      (im.ringRecord g.group t).isSome == (t == 0 || (hasTable im t && ((im.tableDesc t).map (fun d => bitAt d.changed g.group)).getD false))))
    && im.rings.all (fun r => distinct (r.members.map (·.chip)) && (r.members.zipIdx).all (fun m =>
      (List.range r.rails).all (fun k =>
        match (im.chipNo m.1.chip).bind (fun c => c.ports[m.1.tx.getD k 0]?), State.memberAt r (m.2 + 1) with
        | some w, some nx => w.role == 1 && w.partner == nx.chip
        | _, _ => false)))

/-- COVES names exactly DECODERS positions, each in a bay with SPILL in every class (R289). -/
def areaConsistent (im : Image) (a : ImgArea) : Bool :=
  let on := (List.range 640).filter (fun i => bitAt a.coves i)
  on.length == a.decoders && on.all (fun i => decide (i < 600) && im.classes.all (fun c =>
    ((c.bays[i / 15]?).map (·.spill)).getD false))

def consistencyOk (b : Bytes) (im : Image) : Bool :=
  (Parse.records b 0x0A 256).all (fun r => bitAt (rd r 0 1) 0 || zeroAt r 1 255)
    && distinct (im.chips.map (·.serial)) && im.chips.all (chipConsistent im) && partsConsistent im && ringsConsistent im
    && im.areas.all (areaConsistent im)
    && im.buckets.all (booksNamed im)

/-! ### VERIFY -/

/-- The first failing check's code, or 0 (R290). -/
def verify (keys : List KeySlot) (floor serial : Nat) (b : Bytes) : Nat :=
  let im := Parse.image b
  if !Parse.formatOk b then 1
  else if !keyOk keys b then 2
  else if !P384.verify (pub b) (hash b) (sigR b) (sigS b) then 3
  else if im.rollback < floor then 4
  else if !versionOk im then 5
  else if (im.chipOf serial).isNone then 6
  else if !rangeOk b im then 7
  else if !layoutOk im then 8
  else if !scheduleOk im then 9
  else if !loadOk im then 10
  else if !expressOk im then 11
  else if !faultOk im then 12
  else if !consistencyOk b im then 13
  else 0

end Check

end Sys2Proof.Machine
end

