-- ==== Sys2Proof/Machine/Hold.lean ====
section
/-! DEFINITION. Slot descriptors of the store (R269, R270), what a reset keeps (R407, R414), entry into Hold (R409) and
the waiting of restarts (R415). -/

namespace Sys2Proof.Machine

open Sys2Proof

/-- Bytes of an image slot; where slot n and its descriptor lie in the store (R269). -/
def slotBytes : Nat := 4157440
def slotAt (n : Nat) : Nat := if n = 0 then 0x012000 else 0x409000
def descAt (n : Nat) : Nat := 0x010000 + 0x1000 * n

namespace State

/-! ### Slot descriptors (R270) -/

def slotDesc (s : State) (n : Nat) : Bytes := s.nv.bytes.readBytes (descAt n) 128

/-- What a slot holds; after a cut STORE that is open. -/
def slotContent (s : State) (n : Nat) : Bytes :=
  match s.nv.cutSlots.find? (fun x => x.1 == n) with
  | some x => padTo slotBytes (Config.cutSlot n x.2)
  | none => s.nv.bytes.readBytes (slotAt n) slotBytes

/-- A descriptor with its MAGIC, its CRC and VALID. -/
def descValid (b : Bytes) : Bool :=
  rd b 0 4 == 0x534C585A && rd b 0x7C 4 == crc32c (b.take 0x7C) && bitAt (rd b 0x3C 2) 0

def descBoot (b : Bytes) : Bool := bitAt (rd b 0x3C 2) 1

/-- Put a descriptor together. -/
def makeDesc (len : Nat) (hash : Bytes) (chip flags : Nat) : Bytes :=
  let b := leBytes 4 0x534C585A ++ leBytes 4 len ++ padTo 48 hash ++ leBytes 4 chip ++ leBytes 2 flags ++ List.replicate 62 0
  b ++ leBytes 4 (crc32c b)

def writeNv (s : State) (a : Nat) (b : Bytes) : State := { s with nv := { s.nv with bytes := s.nv.bytes.writeBytes a b } }

/-- Rewrite the FLAGS of a descriptor. -/
def setDescFlags (s : State) (n flags : Nat) : State :=
  let b := s.slotDesc n
  s.writeNv (descAt n) (makeDesc (rd b 4 4) ((b.drop 8).take 48) (rd b 0x38 4) flags)

/-- The slot that holds the active image: the one marked BOOT before the other (R270). -/
def activeSlot (s : State) : Option Nat :=
  let holds (n : Nat) : Bool := descValid (s.slotDesc n) && ((s.slotDesc n).drop 8).take 48 == s.image.active.hash
  ((List.range 2).find? (fun n => holds n && descBoot (s.slotDesc n))).or ((List.range 2).find? holds)

/-- BOOT moves to the slot that holds the active image, if there is one (R270, R296). -/
def markBoot (s : State) : State :=
  match s.activeSlot with
  | some n =>
    let m := 1 - n
    let s := if descBoot (s.slotDesc m) then s.setDescFlags m (bnat (descValid (s.slotDesc m))) else s
    if descBoot (s.slotDesc n) then s else s.setDescFlags n 3
  | none => s

/-- The valid slot marked BOOT. -/
def bootSlot (s : State) : Option Nat := (List.range 2).find? (fun n => descValid (s.slotDesc n) && descBoot (s.slotDesc n))

/-- The hall chip number in the BOOT slot's descriptor (R279). -/
def bootChip (s : State) : Nat :=
  match s.bootSlot with
  | some n => rd (s.slotDesc n) 0x38 4 % 2 ^ 20
  | none => 0xFFFFF

/-- While no image is active the hall chip number is that of the BOOT slot (R279). -/
def followBoot (s : State) : State :=
  if s.img.isSome then s else { s with ident := { s.ident with hallChip := s.bootChip } }

/-! ### Resets (R407, R414) -/

/-- A free value of the store has been drawn. -/
def draw (s : State) : State := { s with nv := { s.nv with draws := s.nv.draws + 1 } }

/-- An image slot holds nothing known. -/
def cutImage (s : State) (n : Nat) : State :=
  let s' : State := { s with nv := { s.nv with cutSlots := s.nv.cutSlots.filter (fun x => x.1 != n) ++ [(n, s.nv.draws)] } }
  s'.draw

/-- The calibration record of the store is invalid. -/
def cutCal (s : State) : State :=
  let s' : State := { s with nv := { s.nv with calCut := some s.nv.draws } }
  s'.draw

/-- A fuse operation that is interrupted has taken effect or not. -/
def cutFuses (s : State) : State :=
  let done (n : Nat) : Bool := Config.cutFuse n s.nv.draws
  match s.nv.job with
  | .program n d =>
    let k := { s.nv.keys.getD n {} with digest := d, programmed := true }
    let keys := if done n then setAt s.nv.keys n k else s.nv.keys
    ({ s with nv := { s.nv with job := .none, keys := keys } } : State).draw
  | .revoke n =>
    let k := { s.nv.keys.getD n {} with revoked := true }
    let keys := if done n then setAt s.nv.keys n k else s.nv.keys
    ({ s with nv := { s.nv with job := .none, keys := keys } } : State).draw
  | .none => s

/-- Writes of the store that are in progress are interrupted: the record or slot is invalid (R56, R292, R407). -/
def cutWrites (s : State) : State :=
  let s := s.cutFuses
  let s := match s.image.job with
    | .store n _ => s.cutImage n
    | _ => s
  if s.cal.busy then s.cutCal else s

/-- What every reset keeps: the store, the fuses and the pins, beside RESET_CAUSE; a PPS pulse in progress ends. The test
access port has a reset of its own. -/
def coldBase (s : State) : State :=
  let s := s.cutWrites.cutPps
  let nv : NvState := { bytes := s.nv.bytes, keys := s.nv.keys, floor := s.nv.floor, calCut := s.nv.calCut,
                        cutSlots := s.nv.cutSlots, draws := s.nv.draws }
  { pending := s.pending, out := s.out, nv := nv, tap := s.tap,
    ident := { serial := s.ident.serial, firmware := s.ident.firmware, hallChip := s.bootChip },
    power := { resetCause := s.power.resetCause, modResetLow := s.power.modResetLow } }

/-- Set bit n of RESET_CAUSE. -/
def setCause (s : State) (n : Nat) : State :=
  { s with power := { s.power with resetCause := s.power.resetCause ||| BitVec.ofNat 6 (2 ^ n) } }

/-- A cold start-up begins. -/
def coldStart (s : State) : State :=
  let s := s.coldBase
  { s with power := { s.power with startStep := 1 } }

/-! ### Hold (R409) -/

/-- What Hold keeps of a queue: bases, state and indices, records not yet written, and for a step in progress the
internal copies and the express sequence number. -/
def savedQueue (s : State) (g : Nat) (q : Queue) : Queue :=
  let inStep := (s.group g).state != .closed
  { base := q.base, complBase := q.complBase, tail := q.tail, fetch := q.fetch, complTail := q.complTail,
    complHead := q.complHead, state := q.state, complErr := q.complErr, written := q.written, due := q.due,
    seq := if inStep then q.seq else 0, ops := if inStep then q.ops.filter (fun o => Desc.isStep o.raw) else [] }

/-- What R409 copies, with the region that Hold retains (R405, R408). -/
def save (s : State) : Saved :=
  { buckets := s.buckets, groups := s.groups,
    areas := s.areas.map (fun (x : Nat × Area) => (x.1, { cursor := x.2.cursor, pass := x.2.pass })),
    parts := { state := s.parts.state, privGrant := s.parts.privGrant },
    queues := s.queues.map (fun (x : Nat × Queue) => (x.1, s.savedQueue x.1 x.2)),
    triggers := s.triggers,
    rings := s.rings.map (fun (x : Nat × EventRing) => (x.1, { x.2 with windows := [] })),
    events := s.events, hash := s.image.active.hash }

/-- The loop loses its reference: a LOCKED loop enters HOLDOVER, any other keeps its state. -/
def holdLoop (s : State) : State :=
  let t := s.time
  let last (s : State) : State :=
    { s with time := { s.time with lastRef := t.refSource, lastRefPort := t.refPort } }
  if t.loop == .locked then (last s).enterLoop .holdover
  else if t.refSource == .none then s
  else
    let s := last s
    { s with time := { s.time with refSource := .none, refPort := 0, boundStart := t.bound, boundTide := t.ticks } }

/-- What runs on in Hold: the hall-time counter and its loop, with the settings in force. -/
def heldTime (s : State) : TimeState :=
  let t := s.time
  let boot : Option BootTime := if s.img.isSome then
    some { cfg := s.timeCfg, primary := s.timePorts.1, backup := s.timePorts.2 } else t.boot
  { hall := t.hall, ticks := t.ticks, boot := boot, loop := t.loop, lastRef := t.lastRef, lastRefPort := t.lastRefPort,
    holdoverSeen := t.holdoverSeen, bound := t.bound, boundStart := t.boundStart, boundTide := t.boundTide,
    lostAsked := t.lostAsked, loopOffset := t.loopOffset, loopFreq := t.loopFreq, freqs := t.freqs }

/-- Entry into Hold. A start-up that had restored nothing yet keeps what was saved before it. `rails` tells whether
RAIL_EN_CORE goes low, `next` what follows the entry. -/
def enterHold (s : State) (rails : Bool) (next : Restart) : State :=
  let s := s.holdLoop
  let k := match s.saved with
    | some k => if s.power.startStep ≠ 0 && !s.power.ready then k else s.save
    | none => s.save
  let b := s.coldBase
  let p := s.power
  let power : Power := { mode := .hold, ctrl := p.ctrl, reqIgnored := p.reqIgnored, thermalWarn := p.thermalWarn,
                         thermalCrit := p.thermalCrit, thermAlert := p.thermAlert, resetCause := p.resetCause,
                         modResetLow := p.modResetLow, dieTemp := p.dieTemp, holdEntry := true, railsDown := rails,
                         restart := next }
  { b with power := power, saved := some k, time := s.heldTime, stack := s.stack, badUnits := s.badUnits }

/-- Time that was not held at Hold entry is lost (R38, R418). -/
def dropTime (s : State) : State :=
  if s.time.loop == .holdover || s.time.loop == .timeLost then s
  else
    (({ s with power := { s.power with faults := { s.power.faults with timeLost := true } } } : State).bump .timeLost).enterLoop
      .timeLost

/-- A warm start-up begins; its step 1, the Hold entry, is done (R416). -/
def startWarm (s : State) : State :=
  let s := s.dropTime
  { s with power := { s.power with mode := .full, ctrl := 0, railEnCore := true, startStep := 2, warm := true, ready := false,
                                   restart := .none, holdEntry := false } }

/-! ### Restarts that wait (R415) -/

/-- A calibration commit or an image STORE is writing the store. -/
def storeBusy (s : State) : Bool :=
  s.cal.busy || (match s.image.job with | .store _ _ => true | _ => false)

/-- The restart that was asked for proceeds once the store is free. Hold on request is entered only from an Idle at rest, as
its condition still has to hold then (R411). -/
def proceedRestart (s : State) : State :=
  if s.power.mode == .hold || s.storeBusy then s
  else match s.power.restart with
    | .none => s
    | .warm => s.enterHold false .warm
    | .cold => s.coldStart
    | .hold => if s.power.mode == .idle && s.resting then s.enterHold true .none else s.dropHoldEntry

/-- The stronger of two restarts: cold before warm before Hold. -/
def Restart.join : Restart → Restart → Restart
  | .cold, _ => .cold
  | _, .cold => .cold
  | .warm, _ => .warm
  | _, .warm => .warm
  | .hold, _ => .hold
  | .none, r => r

/-- Ask for a restart in Full or Idle. -/
def askRestart (s : State) (r : Restart) : State :=
  ({ s with power := { s.power with restart := Restart.join s.power.restart r } }).proceedRestart

end State

end Sys2Proof.Machine
end

