-- ==== Sys2Proof/Machine/Image.lean ====
section
/-! DEFINITION. Commands of the structure image (R270, R271, R291 to R301, R339 to R344), keys and rollback (R275,
R342), and codebook replacement (R299, R300). -/

namespace Sys2Proof.Machine

open Sys2Proof

namespace State

/-! ### What an activation carries over (R96, R238) -/

/-- A bucket keeps its residuals under the new image. -/
def keepsBucket (a b : ImgBucket) : Bool :=
  a.group == b.group && a.l == b.l && rotLength a == rotLength b && a.rotSize == b.rotSize && a.rotSeed == b.rotSeed
    && a.extSeed == b.extSeed && a.resFp32 == b.resFp32

/-- A spill area keeps its contents. -/
def keepsArea (a b : ImgArea) : Bool :=
  a.part == b.part && a.cls == b.cls && a.base == b.base && a.tiles == b.tiles && a.escBase == b.escBase
    && a.escSlots == b.escSlots && a.escPerTide == b.escPerTide && a.errBound == b.errBound && a.sketchSeed == b.sketchSeed

def keptBuckets (old new : Image) : List (ImgBucket × ImgBucket) :=
  old.buckets.filterMap (fun a => (new.bucketDesc a.bucket).bind (fun b => if keepsBucket a b then some (a, b) else none))

def keptAreas (old new : Image) : List (ImgArea × ImgArea) :=
  old.areas.filterMap (fun a => (new.areaDesc a.area).bind (fun b => if keepsArea a b then some (a, b) else none))

/-- Ranges of the stacks that move: from, to, length. -/
def moves (old new : Image) : List (Nat × Nat × Nat) :=
  (keptBuckets old new).flatMap (fun x =>
    let n := resWidth x.1 * rotLength x.1
    [(old.res0.1 * mib + x.1.resOff, new.res0.1 * mib + x.2.resOff, n),
     (old.res1.1 * mib + x.1.resOff, new.res1.1 * mib + x.2.resOff, n)])
  ++ (keptAreas old new).flatMap (fun x =>
    let o := old.spill.1 * mib
    let n := new.spill.1 * mib
    [(o + x.1.base, n + x.2.base, x.1.tiles * slotSize x.1.cls), (o + x.1.escBase, n + x.2.escBase, x.1.escSlots * tileBytes)])

/-- The bytes that move, in their new places. -/
def moved (m : Mem) (l : List (Nat × Nat × Nat)) : Mem :=
  l.foldl (fun acc r =>
    (m.filter (fun c => decide (r.1 ≤ c.1 ∧ c.1 < r.1 + r.2.2))).foldl (fun acc c => acc.write (c.1 - r.1 + r.2.1) c.2) acc) []

/-- The unreadable units of what moves. -/
def movedUnits (us : List Nat) (l : List (Nat × Nat × Nat)) : List Nat :=
  (l.flatMap (fun r => (us.filter (unitsOf r.1 r.2.2).contains).map (fun u => u - r.1 / 256 + r.2.1 / 256))).eraseDups

/-- Non-zero residuals of generation A of a bucket. -/
def nonZero (s : State) (d : ImgBucket) : Nat :=
  let a := s.genAddr d false 0
  ((s.stack.filter (fun c => decide (a ≤ c.1 ∧ c.1 < a + resWidth d * rotLength d))).map
    (fun c => (c.1 - a) / resWidth d)).eraseDups.length

/-- A STORE in progress goes on from the bank it took, which the exchange has renamed (R271, R292). -/
def swapJob : ImageJob → ImageJob
  | .store n active => .store n (!active)
  | j => j

/-- The banks change places (R271, R293); the swap applies to a STORE in progress too (R292). -/
def exchangeBanks (s : State) : State :=
  let was := s.image.active
  { s with image := { s.image with
    active := s.image.shadow, shadow := was, shadowState := if was.image.isSome then .verified else .empty,
    pending := none, absent := false, reloading := false, job := swapJob s.image.job } }

/-- Residuals that the new image does not keep are discarded, counted and named (R96): to the owner under the new image, or of
a group that it does not define to the one under the old (R296). -/
def discardResiduals (s : State) (old new : Image) : State :=
  let owners := s.exchangeBanks
  let kept := (keptBuckets old new).map (fun x => x.1.bucket)
  (old.buckets.filter (fun d => !kept.contains d.bucket)).foldl (fun s d =>
    let n := s.nonZero d
    (if n = 0 then s else s.bumpBy .resDiscard n).raise
      { type := 0x0016, severity := 2, group := some d.group, subject := d.bucket, arg := Nat.min n 0xFFFFFFFF,
        rings := if (new.groupDesc d.group).isSome then owners.ringsG d.group else s.ringsG d.group }) s

/-- Areas that the new image does not keep are discarded (R238). -/
def discardAreas (s : State) (old new : Image) : State :=
  let kept := (keptAreas old new).map (fun x => x.1.area)
  let lost := old.areas.filter (fun a => !kept.contains a.area)
  let s := lost.foldl (fun s a =>
    s.raise { type := 0x0032, severity := 1, subject := a.area, rings := s.ringsP a.part }) s
  { s with areas := s.areas.filter (fun x => kept.contains x.1) }

/-- A bucket that is carried over; one whose new FB_KIND is NONE is in PRIMARY (R96, R108). -/
def keptBucket (b : BucketState) (d : ImgBucket) : BucketState :=
  if d.fbKind == .none then { b with defined := true, fallback := false, hold := 0 } else { b with defined := true }

/-- Buckets of the new image: kept, or established afresh (R96). -/
def newBuckets (s : State) (old new : Image) : State :=
  let kept := (keptBuckets old new).map (fun x => x.1.bucket)
  { s with buckets := new.buckets.foldl (fun t d =>
      Tbl.set t d.bucket (if kept.contains d.bucket then keptBucket (s.bucket d.bucket) d
        else { defined := true, et := d.etInit })) [] }

/-- Every codebook begins at generation 0; a pending replacement is discarded (R296, R301). -/
def newBooks (s : State) (new : Image) : State :=
  let lost := (s.books.filter (fun x => x.2.pending.isSome)).map (fun (x : Nat × Codebook) => x.1)
  let outcome (c : Nat) : Nat := if lost.contains c then 5 else (s.book c).outcome
  let fresh : Tbl Codebook := s.books.map (fun x => (x.1, { outcome := outcome x.1 }))
  { s with books := new.codebooks.foldl (fun t c =>
      t.set c.1 { slot0 := { levels := c.2 }, outcome := outcome c.1 }) fresh }

/-- A group keeps its step counter: it was there, its OWNER is unchanged, and so is its table 0 ring but for H_G
(R296). -/
def keepsGroup (old new : Image) (g : Nat) : Bool :=
  match old.groupDesc g, new.groupDesc g, old.ringRecord g 0, new.ringRecord g 0 with
  | some a, some b, some x, some y => a.owner == b.owner && { x with hG := 0 } == { y with hG := 0 }
  | _, _, _, _ => false

/-- A group established afresh (R199, R296): its record and ledgers go; its fetched step operations stay for the step they
belong to (R316). -/
def freshGroup (s : State) (g stepBase : Nat) : State :=
  s.setGroup g { established := true, step := stepBase, hold := (s.group g).hold }

/-- The groups of the new image; a group that is gone discards its record (R219, R296). -/
def newGroups (s : State) (old new : Image) : State :=
  let s := new.groups.foldl (fun s d =>
    if keepsGroup old new d.group then
      (s.modGroup d.group (fun x => { x with table := 0, actHeld := false, established := true })).resetBlocks d.group
    else (s.freshGroup d.group d.stepBase).resetBlocks d.group) s
  { s with groups := s.groups.filter (fun x => (new.groupDesc x.1).isSome) }

/-- Groups that the new image no longer defines discard their step records, before it is in force. Their outstanding step
operations complete with the abort code, which R330 does not name for a group that saw no abort: it is then open (log entry
117). -/
def dropGroups (s : State) (old new : Image) : State :=
  (old.groups.filter (fun d => (new.groupDesc d.group).isNone)).foldl (fun s d =>
    let ops := s.allStepOps d.group
    ((s.endStepOps d.group (s.codeOf d.group) ops).dropStepOps d.group ops).discardStep d.group) s

/-- The engine's own entry gives its hall chip number (R279). -/
def takeEntry (s : State) : State :=
  match s.self with
  | some c => { s with ident := { s.ident with hallChip := c.chip, fromImage := true } }
  | none => s

/-- The disabled-unit map against the hash that the image records (R297). -/
def checkMap (s : State) : State :=
  match s.self with
  | some c =>
    let own := s.mapHash
    let bad := decide (own ≠ c.mapHash)
    let s := { s with image := { s.image with mapMismatch := bad } }
    if bad then
      s.raise { type := 0x0072, severity := 3, subject := rd own 0 8, rings := s.ringsE }
    else s
  | none => s

/-- Ports take the roles of the image (R252, R278): OFF ports leave training, others may start. -/
def takeRoles (s : State) : State :=
  (List.range 24).foldl (fun s p => if s.role p = 0 then s.leaveTraining p .off else s.startPort p) s

/-- The tide index from the epoch in force (R43, R296). -/
def epochTide (s : State) : Nat := if s.beforeEpoch then 0 else s.tideAt s.time.hall
def newTide (s : State) : State := { s with time := { s.time with tide := s.epochTide } }

/-- A port in SERVICE passes through ALIGN again (R251, R295). -/
def realign (s : State) (p : Nat) : State :=
  if (s.port p).link == .service then (s.modPort p clearScheduled).enterAlign p else s

/-- A new hall epoch: the tide index, and alignment where it moves the boundaries (R43, R295). -/
def takeEpoch (s : State) (old new : Image) : State :=
  if epochOf old = epochOf new then s
  else if (epochOf old : Int) % tideUnits = (epochOf new : Int) % tideUnits then s.newTide
  else (List.range 24).foldl realign s.newTide

/-- The reference under the new image: its port's new place, or lost where the image names its source no longer (R31, R35,
R40). -/
def retakeReference (s : State) : State :=
  let t := s.time
  match t.refSource with
  | .none =>
    if t.loop == .locked && (s.sourcePort (otherSource t.lastRef)).isNone then s.enterLoop .holdover else s
  | .pps => if s.timeCfg.ppsRef then s else s.loseReference
  | _ =>
    let r := s.sourceOf t.refPort
    if r == .none then s.loseReference else { s with time := { t with refSource := r, lastRef := r } }

/-- The swap holds every resource at this boundary; with a new PATTERN_SEED every cove test begins again (R393, R400). -/
def newSeeds (s : State) (old new : Image) : State :=
  let bays : Tbl BayTest := if old.bist.patternSeed = new.bist.patternSeed then s.maint.bays
    else s.maint.bays.map (fun (x : Nat × BayTest) => (x.1, { x.2 with slice := 0, failed := false }))
  { s with maint := { s.maint with swapAt := some s.time.ticks, bays := bays } }

/-- The tide index that the new image's epoch gives (R43, R296). -/
def swapTide (s : State) : State := { s with time := { s.time with tide := s.exchangeBanks.epochTide } }

/-- What the activation discards of the old image goes, with the events that say so. -/
def discardOld (s : State) (old new : Image) : State := ((s.discardResiduals old new).discardAreas old new).dropGroups old new

/-- Residuals and areas move or go under the new tide index, and the banks change places (R293, R296). What goes is reported
once the new image is in force, so that its events carry the tide that its epoch gives (R384). -/
def swapBanks (s : State) (old new : Image) (had : Bool) : State :=
  let s := if had && epochOf old == epochOf new then s else s.swapTide
  let before := s.events
  let s := ({ s with events := [] } : State).discardOld old new
  let said := s.events
  let l := moves old new
  let s : State := { s with stack := moved s.stack l, badUnits := movedUnits s.badUnits l, events := before,
                            maint := { s.maint with wrote := [], partWritten := [] } }
  said.foldl State.raise s.exchangeBanks

/-- The new image's seeds, tide, buckets, codebooks and groups enter, and its entry for the engine is taken. -/
def takeImage (s : State) (old new : Image) (had : Bool) : State :=
  let s := s.newSeeds old new
  let s := if had then s.takeEpoch old new else s.newTide
  let s := ((s.newBuckets old new).newBooks new).newGroups old new
  let s := { s with staging := [] }
  s.takeEntry

/-- The shadow image takes effect (R296). `old` is what was in force, an empty image where nothing was. At start-up the
disabled-unit map is judged once the self-test has built it. -/
def activate (s : State) (old new : Image) : State :=
  let had := s.image.active.image.isSome
  let wasFramed := s.time.frame
  let s := (s.swapBanks old new had).takeImage old new had
  let s := if s.power.startStep = 6 then s else s.checkMap
  let s := s.markBoot
  let s := s.retakeReference.setFrame
  let s := if wasFramed && !s.time.frame then s.withdraw else s
  let s := s.takeRoles
  let s := s.raise { type := 0x0070, severity := 1, subject := rd s.image.active.hash 0 8,
                     arg := bnat (had && epochOf old != epochOf new), rings := s.ringsA }
  let s := s.askHails
  let s := if s.time.frame then (List.range 24).foldl tryAlign s else s
  s.tryEnterOpens s.ownGroups

/-! ### ACTIVATE and its refusals (R294, R295, R297) -/

/-- A group is CLOSED or held, whether or not it is inside an OPEN (R200, R295). -/
def closedOrHeld (s : State) (g : Nat) : Bool := (s.group g).state == .closed || (s.group g).actHeld

/-- The reason of R297 against activating an image; 0 none. `atWrite` holds as ACTIVATE is written. -/
def actRefusal (s : State) (new : Image) (atWrite : Bool) : Nat :=
  let old := s.im
  if atWrite && s.img.isSome && epochOf old != epochOf new && !s.ownGroups.all s.closedOrHeld then 2
  else if old.areas.any (fun a => (s.area a.area).running.isSome
      && !(keptAreas old new).any (fun x => x.1.area == a.area)) then 3
  else if s.img.isSome && (List.range 8).any (fun p => s.pstate p != .detached && old.partDesc p != new.partDesc p) then 4
  else 0

/-- ACTIVATE. -/
def askActivation (s : State) : State :=
  match s.verified with
  | none => { s with image := { s.image with actRefusal := 1 } }
  | some new =>
    let r := s.actRefusal new true
    if r ≠ 0 then { s with image := { s.image with actRefusal := r } }
    else
      let gs := s.bothGroups
      let s := { s with image := { s.image with pending := some s.image.actStep } }
      gs.foldl (fun s g => if s.rests g then s.modGroup g (fun x => { x with actHeld := true }) else s) s

/-! ### The shadow bank (R291, R344) -/

/-- Any ACCEPTED neighbour of role RING shows the shadow hash. -/
def shadowInUse (s : State) : Bool :=
  (List.range 24).any (fun p => (s.port p).nb.role == 1 && (s.port p).nb.state == .accepted && s.imageMatch (s.port p).nb.imageHash == 2)

def ignoreCmd (s : State) : State := { s with image := { s.image with cmdIgnored := true } }

/-- The shadow bank is written: no shadow image and no shadow hash any more; a pending activation is cancelled. -/
def loseShadow (s : State) (keep : Bool) : State :=
  let s := s.cancelActivation 5
  { s with image := { s.image with
    shadow := { bytes := if keep then s.image.shadow.bytes else [], image := none, hash := [] }, shadowState := .written } }

/-- An IMAGE_WINDOW write of good size and alignment. -/
def writeWindow (s : State) (off n v : Nat) : State :=
  if s.imageBusy then s.ignoreCmd
  else if s.shadowInUse then { s with image := { s.image with shadowInUse := true } }
  else
    let s := s.loseShadow (s.image.shadowState == .written || s.image.shadowState == .refused)
    { s with image := { s.image with shadow := { s.image.shadow with
        bytes := s.image.shadow.bytes.writeBytes off (leBytes n v) } } }

/-- An IMAGE_CMD while BUSY is ignored (R340). -/
def imageCmd (s : State) (f : State → State) : State := if s.imageBusy then s.ignoreCmd else f s

def setJob (s : State) (j : ImageJob) : State := { s with image := { s.image with job := j } }

/-- LOAD_NV (R291). -/
def loadSlot (s : State) (n : Nat) : State :=
  if s.shadowInUse then { s with image := { s.image with shadowInUse := true } }
  else
    let s := s.loseShadow false
    let b : Mem := Mem.writeBytes [] 0 (s.slotContent n)
    ({ s with image := { s.image with shadow := { s.image.shadow with bytes := b } } }).setJob .verify

/-- The bytes of the image in a bank: LENGTH of its header. -/
def imageBytes (m : Mem) : Bytes := m.readBytes 0 (leNat (m.readBytes 0x08 4))

/-- The shadow bank's content is judged (R290). A pending activation of an image that is refused now is cancelled: the bank
holds no verified image any more (R297). -/
def judge (s : State) : State :=
  let b := imageBytes s.image.shadow.bytes
  let code := Check.verify s.nv.keys s.nv.floor s.ident.serial b
  if code = 0 then
    { s with image := { s.image with job := .none, reason := 0, shadowState := .verified,
                                     shadow := { s.image.shadow with image := some (Parse.image b), hash := Check.hash b } } }
  else
    ({ s with image := { s.image with job := .none, reason := code, shadowState := .refused,
                                      shadow := { s.image.shadow with image := none, hash := [] } } } : State).cancelActivation 1

/-- The active image is read again from the slot that holds it and authenticated by the checks of VERIFY (R22, R290). -/
def reloadImage (s : State) : State :=
  match s.activeSlot with
  | some n =>
    let m : Mem := Mem.writeBytes [] 0 (s.slotContent n)
    let b := imageBytes m
    if Check.verify s.nv.keys s.nv.floor s.ident.serial b = 0 && Check.hash b == s.image.active.hash then
      let s := { s with image := { s.image with reloading := false, active := { s.image.active with bytes := m } } }
      (s.ownGroups.foldl State.openOperand s).tryEnterOpens s.ownGroups
    else s
  | none => s

/-! ### STORE (R292) -/

def refuseStore (s : State) : State := { s with image := { s.image with storeRefused := true } }

/-- STORE or STORE_ACTIVE begins: the slot's old descriptor is invalidated, and what hails say before an image is active
follows it (R279). -/
def startStore (s : State) (n : Nat) (active : Bool) : State :=
  match s.image.job with
  | .store _ _ => s.ignoreCmd.refuseStore
  | .verify => s.ignoreCmd
  | .none =>
    if s.cal.busy || (if active then s.img.isNone else s.verified.isNone) then s.refuseStore
    else ((s.setDescFlags n (bnat (descBoot (s.slotDesc n)) * 2)).setJob (.store n active)).followBoot

/-- The store ends. The slot keeps its BOOT mark (R270, R301), and what hails say before an image is active follows it
(R279). -/
def finishStore (s : State) (n : Nat) (active ok : Bool) : State :=
  let s := s.setJob .none
  if !ok then
    (({ s with image := { s.image with lastStore := 2 } } : State).cutImage n).followBoot
  else
    let k := if active then s.image.active else s.image.shadow
    let chip := ((k.image.bind (fun im => im.chipOf s.ident.serial)).map (·.chip)).getD 0
    let b := imageBytes k.bytes
    let boot := descBoot (s.slotDesc n)
    let s := s.writeNv (slotAt n) b
    let s := s.writeNv (descAt n) (makeDesc b.length k.hash chip (1 + 2 * bnat boot))
    ({ s with image := { s.image with lastStore := 1 },
              nv := { s.nv with cutSlots := s.nv.cutSlots.filter (fun x => x.1 != n) } } : State).followBoot

/-! ### Keys and rollback (R275, R342) -/

def fuseFailed (s : State) : State := { s with nv := { s.nv with failed := true } }

/-- A KEY_FUSE_CTRL write; PROGRAM is taken before REVOKE. -/
def keyCtrl (s : State) (v : Nat) : State :=
  let n := field v 0 2
  let k := s.nv.keys.getD n {}
  if field v 16 16 ≠ 0xF05E then s
  else if s.nv.job != .none then s.fuseFailed
  else if !bitAt v 2 && !bitAt v 3 then s
  else if bitAt v 2 then
    (if k.programmed then s.fuseFailed else { s with nv := { s.nv with job := .program n (padTo 48 s.nv.keyHash) } })
  else if !k.programmed || k.revoked then s.fuseFailed
  else { s with nv := { s.nv with job := .revoke n } }

/-- A fuse operation completes. -/
def finishFuse (s : State) : State :=
  match s.nv.job with
  | .program n d =>
    { s with nv := { s.nv with job := .none, keys := setAt s.nv.keys n { s.nv.keys.getD n {} with digest := d, programmed := true } } }
  | .revoke n =>
    { s with nv := { s.nv with job := .none, keys := setAt s.nv.keys n { s.nv.keys.getD n {} with revoked := true } } }
  | .none => s

/-- A ROLLBACK_CTRL request. One at or below the floor that is above the active image's ROLLBACK too sets ROLLBACK_IGNORED
(DESIGN CHOICE, log entry 148: R342 says both that it sets it and that it has no effect). -/
def rollbackCtrl (s : State) (v : Nat) : State :=
  let v := v % 2 ^ 7
  let top := (s.img.map (·.rollback)).getD 0
  if top < v ∨ 64 < v then { s with image := { s.image with rollbackIgnored := true } }
  else if v ≤ s.nv.floor then s
  else { s with nv := { s.nv with floor := v } }

/-! ### Codebook replacement (R300) -/

/-- Groups with a bucket that uses a codebook. -/
def bookGroups (im : Image) (c : Nat) : List Nat :=
  ((im.buckets.filter (fun d => (d.enc == .k4 && d.codebook == c) || (d.fbKind == .codebook && d.fbParam == c))).map
    (·.group)).eraseDups

/-- Judge the replacement request in CODEBOOK_SEL, _STEP and _LEVELS. The groups that latch the new generation here are
those whose ring names the engine. -/
def replaceBook (s : State) : State :=
  let c := s.bookRegs.sel
  let b := s.book c
  let levels := (padTo 16 s.bookRegs.levels).map (fun x => signed 8 x.toNat)
  let gs := bookGroups s.im c
  let sc := s.bookRegs.step
  let busy (s : State) : State := (s.setBook c { b with outcome := 3 }).bump .codebookBusy
  if !Check.levelsOk levels then s.setBook c { b with outcome := 2 }
  else if s.im.buckets.any (fun d => d.fbKind == .codebook && d.fbParam == c) then busy s
  else if b.pending.isSome then busy s
  else if (slotOf b (!b.cur)).refs ≠ 0 then busy s
  else if gs.any (fun g => decide (sc ≤ (s.group g).step)) then s.setBook c { b with outcome := 4 }
  else
    let gen := ((slotOf b b.cur).gen + 1) % 2 ^ 16
    let b' := modSlot b (!b.cur) (fun _ => { levels := levels, gen := gen, refs := 0 })
    let mine := gs.filter s.member
    let b' := if mine.isEmpty then { b' with cur := !b.cur, outcome := 1 }
      else { b' with pending := some sc, waiting := mine, outcome := 1 }
    (s.setBook c b').bump .codebookReplaced

end State

/-- A privileged write to a register of the image block. -/
def asImage (s : State) (tag off : Nat) (f : State → State) : State := s.asPriv tag (imageReg off) true f

/-- IMAGE_WINDOW_WRITE (R291, R305, R344). -/
def execImageWindowWrite (tag offset size : Nat) (value : Word64) (s : State) : Result :=
  whenRunning s (fun s => 
    if tag > 8 then s
    else if (size != 4 && size != 8) || offset % size != 0 then (s.touch tag).bumpP .accessMalformed tag 1
    else s.asPriv tag (imageWindow + offset) true (fun s => s.writeWindow offset size (value.toNat % 2 ^ (8 * size))))

/-- VERIFY (R290, R291). -/
def execVerify (tag : Nat) (s : State) : Result :=
  whenRunning s (fun s => asImage s tag 0 (fun s => s.imageCmd (fun s => s.setJob .verify)))

/-- VERIFY_DONE (R290). -/
def execVerifyDone (s : State) : Result :=
  whenRunning s (fun s => if s.image.job == .verify then s.judge else s)

/-- LOAD_NV (R291). -/
def execLoadNv (tag slot : Nat) (s : State) : Result :=
  whenRunning s (fun s => asImage s tag 0 (fun s => s.imageCmd (fun s => s.loadSlot (slot % 2))))

/-- STORE (R292). -/
def execStore (tag slot : Nat) (s : State) : Result :=
  whenRunning s (fun s => asImage s tag 0 (fun s => s.startStore (slot % 2) false))

/-- STORE_ACTIVE (R292). -/
def execStoreActive (tag slot : Nat) (s : State) : Result :=
  whenRunning s (fun s => asImage s tag 0 (fun s => s.startStore (slot % 2) true))

/-- STORE_DONE (R292). -/
def execStoreDone (ok : Bool) (s : State) : Result :=
  whenRunning s (fun s =>
    match s.image.job with
    | .store n active => (s.finishStore n active ok).proceedRestart
    | _ => s)

/-- ACTIVATE (R294, R295, R297). -/
def execActivate (tag : Nat) (s : State) : Result :=
  whenRunning s (fun s => asImage s tag 0 (fun s => s.imageCmd State.askActivation))

/-- CANCEL (R294). -/
def execCancel (tag : Nat) (s : State) : Result :=
  whenRunning s (fun s => asImage s tag 0 (fun s => s.imageCmd (fun s => s.cancelActivation 0)))

/-- ACTIVATION (R294, R296): at the boundary, once every group is held and the effects of express instances are done; the
boundary's later actions follow (R46). -/
def execActivation (s : State) : Result :=
  whenRunning s (fun s =>
    match s.verified with
    | some new =>
      if s.activationDue && !s.effectsDue then
        let r := s.actRefusal new false
        (if r ≠ 0 then s.cancelActivation r else s.activate s.im new).settle
      else s
    | none => s)

/-- KEY_PROGRAM (R275, R342). -/
def execKeyProgram (tag : Nat) (value : Word32) (s : State) : Result :=
  whenRunning s (fun s => asImage s tag 0x10 (fun s => s.keyCtrl value.toNat))

/-- KEY_REVOKE (R275, R342). -/
def execKeyRevoke (tag : Nat) (value : Word32) (s : State) : Result :=
  whenRunning s (fun s => asImage s tag 0x10 (fun s => s.keyCtrl value.toNat))

/-- FUSE_DONE (R342). -/
def execFuseDone (s : State) : Result := whenRunning s State.finishFuse

/-- ROLLBACK_CTRL_WRITE (R275, R342). -/
def execRollbackCtrlWrite (tag : Nat) (value : Word32) (s : State) : Result :=
  whenRunning s (fun s => asImage s tag 0x18 (fun s => s.rollbackCtrl value.toNat))

/-- CODEBOOK_CMD (R300). -/
def execCodebookCmd (tag : Nat) (value : Word32) (s : State) : Result :=
  whenRunning s (fun s => asImage s tag 0x104 (fun s => if bitAt value.toNat 0 then s.replaceBook else s))

/-- IMAGE_RELOAD_DONE (R22): groups may open again once the slot that holds the active image has been read and authenticated;
until a slot does, they stay where they are. -/
def execImageReloadDone (s : State) : Result :=
  whenRunning s (fun s => if s.image.reloading then s.reloadImage else s)

end Sys2Proof.Machine
end

