-- ==== Sys2Proof/Machine/Calibration.lean ====
section
/-! DEFINITION. Calibration and temperature (R55 to R59, R338, R402, R413): the working copy, its commit and reload, the
compensated values, and thermal shutdown. -/

namespace Sys2Proof.Machine

open Sys2Proof

/-- Registers of the calibration block (R332, R338). -/
def calReg (off : Nat) : Nat := 0x002000 + off

/-- Reserved bytes of the calibration record (R54). -/
def calReserved (a : Nat) : Bool :=
  if a < 0x100 then decide (a = 0x16 ∨ a = 0x17 ∨ 0x21 ≤ a)
  else if a < 0xD00 then
    let e := a % 128
    decide (e = 0x2E ∨ e = 0x2F ∨ 0x31 ≤ e)
  else if a < 0xD40 then decide (0xD10 ≤ a)
  else decide (a < 0xFFFC)

/-- Bits of a byte that are not reserved: FLAGS [3:0] and PARTNER [24:0] of a port entry. -/
def calMask (a : Nat) : Byte :=
  if 0x100 ≤ a ∧ a < 0xD00 then (if a % 128 = 0x30 then 0x0F else if a % 128 = 0x1F then 0x01 else 0xFF) else 0xFF

/-- A record with its reserved bytes and bits zero. -/
def cleanRecord (m : Mem) : Mem :=
  (m.filter (fun c => !calReserved c.1)).filterMap (fun c =>
    let v := c.2 &&& calMask c.1
    if v = 0 then none else some (c.1, v))

namespace State

/-! ### CAL_ACCESS and CAL_DATA (R338) -/

/-- The offset after an access of CAL_DATA. -/
def nextOffset (c : CalState) : Nat := if c.autoInc then (c.offset + 4) % calBytes else c.offset

/-- A write of CAL_DATA. -/
def writeCal (s : State) (v : Nat) : State :=
  if s.cal.busy then { s with cal := { s.cal with writeBlocked := true } }
  else { s with cal := { s.cal with work := s.cal.work.writeBytes s.cal.offset (leBytes 4 v), offset := nextOffset s.cal } }

/-- A read of CAL_DATA. -/
def readCal (s : State) (tag : Nat) : State :=
  ({ s with cal := { s.cal with offset := nextOffset s.cal } }).emit (.readData tag s.calWord)

/-- A write of CAL_ACCESS. -/
def calAccess (s : State) (v : Nat) : State :=
  { s with cal := { s.cal with offset := field v 0 16 / 4 * 4, autoInc := bitAt v 16 } }

/-! ### Commit and reload (R56, R338) -/

/-- The record as a commit writes it: reserved bytes zero, the header fields the engine sets, and the CRC. -/
def commitRecord (s : State) : Mem :=
  let count := leNat ((s.nv.bytes.below calBytes).readBytes 0x1C 4)
  let m := cleanRecord s.cal.work
  let m := m.writeBytes 0x10 (leBytes 8 (s.hallSec % 2 ^ 48) ++ leBytes 4 s.hallNs ++ leBytes 4 (count + 1) ++ leBytes 1 1)
  m.writeBytes 0xFFFC (leBytes 4 (crc32c (m.readBytes 0 0xFFFC)))

/-- CAL_COMMIT. -/
def commitCal (s : State) : State :=
  if s.storeBusy then { s with cal := { s.cal with result := 2 } }
  else
    let m := s.commitRecord
    { s with cal := { s.cal with busy := true, work := m, committing := m } }

/-- The commit ends: the record takes its 64 KiB of the store (R54, R269). -/
def finishCal (s : State) (ok : Bool) : State :=
  let rest : Mem := s.nv.bytes.filter (fun (c : Host.Cell) => decide (calBytes ≤ c.1))
  let cal : CalState := { s.cal with busy := false, committing := [], result := if ok then 1 else 3 }
  let record := s.cal.committing.below calBytes
  let s := if ok then ({ s with nv := { s.nv with bytes := record ++ rest, calCut := none } } : State) else s.cutCal
  ({ s with cal := cal } : State).proceedRestart

/-- CAL_RELOAD: the record is taken at the next boundary. -/
def reloadCal (s : State) : State :=
  if s.cal.busy then { s with cal := { s.cal with writeBlocked := true } }
  else { s with cal := { s.cal with reloadAsked := true } }

/-! ### Temperature (R59, R402, R413) -/

/-- The hottest DIE_TEMP, in 1/256 °C. -/
def hottest (s : State) : Int := s.power.dieTemp.foldl max (s.power.dieTemp.headD 0)

/-- Degrees Celsius in the unit of DIE_TEMP. -/
def celsius (n : Int) : Int := 256 * n

/-- The responses of R413 but shutdown. -/
def judgeHeat (s : State) : State :=
  let h := s.hottest
  let p := s.power
  { s with power := { p with
      thermalWarn := p.thermalWarn || decide (celsius 100 < h), thermalCrit := p.thermalCrit || decide (celsius 108 < h),
      thermAlert := decide (celsius 100 < h) || (p.thermAlert && decide (celsius 95 ≤ h)) } }

/-- The sensors are read. -/
def readTemps (s : State) (temps : List Int) : State :=
  ({ s with power := { s.power with dieTemp := (List.range 6).map (fun i => temps.getD i 0) } }).judgeHeat

/-- 4,096 tides have passed since the sensors were read last (R59). -/
def tempDue (s : State) : Bool :=
  match s.cal.lastTemp with | some t => decide (t + 4096 ≤ s.time.ticks) | none => true

/-- A boundary has passed since the sensors were read last. -/
def tempBefore (s : State) : Bool :=
  match s.cal.lastTemp with | some t => decide (t < s.time.ticks) | none => false

/-- The sensors are read, and the compensated values of the next boundary follow. -/
def updateTemps (s : State) (temps : List Int) : State :=
  let s := s.readTemps temps
  let s := { s with cal := { s.cal with lastTemp := some s.time.ticks } }
  if s.power.mode == .hold then s
  else { s with cal := { s.cal with compNext := some (s.compensation (fun p => temps.getD (p / 4) 0) temps) } }

end State

/-- TEMPERATURE_UPDATE (R59, R413), every 4,096 tides. In Hold only DIE_TEMP is read. -/
def execTemperatureUpdate (temps : List Int) (s : State) : Result :=
  whenAlive s (fun s => if s.tempDue then s.updateTemps temps else s)

/-- THERMAL_SHUTDOWN (R413): at the boundary after the reading, Hold with RAIL_EN_CORE low; it waits for nothing (R415). -/
def execThermalShutdown (s : State) : Result :=
  whenRunning s (fun s =>
    if decide (State.celsius 115 < s.hottest) && s.tempBefore then (s.setCause 4).enterHold true .none else s)

/-- CAL_DATA_WRITE (R338). -/
def execCalDataWrite (tag : Nat) (value : Word32) (s : State) : Result :=
  whenRunning s (fun s => s.asPriv tag (calReg 4) true (fun s => s.writeCal value.toNat))

/-- CAL_DATA_READ (R338). A read the view does not reach returns zero (R304). -/
def execCalDataRead (tag : Nat) (s : State) : Result :=
  whenRunning s (fun s =>
    if tag > 8 then s
    else
      let s := s.touch tag
      if s.tagPriv tag then s.readCal tag else (s.violation tag (calReg 4) false).emit (.readData tag 0))

/-- CAL_COMMIT (R56). -/
def execCalCommit (tag : Nat) (value : Word32) (s : State) : Result :=
  whenRunning s (fun s => s.asPriv tag (calReg 8) true (fun s => if bitAt value.toNat 0 then s.commitCal else s))

/-- CAL_COMMIT_DONE (R56). -/
def execCalCommitDone (ok : Bool) (s : State) : Result :=
  whenRunning s (fun s => if s.cal.busy then s.finishCal ok else s)

/-- CAL_RELOAD (R338). -/
def execCalReload (tag : Nat) (value : Word32) (s : State) : Result :=
  whenRunning s (fun s => s.asPriv tag (calReg 0x10) true (fun s => if bitAt value.toNat 0 then s.reloadCal else s))

end Sys2Proof.Machine
end

