-- ==== Sys2Proof/Machine/Power.lean ====
section
/-! DEFINITION. Power states, resets and start-up (R20, R213, R293, R394, R405 to R418, R423). -/

namespace Sys2Proof.Machine

open Sys2Proof

/-- Registers of the power block (R332, R346). -/
def powerReg (off : Nat) : Nat := 0x005000 + off

namespace State

/-! ### The disabled-unit map (R20, R394) -/

def setDumap (s : State) (d : DuMap) : State := { s with power := { s.power with dumap := d } }

/-- A cove is retired: it joins the map, and its bay has no standby any more. -/
def retireCove (s : State) (bay cove : Nat) : State :=
  let d := s.power.dumap
  let s := s.setDumap { d with coves := addOnce d.coves (bay, cove) }
  let s := s.setBay bay { s.bay bay with absent := true }
  (s.setFaults (fun f => { f with coveRetired := true })).bump .coveRetired

/-- A bay is retired. -/
def retireBay (s : State) (bay : Nat) : State :=
  let d := s.power.dumap
  let s := s.setDumap { d with bays := addOnce d.bays bay }
  (s.setFaults (fun f => { f with bayRetired := true })).bump .bayRetired

/-- A port is retired and goes to OFF. -/
def retirePort (s : State) (p : Nat) : State :=
  let d := s.power.dumap
  (s.setDumap { d with ports := addOnce d.ports p }).leaveTraining p .off

/-- The standby cove of each bay at start-up: the lowest-numbered cove that was not retired; the others are at the logical
positions in ascending order (R394). -/
def firstStandby (s : State) : State :=
  (List.range 40).foldl (fun s b =>
    let retired := (s.power.dumap.coves.filter (fun c => c.1 == b)).map (fun (c : Nat × Nat) => c.2)
    let first := ((List.range 16).find? (fun c => !retired.contains c)).getD 0
    let active := (List.range 16).filter (fun c => if retired.isEmpty then c != first else !retired.contains c)
    s.setBay b { standby := first, phys := active, absent := !retired.isEmpty }) s

/-- The cove and the bay test. A bay with two or more retired coves is retired (R394). -/
def coveBayTest (s : State) (rep : StartReport) : State :=
  let s := s.setDumap {}
  let s := rep.badCoves.eraseDups.foldl (fun s c => s.retireCove c.1 c.2) s
  let twice := (List.range 40).filter (fun b => decide (2 ≤ (s.power.dumap.coves.filter (fun c => c.1 == b)).length))
  ((twice ++ rep.badBays).eraseDups).foldl retireBay s

/-- The loopback of the ports that have not left SIGNAL since reset (R394). -/
def portLoopback (s : State) (rep : StartReport) : State :=
  (rep.badPorts.eraseDups.filter (fun p => !(s.port p).leftSignal)).foldl retirePort s

/-- The start-up self-test and what it found: coves and bays, the stacks, whose warm test reads them once, ports (R394). -/
def selfTest (s : State) (rep : StartReport) : State :=
  let s := s.coveBayTest rep
  let s := if s.power.warm && rep.stackCE != 0 then s.bumpBy .stackCe rep.stackCE else s
  let s := s.portLoopback rep
  let s := { s with maint := { s.maint with selfFails := [], takeovers := [], retiring := [] } }
  s.firstStandby.checkMap

/-! ### Images at start-up (R293, R417) -/

/-- What the BOOT slot's image says of time, before it is verified. -/
def bootTime (s : State) : Option BootTime :=
  s.bootSlot.bind (fun n =>
    let im := Parse.image (s.nv.bytes.readBytes (slotAt n) (Nat.min (rd (s.slotDesc n) 4 4) slotBytes))
    (im.chipOf s.ident.serial).map (fun c => { cfg := im.time, primary := c.timePrimary, backup := c.timeBackup }))

/-- The slots in the order in which they are tried. -/
def bootOrder (s : State) : List Nat :=
  let valid := (List.range 2).filter (fun n => descValid (s.slotDesc n))
  match s.bootSlot with
  | some n => n :: valid.filter (· != n)
  | none => valid

/-- Whether the image about to be activated has the hash recorded at Hold entry (R410). -/
def sameImage (s : State) (hash : Bytes) : Bool := match s.saved with | some k => k.hash == hash | none => false

/-- The verified image is activated at once; the stacks keep what Hold kept for the same image. -/
def bootActivate (s : State) : State :=
  match s.verified with
  | some new =>
    let keep := s.sameImage s.image.shadow.hash
    let st := s.stack
    let bad := s.badUnits
    let s := s.activate {} new
    if keep then { s with stack := st, badUnits := bad } else s
  | none => s

/-- Try the slots until an image is active. -/
def bootImage (s : State) : State :=
  let r := s.bootOrder.foldl (fun (x : State × Nat) n =>
    if x.1.img.isSome then x else ((x.1.loadSlot n).judge.bootActivate, x.2 + 2 ^ n)) (s, 0)
  if r.1.img.isSome then r.1
  else
    let s := { r.1 with image := { r.1.image with absent := true } }
    s.raise { type := 0x0071, severity := 4, arg := r.2, rings := s.ringsA }

/-! ### What a warm start-up restores (R213, R410) -/

/-- A restored operation holds no codebook reference any more. -/
def restoredOp (o : QueueOp) : QueueOp :=
  { o with books := [] }

/-- A group's records; an open step is found in ABORTED. -/
def restoreGroup (s : State) (g : Nat) (old : Group) : State :=
  match old.record with
  | some r =>
    let was := old.state == .aborted || old.state == .recovering
    let code := if was then old.abortCode else 0x02
    let from_ := if was then old.recovery.fromState else old.state
    s.modGroup g (fun x =>
      { x with step := r.step, state := .aborted, abortCode := code, table := r.table, attempt := r.attempt, base := r.base,
               stepOpen := true, record := some { r with state := .aborted }, lastRecord := old.lastRecord,
               ledger := old.ledger, lastLedger := old.lastLedger, retained := old.retained, releases := old.releases,
               written := old.written, stats := old.stats,
               recovery := { wasLost := old.state != .aborted || old.recovery.wasLost, fromState := from_, round := old.recovery.round, releasedSet := old.recovery.releasedSet,
                             substituted := old.recovery.substituted, spare := old.recovery.spare,
                             action := old.recovery.action } })
  | none => s.modGroup g (fun x => { x with lastRecord := old.lastRecord, lastLedger := old.lastLedger })

/-- The saved state returns. Events dropped since are counted on. -/
def restore (s : State) (k : Saved) : State :=
  let rings : Tbl EventRing := k.rings.map (fun (x : Nat × EventRing) =>
    (x.1, { x.2 with dropped := x.2.dropped + (s.ring x.1).dropped, overflow := x.2.overflow || (s.ring x.1).overflow }))
  let queues : Tbl Queue := k.queues.map (fun (x : Nat × Queue) => (x.1, { x.2 with ops := x.2.ops.map restoredOp }))
  let s := { s with buckets := k.buckets, areas := k.areas, parts := k.parts, queues := queues, triggers := k.triggers,
                    rings := rings, events := k.events ++ s.events }
  k.groups.foldl (fun s x => if (s.im.groupDesc x.1).isSome then s.restoreGroup x.1 x.2 else s) s

/-- Nothing is restored: every group's step record is discarded (R219, R410). -/
def restoreNone (s : State) (k : Saved) : State :=
  k.groups.foldl (fun s x =>
    match x.2.record with
    | some r =>
      (s.bumpG .stepDiscard x.1 1).raise
        { type := 0x0011, severity := 3, group := some x.1, subject := r.step, rings := s.ringsG x.1 }
    | none => s) s

/-- A neighbour's hail shows the engine's firmware, active image and map hash (R213; DEDUCED, log entry 120). -/
def sameAsHailed (s : State) (map : Bytes) (n : Neighbour) : Bool :=
  n.state == .accepted && n.firmware == s.ident.firmware && s.imageMatch n.imageHash == 1 && n.mapHash == padTo 48 map

/-- The conditions of R213 on a group whose record is open. -/
def mayRejoin (s : State) (g : Nat) : Bool :=
  match (s.group g).record with
  | some r =>
    let map := s.dumapHash
    r.firmware == s.ident.firmware && r.mapHash == leNat (map.take 16) && !r.entries.any (·.lost) && s.member g
      && match s.ringOf g with
         | some x => (s.ringPorts x).all (fun p => s.sameAsHailed map (s.port p).nb)
         | none => false
  | none => false

/-- A chunk that the record marks released is delivered from retention and released again, with KIND 1 (R213). -/
def reapplyChunk (s : State) (g : Nat) (met : List Nat) (e : RecEntry) : State :=
  match (s.group g).releases.find? (fun r => r.bucket == e.bucket && r.chunk == e.chunk) with
  | some r =>
    if e.released then s.withRedelivery g r.bucket r.chunk met (fun s => s.sendRelease g 1 r.bucket r.chunk r.length r.addr)
    else s
  | none => s

/-- Re-join: released chunks again, then the CENSUS with all of them. -/
def rejoin (s : State) (g : Nat) (met : List Nat) : State :=
  let es := ((s.group g).record.map (·.entries)).getD []
  let s := es.foldl (fun s e => s.reapplyChunk g met e) s
  let s := s.modGroup g (fun x => { x with recovery := { x.recovery with rejoined := true } })
  (s.bumpG .reapply g 1).sendCensus g s.now

/-- Every group with an open record re-joins or discards it. -/
def rejoinAll (s : State) (met : StackReads) : State :=
  (s.groups.filter (fun x => x.2.record.isSome)).foldl (fun s x =>
    if s.mayRejoin x.1 then s.rejoin x.1 met.bad else s.discardStep x.1) (s.readStack met)

/-- What step 8 restores, where the image is the one that Hold recorded and the saved state reads well. -/
def restoreSaved (s : State) (unreadable : Bool) (met : StackReads) : State :=
  match s.saved with
  | some k =>
    let s := if unreadable then s.sramUE 4 0 else s
    let s := if s.image.active.image.isSome && k.hash == s.image.active.hash && !unreadable then (s.restore k).rejoinAll met
      else ({ (s.restoreNone k) with stack := [], badUnits := [] } : State)
    { s with saved := none }
  | none => s

/-! ### The steps of start-up (R416) -/

/-- Step 4 is complete: LOCKED, or in a warm start-up a reference accepted in HOLDOVER; without any image to come there
is nothing to wait for. -/
def timeDone (s : State) : Bool :=
  s.time.loop == .locked
    || (s.power.warm && s.time.loop == .holdover && s.time.refSource != .none && s.time.lostAsked.isNone) || s.image.absent

/-- No time port is known before step 6 (R417). -/
def noTimePort (s : State) : Bool := s.img.isNone && decide (24 ≤ s.timePorts.1 ∧ 24 ≤ s.timePorts.2)

/-- DELAY of a port is valid; with an invalid record the working copy tells. -/
def delayKnown (s : State) (p : Nat) : Bool :=
  if s.time.calValid then s.delayForPartner p
  else bitAt (leNat (s.cal.work.readBytes (calEntry p + 0x30) 1)) 2

/-- Step 5 is complete: every port that may train is trained, has had a hail, and has DELAY valid. -/
def portsFound (s : State) : Bool :=
  (List.range 24).all (fun p => !s.mayTrain p
    || (trained (s.port p).link && (s.port p).nb.state != .none && s.delayKnown p))

/-- Step 8 is complete: with a tide frame, every port that may train is through ALIGN. -/
def portsServe (s : State) : Bool :=
  !s.time.frame || (List.range 24).all (fun p => !s.mayTrain p
    || (s.port p).link == .service || (s.port p).link == .quarantine)

def setStep (s : State) (n : Nat) : State := { s with power := { s.power with startStep := n } }

/-- Train the time ports named before an image is active. -/
def startTimePorts (s : State) : State :=
  (List.range 24).foldl (fun s p => if s.timePorts.1 = p ∨ s.timePorts.2 = p then s.startPort p else s) s

/-- Train every port that may. -/
def startPorts (s : State) : State := (List.range 24).foldl startPort s

/-- Step 3 is complete: the record is judged. In a cold start-up the time ports of R417 start, in a warm one, whose steps 4
and 5 overlap, every port (R416). -/
def loadStep (s : State) : State :=
  let s := s.loadCal
  let boot := s.bootTime.or s.time.boot
  let s : State := { s with time := { s.time with boot := boot } }
  (if s.power.warm then s.startPorts else s.startTimePorts).setStep 4

/-- Whether start-up has gone on with step 4 still to complete (R417). -/
def oweTime (s : State) (owed : Bool) : State := { s with power := { s.power with timeOwed := owed } }

/-- Step 4 is complete. -/
def timeStep (s : State) : State :=
  let s := s.oweTime false
  if s.img.isSome || s.image.absent then s.setStep 7 else s.startPorts.setStep 5

/-- Step 6 is complete: an image is active, or none can be. Other time ports send step 4 round again (R417). -/
def imageStep (s : State) : State :=
  if s.img.isSome then s.setStep 7
  else
    let before := s.timePorts
    let known := !s.noTimePort
    let s := s.bootImage
    if s.image.absent then (s.oweTime false).setStep 7
    else if known && s.timePorts == before then s.setStep 7
    else ((if known then s.enterLoop .freerun else s).setStep 4).startTimePorts

/-- Step 8 is complete: what R410 restores, and READY. -/
def readyStep (s : State) (rep : StartReport) : State :=
  let s := s.restoreSaved rep.savedUE rep.retention
  let s := { s with power := { s.power with ready := true, warm := false } }
  let s := s.queues.foldl (fun s (x : Nat × Queue) => s.flushQueue x.1) s
  s.tryEnterOpens s.ownGroups

/-- Stack contents lost in Hold make a warm start-up a cold one (R418). -/
def stacksLost (s : State) : State := (s.setCause 3).coldStart

/-- The start-up self-test of step 7; a cold stack test without a spare for a failing unit stops start-up there (R394). -/
def testStep (s : State) (rep : StartReport) : State :=
  match rep.noSpare with
  | some u =>
    if s.power.warm then (s.selfTest rep).setStep 8
    else
      let s := (s.coveBayTest rep).stackUE u 0
      { s with power := { s.power with halted := true } }
  | none => (s.selfTest rep).setStep 8

/-- A start-up step completes. -/
def startUp (s : State) (rep : StartReport) : State :=
  match s.power.startStep with
  | 1 => s.setStep 2
  | 2 => if s.power.warm && !rep.stacksKept then s.stacksLost else s.setStep 3
  | 3 => s.loadStep
  | 4 =>
    if s.timeDone then s.timeStep
    else if s.noTimePort then (s.startPorts.oweTime true).setStep 5
    else s
  | 5 => if s.portsFound then s.setStep 6 else s
  | 6 => s.imageStep
  | 7 => s.testStep rep
  | 8 => if s.portsServe then s.readyStep rep else s
  | _ => s

/-! ### Power states (R408, R411) -/

/-- A POWER_CTRL write or restart request that is not admitted. -/
def ignorePower (s : State) : State := { s with power := { s.power with reqIgnored := true } }

def setCtrl (s : State) (v : Nat) : State := { s with power := { s.power with ctrl := v } }

/-- A warm restart asked for: through Hold, or out of it once the die is cool (R411, R414). -/
def askWarm (s : State) : State :=
  if s.power.mode == .hold then
    if celsius 90 < s.hottest then s.ignorePower
    else
      let s := s.setCause 2
      if s.power.holdEntry then { s with power := { s.power with restart := .warm } } else s.startWarm
  else (s.setCause 2).askRestart .warm

/-- A cold restart asked for. -/
def askCold (s : State) : State :=
  let s := s.setCause 3
  if s.power.mode == .hold then s.coldStart else s.askRestart .cold

/-- RESET_CTRL (R346, R414, R423): cold before warm, with both causes. -/
def resetCtrl (s : State) (v : Nat) : State :=
  if field v 16 16 ≠ 0x5AFE then s
  else if bitAt v 1 then (if bitAt v 0 then s.setCause 2 else s).askCold
  else if bitAt v 0 then s.askWarm
  else s

/-- POWER_CTRL (R411). -/
def powerCtrl (s : State) (v : Nat) : State :=
  let v := v % 4
  let m := s.power.mode
  if v = 0 then
    (if m == .idle then (s.setCtrl 0).askWake else if m == .hold then (if celsius 90 < s.hottest then s.ignorePower else (s.setCtrl 0).askWarm)
     else s.ignorePower)
  else if v = 1 then
    (if m == .full && s.resting then
      let s := s.setCtrl 1
      { s with power := { s.power with idleAsked := true } }
     else s.ignorePower)
  else if v = 2 then (if m == .idle && s.resting then (s.setCtrl 2).askRestart .hold else s.ignorePower)
  else s.ignorePower

/-- A write of a power register; in Hold only the privileged tag of the management controller reaches it. -/
def asPower (s : State) (tag off : Nat) (f : State → State) : State :=
  if s.power.mode == .hold then (if tag = 8 then f s else s) else s.asPriv tag (powerReg off) true f

/-- MOD_RESET_N goes low: the engine is held in reset (R414, R423). -/
def moduleReset (s : State) : State :=
  let off := s.power.mode == .off
  let s := if off then s else s.coldBase.setCause 1
  { s with power := { s.power with modResetLow := true } }

/-- MOD_RESET_N goes high: a cold start-up, and the test access port accepts only its four instructions (R421). -/
def moduleRelease (s : State) : State :=
  let other := match s.tap.instr with | .other _ => true | _ => false
  let s := { s with power := { s.power with modResetLow := false },
                    tap := { s.tap with instr := if other then .bypass else s.tap.instr } }
  if s.power.mode == .off then s else s.coldStart

/-- The test access port loses its instruction with the power (R407). -/
def tapReset (s : State) : State := { s with tap := { trstLow := s.tap.trstLow } }

/-- PWR_GOOD rises from Off. In module reset the start-up waits for its release. -/
def powerUp (s : State) : State :=
  let s := s.coldBase.tapReset
  let cause : BitVec 6 := if s.power.modResetLow then 3 else 1
  { s with power := { s.power with mode := .full, resetCause := cause, startStep := if s.power.modResetLow then 0 else 1 } }

/-- PWR_GOOD falls: nothing survives but the store and the fuses. -/
def powerDown (s : State) : State :=
  let s := s.coldBase.tapReset
  { s with power := { s.power with mode := .off, resetCause := 0 } }

end State

/-- POWER_ON (R406, R414). -/
def execPowerOn (s : State) : Result :=
  .next (if s.power.mode == .off || (s.power.startStep = 0 && !s.power.ready && !s.power.modResetLow && s.power.mode == .full)
    then s.powerUp else s)

/-- PWR_GOOD_LOSS (R407). -/
def execPwrGoodLoss (s : State) : Result := .next (if s.power.mode == .off then s else s.powerDown)

/-- MODULE_RESET (R414). -/
def execModuleReset (s : State) : Result := .next (if s.power.modResetLow then s else s.moduleReset)

/-- MODULE_RESET_RELEASE (R414). -/
def execModuleResetRelease (s : State) : Result := .next (if s.power.modResetLow then s.moduleRelease else s)

/-- MOD_WARM (R414). -/
def execModWarm (s : State) : Result := whenAlive s State.askWarm

/-- WARM_RESTART (R346, R414): a write of RESET_CTRL. -/
def execWarmRestart (tag : Nat) (value : Word32) (s : State) : Result :=
  whenAlive s (fun s => s.asPower tag 0x0C (fun s => s.resetCtrl value.toNat))

/-- COLD_RESTART (R346, R414): a write of RESET_CTRL. -/
def execColdRestart (tag : Nat) (value : Word32) (s : State) : Result :=
  whenAlive s (fun s => s.asPower tag 0x0C (fun s => s.resetCtrl value.toNat))

/-- WATCHDOG (R414). -/
def execWatchdog (s : State) : Result := whenRunning s (fun s => (s.setCause 5).askRestart .warm)

/-- POWER_CTRL_FULL (R411). -/
def execPowerCtrlFull (tag : Nat) (s : State) : Result := whenAlive s (fun s => s.asPower tag 4 (fun s => s.powerCtrl 0))

/-- POWER_CTRL_IDLE (R411). -/
def execPowerCtrlIdle (tag : Nat) (s : State) : Result := whenAlive s (fun s => s.asPower tag 4 (fun s => s.powerCtrl 1))

/-- POWER_CTRL_HOLD (R411). -/
def execPowerCtrlHold (tag : Nat) (s : State) : Result := whenAlive s (fun s => s.asPower tag 4 (fun s => s.powerCtrl 2))

/-- HOLD_ENTRY_DONE (R409): RAIL_EN_CORE goes low for a requested or thermal entry; a warm restart goes on. -/
def execHoldEntryDone (s : State) : Result :=
  whenAlive s (fun s =>
    if s.power.mode == .hold && s.power.holdEntry then
      let s := { s with power := { s.power with holdEntry := false, railEnCore := !s.power.railsDown } }
      if s.power.restart == .warm then s.startWarm else s
    else s)

/-- An OPEN whose effect fell due in Idle takes effect late, at the next boundary (R161, R411). -/
def State.lateOpen (s : State) (g : Nat) : State :=
  s.modGroup g (fun x => { x with express := x.express.map (fun e =>
    if e.kind = kOpen ∧ e.result.isSome ∧ !e.done then
      { e with effectAt := e.effectAt.map (fun t => if t ≤ s.now then s.now + 1 else t),
               late := e.late || (e.effectAt.map (fun t => decide (t ≤ s.now))).getD false }
    else e) })

/-- The OPENs that waited for Full proceed (R411). -/
def State.wakeOpens (s : State) : State :=
  (s.ownGroups.foldl (fun s g => (s.lateOpen g).openOperand g) s).tryEnterOpens s.ownGroups

/-- WAKE_COMPLETE (R411): 4,096 tides after the wake was asked for; waiting OPENs proceed. -/
def execWakeComplete (s : State) : Result :=
  whenRunning s (fun s =>
    match s.power.wakeAt with
    | some t =>
      if s.power.mode == .idle && decide (t ≤ s.time.ticks) then
        let s := { s with power := { s.power with mode := .full, wakeAt := none } }
        s.wakeOpens.pollReadyAll
      else s
    | none => s)

/-- START_UP_STEP (R416): the step in progress completes, where its condition holds. -/
def execStartUpStep (rep : StartReport) (s : State) : Result :=
  whenRunning s (fun s => if s.power.ready || s.power.halted then s else s.startUp rep)

end Sys2Proof.Machine
end

