-- ==== Sys2Proof/Machine/Events.lean ====
section
/-! DEFINITION. Commands of event rings (R329, R362, R384, R387). -/

namespace Sys2Proof.Machine

open Sys2Proof

/-- Address of a register of an event ring: ring p of a partition window, ring 8 the hall controller's (R329, R362). -/
def ringReg (r off : Nat) : Nat := if r < 8 then windowBase r + 0x030000 + off else 0x071000 + off

namespace State

/-- The ring lies where R311 lets it: from a multiple of 4 KiB on, in the partition's windows for its whole extent or in host
memory. -/
def ringPlaced (s : State) (r base size : Nat) : Bool := s.baseOkFor r base (32 * 2 ^ (size + 6))

/-- A write of EVENT_CTRL (R329). One that would enable a ring whose base breaks R311 is ignored as one with a bad SIZE is
(DESIGN CHOICE, log entry 118: R329 gives no outcome for such a base). -/
def ringCtrl (s : State) (r v : Nat) : State :=
  if 10 < field v 1 4 ∨ (bitAt v 0 ∧ !s.ringPlaced r (s.ring r).base (field v 1 4)) then
    s.modRing r (fun x => { x with ctrlIgnored := true })
  else s.modRing r (fun x => { x with enable := bitAt v 0, size := field v 1 4 })

/-- A write of EVENT_HEAD, under the rule of COMPL_HEAD (R312, R329). -/
def ringHead (s : State) (r : Nat) (v : Word32) : State :=
  let x := s.ring r
  if headOk x.head x.tail v then s.setRing r { x with head := v }
  else
    s.raise { type := 0x0021, severity := 2, subject := 2, arg := v.toNat, rings := if r < 8 then s.ringsP r else s.ringsE }

/-- A write of EVENT_BASE, taken only while ENABLE is 0. -/
def ringBase (s : State) (r v : Nat) : State :=
  if (s.ring r).enable then s else s.modRing r (fun x => { x with base := v })

/-- An access to a register of an event ring. -/
def asRing (s : State) (tag r off : Nat) (write : Bool) (f : State → State) : State :=
  if r < 8 then s.asPart tag r (ringReg r off) write f
  else if r = hallRing then s.asPriv tag (ringReg r off) write f
  else s

end State

/-- EVENT_CTRL_WRITE (R329). -/
def execEventCtrlWrite (tag ring : Nat) (value : Word32) (s : State) : Result :=
  whenRunning s (fun s => s.asRing tag ring 8 true (fun s => s.ringCtrl ring value.toNat))

/-- EVENT_HEAD_WRITE (R312, R329). -/
def execEventHeadWrite (tag ring : Nat) (value : Word32) (s : State) : Result :=
  whenRunning s (fun s => s.asRing tag ring 0xC true (fun s => s.ringHead ring value))

/-- EVENT_RECORD_WRITE (R329, R384, R387): the EVENT_OVERFLOW records owed, then the next event. `badRings` lists the rings
whose memory fails the write. -/
def execEventRecordWrite (badRings : List Nat) (s : State) : Result :=
  whenRunning s (fun s => (s.catchUpAll badRings).writeEvent badRings)

end Sys2Proof.Machine
end

