-- ==== Sys2Proof/Machine/Inspect.lean ====
section
/-! DEFINITION. Commands of snapshot pages, of the clearing of statistics and of context inspection (R354, R357, R360,
R361). -/

namespace Sys2Proof.Machine

open Sys2Proof

namespace State

/-- A boundary has come since a request, and its actions in the order of R46 are done. -/
def boundaryDone (s : State) (askedAt : Nat) : Bool := decide (askedAt < s.time.ticks) && !s.time.boundaryOpen

/-- STAT_CLEAR of the privileged window (R357). -/
def clearStats (s : State) (v : Nat) : State :=
  let t := s.stats
  { s with stats := { engine := if bitAt v 0 then [] else t.engine, port := if bitAt v 1 then [] else t.port,
                      part := if bitAt v 2 then [] else t.part } }

/-- A write of CTX_SEL. -/
def selectCtx (s : State) (v : Nat) : State :=
  let c := s.ctxView
  let sel := v % 2 ^ 18 + bnat (bitAt v 31) * 2 ^ 31
  { s with ctxView := { c with sel := sel, ready := false, asked := true,
                               askedAt := if c.asked then c.askedAt else s.time.ticks } }

/-- The context that CTX_SEL names, if there is one. -/
def selectedCtx (s : State) : Option Ctx :=
  let v := s.ctxView.sel
  if bitAt v 31 then s.parkedCtxs[v % 2 ^ 16]?
  else (s.groups.flatMap (fun g => g.2.ctxs)).find? (fun x => x.parked.isNone && x.number == v % 2 ^ 18)

/-- The selected context is copied. -/
def copyCtx (s : State) : State :=
  let c := s.selectedCtx
  let bad := bitAt s.ctxView.sel 31 && c.isNone
  { s with ctxView := { s.ctxView with ready := true, asked := false, invalid := bad, data := (c.map ctxBytes).getD [] } }

end State

/-- SNAP_REQ (R360). -/
def execSnapReq (tag page : Nat) (value : Word32) (s : State) : Result :=
  whenRunning s (fun s => s.asSnap tag page 0x18 true (fun s => s.askSnap page value.toNat))

/-- SNAPSHOT_LATCH (R46, R360, R383): the page shows what the boundary took after its effects, activations and handover and
before its later actions. -/
def execSnapshotLatch (page : Nat) (s : State) : Result :=
  whenRunning s (fun s => if page ≤ 8 then s.showPage page else s)

/-- TIME_SNAPSHOT_READ (R41, R360). -/
def execTimeSnapshotRead (tag page : Nat) (s : State) : Result :=
  whenRunning s (fun s =>
    if tag > 8 ∨ 8 < page then s
    else
      let ok := if page = 0 then s.tagPriv tag else s.reaches tag (page - 1)
      let s := s.touch tag
      if !ok then (s.violation tag (snapReg page 0) false).emit (.readData tag 0)
      else if page ≠ 0 && s.pstate (page - 1) == .detached then s.emit (.readData tag 0)
      else (s.freezeTime page).emit (.readData tag s.time.snap.tide))

/-- STAT_CLEAR (R357, R360): `page` is none for the privileged register, else a snapshot page. -/
def execStatClear (tag : Nat) (page : Option Nat) (value : Word32) (s : State) : Result :=
  whenRunning s (fun s =>
    match page with
    | none => s.asPriv tag 0x063000 true (fun s => s.clearStats value.toNat)
    | some k => s.asSnap tag k 0x30 true (fun s =>
        if k ≠ 0 && bitAt value.toNat 0 then s.clearCopies (k - 1) else s))

/-- CTX_SEL_WRITE (R354). -/
def execCtxSelWrite (tag : Nat) (value : Word32) (s : State) : Result :=
  whenRunning s (fun s => s.asPriv tag 0x0A0000 true (fun s => s.selectCtx value.toNat))

/-- CTX_COPY (R354): at the boundary after the write. -/
def execCtxCopy (s : State) : Result := whenRunning s (fun s =>
    if s.ctxView.asked && s.boundaryDone s.ctxView.askedAt then s.copyCtx else s)

end Sys2Proof.Machine
end

