-- ==== Sys2Proof/Machine/Maintenance.lean ====
section
/-! DEFINITION. Maintenance (R17 to R20, R186, R243, R390 to R404, R421): tokens, self-test slices and handovers, patrol
scrub and sweeps, coves and bays that fail, local frames, and the test access port. -/

namespace Sys2Proof.Machine

open Sys2Proof

/-- Registers of the maintenance block (R332, R347). -/
def maintReg (off : Nat) : Nat := 0x006000 + off

/-- Last slice of a cove test; tides of a token, of a sweep (R391, R397, R402). -/
def lastSlice : Nat := 511
def tokenTides : Nat := 2048
def sweepTides : Nat := 65536

/-- Units that patrol scrub reads in a tide, and units of the stacks (R396). -/
def scrubUnits : Nat := 1024
def stackUnits : Nat := 134217728

namespace State

/-! ### Self-test (R18 to R20, R390 to R393) -/

/-- The slice of this tide was granted at its boundary, has not run yet, and the bay still has the standby cove for it. -/
def sliceDue (s : State) (b : Nat) : Bool :=
  s.maint.sliceAt == some s.time.ticks && s.maint.lastSlice != some s.time.ticks && s.hasStandby b && !(s.bay b).passed

/-- The standby cove of a bay fails its test: it is retired and coverage is lost (R20, R391). -/
def failCove (s : State) (b : Nat) : State :=
  let cove := (s.bay b).standby
  let s := (s.retireCove b cove).setFaults (fun f => { f with coverageLost := true })
  let s := s.raise { type := 0x0061, severity := 2, subject := b + cove * 2 ^ 6, rings := s.ringsE }
  s.askHails

/-- The comparison at the end of a slice (R391). -/
def judgeSlice (s : State) (b sig : Nat) : State :=
  let x := s.bay b
  let good := sig == s.im.bist.coveSig.getD x.slice 0
  if good then
    if x.slice = lastSlice then (s.setBay b { x with slice := 0, failed := false, passed := true }).bump .bistPass
    else s.setBay b { x with slice := x.slice + 1, failed := false }
  else if x.failed then (s.setBay b { x with failed := false }).failCove b
  else
    let s := s.setBay b { x with failed := true }
    { s with maint := { s.maint with lastFail := b + x.standby * 2 ^ 6 + x.slice * 2 ^ 10 + sig * 2 ^ 32 } }

/-- A clipped-code counter passes from one cove to another. -/
def moveClip (from_ to_ : Nat) (t : Tbl Nat) : Tbl Nat :=
  let v := t.get 0 from_
  if v = 0 then t else Tbl.set (t.filter (fun x => x.1 != from_)) to_ (t.get 0 to_ + v)

/-- The clipped-code counters of the step pass from one cove of a bay to another (R12, R19). -/
def moveClips (s : State) (b from_ to_ : Nat) : State :=
  { s with groups := s.groups.map (fun g => (g.1, { g.2 with stats := g.2.stats.map (fun x =>
      (x.1, { x.2 with coveClip := moveClip (16 * b + from_) (16 * b + to_) x.2.coveClip })) })) }

/-- A cove takes over the logical position of another of its bay. -/
def replaceCove (s : State) (b old new : Nat) : State :=
  (s.setBay b { s.bay b with phys := (s.bay b).phys.map (fun c => if c = old then new else c),
                             slice := 0, failed := false, passed := false }).moveClips b old new

/-- The standby role passes to the next cove of the bay; the outgoing standby takes over its logical position with the
counters (R18, R19). -/
def handover (s : State) (b : Nat) : State :=
  let old := (s.bay b).standby
  let next := (old + 1) % 16
  let s := s.replaceCove b next old
  s.setBay b { s.bay b with standby := next }

/-! ### Active coves and bays that fail (R20, R186) -/

/-- The standby cove takes over from a faulty one, which is retired (R186). -/
def takeOver (s : State) (b cove : Nat) : State :=
  let s := { s with maint := { s.maint with takeovers := s.maint.takeovers.filter (· != (b, cove)) } }
  if !s.hasStandby b then { s with maint := { s.maint with retiring := addOnce s.maint.retiring b } }
  else
    let s := s.replaceCove b cove (s.bay b).standby
    let s := (s.retireCove b cove).setFaults (fun f => { f with coverageLost := true })
    let s := s.raise { type := 0x0061, severity := 2, subject := b + cove * 2 ^ 6, rings := s.ringsE }
    s.askHails

/-- A bay is retired in service: member lost to every group it serves (R20, R207). -/
def loseBay (s : State) (b : Nat) : State :=
  let gs := s.bayGroups b
  let s := { s with maint := { s.maint with retiring := s.maint.retiring.filter (· != b) } }
  let s := s.retireBay b
  let s := s.raise { type := 0x0062, severity := 4, code := 0x02, subject := b,
                     arg := ((gs.filter (· < 32)).map (2 ^ ·)).foldl (· + ·) 0, rings := s.ringsA }
  let s := gs.foldl (fun s g =>
    if s.abortable g then
      (s.modGroup g (fun x => { x with recovery := { x.recovery with lostChip := s.ident.hallChip } })).abortGroup g 0x02
    else s) s
  s.askHails

/-! ### Patrol scrub and sweeps (R395 to R397) -/

/-- A requested sweep reads unit `u` in this tide: 512 units of its stack a tide, ascending (R397). -/
def sweepReads (s : State) (u : Nat) : Bool :=
  match s.maint.sweep with
  | some (n, t) => u % 4 == n && u / 2048 == s.time.ticks - t
  | none => false

/-- One tide of patrol scrub, with what a requested sweep reads. -/
def scrub (s : State) (corrected bad : List Nat) : State :=
  let at_ := s.maint.scrubAt
  let here (u : Nat) : Bool := decide (at_ ≤ u ∧ u < at_ + scrubUnits) || s.sweepReads u
  let found := (s.badUnits.filter here ++ bad.filter here).eraseDups
  let done := stackUnits ≤ at_ + scrubUnits
  { s with maint := { s.maint with lastScrub := some s.time.ticks, scrubAt := if done then 0 else at_ + scrubUnits, found := found,
                                   fixed := corrected.filter here,
                                   sweeps := if done then (s.maint.sweeps + 1) % 2 ^ 32 else s.maint.sweeps } }

/-! ### Local frames (R243, R254) -/

/-- A port sends the local frame: in FRAME, or trained and not in the tide frame. -/
def localFrame (s : State) (p : Nat) : Bool :=
  (s.port p).link == .frame || (trained (s.port p).link && !(s.port p).tideFrame)

/-- The local frame in progress goes out, and the next begins. -/
def passLocal (s : State) (p : Nat) : State :=
  (s.sendFrame p false).modPort p (fun x => { x with localCount := (x.localCount + 1) % 2 ^ 64 })

/-- BIST_CTRL (R347, R392). -/
def setRotate (s : State) (v : Nat) : State := { s with maint := { s.maint with rotate := bitAt v 0 } }

end State

/-- MAINT_REQ (R347, R400 to R402). -/
def execMaintReq (tag : Nat) (value : Word32) (s : State) : Result :=
  whenRunning s (fun s => s.asPriv tag (maintReg 8) true (fun s => s.maintRequest value.toNat))

/-- MAINT_RELEASE (R347). -/
def execMaintRelease (tag : Nat) (s : State) : Result :=
  whenRunning s (fun s => s.asPriv tag (maintReg 8) true State.releaseHall)

/-- TOKEN_LAPSE (R402): calibration and PRBS tokens, 2,048 tides after their grant. -/
def execTokenLapse (s : State) : Result :=
  whenRunning s (fun s => s.endTokens (fun t =>
    (t.activity == 1 || t.activity == 3) && decide (t.granted + tokenTides ≤ s.time.ticks)))

/-- BIST_CTRL_WRITE (R392): it takes effect with the next slice. -/
def execBistCtrlWrite (tag : Nat) (value : Word32) (s : State) : Result :=
  whenRunning s (fun s => s.asPriv tag (maintReg 0) true (fun s => s.setRotate value.toNat))

/-- BIST_SLICE (R390, R391). -/
def execBistSlice (signature : Word32) (s : State) : Result :=
  whenRunning s (fun s =>
    let b := s.turnBay
    if s.sliceDue b then
      (({ s with maint := { s.maint with lastSlice := some s.time.ticks } } : State)).judgeSlice b signature.toNat
    else s)

/-- STANDBY_HANDOVER (R19, R391): at a boundary, after the effects and activations due on it (R46). -/
def execStandbyHandover (bay : Nat) (s : State) : Result :=
  whenRunning s (fun s => if s.handoverDue bay then (s.handover bay).settle else s)

/-- PATROL_SCRUB (R396): once in a tide. -/
def execPatrolScrub (corrected badUnits : List Nat) (s : State) : Result :=
  whenRunning s (fun s => if s.maint.lastScrub = some s.time.ticks then s else s.scrub corrected badUnits)

/-- SWEEP_COMPLETE (R397): the requested sweep ends and releases its token. -/
def execSweepComplete (s : State) : Result :=
  whenRunning s (fun s =>
    match s.maint.sweep with
    | some x => if x.2 + sweepTides ≤ s.time.ticks then s.endTokens (fun t => t.activity == 4) else s
    | none => s)

/-- COVE_TAKEOVER (R186): at a boundary, as a handover (R19). -/
def execCoveTakeover (bay : Nat) (s : State) : Result :=
  whenRunning s (fun s =>
    match s.maint.takeovers.find? (fun x => x.1 == bay) with
    | some x => if s.takeoverDue bay then (s.takeOver bay x.2).settle else s
    | none => s)

/-- BAY_RETIREMENT (R20, R186). -/
def execBayRetirement (bay : Nat) (s : State) : Result :=
  whenRunning s (fun s => if s.maint.retiring.contains bay && s.atStepBoundary bay then s.loseBay bay else s)

/-- LOCAL_FRAME_BOUNDARY (R243, R254). -/
def execLocalFrameBoundary (port : Nat) (s : State) : Result :=
  whenRunning s (fun s => if s.localFrame port then s.passLocal port else s)

/-- The low `n` bits of a number, least significant first. -/
def tapOrder (n v : Nat) : List Bool := (List.range n).map (fun i => bitAt v i)

/-- The device identification of the test access port (R421). -/
def tapIdcode : Nat := 0x15A3476B

/-- The boundary-scan sample of the single-ended balls in the order of R419: the levels the state knows, the others as
captured (DESIGN CHOICE, log entry 100: the order of the cells is the package drawing's). -/
def State.boundarySample (s : State) (bits : List Bool) : List Bool :=
  [s.power.mode != .off, !s.power.modResetLow, bits.getD 0 true, s.power.railEnCore, !s.power.thermAlert,
   bits.getD 1 false, bits.getD 2 false]

/-- The bits that an instruction's data register shifts out (R421; the one 0 of BYPASS is that of IEEE 1149.1). -/
def State.tapBits (s : State) (i : TapInstr) (bits : List Bool) : List Bool :=
  match i with
  | .bypass => [false]
  | .idcode => tapOrder 32 tapIdcode
  | .samplePreload => s.boundarySample bits
  | _ => bits

/-- The instruction the port takes: while MOD_RESET_N is high only four are accepted, any other acts as BYPASS (R421). -/
def State.tapTaken (s : State) (i : TapInstr) : TapInstr :=
  match i with
  | .other n => if s.power.modResetLow then .other n else .bypass
  | j => j

/-- TEST_ACCESS_PORT_INSTRUCTION (R421). TRST_N low holds the port in reset. Without power there is no port. -/
def execTestAccessPortInstruction (ev : TapEvent) (s : State) : Result :=
  .next (if s.power.mode == .off then s
    else match ev with
    | .trst low => { s with tap := { instr := if low then .bypass else s.tap.instr, trstLow := low } }
    | .instruction i bits =>
      if s.tap.trstLow then s
      else
        let taken := s.tapTaken i
        ({ s with tap := { s.tap with instr := taken } } : State).emit (.tapData taken (s.tapBits taken bits)))

end Sys2Proof.Machine
end

