-- ==== Sys2Proof/Machine/Access.lean ====
section
/-! DEFINITION. Accesses of the host access port by address (R7, R9, R302 to R305, R333 to R363): REGISTER_WRITE and
REGISTER_READ. A register that has commands of its own is reached through the same operations. -/

namespace Sys2Proof.Machine

open Sys2Proof

/-- A W1C bit of a written value: a 1 clears it (R7). -/
def w1c (v i : Nat) (b : Bool) : Bool := b && !bitAt v i

/-- Bytes with the bytes of a written word in place, `n` in all. -/
def patch (n : Nat) (b : Bytes) (off v : Nat) : Bytes :=
  let b := padTo n b
  b.take off ++ leBytes 4 v ++ b.drop (off + 4)

namespace State

/-! ### Registers of the privileged window, one 32-bit word written -/

/-- TIME_STATUS and PPS_CTRL (R40, R337). -/
def writeTime (s : State) (o v : Nat) : State :=
  let t := s.time
  if o = 0x00 then
    { s with time := { t with driftWarn := w1c v 13 t.driftWarn, driftAbort := w1c v 14 t.driftAbort,
                              holdoverSeen := w1c v 15 t.holdoverSeen, alignFault := w1c v 16 t.alignFault } }
  else if o = 0x04 then
    let s := if bitAt v 20 then s else s.cutPps
    { s with time := { s.time with ppsWidth := Nat.min 500000 (Nat.max 1 (field v 0 20)),
                                   ppsOutEnable := bitAt v 20, ppsInEnable := bitAt v 21 } }
  else s

/-- Calibration access (R338). -/
def writeCalReg (s : State) (o v : Nat) : State :=
  if o = 0x00 then s.calAccess v
  else if o = 0x04 then s.writeCal v
  else if o = 0x08 then (if bitAt v 0 then s.commitCal else s)
  else if o = 0x0C then { s with cal := { s.cal with writeBlocked := w1c v 4 s.cal.writeBlocked } }
  else if o = 0x10 then (if bitAt v 0 then s.reloadCal else s)
  else s

/-- IMAGE_CMD (R340). -/
def writeImageCmd (s : State) (v : Nat) : State :=
  let slot := field v 4 1
  match field v 0 4 with
  | 1 => s.imageCmd (fun s => s.setJob .verify)
  | 2 => s.imageCmd (fun s => s.loadSlot slot)
  | 3 => s.startStore slot false
  | 4 => s.startStore slot true
  | 5 => s.imageCmd State.askActivation
  | 6 => s.imageCmd (fun s => s.cancelActivation 0)
  | _ => s.ignoreCmd

/-- The image block (R339 to R343). -/
def writeImageReg (s : State) (o v : Nat) : State :=
  let i := s.image
  let b := s.bookRegs
  if o = 0x00 then s.writeImageCmd v
  else if o = 0x04 then
    { s with image := { i with shadowInUse := w1c v 11 i.shadowInUse, storeRefused := w1c v 12 i.storeRefused,
                               rollbackIgnored := w1c v 13 i.rollbackIgnored, cmdIgnored := w1c v 16 i.cmdIgnored } }
  else if o = 0x10 then s.keyCtrl v
  else if o = 0x14 then { s with nv := { s.nv with failed := w1c v 9 s.nv.failed } }
  else if o = 0x18 then s.rollbackCtrl v
  else if 0x40 ≤ o ∧ o < 0x70 then { s with nv := { s.nv with keyHash := patch 48 s.nv.keyHash (o - 0x40) v } }
  else if o = 0x100 then { s with bookRegs := { b with sel := field v 0 6 } }
  else if o = 0x104 then (if bitAt v 0 then s.replaceBook else s)
  else if 0x110 ≤ o ∧ o < 0x120 then { s with bookRegs := { b with levels := patch 16 b.levels (o - 0x110) v } }
  else s

/-- PARTITION_CTRL (R345): commands other than the three are reserved. -/
def partCtrl (s : State) (v : Nat) : State :=
  let p := field v 0 3
  match field v 4 2 with
  | 1 => s.attach p
  | 2 => s.detach p
  | 3 => s.forceDetach p
  | _ => s

/-- The partition block (R345). -/
def writePartReg (s : State) (o v : Nat) : State :=
  if o = 0x00 then s.grant v
  else if o = 0x04 then s.partCtrl v
  else if o = 0x08 then { s with parts := { s.parts with cmdIgnored := w1c v 16 s.parts.cmdIgnored } }
  else s

/-- POWER_STATUS (R346). -/
def clearPower (s : State) (v : Nat) : State :=
  let p := s.power
  { s with power := { p with reqIgnored := w1c v 2 p.reqIgnored, thermalWarn := w1c v 3 p.thermalWarn,
                             thermalCrit := w1c v 4 p.thermalCrit } }

/-- FAULT_STATUS (R346). -/
def clearFaults (s : State) (v : Nat) : State :=
  let f := s.power.faults
  { s with power := { s.power with faults :=
    { sramUE := w1c v 0 f.sramUE, stackUE := w1c v 1 f.stackUE, coveRetired := w1c v 2 f.coveRetired,
      bayRetired := w1c v 3 f.bayRetired, coverageLost := w1c v 4 f.coverageLost, calInvalid := w1c v 5 f.calInvalid,
      timeLost := w1c v 6 f.timeLost } } }

/-- The four registers that answer in Hold too (R346, R408). -/
def writePowerCore (s : State) (o v : Nat) : State :=
  if o = 0x00 then s.clearPower v
  else if o = 0x04 then s.powerCtrl v
  else if o = 0x08 then { s with power := { s.power with resetCause := s.power.resetCause &&& ~~~(BitVec.ofNat 6 v) } }
  else if o = 0x0C then s.resetCtrl v
  else s

/-- Power, reset and faults (R346). -/
def writePowerReg (s : State) (o v : Nat) : State := if o = 0x20 then s.clearFaults v else s.writePowerCore o v

/-- Maintenance (R347). -/
def writeMaintReg (s : State) (o v : Nat) : State :=
  if o = 0x00 then s.setRotate v else if o = 0x08 then s.maintRequest v else s

/-- PORT_CTRL (R349): with ENABLE cleared the port goes to OFF whatever else is written. -/
def portCtrl (s : State) (p v : Nat) : State :=
  let s := s.modPort p (fun x => { x with enable := bitAt v 0 })
  let s := if !bitAt v 0 then s.leaveTraining p .off
    else
      let s := s.startPort p
      if bitAt v 1 then s.retrainPort p else s
  let s := if bitAt v 2 then s.askRemeasure p else s
  if bitAt v 3 = (s.port p).prbs then s else s.setPrbs p (bitAt v 3)

/-- The W1C bits of DIAG_CTRL (R351). -/
def clearDiag (s : State) (g v : Nat) : State :=
  s.modGroup g (fun x =>
    { x with diag := { x.diag with done := w1c v 2 x.diag.done, incomplete := w1c v 3 x.diag.incomplete } })

/-- DIAG_CTRL (R351). -/
def diagCtrl (s : State) (g v : Nat) : State := if bitAt v 0 then (s.clearDiag g v).startDiag g else s.clearDiag g v

/-- A group block (R350 to R352). -/
def writeGroupReg (s : State) (g o v : Nat) : State :=
  if o = 0x10 then s.modGroup g (fun x => { x with writeIgnored := w1c v 4 x.writeIgnored })
  else if o = 0x14 then s.setHold g v
  else if o = 0x18 then (if bitAt v 0 then s.askDiscard g else s)
  else if o = 0x1C then s.diagCtrl g v
  else if o = 0x20 then s.recoveryCtrl g v
  else s

/-- A snapshot page (R360): page 0 is the engine's and has no STAT_CLEAR of its own. -/
def writeSnapReg (s : State) (page o v : Nat) : State :=
  if o = 0x18 then s.askSnap page v
  else if o = 0x30 then (if page ≠ 0 && bitAt v 0 then s.clearCopies (page - 1) else s)
  else if 0x40 ≤ o ∧ o < 0x80 then s.setSel page ((o - 0x40) / 4) v
  else s

/-- An event ring (R329). -/
def writeRingReg (s : State) (r o v : Nat) : State :=
  if o = 0x08 then s.ringCtrl r v
  else if o = 0x0C then s.ringHead r (BitVec.ofNat 32 v)
  else if o = 0x14 then
    s.modRing r (fun x => { x with overflow := w1c v 0 x.overflow, ctrlIgnored := w1c v 1 x.ctrlIgnored,
                                   writeFault := w1c v 2 x.writeFault })
  else s

/-- A doorbell page (R313). -/
def writeDoorbell (s : State) (g o v : Nat) : State :=
  if o = 0x00 then s.writeTail g (BitVec.ofNat 32 v)
  else if o = 0x04 then s.writeComplHead g (BitVec.ofNat 32 v)
  else s

/-- A queue block (R314). -/
def writeQueueReg (s : State) (g o v : Nat) : State :=
  if o = 0x10 then s.queueCtrl g v
  else if o = 0x14 then
    s.modQueue g (fun q => { q with tailErr := w1c v 2 q.tailErr, fetchErr := w1c v 3 q.fetchErr })
  else s

/-- Doorbell pages and queue blocks act for the groups with a given owner (R314, R363). -/
def writeQueues (s : State) (owner o v : Nat) : State :=
  if o < 0x4000 then (if s.groupOwner (o / 64) = some owner then s.writeDoorbell (o / 64) (o % 64) v else s)
  else
    let g := (o - 0x4000) / 192
    if o < 0x10000 ∧ s.groupOwner g = some owner then s.writeQueueReg g ((o - 0x4000) % 192) v else s

/-- Trigger counters (R321, R363). -/
def writeTrigReg (s : State) (tag addr o v : Nat) : State :=
  if o % 8 = 0 then s.writeTrigger (o / 8) (BitVec.ofNat 32 v)
  else if o % 8 = 4 then s.agentAdd tag (o / 8) addr v
  else s

/-- A 32-bit word written in the privileged window (R332). -/
def privWrite (s : State) (tag a v : Nat) : State :=
  if a < 0x001000 then s
  else if a < 0x002000 then s.writeTime (a - 0x001000) v
  else if a < 0x003000 then s.writeCalReg (a - 0x002000) v
  else if a < 0x004000 then s.writeImageReg (a - 0x003000) v
  else if a < 0x005000 then s.writePartReg (a - 0x004000) v
  else if a < 0x006000 then s.writePowerReg (a - 0x005000) v
  else if a < 0x007000 then s.writeMaintReg (a - 0x006000) v
  else if a < 0x008000 then s
  else if a < 0x009800 then (if a % 256 = 0 then s.portCtrl ((a - 0x008000) / 256) v else s)
  else if a < 0x010000 then s
  else if a < 0x020000 then s.writeGroupReg ((a - 0x010000) / 256) (a % 256) v
  else if a < 0x063000 then s
  else if a = 0x063000 then s.clearStats v
  else if a < 0x070000 then s
  else if a < 0x071000 then s.writeSnapReg 0 (a - 0x070000) v
  else if a < 0x072000 then s.writeRingReg hallRing (a - 0x071000) v
  else if a < 0x080000 then s
  else if a < 0x090000 then s.writeQueues 8 (a - 0x080000) v
  else if a < 0x098000 then s.writeTrigReg tag a (a - 0x090000) v
  else if a = 0x0A0000 then s.selectCtx v
  else if a = 0x0C0000 then { s with recSel := v }
  else if a < imageWindow then s
  else if a < 0x800000 then s.writeWindow (a - imageWindow) 4 v
  else s

/-- A 32-bit word written in partition window p. A DETACHED partition's registers keep their reset values (R364); an add
to one of its counters is dropped and reported (R331). -/
def partWrite (s : State) (tag p a v : Nat) : State :=
  let o := a % 0x00100000
  let counter := decide (0x10000 ≤ o ∧ o < 0x18000) && s.triggerOk p ((o - 0x10000) / 8)
  if s.pstate p == .detached then (if counter && o % 8 == 4 then s.writeTrigReg tag a (o - 0x10000) v else s)
  else if o < 0x10000 then s.writeQueues p o v
  else if counter then s.writeTrigReg tag a (o - 0x10000) v
  else if 0x20000 ≤ o ∧ o < 0x21000 then s.writeSnapReg (p + 1) (o - 0x20000) v
  else if 0x30000 ≤ o ∧ o < 0x31000 then s.writeRingReg p (o - 0x30000) v
  else s

/-- A 32-bit word written at an address that the view reaches; reserved addresses ignore it (R333). -/
def writeWord (s : State) (tag a v : Nat) : State :=
  if a < 0x01000000 then s.privWrite tag a v
  else if a < windowsEnd then s.partWrite tag ((a - 0x01000000) / 0x00100000) a v
  else s

/-! ### 64-bit registers (R305) -/

/-- The queue base at an offset of a queue area: the group and whether it is COMPL_BASE (R314). -/
def queueBaseAt (o : Nat) : Option (Nat × Bool) :=
  if o < 0x4000 ∨ 0x10000 ≤ o then none
  else
    let g := (o - 0x4000) / 192
    let r := (o - 0x4000) % 192
    if r = 0 then some (g, false) else if r = 8 then some (g, true) else none

/-- The registers of 64 bits that take a write, by address. -/
def isWide (a : Nat) : Bool :=
  if a < 0x01000000 then
    a == 0x000018 || a == 0x001018 || a == 0x003008 || a == 0x003108 || a == 0x071000
      || (decide (0x010000 ≤ a ∧ a < 0x020000) && (a % 256 == 0x08 || a % 256 == 0x28))
      || (decide (0x080000 ≤ a ∧ a < 0x090000) && (queueBaseAt (a - 0x080000)).isSome)
  else
    decide (a < windowsEnd) && (a % 0x00100000 == 0x30000 || (queueBaseAt (a % 0x00100000)).isSome)

/-- QUEUE_BASE and COMPL_BASE: writable only while STOPPED (R314). -/
def writeQueueBase (s : State) (owner o v : Nat) : State :=
  match queueBaseAt o with
  | some (g, compl) =>
    if s.groupOwner g = some owner ∧ (s.queue g).state = .stopped then
      s.modQueue g (fun q => if compl then { q with complBase := v } else { q with base := v })
    else s
  | none => s

/-- A 64-bit register of the privileged window takes its value. -/
def privWide (s : State) (a v : Nat) : State :=
  if a = 0x000018 then { s with ident := { s.ident with scratch := BitVec.ofNat 64 v } }
  else if a = 0x001018 then s.setPpsTod v
  else if a = 0x003008 then { s with image := { s.image with actStep := v % 2 ^ 48 } }
  else if a = 0x003108 then { s with bookRegs := { s.bookRegs with step := v % 2 ^ 48 } }
  else if a < 0x020000 then
    let g := (a - 0x010000) / 256
    if a % 256 = 0x08 then s.setGroupStep g v else s.modGroup g (fun x => { x with rc := { x.rc with tR := v } })
  else if a = 0x071000 then s.ringBase hallRing v
  else s.writeQueueBase 8 (a - 0x080000) v

/-- A 64-bit register takes its value. -/
def writeWide (s : State) (a v : Nat) : State :=
  if a < 0x01000000 then s.privWide a v
  else
    let p := (a - 0x01000000) / 0x00100000
    let o := a % 0x00100000
    if s.pstate p == .detached then s
    else if o = 0x30000 then s.ringBase p v
    else s.writeQueueBase p o v

/-- The low half that a tag's write left held for a 64-bit register. -/
def heldLow (s : State) (tag a : Nat) : Option Nat :=
  (s.host.writeLow.find? (fun x => x.1 == tag && x.2.1 == a)).map (fun x => x.2.2)

def dropLow (s : State) (tag a : Nat) : State :=
  { s with host := { s.host with writeLow := s.host.writeLow.filter (fun x => !(x.1 == tag && x.2.1 == a)) } }

def holdLow (s : State) (tag a v : Nat) : State :=
  let s := s.dropLow tag a
  { s with host := { s.host with writeLow := s.host.writeLow ++ [(tag, a, v)] } }

/-- A 32-bit write: the low half of a 64-bit register is held, and its high half gives it the new value. -/
def write32 (s : State) (tag a v : Nat) : State :=
  if a % 8 = 0 && isWide a then s.holdLow tag a v
  else if a % 8 = 4 && isWide (a - 4) then
    let low := (s.heldLow tag (a - 4)).getD (s.word (a - 4))
    (s.dropLow tag (a - 4)).writeWide (a - 4) (low + v * 2 ^ 32)
  else s.writeWord tag a v

/-- Pairs of a command register with the status register above it, which that command may set: IMAGE_CMD and KEY_FUSE_CTRL
(R339). -/
def statusAbove (a : Nat) : Bool := a == imageReg 0x00 || a == imageReg 0x10

/-- STEP_DISCARD and DIAG_CTRL, whose INCOMPLETE the discard may set (R222, R350). -/
def discardPair (a : Nat) : Bool := decide (0x010000 ≤ a ∧ a < 0x020000) && a % 256 == 0x18

/-- A 64-bit write: a 64-bit register, eight bytes of IMAGE_WINDOW, or two registers in ascending order. A status register is
cleared first, so that an event of the same access prevails (R8). -/
def write64 (s : State) (tag a v : Nat) : State :=
  if isWide a then (s.dropLow tag a).writeWide a v
  else if imageWindow ≤ a ∧ a < 0x800000 then s.writeWindow (a - imageWindow) 8 v
  else if discardPair a then
    (((s.clearDiag ((a - 0x010000) / 256) (v / 2 ^ 32)).writeWord tag a (v % 2 ^ 32))).writeWord tag (a + 4) (v / 2 ^ 32 % 4)
  else if statusAbove a then (s.writeWord tag (a + 4) (v / 2 ^ 32)).writeWord tag a (v % 2 ^ 32)
  else (s.writeWord tag a (v % 2 ^ 32)).writeWord tag (a + 4) (v / 2 ^ 32)

/-! ### Reads (R334) -/

/-- Reads with an effect: CAL_DATA advances its offset, TIME_SNAPSHOT_TIDE freezes its page (R338, R360). -/
def readEffect (s : State) (a : Nat) : State :=
  if a = 0x002004 then { s with cal := { s.cal with offset := nextOffset s.cal } }
  else if a = 0x070000 then s.freezeTime 0
  else
    let p := (a - 0x01000000) / 0x00100000
    if 0x01000000 ≤ a ∧ a < windowsEnd ∧ a % 0x00100000 = 0x20000 then
      (if s.pstate p == .detached then s else s.freezeTime (p + 1))
    else s

/-- The registers of 64 bits that are only read: counters, times, status and values. -/
def isWideRead (a : Nat) : Bool :=
  let snapOff (o : Nat) : Bool := o % 8 == 0 && (decide (o < 0x40) || decide (0x80 ≤ o ∧ o < 0x200))
  isWide a || a == 0x000008
    || (decide (0x001008 ≤ a ∧ a < 0x001028) && a % 8 == 0)
    || a == 0x005090 || a == 0x005098 || a == 0x006010 || a == 0x006100
    || (decide (0x008000 ≤ a ∧ a < 0x009800) && (a % 256 == 0x48 || a % 256 == 0x58))
    || (decide (0x010000 ≤ a ∧ a < 0x020000) && a % 256 == 0x00)
    || (decide (0x020000 ≤ a ∧ a < 0x060000) && a % 64 == 0x18)
    || (decide (0x060000 ≤ a ∧ a < 0x062800) && a % 8 == 0)
    || (decide (0x070000 ≤ a ∧ a < 0x071000) && snapOff (a - 0x070000))
    || (decide (0x0A0040 ≤ a ∧ a < 0x0A0080) && a % 8 == 0)
    || (decide (0x0C1000 ≤ a ∧ a < 0x0C2000) && a % 8 == 0)
    || (decide (0x01000000 ≤ a ∧ a < windowsEnd) && decide (0x20000 ≤ a % 0x00100000 ∧ a % 0x00100000 < 0x21000)
        && snapOff (a % 0x00100000 - 0x20000))

/-- The high half that a tag holds latched for an address. -/
def latched (s : State) (tag a : Nat) : Option Nat :=
  (s.host.readHigh.find? (fun x => x.1 == tag && x.2.1 == a)).map (fun x => x.2.2)

/-- A read within reach: the value, and what the read leaves. -/
def readReg (s : State) (tag a size : Nat) : State :=
  let held := s.latched tag a
  let s := s.touch tag
  if size = 8 then ((s.readEffect a).readEffect (a + 4)).emit (.readData tag (s.word64 a))
  else
    match held with
    | some v => s.emit (.readData tag v)
    | none =>
      let v := s.word a
      let high := s.word (a + 4)
      let t := s.readEffect a
      let t := if isWideRead a then { t with host := { t.host with readHigh := t.host.readHigh ++ [(tag, a + 4, high)] } } else t
      t.emit (.readData tag v)

/-! ### Accesses -/

/-- A good access: naturally aligned, of 32 or 64 bits (R305). -/
def goodAccess (a size : Nat) : Bool := (size == 4 || size == 8) && a % size == 0

/-- The registers of R408 that answer in Hold. -/
def holdAnswers (a : Nat) : Bool := decide (powerReg 0 ≤ a ∧ a ≤ powerReg 0x0C)

/-- A write by a tag. -/
def hostWrite (s : State) (tag a size v : Nat) : State :=
  if tag > 8 then s
  else
    let s := s.touch tag
    if !goodAccess a size then s.bumpP .accessMalformed tag 1
    else if !s.mayReach tag a then s.violation tag a true
    else if size = 8 then s.write64 tag a (v % 2 ^ 64)
    else s.write32 tag a (v % 2 ^ 32)

/-- A read by a tag. -/
def hostRead (s : State) (tag a size : Nat) : State :=
  if tag > 8 then s
  else if !goodAccess a size then ((s.touch tag).bumpP .accessMalformed tag 1).emit (.readData tag 0)
  else if !s.mayReach tag a then ((s.touch tag).violation tag a false).emit (.readData tag 0)
  else s.readReg tag a size

/-- An access in Hold: the four registers answer the management controller. -/
def holdWrite (s : State) (tag a size v : Nat) : State :=
  if tag ≠ 8 ∨ !goodAccess a size ∨ !holdAnswers a then s
  else
    let s' := s.writePowerCore (a - powerReg 0) (v % 2 ^ 32)
    if size = 8 ∧ s'.power.mode = .hold then s'.writePowerCore (a + 4 - powerReg 0) (v / 2 ^ 32 % 2 ^ 32) else s'

def holdRead (s : State) (tag a size : Nat) : State :=
  if tag ≠ 8 ∨ !goodAccess a size ∨ !holdAnswers a then s
  else s.emit (.readData tag (if size = 8 then s.word64 a else s.word a))

end State

/-- REGISTER_WRITE (R7, R302 to R305, R333). -/
def execRegisterWrite (tag addr size : Nat) (value : Word64) (s : State) : Result :=
  whenAlive s (fun s =>
    if s.power.mode == .hold then s.holdWrite tag addr size value.toNat else s.hostWrite tag addr size value.toNat)

/-- REGISTER_READ (R7, R302 to R305, R333, R334). -/
def execRegisterRead (tag addr size : Nat) (s : State) : Result :=
  whenAlive s (fun s => if s.power.mode == .hold then s.holdRead tag addr size else s.hostRead tag addr size)

end Sys2Proof.Machine
end

