-- ==== Sys2Proof/Machine/Dispatch.lean ====
section
/-! DEFINITION. The dispatch of a command to its meaning, one arm per row of the command table. -/

namespace Sys2Proof.Machine

open Sys2Proof

def exec (i : Instr) (s : State) : Host.Outcome State Fault Refusal :=
  match i with
  | .tideBoundary env => Sys2Proof.Machine.execTideBoundary env s
  | .tideMarkReceived port arrival cell => Sys2Proof.Machine.execTideMarkReceived port arrival cell s
  | .sync port rx cell meas => Sys2Proof.Machine.execSync port rx cell meas s
  | .followUp port cell => Sys2Proof.Machine.execFollowUp port cell s
  | .delayResp port cell => Sys2Proof.Machine.execDelayResp port cell s
  | .announce port cell => Sys2Proof.Machine.execAnnounce port cell s
  | .delayReqSend port tx => Sys2Proof.Machine.execDelayReqSend port tx s
  | .syncTimeout port => Sys2Proof.Machine.execSyncTimeout port s
  | .announceReceiptTimeout port => Sys2Proof.Machine.execAnnounceReceiptTimeout port s
  | .holdoverBoundReached => Sys2Proof.Machine.execHoldoverBoundReached s
  | .timeLost => Sys2Proof.Machine.execTimeLost s
  | .ppsOut => Sys2Proof.Machine.execPpsOut s
  | .ppsInEdge edge meas => Sys2Proof.Machine.execPpsInEdge edge meas s
  | .ppsTodWrite tag value => Sys2Proof.Machine.execPpsTodWrite tag value s
  | .temperatureUpdate temps => Sys2Proof.Machine.execTemperatureUpdate temps s
  | .thermalShutdown => Sys2Proof.Machine.execThermalShutdown s
  | .calDataWrite tag value => Sys2Proof.Machine.execCalDataWrite tag value s
  | .calDataRead tag => Sys2Proof.Machine.execCalDataRead tag s
  | .calCommit tag value => Sys2Proof.Machine.execCalCommit tag value s
  | .calCommitDone ok => Sys2Proof.Machine.execCalCommitDone ok s
  | .calReload tag value => Sys2Proof.Machine.execCalReload tag value s
  | .delayMeas tag port => Sys2Proof.Machine.execDelayMeas tag port s
  | .powerOn => Sys2Proof.Machine.execPowerOn s
  | .pwrGoodLoss => Sys2Proof.Machine.execPwrGoodLoss s
  | .moduleReset => Sys2Proof.Machine.execModuleReset s
  | .moduleResetRelease => Sys2Proof.Machine.execModuleResetRelease s
  | .modWarm => Sys2Proof.Machine.execModWarm s
  | .warmRestart tag value => Sys2Proof.Machine.execWarmRestart tag value s
  | .coldRestart tag value => Sys2Proof.Machine.execColdRestart tag value s
  | .watchdog => Sys2Proof.Machine.execWatchdog s
  | .powerCtrlFull tag => Sys2Proof.Machine.execPowerCtrlFull tag s
  | .powerCtrlIdle tag => Sys2Proof.Machine.execPowerCtrlIdle tag s
  | .powerCtrlHold tag => Sys2Proof.Machine.execPowerCtrlHold tag s
  | .holdEntryDone => Sys2Proof.Machine.execHoldEntryDone s
  | .wakeComplete => Sys2Proof.Machine.execWakeComplete s
  | .startUpStep rep => Sys2Proof.Machine.execStartUpStep rep s
  | .portEnable tag port => Sys2Proof.Machine.execPortEnable tag port s
  | .portDisable tag port => Sys2Proof.Machine.execPortDisable tag port s
  | .retrain tag port => Sys2Proof.Machine.execRetrain tag port s
  | .prbsEnable tag port => Sys2Proof.Machine.execPrbsEnable tag port s
  | .signalLock port polarity => Sys2Proof.Machine.execSignalLock port polarity s
  | .signalTrainTimeout port => Sys2Proof.Machine.execSignalTrainTimeout port s
  | .frameLock port => Sys2Proof.Machine.execFrameLock port s
  | .alignComplete port => Sys2Proof.Machine.execAlignComplete port s
  | .linkLoss port cause => Sys2Proof.Machine.execLinkLoss port cause s
  | .fecDegradeCheck port corrected => Sys2Proof.Machine.execFecDegradeCheck port corrected s
  | .chunkCellReceived port slot delimiter fecBad cell => Sys2Proof.Machine.execChunkCellReceived port slot delimiter fecBad cell s
  | .retransmission port vc => Sys2Proof.Machine.execRetransmission port vc s
  | .hailSend port => Sys2Proof.Machine.execHailSend port s
  | .hailReceived port cell => Sys2Proof.Machine.execHailReceived port cell s
  | .quarantineEffect port => Sys2Proof.Machine.execQuarantineEffect port s
  | .hailTimeout port => Sys2Proof.Machine.execHailTimeout port s
  | .delayExchange port t1 => Sys2Proof.Machine.execDelayExchange port t1 s
  | .delayRequestReceived port t2 t3 cell => Sys2Proof.Machine.execDelayRequestReceived port t2 t3 cell s
  | .delayResponseReceived port t4 cell => Sys2Proof.Machine.execDelayResponseReceived port t4 cell s
  | .delayTimeout port => Sys2Proof.Machine.execDelayTimeout port s
  | .prbsCellReceived port cell => Sys2Proof.Machine.execPrbsCellReceived port cell s
  | .queueTailWrite tag group value => Sys2Proof.Machine.execQueueTailWrite tag group value s
  | .complHeadWrite tag group value => Sys2Proof.Machine.execComplHeadWrite tag group value s
  | .queueStart tag group => Sys2Proof.Machine.execQueueStart tag group s
  | .queueStop tag group => Sys2Proof.Machine.execQueueStop tag group s
  | .clearErr tag group => Sys2Proof.Machine.execClearErr tag group s
  | .queueStopped group => Sys2Proof.Machine.execQueueStopped group s
  | .descriptorFetch group res => Sys2Proof.Machine.execDescriptorFetch group res s
  | .trigValueWrite tag counter value => Sys2Proof.Machine.execTrigValueWrite tag counter value s
  | .trigAdd tag counter value => Sys2Proof.Machine.execTrigAdd tag counter value s
  | .eventCtrlWrite tag ring value => Sys2Proof.Machine.execEventCtrlWrite tag ring value s
  | .eventHeadWrite tag ring value => Sys2Proof.Machine.execEventHeadWrite tag ring value s
  | .eventRecordWrite badRings => Sys2Proof.Machine.execEventRecordWrite badRings s
  | .attach tag part => Sys2Proof.Machine.execAttach tag part s
  | .detach tag part => Sys2Proof.Machine.execDetach tag part s
  | .forceDetach tag part => Sys2Proof.Machine.execForceDetach tag part s
  | .quiesced part => Sys2Proof.Machine.execQuiesced part s
  | .detachComplete part => Sys2Proof.Machine.execDetachComplete part s
  | .privGrantWrite tag value => Sys2Proof.Machine.execPrivGrantWrite tag value s
  | .registerWrite tag addr size value => Sys2Proof.Machine.execRegisterWrite tag addr size value s
  | .exchange group index => Sys2Proof.Machine.execExchange group index s
  | .sparseExchange group index => Sys2Proof.Machine.execSparseExchange group index s
  | .barrier group index => Sys2Proof.Machine.execBarrier group index s
  | .scalar group index => Sys2Proof.Machine.execScalar group index s
  | .commit group index => Sys2Proof.Machine.execCommit group index s
  | .triggerAdd group index => Sys2Proof.Machine.execTriggerAdd group index s
  | .fence group index => Sys2Proof.Machine.execFence group index s
  | .put group index data => Sys2Proof.Machine.execPut group index data s
  | .get group index => Sys2Proof.Machine.execGet group index s
  | .putBlockReceived src => Sys2Proof.Machine.execPutBlockReceived src s
  | .getRequestReceived src data => Sys2Proof.Machine.execGetRequestReceived src data s
  | .getDataReceived src => Sys2Proof.Machine.execGetDataReceived src s
  | .putAckReceived src => Sys2Proof.Machine.execPutAckReceived src s
  | .flowCellReceived port cell => Sys2Proof.Machine.execFlowCellReceived port cell s
  | .flowResend port flow => Sys2Proof.Machine.execFlowResend port flow s
  | .ebbFirstHop group bucket chunk env => Sys2Proof.Machine.execEbbFirstHop group bucket chunk env s
  | .ebbHop group bucket chunk env => Sys2Proof.Machine.execEbbHop group bucket chunk env s
  | .ownerHop group bucket chunk env => Sys2Proof.Machine.execOwnerHop group bucket chunk env s
  | .floodReceive group bucket chunk env => Sys2Proof.Machine.execFloodReceive group bucket chunk env s
  | .verdict group index round => Sys2Proof.Machine.execVerdict group index round s
  | .coveTakeover bay => Sys2Proof.Machine.execCoveTakeover bay s
  | .bayRetirement bay => Sys2Proof.Machine.execBayRetirement bay s
  | .replayRoundLaunch group index round => Sys2Proof.Machine.execReplayRoundLaunch group index round s
  | .floodReplay group bucket chunk env => Sys2Proof.Machine.execFloodReplay group bucket chunk env s
  | .fold group index env => Sys2Proof.Machine.execFold group index env s
  | .foldComplete group index => Sys2Proof.Machine.execFoldComplete group index s
  | .spareResidualWrite group index env => Sys2Proof.Machine.execSpareResidualWrite group index env s
  | .appliedSeqReport unit seq => Sys2Proof.Machine.execAppliedSeqReport unit seq s
  | .unitReset unit met => Sys2Proof.Machine.execUnitReset unit met s
  | .appliedVote group => Sys2Proof.Machine.execAppliedVote group s
  | .commitEffect group => Sys2Proof.Machine.execCommitEffect group s
  | .openEffect group => Sys2Proof.Machine.execOpenEffect group s
  | .barrierMessage port field second => Sys2Proof.Machine.execBarrierMessage port field second s
  | .scalarMessage port field second => Sys2Proof.Machine.execScalarMessage port field second s
  | .statMessage port field second => Sys2Proof.Machine.execStatMessage port field second s
  | .verdictMessage port field second => Sys2Proof.Machine.execVerdictMessage port field second s
  | .commitMessage port field second => Sys2Proof.Machine.execCommitMessage port field second s
  | .readyMessage port field second => Sys2Proof.Machine.execReadyMessage port field second s
  | .openMessage port field second => Sys2Proof.Machine.execOpenMessage port field second s
  | .expressEffect group kind xtag => Sys2Proof.Machine.execExpressEffect group kind xtag s
  | .abortToken port field second => Sys2Proof.Machine.execAbortToken port field second s
  | .abortReport group => Sys2Proof.Machine.execAbortReport group s
  | .abortResend group => Sys2Proof.Machine.execAbortResend group s
  | .slipBarrierTimeout group index => Sys2Proof.Machine.execSlipBarrierTimeout group index s
  | .foldTimeout group index => Sys2Proof.Machine.execFoldTimeout group index s
  | .openTimeout group => Sys2Proof.Machine.execOpenTimeout group s
  | .expressHoldTimeout group kind xtag => Sys2Proof.Machine.execExpressHoldTimeout group kind xtag s
  | .commitHoldTimeout group => Sys2Proof.Machine.execCommitHoldTimeout group s
  | .broadcastLossTimeout group kind xtag => Sys2Proof.Machine.execBroadcastLossTimeout group kind xtag s
  | .propose port cell => Sys2Proof.Machine.execPropose port cell s
  | .census port cell => Sys2Proof.Machine.execCensus port cell s
  | .decide port cell met => Sys2Proof.Machine.execDecide port cell met s
  | .ack port cell => Sys2Proof.Machine.execAck port cell s
  | .coordinatorDeadline group => Sys2Proof.Machine.execCoordinatorDeadline group s
  | .rejoinWaitExpiry group => Sys2Proof.Machine.execRejoinWaitExpiry group s
  | .resumeTide group => Sys2Proof.Machine.execResumeTide group s
  | .skipClose close => Sys2Proof.Machine.execSkipClose close s
  | .recoveryCtrlArm tag group value => Sys2Proof.Machine.execRecoveryCtrlArm tag group value s
  | .stepDiscard tag group => Sys2Proof.Machine.execStepDiscard tag group s
  | .stepHoldWrite tag group value => Sys2Proof.Machine.execStepHoldWrite tag group value s
  | .groupStepWrite tag group value => Sys2Proof.Machine.execGroupStepWrite tag group value s
  | .diagStart tag group => Sys2Proof.Machine.execDiagStart tag group s
  | .diagDone group inputs => Sys2Proof.Machine.execDiagDone group inputs s
  | .spillStore group index => Sys2Proof.Machine.execSpillStore group index s
  | .spillLoad group index => Sys2Proof.Machine.execSpillLoad group index s
  | .spillStoreTile area tiles => Sys2Proof.Machine.execSpillStoreTile area tiles s
  | .spillLoadTile area met => Sys2Proof.Machine.execSpillLoadTile area met s
  | .imageWindowWrite tag offset size value => Sys2Proof.Machine.execImageWindowWrite tag offset size value s
  | .verify tag => Sys2Proof.Machine.execVerify tag s
  | .verifyDone => Sys2Proof.Machine.execVerifyDone s
  | .loadNv tag slot => Sys2Proof.Machine.execLoadNv tag slot s
  | .store tag slot => Sys2Proof.Machine.execStore tag slot s
  | .storeActive tag slot => Sys2Proof.Machine.execStoreActive tag slot s
  | .storeDone ok => Sys2Proof.Machine.execStoreDone ok s
  | .activate tag => Sys2Proof.Machine.execActivate tag s
  | .cancel tag => Sys2Proof.Machine.execCancel tag s
  | .activation => Sys2Proof.Machine.execActivation s
  | .keyProgram tag value => Sys2Proof.Machine.execKeyProgram tag value s
  | .keyRevoke tag value => Sys2Proof.Machine.execKeyRevoke tag value s
  | .fuseDone => Sys2Proof.Machine.execFuseDone s
  | .rollbackCtrlWrite tag value => Sys2Proof.Machine.execRollbackCtrlWrite tag value s
  | .codebookCmd tag value => Sys2Proof.Machine.execCodebookCmd tag value s
  | .snapReq tag page value => Sys2Proof.Machine.execSnapReq tag page value s
  | .snapshotLatch page => Sys2Proof.Machine.execSnapshotLatch page s
  | .timeSnapshotRead tag page => Sys2Proof.Machine.execTimeSnapshotRead tag page s
  | .statClear tag page value => Sys2Proof.Machine.execStatClear tag page value s
  | .ctxSelWrite tag value => Sys2Proof.Machine.execCtxSelWrite tag value s
  | .ctxCopy => Sys2Proof.Machine.execCtxCopy s
  | .maintReq tag value => Sys2Proof.Machine.execMaintReq tag value s
  | .maintRelease tag => Sys2Proof.Machine.execMaintRelease tag s
  | .tokenLapse => Sys2Proof.Machine.execTokenLapse s
  | .bistCtrlWrite tag value => Sys2Proof.Machine.execBistCtrlWrite tag value s
  | .bistSlice signature => Sys2Proof.Machine.execBistSlice signature s
  | .standbyHandover bay => Sys2Proof.Machine.execStandbyHandover bay s
  | .patrolScrub corrected badUnits => Sys2Proof.Machine.execPatrolScrub corrected badUnits s
  | .sweepComplete => Sys2Proof.Machine.execSweepComplete s
  | .localFrameBoundary port => Sys2Proof.Machine.execLocalFrameBoundary port s
  | .registerRead tag addr size => Sys2Proof.Machine.execRegisterRead tag addr size s
  | .testAccessPortInstruction ev => Sys2Proof.Machine.execTestAccessPortInstruction ev s
  | .imageReloadDone => Sys2Proof.Machine.execImageReloadDone s

end Sys2Proof.Machine
end

