-- ==== Sys2Proof/WellFormed.lean ====
section
/-! DEFINITION. Well-formed commands: every operand within the range that the spec gives its kind. The machine answers
ill-formed commands too; no sender of the spec makes one. -/

namespace Sys2Proof

/-- A number below a bound. -/
def wfLt (a n : Nat) : Bool := Nat.blt a n
/-- A source tag: 4 bits (R302). -/
def wfTag (t : Nat) : Bool := decide (t < 16)
/-- A link port: 24 of them. -/
def wfPort (p : Nat) : Bool := decide (p < 24)
/-- A group: 256 group blocks (R350). -/
def wfGroup (g : Nat) : Bool := decide (g < 256)
/-- A bucket number: 12 bits. -/
def wfBucket (b : Nat) : Bool := decide (b < 4096)
/-- A chunk number: 20 bits, all ones standing for none (R169). -/
def wfChunk (c : Nat) : Bool := decide (c < 2 ^ 20 - 1)
/-- A descriptor index: 32 bits (R327). -/
def wfIndex (i : Nat) : Bool := decide (i < 2 ^ 32)
/-- A partition (R308). -/
def wfPart (p : Nat) : Bool := decide (p < 8)
/-- A bay. -/
def wfBay (b : Nat) : Bool := decide (b < 40)
/-- A trigger counter (R139). -/
def wfCounter (n : Nat) : Bool := decide (n < 4096)
/-- A ring or a snapshot page: a partition's, or one more (R329, R360, R362). -/
def wfNine (n : Nat) : Bool := decide (n < 9)
/-- An express kind and tag (R158). -/
def wfXtag (kind xtag : Nat) : Bool := decide (kind < 16) && decide (xtag < 2 ^ 14)
/-- A spill area: up to 64 (R223). -/
def wfArea (a : Nat) : Bool := decide (a < 64)
/-- A cell as it crosses a link: 256 bytes (R244). -/
def wfCell (b : Bytes) : Bool := b.length == 256
/-- An image slot. -/
def wfSlot (n : Nat) : Bool := decide (n < 2)
/-- Size of a register access, in bytes; those of 4 and 8 are good (R305). -/
def wfSize (n : Nat) : Bool := decide (0 < n ∧ n ≤ 8)

def BlockFrom.wf (b : BlockFrom) : Bool := wfGroup b.group && decide (b.service ≤ 32)

/-- A 256 B unit of the stacks: 2^27 of them (R23). -/
def wfUnit (u : Nat) : Bool := decide (u < 2 ^ 27)

def StackReads.wf (r : StackReads) : Bool := r.bad.all wfUnit

def HopEnv.wf (e : HopEnv) : Bool := e.stackUE.all wfUnit

/-- A table of the express and tables region, by its number in the image (R281, R343). -/
def SramTable.wf : SramTable → Bool
  | .tide t => wfLt t 16
  | .ring g | .express g => wfGroup g
  | .bucket b => wfBucket b
  | .book c => wfLt c 64
  | .neighbour p => wfPort p
  | .trigger n => wfCounter n

def TideEnv.wf (e : TideEnv) : Bool := e.tableLost.all SramTable.wf && e.ledgerLost.all (fun x => wfGroup x.1)
  && e.contextLost.all (fun x => wfGroup x.1 && wfBucket x.2.1 && wfChunk x.2.2)

def StartReport.wf (r : StartReport) : Bool :=
  r.badCoves.all (fun x => wfBay x.1 && wfLt x.2 16) && r.badBays.all wfBay && r.badPorts.all wfPort
    && r.noSpare.all wfBay && r.retention.wf

/-- Every operand of the command is within its range. -/
def Instr.wf : Instr → Bool
  | .tideBoundary env => env.wf
  | .tideMarkReceived port _ cell | .sync port _ cell _ | .followUp port cell | .delayResp port cell
  | .announce port cell => wfPort port && wfCell cell
  | .delayReqSend port _ | .syncTimeout port | .announceReceiptTimeout port => wfPort port
  | .holdoverBoundReached | .timeLost | .ppsOut | .ppsInEdge _ _ => true
  | .ppsTodWrite tag _ => wfTag tag
  | .temperatureUpdate temps => temps.length == 6
  | .thermalShutdown => true
  | .calDataWrite tag _ | .calDataRead tag | .calCommit tag _ => wfTag tag
  | .calCommitDone _ => true
  | .calReload tag _ => wfTag tag
  | .delayMeas tag port => wfTag tag && wfPort port
  | .powerOn | .pwrGoodLoss | .moduleReset | .moduleResetRelease | .modWarm => true
  | .warmRestart tag _ | .coldRestart tag _ => wfTag tag
  | .watchdog => true
  | .powerCtrlFull tag | .powerCtrlIdle tag | .powerCtrlHold tag => wfTag tag
  | .holdEntryDone | .wakeComplete => true
  | .startUpStep report => report.wf
  | .portEnable tag port | .portDisable tag port | .retrain tag port | .prbsEnable tag port => wfTag tag && wfPort port
  | .signalLock port _ | .signalTrainTimeout port | .frameLock port | .alignComplete port | .linkLoss port _
  | .fecDegradeCheck port _ => wfPort port
  | .chunkCellReceived port slot _ _ cell => wfPort port && wfLt slot (2 ^ 16) && wfCell cell
  | .retransmission port vc => wfPort port && wfLt vc 2
  | .hailSend port => wfPort port
  | .hailReceived port cell => wfPort port && wfCell cell
  | .quarantineEffect port | .hailTimeout port | .delayExchange port _ => wfPort port
  | .delayRequestReceived port _ _ cell | .delayResponseReceived port _ cell => wfPort port && wfCell cell
  | .delayTimeout port => wfPort port
  | .prbsCellReceived port cell => wfPort port && wfCell cell
  | .queueTailWrite tag group _ | .complHeadWrite tag group _ => wfTag tag && wfGroup group
  | .queueStart tag group | .queueStop tag group | .clearErr tag group => wfTag tag && wfGroup group
  | .queueStopped group | .descriptorFetch group _ => wfGroup group
  | .trigValueWrite tag counter _ | .trigAdd tag counter _ => wfTag tag && wfCounter counter
  | .eventCtrlWrite tag ring _ | .eventHeadWrite tag ring _ => wfTag tag && wfNine ring
  | .eventRecordWrite badRings => badRings.all wfNine
  | .attach tag part | .detach tag part | .forceDetach tag part => wfTag tag && wfPart part
  | .quiesced part | .detachComplete part => wfPart part
  | .privGrantWrite tag _ => wfTag tag
  | .registerWrite tag addr size _ => wfTag tag && wfLt addr (2 ^ 32) && wfSize size
  | .exchange group index | .sparseExchange group index | .barrier group index | .scalar group index
  | .commit group index | .triggerAdd group index | .fence group index | .get group index
  | .put group index _ => wfGroup group && wfIndex index
  | .putBlockReceived src | .getRequestReceived src _ | .getDataReceived src | .putAckReceived src => src.wf
  | .flowCellReceived port cell => wfPort port && wfCell cell
  | .flowResend port flow => wfPort port && wfLt flow 32
  | .ebbFirstHop group bucket chunk env | .ebbHop group bucket chunk env | .ownerHop group bucket chunk env
  | .floodReceive group bucket chunk env | .floodReplay group bucket chunk env =>
    wfGroup group && wfBucket bucket && wfChunk chunk && env.wf
  | .verdict group index _ | .replayRoundLaunch group index _ => wfGroup group && wfIndex index
  | .coveTakeover bay | .bayRetirement bay => wfBay bay
  | .fold group index env | .spareResidualWrite group index env => wfGroup group && wfIndex index && env.wf
  | .foldComplete group index => wfGroup group && wfIndex index
  | .appliedSeqReport _ _ => true
  | .unitReset _ met => met.wf
  | .appliedVote group | .commitEffect group | .openEffect group => wfGroup group
  | .barrierMessage port _ _ | .scalarMessage port _ _ | .statMessage port _ _ | .verdictMessage port _ _
  | .commitMessage port _ _ | .readyMessage port _ _ | .openMessage port _ _ | .abortToken port _ _ => wfPort port
  | .expressEffect group kind xtag | .expressHoldTimeout group kind xtag | .broadcastLossTimeout group kind xtag =>
    wfGroup group && wfXtag kind xtag
  | .abortReport group | .abortResend group => wfGroup group
  | .slipBarrierTimeout group index | .foldTimeout group index => wfGroup group && wfIndex index
  | .openTimeout group | .commitHoldTimeout group => wfGroup group
  | .propose port cell | .census port cell | .ack port cell => wfPort port && wfCell cell
  | .decide port cell met => wfPort port && wfCell cell && met.wf
  | .coordinatorDeadline group | .rejoinWaitExpiry group | .resumeTide group => wfGroup group
  | .skipClose close => wfGroup close.group && close.met.wf
  | .recoveryCtrlArm tag group _ | .stepHoldWrite tag group _ | .groupStepWrite tag group _ => wfTag tag && wfGroup group
  | .stepDiscard tag group | .diagStart tag group => wfTag tag && wfGroup group
  | .diagDone group inputs => wfGroup group && inputs.met.wf
  | .spillStore group index | .spillLoad group index => wfGroup group && wfIndex index
  | .spillStoreTile area _ => wfArea area
  | .spillLoadTile area met => wfArea area && met.wf
  | .imageWindowWrite tag offset size _ => wfTag tag && wfLt offset 0x400000 && wfSize size
  | .verify tag => wfTag tag
  | .verifyDone => true
  | .loadNv tag slot | .store tag slot | .storeActive tag slot => wfTag tag && wfSlot slot
  | .storeDone _ => true
  | .activate tag | .cancel tag => wfTag tag
  | .activation => true
  | .keyProgram tag _ | .keyRevoke tag _ => wfTag tag
  | .fuseDone => true
  | .rollbackCtrlWrite tag _ | .codebookCmd tag _ => wfTag tag
  | .snapReq tag page _ => wfTag tag && wfNine page
  | .snapshotLatch page => wfNine page
  | .timeSnapshotRead tag page => wfTag tag && wfNine page
  | .statClear tag page _ => wfTag tag && (match page with | some p => wfNine p | none => true)
  | .ctxSelWrite tag _ => wfTag tag
  | .ctxCopy => true
  | .maintReq tag _ | .maintRelease tag => wfTag tag
  | .tokenLapse => true
  | .bistCtrlWrite tag _ => wfTag tag
  | .bistSlice _ => true
  | .standbyHandover bay => wfBay bay
  | .patrolScrub fixed units => fixed.all wfUnit && units.all wfUnit
  | .sweepComplete => true
  | .localFrameBoundary port => wfPort port
  | .registerRead tag addr size => wfTag tag && wfLt addr (2 ^ 32) && wfSize size
  | .testAccessPortInstruction _ | .imageReloadDone => true

end Sys2Proof
end

