-- ==== Sys2Proof/Safety.lean ====
section
/-! DEFINITION. What counts as a safe run, and the words that statements use: the canonical form of the byte memories,
the parts of the state and what it means that only some of them change, commands that act in Hold, and the order of the
non-volatile state (rollback floor, key slots). -/

namespace Sys2Proof.Machine

open Sys2Proof

/-! ### Runs -/

/-- A run of `n` commands from the front of the queue that meets no fault and no refusal. -/
def safeRun : Nat → State → Bool
  | 0, _ => true
  | n + 1, s =>
    match step s with
    | .next t => safeRun n t
    | _ => false

/-- Every command that waits is well-formed. -/
def State.queueWf (s : State) : Bool := s.pending.all Instr.wf

/-! ### Canonical form -/

/-- The byte memories of the engine are in canonical form: the residual stacks and spill areas, the non-volatile store,
the calibration record's working copy, its copy in force and the copy a commit writes, and the two image banks. -/
def State.memoriesWf (s : State) : Bool :=
  s.stack.wf && s.nv.bytes.wf && s.cal.work.wf && s.cal.inEffect.wf && s.cal.committing.wf
    && s.image.active.bytes.wf && s.image.shadow.bytes.wf

/-! ### Parts of the state -/

/-- The parts of the state, for saying what a command leaves alone. `clock` is the passing of time: hall time, the tide
index, the local frame count and the boundaries counted; `time` is the rest of the time unit. -/
inductive Part where
  | pending | out | ident | power | saved | nv | clock | time | cal | ports | image | books | bookRegs | parts | host
  | queues | triggers | groups | buckets | staging | stack | badUnits | units | xfers | blockCount | blockRx | flows | areas
  | rings | events | stats | snaps | ctxView | recSel | maint | tap
  deriving DecidableEq, Repr

/-- The time unit with the passing of time left out. -/
def TimeState.still (t : TimeState) : TimeState := { t with hall := 0, tide := 0, localFrames := 0, ticks := 0 }

/-- Both states agree in a part. -/
def Part.same : Part → State → State → Prop
  | .pending, s, t => t.pending = s.pending
  | .out, s, t => t.out = s.out
  | .ident, s, t => t.ident = s.ident
  | .power, s, t => t.power = s.power
  | .saved, s, t => t.saved = s.saved
  | .nv, s, t => t.nv = s.nv
  | .clock, s, t => t.time.hall = s.time.hall ∧ t.time.tide = s.time.tide ∧ t.time.localFrames = s.time.localFrames
      ∧ t.time.ticks = s.time.ticks
  | .time, s, t => t.time.still = s.time.still
  | .cal, s, t => t.cal = s.cal
  | .ports, s, t => t.ports = s.ports
  | .image, s, t => t.image = s.image
  | .books, s, t => t.books = s.books
  | .bookRegs, s, t => t.bookRegs = s.bookRegs
  | .parts, s, t => t.parts = s.parts
  | .host, s, t => t.host = s.host
  | .queues, s, t => t.queues = s.queues
  | .triggers, s, t => t.triggers = s.triggers
  | .groups, s, t => t.groups = s.groups
  | .buckets, s, t => t.buckets = s.buckets
  | .staging, s, t => t.staging = s.staging
  | .stack, s, t => t.stack = s.stack
  | .badUnits, s, t => t.badUnits = s.badUnits
  | .units, s, t => t.units = s.units
  | .xfers, s, t => t.xfers = s.xfers
  | .blockCount, s, t => t.blockCount = s.blockCount
  | .blockRx, s, t => t.blockRx = s.blockRx
  | .flows, s, t => t.flows = s.flows
  | .areas, s, t => t.areas = s.areas
  | .rings, s, t => t.rings = s.rings
  | .events, s, t => t.events = s.events
  | .stats, s, t => t.stats = s.stats
  | .snaps, s, t => t.snaps = s.snaps
  | .ctxView, s, t => t.ctxView = s.ctxView
  | .recSel, s, t => t.recSel = s.recSel
  | .maint, s, t => t.maint = s.maint
  | .tap, s, t => t.tap = s.tap

/-- From `s` to `t` nothing changes but the listed parts. -/
def OnlyChanges (ps : List Part) (s t : State) : Prop := ∀ p : Part, p ∉ ps → p.same s t

/-- Every port but one is as before. -/
def OtherPorts (p : Nat) (s t : State) : Prop := ∀ q, q ≠ p → t.port q = s.port q

/-- Every group but one is as before. -/
def OtherGroups (g : Nat) (s t : State) : Prop := ∀ h, h ≠ g → t.group h = s.group h

/-- Every queue but one is as before. -/
def OtherQueues (g : Nat) (s t : State) : Prop := ∀ h, h ≠ g → t.queue h = s.queue h

/-! ### Received cells -/

/-- The state in which the repeat request that a good cell brings has been collected (R176). -/
def State.heard (s : State) (p : Nat) (cell : Bytes) : State := s.collectRequest p (padTo 256 cell)

/-- A good cell of a type arrives on a trained port, with these fields. -/
def State.arrives (s : State) (p type : Nat) (cell : Bytes) (c : CellFields) : Prop :=
  trained (s.port p).link = true ∧ cellOk (padTo 256 cell) = true ∧ readCell (padTo 256 cell) = c ∧ c.type = type
    ∧ shapeOk c = true

/-- A PTP message of a type that the engine takes arrives on a port where it is processed. -/
def State.ptpArrives (s : State) (p type : Nat) (cell m : Bytes) : Prop :=
  ∃ c, s.arrives p tTime cell c ∧ ptpMessage c.payload = some m ∧ s.ptpOk p (readPtp m) = true ∧ ptpType m = type

/-! ### Transfer blocks -/

/-- The next block received from a source is `r`, on port `p`, and `u` is the state in which it is used up (R325, R326). -/
def State.blockNext (s : State) (src : BlockFrom) (p : Nat) (r : RxBlock) (u : State) : Prop :=
  s.transferPort src.group src.rail src.fromSuccessor = some p
    ∧ ((src.service = 0 ∧ s.vc1Block src.group p = some r ∧ u = s.dropBlock src.group p r.missing)
      ∨ (src.service ≠ 0 ∧ ∃ b rest, State.flowBlock (s.flow (flowKey p (State.replyFlow src))).rx = some (b, rest)
          ∧ r = { hdr := some (readHeader b), data := b.drop 32, cls := 0, missing := 0 }
          ∧ u = s.setFlow (flowKey p (State.replyFlow src))
              { s.flow (flowKey p (State.replyFlow src)) with rx := rest }))

/-- From `s` to `t` the cells of some blocks have joined those that wait for the VC1 slots of a rail and port, or on service f + 1 for
the window of its flow: at their end, or for GET data somewhere before it, in their order. -/
def State.blocksQueued (s t : State) (g rail p service flow : Nat) (bs : List (BlockHeader × Bytes)) : Prop :=
  (service = 0 → ∃ a b, (s.port p).vc1 = a ++ b
      ∧ (t.port p).vc1 = a ++ (bs.flatMap (fun x => blockCells g x.1 x.2)).map (fun c => (rail, c)) ++ b
      ∧ ((∀ x ∈ bs, x.1.kind ≠ kGetData) → b = []))
    ∧ (service ≠ 0 → ∃ a b, (s.flow (flowKey p flow)).unacked ++ (s.flow (flowKey p flow)).waiting = a ++ b
      ∧ (t.flow (flowKey p flow)).unacked ++ (t.flow (flowKey p flow)).waiting
          = a ++ bs.flatMap (fun x => blockPayloads 208 x.1 x.2) ++ b
      ∧ ((∀ x ∈ bs, x.1.kind ≠ kGetData) → b = []))

/-! ### Residuals -/

/-- The stacks after generation B of an operation's chunks has been written in turn, each chunk's values formed from what
the stacks then hold (R23, R198). -/
def State.genWrites (s : State) (v : OpView) (r : State → Nat → Vec) (cs : List Nat) : Mem :=
  cs.foldl (fun m c => m.writeBytes (s.genAddr v.d true (v.base c))
    (storeResiduals v.d (r { s with stack := m } c)).bytes) s.stack

/-- Address `a` lies outside generation B of a chunk, whose residuals take `n` bytes. -/
def State.outsideGenB (s : State) (v : OpView) (c n a : Nat) : Prop :=
  ¬(s.genAddr v.d true (v.base c) ≤ a ∧ a < s.genAddr v.d true (v.base c) + n)

/-! ### Buckets -/

/-- The trigger of a bucket's fall-back on reduced values of a step, a saturated value above every threshold that is not off;
and its condition for the return (R98, R108). -/
def State.triggers108 (s : State) (g : Nat) (d : ImgBucket) (clip ovf : Nat) : Prop :=
  d.clipThresh * (s.ringN g * rotLength d) < clip * 2 ^ 24 ∨ d.ovfThresh < ovf
    ∨ (s.statFlag g d.bucket 1 = true ∧ d.clipThresh < 2 ^ 24) ∨ (s.statFlag g d.bucket 2 = true ∧ d.ovfThresh < 0xFFFFFFFF)
def State.returns108 (s : State) (g : Nat) (d : ImgBucket) (clip ovf : Nat) : Prop :=
  clip * 2 ^ 24 ≤ d.retClip * (s.ringN g * rotLength d) ∧ ovf ≤ d.retOvf ∧ s.statFlag g d.bucket 1 = false
    ∧ s.statFlag g d.bucket 2 = false

/-- `b` is what a bucket's state becomes, but for its selector, where the step that exchanged it with launch `l` commits: the
reduced values, the fall-back state and hold count (R108) and E_t (R100, R101). -/
def State.latchedAfter (s : State) (g : Nat) (l : Launch) (d : ImgBucket) (b : BucketState) : Prop :=
  ∀ (old : BucketState) (q : Int) (clip ovf : Nat), old = s.bucket d.bucket →
    q = signed 16 ((s.statResult g d.bucket 0).getD 0) → clip = (s.statResult g d.bucket 1).getD 0 →
    ovf = (s.statResult g d.bucket 2).getD 0 →
    b.qMax = unsigned 16 q ∧ b.clip = clip ∧ b.ovf = ovf ∧ b.step = (s.group g).step ∧ b.gen = l.gen % 4
    ∧ (d.fbKind = .none → b.fallback = old.fallback ∧ b.hold = old.hold)
    ∧ (d.fbKind ≠ .none → s.triggers108 g d clip ovf → b.fallback = true ∧ b.hold = 1)
    ∧ (d.fbKind ≠ .none → ¬s.triggers108 g d clip ovf → old.fallback = false →
        b.fallback = false ∧ b.hold = old.hold)
    ∧ (d.fbKind ≠ .none → ¬s.triggers108 g d clip ovf → old.fallback = true →
        (s.returns108 g d clip ovf ∧ d.fbHold ≤ old.hold → b.fallback = false ∧ b.hold = 0)
        ∧ (¬(s.returns108 g d clip ovf ∧ d.fbHold ≤ old.hold) → b.fallback = true ∧ b.hold = min (old.hold + 1) 65535))
    ∧ (q = -32768 → b.et = old.et)
    ∧ (q ≠ -32768 → b.et = clampInt (-128) 127
        (q - 6 + (d.etMargin + (if b.fallback = true ∧ d.fbKind = .margin then (d.fbParam : Int) else 0))))

/-! ### Cells sent -/

/-- From `s` to `t` a chunk's cells have gone into its slots of a lap in the frame in progress, with copies kept for repeat,
where its rail may carry them; the port's other slots are as they were (R133, R135, R176). -/
def State.cellsSent (s t : State) (v : OpView) (c lap : Nat) (cells : List Bytes) : Prop :=
  ∀ (p : Nat) (placed : List (Nat × Bytes)), (s.ringOf v.g).bind (fun r => s.txPort r (v.railOf c)) = some p →
    placed = (if s.railServes v.g (v.railOf c) = true then
        cells.zipIdx.map (fun x => ((s.sequence v.g (v.railOf c) p 0 lap).getD (v.d.slotPos + x.2) 0, x.1)) else []) →
    (t.port p).tx = placed.foldl (fun m x => m.set x.1 x.2) (s.port p).tx
      ∧ (t.port p).kept = (s.port p).kept ++ placed.map (fun x => ⟨s.now, x.1, 0, x.2⟩)

/-! ### Hold -/

/-- What Hold keeps of a state (R409), with the step records and ledgers of the region that it retains (R408). -/
def State.keptBy (s : State) (k : Saved) : Prop :=
  k.buckets = s.buckets ∧ k.groups = s.groups ∧ k.triggers = s.triggers ∧ k.parts.state = s.parts.state
    ∧ k.parts.privGrant = s.parts.privGrant ∧ k.hash = s.image.active.hash
    ∧ (∀ a, (k.areas.get {} a).cursor = (s.area a).cursor ∧ (k.areas.get {} a).pass = (s.area a).pass)
    ∧ (∀ g, (k.queues.get {} g).base = (s.queue g).base ∧ (k.queues.get {} g).complBase = (s.queue g).complBase
        ∧ (k.queues.get {} g).state = (s.queue g).state ∧ (k.queues.get {} g).tail = (s.queue g).tail
        ∧ (k.queues.get {} g).fetch = (s.queue g).fetch ∧ (k.queues.get {} g).complTail = (s.queue g).complTail
        ∧ (k.queues.get {} g).complHead = (s.queue g).complHead ∧ (k.queues.get {} g).due = (s.queue g).due
        ∧ ((s.group g).state ≠ .closed → (k.queues.get {} g).seq = (s.queue g).seq
            ∧ (k.queues.get {} g).ops = (s.queue g).ops.filter (fun o => Desc.isStep o.raw)))
    ∧ (∀ r, (k.rings.get {} r).base = (s.ring r).base ∧ (k.rings.get {} r).enable = (s.ring r).enable
        ∧ (k.rings.get {} r).size = (s.ring r).size ∧ (k.rings.get {} r).head = (s.ring r).head
        ∧ (k.rings.get {} r).tail = (s.ring r).tail)

/-- Entry into Hold from `s` leaves `t` with what it keeps; a start-up that has given nothing back yet keeps what was kept
before it. -/
def State.holdKeeps (s t : State) : Prop :=
  (s.saved = none ∨ s.power.startStep = 0 ∨ s.power.ready = true → ∃ k, t.saved = some k ∧ s.keptBy k)
    ∧ (∀ k, s.saved = some k → s.power.startStep ≠ 0 → s.power.ready = false → t.saved = some k)

/-- A warm start-up has given back what Hold kept (R410): records that were due may have been written since, and then have
added to their trigger counters. -/
def State.gaveBack (t : State) (k : Saved) : Prop :=
  t.parts = k.parts ∧ t.areas = k.areas
    ∧ (∀ g, (t.queue g).base = (k.queues.get {} g).base ∧ (t.queue g).complBase = (k.queues.get {} g).complBase
        ∧ (t.queue g).state = (k.queues.get {} g).state ∧ (t.queue g).tail = (k.queues.get {} g).tail
        ∧ (t.queue g).fetch = (k.queues.get {} g).fetch ∧ (t.queue g).complHead = (k.queues.get {} g).complHead)
    ∧ (∀ r, (t.ring r).base = (k.rings.get {} r).base ∧ (t.ring r).enable = (k.rings.get {} r).enable
        ∧ (t.ring r).size = (k.rings.get {} r).size ∧ (t.ring r).head = (k.rings.get {} r).head
        ∧ (t.ring r).tail = (k.rings.get {} r).tail)
    ∧ ((∀ x ∈ k.queues, x.2.due = []) → t.triggers = k.triggers)
    ∧ ((k.groups.map (·.1)).Nodup → ∀ x ∈ k.groups, ∀ r, x.2.record = some r → (t.im.groupDesc x.1).isSome = true →
        (t.group x.1).step = r.step)

/-- A warm start-up has given nothing back (R410): what the start-up set up stands, the stacks are empty, and each group with
a step record has had it discarded. -/
def State.gaveNothing (s t : State) (k : Saved) : Prop :=
  t.parts = s.parts ∧ t.areas = s.areas ∧ t.buckets = s.buckets ∧ t.rings = s.rings ∧ t.stack = [] ∧ t.badUnits = []
    ∧ (∀ g, (t.queue g).state = (s.queue g).state ∧ (t.queue g).tail = (s.queue g).tail
        ∧ (t.queue g).fetch = (s.queue g).fetch ∧ (t.queue g).complHead = (s.queue g).complHead)
    ∧ (∀ x ∈ k.groups, x.2.record.isSome = true → ∃ e ∈ t.events, e.type = 0x0011 ∧ e.group = some x.1)

/-! ### Time -/

/-- One tide passes from `s` to `t` (R41): hall time moves to the next T(t), or before the epoch a tide's length on and no
further than the epoch; the tide index follows it and never falls; before the epoch the local frame count advances. -/
def State.tidePasses (s t : State) : Prop :=
  t.time.ticks = s.time.ticks + 1
    ∧ (∀ im, s.img = some im → State.epochOf im ≤ s.time.hall →
        t.time.hall = State.epochOf im + ((s.time.hall - State.epochOf im) / State.tideUnits + 1) * State.tideUnits
          ∧ t.time.tide = max s.time.tide ((s.time.hall - State.epochOf im) / State.tideUnits + 1)
          ∧ t.time.localFrames = s.time.localFrames)
    ∧ (∀ im, s.img = some im → s.time.hall < State.epochOf im →
        t.time.hall = min (s.time.hall + State.tideUnits) (State.epochOf im) ∧ t.time.tide = s.time.tide
          ∧ t.time.localFrames = s.time.localFrames
              + (if s.time.hall + State.tideUnits < State.epochOf im then 1 else 0))
    ∧ (s.img = none → t.time.hall = s.time.hall + State.tideUnits ∧ t.time.tide = s.time.tide
        ∧ t.time.localFrames = s.time.localFrames + 1)

/-- What the engine puts out where a PPS pulse in progress ends before its width is over (R34). -/
def State.ppsEnd (s : State) : List Output :=
  match s.time.ppsUntil with
  | some u => if s.time.hall < u then [.ppsLow] else []
  | none => []

/-! ### Which commands act when -/

/-- Commands with an effect in Hold: time runs on, the sensors are read, and the power block, the ball inputs and the test
access port answer (R408). -/
def actsInHold : Instr → Bool
  | .tideBoundary _ | .holdoverBoundReached | .timeLost | .temperatureUpdate _ | .powerOn | .pwrGoodLoss | .moduleReset
  | .moduleResetRelease | .modWarm | .warmRestart _ _ | .coldRestart _ _ | .powerCtrlFull _ | .powerCtrlIdle _
  | .powerCtrlHold _ | .holdEntryDone | .registerWrite _ _ _ _ | .registerRead _ _ _ | .testAccessPortInstruction _ => true
  | _ => false

/-! ### Views -/

/-- A tag's view reaches a group's doorbell page and queue block (R304, R311, R332). -/
def State.mayQueue (s : State) (tag g : Nat) : Bool :=
  match s.groupOwner g with
  | some p => if p < 8 then s.reaches tag p && s.pstate p != .detached else s.tagPriv tag
  | none => false

/-- A tag's view reaches an event ring (R329, R362). -/
def State.mayRing (s : State) (tag r : Nat) : Bool :=
  if r < 8 then s.reaches tag r && s.pstate r != .detached else r == State.hallRing && s.tagPriv tag

/-- A tag's view reaches a snapshot page: page 0 the engine's, page p + 1 that of partition p (R360). -/
def State.maySnap (s : State) (tag k : Nat) : Bool :=
  if k = 0 then s.tagPriv tag
  else decide (k ≤ 8) && s.reaches tag (k - 1) && s.pstate (k - 1) != .detached

/-- The tag of a command that writes or reads a register of the privileged window. -/
def privilegedTag : Instr → Option Nat
  | .ppsTodWrite t _ | .calDataWrite t _ | .calDataRead t | .calCommit t _ | .calReload t _ | .delayMeas t _
  | .portEnable t _ | .portDisable t _ | .retrain t _ | .prbsEnable t _ | .attach t _ | .detach t _
  | .forceDetach t _ | .privGrantWrite t _ | .verify t | .loadNv t _ | .store t _ | .storeActive t _ | .activate t
  | .cancel t | .imageWindowWrite t _ _ _ | .keyProgram t _ | .keyRevoke t _ | .rollbackCtrlWrite t _ | .codebookCmd t _
  | .statClear t none _ | .ctxSelWrite t _ | .maintReq t _ | .maintRelease t | .bistCtrlWrite t _ | .warmRestart t _
  | .coldRestart t _ | .powerCtrlFull t | .powerCtrlIdle t | .powerCtrlHold t | .stepDiscard t _ | .stepHoldWrite t _ _
  | .groupStepWrite t _ _ | .diagStart t _ | .recoveryCtrlArm t _ _ => some t
  | _ => none

/-! ### Counters -/

/-- A statistics counter after an increment of `k` (R357, R381). -/
def Counter.plus (x : Counter) (k : Nat) : Counter :=
  if x.ovf then x
  else if x.count + k ≤ 0xFFFFFFFFFFFF then { x with count := x.count + k } else { count := 0xFFFFFFFFFFFF, ovf := true }

/-- An increment of `k` saturates a counter that had not saturated. -/
def Counter.fills (x : Counter) (k : Nat) : Prop := x.ovf = false ∧ 0xFFFFFFFFFFFF < x.count + k

/-- The events that wait once a STAT_OVERFLOW of a counter's address has been raised: one more, or one repeat more of a like
one of this tide (R381, R387). -/
def State.overflowed (s : State) (addr : Nat) (rings : List Nat) : List Event :=
  let e : Event := { type := 0x0001, severity := 1, subject := addr, rings := rings, tide := s.eventTide }
  if s.events.any (State.sameEvent e) then
    s.events.map (fun x => if State.sameEvent e x then { x with repeats := Nat.min (x.repeats + 1) 0xFFFFFFFF } else x)
  else s.events ++ [e]

/-! ### Express messages -/

/-- Message `m` is one that arrives on its group's port in scheduled service, well formed, and is not the second copy of one
already taken (R158, R159). -/
def State.taken (s : State) (p : Nat) (w : Word64) (second : Bool) (m : Msg) : Prop :=
  m = readMsg w ∧ msgOk m = true ∧ s.inService p = true ∧ s.expressRx m.group = some p
    ∧ (second = true → (s.port p).exprFirst.any (fun x => State.sameMsg (readMsg x.1) m) = false)

/-- The command that brings an express message of a kind. -/
def messageOf (k p : Nat) (w : Word64) (second : Bool) (c : Instr) : Prop :=
  (c = .barrierMessage p w second ∧ k = kBarrier) ∨ (c = .scalarMessage p w second ∧ k = kScalar)
    ∨ (c = .statMessage p w second ∧ k = kStat) ∨ (c = .verdictMessage p w second ∧ k = kVerdict)
    ∨ (c = .commitMessage p w second ∧ k = kCommit) ∨ (c = .readyMessage p w second ∧ k = kReady)
    ∨ (c = .openMessage p w second ∧ k = kOpen) ∨ (c = .abortToken p w second ∧ k = kAbort)

/-- Nothing but the message itself moves a standard instance of the member: a reduce message agrees with the member's own
descriptor (R162), and an OPEN finds the member in the barrier with its operand given. -/
def State.msgSettled (s : State) (m : Msg) : Prop :=
  ((m.kind = kBarrier ∨ m.kind = kScalar) → m.lap = false →
      ∀ op, s.expressOpAt m.group m.tag = some op → State.expressKind op.raw = m.kind ∧ State.expressOp op.raw = m.op)
    ∧ (m.kind = kOpen → (s.group m.group).openAt.isSome = true
        ∧ (s.group m.group).express.any (fun e => e.kind == kOpen && e.own.isSome) = true)

/-! ### Aborts -/

/-- What a member holds of an abort that it has itself begun now (R169). -/
def freshAbort (code chunk bucket now : Nat) : AbortState :=
  { kept := (code, State.abortValue chunk bucket), own := [(code, State.abortValue chunk bucket)], sentAt := now,
    changedAt := now, firstAt := now, returned := false, reported := false }

/-- From `s` to `t` the groups of a list that have something to end and no abort yet have begun one that concerns no chunk,
with a code (R157, R169). -/
def State.groupsAbort (s t : State) (gs : List Nat) (code : Nat) : Prop :=
  ∀ g ∈ gs, s.abortable g = true → (s.group g).abort = none →
    (t.group g).abort = some (freshAbort code 0xFFFFF 0xFFF s.now)

/-- A wait that the group timeout bounds has run out (R156, R164, R172, R203, R298): the command that reports it, and the
condition under which it does. -/
def State.overdueWait (s : State) (c : Instr) (g : Nat) : Prop :=
  s.abortable g = true ∧ (s.group g).abort = none ∧
    ((∃ i op d, c = .slipBarrierTimeout g i ∧ (s.stepOps g).find? (fun o => o.index == i) = some op
        ∧ s.im.bucketDesc (Desc.bucket op.raw) = some d ∧ s.readyOpen g op = true
        ∧ s.overdue g (s.plannedStart g d - 2) = true)
      ∨ (∃ i v, c = .foldTimeout g i ∧ s.opAt g i = some v ∧ s.stepRuns g = true
        ∧ (v.l.fold = .due ∨ v.l.fold = .running)
        ∧ s.overdue g (v.verdictTide (v.rounds + v.l.replays.length - 1)) = true)
      ∨ (∃ n, c = .openTimeout g ∧ (s.group g).openAt = some n ∧ s.overdue g n = true
        ∧ (s.group g).express.any (fun e => e.kind == kOpen && e.result.isSome) = false
        ∧ s.neighboursWith g 2 = false)
      ∨ (∃ k x e n, c = .expressHoldTimeout g k x ∧ s.findExpress g k x = some e ∧ (k = kBarrier ∨ k = kScalar)
        ∧ s.stepRuns g = true ∧ e.result = none ∧ e.forwarded = some n ∧ s.ringPos g = some 0 ∧ s.overdue g n = true)
      ∨ (∃ n, c = .commitHoldTimeout g ∧ (s.group g).releasedAt = some n ∧ (s.group g).state = .released
        ∧ (s.ringPos g = some 0 ∨ ∃ e, s.commitInstance g = some e ∧ e.held.isSome = true) ∧ s.overdue g n = true)
      ∨ (∃ n, c = .commitHoldTimeout g ∧ (s.group g).releasedAt = some n ∧ (s.group g).state = .applied
        ∧ s.lapLost g = true)
      ∨ (∃ k x e n, c = .broadcastLossTimeout g k x ∧ s.findExpress g k x = some e ∧ e.forwarded = some n
        ∧ k ≠ kStat ∧ e.result = none ∧ s.ringPos g ≠ some 0 ∧ s.overdue g (n + s.hG g) = true))

/-- What the engine has put out is a release to an update unit. -/
def isReleaseOut : Output → Bool
  | .release _ _ => true
  | _ => false

end Sys2Proof.Machine
end

