-- ==== Sys2Proof/Certificates/Slice0/Obligations.lean ====
section
/-! DEFINITION. Statements about the engine, for the provers. They are grouped by family; each says where the commands it
names complete with their own effect, what that effect is, and what stays as it was. -/

open Sys2Proof Sys2Proof.Machine

/-! ### The queue, reset, and when the engine acts -/

/-- A step takes the command at the front of the queue and is its effect on the state with the queue's rest; with no
command waiting the engine idles (the idling is the model's choice, log entry 1). -/
def Obligations.StepRunsFrontCommand : Prop :=
  (∀ (c : Instr) (s : State), step { s with pending := c :: s.pending } = exec c s)
    ∧ (∀ (c : Instr) (rest : List Instr) (s : State), s.pending = c :: rest →
        step s = exec c { s with pending := rest })
    ∧ (∀ s : State, s.pending = [] → step s = .next s)

/-- Every command answers a next state: nothing an engine is sent stops it (that one out of its time does not either is the
model's choice, log entry 9).

No command touches the queue of commands that wait; the queue is the model's own (log entry 1). -/
def Obligations.CommandsAnswerAndLeaveTheQueue : Prop :=
  (∀ (c : Instr) (s : State), ∃ t, exec c s = .next t)
    ∧ (∀ (c : Instr) (s t : State), exec c s = .next t → t.pending = s.pending)

/-- What the power-on reset leaves, as the register tables give it: RESET_CAUSE with PWR_UP alone, START_STATE 0, power
state Full, the loop in FREERUN with no reference, ports enabled and OFF, partitions DETACHED with no PRIV_GRANT,
queues STOPPED, groups CLOSED at step 0, no image, PPS_WIDTH 10,000, PPS output enabled, self-test rotation on, empty
statistics, and no neighbour. Two clauses are the model's: that the cause of this reset is PWR_UP alone (log entry 3), and
the canonical form of the byte memories (log entry 7). -/
def Obligations.ResetLeavesSpecValues : Prop :=
  State.reset.power.resetCause = 1 ∧ State.reset.power.startStep = 0 ∧ State.reset.power.ready = false
    ∧ State.reset.power.mode = .full ∧ State.reset.time.loop = .freerun ∧ State.reset.time.refSource = .none
    ∧ State.reset.time.frame = false ∧ State.reset.time.ppsWidth = 10000 ∧ State.reset.time.ppsOutEnable = true
    ∧ (∀ p, (State.reset.port p).enable = true ∧ (State.reset.port p).link = .off ∧ (State.reset.port p).nb.state = .none
        ∧ (State.reset.port p).nb.chip = 0xFFFFF)
    ∧ (∀ p, State.reset.pstate p = .detached) ∧ State.reset.parts.privGrant = 0
    ∧ (∀ g, (State.reset.queue g).state = .stopped ∧ (State.reset.queue g).lastAbort = 0xFFFFFFFF)
    ∧ (∀ g, (State.reset.group g).state = .closed ∧ (State.reset.group g).step = 0)
    ∧ State.reset.img = none ∧ State.reset.image.shadowState = .empty ∧ State.reset.maint.rotate = true
    ∧ (∀ c, State.reset.count c = 0) ∧ State.reset.memoriesWf = true

/-- An engine that is off or held in module reset answers nothing: only the inputs that end that condition, and the test
access port, have an effect (which commands act then, and which in Hold, is the model's choice, log entry 10).

In Hold only the clock, the sensors, the power block and the ball inputs act; every other command leaves the engine
as it was. -/
def Obligations.OffHeldAndHoldEnginesAreInert : Prop :=
  (∀ (c : Instr) (s : State), s.alive = false → c ≠ .powerOn → c ≠ .pwrGoodLoss → c ≠ .moduleReset →
      c ≠ .moduleResetRelease → (∀ e, c ≠ .testAccessPortInstruction e) → exec c s = .next s)
    ∧ (∀ (c : Instr) (s : State), s.power.mode = .hold → actsInHold c = false → exec c s = .next s)

/-! ### Hall time and the tide -/

/-- A tide boundary: hall time moves to the next T(t), the tide index follows it and never falls, and the tide after the
boundary's actions are done is what TIME_SNAPSHOT names (how the actions of a boundary wait for each other is the
model's choice, log entry 103); in Hold time passes and nothing else happens.

The frames of the tide that ends go out, one for each port that sends the tide frame, in the order of the ports: its slot 0
carries the mark, slots 1 to 7 idle cells, a VC0 slot the cell placed in it or an idle one, each with the express message and
the repeat request that it takes. The mark of the tide that begins is fixed once the boundary's actions are done: the tide
index, the loop's state and the table that the port's groups run under (the latter of several tables the model's choice,
log entry 107; that a frame goes out when it ends, log entry 90). -/
def Obligations.TideBoundaryPassesTime : Prop :=
  (∀ (env : TideEnv) (s : State), s.running = true → ∃ t, exec (.tideBoundary env) s = .next t ∧ s.tidePasses t
      ∧ (∀ im, s.img = some im → State.epochOf im ≤ t.time.hall → t.time.boundaryOpen = false →
          t.time.snap.tide = t.time.tide)
      ∧ OnlyChanges [.out, .power, .clock, .time, .cal, .ports, .image, .books, .parts, .queues, .triggers, .groups,
          .buckets, .staging, .stack, .badUnits, .units, .blockCount, .blockRx, .flows, .areas, .rings, .events, .stats,
          .snaps, .maint] s t
      ∧ (∃ b, t.out = s.endTide.sendFrames.out ++ b)
      ∧ (t.time.boundaryOpen = false → ∀ p, p < 24 → (t.port p).tideFrame = true → (t.port p).mark = some (markPayload
          (t.time.tide % 2 ^ 32)
          (1 + (if t.time.loop = .locked then 2 else 0) + (if t.time.loop = .holdover then 4 else 0)) (t.markTable p))))
    ∧ (∀ u : State, ∃ f : Nat → Output,
        u.sendFrames.out = u.out ++ ((List.range 24).filter (fun p => (u.port p).tideFrame)).map f
        ∧ ∀ p, p < 24 → (u.port p).tideFrame = true → ∃ cells line,
          f p = .frame p true (u.time.tide % 2 ^ 32) cells line ∧ cells.length = 1024
          ∧ (∀ m, (u.port p).mark = some m → ∃ x r, cells.getD 0 [] = fillCell (plainCell tMark 3 0 m) x r)
          ∧ (∀ k, 1 ≤ k → k < 8 → ∃ x r, cells.getD k [] = fillCell (idleCell 3) x r)
          ∧ (∀ k, 8 ≤ k → k < 1024 → (u.runAt p 0 k).map (·.vc) = some 0 →
              ∃ x r, cells.getD k [] = fillCell ((u.port p).tx.get (idleCell 0) k) x r))
    ∧ (∀ (env : TideEnv) (s : State), s.alive = true → s.power.mode = .hold → ∃ t, exec (.tideBoundary env) s = .next t
      ∧ s.tidePasses t ∧ OnlyChanges [.out, .clock, .time] s t)

/-- Messages of PTP in TIME cells on a designated time port; their layout is IEEE 1588's (log entry 77). A Sync with its
origin gives the offset as receive time at the reference plane less origin, correction and the delay of the receive
direction; a two-step Sync leaves the last complete one in force until the Follow_Up of its sequence number completes it; in
FREERUN a Sync that is a reference starts acquisition. A Delay_Resp to the engine's own request sent last gives, with the
last complete Sync, the mean path delay; an Announce carries the class, and one past the limit loses the reference; a
Delay_Req is queued with its sequence number, once in a Sync interval. A message of another domain, or where none is
processed, is counted and has no other effect. -/
def Obligations.PtpMessagesSetOffsetAndDelay : Prop :=
  (∀ (p : Nat) (x : Stamp) (cell m : Bytes) (l : LoopMeas) (s : State), s.running = true →
      s.ptpArrives p ptpSync cell m → ∃ t, exec (.sync p x cell l) s = .next t
        ∧ (t.timePort p).syncs = (s.timePort p).syncs + 1 ∧ (t.timePort p).lastSync = s.time.ticks
        ∧ (t.timePort p).lost = ((s.timePort p).silent || decide (s.timeCfg.classMax < (s.timePort p).clockClass))
        ∧ (ptpTwoStep m = false → (t.timePort p).rx = s.rxPlane p x ∧ (t.timePort p).origin = ptpStamp m 34
            ∧ (t.timePort p).corr = (readPtp m).correction ∧ (t.timePort p).paired = true ∧ (t.timePort p).offset
            = s.rxPlane p x - ptpStamp m 34 - (readPtp m).correction - ((s.timePort p).pathDelay + s.asymOf p))
        ∧ (ptpTwoStep m = true → (t.timePort p).twoStepSeq = some (readPtp m).seq
            ∧ (t.timePort p).rxNext = s.rxPlane p x ∧ (t.timePort p).corrNext = (readPtp m).correction
            ∧ (t.timePort p).rx = (s.timePort p).rx ∧ (t.timePort p).origin = (s.timePort p).origin
            ∧ (t.timePort p).corr = (s.timePort p).corr ∧ (t.timePort p).offset = (s.timePort p).offset)
        ∧ (s.time.loop = .freerun → (t.timePort p).lost = false →
            t.time.loop = .freqAcquire ∧ t.time.refSource = s.sourceOf p ∧ t.time.refPort = p)
        ∧ (∀ q, q ≠ p → t.timePort q = s.timePort q) ∧ t.ports = (s.heard p cell).ports
        ∧ OnlyChanges [.out, .clock, .time, .ports, .events, .stats] s t)
    ∧ (∀ (p : Nat) (cell m : Bytes) (s : State), s.running = true → s.ptpArrives p ptpFollowUp cell m →
        (s.timePort p).twoStepSeq = some (readPtp m).seq → ∃ t, exec (.followUp p cell) s = .next t
          ∧ (t.timePort p).offset = (s.timePort p).rxNext - ptpStamp m 34
              - ((s.timePort p).corrNext + (readPtp m).correction) - ((s.timePort p).pathDelay + s.asymOf p)
          ∧ (t.timePort p).rx = (s.timePort p).rxNext ∧ (t.timePort p).origin = ptpStamp m 34
          ∧ (t.timePort p).corr = (s.timePort p).corrNext + (readPtp m).correction ∧ (t.timePort p).paired = true
          ∧ (t.timePort p).twoStepSeq = none ∧ (∀ q, q ≠ p → t.timePort q = s.timePort q)
          ∧ t.time = { s.time with ports := t.time.ports } ∧ t.ports = (s.heard p cell).ports
          ∧ OnlyChanges [.time, .ports, .events, .stats] s t)
    ∧ (∀ (p : Nat) (cell m : Bytes) (tx : Units) (s : State), s.running = true → s.ptpArrives p ptpDelayResp cell m →
        (s.timePort p).reqTx = some tx → (readPtp m).seq = ((s.timePort p).reqSeq + 65535) % 65536 →
        ptpRequester m = s.ptpIdentity p → (s.timePort p).paired = true →
        ∃ t, exec (.delayResp p cell) s = .next t
          ∧ (t.timePort p).pathDelay = roundAwayDiv
              (((s.timePort p).rx - (s.timePort p).origin - (s.timePort p).corr)
                + (ptpStamp m 34 - tx - (readPtp m).correction)) 2
          ∧ (t.timePort p).reqTx = none ∧ (∀ q, q ≠ p → t.timePort q = s.timePort q)
          ∧ OnlyChanges [.out, .time, .ports, .groups, .events, .stats] s t)
    ∧ (∀ (p : Nat) (cell m : Bytes) (s : State), s.running = true → s.ptpArrives p ptpAnnounce cell m →
        ∃ t, exec (.announce p cell) s = .next t ∧ (t.timePort p).clockClass = ptpClass m
          ∧ (t.timePort p).silent = false ∧ (t.timePort p).lastAnnounce = s.time.ticks
          ∧ (ptpClass m ≤ s.timeCfg.classMax → t.time = { s.time with ports := t.time.ports }
              ∧ (t.timePort p).lost = (s.timePort p).lost)
          ∧ (s.timeCfg.classMax < ptpClass m → (t.timePort p).lost = true)
          ∧ (∀ q, q ≠ p → t.timePort q = s.timePort q) ∧ OnlyChanges [.out, .time, .ports, .events, .stats] s t)
    ∧ (∀ (p : Nat) (x : Stamp) (s : State), s.running = true → s.sourceOf p ≠ .none →
        (s.port p).nb.state = .accepted →
        ((s.port p).link = .discover ∨ (s.port p).link = .align ∨ (s.port p).link = .service) →
        ((s.timePort p).lastReq = none
          ∨ ∃ k, (s.timePort p).lastReq = some k ∧ passed s.time.ticks k 1 s.timeCfg.syncLog = true) →
        ∃ t, exec (.delayReqSend p x) s = .next t
          ∧ t.timePort p = { s.timePort p with reqTx := some (s.txPlane p x)
                                               reqSeq := ((s.timePort p).reqSeq + 1) % 65536
                                               lastReq := some s.time.ticks }
          ∧ t.port p = { s.port p with vc3 := (s.port p).vc3 ++
              [⟨0, 5, 0, timePayload (delayReqMessage s.timeCfg.sdo s.timeCfg.domain (s.timePort p).reqSeq
                  (beBytes 8 s.ident.serial ++ beBytes 2 (p + 1)) 0x7F)⟩] }
          ∧ OtherPorts p s t ∧ (∀ q, q ≠ p → t.timePort q = s.timePort q)
          ∧ t.time = { s.time with ports := t.time.ports } ∧ OnlyChanges [.time, .ports] s t)
    ∧ (∀ (p : Nat) (cell m : Bytes) (c : CellFields) (l : LoopMeas) (x : Stamp) (i : Instr) (s : State),
        i = .sync p x cell l ∨ i = .followUp p cell ∨ i = .delayResp p cell ∨ i = .announce p cell → s.running = true →
        s.arrives p tTime cell c → ptpMessage c.payload = some m →
        s.ptpOk p (readPtp m) = false ∨ State.ptpTaken (ptpType m) = false →
        exec i s = .next ((s.heard p cell).bumpPort p .ptpDiscard 1))

/-- The loss of a time reference and holdover: eight Sync intervals without a Sync, or three Announce intervals without an
Announce, lose the port's reference; a LOCKED loop that has no other to take enters HOLDOVER with its bound at 1.5 ns, and
one in acquisition FREERUN; a bound that comes to 3.25 ns by the end of the tide has TIME_LOST follow at a later boundary,
which ends the tide frame, sends every port in ALIGN or SERVICE to DISCOVER (that they stay trained there is the model's
reading, log entry 17) and ends the step of every group with 0x0C. Before its time neither a timeout nor the bound has an
effect. -/
def Obligations.ReferenceLossLeadsToHoldoverAndTimeLost : Prop :=
  (∀ (p : Nat) (c : Instr) (s : State),
      (c = .syncTimeout p ∧ passed s.time.ticks (s.timePort p).lastSync 8 s.timeCfg.syncLog = true)
        ∨ (c = .announceReceiptTimeout p
            ∧ passed s.time.ticks (s.timePort p).lastAnnounce 3 s.timeCfg.announceLog = true) → s.running = true →
      s.sourceOf p ≠ .none → ∃ t, exec c s = .next t ∧ (t.timePort p).lost = true ∧ (t.timePort p).syncs = 0
        ∧ (t.timePort p).silent = ((s.timePort p).silent || decide (c = .announceReceiptTimeout p))
        ∧ (∀ q, q ≠ p → t.timePort q = s.timePort q)
        ∧ (s.time.refSource = s.sourceOf p → s.time.loop = .locked →
            s.switchable (State.otherSource (s.sourceOf p)) = false →
            t.time.loop = .holdover ∧ t.time.bound = 98304 ∧ t.time.refSource = .none)
        ∧ (s.time.refSource = s.sourceOf p → s.time.loop = .freqAcquire ∨ s.time.loop = .phaseAcquire →
            t.time.loop = .freerun)
        ∧ OnlyChanges [.out, .time, .events, .stats] s t)
    ∧ (∀ (p : Nat) (s : State), s.running = true →
        passed s.time.ticks (s.timePort p).lastSync 8 s.timeCfg.syncLog = false → exec (.syncTimeout p) s = .next s)
    ∧ (∀ (p : Nat) (s : State), s.running = true →
        passed s.time.ticks (s.timePort p).lastAnnounce 3 s.timeCfg.announceLog = false →
        exec (.announceReceiptTimeout p) s = .next s)
    ∧ (∀ s : State, s.alive = true → s.time.loop = .holdover → s.time.refSource = .none →
        212992 ≤ s.boundAt (s.time.ticks + 1) → exec .holdoverBoundReached s
          = .next { s with time := { s.time with lostAsked := some (s.time.lostAsked.getD s.time.ticks) } })
    ∧ (∀ s : State, s.boundAt (s.time.ticks + 1) < 212992 → exec .holdoverBoundReached s = .next s)
    ∧ (∀ (n : Nat) (s : State), s.alive = true → s.time.lostAsked = some n → n < s.time.ticks →
        s.time.loop = .holdover → ∃ t, exec .timeLost s = .next t ∧ t.time.loop = .timeLost ∧ t.time.frame = false
          ∧ t.power.faults.timeLost = true ∧ t.time.lostAsked = none ∧ t.time.refSource = .none
          ∧ (∀ p, p < 24 → (s.port p).link = .service ∨ (s.port p).link = .align → (t.port p).link = .discover)
          ∧ (∀ p, (s.port p).link ≠ .service → (s.port p).link ≠ .align → (t.port p).link = (s.port p).link)
          ∧ s.groupsAbort t s.ownGroups 0x0C ∧ (∀ g, g ∉ s.ownGroups → t.group g = s.group g)
          ∧ OnlyChanges [.out, .power, .time, .ports, .groups, .events, .stats] s t)

/-- Tide marks tell the frame that the partner sends and, while the tide frame is valid, give the port its misalignment. On a
port in ALIGN a mark within 10 ns that carries the engine's own tide counts, and any other starts the count again; on a port
in SERVICE one further off sets the alignment fault and ends the steps of the groups that use the port with 0x0D, and it or a
mark that does not carry the own tide quarantines the port with reason 8 at the next boundary (that the mark's tide is the
one nearest to it is the model's choice, log entry 95).

The PPS ports: while the tide frame is valid and OUT_ENABLE is 1, a pulse of PPS_WIDTH leaves for the whole second of hall
time that falls into the tide in progress, once, early by PPS_OUT_LAT; an edge at the input is measured against the
nearest hall second; a write of PPS_TOD arms it. A pulse in progress goes low where the tide frame ends. -/
def Obligations.TideMarksAndPpsAreTimed : Prop :=
  ((∀ (p : Nat) (a : Stamp) (cell : Bytes) (c : CellFields) (own : Bool) (s : State), s.running = true →
        s.arrives p tMark cell c → s.time.frame = true →
        own = (bitAt (rd c.payload 4 1) 0 && rd c.payload 0 4 == s.time.tide % 2 ^ 32) →
        ((s.port p).link = .align → ∃ t, exec (.tideMarkReceived p a cell) s = .next t
            ∧ t.port p = { (s.heard p cell).port p with
                rxTide := bitAt (rd c.payload 4 1) 0
                align := s.markAlign p a
                marks := if (s.markAlign p a).natAbs ≤ 655360 ∧ own = true then (s.port p).marks + 1 else 0 }
            ∧ OtherPorts p s t ∧ OnlyChanges [.ports, .events, .stats] s t)
        ∧ ((s.port p).link = .service → (s.markAlign p a).natAbs ≤ 655360 → own = true → ∃ t,
            exec (.tideMarkReceived p a cell) s = .next t
            ∧ t.port p = { (s.heard p cell).port p with
                rxTide := bitAt (rd c.payload 4 1) 0, align := s.markAlign p a }
            ∧ OtherPorts p s t ∧ OnlyChanges [.ports, .events, .stats] s t)
        ∧ ((s.port p).link = .service → 655360 < (s.markAlign p a).natAbs ∨ own = false → ∃ t,
            exec (.tideMarkReceived p a cell) s = .next t
            ∧ t.time.alignFault = (s.time.alignFault || decide (655360 < (s.markAlign p a).natAbs))
            ∧ (t.port p).align = s.markAlign p a ∧ (t.port p).link = .service
            ∧ (t.port p).qPending = some (match (s.port p).qPending with | some q => min q 8 | none => 8)
            ∧ (655360 < (s.markAlign p a).natAbs → s.groupsAbort t (s.groupsOnPort p) 0x0D)
            ∧ OnlyChanges [.out, .time, .ports, .groups, .events, .stats] s t))
      ∧ (∀ (p : Nat) (a : Stamp) (cell : Bytes) (c : CellFields) (s : State), s.running = true →
        s.arrives p tMark cell c → s.time.frame = false →
        exec (.tideMarkReceived p a cell) s
          = .next ((s.heard p cell).modPort p (fun x => { x with rxTide := bitAt (rd c.payload 4 1) 0 }))))
    ∧ ((∀ (n : Nat) (s : State), s.running = true → s.time.frame = true → s.time.ppsOutEnable = true →
        s.time.hall ≤ n * 65536000000000 → n * 65536000000000 < s.time.hall + State.tideUnits →
        s.time.ppsOutSec ≠ some n → exec .ppsOut s
          = .next { s with out := s.out ++ [.ppsPulse (((n * 65536000000000 : Nat) : Int) - s.ppsOutLat) s.time.ppsWidth]
                           time := { s.time with
                             ppsOutSec := some n
                             ppsUntil := some (n * 65536000000000 + s.time.ppsWidth * 1000 * 65536) } })
      ∧ (∀ s : State, s.running = true → (s.time.frame = false ∨ s.time.ppsOutEnable = false
          ∨ ∀ n, s.time.hall ≤ n * 65536000000000 → s.time.hall + State.tideUnits ≤ n * 65536000000000) →
        exec .ppsOut s = .next s)
      ∧ (∀ (e : Stamp) (m : LoopMeas) (s : State), s.running = true → s.time.ppsInEnable = true →
          ∃ t, exec (.ppsInEdge e m) s = .next t ∧ t.time.ppsInValid = true
            ∧ (∃ n : Int, t.time.ppsInOffset = State.stampUnits e - s.ppsInLat - n * 65536000000000)
            ∧ -32768000000000 ≤ t.time.ppsInOffset ∧ t.time.ppsInOffset < 32768000000000
            ∧ OnlyChanges [.out, .clock, .time, .events, .stats] s t)
      ∧ (∀ s : State, s.frameNow = false →
          s.setFrame.out = s.out ++ s.ppsEnd ∧ s.setFrame.time.ppsUntil = none ∧ s.setFrame.time.frame = false
            ∧ OnlyChanges [.out, .time] s s.setFrame)
      ∧ (∀ (tag : Nat) (v : Word64) (s : State), s.running = true → s.tagPriv tag = true →
          ∃ t, exec (.ppsTodWrite tag v) s = .next t
            ∧ t.time = { s.time with ppsTod := v.toNat % 2 ^ 48, ppsArmed := true, ppsTodAt := s.time.ticks }
            ∧ OnlyChanges [.time, .host] s t))

/-! ### Calibration, temperature -/

/-- CAL_DATA: a write of the privileged view puts its four bytes at the offset in the working copy and a read answers the
four bytes there; either advances the offset by 4 within the record where AUTO_INC is set, but for a write while BUSY (the
model's choice, log entry 21).

CAL_COMMIT sets BUSY and writes the record with its header and CRC, which is also the working copy from then on; with a
commit or a STORE under way it answers result 2. A commit that ends well stores that record and touches no byte of the store
past it; one that ends badly reports result 3 and leaves a record that is cut (log entry 22). CAL_RELOAD asks for the stored
record at the next boundary. -/
def Obligations.CalibrationRecordIsWrittenAndCommitted : Prop :=
  ((∀ (tag : Nat) (v : Word32) (s : State), s.running = true → s.tagPriv tag = true → s.cal.busy = false →
        ∃ t, exec (.calDataWrite tag v) s = .next t
          ∧ t.cal = { s.cal with work := s.cal.work.writeBytes s.cal.offset (leBytes 4 v.toNat)
                                 offset := if s.cal.autoInc then (s.cal.offset + 4) % 65536 else s.cal.offset }
          ∧ OnlyChanges [.cal, .host] s t)
      ∧ (∀ (tag : Nat) (v : Word32) (s : State), s.running = true → s.tagPriv tag = true → s.cal.busy = true →
        ∃ t, exec (.calDataWrite tag v) s = .next t ∧ t.cal = { s.cal with writeBlocked := true }
          ∧ OnlyChanges [.cal, .host] s t)
      ∧ (∀ (tag : Nat) (s : State), s.running = true → s.tagPriv tag = true → ∃ t, exec (.calDataRead tag) s = .next t
          ∧ t.out = s.out ++ [.readData tag (leNat (s.cal.work.readBytes s.cal.offset 4))]
          ∧ t.cal = { s.cal with offset := if s.cal.autoInc then (s.cal.offset + 4) % 65536 else s.cal.offset }
          ∧ OnlyChanges [.out, .cal, .host] s t))
    ∧ ((∀ (tag : Nat) (v : Word32) (s : State), s.running = true → s.tagPriv tag = true → v.toNat % 2 = 1 →
        s.storeBusy = false → s.cal.work.wf = true → ∃ t, exec (.calCommit tag v) s = .next t ∧ t.cal.busy = true
          ∧ t.cal.work = t.cal.committing
          ∧ leNat (t.cal.committing.readBytes 0xFFFC 4) = crc32c (t.cal.committing.readBytes 0 0xFFFC)
          ∧ t.cal.inEffect = s.cal.inEffect ∧ OnlyChanges [.cal, .host] s t)
      ∧ (∀ (tag : Nat) (v : Word32) (s : State), s.running = true → s.tagPriv tag = true → v.toNat % 2 = 1 →
        s.storeBusy = true → ∃ t, exec (.calCommit tag v) s = .next t ∧ t.cal = { s.cal with result := 2 }
          ∧ OnlyChanges [.cal, .host] s t)
      ∧ (∀ s : State, s.running = true → s.cal.busy = true → s.power.restart = .none →
        ∃ t, exec (.calCommitDone true) s = .next t ∧ t.cal.busy = false ∧ t.cal.result = 1 ∧ t.nv.calCut = none
          ∧ (s.nv.bytes.wf = true → s.cal.committing.wf = true → (∀ x, 65536 ≤ x → s.cal.committing.read x = 0) →
              (∀ x, x < 65536 → t.nv.bytes.read x = s.cal.committing.read x)
                ∧ (∀ x, 65536 ≤ x → t.nv.bytes.read x = s.nv.bytes.read x))
          ∧ OnlyChanges [.cal, .nv] s t)
      ∧ (∀ s : State, s.running = true → s.cal.busy = true → s.power.restart = .none →
        ∃ t, exec (.calCommitDone false) s = .next t ∧ t.cal.busy = false ∧ t.cal.result = 3 ∧ t.nv.calCut.isSome = true
          ∧ t.nv.bytes = s.nv.bytes ∧ OnlyChanges [.cal, .nv] s t)
      ∧ (∀ (tag : Nat) (v : Word32) (s : State), s.running = true → s.tagPriv tag = true → v.toNat % 2 = 1 →
        s.cal.busy = false → ∃ t, exec (.calReload tag v) s = .next t ∧ t.cal = { s.cal with reloadAsked := true }
          ∧ OnlyChanges [.cal, .host] s t))

/-- A temperature update, due 4,096 tides after the one before, replaces DIE_TEMP, sets THERMAL_WARN above 100 °C and
THERMAL_CRIT above 108 °C, drives THERM_ALERT_N above 100 °C until all are below 95 °C, and outside Hold prepares
compensated values for the next boundary; before it is due it has no effect. A THERMAL_SHUTDOWN above 115 °C, at a boundary
after the reading, enters Hold with cause 4 and RAIL_EN_CORE to go low; Hold keeps what R409 copies and the stacks. DIE_TEMP
counts 256 to the degree. -/
def Obligations.TemperatureWarnsAndShutsDown : Prop :=
  (∀ (temps l : List Int) (s : State), s.alive = true →
      (s.cal.lastTemp = none ∨ ∃ n, s.cal.lastTemp = some n ∧ n + 4096 ≤ s.time.ticks) →
      l = (List.range 6).map (fun i => temps.getD i 0) → ∃ t, exec (.temperatureUpdate temps) s = .next t
        ∧ t.power = { s.power with dieTemp := l, thermalWarn := t.power.thermalWarn
                                   thermalCrit := t.power.thermalCrit, thermAlert := t.power.thermAlert }
        ∧ (t.power.thermalWarn = true ↔ s.power.thermalWarn = true ∨ ∃ x ∈ l, 25600 < x)
        ∧ (t.power.thermalCrit = true ↔ s.power.thermalCrit = true ∨ ∃ x ∈ l, 27648 < x)
        ∧ (t.power.thermAlert = true ↔
            (∃ x ∈ l, 25600 < x) ∨ (s.power.thermAlert = true ∧ ∃ x ∈ l, 24320 ≤ x))
        ∧ t.cal = { s.cal with lastTemp := some s.time.ticks, compNext := t.cal.compNext }
        ∧ (s.power.mode ≠ .hold → t.cal.compNext.isSome = true)
        ∧ (s.power.mode = .hold → t.cal.compNext = s.cal.compNext) ∧ OnlyChanges [.power, .cal] s t)
    ∧ (∀ (temps : List Int) (n : Nat) (s : State), s.alive = true → s.cal.lastTemp = some n → s.time.ticks < n + 4096 →
      exec (.temperatureUpdate temps) s = .next s)
    ∧ (∀ (n : Nat) (s : State), s.running = true → (∃ x ∈ s.power.dieTemp, 29440 < x) → s.cal.lastTemp = some n →
      n < s.time.ticks → ∃ t, exec .thermalShutdown s = .next t ∧ t.power.mode = .hold ∧ t.power.railsDown = true
        ∧ t.power.resetCause = s.power.resetCause ||| 16 ∧ s.holdKeeps t ∧ t.stack = s.stack
        ∧ t.nv.bytes = s.nv.bytes ∧ t.nv.floor = s.nv.floor)
    ∧ (∀ s : State, s.running = true → (∀ x ∈ s.power.dieTemp, x ≤ 29440) → exec .thermalShutdown s = .next s)

/-! ### Power and resets -/

/-- Power and the reset balls: PWR_GOOD rising from Off begins a cold start-up in Full with PWR_UP as the cause; its loss
leaves Off; MOD_RESET_N low holds the engine in reset with its cause bit, and its release begins a cold start-up. The
store's bytes, the rollback floor and, unless a fuse operation was under way, the key slots survive each; a PPS pulse in
progress ends, and with the power the test access port's instruction goes; the queue and what was sent stay.

Restarts asked for in Full or Idle with no store write under way: MOD_WARM_N, the watchdog and RESET_CTRL with WARM enter
Hold on the way to a warm start-up, with their cause bits, and with what R409 copies and the residual stacks kept;
RESET_CTRL with COLD begins a cold start-up, from Hold at once (the latter the model's reading, log entry 24; which tags
reach it there, log entry 10). In Hold, with the die at most at 90 °C and the entry done, a warm restart or POWER_CTRL 0
starts up again, and time that was not in HOLDOVER is lost; with the die hotter it is ignored and flagged. RESET_CTRL takes
effect only with 0x5AFE in its upper half. -/
def Obligations.ResetsAndRestartsStartAgain : Prop :=
  (∀ s : State,
      (s.power.mode = .off → ∃ t, exec .powerOn s = .next t ∧ t.power.mode = .full
          ∧ t.power.resetCause = (if s.power.modResetLow then 3 else 1)
          ∧ t.power.startStep = (if s.power.modResetLow then 0 else 1) ∧ t.groups = [] ∧ t.stack = []
          ∧ t.nv.bytes = s.nv.bytes ∧ t.nv.floor = s.nv.floor ∧ (s.nv.job = .none → t.nv.keys = s.nv.keys)
          ∧ t.tap = { trstLow := s.tap.trstLow } ∧ t.pending = s.pending ∧ t.out = s.out ++ s.ppsEnd)
      ∧ (s.power.mode ≠ .off → ∃ t, exec .pwrGoodLoss s = .next t ∧ t.power.mode = .off ∧ t.saved = none ∧ t.stack = []
          ∧ t.nv.bytes = s.nv.bytes ∧ t.nv.floor = s.nv.floor ∧ (s.nv.job = .none → t.nv.keys = s.nv.keys)
          ∧ t.tap = { trstLow := s.tap.trstLow } ∧ t.pending = s.pending ∧ t.out = s.out ++ s.ppsEnd)
      ∧ (s.power.mode ≠ .off → s.power.modResetLow = false → ∃ t, exec .moduleReset s = .next t
          ∧ t.power.modResetLow = true ∧ t.alive = false ∧ t.power.resetCause = s.power.resetCause ||| 2
          ∧ t.saved = none ∧ t.stack = [] ∧ t.nv.bytes = s.nv.bytes ∧ t.nv.floor = s.nv.floor
          ∧ (s.nv.job = .none → t.nv.keys = s.nv.keys) ∧ t.pending = s.pending ∧ t.out = s.out ++ s.ppsEnd)
      ∧ (s.power.mode = .off → exec .moduleReset s = .next { s with power := { s.power with modResetLow := true } })
      ∧ (s.power.mode ≠ .off → s.power.modResetLow = true → ∃ t, exec .moduleResetRelease s = .next t
          ∧ t.power.modResetLow = false ∧ t.alive = true ∧ t.power.startStep = 1
          ∧ t.power.resetCause = s.power.resetCause ∧ t.nv.bytes = s.nv.bytes ∧ t.nv.floor = s.nv.floor
          ∧ (s.nv.job = .none → t.nv.keys = s.nv.keys) ∧ t.pending = s.pending ∧ t.out = s.out ++ s.ppsEnd))
    ∧ ((∀ (c : Instr) (n : BitVec 6) (s : State), (c = .modWarm ∧ n = 4) ∨ (c = .watchdog ∧ n = 32)
        ∨ (∃ tag v, c = .warmRestart tag v ∧ n = 4 ∧ s.tagPriv tag = true ∧ v.toNat / 65536 = 0x5AFE ∧ v.toNat % 4 = 1) →
        s.running = true → s.storeBusy = false → s.power.restart ≠ .cold →
        ∃ t, exec c s = .next t ∧ t.power.mode = .hold ∧ t.power.restart = .warm ∧ t.power.railsDown = false
          ∧ t.power.resetCause = s.power.resetCause ||| n ∧ s.holdKeeps t ∧ t.stack = s.stack
          ∧ t.nv.bytes = s.nv.bytes ∧ t.nv.floor = s.nv.floor)
      ∧ (∀ (tag : Nat) (v : Word32) (s : State), (s.running = true ∧ s.tagPriv tag = true ∧ s.storeBusy = false)
          ∨ (s.alive = true ∧ s.power.mode = .hold ∧ tag = 8) → v.toNat / 65536 = 0x5AFE → 2 ≤ v.toNat % 4 → ∃ t,
              exec (.coldRestart tag v) s = .next t ∧ t.power.mode = .full
          ∧ t.power.startStep = 1
          ∧ t.power.resetCause = s.power.resetCause ||| (if v.toNat % 4 = 3 then 12 else 8) ∧ t.saved = none
          ∧ t.stack = [] ∧ t.nv.bytes = s.nv.bytes ∧ t.nv.floor = s.nv.floor)
      ∧ (∀ (c : Instr) (s : State), c = .modWarm ∨ c = .powerCtrlFull 8
          ∨ (∃ v, c = .warmRestart 8 v ∧ v.toNat / 65536 = 0x5AFE ∧ v.toNat % 4 = 1) →
        s.alive = true → s.power.mode = .hold → s.power.holdEntry = false →
        ((∀ x ∈ s.power.dieTemp, x ≤ 23040) → ∃ t, exec c s = .next t ∧ t.power.mode = .full ∧ t.power.startStep = 2
            ∧ t.power.warm = true ∧ t.power.railEnCore = true ∧ t.power.resetCause = s.power.resetCause ||| 4
            ∧ (s.time.loop = .holdover ∨ s.time.loop = .timeLost → t.time = s.time)
            ∧ (s.time.loop ≠ .holdover → s.time.loop ≠ .timeLost →
                t.time.loop = .timeLost ∧ t.power.faults.timeLost = true)
            ∧ OnlyChanges [.out, .power, .time, .events, .stats] s t)
          ∧ ((∃ x ∈ s.power.dieTemp, 23040 < x) →
            exec c s = .next { s with power := { s.power with reqIgnored := true } }))
      ∧ (∀ (tag : Nat) (v : Word32) (c : Instr) (s : State), c = .warmRestart tag v ∨ c = .coldRestart tag v →
        s.running = true → s.tagPriv tag = true → v.toNat / 65536 ≠ 0x5AFE →
        ∃ t, exec c s = .next t ∧ OnlyChanges [.host] s t))

/-- POWER_CTRL: 0 in Idle asks for the wake, before which an entry to Hold that waits for the store gives way (the latter the
model's reading, log entry 23), and the wake completes 4,096 boundaries later in Full; 1 in Full, with every group
CLOSED and nothing in progress, asks for Idle; 2 in Idle enters Hold with the rails to go low, and Hold keeps what R409
copies and the stacks; while the store is written the entry waits. What is not admitted sets REQ_IGNORED. HOLD_ENTRY_DONE lets RAIL_EN_CORE go low, or lets the start-up
of a warm or watchdog restart go on without the test of 90 °C (the latter the model's reading, log entry 24). -/
def Obligations.PowerCtrlMovesBetweenStates : Prop :=
  (∀ (tag : Nat) (s : State), s.running = true → s.tagPriv tag = true → s.power.mode = .idle →
      ∃ t, exec (.powerCtrlFull tag) s = .next t
        ∧ t.power = { s.power with
            ctrl := 0, wakeAt := some (s.power.wakeAt.getD (s.time.ticks + 4096))
            restart := if s.power.restart = .hold then .none else s.power.restart
            reqIgnored := s.power.reqIgnored || decide (s.power.restart = .hold) }
        ∧ OnlyChanges [.power, .host] s t)
    ∧ (∀ (tag : Nat) (s : State), s.running = true → s.tagPriv tag = true → s.power.mode = .full → s.resting = true →
      ∃ t, exec (.powerCtrlIdle tag) s = .next t ∧ t.power = { s.power with ctrl := 1, idleAsked := true }
        ∧ OnlyChanges [.power, .host] s t)
    ∧ (∀ (tag : Nat) (s : State), s.running = true → s.tagPriv tag = true → s.power.mode = .idle → s.resting = true →
      s.storeBusy = false → s.power.restart = .none → ∃ t, exec (.powerCtrlHold tag) s = .next t
        ∧ t.power.mode = .hold ∧ t.power.ctrl = 2 ∧ t.power.railsDown = true ∧ t.power.holdEntry = true
        ∧ s.holdKeeps t ∧ t.stack = s.stack)
    ∧ (∀ (tag : Nat) (s : State), s.running = true → s.tagPriv tag = true → s.power.mode = .idle → s.resting = true →
      s.storeBusy = true → s.power.restart = .none → ∃ t, exec (.powerCtrlHold tag) s = .next t
        ∧ t.power = { s.power with ctrl := 2, restart := .hold } ∧ OnlyChanges [.power, .host] s t)
    ∧ (∀ (tag : Nat) (c : Instr) (s : State), s.running = true → s.tagPriv tag = true →
      (c = .powerCtrlFull tag ∧ s.power.mode = .full) ∨ (c = .powerCtrlIdle tag ∧ (s.power.mode = .idle ∨ s.resting = false))
        ∨ (c = .powerCtrlHold tag ∧ (s.power.mode = .full ∨ s.resting = false)) →
      ∃ t, exec c s = .next t ∧ t.power = { s.power with reqIgnored := true } ∧ OnlyChanges [.power, .host] s t)
    ∧ (∀ s : State, s.alive = true → s.power.mode = .hold → s.power.holdEntry = true →
      ∃ t, exec .holdEntryDone s = .next t ∧ t.power.holdEntry = false
        ∧ (s.power.restart ≠ .warm → t.power.mode = .hold ∧ t.power.railEnCore = !s.power.railsDown
            ∧ OnlyChanges [.power] s t)
        ∧ (s.power.restart = .warm → t.power.mode = .full ∧ t.power.startStep = 2 ∧ t.power.warm = true
            ∧ OnlyChanges [.out, .power, .time, .events, .stats] s t))
    ∧ (∀ (n : Nat) (s : State), s.running = true → s.power.wakeAt = some n → s.power.mode = .idle → n ≤ s.time.ticks →
      ∃ t, exec .wakeComplete s = .next t ∧ t.power.mode = .full ∧ t.power.wakeAt = none
        ∧ OnlyChanges [.power, .ports, .books, .queues, .groups, .events, .stats] s t)
    ∧ (∀ (n : Nat) (s : State), s.power.wakeAt = some n → s.time.ticks < n → exec .wakeComplete s = .next s)

/-- Start-up advances one step at a time: step 1 to 2, step 2 to 3 while the stacks kept their contents, step 3 to 4, step 4
to 7 with its time condition met and an image active, and to 5 without an image, where the ports that may train start, or
where no time port is known, step 4 then still to complete; step 5 to 6 once every port that may train has found its
partner; step 6 to 7 with an image active, or with one booted whose time ports are those already known, or with none to
come, and back to 4 where the image names other time ports; step 7 to 8 where no spare is missing, and without one a cold
start-up stops; step 8 to READY once the ports serve, where a warm start-up gives back what Hold kept if the image is the
same and what was kept can be read, and else nothing of it, discarding every group's step record; a step whose condition
does not hold stays, and the stacks' loss in Hold makes a warm start-up a cold one. What steps 4, 5 and 8 judge is the
model's reading (log entries 24, 25). -/
def Obligations.StartUpAdvancesStepByStep : Prop :=
  ∀ (r : StartReport) (s : State), s.running = true →
    (s.power.ready = true ∨ s.power.halted = true → exec (.startUpStep r) s = .next s)
    ∧ (s.power.ready = false → s.power.halted = false →
      (s.power.startStep = 1 → exec (.startUpStep r) s = .next { s with power := { s.power with startStep := 2 } })
      ∧ (s.power.startStep = 2 → (s.power.warm = false ∨ r.stacksKept = true) →
        exec (.startUpStep r) s = .next { s with power := { s.power with startStep := 3 } })
      ∧ (s.power.startStep = 2 → s.power.warm = true → r.stacksKept = false → ∃ t, exec (.startUpStep r) s = .next t
        ∧ t.power.startStep = 1 ∧ t.power.warm = false ∧ t.power.resetCause = s.power.resetCause ||| 8 ∧ t.stack = [])
      ∧ (s.power.startStep = 3 → ∃ t, exec (.startUpStep r) s = .next t ∧ t.power.startStep = 4)
      ∧ (s.power.startStep = 4 → s.timeDone = true → s.img.isSome = true →
        exec (.startUpStep r) s = .next { s with power := { s.power with startStep := 7, timeOwed := false } })
      ∧ (∀ owed : Bool, s.power.startStep = 4 →
          (s.timeDone = true ∧ s.img = none ∧ s.image.absent = false ∧ owed = false)
            ∨ (s.timeDone = false ∧ s.noTimePort = true ∧ owed = true) → ∃ t, exec (.startUpStep r) s = .next t
        ∧ t.power = { s.power with startStep := 5, timeOwed := owed }
        ∧ (∀ p, p < 24 → t.port p = { s.port p with
            link := if (s.port p).link = .off ∧ s.mayTrain p = true then .signal else (s.port p).link })
        ∧ OnlyChanges [.power, .ports] s t)
      ∧ (s.power.startStep = 4 → s.timeDone = false → s.noTimePort = false → exec (.startUpStep r) s = .next s)
      ∧ (s.power.startStep = 5 → exec (.startUpStep r) s
        = .next (if s.portsFound then { s with power := { s.power with startStep := 6 } } else s))
      ∧ (s.power.startStep = 6 → s.img.isSome = true →
        exec (.startUpStep r) s = .next { s with power := { s.power with startStep := 7 } })
      ∧ (∀ u : State, s.power.startStep = 6 → s.img = none → u = s.bootImage → ∃ t, exec (.startUpStep r) s = .next t
        ∧ t.img = u.img
        ∧ (u.image.absent = true ∨ (s.noTimePort = false ∧ u.timePorts = s.timePorts) → t.power.startStep = 7)
        ∧ (u.image.absent = false → s.noTimePort = true ∨ u.timePorts ≠ s.timePorts → t.power.startStep = 4))
      ∧ (s.power.startStep = 7 → r.noSpare.isSome = true → s.power.warm = false → ∃ t,
        exec (.startUpStep r) s = .next t ∧ t.power.halted = true ∧ t.power.startStep = 7)
      ∧ (s.power.startStep = 7 → r.noSpare = none ∨ s.power.warm = true → ∃ t, exec (.startUpStep r) s = .next t
          ∧ t.power.startStep = 8)
      ∧ (s.power.startStep = 8 → s.portsServe = true → ∃ t, exec (.startUpStep r) s = .next t ∧ t.power.ready = true
        ∧ t.power.warm = false ∧ t.saved = none
        ∧ (∀ k, s.saved = some k →
            (r.savedUE = false → s.img.isSome = true → k.hash = s.image.active.hash → t.gaveBack k)
            ∧ (r.savedUE = true ∨ s.img = none ∨ k.hash ≠ s.image.active.hash → s.gaveNothing t k)))
      ∧ (s.power.startStep = 8 → s.portsServe = false → exec (.startUpStep r) s = .next s))

/-! ### Link ports -/

/-- Training of a port, state by state. An enabled OFF port that may train goes to SIGNAL; signal lock takes it to FRAME and
frame lock to DISCOVER, where a hail is due and it knows no neighbour yet; a hail that passes its tests takes it from there
to ALIGN where DELAY is valid for that partner, the tide frame is valid and no drift bars it, with the whole-slot latency
and the arrival offset of its DELAY; 64 aligned marks in ALIGN with the tide frame take it to SERVICE. Each moves from its
own state only, and the end of 200 ms in SIGNAL without lock is counted (when it comes is the command's to say, log entry
11). -/
def Obligations.TrainingClimbsStateByState : Prop :=
  (∀ (tag p : Nat) (s : State), s.running = true → s.tagPriv tag = true → p < 24 → ∃ t,
      exec (.portEnable tag p) s = .next t ∧ t.port p = { s.port p with
          enable := true
          link := if (s.port p).link = .off ∧ s.power.dumap.ports.contains p = false ∧ s.role p ≠ 0 then .signal
                  else (s.port p).link }
        ∧ OtherPorts p s t ∧ OnlyChanges [.ports, .host] s t)
    ∧ (∀ (p : Nat) (pol : BitVec 4) (s : State), s.running = true → (s.port p).link = .signal → ∃ t,
        exec (.signalLock p pol) s = .next t ∧ t.port p = { s.port p with link := .frame, polarity := pol, leftSignal := true }
          ∧ OtherPorts p s t ∧ OnlyChanges [.ports] s t)
    ∧ (∀ (p : Nat) (s : State), s.running = true → (s.port p).link = .signal →
        exec (.signalTrainTimeout p) s = .next (s.bumpPort p .linkTrainFail 1))
    ∧ (∀ (p : Nat) (s : State), s.running = true → (s.port p).link = .frame → ∃ t,
        exec (.frameLock p) s = .next t ∧ (t.port p).link = .discover ∧ (t.port p).marks = 0
          ∧ (t.port p).nb.state = .none ∧ (t.port p).lastHail = s.time.ticks ∧ (t.port p).hailDue = true
          ∧ (t.port p).tideFrame = false ∧ OtherPorts p s t ∧ OnlyChanges [.ports] s t)
    ∧ (∀ (p : Nat) (cell : Bytes) (c : CellFields) (h : Hail) (s : State), s.running = true →
        s.arrives p tHail cell c → h = readHail c.payload → h.format = 1 → s.hailFault p h = none →
        s.newPartner p h = false → (s.port p).link = .discover → s.otherPartner p h = false → s.delayValid p = true →
        s.time.frame = true → s.img.isSome = true → (s.port p).driftBar = false → ∃ t,
          exec (.hailReceived p cell) s = .next t ∧ (t.port p).link = .align ∧ (t.port p).nb.state = .accepted
          ∧ (t.port p).lp = s.latencyOf p ∧ (t.port p).phi = s.offsetOf p (s.latencyOf p) ∧ (t.port p).marks = 0
          ∧ (t.port p).tideFrame = true ∧ (∀ q, q ≠ p → (t.port q).link = (s.port q).link)
          ∧ OnlyChanges [.out, .time, .cal, .ports, .groups, .events, .stats, .maint] s t)
    ∧ (∀ (p : Nat) (s : State), s.running = true → (s.port p).link = .align → 64 ≤ (s.port p).marks →
        s.time.frame = true → ∃ t, exec (.alignComplete p) s = .next t ∧ (t.port p).link = .service
          ∧ (∀ q, q ≠ p → (t.port q).link = (s.port q).link) ∧ OnlyChanges [.ports, .groups, .events, .stats] s t)
    ∧ (∀ (p : Nat) (pol : BitVec 4) (c : Instr) (s : State), s.running = true →
        ((c = .signalLock p pol ∨ c = .signalTrainTimeout p) ∧ (s.port p).link ≠ .signal)
          ∨ (c = .frameLock p ∧ (s.port p).link ≠ .frame)
          ∨ (c = .alignComplete p
              ∧ ((s.port p).link ≠ .align ∨ (s.port p).marks < 64 ∨ s.time.frame = false)) → exec c s = .next s)

/-- The end of training: clearing ENABLE takes a port to OFF, a RETRAIN or a lost link takes it to SIGNAL; the neighbour
entry is LOST, and what the port held of cells, requests and alignment is gone. -/
def Obligations.TrainingEndsOnDisableRetrainOrLoss : Prop :=
  ∀ (tag p : Nat) (k : LossCause) (s : State), s.running = true → s.tagPriv tag = true → p < 24 →
    trained (s.port p).link = true →
    ∀ (c : Instr) (to_ : Link), (c = .portDisable tag p ∧ to_ = .off) ∨ (c = .retrain tag p ∧ to_ = .signal)
        ∨ (c = .linkLoss p k ∧ to_ = .signal) →
      ∃ t, exec c s = .next t ∧ (t.port p).link = to_ ∧ (t.port p).nb.state = .lost
        ∧ (t.port p).kept = [] ∧ (t.port p).asked = [] ∧ (t.port p).requests = [] ∧ (t.port p).marks = 0
        ∧ (t.port p).tx = [] ∧ (t.port p).vc3 = [] ∧ (t.port p).exprQueue = [] ∧ (t.port p).repeatOut = []
        ∧ (t.port p).remeasure = none ∧ (t.port p).delayReq = none ∧ (t.port p).prbs = false
        ∧ (t.port p).tideFrame = false ∧ (t.port p).hailDue = false
        ∧ ((t.port p).enable = true ↔ (s.port p).enable = true ∧ c ≠ .portDisable tag p)
        ∧ (∀ q, q ≠ p → (t.port q).link = (s.port q).link)
        ∧ OnlyChanges [.out, .time, .ports, .host, .groups, .events, .stats, .maint] s t

/-- Hails (when one goes within its frame is the model's choice, log entry 90, and what stands of several reasons for
QUARANTINE, log entry 104). One falls due by its schedule, and goes with the next VC3 slots in the order of R45, with the
engine's identity and what it has seen, unless a delay exchange is outstanding or has ended in this tide; one that passes
the tests makes the partner ACCEPTED with the hail's identity, one from another partner than before gives NEW_PARTNER and a
LOST entry, and one that fails test r of R262 quarantines the port with reason r, from SERVICE at the next boundary, and
where it changes the partner's identity marks the entry LOST; where
it comes from a ring neighbour whose image is neither the active nor the shadow one, the OPEN in progress of each group on
the port ends with 0x07; one of another FORMAT is malformed. The quarantine of a port in SERVICE takes effect at a boundary
after its tide, and the groups that use the port end their steps with it: with 0x0D for reasons 8 and 9, else with 0x02.
2,048 tides without one lose a neighbour, accepted or quarantined, and an accepted one brings the port into QUARANTINE. -/
def Obligations.HailsMakeAndLoseNeighbours : Prop :=
  (∀ (p : Nat) (s : State), s.running = true → trained (s.port p).link = true → s.hailTideDue p = true → ∃ t,
      exec (.hailSend p) s = .next t ∧ t.port p = { s.port p with hailDue := true }
        ∧ (t.hailGoes p = true ↔
            (s.port p).delayReq = none ∧ (s.port p).hailHold ≠ some s.time.ticks) ∧ OtherPorts p s t
                ∧ OnlyChanges [.ports] s t)
    ∧ (∀ (p : Nat) (s : State), s.hailTideDue p = false → exec (.hailSend p) s = .next s)
    ∧ (∀ (p : Nat) (h : Hail) (s : State), s.hailGoes p = true → h = s.hailOf p →
        h.format = 1 ∧ h.role = s.role p ∧ h.port = p ∧ h.chip = s.ident.hallChip
          ∧ h.serial = BitVec.ofNat 64 s.ident.serial ∧ h.seenChip = (s.port p).nb.seenChip
          ∧ h.seenPort = (s.port p).nb.seenPort
          ∧ ∃ before after, s.vc3Items p
              = before ++ { rank := rankHail, type := tHail, group := 0, payload := hailPayload h } :: after
            ∧ (∀ i ∈ before, i.rank ≤ rankHail) ∧ (∀ i ∈ after, rankHail ≤ i.rank))
    ∧ (∀ (p : Nat) (cell : Bytes) (c : CellFields) (h : Hail) (s : State), s.running = true →
        s.arrives p tHail cell c → h = readHail c.payload →
        (h.format ≠ 1 → exec (.hailReceived p cell) s = .next ((s.heard p cell).bumpPort p .cellMalformed 1))
        ∧ (h.format = 1 → s.hailFault p h = none → s.newPartner p h = false → ∃ t,
            exec (.hailReceived p cell) s = .next t
            ∧ ((t.port p).nb.state = .accepted ∨ (s.time.frame = true ∧ s.img = none))
            ∧ (t.port p).nb.chip = h.chip ∧ (t.port p).nb.serial = h.serial.toNat
            ∧ (t.port p).nb.port = h.port ∧ (t.port p).nb.seenChip = h.chip ∧ (t.port p).lastHail = s.time.ticks
            ∧ ((s.port p).link = .service →
                (t.port p).link = .service ∧ (t.port p).qPending = (s.port p).qPending)
            ∧ OnlyChanges [.out, .time, .cal, .ports, .groups, .events, .stats, .maint] s t)
        ∧ (h.format = 1 → s.hailFault p h = none → s.newPartner p h = true → ∃ t,
            exec (.hailReceived p cell) s = .next t
            ∧ (t.port p).nb.state = .lost ∧ (t.port p).nb.chip = h.chip ∧ (t.port p).nb.serial = h.serial.toNat
            ∧ ((s.port p).link = .service → (t.port p).link = .service
                ∧ (t.port p).qPending = some (match (s.port p).qPending with | some q => min q 11 | none => 11))
            ∧ ((s.port p).link ≠ .service → (t.port p).link = .quarantine)
            ∧ ((s.port p).link ≠ .service → (s.port p).link ≠ .quarantine → (t.port p).qreason = 11)
            ∧ OnlyChanges [.out, .time, .cal, .ports, .groups, .events, .stats, .maint] s t)
        ∧ (∀ r, h.format = 1 → s.hailFault p h = some r → ∃ t, exec (.hailReceived p cell) s = .next t
            ∧ (t.port p).nb.chip = h.chip
            ∧ ((s.port p).link = .service → (t.port p).link = .service
                ∧ (s.newPartner p h = true → (t.port p).nb.state = .lost)
                ∧ (t.port p).qPending = some (match (s.port p).qPending with | some q => min q r | none => r))
            ∧ ((s.port p).link ≠ .service → (t.port p).link = .quarantine
                ∧ (t.port p).nb.state = (if s.newPartner p h = true then .lost else .quarantined)
                ∧ (t.port p).qreason = (if (s.port p).link = .quarantine
                    then State.joinReason (s.port p).qreason r else r))
            ∧ (1 ≤ r ∧ r ≤ 7)
            ∧ (s.role p = 1 → 2 < r → s.imageMatch h.imageHash = 0 → ∀ g ∈ s.groupsOnPort p,
                (s.group g).openAt.isSome = true → (s.group g).abort = none →
                (t.group g).abort = some (freshAbort 0x07 0xFFFFF 0xFFF s.now))
            ∧ (∀ q, q ≠ p → (t.port q).link = (s.port q).link)
            ∧ OnlyChanges [.cal, .ports, .groups, .events, .stats, .maint] s t))
    ∧ (∀ (p r : Nat) (s : State), s.running = true → (s.port p).link = .service → (s.port p).qPending = some r →
        ((s.port p).qAt = s.time.ticks → exec (.quarantineEffect p) s = .next s)
        ∧ ((s.port p).qAt < s.time.ticks → ∃ t, exec (.quarantineEffect p) s = .next t
          ∧ (r ≠ 8 → (t.port p).link = .quarantine ∧ (t.port p).qreason = r)
          ∧ (r = 8 → (t.port p).link = .discover) ∧ (t.port p).qPending = none
          ∧ s.groupsAbort t (s.groupsOnPort p) (if r = 8 ∨ r = 9 then 0x0D else 0x02)
          ∧ (∀ q, q ≠ p → (t.port q).link = (s.port q).link)
          ∧ OnlyChanges [.out, .time, .ports, .groups, .events, .stats] s t))
    ∧ (∀ (p : Nat) (s : State), s.running = true → trained (s.port p).link = true →
        (s.port p).nb.state = .quarantined → (s.port p).lastHail + 2048 ≤ s.time.ticks → ∃ t,
        exec (.hailTimeout p) s = .next t
          ∧ t.port p = { s.port p with nb := { (s.port p).nb with state := .lost } }
          ∧ t.stats = (s.bumpPort p .hailLost 1).stats ∧ OtherPorts p s t ∧ OnlyChanges [.ports, .events, .stats] s t)
    ∧ (∀ (p : Nat) (s : State), s.running = true → trained (s.port p).link = true →
        (s.port p).nb.state = .accepted → (s.port p).lastHail + 2048 ≤ s.time.ticks → ∃ t,
        exec (.hailTimeout p) s = .next t ∧ (t.port p).nb.state = .lost
          ∧ ((s.port p).link ≠ .service → (t.port p).link = .quarantine)
          ∧ ((s.port p).link = .service → (t.port p).link = .service
              ∧ (t.port p).qPending = some (match (s.port p).qPending with | some q => min q 10 | none => 10))
          ∧ OtherPorts p s t ∧ OnlyChanges [.ports, .events, .stats] s t)

/-- Delay exchanges: one request at a time and one in a tide, the port's automatic one or the next of a remeasurement, where
nothing else holds its resources, with the identity that the response must repeat; the response's one-way delay is half of
its round trip less the partner's turn-around, rounded to the nearest, and joins the remeasurement's samples, whose 64th
stores their mean as DELAY, while an automatic exchange adds none; a request is answered with its times at the reference
plane; 16 tides without a response abandon the exchange, which is then not among the 64, and a hail that waited goes in the
next tide. DELAY_MEAS begins 64 exchanges, under the port's calibration token where the hall controller holds it, or waits for
those in progress, before which it goes where that token holds them up (the last two the model's choice, log entry 119). -/
def Obligations.DelayExchangesMeasureTheLink : Prop :=
  (∀ (p : Nat) (t1 : Stamp) (s : State), s.running = true →
      (trained (s.port p).link = true → (s.port p).delayReq = none → (s.port p).lastReq ≠ some s.time.ticks →
        s.measureGoes p = true ∨ s.autoGoes p = true → ∃ t, exec (.delayExchange p t1) s = .next t
        ∧ t.port p = { s.port p with
            delayReq := some { id := (s.port p).delayId, t1 := s.txPlane p t1, at_ := s.time.ticks, auto := s.autoGoes p }
            exch := if s.autoGoes p = true then 0 else (s.port p).exch
            delayId := ((s.port p).delayId + 1) % 2 ^ 32, lastReq := some s.time.ticks
            vc3 := (s.port p).vc3 ++ [⟨rankDelay, tDelay, 0, delayPayload false (s.port p).delayId 0 0⟩] }
        ∧ OtherPorts p s t ∧ OnlyChanges [.ports] s t)
      ∧ ((s.port p).delayReq.isSome = true ∨ (s.port p).lastReq = some s.time.ticks
          ∨ (s.measureGoes p = false ∧ s.autoGoes p = false) →
        exec (.delayExchange p t1) s = .next s))
    ∧ (∀ (p : Nat) (t2 t3 : Stamp) (cell : Bytes) (c : CellFields) (s : State), s.running = true →
        s.arrives p tDelay cell c → rd c.payload 0 1 = 0 → ∃ t, exec (.delayRequestReceived p t2 t3 cell) s = .next t
          ∧ t.port p = { (s.heard p cell).port p with vc3 := (s.port p).vc3 ++ [⟨rankDelay, tDelay, 0,
              delayPayload true (rd c.payload 4 4) (s.rxPlane p t2) (s.txPlane p t3)⟩] }
          ∧ OtherPorts p s t ∧ OnlyChanges [.ports, .events, .stats] s t)
    ∧ (∀ (p : Nat) (t4 : Stamp) (cell : Bytes) (c : CellFields) (r : DelayReq) (m : Remeasure) (d : Int) (s : State),
        s.running = true → s.arrives p tDelay cell c → rd c.payload 0 1 = 1 → rd c.payload 4 4 = r.id →
        (s.port p).delayReq = some r → (s.port p).remeasure = some m →
        d = roundAwayDiv ((s.rxPlane p t4 - r.t1)
          - (readTime (c.payload.drop 0x14) - readTime (c.payload.drop 8))) 2 →
        (r.auto = true → ∃ t, exec (.delayResponseReceived p t4 cell) s = .next t ∧ (t.port p).delayReq = none
          ∧ (t.port p).remeasure = some m ∧ OnlyChanges [.out, .time, .ports, .groups, .events, .stats] s t)
        ∧ (r.auto = false → 2 ≤ m.left → ∃ t, exec (.delayResponseReceived p t4 cell) s = .next t ∧ (t.port p).delayReq = none
          ∧ (t.port p).remeasure = some { m with left := m.left - 1, samples := m.samples ++ [d] }
          ∧ OnlyChanges [.out, .time, .ports, .groups, .events, .stats] s t)
        ∧ (r.auto = false → m.left ≤ 1 → ∃ t, exec (.delayResponseReceived p t4 cell) s = .next t ∧ (t.port p).delayReq = none
          ∧ (t.port p).remeasure = none
          ∧ (s.time.calValid = true → s.cal.inEffect.wf = true → t.delayValid p = true
              ∧ t.delayOf p = (State.meanOf (m.samples ++ [d])).toNat % 2 ^ 32)
          ∧ OnlyChanges [.out, .time, .cal, .ports, .groups, .events, .stats, .maint] s t))
    ∧ (∀ (p : Nat) (t4 : Stamp) (cell : Bytes) (c : CellFields) (r : DelayReq) (s : State), s.running = true →
        s.arrives p tDelay cell c → (s.port p).delayReq = some r → r.id ≠ rd c.payload 4 4 →
        exec (.delayResponseReceived p t4 cell) s = .next (s.heard p cell))
    ∧ (∀ (p : Nat) (r : DelayReq) (s : State), s.running = true → (s.port p).delayReq = some r →
        r.at_ + 16 ≤ s.time.ticks → ∃ t, exec (.delayTimeout p) s = .next t
          ∧ t.port p = { s.port p with
              delayReq := none, hailHold := if s.hailWaits p = true then some s.time.ticks else (s.port p).hailHold }
          ∧ t.stats = (s.bumpPort p .delayTimeout 1).stats
          ∧ OtherPorts p s t ∧ OnlyChanges [.ports, .events, .stats] s t)
    ∧ (∀ (tag p : Nat) (s : State), s.running = true → s.tagPriv tag = true → p < 24 →
        (s.port p).remeasure = none → ∃ t, exec (.delayMeas tag p) s = .next t
          ∧ t.port p = { s.port p with
              measWaits := none, remeasure := some { left := 64, samples := [], under := s.calToken p } }
          ∧ OtherPorts p s t ∧ OnlyChanges [.ports, .host] s t)
    ∧ (∀ (tag p : Nat) (m : Remeasure) (s : State), s.running = true → s.tagPriv tag = true → p < 24 →
        (s.port p).remeasure = some m → ∃ t, exec (.delayMeas tag p) s = .next t
          ∧ t.port p = (if s.calToken p = true ∧ m.under = false
              then { s.port p with measWaits := some false, remeasure := some { left := 64, samples := [], under := true } }
              else { s.port p with measWaits := some (s.calToken p) })
          ∧ OtherPorts p s t ∧ OnlyChanges [.ports, .host] s t)

/-- PRBS and the degrade check: PRBS_ENABLE sets the port's PRBS and takes its token, or waits for it behind a conflict; a
received cell that continues the sequence number is checked against the sequence, any other synchronises the checker on its
first 31 bits, and the errors found are counted (how the checker starts and in which order it takes a byte's bits is the
model's reading, log entry 19); more than one corrected symbol in 100,000 of a second counts and raises the degrade
event. -/
def Obligations.PrbsAndDegradeChecksCount : Prop :=
  (∀ (tag p : Nat) (s : State), s.running = true → s.tagPriv tag = true → p < 24 → ∃ t,
      exec (.prbsEnable tag p) s = .next t
        ∧ t.port p = { s.port p with
            prbs := true, prbsWaits := !s.holders.contains (3, p) && (s.conflictOf 3 p).isSome }
        ∧ t.maint.tokens = s.maint.tokens ++ (if s.holders.contains (3, p) ∨ (s.conflictOf 3 p).isSome then [] else
            [{ activity := 3, resource := p, granted := s.time.ticks, ofHall := false }])
        ∧ OtherPorts p s t ∧ OnlyChanges [.ports, .host, .maint] s t)
    ∧ (∀ (p seq : Nat) (cell : Bytes) (c : CellFields) (bits : List Bool) (r : Nat × Nat) (s : State),
        s.running = true → s.arrives p tPrbs cell c → seq = rd c.payload 0 4 → bits = bitsOf (c.payload.drop 4) →
        ((∃ h, (s.port p).prbsRx = some h ∧ (s.port p).prbsSeq = seq ∧ r = prbsCheck h bits)
          ∨ (((s.port p).prbsRx = none ∨ (s.port p).prbsSeq ≠ seq) ∧ r = prbsCheck (prbsSync bits) (bits.drop 31))) →
        ∃ t, exec (.prbsCellReceived p cell) s = .next t
          ∧ t.port p = { (s.heard p cell).port p with prbsRx := some r.1, prbsSeq := (seq + 1) % 2 ^ 32 }
          ∧ (r.2 = 0 → t.stats = (s.heard p cell).stats)
          ∧ (r.2 ≠ 0 → t.stats = ((s.heard p cell).bumpPort p .prbsErr r.2).stats)
          ∧ OtherPorts p s t ∧ OnlyChanges [.ports, .events, .stats] s t)
    ∧ (∀ (p n : Nat) (s : State), s.running = true → trained (s.port p).link = true →
        87125000000 < n * 100000 → ∃ t, exec (.fecDegradeCheck p n) s = .next t
          ∧ t.stats = (s.bumpPort p .fecDegrade 1).stats ∧ (∃ e ∈ t.events, e.type = 0x0051 ∧ e.subject = p)
              ∧ OnlyChanges [.events, .stats] s t)
    ∧ (∀ (p n : Nat) (s : State), s.running = true → n * 100000 ≤ 87125000000 →
        exec (.fecDegradeCheck p n) s = .next s)

/-- Cells on scheduled slots. A good first-send chunk cell with the fields its slot's plan expects is staged, with a context
for its chunk (the plan alone says what a slot expects, log entry 50); a good TRANSFER cell of its block's CLASS that is the
next of its block is staged and moves the receiver on (the receiver's place is the model's choice, log entry 97); a bad cell
is counted and, where a cell was expected, its repeat asked for; the retransmission slots of a VC serve, once in a tide, the
requests of the tide before in ascending order. -/
def Obligations.ScheduledCellsAreStagedOrRepeated : Prop :=
  (∀ (p slot d : Nat) (b : Bytes) (r : ImgRun) (f : CellFields) (v : OpView) (c i : Nat) (s : State), s.running = true →
      s.inService p = true → cellOk (padTo 256 b) = true → f = readCell (padTo 256 b) → shapeOk f = true →
      (s.port p).nb.role ≠ 4 → s.runAt p 1 slot = some r → r.vc = 0 → r.use ≤ 1 → s.expected r slot = some (v, c, i) →
      f.type = 2 → f.vc = 0 → f.cls = r.use → f.group = r.group → f.seq / 256 = s.now % 64 → f.seq % 256 = i →
      f.ref = planRef s.im v.d c →
      s.staging.any (fun x => x.group == v.g && x.lap == r.use && x.rail == v.railOf c && x.ref == f.ref
        && x.index == i) = false → ∃ t, exec (.chunkCellReceived p slot d false b) s = .next t
        ∧ t.staging = s.staging ++ [{ group := v.g, lap := r.use, rail := v.railOf c, ref := f.ref, index := i,
                                      tide := s.now, cell := padTo 256 b, port := p }]
        ∧ (t.ctx v.g v.d.bucket c).isSome = true ∧ t.ports = (s.heard p b).ports ∧ OtherGroups v.g s t
        ∧ OnlyChanges [.ports, .groups, .staging, .events, .stats] s t)
    ∧ (∀ (p slot d : Nat) (b : Bytes) (r : ImgRun) (f : CellFields) (x : Vc1Rx) (s : State), s.running = true →
      s.inService p = true → cellOk (padTo 256 b) = true → f = readCell (padTo 256 b) → shapeOk f = true →
      (s.port p).nb.role ≠ 4 → s.runAt p 1 slot = some r → r.vc = 1 → r.use ≠ 2 → f.type = tTransfer → f.vc = 1 →
      f.group = r.group → f.seq / 256 = s.now % 64 → x = s.blockRx.get {} (State.blockKey r.group p) →
      State.blockFits x f.ref (f.seq % 256) = true → classFits f (s.blockCellsHeld r.group p f.ref) = true →
      s.staging.any (fun y => y.group == r.group && y.lap == State.vc1Lap && y.rail == r.rail && y.ref == f.ref
        && y.index == f.seq % 256 && y.port == p) = false → ∃ t, exec (.chunkCellReceived p slot d false b) s = .next t
        ∧ t.staging = s.staging ++ [{ group := r.group, lap := State.vc1Lap, rail := r.rail, ref := f.ref,
                                      index := f.seq % 256, tide := s.now, cell := padTo 256 b, port := p }]
        ∧ t.blockRx.get {} (State.blockKey r.group p) = State.blockAfter x f.ref (f.seq % 256) f.last
        ∧ t.ports = (s.heard p b).ports ∧ OnlyChanges [.ports, .staging, .blockRx, .events, .stats] s t)
    ∧ (∀ (p slot d : Nat) (bad : Bool) (b : Bytes) (r : ImgRun) (s : State), s.running = true → s.inService p = true →
      (bad = true ∨ cellOk (padTo 256 b) = false) → s.runAt p 1 slot = some r → r.vc = 0 → r.use ≤ 1 →
      (s.expected r slot).isSome = true → (s.port p).asked.any (fun a => a.1 == slot && a.2 == s.now) = false →
      ∃ t, exec (.chunkCellReceived p slot d bad b) s = .next t
        ∧ t.stats = ((if d = slot then s else s.bumpPort p .delimErr 1).bumpPort p .crcFail 1).stats
        ∧ t.port p = { s.port p with asked := (s.port p).asked ++ [(slot, s.now)]
                                     repeatOut := (s.port p).repeatOut ++ [(slot, s.now)] }
        ∧ OtherPorts p s t ∧ OnlyChanges [.ports, .events, .stats] s t)
    ∧ (∀ (p vc : Nat) (served : List (Nat × Bytes)) (s : State), s.running = true → s.inService p = true → vc ≤ 1 →
      served = ((s.wanted p vc).zip (s.useSlots p 0 vc 2 (fun _ => true))).filterMap
        (fun x => (s.keptCell p vc x.1).map (fun k => (x.2, asRepeat k.cell))) →
      ((s.port p).retxDone.contains vc = false → ∃ t, exec (.retransmission p vc) s = .next t
          ∧ t.port p = { s.port p with retxDone := (s.port p).retxDone ++ [vc]
                                       tx := served.foldl (fun m y => m.set y.1 y.2) (s.port p).tx }
          ∧ OtherPorts p s t ∧ OnlyChanges [.ports, .events, .stats] s t)
        ∧ ((s.port p).retxDone.contains vc = true → exec (.retransmission p vc) s = .next s))

/-! ### Queues and trigger counters -/

/-- Index writes by a view that reaches the queue: a QUEUE_TAIL within 1,024 of COMPL_HEAD and not behind QUEUE_FETCH is
taken, and a COMPL_HEAD between its old value and COMPL_TAIL; any other sets the queue's error bit, raises QUEUE_INDEX and
moves no index. While the group's partition is QUIESCING or QUIESCED a QUEUE_TAIL write is ignored, whatever its value, and
sets no bit (R304, R309). -/
def Obligations.QueueIndicesMoveWithinTheirRings : Prop :=
  ∀ (tag g : Nat) (v : Word32) (s : State), s.running = true → s.mayQueue tag g = true →
    (s.quiescing g = false → State.tailOk (s.queue g) v = true → ∃ t, exec (.queueTailWrite tag g v) s = .next t
        ∧ t.queue g = { s.queue g with tail := v } ∧ OtherQueues g s t ∧ OnlyChanges [.host, .queues] s t)
    ∧ (s.quiescing g = false → State.tailOk (s.queue g) v = false → ∃ t, exec (.queueTailWrite tag g v) s = .next t
        ∧ t.queue g = { s.queue g with tailErr := true }
        ∧ (∃ e ∈ t.events, e.type = 0x0021 ∧ e.group = some g ∧ e.subject = 0)
        ∧ OtherQueues g s t ∧ OnlyChanges [.host, .queues, .events] s t)
    ∧ (s.quiescing g = true → ∃ t, exec (.queueTailWrite tag g v) s = .next t ∧ OnlyChanges [.host] s t)
    ∧ (State.headOk (s.queue g).complHead (s.queue g).complTail v = true → ∃ t,
        exec (.complHeadWrite tag g v) s = .next t ∧ (t.queue g).complHead = v ∧ (t.queue g).tail = (s.queue g).tail
          ∧ (t.queue g).fetch = (s.queue g).fetch ∧ (t.queue g).ops = (s.queue g).ops
          ∧ (t.queue g).state = (s.queue g).state
          ∧ OtherQueues g s t ∧ OnlyChanges [.out, .host, .queues, .triggers, .events, .stats] s t)
    ∧ (State.headOk (s.queue g).complHead (s.queue g).complTail v = false → ∃ t,
        exec (.complHeadWrite tag g v) s = .next t ∧ t.queue g = { s.queue g with tailErr := true }
          ∧ (∃ e ∈ t.events, e.type = 0x0021 ∧ e.group = some g ∧ e.subject = 1)
          ∧ OtherQueues g s t ∧ OnlyChanges [.host, .queues, .events] s t)

/-- QUEUE_CTRL: START takes a STOPPED queue with good bases to RUNNING, STOP takes a RUNNING one to STOPPED, or to
STOPPING while something of it is outstanding until QUEUE_STOPPED, in a tide after that of the last completion waited for,
and CLEAR_ERR takes one in ERROR to STOPPED; each leaves every other queue alone.

A fetch takes the descriptor at QUEUE_FETCH and advances it by one; a fetch fault stops the queue in ERROR with the
address of the descriptor reported and fetches nothing; a completion record whose write failed takes COMPL_TAIL back to
it, and the queue stops in ERROR with the record's address reported (that the records after it wait again is the model's
reading, log entry 29). -/
def Obligations.QueuesStartStopAndFetch : Prop :=
  (∀ (tag g : Nat) (s : State), s.running = true →
      (s.mayQueue tag g = true → (s.queue g).state = .stopped → s.baseOk g (s.queue g).base 65536 = true →
          s.baseOk g (s.queue g).complBase 32768 = true → ∃ t, exec (.queueStart tag g) s = .next t
            ∧ (t.queue g).state = .running ∧ (t.queue g).complErr = false ∧ (t.queue g).base = (s.queue g).base
            ∧ OtherQueues g s t
            ∧ OnlyChanges [.out, .power, .ports, .books, .host, .queues, .triggers, .groups, .events, .stats] s t)
      ∧ (s.mayQueue tag g = true → (s.queue g).state = .running → ∃ t, exec (.queueStop tag g) s = .next t
            ∧ t.queue g = { s.queue g with
                state := if s.outstanding g then .stopping else .stopped, waitedAt := none }
            ∧ OtherQueues g s t ∧ OnlyChanges [.host, .queues] s t)
      ∧ (s.mayQueue tag g = true → (s.queue g).state = .error → ∃ t, exec (.clearErr tag g) s = .next t
            ∧ t.queue g = { s.queue g with state := .stopped } ∧ OtherQueues g s t ∧ OnlyChanges [.host, .queues] s t)
      ∧ ((s.queue g).state = .stopping → s.outstanding g = false → (s.queue g).waitedAt ≠ some s.now → ∃ t,
            exec (.queueStopped g) s = .next t
            ∧ t.queue g = { s.queue g with state := .stopped } ∧ OtherQueues g s t ∧ OnlyChanges [.queues] s t)
      ∧ ((s.queue g).state ≠ .stopping ∨ s.outstanding g = true ∨ (s.queue g).waitedAt = some s.now →
          exec (.queueStopped g) s = .next s))
    ∧ ((∀ (g : Nat) (b : Bytes) (s : State), s.running = true → s.mayFetch g = true → ∃ t,
        exec (.descriptorFetch g (.data b)) s = .next t ∧ (t.queue g).fetch = (s.queue g).fetch + 1
          ∧ (t.queue g).tail = (s.queue g).tail ∧ (t.queue g).state = (s.queue g).state ∧ OtherQueues g s t
          ∧ OnlyChanges [.power, .ports, .books, .queues, .triggers, .groups, .events, .stats] s t)
      ∧ (∀ (g : Nat) (s : State), s.running = true → s.mayFetch g = true → ∃ t,
        exec (.descriptorFetch g .fetchFault) s = .next t
          ∧ t.queue g = { s.queue g with state := .error, fetchErr := true }
          ∧ (∃ e ∈ t.events, e.type = 0x0022 ∧ e.group = some g
              ∧ e.subject = (s.queue g).base + 64 * ((s.queue g).fetch.toNat % 1024))
          ∧ OtherQueues g s t ∧ OnlyChanges [.queues, .events] s t)
      ∧ (∀ (g n k : Nat) (s : State), s.running = true → (s.queue g).complErr = false →
        k = ((s.queue g).complTail - BitVec.ofNat 32 n).toNat → 0 < k → k ≤ (s.queue g).written.length → ∃ t,
        exec (.descriptorFetch g (.complFault n)) s = .next t ∧ (t.queue g).state = .error
          ∧ (t.queue g).complErr = true ∧ (t.queue g).complTail = BitVec.ofNat 32 n
          ∧ (t.queue g).written = (s.queue g).written.take ((s.queue g).written.length - k)
          ∧ (t.queue g).due = (s.queue g).written.drop ((s.queue g).written.length - k) ++ (s.queue g).due
          ∧ (∃ e ∈ t.events, e.type = 0x0022 ∧ e.group = some g ∧ e.arg = 1
              ∧ e.subject = (s.queue g).complBase + 32 * (n % 1024))
          ∧ OtherQueues g s t ∧ OnlyChanges [.queues, .triggers, .events] s t)
      ∧ (∀ (g : Nat) (b : Bytes) (s : State), s.mayFetch g = false → exec (.descriptorFetch g (.data b)) s = .next s))

/-- Trigger counters: a write of TRIG_VALUE sets the one counter, an add adds modulo 2^32, from a view that reaches it; a
TRIGGER_ADD descriptor adds its amount and completes; an add of either kind to a counter of a DETACHED partition is dropped,
and a partition violation reported; and a FENCE completes once every earlier descriptor has. A
completion leaves exactly one record to write, and its operation has gone from the queue. -/
def Obligations.TriggersAndFencesComplete : Prop :=
  (∀ (tag n : Nat) (v : Word32) (s : State), s.running = true → n < 4096 → s.trigReach tag n = true → tag ≤ 8 → ∃ t,
      exec (.trigValueWrite tag n v) s = .next t ∧ t.triggers = s.triggers.set n v
        ∧ OnlyChanges [.power, .ports, .host, .triggers, .groups, .events, .stats] s t)
    ∧ (∀ (tag n : Nat) (v : Word32) (s : State), s.running = true → n < 4096 → s.trigReach tag n = true → tag ≤ 8 →
      s.trigDetached n = false → ∃ t, exec (.trigAdd tag n v) s = .next t
        ∧ t.triggers = s.triggers.set n (s.trigger n + v)
        ∧ OnlyChanges [.power, .ports, .host, .triggers, .groups, .events, .stats] s t)
    ∧ (∀ (tag n : Nat) (v : Word32) (s : State), s.running = true → n < 4096 → s.trigReach tag n = true → tag ≤ 8 →
      s.trigDetached n = true → ∃ t, exec (.trigAdd tag n v) s = .next t
        ∧ (∃ e ∈ t.events, e.type = 0x0020 ∧ e.subject = s.trigAddr tag n 4) ∧ OnlyChanges [.host, .events, .stats] s t)
    ∧ (∀ (g i : Nat) (op : QueueOp) (s : State), s.running = true → s.readyOp g i Desc.opTriggerAdd = some op →
      op.recorded = false → ∃ t r, exec (.triggerAdd g i) s = .next t
        ∧ (s.trigDetached (Desc.target op.raw) = false → t.triggers = s.triggers.set (Desc.target op.raw)
            (s.trigger (Desc.target op.raw) + BitVec.ofNat 32 (Desc.amount op.raw)))
        ∧ (s.trigDetached (Desc.target op.raw) = true →
            t.triggers = s.triggers ∧ ∃ e ∈ t.events, e.type = 0x0020 ∧ e.subject = i)
        ∧ r.index = i ∧ (t.queue g).due = State.insertDue r (s.queue g).due
        ∧ (∀ o ∈ (t.queue g).ops, o.index = i → Desc.isStep o.raw = true) ∧ OtherQueues g s t
        ∧ OnlyChanges [.ports, .queues, .triggers, .groups, .events, .stats] s t)
    ∧ (∀ (g i : Nat) (op : QueueOp) (s : State), s.running = true → s.readyOp g i Desc.opFence = some op →
      op.recorded = false →
      ((s.queue g).ops.takeWhile (fun o => o.index != i)).all (fun o => o.phase == .done) = true →
      ∃ t r, exec (.fence g i) s = .next t ∧ r.index = i ∧ (t.queue g).due = State.insertDue r (s.queue g).due
        ∧ (∀ o ∈ (t.queue g).ops, o.index = i → Desc.isStep o.raw = true) ∧ OtherQueues g s t
        ∧ OnlyChanges [.ports, .queues, .groups, .events, .stats] s t)

/-! ### Partitions, event rings -/

/-- The states of a partition: ATTACH of a DETACHED one with a valid entry brings its window to its reset values, its queues,
ring, snapshot page and trigger counters, and is taken at the next boundary, which makes it ATTACHED; DETACH of an ATTACHED
one begins to quiesce; FORCE_DETACH while quiescing stops its transfers; once quiet it is QUIESCED (what it waits for is the
model's reading, log entry 31), and at the next boundary DETACHED with its window at its reset values again. PRIV_GRANT
clears any bit and sets one only for a partition that the image makes privileged (log entry 32). -/
def Obligations.PartitionsAttachQuiesceAndDetach : Prop :=
  ∀ (tag p : Nat) (s : State), s.running = true → p < 8 →
    (s.tagPriv tag = true → s.pstate p = .detached → (s.im.partDesc p).valid = true → ∃ t,
        exec (.attach tag p) s = .next t ∧ p ∈ t.parts.attachAsked ∧ t.parts.state = s.parts.state
          ∧ t.ring p = {} ∧ t.snap (p + 1) = {} ∧ (∀ g ∈ s.partGroups p, t.queue g = {})
          ∧ (∀ n, (s.im.partDesc p).trigFirst ≤ n → n < (s.im.partDesc p).trigFirst + (s.im.partDesc p).trigCount →
              t.trigger n = 0)
          ∧ OnlyChanges [.ports, .image, .books, .parts, .host, .queues, .triggers, .groups, .areas, .rings,
              .events, .stats, .snaps] s t)
    ∧ (∀ env : TideEnv, ∃ t, exec (.tideBoundary env) s = .next t
          ∧ (t.time.boundaryOpen = false → t.parts.attachAsked = []
              ∧ (p ∈ s.parts.attachAsked → p < s.parts.state.length → t.pstate p = .attached)))
    ∧ (s.tagPriv tag = true → s.pstate p = .attached → p < s.parts.state.length → ∃ t,
        exec (.detach tag p) s = .next t ∧ t.pstate p = .quiescing ∧ (∀ q, q ≠ p → t.pstate q = s.pstate q)
          ∧ OnlyChanges [.parts, .host] s t)
    ∧ (s.tagPriv tag = true → s.pstate p = .quiescing → ∃ t, exec (.forceDetach tag p) s = .next t
          ∧ p ∈ t.parts.forced ∧ t.parts.state = s.parts.state
          ∧ (∀ x ∈ t.xfers, x.group ∉ s.partGroups p)
          ∧ OnlyChanges [.ports, .books, .parts, .host, .queues, .groups, .buckets, .staging, .stack, .badUnits, .xfers,
              .flows, .events, .stats] s t)
    ∧ (s.tagPriv tag = true → s.pstate p ≠ .attached → ∃ t, exec (.detach tag p) s = .next t
          ∧ t.parts = { s.parts with cmdIgnored := true } ∧ OnlyChanges [.parts, .host] s t)
    ∧ (s.pstate p = .quiescing → p < s.parts.state.length → s.quiet p = true → ∃ t, exec (.quiesced p) s = .next t
          ∧ t.pstate p = .quiesced ∧ t.parts.quietAt.get 0 p = s.time.ticks
          ∧ (∀ q, q ≠ p → t.pstate q = s.pstate q) ∧ OnlyChanges [.parts] s t)
    ∧ (s.pstate p = .quiesced → p < s.parts.state.length → s.parts.quietAt.get 0 p < s.time.ticks → ∃ t,
        exec (.detachComplete p) s = .next t
          ∧ t.pstate p = .detached ∧ t.ring p = {} ∧ t.snap (p + 1) = {} ∧ (∀ g ∈ s.partGroups p, t.queue g = {})
          ∧ (∀ n, (s.im.partDesc p).trigFirst ≤ n → n < (s.im.partDesc p).trigFirst + (s.im.partDesc p).trigCount →
              t.trigger n = 0)
          ∧ (∃ e ∈ t.events, e.type = 0x0023 ∧ e.subject = p)
          ∧ OnlyChanges [.out, .parts, .queues, .triggers, .areas, .rings, .events, .stats, .snaps] s t)
    ∧ (s.time.ticks ≤ s.parts.quietAt.get 0 p → exec (.detachComplete p) s = .next s)
    ∧ (∀ v : Word32, s.tagPriv tag = true → ∃ t, exec (.privGrantWrite tag v) s = .next t
          ∧ bitAt t.parts.privGrant.toNat p
              = (bitAt v.toNat p && (bitAt s.parts.privGrant.toNat p || (s.im.partDesc p).privileged))
          ∧ t.parts = { s.parts with privGrant := t.parts.privGrant } ∧ OnlyChanges [.parts, .host] s t)

/-- A register of the privileged window written by a tag without that view has no effect on the engine: what it can change
is the tag's latch and the report of the violation; and a tag past 8 changes nothing at all (the latch and the tags past 8 are
the model's reading, log entry 27). -/
def Obligations.PrivilegedRegistersRefuseOtherTags : Prop :=
  ∀ (c : Instr) (tag : Nat) (s : State), privilegedTag c = some tag → s.running = true → s.tagPriv tag = false →
    ∃ t, exec c s = .next t ∧ OnlyChanges [.out, .host, .events, .stats] s t ∧ (8 < tag → t = s)

/-- Event rings, for a view that reaches the ring: EVENT_CTRL with a size up to 10 sets ENABLE and SIZE and any other is
ignored and flagged, as is one that would enable a ring whose base breaks R311 (the latter the model's choice, log entry
118); EVENT_HEAD moves between its old value and EVENT_TAIL, and any other value is reported. A record goes to a ring that
is enabled and has room at BASE + 32 · (TAIL mod its size) with TAIL advanced by one, and its event leaves the list of those
that wait. A ring that is full or disabled drops the record: OVERFLOW is set and STAT_EVENT_LOST counts it. Once it is enabled
and has room, one EVENT_OVERFLOW record with the number dropped goes first (its TIDE is the model's choice, log entry 118). A
write that fails, of either, disables the ring with WRITE_FAULT, drops the record, and has EVENT_RING_FAULT name the record's
address (that a failed EVENT_OVERFLOW record counts as one more dropped is log entry 118). -/
def Obligations.EventRingsTakeRecords : Prop :=
  (∀ (tag r : Nat) (v : Word32) (s : State), s.running = true → s.mayRing tag r = true → field v.toNat 1 4 ≤ 10 →
      (bitAt v.toNat 0 = true → s.ringPlaced r (s.ring r).base (field v.toNat 1 4) = true) →
      ∃ t, exec (.eventCtrlWrite tag r v) s = .next t 
        ∧ t.ring r = { s.ring r with enable := bitAt v.toNat 0, size := field v.toNat 1 4 }
        ∧ (∀ q, q ≠ r → t.ring q = s.ring q) ∧ OnlyChanges [.host, .rings] s t)
    ∧ (∀ (tag r : Nat) (v : Word32) (s : State), s.running = true → s.mayRing tag r = true →
      10 < field v.toNat 1 4 ∨ (bitAt v.toNat 0 = true ∧ s.ringPlaced r (s.ring r).base (field v.toNat 1 4) = false) →
      ∃ t, exec (.eventCtrlWrite tag r v) s = .next t ∧ t.ring r = { s.ring r with ctrlIgnored := true }
        ∧ (∀ q, q ≠ r → t.ring q = s.ring q) ∧ OnlyChanges [.host, .rings] s t)
    ∧ (∀ (tag r : Nat) (v : Word32) (s : State), s.running = true → s.mayRing tag r = true →
      State.headOk (s.ring r).head (s.ring r).tail v = true → ∃ t, exec (.eventHeadWrite tag r v) s = .next t
        ∧ t.ring r = { s.ring r with head := v } ∧ (∀ q, q ≠ r → t.ring q = s.ring q) ∧ OnlyChanges [.host, .rings] s t)
    ∧ (∀ (tag r : Nat) (v : Word32) (s : State), s.running = true → s.mayRing tag r = true →
      State.headOk (s.ring r).head (s.ring r).tail v = false → ∃ t, exec (.eventHeadWrite tag r v) s = .next t
        ∧ (∃ e ∈ t.events, e.type = 0x0021 ∧ e.subject = 2) ∧ OnlyChanges [.host, .events] s t)
    ∧ (∀ (e : Event) (r : Nat) (bad : List Nat) (s : State), s.running = true → s.nextEvent = some e → e.rings = [r] →
      s.withEvent e = [e] → (r < 8 → s.pstate r ≠ .detached) → (∀ q, q < 9 → State.owesRecord (s.ring q) = false) →
      ((s.ring r).enable = true → (s.ring r).dropped = 0 → 0 < ringFree (s.ring r) → State.windowOf (s.ring r) e = none →
        (r ∉ bad → ∃ t b, exec (.eventRecordWrite bad) s = .next t
          ∧ t.out = s.out ++ [.eventRecord r
              ((s.ring r).base + 32 * ((s.ring r).tail.toNat % ringSize (s.ring r))) b]
          ∧ b = eventBytes e (((s.ring r).tail.toNat / ringSize (s.ring r) + 1) % 2) (Nat.min e.repeats 0xFFFFFFFF)
          ∧ (t.ring r).tail = (s.ring r).tail + 1 ∧ (t.ring r).head = (s.ring r).head ∧ t.events = s.events.erase e
          ∧ (∀ q, q ≠ r → t.ring q = s.ring q) ∧ OnlyChanges [.out, .rings, .events] s t)
        ∧ (r ∈ bad → ∃ t, exec (.eventRecordWrite bad) s = .next t
          ∧ t.ring r = { s.ring r with
              enable := false, writeFault := true, overflow := true, dropped := 1, dropTide := e.tide }
          ∧ (r < 8 → ∃ x ∈ t.events, x.type = 0x0024 ∧ x.severity = 3 ∧ x.arg = r
              ∧ x.subject = (s.ring r).base + 32 * ((s.ring r).tail.toNat % ringSize (s.ring r)))
          ∧ (∀ q, q ≠ r → t.ring q = s.ring q) ∧ OnlyChanges [.rings, .events, .stats] s t))
      ∧ ((s.ring r).enable = false ∨ ringFree (s.ring r) = 0 → ∃ t, exec (.eventRecordWrite bad) s = .next t
        ∧ t.ring r = { s.ring r with overflow := true, dropped := (s.ring r).dropped + 1, dropTide := e.tide
                                     windows := (t.ring r).windows }
        ∧ t.stats = (if r < 8 then s.bumpCopy .eventLost r 1 else s.bump .eventLost).stats
        ∧ (∀ q, q ≠ r → t.ring q = s.ring q) ∧ OnlyChanges [.rings, .events, .stats] s t))
    ∧ (∀ (r : Nat) (bad : List Nat) (s : State), s.running = true → s.nextEvent = none → r < 9 →
      State.owesRecord (s.ring r) = true → (∀ q, q < 9 → q ≠ r → State.owesRecord (s.ring q) = false) →
      (r ∉ bad → ∃ t b, exec (.eventRecordWrite bad) s = .next t
        ∧ t.out = s.out ++ [.eventRecord r
            ((s.ring r).base + 32 * ((s.ring r).tail.toNat % ringSize (s.ring r))) b]
        ∧ b = eventBytes { type := 0x0002, severity := 2, tide := (s.ring r).dropTide
                           arg := Nat.min (s.ring r).dropped 0xFFFFFFFF }
            (((s.ring r).tail.toNat / ringSize (s.ring r) + 1) % 2) 1
        ∧ t.ring r = { s.ring r with tail := (s.ring r).tail + 1, dropped := 0 }
        ∧ (∀ q, q ≠ r → t.ring q = s.ring q) ∧ OnlyChanges [.out, .rings] s t)
      ∧ (r ∈ bad → ∃ t, exec (.eventRecordWrite bad) s = .next t
        ∧ t.ring r = { s.ring r with
            enable := false, writeFault := true, overflow := true, dropped := (s.ring r).dropped + 1 }
        ∧ (r < 8 → ∃ x ∈ t.events, x.type = 0x0024 ∧ x.severity = 3 ∧ x.arg = r
            ∧ x.subject = (s.ring r).base + 32 * ((s.ring r).tail.toNat % ringSize (s.ring r)))
        ∧ (∀ q, q ≠ r → t.ring q = s.ring q) ∧ OnlyChanges [.rings, .events, .stats] s t))

/-! ### Register accesses, snapshots, inspection -/

/-- A register access is judged before it acts: one that is not of 32 or 64 bits, or not naturally aligned, is counted as
malformed, and one that the tag's view does not reach is a violation; neither has another effect, and a read answers zero.
A good read answers the register's value and leaves all but latches as it was, save the two registers whose reading has an
effect. In Hold only the four power registers answer, to tag 8 (log entry 10). That a malformed access is judged before the
view is the model's reading (log entry 27).

A write of a register that has a command of its own is that command: the registers of partitions, self-test
rotation, calibration data and context selection. -/
def Obligations.RegisterAccessesAreJudgedAndRouted : Prop :=
  ((∀ (tag a n : Nat) (v : Word64) (s : State), s.running = true → tag ≤ 8 → State.goodAccess a n = false → ∃ t,
        exec (.registerWrite tag a n v) s = .next t ∧ OnlyChanges [.host, .events, .stats] s t)
      ∧ (∀ (tag a n : Nat) (v : Word64) (s : State), s.running = true → tag ≤ 8 → State.goodAccess a n = true →
        s.mayReach tag a = false → ∃ t, exec (.registerWrite tag a n v) s = .next t
          ∧ (∃ e ∈ t.events, e.type = 0x0020 ∧ e.subject = a) ∧ OnlyChanges [.host, .events, .stats] s t)
      ∧ (∀ (tag a n : Nat) (s : State), s.running = true → tag ≤ 8 → (State.goodAccess a n = false
          ∨ s.mayReach tag a = false) →
        ∃ t, exec (.registerRead tag a n) s = .next t ∧ t.out = s.out ++ [.readData tag 0]
          ∧ OnlyChanges [.out, .host, .events, .stats] s t)
      ∧ (∀ (tag a : Nat) (s : State), s.running = true → a % 4 = 0 → s.mayReach tag a = true →
        s.latched tag a = none → ∃ t, exec (.registerRead tag a 4) s = .next t
          ∧ t.out = s.out ++ [.readData tag ((s.touch tag).word a)] ∧ OnlyChanges [.out, .cal, .host, .snaps] s t)
      ∧ (∀ (tag a n : Nat) (v : Word64) (s : State), s.alive = true → s.power.mode = .hold →
        (tag ≠ 8 ∨ State.goodAccess a n = false ∨ State.holdAnswers a = false) →
        exec (.registerWrite tag a n v) s = .next s ∧ exec (.registerRead tag a n) s = .next s)
      ∧ (∀ (tag : Nat) (v : Word64) (s : State), s.running = true → s.tagPriv tag = true → ∃ t,
        exec (.registerWrite tag 0x18 8 v) s = .next t ∧ t.ident = { s.ident with scratch := v }
          ∧ OnlyChanges [.ident, .host] s t))
    ∧ (∀ (tag : Nat) (v : Word64) (w : Word32) (s : State), s.running = true → v.toNat % 2 ^ 32 = w.toNat →
      s.tagPriv tag = true →
      exec (.registerWrite tag 0x004000 4 v) s = exec (.privGrantWrite tag w) s
        ∧ exec (.registerWrite tag 0x006000 4 v) s = exec (.bistCtrlWrite tag w) s
        ∧ exec (.registerWrite tag 0x002004 4 v) s = exec (.calDataWrite tag w) s
        ∧ exec (.registerWrite tag 0x002010 4 v) s = exec (.calReload tag w) s
        ∧ exec (.registerWrite tag 0x0A0000 4 v) s = exec (.ctxSelWrite tag w) s
        ∧ exec (.registerWrite tag 0x063000 4 v) s = exec (.statClear tag none w) s
        ∧ exec (.registerWrite tag 0x006008 4 v) s = exec (.maintReq tag w) s
        ∧ exec (.registerWrite tag 0x00500C 4 v) s = exec (.warmRestart tag w) s)

/-- Snapshots and inspection: SNAP_REQ asks for a latch. At the next boundary, in that boundary's order after its effects,
activations and handover and before its calibration values (that these may come by commands of the tide is the model's
choice, log entry 103), the page takes every selected register as it stands there, with the tide; one that its view does not
reach, or that is no multiple of 8, is taken as 0 and noted invalid. What was taken then stands in the page's registers, and
the request is no longer pending (that a command shows it is the model's choice, log entry 36).
TIME_SNAPSHOT answers the tide and freezes its seconds and nanoseconds; STAT_CLEAR clears the counters that its bits name
and no others; CTX_SEL asks for a copy and CTX_COPY makes it at the next boundary. -/
def Obligations.SnapshotsAndInspectionReadTheBoundary : Prop :=
  (∀ (tag k : Nat) (v : Word32) (s : State), s.running = true → s.maySnap tag k = true → v.toNat % 2 = 1 → ∃ t,
      exec (.snapReq tag k v) s = .next t
        ∧ t.snap k = { s.snap k with pending := true,
                                     askedAt := if (s.snap k).pending then (s.snap k).askedAt else s.time.ticks }
        ∧ (∀ q, q ≠ k → t.snap q = s.snap q) ∧ OnlyChanges [.host, .snaps] s t)
    ∧ (∀ (k : Nat) (s : State), s.latchTurn = true → k ≤ 8 → s.pageDue k = true → ∃ c,
      s.settle.snap k = { s.snap k with caught := some c } ∧ c.tag = s.time.tide
        ∧ ∀ i a, i < 16 → (s.snap k).sel.get 0xFFFFFFFF i = a →
          (a % 8 = 0 → s.pageReaches k a = true → c.vals.get 0 i = s.latchTime.word64 a ∧ bitAt c.invalid i = false)
          ∧ (a ≠ 0xFFFFFFFF → a % 8 ≠ 0 ∨ s.pageReaches k a = false → c.vals.get 0 i = 0 ∧ bitAt c.invalid i = true))
    ∧ (∀ (env : TideEnv) (s : State), s.running = true → ∃ t, exec (.tideBoundary env) s = .next t
      ∧ (t.time.boundaryOpen = false → ∀ k, k ≤ 8 → (t.snap k).pending = true → (t.snap k).askedAt < t.time.ticks →
          ∃ c, (t.snap k).caught = some c))
    ∧ (∀ (k : Nat) (s : State), s.running = true →
      (k ≤ 8 → ∀ c, (s.snap k).caught = some c → ∃ t, exec (.snapshotLatch k) s = .next t
        ∧ t.snap k = { s.snap k with caught := none, pending := false, invalid := c.invalid, tag := c.tag, vals := c.vals }
        ∧ (∀ q, q ≠ k → t.snap q = s.snap q) ∧ OnlyChanges [.snaps] s t)
      ∧ (8 < k ∨ (s.snap k).caught = none → exec (.snapshotLatch k) s = .next s))
    ∧ (∀ (tag k : Nat) (s : State), s.running = true → s.maySnap tag k = true → ∃ t,
      exec (.timeSnapshotRead tag k) s = .next t ∧ t.out = s.out ++ [.readData tag s.time.snap.tide]
        ∧ t.snap k = { s.snap k with frozen := some s.time.snap } ∧ (∀ q, q ≠ k → t.snap q = s.snap q)
        ∧ OnlyChanges [.out, .host, .snaps] s t)
    ∧ (∀ (tag : Nat) (v : Word32) (s : State), s.running = true → s.tagPriv tag = true → ∃ t,
      exec (.statClear tag none v) s = .next t
        ∧ t.stats.engine = (if bitAt v.toNat 0 then [] else s.stats.engine)
        ∧ t.stats.port = (if bitAt v.toNat 1 then [] else s.stats.port)
        ∧ t.stats.part = (if bitAt v.toNat 2 then [] else s.stats.part) ∧ OnlyChanges [.host, .stats] s t)
    ∧ (∀ (tag k : Nat) (v : Word32) (s : State), s.running = true → s.maySnap tag k = true → 1 ≤ k →
      v.toNat % 2 = 1 → ∃ t, exec (.statClear tag (some k) v) s = .next t ∧ t.stats.engine = s.stats.engine
        ∧ t.stats.port = s.stats.port ∧ (∀ i, i < 32 → t.stats.part.get {} (32 * (k - 1) + i) = {})
        ∧ OnlyChanges [.host, .stats] s t)
    ∧ (∀ (tag : Nat) (v : Word32) (s : State), s.running = true → s.tagPriv tag = true → ∃ t,
      exec (.ctxSelWrite tag v) s = .next t ∧ t.ctxView.asked = true ∧ t.ctxView.ready = false
        ∧ t.ctxView.data = s.ctxView.data
        ∧ t.ctxView.askedAt = (if s.ctxView.asked then s.ctxView.askedAt else s.time.ticks)
        ∧ OnlyChanges [.host, .ctxView] s t)
    ∧ (∀ s : State, s.running = true → s.ctxView.asked = true → s.boundaryDone s.ctxView.askedAt = true → ∃ t,
      exec .ctxCopy s = .next t
        ∧ t.ctxView.ready = true ∧ t.ctxView.asked = false
        ∧ (∀ x, s.selectedCtx = some x → t.ctxView.data = ctxBytes x ∧ t.ctxView.invalid = false)
        ∧ (s.selectedCtx = none → t.ctxView.data = []) ∧ OnlyChanges [.ctxView] s t)

/-! ### Maintenance, test access -/

/-- Tokens: a request for a free resource is GRANTED and its token held, one in conflict is DEFERRED with the holder named,
a remeasurement with the one in progress on its port (the latter the model's choice, log entry 119); RELEASE leaves no token
of the hall controller and an idle request; the lapse after 2,048 boundaries ends calibration and PRBS tokens and no younger
ones; a sweep begins with the next reads of patrol, in the next tide where those of its own are done (the model's reading, log
entry 38), and one that has run its course gives its token back.

The test access port and local frames: with MOD_RESET_N high only BYPASS, IDCODE, SAMPLE/PRELOAD and the read are accepted
and any other instruction acts as BYPASS (log entry 41; what each shifts out, log entry 100); each instruction shifts its
data out, IDCODE its 32 bits; TRST_N low holds the port in BYPASS. A port without the tide frame sends its local frame of
1,024 cells, its mark with TIDE_VALID 0 in slot 0, under its own frame count, which advances (that a frame leaves as a whole
at its end is the model's choice, log entry 90). -/
def Obligations.TokensTestPortAndLocalFrames : Prop :=
  ((∀ (tag a n : Nat) (v : Word32) (s : State), s.running = true → s.tagPriv tag = true → s.maint.status = 0 →
        v.toNat = a + 16 * n → 1 ≤ a → a ≤ 3 → n < 24 → s.deferral a n = none → ∃ t, exec (.maintReq tag v) s = .next t
          ∧ t.maint.status = 1 ∧ t.maint.asked = none
          ∧ t.maint.tokens = s.maint.tokens ++ [{ activity := a, resource := n, granted := s.time.ticks, ofHall := true }]
          ∧ OtherPorts n s t ∧ OnlyChanges [.ports, .host, .maint] s t)
      ∧ (∀ (tag n : Nat) (v : Word32) (s : State), s.running = true → s.tagPriv tag = true → s.maint.status = 0 →
        v.toNat = 4 + 16 * n + 0x8000 → n < 4 → s.conflictOf 4 n = none → ∃ t, exec (.maintReq tag v) s = .next t
          ∧ t.maint.status = 1
          ∧ t.maint.sweep = some (n, if s.maint.lastScrub = some s.time.ticks then s.time.ticks + 1 else s.time.ticks)
          ∧ t.maint.tokens = s.maint.tokens ++ [{ activity := 4, resource := n, granted := s.time.ticks, ofHall := true }]
          ∧ OnlyChanges [.host, .maint] s t)
      ∧ (∀ (tag a n : Nat) (h : Nat × Nat) (v : Word32) (s : State), s.running = true → s.tagPriv tag = true →
        s.maint.status = 0 → v.toNat = a + 16 * n → 1 ≤ a → a ≤ 3 → n < 24 → s.deferral a n = some h → ∃ t,
        exec (.maintReq tag v) s = .next t ∧ t.maint.status = 2 ∧ t.maint.conflict = h.1 ∧ t.maint.asked = some (a, n)
          ∧ t.maint.tokens = s.maint.tokens ∧ OnlyChanges [.host, .maint] s t)
      ∧ (∀ (tag : Nat) (s : State), s.running = true → s.tagPriv tag = true → ∃ t, exec (.maintRelease tag) s = .next t
          ∧ t.maint.status = 0 ∧ t.maint.asked = none
          ∧ t.maint.tokens = s.maint.tokens.filter (fun x => !x.ofHall) ∧ OnlyChanges [.ports, .host, .maint] s t)
      ∧ (∀ s : State, s.running = true → ∃ t, exec .tokenLapse s = .next t
          ∧ t.maint.tokens = s.maint.tokens.filter (fun x =>
              !((x.activity == 1 || x.activity == 3) && decide (x.granted + 2048 ≤ s.time.ticks)))
          ∧ OnlyChanges [.ports, .maint] s t)
      ∧ (∀ (u n : Nat) (s : State), s.running = true → s.maint.sweep = some (u, n) → n + 65536 ≤ s.time.ticks →
        (∃ x ∈ s.maint.tokens, x.activity = 4) → ∃ t, exec .sweepComplete s = .next t ∧ t.maint.sweep = none
          ∧ (∀ x ∈ t.maint.tokens, x.activity ≠ 4) ∧ OnlyChanges [.ports, .maint] s t))
    ∧ ((∀ (n : Nat) (bits : List Bool) (s : State), s.power.mode ≠ .off → s.tap.trstLow = false →
        s.power.modResetLow = false → exec (.testAccessPortInstruction (.instruction (.other n) bits)) s
          = .next { s with tap := { s.tap with instr := .bypass }, out := s.out ++ [.tapData .bypass [false]] })
      ∧ (∀ (i : TapInstr) (bits : List Bool) (s : State), s.power.mode ≠ .off → s.tap.trstLow = false →
        (∀ n, i ≠ .other n) → ∃ o, exec (.testAccessPortInstruction (.instruction i bits)) s
            = .next { s with tap := { s.tap with instr := i }, out := s.out ++ [.tapData i o] }
          ∧ (i = .idcode → o = tapOrder 32 0x15A3476B))
      ∧ (∀ s : State, s.power.mode ≠ .off → exec (.testAccessPortInstruction (.trst true)) s
          = .next { s with tap := { instr := .bypass, trstLow := true } })
      ∧ (∀ (i : TapInstr) (bits : List Bool) (s : State), s.tap.trstLow = true →
        exec (.testAccessPortInstruction (.instruction i bits)) s = .next s)
      ∧ (∀ (p : Nat) (s : State), s.running = true → s.localFrame p = true → ∃ t cells lanes,
        exec (.localFrameBoundary p) s = .next t ∧ (t.port p).localCount = ((s.port p).localCount + 1) % 2 ^ 64
          ∧ t.out = s.out ++ [.frame p false ((s.port p).localCount % 2 ^ 32) cells lanes] ∧ cells.length = 1024
          ∧ lanes.length = 4
          ∧ ((s.port p).mark = none →
              ∃ w a, cells.head? = some (fillCell (plainCell tMark 3 0 (s.markOf p false)) w a))
          ∧ s.markFlags false % 2 = 0 ∧ OtherPorts p s t ∧ OnlyChanges [.out, .ports] s t))

/-- Self-test and scrub: BIST_CTRL turns the rotation on or off; a slice whose signature is the image's advances the standby
cove's test by one, or after the last passes it; one whose signature differs runs again, with the failure noted, and if that
differs too retires the cove; at a boundary with nothing due before it (log entry 103) the standby role of a bay that has
passed goes to the next cove, and the outgoing standby takes that cove's logical position; patrol reads 1,024 units a tide
and counts a sweep where it reaches the end; at the tide's end what it corrected is counted, and of what it found
uncorrectable a unit of a region is bad with its bytes as they are and one of no region is written zero (the model's
reading, log entry 39); a unit that scheduled work has written in the tide is none of these.

Failing units: at a tide boundary with nothing due before it that is a step boundary of the bay (what that is, the model's
reading, log entry 40) a faulty cove is retired and its standby takes its logical position, leaving the bay without one; a bay with no standby left is retired. -/
def Obligations.SelfTestScrubAndRetirementAdvance : Prop :=
  ((∀ (tag : Nat) (v : Word32) (s : State), s.running = true → s.tagPriv tag = true → ∃ t,
        exec (.bistCtrlWrite tag v) s = .next t ∧ t.maint = { s.maint with rotate := bitAt v.toNat 0 }
          ∧ OnlyChanges [.host, .maint] s t)
      ∧ (∀ (sig : Word32) (s : State), s.running = true → s.sliceDue s.turnBay = true →
        sig.toNat = s.im.bist.coveSig.getD (s.bay s.turnBay).slice 0 → (s.bay s.turnBay).slice ≠ 511 → ∃ t,
        exec (.bistSlice sig) s = .next t ∧ t.maint.lastSlice = some s.time.ticks
          ∧ t.bay s.turnBay = { s.bay s.turnBay with slice := (s.bay s.turnBay).slice + 1, failed := false }
          ∧ (∀ b, b ≠ s.turnBay → t.bay b = s.bay b) ∧ OnlyChanges [.maint] s t)
      ∧ (∀ (sig : Word32) (s : State), s.running = true → s.sliceDue s.turnBay = true →
        sig.toNat = s.im.bist.coveSig.getD 511 0 → (s.bay s.turnBay).slice = 511 → ∃ t,
        exec (.bistSlice sig) s = .next t ∧ t.maint.lastSlice = some s.time.ticks
          ∧ t.bay s.turnBay = { s.bay s.turnBay with slice := 0, failed := false, passed := true }
          ∧ (∀ b, b ≠ s.turnBay → t.bay b = s.bay b) ∧ OnlyChanges [.events, .stats, .maint] s t)
      ∧ (∀ (sig : Word32) (s : State), s.running = true → s.sliceDue s.turnBay = true →
        sig.toNat ≠ s.im.bist.coveSig.getD (s.bay s.turnBay).slice 0 →
        ((s.bay s.turnBay).failed = false → ∃ t, exec (.bistSlice sig) s = .next t
          ∧ t.bay s.turnBay = { s.bay s.turnBay with failed := true }
          ∧ t.maint.lastFail = s.turnBay + (s.bay s.turnBay).standby * 64 + (s.bay s.turnBay).slice * 1024
              + sig.toNat * 4294967296
          ∧ t.maint.lastSlice = some s.time.ticks ∧ (∀ b, b ≠ s.turnBay → t.bay b = s.bay b)
          ∧ OnlyChanges [.maint] s t)
        ∧ ((s.bay s.turnBay).failed = true → ∃ t, exec (.bistSlice sig) s = .next t
          ∧ (s.turnBay, (s.bay s.turnBay).standby) ∈ t.power.dumap.coves
          ∧ t.bay s.turnBay = { s.bay s.turnBay with failed := false, absent := true }
          ∧ t.power.faults.coverageLost = true ∧ t.power.faults.coveRetired = true
          ∧ (∃ e ∈ t.events, e.type = 0x0061 ∧ e.subject = s.turnBay + (s.bay s.turnBay).standby * 64)
          ∧ (∀ b, b ≠ s.turnBay → t.bay b = s.bay b) ∧ OnlyChanges [.power, .ports, .events, .stats, .maint] s t))
      ∧ (∀ (sig : Word32) (s : State), s.running = true → s.sliceDue s.turnBay = false →
        exec (.bistSlice sig) s = .next s)
      ∧ (∀ (b n : Nat) (s : State), s.running = true → s.handoverDue b = true →
        n = ((s.bay b).standby + 1) % 16 → ∃ t, exec (.standbyHandover b) s = .next t
          ∧ t.bay b = { s.bay b with
              standby := n, slice := 0, failed := false, passed := false,
              phys := (s.bay b).phys.map (fun c => if c = n then (s.bay b).standby else c) }
          ∧ (∀ c, c ≠ b → t.bay c = s.bay c)
          ∧ OnlyChanges [.out, .power, .time, .cal, .ports, .books, .parts, .queues, .groups, .areas, .events, .stats, .snaps,
              .maint] s t)
      ∧ (∀ (b : Nat) (s : State), s.handoverDue b = false → exec (.standbyHandover b) s = .next s)
      ∧ (∀ (fixed bad : List Nat) (s : State), s.running = true → s.maint.lastScrub ≠ some s.time.ticks → ∃ t,
        exec (.patrolScrub fixed bad) s = .next t ∧ t.maint.lastScrub = some s.time.ticks
          ∧ (s.maint.scrubAt + 1024 < 134217728 →
              t.maint.scrubAt = s.maint.scrubAt + 1024 ∧ t.maint.sweeps = s.maint.sweeps)
          ∧ (134217728 ≤ s.maint.scrubAt + 1024 →
              t.maint.scrubAt = 0 ∧ t.maint.sweeps = (s.maint.sweeps + 1) % 2 ^ 32)
          ∧ (∀ u, u ∈ t.maint.found ↔ (u ∈ s.badUnits ∨ u ∈ bad)
              ∧ ((s.maint.scrubAt ≤ u ∧ u < s.maint.scrubAt + 1024) ∨ s.sweepReads u = true))
          ∧ (∀ u, u ∈ t.maint.fixed ↔ u ∈ fixed
              ∧ ((s.maint.scrubAt ≤ u ∧ u < s.maint.scrubAt + 1024) ∨ s.sweepReads u = true))
          ∧ OnlyChanges [.maint] s t)
      ∧ (∀ (n : Nat) (s t : State), s.maint.found = [] → n = s.maint.fixed.countP (fun u => !s.maint.wrote.contains u) →
        t = s.scrubOutcome → t.maint = { s.maint with fixed := [], wrote := [] }
          ∧ t.stats = (if n = 0 then s else s.bumpBy .stackCe n).stats ∧ OnlyChanges [.events, .stats, .maint] s t)
      ∧ (∀ (u : Nat) (s t : State), s.maint.found = [u] → s.maint.fixed = [] → t = s.scrubOutcome →
        (u ∈ s.maint.wrote → t = { s with maint := { s.maint with found := [], wrote := [] } })
        ∧ (u ∉ s.maint.wrote → s.inRegion u = true → u ∈ t.badUnits ∧ t.power.faults.stackUE = true
          ∧ (∃ e ∈ t.events, e.type = 0x0063 ∧ e.subject = 1 + u * 256)
          ∧ OnlyChanges [.power, .badUnits, .events, .stats, .maint] s t)
        ∧ (u ∉ s.maint.wrote → s.inRegion u = false → u ∉ t.badUnits
          ∧ (∀ a, t.stack.read a = if a / 256 = u then 0 else s.stack.read a)
          ∧ OnlyChanges [.stack, .badUnits, .events, .stats, .maint] s t))
      ∧ (∀ (fixed bad : List Nat) (s : State), s.maint.lastScrub = some s.time.ticks →
        exec (.patrolScrub fixed bad) s = .next s))
    ∧ ((∀ (b cove : Nat) (s : State), s.running = true → s.maint.takeovers.find? (fun x => x.1 == b) = some (b, cove) →
        s.takeoverDue b = true → s.hasStandby b = true → ∃ t, exec (.coveTakeover b) s = .next t
          ∧ (b, cove) ∈ t.power.dumap.coves ∧ (t.bay b).absent = true ∧ t.power.faults.coveRetired = true
          ∧ (t.bay b).phys = (s.bay b).phys.map (fun c => if c = cove then (s.bay b).standby else c)
          ∧ t.power.faults.coverageLost = true ∧ (b, cove) ∉ t.maint.takeovers
          ∧ OnlyChanges [.out, .power, .time, .cal, .ports, .books, .parts, .queues, .groups, .areas, .events, .stats, .snaps,
              .maint] s t)
      ∧ (∀ (b cove : Nat) (s : State), s.running = true → s.maint.takeovers.find? (fun x => x.1 == b) = some (b, cove) →
        s.takeoverDue b = true → s.hasStandby b = false → ∃ t, exec (.coveTakeover b) s = .next t
          ∧ b ∈ t.maint.retiring ∧ (b, cove) ∉ t.maint.takeovers
          ∧ OnlyChanges [.out, .power, .time, .cal, .ports, .books, .parts, .queues, .groups, .areas, .events, .stats, .snaps,
              .maint] s t)
      ∧ (∀ (b : Nat) (s : State), s.takeoverDue b = false → exec (.coveTakeover b) s = .next s)
      ∧ (∀ (b : Nat) (s : State), s.running = true → s.maint.retiring.contains b = true → s.atStepBoundary b = true → ∃ t,
        exec (.bayRetirement b) s = .next t ∧ b ∈ t.power.dumap.bays ∧ t.power.faults.bayRetired = true
          ∧ b ∉ t.maint.retiring ∧ (∃ e ∈ t.events, e.type = 0x0062 ∧ e.subject = b)
          ∧ OnlyChanges [.power, .ports, .groups, .events, .stats, .maint] s t))

/-! ### Descriptors of a step -/

/-- The check tide of an exchange whose rails, descriptor and admission pass: one that is ready runs with the plan's start,
the bucket's latched scale and fall-back, the ring's size and rails, and the chunks it carries; one that may vary and is
not ready is deferred. The fabric reads of its first chunk are issued in the tide before its start: at the check where that
is the next tide, else with the later actions of the boundary into it. The reads leave on the fabric port of the bay that
the chunk's hop has. An exchange that is not due changes nothing.

The check in its order ends the step, with a token that names no chunk: with 0x02 where the rails are not usable, with 0x01
where a descriptor that is not ready may not vary, with 0x08 where it reaches outside its partition, with 0x06 where R142
refuses it or it is not admitted. Under SLIP the start comes later by the slip of the group's ready barriers, and the check
waits for the exchange's own (that it waits for those of exchanges planned no later too is the model's choice, log entry
123). -/
def Obligations.ExchangesLaunchAtTheirCheck : Prop :=
  (∀ (c : Instr) (g i k : Nat) (op : QueueOp) (r : ImgRing) (s : State),
      (c = .exchange g i ∧ k = Desc.opExchange) ∨ (c = .sparseExchange g i ∧ k = Desc.opSparse) → s.running = true →
      (s.queue g).ops.find? (fun o => o.index == i && Desc.opcode o.raw == k) = some op → s.checkDue g op = true →
      s.ringOf g = some r →
      (∀ d : ImgBucket, s.railsOk g = true → s.descFault g op.raw = none →
        s.im.bucketDesc (Desc.bucket op.raw) = some d → s.admitted g d r.n r.rails = true → s.carried g d ≠ [] →
        (s.opReady g op = true ∨ s.slipGroup g = true → ∃ t o l, exec c s = .next t
          ∧ (t.queue g).ops.find? (fun x => x.index == i && Desc.opcode x.raw == k) = some o ∧ o.launch = some l
          ∧ o.phase = .running ∧ o.readyAt = some s.now ∧ o.varied = (op.varied || (s.group g).sigma != 0)
          ∧ l.bucket = d.bucket ∧ l.s0 = s.plannedStart g d
          ∧ l.et = (s.bucket d.bucket).et ∧ l.fallback = (s.bucket d.bucket).fallback ∧ l.n = r.n ∧ l.rails = r.rails
          ∧ l.deferred = false ∧ l.chunks = s.carried g d ∧ l.waiting = s.carried g d ∧ l.replays = []
          ∧ t.out = s.out ++ (if s.plannedStart g d = s.now + 1 then
              [s.firstReads (OpView.mk g op l d ((s.ringPos g).getD 0))] else [])
          ∧ OtherQueues g s t ∧ OtherGroups g s t ∧ OnlyChanges [.out, .books, .queues, .groups] s t)
        ∧ (s.opReady g op = false → s.slipGroup g = false → Desc.mayVary op.raw = true → ∃ t o l, exec c s = .next t
          ∧ (t.queue g).ops.find? (fun x => x.index == i && Desc.opcode x.raw == k) = some o ∧ o.launch = some l ∧ o.phase = .deferred
          ∧ o.varied = true ∧ l.deferred = true ∧ l.chunks = s.carried g d ∧ t.out = s.out
          ∧ OtherQueues g s t ∧ OtherGroups g s t ∧ OnlyChanges [.books, .queues, .groups, .events, .stats] s t))
      ∧ (∀ code : Nat,
        (s.railsOk g = false ∧ code = 0x02)
          ∨ (s.railsOk g = true ∧ s.opReady g op = false ∧ s.slipGroup g = false ∧ Desc.mayVary op.raw = false
              ∧ code = 0x01)
          ∨ (s.railsOk g = true ∧ (s.opReady g op = true ∨ s.slipGroup g = true ∨ Desc.mayVary op.raw = true)
              ∧ ((s.descViolation g op.raw = true ∧ code = 0x08)
                ∨ (s.descViolation g op.raw = false ∧ code = 0x06
                    ∧ (Desc.reservedOk op.raw = false ∨ s.im.bucketDesc (Desc.bucket op.raw) = none
                      ∨ s.selModeBad op.raw = true
                      ∨ (∃ d, s.im.bucketDesc (Desc.bucket op.raw) = some d
                          ∧ (d.group ≠ g ∨ d.sparse ≠ (k == Desc.opSparse)))
                      ∨ (∃ x y, s.descRegions op.raw = [x, y] ∧ overlap x.1 x.2 y.1 y.2 = true)))
                ∨ (s.descFault g op.raw = none ∧ code = 0x06
                    ∧ ∃ d, s.im.bucketDesc (Desc.bucket op.raw) = some d ∧ s.admitted g d r.n r.rails = false))) →
        ∃ t, exec c s = .next t ∧ (t.group g).abort = some (freshAbort code 0xFFFFF 0xFFF s.now)
          ∧ (code = 0x08 → ∃ e ∈ t.events, e.type = 0x0020 ∧ e.subject = i)
          ∧ OtherGroups g s t ∧ OnlyChanges [.ports, .groups, .events, .stats] s t))
    ∧ (∀ (g : Nat) (d : ImgBucket) (s : State), s.plannedStart g d = (s.group g).base + d.offsetD + (s.group g).sigma)
    ∧ (∀ (g i k : Nat) (c : Instr) (op : QueueOp) (d : ImgBucket) (s : State),
      (c = .exchange g i ∧ k = Desc.opExchange) ∨ (c = .sparseExchange g i ∧ k = Desc.opSparse) →
      (s.queue g).ops.find? (fun o => o.index == i && Desc.opcode o.raw == k) = some op → s.slipGroup g = true →
      s.im.bucketDesc (Desc.bucket op.raw) = some d → op.slip = none ∨ s.now + 2 < s.plannedStart g d →
      exec c s = .next s)
    ∧ (∀ (c : Instr) (g i k : Nat) (op : QueueOp) (s : State),
      (c = .exchange g i ∧ k = Desc.opExchange) ∨ (c = .sparseExchange g i ∧ k = Desc.opSparse) →
      (s.queue g).ops.find? (fun o => o.index == i && Desc.opcode o.raw == k) = some op → s.checkDue g op = false →
      exec c s = .next s)
    ∧ (∀ (env : TideEnv) (s : State), s.running = true → ∃ t, exec (.tideBoundary env) s = .next t
      ∧ (t.time.boundaryOpen = false → ∀ (g i : Nat) (v : OpView), t.opAt g i = some v → t.stepRuns g = true →
          v.op.phase = .running → v.l.s0 = t.now + 1 → v.l.chunks ≠ [] → t.firstReads v ∈ t.out))

/-- A BARRIER or SCALAR that is ready, whose turn has come and whose descriptor passes runs, and the member's operand of its
instance is given: nothing for a barrier, OPERAND for a scalar. A COMMIT that no fence holds runs, and
the group enters RELEASED exactly where it was in EXCHANGE and every other operation of the step, each under an index other
than its own, has completed. -/
def Obligations.StepDescriptorsGiveTheirOperands : Prop :=
  (∀ (c : Instr) (g i k kind v : Nat) (op : QueueOp) (s : State),
      (c = .barrier g i ∧ k = Desc.opBarrier ∧ kind = kBarrier ∧ v = 0)
        ∨ (c = .scalar g i ∧ k = Desc.opScalar ∧ kind = kScalar ∧ v = Desc.operand op.raw) → s.running = true →
      (s.stepOps g).find? (fun o => o.index == i && Desc.opcode o.raw == k) = some op → s.stepRuns g = true →
      op.phase = .waiting → s.opReady g op = true → s.expressWaits g i = false → s.descFault g op.raw = none →
      s.heldMismatch g op = false → ∃ t e, exec c s = .next t
        ∧ t.queue g = { s.queue g with ops := (s.queue g).ops.map (fun o =>
            if o.index = i then { o with phase := .running, readyAt := some s.now } else o) }
        ∧ e ∈ (t.group g).express ∧ e.kind = kind ∧ e.tag = op.seq % 2 ^ 14 ∧ e.own = some (BitVec.ofNat 32 v)
        ∧ OtherQueues g s t ∧ OtherGroups g s t ∧ OnlyChanges [.ports, .queues, .groups, .events, .stats] s t)
    ∧ (∀ (g i : Nat) (op : QueueOp) (s : State), s.running = true → s.commitOp g = some op → op.index = i →
      s.stepRuns g = true → op.phase = .waiting → s.fenced g i = false → s.descFault g op.raw = none →
      ∃ t, exec (.commit g i) s = .next t
        ∧ t.queue g = { s.queue g with ops := (s.queue g).ops.map (fun o =>
            if o.index = i then { o with phase := .running } else o) }
        ∧ (t.group g).state
            = (if (s.group g).state = .exchange
                  ∧ (s.stepOps g).all (fun o =>
                      Desc.opcode o.raw == Desc.opCommit || (o.phase == .done && o.index != i)) = true
                then .released else (s.group g).state)
        ∧ OtherQueues g s t ∧ OtherGroups g s t ∧ OnlyChanges [.queues, .groups] s t)

/-- PUT and GET that became ready in an earlier tide, with a port, in Full and with none of their direction before them:
the transfer is in progress with its operation running, and its cells are queued for the rail's slots, the data of a PUT,
whose source region is read, or the one request of a GET.

Blocks that arrive whole on VC1 or on a flow (which block is next there is the model's choice, log entry 97, and so is the
fabric port of a write from a flow, log entry 99). A PUT block whose region passes and that has come whole is written
where it says and acknowledged with status 0; one that misses a cell is not written and acknowledged with 0x04 (and ends
its group's step, R135: log entry 132), and one whose region fails with 0x08; a GET request is answered with the data of
its source region, which is read; GET data of a transfer in progress is written; the last block or acknowledgement
completes the transfer and any other counts, and an acknowledgement that names no transfer ends the PUT in progress on its
route (log entry 97). -/
def Obligations.TransfersRunAndAreAnswered : Prop :=
  (∀ (c : Instr) (g i k p : Nat) (b : Bytes) (op : QueueOp) (bs : List (BlockHeader × Bytes)) (s : State),
        (c = .put g i b ∧ k = Desc.opPut ∧ bs = dataBlocks kPut (Desc.remoteAddr op.raw) i (padTo (Desc.length op.raw) b))
          ∨ (c = .get g i ∧ k = Desc.opGet
              ∧ bs = [({ kind := 1, status := 0, length := Desc.length op.raw, addr := Desc.remoteAddr op.raw,
                         replyAddr := Desc.localAddr op.raw, transfer := i, block := 0 }, [])]) → s.running = true →
        s.readyOp g i k = some op → s.transferPort g (Desc.rail op.raw) (Desc.peer op.raw == 0) = some p →
        s.quiescing g = false → s.transferWaits g op = false → s.power.mode = .full → s.readyBefore op = true →
        ∃ t x, exec c s = .next t
          ∧ t.xfers = s.xfers ++ [x] ∧ x.group = g ∧ x.index = i ∧ x.isPut = (k == Desc.opPut) ∧ x.acked = 0
          ∧ x.blocks = ceilDiv (Desc.length op.raw) 57312
          ∧ t.queue g = { s.queue g with ops := (s.queue g).ops.map (fun o =>
              if o.index = i then { o with phase := .running } else o) }
          ∧ s.blocksQueued t g (Desc.rail op.raw) p (Desc.service op.raw) (Desc.flowNo op.raw) bs
          ∧ t.out = s.out ++ (if k = Desc.opPut then [.memRead
              (s.blockFabric g (Desc.rail op.raw) (Desc.service op.raw) p 0) (Desc.localAddr op.raw) (Desc.length op.raw)]
              else [])
          ∧ OtherPorts p s t ∧ OtherQueues g s t ∧ OnlyChanges [.out, .ports, .queues, .xfers, .flows] s t)
    ∧ ((∀ (f : BlockFrom) (h : BlockHeader) (r : RxBlock) (p : Nat) (s u : State), s.running = true →
        s.blockNext f p r u → r.hdr = some h → h.kind = 0 → r.missing = 0 → h.length ≤ r.data.length →
        (s.badRegion f.group h.addr h.length = false → ∃ t, exec (.putBlockReceived f) s = .next t
          ∧ t.out = s.out ++ [.memWrite (s.blockFabric f.group f.rail f.service p 1) h.addr (r.data.take h.length)]
          ∧ u.blocksQueued t f.group f.rail p f.service (State.replyFlow f)
              [({ kind := 3, status := 0, length := 0, addr := 0, replyAddr := 0, transfer := h.transfer,
                  block := h.block }, [])]
          ∧ OtherPorts p s t ∧ OnlyChanges [.out, .ports, .flows] u t
          ∧ OnlyChanges [.out, .ports, .staging, .blockRx, .flows] s t)
        ∧ (s.badRegion f.group h.addr h.length = true → ∃ t, exec (.putBlockReceived f) s = .next t ∧ t.out = s.out
          ∧ u.blocksQueued t f.group f.rail p f.service (State.replyFlow f)
              [({ kind := 3, status := 8, length := 0, addr := 0, replyAddr := 0, transfer := h.transfer,
                  block := h.block }, [])]
          ∧ OtherPorts p s t ∧ OnlyChanges [.ports, .staging, .blockRx, .flows, .events, .stats] s t))
      ∧ (∀ (f : BlockFrom) (h : BlockHeader) (r : RxBlock) (p : Nat) (s u : State), s.running = true →
        s.blockNext f p r u → r.hdr = some h → h.kind = 0 → r.missing ≠ 0 ∨ r.data.length < h.length →
        s.badRegion f.group h.addr h.length = false → ∃ t, exec (.putBlockReceived f) s = .next t ∧ t.out = s.out
          ∧ u.blocksQueued t f.group f.rail p f.service (State.replyFlow f)
              [({ kind := 3, status := 4, length := 0, addr := 0, replyAddr := 0, transfer := h.transfer,
                  block := h.block }, [])]
          ∧ OtherPorts p u t ∧ OnlyChanges [.ports, .flows, .events, .stats] u t
          ∧ OnlyChanges [.ports, .groups, .staging, .blockRx, .flows, .events, .stats] s t)
      ∧ (∀ (f : BlockFrom) (h : BlockHeader) (r : RxBlock) (b : Bytes) (p : Nat) (s u : State), s.running = true →
        s.blockNext f p r u → r.hdr = some h → h.kind = 1 → r.missing = 0 → (f.service = 0 ∨ h.length ≤ 57312) →
        s.badRegion f.group h.addr h.length = false → ∃ t, exec (.getRequestReceived f b) s = .next t
          ∧ u.blocksQueued t f.group f.rail p f.service (State.replyFlow f)
              (dataBlocks kGetData h.replyAddr h.transfer (padTo h.length b))
          ∧ t.out = s.out ++ [.memRead (s.blockFabric f.group f.rail f.service p 0) h.addr h.length]
          ∧ OtherPorts p s t ∧ OnlyChanges [.out, .ports, .flows] u t
          ∧ OnlyChanges [.out, .ports, .staging, .blockRx, .flows] s t)
      ∧ (∀ (f : BlockFrom) (h : BlockHeader) (r : RxBlock) (x : Transfer) (p : Nat) (s u : State), s.running = true →
        s.blockNext f p r u → r.hdr = some h → h.kind = 2 → r.missing = 0 → h.length ≤ r.data.length →
        s.transferOf f h.transfer false = some x → h.status = 0 → s.badRegion f.group h.addr h.length = false →
        (x.acked + 1 < x.blocks → ∃ t, exec (.getDataReceived f) s = .next t
          ∧ t.out = s.out ++ [.memWrite (s.blockFabric f.group f.rail f.service p 1) h.addr (r.data.take h.length)]
          ∧ t.xfers = s.xfers.map (fun y => if y.group = x.group ∧ y.index = x.index then { y with acked := y.acked + 1 }
                                            else y)
          ∧ OnlyChanges [.out, .xfers] u t ∧ OnlyChanges [.out, .staging, .xfers, .blockRx, .flows] s t)
        ∧ (x.blocks ≤ x.acked + 1 → ∃ t, exec (.getDataReceived f) s = .next t
          ∧ t.out = s.out ++ [.memWrite (s.blockFabric f.group f.rail f.service p 1) h.addr (r.data.take h.length)]
          ∧ (∀ y ∈ t.xfers, ¬(y.group = x.group ∧ y.index = x.index)) ∧ OtherQueues x.group s t
          ∧ OnlyChanges [.out, .ports, .queues, .groups, .xfers, .events, .stats] u t))
      ∧ (∀ (f : BlockFrom) (h : BlockHeader) (r : RxBlock) (x : Transfer) (p : Nat) (s u : State), s.running = true →
        s.blockNext f p r u → r.hdr = some h → h.kind = 3 → r.missing = 0 →
        h.block ≠ noTransfer → s.transferOf f h.transfer true = some x → h.status = 0 →
        (x.acked + 1 < x.blocks → ∃ t, exec (.putAckReceived f) s = .next t
          ∧ t.xfers = s.xfers.map (fun y => if y.group = x.group ∧ y.index = x.index then { y with acked := y.acked + 1 }
                                            else y)
          ∧ OnlyChanges [.xfers] u t ∧ OnlyChanges [.staging, .xfers, .blockRx, .flows] s t)
        ∧ (∀ op, x.blocks ≤ x.acked + 1 → (s.queue x.group).ops.find? (fun o => o.index == x.index) = some op →
          op.recorded = false → ∃ t d, exec (.putAckReceived f) s = .next t
          ∧ (∀ y ∈ t.xfers, ¬(y.group = x.group ∧ y.index = x.index)) ∧ d.index = x.index
          ∧ (t.queue x.group).due = State.insertDue d (s.queue x.group).due
          ∧ OtherQueues x.group s t ∧ OnlyChanges [.ports, .queues, .groups, .xfers, .events, .stats] u t))
      ∧ (∀ (f : BlockFrom) (h : BlockHeader) (r : RxBlock) (x : Transfer) (p : Nat) (s u : State), s.running = true →
        s.blockNext f p r u → r.hdr = some h → h.kind = 3 → r.missing = 0 → h.block = noTransfer → h.status ≠ 0 →
        s.runningOn f true = some x → ∃ t, exec (.putAckReceived f) s = .next t
          ∧ (∀ y ∈ t.xfers, ¬(y.group = x.group ∧ y.index = x.index)) ∧ OtherQueues x.group s t
          ∧ OnlyChanges [.ports, .queues, .groups, .xfers, .events, .stats] u t))

/-- VC2 flows, for a good FLOW cell: on a port in scheduled service one in sequence joins the stream received and an answer
is due, one out of sequence within the window's length only has an answer due and any other is discarded (how an answer goes
is the model's choice, log entries 34 and 92); an acknowledgement drops the cells before it, and cells that
waited enter the window of 1,024; in QUARANTINE, and from a TIME_NODE, the cell is counted and dropped. After 256 tides
without progress every unacknowledged cell goes again in order, and after 16 such resends the flow gives up,
and its transfers end. -/
def Obligations.FlowsAcceptInOrderAndResend : Prop :=
  (∀ (p f : Nat) (cell : Bytes) (c : CellFields) (w : Flow) (seq ack : Word32) (s : State), s.running = true →
      s.arrives p tFlow cell c → f = rd c.payload 8 1 → w = s.flow (flowKey p f) → seq.toNat = rd c.payload 0 4 →
      ack.toNat = rd c.payload 4 4 →
      (s.inService p = true → (s.port p).nb.role ≠ 4 → ack = w.acked →
        (seq = w.expect → ∃ t, exec (.flowCellReceived p cell) s = .next t
          ∧ t.flow (flowKey p f)
              = { w with expect := w.expect + 1, ackDue := true, rx := w.rx ++ [(c.payload.drop 16, c.last)] }
          ∧ (∀ k, k ≠ flowKey p f → t.flow k = s.flow k) ∧ OnlyChanges [.flows] (s.heard p cell) t)
        ∧ (seq ≠ w.expect → 1024 < (w.expect - seq).toNat → 1024 < (seq - w.expect).toNat →
          exec (.flowCellReceived p cell) s = .next (s.heard p cell))
        ∧ (seq ≠ w.expect → (w.expect - seq).toNat ≤ 1024 ∨ (seq - w.expect).toNat ≤ 1024 → ∃ t,
            exec (.flowCellReceived p cell) s = .next t
          ∧ t.flow (flowKey p f) = { w with ackDue := true } ∧ (∀ k, k ≠ flowKey p f → t.flow k = s.flow k)
          ∧ OnlyChanges [.flows] (s.heard p cell) t))
      ∧ (∀ n, s.inService p = true → (s.port p).nb.role ≠ 4 → ack ≠ w.acked → (ack - w.acked).toNat ≤ w.unacked.length →
        n = 1024 - (w.unacked.drop (ack - w.acked).toNat).length → ∃ t, exec (.flowCellReceived p cell) s = .next t
          ∧ (t.flow (flowKey p f)).acked = ack
          ∧ (t.flow (flowKey p f)).unacked = w.unacked.drop (ack - w.acked).toNat ++ w.waiting.take n
          ∧ (t.flow (flowKey p f)).waiting = w.waiting.drop n
          ∧ (∀ k, k ≠ flowKey p f → t.flow k = s.flow k) ∧ OnlyChanges [.flows] (s.heard p cell) t)
      ∧ ((s.port p).link = .quarantine →
        exec (.flowCellReceived p cell) s = .next ((s.heard p cell).bumpPort p .quarantineDrop 1))
      ∧ ((s.port p).link ≠ .quarantine → (s.port p).nb.role = 4 →
        exec (.flowCellReceived p cell) s = .next ((s.heard p cell).bumpPort p .cellMisplaced 1)))
    ∧ (∀ (p f : Nat) (w : Flow) (s : State), s.running = true → w = s.flow (flowKey p f) → w.sent ≠ 0 →
      w.since + 256 ≤ s.now →
      (w.resends < 16 → ∃ t, exec (.flowResend p f) s = .next t
        ∧ t.flow (flowKey p f) = { w with since := s.now, sent := 0, resends := w.resends + 1 }
        ∧ (∀ k, k ≠ flowKey p f → t.flow k = s.flow k) ∧ OnlyChanges [.flows] s t)
      ∧ (16 ≤ w.resends → ∃ t, exec (.flowResend p f) s = .next t ∧ (t.flow (flowKey p f)).unacked = []
        ∧ (t.flow (flowKey p f)).waiting = []
        ∧ (∀ x ∈ t.xfers, ∀ o ∈ (s.queue x.group).ops, o.index = x.index → Desc.service o.raw = 1 →
            Desc.flowNo o.raw = f → s.transferPort x.group (Desc.rail o.raw) (Desc.peer o.raw == 0) ≠ some p)
        ∧ (∀ k, k ≠ flowKey p f → t.flow k = s.flow k)
        ∧ OnlyChanges [.ports, .queues, .groups, .xfers, .flows, .events, .stats] s t))
    ∧ (∀ (p f : Nat) (s : State), (s.flow (flowKey p f)).sent = 0 ∨ s.now < (s.flow (flowKey p f)).since + 256 →
      exec (.flowResend p f) s = .next s)

/-! ### Hops and verdicts -/

/-- The ebb hops in their tide. The cells that the member puts into the chunk's slots of the ebb lap hold what it encoded: the
first member's carry the linear check of what it added and a tally of 1, or 0 when deferred; a middle member's carry the
ledger and tally it received increased by its own, or LEDGER M where the trailer or an item that it received fails; the
replay count stands beside the ledger. Before it, a member that does not defer reads its part of the input region. The
member's work on the chunk is then done, and of the residual stacks only the chunk's bytes of generation B have changed,
which hold what of its contribution was not sent. A chunk context or a residual of generation
A that cannot be read ends the step instead, with 0x04 or 0x0B. -/
def Obligations.EbbHopsAddToTheLedger : Prop :=
  (∀ (g b c : Nat) (env : HopEnv) (v : OpView) (w : State.HopWork) (s : State), s.running = true →
      s.hopAt g b c (fun v => v.hop c == 1) = some v → env.contextUE = false → s.genBad v false c env.stackUE = [] →
      w = State.hopWork v c v.l.deferred v.l.deferred env.grad (s.readGen v false c) (State.noInput (v.limit c)) [] →
      ∃ t x, exec (.ebbFirstHop g b c env) s = .next t ∧ t.ctx v.g v.d.bucket c = some x ∧ x.ebbDone = true
        ∧ x.ebbIn = 0 ∧ x.ebbOut = s.lcOf v c w.delta ∧ x.tally = (if v.l.deferred then 0 else 1)
        ∧ x.clip = w.enc.count.clipped ∧ t.out = s.out ++ (if v.l.deferred then [] else [s.gradReads v c])
        ∧ s.cellsSent t v c 0 (State.withErrors (s.chunkCells v c 0 (if v.l.deferred then 0 else 1)
            (s.lcOf v c w.delta + s.replaysOf v c % 4 * 2 ^ 62) w.enc.payloads) env.stagedOut)
        ∧ t.stack = s.genWrites v (fun _ _ => newResidual v.d v.ext (v.base c) v.l.et w.con.u w.delta) [c]
        ∧ (∀ a, s.outsideGenB v c (storeResiduals v.d (newResidual v.d v.ext (v.base c) v.l.et w.con.u
              w.delta)).bytes.length a → t.stack.read a = s.stack.read a)
        ∧ OtherGroups v.g s t
        ∧ OnlyChanges [.out, .power, .ports, .groups, .stack, .badUnits, .events, .stats, .maint] s t)
    ∧ (∀ (g b c : Nat) (env : HopEnv) (v : OpView) (got cells : List Bytes) (u : State.Trailer) (d : Decoded)
      (w : State.HopWork) (s : State),
      s.running = true → s.hopAt g b c (fun v => v.hop c != 1 && v.hop c != v.l.n) = some v → env.contextUE = false →
      s.genBad v false c env.stackUE = [] → s.stagedCells v c 0 = got.map some → cells = State.withErrors got env.stagedIn →
      u = State.trailerOf 0 (s.replaysOf v c) cells → d = (State.decodeCells v c cells).1 →
      w = State.hopWork v c v.l.deferred v.l.deferred env.grad (s.readGen v false c) d (State.decodeCells v c cells).2 →
      ∃ t x, exec (.ebbHop g b c env) s = .next t ∧ t.ctx v.g v.d.bucket c = some x ∧ x.ebbDone = true
        ∧ x.ebbIn = u.ledger
        ∧ x.ebbOut = (if u.ok = true ∧ d.malformed = 0 then (u.ledger + s.lcOf v c w.delta) % lcMod else lcMod)
        ∧ x.tally = (u.tally + (if v.l.deferred then 0 else 1)) % 2 ^ 15
        ∧ t.out = s.out ++ (if v.l.deferred then [] else [s.gradReads v c])
        ∧ s.cellsSent t v c 0 (State.withErrors (s.chunkCells v c 0 ((u.tally + (if v.l.deferred then 0 else 1)) % 2 ^ 15)
            ((if u.ok = true ∧ d.malformed = 0 then (u.ledger + s.lcOf v c w.delta) % lcMod else lcMod)
              + s.replaysOf v c % 4 * 2 ^ 62) w.enc.payloads) env.stagedOut)
        ∧ t.stack = s.genWrites v (fun _ _ => newResidual v.d v.ext (v.base c) v.l.et w.con.u w.delta) [c]
        ∧ (∀ a, s.outsideGenB v c (storeResiduals v.d (newResidual v.d v.ext (v.base c) v.l.et w.con.u
              w.delta)).bytes.length a → t.stack.read a = s.stack.read a)
        ∧ OtherGroups v.g s t
        ∧ OnlyChanges [.out, .power, .ports, .groups, .staging, .stack, .badUnits, .events, .stats, .maint] s t)
    ∧ (∀ (i : Instr) (g b c : Nat) (env : HopEnv) (v : OpView) (s : State), s.running = true →
      (i = .ebbFirstHop g b c env ∧ s.hopAt g b c (fun v => v.hop c == 1) = some v)
        ∨ (i = .ebbHop g b c env ∧ s.hopAt g b c (fun v => v.hop c != 1 && v.hop c != v.l.n) = some v)
        ∨ (i = .ownerHop g b c env ∧ s.hopAt g b c (fun v => v.hop c == v.l.n) = some v) →
      env.contextUE = true ∨ s.genBad v false c env.stackUE ≠ [] → ∃ t, exec i s = .next t
        ∧ (t.group v.g).abort.map (·.kept)
            = some (if env.contextUE then 0x04 else 0x0B, State.abortValue c v.d.bucket)
        ∧ OtherGroups v.g s t ∧ OnlyChanges [.power, .ports, .groups, .badUnits, .events, .stats, .maint] s t)
    ∧ (∀ (g b c : Nat) (env : HopEnv) (s : State), s.hopAt g b c (fun v => v.hop c == 1) = none →
      exec (.ebbFirstHop g b c env) s = .next s)

/-- The owner's hop and the flood. The cells of the flood lap, which the owner encodes and each receiver but the last
forwards unchanged, carry the linear check of what they hold. The owner passes its own check exactly where the trailer and
every code are good and the linear check of the sum is the ledger it received plus that of what it added; a receiver passes
where the linear check of what it decodes is the ledger that came with it. Each has then delivered: the values are written
to compute memory in the descriptor's form, through the fabric port of the bay at work, unless the chunk had been released
before. The owner's residual is written as on an ebb hop, and no other byte of the stacks. An owner whose released chunk
comes out differently ends the step with 0x03, one that cannot read the flood cells retained of it with 0x0B, and a missing
cell ends it with 0x04, on the ebb lap too. -/
def Obligations.OwnerAndReceiversCheckTheLedger : Prop :=
  (∀ (g b c : Nat) (env : HopEnv) (v : OpView) (got cells : List Bytes) (u : State.Trailer) (d : Decoded)
      (w : State.HopWork) (s : State),
      s.running = true → s.hopAt g b c (fun v => v.hop c == v.l.n) = some v → env.contextUE = false →
      s.genBad v false c env.stackUE = [] → s.stagedCells v c 0 = got.map some → cells = State.withErrors got env.stagedIn →
      u = State.trailerOf 0 (s.replaysOf v c) cells → d = (State.decodeCells v c cells).1 →
      w = State.hopWork v c v.l.deferred false env.grad (s.readGen v false c) d (State.decodeCells v c cells).2 →
      (s.released v c = true ∧ s.floodBad v c env.stackUE = [] ∧ s.sameAsHeld v c w.enc.payloads = false → ∃ t,
          exec (.ownerHop g b c env) s = .next t
        ∧ (t.group v.g).abort.map (·.kept) = some (0x03, State.abortValue c v.d.bucket)
        ∧ t.out = s.out ++ (if v.l.deferred then [] else [s.gradReads v c])
        ∧ OtherGroups v.g s t
        ∧ OnlyChanges [.out, .power, .ports, .groups, .staging, .stack, .badUnits, .events, .stats, .maint] s t)
      ∧ (∀ k ∈ s.retainUnits v c, s.released v c = true → k ∈ env.stackUE →
          (∃ r, s.retainedOf v.g v.d.bucket c = some r ∧ r.cells ≠ []) → ∃ t, exec (.ownerHop g b c env) s = .next t
        ∧ (t.group v.g).abort.map (·.kept) = some (0x0B, State.abortValue c v.d.bucket)
        ∧ t.out = s.out ++ (if v.l.deferred then [] else [s.gradReads v c]) ∧ OtherGroups v.g s t
        ∧ OnlyChanges [.out, .power, .ports, .groups, .staging, .stack, .badUnits, .events, .stats, .maint] s t)
      ∧ (s.released v c = false ∨ (s.floodBad v c env.stackUE = [] ∧ s.sameAsHeld v c w.enc.payloads = true) → ∃ t x,
        exec (.ownerHop g b c env) s = .next t ∧ t.ctx v.g v.d.bucket c = some x ∧ x.ebbDone = true
        ∧ x.floodDone = true ∧ x.ebbIn = u.ledger
        ∧ x.flood = (s.lcOf v c w.enc.sent + s.structOf v c w.enc.entries) % lcMod
        ∧ (x.ownPass = true ↔ u.ok = true ∧ d.malformed = 0
            ∧ s.lcOf v c w.acc.acc = (u.ledger + s.lcOf v c w.acc.added) % lcMod)
        ∧ s.cellsSent t v c 1 (State.withErrors (s.chunkCells v c 1 ((u.tally + (if v.l.deferred then 0 else 1)) % 2 ^ 15)
            (x.flood + 2 ^ 61 + s.replaysOf v c % 4 * 2 ^ 62) w.enc.payloads) env.stagedOut)
        ∧ t.out = s.out ++ (if v.l.deferred then [] else [s.gradReads v c]) ++ (if s.released v c = true then [] else
            s.chunkWrite v c (s.hopBay v c) ((u.tally + (if v.l.deferred then 0 else 1)) % 2 ^ 15)
              w.enc.sent w.enc.entries)
        ∧ t.stack = s.genWrites v (fun _ _ => newResidual v.d v.ext (v.base c) v.l.et w.con.u w.delta) [c]
        ∧ (∀ a, s.outsideGenB v c (storeResiduals v.d (newResidual v.d v.ext (v.base c) v.l.et w.con.u
              w.delta)).bytes.length a → t.stack.read a = s.stack.read a)
        ∧ OtherGroups v.g s t ∧ OnlyChanges [.out, .power, .ports, .queues, .groups, .staging, .stack, .badUnits,
            .events, .stats, .maint] s t))
    ∧ (∀ (g b c : Nat) (env : HopEnv) (v : OpView) (got cells : List Bytes) (u : State.Trailer) (d : Decoded)
      (slots : List (Nat × Nat)) (s : State),
      s.running = true → s.floodAt g b c = some v → env.contextUE = false → s.stagedCells v c 1 = got.map some →
      cells = State.withErrors got env.stagedIn → u = State.trailerOf 1 (s.replaysOf v c) cells →
      d = (State.decodeCells v c cells).1 →
      slots = (if v.d.sparse = true then (State.decodeCells v c cells).2 ++ List.replicate
          (listCap v.d - (State.decodeCells v c cells).2.length) (sentinel, 0) else []) →
      ∃ t x, exec (.floodReceive g b c env) s = .next t ∧ t.ctx v.g v.d.bucket c = some x ∧ x.floodDone = true
        ∧ x.checked = true ∧ x.flood = u.ledger ∧ x.tally = u.tally
        ∧ (x.ownPass = true ↔ u.ok = true ∧ d.malformed = 0
            ∧ (s.lcOf v c d.exact + s.structOf v c d.entries) % lcMod = u.ledger)
        ∧ s.cellsSent t v c 1 (if v.floodNo c + 1 = v.l.n then [] else
            State.withErrors (s.forwarded cells) env.stagedOut)
        ∧ t.out = s.out ++ (if s.released v c = true then [] else
            s.chunkWrite v c (s.chunkBay v c (s.rxOf v c) 1 1) u.tally d.values slots)
        ∧ OtherGroups v.g s t
        ∧ OnlyChanges [.out, .power, .ports, .queues, .groups, .staging, .badUnits, .events, .stats, .maint] s t)
    ∧ (∀ (i : Instr) (g b c lap : Nat) (env : HopEnv) (v : OpView) (s : State), s.running = true →
      (i = .ebbHop g b c env ∧ lap = 0 ∧ s.hopAt g b c (fun v => v.hop c != 1 && v.hop c != v.l.n) = some v
          ∧ s.genBad v false c env.stackUE = [])
        ∨ (i = .ownerHop g b c env ∧ lap = 0 ∧ s.hopAt g b c (fun v => v.hop c == v.l.n) = some v
          ∧ s.genBad v false c env.stackUE = [])
        ∨ (i = .floodReceive g b c env ∧ lap = 1 ∧ s.floodAt g b c = some v) →
      env.contextUE = false → (s.stagedCells v c lap).any (·.isNone) = true → v.g = g → ∃ t, exec i s = .next t
        ∧ (t.group g).abort.map (·.kept) = some (0x04, State.abortValue c v.d.bucket)
        ∧ t.out = s.out ++ (if lap = 0 ∧ v.l.deferred = false then [s.gradReads v c] else [])
        ∧ OtherGroups g s t ∧ OnlyChanges [.out, .power, .ports, .groups, .events, .stats] s t)

/-- A verdict round whose chunks have all passed takes their verdicts and releases each of them: one release record goes to
the update unit of the chunk's output region, with the unit's next RSEQ. A round with one chunk whose verdict failed, with
replay rounds left, parks it for an ebb or a flood replay and releases nothing. A round in which a verdict is missing ends
the step with 0x04, and one that takes effect with a nonfinite verdict under SKIP with 0x05, releasing nothing. -/
def Obligations.VerdictsReleaseOrEndTheStep : Prop :=
  (∀ (g i r : Nat) (v : OpView) (s : State), s.running = true → s.opAt g i = some v → s.stepRuns g = true →
      v.op.phase ≠ .done → r < v.rounds + v.l.replays.length → s.now = v.verdictTide r →
      (v.chunksOf r).any (fun c => !((s.ctx g v.d.bucket c).map (·.vTaken)).getD false) = true → v.g = g →
      (∀ c ∈ v.chunksOf r, ∃ k, s.verdictOf v c = some k ∧ k % 4 = 0) → s.skipNow g = none →
      (s.group g).record.isSome = true →
      ∃ t, exec (.verdict g i r) s = .next t
        ∧ (∀ c ∈ v.chunksOf r, (t.entry g v.d.bucket c).map (fun e => e.released && e.vTaken) = some true)
        ∧ t.out = ((v.chunksOf r).foldl (fun u c => u.release v c 0) s).out
        ∧ (∀ c a, v.chunksOf r = [c] → s.released v c = false → a = Desc.outAddr v.op.raw + State.outOffset v c →
            t.out = s.out ++ [.release (Config.updateUnit a) (State.releaseBytes
                ((s.unit (Config.updateUnit a)).rseq + 1).toNat g 0 v.d.bucket c (s.group g).step (State.outputBytes v c) a)]
              ∧ (t.unit (Config.updateUnit a)).rseq = (s.unit (Config.updateUnit a)).rseq + 1)
        ∧ OtherGroups g s t ∧ OnlyChanges [.out, .ports, .queues, .groups, .units, .events, .stats] s t)
    ∧ (∀ (g i r : Nat) (v : OpView) (s : State), s.running = true → s.opAt g i = some v → s.stepRuns g = true →
      v.op.phase ≠ .done → r < v.rounds + v.l.replays.length → s.now = v.verdictTide r → v.g = g →
      (∃ c ∈ v.chunksOf r, s.verdictOf v c = none ∧ ((s.ctx g v.d.bucket c).map (·.vTaken)).getD false = false) →
      ∃ t a, exec (.verdict g i r) s = .next t ∧ (t.group g).abort = some a ∧ a.kept.1 = 0x04 ∧ OtherGroups g s t
        ∧ OnlyChanges [.ports, .groups, .events, .stats] s t)
    ∧ (∀ (g i r c k : Nat) (v : OpView) (x : Ctx) (s : State), s.running = true → s.opAt g i = some v →
      s.stepRuns g = true → v.op.phase ≠ .done → r < v.rounds + v.l.replays.length → s.now = v.verdictTide r → v.g = g →
      v.op.index = i → v.chunksOf r = [c] → s.ctx g v.d.bucket c = some x → x.vTaken = false → s.verdictOf v c = some k →
      k % 4 ≠ 0 → s.skipNow g = none → c ∈ v.l.waiting → v.d.replayRounds ≠ 0 → r + 1 < v.rounds + v.d.replayRounds →
      ∃ t y, exec (.verdict g i r) s = .next t ∧ t.ctx g v.d.bucket c = some y ∧ y.parked.isSome = true ∧ y.vTaken = true
        ∧ y.vPass = false ∧ y.replayKind = (if k % 2 = 1 then 1 else 2) ∧ (t.group g).abort = none
        ∧ OtherGroups g s t ∧ OnlyChanges [.groups, .events, .stats] s t)
    ∧ (∀ (g i r b c : Nat) (v : OpView) (s : State), s.running = true → s.opAt g i = some v → s.stepRuns g = true →
      v.op.phase ≠ .done → r < v.rounds + v.l.replays.length → s.now = v.verdictTide r → v.g = g →
      (v.chunksOf r).any (fun c => !((s.ctx g v.d.bucket c).map (·.vTaken)).getD false) = true →
      (∀ c ∈ v.chunksOf r, (s.verdictOf v c).isSome = true) → s.skipNow g = some (b, c) →
      ∃ t, exec (.verdict g i r) s = .next t ∧ (t.group g).abort.map (·.kept) = some (0x05, State.abortValue c b)
        ∧ OtherGroups g s t ∧ OnlyChanges [.ports, .groups, .events, .stats] s t)
    ∧ (∀ (g i r : Nat) (v : OpView) (s : State), s.opAt g i = some v → s.now ≠ v.verdictTide r →
      exec (.verdict g i r) s = .next s)

/-- Replays, folds and a spare's writes. A replay round takes the set of R190 as its chunks; the owner's flood replay puts the
cells of the retained sum into the chunk's slots of the flood lap again, with the check, the tally and the new replay count,
and its own check stands (that it does is the model's reading, log entry 49); a fold of a deferred operation reads each
chunk's part of the input region, adds it rotated to what generation B holds of it and later enters its statistics (when a
fold runs is the model's reading, log entry 105); a spare writes the rotated input at the released chunks, once (once up to
the first COMMIT is the model's reading, log entry 63). Of the stacks nothing but generation B of those chunks changes. -/
def Obligations.ReplaysAndFoldsRun : Prop :=
  (∀ (g i : Nat) (v : OpView) (s : State), s.running = true → s.opAt g i = some v → s.stepRuns g = true →
      v.op.phase ≠ .done → v.l.replays.length < v.d.replayRounds →
      v.replayStart v.l.replays.length ≤ s.now + 2 → s.now < v.replayStart v.l.replays.length → v.g = g →
      v.op.index = i → ∃ t o l, exec (.replayRoundLaunch g i v.l.replays.length) s = .next t
        ∧ (t.queue g).ops.find? (fun x => x.index == i) = some o ∧ o.launch = some l
        ∧ l.replays = v.l.replays ++ [s.replaySet v] ∧ OtherQueues g s t ∧ OtherGroups g s t
        ∧ OnlyChanges [.queues, .groups] s t)
    ∧ (∀ (g i : Nat) (env : HopEnv) (v : OpView) (s : State), s.running = true → s.opAt g i = some v →
      (s.group g).abort = none → v.l.deferred = true → v.l.fold = .due → s.opReady g v.op = true →
      s.foldBad v env = none → v.g = g → v.op.index = i → ∃ t o l,
      exec (.fold g i env) s = .next t ∧ (t.queue g).ops.find? (fun x => x.index == i) = some o ∧ o.launch = some l
        ∧ l.fold = .running ∧ t.out = s.out ++ v.l.chunks.map (s.gradReads v)
            ∧ (∀ c ∈ v.l.chunks, v.d.bucket * 2 ^ 20 + c ∈ (t.group g).written)
        ∧ t.stack = s.genWrites v (fun u c => (u.readGenB v c).add (State.rotatedInput v env.grad c).1) v.l.chunks
        ∧ (∀ a, (∀ c ∈ v.l.chunks, s.outsideGenB v c (resWidth v.d * v.limit c) a) → t.stack.read a = s.stack.read a)
        ∧ OtherQueues g s t ∧ OtherGroups g s t
        ∧ OnlyChanges [.out, .power, .queues, .groups, .stack, .badUnits, .events, .stats, .maint] s t)
    ∧ (∀ (g i : Nat) (v : OpView) (s : State), s.running = true → s.opAt g i = some v → (s.group g).abort = none →
      v.l.fold = .running → v.g = g → v.op.index = i → ∃ t o l, exec (.foldComplete g i) s = .next t
        ∧ (t.queue g).ops.find? (fun x => x.index == i) = some o ∧ o.launch = some l ∧ l.fold = .done
        ∧ ((t.group g).stats.get {} v.d.bucket).entered = true ∧ OtherQueues g s t ∧ OtherGroups g s t
        ∧ OnlyChanges [.ports, .queues, .groups, .events, .stats] s t)
    ∧ (∀ (g i n : Nat) (env : HopEnv) (op : QueueOp) (d : ImgBucket) (v : OpView) (s : State), s.running = true →
      v = s.spareView g op d n →
      (s.stepOps g).find? (fun o => o.index == i) = some op → s.im.bucketDesc (Desc.bucket op.raw) = some d →
      s.ringPos g = some n → s.isSpare g = true → Desc.isExchange op.raw = true → s.opReady g op = true →
      (op.spareDone = false → ∃ t o, exec (.spareResidualWrite g i env) s = .next t
        ∧ (t.queue g).ops.find? (fun x => x.index == i) = some o ∧ o.spareDone = true
        ∧ t.out = s.out ++ (s.spareChunks g d.bucket).map (s.gradReads v)
        ∧ (∀ c ∈ s.spareChunks g d.bucket, d.bucket * 2 ^ 20 + c ∈ (t.group g).written)
        ∧ t.stack = s.genWrites v (fun _ c => (State.rotatedInput v env.grad c).1) (s.spareChunks g d.bucket)
        ∧ (∀ a, (∀ c ∈ s.spareChunks g d.bucket, s.outsideGenB v c
              (storeResiduals v.d (State.rotatedInput v env.grad c).1).bytes.length a) → t.stack.read a = s.stack.read a)
        ∧ OtherQueues g s t ∧ OtherGroups g s t
        ∧ OnlyChanges [.out, .power, .queues, .groups, .stack, .badUnits, .events, .stats, .maint] s t)
      ∧ (op.spareDone = true → exec (.spareResidualWrite g i env) s = .next s))
    ∧ (∀ (g b c : Nat) (env : HopEnv) (v : OpView) (x : Ctx) (r : Retained) (wide : List Int) (e : Encoded) (s : State),
      s.running = true → s.opOf g b = some v → s.stepRuns g = true → c ∈ v.l.chunks → v.rounds ≤ v.roundOf c →
      v.hop c = v.l.n → v.g = g → v.d.bucket = b → s.ctx g b c = some x → x.replayKind = 2 → x.floodDone = false →
      s.now = v.startOf (v.roundOf c) + v.l.n - 1 → env.contextUE = false → s.retainBad v c env.stackUE = [] →
      s.retainedOf g b c = some r → r.wide = some wide →
      e = State.encodeChunk v false r.marks wide r.indices →
      x.flood = (s.lcOf v c e.sent + s.structOf v c e.entries) % lcMod → ∃ t y,
      exec (.floodReplay g b c env) s = .next t ∧ t.ctx g b c = some y ∧ y.floodDone = true ∧ y.ownPass = true
        ∧ y.checked = true ∧ y.flood = x.flood
        ∧ s.cellsSent t v c 1 (State.withErrors (s.chunkCells v c 1 x.tally (x.flood + 2 ^ 61 + x.replays % 4 * 2 ^ 62)
            e.payloads) env.stagedOut) ∧ OtherGroups g s t
        ∧ OnlyChanges [.power, .ports, .groups, .badUnits, .events, .stats, .maint] s t)

/-! ### Express class -/

/-- A broadcast of a timed instance (BARRIER, COMMIT, READY, OPEN) that reaches a member other than the origin gives the
instance its tide E, with its effect at E, or in the next tide where E is not after the tide in progress; one of a SCALAR
or STAT instance gives its value, with its effect in the next tide. The broadcast of a VERDICT gives the chunk's context its
value, which counts once the member has finished the chunk's flood. (That a base follows E also where the message is late,
that BARRIER and SCALAR share one sequence, which first copy is kept, and that a message on another port than the group's
is malformed, are the model's readings: log entries 58, 60, 68 and 110.)

Reduce messages. A member that has its operand forwards the message combined with it in the same tide, so that it holds
nothing; a member without one holds it. The origin that gets its COMMIT back names E = now + H_G and takes it as its own
result. A BARRIER or SCALAR message that differs from the member's descriptor of its TAG begins an abort with 0x03. A second
copy of a message already taken changes nothing but the record of the first. Malformed messages, and those that arrive on
another port than the group's, are counted and otherwise ignored. -/
def Obligations.ExpressLapsGiveResults : Prop :=
  ((∀ (c : Instr) (p k : Nat) (w : Word64) (second : Bool) (m : Msg) (s : State), messageOf k p w second c →
        k = kBarrier ∨ k = kCommit ∨ k = kReady ∨ k = kOpen → s.running = true → s.taken p w second m → m.kind = k →
        m.lap = true → s.ringPos m.group ≠ some 0 → (s.group m.group).abort = none → s.msgSettled m →
        ∃ t e, exec c s = .next t ∧ e ∈ (t.group m.group).express ∧ e.kind = k ∧ e.tag = m.tag
          ∧ e.result = some (BitVec.ofNat 32 (s.tideNear m.value)) ∧ e.flag = m.flag
          ∧ e.effectAt = some (if s.tideNear m.value ≤ s.now then s.now + 1 else s.tideNear m.value)
          ∧ OtherGroups m.group s t ∧ OnlyChanges [.ports, .groups, .events, .stats] s t)
      ∧ (∀ (c : Instr) (p k : Nat) (w : Word64) (second : Bool) (m : Msg) (s : State), messageOf k p w second c →
        k = kScalar ∨ k = kStat → s.running = true → s.taken p w second m → m.kind = k → m.lap = true →
        s.ringPos m.group ≠ some 0 → (s.group m.group).abort = none →
        ∃ t e, exec c s = .next t ∧ e ∈ (t.group m.group).express ∧ e.kind = k ∧ e.tag = m.tag
          ∧ e.result = some (BitVec.ofNat 32 m.value) ∧ e.flag = m.flag ∧ e.effectAt = some (s.now + 1)
          ∧ OtherGroups m.group s t ∧ OnlyChanges [.ports, .groups] s t)
      ∧ (∀ (p : Nat) (w : Word64) (second : Bool) (m : Msg) (v : OpView) (c : Nat) (x : Ctx) (s : State),
        s.running = true → s.taken p w second m → m.kind = kVerdict → m.lap = true → (s.group m.group).abort = none →
        s.verdictChunk m = some (v, c) → s.ctx v.g v.d.bucket c = some x →
        ∃ t y, exec (.verdictMessage p w second) s = .next t ∧ t.ctx v.g v.d.bucket c = some y
          ∧ y = { x with vResult := some (field m.value 0 3) }
          ∧ t.verdictOf v c = (if x.floodDone then some (field m.value 0 3) else none)
          ∧ OtherGroups v.g s t ∧ OnlyChanges [.ports, .groups] s t))
    ∧ ((∀ (c : Instr) (p k : Nat) (w : Word64) (second : Bool) (m : Msg) (s : State), messageOf k p w second c →
        k ≠ kVerdict → k ≠ kAbort → s.running = true → s.taken p w second m → m.kind = k → m.lap = false →
        s.ringPos m.group ≠ some 0 → (s.group m.group).abort = none → s.msgSettled m →
        ∃ t, exec c s = .next t
          ∧ (∀ e, s.findExpress m.group k m.tag = some e → e.own.isSome = true →
              ∃ f, t.findExpress m.group k m.tag = some f ∧ f.held = none ∧ f.forwarded = some s.now)
          ∧ ((k = kReady → ∀ op ∈ s.stepOps m.group, (s.readyOpen m.group op && s.opReady m.group op) = false) →
              (∀ e, s.findExpress m.group k m.tag = some e → e.own = none) →
              ∃ f, t.findExpress m.group k m.tag = some f ∧ f.held = some (msgWord m) ∧ f.since = s.now)
          ∧ OtherGroups m.group s t ∧ OnlyChanges [.ports, .groups, .events, .stats] s t)
      ∧ (∀ (p : Nat) (w : Word64) (second : Bool) (m : Msg) (e : Express) (s : State), s.running = true →
        s.taken p w second m → m.kind = kCommit → m.lap = false → s.ringPos m.group = some 0 →
        (s.group m.group).abort = none → s.findExpress m.group kCommit m.tag = some e →
        e.forwarded.isSome = true → e.result = none → 1 ≤ s.hG m.group →
        ∃ t f, exec (.commitMessage p w second) s = .next t ∧ t.findExpress m.group kCommit m.tag = some f
          ∧ f.result = some (BitVec.ofNat 32 (s.now + s.hG m.group)) ∧ f.effectAt = some (s.now + s.hG m.group)
          ∧ f.flag = m.flag ∧ OtherGroups m.group s t ∧ OnlyChanges [.ports, .groups] s t)
      ∧ (∀ (c : Instr) (p k : Nat) (w : Word64) (second : Bool) (m : Msg) (op : QueueOp) (s : State),
        messageOf k p w second c → k = kBarrier ∨ k = kScalar → s.running = true → s.taken p w second m → m.kind = k →
        m.lap = false → (s.group m.group).abort = none → s.abortable m.group = true →
        s.expressOpAt m.group m.tag = some op → (State.expressKind op.raw ≠ m.kind ∨ State.expressOp op.raw ≠ m.op) →
        ∃ t, exec c s = .next t ∧ (t.group m.group).abort = some (freshAbort 0x03 0xFFFFF 0xFFF s.now)
          ∧ OtherGroups m.group s t ∧ OnlyChanges [.ports, .groups, .events, .stats] s t))
    ∧ (∀ (c : Instr) (p k : Nat) (w : Word64) (second : Bool) (m : Msg) (s : State), messageOf k p w second c →
        s.running = true → w ≠ 0 → m = readMsg w →
      (s.inService p = true → msgOk m = false ∨ (m.kind = k ∧ s.expressRx m.group ≠ some p) →
          exec c s = .next (s.bumpPort p .expressMalformed 1))
        ∧ (msgOk m = true → m.kind = k → s.inService p = true → s.expressRx m.group = some p → second = true →
          (s.port p).exprFirst.any (fun x => State.sameMsg (readMsg x.1) m) = true → ∃ t, exec c s = .next t
            ∧ t.port p = { s.port p with exprFirst := (s.port p).exprFirst.filter (fun x => !State.sameMsg (readMsg x.1) m) }
            ∧ OtherPorts p s t ∧ OnlyChanges [.ports] s t)
        ∧ (s.inService p = false → exec c s = .next s))

/-- The result of an express instance takes effect: at the tide of a BARRIER, or after a SCALAR's broadcast, the
operation completes with exactly one record and the instance is over; a READY's effect shifts the group's plan by the
slip. In any other tide nothing of the group changes. What waits in the boundary's order then goes on (log entry 103). -/
def Obligations.ExpressEffectsCompleteOperations : Prop :=
  (∀ (g k x n : Nat) (e : Express) (op : QueueOp) (s : State), s.running = true → (k = kBarrier ∨ k = kScalar) →
      s.findExpress g k x = some e → e.effectAt = some n → n = s.now → s.stepRuns g = true →
      s.expressOpAt g x = some op → op.recorded = false → ∃ u r, exec (.expressEffect g k x) s = .next u.settle
        ∧ u.findExpress g k x = none ∧ r.index = op.index ∧ r.tide = s.now
        ∧ (u.queue g).due = State.insertDue r (s.queue g).due
        ∧ OtherQueues g s u ∧ OtherGroups g s u ∧ OnlyChanges [.queues, .groups, .events, .stats] s u)
    ∧ (∀ (g x n : Nat) (e : Express) (op : QueueOp) (d : ImgBucket) (v : Word32) (s : State), s.running = true →
      s.findExpress g kReady x = some e → e.effectAt = some n → n = s.now → s.stepRuns g = true →
      e.result = some v → (s.stepOps g).find? (fun o => Desc.isExchange o.raw && o.index % 1024 == x) = some op →
      s.im.bucketDesc (Desc.bucket op.raw) = some d → ∃ u, exec (.expressEffect g kReady x) s = .next u.settle
        ∧ (u.group g).sigma = (s.group g).sigma + (s.tideNear v.toNat + 2 - s.plannedStart g d)
        ∧ u.findExpress g kReady x = none ∧ OtherGroups g s u ∧ OtherQueues g s u
        ∧ OnlyChanges [.queues, .groups, .events, .stats] s u)
    ∧ (∀ (g k x n : Nat) (e : Express) (s : State), s.running = true → s.findExpress g k x = some e →
      e.effectAt = some n → n ≠ s.now → exec (.expressEffect g k x) s = .next s.settle)

/-- The waits that the group timeout bounds: each, once overdue in a step or an OPEN in which nothing is aborted, begins an
abort with 0x01 that names no chunk, and changes no other group. (What the engine counts as lost at such an end is the
model's choice: log entries 48 and 85.) Two differ. An OPEN that waits for a neighbour with the shadow image's hash ends
with 0x07. A STAT whose broadcast is lost counts the loss once and leaves the COMMIT to wait. -/
def Obligations.OverdueWaitsAbortWithTimeout : Prop :=
  (∀ (g : Nat) (c : Instr) (s : State), s.running = true → s.overdueWait c g → ∃ t, exec c s = .next t
      ∧ (t.group g).abort = some (freshAbort 0x01 0xFFFFF 0xFFF s.now) ∧ OtherGroups g s t
      ∧ OnlyChanges [.ports, .groups, .events, .stats] s t)
    ∧ (∀ (g n : Nat) (s : State), s.running = true → (s.group g).abort = none → (s.group g).openAt = some n →
      s.overdue g n = true → (s.group g).express.any (fun e => e.kind == kOpen && e.result.isSome) = false →
      s.neighboursWith g 2 = true → ∃ t, exec (.openTimeout g) s = .next t
        ∧ (t.group g).abort = some (freshAbort 0x07 0xFFFFF 0xFFF s.now) ∧ OtherGroups g s t
        ∧ OnlyChanges [.ports, .groups, .events, .stats] s t)
    ∧ (∀ (g x n p : Nat) (e : Express) (s : State), s.running = true → s.findExpress g kStat x = some e →
      e.forwarded = some n → e.result = none → (s.group g).abort = none → s.overdue g (n + s.hG g) = true →
      (e.lost = true → exec (.broadcastLossTimeout g kStat x) s = .next s)
        ∧ (e.lost = false → s.expressRx g = some p → ∃ t f, exec (.broadcastLossTimeout g kStat x) s = .next t
            ∧ t.findExpress g kStat x = some f ∧ f.lost = true ∧ (t.group g).abort = none
            ∧ t.stats = (s.bumpPort p .expressLost 1).stats ∧ OtherGroups g s t
            ∧ OnlyChanges [.groups, .events, .stats] s t))

/-! ### Aborts -/

/-- Abort tokens. The first that a member of the group hears of becomes the one it keeps and goes on; of two the lower by
VALUE and then by code is kept, but that of an OPEN one of a hash mismatch stands against one of a timeout (R298); the
member's own token coming back is noted as returned and goes no further. With the first token the reduce messages that the
member holds are dropped, and a member that holds the OPEN for a neighbour's hash answers a timeout with 0x07. A member
that has nothing to end passes a token on and keeps nothing. (Which CLOSED members take part is the model's reading, log
entry 61, and that a token sent again counts as lost its choice, log entry 85.)

The abort report, 2 · Λ_N tides after the kept token last changed: the group is ABORTED with the kept token's code, which
the queue's registers, the step record and a STEP_ABORT event name, and its staged chunk cells are gone (the latter the
model's reading, log entry 70); before that tide nothing happens. A member's own token goes again every Λ_N tides. -/
def Obligations.AbortsAgreeAndAreReported : Prop :=
  ((∀ (p : Nat) (w : Word64) (second : Bool) (m : Msg) (s : State), s.running = true → s.taken p w second m →
        m.kind = kAbort → (s.group m.group).abort = none → s.takesToken m.group = true →
        ¬(m.tag % 256 = 0x01 ∧ m.value = 0xFFFFFFFF ∧ (s.group m.group).openAt.isSome = true
            ∧ s.neighboursWith m.group 2 = true) → ∃ t a,
        exec (.abortToken p w second) s = .next t ∧ a.kept = (m.tag % 256, m.value)
          ∧ a.own = [] ∧ a.firstAt = s.now ∧ a.changedAt = s.now ∧ a.reported = false
          ∧ t.group m.group = { s.group m.group with
              abort := some a, ctxs := (s.group m.group).ctxs.map (fun x => { x with errCode := m.tag % 256 }),
              express := (s.group m.group).express.map (fun e => { e with held := none }) }
          ∧ OtherGroups m.group s t ∧ OnlyChanges [.ports, .groups] s t)
      ∧ (∀ (p : Nat) (w : Word64) (second : Bool) (m : Msg) (s : State), s.running = true → s.taken p w second m →
        m.kind = kAbort → (s.group m.group).abort = none → s.takesToken m.group = true → m.tag % 256 = 0x01 →
        m.value = 0xFFFFFFFF → (s.group m.group).openAt.isSome = true → s.neighboursWith m.group 2 = true → ∃ t a,
        exec (.abortToken p w second) s = .next t ∧ (t.group m.group).abort = some a
          ∧ a.kept = (0x07, 0xFFFFFFFF) ∧ a.own = [(0x07, 0xFFFFFFFF)]
          ∧ OtherGroups m.group s t ∧ OnlyChanges [.ports, .groups, .events, .stats] s t)
      ∧ (∀ (p : Nat) (w : Word64) (second : Bool) (m : Msg) (s : State), s.running = true → s.taken p w second m →
        m.kind = kAbort → (s.group m.group).abort = none → s.takesToken m.group = false → ∃ t,
        exec (.abortToken p w second) s = .next t ∧ OnlyChanges [.ports] s t)
      ∧ (∀ (p : Nat) (w : Word64) (second : Bool) (m : Msg) (a : AbortState) (s : State), s.running = true →
        s.taken p w second m → m.kind = kAbort → (s.group m.group).abort = some a →
        (a.own.contains (m.tag % 256, m.value) = false → ∃ t b, exec (.abortToken p w second) s = .next t
          ∧ (t.group m.group).abort = some b
          ∧ b.kept = (if a.reported = false ∧ State.tokenWins ((s.group m.group).openAt.isSome
                || (s.group m.group).state == .closed) (m.tag % 256, m.value) a.kept = true
              then (m.tag % 256, m.value) else a.kept)
          ∧ OtherGroups m.group s t ∧ OnlyChanges [.ports, .groups] s t)
        ∧ (a.own.contains (m.tag % 256, m.value) = true → ∃ t, exec (.abortToken p w second) s = .next t
          ∧ t.group m.group = { s.group m.group with abort := some { a with returned := true } }
          ∧ OtherGroups m.group s t ∧ OnlyChanges [.ports, .groups] s t)))
    ∧ ((∀ (g : Nat) (a : AbortState) (s : State), s.running = true → (s.group g).abort = some a → a.reported = false →
        a.changedAt + 2 * lambda (s.ringN g) ≤ s.now → s.autoMode g = false → ∃ t r,
        exec (.abortReport g) s = .next t ∧ (t.group g).state = .aborted ∧ (t.group g).abortCode = a.kept.1
          ∧ (t.group g).ctxs = [] ∧ (t.queue g).lastCode = a.kept.1 ∧ (t.queue g).lastAbort = a.kept.2
          ∧ (t.group g).record = some r ∧ r.state = .aborted ∧ r.abortCode = a.kept.1
          ∧ (∃ e ∈ t.events, e.type = 0x0010 ∧ e.group = some g ∧ e.code = a.kept.1 ∧ e.arg = a.kept.2)
          ∧ (∀ x ∈ t.staging, x.group = g → x.lap = State.vc1Lap) ∧ OtherGroups g s t ∧ OtherQueues g s t
          ∧ OnlyChanges [.ports, .queues, .groups, .staging, .events] s t)
      ∧ (∀ (g : Nat) (a : AbortState) (s : State), s.running = true → (s.group g).abort = some a → a.reported = false →
        a.changedAt + 2 * lambda (s.ringN g) ≤ s.now → ∃ t, exec (.abortReport g) s = .next t
          ∧ (t.group g).abortCode = a.kept.1 ∧ (t.queue g).lastCode = a.kept.1 ∧ (t.queue g).lastAbort = a.kept.2
          ∧ ((t.group g).state = .aborted ∨ (t.group g).state = .recovering) ∧ OtherGroups g s t ∧ OtherQueues g s t
          ∧ OnlyChanges [.out, .power, .ports, .queues, .groups, .staging, .stack, .badUnits, .units, .events, .stats,
              .maint] s t)
      ∧ (∀ (g : Nat) (a : AbortState) (s : State), (s.group g).abort = some a →
        (a.reported = true ∨ s.now < a.changedAt + 2 * lambda (s.ringN g)) → exec (.abortReport g) s = .next s)
      ∧ (∀ (g : Nat) (a : AbortState) (tok : Nat × Nat) (rest : List (Nat × Nat)) (s : State), s.running = true →
        (s.group g).abort = some a → a.own = tok :: rest → a.reported = false → a.returned = false →
        a.sentAt + lambda (s.ringN g) ≤ s.now → ∃ t, exec (.abortResend g) s = .next t
          ∧ t.group g = { s.group g with abort := some { a with sentAt := s.now } } ∧ OtherGroups g s t
          ∧ OnlyChanges [.ports, .groups, .events, .stats] s t))

/-! ### Step commit -/

/-- Applied reports and the vote. A report between the last one and the last RSEQ sent is taken. A unit's reset sends its
unapplied releases again, each redelivered from retention that can be read; a chunk whose retention cannot ends its
group's step with 0x0B. A member whose step may vote is APPLIED, in its record too, with its operand of the COMMIT
instance given. -/
def Obligations.AppliedReportsLeadToTheVote : Prop :=
  (∀ (u : Nat) (n : Word32) (s : State), s.running = true →
      atOrAfter 32 (s.unit u).rseq.toNat n.toNat = true → atOrAfter 32 n.toNat (s.unit u).applied.toNat = true →
      (atOrAfter 32 n.toNat (s.unit u).rseq.toNat = true → n = (s.unit u).rseq) → ∃ t,
      exec (.appliedSeqReport u n) s = .next t ∧ t.unit u = { s.unit u with applied := n }
        ∧ (∀ x, x ≠ u → t.unit x = s.unit x) ∧ OnlyChanges [.units] s t)
    ∧ (∀ (u : Nat) (met : StackReads) (s : State), s.running = true →
      (∀ x ∈ s.unappliedAll u, ∀ v, s.retView x.1 x.2.bucket x.2.chunk = some v →
        s.redeliveryBad v x.2.chunk met.bad = []) → ∃ t msgs, exec (.unitReset u met) s = .next t
        ∧ t.out = s.out ++ msgs ∧ (msgs.filter isReleaseOut).length = (s.unappliedAll u).length
        ∧ OnlyChanges [.out, .groups, .units, .events, .stats] s t)
    ∧ (∀ (u : Nat) (met : StackReads) (x : Nat × Release) (v : OpView) (s : State), s.running = true →
      x ∈ s.unappliedAll u → s.retView x.1 x.2.bucket x.2.chunk = some v → s.redeliveryBad v x.2.chunk met.bad ≠ [] →
      s.abortable x.1 = true → (s.group x.1).abort = none → ∃ t a, exec (.unitReset u met) s = .next t
        ∧ (t.group x.1).abort = some a ∧ a.kept.1 = 0x0B
        ∧ OnlyChanges [.out, .power, .ports, .groups, .badUnits, .units, .events, .stats, .maint] s t)
    ∧ (∀ (g : Nat) (s : State), s.running = true → s.mayVote g = true → ∃ t e, exec (.appliedVote g) s = .next t
        ∧ (t.group g).state = .applied ∧ (t.group g).record = (s.group g).record.map (fun r => { r with state := .applied })
        ∧ e ∈ (t.group g).express ∧ e.kind = kCommit ∧ e.tag = (s.group g).step % 2 ^ 14 ∧ e.own = some 0
        ∧ e.flag = s.voteHold g ∧ OtherGroups g s t ∧ OnlyChanges [.ports, .groups, .events, .stats] s t)
    ∧ (∀ (g : Nat) (s : State), s.mayVote g = false → exec (.appliedVote g) s = .next s)

/-- The commit and the OPEN. At the tide of the COMMIT instance the step counter advances by one, retention is freed and
the step record closed; with the hold flag, or at the counter's maximum (the latter the model's reading, log entry 65), the
group is CLOSED, without it the next step begins in EXCHANGE with the tide after E as its base.

The commit flips the generation selector of each bucket whose every chunk wrote generation B. Of each bucket that the step
exchanged it latches the reduced values with the fall-back state, hold count and E_t that follow from them; a bucket with a
chunk released before a SUBSTITUTE keeps them, as does one that the step did not exchange (the latter the model's choice, log
entry 84; what a saturated value compares to, log entry 83).

At the tide of the OPEN a CLOSED member begins the step in EXCHANGE at that base, and a member in recovery resumes it as a
further attempt, or joins it where it came from CLOSED; every bucket keeps its latched state. In any other tide, and in Idle,
neither happens. What waits in the boundary's order then goes on. (That order and the base of a step whose message came late
are the model's readings: log entries 103 and 58.) -/
def Obligations.CommitAdvancesAndOpenBeginsTheStep : Prop :=
  (∀ (g n : Nat) (v : Word32) (e : Express) (s : State), s.running = true → s.commitInstance g = some e →
      e.effectAt = some n → e.result = some v → n = s.now → (s.group g).abort = none → (s.group g).state = .applied →
      ∃ u, exec (.commitEffect g) s = .next u.settle
        ∧ (u.group g).step = (s.group g).step + 1 ∧ (u.group g).retained = [] ∧ (u.group g).releases = []
        ∧ (e.flag = true ∨ (s.group g).step + 1 = 2 ^ 48 - 1 → (u.group g).state = .closed)
        ∧ (e.flag = false → (s.group g).step + 1 ≠ 2 ^ 48 - 1 → (u.group g).state = .exchange
            ∧ (u.group g).base = s.tideNear v.toNat + 1 ∧ (u.group g).ctxs = [])
        ∧ (((s.im.bucketsOf g).map (·.bucket)).Nodup → ((s.stepExchanges g).map (·.2.bucket)).Nodup →
            (∀ d ∈ s.im.bucketsOf g, (u.bucket d.bucket).selector
              = (if s.writtenWhole g d = true then !(s.bucket d.bucket).selector else (s.bucket d.bucket).selector))
            ∧ (∀ x ∈ s.stepExchanges g, ∀ d, s.im.bucketDesc x.2.bucket = some d →
                ((s.group g).recovery.substituted = false
                  ∨ (s.group g).recovery.releasedSet.any (fun y => y / 2 ^ 20 == d.bucket) = false) →
                s.latchedAfter g x.2 d (u.bucket d.bucket))
            ∧ (∀ d ∈ s.im.bucketsOf g, ((∀ x ∈ s.stepExchanges g, x.2.bucket ≠ d.bucket)
                ∨ ((s.group g).recovery.substituted = true
                  ∧ (s.group g).recovery.releasedSet.any (fun y => y / 2 ^ 20 == d.bucket) = true)) →
                u.bucket d.bucket = { s.bucket d.bucket with selector := (u.bucket d.bucket).selector }))
        ∧ OtherGroups g s u ∧ OtherQueues g s u
        ∧ OnlyChanges [.ports, .books, .queues, .groups, .buckets, .staging, .events, .stats] s u)
    ∧ (∀ (g n : Nat) (e : Express) (s : State), s.running = true → s.commitInstance g = some e → e.effectAt = some n →
      n ≠ s.now → exec (.commitEffect g) s = .next s.settle)
    ∧ (∀ (g n : Nat) (v : Word32) (e : Express) (s : State), s.running = true → s.findExpress g kOpen 0 = some e →
      e.effectAt = some n → e.result = some v → n = s.now → (s.group g).abort = none → s.power.mode = .full →
      (s.group g).openAt.isSome = true → (s.group g).state = .closed
        ∨ ((s.group g).state = .recovering ∧ (s.group g).recovery.fromState = .closed) → ∃ u,
            exec (.openEffect g) s = .next u.settle
        ∧ (u.group g).state = .exchange ∧ (u.group g).base = s.tideNear v.toNat ∧ (u.group g).step = (s.group g).step
        ∧ (u.group g).openAt = none ∧ (u.group g).record.isSome = true ∧ OtherGroups g s u
        ∧ OnlyChanges [.groups, .staging, .events, .stats] s u)
    ∧ (∀ (g n : Nat) (v : Word32) (e : Express) (s : State), s.running = true → s.findExpress g kOpen 0 = some e →
      e.effectAt = some n → e.result = some v → n = s.now → (s.group g).abort = none → s.power.mode = .full →
      (s.group g).openAt.isSome = true → (s.group g).state = .recovering → (s.group g).recovery.fromState ≠ .closed →
      ∃ u, exec (.openEffect g) s = .next u.settle ∧ (u.group g).attempt = (s.group g).attempt + 1
        ∧ (u.group g).base = s.tideNear v.toNat ∧ (u.group g).step = (s.group g).step ∧ (u.group g).openAt = none
        ∧ OtherGroups g s u ∧ OnlyChanges [.ports, .queues, .groups, .staging, .events, .stats] s u)
    ∧ (∀ (g n : Nat) (e : Express) (s : State), s.running = true → s.findExpress g kOpen 0 = some e →
      e.effectAt = some n → n ≠ s.now ∨ s.power.mode ≠ .full → exec (.openEffect g) s = .next s.settle)

/-- The hall controller's writes to a group block: STEP_DISCARD in ABORTED, RECOVERING or CLOSED drops the step, enters
CLOSED and ends a diagnosis replay, whose report is then INCOMPLETE (without entries: log entry 112); elsewhere it is
ignored and flagged; STEP_HOLD sets the hold; GROUP_STEP sets the counter of a CLOSED group whose queue is STOPPED;
DIAG_CTRL.START in ABORTED begins the diagnosis, whose end reports one entry for each of the step record's, UNAVAILABLE
for one that is lost (for one whose stack data cannot be read, the model's choice, log entry 125). -/
def Obligations.GroupBlockWritesActInTheirStates : Prop :=
  ∀ (tag g : Nat) (s : State), s.running = true → s.tagPriv tag = true → g < 256 →
    ((s.group g).state = .aborted ∨ (s.group g).state = .recovering ∨ (s.group g).state = .closed → ∃ t,
        exec (.stepDiscard tag g) s = .next t ∧ (t.group g).state = .closed ∧ (t.group g).record = none
          ∧ (t.group g).retained = [] ∧ (t.group g).step = (s.group g).step ∧ OtherGroups g s t
          ∧ (t.group g).diag = State.endDiag (s.group g)
          ∧ (∃ e ∈ t.events, e.type = 0x0011 ∧ e.group = some g ∧ e.subject = (s.group g).step)
          ∧ OnlyChanges [.ports, .books, .host, .queues, .groups, .buckets, .staging, .stack, .badUnits, .events,
              .stats] s t)
    ∧ ((s.group g).state = .exchange ∨ (s.group g).state = .released ∨ (s.group g).state = .applied → ∃ t,
        exec (.stepDiscard tag g) s = .next t ∧ t.group g = { s.group g with writeIgnored := true }
          ∧ OtherGroups g s t ∧ OnlyChanges [.host, .groups] s t)
    ∧ (∀ v : Word32, ∃ t, exec (.stepHoldWrite tag g v) s = .next t ∧ (t.group g).hold = bitAt v.toNat 0
          ∧ (t.group g).step = (s.group g).step ∧ (t.group g).state = (s.group g).state ∧ OtherGroups g s t
          ∧ OnlyChanges [.ports, .books, .host, .queues, .groups, .events, .stats] s t)
    ∧ (∀ v : Word64, (s.queue g).state = .stopped → (s.group g).state = .closed → ∃ t,
        exec (.groupStepWrite tag g v) s = .next t
          ∧ t.group g = { s.group g with step := v.toNat % 2 ^ 48, openRefused := false } ∧ OtherGroups g s t
          ∧ OnlyChanges [.host, .groups] s t)
    ∧ ((s.group g).state = .aborted → (s.group g).diag.busy = false → ∃ t, exec (.diagStart tag g) s = .next t
          ∧ t.group g = { s.group g with diag := { (s.group g).diag with busy := true } } ∧ OtherGroups g s t
          ∧ OnlyChanges [.host, .groups, .events, .stats] s t)
    ∧ (∀ (r : StepRecord) (inputs : DiagReads), (s.group g).diag.busy = true →
        (s.group g).record = some r →
        (s.group g).recovery.heldDecide = false → ∃ t, exec (.diagDone g inputs) s = .next t
          ∧ (t.group g).diag.busy = false ∧ (t.group g).diag.done = true ∧ (t.group g).diag.report
              = some { incomplete := false, step := r.step
                       entries := r.entries.map (s.diagEntry g inputs.chunks inputs.met.bad) }
          ∧ (t.group g).state = (s.group g).state
          ∧ (∀ e ∈ r.entries, e.lost = true ∨ s.diagBad g inputs.met.bad e ≠ [] →
              (s.diagEntry g inputs.chunks inputs.met.bad e).result = 8)
          ∧ OtherGroups g s t ∧ OnlyChanges [.power, .groups, .badUnits, .events, .stats, .maint] s t)

/-! ### Recovery -/

/-- A recovery cell of the group's step and of its round or a later one, from a ring partner's port in SERVICE and not held
already, is kept, with its round, and passed on over every other link of the group; one already held, of another step, of an
earlier round or from elsewhere changes nothing. A cell of the step after an applied one proves the COMMIT that the member
missed: it commits its step and stands ABORTED in the next.

The coordinator in AUTO mode, at its deadline: a poisoned step (0x05) is decided as SKIP; one with no member lost and a
transient cause as RESUME with the table in force; one with one lost member, a table mapped for it and chunks still to
release as SUBSTITUTE with that table; with no table, or with every survivor's chunks released, the lost member's return is
waited for; more than one lost member, and the codes left to the hall controller, are not decided. Where a lost member's
return is waited for, the expiry decides SUBSTITUTE with the table that the image maps to that chip. The decision goes out
as DECIDE. -/
def Obligations.RecoveryRoundsAgree : Prop :=
  (∀ (c : Instr) (p k : Nat) (cell : Bytes) (met : StackReads) (f : CellFields) (x : RecoveryCell) (s : State),
      (c = .propose p cell ∧ k = 0) ∨ (c = .census p cell ∧ k = 1) ∨ (c = .decide p cell met ∧ k = 2)
        ∨ (c = .ack p cell ∧ k = 3) → s.running = true → s.arrives p tRecovery cell f → rd f.payload 0 1 = k →
      x = readRecovery p f.payload →
      ((s.port p).link = .service → s.im.rings.any (fun r => r.group == x.group && (s.posIn r).isSome) = true →
          x.step = (s.group x.group).step → atOrAfter 8 x.round (s.group x.group).recovery.round = true →
          (x.round = (s.group x.group).recovery.round → (s.group x.group).recovery.cells.any
            (fun y => y.1 == k && y.2.sender == x.sender && y.2.part == x.part) = false) →
          ∃ t, exec c s = .next t ∧ (k, x) ∈ (t.group x.group).recovery.cells
            ∧ (t.group x.group).recovery.round = x.round
            ∧ (∀ q ∈ s.recoveryPorts x.group, q ≠ p → (s.port q).link = .service →
                ⟨rankRecovery, tRecovery, x.group, recoveryPayload k x⟩ ∈ (t.port q).vc3)
            ∧ OtherGroups x.group s t
            ∧ OnlyChanges [.out, .power, .ports, .groups, .stack, .badUnits, .units, .events, .stats, .maint] s t)
      ∧ (s.missedCommit x.group x = false →
          (s.port p).link ≠ .service ∨ s.im.rings.any (fun r => r.group == x.group && (s.posIn r).isSome) = false
            ∨ x.step ≠ (s.group x.group).step ∨ atOrAfter 8 x.round (s.group x.group).recovery.round = false
            ∨ (x.round = (s.group x.group).recovery.round ∧ (s.group x.group).recovery.cells.any
                (fun y => y.1 == k && y.2.sender == x.sender && y.2.part == x.part) = true) →
          exec c s = .next ((if k = 2 then s.readStack met else s).heard p cell))
      ∧ (s.missedCommit x.group x = true → (s.port p).link = .service → ∃ t, exec c s = .next t
          ∧ (t.group x.group).step = (s.group x.group).step + 1
          ∧ ((t.group x.group).state = .aborted ∨ (t.group x.group).state = .recovering) ∧ OtherGroups x.group s t
          ∧ OnlyChanges [.out, .power, .ports, .books, .queues, .groups, .buckets, .staging, .stack, .badUnits, .units,
              .events, .stats, .maint] s t))
    ∧ ((∀ (g n : Nat) (lost : List Nat) (s : State), s.running = true → (s.group g).recovery.firstPropose = some n →
        s.undecided g = true → n + 2 * s.ringN g ≤ s.now →
        lost = ((s.proposedLost g).filter (s.ringChips g).contains ++ s.missingCensus g).eraseDups →
        (∀ action table,
          ((s.group g).abortCode = 0x05 ∧ action = 2 ∧ table = (s.group g).table)
            ∨ (lost = [] ∧ (s.group g).abortCode ∈ [0x01, 0x03, 0x04, 0x0B] ∧ action = 0 ∧ table = (s.group g).table)
            ∨ (∃ chip, lost = [chip] ∧ (s.group g).abortCode ∉ [0x05, 0x06, 0x07, 0x08, 0x0C, 0x0D] ∧ action = 1
                ∧ s.alternateFor g chip = some table ∧ s.allReleasedStates g lost = false) →
          ∃ t x, exec (.coordinatorDeadline g) s = .next t ∧ (2, x) ∈ (t.group g).recovery.cells ∧ x.state = action
            ∧ x.table = table ∧ x.tR = s.now + s.recoveryLead g ∧ x.sender = s.ident.hallChip
            ∧ (∀ q ∈ s.recoveryPorts g, (s.port q).link = .service →
                ⟨rankRecovery, tRecovery, g, recoveryPayload 2 x⟩ ∈ (t.port q).vc3)
            ∧ OtherGroups g s t
            ∧ OnlyChanges [.out, .power, .ports, .groups, .stack, .badUnits, .units, .events, .stats, .maint] s t))
      ∧ (∀ (g n : Nat) (lost : List Nat) (s : State), s.running = true → (s.group g).recovery.firstPropose = some n →
        s.undecided g = true → n + 2 * s.ringN g ≤ s.now →
        lost = ((s.proposedLost g).filter (s.ringChips g).contains ++ s.missingCensus g).eraseDups →
        ((s.group g).abortCode ∈ [0x06, 0x07, 0x08, 0x0C, 0x0D]
            ∨ ((s.group g).abortCode ≠ 0x05 ∧ 2 ≤ lost.length) → exec (.coordinatorDeadline g) s = .next s)
        ∧ (∀ chip, lost = [chip] → (s.group g).abortCode ∉ [0x05, 0x06, 0x07, 0x08, 0x0C, 0x0D] →
          s.alternateFor g chip = none ∨ s.allReleasedStates g lost = true → ∃ t,
          exec (.coordinatorDeadline g) s = .next t ∧ t.group g = { s.group g with
              recovery := { (s.group g).recovery with
                rejoinUntil := some (s.now + ((s.im.faultDesc g).map (·.rejoinWait)).getD 781250)
                lostChip := chip } }
            ∧ OtherGroups g s t ∧ OnlyChanges [.groups] s t))
      ∧ (∀ (g n a : Nat) (s : State), s.running = true → (s.group g).recovery.rejoinUntil = some n → n ≤ s.now →
        (s.group g).recovery.decision = none → s.alternateFor g (s.group g).recovery.lostChip = some a → ∃ t x,
        exec (.rejoinWaitExpiry g) s = .next t ∧ (2, x) ∈ (t.group g).recovery.cells ∧ x.state = 1 ∧ x.table = a
          ∧ x.tR = s.now + s.recoveryLead g ∧ OtherGroups g s t
          ∧ OnlyChanges [.out, .power, .ports, .groups, .stack, .badUnits, .units, .events, .stats, .maint] s t)
      ∧ (∀ (g : Nat) (s : State), s.undecided g = false → exec (.coordinatorDeadline g) s = .next s))

/-- At T_R, an action of the boundary in progress that goes on after it (log entry 103), and where it brings another table
one that waits for the effects due there, a member in RECOVERING with an acknowledged decision takes the decision's table
and enters the OPEN, but for one held from CLOSED whose step counter is at its maximum, which refuses it and is CLOSED (the
latter the model's reading, log entry 65). One in ABORTED or CLOSED whose RECOVERY_CTRL is armed does so too, where the
armed table has a place for it; where it has none, one in CLOSED takes the table and the end of HOLD and one in ABORTED the
end of HOLD alone, with STATUS 2 (what T_R brings a member that is left out is the model's reading, log entry 63). One that
knows of the tide only from others' cells counts a recovery timeout once. Under SKIP a member of the ring, armed or in
RECOVERING, closes its step, with the counter advanced by one, the group CLOSED and the record committed with code 0x05; one
outside the ring ends its ARM (log entry 63). A member that an abort has reached again takes neither. Where a DECIDE contradicts
the ARM, T_R brings the end of HOLD alone, with STATUS 0 (the latter the model's reading, log entry 63). Before T_R none of
it happens.

RECOVERY_CTRL: a write without ARM stores ACTION, TABLE and SKIP; one with ARM is armed for an ABORTED group or one held in
CLOSED, not yet decided, whose T_R is 4,096 tides ahead and whose table exists or is not used, and refused otherwise: in any
other step state, and where a decision has been acknowledged. One that differs from a DECIDE held is a conflict. -/
def Obligations.DecisionsAreArmedAndTaken : Prop :=
  ((∀ (g : Nat) (d : Decision) (s : State), s.running = true → (s.group g).state = .recovering →
        (s.group g).abort = none → (s.group g).recovery.decision = some d → d.acked = true → d.tR ≤ s.now → d.action ≠ 2 →
        (s.group g).openAt = none → (s.tableDue g = true → s.effectsDue = false) →
        ((s.group g).recovery.fromState ≠ .closed ∨ (s.group g).step ≠ 2 ^ 48 - 1 → ∃ u,
          exec (.resumeTide g) s = .next u.settle ∧ (u.group g).table = d.table
          ∧ (u.group g).openAt = some s.now ∧ (u.group g).recovery.decision = none ∧ (u.group g).step = (s.group g).step
          ∧ (u.group g).state = .recovering ∧ OtherGroups g s u
          ∧ OnlyChanges [.power, .ports, .groups, .buckets, .stack, .badUnits, .blockCount, .blockRx, .events, .stats,
              .maint] s u)
        ∧ ((s.group g).recovery.fromState = .closed → (s.group g).step = 2 ^ 48 - 1 → ∃ u,
          exec (.resumeTide g) s = .next u.settle ∧ (u.group g).state = .closed ∧ (u.group g).openAt = none
          ∧ (u.group g).openRefused = true ∧ (u.group g).step = (s.group g).step ∧ OtherGroups g s u
          ∧ OtherQueues g s u
          ∧ OnlyChanges [.books, .queues, .groups, .buckets, .stack, .badUnits, .blockCount, .blockRx, .events, .stats,
              .maint] s u))
      ∧ (∀ (g : Nat) (a : Armed) (s : State), s.running = true → (s.group g).recovery.decision = none →
        (s.group g).rc.armed = some a → a.tR ≤ s.now → a.action ≠ 2 → (s.group g).openAt = none →
        ((s.group g).state = .aborted → (s.group g).diag.busy = false → s.inRing g a.table = true →
          (s.tableDue g = true → s.effectsDue = false) → (s.group g).recovery.fromState ≠ .closed → ∃ u,
              exec (.resumeTide g) s = .next u.settle
          ∧ (u.group g).table = a.table ∧ (u.group g).state = .recovering ∧ (u.group g).openAt = some s.now
          ∧ (u.group g).hold = false ∧ (u.group g).rc.status = 2 ∧ (u.group g).rc.armed = none ∧ OtherGroups g s u
          ∧ OnlyChanges [.power, .ports, .groups, .buckets, .stack, .badUnits, .blockCount, .blockRx, .events, .stats,
              .maint] s u)
        ∧ ((s.group g).state = .closed → s.inRing g a.table = true → (s.tableDue g = true → s.effectsDue = false) →
          (s.group g).step ≠ 2 ^ 48 - 1 → ∃ u, exec (.resumeTide g) s = .next u.settle
          ∧ (u.group g).table = a.table ∧ (u.group g).state = .recovering ∧ (u.group g).openAt = some s.now
          ∧ (u.group g).hold = false ∧ (u.group g).rc.status = 2 ∧ (u.group g).rc.armed = none ∧ OtherGroups g s u
          ∧ OnlyChanges [.power, .ports, .groups, .buckets, .stack, .badUnits, .blockCount, .blockRx, .events, .stats,
              .maint] s u)
        ∧ ((s.group g).state = .aborted → s.inRing g a.table = false → ∃ u, exec (.resumeTide g) s = .next u.settle
          ∧ u.group g = { s.group g with hold := false, rc := { (s.group g).rc with status := 2, armed := none } }
          ∧ OtherGroups g s u ∧ OnlyChanges [.groups] s u)
        ∧ ((s.group g).state = .closed → s.inRing g a.table = false → (s.tableDue g = true → s.effectsDue = false) →
          ∃ u, exec (.resumeTide g) s = .next u.settle
          ∧ u.group g = { s.group g with table := a.table, hold := false
                                         rc := { (s.group g).rc with status := 2, armed := none } }
          ∧ OtherGroups g s u ∧ OnlyChanges [.groups, .maint] s u))
      ∧ (∀ (g : Nat) (s : State), s.running = true → (s.group g).recovery.decision = none → (s.group g).rc.armed = none →
        (s.group g).state = .aborted → s.missedResume g = true → (s.group g).recovery.timedOut = false → ∃ t,
        exec (.resumeTide g) s = .next t ∧ (t.group g).recovery = { (s.group g).recovery with timedOut := true }
          ∧ (t.group g).state = .aborted ∧ t.stats = (s.bump .recoveryTimeout).stats ∧ OtherGroups g s t
          ∧ OnlyChanges [.groups, .events, .stats] s t)
      ∧ (∀ (g : Nat) (s : State), s.tableDue g = true → s.effectsDue = true → exec (.resumeTide g) s = .next s)
      ∧ (∀ (g : Nat) (d : Decision) (met : StackReads) (s : State), s.running = true → (s.group g).state = .recovering →
        (s.group g).recovery.decision = some d → d.acked = true → (s.group g).abort.isSome = true →
        exec (.resumeTide g) s = .next s ∧ exec (.skipClose ⟨g, met⟩) s = .next s)
      ∧ (∀ (g : Nat) (d : Decision) (a : Armed) (c : Instr) (met : StackReads) (s : State), s.running = true →
        (s.group g).recovery.decision = some d → d.acked = false → (s.group g).recovery.heldDecide = false →
        (s.group g).rc.armed = some a → State.agrees a d.action d.table d.tR = false → a.tR ≤ s.now →
        (c = .resumeTide g ∧ a.action ≠ 2) ∨ (c = .skipClose ⟨g, met⟩ ∧ a.action = 2) → ∃ t, exec c s = .next t
          ∧ (t.group g).hold = false ∧ (t.group g).rc.armed = none ∧ (t.group g).rc.status = 0
          ∧ (t.group g).state = (s.group g).state ∧ (t.group g).step = (s.group g).step ∧ OtherGroups g s t
          ∧ OnlyChanges [.ports, .books, .queues, .groups, .events, .stats] s t)
      ∧ (∀ (g : Nat) (d : Decision) (met : StackReads) (s : State), s.running = true → (s.group g).state = .recovering →
        (s.group g).abort = none →
        (s.group g).recovery.decision = some d → d.acked = true → d.tR ≤ s.now → d.action = 2 → ∃ t,
        exec (.skipClose ⟨g, met⟩) s = .next t ∧ (t.group g).state = .closed
          ∧ (t.group g).step = Nat.min ((s.group g).step + 1) (2 ^ 48 - 1) ∧ (t.group g).record = none
          ∧ (t.group g).lastRecord.map (·.abortCode) = (s.group g).record.map (fun _ => 0x05)
          ∧ (t.group g).retained = [] ∧ OtherGroups g s t ∧ OtherQueues g s t
          ∧ OnlyChanges [.power, .ports, .books, .queues, .groups, .buckets, .staging, .stack, .badUnits, .events, .stats,
              .maint] s t)
      ∧ (∀ (g : Nat) (a : Armed) (met : StackReads) (s : State), s.running = true →
        (s.group g).recovery.decision = none → (s.group g).rc.armed = some a → a.tR ≤ s.now → a.action = 2 →
        (s.member g = true →
          ((s.group g).state = .aborted ∧ (s.group g).diag.busy = false) ∨ (s.group g).state = .closed → ∃ t,
          exec (.skipClose ⟨g, met⟩) s = .next t ∧ (t.group g).state = .closed
          ∧ (t.group g).step = Nat.min ((s.group g).step + 1) (2 ^ 48 - 1) ∧ (t.group g).record = none
          ∧ (t.group g).hold = false ∧ (t.group g).rc.status = 2 ∧ (t.group g).rc.armed = none
          ∧ OtherGroups g s t ∧ OtherQueues g s t
          ∧ OnlyChanges [.power, .ports, .books, .queues, .groups, .buckets, .staging, .stack, .badUnits, .events, .stats,
              .maint] s t)
        ∧ (s.member g = false → (s.group g).state ≠ .recovering → ∃ t, exec (.skipClose ⟨g, met⟩) s = .next t
          ∧ t.group g = { s.group g with hold := false, rc := { (s.group g).rc with status := 2, armed := none } }
          ∧ OtherGroups g s t ∧ OnlyChanges [.groups] s t))
      ∧ (∀ (g : Nat) (d : Decision) (met : StackReads) (s : State), s.decisionAt g = some d → s.now < d.tR →
        exec (.resumeTide g) s = .next s ∧ exec (.skipClose ⟨g, met⟩) s = .next s))
    ∧ (∀ (tag g : Nat) (v : Word32) (s : State), s.running = true → s.tagPriv tag = true → g < 256 →
      (bitAt v.toNat 8 = false → ∃ t, exec (.recoveryCtrlArm tag g v) s = .next t
          ∧ t.group g = { s.group g with rc := { (s.group g).rc with
              action := field v.toNat 0 1, table := field v.toNat 1 4, skip := bitAt v.toNat 5
              conflict := (s.group g).rc.conflict && !bitAt v.toNat 11 } }
          ∧ OtherGroups g s t ∧ OnlyChanges [.host, .groups] s t)
      ∧ (bitAt v.toNat 8 = true → ((s.group g).state = .aborted ∨ s.heldBit g = true) → s.now + 4096 ≤ (s.group g).rc.tR →
          (bitAt v.toNat 5 = true ∨ (s.im.tableDesc (field v.toNat 1 4)).isSome = true) →
          ((s.group g).recovery.decision = none → ∃ t, exec (.recoveryCtrlArm tag g v) s = .next t
            ∧ (t.group g).rc.status = 1 ∧ (t.group g).rc.table = field v.toNat 1 4
            ∧ (t.group g).rc.armed = some { action := if bitAt v.toNat 5 = true then 2 else field v.toNat 0 1
                                            table := field v.toNat 1 4, tR := (s.group g).rc.tR }
            ∧ OtherGroups g s t
            ∧ OnlyChanges [.out, .power, .ports, .host, .groups, .stack, .badUnits, .units, .events, .stats, .maint] s t)
          ∧ (∀ d, (s.group g).recovery.decision = some d → d.acked = false →
              d.action ≠ (if bitAt v.toNat 5 = true then 2 else field v.toNat 0 1)
                ∨ (d.action ≠ 2 ∧ d.table ≠ field v.toNat 1 4) ∨ d.tR ≠ (s.group g).rc.tR → ∃ t,
            exec (.recoveryCtrlArm tag g v) s = .next t ∧ (t.group g).rc.conflict = true
            ∧ (t.group g).state = (s.group g).state ∧ (t.group g).recovery = (s.group g).recovery
            ∧ (∃ e ∈ t.events, e.type = 0x0012 ∧ e.group = some g) ∧ OtherGroups g s t
            ∧ OnlyChanges [.host, .groups, .events, .stats] s t))
      ∧ (bitAt v.toNat 8 = true →
          (s.now + 4096 > (s.group g).rc.tR ∨ (s.group g).state = .recovering ∨ (s.group g).state = .exchange
            ∨ (s.group g).state = .released ∨ (s.group g).state = .applied
            ∨ ((s.group g).state = .closed ∧ s.heldBit g = false)
            ∨ (∃ d, (s.group g).recovery.decision = some d ∧ d.acked = true)
            ∨ (bitAt v.toNat 5 = false ∧ s.im.tableDesc (field v.toNat 1 4) = none)) → ∃ t,
          exec (.recoveryCtrlArm tag g v) s = .next t ∧ (t.group g).rc.status = 3
            ∧ (t.group g).rc.armed = (s.group g).rc.armed ∧ (t.group g).recovery = (s.group g).recovery
            ∧ OtherGroups g s t ∧ OnlyChanges [.host, .groups] s t))

/-! ### Spill -/

/-- Spill operations. One that is ready waits for its area in its order, or in Idle asks for the wake; at the beginning of a
later tide the first that waits starts in a free area, with a new pass where it asks for one, or completes refused; one with
no tile completes whatever its area does, and its new pass keeps its place in the area's order (the model's choice, log
entry 116). A tide's store advances by the tide's tiles and touches no byte of the stacks but the slots of those tiles and
the escape slots at the cursor, and reads the rows of those tiles from compute memory; a load leaves the stacks alone, and writes the rows of the tile it decodes, or zeros for a
stale slot or one that cannot be read. The last tile completes the operation. Without DYN_BALANCE an area moves the tiles of
one tide once; with it a further store in the tide waits where its escapes do not all fit (the model's reading, log entry
73). -/
def Obligations.SpillsMoveTilesInOrder : Prop :=
  (∀ (c : Instr) (g i k : Nat) (op : QueueOp) (s : State),
      (c = .spillStore g i ∧ k = Desc.opSpillStore) ∨ (c = .spillLoad g i ∧ k = Desc.opSpillLoad) → s.running = true →
      s.readyOp g i k = some op → s.quiescing g = false →
      (s.area (Desc.areaNo op.raw)).waiting.any (fun o => o.group == g && o.index == i) = false →
      (s.power.mode = .full → ∃ t, exec c s = .next t
        ∧ t.area (Desc.areaNo op.raw) = { s.area (Desc.areaNo op.raw) with
            waiting := insertBy State.spillBefore (s.spillOp g op) (s.area (Desc.areaNo op.raw)).waiting }
        ∧ (∀ a, a ≠ Desc.areaNo op.raw → t.area a = s.area a) ∧ OnlyChanges [.areas] s t)
      ∧ (s.power.mode = .idle → s.power.wakeAt = none → ∃ t, exec c s = .next t
        ∧ t.power = { s.power with
            wakeAt := some (s.time.ticks + 4096)
            restart := if s.power.restart = .hold then .none else s.power.restart
            reqIgnored := s.power.reqIgnored || decide (s.power.restart = .hold) } ∧ OnlyChanges [.power] s t))
    ∧ (∀ (a : Nat) (o : SpillOp) (rest : List SpillOp) (op : QueueOp) (d : ImgArea) (s t : State), t = s.nextSpill a →
      (s.area a).waiting = o :: rest → (∀ x ∈ o :: rest, x.count ≠ 0) →
      ((s.area a).running = none → o.readyAt < s.now →
        (s.queue o.group).ops.find? (fun x => x.index == o.index && x.phase == .waiting) = some op →
        s.quiescing o.group = false → s.areaForeign o.group op.raw = false → s.im.areaDesc a = some d →
        o.first + o.count ≤ d.tiles →
        (t.area a).running = some o ∧ (t.area a).waiting = rest
          ∧ (t.area a).pass = (if o.newPass && o.isStore then ((s.area a).pass + 1) % 2 ^ 16 else (s.area a).pass)
          ∧ (t.area a).cursor = (if o.newPass && o.isStore then 0 else (s.area a).cursor)
          ∧ (∀ b, b ≠ a → t.area b = s.area b) ∧ OtherQueues o.group s t ∧ OnlyChanges [.queues, .areas] s t)
        ∧ (∀ op code, (s.area a).running = none → o.readyAt < s.now → s.waitsStill o = some op →
          s.quiescing o.group = false → s.spillRefusal a o op = some code → op.recorded = false → ∃ r,
          (t.area a).running = none ∧ (t.area a).waiting = rest ∧ r.index = op.index ∧ r.tide = s.now
            ∧ (t.queue o.group).due = State.insertDue r (s.queue o.group).due ∧ (t.queue o.group).lastCode = code
            ∧ (∀ b, b ≠ a → t.area b = s.area b) ∧ OtherQueues o.group s t
            ∧ OnlyChanges [.queues, .areas, .events, .stats] s t)
        ∧ ((s.area a).running.isSome = true ∨ s.now ≤ o.readyAt → t = s))
    ∧ (∀ (a : Nat) (o : SpillOp) (op : QueueOp) (s t : State), t = s.nextSpill a → (s.area a).waiting = [o] → o.count = 0 →
      o.readyAt < s.now → s.quiescing o.group = false → s.waitsStill o = some op → s.spillRefusal a o op = none →
      op.recorded = false → ∃ r, r.index = op.index ∧ r.tide = s.now
        ∧ (t.queue o.group).due = State.insertDue r (s.queue o.group).due ∧ (t.area a).running = (s.area a).running
        ∧ ((s.area a).running = none → (t.area a).waiting = []
            ∧ (t.area a).pass = (if o.newPass && o.isStore then ((s.area a).pass + 1) % 2 ^ 16 else (s.area a).pass))
        ∧ ((s.area a).running.isSome = true → t.area a = s.area a)
        ∧ (∀ b, b ≠ a → t.area b = s.area b) ∧ OtherQueues o.group s t ∧ OnlyChanges [.queues, .areas] s t)
    ∧ (∀ (a n : Nat) (tiles : List Bytes) (d : ImgArea) (o : SpillOp) (s : State), s.running = true →
      s.runs a true = some (d, o) → n = Nat.min d.tilesPerTide (o.count - o.next) →
      (o.lastTide = some s.now → s.escapesWait d o tiles = false) →
      (o.next + n < o.count → ∃ t r, exec (.spillStoreTile a tiles) s = .next t ∧ (t.area d.area).running = some r
        ∧ r.next = o.next + n
        ∧ r.count = o.count ∧ r.first = o.first ∧ r.group = o.group ∧ r.index = o.index ∧ r.lastTide = some s.now
        ∧ (t.area d.area).pass = (s.area d.area).pass ∧ (s.area d.area).cursor ≤ (t.area d.area).cursor
        ∧ (t.area d.area).cursor ≤ (s.area d.area).cursor + n
        ∧ (∀ x, x < s.slotAddr d (o.first + o.next) ∨ s.slotAddr d (o.first + o.next + n) ≤ x →
            x < s.escAddr d (s.area d.area).cursor ∨ s.escAddr d (t.area d.area).cursor ≤ x →
            t.stack.read x = s.stack.read x)
        ∧ (∀ b, b ≠ d.area → t.area b = s.area b)
        ∧ t.out = s.out ++ (List.range n).flatMap (fun k => (List.range 64).map (fun y => Output.memRead d.fabric
            (o.addr + (64 * ((o.next + k) / o.grid) + y) * o.stride + 128 * ((o.next + k) % o.grid)) 128))
        ∧ OtherGroups o.group s t
        ∧ OnlyChanges [.out, .groups, .stack, .badUnits, .areas, .events, .stats, .maint] s t)
      ∧ (∀ op, o.count ≤ o.next + n → o.next < o.count →
        (s.queue o.group).ops.find? (fun x => x.index == o.index) = some op → op.recorded = false → ∃ t r,
        exec (.spillStoreTile a tiles) s = .next t ∧ (t.area d.area).running = none ∧ r.index = op.index
          ∧ r.tide = s.now ∧ (t.queue o.group).due = State.insertDue r (s.queue o.group).due
          ∧ t.out = s.out ++ (List.range n).flatMap (fun k => (List.range 64).map (fun y => Output.memRead d.fabric
              (o.addr + (64 * ((o.next + k) / o.grid) + y) * o.stride + 128 * ((o.next + k) % o.grid)) 128))
          ∧ OtherQueues o.group s t
          ∧ OnlyChanges [.out, .ports, .queues, .groups, .stack, .badUnits, .areas, .events, .stats, .maint] s t))
    ∧ (∀ (a : Nat) (tiles : List Bytes) (d : ImgArea) (o : SpillOp) (s : State), s.running = true →
      s.runs a true = some (d, o) → o.lastTide = some s.now → s.escapesWait d o tiles = true →
      exec (.spillStoreTile a tiles) s = .next s)
    ∧ (∀ (a : Nat) (met : StackReads) (d : ImgArea) (o : SpillOp) (s : State), s.running = true →
      s.runs a false = some (d, o) → d.tilesPerTide = 1 → o.next + 1 < o.count →
      (∀ b, s.readTile d (o.first + o.next) met.bad = (.good b false, false) → ∃ t, exec (.spillLoadTile a met) s = .next t
        ∧ t.out = s.out ++ (List.range 64).map (fun y => Output.memWrite d.fabric
            (o.addr + (64 * (o.next / o.grid) + y) * o.stride + 128 * (o.next % o.grid)) (tileRow b y))
        ∧ (t.area d.area).running = some { o with next := o.next + 1, lastTide := some s.now }
        ∧ t.stats = (s.readStack met).stats ∧ (∀ x, x ≠ d.area → t.area x = s.area x) ∧ OtherGroups o.group s t
        ∧ OnlyChanges [.out, .groups, .areas, .events, .stats, .maint] s t)
      ∧ (s.readTile d (o.first + o.next) met.bad = (.stale, false) → ∃ t, exec (.spillLoadTile a met) s = .next t
        ∧ t.out = s.out ++ (List.range 64).map (fun y => Output.memWrite d.fabric
            (o.addr + (64 * (o.next / o.grid) + y) * o.stride + 128 * (o.next % o.grid))
            (tileRow (List.replicate tileBytes 0) y))
        ∧ (t.area d.area).running
            = some { o with next := o.next + 1, stale := o.stale + 1, lastTide := some s.now }
        ∧ t.stats = ((s.readStack met).bumpP .spillStale d.part 1).stats
        ∧ (∀ x, x ≠ d.area → t.area x = s.area x) ∧ OtherGroups o.group s t
        ∧ OnlyChanges [.out, .groups, .areas, .events, .stats, .maint] s t)
      ∧ (∀ u, s.readTile d (o.first + o.next) met.bad = (.bad (some u), false) → ∃ t, exec (.spillLoadTile a met) s = .next t
        ∧ t.out = s.out ++ (List.range 64).map (fun y => Output.memWrite d.fabric
            (o.addr + (64 * (o.next / o.grid) + y) * o.stride + 128 * (o.next % o.grid))
            (tileRow (List.replicate tileBytes 0) y))
        ∧ (t.area d.area).running = some { o with next := o.next + 1, bad := o.bad + 1, lastTide := some s.now }
        ∧ u ∈ t.badUnits ∧ (∃ e ∈ t.events, e.type = 0x0031 ∧ e.subject = d.area + (o.first + o.next) * 2 ^ 32)
        ∧ (∀ x, x ≠ d.area → t.area x = s.area x) ∧ OtherGroups o.group s t
        ∧ OnlyChanges [.out, .power, .groups, .badUnits, .areas, .events, .stats, .maint] s t))
    ∧ (∀ (a : Nat) (tiles : List Bytes) (met : StackReads) (s : State), s.im.dynBalance = false →
      (s.area a).running = none ∨ (∃ o, (s.area a).running = some o ∧ o.lastTide = some s.now) →
      exec (.spillStoreTile a tiles) s = .next s ∧ exec (.spillLoadTile a met) s = .next s)

/-! ### The structure image, keys, codebooks -/

/-- The shadow bank: a write of the window discards any shadow image and puts its bytes there; VERIFY and LOAD_NV make the
engine busy, and the end of the verification makes the bank VERIFIED with its image and hash, or REFUSED with the reason,
which ends an activation that waits for that image; while busy they are ignored and flagged, and while a neighbour shows the
shadow hash the bank is not written. The active bank stays as it is. (Which bytes a write of the window keeps is the model's
reading, log entry 54.) -/
def Obligations.ShadowBankIsWrittenAndVerified : Prop :=
  ∀ (tag : Nat) (s : State), s.running = true → s.tagPriv tag = true →
    (∀ (o n : Nat) (v : Word64), n = 4 ∨ n = 8 → o % n = 0 → s.imageBusy = false → s.shadowInUse = false →
        ∃ t, exec (.imageWindowWrite tag o n v) s = .next t
          ∧ t.image.shadow.bytes = (if s.image.shadowState = .written ∨ s.image.shadowState = .refused
              then s.image.shadow.bytes else []).writeBytes o (leBytes n (v.toNat % 2 ^ (8 * n)))
          ∧ t.image.shadow.image = none ∧ t.image.shadow.hash = [] ∧ t.image.shadowState = .written
          ∧ t.image.pending = none ∧ t.image.active = s.image.active
          ∧ OnlyChanges [.ports, .image, .books, .host, .queues, .groups, .events, .stats] s t)
    ∧ (∀ (c : Instr) (o n k : Nat) (v : Word64), (c = .imageWindowWrite tag o n v ∧ (n = 4 ∨ n = 8) ∧ o % n = 0)
          ∨ c = .verify tag ∨ c = .loadNv tag k ∨ c = .activate tag ∨ c = .cancel tag → s.imageBusy = true →
        ∃ t, exec c s = .next t ∧ t.image = { s.image with cmdIgnored := true } ∧ OnlyChanges [.image, .host] s t)
    ∧ (∀ (c : Instr) (o n k : Nat) (v : Word64), (c = .imageWindowWrite tag o n v ∧ (n = 4 ∨ n = 8) ∧ o % n = 0)
          ∨ c = .loadNv tag k → s.imageBusy = false → s.shadowInUse = true → ∃ t, exec c s = .next t
          ∧ t.image = { s.image with shadowInUse := true } ∧ OnlyChanges [.image, .host] s t)
    ∧ (s.imageBusy = false → ∃ t, exec (.verify tag) s = .next t ∧ t.image = { s.image with job := .verify }
          ∧ OnlyChanges [.image, .host] s t)
    ∧ (∀ k : Nat, s.imageBusy = false → s.shadowInUse = false → ∃ t, exec (.loadNv tag k) s = .next t
          ∧ t.image.job = .verify ∧ t.image.shadow.bytes = Mem.writeBytes [] 0 (s.slotContent (k % 2))
          ∧ t.image.shadow.image = none ∧ t.image.pending = none ∧ t.image.active = s.image.active
          ∧ OnlyChanges [.ports, .image, .books, .host, .queues, .groups, .events, .stats] s t)
    ∧ (∀ (b : Bytes) (r : Nat), s.image.job = .verify → b = State.imageBytes s.image.shadow.bytes →
        r = Check.verify s.nv.keys s.nv.floor s.ident.serial b → ∃ t, exec .verifyDone s = .next t
          ∧ t.image.job = .none ∧ t.image.reason = r ∧ t.image.shadow.bytes = s.image.shadow.bytes
          ∧ t.image.active = s.image.active
          ∧ (r = 0 → t.image.shadowState = .verified ∧ t.image.shadow.image = some (Parse.image b)
              ∧ t.image.shadow.hash = Check.hash b ∧ t.image.pending = s.image.pending ∧ OnlyChanges [.image] s t)
          ∧ (r ≠ 0 → t.image.shadowState = .refused ∧ t.image.shadow.image = none ∧ t.image.shadow.hash = []
              ∧ t.image.pending = none ∧ (s.image.pending.isSome = true → t.image.actRefusal = 1)
              ∧ OnlyChanges [.ports, .image, .books, .queues, .groups, .events, .stats] s t))

/-- STORE and STORE_ACTIVE begin with the slot's descriptor made invalid and end with the image in the slot; both are
refused where a calibration commit runs or there is no such image, and while busy they are ignored, beside a store
refused too. With no image active the hall chip number follows the slot marked BOOT. A store that fails leaves no byte of the
store but the slot's open. (What a cut slot holds, and that a store beside a store sets both flags, are the model's: log
entries 22 and 54.) -/
def Obligations.StoreKeepsAnImageInASlot : Prop :=
  (∀ (tag k : Nat) (c : Instr) (active present : Bool) (s : State), s.running = true → s.tagPriv tag = true →
      (c = .store tag k ∧ active = false ∧ present = s.verified.isSome)
        ∨ (c = .storeActive tag k ∧ active = true ∧ present = s.img.isSome) →
      (s.image.job = .none → s.cal.busy = false → present = true → s.nv.bytes.wf = true → ∃ t, exec c s = .next t
        ∧ t.image.job = .store (k % 2) active
        ∧ State.descValid (t.slotDesc (k % 2)) = false ∧ t.image.active = s.image.active
        ∧ t.image.shadow = s.image.shadow ∧ t.nv.floor = s.nv.floor ∧ t.nv.keys = s.nv.keys
        ∧ (∀ x, x < descAt (k % 2) ∨ descAt (k % 2) + 128 ≤ x → t.nv.bytes.read x = s.nv.bytes.read x)
        ∧ (s.img.isSome = true → t.ident = s.ident)
        ∧ (s.img = none → t.ident = { s.ident with hallChip := t.bootChip })
        ∧ OnlyChanges [.ident, .nv, .image, .host] s t)
      ∧ (s.image.job = .none → s.cal.busy = true ∨ present = false → ∃ t, exec c s = .next t
        ∧ t.image = { s.image with storeRefused := true } ∧ OnlyChanges [.image, .host] s t)
      ∧ (s.image.job ≠ .none → ∃ t, exec c s = .next t
        ∧ t.image = { s.image with cmdIgnored := true, storeRefused := s.image.storeRefused || s.image.job != .verify }
        ∧ OnlyChanges [.image, .host] s t))
    ∧ (∀ (n : Nat) (active : Bool) (b : Bytes) (s : State), s.running = true → s.power.restart = .none →
      s.image.job = .store n active → n < 2 → s.nv.bytes.wf = true →
      b = State.imageBytes (if active then s.image.active.bytes else s.image.shadow.bytes) → b.length ≤ slotBytes →
      ∃ t, exec (.storeDone true) s = .next t
        ∧ t.image = { s.image with job := .none, lastStore := 1 } ∧ t.nv.bytes.readBytes (slotAt n) b.length = b
        ∧ State.descValid (t.slotDesc n) = true ∧ State.descBoot (t.slotDesc n) = State.descBoot (s.slotDesc n)
        ∧ (∀ x, (x < descAt n ∨ descAt n + 128 ≤ x) → (x < slotAt n ∨ slotAt n + b.length ≤ x) →
            t.nv.bytes.read x = s.nv.bytes.read x)
        ∧ t.nv.floor = s.nv.floor ∧ t.nv.keys = s.nv.keys
        ∧ (s.img.isSome = true → t.ident = s.ident)
        ∧ (s.img = none → t.ident = { s.ident with hallChip := t.bootChip }) ∧ OnlyChanges [.ident, .nv, .image] s t)
    ∧ (∀ (n : Nat) (active : Bool) (s : State), s.running = true → s.power.restart = .none →
      s.image.job = .store n active → ∃ t, exec (.storeDone false) s = .next t
        ∧ t.image = { s.image with job := .none, lastStore := 2 } ∧ t.nv.bytes = s.nv.bytes ∧ t.nv.floor = s.nv.floor
        ∧ t.nv.keys = s.nv.keys ∧ (n, s.nv.draws) ∈ t.nv.cutSlots
        ∧ (s.img.isSome = true → t.ident = s.ident)
        ∧ (s.img = none → t.ident = { s.ident with hallChip := t.bootChip }) ∧ OnlyChanges [.ident, .nv, .image] s t)

/-- ACTIVATE of a verified image that nothing bars makes the activation pending and holds the groups at rest; without one it
is refused with reason 1, and CANCEL ends it. It takes effect at a boundary once every group is held, no token is held that
defers it (R401) and the express effects due there are done, and no sooner: the shadow bank becomes the active one and the
active bank the shadow, or where something bars it by then it is cancelled with its reason. What waits in the boundary's order
then goes on. (Log entries 55, 102 and 103 name the model's readings: what becomes of hashes and buckets, which groups are at
rest and the order of the boundary.) A lost active image is replaced by its slot's copy where that is authentic, and the
groups may open again; any other copy changes nothing (which slot's copy is read, and what makes it authentic, are the model's
readings: log entries 57 and 101). -/
def Obligations.ActivationSwapsTheBanks : Prop :=
  (∀ (tag : Nat) (s : State), s.running = true → s.tagPriv tag = true → s.imageBusy = false →
      (∀ new, s.verified = some new → s.actRefusal new true = 0 → ∃ t, exec (.activate tag) s = .next t
        ∧ t.image = { s.image with pending := some s.image.actStep }
        ∧ (∀ g, (t.group g).state = (s.group g).state ∧ (t.group g).step = (s.group g).step)
        ∧ (∀ g ∈ s.bothGroups, s.rests g = true → (t.group g).actHeld = true)
        ∧ OnlyChanges [.image, .host, .groups] s t)
      ∧ (∀ r, (s.verified = none ∧ r = 1) ∨ (∃ new, s.verified = some new ∧ r = s.actRefusal new true ∧ r ≠ 0) → ∃ t,
        exec (.activate tag) s = .next t ∧ t.image = { s.image with actRefusal := r } ∧ OnlyChanges [.image, .host] s t)
      ∧ (s.image.pending.isSome = true → ∃ t, exec (.cancel tag) s = .next t
        ∧ t.image = { s.image with pending := none }
        ∧ OnlyChanges [.ports, .image, .books, .host, .queues, .groups, .events, .stats] s t)
      ∧ (s.image.pending = none → ∃ t, exec (.cancel tag) s = .next t ∧ OnlyChanges [.host] s t))
    ∧ (∀ (new : Image) (s : State), s.running = true → s.verified = some new → s.activationDue = true →
      s.effectsDue = false →
      (s.actRefusal new false = 0 → ∃ u, exec .activation s = .next u.settle ∧ u.img = some new
        ∧ u.image.active = s.image.shadow ∧ u.image.shadow = s.image.active ∧ u.image.pending = none
        ∧ u.image.absent = false ∧ u.image.reloading = false ∧ u.staging = []
        ∧ u.image.shadowState = (if s.img.isSome then .verified else .empty)
        ∧ OnlyChanges [.out, .ident, .nv, .time, .clock, .ports, .image, .books, .queues, .groups, .buckets, .staging,
            .stack, .badUnits, .blockCount, .blockRx, .areas, .events, .stats, .maint] s u)
      ∧ (∀ r, r = s.actRefusal new false → r ≠ 0 → ∃ u, exec .activation s = .next u.settle
        ∧ u.image = { s.image with pending := none, actRefusal := r }
        ∧ OnlyChanges [.ports, .image, .books, .queues, .groups, .events, .stats] s u))
    ∧ (∀ s : State, s.activationDue = false ∨ s.effectsDue = true → exec .activation s = .next s)
    ∧ (∀ (n : Nat) (m : Mem) (authentic : Prop) (s : State), s.running = true → s.image.reloading = true →
      s.activeSlot = some n → m = Mem.writeBytes [] 0 (s.slotContent n) →
      (authentic ↔ Check.verify s.nv.keys s.nv.floor s.ident.serial (State.imageBytes m) = 0
        ∧ Check.hash (State.imageBytes m) = s.image.active.hash) →
      (authentic → ∃ t, exec .imageReloadDone s = .next t
        ∧ t.image = { s.image with reloading := false, active := { s.image.active with bytes := m } }
        ∧ OnlyChanges [.ports, .image, .books, .queues, .groups, .events, .stats] s t)
      ∧ (¬authentic → exec .imageReloadDone s = .next s))
    ∧ (∀ s : State, s.image.reloading = false ∨ s.activeSlot = none → exec .imageReloadDone s = .next s)

/-- Keys and the rollback floor. PROGRAM of an unprogrammed slot and REVOKE of a programmed, unrevoked one start a fuse
operation that FUSE_DONE completes; what R342 ignores sets FAILED, and a write without CONFIRM does nothing (when the digest
is taken, and which of two requests in one write counts, is the model's reading: log entry 56). ROLLBACK_CTRL
raises the floor up to the active image's ROLLBACK and never past 64. -/
def Obligations.KeysAndRollbackFloorAreFused : Prop :=
  (∀ (tag n : Nat) (v : Word32) (s : State), s.running = true → s.tagPriv tag = true → n = field v.toNat 0 2 →
      (field v.toNat 16 16 = 0xF05E → bitAt v.toNat 2 = true → s.nv.job = .none →
        (s.nv.keys.getD n {}).programmed = false → ∃ t, exec (.keyProgram tag v) s = .next t
          ∧ t.nv = { s.nv with job := .program n (padTo 48 s.nv.keyHash) } ∧ OnlyChanges [.nv, .host] s t)
      ∧ (field v.toNat 16 16 = 0xF05E → bitAt v.toNat 2 = false → bitAt v.toNat 3 = true → s.nv.job = .none →
        (s.nv.keys.getD n {}).programmed = true → (s.nv.keys.getD n {}).revoked = false → ∃ t,
        exec (.keyRevoke tag v) s = .next t ∧ t.nv = { s.nv with job := .revoke n } ∧ OnlyChanges [.nv, .host] s t)
      ∧ (∀ c : Instr, c = .keyProgram tag v ∨ c = .keyRevoke tag v → field v.toNat 16 16 = 0xF05E →
        s.nv.job ≠ .none ∨ (bitAt v.toNat 2 = true ∧ (s.nv.keys.getD n {}).programmed = true)
          ∨ (bitAt v.toNat 2 = false ∧ bitAt v.toNat 3 = true
              ∧ ((s.nv.keys.getD n {}).programmed = false ∨ (s.nv.keys.getD n {}).revoked = true)) →
        ∃ t, exec c s = .next t ∧ t.nv = { s.nv with failed := true } ∧ OnlyChanges [.nv, .host] s t)
      ∧ (∀ c : Instr, c = .keyProgram tag v ∨ c = .keyRevoke tag v → field v.toNat 16 16 ≠ 0xF05E
          ∨ (s.nv.job = .none ∧ bitAt v.toNat 2 = false ∧ bitAt v.toNat 3 = false) → ∃ t,
        exec c s = .next t ∧ OnlyChanges [.host] s t))
    ∧ (∀ (n : Nat) (d : Bytes) (s : State), s.running = true → s.nv.job = .program n d → n < s.nv.keys.length → ∃ t,
      exec .fuseDone s = .next t ∧ t.nv.job = .none ∧ (t.nv.keys.getD n {}).programmed = true
        ∧ (t.nv.keys.getD n {}).digest = d ∧ (∀ m, m ≠ n → t.nv.keys.getD m {} = s.nv.keys.getD m {})
        ∧ t.nv = { s.nv with job := .none, keys := t.nv.keys } ∧ OnlyChanges [.nv] s t)
    ∧ (∀ (n : Nat) (s : State), s.running = true → s.nv.job = .revoke n → n < s.nv.keys.length → ∃ t,
      exec .fuseDone s = .next t ∧ t.nv.job = .none ∧ (t.nv.keys.getD n {}).revoked = true
        ∧ (∀ m, m ≠ n → t.nv.keys.getD m {} = s.nv.keys.getD m {})
        ∧ t.nv = { s.nv with job := .none, keys := t.nv.keys } ∧ OnlyChanges [.nv] s t)
    ∧ (∀ (tag w top : Nat) (v : Word32) (s : State), s.running = true → s.tagPriv tag = true → w = v.toNat % 2 ^ 7 →
      top = (s.img.map (·.rollback)).getD 0 →
      (w ≤ top → w ≤ 64 → ∃ t, exec (.rollbackCtrlWrite tag v) s = .next t
          ∧ t.nv = { s.nv with floor := max s.nv.floor w } ∧ OnlyChanges [.nv, .host] s t)
      ∧ (top < w ∨ 64 < w → ∃ t, exec (.rollbackCtrlWrite tag v) s = .next t
          ∧ t.image = { s.image with rollbackIgnored := true } ∧ OnlyChanges [.image, .host] s t))

/-- Codebook replacement. Sixteen good levels for a codebook with no pending replacement, no live user of the other slot, no
fall-back on it, and no group past the step it names go into the other generation, which is the next number; it is in
force at once where no group that the engine is a member of uses the codebook, which is the model's reading (log entry 56),
and pending for those groups otherwise. Bad levels give outcome 2, a busy generation 3 and a
step that has passed 4. -/
def Obligations.CodebookReplacementFillsTheOtherGeneration : Prop :=
  ∀ (tag c : Nat) (v : Word32) (b : Codebook) (levels : List Int) (s : State), s.running = true → s.tagPriv tag = true →
    bitAt v.toNat 0 = true → c = s.bookRegs.sel → b = s.book c →
    levels = (padTo 16 s.bookRegs.levels).map (fun x => signed 8 x.toNat) → ∃ t, exec (.codebookCmd tag v) s = .next t
      ∧ (∀ k, k ≠ c → t.book k = s.book k) ∧ OnlyChanges [.books, .host, .events, .stats] s t
      ∧ (Check.levelsOk levels = false → t.book c = { b with outcome := 2 })
      ∧ (Check.levelsOk levels = true →
          s.im.buckets.any (fun d => d.fbKind == .codebook && d.fbParam == c) = true ∨ b.pending.isSome = true
            ∨ (State.slotOf b (!b.cur)).refs ≠ 0 →
          t.book c = { b with outcome := 3 } ∧ t.stats = (s.bump .codebookBusy).stats)
      ∧ (Check.levelsOk levels = true →
          s.im.buckets.any (fun d => d.fbKind == .codebook && d.fbParam == c) = false → b.pending = none →
          (State.slotOf b (!b.cur)).refs = 0 →
          ((∃ g ∈ State.bookGroups s.im c, s.bookRegs.step ≤ (s.group g).step) → t.book c = { b with outcome := 4 })
          ∧ ((∀ g ∈ State.bookGroups s.im c, (s.group g).step < s.bookRegs.step) →
              (t.book c).outcome = 1 ∧ State.slotOf (t.book c) b.cur = State.slotOf b b.cur
                ∧ State.slotOf (t.book c) (!b.cur)
                    = { levels := levels, gen := ((State.slotOf b b.cur).gen + 1) % 2 ^ 16, refs := 0 }
                ∧ ((State.bookGroups s.im c).filter s.member = [] → (t.book c).cur = !b.cur ∧ (t.book c).pending = none)
                ∧ ((State.bookGroups s.im c).filter s.member ≠ [] → (t.book c).cur = b.cur
                    ∧ (t.book c).pending = some s.bookRegs.step
                    ∧ (t.book c).waiting = (State.bookGroups s.im c).filter s.member)))

/-! ### Rules of the register block, word for word -/

/-- R305: an access is good where it is of 32 or 64 bits and naturally aligned; any other is ignored, reads zero and counts
in STAT_ACCESS_MALFORMED; a 64-bit register written as two halves is unchanged by the low half and takes its value
with the high half, as one write of 64 bits would have it. (That a malformed access is malformed alone, also where the view does not reach it, is
the model's reading, log entry 27.) -/
def Obligations.HostAccessesFollowSizeAndHalves : Prop :=
  (∀ a n : Nat, State.goodAccess a n = true ↔ (n = 4 ∨ n = 8) ∧ a % n = 0)
    ∧ (∀ (tag a n : Nat) (v : Word64) (s : State), s.running = true → tag ≤ 8 → State.goodAccess a n = false →
      exec (.registerWrite tag a n v) s = .next ((s.touch tag).bumpP .accessMalformed tag 1)
        ∧ exec (.registerRead tag a n) s
            = .next (((s.touch tag).bumpP .accessMalformed tag 1).emit (.readData tag 0)))
    ∧ (∀ (tag a : Nat) (lo hi : Word32) (v : Word64) (s : State), s.running = true → State.isWide a = true → a % 8 = 0 →
      s.mayReach tag a = true → s.mayReach tag (a + 4) = true → tag ≤ 8 → v = hi ++ lo → ∃ t u w,
      exec (.registerWrite tag a 4 (lo.setWidth 64)) s = .next t ∧ OnlyChanges [.host] s t
        ∧ exec (.registerWrite tag (a + 4) 4 (hi.setWidth 64)) t = .next u
        ∧ exec (.registerWrite tag a 8 v) s = .next w ∧ OnlyChanges [.host] w u)

/-- R337, PPS_CTRL: what a write stores, with WIDTH_US taken to the nearer bound, what a read returns, with its reserved
bits 0, and the reset values. -/
def Obligations.PpsControlRegisterHoldsItsFields : Prop :=
  (∀ (tag : Nat) (v : Word64) (s : State), s.running = true → s.tagPriv tag = true → ∃ t,
      exec (.registerWrite tag 0x001004 4 v) s = .next t
        ∧ t.time = { s.time with
            ppsWidth := if v.toNat % 2 ^ 20 < 1 then 1 else if 500000 < v.toNat % 2 ^ 20 then 500000 else v.toNat % 2 ^ 20
            ppsOutEnable := bitAt v.toNat 20, ppsInEnable := bitAt v.toNat 21 }
        ∧ OnlyChanges [.time, .host] s t)
    ∧ (∀ (tag : Nat) (s : State), s.running = true → s.tagPriv tag = true → s.latched tag 0x001004 = none →
      s.time.ppsWidth ≤ 500000 → ∃ t, exec (.registerRead tag 0x001004 4) s = .next t
        ∧ t.out = s.out ++ [.readData tag
            (s.time.ppsWidth + bnat s.time.ppsOutEnable * 2 ^ 20 + bnat s.time.ppsInEnable * 2 ^ 21)]
        ∧ OnlyChanges [.out, .host] s t)
    ∧ State.reset.time.ppsWidth = 10000 ∧ State.reset.time.ppsOutEnable = true ∧ State.reset.time.ppsInEnable = false

/-- R393: an activation that changes PATTERN_SEED restarts every standby cove's test at slice 0; one that keeps it lets each
test continue, with the new image's signatures. -/
def Obligations.PatternSeedRestartsTheTests : Prop :=
  ∀ (new : Image) (s : State), s.running = true → s.verified = some new → s.activationDue = true →
    s.effectsDue = false → s.actRefusal new false = 0 → ∃ t, exec .activation s = .next t ∧ t.im.bist = new.bist
      ∧ t.maint.swapAt = some s.time.ticks
      ∧ (s.im.bist.patternSeed ≠ new.bist.patternSeed → ∀ b, (t.bay b).slice = 0)
      ∧ (s.im.bist.patternSeed = new.bist.patternSeed → ∀ b, t.bay b = s.bay b)

/-! ### Counters, codes and checks -/

/-- Statistics counters saturate: an increment adds to COUNT while it fits in 48 bits, and otherwise sets COUNT to its
largest value and OVF, with one STAT_OVERFLOW event at the counter's address; a counter with OVF stays. A port's counter
does the same, and so does a partition's copy, on its own and with its event on the partition's route. No other counter
moves, and no other event joins those that wait. -/
def Obligations.CountersSaturateWithOneEvent : Prop :=
  (∀ (c : EStat) (k : Nat) (s : State) (x : Counter), x = s.stats.engine.get {} c.index →
      ((s.bumpBy c k).stats.engine.get {} c.index
          = if x.ovf then x else if x.count + k ≤ 0xFFFFFFFFFFFF then { x with count := x.count + k }
            else { count := 0xFFFFFFFFFFFF, ovf := true })
        ∧ (∀ i, i ≠ c.index → (s.bumpBy c k).stats.engine.get {} i = s.stats.engine.get {} i)
        ∧ (s.bumpBy c k).stats.port = s.stats.port ∧ (s.bumpBy c k).stats.part = s.stats.part
        ∧ (¬x.fills k → (s.bumpBy c k).events = s.events)
        ∧ (x.fills k → (s.bumpBy c k).events = s.overflowed (0x060000 + 8 * c.index) [State.hallRing])
        ∧ OnlyChanges [.events, .stats] s (s.bumpBy c k))
    ∧ (∀ (p : Nat) (c : PStat) (k : Nat) (s : State) (x : Counter), x = s.stats.port.get {} (32 * p + c.index) →
      (s.bumpPort p c k).stats.port.get {} (32 * p + c.index) = x.plus k
        ∧ (∀ q d, ¬(q = p ∧ d = c) → (s.bumpPort p c k).portCount q d = s.portCount q d)
        ∧ (s.bumpPort p c k).stats.engine = s.stats.engine ∧ (s.bumpPort p c k).stats.part = s.stats.part
        ∧ (¬x.fills k → (s.bumpPort p c k).events = s.events)
        ∧ (x.fills k → (s.bumpPort p c k).events
            = s.overflowed (0x061000 + 256 * p + 8 * c.index) [State.hallRing])
        ∧ OnlyChanges [.events, .stats] s (s.bumpPort p c k))
    ∧ (∀ (c : EStat) (p k : Nat) (s u : State), u = s.bumpBy c k →
      (c.copyIndex = none ∨ 8 ≤ p → s.bumpP c p k = u)
        ∧ (∀ (i : Nat) (x : Counter), c.copyIndex = some i → p < 8 → x = s.stats.part.get {} (32 * p + i) →
          (s.bumpP c p k).stats.part.get {} (32 * p + i) = x.plus k
            ∧ (∀ j, j ≠ 32 * p + i → (s.bumpP c p k).stats.part.get {} j = s.stats.part.get {} j)
            ∧ (s.bumpP c p k).stats.engine = u.stats.engine ∧ (s.bumpP c p k).stats.port = u.stats.port
            ∧ (¬x.fills k → (s.bumpP c p k).events = u.events)
            ∧ (x.fills k → (s.bumpP c p k).events
                = u.overflowed (0x01000000 + p * 0x100000 + 0x20100 + 8 * i) (s.ringsP p))
            ∧ OnlyChanges [.events, .stats] s (s.bumpP c p k)))

/-- Express messages and cells keep their fields: what is read back from the word, or from the 256 bytes, that fields make
is those fields, for every value that the fields' widths admit; the cell made passes its HOP_CHECK and its CRC-32C. A cell
keeps its content where it goes out with the swash field and the repeat request due then, and where it goes out again.

What an encoded chunk decodes to is what was sent of it, position by position, with no malformed item, for every encoding,
codebook and tensor scale in their ranges; of a list the entries too. What a hop adds to the running sum is what it sends less
what it received, the residual is the contribution less that, and it reads back from its bytes as its values rounded to the
residual's format. -/
def Obligations.MessagesAndCellsReadBackAsWritten : Prop :=
  (∀ m : Msg, m.kind < 16 → m.group < 256 → m.tag < 2 ^ 14 → m.op < 16 → m.value < 2 ^ 32 → readMsg (msgWord m) = m)
    ∧ (∀ w : Word64, msgWord (readMsg w) = w)
    ∧ (∀ c : CellFields, c.type < 16 → c.vc < 4 → c.cls < 4 → c.group < 256 → c.ref < 2 ^ 18 → c.seq < 2 ^ 14 →
        c.swash < 2 ^ 64 → c.payload.length = 224 → c.ledger < 2 ^ 64 → c.tally < 2 ^ 15 →
        (∀ slot tide, c.again = some (slot, tide) → slot < 2 ^ 10 ∧ tide < 4) →
        readCell (mkCell c) = c ∧ (mkCell c).length = 256 ∧ cellOk (mkCell c) = true ∧ repeatOf (mkCell c) = c.again
          ∧ (∀ w slot tide, w < 2 ^ 64 → slot < 2 ^ 10 → tide < 4 →
              readCell (fillCell (mkCell c) w (some (slot, tide))) = { c with swash := w, again := some (slot, tide) }
                ∧ cellOk (fillCell (mkCell c) w (some (slot, tide))) = true)
          ∧ readCell (asRepeat (mkCell c)) = { c with retx := true } ∧ cellOk (asRepeat (mkCell c)) = true)
    ∧ (∀ (c : Coding) (cells outCells : Nat) (defer : Bool) (marks : List Nat) (acc : List Int) (e : Encoded) (d : Decoded),
        acc.length ≤ cells * elemsPerCell c.enc → acc.length ≤ 0xFFFFF → -128 ≤ c.et → c.et ≤ 127 →
        (∀ l ∈ c.levels, -128 ≤ l ∧ l ≤ 127) → e = encodeDense c cells outCells defer marks acc →
        d = decodeDense c cells outCells acc.length e.payloads →
        d.exact = e.sent ∧ d.values = e.sent ∧ d.marks = [] ∧ d.malformed = 0 ∧ e.sent.length = acc.length)
    ∧ (∀ (cells : Nat) (counts defer : Bool) (marks : List Nat) (vals : List Int) (union : List (Nat × Nat)) (e : Encoded)
        (d : Decoded), union.Pairwise (fun x y => x.1 < y.1) →
        (∀ x ∈ union, x.1 < vals.length ∧ 0 < x.2 ∧ x.2 < 2 ^ 16) → vals.length ≤ 0xFFFFF →
        e = encodeSparse cells counts defer marks vals union →
        d = (decodeSparse cells counts vals.length e.payloads).1 →
        d.exact = e.sent ∧ d.values = e.sent ∧ d.marks = [] ∧ d.malformed = 0 ∧ d.entries = e.entries)
    ∧ (∀ (v : OpView) (c : Nat) (deferred mark : Bool) (grad : Bytes) (resA : Vec) (inp : Decoded)
        (union : List (Nat × Nat)) (w : State.HopWork), w = State.hopWork v c deferred mark grad resA inp union →
        inp.exact.length = w.enc.sent.length →
        List.zipWith (· + ·) inp.exact w.delta = w.enc.sent
          ∧ newResidual v.d v.ext (v.base c) v.l.et w.con.u w.delta
              = extRot false v.ext v.d (v.base c) (w.con.u.sub (accVec v.l.et w.delta)))
    ∧ (∀ (d : ImgBucket) (r : Vec), readResiduals d (storeResiduals d r).bytes
        = Vec.ofDys (r.toDys.map (fun x => (resFmt d).value ((resFmt d).round x).code)))

/-- The linear check adds up: the check of a sum of two vectors is the sum of their checks modulo 2^61 − 1, whatever the
integers; every weight lies between 1 and 2^61 − 2, and the check of a zero vector is zero. -/
def Obligations.LinearCheckAddsUp : Prop :=
  (∀ (seed step c : Nat) (a b : List Int), a.length = b.length →
      lc seed step c (List.zipWith (· + ·) a b) = (lc seed step c a + lc seed step c b) % lcMod)
    ∧ (∀ seed step c p : Nat, 1 ≤ weight seed step c p ∧ weight seed step c p ≤ 2 ^ 61 - 2)
    ∧ (∀ seed step c n : Nat, lc seed step c (List.replicate n 0) = 0)
    ∧ (∀ (seed step c : Nat) (a : List Int), lc seed step c a < lcMod)

/-! ### Invariants that every step keeps -/

/-- Every byte memory of the engine stays in canonical form at every step, whatever the command at the front of the
queue. -/
def Obligations.EveryStepKeepsMemoriesCanonical : Prop :=
  ∀ s t : State, s.memoriesWf = true → step s = .next t → t.memoriesWf = true

/-- The non-volatile state moves one way at every step: the rollback floor never falls, a programmed key slot stays
programmed and a revoked one revoked, and a slot's digest changes only where a fuse operation programs that slot. -/
def Obligations.EveryStepKeepsFusesOneWay : Prop :=
  ∀ s t : State, step s = .next t → s.nv.floor ≤ t.nv.floor
    ∧ (∀ n, (s.nv.keys.getD n {}).programmed = true → (t.nv.keys.getD n {}).programmed = true)
    ∧ (∀ n, (s.nv.keys.getD n {}).revoked = true → (t.nv.keys.getD n {}).revoked = true)
    ∧ (∀ n, (t.nv.keys.getD n {}).digest ≠ (s.nv.keys.getD n {}).digest → ∃ d, s.nv.job = .program n d)
end

