-- ==== Sys2Proof/Laws/Cells.lean ====
section
/-! SUPPORT. What forming a cell guarantees: the length of its parts and the checks that its receiver makes. -/

namespace Sys2Proof.Machine

open Sys2Proof

@[simp] theorem leBytes_length (n v : Nat) : (leBytes n v).length = n := by
  induction n generalizing v with
  | zero => rfl
  | succ n ih => simp [leBytes, ih]

/-- Little-endian bytes read back as the value they can hold. -/
theorem leNat_leBytes (n v : Nat) : leNat (leBytes n v) = v % 256 ^ n := by
  induction n generalizing v with
  | zero => simp [leBytes, leNat, Nat.mod_one]
  | succ n ih =>
    simp only [leBytes, leNat, ih, BitVec.toNat_ofNat]
    have h : v % 256 ^ (n + 1) = v % 256 + 256 * (v / 256 % 256 ^ n) := by
      rw [Nat.pow_succ, Nat.mul_comm (256 ^ n) 256, Nat.mod_mul]
    exact h.symm

@[simp] theorem padTo_length (n : Nat) (b : Bytes) : (padTo n b).length = n := by
  simp [padTo]; omega

/-- Nothing is added to bytes of the full length. -/
theorem padTo_of_length {n : Nat} {b : Bytes} (h : b.length = n) : padTo n b = b := by
  subst h; simp [padTo]

theorem crcBits_lt (n c : Nat) (h : c < 2 ^ 32) : crcBits n c < 2 ^ 32 := by
  induction n generalizing c with
  | zero => exact h
  | succ n ih =>
    refine ih _ ?_
    unfold crcBit
    have : c >>> 1 < 2 ^ 32 := by rw [Nat.shiftRight_eq_div_pow]; omega
    split
    · exact Nat.xor_lt_two_pow this (by decide)
    · exact this

theorem crc32c_lt (b : Bytes) : crc32c b < 2 ^ 32 := by
  have step (l : Bytes) : ∀ c, c < 2 ^ 32 → l.foldl (fun c x => crcBits 8 (c ^^^ x.toNat)) c < 2 ^ 32 := by
    induction l with
    | nil => exact fun c h => h
    | cons x l ih =>
      intro c h
      exact ih _ (crcBits_lt 8 _ (Nat.xor_lt_two_pow h (by have := x.isLt; omega)))
  exact Nat.xor_lt_two_pow (step b _ (by decide)) (by decide)

theorem crc16Bits_lt (n c : Nat) (h : c < 2 ^ 16) : crc16Bits n c < 2 ^ 16 := by
  induction n generalizing c with
  | zero => exact h
  | succ n ih =>
    refine ih _ ?_
    unfold crc16Bit
    have : c * 2 % 65536 < 2 ^ 16 := Nat.mod_lt _ (by decide)
    split
    · exact Nat.xor_lt_two_pow this (by decide)
    · exact this

theorem crc16_lt (b : Bytes) : crc16 b < 2 ^ 16 := by
  have step (l : Bytes) : ∀ c, c < 2 ^ 16 → l.foldl (fun c x => crc16Bits 8 (c ^^^ (x.toNat * 256))) c < 2 ^ 16 := by
    induction l with
    | nil => exact fun c h => h
    | cons x l ih =>
      intro c h
      exact ih _ (crc16Bits_lt 8 _ (Nat.xor_lt_two_pow h (by have := x.isLt; omega)))
  exact step b _ (by decide)

/-- Bytes behind which their CRC stands pass it. -/
theorem crcOk_withCrc {body : Bytes} (h : body.length = 252) : crcOk (withCrc body) = true := by
  have hd : (withCrc body).drop 252 = leBytes 4 (crc32c body) := by simp [withCrc, ← h]
  have ht : (withCrc body).take 252 = body := by simp [withCrc, ← h]
  have := crc32c_lt body
  simp only [crcOk, rd, hd, ht, beq_iff_eq]
  rw [List.take_of_length_le (by simp), leNat_leBytes]
  omega

@[simp] theorem controlBytes_length (c : CellFields) : (controlBytes c).length = 8 := by simp [controlBytes]

theorem mkCell_length (c : CellFields) : (mkCell c).length = 256 := by simp [mkCell, withCrc]

/-- A cell as it is formed passes both its checks. -/
theorem cellOk_mkCell (c : CellFields) : cellOk (mkCell c) = true := by
  have h1 : crcOk (mkCell c) = true := crcOk_withCrc (by simp)
  have h2 : hopCheckOk (mkCell c) = true := by
    have := crc16_lt (leBytes 6 (controlLow c))
    simp only [hopCheckOk, rd, mkCell, withCrc, controlBytes, List.append_assoc, beq_iff_eq]
    rw [List.drop_left' (by simp), List.take_left' (by simp), List.take_left' (by simp), leNat_leBytes]
    omega
  simp [cellOk, h1, h2]

/-- A formed cell as a receiver takes it. -/
theorem cellOk_padTo_mkCell (c : CellFields) : cellOk (padTo 256 (mkCell c)) = true := by
  rw [padTo_of_length (mkCell_length c), cellOk_mkCell]

end Sys2Proof.Machine
end

