-- ==== Sys2Proof/Laws/Frame.lean ====
section
/-! SUPPORT. The calculus of frames: how `OnlyChanges` composes, and one lemma per field of the state for its update. -/

namespace Sys2Proof.Machine

open Sys2Proof

theorem OnlyChanges.refl {P : List Part} {s : State} : OnlyChanges P s s := by
  intro p _; cases p <;> first | rfl | exact ⟨rfl, rfl, rfl, rfl⟩

theorem OnlyChanges.trans {P : List Part} {s t u : State} (h : OnlyChanges P s t) (k : OnlyChanges P t u) :
      OnlyChanges P s u := by
  intro p hp
  have a := h p hp
  have b := k p hp
  cases p <;> first
    | exact Eq.trans b a
    | exact ⟨b.1.trans a.1, b.2.1.trans a.2.1, b.2.2.1.trans a.2.2.1, b.2.2.2.trans a.2.2.2⟩

theorem OnlyChanges.mono {P Q : List Part} {s t : State} (h : OnlyChanges P s t) (hPQ : ∀ p ∈ P, p ∈ Q) : OnlyChanges
      Q s t :=
  fun p hp => h p (fun hq => hp (hPQ p hq))

theorem only_cut {P : List Part} {s v t : State} (h : OnlyChanges P s v) (k : OnlyChanges P s v → OnlyChanges P s t)
      : OnlyChanges P s t := k h

theorem only_foldl {α} {P : List Part} {s x : State} {l : List α} {f : State → α → State} (hx : OnlyChanges P s x)
      (hf : ∀ u a, OnlyChanges P s u → OnlyChanges P s (f u a)) : OnlyChanges P s (l.foldl f x) := by
  induction l generalizing x with
  | nil => exact hx
  | cons a l ih => exact ih (hf _ _ hx)

theorem whenRunning_only {P : List Part} {s t : State} {f : State → State} (h : whenRunning s f = .next t) (hf :
      OnlyChanges P s (f s)) : OnlyChanges P s t := by
  unfold whenRunning at h
  injection h with h; subst h; split
  · exact hf
  · exact OnlyChanges.refl

theorem whenAlive_only {P : List Part} {s t : State} {f : State → State} (h : whenAlive s f = .next t) (hf :
      OnlyChanges P s (f s)) : OnlyChanges P s t := by
  unfold whenAlive at h
  injection h with h; subst h; split
  · exact hf
  · exact OnlyChanges.refl

theorem OnlyChanges.step {P Q : List Part} {s v t : State} (k : OnlyChanges Q v t) (h : OnlyChanges P s v) (hQ : ∀ p
      ∈ Q, p ∈ P) : OnlyChanges P s t := h.trans (k.mono hQ)

theorem OnlyChanges.trans' {P : List Part} {s v t : State} (k : OnlyChanges P v t) (h : OnlyChanges P s v) :
      OnlyChanges P s t := h.trans k

theorem only_ite {P : List Part} {s a b : State} {c : Prop} [Decidable c] (ha : OnlyChanges P s a) (hb : OnlyChanges
      P s b) : OnlyChanges P s (if c then a else b) := by
  split
  · exact ha
  · exact hb

theorem only_ite_fst {β} {P : List Part} {s : State} {a b : State × β} {c : Prop} [Decidable c] (ha : OnlyChanges P s
      a.1)
    (hb : OnlyChanges P s b.1) : OnlyChanges P s (if c then a else b).1 := by
  split
  · exact ha
  · exact hb

theorem only_foldl_fst {α β} {P : List Part} {s : State} {x : State × β} {l : List α} {f : State × β → α → State × β}
    (hx : OnlyChanges P s x.1) (hf : ∀ y a, OnlyChanges P s y.1 → OnlyChanges P s (f y a).1) :
    OnlyChanges P s (l.foldl f x).1 := by
  induction l generalizing x with
  | nil => exact hx
  | cons a l ih => exact ih (hf _ _ hx)

theorem only_cut_fun0 {α} {P : List Part} {s t : State} (y : α → State) (h : ∀ a, OnlyChanges P s (y a))
    (k : (∀ a, OnlyChanges P s (y a)) → OnlyChanges P s t) : OnlyChanges P s t := k h

theorem only_fun1 {P : List Part} {s v : State} {y : State → State} (h : ∀ v, OnlyChanges P v (y v)) (k : OnlyChanges P s v) :
    OnlyChanges P s (y v) := k.trans (h v)

theorem only_fun2 {α β} {P : List Part} {s v : State} {a : α} {b : β} {y : α → β → State → State}
    (h : ∀ a b v, OnlyChanges P v (y a b v)) (k : OnlyChanges P s v) : OnlyChanges P s (y a b v) := k.trans (h a b v)

theorem only_cut_fun1 {P : List Part} {s t : State} (y : State → State) (h : ∀ v, OnlyChanges P v (y v))
    (k : (∀ v, OnlyChanges P v (y v)) → OnlyChanges P s t) : OnlyChanges P s t := k h

theorem only_cut_fun {α β} {P : List Part} {s t : State} (y : α → β → State → State) (h : ∀ a b v, OnlyChanges P v (y a b v))
    (k : (∀ a b v, OnlyChanges P v (y a b v)) → OnlyChanges P s t) : OnlyChanges P s t := k h

theorem only_pending {P : List Part} {s u : State} {x1} (h : OnlyChanges P s u) (h1 : .pending ∈ P) : OnlyChanges P s
      
    { u with pending := x1 } :=
  h.trans (by intro p hp; cases p <;> first | exact (hp h1).elim | rfl | exact ⟨rfl, rfl, rfl, rfl⟩)

theorem only_out {P : List Part} {s u : State} {x1} (h : OnlyChanges P s u) (h1 : .out ∈ P) : OnlyChanges P s 
    { u with out := x1 } :=
  h.trans (by intro p hp; cases p <;> first | exact (hp h1).elim | rfl | exact ⟨rfl, rfl, rfl, rfl⟩)

theorem only_ident {P : List Part} {s u : State} {x1} (h : OnlyChanges P s u) (h1 : .ident ∈ P) : OnlyChanges P s 
    { u with ident := x1 } :=
  h.trans (by intro p hp; cases p <;> first | exact (hp h1).elim | rfl | exact ⟨rfl, rfl, rfl, rfl⟩)

theorem only_power {P : List Part} {s u : State} {x1} (h : OnlyChanges P s u) (h1 : .power ∈ P) : OnlyChanges P s 
    { u with power := x1 } :=
  h.trans (by intro p hp; cases p <;> first | exact (hp h1).elim | rfl | exact ⟨rfl, rfl, rfl, rfl⟩)

theorem only_saved {P : List Part} {s u : State} {x1} (h : OnlyChanges P s u) (h1 : .saved ∈ P) : OnlyChanges P s 
    { u with saved := x1 } :=
  h.trans (by intro p hp; cases p <;> first | exact (hp h1).elim | rfl | exact ⟨rfl, rfl, rfl, rfl⟩)

theorem only_nv {P : List Part} {s u : State} {x1} (h : OnlyChanges P s u) (h1 : .nv ∈ P) : OnlyChanges P s 
    { u with nv := x1 } :=
  h.trans (by intro p hp; cases p <;> first | exact (hp h1).elim | rfl | exact ⟨rfl, rfl, rfl, rfl⟩)

theorem only_time {P : List Part} {s u : State} {x1} (h : OnlyChanges P s u) (h1 : .clock ∈ P) (h2 : .time ∈ P) :
      OnlyChanges P s 
    { u with time := x1 } :=
  h.trans (by intro p hp; cases p <;> first | exact (hp h1).elim | exact (hp h2).elim | rfl | exact ⟨rfl, rfl, rfl, rfl⟩)

theorem only_cal {P : List Part} {s u : State} {x1} (h : OnlyChanges P s u) (h1 : .cal ∈ P) : OnlyChanges P s 
    { u with cal := x1 } :=
  h.trans (by intro p hp; cases p <;> first | exact (hp h1).elim | rfl | exact ⟨rfl, rfl, rfl, rfl⟩)

theorem only_ports {P : List Part} {s u : State} {x1} (h : OnlyChanges P s u) (h1 : .ports ∈ P) : OnlyChanges P s 
    { u with ports := x1 } :=
  h.trans (by intro p hp; cases p <;> first | exact (hp h1).elim | rfl | exact ⟨rfl, rfl, rfl, rfl⟩)

theorem only_image {P : List Part} {s u : State} {x1} (h : OnlyChanges P s u) (h1 : .image ∈ P) : OnlyChanges P s 
    { u with image := x1 } :=
  h.trans (by intro p hp; cases p <;> first | exact (hp h1).elim | rfl | exact ⟨rfl, rfl, rfl, rfl⟩)

theorem only_books {P : List Part} {s u : State} {x1} (h : OnlyChanges P s u) (h1 : .books ∈ P) : OnlyChanges P s 
    { u with books := x1 } :=
  h.trans (by intro p hp; cases p <;> first | exact (hp h1).elim | rfl | exact ⟨rfl, rfl, rfl, rfl⟩)

theorem only_bookRegs {P : List Part} {s u : State} {x1} (h : OnlyChanges P s u) (h1 : .bookRegs ∈ P) : OnlyChanges P
      s 
    { u with bookRegs := x1 } :=
  h.trans (by intro p hp; cases p <;> first | exact (hp h1).elim | rfl | exact ⟨rfl, rfl, rfl, rfl⟩)

theorem only_parts {P : List Part} {s u : State} {x1} (h : OnlyChanges P s u) (h1 : .parts ∈ P) : OnlyChanges P s 
    { u with parts := x1 } :=
  h.trans (by intro p hp; cases p <;> first | exact (hp h1).elim | rfl | exact ⟨rfl, rfl, rfl, rfl⟩)

theorem only_host {P : List Part} {s u : State} {x1} (h : OnlyChanges P s u) (h1 : .host ∈ P) : OnlyChanges P s 
    { u with host := x1 } :=
  h.trans (by intro p hp; cases p <;> first | exact (hp h1).elim | rfl | exact ⟨rfl, rfl, rfl, rfl⟩)

theorem only_queues {P : List Part} {s u : State} {x1} (h : OnlyChanges P s u) (h1 : .queues ∈ P) : OnlyChanges P s 
    { u with queues := x1 } :=
  h.trans (by intro p hp; cases p <;> first | exact (hp h1).elim | rfl | exact ⟨rfl, rfl, rfl, rfl⟩)

theorem only_triggers {P : List Part} {s u : State} {x1} (h : OnlyChanges P s u) (h1 : .triggers ∈ P) : OnlyChanges P
      s 
    { u with triggers := x1 } :=
  h.trans (by intro p hp; cases p <;> first | exact (hp h1).elim | rfl | exact ⟨rfl, rfl, rfl, rfl⟩)

theorem only_groups {P : List Part} {s u : State} {x1} (h : OnlyChanges P s u) (h1 : .groups ∈ P) : OnlyChanges P s 
    { u with groups := x1 } :=
  h.trans (by intro p hp; cases p <;> first | exact (hp h1).elim | rfl | exact ⟨rfl, rfl, rfl, rfl⟩)

theorem only_buckets {P : List Part} {s u : State} {x1} (h : OnlyChanges P s u) (h1 : .buckets ∈ P) : OnlyChanges P s
      
    { u with buckets := x1 } :=
  h.trans (by intro p hp; cases p <;> first | exact (hp h1).elim | rfl | exact ⟨rfl, rfl, rfl, rfl⟩)

theorem only_staging {P : List Part} {s u : State} {x1} (h : OnlyChanges P s u) (h1 : .staging ∈ P) : OnlyChanges P s
      
    { u with staging := x1 } :=
  h.trans (by intro p hp; cases p <;> first | exact (hp h1).elim | rfl | exact ⟨rfl, rfl, rfl, rfl⟩)

theorem only_stack {P : List Part} {s u : State} {x1} (h : OnlyChanges P s u) (h1 : .stack ∈ P) : OnlyChanges P s 
    { u with stack := x1 } :=
  h.trans (by intro p hp; cases p <;> first | exact (hp h1).elim | rfl | exact ⟨rfl, rfl, rfl, rfl⟩)

theorem only_badUnits {P : List Part} {s u : State} {x1} (h : OnlyChanges P s u) (h1 : .badUnits ∈ P) : OnlyChanges P
      s 
    { u with badUnits := x1 } :=
  h.trans (by intro p hp; cases p <;> first | exact (hp h1).elim | rfl | exact ⟨rfl, rfl, rfl, rfl⟩)

theorem only_units {P : List Part} {s u : State} {x1} (h : OnlyChanges P s u) (h1 : .units ∈ P) : OnlyChanges P s 
    { u with units := x1 } :=
  h.trans (by intro p hp; cases p <;> first | exact (hp h1).elim | rfl | exact ⟨rfl, rfl, rfl, rfl⟩)

theorem only_xfers {P : List Part} {s u : State} {x1} (h : OnlyChanges P s u) (h1 : .xfers ∈ P) : OnlyChanges P s 
    { u with xfers := x1 } :=
  h.trans (by intro p hp; cases p <;> first | exact (hp h1).elim | rfl | exact ⟨rfl, rfl, rfl, rfl⟩)

theorem only_blockCount {P : List Part} {s u : State} {x1} (h : OnlyChanges P s u) (h1 : .blockCount ∈ P) :
      OnlyChanges P s 
    { u with blockCount := x1 } :=
  h.trans (by intro p hp; cases p <;> first | exact (hp h1).elim | rfl | exact ⟨rfl, rfl, rfl, rfl⟩)

theorem only_blockRx {P : List Part} {s u : State} {x1} (h : OnlyChanges P s u) (h1 : .blockRx ∈ P) : OnlyChanges P s
      
    { u with blockRx := x1 } :=
  h.trans (by intro p hp; cases p <;> first | exact (hp h1).elim | rfl | exact ⟨rfl, rfl, rfl, rfl⟩)

theorem only_flows {P : List Part} {s u : State} {x1} (h : OnlyChanges P s u) (h1 : .flows ∈ P) : OnlyChanges P s 
    { u with flows := x1 } :=
  h.trans (by intro p hp; cases p <;> first | exact (hp h1).elim | rfl | exact ⟨rfl, rfl, rfl, rfl⟩)

theorem only_areas {P : List Part} {s u : State} {x1} (h : OnlyChanges P s u) (h1 : .areas ∈ P) : OnlyChanges P s 
    { u with areas := x1 } :=
  h.trans (by intro p hp; cases p <;> first | exact (hp h1).elim | rfl | exact ⟨rfl, rfl, rfl, rfl⟩)

theorem only_rings {P : List Part} {s u : State} {x1} (h : OnlyChanges P s u) (h1 : .rings ∈ P) : OnlyChanges P s 
    { u with rings := x1 } :=
  h.trans (by intro p hp; cases p <;> first | exact (hp h1).elim | rfl | exact ⟨rfl, rfl, rfl, rfl⟩)

theorem only_events {P : List Part} {s u : State} {x1} (h : OnlyChanges P s u) (h1 : .events ∈ P) : OnlyChanges P s 
    { u with events := x1 } :=
  h.trans (by intro p hp; cases p <;> first | exact (hp h1).elim | rfl | exact ⟨rfl, rfl, rfl, rfl⟩)

theorem only_stats {P : List Part} {s u : State} {x1} (h : OnlyChanges P s u) (h1 : .stats ∈ P) : OnlyChanges P s 
    { u with stats := x1 } :=
  h.trans (by intro p hp; cases p <;> first | exact (hp h1).elim | rfl | exact ⟨rfl, rfl, rfl, rfl⟩)

theorem only_snaps {P : List Part} {s u : State} {x1} (h : OnlyChanges P s u) (h1 : .snaps ∈ P) : OnlyChanges P s 
    { u with snaps := x1 } :=
  h.trans (by intro p hp; cases p <;> first | exact (hp h1).elim | rfl | exact ⟨rfl, rfl, rfl, rfl⟩)

theorem only_ctxView {P : List Part} {s u : State} {x1} (h : OnlyChanges P s u) (h1 : .ctxView ∈ P) : OnlyChanges P s
      
    { u with ctxView := x1 } :=
  h.trans (by intro p hp; cases p <;> first | exact (hp h1).elim | rfl | exact ⟨rfl, rfl, rfl, rfl⟩)

theorem only_recSel {P : List Part} {s u : State} {x1} (h : OnlyChanges P s u) (h1 : .recSel ∈ P) : OnlyChanges P s 
    { u with recSel := x1 } :=
  h.trans (by intro p hp; cases p <;> first | exact (hp h1).elim | rfl | exact ⟨rfl, rfl, rfl, rfl⟩)

theorem only_maint {P : List Part} {s u : State} {x1} (h : OnlyChanges P s u) (h1 : .maint ∈ P) : OnlyChanges P s 
    { u with maint := x1 } :=
  h.trans (by intro p hp; cases p <;> first | exact (hp h1).elim | rfl | exact ⟨rfl, rfl, rfl, rfl⟩)

theorem only_tap {P : List Part} {s u : State} {x1} (h : OnlyChanges P s u) (h1 : .tap ∈ P) : OnlyChanges P s 
    { u with tap := x1 } :=
  h.trans (by intro p hp; cases p <;> first | exact (hp h1).elim | rfl | exact ⟨rfl, rfl, rfl, rfl⟩)

theorem only_badUnits_maint {P : List Part} {s u : State} {x1} {x2} (h : OnlyChanges P s u) (h1 : .badUnits ∈ P) (h2 :
      .maint ∈ P) : OnlyChanges P s 
    { u with badUnits := x1, maint := x2 } :=
  h.trans (by intro p hp; cases p <;> first | exact (hp h1).elim | exact (hp h2).elim | rfl | exact ⟨rfl, rfl, rfl, rfl⟩)

theorem only_blockCount_blockRx {P : List Part} {s u : State} {x1} {x2} (h : OnlyChanges P s u) (h1 : .blockCount ∈ P)
      (h2 : .blockRx ∈ P) : OnlyChanges P s 
    { u with blockCount := x1, blockRx := x2 } :=
  h.trans (by intro p hp; cases p <;> first | exact (hp h1).elim | exact (hp h2).elim | rfl | exact ⟨rfl, rfl, rfl, rfl⟩)

theorem only_nv_image {P : List Part} {s u : State} {x1} {x2} (h : OnlyChanges P s u) (h1 : .nv ∈ P) (h2 : .image ∈ P)
      : OnlyChanges P s 
    { u with nv := x1, image := x2 } :=
  h.trans (by intro p hp; cases p <;> first | exact (hp h1).elim | exact (hp h2).elim | rfl | exact ⟨rfl, rfl, rfl, rfl⟩)

theorem only_parts_queues_triggers_buckets_areas_rings_events {P : List Part} {s u : State} {x1} {x2} {x3} {x4} {x5}
      {x6} {x7} (h : OnlyChanges P s u) (h1 : .parts ∈ P) (h2 : .queues ∈ P) (h3 : .triggers ∈ P) (h4 : .buckets ∈ P)
      (h5 : .areas ∈ P) (h6 : .rings ∈ P) (h7 : .events ∈ P) : OnlyChanges P s 
    { u with parts := x1, queues := x2, triggers := x3, buckets := x4, areas := x5, rings := x6,
             events := x7 } :=
  h.trans (by intro p hp; cases p <;> first | exact (hp h1).elim | exact (hp h2).elim | exact (hp h3).elim | exact (hp h4).elim | exact (hp h5).elim | exact (hp h6).elim | exact (hp h7).elim | rfl | exact ⟨rfl, rfl, rfl, rfl⟩)

theorem only_power_still {P : List Part} {s u : State} {x1} {x2} (h : OnlyChanges P s u) (hx : x2.hall = u.time.hall ∧
      x2.tide = u.time.tide ∧ x2.localFrames = u.time.localFrames ∧ x2.ticks = u.time.ticks) (h1 : .power ∈ P) (h2 :
      .time ∈ P) : OnlyChanges P s 
    { u with power := x1, time := x2 } :=
  h.trans (by intro p hp; cases p <;> first | exact (hp h1).elim | exact (hp h2).elim | rfl | exact hx)

theorem only_power_tap {P : List Part} {s u : State} {x1} {x2} (h : OnlyChanges P s u) (h1 : .power ∈ P) (h2 : .tap ∈
      P) : OnlyChanges P s 
    { u with power := x1, tap := x2 } :=
  h.trans (by intro p hp; cases p <;> first | exact (hp h1).elim | exact (hp h2).elim | rfl | exact ⟨rfl, rfl, rfl, rfl⟩)

theorem only_queues_areas {P : List Part} {s u : State} {x1} {x2} (h : OnlyChanges P s u) (h1 : .queues ∈ P) (h2 :
      .areas ∈ P) : OnlyChanges P s 
    { u with queues := x1, areas := x2 } :=
  h.trans (by intro p hp; cases p <;> first | exact (hp h1).elim | exact (hp h2).elim | rfl | exact ⟨rfl, rfl, rfl, rfl⟩)

theorem only_stack_badUnits {P : List Part} {s u : State} {x1} {x2} (h : OnlyChanges P s u) (h1 : .stack ∈ P) (h2 :
      .badUnits ∈ P) : OnlyChanges P s 
    { u with stack := x1, badUnits := x2 } :=
  h.trans (by intro p hp; cases p <;> first | exact (hp h1).elim | exact (hp h2).elim | rfl | exact ⟨rfl, rfl, rfl, rfl⟩)

theorem only_stack_badUnits_events_maint {P : List Part} {s u : State} {x1} {x2} {x3} {x4} (h : OnlyChanges P s u) (h1
      : .stack ∈ P) (h2 : .badUnits ∈ P) (h3 : .events ∈ P) (h4 : .maint ∈ P) : OnlyChanges P s 
    { u with stack := x1, badUnits := x2, events := x3, maint := x4 } :=
  h.trans (by intro p hp; cases p <;> first | exact (hp h1).elim | exact (hp h2).elim | exact (hp h3).elim | exact (hp h4).elim | rfl | exact ⟨rfl, rfl, rfl, rfl⟩)

theorem only_still {P : List Part} {s u : State} {x : TimeState} (h : OnlyChanges P s u) (hx : x.hall = u.time.hall ∧ x.tide = u.time.tide ∧
      x.localFrames = u.time.localFrames ∧ x.ticks = u.time.ticks) (h1 : .time ∈ P) : OnlyChanges P s { u with time := x } :=
  h.trans (by intro p hp; cases p <;> first | exact (hp h1).elim | rfl | exact hx)

theorem only_still_cal {P : List Part} {s u : State} {x1} {x2} (h : OnlyChanges P s u) (hx : x1.hall = u.time.hall ∧
      x1.tide = u.time.tide ∧ x1.localFrames = u.time.localFrames ∧ x1.ticks = u.time.ticks) (h1 : .time ∈ P) (h2 :
      .cal ∈ P) : OnlyChanges P s 
    { u with time := x1, cal := x2 } :=
  h.trans (by intro p hp; cases p <;> first | exact (hp h1).elim | exact (hp h2).elim | rfl | exact hx)

theorem only_tick {P : List Part} {s u : State} {x : TimeState} (h : OnlyChanges P s u) (hx : x.still = u.time.still) (h1 : .clock ∈ P) :
    OnlyChanges P s { u with time := x } :=
  h.trans (by intro p hp; cases p <;> first | exact (hp h1).elim | rfl | exact hx)

end Sys2Proof.Machine
end

