-- ==== Sys2Proof/Laws/Frame1.lean ====
section
/-! SUPPORT. Frame lemmas, part 1 of 8: for each operation and command, the parts of the state that it can change. -/

namespace Sys2Proof.Machine

open Sys2Proof State

set_option linter.unreachableTactic false
set_option linter.unusedTactic false

theorem State.setPort_only {u : State} {a1 : ℕ} {a2 : PortState} :
    OnlyChanges [.ports] u (State.setPort u a1 a2) := by
  unfold State.setPort
  repeat' first
    | with_reducible assumption
    | with_reducible apply OnlyChanges.refl
    | ((with_reducible apply only_ports (h1 := by decide)); first | with_reducible assumption | with_reducible exact OnlyChanges.refl)

theorem State.modPort_only {u : State} {a1 : ℕ} {a2 : PortState → PortState} :
    OnlyChanges [.ports] u (State.modPort u a1 a2) := by
  unfold State.modPort
  repeat' first
    | with_reducible assumption
    | with_reducible apply OnlyChanges.refl
    | (with_reducible apply OnlyChanges.step State.setPort_only; on_goal 2 => decide)

theorem State.setGroup_only {u : State} {a1 : ℕ} {a2 : Group} :
    OnlyChanges [.groups] u (State.setGroup u a1 a2) := by
  unfold State.setGroup
  repeat' first
    | with_reducible assumption
    | with_reducible apply OnlyChanges.refl
    | ((with_reducible apply only_groups (h1 := by decide)); first | with_reducible assumption | with_reducible exact OnlyChanges.refl)

theorem State.modGroup_only {u : State} {a1 : ℕ} {a2 : Group → Group} :
    OnlyChanges [.groups] u (State.modGroup u a1 a2) := by
  unfold State.modGroup
  repeat' first
    | with_reducible assumption
    | with_reducible apply OnlyChanges.refl
    | (with_reducible apply OnlyChanges.step State.setGroup_only; on_goal 2 => decide)

theorem State.setQueue_only {u : State} {a1 : ℕ} {a2 : Queue} :
    OnlyChanges [.queues] u (State.setQueue u a1 a2) := by
  unfold State.setQueue
  repeat' first
    | with_reducible assumption
    | with_reducible apply OnlyChanges.refl
    | ((with_reducible apply only_queues (h1 := by decide)); first | with_reducible assumption | with_reducible exact OnlyChanges.refl)

theorem State.modQueue_only {u : State} {a1 : ℕ} {a2 : Queue → Queue} :
    OnlyChanges [.queues] u (State.modQueue u a1 a2) := by
  unfold State.modQueue
  repeat' first
    | with_reducible assumption
    | with_reducible apply OnlyChanges.refl
    | (with_reducible apply OnlyChanges.step State.setQueue_only; on_goal 2 => decide)

theorem State.setBucket_only {u : State} {a1 : ℕ} {a2 : BucketState} :
    OnlyChanges [.buckets] u (State.setBucket u a1 a2) := by
  unfold State.setBucket
  repeat' first
    | with_reducible assumption
    | with_reducible apply OnlyChanges.refl
    | ((with_reducible apply only_buckets (h1 := by decide)); first | with_reducible assumption | with_reducible exact OnlyChanges.refl)

theorem State.setTrigger_only {u : State} {a1 : ℕ} {a2 : Word32} :
    OnlyChanges [.triggers] u (State.setTrigger u a1 a2) := by
  unfold State.setTrigger
  repeat' first
    | with_reducible assumption
    | with_reducible apply OnlyChanges.refl
    | ((with_reducible apply only_triggers (h1 := by decide)); first | with_reducible assumption | with_reducible exact OnlyChanges.refl)

theorem State.setArea_only {u : State} {a1 : ℕ} {a2 : Area} :
    OnlyChanges [.areas] u (State.setArea u a1 a2) := by
  unfold State.setArea
  repeat' first
    | with_reducible assumption
    | with_reducible apply OnlyChanges.refl
    | ((with_reducible apply only_areas (h1 := by decide)); first | with_reducible assumption | with_reducible exact OnlyChanges.refl)

theorem State.setRing_only {u : State} {a1 : ℕ} {a2 : EventRing} :
    OnlyChanges [.rings] u (State.setRing u a1 a2) := by
  unfold State.setRing
  repeat' first
    | with_reducible assumption
    | with_reducible apply OnlyChanges.refl
    | ((with_reducible apply only_rings (h1 := by decide)); first | with_reducible assumption | with_reducible exact OnlyChanges.refl)

theorem State.setBook_only {u : State} {a1 : ℕ} {a2 : Codebook} :
    OnlyChanges [.books] u (State.setBook u a1 a2) := by
  unfold State.setBook
  repeat' first
    | with_reducible assumption
    | with_reducible apply OnlyChanges.refl
    | ((with_reducible apply only_books (h1 := by decide)); first | with_reducible assumption | with_reducible exact OnlyChanges.refl)

theorem State.setUnit_only {u : State} {a1 : ℕ} {a2 : UpdateUnit} :
    OnlyChanges [.units] u (State.setUnit u a1 a2) := by
  unfold State.setUnit
  repeat' first
    | with_reducible assumption
    | with_reducible apply OnlyChanges.refl
    | ((with_reducible apply only_units (h1 := by decide)); first | with_reducible assumption | with_reducible exact OnlyChanges.refl)

theorem State.setFlow_only {u : State} {a1 : ℕ} {a2 : Flow} :
    OnlyChanges [.flows] u (State.setFlow u a1 a2) := by
  unfold State.setFlow
  repeat' first
    | with_reducible assumption
    | with_reducible apply OnlyChanges.refl
    | ((with_reducible apply only_flows (h1 := by decide)); first | with_reducible assumption | with_reducible exact OnlyChanges.refl)

theorem State.resetBlocks_only {u : State} {a1 : ℕ} :
    OnlyChanges [.blockCount, .blockRx] u (State.resetBlocks u a1) := by
  unfold State.resetBlocks
  repeat' first
    | with_reducible assumption
    | with_reducible apply OnlyChanges.refl
    | ((with_reducible apply only_blockCount_blockRx (h1 := by decide) (h2 := by decide)); first | with_reducible assumption | with_reducible exact OnlyChanges.refl)

theorem State.setSnap_only {u : State} {a1 : ℕ} {a2 : SnapPage} :
    OnlyChanges [.snaps] u (State.setSnap u a1 a2) := by
  unfold State.setSnap
  repeat' first
    | with_reducible assumption
    | with_reducible apply OnlyChanges.refl
    | ((with_reducible apply only_snaps (h1 := by decide)); first | with_reducible assumption | with_reducible exact OnlyChanges.refl)

theorem State.setBay_only {u : State} {a1 : ℕ} {a2 : BayTest} :
    OnlyChanges [.maint] u (State.setBay u a1 a2) := by
  unfold State.setBay
  repeat' first
    | with_reducible assumption
    | with_reducible apply OnlyChanges.refl
    | (extract_lets +onlyGivenNames y; first | (apply only_cut (v := y); (on_goal 2 => (intro hy; clear_value y)); subst y) | clear_value y | subst y)
    | ((with_reducible apply only_maint (h1 := by decide)); first | with_reducible assumption | with_reducible exact OnlyChanges.refl)

theorem State.setTimePort_only {u : State} {a1 : ℕ} {a2 : TimePort} :
    OnlyChanges [.time] u (State.setTimePort u a1 a2) := by
  unfold State.setTimePort
  repeat' first
    | with_reducible assumption
    | with_reducible apply OnlyChanges.refl
    | (extract_lets +onlyGivenNames y; first | (apply only_cut (v := y); (on_goal 2 => (intro hy; clear_value y)); subst y) | (have hy : TimeState := y; clear hy; subst y) | clear_value y | subst y)
    | ((with_reducible apply only_still (h1 := by decide)); (on_goal 2 => exact ⟨rfl, rfl, rfl, rfl⟩); first | with_reducible assumption | with_reducible exact OnlyChanges.refl)

theorem State.emit_only {u : State} {a1 : Output} :
    OnlyChanges [.out] u (State.emit u a1) := by
  unfold State.emit
  repeat' first
    | with_reducible assumption
    | with_reducible apply OnlyChanges.refl
    | ((with_reducible apply only_out (h1 := by decide)); first | with_reducible assumption | with_reducible exact OnlyChanges.refl)

theorem State.emits_only {u : State} {a1 : List Output} :
    OnlyChanges [.out] u (State.emits u a1) := by
  unfold State.emits
  repeat' first
    | with_reducible assumption
    | with_reducible apply OnlyChanges.refl
    | ((with_reducible apply only_out (h1 := by decide)); first | with_reducible assumption | with_reducible exact OnlyChanges.refl)

theorem State.setPstate_only {u : State} {a1 : ℕ} {a2 : PState} :
    OnlyChanges [.parts] u (State.setPstate u a1 a2) := by
  unfold State.setPstate
  repeat' first
    | with_reducible assumption
    | with_reducible apply OnlyChanges.refl
    | (extract_lets +onlyGivenNames y; first | (apply only_cut (v := y); (on_goal 2 => (intro hy; clear_value y)); subst y) | clear_value y | subst y)
    | ((with_reducible apply only_parts (h1 := by decide)); first | with_reducible assumption | with_reducible exact OnlyChanges.refl)

theorem State.raise_only {u : State} {a1 : Event} :
    OnlyChanges [.events] u (State.raise u a1) := by
  unfold State.raise
  repeat' first
    | with_reducible assumption
    | with_reducible apply OnlyChanges.refl
    | (extract_lets +onlyGivenNames y; first | (apply only_cut (v := y); (on_goal 2 => (intro hy; clear_value y)); subst y) | clear_value y | subst y)
    | with_reducible apply only_ite
    | ((with_reducible apply only_events (h1 := by decide)); first | with_reducible assumption | with_reducible exact OnlyChanges.refl)

theorem State.bumpBy_only {u : State} {a1 : EStat} {a2 : ℕ} :
    OnlyChanges [.events, .stats] u (State.bumpBy u a1 a2) := by
  unfold State.bumpBy
  repeat' first
    | with_reducible assumption
    | with_reducible apply OnlyChanges.refl
    | (extract_lets +onlyGivenNames y; first | (apply only_cut (v := y); (on_goal 2 => (intro hy; clear_value y)); subst y) | clear_value y | subst y)
    | (with_reducible apply OnlyChanges.step State.raise_only; on_goal 2 => decide)
    | with_reducible apply only_ite
    | ((with_reducible apply only_stats (h1 := by decide)); first | with_reducible assumption | with_reducible exact OnlyChanges.refl)

theorem State.bump_only {u : State} {a1 : EStat} :
    OnlyChanges [.events, .stats] u (State.bump u a1) := by
  unfold State.bump
  repeat' first
    | with_reducible assumption
    | with_reducible apply OnlyChanges.refl
    | (with_reducible apply OnlyChanges.step State.bumpBy_only; on_goal 2 => decide)

theorem State.bumpCopy_only {u : State} {a1 : EStat} {a2 : ℕ} {a3 : ℕ} :
    OnlyChanges [.events, .stats] u (State.bumpCopy u a1 a2 a3) := by
  unfold State.bumpCopy
  repeat' first
    | with_reducible assumption
    | with_reducible apply OnlyChanges.refl
    | (extract_lets +onlyGivenNames y; first | (apply only_cut (v := y); (on_goal 2 => (intro hy; clear_value y)); subst y) | clear_value y | subst y)
    | (with_reducible apply OnlyChanges.step State.raise_only; on_goal 2 => decide)
    | with_reducible apply only_ite
    | ((with_reducible apply only_stats (h1 := by decide)); first | with_reducible assumption | with_reducible exact OnlyChanges.refl)
    | split

theorem State.bumpP_only {u : State} {a1 : EStat} {a2 : ℕ} {a3 : ℕ} :
    OnlyChanges [.events, .stats] u (State.bumpP u a1 a2 a3) := by
  unfold State.bumpP
  repeat' first
    | with_reducible assumption
    | with_reducible apply OnlyChanges.refl
    | (with_reducible apply OnlyChanges.step State.bumpBy_only; on_goal 2 => decide)
    | (with_reducible apply OnlyChanges.step State.bumpCopy_only; on_goal 2 => decide)

theorem State.bumpG_only {u : State} {a1 : EStat} {a2 : ℕ} {a3 : ℕ} :
    OnlyChanges [.events, .stats] u (State.bumpG u a1 a2 a3) := by
  unfold State.bumpG
  repeat' first
    | with_reducible assumption
    | with_reducible apply OnlyChanges.refl
    | (with_reducible apply OnlyChanges.step State.bumpBy_only; on_goal 2 => decide)
    | (with_reducible apply OnlyChanges.step State.bumpP_only; on_goal 2 => decide)
    | split

theorem State.bumpPort_only {u : State} {a1 : ℕ} {a2 : PStat} {a3 : ℕ} :
    OnlyChanges [.events, .stats] u (State.bumpPort u a1 a2 a3) := by
  unfold State.bumpPort
  repeat' first
    | with_reducible assumption
    | with_reducible apply OnlyChanges.refl
    | (extract_lets +onlyGivenNames y; first | (apply only_cut (v := y); (on_goal 2 => (intro hy; clear_value y)); subst y) | clear_value y | subst y)
    | (with_reducible apply OnlyChanges.step State.raise_only; on_goal 2 => decide)
    | with_reducible apply only_ite
    | ((with_reducible apply only_stats (h1 := by decide)); first | with_reducible assumption | with_reducible exact OnlyChanges.refl)

theorem State.modOp_only {u : State} {a1 : ℕ} {a2 : ℕ} {a3 : QueueOp → QueueOp} :
    OnlyChanges [.queues] u (State.modOp u a1 a2 a3) := by
  unfold State.modOp
  repeat' first
    | with_reducible assumption
    | with_reducible apply OnlyChanges.refl
    | (with_reducible apply OnlyChanges.step State.modQueue_only; on_goal 2 => decide)

theorem State.modLaunch_only {u : State} {a1 : ℕ} {a2 : ℕ} {a3 : Launch → Launch} :
    OnlyChanges [.queues] u (State.modLaunch u a1 a2 a3) := by
  unfold State.modLaunch
  repeat' first
    | with_reducible assumption
    | with_reducible apply OnlyChanges.refl
    | (with_reducible apply OnlyChanges.step State.modOp_only; on_goal 2 => decide)

theorem State.modCtx_only {u : State} {a1 : ℕ} {a2 : ℕ} {a3 : ℕ} {a4 : Ctx → Ctx} :
    OnlyChanges [.groups] u (State.modCtx u a1 a2 a3 a4) := by
  unfold State.modCtx
  repeat' first
    | with_reducible assumption
    | with_reducible apply OnlyChanges.refl
    | (with_reducible apply OnlyChanges.step State.modGroup_only; on_goal 2 => decide)

theorem State.sendOn_only {u : State} {a1 : ℕ} {a2 : Msg} :
    OnlyChanges [.ports] u (State.sendOn u a1 a2) := by
  unfold State.sendOn
  repeat' first
    | with_reducible assumption
    | with_reducible apply OnlyChanges.refl
    | (with_reducible apply OnlyChanges.step State.modPort_only; on_goal 2 => decide)

theorem State.countLost_only {u : State} {a1 : ℕ} :
    OnlyChanges [.events, .stats] u (State.countLost u a1) := by
  unfold State.countLost
  repeat' first
    | with_reducible assumption
    | with_reducible apply OnlyChanges.refl
    | (with_reducible apply OnlyChanges.step State.bumpPort_only; on_goal 2 => decide)
    | split

theorem State.send_only {u : State} {a1 : Msg} :
    OnlyChanges [.ports] u (State.send u a1) := by
  unfold State.send
  repeat' first
    | with_reducible assumption
    | with_reducible apply OnlyChanges.refl
    | (with_reducible apply OnlyChanges.step State.sendOn_only; on_goal 2 => decide)
    | split

theorem State.ledgerEvent_only {u : State} {a1 : LedgerEntry} :
    OnlyChanges [.events] u (State.ledgerEvent u a1) := by
  unfold State.ledgerEvent
  repeat' first
    | with_reducible assumption
    | with_reducible apply OnlyChanges.refl
    | (with_reducible apply OnlyChanges.step State.raise_only; on_goal 2 => decide)
    | with_reducible apply only_ite

theorem State.enterLedger_only {u : State} {a1 : ℕ} {a2 : ℕ} {a3 : ℕ} {a4 : ℕ} :
    OnlyChanges [.groups, .events] u (State.enterLedger u a1 a2 a3 a4) := by
  unfold State.enterLedger
  repeat' first
    | with_reducible assumption
    | with_reducible apply OnlyChanges.refl
    | (extract_lets +onlyGivenNames y; first | (apply only_cut (v := y); (on_goal 2 => (intro hy; clear_value y)); subst y) | clear_value y | subst y)
    | (with_reducible apply OnlyChanges.step State.modGroup_only; on_goal 2 => decide)
    | (with_reducible apply OnlyChanges.step State.ledgerEvent_only; on_goal 2 => decide)
    | with_reducible apply only_ite

theorem State.modRecord_only {u : State} {a1 : ℕ} {a2 : StepRecord → StepRecord} :
    OnlyChanges [.groups] u (State.modRecord u a1 a2) := by
  unfold State.modRecord
  repeat' first
    | with_reducible assumption
    | with_reducible apply OnlyChanges.refl
    | (with_reducible apply OnlyChanges.step State.modGroup_only; on_goal 2 => decide)

theorem State.modEntry_only {u : State} {a1 : ℕ} {a2 : ℕ} {a3 : ℕ} {a4 : RecEntry → RecEntry} :
    OnlyChanges [.groups] u (State.modEntry u a1 a2 a3 a4) := by
  unfold State.modEntry
  repeat' first
    | with_reducible assumption
    | with_reducible apply OnlyChanges.refl
    | (with_reducible apply OnlyChanges.step State.modRecord_only; on_goal 2 => decide)
    | with_reducible apply only_ite

theorem State.keepToken_only {u : State} {a1 : ℕ} {a2 : ℕ × ℕ} {a3 : Bool} :
    OnlyChanges [.groups] u (State.keepToken u a1 a2 a3) := by
  unfold State.keepToken
  repeat' first
    | with_reducible assumption
    | with_reducible apply OnlyChanges.refl
    | (extract_lets +onlyGivenNames y; first | (apply only_cut (v := y); (on_goal 2 => (intro hy; clear_value y)); subst y) | clear_value y | subst y)
    | (with_reducible apply OnlyChanges.step State.modGroup_only; on_goal 2 => decide)
    | with_reducible apply only_ite
    | split

theorem State.abort_only {u : State} {a1 : ℕ} {a2 : ℕ} {a3 : ℕ} {a4 : ℕ} :
    OnlyChanges [.ports, .groups] u (State.abort u a1 a2 a3 a4) := by
  unfold State.abort
  repeat' first
    | with_reducible assumption
    | with_reducible apply OnlyChanges.refl
    | (extract_lets +onlyGivenNames y; first | (apply only_cut (v := y); (on_goal 2 => (intro hy; clear_value y)); subst y) | clear_value y | subst y)
    | (with_reducible apply OnlyChanges.step State.keepToken_only; on_goal 2 => decide)
    | (with_reducible apply OnlyChanges.step State.send_only; on_goal 2 => decide)
    | with_reducible apply only_ite

theorem State.noteMovable_only {u : State} {a1 : ℕ} {a2 : ℕ} :
    OnlyChanges [.groups] u (State.noteMovable u a1 a2) := by
  unfold State.noteMovable
  repeat' first
    | with_reducible assumption
    | with_reducible apply OnlyChanges.refl
    | (with_reducible apply OnlyChanges.step State.modGroup_only; on_goal 2 => decide)
    | with_reducible apply only_ite

theorem State.abortGroup_only {u : State} {a1 : ℕ} {a2 : ℕ} :
    OnlyChanges [.ports, .groups] u (State.abortGroup u a1 a2) := by
  unfold State.abortGroup
  repeat' first
    | with_reducible assumption
    | with_reducible apply OnlyChanges.refl
    | (with_reducible apply OnlyChanges.step State.abort_only; on_goal 2 => decide)

theorem State.abortGroups_only {u : State} {a1 : List ℕ} {a2 : ℕ} :
    OnlyChanges [.ports, .groups] u (State.abortGroups u a1 a2) := by
  unfold State.abortGroups
  repeat' first
    | with_reducible assumption
    | with_reducible apply OnlyChanges.refl
    | (with_reducible apply OnlyChanges.step State.abortGroup_only; on_goal 2 => decide)
    | (with_reducible apply only_foldl; on_goal 2 => intro _ _ _)

theorem State.clearStaging_only {u : State} {a1 : ℕ} :
    OnlyChanges [.staging] u (State.clearStaging u a1) := by
  unfold State.clearStaging
  repeat' first
    | with_reducible assumption
    | with_reducible apply OnlyChanges.refl
    | ((with_reducible apply only_staging (h1 := by decide)); first | with_reducible assumption | with_reducible exact OnlyChanges.refl)

theorem State.addTrigger_only {u : State} {a1 : ℕ} {a2 : ℕ} :
    OnlyChanges [.triggers] u (State.addTrigger u a1 a2) := by
  unfold State.addTrigger
  repeat' first
    | with_reducible assumption
    | with_reducible apply OnlyChanges.refl
    | (with_reducible apply OnlyChanges.step State.setTrigger_only; on_goal 2 => decide)

theorem State.dropAdd_only {u : State} {a1 : ℕ} {a2 : ℕ} {a3 : ℕ} :
    OnlyChanges [.events, .stats] u (State.dropAdd u a1 a2 a3) := by
  unfold State.dropAdd
  repeat' first
    | with_reducible assumption
    | with_reducible apply OnlyChanges.refl
    | (with_reducible apply OnlyChanges.step State.raise_only; on_goal 2 => decide)
    | (with_reducible apply OnlyChanges.step State.bumpP_only; on_goal 2 => decide)

theorem State.queueAdd_only {u : State} {a1 : ℕ} {a2 : ℕ} {a3 : ℕ} {a4 : ℕ} :
    OnlyChanges [.triggers, .events, .stats] u (State.queueAdd u a1 a2 a3 a4) := by
  unfold State.queueAdd
  repeat' first
    | with_reducible assumption
    | with_reducible apply OnlyChanges.refl
    | (with_reducible apply OnlyChanges.step State.addTrigger_only; on_goal 2 => decide)
    | (with_reducible apply OnlyChanges.step State.dropAdd_only; on_goal 2 => decide)
    | with_reducible apply only_ite

theorem State.writeRecord_only {u : State} {a1 : ℕ} {a2 : DueRecord} :
    OnlyChanges [.out, .queues, .triggers, .events, .stats] u (State.writeRecord u a1 a2) := by
  unfold State.writeRecord
  repeat' first
    | with_reducible assumption
    | with_reducible apply OnlyChanges.refl
    | (extract_lets +onlyGivenNames y; first | (apply only_cut (v := y); (on_goal 2 => (intro hy; clear_value y)); subst y) | clear_value y | subst y)
    | (with_reducible apply OnlyChanges.step State.setQueue_only; on_goal 2 => decide)
    | (with_reducible apply OnlyChanges.step State.queueAdd_only; on_goal 2 => decide)
    | (with_reducible apply OnlyChanges.step State.emit_only; on_goal 2 => decide)
    | split

theorem State.flushDue_only {u : State} {a0 : Bool} {a1 a3 : Nat} :
    OnlyChanges [.out, .queues, .triggers, .events, .stats] u (State.flushDue a0 a1 u a3) := by
  induction a1 generalizing u with
  | zero => exact OnlyChanges.refl
  | succ n ih =>
    unfold State.flushDue
    repeat' first
      | with_reducible apply OnlyChanges.refl
      | with_reducible apply OnlyChanges.trans' ih
      | (with_reducible apply OnlyChanges.step State.writeRecord_only; on_goal 2 => decide)
      | (with_reducible apply OnlyChanges.step State.setQueue_only; on_goal 2 => decide)
      | ((try lift_lets); intro y; clear_value y)
      | with_reducible apply only_ite
      | split

theorem State.flushQueue_only {u : State} {a1 : ℕ} :
    OnlyChanges [.out, .queues, .triggers, .events, .stats] u (State.flushQueue u a1) := by
  unfold State.flushQueue
  repeat' first
    | with_reducible assumption
    | with_reducible apply OnlyChanges.refl
    | (with_reducible apply OnlyChanges.step State.flushDue_only; on_goal 2 => decide)

theorem State.flushTide_only {u : State}  :
    OnlyChanges [.out, .queues, .triggers, .events, .stats] u (State.flushTide u) := by
  unfold State.flushTide
  repeat' first
    | with_reducible assumption
    | with_reducible apply OnlyChanges.refl
    | (with_reducible apply OnlyChanges.step State.flushDue_only; on_goal 2 => decide)
    | (with_reducible apply only_foldl; on_goal 2 => intro _ _ _)

theorem State.complete_only {u : State} {a1 : ℕ} {a2 : QueueOp} {a3 : ℕ} {a4 : ℕ} {a5 : Bool} :
    OnlyChanges [.queues] u (State.complete u a1 a2 a3 a4 a5) := by
  unfold State.complete
  repeat' first
    | with_reducible assumption
    | with_reducible apply OnlyChanges.refl
    | (extract_lets +onlyGivenNames y; first | (apply only_cut (v := y); (on_goal 2 => (intro hy; clear_value y)); subst y) | clear_value y | subst y)
    | (with_reducible apply OnlyChanges.step State.modOp_only; on_goal 2 => decide)
    | (with_reducible apply OnlyChanges.step State.modQueue_only; on_goal 2 => decide)
    | with_reducible apply only_ite

theorem State.dropDone_only {u : State} {a1 : ℕ} :
    OnlyChanges [.queues] u (State.dropDone u a1) := by
  unfold State.dropDone
  repeat' first
    | with_reducible assumption
    | with_reducible apply OnlyChanges.refl
    | (with_reducible apply OnlyChanges.step State.modQueue_only; on_goal 2 => decide)

theorem State.completeAlone_only {u : State} {a1 : ℕ} {a2 : QueueOp} {a3 : ℕ} {a4 : ℕ} :
    OnlyChanges [.queues] u (State.completeAlone u a1 a2 a3 a4) := by
  unfold State.completeAlone
  repeat' first
    | with_reducible assumption
    | with_reducible apply OnlyChanges.refl
    | (with_reducible apply OnlyChanges.step State.dropDone_only; on_goal 2 => decide)
    | (with_reducible apply OnlyChanges.step State.complete_only; on_goal 2 => decide)

theorem State.markVaried_only {u : State} {a1 : ℕ} {a2 : ℕ} :
    OnlyChanges [.queues] u (State.markVaried u a1 a2) := by
  unfold State.markVaried
  repeat' first
    | with_reducible assumption
    | with_reducible apply OnlyChanges.refl
    | (with_reducible apply OnlyChanges.step State.modOp_only; on_goal 2 => decide)

theorem State.takeMsg_only {u : State} {a1 : ℕ} {a2 : Word64} {a3 : Bool} :
    OnlyChanges [.ports, .events, .stats] u (State.takeMsg u a1 a2 a3).1 := by
  unfold State.takeMsg
  repeat' first
    | with_reducible assumption
    | with_reducible apply OnlyChanges.refl
    | (extract_lets +onlyGivenNames y; first | (apply only_cut (v := y); (on_goal 2 => (intro hy; clear_value y)); subst y) | (apply only_cut (v := y.1); (on_goal 2 => (intro hy; clear_value y)); subst y) | clear_value y | subst y)
    | (with_reducible apply OnlyChanges.step State.modPort_only; on_goal 2 => decide)
    | (with_reducible apply OnlyChanges.step State.bumpPort_only; on_goal 2 => decide)
    | with_reducible apply only_ite
    | with_reducible apply only_ite_fst
    | dsimp only

theorem State.modExpress_only {u : State} {a1 : ℕ} {a2 : ℕ} {a3 : ℕ} {a4 : Express → Express} :
    OnlyChanges [.groups] u (State.modExpress u a1 a2 a3 a4) := by
  unfold State.modExpress
  repeat' first
    | with_reducible assumption
    | with_reducible apply OnlyChanges.refl
    | (with_reducible apply OnlyChanges.step State.modGroup_only; on_goal 2 => decide)
    | with_reducible apply only_ite

theorem State.countScalar_only {u : State} {a1 : Msg} {a2 : Msg} {a3 : ℕ} :
    OnlyChanges [.events, .stats] u (State.countScalar u a1 a2 a3) := by
  unfold State.countScalar
  repeat' first
    | with_reducible assumption
    | with_reducible apply OnlyChanges.refl
    | (extract_lets +onlyGivenNames y; first | (apply only_cut (v := y); (on_goal 2 => (intro hy; clear_value y)); subst y) | clear_value y | subst y)
    | (with_reducible apply OnlyChanges.step State.bumpG_only; on_goal 2 => decide)
    | with_reducible apply only_ite

theorem State.forwardReduce_only {u : State} {a1 : ℕ} {a2 : ℕ} {a3 : ℕ} :
    OnlyChanges [.ports, .groups, .events, .stats] u (State.forwardReduce u a1 a2 a3) := by
  unfold State.forwardReduce
  repeat' first
    | with_reducible assumption
    | with_reducible apply OnlyChanges.refl
    | (extract_lets +onlyGivenNames y; first | (apply only_cut (v := y); (on_goal 2 => (intro hy; clear_value y)); subst y) | clear_value y | subst y)
    | (with_reducible apply OnlyChanges.step State.countScalar_only; on_goal 2 => decide)
    | (with_reducible apply OnlyChanges.step State.modExpress_only; on_goal 2 => decide)
    | (with_reducible apply OnlyChanges.step State.send_only; on_goal 2 => decide)
    | with_reducible apply only_ite
    | split

theorem State.giveOperand_only {u : State} {a1 : ℕ} {a2 : ℕ} {a3 : ℕ} {a4 : ℕ} {a5 : ℕ} {a6 : Bool} :
    OnlyChanges [.ports, .groups, .events, .stats] u (State.giveOperand u a1 a2 a3 a4 a5 a6) := by
  unfold State.giveOperand
  repeat' first
    | with_reducible assumption
    | with_reducible apply OnlyChanges.refl
    | (extract_lets +onlyGivenNames y; first | (apply only_cut (v := y); (on_goal 2 => (intro hy; clear_value y)); subst y) | clear_value y | subst y)
    | (with_reducible apply OnlyChanges.step State.bumpG_only; on_goal 2 => decide)
    | (with_reducible apply OnlyChanges.step State.modExpress_only; on_goal 2 => decide)
    | (with_reducible apply OnlyChanges.step State.forwardReduce_only; on_goal 2 => decide)
    | (with_reducible apply OnlyChanges.step State.send_only; on_goal 2 => decide)
    | with_reducible apply only_ite
    | split

theorem State.holdReduce_only {u : State} {a1 : Msg} :
    OnlyChanges [.ports, .groups, .events, .stats] u (State.holdReduce u a1) := by
  unfold State.holdReduce
  repeat' first
    | with_reducible assumption
    | with_reducible apply OnlyChanges.refl
    | (with_reducible apply OnlyChanges.step State.modExpress_only; on_goal 2 => decide)
    | (with_reducible apply OnlyChanges.step State.forwardReduce_only; on_goal 2 => decide)

theorem State.takeTimed_only {u : State} {a1 : ℕ} {a2 : ℕ} {a3 : ℕ} {a4 : ℕ} {a5 : Bool} :
    OnlyChanges [.groups] u (State.takeTimed u a1 a2 a3 a4 a5) := by
  unfold State.takeTimed
  repeat' first
    | with_reducible assumption
    | with_reducible apply OnlyChanges.refl
    | (extract_lets +onlyGivenNames y; first | (apply only_cut (v := y); (on_goal 2 => (intro hy; clear_value y)); subst y) | clear_value y | subst y)
    | (with_reducible apply OnlyChanges.step State.modExpress_only; on_goal 2 => decide)
    | with_reducible apply only_ite

theorem State.completeLap_only {u : State} {a1 : Msg} :
    OnlyChanges [.ports, .groups] u (State.completeLap u a1) := by
  unfold State.completeLap
  repeat' first
    | with_reducible assumption
    | with_reducible apply OnlyChanges.refl
    | (extract_lets +onlyGivenNames y; first | (apply only_cut (v := y); (on_goal 2 => (intro hy; clear_value y)); subst y) | clear_value y | subst y)
    | (with_reducible apply OnlyChanges.step State.modExpress_only; on_goal 2 => decide)
    | (with_reducible apply OnlyChanges.step State.takeTimed_only; on_goal 2 => decide)
    | (with_reducible apply OnlyChanges.step State.send_only; on_goal 2 => decide)
    | with_reducible apply only_ite

theorem State.takeBroadcast_only {u : State} {a1 : Msg} :
    OnlyChanges [.ports, .groups] u (State.takeBroadcast u a1) := by
  unfold State.takeBroadcast
  repeat' first
    | with_reducible assumption
    | with_reducible apply OnlyChanges.refl
    | (extract_lets +onlyGivenNames y; first | (apply only_cut (v := y); (on_goal 2 => (intro hy; clear_value y)); subst y) | clear_value y | subst y)
    | (with_reducible apply OnlyChanges.step State.modExpress_only; on_goal 2 => decide)
    | (with_reducible apply OnlyChanges.step State.takeTimed_only; on_goal 2 => decide)
    | (with_reducible apply OnlyChanges.step State.send_only; on_goal 2 => decide)
    | with_reducible apply only_ite

theorem State.routeMsg_only {u : State} {a1 : Msg} :
    OnlyChanges [.ports, .groups, .events, .stats] u (State.routeMsg u a1) := by
  unfold State.routeMsg
  repeat' first
    | with_reducible assumption
    | with_reducible apply OnlyChanges.refl
    | (with_reducible apply OnlyChanges.step State.completeLap_only; on_goal 2 => decide)
    | (with_reducible apply OnlyChanges.step State.takeBroadcast_only; on_goal 2 => decide)
    | (with_reducible apply OnlyChanges.step State.holdReduce_only; on_goal 2 => decide)
    | with_reducible apply only_ite
    | split

theorem State.receiveStandard_only {u s : State} {a1 : ℕ} {a2 : Word64} {a3 : Bool} {a4 : ℕ} {f5 : State → Msg →
      State} {P : List Part} (h : OnlyChanges P s u) (hf5 : ∀ v w0, OnlyChanges P v (f5 v w0)) (hP : ∀ p ∈ ([.ports,
      .groups, .events, .stats] : List Part), p ∈ P) :
    OnlyChanges P s (State.receiveStandard u a1 a2 a3 a4 f5) := by
  apply OnlyChanges.trans h
  unfold State.receiveStandard
  repeat' first
    | with_reducible assumption
    | with_reducible apply OnlyChanges.refl
    | (extract_lets +onlyGivenNames y; first | (apply only_cut (v := y); (on_goal 2 => (intro hy; clear_value y)); subst y) | (apply only_cut (v := y.1); (on_goal 2 => (intro hy; clear_value y)); subst y) | clear_value y | subst y)
    | (with_reducible apply OnlyChanges.step State.routeMsg_only; on_goal 2 => exact fun p hp => hP p (by revert p hp; decide))
    | (with_reducible apply OnlyChanges.step State.takeMsg_only; on_goal 2 => exact fun p hp => hP p (by revert p hp; decide))
    | with_reducible apply OnlyChanges.trans' (hf5 _ _)
    | with_reducible apply only_ite
    | with_reducible apply only_ite_fst
    | split
    | dsimp only

theorem State.lateEffect_only {u : State} {a1 : ℕ} {a2 : Express} :
    OnlyChanges [.groups, .events, .stats] u (State.lateEffect u a1 a2) := by
  unfold State.lateEffect
  repeat' first
    | with_reducible assumption
    | with_reducible apply OnlyChanges.refl
    | (extract_lets +onlyGivenNames y; first | (apply only_cut (v := y); (on_goal 2 => (intro hy; clear_value y)); subst y) | clear_value y | subst y)
    | (with_reducible apply OnlyChanges.step State.bumpG_only; on_goal 2 => decide)
    | (with_reducible apply OnlyChanges.step State.enterLedger_only; on_goal 2 => decide)
    | with_reducible apply only_ite

theorem State.takeCtx_only {u : State} {a1 : OpView} {a2 : ℕ} {a3 : ℕ} {a4 : CtxPhase} :
    OnlyChanges [.groups] u (State.takeCtx u a1 a2 a3 a4) := by
  unfold State.takeCtx
  repeat' first
    | with_reducible assumption
    | with_reducible apply OnlyChanges.refl
    | (with_reducible apply OnlyChanges.step State.modGroup_only; on_goal 2 => decide)
    | with_reducible apply only_ite

theorem State.setFaults_only {u : State} {a1 : FaultStatus → FaultStatus} :
    OnlyChanges [.power] u (State.setFaults u a1) := by
  unfold State.setFaults
  repeat' first
    | with_reducible assumption
    | with_reducible apply OnlyChanges.refl
    | (extract_lets +onlyGivenNames y; first | (apply only_cut (v := y); (on_goal 2 => (intro hy; clear_value y)); subst y) | clear_value y | subst y)
    | ((with_reducible apply only_power (h1 := by decide)); first | with_reducible assumption | with_reducible exact OnlyChanges.refl)

theorem State.sramUE_only {u : State} {a1 : ℕ} {a2 : ℕ} :
    OnlyChanges [.power, .events, .stats] u (State.sramUE u a1 a2) := by
  unfold State.sramUE
  repeat' first
    | with_reducible assumption
    | with_reducible apply OnlyChanges.refl
    | (extract_lets +onlyGivenNames y; first | (apply only_cut (v := y); (on_goal 2 => (intro hy; clear_value y)); subst y) | clear_value y | subst y)
    | (with_reducible apply OnlyChanges.step State.bump_only; on_goal 2 => decide)
    | (with_reducible apply OnlyChanges.step State.setFaults_only; on_goal 2 => decide)
    | (with_reducible apply OnlyChanges.step State.raise_only; on_goal 2 => decide)

theorem State.stackUE_only {u : State} {a1 : ℕ} {a2 : ℕ} :
    OnlyChanges [.power, .events, .stats] u (State.stackUE u a1 a2) := by
  unfold State.stackUE
  repeat' first
    | with_reducible assumption
    | with_reducible apply OnlyChanges.refl
    | (extract_lets +onlyGivenNames y; first | (apply only_cut (v := y); (on_goal 2 => (intro hy; clear_value y)); subst y) | clear_value y | subst y)
    | (with_reducible apply OnlyChanges.step State.bump_only; on_goal 2 => decide)
    | (with_reducible apply OnlyChanges.step State.setFaults_only; on_goal 2 => decide)
    | (with_reducible apply OnlyChanges.step State.raise_only; on_goal 2 => decide)

theorem State.noteErrors_only {u : State} {a1 : HopEnv} :
    OnlyChanges [.power, .events, .stats] u (State.noteErrors u a1) := by
  unfold State.noteErrors
  repeat' first
    | with_reducible assumption
    | with_reducible apply OnlyChanges.refl
    | (extract_lets +onlyGivenNames y; first | (apply only_cut (v := y); (on_goal 2 => (intro hy; clear_value y)); subst y) | clear_value y | subst y)
    | (with_reducible apply OnlyChanges.step State.bumpBy_only; on_goal 2 => decide)
    | (with_reducible apply OnlyChanges.step State.sramUE_only; on_goal 2 => decide)
    | with_reducible apply only_ite
    | (with_reducible apply only_foldl; on_goal 2 => intro _ _ _)

theorem State.readStack_only {u : State} {a1 : StackReads} :
    OnlyChanges [.events, .stats] u (State.readStack u a1) := by
  unfold State.readStack
  repeat' first
    | with_reducible assumption
    | with_reducible apply OnlyChanges.refl
    | (with_reducible apply OnlyChanges.step State.bumpBy_only; on_goal 2 => decide)
    | with_reducible apply only_ite

theorem State.dropStaged_only {u : State} {a1 : OpView} {a2 : ℕ} {a3 : ℕ} :
    OnlyChanges [.staging] u (State.dropStaged u a1 a2 a3) := by
  unfold State.dropStaged
  repeat' first
    | with_reducible assumption
    | with_reducible apply OnlyChanges.refl
    | (extract_lets +onlyGivenNames y; first | (apply only_cut (v := y); (on_goal 2 => (intro hy; clear_value y)); subst y) | clear_value y | subst y)
    | ((with_reducible apply only_staging (h1 := by decide)); first | with_reducible assumption | with_reducible exact OnlyChanges.refl)

theorem State.countMissing_only {u : State} {a1 : ℕ} {a2 : ℕ} {a3 : ℕ} {a4 : List ℕ} :
    OnlyChanges [.events, .stats] u (State.countMissing u a1 a2 a3 a4) := by
  unfold State.countMissing
  repeat' first
    | with_reducible assumption
    | with_reducible apply OnlyChanges.refl
    | (extract_lets +onlyGivenNames y; first | (apply only_cut (v := y); (on_goal 2 => (intro hy; clear_value y)); subst y) | clear_value y | subst y)
    | (with_reducible apply OnlyChanges.step State.bumpPort_only; on_goal 2 => decide)
    | with_reducible apply only_ite

theorem State.missingCells_only {u : State} {a1 : OpView} {a2 : ℕ} {a3 : ℕ} {a4 : List (Option Bytes)} :
    OnlyChanges [.ports, .groups, .events, .stats] u (State.missingCells u a1 a2 a3 a4) := by
  unfold State.missingCells
  repeat' first
    | with_reducible assumption
    | with_reducible apply OnlyChanges.refl
    | (extract_lets +onlyGivenNames y; first | (apply only_cut (v := y); (on_goal 2 => (intro hy; clear_value y)); subst y) | clear_value y | subst y)
    | (with_reducible apply OnlyChanges.step State.abort_only; on_goal 2 => decide)
    | (with_reducible apply OnlyChanges.step State.countMissing_only; on_goal 2 => decide)

theorem State.writeUnits_only {u : State} {a1 : ℕ} {a2 : ℕ} :
    OnlyChanges [.badUnits, .maint] u (State.writeUnits u a1 a2) := by
  unfold State.writeUnits
  repeat' first
    | with_reducible assumption
    | with_reducible apply OnlyChanges.refl
    | (extract_lets +onlyGivenNames y; first | (apply only_cut (v := y); (on_goal 2 => (intro hy; clear_value y)); subst y) | clear_value y | subst y)
    | (with_reducible apply only_foldl; on_goal 2 => intro _ _ _)
    | ((with_reducible apply only_badUnits_maint (h1 := by decide) (h2 := by decide)); first | with_reducible assumption | with_reducible exact OnlyChanges.refl)

theorem State.markBad_only {u : State} {a1 : List ℕ} :
    OnlyChanges [.badUnits, .maint] u (State.markBad u a1) := by
  unfold State.markBad
  repeat' first
    | with_reducible assumption
    | with_reducible apply OnlyChanges.refl
    | (extract_lets +onlyGivenNames y; first | (apply only_cut (v := y); (on_goal 2 => (intro hy; clear_value y)); subst y) | clear_value y | subst y)
    | (with_reducible apply only_foldl; on_goal 2 => intro _ _ _)
    | ((with_reducible apply only_badUnits_maint (h1 := by decide) (h2 := by decide)); first | with_reducible assumption | with_reducible exact OnlyChanges.refl)

theorem State.writeGen_only {u : State} {a1 : OpView} {a2 : ℕ} {a3 : Vec} :
    OnlyChanges [.groups, .stack, .badUnits, .events, .stats, .maint] u (State.writeGen u a1 a2 a3) := by
  unfold State.writeGen
  repeat' first
    | with_reducible assumption
    | with_reducible apply OnlyChanges.refl
    | (extract_lets +onlyGivenNames y; first | (apply only_cut (v := y); (on_goal 2 => (intro hy; clear_value y)); subst y) | clear_value y | subst y)
    | (with_reducible apply OnlyChanges.step State.modGroup_only; on_goal 2 => decide)
    | (with_reducible apply OnlyChanges.step State.bumpBy_only; on_goal 2 => decide)
    | (with_reducible apply OnlyChanges.step State.writeUnits_only; on_goal 2 => decide)
    | (with_reducible apply OnlyChanges.step State.raise_only; on_goal 2 => decide)
    | with_reducible apply only_ite
    | ((with_reducible apply only_stack (h1 := by decide)); first | with_reducible assumption | with_reducible exact OnlyChanges.refl)

theorem State.residualLost_only {u : State} {a1 : ℕ} {a2 : ℕ} {a3 : ℕ} {a4 : List ℕ} :
    OnlyChanges [.power, .ports, .groups, .badUnits, .events, .stats, .maint] u (State.residualLost u a1 a2 a3 a4) := by
  unfold State.residualLost
  repeat' first
    | with_reducible assumption
    | with_reducible apply OnlyChanges.refl
    | (extract_lets +onlyGivenNames y; first | (apply only_cut (v := y); (on_goal 2 => (intro hy; clear_value y)); subst y) | clear_value y | subst y)
    | (with_reducible apply OnlyChanges.step State.abort_only; on_goal 2 => decide)
    | (with_reducible apply OnlyChanges.step State.stackUE_only; on_goal 2 => decide)
    | (with_reducible apply OnlyChanges.step State.markBad_only; on_goal 2 => decide)

theorem State.noteMarks_only {u : State} {a1 : OpView} {a2 : ℕ} {a3 : List ℕ} :
    OnlyChanges [.events, .stats] u (State.noteMarks u a1 a2 a3) := by
  unfold State.noteMarks
  repeat' first
    | with_reducible assumption
    | with_reducible apply OnlyChanges.refl
    | (with_reducible apply OnlyChanges.step State.bumpG_only; on_goal 2 => decide)
    | (with_reducible apply OnlyChanges.step State.raise_only; on_goal 2 => decide)
    | with_reducible apply only_ite

theorem State.addG_only {u : State} {a1 : EStat} {a2 : ℕ} {a3 : ℕ} :
    OnlyChanges [.events, .stats] u (State.addG u a1 a2 a3) := by
  unfold State.addG
  repeat' first
    | with_reducible assumption
    | with_reducible apply OnlyChanges.refl
    | (with_reducible apply OnlyChanges.step State.bumpG_only; on_goal 2 => decide)
    | with_reducible apply only_ite

theorem State.countEnc_only {u : State} {a1 : ℕ} {a2 : Encoded} :
    OnlyChanges [.events, .stats] u (State.countEnc u a1 a2) := by
  unfold State.countEnc
  repeat' first
    | with_reducible assumption
    | with_reducible apply OnlyChanges.refl
    | (with_reducible apply OnlyChanges.step State.addG_only; on_goal 2 => decide)

theorem State.countHop_only {u : State} {a1 : OpView} {a2 : ℕ} {a3 : State.HopWork} :
    OnlyChanges [.events, .stats] u (State.countHop u a1 a2 a3) := by
  unfold State.countHop
  repeat' first
    | with_reducible assumption
    | with_reducible apply OnlyChanges.refl
    | with_reducible refine only_fun2 (by assumption) ?_
    | (extract_lets +onlyGivenNames y; first | (apply only_cut (v := y); (on_goal 2 => (intro hy; clear_value y)); subst y) | (apply only_cut_fun y; (on_goal 2 => (intro hfun; clear_value y)); (intro _ _ _; subst y; beta_reduce)) | clear_value y | subst y)
    | (with_reducible apply OnlyChanges.step State.countEnc_only; on_goal 2 => decide)
    | (with_reducible apply OnlyChanges.step State.bumpBy_only; on_goal 2 => decide)
    | (with_reducible apply OnlyChanges.step State.addG_only; on_goal 2 => decide)
    | (with_reducible apply OnlyChanges.step State.noteMarks_only; on_goal 2 => decide)
    | with_reducible apply only_ite

theorem State.modStats_only {u : State} {a1 : ℕ} {a2 : ℕ} {a3 : BucketStats → BucketStats} :
    OnlyChanges [.groups] u (State.modStats u a1 a2 a3) := by
  unfold State.modStats
  repeat' first
    | with_reducible assumption
    | with_reducible apply OnlyChanges.refl
    | (with_reducible apply OnlyChanges.step State.modGroup_only; on_goal 2 => decide)

theorem State.noteMax_only {u : State} {a1 : ℕ} {a2 : ℕ} {a3 : ℕ} {a4 : ℕ} :
    OnlyChanges [.groups] u (State.noteMax u a1 a2 a3 a4) := by
  unfold State.noteMax
  repeat' first
    | with_reducible assumption
    | with_reducible apply OnlyChanges.refl
    | (with_reducible apply OnlyChanges.step State.modStats_only; on_goal 2 => decide)

theorem State.keepStats_only {u : State} {a1 : OpView} {a2 : ℕ} {a3 : ℕ} {a4 : ℕ} {a5 : State.HopWork} :
    OnlyChanges [.groups] u (State.keepStats u a1 a2 a3 a4 a5) := by
  unfold State.keepStats
  repeat' first
    | with_reducible assumption
    | with_reducible apply OnlyChanges.refl
    | (extract_lets +onlyGivenNames y; first | (apply only_cut (v := y); (on_goal 2 => (intro hy; clear_value y)); subst y) | clear_value y | subst y)
    | (with_reducible apply OnlyChanges.step State.modCtx_only; on_goal 2 => decide)
    | (with_reducible apply OnlyChanges.step State.noteMax_only; on_goal 2 => decide)

theorem State.addCounts_only {u : State} {a1 : ℕ} {a2 : ℕ} {a3 : ℕ} {a4 : ℕ} {a5 : ℕ} {a6 : ℕ} :
    OnlyChanges [.groups] u (State.addCounts u a1 a2 a3 a4 a5 a6) := by
  unfold State.addCounts
  repeat' first
    | with_reducible assumption
    | with_reducible apply OnlyChanges.refl
    | (extract_lets +onlyGivenNames y; first | (apply only_cut (v := y); (on_goal 2 => (intro hy; clear_value y)); subst y) | clear_value y | subst y)
    | (with_reducible apply OnlyChanges.step State.modStats_only; on_goal 2 => decide)

theorem State.placeCells_only {u : State} {a1 : ℕ} {a2 : ℕ} {a3 : List (ℕ × Bytes)} :
    OnlyChanges [.ports] u (State.placeCells u a1 a2 a3) := by
  unfold State.placeCells
  repeat' first
    | with_reducible assumption
    | with_reducible apply OnlyChanges.refl
    | (with_reducible apply OnlyChanges.step State.modPort_only; on_goal 2 => decide)
    | (with_reducible apply only_foldl; on_goal 2 => intro _ _ _)

theorem State.sendChunk_only {u : State} {a1 : OpView} {a2 : ℕ} {a3 : ℕ} {a4 : List Bytes} :
    OnlyChanges [.ports] u (State.sendChunk u a1 a2 a3 a4) := by
  unfold State.sendChunk
  repeat' first
    | with_reducible assumption
    | with_reducible apply OnlyChanges.refl
    | (extract_lets +onlyGivenNames y; first | (apply only_cut (v := y); (on_goal 2 => (intro hy; clear_value y)); subst y) | clear_value y | subst y)
    | (with_reducible apply OnlyChanges.step State.placeCells_only; on_goal 2 => decide)
    | with_reducible apply only_ite
    | split

theorem State.selfFail_only {u : State} {a1 : OpView} {a2 : ℕ} {a3 : ℕ} {a4 : ℕ} :
    OnlyChanges [.events, .stats, .maint] u (State.selfFail u a1 a2 a3 a4) := by
  unfold State.selfFail
  repeat' first
    | with_reducible assumption
    | with_reducible apply OnlyChanges.refl
    | (extract_lets +onlyGivenNames y; first | (apply only_cut (v := y); (on_goal 2 => (intro hy; clear_value y)); subst y) | clear_value y | subst y)
    | (with_reducible apply OnlyChanges.step State.bump_only; on_goal 2 => decide)
    | (with_reducible apply OnlyChanges.step State.raise_only; on_goal 2 => decide)
    | with_reducible apply only_ite
    | ((with_reducible apply only_maint (h1 := by decide)); first | with_reducible assumption | with_reducible exact OnlyChanges.refl)

theorem State.selfCheck_only {u : State} {a1 : OpView} {a2 : ℕ} {a3 : ℕ} {a4 : List Bytes} {a5 : List ℤ} {a6 : List ℤ} :
    OnlyChanges [.events, .stats, .maint] u (State.selfCheck u a1 a2 a3 a4 a5 a6) := by
  unfold State.selfCheck
  repeat' first
    | with_reducible assumption
    | with_reducible apply OnlyChanges.refl
    | (extract_lets +onlyGivenNames y; first | (apply only_cut (v := y); (on_goal 2 => (intro hy; clear_value y)); subst y) | clear_value y | subst y)
    | (with_reducible apply OnlyChanges.step State.selfFail_only; on_goal 2 => decide)
    | with_reducible apply only_ite

theorem State.noteTally_only {u : State} {a1 : OpView} {a2 : ℕ} :
    OnlyChanges [.queues, .groups, .events] u (State.noteTally u a1 a2) := by
  unfold State.noteTally
  repeat' first
    | with_reducible assumption
    | with_reducible apply OnlyChanges.refl
    | (extract_lets +onlyGivenNames y; first | (apply only_cut (v := y); (on_goal 2 => (intro hy; clear_value y)); subst y) | clear_value y | subst y)
    | (with_reducible apply OnlyChanges.step State.markVaried_only; on_goal 2 => decide)
    | (with_reducible apply OnlyChanges.step State.modLaunch_only; on_goal 2 => decide)
    | (with_reducible apply OnlyChanges.step State.enterLedger_only; on_goal 2 => decide)
    | with_reducible apply only_ite

theorem State.writeOutput_only {u : State} {a1 : OpView} {a2 : ℕ} {a3 : ℕ} {a4 : ℕ} {a5 : List ℤ} {a6 : List (ℕ × ℕ)} :
    OnlyChanges [.out, .events, .stats] u (State.writeOutput u a1 a2 a3 a4 a5 a6) := by
  unfold State.writeOutput
  repeat' first
    | with_reducible assumption
    | with_reducible apply OnlyChanges.refl
    | with_reducible refine only_fun2 (by assumption) ?_
    | (extract_lets +onlyGivenNames y; first | (apply only_cut (v := y); (on_goal 2 => (intro hy; clear_value y)); subst y) | (apply only_cut_fun y; (on_goal 2 => (intro hfun; clear_value y)); (intro _ _ _; subst y; beta_reduce)) | clear_value y | subst y)
    | (with_reducible apply OnlyChanges.step State.addG_only; on_goal 2 => decide)
    | (with_reducible apply OnlyChanges.step State.emits_only; on_goal 2 => decide)
    | with_reducible apply only_ite

theorem State.deliver_only {u : State} {a1 : OpView} {a2 : ℕ} {a3 : ℕ} {a4 : ℕ} {a5 : List ℤ} {a6 : List (ℕ × ℕ)} :
    OnlyChanges [.out, .queues, .groups, .events, .stats] u (State.deliver u a1 a2 a3 a4 a5 a6) := by
  unfold State.deliver
  repeat' first
    | with_reducible assumption
    | with_reducible apply OnlyChanges.refl
    | (extract_lets +onlyGivenNames y; first | (apply only_cut (v := y); (on_goal 2 => (intro hy; clear_value y)); subst y) | clear_value y | subst y)
    | (with_reducible apply OnlyChanges.step State.writeOutput_only; on_goal 2 => decide)
    | (with_reducible apply OnlyChanges.step State.modEntry_only; on_goal 2 => decide)
    | (with_reducible apply OnlyChanges.step State.noteTally_only; on_goal 2 => decide)
    | with_reducible apply only_ite

theorem State.retain_only {u : State} {a1 : OpView} {a2 : ℕ} {a3 : Retained → Retained} :
    OnlyChanges [.groups] u (State.retain u a1 a2 a3) := by
  unfold State.retain
  repeat' first
    | with_reducible assumption
    | with_reducible apply OnlyChanges.refl
    | (extract_lets +onlyGivenNames y; first | (apply only_cut (v := y); (on_goal 2 => (intro hy; clear_value y)); subst y) | clear_value y | subst y)
    | (with_reducible apply OnlyChanges.step State.modGroup_only; on_goal 2 => decide)
    | with_reducible apply only_ite

theorem State.writeRetention_only {u : State} {a1 : OpView} {a2 : ℕ} {a3 : Bool} :
    OnlyChanges [.badUnits, .maint] u (State.writeRetention u a1 a2 a3) := by
  unfold State.writeRetention
  repeat' first
    | with_reducible assumption
    | with_reducible apply OnlyChanges.refl
    | (extract_lets +onlyGivenNames y; first | (apply only_cut (v := y); (on_goal 2 => (intro hy; clear_value y)); subst y) | clear_value y | subst y)
    | (with_reducible apply OnlyChanges.step State.writeUnits_only; on_goal 2 => decide)
    | with_reducible apply only_ite

theorem State.startVerdict_only {u : State} {a1 : OpView} {a2 : ℕ} :
    OnlyChanges [.ports] u (State.startVerdict u a1 a2) := by
  unfold State.startVerdict
  repeat' first
    | with_reducible assumption
    | with_reducible apply OnlyChanges.refl
    | (with_reducible apply OnlyChanges.step State.send_only; on_goal 2 => decide)
    | split

theorem State.forwardVerdict_only {u : State} {a1 : OpView} {a2 : ℕ} :
    OnlyChanges [.ports, .groups] u (State.forwardVerdict u a1 a2) := by
  unfold State.forwardVerdict
  repeat' first
    | with_reducible assumption
    | with_reducible apply OnlyChanges.refl
    | (extract_lets +onlyGivenNames y; first | (apply only_cut (v := y); (on_goal 2 => (intro hy; clear_value y)); subst y) | clear_value y | subst y)
    | (with_reducible apply OnlyChanges.step State.modCtx_only; on_goal 2 => decide)
    | (with_reducible apply OnlyChanges.step State.send_only; on_goal 2 => decide)
    | with_reducible apply only_ite
    | split

theorem State.finishEbb_only {u : State} {a1 : OpView} {a2 : ℕ} {a3 : HopEnv} {a4 : State.HopWork} {a5 : List ℤ} {a6 :
      ℕ} {a7 : ℕ} {a8 : ℕ} {a9 : List Bytes} :
    OnlyChanges [.ports, .groups, .stack, .badUnits, .events, .stats, .maint] u (State.finishEbb u a1 a2 a3 a4 a5 a6
          a7 a8 a9) := by
  unfold State.finishEbb
  repeat' first
    | with_reducible assumption
    | with_reducible apply OnlyChanges.refl
    | (extract_lets +onlyGivenNames y; first | (apply only_cut (v := y); (on_goal 2 => (intro hy; clear_value y)); subst y) | clear_value y | subst y)
    | (with_reducible apply OnlyChanges.step State.countHop_only; on_goal 2 => decide)
    | (with_reducible apply OnlyChanges.step State.modEntry_only; on_goal 2 => decide)
    | (with_reducible apply OnlyChanges.step State.retain_only; on_goal 2 => decide)
    | (with_reducible apply OnlyChanges.step State.keepStats_only; on_goal 2 => decide)
    | (with_reducible apply OnlyChanges.step State.modCtx_only; on_goal 2 => decide)
    | (with_reducible apply OnlyChanges.step State.sendChunk_only; on_goal 2 => decide)
    | (with_reducible apply OnlyChanges.step State.selfCheck_only; on_goal 2 => decide)
    | (with_reducible apply OnlyChanges.step State.writeGen_only; on_goal 2 => decide)

end Sys2Proof.Machine
end

