-- ==== Sys2Proof/Laws/Frame2.lean ====
section
/-! SUPPORT. Frame lemmas, part 2 of 8: for each operation and command, the parts of the state that it can change. -/

namespace Sys2Proof.Machine

open Sys2Proof State

set_option linter.unreachableTactic false
set_option linter.unusedTactic false

theorem State.withReads_only {u s : State} {a1 : OpView} {a2 : ℕ} {a3 : HopEnv} {f4 : State → State} {P : List Part}
      (h : OnlyChanges P s u) (hf4 : ∀ v, OnlyChanges P v (f4 v)) (hP : ∀ p ∈ ([.out, .power, .ports, .groups,
      .badUnits, .events, .stats, .maint] : List Part), p ∈ P) :
    OnlyChanges P s (State.withReads u a1 a2 a3 f4) := by
  apply OnlyChanges.trans h
  unfold State.withReads
  repeat' first
    | with_reducible assumption
    | with_reducible apply OnlyChanges.refl
    | (extract_lets +onlyGivenNames y; first | (apply only_cut (v := y); (on_goal 2 => (intro hy; clear_value y)); subst y) | clear_value y | subst y)
    | (with_reducible apply OnlyChanges.step State.residualLost_only; on_goal 2 => exact fun p hp => hP p (by revert p hp; decide))
    | (with_reducible apply OnlyChanges.step State.abort_only; on_goal 2 => exact fun p hp => hP p (by revert p hp; decide))
    | (with_reducible apply OnlyChanges.step State.noteErrors_only; on_goal 2 => exact fun p hp => hP p (by revert p hp; decide))
    | (with_reducible apply OnlyChanges.step State.sramUE_only; on_goal 2 => exact fun p hp => hP p (by revert p hp; decide))
    | (with_reducible apply OnlyChanges.step State.emit_only; on_goal 2 => exact fun p hp => hP p (by revert p hp; decide))
    | with_reducible apply OnlyChanges.trans' (hf4 _)
    | with_reducible apply only_ite

theorem State.ebbFirst_only {u : State} {a1 : OpView} {a2 : ℕ} {a3 : HopEnv} :
    OnlyChanges [.out, .power, .ports, .groups, .stack, .badUnits, .events, .stats, .maint] u (State.ebbFirst u a1 a2
          a3) := by
  unfold State.ebbFirst
  repeat' first
    | with_reducible assumption
    | with_reducible apply OnlyChanges.refl
    | (extract_lets +onlyGivenNames y; first | (apply only_cut (v := y); (on_goal 2 => (intro hy; clear_value y)); subst y) | clear_value y | subst y)
    | (with_reducible apply State.withReads_only; (on_goal 3 => decide); (on_goal 2 => intro _))
    | (with_reducible apply OnlyChanges.step State.takeCtx_only; on_goal 2 => decide)
    | (with_reducible apply OnlyChanges.step State.finishEbb_only; on_goal 2 => decide)

theorem State.withCells_only {u s : State} {a1 : OpView} {a2 a3 : Nat} {a4 : HopEnv} {a5 : State → List Bytes → State}
    {P : List Part} (h : OnlyChanges P s u) (hf : ∀ v m, OnlyChanges P v (a5 v m))
    (hP : ∀ p ∈ ([.ports, .groups, .staging, .events, .stats] : List Part), p ∈ P) :
    OnlyChanges P s (State.withCells u a1 a2 a3 a4 a5) := by
  apply OnlyChanges.trans h
  unfold State.withCells
  dsimp only
  split
  · exact State.missingCells_only.mono (fun p hp => hP p (by revert p hp; decide))
  · exact (hf _ _).trans (State.dropStaged_only.mono (fun p hp => hP p (by revert p hp; decide)))

theorem State.countBad_only {u : State} {a1 : OpView} {a2 : ℕ} {a3 : State.Trailer} :
    OnlyChanges [.events, .stats] u (State.countBad u a1 a2 a3) := by
  unfold State.countBad
  repeat' first
    | with_reducible assumption
    | with_reducible apply OnlyChanges.refl
    | (extract_lets +onlyGivenNames y; first | (apply only_cut (v := y); (on_goal 2 => (intro hy; clear_value y)); subst y) | clear_value y | subst y)
    | (with_reducible apply OnlyChanges.step State.bumpG_only; on_goal 2 => decide)
    | with_reducible apply only_ite

theorem State.ebbMiddle_only {u : State} {a1 : OpView} {a2 : ℕ} {a3 : HopEnv} :
    OnlyChanges [.out, .power, .ports, .groups, .staging, .stack, .badUnits, .events, .stats, .maint] u
          (State.ebbMiddle u a1 a2 a3) := by
  unfold State.ebbMiddle
  repeat' first
    | with_reducible assumption
    | with_reducible apply OnlyChanges.refl
    | (extract_lets +onlyGivenNames y; first | (apply only_cut (v := y); (on_goal 2 => (intro hy; clear_value y)); subst y) | clear_value y | subst y)
    | (with_reducible apply State.withReads_only; (on_goal 3 => decide); (on_goal 2 => intro _))
    | (with_reducible apply OnlyChanges.step State.countBad_only; on_goal 2 => decide)
    | (with_reducible apply OnlyChanges.step State.takeCtx_only; on_goal 2 => decide)
    | (with_reducible apply OnlyChanges.step State.finishEbb_only; on_goal 2 => decide)
    | (with_reducible apply State.withCells_only; (on_goal 3 => decide); (on_goal 2 => intro _ _))
    | with_reducible apply only_ite

theorem State.ownerStep_only {u : State} {a1 : OpView} {a2 : ℕ} {a3 : HopEnv} :
    OnlyChanges [.out, .power, .ports, .queues, .groups, .staging, .stack, .badUnits, .events, .stats, .maint] u
          (State.ownerStep u a1 a2 a3) := by
  unfold State.ownerStep
  repeat' first
    | with_reducible assumption
    | with_reducible apply OnlyChanges.refl
    | (extract_lets +onlyGivenNames y; first | (apply only_cut (v := y); (on_goal 2 => (intro hy; clear_value y)); subst y) | clear_value y | subst y)
    | (with_reducible apply OnlyChanges.step State.startVerdict_only; on_goal 2 => decide)
    | (with_reducible apply OnlyChanges.step State.countHop_only; on_goal 2 => decide)
    | (with_reducible apply State.withReads_only; (on_goal 3 => decide); (on_goal 2 => intro _))
    | (with_reducible apply OnlyChanges.step State.bump_only; on_goal 2 => decide)
    | (with_reducible apply OnlyChanges.step State.residualLost_only; on_goal 2 => decide)
    | (with_reducible apply OnlyChanges.step State.abort_only; on_goal 2 => decide)
    | (with_reducible apply OnlyChanges.step State.modEntry_only; on_goal 2 => decide)
    | (with_reducible apply OnlyChanges.step State.writeRetention_only; on_goal 2 => decide)
    | (with_reducible apply OnlyChanges.step State.countBad_only; on_goal 2 => decide)
    | (with_reducible apply OnlyChanges.step State.retain_only; on_goal 2 => decide)
    | (with_reducible apply OnlyChanges.step State.takeCtx_only; on_goal 2 => decide)
    | (with_reducible apply OnlyChanges.step State.keepStats_only; on_goal 2 => decide)
    | (with_reducible apply OnlyChanges.step State.modCtx_only; on_goal 2 => decide)
    | (with_reducible apply OnlyChanges.step State.sendChunk_only; on_goal 2 => decide)
    | (with_reducible apply OnlyChanges.step State.deliver_only; on_goal 2 => decide)
    | (with_reducible apply OnlyChanges.step State.selfCheck_only; on_goal 2 => decide)
    | (with_reducible apply State.withCells_only; (on_goal 3 => decide); (on_goal 2 => intro _ _))
    | (with_reducible apply OnlyChanges.step State.writeGen_only; on_goal 2 => decide)
    | with_reducible apply only_ite

theorem State.floodDeliver_only {u : State} {a1 : OpView} {a2 : ℕ} {a3 : HopEnv} :
    OnlyChanges [.out, .power, .ports, .queues, .groups, .staging, .badUnits, .events, .stats, .maint] u
          (State.floodDeliver u a1 a2 a3) := by
  unfold State.floodDeliver
  repeat' first
    | with_reducible assumption
    | with_reducible apply OnlyChanges.refl
    | (extract_lets +onlyGivenNames y; first | (apply only_cut (v := y); (on_goal 2 => (intro hy; clear_value y)); subst y) | clear_value y | subst y)
    | (with_reducible apply OnlyChanges.step State.bump_only; on_goal 2 => decide)
    | (with_reducible apply OnlyChanges.step State.abort_only; on_goal 2 => decide)
    | (with_reducible apply OnlyChanges.step State.modEntry_only; on_goal 2 => decide)
    | (with_reducible apply OnlyChanges.step State.noteErrors_only; on_goal 2 => decide)
    | (with_reducible apply OnlyChanges.step State.writeRetention_only; on_goal 2 => decide)
    | (with_reducible apply OnlyChanges.step State.countBad_only; on_goal 2 => decide)
    | (with_reducible apply OnlyChanges.step State.retain_only; on_goal 2 => decide)
    | (with_reducible apply OnlyChanges.step State.sramUE_only; on_goal 2 => decide)
    | (with_reducible apply OnlyChanges.step State.noteMarks_only; on_goal 2 => decide)
    | (with_reducible apply OnlyChanges.step State.modCtx_only; on_goal 2 => decide)
    | (with_reducible apply OnlyChanges.step State.sendChunk_only; on_goal 2 => decide)
    | (with_reducible apply OnlyChanges.step State.forwardVerdict_only; on_goal 2 => decide)
    | (with_reducible apply OnlyChanges.step State.deliver_only; on_goal 2 => decide)
    | (with_reducible apply State.withCells_only; (on_goal 3 => decide); (on_goal 2 => intro _ _))
    | with_reducible apply only_ite

theorem State.replayFlood_only {u : State} {a1 : OpView} {a2 : ℕ} {a3 : HopEnv} :
    OnlyChanges [.power, .ports, .groups, .badUnits, .events, .stats, .maint] u (State.replayFlood u a1 a2 a3) := by
  unfold State.replayFlood
  repeat' first
    | with_reducible assumption
    | with_reducible apply OnlyChanges.refl
    | (extract_lets +onlyGivenNames y; first | (apply only_cut (v := y); (on_goal 2 => (intro hy; clear_value y)); subst y) | clear_value y | subst y)
    | (with_reducible apply OnlyChanges.step State.startVerdict_only; on_goal 2 => decide)
    | (with_reducible apply OnlyChanges.step State.countEnc_only; on_goal 2 => decide)
    | (with_reducible apply OnlyChanges.step State.bump_only; on_goal 2 => decide)
    | (with_reducible apply OnlyChanges.step State.residualLost_only; on_goal 2 => decide)
    | (with_reducible apply OnlyChanges.step State.abort_only; on_goal 2 => decide)
    | (with_reducible apply OnlyChanges.step State.noteErrors_only; on_goal 2 => decide)
    | (with_reducible apply OnlyChanges.step State.writeRetention_only; on_goal 2 => decide)
    | (with_reducible apply OnlyChanges.step State.retain_only; on_goal 2 => decide)
    | (with_reducible apply OnlyChanges.step State.sramUE_only; on_goal 2 => decide)
    | (with_reducible apply OnlyChanges.step State.modCtx_only; on_goal 2 => decide)
    | (with_reducible apply OnlyChanges.step State.sendChunk_only; on_goal 2 => decide)
    | with_reducible apply only_ite
    | split
    | (dsimp only; split)

theorem execEbbFirstHop_only {u t : State} {a0 : ℕ} {a1 : ℕ} {a2 : ℕ} {a3 : HopEnv} (ht : execEbbFirstHop a0 a1 a2 a3
      u = .next t) :
    OnlyChanges [.out, .power, .ports, .groups, .stack, .badUnits, .events, .stats, .maint] u t := by
  unfold execEbbFirstHop at ht
  first | refine whenRunning_only ht ?_ | refine whenAlive_only ht ?_ | (injection ht with ht; subst ht)
  repeat' first
    | with_reducible assumption
    | with_reducible apply OnlyChanges.refl
    | (with_reducible apply OnlyChanges.step State.ebbFirst_only; on_goal 2 => decide)
    | split

theorem execEbbHop_only {u t : State} {a0 : ℕ} {a1 : ℕ} {a2 : ℕ} {a3 : HopEnv} (ht : execEbbHop a0 a1 a2 a3 u = .next
      t) :
    OnlyChanges [.out, .power, .ports, .groups, .staging, .stack, .badUnits, .events, .stats, .maint] u t := by
  unfold execEbbHop at ht
  first | refine whenRunning_only ht ?_ | refine whenAlive_only ht ?_ | (injection ht with ht; subst ht)
  repeat' first
    | with_reducible assumption
    | with_reducible apply OnlyChanges.refl
    | (with_reducible apply OnlyChanges.step State.ebbMiddle_only; on_goal 2 => decide)
    | split

theorem execOwnerHop_only {u t : State} {a0 : ℕ} {a1 : ℕ} {a2 : ℕ} {a3 : HopEnv} (ht : execOwnerHop a0 a1 a2 a3 u =
      .next t) :
    OnlyChanges [.out, .power, .ports, .queues, .groups, .staging, .stack, .badUnits, .events, .stats, .maint] u t := by
  unfold execOwnerHop at ht
  first | refine whenRunning_only ht ?_ | refine whenAlive_only ht ?_ | (injection ht with ht; subst ht)
  repeat' first
    | with_reducible assumption
    | with_reducible apply OnlyChanges.refl
    | (with_reducible apply OnlyChanges.step State.ownerStep_only; on_goal 2 => decide)
    | split

theorem execFloodReceive_only {u t : State} {a0 : ℕ} {a1 : ℕ} {a2 : ℕ} {a3 : HopEnv} (ht : execFloodReceive a0 a1 a2
      a3 u = .next t) :
    OnlyChanges [.out, .power, .ports, .queues, .groups, .staging, .badUnits, .events, .stats, .maint] u t := by
  unfold execFloodReceive at ht
  first | refine whenRunning_only ht ?_ | refine whenAlive_only ht ?_ | (injection ht with ht; subst ht)
  repeat' first
    | with_reducible assumption
    | with_reducible apply OnlyChanges.refl
    | (with_reducible apply OnlyChanges.step State.floodDeliver_only; on_goal 2 => decide)
    | split

theorem execFloodReplay_only {u t : State} {a0 : ℕ} {a1 : ℕ} {a2 : ℕ} {a3 : HopEnv} (ht : execFloodReplay a0 a1 a2 a3
      u = .next t) :
    OnlyChanges [.power, .ports, .groups, .badUnits, .events, .stats, .maint] u t := by
  unfold execFloodReplay at ht
  first | refine whenRunning_only ht ?_ | refine whenAlive_only ht ?_ | (injection ht with ht; subst ht)
  repeat' first
    | with_reducible assumption
    | with_reducible apply OnlyChanges.refl
    | (with_reducible apply OnlyChanges.step State.replayFlood_only; on_goal 2 => decide)
    | with_reducible apply only_ite
    | split

theorem State.sendRelease_only {u : State} {a1 : ℕ} {a2 : ℕ} {a3 : ℕ} {a4 : ℕ} {a5 : ℕ} {a6 : ℕ} :
    OnlyChanges [.out, .groups, .units] u (State.sendRelease u a1 a2 a3 a4 a5 a6) := by
  unfold State.sendRelease
  repeat' first
    | with_reducible assumption
    | with_reducible apply OnlyChanges.refl
    | (extract_lets +onlyGivenNames y; first | (apply only_cut (v := y); (on_goal 2 => (intro hy; clear_value y)); subst y) | clear_value y | subst y)
    | (with_reducible apply OnlyChanges.step State.modGroup_only; on_goal 2 => decide)
    | (with_reducible apply OnlyChanges.step State.setUnit_only; on_goal 2 => decide)
    | (with_reducible apply OnlyChanges.step State.emit_only; on_goal 2 => decide)

theorem State.release_only {u : State} {a1 : OpView} {a2 : ℕ} {a3 : ℕ} :
    OnlyChanges [.out, .groups, .units] u (State.release u a1 a2 a3) := by
  unfold State.release
  repeat' first
    | with_reducible assumption
    | with_reducible apply OnlyChanges.refl
    | (with_reducible apply OnlyChanges.step State.modEntry_only; on_goal 2 => decide)
    | (with_reducible apply OnlyChanges.step State.sendRelease_only; on_goal 2 => decide)
    | with_reducible apply only_ite

theorem State.checkReleased_only {u : State} {a1 : ℕ} :
    OnlyChanges [.groups] u (State.checkReleased u a1) := by
  unfold State.checkReleased
  repeat' first
    | with_reducible assumption
    | with_reducible apply OnlyChanges.refl
    | (extract_lets +onlyGivenNames y; first | (apply only_cut (v := y); (on_goal 2 => (intro hy; clear_value y)); subst y) | clear_value y | subst y)
    | (with_reducible apply OnlyChanges.step State.modGroup_only; on_goal 2 => decide)
    | (with_reducible apply OnlyChanges.step State.modRecord_only; on_goal 2 => decide)
    | with_reducible apply only_ite

theorem State.giveCount_only {u : State} {a1 : ℕ} {a2 : ℕ} {a3 : ℕ} :
    OnlyChanges [.ports, .groups, .events, .stats] u (State.giveCount u a1 a2 a3) := by
  unfold State.giveCount
  repeat' first
    | with_reducible assumption
    | with_reducible apply OnlyChanges.refl
    | (with_reducible apply OnlyChanges.step State.giveOperand_only; on_goal 2 => decide)

theorem State.enterStats_only {u : State} {a1 : ℕ} {a2 : ℕ} :
    OnlyChanges [.ports, .groups, .events, .stats] u (State.enterStats u a1 a2) := by
  unfold State.enterStats
  repeat' first
    | with_reducible assumption
    | with_reducible apply OnlyChanges.refl
    | (extract_lets +onlyGivenNames y; first | (apply only_cut (v := y); (on_goal 2 => (intro hy; clear_value y)); subst y) | clear_value y | subst y)
    | (with_reducible apply OnlyChanges.step State.modStats_only; on_goal 2 => decide)
    | (with_reducible apply OnlyChanges.step State.giveCount_only; on_goal 2 => decide)
    | (with_reducible apply OnlyChanges.step State.giveOperand_only; on_goal 2 => decide)
    | with_reducible apply only_ite

theorem State.finishOp_only {u : State} {a1 : OpView} :
    OnlyChanges [.ports, .queues, .groups, .events, .stats] u (State.finishOp u a1) := by
  unfold State.finishOp
  repeat' first
    | with_reducible assumption
    | with_reducible apply OnlyChanges.refl
    | (extract_lets +onlyGivenNames y; first | (apply only_cut (v := y); (on_goal 2 => (intro hy; clear_value y)); subst y) | clear_value y | subst y)
    | (with_reducible apply OnlyChanges.step State.complete_only; on_goal 2 => decide)
    | (with_reducible apply OnlyChanges.step State.enterStats_only; on_goal 2 => decide)
    | (with_reducible apply OnlyChanges.step State.modLaunch_only; on_goal 2 => decide)
    | (with_reducible apply OnlyChanges.step State.checkReleased_only; on_goal 2 => decide)
    | with_reducible apply only_ite
    | split

theorem State.noteVerdict_only {u : State} {a1 : OpView} {a2 : ℕ} {a3 : ℕ} :
    OnlyChanges [.groups, .events] u (State.noteVerdict u a1 a2 a3) := by
  unfold State.noteVerdict
  repeat' first
    | with_reducible assumption
    | with_reducible apply OnlyChanges.refl
    | (extract_lets +onlyGivenNames y; first | (apply only_cut (v := y); (on_goal 2 => (intro hy; clear_value y)); subst y) | clear_value y | subst y)
    | (with_reducible apply OnlyChanges.step State.modEntry_only; on_goal 2 => decide)
    | (with_reducible apply OnlyChanges.step State.enterLedger_only; on_goal 2 => decide)
    | with_reducible apply only_ite

theorem State.countFailed_only {u : State} {a1 : OpView} {a2 : ℕ} {a3 : ℕ} :
    OnlyChanges [.groups, .events, .stats] u (State.countFailed u a1 a2 a3) := by
  unfold State.countFailed
  repeat' first
    | with_reducible assumption
    | with_reducible apply OnlyChanges.refl
    | (with_reducible apply OnlyChanges.step State.bumpG_only; on_goal 2 => decide)
    | (with_reducible apply OnlyChanges.step State.enterLedger_only; on_goal 2 => decide)

theorem State.passChunk_only {u : State} {a1 : OpView} {a2 : ℕ} {a3 : ℕ} :
    OnlyChanges [.out, .queues, .groups, .units, .events] u (State.passChunk u a1 a2 a3) := by
  unfold State.passChunk
  repeat' first
    | with_reducible assumption
    | with_reducible apply OnlyChanges.refl
    | (extract_lets +onlyGivenNames y; first | (apply only_cut (v := y); (on_goal 2 => (intro hy; clear_value y)); subst y) | clear_value y | subst y)
    | (with_reducible apply OnlyChanges.step State.addCounts_only; on_goal 2 => decide)
    | (with_reducible apply OnlyChanges.step State.noteVerdict_only; on_goal 2 => decide)
    | (with_reducible apply OnlyChanges.step State.modLaunch_only; on_goal 2 => decide)
    | (with_reducible apply OnlyChanges.step State.modCtx_only; on_goal 2 => decide)
    | (with_reducible apply OnlyChanges.step State.release_only; on_goal 2 => decide)
    | split

theorem State.failChunk_only {u : State} {a1 : OpView} {a2 : ℕ} {a3 : ℕ} :
    OnlyChanges [.groups, .events, .stats] u (State.failChunk u a1 a2 a3) := by
  unfold State.failChunk
  repeat' first
    | with_reducible assumption
    | with_reducible apply OnlyChanges.refl
    | (extract_lets +onlyGivenNames y; first | (apply only_cut (v := y); (on_goal 2 => (intro hy; clear_value y)); subst y) | clear_value y | subst y)
    | (with_reducible apply OnlyChanges.step State.modGroup_only; on_goal 2 => decide)
    | (with_reducible apply OnlyChanges.step State.bumpG_only; on_goal 2 => decide)
    | (with_reducible apply OnlyChanges.step State.noteVerdict_only; on_goal 2 => decide)
    | (with_reducible apply OnlyChanges.step State.modCtx_only; on_goal 2 => decide)
    | (with_reducible apply OnlyChanges.step State.countFailed_only; on_goal 2 => decide)
    | with_reducible apply only_ite

theorem State.closeVerdicts_only {u : State} {a1 : List (OpView × ℕ × ℕ)} :
    OnlyChanges [.groups, .events, .stats] u (State.closeVerdicts u a1) := by
  unfold State.closeVerdicts
  repeat' first
    | with_reducible assumption
    | with_reducible apply OnlyChanges.refl
    | (extract_lets +onlyGivenNames y; first | (apply only_cut (v := y); (on_goal 2 => (intro hy; clear_value y)); subst y) | clear_value y | subst y)
    | (with_reducible apply OnlyChanges.step State.noteVerdict_only; on_goal 2 => decide)
    | (with_reducible apply OnlyChanges.step State.countFailed_only; on_goal 2 => decide)
    | with_reducible apply only_ite
    | (with_reducible apply only_foldl; on_goal 2 => intro _ _ _)

theorem State.takeVerdicts_only {u : State} {a1 : OpView} {a2 : ℕ} :
    OnlyChanges [.out, .ports, .queues, .groups, .units, .events, .stats] u (State.takeVerdicts u a1 a2) := by
  unfold State.takeVerdicts
  repeat' first
    | with_reducible assumption
    | with_reducible apply OnlyChanges.refl
    | (extract_lets +onlyGivenNames y; first | (apply only_cut (v := y); (on_goal 2 => (intro hy; clear_value y)); subst y) | clear_value y | subst y)
    | (with_reducible apply OnlyChanges.step State.bump_only; on_goal 2 => decide)
    | (with_reducible apply OnlyChanges.step State.abort_only; on_goal 2 => decide)
    | (with_reducible apply OnlyChanges.step State.passChunk_only; on_goal 2 => decide)
    | (with_reducible apply OnlyChanges.step State.finishOp_only; on_goal 2 => decide)
    | (with_reducible apply OnlyChanges.step State.bumpPort_only; on_goal 2 => decide)
    | (with_reducible apply OnlyChanges.step State.failChunk_only; on_goal 2 => decide)
    | (with_reducible apply OnlyChanges.step State.closeVerdicts_only; on_goal 2 => decide)
    | with_reducible apply only_ite
    | (with_reducible apply only_foldl; on_goal 2 => intro _ _ _)
    | split

theorem State.restoreCtx_only {u : State} {a1 : OpView} {a2 : ℕ} {a3 : ℕ} {a4 : ℕ} :
    OnlyChanges [.groups] u (State.restoreCtx u a1 a2 a3 a4) := by
  unfold State.restoreCtx
  repeat' first
    | with_reducible assumption
    | with_reducible apply OnlyChanges.refl
    | (extract_lets +onlyGivenNames y; first | (apply only_cut (v := y); (on_goal 2 => (intro hy; clear_value y)); subst y) | clear_value y | subst y)
    | (with_reducible apply OnlyChanges.step State.modCtx_only; on_goal 2 => decide)
    | with_reducible apply only_ite

theorem State.launchReplay_only {u : State} {a1 : OpView} {a2 : ℕ} :
    OnlyChanges [.queues, .groups] u (State.launchReplay u a1 a2) := by
  unfold State.launchReplay
  repeat' first
    | with_reducible assumption
    | with_reducible apply OnlyChanges.refl
    | (extract_lets +onlyGivenNames y; first | (apply only_cut (v := y); (on_goal 2 => (intro hy; clear_value y)); subst y) | clear_value y | subst y)
    | (with_reducible apply OnlyChanges.step State.restoreCtx_only; on_goal 2 => decide)
    | (with_reducible apply OnlyChanges.step State.modOp_only; on_goal 2 => decide)
    | (with_reducible apply OnlyChanges.step State.modLaunch_only; on_goal 2 => decide)
    | with_reducible apply only_ite
    | (with_reducible apply only_foldl; on_goal 2 => intro _ _ _)

theorem State.foldNonfinite_only {u : State} {a1 : OpView} {a2 : ℕ} {a3 : ℕ} :
    OnlyChanges [.groups, .events, .stats] u (State.foldNonfinite u a1 a2 a3) := by
  unfold State.foldNonfinite
  repeat' first
    | with_reducible assumption
    | with_reducible apply OnlyChanges.refl
    | (with_reducible apply OnlyChanges.step State.bumpG_only; on_goal 2 => decide)
    | (with_reducible apply OnlyChanges.step State.bumpBy_only; on_goal 2 => decide)
    | (with_reducible apply OnlyChanges.step State.enterLedger_only; on_goal 2 => decide)
    | with_reducible apply only_ite

theorem State.foldChunk_only {u : State} {a1 : OpView} {a2 : Bytes} {a3 : ℕ} :
    OnlyChanges [.out, .groups, .stack, .badUnits, .events, .stats, .maint] u (State.foldChunk u a1 a2 a3) := by
  unfold State.foldChunk
  repeat' first
    | with_reducible assumption
    | with_reducible apply OnlyChanges.refl
    | (extract_lets +onlyGivenNames y; first | (apply only_cut (v := y); (on_goal 2 => (intro hy; clear_value y)); subst y) | clear_value y | subst y)
    | (with_reducible apply OnlyChanges.step State.foldNonfinite_only; on_goal 2 => decide)
    | (with_reducible apply OnlyChanges.step State.noteMax_only; on_goal 2 => decide)
    | (with_reducible apply OnlyChanges.step State.writeGen_only; on_goal 2 => decide)
    | (with_reducible apply OnlyChanges.step State.emit_only; on_goal 2 => decide)

theorem State.spareChunk_only {u : State} {a1 : OpView} {a2 : Bytes} {a3 : ℕ} :
    OnlyChanges [.out, .groups, .stack, .badUnits, .events, .stats, .maint] u (State.spareChunk u a1 a2 a3) := by
  unfold State.spareChunk
  repeat' first
    | with_reducible assumption
    | with_reducible apply OnlyChanges.refl
    | (extract_lets +onlyGivenNames y; first | (apply only_cut (v := y); (on_goal 2 => (intro hy; clear_value y)); subst y) | clear_value y | subst y)
    | (with_reducible apply OnlyChanges.step State.foldNonfinite_only; on_goal 2 => decide)
    | (with_reducible apply OnlyChanges.step State.writeGen_only; on_goal 2 => decide)
    | (with_reducible apply OnlyChanges.step State.emit_only; on_goal 2 => decide)

theorem execVerdict_only {u t : State} {a0 : ℕ} {a1 : ℕ} {a2 : ℕ} (ht : execVerdict a0 a1 a2 u = .next t) :
    OnlyChanges [.out, .ports, .queues, .groups, .units, .events, .stats] u t := by
  unfold execVerdict at ht
  first | refine whenRunning_only ht ?_ | refine whenAlive_only ht ?_ | (injection ht with ht; subst ht)
  repeat' first
    | with_reducible assumption
    | with_reducible apply OnlyChanges.refl
    | (with_reducible apply OnlyChanges.step State.takeVerdicts_only; on_goal 2 => decide)
    | with_reducible apply only_ite
    | split

theorem execReplayRoundLaunch_only {u t : State} {a0 : ℕ} {a1 : ℕ} {a2 : ℕ} (ht : execReplayRoundLaunch a0 a1 a2 u =
      .next t) :
    OnlyChanges [.queues, .groups] u t := by
  unfold execReplayRoundLaunch at ht
  first | refine whenRunning_only ht ?_ | refine whenAlive_only ht ?_ | (injection ht with ht; subst ht)
  repeat' first
    | with_reducible assumption
    | with_reducible apply OnlyChanges.refl
    | (with_reducible apply OnlyChanges.step State.launchReplay_only; on_goal 2 => decide)
    | with_reducible apply only_ite
    | split

theorem execFold_only {u t : State} {a0 : ℕ} {a1 : ℕ} {a2 : HopEnv} (ht : execFold a0 a1 a2 u = .next t) :
    OnlyChanges [.out, .power, .ports, .queues, .groups, .stack, .badUnits, .events, .stats, .maint] u t := by
  unfold execFold at ht
  first | refine whenRunning_only ht ?_ | refine whenAlive_only ht ?_ | (injection ht with ht; subst ht)
  repeat' first
    | with_reducible assumption
    | with_reducible apply OnlyChanges.refl
    | (extract_lets +onlyGivenNames y; first | (apply only_cut (v := y); (on_goal 2 => (intro hy; clear_value y)); subst y) | clear_value y | subst y)
    | (with_reducible apply OnlyChanges.step State.foldChunk_only; on_goal 2 => decide)
    | (with_reducible apply OnlyChanges.step State.residualLost_only; on_goal 2 => decide)
    | (with_reducible apply OnlyChanges.step State.bumpG_only; on_goal 2 => decide)
    | (with_reducible apply OnlyChanges.step State.noteErrors_only; on_goal 2 => decide)
    | (with_reducible apply OnlyChanges.step State.modLaunch_only; on_goal 2 => decide)
    | with_reducible apply only_ite
    | (with_reducible apply only_foldl; on_goal 2 => intro _ _ _)
    | split

theorem execFoldComplete_only {u t : State} {a0 : ℕ} {a1 : ℕ} (ht : execFoldComplete a0 a1 u = .next t) :
    OnlyChanges [.ports, .queues, .groups, .events, .stats] u t := by
  unfold execFoldComplete at ht
  first | refine whenRunning_only ht ?_ | refine whenAlive_only ht ?_ | (injection ht with ht; subst ht)
  repeat' first
    | with_reducible assumption
    | with_reducible apply OnlyChanges.refl
    | (with_reducible apply OnlyChanges.step State.noteMovable_only; on_goal 2 => decide)
    | (with_reducible apply OnlyChanges.step State.enterStats_only; on_goal 2 => decide)
    | (with_reducible apply OnlyChanges.step State.modLaunch_only; on_goal 2 => decide)
    | with_reducible apply only_ite
    | split

theorem execSpareResidualWrite_only {u t : State} {a0 : ℕ} {a1 : ℕ} {a2 : HopEnv} (ht : execSpareResidualWrite a0 a1
      a2 u = .next t) :
    OnlyChanges [.out, .power, .queues, .groups, .stack, .badUnits, .events, .stats, .maint] u t := by
  unfold execSpareResidualWrite at ht
  first | refine whenRunning_only ht ?_ | refine whenAlive_only ht ?_ | (injection ht with ht; subst ht)
  repeat' first
    | with_reducible assumption
    | with_reducible apply OnlyChanges.refl
    | (extract_lets +onlyGivenNames y; first | (apply only_cut (v := y); (on_goal 2 => (intro hy; clear_value y)); subst y) | clear_value y | subst y)
    | (with_reducible apply OnlyChanges.step State.spareChunk_only; on_goal 2 => decide)
    | (with_reducible apply OnlyChanges.step State.noteErrors_only; on_goal 2 => decide)
    | (with_reducible apply OnlyChanges.step State.modOp_only; on_goal 2 => decide)
    | with_reducible apply only_ite
    | (with_reducible apply only_foldl; on_goal 2 => intro _ _ _)
    | split

theorem State.noteRefusal_only {u : State} {a1 : ℕ} {a2 : ℕ} {a3 : ℕ} {a4 : Bytes} :
    OnlyChanges [.events, .stats] u (State.noteRefusal u a1 a2 a3 a4) := by
  unfold State.noteRefusal
  repeat' first
    | with_reducible assumption
    | with_reducible apply OnlyChanges.refl
    | (extract_lets +onlyGivenNames y; first | (apply only_cut (v := y); (on_goal 2 => (intro hy; clear_value y)); subst y) | clear_value y | subst y)
    | (with_reducible apply OnlyChanges.step State.bumpG_only; on_goal 2 => decide)
    | (with_reducible apply OnlyChanges.step State.raise_only; on_goal 2 => decide)
    | with_reducible apply only_ite

theorem State.settleBooks_only {u : State}  :
    OnlyChanges [.books] u (State.settleBooks u) := by
  unfold State.settleBooks
  repeat' first
    | with_reducible assumption
    | with_reducible apply OnlyChanges.refl
    | ((with_reducible apply only_books (h1 := by decide)); first | with_reducible assumption | with_reducible exact OnlyChanges.refl)

theorem State.latchBook_only {u : State} {a1 : ℕ} {a2 : ℕ} :
    OnlyChanges [.books] u (State.latchBook u a1 a2).1 := by
  unfold State.latchBook
  repeat' first
    | with_reducible assumption
    | with_reducible apply OnlyChanges.refl
    | (extract_lets +onlyGivenNames y; first | (apply only_cut (v := y); (on_goal 2 => (intro hy; clear_value y)); subst y) | (apply only_cut (v := y.1); (on_goal 2 => (intro hy; clear_value y)); subst y) | clear_value y | subst y)
    | (with_reducible apply OnlyChanges.step State.setBook_only; on_goal 2 => decide)
    | with_reducible apply only_ite_fst
    | dsimp only

theorem State.readFirst_only {u : State} {a1 : OpView} :
    OnlyChanges [.out] u (State.readFirst u a1) := by
  unfold State.readFirst
  repeat' first
    | with_reducible assumption
    | with_reducible apply OnlyChanges.refl
    | (with_reducible apply OnlyChanges.step State.emit_only; on_goal 2 => decide)

theorem State.launch_only {u : State} {a1 : ℕ} {a2 : QueueOp} {a3 : ImgBucket} {a4 : ImgRing} {a5 : Bool} :
    OnlyChanges [.out, .books, .queues, .groups, .events, .stats] u (State.launch u a1 a2 a3 a4 a5) := by
  unfold State.launch
  repeat' first
    | with_reducible assumption
    | with_reducible apply OnlyChanges.refl
    | (extract_lets +onlyGivenNames y; first | (apply only_cut (v := y); (on_goal 2 => (intro hy; clear_value y)); subst y) | (apply only_cut (v := y.1); (on_goal 2 => (intro hy; clear_value y)); subst y) | clear_value y | subst y)
    | (with_reducible apply OnlyChanges.step State.modGroup_only; on_goal 2 => decide)
    | (with_reducible apply OnlyChanges.step State.readFirst_only; on_goal 2 => decide)
    | (with_reducible apply OnlyChanges.step State.bumpG_only; on_goal 2 => decide)
    | (with_reducible apply OnlyChanges.step State.complete_only; on_goal 2 => decide)
    | (with_reducible apply OnlyChanges.step State.modOp_only; on_goal 2 => decide)
    | (with_reducible apply OnlyChanges.step State.latchBook_only; on_goal 2 => decide)
    | (with_reducible apply OnlyChanges.step State.enterLedger_only; on_goal 2 => decide)
    | (with_reducible apply OnlyChanges.step State.checkReleased_only; on_goal 2 => decide)
    | with_reducible apply only_ite
    | with_reducible apply only_ite_fst
    | split
    | dsimp only

theorem State.fetchFirst_only {u : State}  :
    OnlyChanges [.out] u (State.fetchFirst u) := by
  unfold State.fetchFirst
  repeat' first
    | with_reducible assumption
    | with_reducible apply OnlyChanges.refl
    | (with_reducible apply OnlyChanges.step State.readFirst_only; on_goal 2 => decide)
    | with_reducible apply only_ite
    | (with_reducible apply only_foldl; on_goal 2 => intro _ _ _)
    | split

theorem State.refuseStep_only {u : State} {a1 : ℕ} {a2 : ℕ} {a3 : ℕ} {a4 : Bytes} :
    OnlyChanges [.ports, .groups, .events, .stats] u (State.refuseStep u a1 a2 a3 a4) := by
  unfold State.refuseStep
  repeat' first
    | with_reducible assumption
    | with_reducible apply OnlyChanges.refl
    | (with_reducible apply OnlyChanges.step State.abortGroup_only; on_goal 2 => decide)
    | (with_reducible apply OnlyChanges.step State.noteRefusal_only; on_goal 2 => decide)

theorem State.checkTide_only {u : State} {a1 : ℕ} {a2 : QueueOp} :
    OnlyChanges [.out, .ports, .books, .queues, .groups, .events, .stats] u (State.checkTide u a1 a2) := by
  unfold State.checkTide
  repeat' first
    | with_reducible assumption
    | with_reducible apply OnlyChanges.refl
    | (extract_lets +onlyGivenNames y; first | (apply only_cut (v := y); (on_goal 2 => (intro hy; clear_value y)); subst y) | clear_value y | subst y)
    | (with_reducible apply OnlyChanges.step State.abortGroup_only; on_goal 2 => decide)
    | (with_reducible apply OnlyChanges.step State.bumpG_only; on_goal 2 => decide)
    | (with_reducible apply OnlyChanges.step State.launch_only; on_goal 2 => decide)
    | (with_reducible apply OnlyChanges.step State.refuseStep_only; on_goal 2 => decide)
    | with_reducible apply only_ite
    | split

theorem State.checkExchange_only {u : State} {a1 : ℕ} {a2 : ℕ} {a3 : ℕ} :
    OnlyChanges [.out, .ports, .books, .queues, .groups, .events, .stats] u (State.checkExchange u a1 a2 a3) := by
  unfold State.checkExchange
  repeat' first
    | with_reducible assumption
    | with_reducible apply OnlyChanges.refl
    | (with_reducible apply OnlyChanges.step State.checkTide_only; on_goal 2 => decide)
    | with_reducible apply only_ite
    | split

theorem execExchange_only {u t : State} {a0 : ℕ} {a1 : ℕ} (ht : execExchange a0 a1 u = .next t) :
    OnlyChanges [.out, .ports, .books, .queues, .groups, .events, .stats] u t := by
  unfold execExchange at ht
  first | refine whenRunning_only ht ?_ | refine whenAlive_only ht ?_ | (injection ht with ht; subst ht)
  repeat' first
    | with_reducible assumption
    | with_reducible apply OnlyChanges.refl
    | (with_reducible apply OnlyChanges.step State.checkExchange_only; on_goal 2 => decide)

theorem execSparseExchange_only {u t : State} {a0 : ℕ} {a1 : ℕ} (ht : execSparseExchange a0 a1 u = .next t) :
    OnlyChanges [.out, .ports, .books, .queues, .groups, .events, .stats] u t := by
  unfold execSparseExchange at ht
  first | refine whenRunning_only ht ?_ | refine whenAlive_only ht ?_ | (injection ht with ht; subst ht)
  repeat' first
    | with_reducible assumption
    | with_reducible apply OnlyChanges.refl
    | (with_reducible apply OnlyChanges.step State.checkExchange_only; on_goal 2 => decide)

theorem State.dropHoldEntry_only {u : State}  :
    OnlyChanges [.power] u (State.dropHoldEntry u) := by
  unfold State.dropHoldEntry
  repeat' first
    | with_reducible assumption
    | with_reducible apply OnlyChanges.refl
    | (extract_lets +onlyGivenNames y; first | (apply only_cut (v := y); (on_goal 2 => (intro hy; clear_value y)); subst y) | clear_value y | subst y)
    | with_reducible apply only_ite
    | ((with_reducible apply only_power (h1 := by decide)); first | with_reducible assumption | with_reducible exact OnlyChanges.refl)

theorem State.askWake_only {u : State}  :
    OnlyChanges [.power] u (State.askWake u) := by
  unfold State.askWake
  repeat' first
    | with_reducible assumption
    | with_reducible apply OnlyChanges.refl
    | (extract_lets +onlyGivenNames y; first | (apply only_cut (v := y); (on_goal 2 => (intro hy; clear_value y)); subst y) | clear_value y | subst y)
    | (with_reducible apply OnlyChanges.step State.dropHoldEntry_only; on_goal 2 => decide)
    | with_reducible apply only_ite
    | ((with_reducible apply only_power (h1 := by decide)); first | with_reducible assumption | with_reducible exact OnlyChanges.refl)

theorem State.wakeIfReady_only {u : State}  :
    OnlyChanges [.power] u (State.wakeIfReady u) := by
  unfold State.wakeIfReady
  repeat' first
    | with_reducible assumption
    | with_reducible apply OnlyChanges.refl
    | (with_reducible apply OnlyChanges.step State.askWake_only; on_goal 2 => decide)
    | with_reducible apply only_ite

theorem State.endStepOps_only {u : State} {a1 : ℕ} {a2 : ℕ} {a3 : List QueueOp} :
    OnlyChanges [.queues] u (State.endStepOps u a1 a2 a3) := by
  unfold State.endStepOps
  repeat' first
    | with_reducible assumption
    | with_reducible apply OnlyChanges.refl
    | (with_reducible apply OnlyChanges.step State.complete_only; on_goal 2 => decide)
    | (with_reducible apply only_foldl; on_goal 2 => intro _ _ _)
    | split

theorem State.returnBooks_only {u : State} {a1 : List QueueOp} :
    OnlyChanges [.books] u (State.returnBooks u a1) := by
  unfold State.returnBooks
  repeat' first
    | with_reducible assumption
    | with_reducible apply OnlyChanges.refl
    | (with_reducible apply OnlyChanges.step State.setBook_only; on_goal 2 => decide)
    | (with_reducible apply only_foldl; on_goal 2 => intro _ _ _)

theorem State.dropStepOps_only {u : State} {a1 : ℕ} {a2 : List QueueOp} :
    OnlyChanges [.books, .queues] u (State.dropStepOps u a1 a2) := by
  unfold State.dropStepOps
  repeat' first
    | with_reducible assumption
    | with_reducible apply OnlyChanges.refl
    | (with_reducible apply OnlyChanges.step State.returnBooks_only; on_goal 2 => decide)
    | (with_reducible apply OnlyChanges.step State.modQueue_only; on_goal 2 => decide)

theorem State.refuseOpen_only {u : State} {a1 : ℕ} :
    OnlyChanges [.books, .queues, .groups, .events, .stats] u (State.refuseOpen u a1) := by
  unfold State.refuseOpen
  repeat' first
    | with_reducible assumption
    | with_reducible apply OnlyChanges.refl
    | (extract_lets +onlyGivenNames y; first | (apply only_cut (v := y); (on_goal 2 => (intro hy; clear_value y)); subst y) | clear_value y | subst y)
    | (with_reducible apply OnlyChanges.step State.modGroup_only; on_goal 2 => decide)
    | (with_reducible apply OnlyChanges.step State.bumpG_only; on_goal 2 => decide)
    | (with_reducible apply OnlyChanges.step State.endStepOps_only; on_goal 2 => decide)
    | (with_reducible apply OnlyChanges.step State.dropStepOps_only; on_goal 2 => decide)
    | with_reducible apply only_ite

theorem State.openOperand_only {u : State} {a1 : ℕ} :
    OnlyChanges [.ports, .groups, .events, .stats] u (State.openOperand u a1) := by
  unfold State.openOperand
  repeat' first
    | with_reducible assumption
    | with_reducible apply OnlyChanges.refl
    | (extract_lets +onlyGivenNames y; first | (apply only_cut (v := y); (on_goal 2 => (intro hy; clear_value y)); subst y) | clear_value y | subst y)
    | (with_reducible apply OnlyChanges.step State.abortGroup_only; on_goal 2 => decide)
    | (with_reducible apply OnlyChanges.step State.bump_only; on_goal 2 => decide)
    | (with_reducible apply OnlyChanges.step State.giveOperand_only; on_goal 2 => decide)
    | with_reducible apply only_ite

theorem State.enterOpen_only {u : State} {a1 : ℕ} :
    OnlyChanges [.ports, .groups, .events, .stats] u (State.enterOpen u a1) := by
  unfold State.enterOpen
  repeat' first
    | with_reducible assumption
    | with_reducible apply OnlyChanges.refl
    | (with_reducible apply OnlyChanges.step State.modGroup_only; on_goal 2 => decide)
    | (with_reducible apply OnlyChanges.step State.openOperand_only; on_goal 2 => decide)

theorem State.tryEnterOpen_only {u : State} {a1 : ℕ} :
    OnlyChanges [.ports, .books, .queues, .groups, .events, .stats] u (State.tryEnterOpen u a1) := by
  unfold State.tryEnterOpen
  repeat' first
    | with_reducible assumption
    | with_reducible apply OnlyChanges.refl
    | (extract_lets +onlyGivenNames y; first | (apply only_cut (v := y); (on_goal 2 => (intro hy; clear_value y)); subst y) | clear_value y | subst y)
    | (with_reducible apply OnlyChanges.step State.refuseOpen_only; on_goal 2 => decide)
    | (with_reducible apply OnlyChanges.step State.enterOpen_only; on_goal 2 => decide)
    | with_reducible apply only_ite

theorem State.tryEnterOpens_only {u : State} {a1 : List ℕ} :
    OnlyChanges [.ports, .books, .queues, .groups, .events, .stats] u (State.tryEnterOpens u a1) := by
  unfold State.tryEnterOpens
  repeat' first
    | with_reducible assumption
    | with_reducible apply OnlyChanges.refl
    | (with_reducible apply OnlyChanges.step State.tryEnterOpen_only; on_goal 2 => decide)
    | (with_reducible apply only_foldl; on_goal 2 => intro _ _ _)

theorem State.beginStep_only {u : State} {a1 : ℕ} {a2 : ℕ} :
    OnlyChanges [.groups, .staging] u (State.beginStep u a1 a2) := by
  unfold State.beginStep
  repeat' first
    | with_reducible assumption
    | with_reducible apply OnlyChanges.refl
    | (extract_lets +onlyGivenNames y; first | (apply only_cut (v := y); (on_goal 2 => (intro hy; clear_value y)); subst y) | clear_value y | subst y)
    | (with_reducible apply OnlyChanges.step State.modGroup_only; on_goal 2 => decide)
    | (with_reducible apply OnlyChanges.step State.clearStaging_only; on_goal 2 => decide)

theorem State.joinStep_only {u : State} {a1 : ℕ} {a2 : ℕ} :
    OnlyChanges [.groups, .staging] u (State.joinStep u a1 a2) := by
  unfold State.joinStep
  repeat' first
    | with_reducible assumption
    | with_reducible apply OnlyChanges.refl
    | (extract_lets +onlyGivenNames y; first | (apply only_cut (v := y); (on_goal 2 => (intro hy; clear_value y)); subst y) | clear_value y | subst y)
    | (with_reducible apply OnlyChanges.step State.modGroup_only; on_goal 2 => decide)
    | (with_reducible apply OnlyChanges.step State.beginStep_only; on_goal 2 => decide)
    | with_reducible apply only_ite

theorem State.modStepOps_only {u : State} {a1 : ℕ} {a2 : QueueOp → QueueOp} :
    OnlyChanges [.queues] u (State.modStepOps u a1 a2) := by
  unfold State.modStepOps
  repeat' first
    | with_reducible assumption
    | with_reducible apply OnlyChanges.refl
    | (extract_lets +onlyGivenNames y; first | (apply only_cut (v := y); (on_goal 2 => (intro hy; clear_value y)); subst y) | clear_value y | subst y)
    | (with_reducible apply OnlyChanges.step State.modQueue_only; on_goal 2 => decide)

theorem State.reenter_only {u : State} {a1 : OpView} :
    OnlyChanges [.ports, .queues, .groups, .events, .stats] u (State.reenter u a1) := by
  unfold State.reenter
  repeat' first
    | with_reducible assumption
    | with_reducible apply OnlyChanges.refl
    | (with_reducible apply OnlyChanges.step State.modStats_only; on_goal 2 => decide)
    | (with_reducible apply OnlyChanges.step State.enterStats_only; on_goal 2 => decide)
    | (with_reducible apply OnlyChanges.step State.finishOp_only; on_goal 2 => decide)
    | with_reducible apply only_ite

theorem State.resumeStep_only {u : State} {a1 : ℕ} {a2 : ℕ} :
    OnlyChanges [.ports, .queues, .groups, .staging, .events, .stats] u (State.resumeStep u a1 a2) := by
  unfold State.resumeStep
  repeat' first
    | with_reducible assumption
    | with_reducible apply OnlyChanges.refl
    | (extract_lets +onlyGivenNames y; first | (apply only_cut (v := y); (on_goal 2 => (intro hy; clear_value y)); subst y) | clear_value y | subst y)
    | (with_reducible apply OnlyChanges.step State.modGroup_only; on_goal 2 => decide)
    | (with_reducible apply OnlyChanges.step State.modStepOps_only; on_goal 2 => decide)
    | (with_reducible apply OnlyChanges.step State.modRecord_only; on_goal 2 => decide)
    | (with_reducible apply OnlyChanges.step State.reenter_only; on_goal 2 => decide)
    | (with_reducible apply OnlyChanges.step State.clearStaging_only; on_goal 2 => decide)
    | (with_reducible apply OnlyChanges.step State.checkReleased_only; on_goal 2 => decide)
    | with_reducible apply only_ite
    | (with_reducible apply only_foldl; on_goal 2 => intro _ _ _)

theorem State.flipSelector_only {u : State} {a1 : ImgBucket} :
    OnlyChanges [.buckets] u (State.flipSelector u a1) := by
  unfold State.flipSelector
  repeat' first
    | with_reducible assumption
    | with_reducible apply OnlyChanges.refl
    | (extract_lets +onlyGivenNames y; first | (apply only_cut (v := y); (on_goal 2 => (intro hy; clear_value y)); subst y) | clear_value y | subst y)
    | (with_reducible apply OnlyChanges.step State.setBucket_only; on_goal 2 => decide)

theorem State.nextFallback_only {u : State} {a1 : ℕ} {a2 : ImgBucket} {a3 : ℕ} {a4 : ℕ} :
    OnlyChanges [.buckets, .events, .stats] u (State.nextFallback u a1 a2 a3 a4) := by
  unfold State.nextFallback
  repeat' first
    | with_reducible assumption
    | with_reducible apply OnlyChanges.refl
    | (extract_lets +onlyGivenNames y; first | (apply only_cut (v := y); (on_goal 2 => (intro hy; clear_value y)); subst y) | clear_value y | subst y)
    | (with_reducible apply OnlyChanges.step State.bumpG_only; on_goal 2 => decide)
    | (with_reducible apply OnlyChanges.step State.setBucket_only; on_goal 2 => decide)
    | (with_reducible apply OnlyChanges.step State.raise_only; on_goal 2 => decide)
    | with_reducible apply only_ite

theorem State.nextScale_only {u : State} {a1 : ℕ} {a2 : ImgBucket} {a3 : ℤ} :
    OnlyChanges [.buckets, .events, .stats] u (State.nextScale u a1 a2 a3) := by
  unfold State.nextScale
  repeat' first
    | with_reducible assumption
    | with_reducible apply OnlyChanges.refl
    | (extract_lets +onlyGivenNames y; first | (apply only_cut (v := y); (on_goal 2 => (intro hy; clear_value y)); subst y) | clear_value y | subst y)
    | (with_reducible apply OnlyChanges.step State.bumpG_only; on_goal 2 => decide)
    | (with_reducible apply OnlyChanges.step State.setBucket_only; on_goal 2 => decide)
    | (with_reducible apply OnlyChanges.step State.raise_only; on_goal 2 => decide)
    | with_reducible apply only_ite

theorem State.latchBucket_only {u : State} {a1 : ℕ} {a2 : Launch} {a3 : ImgBucket} :
    OnlyChanges [.buckets, .events, .stats] u (State.latchBucket u a1 a2 a3) := by
  unfold State.latchBucket
  repeat' first
    | with_reducible assumption
    | with_reducible apply OnlyChanges.refl
    | (extract_lets +onlyGivenNames y; first | (apply only_cut (v := y); (on_goal 2 => (intro hy; clear_value y)); subst y) | clear_value y | subst y)
    | (with_reducible apply OnlyChanges.step State.setBucket_only; on_goal 2 => decide)
    | (with_reducible apply OnlyChanges.step State.nextScale_only; on_goal 2 => decide)
    | (with_reducible apply OnlyChanges.step State.nextFallback_only; on_goal 2 => decide)
    | with_reducible apply only_ite

theorem State.enterBalanced_only {u : State} {a1 : ℕ} :
    OnlyChanges [.groups, .events] u (State.enterBalanced u a1) := by
  unfold State.enterBalanced
  repeat' first
    | with_reducible assumption
    | with_reducible apply OnlyChanges.refl
    | (extract_lets +onlyGivenNames y; first | (apply only_cut (v := y); (on_goal 2 => (intro hy; clear_value y)); subst y) | clear_value y | subst y)
    | (with_reducible apply OnlyChanges.step State.enterLedger_only; on_goal 2 => decide)
    | with_reducible apply only_ite

theorem State.freeStep_only {u : State} {a1 : ℕ} {a2 : Option StepRecord} :
    OnlyChanges [.groups, .staging] u (State.freeStep u a1 a2) := by
  unfold State.freeStep
  repeat' first
    | with_reducible assumption
    | with_reducible apply OnlyChanges.refl
    | (with_reducible apply OnlyChanges.step State.modGroup_only; on_goal 2 => decide)
    | (with_reducible apply OnlyChanges.step State.clearStaging_only; on_goal 2 => decide)

theorem State.commitStep_only {u : State} {a1 : ℕ} {a2 : ℕ} {a3 : Bool} :
    OnlyChanges [.ports, .books, .queues, .groups, .buckets, .staging, .events, .stats] u (State.commitStep u a1 a2
          a3) := by
  unfold State.commitStep
  repeat' first
    | with_reducible assumption
    | with_reducible apply OnlyChanges.refl
    | (extract_lets +onlyGivenNames y; first | (apply only_cut (v := y); (on_goal 2 => (intro hy; clear_value y)); subst y) | clear_value y | subst y)
    | (with_reducible apply OnlyChanges.step State.modGroup_only; on_goal 2 => decide)
    | (with_reducible apply OnlyChanges.step State.bumpG_only; on_goal 2 => decide)
    | (with_reducible apply OnlyChanges.step State.freeStep_only; on_goal 2 => decide)
    | (with_reducible apply OnlyChanges.step State.tryEnterOpen_only; on_goal 2 => decide)
    | (with_reducible apply OnlyChanges.step State.complete_only; on_goal 2 => decide)
    | (with_reducible apply OnlyChanges.step State.beginStep_only; on_goal 2 => decide)
    | (with_reducible apply OnlyChanges.step State.latchBucket_only; on_goal 2 => decide)
    | (with_reducible apply OnlyChanges.step State.enterBalanced_only; on_goal 2 => decide)
    | (with_reducible apply OnlyChanges.step State.flipSelector_only; on_goal 2 => decide)
    | (with_reducible apply OnlyChanges.step State.dropStepOps_only; on_goal 2 => decide)
    | with_reducible apply only_ite
    | (with_reducible apply only_foldl; on_goal 2 => intro _ _ _)
    | split

theorem State.touch_only {u : State} {a1 : ℕ} :
    OnlyChanges [.host] u (State.touch u a1) := by
  unfold State.touch
  repeat' first
    | with_reducible assumption
    | with_reducible apply OnlyChanges.refl
    | (extract_lets +onlyGivenNames y; first | (apply only_cut (v := y); (on_goal 2 => (intro hy; clear_value y)); subst y) | clear_value y | subst y)
    | ((with_reducible apply only_host (h1 := by decide)); first | with_reducible assumption | with_reducible exact OnlyChanges.refl)

theorem State.violation_only {u : State} {a1 : ℕ} {a2 : ℕ} {a3 : Bool} :
    OnlyChanges [.events, .stats] u (State.violation u a1 a2 a3) := by
  unfold State.violation
  repeat' first
    | with_reducible assumption
    | with_reducible apply OnlyChanges.refl
    | (with_reducible apply OnlyChanges.step State.raise_only; on_goal 2 => decide)
    | (with_reducible apply OnlyChanges.step State.bumpP_only; on_goal 2 => decide)

theorem State.asPriv_only {u s : State} {a1 : ℕ} {a2 : ℕ} {a3 : Bool} {f4 : State → State} {P : List Part} (h :
      OnlyChanges P s u) (hf4 : ∀ v, OnlyChanges P v (f4 v)) (hP : ∀ p ∈ ([.host, .events, .stats] : List Part), p ∈
      P) :
    OnlyChanges P s (State.asPriv u a1 a2 a3 f4) := by
  apply OnlyChanges.trans h
  unfold State.asPriv
  repeat' first
    | with_reducible assumption
    | with_reducible apply OnlyChanges.refl
    | (extract_lets +onlyGivenNames y; first | (apply only_cut (v := y); (on_goal 2 => (intro hy; clear_value y)); subst y) | clear_value y | subst y)
    | (with_reducible apply OnlyChanges.step State.touch_only; on_goal 2 => exact fun p hp => hP p (by revert p hp; decide))
    | (with_reducible apply OnlyChanges.step State.violation_only; on_goal 2 => exact fun p hp => hP p (by revert p hp; decide))
    | with_reducible apply OnlyChanges.trans' (hf4 _)
    | with_reducible apply only_ite

theorem State.asPart_only {u s : State} {a1 : ℕ} {a2 : ℕ} {a3 : ℕ} {a4 : Bool} {f5 : State → State} {P : List Part} (h
      : OnlyChanges P s u) (hf5 : ∀ v, OnlyChanges P v (f5 v)) (hP : ∀ p ∈ ([.host, .events, .stats] : List Part), p ∈
      P) :
    OnlyChanges P s (State.asPart u a1 a2 a3 a4 f5) := by
  apply OnlyChanges.trans h
  unfold State.asPart
  repeat' first
    | with_reducible assumption
    | with_reducible apply OnlyChanges.refl
    | (extract_lets +onlyGivenNames y; first | (apply only_cut (v := y); (on_goal 2 => (intro hy; clear_value y)); subst y) | clear_value y | subst y)
    | (with_reducible apply OnlyChanges.step State.touch_only; on_goal 2 => exact fun p hp => hP p (by revert p hp; decide))
    | (with_reducible apply OnlyChanges.step State.violation_only; on_goal 2 => exact fun p hp => hP p (by revert p hp; decide))
    | with_reducible apply OnlyChanges.trans' (hf5 _)
    | with_reducible apply only_ite

theorem State.asQueue_only {u s : State} {a1 : ℕ} {a2 : ℕ} {a3 : ℕ} {a4 : Bool} {f5 : State → State} {P : List Part}
      (h : OnlyChanges P s u) (hf5 : ∀ v, OnlyChanges P v (f5 v)) (hP : ∀ p ∈ ([.host, .events, .stats] : List Part),
      p ∈ P) :
    OnlyChanges P s (State.asQueue u a1 a2 a3 a4 f5) := by
  apply OnlyChanges.trans h
  unfold State.asQueue
  repeat' first
    | with_reducible assumption
    | with_reducible apply OnlyChanges.refl
    | exact OnlyChanges.refl
    | (extract_lets +onlyGivenNames y; first | (apply only_cut (v := y); (on_goal 2 => (intro hy; clear_value y)); subst y) | clear_value y | subst y)
    | (with_reducible apply State.asPart_only; (on_goal 3 => exact fun p hp => hP p (by revert p hp; decide)); (on_goal 2 => intro _))
    | (with_reducible apply State.asPriv_only; (on_goal 3 => exact fun p hp => hP p (by revert p hp; decide)); (on_goal 2 => intro _))
    | with_reducible apply OnlyChanges.trans' (hf5 _)
    | with_reducible apply only_ite
    | split

theorem State.asGroup_only {u s : State} {a1 : ℕ} {a2 : ℕ} {a3 : ℕ} {f4 : State → State} {P : List Part} (h :
      OnlyChanges P s u) (hf4 : ∀ v, OnlyChanges P v (f4 v)) (hP : ∀ p ∈ ([.host, .events, .stats] : List Part), p ∈
      P) :
    OnlyChanges P s (State.asGroup u a1 a2 a3 f4) := by
  apply OnlyChanges.trans h
  unfold State.asGroup
  repeat' first
    | with_reducible assumption
    | with_reducible apply OnlyChanges.refl
    | (with_reducible apply State.asPriv_only; (on_goal 3 => exact fun p hp => hP p (by revert p hp; decide)); (on_goal 2 => intro _))
    | with_reducible apply OnlyChanges.trans' (hf4 _)
    | with_reducible apply only_ite

theorem State.redeliver_only {u : State} {a1 : OpView} {a2 : ℕ} :
    OnlyChanges [.out, .events, .stats] u (State.redeliver u a1 a2) := by
  unfold State.redeliver
  repeat' first
    | with_reducible assumption
    | with_reducible apply OnlyChanges.refl
    | (extract_lets +onlyGivenNames y; first | (apply only_cut (v := y); (on_goal 2 => (intro hy; clear_value y)); subst y) | clear_value y | subst y)
    | (with_reducible apply OnlyChanges.step State.writeOutput_only; on_goal 2 => decide)
    | (with_reducible apply OnlyChanges.step State.noteMarks_only; on_goal 2 => decide)
    | with_reducible apply only_ite
    | split

theorem State.withRedelivery_only {u s : State} {a1 : ℕ} {a2 : ℕ} {a3 : ℕ} {a4 : List ℕ} {f5 : State → State} {P :
      List Part} (h : OnlyChanges P s u) (hf5 : ∀ v, OnlyChanges P v (f5 v)) (hP : ∀ p ∈ ([.out, .power, .ports,
      .groups, .badUnits, .events, .stats, .maint] : List Part), p ∈ P) :
    OnlyChanges P s (State.withRedelivery u a1 a2 a3 a4 f5) := by
  apply OnlyChanges.trans h
  unfold State.withRedelivery
  repeat' first
    | with_reducible assumption
    | with_reducible apply OnlyChanges.refl
    | (extract_lets +onlyGivenNames y; first | (apply only_cut (v := y); (on_goal 2 => (intro hy; clear_value y)); subst y) | clear_value y | subst y)
    | (with_reducible apply OnlyChanges.step State.residualLost_only; on_goal 2 => exact fun p hp => hP p (by revert p hp; decide))
    | (with_reducible apply OnlyChanges.step State.redeliver_only; on_goal 2 => exact fun p hp => hP p (by revert p hp; decide))
    | with_reducible apply OnlyChanges.trans' (hf5 _)
    | with_reducible apply only_ite
    | split

theorem State.resend_only {u : State} {a1 : ℕ} {a2 : List ℕ} {a3 : Release} :
    OnlyChanges [.out, .power, .ports, .groups, .badUnits, .units, .events, .stats, .maint] u (State.resend u a1 a2
          a3) := by
  unfold State.resend
  repeat' first
    | with_reducible assumption
    | with_reducible apply OnlyChanges.refl
    | (with_reducible apply OnlyChanges.step State.bump_only; on_goal 2 => decide)
    | (with_reducible apply OnlyChanges.step State.sendRelease_only; on_goal 2 => decide)
    | (with_reducible apply State.withRedelivery_only; (on_goal 3 => decide); (on_goal 2 => intro _))

theorem State.clearGenerations_only {u : State} {a1 : ℕ} :
    OnlyChanges [.stack, .badUnits] u (State.clearGenerations u a1) := by
  unfold State.clearGenerations
  repeat' first
    | with_reducible assumption
    | with_reducible apply OnlyChanges.refl
    | (extract_lets +onlyGivenNames y; first | (apply only_cut (v := y); (on_goal 2 => (intro hy; clear_value y)); subst y) | clear_value y | subst y)
    | (with_reducible apply only_foldl; on_goal 2 => intro _ _ _)
    | ((with_reducible apply only_stack_badUnits (h1 := by decide) (h2 := by decide)); first | with_reducible assumption | with_reducible exact OnlyChanges.refl)

theorem State.establishFresh_only {u : State} {a1 : ℕ} :
    OnlyChanges [.buckets, .stack, .badUnits] u (State.establishFresh u a1) := by
  unfold State.establishFresh
  repeat' first
    | with_reducible assumption
    | with_reducible apply OnlyChanges.refl
    | (extract_lets +onlyGivenNames y; first | (apply only_cut (v := y); (on_goal 2 => (intro hy; clear_value y)); subst y) | clear_value y | subst y)
    | (with_reducible apply OnlyChanges.step State.clearGenerations_only; on_goal 2 => decide)
    | (with_reducible apply OnlyChanges.step State.setBucket_only; on_goal 2 => decide)
    | (with_reducible apply only_foldl; on_goal 2 => intro _ _ _)

theorem State.zeroBadUnits_only {u : State} {a1 : ℕ} :
    OnlyChanges [.stack, .badUnits, .events, .stats] u (State.zeroBadUnits u a1) := by
  unfold State.zeroBadUnits
  repeat' first
    | with_reducible assumption
    | with_reducible apply OnlyChanges.refl
    | (extract_lets +onlyGivenNames y; first | (apply only_cut (v := y); (on_goal 2 => (intro hy; clear_value y)); subst y) | clear_value y | subst y)
    | (with_reducible apply OnlyChanges.step State.bump_only; on_goal 2 => decide)
    | (with_reducible apply OnlyChanges.step State.raise_only; on_goal 2 => decide)
    | with_reducible apply only_ite
    | (with_reducible apply only_foldl; on_goal 2 => intro _ _ _)
    | ((with_reducible apply only_stack_badUnits (h1 := by decide) (h2 := by decide)); first | with_reducible assumption | with_reducible exact OnlyChanges.refl)

theorem State.discardStep_only {u : State} {a1 : ℕ} :
    OnlyChanges [.books, .queues, .groups, .buckets, .staging, .stack, .badUnits, .events, .stats] u
          (State.discardStep u a1) := by
  unfold State.discardStep
  repeat' first
    | with_reducible assumption
    | with_reducible apply OnlyChanges.refl
    | (extract_lets +onlyGivenNames y; first | (apply only_cut (v := y); (on_goal 2 => (intro hy; clear_value y)); subst y) | clear_value y | subst y)
    | (with_reducible apply OnlyChanges.step State.establishFresh_only; on_goal 2 => decide)
    | (with_reducible apply OnlyChanges.step State.modGroup_only; on_goal 2 => decide)
    | (with_reducible apply OnlyChanges.step State.bumpG_only; on_goal 2 => decide)
    | (with_reducible apply OnlyChanges.step State.zeroBadUnits_only; on_goal 2 => decide)
    | (with_reducible apply OnlyChanges.step State.endStepOps_only; on_goal 2 => decide)
    | (with_reducible apply OnlyChanges.step State.freeStep_only; on_goal 2 => decide)
    | (with_reducible apply OnlyChanges.step State.raise_only; on_goal 2 => decide)
    | (with_reducible apply OnlyChanges.step State.dropStepOps_only; on_goal 2 => decide)
    | with_reducible apply only_ite

theorem State.ignoreGroup_only {u : State} {a1 : ℕ} :
    OnlyChanges [.groups] u (State.ignoreGroup u a1) := by
  unfold State.ignoreGroup
  repeat' first
    | with_reducible assumption
    | with_reducible apply OnlyChanges.refl
    | (with_reducible apply OnlyChanges.step State.modGroup_only; on_goal 2 => decide)

theorem State.noteBad_only {u : State} {a1 : List ℕ} :
    OnlyChanges [.power, .badUnits, .events, .stats, .maint] u (State.noteBad u a1) := by
  unfold State.noteBad
  repeat' first
    | with_reducible assumption
    | with_reducible apply OnlyChanges.refl
    | (with_reducible apply OnlyChanges.step State.stackUE_only; on_goal 2 => decide)
    | (with_reducible apply OnlyChanges.step State.markBad_only; on_goal 2 => decide)
    | (with_reducible apply only_foldl; on_goal 2 => intro _ _ _)

theorem State.reportDiag_only {u : State} {a1 : ℕ} {a2 : List (ℕ × Bytes)} {a3 : List ℕ} :
    OnlyChanges [.power, .groups, .badUnits, .events, .stats, .maint] u (State.reportDiag u a1 a2 a3) := by
  unfold State.reportDiag
  repeat' first
    | with_reducible assumption
    | with_reducible apply OnlyChanges.refl
    | (extract_lets +onlyGivenNames y; first | (apply only_cut (v := y); (on_goal 2 => (intro hy; clear_value y)); subst y) | clear_value y | subst y)
    | (with_reducible apply OnlyChanges.step State.modGroup_only; on_goal 2 => decide)
    | (with_reducible apply OnlyChanges.step State.noteBad_only; on_goal 2 => decide)
    | split

theorem State.commitEffect_only {u : State} {a1 : ℕ} :
    OnlyChanges [.ports, .books, .queues, .groups, .buckets, .staging, .events, .stats] u (State.commitEffect u a1) :=
          by
  unfold State.commitEffect
  repeat' first
    | with_reducible assumption
    | with_reducible apply OnlyChanges.refl
    | (with_reducible apply OnlyChanges.step State.lateEffect_only; on_goal 2 => decide)
    | (with_reducible apply OnlyChanges.step State.commitStep_only; on_goal 2 => decide)
    | with_reducible apply only_ite
    | split

theorem State.openEffect_only {u : State} {a1 : ℕ} :
    OnlyChanges [.ports, .queues, .groups, .staging, .events, .stats] u (State.openEffect u a1) := by
  unfold State.openEffect
  repeat' first
    | with_reducible assumption
    | with_reducible apply OnlyChanges.refl
    | (extract_lets +onlyGivenNames y; first | (apply only_cut (v := y); (on_goal 2 => (intro hy; clear_value y)); subst y) | clear_value y | subst y)
    | (with_reducible apply OnlyChanges.step State.modGroup_only; on_goal 2 => decide)
    | (with_reducible apply OnlyChanges.step State.lateEffect_only; on_goal 2 => decide)
    | (with_reducible apply OnlyChanges.step State.joinStep_only; on_goal 2 => decide)
    | (with_reducible apply OnlyChanges.step State.resumeStep_only; on_goal 2 => decide)
    | with_reducible apply only_ite
    | split

theorem State.askDiscard_only {u : State} {a1 : ℕ} :
    OnlyChanges [.ports, .books, .queues, .groups, .buckets, .staging, .stack, .badUnits, .events, .stats] u
          (State.askDiscard u a1) := by
  unfold State.askDiscard
  repeat' first
    | with_reducible assumption
    | with_reducible apply OnlyChanges.refl
    | (extract_lets +onlyGivenNames y; first | (apply only_cut (v := y); (on_goal 2 => (intro hy; clear_value y)); subst y) | clear_value y | subst y)
    | (with_reducible apply OnlyChanges.step State.tryEnterOpen_only; on_goal 2 => decide)
    | (with_reducible apply OnlyChanges.step State.discardStep_only; on_goal 2 => decide)
    | (with_reducible apply OnlyChanges.step State.ignoreGroup_only; on_goal 2 => decide)
    | with_reducible apply only_ite

theorem State.setHold_only {u : State} {a1 : ℕ} {a2 : ℕ} :
    OnlyChanges [.ports, .books, .queues, .groups, .events, .stats] u (State.setHold u a1 a2) := by
  unfold State.setHold
  repeat' first
    | with_reducible assumption
    | with_reducible apply OnlyChanges.refl
    | (with_reducible apply OnlyChanges.step State.modGroup_only; on_goal 2 => decide)
    | (with_reducible apply OnlyChanges.step State.tryEnterOpen_only; on_goal 2 => decide)

theorem State.setGroupStep_only {u : State} {a1 : ℕ} {a2 : ℕ} :
    OnlyChanges [.groups] u (State.setGroupStep u a1 a2) := by
  unfold State.setGroupStep
  repeat' first
    | with_reducible assumption
    | with_reducible apply OnlyChanges.refl
    | (with_reducible apply OnlyChanges.step State.modGroup_only; on_goal 2 => decide)
    | (with_reducible apply OnlyChanges.step State.ignoreGroup_only; on_goal 2 => decide)
    | with_reducible apply only_ite

theorem State.startDiag_only {u : State} {a1 : ℕ} :
    OnlyChanges [.groups, .events, .stats] u (State.startDiag u a1) := by
  unfold State.startDiag
  repeat' first
    | with_reducible assumption
    | with_reducible apply OnlyChanges.refl
    | (extract_lets +onlyGivenNames y; first | (apply only_cut (v := y); (on_goal 2 => (intro hy; clear_value y)); subst y) | clear_value y | subst y)
    | (with_reducible apply OnlyChanges.step State.modGroup_only; on_goal 2 => decide)
    | (with_reducible apply OnlyChanges.step State.bump_only; on_goal 2 => decide)
    | (with_reducible apply OnlyChanges.step State.ignoreGroup_only; on_goal 2 => decide)
    | with_reducible apply only_ite

theorem execAppliedSeqReport_only {u t : State} {a0 : ℕ} {a1 : Word32} (ht : execAppliedSeqReport a0 a1 u = .next t) :
    OnlyChanges [.units] u t := by
  unfold execAppliedSeqReport at ht
  first | refine whenRunning_only ht ?_ | refine whenAlive_only ht ?_ | (injection ht with ht; subst ht)
  repeat' first
    | with_reducible assumption
    | with_reducible apply OnlyChanges.refl
    | (extract_lets +onlyGivenNames y; first | (apply only_cut (v := y); (on_goal 2 => (intro hy; clear_value y)); subst y) | clear_value y | subst y)
    | (with_reducible apply OnlyChanges.step State.setUnit_only; on_goal 2 => decide)
    | with_reducible apply only_ite

theorem execUnitReset_only {u t : State} {a0 : ℕ} {a1 : StackReads} (ht : execUnitReset a0 a1 u = .next t) :
    OnlyChanges [.out, .power, .ports, .groups, .badUnits, .units, .events, .stats, .maint] u t := by
  unfold execUnitReset at ht
  first | refine whenRunning_only ht ?_ | refine whenAlive_only ht ?_ | (injection ht with ht; subst ht)
  repeat' first
    | with_reducible assumption
    | with_reducible apply OnlyChanges.refl
    | (with_reducible apply OnlyChanges.step State.resend_only; on_goal 2 => decide)
    | (with_reducible apply OnlyChanges.step State.readStack_only; on_goal 2 => decide)
    | (with_reducible apply only_foldl; on_goal 2 => intro _ _ _)

theorem execCommit_only {u t : State} {a0 : ℕ} {a1 : ℕ} (ht : execCommit a0 a1 u = .next t) :
    OnlyChanges [.ports, .queues, .groups, .events, .stats] u t := by
  unfold execCommit at ht
  first | refine whenRunning_only ht ?_ | refine whenAlive_only ht ?_ | (injection ht with ht; subst ht)
  repeat' first
    | with_reducible assumption
    | with_reducible apply OnlyChanges.refl
    | (with_reducible apply OnlyChanges.step State.modOp_only; on_goal 2 => decide)
    | (with_reducible apply OnlyChanges.step State.refuseStep_only; on_goal 2 => decide)
    | (with_reducible apply OnlyChanges.step State.checkReleased_only; on_goal 2 => decide)
    | with_reducible apply only_ite
    | split

theorem execAppliedVote_only {u t : State} {a0 : ℕ} (ht : execAppliedVote a0 u = .next t) :
    OnlyChanges [.ports, .groups, .events, .stats] u t := by
  unfold execAppliedVote at ht
  first | refine whenRunning_only ht ?_ | refine whenAlive_only ht ?_ | (injection ht with ht; subst ht)
  repeat' first
    | with_reducible assumption
    | with_reducible apply OnlyChanges.refl
    | (extract_lets +onlyGivenNames y; first | (apply only_cut (v := y); (on_goal 2 => (intro hy; clear_value y)); subst y) | clear_value y | subst y)
    | (with_reducible apply OnlyChanges.step State.modGroup_only; on_goal 2 => decide)
    | (with_reducible apply OnlyChanges.step State.modRecord_only; on_goal 2 => decide)
    | (with_reducible apply OnlyChanges.step State.giveOperand_only; on_goal 2 => decide)
    | with_reducible apply only_ite

theorem execStepDiscard_only {u t : State} {a0 : ℕ} {a1 : ℕ} (ht : execStepDiscard a0 a1 u = .next t) :
    OnlyChanges [.ports, .books, .host, .queues, .groups, .buckets, .staging, .stack, .badUnits, .events, .stats] u t
          := by
  unfold execStepDiscard at ht
  first | refine whenRunning_only ht ?_ | refine whenAlive_only ht ?_ | (injection ht with ht; subst ht)
  repeat' first
    | with_reducible assumption
    | with_reducible apply OnlyChanges.refl
    | (with_reducible apply State.asGroup_only; (on_goal 3 => decide); (on_goal 2 => intro _))
    | (with_reducible apply OnlyChanges.step State.askDiscard_only; on_goal 2 => decide)

theorem execStepHoldWrite_only {u t : State} {a0 : ℕ} {a1 : ℕ} {a2 : Word32} (ht : execStepHoldWrite a0 a1 a2 u =
      .next t) :
    OnlyChanges [.ports, .books, .host, .queues, .groups, .events, .stats] u t := by
  unfold execStepHoldWrite at ht
  first | refine whenRunning_only ht ?_ | refine whenAlive_only ht ?_ | (injection ht with ht; subst ht)
  repeat' first
    | with_reducible assumption
    | with_reducible apply OnlyChanges.refl
    | (with_reducible apply State.asGroup_only; (on_goal 3 => decide); (on_goal 2 => intro _))
    | (with_reducible apply OnlyChanges.step State.setHold_only; on_goal 2 => decide)

theorem execGroupStepWrite_only {u t : State} {a0 : ℕ} {a1 : ℕ} {a2 : Word64} (ht : execGroupStepWrite a0 a1 a2 u =
      .next t) :
    OnlyChanges [.host, .groups, .events, .stats] u t := by
  unfold execGroupStepWrite at ht
  first | refine whenRunning_only ht ?_ | refine whenAlive_only ht ?_ | (injection ht with ht; subst ht)
  repeat' first
    | with_reducible assumption
    | with_reducible apply OnlyChanges.refl
    | (with_reducible apply OnlyChanges.step State.setGroupStep_only; on_goal 2 => decide)
    | (with_reducible apply State.asGroup_only; (on_goal 3 => decide); (on_goal 2 => intro _))

theorem execDiagStart_only {u t : State} {a0 : ℕ} {a1 : ℕ} (ht : execDiagStart a0 a1 u = .next t) :
    OnlyChanges [.host, .groups, .events, .stats] u t := by
  unfold execDiagStart at ht
  first | refine whenRunning_only ht ?_ | refine whenAlive_only ht ?_ | (injection ht with ht; subst ht)
  repeat' first
    | with_reducible assumption
    | with_reducible apply OnlyChanges.refl
    | (with_reducible apply State.asGroup_only; (on_goal 3 => decide); (on_goal 2 => intro _))
    | (with_reducible apply OnlyChanges.step State.startDiag_only; on_goal 2 => decide)

end Sys2Proof.Machine
end

