-- ==== Sys2Proof/Laws/Frame3.lean ====
section
/-! SUPPORT. Frame lemmas, part 3 of 8: for each operation and command, the parts of the state that it can change. -/

namespace Sys2Proof.Machine

open Sys2Proof State

set_option linter.unreachableTactic false
set_option linter.unusedTactic false

theorem State.mismatch_only {u : State} {a1 : ℕ} :
    OnlyChanges [.ports, .groups, .events, .stats] u (State.mismatch u a1) := by
  unfold State.mismatch
  repeat' first
    | with_reducible assumption
    | with_reducible apply OnlyChanges.refl
    | (with_reducible apply OnlyChanges.step State.abortGroup_only; on_goal 2 => decide)
    | (with_reducible apply OnlyChanges.step State.bumpG_only; on_goal 2 => decide)

theorem State.startExpress_only {u : State} {a1 : ℕ} {a2 : ℕ} {a3 : ℕ} :
    OnlyChanges [.ports, .queues, .groups, .events, .stats] u (State.startExpress u a1 a2 a3) := by
  unfold State.startExpress
  repeat' first
    | with_reducible assumption
    | with_reducible apply OnlyChanges.refl
    | (with_reducible apply OnlyChanges.step State.modOp_only; on_goal 2 => decide)
    | (with_reducible apply OnlyChanges.step State.refuseStep_only; on_goal 2 => decide)
    | (with_reducible apply OnlyChanges.step State.mismatch_only; on_goal 2 => decide)
    | (with_reducible apply OnlyChanges.step State.giveOperand_only; on_goal 2 => decide)
    | with_reducible apply only_ite
    | split

theorem State.checkMismatch_only {u : State} {a1 : Msg} :
    OnlyChanges [.ports, .groups, .events, .stats] u (State.checkMismatch u a1) := by
  unfold State.checkMismatch
  repeat' first
    | with_reducible assumption
    | with_reducible apply OnlyChanges.refl
    | (with_reducible apply OnlyChanges.step State.mismatch_only; on_goal 2 => decide)
    | with_reducible apply only_ite
    | split

theorem State.routeVerdict_only {u : State} {a1 : Msg} {a2 : OpView} {a3 : ℕ} :
    OnlyChanges [.ports, .groups] u (State.routeVerdict u a1 a2 a3) := by
  unfold State.routeVerdict
  repeat' first
    | with_reducible assumption
    | with_reducible apply OnlyChanges.refl
    | (extract_lets +onlyGivenNames y; first | (apply only_cut (v := y); (on_goal 2 => (intro hy; clear_value y)); subst y) | clear_value y | subst y)
    | (with_reducible apply OnlyChanges.step State.modCtx_only; on_goal 2 => decide)
    | (with_reducible apply OnlyChanges.step State.forwardVerdict_only; on_goal 2 => decide)
    | (with_reducible apply OnlyChanges.step State.send_only; on_goal 2 => decide)
    | with_reducible apply only_ite

theorem State.receiveVerdict_only {u : State} {a1 : ℕ} {a2 : Word64} {a3 : Bool} :
    OnlyChanges [.ports, .groups, .events, .stats] u (State.receiveVerdict u a1 a2 a3) := by
  unfold State.receiveVerdict
  repeat' first
    | with_reducible assumption
    | with_reducible apply OnlyChanges.refl
    | (extract_lets +onlyGivenNames y; first | (apply only_cut (v := y); (on_goal 2 => (intro hy; clear_value y)); subst y) | (apply only_cut (v := y.1); (on_goal 2 => (intro hy; clear_value y)); subst y) | clear_value y | subst y)
    | (with_reducible apply OnlyChanges.step State.takeMsg_only; on_goal 2 => decide)
    | (with_reducible apply OnlyChanges.step State.bumpPort_only; on_goal 2 => decide)
    | (with_reducible apply OnlyChanges.step State.routeVerdict_only; on_goal 2 => decide)
    | with_reducible apply only_ite
    | with_reducible apply only_ite_fst
    | split
    | dsimp only

theorem State.pollReady_only {u : State} {a1 : ℕ} :
    OnlyChanges [.ports, .groups, .events, .stats] u (State.pollReady u a1) := by
  unfold State.pollReady
  repeat' first
    | with_reducible assumption
    | with_reducible apply OnlyChanges.refl
    | (with_reducible apply OnlyChanges.step State.giveOperand_only; on_goal 2 => decide)
    | with_reducible apply only_ite
    | (with_reducible apply only_foldl; on_goal 2 => intro _ _ _)

theorem State.pollReadyAll_only {u : State}  :
    OnlyChanges [.ports, .groups, .events, .stats] u (State.pollReadyAll u) := by
  unfold State.pollReadyAll
  repeat' first
    | with_reducible assumption
    | with_reducible apply OnlyChanges.refl
    | (with_reducible apply OnlyChanges.step State.pollReady_only; on_goal 2 => decide)
    | (with_reducible apply only_foldl; on_goal 2 => intro _ _ _)

theorem State.readyEffect_only {u : State} {a1 : ℕ} {a2 : ℕ} {a3 : ℕ} :
    OnlyChanges [.queues, .groups, .events, .stats] u (State.readyEffect u a1 a2 a3) := by
  unfold State.readyEffect
  repeat' first
    | with_reducible assumption
    | with_reducible apply OnlyChanges.refl
    | (extract_lets +onlyGivenNames y; first | (apply only_cut (v := y); (on_goal 2 => (intro hy; clear_value y)); subst y) | clear_value y | subst y)
    | (with_reducible apply OnlyChanges.step State.modGroup_only; on_goal 2 => decide)
    | (with_reducible apply OnlyChanges.step State.bumpG_only; on_goal 2 => decide)
    | (with_reducible apply OnlyChanges.step State.modOp_only; on_goal 2 => decide)
    | (with_reducible apply OnlyChanges.step State.enterLedger_only; on_goal 2 => decide)
    | with_reducible apply only_ite
    | split

theorem State.endExpress_only {u : State} {a1 : ℕ} {a2 : ℕ} {a3 : ℕ} :
    OnlyChanges [.groups] u (State.endExpress u a1 a2 a3) := by
  unfold State.endExpress
  repeat' first
    | with_reducible assumption
    | with_reducible apply OnlyChanges.refl
    | (with_reducible apply OnlyChanges.step State.modExpress_only; on_goal 2 => decide)

theorem State.effectOf_only {u : State} {a1 : ℕ} {a2 : ℕ} {a3 : ℕ} {a4 : Express} :
    OnlyChanges [.queues, .groups, .events, .stats] u (State.effectOf u a1 a2 a3 a4) := by
  unfold State.effectOf
  repeat' first
    | with_reducible assumption
    | with_reducible apply OnlyChanges.refl
    | (extract_lets +onlyGivenNames y; first | (apply only_cut (v := y); (on_goal 2 => (intro hy; clear_value y)); subst y) | clear_value y | subst y)
    | (with_reducible apply OnlyChanges.step State.lateEffect_only; on_goal 2 => decide)
    | (with_reducible apply OnlyChanges.step State.complete_only; on_goal 2 => decide)
    | (with_reducible apply OnlyChanges.step State.readyEffect_only; on_goal 2 => decide)
    | (with_reducible apply OnlyChanges.step State.endExpress_only; on_goal 2 => decide)
    | (with_reducible apply OnlyChanges.step State.checkReleased_only; on_goal 2 => decide)
    | with_reducible apply only_ite
    | split

theorem State.expressEffect_only {u : State} {a1 : ℕ} {a2 : ℕ} {a3 : ℕ} :
    OnlyChanges [.queues, .groups, .events, .stats] u (State.expressEffect u a1 a2 a3) := by
  unfold State.expressEffect
  repeat' first
    | with_reducible assumption
    | with_reducible apply OnlyChanges.refl
    | (with_reducible apply OnlyChanges.step State.effectOf_only; on_goal 2 => decide)
    | with_reducible apply only_ite
    | split

theorem State.countStalled_only {u : State} {a1 : ℕ} {a2 : ℕ} {a3 : ℕ} :
    OnlyChanges [.events, .stats] u (State.countStalled u a1 a2 a3) := by
  unfold State.countStalled
  repeat' first
    | with_reducible assumption
    | with_reducible apply OnlyChanges.refl
    | (with_reducible apply OnlyChanges.step State.countLost_only; on_goal 2 => decide)
    | with_reducible apply only_ite
    | split

theorem State.loseStat_only {u : State} {a1 : ℕ} {a2 : ℕ} :
    OnlyChanges [.groups, .events, .stats] u (State.loseStat u a1 a2) := by
  unfold State.loseStat
  repeat' first
    | with_reducible assumption
    | with_reducible apply OnlyChanges.refl
    | (with_reducible apply OnlyChanges.step State.modExpress_only; on_goal 2 => decide)
    | (with_reducible apply OnlyChanges.step State.countLost_only; on_goal 2 => decide)

theorem execBarrier_only {u t : State} {a0 : ℕ} {a1 : ℕ} (ht : execBarrier a0 a1 u = .next t) :
    OnlyChanges [.ports, .queues, .groups, .events, .stats] u t := by
  unfold execBarrier at ht
  first | refine whenRunning_only ht ?_ | refine whenAlive_only ht ?_ | (injection ht with ht; subst ht)
  repeat' first
    | with_reducible assumption
    | with_reducible apply OnlyChanges.refl
    | (with_reducible apply OnlyChanges.step State.startExpress_only; on_goal 2 => decide)

theorem execScalar_only {u t : State} {a0 : ℕ} {a1 : ℕ} (ht : execScalar a0 a1 u = .next t) :
    OnlyChanges [.ports, .queues, .groups, .events, .stats] u t := by
  unfold execScalar at ht
  first | refine whenRunning_only ht ?_ | refine whenAlive_only ht ?_ | (injection ht with ht; subst ht)
  repeat' first
    | with_reducible assumption
    | with_reducible apply OnlyChanges.refl
    | (with_reducible apply OnlyChanges.step State.startExpress_only; on_goal 2 => decide)

theorem execBarrierMessage_only {u t : State} {a0 : ℕ} {a1 : Word64} {a2 : Bool} (ht : execBarrierMessage a0 a1 a2 u =
      .next t) :
    OnlyChanges [.ports, .groups, .events, .stats] u t := by
  unfold execBarrierMessage at ht
  first | refine whenRunning_only ht ?_ | refine whenAlive_only ht ?_ | (injection ht with ht; subst ht)
  repeat' first
    | with_reducible assumption
    | with_reducible apply OnlyChanges.refl
    | (with_reducible apply State.receiveStandard_only; (on_goal 3 => decide); (on_goal 2 => intro _ _))
    | (with_reducible apply OnlyChanges.step State.checkMismatch_only; on_goal 2 => decide)

theorem execScalarMessage_only {u t : State} {a0 : ℕ} {a1 : Word64} {a2 : Bool} (ht : execScalarMessage a0 a1 a2 u =
      .next t) :
    OnlyChanges [.ports, .groups, .events, .stats] u t := by
  unfold execScalarMessage at ht
  first | refine whenRunning_only ht ?_ | refine whenAlive_only ht ?_ | (injection ht with ht; subst ht)
  repeat' first
    | with_reducible assumption
    | with_reducible apply OnlyChanges.refl
    | (with_reducible apply State.receiveStandard_only; (on_goal 3 => decide); (on_goal 2 => intro _ _))
    | (with_reducible apply OnlyChanges.step State.checkMismatch_only; on_goal 2 => decide)

theorem execStatMessage_only {u t : State} {a0 : ℕ} {a1 : Word64} {a2 : Bool} (ht : execStatMessage a0 a1 a2 u = .next
      t) :
    OnlyChanges [.ports, .groups, .events, .stats] u t := by
  unfold execStatMessage at ht
  first | refine whenRunning_only ht ?_ | refine whenAlive_only ht ?_ | (injection ht with ht; subst ht)
  repeat' first
    | with_reducible assumption
    | with_reducible apply OnlyChanges.refl
    | (with_reducible apply State.receiveStandard_only; (on_goal 3 => decide); (on_goal 2 => intro _ _))

theorem execVerdictMessage_only {u t : State} {a0 : ℕ} {a1 : Word64} {a2 : Bool} (ht : execVerdictMessage a0 a1 a2 u =
      .next t) :
    OnlyChanges [.ports, .groups, .events, .stats] u t := by
  unfold execVerdictMessage at ht
  first | refine whenRunning_only ht ?_ | refine whenAlive_only ht ?_ | (injection ht with ht; subst ht)
  repeat' first
    | with_reducible assumption
    | with_reducible apply OnlyChanges.refl
    | (with_reducible apply OnlyChanges.step State.receiveVerdict_only; on_goal 2 => decide)

theorem execCommitMessage_only {u t : State} {a0 : ℕ} {a1 : Word64} {a2 : Bool} (ht : execCommitMessage a0 a1 a2 u =
      .next t) :
    OnlyChanges [.ports, .groups, .events, .stats] u t := by
  unfold execCommitMessage at ht
  first | refine whenRunning_only ht ?_ | refine whenAlive_only ht ?_ | (injection ht with ht; subst ht)
  repeat' first
    | with_reducible assumption
    | with_reducible apply OnlyChanges.refl
    | (with_reducible apply State.receiveStandard_only; (on_goal 3 => decide); (on_goal 2 => intro _ _))

theorem execReadyMessage_only {u t : State} {a0 : ℕ} {a1 : Word64} {a2 : Bool} (ht : execReadyMessage a0 a1 a2 u =
      .next t) :
    OnlyChanges [.ports, .groups, .events, .stats] u t := by
  unfold execReadyMessage at ht
  first | refine whenRunning_only ht ?_ | refine whenAlive_only ht ?_ | (injection ht with ht; subst ht)
  repeat' first
    | with_reducible assumption
    | with_reducible apply OnlyChanges.refl
    | (with_reducible apply State.receiveStandard_only; (on_goal 3 => decide); (on_goal 2 => intro _ _))
    | (with_reducible apply OnlyChanges.step State.pollReady_only; on_goal 2 => decide)

theorem execOpenMessage_only {u t : State} {a0 : ℕ} {a1 : Word64} {a2 : Bool} (ht : execOpenMessage a0 a1 a2 u = .next
      t) :
    OnlyChanges [.ports, .books, .queues, .groups, .events, .stats] u t := by
  unfold execOpenMessage at ht
  first | refine whenRunning_only ht ?_ | refine whenAlive_only ht ?_ | (injection ht with ht; subst ht)
  repeat' first
    | with_reducible assumption
    | with_reducible apply OnlyChanges.refl
    | (with_reducible apply OnlyChanges.step State.openOperand_only; on_goal 2 => decide)
    | (with_reducible apply OnlyChanges.step State.tryEnterOpen_only; on_goal 2 => decide)
    | (with_reducible apply State.receiveStandard_only; (on_goal 3 => decide); (on_goal 2 => intro _ _))

theorem execSlipBarrierTimeout_only {u t : State} {a0 : ℕ} {a1 : ℕ} (ht : execSlipBarrierTimeout a0 a1 u = .next t) :
    OnlyChanges [.ports, .groups, .events, .stats] u t := by
  unfold execSlipBarrierTimeout at ht
  first | refine whenRunning_only ht ?_ | refine whenAlive_only ht ?_ | (injection ht with ht; subst ht)
  repeat' first
    | with_reducible assumption
    | with_reducible apply OnlyChanges.refl
    | (with_reducible apply OnlyChanges.step State.abortGroup_only; on_goal 2 => decide)
    | (with_reducible apply OnlyChanges.step State.countStalled_only; on_goal 2 => decide)
    | with_reducible apply only_ite
    | split

theorem execFoldTimeout_only {u t : State} {a0 : ℕ} {a1 : ℕ} (ht : execFoldTimeout a0 a1 u = .next t) :
    OnlyChanges [.ports, .groups] u t := by
  unfold execFoldTimeout at ht
  first | refine whenRunning_only ht ?_ | refine whenAlive_only ht ?_ | (injection ht with ht; subst ht)
  repeat' first
    | with_reducible assumption
    | with_reducible apply OnlyChanges.refl
    | (with_reducible apply OnlyChanges.step State.abortGroup_only; on_goal 2 => decide)
    | with_reducible apply only_ite
    | split

theorem execOpenTimeout_only {u t : State} {a0 : ℕ} (ht : execOpenTimeout a0 u = .next t) :
    OnlyChanges [.ports, .groups, .events, .stats] u t := by
  unfold execOpenTimeout at ht
  first | refine whenRunning_only ht ?_ | refine whenAlive_only ht ?_ | (injection ht with ht; subst ht)
  repeat' first
    | with_reducible assumption
    | with_reducible apply OnlyChanges.refl
    | (with_reducible apply OnlyChanges.step State.abortGroup_only; on_goal 2 => decide)
    | (with_reducible apply OnlyChanges.step State.countStalled_only; on_goal 2 => decide)
    | (with_reducible apply OnlyChanges.step State.bump_only; on_goal 2 => decide)
    | with_reducible apply only_ite
    | split

theorem execExpressHoldTimeout_only {u t : State} {a0 : ℕ} {a1 : ℕ} {a2 : ℕ} (ht : execExpressHoldTimeout a0 a1 a2 u =
      .next t) :
    OnlyChanges [.ports, .groups, .events, .stats] u t := by
  unfold execExpressHoldTimeout at ht
  first | refine whenRunning_only ht ?_ | refine whenAlive_only ht ?_ | (injection ht with ht; subst ht)
  repeat' first
    | with_reducible assumption
    | with_reducible apply OnlyChanges.refl
    | (with_reducible apply OnlyChanges.step State.abortGroup_only; on_goal 2 => decide)
    | (with_reducible apply OnlyChanges.step State.countLost_only; on_goal 2 => decide)
    | with_reducible apply only_ite
    | split

theorem execCommitHoldTimeout_only {u t : State} {a0 : ℕ} (ht : execCommitHoldTimeout a0 u = .next t) :
    OnlyChanges [.ports, .groups, .events, .stats] u t := by
  unfold execCommitHoldTimeout at ht
  first | refine whenRunning_only ht ?_ | refine whenAlive_only ht ?_ | (injection ht with ht; subst ht)
  repeat' first
    | with_reducible assumption
    | with_reducible apply OnlyChanges.refl
    | (extract_lets +onlyGivenNames y; first | (apply only_cut (v := y); (on_goal 2 => (intro hy; clear_value y)); subst y) | clear_value y | subst y)
    | (with_reducible apply OnlyChanges.step State.abortGroup_only; on_goal 2 => decide)
    | (with_reducible apply OnlyChanges.step State.bumpG_only; on_goal 2 => decide)
    | (with_reducible apply OnlyChanges.step State.countLost_only; on_goal 2 => decide)
    | with_reducible apply only_ite
    | split

theorem execBroadcastLossTimeout_only {u t : State} {a0 : ℕ} {a1 : ℕ} {a2 : ℕ} (ht : execBroadcastLossTimeout a0 a1 a2
      u = .next t) :
    OnlyChanges [.ports, .groups, .events, .stats] u t := by
  unfold execBroadcastLossTimeout at ht
  first | refine whenRunning_only ht ?_ | refine whenAlive_only ht ?_ | (injection ht with ht; subst ht)
  repeat' first
    | with_reducible assumption
    | with_reducible apply OnlyChanges.refl
    | (with_reducible apply OnlyChanges.step State.abortGroup_only; on_goal 2 => decide)
    | (with_reducible apply OnlyChanges.step State.loseStat_only; on_goal 2 => decide)
    | (with_reducible apply OnlyChanges.step State.countLost_only; on_goal 2 => decide)
    | with_reducible apply only_ite
    | split

theorem State.sendVc3_only {u : State} {a1 : ℕ} {a2 : ℕ} {a3 : ℕ} {a4 : ℕ} {a5 : Bytes} :
    OnlyChanges [.ports] u (State.sendVc3 u a1 a2 a3 a4 a5) := by
  unfold State.sendVc3
  repeat' first
    | with_reducible assumption
    | with_reducible apply OnlyChanges.refl
    | (with_reducible apply OnlyChanges.step State.modPort_only; on_goal 2 => decide)

theorem State.askRepeat_only {u : State} {a1 : ℕ} {a2 : ℕ} :
    OnlyChanges [.ports] u (State.askRepeat u a1 a2) := by
  unfold State.askRepeat
  repeat' first
    | with_reducible assumption
    | with_reducible apply OnlyChanges.refl
    | (with_reducible apply OnlyChanges.step State.modPort_only; on_goal 2 => decide)
    | with_reducible apply only_ite

theorem State.keepRequest_only {u : State} {a1 : ℕ} {a2 : ℕ} {a3 : ℕ} :
    OnlyChanges [.ports, .events, .stats] u (State.keepRequest u a1 a2 a3) := by
  unfold State.keepRequest
  repeat' first
    | with_reducible assumption
    | with_reducible apply OnlyChanges.refl
    | with_reducible refine only_fun1 (by assumption) ?_
    | (extract_lets +onlyGivenNames y; first | (apply only_cut (v := y); (on_goal 2 => (intro hy; clear_value y)); subst y) | (apply only_cut_fun1 y; (on_goal 2 => (intro hfun; clear_value y)); (intro _; subst y; beta_reduce)) | clear_value y | subst y)
    | (with_reducible apply OnlyChanges.step State.modPort_only; on_goal 2 => decide)
    | (with_reducible apply OnlyChanges.step State.bumpPort_only; on_goal 2 => decide)
    | with_reducible apply only_ite
    | split

theorem State.collectRequest_only {u : State} {a1 : ℕ} {a2 : Bytes} :
    OnlyChanges [.ports, .events, .stats] u (State.collectRequest u a1 a2) := by
  unfold State.collectRequest
  repeat' first
    | with_reducible assumption
    | with_reducible apply OnlyChanges.refl
    | (extract_lets +onlyGivenNames y; first | (apply only_cut (v := y); (on_goal 2 => (intro hy; clear_value y)); subst y) | clear_value y | subst y)
    | (with_reducible apply OnlyChanges.step State.modPort_only; on_goal 2 => decide)
    | (with_reducible apply OnlyChanges.step State.bumpPort_only; on_goal 2 => decide)
    | (with_reducible apply OnlyChanges.step State.keepRequest_only; on_goal 2 => decide)
    | with_reducible apply only_ite
    | split

theorem State.modBlock_only {u : State} {a1 : ℕ} {a2 : ℕ} {a3 : Vc1Rx → Vc1Rx} :
    OnlyChanges [.blockRx] u (State.modBlock u a1 a2 a3) := by
  unfold State.modBlock
  repeat' first
    | with_reducible assumption
    | with_reducible apply OnlyChanges.refl
    | ((with_reducible apply only_blockRx (h1 := by decide)); first | with_reducible assumption | with_reducible exact OnlyChanges.refl)

theorem State.failBlock_only {u : State} {a1 : ℕ} {a2 : ℕ} {a3 : List ℕ} :
    OnlyChanges [.ports, .groups, .blockRx, .events, .stats] u (State.failBlock u a1 a2 a3) := by
  unfold State.failBlock
  repeat' first
    | with_reducible assumption
    | with_reducible apply OnlyChanges.refl
    | (extract_lets +onlyGivenNames y; first | (apply only_cut (v := y); (on_goal 2 => (intro hy; clear_value y)); subst y) | clear_value y | subst y)
    | (with_reducible apply OnlyChanges.step State.abortGroup_only; on_goal 2 => decide)
    | (with_reducible apply OnlyChanges.step State.modBlock_only; on_goal 2 => decide)
    | (with_reducible apply OnlyChanges.step State.countMissing_only; on_goal 2 => decide)
    | with_reducible apply only_ite
    | split

theorem State.failBlocks_only {u : State} {a1 : ℕ} :
    OnlyChanges [.ports, .groups, .blockRx, .events, .stats] u (State.failBlocks u a1) := by
  unfold State.failBlocks
  repeat' first
    | with_reducible assumption
    | with_reducible apply OnlyChanges.refl
    | (extract_lets +onlyGivenNames y; first | (apply only_cut (v := y); (on_goal 2 => (intro hy; clear_value y)); subst y) | clear_value y | subst y)
    | (with_reducible apply OnlyChanges.step State.failBlock_only; on_goal 2 => decide)
    | with_reducible apply only_ite
    | (with_reducible apply only_foldl; on_goal 2 => intro _ _ _)

theorem State.withCell_only {u s : State} {a1 : ℕ} {a2 : ℕ} {a3 : Bytes} {f4 : State → CellFields → State} {P : List
      Part} (h : OnlyChanges P s u) (hf4 : ∀ v w0, OnlyChanges P v (f4 v w0)) (hP : ∀ p ∈ ([.ports, .events, .stats] :
      List Part), p ∈ P) :
    OnlyChanges P s (State.withCell u a1 a2 a3 f4) := by
  apply OnlyChanges.trans h
  unfold State.withCell
  repeat' first
    | with_reducible assumption
    | with_reducible apply OnlyChanges.refl
    | (extract_lets +onlyGivenNames y; first | (apply only_cut (v := y); (on_goal 2 => (intro hy; clear_value y)); subst y) | clear_value y | subst y)
    | (with_reducible apply OnlyChanges.step State.bumpPort_only; on_goal 2 => exact fun p hp => hP p (by revert p hp; decide))
    | (with_reducible apply OnlyChanges.step State.collectRequest_only; on_goal 2 => exact fun p hp => hP p (by revert p hp; decide))
    | with_reducible apply OnlyChanges.trans' (hf4 _ _)
    | with_reducible apply only_ite

theorem State.sendCell_only {u : State} {a1 : ℕ} {a2 : RecoveryCell} {a3 : Option ℕ} :
    OnlyChanges [.ports] u (State.sendCell u a1 a2 a3) := by
  unfold State.sendCell
  repeat' first
    | with_reducible assumption
    | with_reducible apply OnlyChanges.refl
    | (with_reducible apply OnlyChanges.step State.sendVc3_only; on_goal 2 => decide)
    | (with_reducible apply only_foldl; on_goal 2 => intro _ _ _)

theorem State.sendMessage_only {u : State} {a1 : ℕ} {a2 : ℕ} {a3 : RecoveryCell} {a4 : List ℕ} :
    OnlyChanges [.ports, .groups] u (State.sendMessage u a1 a2 a3 a4) := by
  unfold State.sendMessage
  repeat' first
    | with_reducible assumption
    | with_reducible apply OnlyChanges.refl
    | (extract_lets +onlyGivenNames y; first | (apply only_cut (v := y); (on_goal 2 => (intro hy; clear_value y)); subst y) | clear_value y | subst y)
    | (with_reducible apply OnlyChanges.step State.modGroup_only; on_goal 2 => decide)
    | (with_reducible apply OnlyChanges.step State.sendCell_only; on_goal 2 => decide)
    | (with_reducible apply only_foldl; on_goal 2 => intro _ _ _)

theorem State.lateRelease_only {u : State} {a1 : ℕ} {a2 : List ℕ} {a3 : ℕ} :
    OnlyChanges [.out, .power, .ports, .groups, .badUnits, .units, .events, .stats, .maint] u (State.lateRelease u a1
          a2 a3) := by
  unfold State.lateRelease
  repeat' first
    | with_reducible assumption
    | with_reducible apply OnlyChanges.refl
    | with_reducible refine only_fun1 (by assumption) ?_
    | (extract_lets +onlyGivenNames y; first | (apply only_cut (v := y); (on_goal 2 => (intro hy; clear_value y)); subst y) | (apply only_cut_fun1 y; (on_goal 2 => (intro hfun; clear_value y)); (intro _; subst y; beta_reduce)) | clear_value y | subst y)
    | (with_reducible apply OnlyChanges.step State.bumpG_only; on_goal 2 => decide)
    | (with_reducible apply OnlyChanges.step State.addCounts_only; on_goal 2 => decide)
    | (with_reducible apply State.withRedelivery_only; (on_goal 3 => decide); (on_goal 2 => intro _))
    | (with_reducible apply OnlyChanges.step State.release_only; on_goal 2 => decide)
    | with_reducible apply only_ite
    | split

theorem State.conflict_only {u : State} {a1 : ℕ} {a2 : ℕ} {a3 : ℕ} :
    OnlyChanges [.groups, .events, .stats] u (State.conflict u a1 a2 a3) := by
  unfold State.conflict
  repeat' first
    | with_reducible assumption
    | with_reducible apply OnlyChanges.refl
    | (extract_lets +onlyGivenNames y; first | (apply only_cut (v := y); (on_goal 2 => (intro hy; clear_value y)); subst y) | clear_value y | subst y)
    | (with_reducible apply OnlyChanges.step State.modGroup_only; on_goal 2 => decide)
    | (with_reducible apply OnlyChanges.step State.bump_only; on_goal 2 => decide)
    | (with_reducible apply OnlyChanges.step State.raise_only; on_goal 2 => decide)

theorem State.forgetLost_only {u : State} {a1 : ℕ} {a2 : Decision} :
    OnlyChanges [.groups] u (State.forgetLost u a1 a2) := by
  unfold State.forgetLost
  repeat' first
    | with_reducible assumption
    | with_reducible apply OnlyChanges.refl
    | (extract_lets +onlyGivenNames y; first | (apply only_cut (v := y); (on_goal 2 => (intro hy; clear_value y)); subst y) | clear_value y | subst y)
    | (with_reducible apply OnlyChanges.step State.modGroup_only; on_goal 2 => decide)
    | with_reducible apply only_ite

theorem State.acknowledge_only {u : State} {a1 : ℕ} {a2 : Decision} {a3 : List ℕ} :
    OnlyChanges [.out, .power, .ports, .groups, .stack, .badUnits, .units, .events, .stats, .maint] u
          (State.acknowledge u a1 a2 a3) := by
  unfold State.acknowledge
  repeat' first
    | with_reducible assumption
    | with_reducible apply OnlyChanges.refl
    | (extract_lets +onlyGivenNames y; first | (apply only_cut (v := y); (on_goal 2 => (intro hy; clear_value y)); subst y) | clear_value y | subst y)
    | (with_reducible apply OnlyChanges.step State.modGroup_only; on_goal 2 => decide)
    | (with_reducible apply OnlyChanges.step State.zeroBadUnits_only; on_goal 2 => decide)
    | (with_reducible apply OnlyChanges.step State.modRecord_only; on_goal 2 => decide)
    | (with_reducible apply OnlyChanges.step State.forgetLost_only; on_goal 2 => decide)
    | (with_reducible apply OnlyChanges.step State.sendMessage_only; on_goal 2 => decide)
    | (with_reducible apply OnlyChanges.step State.lateRelease_only; on_goal 2 => decide)
    | with_reducible apply only_ite
    | (with_reducible apply only_foldl; on_goal 2 => intro _ _ _)

theorem State.takeDecide_only {u : State} {a1 : ℕ} {a2 : Decision} {a3 : List ℕ} :
    OnlyChanges [.out, .power, .ports, .groups, .stack, .badUnits, .units, .events, .stats, .maint] u
          (State.takeDecide u a1 a2 a3) := by
  unfold State.takeDecide
  repeat' first
    | with_reducible assumption
    | with_reducible apply OnlyChanges.refl
    | (extract_lets +onlyGivenNames y; first | (apply only_cut (v := y); (on_goal 2 => (intro hy; clear_value y)); subst y) | clear_value y | subst y)
    | (with_reducible apply OnlyChanges.step State.modGroup_only; on_goal 2 => decide)
    | (with_reducible apply OnlyChanges.step State.conflict_only; on_goal 2 => decide)
    | (with_reducible apply OnlyChanges.step State.acknowledge_only; on_goal 2 => decide)
    | with_reducible apply only_ite
    | split

theorem State.sendDecide_only {u : State} {a1 : ℕ} {a2 : ℕ} {a3 : ℕ} {a4 : ℕ} :
    OnlyChanges [.out, .power, .ports, .groups, .stack, .badUnits, .units, .events, .stats, .maint] u
          (State.sendDecide u a1 a2 a3 a4) := by
  unfold State.sendDecide
  repeat' first
    | with_reducible assumption
    | with_reducible apply OnlyChanges.refl
    | (extract_lets +onlyGivenNames y; first | (apply only_cut (v := y); (on_goal 2 => (intro hy; clear_value y)); subst y) | clear_value y | subst y)
    | (with_reducible apply OnlyChanges.step State.takeDecide_only; on_goal 2 => decide)
    | (with_reducible apply OnlyChanges.step State.sendMessage_only; on_goal 2 => decide)

theorem State.decideAuto_only {u : State} {a1 : ℕ} {a2 : ℕ} {a3 : ℕ} :
    OnlyChanges [.out, .power, .ports, .groups, .stack, .badUnits, .units, .events, .stats, .maint] u
          (State.decideAuto u a1 a2 a3) := by
  unfold State.decideAuto
  repeat' first
    | with_reducible assumption
    | with_reducible apply OnlyChanges.refl
    | (with_reducible apply OnlyChanges.step State.sendDecide_only; on_goal 2 => decide)

theorem State.choose_only {u : State} {a1 : ℕ} {a2 : List ℕ} :
    OnlyChanges [.out, .power, .ports, .groups, .stack, .badUnits, .units, .events, .stats, .maint] u (State.choose u
          a1 a2) := by
  unfold State.choose
  repeat' first
    | with_reducible assumption
    | with_reducible apply OnlyChanges.refl
    | with_reducible refine only_fun1 (by assumption) ?_
    | (extract_lets +onlyGivenNames y; first | (apply only_cut (v := y); (on_goal 2 => (intro hy; clear_value y)); subst y) | (apply only_cut_fun1 y; (on_goal 2 => (intro hfun; clear_value y)); (intro _; subst y; beta_reduce)) | clear_value y | subst y)
    | (with_reducible apply OnlyChanges.step State.modGroup_only; on_goal 2 => decide)
    | (with_reducible apply OnlyChanges.step State.decideAuto_only; on_goal 2 => decide)
    | with_reducible apply only_ite
    | split

theorem State.coordinate_only {u : State} {a1 : ℕ} :
    OnlyChanges [.out, .power, .ports, .groups, .stack, .badUnits, .units, .events, .stats, .maint] u
          (State.coordinate u a1) := by
  unfold State.coordinate
  repeat' first
    | with_reducible assumption
    | with_reducible apply OnlyChanges.refl
    | (extract_lets +onlyGivenNames y; first | (apply only_cut (v := y); (on_goal 2 => (intro hy; clear_value y)); subst y) | clear_value y | subst y)
    | (with_reducible apply OnlyChanges.step State.modGroup_only; on_goal 2 => decide)
    | (with_reducible apply OnlyChanges.step State.choose_only; on_goal 2 => decide)
    | (with_reducible apply OnlyChanges.step State.decideAuto_only; on_goal 2 => decide)
    | with_reducible apply only_ite
    | split

theorem State.sendPropose_only {u : State} {a1 : ℕ} {a2 : ℕ} {a3 : ℕ} :
    OnlyChanges [.ports, .groups] u (State.sendPropose u a1 a2 a3) := by
  unfold State.sendPropose
  repeat' first
    | with_reducible assumption
    | with_reducible apply OnlyChanges.refl
    | (extract_lets +onlyGivenNames y; first | (apply only_cut (v := y); (on_goal 2 => (intro hy; clear_value y)); subst y) | clear_value y | subst y)
    | (with_reducible apply OnlyChanges.step State.modGroup_only; on_goal 2 => decide)
    | (with_reducible apply OnlyChanges.step State.sendMessage_only; on_goal 2 => decide)
    | with_reducible apply only_ite

theorem State.lostCommit_only {u : State} {a1 : ℕ} {a2 : ℕ} {a3 : ℕ} :
    OnlyChanges [.ports, .books, .queues, .groups, .buckets, .staging, .events, .stats] u (State.lostCommit u a1 a2
          a3) := by
  unfold State.lostCommit
  repeat' first
    | with_reducible assumption
    | with_reducible apply OnlyChanges.refl
    | (extract_lets +onlyGivenNames y; first | (apply only_cut (v := y); (on_goal 2 => (intro hy; clear_value y)); subst y) | clear_value y | subst y)
    | (with_reducible apply OnlyChanges.step State.modGroup_only; on_goal 2 => decide)
    | (with_reducible apply OnlyChanges.step State.modRecord_only; on_goal 2 => decide)
    | (with_reducible apply OnlyChanges.step State.commitStep_only; on_goal 2 => decide)
    | (with_reducible apply OnlyChanges.step State.sendPropose_only; on_goal 2 => decide)
    | with_reducible apply only_ite

theorem State.takeRound_only {u : State} {a1 : ℕ} {a2 : ℕ} :
    OnlyChanges [.groups] u (State.takeRound u a1 a2) := by
  unfold State.takeRound
  repeat' first
    | with_reducible assumption
    | with_reducible apply OnlyChanges.refl
    | (extract_lets +onlyGivenNames y; first | (apply only_cut (v := y); (on_goal 2 => (intro hy; clear_value y)); subst y) | clear_value y | subst y)
    | (with_reducible apply OnlyChanges.step State.modGroup_only; on_goal 2 => decide)
    | with_reducible apply only_ite

theorem State.takeCell_only {u : State} {a1 : ℕ} {a2 : RecoveryCell} :
    OnlyChanges [.ports, .groups] u (State.takeCell u a1 a2).1 := by
  unfold State.takeCell
  repeat' first
    | with_reducible assumption
    | with_reducible apply OnlyChanges.refl
    | (extract_lets +onlyGivenNames y; first | (apply only_cut (v := y); (on_goal 2 => (intro hy; clear_value y)); subst y) | (apply only_cut (v := y.1); (on_goal 2 => (intro hy; clear_value y)); subst y) | clear_value y | subst y)
    | (with_reducible apply OnlyChanges.step State.modGroup_only; on_goal 2 => decide)
    | (with_reducible apply OnlyChanges.step State.sendCell_only; on_goal 2 => decide)
    | (with_reducible apply OnlyChanges.step State.takeRound_only; on_goal 2 => decide)
    | with_reducible apply only_ite
    | with_reducible apply only_ite_fst
    | dsimp only

theorem State.actOn_only {u : State} {a1 : ℕ} {a2 : RecoveryCell} {a3 : List ℕ} :
    OnlyChanges [.out, .power, .ports, .groups, .stack, .badUnits, .units, .events, .stats, .maint] u (State.actOn u
          a1 a2 a3) := by
  unfold State.actOn
  repeat' first
    | with_reducible assumption
    | with_reducible apply OnlyChanges.refl
    | (extract_lets +onlyGivenNames y; first | (apply only_cut (v := y); (on_goal 2 => (intro hy; clear_value y)); subst y) | clear_value y | subst y)
    | (with_reducible apply OnlyChanges.step State.takeDecide_only; on_goal 2 => decide)
    | (with_reducible apply OnlyChanges.step State.conflict_only; on_goal 2 => decide)
    | (with_reducible apply OnlyChanges.step State.coordinate_only; on_goal 2 => decide)
    | with_reducible apply only_ite
    | split

theorem State.sendCensus_only {u : State} {a1 : ℕ} {a2 : ℕ} :
    OnlyChanges [.ports, .groups] u (State.sendCensus u a1 a2) := by
  unfold State.sendCensus
  repeat' first
    | with_reducible assumption
    | with_reducible apply OnlyChanges.refl
    | (extract_lets +onlyGivenNames y; first | (apply only_cut (v := y); (on_goal 2 => (intro hy; clear_value y)); subst y) | clear_value y | subst y)
    | (with_reducible apply OnlyChanges.step State.sendMessage_only; on_goal 2 => decide)

theorem State.receiveCell_only {u : State} {a1 : ℕ} {a2 : RecoveryCell} {a3 : List ℕ} :
    OnlyChanges (.out :: .power :: .ports :: .books :: .queues :: .groups :: .buckets :: .staging :: .stack ::
          .badUnits :: .units :: .events :: .stats :: .maint :: []) u (State.receiveCell u a1 a2 a3) := by
  unfold State.receiveCell
  repeat' first
    | with_reducible assumption
    | with_reducible apply OnlyChanges.refl
    | (extract_lets +onlyGivenNames y; first | (apply only_cut (v := y); (on_goal 2 => (intro hy; clear_value y)); subst y) | (apply only_cut (v := y.1); (on_goal 2 => (intro hy; clear_value y)); subst y) | clear_value y | subst y)
    | (with_reducible apply OnlyChanges.step State.sendCensus_only; on_goal 2 => decide)
    | (with_reducible apply OnlyChanges.step State.takeCell_only; on_goal 2 => decide)
    | (with_reducible apply OnlyChanges.step State.actOn_only; on_goal 2 => decide)
    | (with_reducible apply OnlyChanges.step State.lostCommit_only; on_goal 2 => decide)
    | with_reducible apply only_ite
    | with_reducible apply only_ite_fst
    | dsimp only

theorem State.receiveRecovery_only {u : State} {a1 : ℕ} {a2 : ℕ} {a3 : Bytes} {a4 : List ℕ} :
    OnlyChanges (.out :: .power :: .ports :: .books :: .queues :: .groups :: .buckets :: .staging :: .stack ::
          .badUnits :: .units :: .events :: .stats :: .maint :: []) u (State.receiveRecovery u a1 a2 a3 a4) := by
  unfold State.receiveRecovery
  repeat' first
    | with_reducible assumption
    | with_reducible apply OnlyChanges.refl
    | (with_reducible apply State.withCell_only; (on_goal 3 => decide); (on_goal 2 => intro _ _))
    | (with_reducible apply OnlyChanges.step State.receiveCell_only; on_goal 2 => decide)
    | with_reducible apply only_ite

theorem State.noteAbort_only {u : State} {a1 : ℕ} {a2 : ℕ × ℕ} :
    OnlyChanges [.queues, .groups, .events] u (State.noteAbort u a1 a2) := by
  unfold State.noteAbort
  repeat' first
    | with_reducible assumption
    | with_reducible apply OnlyChanges.refl
    | (extract_lets +onlyGivenNames y; first | (apply only_cut (v := y); (on_goal 2 => (intro hy; clear_value y)); subst y) | clear_value y | subst y)
    | (with_reducible apply OnlyChanges.step State.modGroup_only; on_goal 2 => decide)
    | (with_reducible apply OnlyChanges.step State.modRecord_only; on_goal 2 => decide)
    | (with_reducible apply OnlyChanges.step State.raise_only; on_goal 2 => decide)
    | (with_reducible apply OnlyChanges.step State.modQueue_only; on_goal 2 => decide)
    | with_reducible apply only_ite

theorem State.reportAbort_only {u : State} {a1 : ℕ} {a2 : AbortState} :
    OnlyChanges [.out, .power, .ports, .queues, .groups, .staging, .stack, .badUnits, .units, .events, .stats, .maint]
          u (State.reportAbort u a1 a2) := by
  unfold State.reportAbort
  repeat' first
    | with_reducible assumption
    | with_reducible apply OnlyChanges.refl
    | (extract_lets +onlyGivenNames y; first | (apply only_cut (v := y); (on_goal 2 => (intro hy; clear_value y)); subst y) | clear_value y | subst y)
    | (with_reducible apply OnlyChanges.step State.modGroup_only; on_goal 2 => decide)
    | (with_reducible apply OnlyChanges.step State.sendCensus_only; on_goal 2 => decide)
    | (with_reducible apply OnlyChanges.step State.coordinate_only; on_goal 2 => decide)
    | (with_reducible apply OnlyChanges.step State.clearStaging_only; on_goal 2 => decide)
    | (with_reducible apply OnlyChanges.step State.noteAbort_only; on_goal 2 => decide)
    | (with_reducible apply OnlyChanges.step State.sendPropose_only; on_goal 2 => decide)
    | with_reducible apply only_ite

theorem State.enterRecovery_only {u : State} {a1 : ℕ} {a2 : ℕ} {a3 : List ℕ} :
    OnlyChanges [.groups, .events] u (State.enterRecovery u a1 a2 a3) := by
  unfold State.enterRecovery
  repeat' first
    | with_reducible assumption
    | with_reducible apply OnlyChanges.refl
    | (extract_lets +onlyGivenNames y; first | (apply only_cut (v := y); (on_goal 2 => (intro hy; clear_value y)); subst y) | clear_value y | subst y)
    | (with_reducible apply OnlyChanges.step State.enterLedger_only; on_goal 2 => decide)

theorem State.noteReplaced_only {u : State} {a1 : ℕ} {a2 : List ℕ} :
    OnlyChanges [.events, .stats] u (State.noteReplaced u a1 a2) := by
  unfold State.noteReplaced
  repeat' first
    | with_reducible assumption
    | with_reducible apply OnlyChanges.refl
    | (extract_lets +onlyGivenNames y; first | (apply only_cut (v := y); (on_goal 2 => (intro hy; clear_value y)); subst y) | clear_value y | subst y)
    | (with_reducible apply OnlyChanges.step State.bumpG_only; on_goal 2 => decide)
    | (with_reducible apply OnlyChanges.step State.raise_only; on_goal 2 => decide)
    | with_reducible apply only_ite
    | (with_reducible apply only_foldl; on_goal 2 => intro _ _ _)

theorem State.resumeAt_only {u : State} {a1 : Nat} {a2 : Decision} :
    OnlyChanges (.power :: .ports :: .books :: .queues :: .groups :: .buckets :: .stack :: .badUnits :: .blockCount :: .blockRx :: .events :: .stats :: .maint :: []) u (State.resumeAt u a1 a2) := by
  unfold State.resumeAt
  extract_lets old joins byCtrl before s1 s2 _r s3 s4
  have h1 : OnlyChanges (.power :: .ports :: .books :: .queues :: .groups :: .buckets :: .stack :: .badUnits :: .blockCount :: .blockRx :: .events :: .stats :: .maint :: []) u s1 := State.modGroup_only.step .refl (by decide)
  have h2 : OnlyChanges (.power :: .ports :: .books :: .queues :: .groups :: .buckets :: .stack :: .badUnits :: .blockCount :: .blockRx :: .events :: .stats :: .maint :: []) u s2 := only_ite (State.establishFresh_only.step h1 (by decide)) h1
  have h3 : OnlyChanges (.power :: .ports :: .books :: .queues :: .groups :: .buckets :: .stack :: .badUnits :: .blockCount :: .blockRx :: .events :: .stats :: .maint :: []) u s3 :=
    only_ite h2 (State.resetBlocks_only.step (only_maint h2 (by decide)) (by decide))
  have h4 : OnlyChanges (.power :: .ports :: .books :: .queues :: .groups :: .buckets :: .stack :: .badUnits :: .blockCount :: .blockRx :: .events :: .stats :: .maint :: []) u s4 := State.noteReplaced_only.step (State.enterRecovery_only.step h3 (by decide)) (by decide)
  exact only_ite (State.refuseOpen_only.step (State.modGroup_only.step h4 (by decide)) (by decide))
    (State.askWake_only.step (State.enterOpen_only.step h4 (by decide)) (by decide))

theorem State.endArm_only {u : State} {a1 : ℕ} :
    OnlyChanges [.groups] u (State.endArm u a1) := by
  unfold State.endArm
  repeat' first
    | with_reducible assumption
    | with_reducible apply OnlyChanges.refl
    | (extract_lets +onlyGivenNames y; first | (apply only_cut (v := y); (on_goal 2 => (intro hy; clear_value y)); subst y) | clear_value y | subst y)
    | (with_reducible apply OnlyChanges.step State.modGroup_only; on_goal 2 => decide)

theorem State.leaveOut_only {u : State} {a1 : ℕ} {a2 : ℕ} :
    OnlyChanges [.groups, .maint] u (State.leaveOut u a1 a2) := by
  unfold State.leaveOut
  repeat' first
    | with_reducible assumption
    | with_reducible apply OnlyChanges.refl
    | (extract_lets +onlyGivenNames y; first | (apply only_cut (v := y); (on_goal 2 => (intro hy; clear_value y)); subst y) | clear_value y | subst y)
    | (with_reducible apply OnlyChanges.step State.endArm_only; on_goal 2 => decide)
    | (with_reducible apply OnlyChanges.step State.modGroup_only; on_goal 2 => decide)
    | with_reducible apply only_ite
    | ((with_reducible apply only_maint (h1 := by decide)); first | with_reducible assumption | with_reducible exact OnlyChanges.refl)

theorem State.copyChunk_only {u : State} {a1 : List ℕ} {a2 : ImgBucket} {a3 : ℕ} :
    OnlyChanges [.power, .stack, .badUnits, .events, .stats, .maint] u (State.copyChunk u a1 a2 a3) := by
  unfold State.copyChunk
  repeat' first
    | with_reducible assumption
    | with_reducible apply OnlyChanges.refl
    | (extract_lets +onlyGivenNames y; first | (apply only_cut (v := y); (on_goal 2 => (intro hy; clear_value y)); subst y) | clear_value y | subst y)
    | (with_reducible apply OnlyChanges.step State.writeUnits_only; on_goal 2 => decide)
    | (with_reducible apply OnlyChanges.step State.markBad_only; on_goal 2 => decide)
    | (with_reducible apply OnlyChanges.step State.noteBad_only; on_goal 2 => decide)
    | ((with_reducible apply only_stack (h1 := by decide)); first | with_reducible assumption | with_reducible exact OnlyChanges.refl)

theorem State.copyReleased_only {u : State} {a1 : List ℕ} {a2 : ImgBucket} {a3 : List ℕ} :
    OnlyChanges [.power, .stack, .badUnits, .events, .stats, .maint] u (State.copyReleased u a1 a2 a3) := by
  unfold State.copyReleased
  repeat' first
    | with_reducible assumption
    | with_reducible apply OnlyChanges.refl
    | (with_reducible apply OnlyChanges.step State.copyChunk_only; on_goal 2 => decide)
    | (with_reducible apply only_foldl; on_goal 2 => intro _ _ _)

theorem State.skipStep_only {u : State} {a1 : ℕ} {a2 : StackReads} :
    OnlyChanges [.power, .ports, .books, .queues, .groups, .buckets, .staging, .stack, .badUnits, .events, .stats,
          .maint] u (State.skipStep u a1 a2) := by
  unfold State.skipStep
  repeat' first
    | with_reducible assumption
    | with_reducible apply OnlyChanges.refl
    | (extract_lets +onlyGivenNames y; first | (apply only_cut (v := y); (on_goal 2 => (intro hy; clear_value y)); subst y) | clear_value y | subst y)
    | (with_reducible apply OnlyChanges.step State.modGroup_only; on_goal 2 => decide)
    | (with_reducible apply OnlyChanges.step State.endStepOps_only; on_goal 2 => decide)
    | (with_reducible apply OnlyChanges.step State.freeStep_only; on_goal 2 => decide)
    | (with_reducible apply OnlyChanges.step State.tryEnterOpen_only; on_goal 2 => decide)
    | (with_reducible apply OnlyChanges.step State.copyReleased_only; on_goal 2 => decide)
    | (with_reducible apply OnlyChanges.step State.flipSelector_only; on_goal 2 => decide)
    | (with_reducible apply OnlyChanges.step State.readStack_only; on_goal 2 => decide)
    | (with_reducible apply OnlyChanges.step State.enterLedger_only; on_goal 2 => decide)
    | (with_reducible apply OnlyChanges.step State.dropStepOps_only; on_goal 2 => decide)
    | with_reducible apply only_ite
    | (with_reducible apply only_foldl; on_goal 2 => intro _ _ _)

theorem State.endConflict_only {u : State} {a1 : ℕ} :
    OnlyChanges [.ports, .books, .queues, .groups, .events, .stats] u (State.endConflict u a1) := by
  unfold State.endConflict
  repeat' first
    | with_reducible assumption
    | with_reducible apply OnlyChanges.refl
    | (extract_lets +onlyGivenNames y; first | (apply only_cut (v := y); (on_goal 2 => (intro hy; clear_value y)); subst y) | clear_value y | subst y)
    | (with_reducible apply OnlyChanges.step State.modGroup_only; on_goal 2 => decide)
    | (with_reducible apply OnlyChanges.step State.tryEnterOpen_only; on_goal 2 => decide)

theorem State.recoveryCtrl_only {u : State} {a1 : ℕ} {a2 : ℕ} :
    OnlyChanges [.out, .power, .ports, .groups, .stack, .badUnits, .units, .events, .stats, .maint] u
          (State.recoveryCtrl u a1 a2) := by
  unfold State.recoveryCtrl
  repeat' first
    | with_reducible assumption
    | with_reducible apply OnlyChanges.refl
    | (extract_lets +onlyGivenNames y; first | (apply only_cut (v := y); (on_goal 2 => (intro hy; clear_value y)); subst y) | clear_value y | subst y)
    | (with_reducible apply OnlyChanges.step State.modGroup_only; on_goal 2 => decide)
    | (with_reducible apply OnlyChanges.step State.takeDecide_only; on_goal 2 => decide)
    | (with_reducible apply OnlyChanges.step State.conflict_only; on_goal 2 => decide)
    | (with_reducible apply OnlyChanges.step State.sendDecide_only; on_goal 2 => decide)
    | with_reducible apply only_ite
    | split

theorem State.holdsForHash_only {u : State} {a1 : ℕ} {a2 : ℕ × ℕ} :
    OnlyChanges [.ports, .groups, .events, .stats] u (State.holdsForHash u a1 a2) := by
  unfold State.holdsForHash
  repeat' first
    | with_reducible assumption
    | with_reducible apply OnlyChanges.refl
    | (with_reducible apply OnlyChanges.step State.bump_only; on_goal 2 => decide)
    | (with_reducible apply OnlyChanges.step State.keepToken_only; on_goal 2 => decide)
    | (with_reducible apply OnlyChanges.step State.send_only; on_goal 2 => decide)
    | with_reducible apply only_ite

theorem execAbortToken_only {u t : State} {a0 : ℕ} {a1 : Word64} {a2 : Bool} (ht : execAbortToken a0 a1 a2 u = .next
      t) :
    OnlyChanges [.ports, .groups, .events, .stats] u t := by
  unfold execAbortToken at ht
  first | refine whenRunning_only ht ?_ | refine whenAlive_only ht ?_ | (injection ht with ht; subst ht)
  repeat' first
    | with_reducible assumption
    | with_reducible apply OnlyChanges.refl
    | (extract_lets +onlyGivenNames y; first | (apply only_cut (v := y); (on_goal 2 => (intro hy; clear_value y)); subst y) | (apply only_cut (v := y.1); (on_goal 2 => (intro hy; clear_value y)); subst y) | clear_value y | subst y)
    | (with_reducible apply OnlyChanges.step State.modGroup_only; on_goal 2 => decide)
    | (with_reducible apply OnlyChanges.step State.holdsForHash_only; on_goal 2 => decide)
    | (with_reducible apply OnlyChanges.step State.keepToken_only; on_goal 2 => decide)
    | (with_reducible apply OnlyChanges.step State.takeMsg_only; on_goal 2 => decide)
    | (with_reducible apply OnlyChanges.step State.send_only; on_goal 2 => decide)
    | with_reducible apply only_ite
    | with_reducible apply only_ite_fst
    | split
    | dsimp only

theorem execAbortReport_only {u t : State} {a0 : ℕ} (ht : execAbortReport a0 u = .next t) :
    OnlyChanges [.out, .power, .ports, .queues, .groups, .staging, .stack, .badUnits, .units, .events, .stats, .maint]
          u t := by
  unfold execAbortReport at ht
  first | refine whenRunning_only ht ?_ | refine whenAlive_only ht ?_ | (injection ht with ht; subst ht)
  repeat' first
    | with_reducible assumption
    | with_reducible apply OnlyChanges.refl
    | (with_reducible apply OnlyChanges.step State.reportAbort_only; on_goal 2 => decide)
    | with_reducible apply only_ite
    | split

theorem execAbortResend_only {u t : State} {a0 : ℕ} (ht : execAbortResend a0 u = .next t) :
    OnlyChanges [.ports, .groups, .events, .stats] u t := by
  unfold execAbortResend at ht
  first | refine whenRunning_only ht ?_ | refine whenAlive_only ht ?_ | (injection ht with ht; subst ht)
  repeat' first
    | with_reducible assumption
    | with_reducible apply OnlyChanges.refl
    | (with_reducible apply OnlyChanges.step State.modGroup_only; on_goal 2 => decide)
    | (with_reducible apply OnlyChanges.step State.countLost_only; on_goal 2 => decide)
    | (with_reducible apply OnlyChanges.step State.send_only; on_goal 2 => decide)
    | with_reducible apply only_ite
    | split

theorem execPropose_only {u t : State} {a0 : ℕ} {a1 : Bytes} (ht : execPropose a0 a1 u = .next t) :
    OnlyChanges (.out :: .power :: .ports :: .books :: .queues :: .groups :: .buckets :: .staging :: .stack ::
          .badUnits :: .units :: .events :: .stats :: .maint :: []) u t := by
  unfold execPropose at ht
  first | refine whenRunning_only ht ?_ | refine whenAlive_only ht ?_ | (injection ht with ht; subst ht)
  repeat' first
    | with_reducible assumption
    | with_reducible apply OnlyChanges.refl
    | (with_reducible apply OnlyChanges.step State.receiveRecovery_only; on_goal 2 => decide)

theorem execCensus_only {u t : State} {a0 : ℕ} {a1 : Bytes} (ht : execCensus a0 a1 u = .next t) :
    OnlyChanges (.out :: .power :: .ports :: .books :: .queues :: .groups :: .buckets :: .staging :: .stack ::
          .badUnits :: .units :: .events :: .stats :: .maint :: []) u t := by
  unfold execCensus at ht
  first | refine whenRunning_only ht ?_ | refine whenAlive_only ht ?_ | (injection ht with ht; subst ht)
  repeat' first
    | with_reducible assumption
    | with_reducible apply OnlyChanges.refl
    | (with_reducible apply OnlyChanges.step State.receiveRecovery_only; on_goal 2 => decide)

theorem execDecide_only {u t : State} {a0 : ℕ} {a1 : Bytes} {a2 : StackReads} (ht : execDecide a0 a1 a2 u = .next t) :
    OnlyChanges (.out :: .power :: .ports :: .books :: .queues :: .groups :: .buckets :: .staging :: .stack ::
          .badUnits :: .units :: .events :: .stats :: .maint :: []) u t := by
  unfold execDecide at ht
  first | refine whenRunning_only ht ?_ | refine whenAlive_only ht ?_ | (injection ht with ht; subst ht)
  repeat' first
    | with_reducible assumption
    | with_reducible apply OnlyChanges.refl
    | (with_reducible apply OnlyChanges.step State.receiveRecovery_only; on_goal 2 => decide)
    | (with_reducible apply OnlyChanges.step State.readStack_only; on_goal 2 => decide)

theorem execAck_only {u t : State} {a0 : ℕ} {a1 : Bytes} (ht : execAck a0 a1 u = .next t) :
    OnlyChanges (.out :: .power :: .ports :: .books :: .queues :: .groups :: .buckets :: .staging :: .stack ::
          .badUnits :: .units :: .events :: .stats :: .maint :: []) u t := by
  unfold execAck at ht
  first | refine whenRunning_only ht ?_ | refine whenAlive_only ht ?_ | (injection ht with ht; subst ht)
  repeat' first
    | with_reducible assumption
    | with_reducible apply OnlyChanges.refl
    | (with_reducible apply OnlyChanges.step State.receiveRecovery_only; on_goal 2 => decide)

theorem execCoordinatorDeadline_only {u t : State} {a0 : ℕ} (ht : execCoordinatorDeadline a0 u = .next t) :
    OnlyChanges [.out, .power, .ports, .groups, .stack, .badUnits, .units, .events, .stats, .maint] u t := by
  unfold execCoordinatorDeadline at ht
  first | refine whenRunning_only ht ?_ | refine whenAlive_only ht ?_ | (injection ht with ht; subst ht)
  repeat' first
    | with_reducible assumption
    | with_reducible apply OnlyChanges.refl
    | (with_reducible apply OnlyChanges.step State.choose_only; on_goal 2 => decide)
    | with_reducible apply only_ite
    | split

theorem execRejoinWaitExpiry_only {u t : State} {a0 : ℕ} (ht : execRejoinWaitExpiry a0 u = .next t) :
    OnlyChanges [.out, .power, .ports, .groups, .stack, .badUnits, .units, .events, .stats, .maint] u t := by
  unfold execRejoinWaitExpiry at ht
  first | refine whenRunning_only ht ?_ | refine whenAlive_only ht ?_ | (injection ht with ht; subst ht)
  repeat' first
    | with_reducible assumption
    | with_reducible apply OnlyChanges.refl
    | (extract_lets +onlyGivenNames y; first | (apply only_cut (v := y); (on_goal 2 => (intro hy; clear_value y)); subst y) | clear_value y | subst y)
    | (with_reducible apply OnlyChanges.step State.decideAuto_only; on_goal 2 => decide)
    | with_reducible apply only_ite
    | split

theorem State.takeResume_only {u : State} {a1 : ℕ} {a2 : Decision} :
    OnlyChanges (.out :: .power :: .ports :: .books :: .queues :: .groups :: .buckets :: .stack :: .badUnits :: .units
          :: .blockCount :: .blockRx :: .events :: .stats :: .maint :: []) u (State.takeResume u a1 a2) := by
  unfold State.takeResume
  repeat' first
    | with_reducible assumption
    | with_reducible apply OnlyChanges.refl
    | (with_reducible apply OnlyChanges.step State.endArm_only; on_goal 2 => decide)
    | (with_reducible apply OnlyChanges.step State.acknowledge_only; on_goal 2 => decide)
    | (with_reducible apply OnlyChanges.step State.resumeAt_only; on_goal 2 => decide)
    | (with_reducible apply OnlyChanges.step State.leaveOut_only; on_goal 2 => decide)
    | with_reducible apply only_ite
    | split

theorem State.takeSkip_only {u : State} {a1 : ℕ} {a2 : Decision} {a3 : StackReads} :
    OnlyChanges (.out :: .power :: .ports :: .books :: .queues :: .groups :: .buckets :: .staging :: .stack ::
          .badUnits :: .units :: .events :: .stats :: .maint :: []) u (State.takeSkip u a1 a2 a3) := by
  unfold State.takeSkip
  repeat' first
    | with_reducible assumption
    | with_reducible apply OnlyChanges.refl
    | (extract_lets +onlyGivenNames y; first | (apply only_cut (v := y); (on_goal 2 => (intro hy; clear_value y)); subst y) | clear_value y | subst y)
    | (with_reducible apply OnlyChanges.step State.endArm_only; on_goal 2 => decide)
    | (with_reducible apply OnlyChanges.step State.skipStep_only; on_goal 2 => decide)
    | (with_reducible apply OnlyChanges.step State.acknowledge_only; on_goal 2 => decide)
    | with_reducible apply only_ite

theorem execSkipClose_only {u t : State} {a0 : SkipClose} (ht : execSkipClose a0 u = .next t) :
    OnlyChanges (.out :: .power :: .ports :: .books :: .queues :: .groups :: .buckets :: .staging :: .stack ::
          .badUnits :: .units :: .events :: .stats :: .maint :: []) u t := by
  unfold execSkipClose at ht
  first | refine whenRunning_only ht ?_ | refine whenAlive_only ht ?_ | (injection ht with ht; subst ht)
  repeat' first
    | with_reducible assumption
    | with_reducible apply OnlyChanges.refl
    | (with_reducible apply OnlyChanges.step State.takeSkip_only; on_goal 2 => decide)
    | (with_reducible apply OnlyChanges.step State.endConflict_only; on_goal 2 => decide)
    | with_reducible apply only_ite
    | split

theorem execRecoveryCtrlArm_only {u t : State} {a0 : ℕ} {a1 : ℕ} {a2 : Word32} (ht : execRecoveryCtrlArm a0 a1 a2 u =
      .next t) :
    OnlyChanges [.out, .power, .ports, .host, .groups, .stack, .badUnits, .units, .events, .stats, .maint] u t := by
  unfold execRecoveryCtrlArm at ht
  first | refine whenRunning_only ht ?_ | refine whenAlive_only ht ?_ | (injection ht with ht; subst ht)
  repeat' first
    | with_reducible assumption
    | with_reducible apply OnlyChanges.refl
    | (with_reducible apply OnlyChanges.step State.recoveryCtrl_only; on_goal 2 => decide)
    | (with_reducible apply State.asGroup_only; (on_goal 3 => decide); (on_goal 2 => intro _))

theorem execDiagDone_only {u t : State} {a0 : ℕ} {a1 : DiagReads} (ht : execDiagDone a0 a1 u = .next t) :
    OnlyChanges [.out, .power, .ports, .groups, .stack, .badUnits, .units, .events, .stats, .maint] u t := by
  unfold execDiagDone at ht
  first | refine whenRunning_only ht ?_ | refine whenAlive_only ht ?_ | (injection ht with ht; subst ht)
  repeat' first
    | with_reducible assumption
    | with_reducible apply OnlyChanges.refl
    | (extract_lets +onlyGivenNames y; first | (apply only_cut (v := y); (on_goal 2 => (intro hy; clear_value y)); subst y) | clear_value y | subst y)
    | (with_reducible apply OnlyChanges.step State.modGroup_only; on_goal 2 => decide)
    | (with_reducible apply OnlyChanges.step State.takeDecide_only; on_goal 2 => decide)
    | (with_reducible apply OnlyChanges.step State.readStack_only; on_goal 2 => decide)
    | (with_reducible apply OnlyChanges.step State.reportDiag_only; on_goal 2 => decide)
    | with_reducible apply only_ite
    | split

theorem State.calWr_only {u : State} {a1 : ℕ} {a2 : Bytes} :
    OnlyChanges [.cal] u (State.calWr u a1 a2) := by
  unfold State.calWr
  repeat' first
    | with_reducible assumption
    | with_reducible apply OnlyChanges.refl
    | (extract_lets +onlyGivenNames y; first | (apply only_cut (v := y); (on_goal 2 => (intro hy; clear_value y)); subst y) | clear_value y | subst y)
    | with_reducible apply only_ite
    | ((with_reducible apply only_cal (h1 := by decide)); first | with_reducible assumption | with_reducible exact OnlyChanges.refl)

theorem State.dropDelay_only {u : State} {a1 : ℕ} :
    OnlyChanges [.cal] u (State.dropDelay u a1) := by
  unfold State.dropDelay
  repeat' first
    | with_reducible assumption
    | with_reducible apply OnlyChanges.refl
    | (extract_lets +onlyGivenNames y; first | (apply only_cut (v := y); (on_goal 2 => (intro hy; clear_value y)); subst y) | clear_value y | subst y)
    | (with_reducible apply OnlyChanges.step State.calWr_only; on_goal 2 => decide)

theorem State.loadCal_only {u : State}  :
    OnlyChanges [.power, .time, .cal, .events] u (State.loadCal u) := by
  unfold State.loadCal
  repeat' first
    | with_reducible assumption
    | with_reducible apply OnlyChanges.refl
    | (extract_lets +onlyGivenNames y; first | (apply only_cut (v := y); (on_goal 2 => (intro hy; clear_value y)); subst y) | (have hy : TimeState := y; clear hy; subst y) | clear_value y | subst y)
    | (with_reducible apply OnlyChanges.step State.raise_only; on_goal 2 => decide)
    | with_reducible apply only_ite
    | ((with_reducible apply only_still_cal (h1 := by decide) (h2 := by decide)); (on_goal 2 => exact ⟨rfl, rfl, rfl, rfl⟩); first | with_reducible assumption | with_reducible exact OnlyChanges.refl)
    | ((with_reducible apply only_power (h1 := by decide)); first | with_reducible assumption | with_reducible exact OnlyChanges.refl)

theorem State.applyTemps_only {u : State} {a1 : CompValues} :
    OnlyChanges [.cal] u (State.applyTemps u a1) := by
  unfold State.applyTemps
  repeat' first
    | with_reducible assumption
    | with_reducible apply OnlyChanges.refl
    | (extract_lets +onlyGivenNames y; first | (apply only_cut (v := y); (on_goal 2 => (intro hy; clear_value y)); subst y) | clear_value y | subst y)
    | with_reducible apply only_ite
    | ((with_reducible apply only_cal (h1 := by decide)); first | with_reducible assumption | with_reducible exact OnlyChanges.refl)

theorem State.recompensate_only {u : State}  :
    OnlyChanges [.cal] u (State.recompensate u) := by
  unfold State.recompensate
  repeat' first
    | with_reducible assumption
    | with_reducible apply OnlyChanges.refl
    | (extract_lets +onlyGivenNames y; first | (apply only_cut (v := y); (on_goal 2 => (intro hy; clear_value y)); subst y) | clear_value y | subst y)
    | with_reducible apply only_ite
    | ((with_reducible apply only_cal (h1 := by decide)); first | with_reducible assumption | with_reducible exact OnlyChanges.refl)

theorem State.cutPps_only {u : State}  :
    OnlyChanges [.out, .time] u (State.cutPps u) := by
  unfold State.cutPps
  repeat' first
    | with_reducible assumption
    | with_reducible apply OnlyChanges.refl
    | (extract_lets +onlyGivenNames y; first | (apply only_cut (v := y); (on_goal 2 => (intro hy; clear_value y)); subst y) | (have hy : TimeState := y; clear hy; subst y) | clear_value y | subst y)
    | (with_reducible apply OnlyChanges.step State.emit_only; on_goal 2 => decide)
    | with_reducible apply only_ite
    | ((with_reducible apply only_still (h1 := by decide)); (on_goal 2 => exact ⟨rfl, rfl, rfl, rfl⟩); first | with_reducible assumption | with_reducible exact OnlyChanges.refl)
    | split

theorem State.setFrame_only {u : State}  :
    OnlyChanges [.out, .time] u (State.setFrame u) := by
  unfold State.setFrame
  repeat' first
    | with_reducible assumption
    | with_reducible apply OnlyChanges.refl
    | (extract_lets +onlyGivenNames y; first | (apply only_cut (v := y); (on_goal 2 => (intro hy; clear_value y)); subst y) | (have hy : TimeState := y; clear hy; subst y) | clear_value y | subst y)
    | (with_reducible apply OnlyChanges.step State.cutPps_only; on_goal 2 => decide)
    | with_reducible apply only_ite
    | ((with_reducible apply only_still (h1 := by decide)); (on_goal 2 => exact ⟨rfl, rfl, rfl, rfl⟩); first | with_reducible assumption | with_reducible exact OnlyChanges.refl)

theorem State.timeEvent_only {u : State} {a1 : Loop} {a2 : ℕ} {a3 : ℕ} {a4 : RefSource} {a5 : ℕ} :
    OnlyChanges [.events] u (State.timeEvent u a1 a2 a3 a4 a5) := by
  unfold State.timeEvent
  repeat' first
    | with_reducible assumption
    | with_reducible apply OnlyChanges.refl
    | (with_reducible apply OnlyChanges.step State.raise_only; on_goal 2 => decide)

theorem State.noteFreq_only {u : State}  :
    OnlyChanges [.time] u (State.noteFreq u) := by
  unfold State.noteFreq
  repeat' first
    | with_reducible assumption
    | with_reducible apply OnlyChanges.refl
    | (extract_lets +onlyGivenNames y; first | (apply only_cut (v := y); (on_goal 2 => (intro hy; clear_value y)); subst y) | (have hy : TimeState := y; clear hy; subst y) | clear_value y | subst y)
    | ((with_reducible apply only_still (h1 := by decide)); (on_goal 2 => exact ⟨rfl, rfl, rfl, rfl⟩); first | with_reducible assumption | with_reducible exact OnlyChanges.refl)

theorem State.enterLoop_only {u : State} {a1 : Loop} :
    OnlyChanges [.out, .time, .events, .stats] u (State.enterLoop u a1) := by
  unfold State.enterLoop
  repeat' first
    | with_reducible assumption
    | with_reducible apply OnlyChanges.refl
    | (extract_lets +onlyGivenNames y; first | (apply only_cut (v := y); (on_goal 2 => (intro hy; clear_value y)); subst y) | (have hy : TimeState := y; clear hy; subst y) | clear_value y | subst y)
    | (with_reducible apply OnlyChanges.step State.bump_only; on_goal 2 => decide)
    | (with_reducible apply OnlyChanges.step State.setFrame_only; on_goal 2 => decide)
    | (with_reducible apply OnlyChanges.step State.timeEvent_only; on_goal 2 => decide)
    | ((with_reducible apply only_still (h1 := by decide)); (on_goal 2 => exact ⟨rfl, rfl, rfl, rfl⟩); first | with_reducible assumption | with_reducible exact OnlyChanges.refl)
    | split

theorem State.loseReference_only {u : State}  :
    OnlyChanges [.out, .time, .events, .stats] u (State.loseReference u) := by
  unfold State.loseReference
  repeat' first
    | with_reducible assumption
    | with_reducible apply OnlyChanges.refl
    | (extract_lets +onlyGivenNames y; first | (apply only_cut (v := y); (on_goal 2 => (intro hy; clear_value y)); subst y) | (have hy : TimeState := y; clear hy; subst y) | clear_value y | subst y)
    | (with_reducible apply OnlyChanges.step State.enterLoop_only; on_goal 2 => decide)
    | with_reducible apply only_ite
    | ((with_reducible apply only_still (h1 := by decide)); (on_goal 2 => exact ⟨rfl, rfl, rfl, rfl⟩); first | with_reducible assumption | with_reducible exact OnlyChanges.refl)
    | split

theorem State.loseTimePort_only {u : State} {a1 : ℕ} :
    OnlyChanges [.out, .time, .events, .stats] u (State.loseTimePort u a1) := by
  unfold State.loseTimePort
  repeat' first
    | with_reducible assumption
    | with_reducible apply OnlyChanges.refl
    | (extract_lets +onlyGivenNames y; first | (apply only_cut (v := y); (on_goal 2 => (intro hy; clear_value y)); subst y) | clear_value y | subst y)
    | (with_reducible apply OnlyChanges.step State.enterLoop_only; on_goal 2 => decide)
    | (with_reducible apply OnlyChanges.step State.setTimePort_only; on_goal 2 => decide)
    | (with_reducible apply OnlyChanges.step State.loseReference_only; on_goal 2 => decide)
    | with_reducible apply only_ite

theorem State.memberLost_only {u : State} {a1 : ℕ} :
    OnlyChanges [.ports, .groups, .events, .stats] u (State.memberLost u a1) := by
  unfold State.memberLost
  repeat' first
    | with_reducible assumption
    | with_reducible apply OnlyChanges.refl
    | (extract_lets +onlyGivenNames y; first | (apply only_cut (v := y); (on_goal 2 => (intro hy; clear_value y)); subst y) | clear_value y | subst y)
    | (with_reducible apply OnlyChanges.step State.abortGroup_only; on_goal 2 => decide)
    | (with_reducible apply OnlyChanges.step State.modGroup_only; on_goal 2 => decide)
    | (with_reducible apply OnlyChanges.step State.bumpG_only; on_goal 2 => decide)
    | with_reducible apply only_ite
    | (with_reducible apply only_foldl; on_goal 2 => intro _ _ _)

theorem State.dropTokens_only {u : State} {a1 : Token → Bool} :
    OnlyChanges [.maint] u (State.dropTokens u a1) := by
  unfold State.dropTokens
  repeat' first
    | with_reducible assumption
    | with_reducible apply OnlyChanges.refl
    | (extract_lets +onlyGivenNames y; first | (apply only_cut (v := y); (on_goal 2 => (intro hy; clear_value y)); subst y) | clear_value y | subst y)
    | with_reducible apply only_ite
    | ((with_reducible apply only_maint (h1 := by decide)); first | with_reducible assumption | with_reducible exact OnlyChanges.refl)

theorem State.refreshPhi_only {u : State} {a1 : ℕ} :
    OnlyChanges [.ports] u (State.refreshPhi u a1) := by
  unfold State.refreshPhi
  repeat' first
    | with_reducible assumption
    | with_reducible apply OnlyChanges.refl
    | (with_reducible apply OnlyChanges.step State.modPort_only; on_goal 2 => decide)
    | with_reducible apply only_ite

theorem State.dropPortWork_only {u : State} {a1 : ℕ} :
    OnlyChanges [.ports, .events, .stats, .maint] u (State.dropPortWork u a1) := by
  unfold State.dropPortWork
  repeat' first
    | with_reducible assumption
    | with_reducible apply OnlyChanges.refl
    | (extract_lets +onlyGivenNames y; first | (apply only_cut (v := y); (on_goal 2 => (intro hy; clear_value y)); subst y) | clear_value y | subst y)
    | (with_reducible apply OnlyChanges.step State.modPort_only; on_goal 2 => decide)
    | (with_reducible apply OnlyChanges.step State.dropTokens_only; on_goal 2 => decide)
    | (with_reducible apply OnlyChanges.step State.bumpPort_only; on_goal 2 => decide)
    | with_reducible apply only_ite

theorem State.leaveTraining_only {u : State} {a1 : ℕ} {a2 : Link} :
    OnlyChanges [.out, .time, .ports, .groups, .events, .stats, .maint] u (State.leaveTraining u a1 a2) := by
  unfold State.leaveTraining
  repeat' first
    | with_reducible assumption
    | with_reducible apply OnlyChanges.refl
    | (extract_lets +onlyGivenNames y; first | (apply only_cut (v := y); (on_goal 2 => (intro hy; clear_value y)); subst y) | clear_value y | subst y)
    | (with_reducible apply OnlyChanges.step State.modPort_only; on_goal 2 => decide)
    | (with_reducible apply OnlyChanges.step State.loseTimePort_only; on_goal 2 => decide)
    | (with_reducible apply OnlyChanges.step State.memberLost_only; on_goal 2 => decide)
    | (with_reducible apply OnlyChanges.step State.bumpPort_only; on_goal 2 => decide)
    | (with_reducible apply OnlyChanges.step State.dropPortWork_only; on_goal 2 => decide)
    | with_reducible apply only_ite

end Sys2Proof.Machine
end

