-- ==== Sys2Proof/Laws/Frame4.lean ====
section
/-! SUPPORT. Frame lemmas, part 4 of 8: for each operation and command, the parts of the state that it can change. -/

namespace Sys2Proof.Machine

open Sys2Proof State

set_option linter.unreachableTactic false
set_option linter.unusedTactic false

theorem State.enterDiscover_only {u : State} {a1 : ℕ} :
    OnlyChanges [.ports] u (State.enterDiscover u a1) := by
  unfold State.enterDiscover
  repeat' first
    | with_reducible assumption
    | with_reducible apply OnlyChanges.refl
    | (extract_lets +onlyGivenNames y; first | (apply only_cut (v := y); (on_goal 2 => (intro hy; clear_value y)); subst y) | clear_value y | subst y)
    | (with_reducible apply OnlyChanges.step State.modPort_only; on_goal 2 => decide)

theorem State.enterQuarantine_only {u : State} {a1 : ℕ} {a2 : ℕ} :
    OnlyChanges [.out, .time, .ports, .events, .stats] u (State.enterQuarantine u a1 a2) := by
  unfold State.enterQuarantine
  repeat' first
    | with_reducible assumption
    | with_reducible apply OnlyChanges.refl
    | (extract_lets +onlyGivenNames y; first | (apply only_cut (v := y); (on_goal 2 => (intro hy; clear_value y)); subst y) | clear_value y | subst y)
    | (with_reducible apply OnlyChanges.step State.modPort_only; on_goal 2 => decide)
    | (with_reducible apply OnlyChanges.step State.loseTimePort_only; on_goal 2 => decide)
    | (with_reducible apply OnlyChanges.step State.enterDiscover_only; on_goal 2 => decide)
    | (with_reducible apply OnlyChanges.step State.raise_only; on_goal 2 => decide)
    | (with_reducible apply OnlyChanges.step State.bumpPort_only; on_goal 2 => decide)
    | with_reducible apply only_ite

theorem State.quarantine_only {u : State} {a1 : ℕ} {a2 : ℕ} :
    OnlyChanges [.out, .time, .ports, .events, .stats] u (State.quarantine u a1 a2) := by
  unfold State.quarantine
  repeat' first
    | with_reducible assumption
    | with_reducible apply OnlyChanges.refl
    | (with_reducible apply OnlyChanges.step State.modPort_only; on_goal 2 => decide)
    | (with_reducible apply OnlyChanges.step State.enterQuarantine_only; on_goal 2 => decide)
    | with_reducible apply only_ite
    | split

theorem State.quarantineNow_only {u : State} {a1 : ℕ} {a2 : ℕ} :
    OnlyChanges [.out, .time, .ports, .groups, .events, .stats] u (State.quarantineNow u a1 a2) := by
  unfold State.quarantineNow
  repeat' first
    | with_reducible assumption
    | with_reducible apply OnlyChanges.refl
    | (extract_lets +onlyGivenNames y; first | (apply only_cut (v := y); (on_goal 2 => (intro hy; clear_value y)); subst y) | clear_value y | subst y)
    | (with_reducible apply OnlyChanges.step State.abortGroup_only; on_goal 2 => decide)
    | (with_reducible apply OnlyChanges.step State.enterQuarantine_only; on_goal 2 => decide)
    | (with_reducible apply OnlyChanges.step State.bumpG_only; on_goal 2 => decide)
    | (with_reducible apply OnlyChanges.step State.memberLost_only; on_goal 2 => decide)
    | (with_reducible apply OnlyChanges.step State.abortGroups_only; on_goal 2 => decide)
    | with_reducible apply only_ite
    | (with_reducible apply only_foldl; on_goal 2 => intro _ _ _)

theorem State.quarantineDue_only {u : State} {a1 : ℕ} :
    OnlyChanges [.out, .time, .ports, .groups, .events, .stats] u (State.quarantineDue u a1) := by
  unfold State.quarantineDue
  repeat' first
    | with_reducible assumption
    | with_reducible apply OnlyChanges.refl
    | (with_reducible apply OnlyChanges.step State.quarantineNow_only; on_goal 2 => decide)
    | with_reducible apply only_ite
    | split

theorem State.withdraw_only {u : State}  :
    OnlyChanges [.ports] u (State.withdraw u) := by
  unfold State.withdraw
  repeat' first
    | with_reducible assumption
    | with_reducible apply OnlyChanges.refl
    | (with_reducible apply OnlyChanges.step State.modPort_only; on_goal 2 => decide)
    | (with_reducible apply OnlyChanges.step State.enterDiscover_only; on_goal 2 => decide)
    | with_reducible apply only_ite
    | (with_reducible apply only_foldl; on_goal 2 => intro _ _ _)

theorem State.refuseLatency_only {u : State} {a1 : ℕ} {a2 : ℕ} :
    OnlyChanges [.events, .stats] u (State.refuseLatency u a1 a2) := by
  unfold State.refuseLatency
  repeat' first
    | with_reducible assumption
    | with_reducible apply OnlyChanges.refl
    | (with_reducible apply OnlyChanges.step State.raise_only; on_goal 2 => decide)
    | (with_reducible apply OnlyChanges.step State.bumpPort_only; on_goal 2 => decide)

theorem State.enterAlign_only {u : State} {a1 : ℕ} :
    OnlyChanges [.out, .time, .ports, .events, .stats] u (State.enterAlign u a1) := by
  unfold State.enterAlign
  repeat' first
    | with_reducible assumption
    | with_reducible apply OnlyChanges.refl
    | (extract_lets +onlyGivenNames y; first | (apply only_cut (v := y); (on_goal 2 => (intro hy; clear_value y)); subst y) | clear_value y | subst y)
    | (with_reducible apply OnlyChanges.step State.modPort_only; on_goal 2 => decide)
    | (with_reducible apply OnlyChanges.step State.enterQuarantine_only; on_goal 2 => decide)
    | (with_reducible apply OnlyChanges.step State.refuseLatency_only; on_goal 2 => decide)
    | with_reducible apply only_ite

theorem State.checkLatency_only {u : State} {a1 : ℕ} :
    OnlyChanges [.out, .time, .ports, .events, .stats] u (State.checkLatency u a1) := by
  unfold State.checkLatency
  repeat' first
    | with_reducible assumption
    | with_reducible apply OnlyChanges.refl
    | (extract_lets +onlyGivenNames y; first | (apply only_cut (v := y); (on_goal 2 => (intro hy; clear_value y)); subst y) | clear_value y | subst y)
    | (with_reducible apply OnlyChanges.step State.quarantine_only; on_goal 2 => decide)
    | (with_reducible apply OnlyChanges.step State.refuseLatency_only; on_goal 2 => decide)
    | with_reducible apply only_ite
    | split

theorem State.tryAlign_only {u : State} {a1 : ℕ} :
    OnlyChanges [.out, .time, .ports, .events, .stats] u (State.tryAlign u a1) := by
  unfold State.tryAlign
  repeat' first
    | with_reducible assumption
    | with_reducible apply OnlyChanges.refl
    | (with_reducible apply OnlyChanges.step State.enterAlign_only; on_goal 2 => decide)
    | with_reducible apply only_ite

theorem State.needDelay_only {u : State} {a1 : ℕ} :
    OnlyChanges [.ports] u (State.needDelay u a1) := by
  unfold State.needDelay
  repeat' first
    | with_reducible assumption
    | with_reducible apply OnlyChanges.refl
    | (with_reducible apply OnlyChanges.step State.modPort_only; on_goal 2 => decide)
    | with_reducible apply only_ite

theorem State.recalibrated_only {u : State} {a1 : ℕ} :
    OnlyChanges [.time, .ports] u (State.recalibrated u a1) := by
  unfold State.recalibrated
  repeat' first
    | with_reducible assumption
    | with_reducible apply OnlyChanges.refl
    | (extract_lets +onlyGivenNames y; first | (apply only_cut (v := y); (on_goal 2 => (intro hy; clear_value y)); subst y) | clear_value y | subst y)
    | (with_reducible apply OnlyChanges.step State.modPort_only; on_goal 2 => decide)
    | (with_reducible apply OnlyChanges.step State.setTimePort_only; on_goal 2 => decide)
    | with_reducible apply only_ite

theorem State.storeDelay_only {u : State} {a1 : ℕ} :
    OnlyChanges [.out, .time, .cal, .ports, .events, .stats, .maint] u (State.storeDelay u a1) := by
  unfold State.storeDelay
  repeat' first
    | with_reducible assumption
    | with_reducible apply OnlyChanges.refl
    | (extract_lets +onlyGivenNames y; first | (apply only_cut (v := y); (on_goal 2 => (intro hy; clear_value y)); subst y) | clear_value y | subst y)
    | (with_reducible apply OnlyChanges.step State.modPort_only; on_goal 2 => decide)
    | (with_reducible apply OnlyChanges.step State.refreshPhi_only; on_goal 2 => decide)
    | (with_reducible apply OnlyChanges.step State.tryAlign_only; on_goal 2 => decide)
    | (with_reducible apply OnlyChanges.step State.dropTokens_only; on_goal 2 => decide)
    | (with_reducible apply OnlyChanges.step State.recalibrated_only; on_goal 2 => decide)
    | (with_reducible apply OnlyChanges.step State.calWr_only; on_goal 2 => decide)
    | split

theorem State.countExchange_only {u : State} {a1 : ℕ} {a2 : Units} :
    OnlyChanges [.out, .time, .cal, .ports, .events, .stats, .maint] u (State.countExchange u a1 a2) := by
  unfold State.countExchange
  repeat' first
    | with_reducible assumption
    | with_reducible apply OnlyChanges.refl
    | (extract_lets +onlyGivenNames y; first | (apply only_cut (v := y); (on_goal 2 => (intro hy; clear_value y)); subst y) | clear_value y | subst y)
    | (with_reducible apply OnlyChanges.step State.modPort_only; on_goal 2 => decide)
    | (with_reducible apply OnlyChanges.step State.storeDelay_only; on_goal 2 => decide)
    | with_reducible apply only_ite
    | split

theorem State.driftEvent_only {u : State} {a1 : ℕ} {a2 : ℤ} {a3 : Bool} :
    OnlyChanges [.events] u (State.driftEvent u a1 a2 a3) := by
  unfold State.driftEvent
  repeat' first
    | with_reducible assumption
    | with_reducible apply OnlyChanges.refl
    | (with_reducible apply OnlyChanges.step State.raise_only; on_goal 2 => decide)
    | with_reducible apply only_ite

theorem State.driftEnd_only {u : State} {a1 : ℕ} {a2 : ℤ} :
    OnlyChanges [.out, .time, .ports, .groups, .events, .stats] u (State.driftEnd u a1 a2) := by
  unfold State.driftEnd
  repeat' first
    | with_reducible assumption
    | with_reducible apply OnlyChanges.refl
    | (extract_lets +onlyGivenNames y; first | (apply only_cut (v := y); (on_goal 2 => (intro hy; clear_value y)); subst y) | (have hy : TimeState := y; clear hy; subst y) | clear_value y | subst y)
    | (with_reducible apply OnlyChanges.step State.modPort_only; on_goal 2 => decide)
    | (with_reducible apply OnlyChanges.step State.loseTimePort_only; on_goal 2 => decide)
    | (with_reducible apply OnlyChanges.step State.setTimePort_only; on_goal 2 => decide)
    | (with_reducible apply OnlyChanges.step State.driftEvent_only; on_goal 2 => decide)
    | (with_reducible apply OnlyChanges.step State.abortGroups_only; on_goal 2 => decide)
    | (with_reducible apply OnlyChanges.step State.bumpPort_only; on_goal 2 => decide)
    | (with_reducible apply OnlyChanges.step State.quarantine_only; on_goal 2 => decide)
    | with_reducible apply only_ite
    | ((with_reducible apply only_still (h1 := by decide)); (on_goal 2 => exact ⟨rfl, rfl, rfl, rfl⟩); first | with_reducible assumption | with_reducible exact OnlyChanges.refl)

theorem State.measured_only {u : State} {a1 : ℕ} {a2 : Units} :
    OnlyChanges [.out, .time, .ports, .groups, .events, .stats] u (State.measured u a1 a2) := by
  unfold State.measured
  repeat' first
    | with_reducible assumption
    | with_reducible apply OnlyChanges.refl
    | (extract_lets +onlyGivenNames y; first | (apply only_cut (v := y); (on_goal 2 => (intro hy; clear_value y)); subst y) | (have hy : TimeState := y; clear hy; subst y) | clear_value y | subst y)
    | (with_reducible apply OnlyChanges.step State.modPort_only; on_goal 2 => decide)
    | (with_reducible apply OnlyChanges.step State.driftEvent_only; on_goal 2 => decide)
    | (with_reducible apply OnlyChanges.step State.driftEnd_only; on_goal 2 => decide)
    | (with_reducible apply OnlyChanges.step State.bumpPort_only; on_goal 2 => decide)
    | with_reducible apply only_ite
    | (with_reducible apply only_foldl; on_goal 2 => intro _ _ _)
    | ((with_reducible apply only_still (h1 := by decide)); (on_goal 2 => exact ⟨rfl, rfl, rfl, rfl⟩); first | with_reducible assumption | with_reducible exact OnlyChanges.refl)

theorem State.askHail_only {u : State} {a1 : ℕ} :
    OnlyChanges [.ports] u (State.askHail u a1) := by
  unfold State.askHail
  repeat' first
    | with_reducible assumption
    | with_reducible apply OnlyChanges.refl
    | (with_reducible apply OnlyChanges.step State.modPort_only; on_goal 2 => decide)
    | with_reducible apply only_ite

theorem State.askHails_only {u : State}  :
    OnlyChanges [.ports] u (State.askHails u) := by
  unfold State.askHails
  repeat' first
    | with_reducible assumption
    | with_reducible apply OnlyChanges.refl
    | (with_reducible apply OnlyChanges.step State.askHail_only; on_goal 2 => decide)
    | (with_reducible apply only_foldl; on_goal 2 => intro _ _ _)

theorem State.addToken_only {u : State} {a1 : ℕ} {a2 : ℕ} {a3 : Bool} :
    OnlyChanges [.maint] u (State.addToken u a1 a2 a3) := by
  unfold State.addToken
  repeat' first
    | with_reducible assumption
    | with_reducible apply OnlyChanges.refl
    | (extract_lets +onlyGivenNames y; first | (apply only_cut (v := y); (on_goal 2 => (intro hy; clear_value y)); subst y) | clear_value y | subst y)
    | ((with_reducible apply only_maint (h1 := by decide)); first | with_reducible assumption | with_reducible exact OnlyChanges.refl)

theorem State.beginRemeasure_only {u : State} {a1 : ℕ} {a2 : Bool} :
    OnlyChanges [.ports] u (State.beginRemeasure u a1 a2) := by
  unfold State.beginRemeasure
  repeat' first
    | with_reducible assumption
    | with_reducible apply OnlyChanges.refl
    | (with_reducible apply OnlyChanges.step State.modPort_only; on_goal 2 => decide)

theorem State.askRemeasure_only {u : State} {a1 : ℕ} :
    OnlyChanges [.ports] u (State.askRemeasure u a1) := by
  unfold State.askRemeasure
  repeat' first
    | with_reducible assumption
    | with_reducible apply OnlyChanges.refl
    | (with_reducible apply OnlyChanges.step State.modPort_only; on_goal 2 => decide)
    | (with_reducible apply OnlyChanges.step State.beginRemeasure_only; on_goal 2 => decide)
    | with_reducible apply only_ite
    | split

theorem State.takePrbsToken_only {u : State} {a1 : ℕ} :
    OnlyChanges [.ports, .maint] u (State.takePrbsToken u a1) := by
  unfold State.takePrbsToken
  repeat' first
    | with_reducible assumption
    | with_reducible apply OnlyChanges.refl
    | (with_reducible apply OnlyChanges.step State.modPort_only; on_goal 2 => decide)
    | (with_reducible apply OnlyChanges.step State.addToken_only; on_goal 2 => decide)
    | with_reducible apply only_ite

theorem State.setPrbs_only {u : State} {a1 : ℕ} {a2 : Bool} :
    OnlyChanges [.ports, .maint] u (State.setPrbs u a1 a2) := by
  unfold State.setPrbs
  repeat' first
    | with_reducible assumption
    | with_reducible apply OnlyChanges.refl
    | (extract_lets +onlyGivenNames y; first | (apply only_cut (v := y); (on_goal 2 => (intro hy; clear_value y)); subst y) | clear_value y | subst y)
    | (with_reducible apply OnlyChanges.step State.modPort_only; on_goal 2 => decide)
    | (with_reducible apply OnlyChanges.step State.takePrbsToken_only; on_goal 2 => decide)
    | (with_reducible apply OnlyChanges.step State.dropTokens_only; on_goal 2 => decide)
    | with_reducible apply only_ite

theorem State.scrubBad_only {u : State} {a1 : ℕ} :
    OnlyChanges [.power, .stack, .badUnits, .events, .stats, .maint] u (State.scrubBad u a1) := by
  unfold State.scrubBad
  repeat' first
    | with_reducible assumption
    | with_reducible apply OnlyChanges.refl
    | (with_reducible apply OnlyChanges.step State.bump_only; on_goal 2 => decide)
    | (with_reducible apply OnlyChanges.step State.stackUE_only; on_goal 2 => decide)
    | (with_reducible apply OnlyChanges.step State.markBad_only; on_goal 2 => decide)
    | with_reducible apply only_ite
    | ((with_reducible apply only_stack_badUnits (h1 := by decide) (h2 := by decide)); first | with_reducible assumption | with_reducible exact OnlyChanges.refl)

theorem State.scrubOutcome_only {u : State}  :
    OnlyChanges [.power, .stack, .badUnits, .events, .stats, .maint] u (State.scrubOutcome u) := by
  unfold State.scrubOutcome
  repeat' first
    | with_reducible assumption
    | with_reducible apply OnlyChanges.refl
    | (extract_lets +onlyGivenNames y; first | (apply only_cut (v := y); (on_goal 2 => (intro hy; clear_value y)); subst y) | clear_value y | subst y)
    | (with_reducible apply OnlyChanges.step State.bumpBy_only; on_goal 2 => decide)
    | (with_reducible apply OnlyChanges.step State.scrubBad_only; on_goal 2 => decide)
    | with_reducible apply only_ite
    | (with_reducible apply only_foldl; on_goal 2 => intro _ _ _)
    | ((with_reducible apply only_maint (h1 := by decide)); first | with_reducible assumption | with_reducible exact OnlyChanges.refl)

theorem State.startActivity_only {u : State} {a1 : ℕ} {a2 : ℕ} :
    OnlyChanges [.ports, .maint] u (State.startActivity u a1 a2) := by
  unfold State.startActivity
  repeat' first
    | with_reducible assumption
    | with_reducible apply OnlyChanges.refl
    | (extract_lets +onlyGivenNames y; first | (apply only_cut (v := y); (on_goal 2 => (intro hy; clear_value y)); subst y) | clear_value y | subst y)
    | (with_reducible apply OnlyChanges.step State.modPort_only; on_goal 2 => decide)
    | (with_reducible apply OnlyChanges.step State.beginRemeasure_only; on_goal 2 => decide)
    | with_reducible apply only_ite
    | ((with_reducible apply only_maint (h1 := by decide)); first | with_reducible assumption | with_reducible exact OnlyChanges.refl)

theorem State.requestHall_only {u : State} {a1 : ℕ} {a2 : ℕ} :
    OnlyChanges [.ports, .maint] u (State.requestHall u a1 a2) := by
  unfold State.requestHall
  repeat' first
    | with_reducible assumption
    | with_reducible apply OnlyChanges.refl
    | (extract_lets +onlyGivenNames y; first | (apply only_cut (v := y); (on_goal 2 => (intro hy; clear_value y)); subst y) | clear_value y | subst y)
    | (with_reducible apply OnlyChanges.step State.startActivity_only; on_goal 2 => decide)
    | (with_reducible apply OnlyChanges.step State.addToken_only; on_goal 2 => decide)
    | ((with_reducible apply only_maint (h1 := by decide)); first | with_reducible assumption | with_reducible exact OnlyChanges.refl)
    | split

theorem State.stopActivity_only {u : State} {a1 : Token} :
    OnlyChanges [.ports, .maint] u (State.stopActivity u a1) := by
  unfold State.stopActivity
  repeat' first
    | with_reducible assumption
    | with_reducible apply OnlyChanges.refl
    | (extract_lets +onlyGivenNames y; first | (apply only_cut (v := y); (on_goal 2 => (intro hy; clear_value y)); subst y) | clear_value y | subst y)
    | (with_reducible apply OnlyChanges.step State.modPort_only; on_goal 2 => decide)
    | with_reducible apply only_ite
    | ((with_reducible apply only_maint (h1 := by decide)); first | with_reducible assumption | with_reducible exact OnlyChanges.refl)

theorem State.endTokens_only {u : State} {a1 : Token → Bool} :
    OnlyChanges [.ports, .maint] u (State.endTokens u a1) := by
  unfold State.endTokens
  repeat' first
    | with_reducible assumption
    | with_reducible apply OnlyChanges.refl
    | (with_reducible apply OnlyChanges.step State.dropTokens_only; on_goal 2 => decide)
    | (with_reducible apply OnlyChanges.step State.stopActivity_only; on_goal 2 => decide)
    | (with_reducible apply only_foldl; on_goal 2 => intro _ _ _)

theorem State.releaseHall_only {u : State}  :
    OnlyChanges [.ports, .maint] u (State.releaseHall u) := by
  unfold State.releaseHall
  repeat' first
    | with_reducible assumption
    | with_reducible apply OnlyChanges.refl
    | (extract_lets +onlyGivenNames y; first | (apply only_cut (v := y); (on_goal 2 => (intro hy; clear_value y)); subst y) | clear_value y | subst y)
    | (with_reducible apply OnlyChanges.step State.endTokens_only; on_goal 2 => decide)
    | ((with_reducible apply only_maint (h1 := by decide)); first | with_reducible assumption | with_reducible exact OnlyChanges.refl)

theorem State.maintRequest_only {u : State} {a1 : ℕ} :
    OnlyChanges [.ports, .maint] u (State.maintRequest u a1) := by
  unfold State.maintRequest
  repeat' first
    | with_reducible assumption
    | with_reducible apply OnlyChanges.refl
    | (extract_lets +onlyGivenNames y; first | (apply only_cut (v := y); (on_goal 2 => (intro hy; clear_value y)); subst y) | clear_value y | subst y)
    | (with_reducible apply OnlyChanges.step State.releaseHall_only; on_goal 2 => decide)
    | (with_reducible apply OnlyChanges.step State.requestHall_only; on_goal 2 => decide)
    | with_reducible apply only_ite

theorem State.turnExchange_only {u : State} {a1 : ℕ} :
    OnlyChanges [.ports] u (State.turnExchange u a1) := by
  unfold State.turnExchange
  repeat' first
    | with_reducible assumption
    | with_reducible apply OnlyChanges.refl
    | (extract_lets +onlyGivenNames y; first | (apply only_cut (v := y); (on_goal 2 => (intro hy; clear_value y)); subst y) | clear_value y | subst y)
    | (with_reducible apply OnlyChanges.step State.modPort_only; on_goal 2 => decide)
    | with_reducible apply only_ite

theorem State.grantSlice_only {u : State}  :
    OnlyChanges [.maint] u (State.grantSlice u) := by
  unfold State.grantSlice
  repeat' first
    | with_reducible assumption
    | with_reducible apply OnlyChanges.refl
    | (extract_lets +onlyGivenNames y; first | (apply only_cut (v := y); (on_goal 2 => (intro hy; clear_value y)); subst y) | clear_value y | subst y)
    | with_reducible apply only_ite
    | ((with_reducible apply only_maint (h1 := by decide)); first | with_reducible assumption | with_reducible exact OnlyChanges.refl)

theorem State.grantWaiting_only {u : State}  :
    OnlyChanges [.ports, .maint] u (State.grantWaiting u) := by
  unfold State.grantWaiting
  repeat' first
    | with_reducible assumption
    | with_reducible apply OnlyChanges.refl
    | (extract_lets +onlyGivenNames y; first | (apply only_cut (v := y); (on_goal 2 => (intro hy; clear_value y)); subst y) | clear_value y | subst y)
    | (with_reducible apply OnlyChanges.step State.turnExchange_only; on_goal 2 => decide)
    | (with_reducible apply OnlyChanges.step State.grantSlice_only; on_goal 2 => decide)
    | (with_reducible apply OnlyChanges.step State.beginRemeasure_only; on_goal 2 => decide)
    | (with_reducible apply OnlyChanges.step State.takePrbsToken_only; on_goal 2 => decide)
    | (with_reducible apply OnlyChanges.step State.requestHall_only; on_goal 2 => decide)
    | with_reducible apply only_ite
    | (with_reducible apply only_foldl; on_goal 2 => intro _ _ _)
    | split

theorem State.takeVc3_only {u : State} {a1 : ℕ} {a2 : ℕ} :
    OnlyChanges [.ports] u (State.takeVc3 u a1 a2).1 := by
  unfold State.takeVc3
  repeat' first
    | with_reducible assumption
    | with_reducible apply OnlyChanges.refl
    | (extract_lets +onlyGivenNames y; first | (apply only_cut (v := y); (on_goal 2 => (intro hy; clear_value y)); subst y) | (apply only_cut (v := y.1); (on_goal 2 => (intro hy; clear_value y)); subst y) | clear_value y | subst y)
    | (with_reducible apply OnlyChanges.step State.modPort_only; on_goal 2 => decide)
    | with_reducible apply only_ite
    | with_reducible apply only_ite_fst
    | dsimp only

theorem State.takeVc2_only {u : State} {a0 a2 : Nat} :
    OnlyChanges [.ports, .flows] u (State.takeVc2 a0 u a2).1 := by
  induction a0 generalizing u with
  | zero => exact OnlyChanges.refl
  | succ n ih =>
    unfold State.takeVc2
    split
    · exact OnlyChanges.refl
    · exact ih.step (State.modPort_only.step (State.setFlow_only.step .refl (by decide)) (by decide)) (by decide)

theorem State.placeVc1_only {u : State} {a1 : ℕ} :
    OnlyChanges [.ports, .blockCount] u (State.placeVc1 u a1) := by
  unfold State.placeVc1
  repeat' first
    | with_reducible assumption
    | with_reducible apply OnlyChanges.refl
    | (extract_lets +onlyGivenNames y; first | (apply only_cut (v := y); (on_goal 2 => (intro hy; clear_value y)); subst y) | clear_value y | subst y)
    | (with_reducible apply OnlyChanges.step State.modPort_only; on_goal 2 => decide)
    | (with_reducible apply OnlyChanges.step State.placeCells_only; on_goal 2 => decide)
    | ((with_reducible apply only_blockCount (h1 := by decide)); first | with_reducible assumption | with_reducible exact OnlyChanges.refl)

theorem State.frameSlotsOf_only {u : State} {a1 : ℕ} {a2 : Bool} :
    OnlyChanges [.ports, .blockCount, .flows] u (State.frameSlotsOf u a1 a2).1 := by
  unfold State.frameSlotsOf
  repeat' first
    | with_reducible assumption
    | with_reducible apply OnlyChanges.refl
    | (extract_lets +onlyGivenNames y; first | (apply only_cut (v := y); (on_goal 2 => (intro hy; clear_value y)); subst y) | (apply only_cut (v := y.1); (on_goal 2 => (intro hy; clear_value y)); subst y) | clear_value y | subst y)
    | (with_reducible apply OnlyChanges.step State.placeVc1_only; on_goal 2 => decide)
    | (with_reducible apply OnlyChanges.step State.takeVc2_only; on_goal 2 => decide)
    | (with_reducible apply OnlyChanges.step State.takeVc3_only; on_goal 2 => decide)
    | with_reducible apply only_ite
    | with_reducible apply only_ite_fst
    | dsimp only

theorem State.sendFrame_only {u : State} {a1 : ℕ} {a2 : Bool} :
    OnlyChanges [.out, .ports, .blockCount, .flows] u (State.sendFrame u a1 a2) := by
  unfold State.sendFrame
  repeat' first
    | with_reducible assumption
    | with_reducible apply OnlyChanges.refl
    | (extract_lets +onlyGivenNames y; first | (apply only_cut (v := y); (on_goal 2 => (intro hy; clear_value y)); subst y) | (apply only_cut (v := y.1); (on_goal 2 => (intro hy; clear_value y)); subst y) | clear_value y | subst y)
    | (with_reducible apply OnlyChanges.step State.frameSlotsOf_only; on_goal 2 => decide)
    | (with_reducible apply OnlyChanges.step State.modPort_only; on_goal 2 => decide)
    | (with_reducible apply OnlyChanges.step State.emit_only; on_goal 2 => decide)
    | with_reducible apply only_ite
    | with_reducible apply only_ite_fst
    | dsimp only

theorem State.sendFrames_only {u : State}  :
    OnlyChanges [.out, .ports, .blockCount, .flows] u (State.sendFrames u) := by
  unfold State.sendFrames
  repeat' first
    | with_reducible assumption
    | with_reducible apply OnlyChanges.refl
    | (with_reducible apply OnlyChanges.step State.sendFrame_only; on_goal 2 => decide)
    | with_reducible apply only_ite
    | (with_reducible apply only_foldl; on_goal 2 => intro _ _ _)

theorem State.captureMarks_only {u : State}  :
    OnlyChanges [.ports] u (State.captureMarks u) := by
  unfold State.captureMarks
  repeat' first
    | with_reducible assumption
    | with_reducible apply OnlyChanges.refl
    | (with_reducible apply OnlyChanges.step State.modPort_only; on_goal 2 => decide)
    | with_reducible apply only_ite
    | (with_reducible apply only_foldl; on_goal 2 => intro _ _ _)

theorem State.markReady_only {u : State}  :
    OnlyChanges [.queues] u (State.markReady u) := by
  unfold State.markReady
  repeat' first
    | with_reducible assumption
    | with_reducible apply OnlyChanges.refl
    | (extract_lets +onlyGivenNames y; first | (apply only_cut (v := y); (on_goal 2 => (intro hy; clear_value y)); subst y) | clear_value y | subst y)
    | with_reducible apply only_ite
    | ((with_reducible apply only_queues (h1 := by decide)); first | with_reducible assumption | with_reducible exact OnlyChanges.refl)

theorem State.newPass_only {u : State} {a1 : ℕ} {a2 : SpillOp} :
    OnlyChanges [.areas] u (State.newPass u a1 a2) := by
  unfold State.newPass
  repeat' first
    | with_reducible assumption
    | with_reducible apply OnlyChanges.refl
    | (extract_lets +onlyGivenNames y; first | (apply only_cut (v := y); (on_goal 2 => (intro hy; clear_value y)); subst y) | clear_value y | subst y)
    | (with_reducible apply OnlyChanges.step State.setArea_only; on_goal 2 => decide)
    | with_reducible apply only_ite

theorem State.refuseSpill_only {u : State} {a1 : SpillOp} {a2 : QueueOp} {a3 : ℕ} :
    OnlyChanges [.queues, .events, .stats] u (State.refuseSpill u a1 a2 a3) := by
  unfold State.refuseSpill
  repeat' first
    | with_reducible assumption
    | with_reducible apply OnlyChanges.refl
    | (with_reducible apply OnlyChanges.step State.completeAlone_only; on_goal 2 => decide)
    | (with_reducible apply OnlyChanges.step State.noteRefusal_only; on_goal 2 => decide)

theorem State.launchSpill_only {u : State} {a1 : ℕ} {a2 : SpillOp} :
    OnlyChanges [.queues, .areas, .events, .stats] u (State.launchSpill u a1 a2) := by
  unfold State.launchSpill
  repeat' first
    | with_reducible assumption
    | with_reducible apply OnlyChanges.refl
    | with_reducible exact hfun _
    | (extract_lets +onlyGivenNames y; first | (apply only_cut (v := y); (on_goal 2 => (intro hy; clear_value y)); subst y) | (apply only_cut_fun0 y; (on_goal 2 => (intro hfun; clear_value y)); (intro _; subst y; beta_reduce)) | clear_value y | subst y)
    | (with_reducible apply OnlyChanges.step State.refuseSpill_only; on_goal 2 => decide)
    | (with_reducible apply OnlyChanges.step State.newPass_only; on_goal 2 => decide)
    | (with_reducible apply OnlyChanges.step State.modOp_only; on_goal 2 => decide)
    | (with_reducible apply OnlyChanges.step State.setArea_only; on_goal 2 => decide)
    | with_reducible apply only_ite
    | split

theorem State.completeEmpty_only {u : State} {a1 : ℕ} {a2 : SpillOp} :
    OnlyChanges [.queues, .areas, .events, .stats] u (State.completeEmpty u a1 a2) := by
  unfold State.completeEmpty
  repeat' first
    | with_reducible assumption
    | with_reducible apply OnlyChanges.refl
    | (extract_lets +onlyGivenNames y; first | (apply only_cut (v := y); (on_goal 2 => (intro hy; clear_value y)); subst y) | clear_value y | subst y)
    | (with_reducible apply OnlyChanges.step State.refuseSpill_only; on_goal 2 => decide)
    | (with_reducible apply OnlyChanges.step State.completeAlone_only; on_goal 2 => decide)
    | (with_reducible apply OnlyChanges.step State.setArea_only; on_goal 2 => decide)
    | with_reducible apply only_ite
    | split

theorem State.passEmpty_only {u : State} {a0 : Nat} {a1 : List SpillOp} :
    OnlyChanges [.areas] u (State.passEmpty a0 a1 u) := by
  induction a1 generalizing u with
  | nil => exact OnlyChanges.refl
  | cons o rest ih =>
    unfold State.passEmpty
    exact only_ite (ih.step (State.newPass_only.step (State.setArea_only.step .refl (by decide)) (by decide)) (by decide))
      OnlyChanges.refl

theorem State.nextSpill_only {u : State} {a1 : ℕ} :
    OnlyChanges [.queues, .areas, .events, .stats] u (State.nextSpill u a1) := by
  unfold State.nextSpill
  repeat' first
    | with_reducible assumption
    | with_reducible apply OnlyChanges.refl
    | (extract_lets +onlyGivenNames y; first | (apply only_cut (v := y); (on_goal 2 => (intro hy; clear_value y)); subst y) | clear_value y | subst y)
    | (with_reducible apply OnlyChanges.step State.passEmpty_only; on_goal 2 => decide)
    | (with_reducible apply OnlyChanges.step State.launchSpill_only; on_goal 2 => decide)
    | (with_reducible apply OnlyChanges.step State.completeEmpty_only; on_goal 2 => decide)
    | (with_reducible apply OnlyChanges.step State.setArea_only; on_goal 2 => decide)
    | with_reducible apply only_ite
    | (with_reducible apply only_foldl; on_goal 2 => intro _ _ _)
    | split

theorem State.startSpills_only {u : State}  :
    OnlyChanges [.queues, .areas, .events, .stats] u (State.startSpills u) := by
  unfold State.startSpills
  repeat' first
    | with_reducible assumption
    | with_reducible apply OnlyChanges.refl
    | (with_reducible apply OnlyChanges.step State.nextSpill_only; on_goal 2 => decide)
    | (with_reducible apply only_foldl; on_goal 2 => intro _ _ _)

theorem State.modRing_only {u : State} {a1 : ℕ} {a2 : EventRing → EventRing} :
    OnlyChanges [.rings] u (State.modRing u a1 a2) := by
  unfold State.modRing
  repeat' first
    | with_reducible assumption
    | with_reducible apply OnlyChanges.refl
    | (with_reducible apply OnlyChanges.step State.setRing_only; on_goal 2 => decide)

theorem State.putRecord_only {u : State} {a1 : ℕ} {a2 : Event} {a3 : ℕ} :
    OnlyChanges [.out, .rings] u (State.putRecord u a1 a2 a3) := by
  unfold State.putRecord
  repeat' first
    | with_reducible assumption
    | with_reducible apply OnlyChanges.refl
    | (extract_lets +onlyGivenNames y; first | (apply only_cut (v := y); (on_goal 2 => (intro hy; clear_value y)); subst y) | clear_value y | subst y)
    | (with_reducible apply OnlyChanges.step State.setRing_only; on_goal 2 => decide)
    | (with_reducible apply OnlyChanges.step State.emit_only; on_goal 2 => decide)

theorem State.dropEvent_only {u : State} {a1 : ℕ} {a2 : Event} :
    OnlyChanges [.rings, .events, .stats] u (State.dropEvent u a1 a2) := by
  unfold State.dropEvent
  repeat' first
    | with_reducible assumption
    | with_reducible apply OnlyChanges.refl
    | (extract_lets +onlyGivenNames y; first | (apply only_cut (v := y); (on_goal 2 => (intro hy; clear_value y)); subst y) | clear_value y | subst y)
    | (with_reducible apply OnlyChanges.step State.bump_only; on_goal 2 => decide)
    | (with_reducible apply OnlyChanges.step State.bumpCopy_only; on_goal 2 => decide)
    | (with_reducible apply OnlyChanges.step State.modRing_only; on_goal 2 => decide)
    | with_reducible apply only_ite

theorem State.ringFault_only {u : State} {a1 : ℕ} {a2 : Event} :
    OnlyChanges [.rings, .events, .stats] u (State.ringFault u a1 a2) := by
  unfold State.ringFault
  repeat' first
    | with_reducible assumption
    | with_reducible apply OnlyChanges.refl
    | (extract_lets +onlyGivenNames y; first | (apply only_cut (v := y); (on_goal 2 => (intro hy; clear_value y)); subst y) | clear_value y | subst y)
    | (with_reducible apply OnlyChanges.step State.dropEvent_only; on_goal 2 => decide)
    | (with_reducible apply OnlyChanges.step State.raise_only; on_goal 2 => decide)
    | (with_reducible apply OnlyChanges.step State.modRing_only; on_goal 2 => decide)
    | with_reducible apply only_ite

theorem State.catchUp_only {u : State} {a0 : List ℕ} {a2 : ℕ} :
    OnlyChanges [.out, .rings, .events, .stats] u (State.catchUp a0 u a2) := by
  unfold State.catchUp
  repeat' first
    | with_reducible assumption
    | with_reducible apply OnlyChanges.refl
    | (extract_lets +onlyGivenNames y; first | (apply only_cut (v := y); (on_goal 2 => (intro hy; clear_value y)); subst y) | clear_value y | subst y)
    | (with_reducible apply OnlyChanges.step State.ringFault_only; on_goal 2 => decide)
    | (with_reducible apply OnlyChanges.step State.putRecord_only; on_goal 2 => decide)
    | (with_reducible apply OnlyChanges.step State.modRing_only; on_goal 2 => decide)
    | with_reducible apply only_ite

theorem State.deliverTo_only {u : State} {a1 : List ℕ} {a2 : Event} {a3 : ℕ} :
    OnlyChanges [.out, .rings, .events, .stats] u (State.deliverTo u a1 a2 a3) := by
  unfold State.deliverTo
  repeat' first
    | with_reducible assumption
    | with_reducible apply OnlyChanges.refl
    | (extract_lets +onlyGivenNames y; first | (apply only_cut (v := y); (on_goal 2 => (intro hy; clear_value y)); subst y) | clear_value y | subst y)
    | (with_reducible apply OnlyChanges.step State.ringFault_only; on_goal 2 => decide)
    | (with_reducible apply OnlyChanges.step State.dropEvent_only; on_goal 2 => decide)
    | (with_reducible apply OnlyChanges.step State.catchUp_only; on_goal 2 => decide)
    | (with_reducible apply OnlyChanges.step State.putRecord_only; on_goal 2 => decide)
    | (with_reducible apply OnlyChanges.step State.modRing_only; on_goal 2 => decide)
    | with_reducible apply only_ite
    | split

theorem State.deliverAll_only {u : State} {a0 : List ℕ} {a1 : List Event} {a3 : ℕ} :
    OnlyChanges [.out, .rings, .events, .stats] u (State.deliverAll a0 a1 u a3) := by
  unfold State.deliverAll
  repeat' first
    | with_reducible assumption
    | with_reducible apply OnlyChanges.refl
    | (with_reducible apply OnlyChanges.step State.deliverTo_only; on_goal 2 => decide)
    | (with_reducible apply only_foldl; on_goal 2 => intro _ _ _)
    | split

theorem State.writeEvent_only {u : State} {a1 : List ℕ} :
    OnlyChanges [.out, .rings, .events, .stats] u (State.writeEvent u a1) := by
  unfold State.writeEvent
  repeat' first
    | with_reducible assumption
    | with_reducible apply OnlyChanges.refl
    | (extract_lets +onlyGivenNames y; first | (apply only_cut (v := y); (on_goal 2 => (intro hy; clear_value y)); subst y) | clear_value y | subst y)
    | (with_reducible apply OnlyChanges.step State.deliverAll_only; on_goal 2 => decide)
    | with_reducible apply only_ite
    | (with_reducible apply only_foldl; on_goal 2 => intro _ _ _)
    | ((with_reducible apply only_events (h1 := by decide)); first | with_reducible assumption | with_reducible exact OnlyChanges.refl)
    | split

theorem State.catchUpAll_only {u : State} {a1 : List ℕ} :
    OnlyChanges [.out, .rings, .events, .stats] u (State.catchUpAll u a1) := by
  unfold State.catchUpAll
  repeat' first
    | with_reducible assumption
    | with_reducible apply OnlyChanges.refl
    | (with_reducible apply OnlyChanges.step State.catchUp_only; on_goal 2 => decide)
    | (with_reducible apply only_foldl; on_goal 2 => intro _ _ _)

theorem State.writeOverdue_only {u : State}  :
    OnlyChanges [.out, .rings, .events, .stats] u (State.writeOverdue u) := by
  unfold State.writeOverdue
  repeat' first
    | with_reducible assumption
    | with_reducible apply OnlyChanges.refl
    | (extract_lets +onlyGivenNames y; first | (apply only_cut (v := y); (on_goal 2 => (intro hy; clear_value y)); subst y) | clear_value y | subst y)
    | (with_reducible apply OnlyChanges.step State.writeEvent_only; on_goal 2 => decide)
    | (with_reducible apply OnlyChanges.step State.catchUp_only; on_goal 2 => decide)
    | with_reducible apply only_ite
    | (with_reducible apply only_foldl; on_goal 2 => intro _ _ _)

theorem State.asSnap_only {u s : State} {a1 : ℕ} {a2 : ℕ} {a3 : ℕ} {a4 : Bool} {f5 : State → State} {P : List Part} (h
      : OnlyChanges P s u) (hf5 : ∀ v, OnlyChanges P v (f5 v)) (hP : ∀ p ∈ ([.host, .events, .stats] : List Part), p ∈
      P) :
    OnlyChanges P s (State.asSnap u a1 a2 a3 a4 f5) := by
  apply OnlyChanges.trans h
  unfold State.asSnap
  repeat' first
    | with_reducible assumption
    | with_reducible apply OnlyChanges.refl
    | (with_reducible apply State.asPart_only; (on_goal 3 => exact fun p hp => hP p (by revert p hp; decide)); (on_goal 2 => intro _))
    | (with_reducible apply State.asPriv_only; (on_goal 3 => exact fun p hp => hP p (by revert p hp; decide)); (on_goal 2 => intro _))
    | with_reducible apply OnlyChanges.trans' (hf5 _)
    | with_reducible apply only_ite

theorem State.modSnap_only {u : State} {a1 : ℕ} {a2 : SnapPage → SnapPage} :
    OnlyChanges [.snaps] u (State.modSnap u a1 a2) := by
  unfold State.modSnap
  repeat' first
    | with_reducible assumption
    | with_reducible apply OnlyChanges.refl
    | (with_reducible apply OnlyChanges.step State.setSnap_only; on_goal 2 => decide)

theorem State.askSnap_only {u : State} {a1 : ℕ} {a2 : ℕ} :
    OnlyChanges [.snaps] u (State.askSnap u a1 a2) := by
  unfold State.askSnap
  repeat' first
    | with_reducible assumption
    | with_reducible apply OnlyChanges.refl
    | (with_reducible apply OnlyChanges.step State.modSnap_only; on_goal 2 => decide)
    | with_reducible apply only_ite

theorem State.setSel_only {u : State} {a1 : ℕ} {a2 : ℕ} {a3 : ℕ} :
    OnlyChanges [.snaps] u (State.setSel u a1 a2 a3) := by
  unfold State.setSel
  repeat' first
    | with_reducible assumption
    | with_reducible apply OnlyChanges.refl
    | (with_reducible apply OnlyChanges.step State.modSnap_only; on_goal 2 => decide)

theorem State.modCatch_only {u : State} {a1 : ℕ} {a2 : SnapCatch → SnapCatch} :
    OnlyChanges [.snaps] u (State.modCatch u a1 a2) := by
  unfold State.modCatch
  repeat' first
    | with_reducible assumption
    | with_reducible apply OnlyChanges.refl
    | (with_reducible apply OnlyChanges.step State.modSnap_only; on_goal 2 => decide)

theorem State.takeSel_only {u : State} {a1 : ℕ} {a2 : State} {a3 : ℕ} :
    OnlyChanges [.events, .stats, .snaps] u (State.takeSel u a1 a2 a3) := by
  unfold State.takeSel
  repeat' first
    | with_reducible assumption
    | with_reducible apply OnlyChanges.refl
    | (extract_lets +onlyGivenNames y; first | (apply only_cut (v := y); (on_goal 2 => (intro hy; clear_value y)); subst y) | clear_value y | subst y)
    | (with_reducible apply OnlyChanges.step State.modCatch_only; on_goal 2 => decide)
    | (with_reducible apply OnlyChanges.step State.bump_only; on_goal 2 => decide)
    | (with_reducible apply OnlyChanges.step State.violation_only; on_goal 2 => decide)
    | (with_reducible apply OnlyChanges.step State.bumpP_only; on_goal 2 => decide)
    | with_reducible apply only_ite

theorem State.catchPage_only {u : State} {a1 : State} {a2 : ℕ} :
    OnlyChanges [.events, .stats, .snaps] u (State.catchPage u a1 a2) := by
  unfold State.catchPage
  repeat' first
    | with_reducible assumption
    | with_reducible apply OnlyChanges.refl
    | (extract_lets +onlyGivenNames y; first | (apply only_cut (v := y); (on_goal 2 => (intro hy; clear_value y)); subst y) | clear_value y | subst y)
    | (with_reducible apply OnlyChanges.step State.takeSel_only; on_goal 2 => decide)
    | (with_reducible apply OnlyChanges.step State.modSnap_only; on_goal 2 => decide)
    | with_reducible apply only_ite
    | (with_reducible apply only_foldl; on_goal 2 => intro _ _ _)

theorem State.catchPages_only {u : State}  :
    OnlyChanges [.events, .stats, .snaps] u (State.catchPages u) := by
  unfold State.catchPages
  repeat' first
    | with_reducible assumption
    | with_reducible apply OnlyChanges.refl
    | (with_reducible apply OnlyChanges.step State.catchPage_only; on_goal 2 => decide)
    | (with_reducible apply only_foldl; on_goal 2 => intro _ _ _)

theorem State.showPage_only {u : State} {a1 : ℕ} :
    OnlyChanges [.snaps] u (State.showPage u a1) := by
  unfold State.showPage
  repeat' first
    | with_reducible assumption
    | with_reducible apply OnlyChanges.refl
    | (with_reducible apply OnlyChanges.step State.modSnap_only; on_goal 2 => decide)
    | split

theorem State.showPages_only {u : State}  :
    OnlyChanges [.snaps] u (State.showPages u) := by
  unfold State.showPages
  repeat' first
    | with_reducible assumption
    | with_reducible apply OnlyChanges.refl
    | (with_reducible apply OnlyChanges.step State.showPage_only; on_goal 2 => decide)
    | (with_reducible apply only_foldl; on_goal 2 => intro _ _ _)

theorem State.freezeTime_only {u : State} {a1 : ℕ} :
    OnlyChanges [.snaps] u (State.freezeTime u a1) := by
  unfold State.freezeTime
  repeat' first
    | with_reducible assumption
    | with_reducible apply OnlyChanges.refl
    | (with_reducible apply OnlyChanges.step State.modSnap_only; on_goal 2 => decide)

theorem State.withPtp_only {u s : State} {a1 : ℕ} {a2 : ℕ} {a3 : Bytes} {f4 : State → PtpHeader → Bytes → State} {P :
      List Part} (h : OnlyChanges P s u) (hf4 : ∀ v w0 w1, OnlyChanges P v (f4 v w0 w1)) (hP : ∀ p ∈ ([.ports,
      .events, .stats] : List Part), p ∈ P) :
    OnlyChanges P s (State.withPtp u a1 a2 a3 f4) := by
  apply OnlyChanges.trans h
  unfold State.withPtp
  repeat' first
    | with_reducible assumption
    | with_reducible apply OnlyChanges.refl
    | (with_reducible apply State.withCell_only; (on_goal 3 => exact fun p hp => hP p (by revert p hp; decide)); (on_goal 2 => intro _ _))
    | (with_reducible apply OnlyChanges.step State.bumpPort_only; on_goal 2 => exact fun p hp => hP p (by revert p hp; decide))
    | with_reducible apply OnlyChanges.trans' (hf4 _ _ _)
    | with_reducible apply only_ite
    | split

theorem State.countLock_only {u : State} {a1 : LoopMeas} :
    OnlyChanges [.out, .time, .events, .stats] u (State.countLock u a1) := by
  unfold State.countLock
  repeat' first
    | with_reducible assumption
    | with_reducible apply OnlyChanges.refl
    | (extract_lets +onlyGivenNames y; first | (apply only_cut (v := y); (on_goal 2 => (intro hy; clear_value y)); subst y) | (have hy : TimeState := y; clear hy; subst y) | clear_value y | subst y)
    | (with_reducible apply OnlyChanges.step State.enterLoop_only; on_goal 2 => decide)
    | with_reducible apply only_ite
    | ((with_reducible apply only_still (h1 := by decide)); (on_goal 2 => exact ⟨rfl, rfl, rfl, rfl⟩); first | with_reducible assumption | with_reducible exact OnlyChanges.refl)

theorem State.stepTime_only {u : State} {a1 : Units} :
    OnlyChanges [.clock, .time] u (State.stepTime u a1) := by
  unfold State.stepTime
  repeat' first
    | with_reducible assumption
    | with_reducible apply OnlyChanges.refl
    | (extract_lets +onlyGivenNames y; first | (apply only_cut (v := y); (on_goal 2 => (intro hy; clear_value y)); subst y) | clear_value y | subst y)
    | with_reducible apply only_ite
    | ((with_reducible apply only_time (h1 := by decide) (h2 := by decide)); first | with_reducible assumption | with_reducible exact OnlyChanges.refl)

theorem State.askLost_only {u : State}  :
    OnlyChanges [.time] u (State.askLost u) := by
  unfold State.askLost
  repeat' first
    | with_reducible assumption
    | with_reducible apply OnlyChanges.refl
    | (extract_lets +onlyGivenNames y; first | (apply only_cut (v := y); (on_goal 2 => (intro hy; clear_value y)); subst y) | (have hy : TimeState := y; clear hy; subst y) | clear_value y | subst y)
    | with_reducible apply only_ite
    | ((with_reducible apply only_still (h1 := by decide)); (on_goal 2 => exact ⟨rfl, rfl, rfl, rfl⟩); first | with_reducible assumption | with_reducible exact OnlyChanges.refl)

theorem State.holdoverRef_only {u : State} {a1 : Units} {a2 : LoopMeas} :
    OnlyChanges [.out, .time, .events, .stats] u (State.holdoverRef u a1 a2) := by
  unfold State.holdoverRef
  repeat' first
    | with_reducible assumption
    | with_reducible apply OnlyChanges.refl
    | (extract_lets +onlyGivenNames y; first | (apply only_cut (v := y); (on_goal 2 => (intro hy; clear_value y)); subst y) | (have hy : TimeState := y; clear hy; subst y) | clear_value y | subst y)
    | (with_reducible apply OnlyChanges.step State.enterLoop_only; on_goal 2 => decide)
    | (with_reducible apply OnlyChanges.step State.bump_only; on_goal 2 => decide)
    | (with_reducible apply OnlyChanges.step State.askLost_only; on_goal 2 => decide)
    | with_reducible apply only_ite
    | ((with_reducible apply only_still (h1 := by decide)); (on_goal 2 => exact ⟨rfl, rfl, rfl, rfl⟩); first | with_reducible assumption | with_reducible exact OnlyChanges.refl)

theorem State.switchTo_only {u : State} {a1 : RefSource} {a2 : ℕ} :
    OnlyChanges [.time, .events, .stats] u (State.switchTo u a1 a2) := by
  unfold State.switchTo
  repeat' first
    | with_reducible assumption
    | with_reducible apply OnlyChanges.refl
    | (extract_lets +onlyGivenNames y; first | (apply only_cut (v := y); (on_goal 2 => (intro hy; clear_value y)); subst y) | (have hy : TimeState := y; clear hy; subst y) | clear_value y | subst y)
    | (with_reducible apply OnlyChanges.step State.bump_only; on_goal 2 => decide)
    | (with_reducible apply OnlyChanges.step State.timeEvent_only; on_goal 2 => decide)
    | ((with_reducible apply only_still (h1 := by decide)); (on_goal 2 => exact ⟨rfl, rfl, rfl, rfl⟩); first | with_reducible assumption | with_reducible exact OnlyChanges.refl)

theorem State.judgeFreq_only {u : State} {a1 : LoopMeas} :
    OnlyChanges [.out, .time, .events, .stats] u (State.judgeFreq u a1) := by
  unfold State.judgeFreq
  repeat' first
    | with_reducible assumption
    | with_reducible apply OnlyChanges.refl
    | (extract_lets +onlyGivenNames y; first | (apply only_cut (v := y); (on_goal 2 => (intro hy; clear_value y)); subst y) | (have hy : TimeState := y; clear hy; subst y) | clear_value y | subst y)
    | (with_reducible apply OnlyChanges.step State.enterLoop_only; on_goal 2 => decide)
    | with_reducible apply only_ite
    | ((with_reducible apply only_still (h1 := by decide)); (on_goal 2 => exact ⟨rfl, rfl, rfl, rfl⟩); first | with_reducible assumption | with_reducible exact OnlyChanges.refl)

theorem State.reference_only {u : State} {a1 : RefSource} {a2 : ℕ} {a3 : Option Units} {a4 : LoopMeas} :
    OnlyChanges [.out, .clock, .time, .events, .stats] u (State.reference u a1 a2 a3 a4) := by
  unfold State.reference
  repeat' first
    | with_reducible assumption
    | with_reducible apply OnlyChanges.refl
    | with_reducible refine only_fun1 (by assumption) ?_
    | (extract_lets +onlyGivenNames y; first | (apply only_cut (v := y); (on_goal 2 => (intro hy; clear_value y)); subst y) | (apply only_cut_fun1 y; (on_goal 2 => (intro hfun; clear_value y)); (intro _; subst y; beta_reduce)) | (have hy : TimeState := y; clear hy; subst y) | clear_value y | subst y)
    | (with_reducible apply OnlyChanges.step State.enterLoop_only; on_goal 2 => decide)
    | (with_reducible apply OnlyChanges.step State.judgeFreq_only; on_goal 2 => decide)
    | (with_reducible apply OnlyChanges.step State.countLock_only; on_goal 2 => decide)
    | (with_reducible apply OnlyChanges.step State.holdoverRef_only; on_goal 2 => decide)
    | (with_reducible apply OnlyChanges.step State.switchTo_only; on_goal 2 => decide)
    | (with_reducible apply OnlyChanges.step State.stepTime_only; on_goal 2 => decide)
    | (with_reducible apply OnlyChanges.step State.noteFreq_only; on_goal 2 => decide)
    | with_reducible apply only_ite
    | ((with_reducible apply only_still (h1 := by decide)); (on_goal 2 => exact ⟨rfl, rfl, rfl, rfl⟩); first | with_reducible assumption | with_reducible exact OnlyChanges.refl)
    | split

theorem State.setOffset_only {u : State} {a1 : ℕ} {a2 : Units} {a3 : Units} {a4 : Units} :
    OnlyChanges [.time] u (State.setOffset u a1 a2 a3 a4) := by
  unfold State.setOffset
  repeat' first
    | with_reducible assumption
    | with_reducible apply OnlyChanges.refl
    | (extract_lets +onlyGivenNames y; first | (apply only_cut (v := y); (on_goal 2 => (intro hy; clear_value y)); subst y) | clear_value y | subst y)
    | (with_reducible apply OnlyChanges.step State.setTimePort_only; on_goal 2 => decide)

theorem State.takeSync_only {u : State} {a1 : ℕ} {a2 : Units} {a3 : PtpHeader} {a4 : Bytes} {a5 : LoopMeas} :
    OnlyChanges [.out, .clock, .time, .events, .stats] u (State.takeSync u a1 a2 a3 a4 a5) := by
  unfold State.takeSync
  repeat' first
    | with_reducible assumption
    | with_reducible apply OnlyChanges.refl
    | (extract_lets +onlyGivenNames y; first | (apply only_cut (v := y); (on_goal 2 => (intro hy; clear_value y)); subst y) | clear_value y | subst y)
    | (with_reducible apply OnlyChanges.step State.setOffset_only; on_goal 2 => decide)
    | (with_reducible apply OnlyChanges.step State.setTimePort_only; on_goal 2 => decide)
    | (with_reducible apply OnlyChanges.step State.reference_only; on_goal 2 => decide)
    | with_reducible apply only_ite

theorem State.passTide_only {u : State} : OnlyChanges [.out, .clock, .time] u (State.passTide u) := by
  unfold State.passTide
  extract_lets h _r1 s1 _r2 s2 _r3 s3
  have h1 : OnlyChanges [.out, .clock, .time] u s1 := only_time .refl (by decide) (by decide)
  have h2 : OnlyChanges [.out, .clock, .time] u s2 :=
    only_ite (only_time h1 (by decide) (by decide)) (only_time h1 (by decide) (by decide))
  have h3 : OnlyChanges [.out, .clock, .time] u s3 := only_ite (only_time h2 (by decide) (by decide)) h2
  exact State.setFrame_only.step h3 (by decide)

theorem State.latchTime_only {u : State}  :
    OnlyChanges [.time] u (State.latchTime u) := by
  unfold State.latchTime
  repeat' first
    | with_reducible assumption
    | with_reducible apply OnlyChanges.refl
    | (extract_lets +onlyGivenNames y; first | (apply only_cut (v := y); (on_goal 2 => (intro hy; clear_value y)); subst y) | (have hy : TimeState := y; clear hy; subst y) | clear_value y | subst y)
    | with_reducible apply only_ite
    | ((with_reducible apply only_still (h1 := by decide)); (on_goal 2 => exact ⟨rfl, rfl, rfl, rfl⟩); first | with_reducible assumption | with_reducible exact OnlyChanges.refl)

theorem State.applyCal_only {u : State}  :
    OnlyChanges [.power, .time, .cal, .ports, .events] u (State.applyCal u) := by
  unfold State.applyCal
  repeat' first
    | with_reducible assumption
    | with_reducible apply OnlyChanges.refl
    | (extract_lets +onlyGivenNames y; first | (apply only_cut (v := y); (on_goal 2 => (intro hy; clear_value y)); subst y) | (have hy : TimeState := y; clear hy; subst y) | clear_value y | subst y)
    | (with_reducible apply OnlyChanges.step State.refreshPhi_only; on_goal 2 => decide)
    | (with_reducible apply OnlyChanges.step State.recalibrated_only; on_goal 2 => decide)
    | (with_reducible apply OnlyChanges.step State.recompensate_only; on_goal 2 => decide)
    | (with_reducible apply OnlyChanges.step State.applyTemps_only; on_goal 2 => decide)
    | (with_reducible apply OnlyChanges.step State.loadCal_only; on_goal 2 => decide)
    | with_reducible apply only_ite
    | (with_reducible apply only_foldl; on_goal 2 => intro _ _ _)
    | ((with_reducible apply only_cal (h1 := by decide)); first | with_reducible assumption | with_reducible exact OnlyChanges.refl)
    | ((with_reducible apply only_still (h1 := by decide)); (on_goal 2 => exact ⟨rfl, rfl, rfl, rfl⟩); first | with_reducible assumption | with_reducible exact OnlyChanges.refl)
    | split

theorem State.applyAttach_only {u : State}  :
    OnlyChanges [.parts] u (State.applyAttach u) := by
  unfold State.applyAttach
  repeat' first
    | with_reducible assumption
    | with_reducible apply OnlyChanges.refl
    | (extract_lets +onlyGivenNames y; first | (apply only_cut (v := y); (on_goal 2 => (intro hy; clear_value y)); subst y) | clear_value y | subst y)
    | (with_reducible apply OnlyChanges.step State.setPstate_only; on_goal 2 => decide)
    | (with_reducible apply only_foldl; on_goal 2 => intro _ _ _)
    | ((with_reducible apply only_parts (h1 := by decide)); first | with_reducible assumption | with_reducible exact OnlyChanges.refl)

theorem State.applyIdle_only {u : State}  :
    OnlyChanges [.power] u (State.applyIdle u) := by
  unfold State.applyIdle
  repeat' first
    | with_reducible assumption
    | with_reducible apply OnlyChanges.refl
    | (extract_lets +onlyGivenNames y; first | (apply only_cut (v := y); (on_goal 2 => (intro hy; clear_value y)); subst y) | clear_value y | subst y)
    | (with_reducible apply OnlyChanges.step State.askWake_only; on_goal 2 => decide)
    | with_reducible apply only_ite
    | ((with_reducible apply only_power (h1 := by decide)); first | with_reducible assumption | with_reducible exact OnlyChanges.refl)

theorem State.agePort_only {u : State} {a1 : ℕ} :
    OnlyChanges [.ports] u (State.agePort u a1) := by
  unfold State.agePort
  repeat' first
    | with_reducible assumption
    | with_reducible apply OnlyChanges.refl
    | (with_reducible apply OnlyChanges.step State.modPort_only; on_goal 2 => decide)

theorem State.freeContexts_only {u : State}  :
    OnlyChanges [.groups] u (State.freeContexts u) := by
  unfold State.freeContexts
  repeat' first
    | with_reducible assumption
    | with_reducible apply OnlyChanges.refl
    | (extract_lets +onlyGivenNames y; first | (apply only_cut (v := y); (on_goal 2 => (intro hy; clear_value y)); subst y) | clear_value y | subst y)
    | ((with_reducible apply only_groups (h1 := by decide)); first | with_reducible assumption | with_reducible exact OnlyChanges.refl)

theorem State.loseEntry_only {u : State} {a1 : ℕ} {a2 : Bool} {a3 : Bool} {a4 : ℕ} :
    OnlyChanges [.power, .groups, .events, .stats] u (State.loseEntry u a1 a2 a3 a4) := by
  unfold State.loseEntry
  repeat' first
    | with_reducible assumption
    | with_reducible apply OnlyChanges.refl
    | (extract_lets +onlyGivenNames y; first | (apply only_cut (v := y); (on_goal 2 => (intro hy; clear_value y)); subst y) | clear_value y | subst y)
    | (with_reducible apply OnlyChanges.step State.modGroup_only; on_goal 2 => decide)
    | (with_reducible apply OnlyChanges.step State.sramUE_only; on_goal 2 => decide)
    | split

theorem State.sramErrors_only {u : State} {a1 : TideEnv} :
    OnlyChanges [.power, .ports, .image, .groups, .events, .stats] u (State.sramErrors u a1) := by
  unfold State.sramErrors
  repeat' first
    | with_reducible assumption
    | with_reducible apply OnlyChanges.refl
    | (extract_lets +onlyGivenNames y; first | (apply only_cut (v := y); (on_goal 2 => (intro hy; clear_value y)); subst y) | clear_value y | subst y)
    | (with_reducible apply OnlyChanges.step State.bumpBy_only; on_goal 2 => decide)
    | (with_reducible apply OnlyChanges.step State.abort_only; on_goal 2 => decide)
    | (with_reducible apply OnlyChanges.step State.abortGroups_only; on_goal 2 => decide)
    | (with_reducible apply OnlyChanges.step State.sramUE_only; on_goal 2 => decide)
    | (with_reducible apply OnlyChanges.step State.loseEntry_only; on_goal 2 => decide)
    | with_reducible apply only_ite
    | (with_reducible apply only_foldl; on_goal 2 => intro _ _ _)
    | ((with_reducible apply only_image (h1 := by decide)); first | with_reducible assumption | with_reducible exact OnlyChanges.refl)

theorem State.runEffect_only {u : State} {a1 : ℕ} {a2 : Express} :
    OnlyChanges [.ports, .books, .queues, .groups, .buckets, .staging, .events, .stats] u (State.runEffect u a1 a2) :=
          by
  unfold State.runEffect
  repeat' first
    | with_reducible assumption
    | with_reducible apply OnlyChanges.refl
    | (with_reducible apply OnlyChanges.step State.expressEffect_only; on_goal 2 => decide)
    | (with_reducible apply OnlyChanges.step State.openEffect_only; on_goal 2 => decide)
    | (with_reducible apply OnlyChanges.step State.commitEffect_only; on_goal 2 => decide)
    | with_reducible apply only_ite

theorem State.beginTide_only {u : State}  :
    OnlyChanges [.ports, .books, .queues, .groups, .areas, .events, .stats] u (State.beginTide u) := by
  unfold State.beginTide
  repeat' first
    | with_reducible assumption
    | with_reducible apply OnlyChanges.refl
    | (extract_lets +onlyGivenNames y; first | (apply only_cut (v := y); (on_goal 2 => (intro hy; clear_value y)); subst y) | clear_value y | subst y)
    | (with_reducible apply OnlyChanges.step State.openOperand_only; on_goal 2 => decide)
    | (with_reducible apply OnlyChanges.step State.tryEnterOpens_only; on_goal 2 => decide)
    | (with_reducible apply OnlyChanges.step State.pollReady_only; on_goal 2 => decide)
    | (with_reducible apply OnlyChanges.step State.startSpills_only; on_goal 2 => decide)
    | (with_reducible apply only_foldl; on_goal 2 => intro _ _ _)

theorem State.laterActions_only {u : State}  :
    OnlyChanges (.out :: .power :: .time :: .cal :: .ports :: .books :: .parts :: .queues :: .groups :: .areas ::
          .events :: .stats :: .snaps :: .maint :: []) u (State.laterActions u) := by
  unfold State.laterActions
  repeat' first
    | with_reducible assumption
    | with_reducible apply OnlyChanges.refl
    | (extract_lets +onlyGivenNames y; first | (apply only_cut (v := y); (on_goal 2 => (intro hy; clear_value y)); subst y) | (have hy : TimeState := y; clear hy; subst y) | clear_value y | subst y)
    | (with_reducible apply OnlyChanges.step State.setFrame_only; on_goal 2 => decide)
    | (with_reducible apply OnlyChanges.step State.grantWaiting_only; on_goal 2 => decide)
    | (with_reducible apply OnlyChanges.step State.fetchFirst_only; on_goal 2 => decide)
    | (with_reducible apply OnlyChanges.step State.tryAlign_only; on_goal 2 => decide)
    | (with_reducible apply OnlyChanges.step State.beginTide_only; on_goal 2 => decide)
    | (with_reducible apply OnlyChanges.step State.applyAttach_only; on_goal 2 => decide)
    | (with_reducible apply OnlyChanges.step State.catchPages_only; on_goal 2 => decide)
    | (with_reducible apply OnlyChanges.step State.checkLatency_only; on_goal 2 => decide)
    | (with_reducible apply OnlyChanges.step State.wakeIfReady_only; on_goal 2 => decide)
    | (with_reducible apply OnlyChanges.step State.applyIdle_only; on_goal 2 => decide)
    | (with_reducible apply OnlyChanges.step State.captureMarks_only; on_goal 2 => decide)
    | (with_reducible apply OnlyChanges.step State.withdraw_only; on_goal 2 => decide)
    | (with_reducible apply OnlyChanges.step State.applyCal_only; on_goal 2 => decide)
    | (with_reducible apply OnlyChanges.step State.latchTime_only; on_goal 2 => decide)
    | with_reducible apply only_ite
    | (with_reducible apply only_foldl; on_goal 2 => intro _ _ _)
    | ((with_reducible apply only_still (h1 := by decide)); (on_goal 2 => exact ⟨rfl, rfl, rfl, rfl⟩); first | with_reducible assumption | with_reducible exact OnlyChanges.refl)

theorem State.settle_only {u : State}  :
    OnlyChanges (.out :: .power :: .time :: .cal :: .ports :: .books :: .parts :: .queues :: .groups :: .areas ::
          .events :: .stats :: .snaps :: .maint :: []) u (State.settle u) := by
  unfold State.settle
  repeat' first
    | with_reducible assumption
    | with_reducible apply OnlyChanges.refl
    | (with_reducible apply OnlyChanges.step State.laterActions_only; on_goal 2 => decide)
    | with_reducible apply only_ite

theorem State.missedEffects_only {u : State}  :
    OnlyChanges (.out :: .power :: .time :: .ports :: .books :: .queues :: .groups :: .buckets :: .staging :: .stack
          :: .badUnits :: .units :: .blockCount :: .blockRx :: .events :: .stats :: .maint :: []) u
          (State.missedEffects u) := by
  unfold State.missedEffects
  repeat' first
    | with_reducible assumption
    | with_reducible apply OnlyChanges.refl
    | (extract_lets +onlyGivenNames y; first | (apply only_cut (v := y); (on_goal 2 => (intro hy; clear_value y)); subst y) | clear_value y | subst y)
    | (with_reducible apply OnlyChanges.step State.quarantineDue_only; on_goal 2 => decide)
    | (with_reducible apply OnlyChanges.step State.endConflict_only; on_goal 2 => decide)
    | (with_reducible apply OnlyChanges.step State.takeResume_only; on_goal 2 => decide)
    | (with_reducible apply OnlyChanges.step State.runEffect_only; on_goal 2 => decide)
    | with_reducible apply only_ite
    | (with_reducible apply only_foldl; on_goal 2 => intro _ _ _)
    | split

theorem State.endTide_only {u : State}  :
    OnlyChanges (.out :: .power :: .time :: .cal :: .ports :: .books :: .parts :: .queues :: .groups :: .buckets ::
          .staging :: .stack :: .badUnits :: .units :: .blockCount :: .blockRx :: .areas :: .events :: .stats ::
          .snaps :: .maint :: []) u (State.endTide u) := by
  unfold State.endTide
  repeat' first
    | with_reducible assumption
    | with_reducible apply OnlyChanges.refl
    | (extract_lets +onlyGivenNames y; first | (apply only_cut (v := y); (on_goal 2 => (intro hy; clear_value y)); subst y) | clear_value y | subst y)
    | (with_reducible apply OnlyChanges.step State.laterActions_only; on_goal 2 => decide)
    | (with_reducible apply OnlyChanges.step State.showPages_only; on_goal 2 => decide)
    | (with_reducible apply OnlyChanges.step State.missedEffects_only; on_goal 2 => decide)
    | with_reducible apply only_ite

theorem State.boundary_only {u : State} {a1 : TideEnv} :
    OnlyChanges (.out :: .power :: .clock :: .time :: .cal :: .ports :: .image :: .books :: .parts :: .queues ::
          .triggers :: .groups :: .buckets :: .staging :: .stack :: .badUnits :: .units :: .blockCount :: .blockRx ::
          .flows :: .areas :: .rings :: .events :: .stats :: .snaps :: .maint :: []) u (State.boundary u a1) := by
  unfold State.boundary
  repeat' first
    | with_reducible assumption
    | with_reducible apply OnlyChanges.refl
    | (extract_lets +onlyGivenNames y; first | (apply only_cut (v := y); (on_goal 2 => (intro hy; clear_value y)); subst y) | (have hy : TimeState := y; clear hy; subst y) | clear_value y | subst y)
    | (with_reducible apply OnlyChanges.step State.failBlocks_only; on_goal 2 => decide)
    | (with_reducible apply OnlyChanges.step State.scrubOutcome_only; on_goal 2 => decide)
    | (with_reducible apply OnlyChanges.step State.sendFrames_only; on_goal 2 => decide)
    | (with_reducible apply OnlyChanges.step State.sramErrors_only; on_goal 2 => decide)
    | (with_reducible apply OnlyChanges.step State.settle_only; on_goal 2 => decide)
    | (with_reducible apply OnlyChanges.step State.withdraw_only; on_goal 2 => decide)
    | (with_reducible apply OnlyChanges.step State.writeOverdue_only; on_goal 2 => decide)
    | (with_reducible apply OnlyChanges.step State.agePort_only; on_goal 2 => decide)
    | (with_reducible apply OnlyChanges.step State.markReady_only; on_goal 2 => decide)
    | (with_reducible apply OnlyChanges.step State.flushTide_only; on_goal 2 => decide)
    | (with_reducible apply OnlyChanges.step State.endTide_only; on_goal 2 => decide)
    | (with_reducible apply OnlyChanges.step State.settleBooks_only; on_goal 2 => decide)
    | (with_reducible apply OnlyChanges.step State.freeContexts_only; on_goal 2 => decide)
    | (with_reducible apply OnlyChanges.step State.passTide_only; on_goal 2 => decide)
    | with_reducible apply only_ite
    | (with_reducible apply only_foldl; on_goal 2 => intro _ _ _)
    | ((with_reducible apply only_maint (h1 := by decide)); first | with_reducible assumption | with_reducible exact OnlyChanges.refl)
    | ((with_reducible apply only_still (h1 := by decide)); (on_goal 2 => exact ⟨rfl, rfl, rfl, rfl⟩); first | with_reducible assumption | with_reducible exact OnlyChanges.refl)

theorem State.alignFault_only {u : State} {a1 : ℕ} :
    OnlyChanges [.out, .time, .ports, .groups, .events, .stats] u (State.alignFault u a1) := by
  unfold State.alignFault
  repeat' first
    | with_reducible assumption
    | with_reducible apply OnlyChanges.refl
    | (extract_lets +onlyGivenNames y; first | (apply only_cut (v := y); (on_goal 2 => (intro hy; clear_value y)); subst y) | (have hy : TimeState := y; clear hy; subst y) | clear_value y | subst y)
    | (with_reducible apply OnlyChanges.step State.loseTimePort_only; on_goal 2 => decide)
    | (with_reducible apply OnlyChanges.step State.abortGroups_only; on_goal 2 => decide)
    | (with_reducible apply OnlyChanges.step State.bumpPort_only; on_goal 2 => decide)
    | (with_reducible apply OnlyChanges.step State.quarantine_only; on_goal 2 => decide)
    | with_reducible apply only_ite
    | ((with_reducible apply only_still (h1 := by decide)); (on_goal 2 => exact ⟨rfl, rfl, rfl, rfl⟩); first | with_reducible assumption | with_reducible exact OnlyChanges.refl)

theorem State.takeMark_only {u : State} {a1 : ℕ} {a2 : Stamp} {a3 : Bytes} :
    OnlyChanges [.out, .time, .ports, .groups, .events, .stats] u (State.takeMark u a1 a2 a3) := by
  unfold State.takeMark
  repeat' first
    | with_reducible assumption
    | with_reducible apply OnlyChanges.refl
    | (extract_lets +onlyGivenNames y; first | (apply only_cut (v := y); (on_goal 2 => (intro hy; clear_value y)); subst y) | clear_value y | subst y)
    | (with_reducible apply OnlyChanges.step State.modPort_only; on_goal 2 => decide)
    | (with_reducible apply OnlyChanges.step State.alignFault_only; on_goal 2 => decide)
    | (with_reducible apply OnlyChanges.step State.quarantine_only; on_goal 2 => decide)
    | with_reducible apply only_ite

end Sys2Proof.Machine
end

