-- ==== Sys2Proof/Laws/Frame5.lean ====
section
/-! SUPPORT. Frame lemmas, part 5 of 8: for each operation and command, the parts of the state that it can change. -/

namespace Sys2Proof.Machine

open Sys2Proof State

set_option linter.unreachableTactic false
set_option linter.unusedTactic false

theorem State.drivePps_only {u : State}  :
    OnlyChanges [.out, .time] u (State.drivePps u) := by
  unfold State.drivePps
  repeat' first
    | with_reducible assumption
    | with_reducible apply OnlyChanges.refl
    | (extract_lets +onlyGivenNames y; first | (apply only_cut (v := y); (on_goal 2 => (intro hy; clear_value y)); subst y) | (have hy : TimeState := y; clear hy; subst y) | clear_value y | subst y)
    | (with_reducible apply OnlyChanges.step State.emit_only; on_goal 2 => decide)
    | with_reducible apply only_ite
    | ((with_reducible apply only_still (h1 := by decide)); (on_goal 2 => exact ⟨rfl, rfl, rfl, rfl⟩); first | with_reducible assumption | with_reducible exact OnlyChanges.refl)

theorem State.setPpsTod_only {u : State} {a1 : ℕ} :
    OnlyChanges [.time] u (State.setPpsTod u a1) := by
  unfold State.setPpsTod
  repeat' first
    | with_reducible assumption
    | with_reducible apply OnlyChanges.refl
    | (extract_lets +onlyGivenNames y; first | (apply only_cut (v := y); (on_goal 2 => (intro hy; clear_value y)); subst y) | (have hy : TimeState := y; clear hy; subst y) | clear_value y | subst y)
    | ((with_reducible apply only_still (h1 := by decide)); (on_goal 2 => exact ⟨rfl, rfl, rfl, rfl⟩); first | with_reducible assumption | with_reducible exact OnlyChanges.refl)

theorem State.useTod_only {u : State} {a1 : ℤ} :
    OnlyChanges [.time] u (State.useTod u a1) := by
  unfold State.useTod
  repeat' first
    | with_reducible assumption
    | with_reducible apply OnlyChanges.refl
    | (extract_lets +onlyGivenNames y; first | (apply only_cut (v := y); (on_goal 2 => (intro hy; clear_value y)); subst y) | (have hy : TimeState := y; clear hy; subst y) | clear_value y | subst y)
    | ((with_reducible apply only_still (h1 := by decide)); (on_goal 2 => exact ⟨rfl, rfl, rfl, rfl⟩); first | with_reducible assumption | with_reducible exact OnlyChanges.refl)

theorem State.takeEdge_only {u : State} {a1 : Stamp} {a2 : LoopMeas} :
    OnlyChanges [.out, .clock, .time, .events, .stats] u (State.takeEdge u a1 a2) := by
  unfold State.takeEdge
  repeat' first
    | with_reducible assumption
    | with_reducible apply OnlyChanges.refl
    | (extract_lets +onlyGivenNames y; first | (apply only_cut (v := y); (on_goal 2 => (intro hy; clear_value y)); subst y) | (have hy : TimeState := y; clear hy; subst y) | clear_value y | subst y)
    | (with_reducible apply OnlyChanges.step State.bump_only; on_goal 2 => decide)
    | (with_reducible apply OnlyChanges.step State.useTod_only; on_goal 2 => decide)
    | (with_reducible apply OnlyChanges.step State.reference_only; on_goal 2 => decide)
    | with_reducible apply only_ite
    | ((with_reducible apply only_still (h1 := by decide)); (on_goal 2 => exact ⟨rfl, rfl, rfl, rfl⟩); first | with_reducible assumption | with_reducible exact OnlyChanges.refl)

theorem execTideBoundary_only {u t : State} {a0 : TideEnv} (ht : execTideBoundary a0 u = .next t) :
    OnlyChanges (.out :: .power :: .clock :: .time :: .cal :: .ports :: .image :: .books :: .parts :: .queues ::
          .triggers :: .groups :: .buckets :: .staging :: .stack :: .badUnits :: .units :: .blockCount :: .blockRx ::
          .flows :: .areas :: .rings :: .events :: .stats :: .snaps :: .maint :: []) u t := by
  unfold execTideBoundary at ht
  first | refine whenRunning_only ht ?_ | refine whenAlive_only ht ?_ | (injection ht with ht; subst ht)
  repeat' first
    | with_reducible assumption
    | with_reducible apply OnlyChanges.refl
    | (with_reducible apply OnlyChanges.step State.boundary_only; on_goal 2 => decide)
    | (with_reducible apply OnlyChanges.step State.passTide_only; on_goal 2 => decide)
    | with_reducible apply only_ite

theorem execTideMarkReceived_only {u t : State} {a0 : ℕ} {a1 : Stamp} {a2 : Bytes} (ht : execTideMarkReceived a0 a1 a2
      u = .next t) :
    OnlyChanges [.out, .time, .ports, .groups, .events, .stats] u t := by
  unfold execTideMarkReceived at ht
  first | refine whenRunning_only ht ?_ | refine whenAlive_only ht ?_ | (injection ht with ht; subst ht)
  repeat' first
    | with_reducible assumption
    | with_reducible apply OnlyChanges.refl
    | (with_reducible apply State.withCell_only; (on_goal 3 => decide); (on_goal 2 => intro _ _))
    | (with_reducible apply OnlyChanges.step State.takeMark_only; on_goal 2 => decide)

theorem execSync_only {u t : State} {a0 : ℕ} {a1 : Stamp} {a2 : Bytes} {a3 : LoopMeas} (ht : execSync a0 a1 a2 a3 u =
      .next t) :
    OnlyChanges [.out, .clock, .time, .ports, .events, .stats] u t := by
  unfold execSync at ht
  first | refine whenRunning_only ht ?_ | refine whenAlive_only ht ?_ | (injection ht with ht; subst ht)
  repeat' first
    | with_reducible assumption
    | with_reducible apply OnlyChanges.refl
    | (with_reducible apply OnlyChanges.step State.takeSync_only; on_goal 2 => decide)
    | (with_reducible apply State.withPtp_only; (on_goal 3 => decide); (on_goal 2 => intro _ _ _))

theorem execFollowUp_only {u t : State} {a0 : ℕ} {a1 : Bytes} (ht : execFollowUp a0 a1 u = .next t) :
    OnlyChanges [.time, .ports, .events, .stats] u t := by
  unfold execFollowUp at ht
  first | refine whenRunning_only ht ?_ | refine whenAlive_only ht ?_ | (injection ht with ht; subst ht)
  repeat' first
    | with_reducible assumption
    | with_reducible apply OnlyChanges.refl
    | (extract_lets +onlyGivenNames y; first | (apply only_cut (v := y); (on_goal 2 => (intro hy; clear_value y)); subst y) | clear_value y | subst y)
    | (with_reducible apply OnlyChanges.step State.setOffset_only; on_goal 2 => decide)
    | (with_reducible apply State.withPtp_only; (on_goal 3 => decide); (on_goal 2 => intro _ _ _))
    | with_reducible apply only_ite

theorem execDelayResp_only {u t : State} {a0 : ℕ} {a1 : Bytes} (ht : execDelayResp a0 a1 u = .next t) :
    OnlyChanges [.out, .time, .ports, .groups, .events, .stats] u t := by
  unfold execDelayResp at ht
  first | refine whenRunning_only ht ?_ | refine whenAlive_only ht ?_ | (injection ht with ht; subst ht)
  repeat' first
    | with_reducible assumption
    | with_reducible apply OnlyChanges.refl
    | (extract_lets +onlyGivenNames y; first | (apply only_cut (v := y); (on_goal 2 => (intro hy; clear_value y)); subst y) | clear_value y | subst y)
    | (with_reducible apply OnlyChanges.step State.setTimePort_only; on_goal 2 => decide)
    | (with_reducible apply OnlyChanges.step State.measured_only; on_goal 2 => decide)
    | (with_reducible apply State.withPtp_only; (on_goal 3 => decide); (on_goal 2 => intro _ _ _))
    | with_reducible apply only_ite
    | split

theorem execAnnounce_only {u t : State} {a0 : ℕ} {a1 : Bytes} (ht : execAnnounce a0 a1 u = .next t) :
    OnlyChanges [.out, .time, .ports, .events, .stats] u t := by
  unfold execAnnounce at ht
  first | refine whenRunning_only ht ?_ | refine whenAlive_only ht ?_ | (injection ht with ht; subst ht)
  repeat' first
    | with_reducible assumption
    | with_reducible apply OnlyChanges.refl
    | (extract_lets +onlyGivenNames y; first | (apply only_cut (v := y); (on_goal 2 => (intro hy; clear_value y)); subst y) | clear_value y | subst y)
    | (with_reducible apply OnlyChanges.step State.loseTimePort_only; on_goal 2 => decide)
    | (with_reducible apply OnlyChanges.step State.setTimePort_only; on_goal 2 => decide)
    | (with_reducible apply State.withPtp_only; (on_goal 3 => decide); (on_goal 2 => intro _ _ _))
    | with_reducible apply only_ite

theorem execDelayReqSend_only {u t : State} {a0 : ℕ} {a1 : Stamp} (ht : execDelayReqSend a0 a1 u = .next t) :
    OnlyChanges [.time, .ports] u t := by
  unfold execDelayReqSend at ht
  first | refine whenRunning_only ht ?_ | refine whenAlive_only ht ?_ | (injection ht with ht; subst ht)
  repeat' first
    | with_reducible assumption
    | with_reducible apply OnlyChanges.refl
    | (extract_lets +onlyGivenNames y; first | (apply only_cut (v := y); (on_goal 2 => (intro hy; clear_value y)); subst y) | clear_value y | subst y)
    | (with_reducible apply OnlyChanges.step State.sendVc3_only; on_goal 2 => decide)
    | (with_reducible apply OnlyChanges.step State.setTimePort_only; on_goal 2 => decide)
    | with_reducible apply only_ite
    | split

theorem execSyncTimeout_only {u t : State} {a0 : ℕ} (ht : execSyncTimeout a0 u = .next t) :
    OnlyChanges [.out, .time, .events, .stats] u t := by
  unfold execSyncTimeout at ht
  first | refine whenRunning_only ht ?_ | refine whenAlive_only ht ?_ | (injection ht with ht; subst ht)
  repeat' first
    | with_reducible assumption
    | with_reducible apply OnlyChanges.refl
    | (with_reducible apply OnlyChanges.step State.loseTimePort_only; on_goal 2 => decide)
    | with_reducible apply only_ite

theorem execAnnounceReceiptTimeout_only {u t : State} {a0 : ℕ} (ht : execAnnounceReceiptTimeout a0 u = .next t) :
    OnlyChanges [.out, .time, .events, .stats] u t := by
  unfold execAnnounceReceiptTimeout at ht
  first | refine whenRunning_only ht ?_ | refine whenAlive_only ht ?_ | (injection ht with ht; subst ht)
  repeat' first
    | with_reducible assumption
    | with_reducible apply OnlyChanges.refl
    | (extract_lets +onlyGivenNames y; first | (apply only_cut (v := y); (on_goal 2 => (intro hy; clear_value y)); subst y) | clear_value y | subst y)
    | (with_reducible apply OnlyChanges.step State.loseTimePort_only; on_goal 2 => decide)
    | (with_reducible apply OnlyChanges.step State.setTimePort_only; on_goal 2 => decide)
    | with_reducible apply only_ite

theorem execHoldoverBoundReached_only {u t : State}  (ht : execHoldoverBoundReached u = .next t) :
    OnlyChanges [.time] u t := by
  unfold execHoldoverBoundReached at ht
  first | refine whenRunning_only ht ?_ | refine whenAlive_only ht ?_ | (injection ht with ht; subst ht)
  repeat' first
    | with_reducible assumption
    | with_reducible apply OnlyChanges.refl
    | (with_reducible apply OnlyChanges.step State.askLost_only; on_goal 2 => decide)
    | with_reducible apply only_ite

theorem execTimeLost_only {u t : State}  (ht : execTimeLost u = .next t) :
    OnlyChanges [.out, .power, .time, .ports, .groups, .events, .stats] u t := by
  unfold execTimeLost at ht
  first | refine whenRunning_only ht ?_ | refine whenAlive_only ht ?_ | (injection ht with ht; subst ht)
  repeat' first
    | with_reducible assumption
    | with_reducible apply OnlyChanges.refl
    | (extract_lets +onlyGivenNames y; first | (apply only_cut (v := y); (on_goal 2 => (intro hy; clear_value y)); subst y) | (have hy : TimeState := y; clear hy; subst y) | clear_value y | subst y)
    | (with_reducible apply OnlyChanges.step State.enterLoop_only; on_goal 2 => decide)
    | (with_reducible apply OnlyChanges.step State.bump_only; on_goal 2 => decide)
    | (with_reducible apply OnlyChanges.step State.abortGroups_only; on_goal 2 => decide)
    | (with_reducible apply OnlyChanges.step State.withdraw_only; on_goal 2 => decide)
    | with_reducible apply only_ite
    | ((with_reducible apply only_power_still (h1 := by decide) (h2 := by decide)); (on_goal 2 => exact ⟨rfl, rfl, rfl, rfl⟩); first | with_reducible assumption | with_reducible exact OnlyChanges.refl)
    | split

theorem execPpsOut_only {u t : State}  (ht : execPpsOut u = .next t) :
    OnlyChanges [.out, .time] u t := by
  unfold execPpsOut at ht
  first | refine whenRunning_only ht ?_ | refine whenAlive_only ht ?_ | (injection ht with ht; subst ht)
  repeat' first
    | with_reducible assumption
    | with_reducible apply OnlyChanges.refl
    | (with_reducible apply OnlyChanges.step State.drivePps_only; on_goal 2 => decide)

theorem execPpsInEdge_only {u t : State} {a0 : Stamp} {a1 : LoopMeas} (ht : execPpsInEdge a0 a1 u = .next t) :
    OnlyChanges [.out, .clock, .time, .events, .stats] u t := by
  unfold execPpsInEdge at ht
  first | refine whenRunning_only ht ?_ | refine whenAlive_only ht ?_ | (injection ht with ht; subst ht)
  repeat' first
    | with_reducible assumption
    | with_reducible apply OnlyChanges.refl
    | (with_reducible apply OnlyChanges.step State.takeEdge_only; on_goal 2 => decide)
    | with_reducible apply only_ite

theorem execPpsTodWrite_only {u t : State} {a0 : ℕ} {a1 : Word64} (ht : execPpsTodWrite a0 a1 u = .next t) :
    OnlyChanges [.time, .host, .events, .stats] u t := by
  unfold execPpsTodWrite at ht
  first | refine whenRunning_only ht ?_ | refine whenAlive_only ht ?_ | (injection ht with ht; subst ht)
  repeat' first
    | with_reducible assumption
    | with_reducible apply OnlyChanges.refl
    | (with_reducible apply State.asPriv_only; (on_goal 3 => decide); (on_goal 2 => intro _))
    | (with_reducible apply OnlyChanges.step State.setPpsTod_only; on_goal 2 => decide)

theorem execCommitEffect_only {u t : State} {a0 : ℕ} (ht : execCommitEffect a0 u = .next t) :
    OnlyChanges (.out :: .power :: .time :: .cal :: .ports :: .books :: .parts :: .queues :: .groups :: .buckets ::
          .staging :: .areas :: .events :: .stats :: .snaps :: .maint :: []) u t := by
  unfold execCommitEffect at ht
  first | refine whenRunning_only ht ?_ | refine whenAlive_only ht ?_ | (injection ht with ht; subst ht)
  repeat' first
    | with_reducible assumption
    | with_reducible apply OnlyChanges.refl
    | (with_reducible apply OnlyChanges.step State.settle_only; on_goal 2 => decide)
    | (with_reducible apply OnlyChanges.step State.commitEffect_only; on_goal 2 => decide)

theorem execOpenEffect_only {u t : State} {a0 : ℕ} (ht : execOpenEffect a0 u = .next t) :
    OnlyChanges (.out :: .power :: .time :: .cal :: .ports :: .books :: .parts :: .queues :: .groups :: .staging ::
          .areas :: .events :: .stats :: .snaps :: .maint :: []) u t := by
  unfold execOpenEffect at ht
  first | refine whenRunning_only ht ?_ | refine whenAlive_only ht ?_ | (injection ht with ht; subst ht)
  repeat' first
    | with_reducible assumption
    | with_reducible apply OnlyChanges.refl
    | (with_reducible apply OnlyChanges.step State.settle_only; on_goal 2 => decide)
    | (with_reducible apply OnlyChanges.step State.openEffect_only; on_goal 2 => decide)

theorem execExpressEffect_only {u t : State} {a0 : ℕ} {a1 : ℕ} {a2 : ℕ} (ht : execExpressEffect a0 a1 a2 u = .next t) :
    OnlyChanges (.out :: .power :: .time :: .cal :: .ports :: .books :: .parts :: .queues :: .groups :: .areas ::
          .events :: .stats :: .snaps :: .maint :: []) u t := by
  unfold execExpressEffect at ht
  first | refine whenRunning_only ht ?_ | refine whenAlive_only ht ?_ | (injection ht with ht; subst ht)
  repeat' first
    | with_reducible assumption
    | with_reducible apply OnlyChanges.refl
    | (with_reducible apply OnlyChanges.step State.expressEffect_only; on_goal 2 => decide)
    | (with_reducible apply OnlyChanges.step State.settle_only; on_goal 2 => decide)

theorem execResumeTide_only {u t : State} {a0 : ℕ} (ht : execResumeTide a0 u = .next t) :
    OnlyChanges (.out :: .power :: .time :: .cal :: .ports :: .books :: .parts :: .queues :: .groups :: .buckets ::
          .stack :: .badUnits :: .units :: .blockCount :: .blockRx :: .areas :: .events :: .stats :: .snaps :: .maint
          :: []) u t := by
  unfold execResumeTide at ht
  first | refine whenRunning_only ht ?_ | refine whenAlive_only ht ?_ | (injection ht with ht; subst ht)
  repeat' first
    | with_reducible assumption
    | with_reducible apply OnlyChanges.refl
    | (extract_lets +onlyGivenNames y; first | (apply only_cut (v := y); (on_goal 2 => (intro hy; clear_value y)); subst y) | clear_value y | subst y)
    | (with_reducible apply OnlyChanges.step State.modGroup_only; on_goal 2 => decide)
    | (with_reducible apply OnlyChanges.step State.bump_only; on_goal 2 => decide)
    | (with_reducible apply OnlyChanges.step State.endConflict_only; on_goal 2 => decide)
    | (with_reducible apply OnlyChanges.step State.settle_only; on_goal 2 => decide)
    | (with_reducible apply OnlyChanges.step State.takeResume_only; on_goal 2 => decide)
    | with_reducible apply only_ite
    | split

theorem State.startPort_only {u : State} {a1 : ℕ} :
    OnlyChanges [.ports] u (State.startPort u a1) := by
  unfold State.startPort
  repeat' first
    | with_reducible assumption
    | with_reducible apply OnlyChanges.refl
    | (with_reducible apply OnlyChanges.step State.modPort_only; on_goal 2 => decide)
    | with_reducible apply only_ite

theorem State.retrainPort_only {u : State} {a1 : ℕ} :
    OnlyChanges [.out, .time, .ports, .groups, .events, .stats, .maint] u (State.retrainPort u a1) := by
  unfold State.retrainPort
  repeat' first
    | with_reducible assumption
    | with_reducible apply OnlyChanges.refl
    | (with_reducible apply OnlyChanges.step State.leaveTraining_only; on_goal 2 => decide)
    | with_reducible apply only_ite

theorem State.noteHail_only {u : State} {a1 : ℕ} {a2 : Hail} :
    OnlyChanges [.ports] u (State.noteHail u a1 a2) := by
  unfold State.noteHail
  repeat' first
    | with_reducible assumption
    | with_reducible apply OnlyChanges.refl
    | (extract_lets +onlyGivenNames y; first | (apply only_cut (v := y); (on_goal 2 => (intro hy; clear_value y)); subst y) | clear_value y | subst y)
    | (with_reducible apply OnlyChanges.step State.modPort_only; on_goal 2 => decide)

theorem State.endExchange_only {u : State} {a1 : ℕ} :
    OnlyChanges [.ports] u (State.endExchange u a1) := by
  unfold State.endExchange
  repeat' first
    | with_reducible assumption
    | with_reducible apply OnlyChanges.refl
    | (with_reducible apply OnlyChanges.step State.modPort_only; on_goal 2 => decide)
    | with_reducible apply only_ite

theorem State.dropRemeasure_only {u : State} {a1 : ℕ} :
    OnlyChanges [.ports, .events, .stats, .maint] u (State.dropRemeasure u a1) := by
  unfold State.dropRemeasure
  repeat' first
    | with_reducible assumption
    | with_reducible apply OnlyChanges.refl
    | (with_reducible apply OnlyChanges.step State.modPort_only; on_goal 2 => decide)
    | (with_reducible apply OnlyChanges.step State.dropTokens_only; on_goal 2 => decide)
    | (with_reducible apply OnlyChanges.step State.bumpPort_only; on_goal 2 => decide)
    | (with_reducible apply OnlyChanges.step State.endExchange_only; on_goal 2 => decide)
    | with_reducible apply only_ite

theorem State.meetPartner_only {u : State} {a1 : ℕ} {a2 : Hail} :
    OnlyChanges [.cal, .ports, .events, .stats, .maint] u (State.meetPartner u a1 a2) := by
  unfold State.meetPartner
  repeat' first
    | with_reducible assumption
    | with_reducible apply OnlyChanges.refl
    | (extract_lets +onlyGivenNames y; first | (apply only_cut (v := y); (on_goal 2 => (intro hy; clear_value y)); subst y) | clear_value y | subst y)
    | (with_reducible apply OnlyChanges.step State.noteHail_only; on_goal 2 => decide)
    | (with_reducible apply OnlyChanges.step State.dropRemeasure_only; on_goal 2 => decide)
    | (with_reducible apply OnlyChanges.step State.dropDelay_only; on_goal 2 => decide)
    | with_reducible apply only_ite

theorem State.leaveQuarantine_only {u : State} {a1 : ℕ} :
    OnlyChanges [.out, .time, .ports, .events, .stats] u (State.leaveQuarantine u a1) := by
  unfold State.leaveQuarantine
  repeat' first
    | with_reducible assumption
    | with_reducible apply OnlyChanges.refl
    | (with_reducible apply OnlyChanges.step State.enterDiscover_only; on_goal 2 => decide)
    | (with_reducible apply OnlyChanges.step State.enterAlign_only; on_goal 2 => decide)
    | with_reducible apply only_ite

theorem State.hailInQuarantine_only {u : State} {a1 : ℕ} {a2 : Bool} :
    OnlyChanges [.out, .time, .ports, .events, .stats] u (State.hailInQuarantine u a1 a2) := by
  unfold State.hailInQuarantine
  repeat' first
    | with_reducible assumption
    | with_reducible apply OnlyChanges.refl
    | (extract_lets +onlyGivenNames y; first | (apply only_cut (v := y); (on_goal 2 => (intro hy; clear_value y)); subst y) | clear_value y | subst y)
    | (with_reducible apply OnlyChanges.step State.modPort_only; on_goal 2 => decide)
    | (with_reducible apply OnlyChanges.step State.enterQuarantine_only; on_goal 2 => decide)
    | (with_reducible apply OnlyChanges.step State.leaveQuarantine_only; on_goal 2 => decide)
    | with_reducible apply only_ite

theorem State.acceptHail_only {u : State} {a1 : ℕ} {a2 : Hail} :
    OnlyChanges [.out, .time, .cal, .ports, .groups, .events, .stats, .maint] u (State.acceptHail u a1 a2) := by
  unfold State.acceptHail
  repeat' first
    | with_reducible assumption
    | with_reducible apply OnlyChanges.refl
    | (extract_lets +onlyGivenNames y; first | (apply only_cut (v := y); (on_goal 2 => (intro hy; clear_value y)); subst y) | clear_value y | subst y)
    | (with_reducible apply OnlyChanges.step State.modPort_only; on_goal 2 => decide)
    | (with_reducible apply OnlyChanges.step State.openOperand_only; on_goal 2 => decide)
    | (with_reducible apply OnlyChanges.step State.tryAlign_only; on_goal 2 => decide)
    | (with_reducible apply OnlyChanges.step State.hailInQuarantine_only; on_goal 2 => decide)
    | (with_reducible apply OnlyChanges.step State.quarantine_only; on_goal 2 => decide)
    | (with_reducible apply OnlyChanges.step State.needDelay_only; on_goal 2 => decide)
    | (with_reducible apply OnlyChanges.step State.meetPartner_only; on_goal 2 => decide)
    | with_reducible apply only_ite
    | (with_reducible apply only_foldl; on_goal 2 => intro _ _ _)

theorem State.endOpens_only {u : State} {a1 : ℕ} {a2 : ℕ} {a3 : Hail} :
    OnlyChanges [.ports, .groups, .events, .stats] u (State.endOpens u a1 a2 a3) := by
  unfold State.endOpens
  repeat' first
    | with_reducible assumption
    | with_reducible apply OnlyChanges.refl
    | (with_reducible apply OnlyChanges.step State.abortGroup_only; on_goal 2 => decide)
    | (with_reducible apply OnlyChanges.step State.bump_only; on_goal 2 => decide)
    | with_reducible apply only_ite
    | (with_reducible apply only_foldl; on_goal 2 => intro _ _ _)

theorem State.takeHail_only {u : State} {a1 : ℕ} {a2 : Hail} :
    OnlyChanges [.out, .time, .cal, .ports, .groups, .events, .stats, .maint] u (State.takeHail u a1 a2) := by
  unfold State.takeHail
  repeat' first
    | with_reducible assumption
    | with_reducible apply OnlyChanges.refl
    | (extract_lets +onlyGivenNames y; first | (apply only_cut (v := y); (on_goal 2 => (intro hy; clear_value y)); subst y) | clear_value y | subst y)
    | (with_reducible apply OnlyChanges.step State.modPort_only; on_goal 2 => decide)
    | (with_reducible apply OnlyChanges.step State.endOpens_only; on_goal 2 => decide)
    | (with_reducible apply OnlyChanges.step State.bumpPort_only; on_goal 2 => decide)
    | (with_reducible apply OnlyChanges.step State.quarantine_only; on_goal 2 => decide)
    | (with_reducible apply OnlyChanges.step State.acceptHail_only; on_goal 2 => decide)
    | (with_reducible apply OnlyChanges.step State.meetPartner_only; on_goal 2 => decide)
    | with_reducible apply only_ite
    | split

theorem State.askDelay_only {u : State} {a1 : ℕ} {a2 : Stamp} :
    OnlyChanges [.ports] u (State.askDelay u a1 a2) := by
  unfold State.askDelay
  repeat' first
    | with_reducible assumption
    | with_reducible apply OnlyChanges.refl
    | (extract_lets +onlyGivenNames y; first | (apply only_cut (v := y); (on_goal 2 => (intro hy; clear_value y)); subst y) | clear_value y | subst y)
    | (with_reducible apply OnlyChanges.step State.modPort_only; on_goal 2 => decide)
    | (with_reducible apply OnlyChanges.step State.sendVc3_only; on_goal 2 => decide)
    | with_reducible apply only_ite

theorem State.answerDelay_only {u : State} {a1 : ℕ} {a2 : Stamp} {a3 : Stamp} {a4 : Bytes} :
    OnlyChanges [.ports] u (State.answerDelay u a1 a2 a3 a4) := by
  unfold State.answerDelay
  repeat' first
    | with_reducible assumption
    | with_reducible apply OnlyChanges.refl
    | (with_reducible apply OnlyChanges.step State.sendVc3_only; on_goal 2 => decide)
    | with_reducible apply only_ite

theorem State.takeDelay_only {u : State} {a1 : ℕ} {a2 : Stamp} {a3 : Bytes} :
    OnlyChanges [.out, .time, .cal, .ports, .groups, .events, .stats, .maint] u (State.takeDelay u a1 a2 a3) := by
  unfold State.takeDelay
  repeat' first
    | with_reducible assumption
    | with_reducible apply OnlyChanges.refl
    | (extract_lets +onlyGivenNames y; first | (apply only_cut (v := y); (on_goal 2 => (intro hy; clear_value y)); subst y) | clear_value y | subst y)
    | (with_reducible apply OnlyChanges.step State.measured_only; on_goal 2 => decide)
    | (with_reducible apply OnlyChanges.step State.countExchange_only; on_goal 2 => decide)
    | (with_reducible apply OnlyChanges.step State.endExchange_only; on_goal 2 => decide)
    | with_reducible apply only_ite
    | split

theorem State.takePrbs_only {u : State} {a1 : ℕ} {a2 : Bytes} :
    OnlyChanges [.ports, .events, .stats] u (State.takePrbs u a1 a2) := by
  unfold State.takePrbs
  repeat' first
    | with_reducible assumption
    | with_reducible apply OnlyChanges.refl
    | (extract_lets +onlyGivenNames y; first | (apply only_cut (v := y); (on_goal 2 => (intro hy; clear_value y)); subst y) | clear_value y | subst y)
    | (with_reducible apply OnlyChanges.step State.modPort_only; on_goal 2 => decide)
    | (with_reducible apply OnlyChanges.step State.bumpPort_only; on_goal 2 => decide)
    | with_reducible apply only_ite
    | split

theorem State.putStaged_only {u : State} {a1 : StagedCell} :
    OnlyChanges [.staging] u (State.putStaged u a1) := by
  unfold State.putStaged
  repeat' first
    | with_reducible assumption
    | with_reducible apply OnlyChanges.refl
    | with_reducible apply only_ite
    | ((with_reducible apply only_staging (h1 := by decide)); first | with_reducible assumption | with_reducible exact OnlyChanges.refl)

theorem State.stage_only {u : State} {a1 : OpView} {a2 : ℕ} {a3 : ℕ} {a4 : ℕ} {a5 : CellFields} {a6 : Bytes} :
    OnlyChanges [.groups, .staging] u (State.stage u a1 a2 a3 a4 a5 a6) := by
  unfold State.stage
  repeat' first
    | with_reducible assumption
    | with_reducible apply OnlyChanges.refl
    | (extract_lets +onlyGivenNames y; first | (apply only_cut (v := y); (on_goal 2 => (intro hy; clear_value y)); subst y) | clear_value y | subst y)
    | (with_reducible apply OnlyChanges.step State.putStaged_only; on_goal 2 => decide)
    | (with_reducible apply OnlyChanges.step State.takeCtx_only; on_goal 2 => decide)
    | (with_reducible apply OnlyChanges.step State.modCtx_only; on_goal 2 => decide)
    | with_reducible apply only_ite

theorem State.takeChunkCell_only {u : State} {a1 : ℕ} {a2 : ℕ} {a3 : ImgRun} {a4 : CellFields} {a5 : Bytes} :
    OnlyChanges [.ports, .groups, .staging, .events, .stats] u (State.takeChunkCell u a1 a2 a3 a4 a5) := by
  unfold State.takeChunkCell
  repeat' first
    | with_reducible assumption
    | with_reducible apply OnlyChanges.refl
    | (extract_lets +onlyGivenNames y; first | (apply only_cut (v := y); (on_goal 2 => (intro hy; clear_value y)); subst y) | clear_value y | subst y)
    | (with_reducible apply OnlyChanges.step State.stage_only; on_goal 2 => decide)
    | (with_reducible apply OnlyChanges.step State.abort_only; on_goal 2 => decide)
    | (with_reducible apply OnlyChanges.step State.askRepeat_only; on_goal 2 => decide)
    | (with_reducible apply OnlyChanges.step State.bumpPort_only; on_goal 2 => decide)
    | with_reducible apply only_ite
    | split

theorem State.stageBlock_only {u : State} {a1 : ℕ} {a2 : ℕ} {a3 : ℕ} {a4 : CellFields} {a5 : Bytes} :
    OnlyChanges [.staging] u (State.stageBlock u a1 a2 a3 a4 a5) := by
  unfold State.stageBlock
  repeat' first
    | with_reducible assumption
    | with_reducible apply OnlyChanges.refl
    | (with_reducible apply OnlyChanges.step State.putStaged_only; on_goal 2 => decide)

theorem State.missBlock_only {u : State} {a1 : ℕ} {a2 : ℕ} {a3 : ImgRun} :
    OnlyChanges [.ports, .blockRx] u (State.missBlock u a1 a2 a3) := by
  unfold State.missBlock
  repeat' first
    | with_reducible assumption
    | with_reducible apply OnlyChanges.refl
    | (with_reducible apply OnlyChanges.step State.modBlock_only; on_goal 2 => decide)
    | (with_reducible apply OnlyChanges.step State.askRepeat_only; on_goal 2 => decide)

theorem State.takeBlockCell_only {u : State} {a1 : ℕ} {a2 : ℕ} {a3 : ImgRun} {a4 : CellFields} {a5 : Bytes} :
    OnlyChanges [.ports, .staging, .blockRx, .events, .stats] u (State.takeBlockCell u a1 a2 a3 a4 a5) := by
  unfold State.takeBlockCell
  repeat' first
    | with_reducible assumption
    | with_reducible apply OnlyChanges.refl
    | (with_reducible apply OnlyChanges.step State.stageBlock_only; on_goal 2 => decide)
    | (with_reducible apply OnlyChanges.step State.modBlock_only; on_goal 2 => decide)
    | (with_reducible apply OnlyChanges.step State.bumpPort_only; on_goal 2 => decide)
    | (with_reducible apply OnlyChanges.step State.missBlock_only; on_goal 2 => decide)
    | with_reducible apply only_ite

theorem State.repairedBy_only {u : State} {a1 : ℕ} {a2 : ℕ × ℕ} :
    OnlyChanges [.ports] u (State.repairedBy u a1 a2) := by
  unfold State.repairedBy
  repeat' first
    | with_reducible assumption
    | with_reducible apply OnlyChanges.refl
    | (with_reducible apply OnlyChanges.step State.modPort_only; on_goal 2 => decide)

theorem State.takeRepeat_only {u : State} {a1 : ℕ} {a2 : ℕ} {a3 : ImgRun} {a4 : CellFields} {a5 : Bytes} :
    OnlyChanges [.ports, .groups, .staging, .blockRx, .events, .stats] u (State.takeRepeat u a1 a2 a3 a4 a5) := by
  unfold State.takeRepeat
  repeat' first
    | with_reducible assumption
    | with_reducible apply OnlyChanges.refl
    | (extract_lets +onlyGivenNames y; first | (apply only_cut (v := y); (on_goal 2 => (intro hy; clear_value y)); subst y) | clear_value y | subst y)
    | (with_reducible apply OnlyChanges.step State.stageBlock_only; on_goal 2 => decide)
    | (with_reducible apply OnlyChanges.step State.modBlock_only; on_goal 2 => decide)
    | (with_reducible apply OnlyChanges.step State.stage_only; on_goal 2 => decide)
    | (with_reducible apply OnlyChanges.step State.bumpPort_only; on_goal 2 => decide)
    | (with_reducible apply OnlyChanges.step State.repairedBy_only; on_goal 2 => decide)
    | with_reducible apply only_ite
    | split

theorem State.missing_only {u : State} {a1 : ℕ} {a2 : ℕ} :
    OnlyChanges [.ports, .blockRx] u (State.missing u a1 a2) := by
  unfold State.missing
  repeat' first
    | with_reducible assumption
    | with_reducible apply OnlyChanges.refl
    | (with_reducible apply OnlyChanges.step State.askRepeat_only; on_goal 2 => decide)
    | (with_reducible apply OnlyChanges.step State.missBlock_only; on_goal 2 => decide)
    | with_reducible apply only_ite
    | split

theorem State.badCell_only {u : State} {a1 : ℕ} {a2 : ℕ} :
    OnlyChanges [.ports, .blockRx, .events, .stats] u (State.badCell u a1 a2) := by
  unfold State.badCell
  repeat' first
    | with_reducible assumption
    | with_reducible apply OnlyChanges.refl
    | (extract_lets +onlyGivenNames y; first | (apply only_cut (v := y); (on_goal 2 => (intro hy; clear_value y)); subst y) | clear_value y | subst y)
    | (with_reducible apply OnlyChanges.step State.modPort_only; on_goal 2 => decide)
    | (with_reducible apply OnlyChanges.step State.missing_only; on_goal 2 => decide)
    | (with_reducible apply OnlyChanges.step State.bumpPort_only; on_goal 2 => decide)
    | with_reducible apply only_ite
    | split

theorem State.placeCell_only {u : State} {a1 : ℕ} {a2 : ℕ} {a3 : CellFields} {a4 : Bytes} :
    OnlyChanges [.ports, .groups, .staging, .blockRx, .events, .stats] u (State.placeCell u a1 a2 a3 a4) := by
  unfold State.placeCell
  repeat' first
    | with_reducible assumption
    | with_reducible apply OnlyChanges.refl
    | (with_reducible apply OnlyChanges.step State.takeBlockCell_only; on_goal 2 => decide)
    | (with_reducible apply OnlyChanges.step State.takeChunkCell_only; on_goal 2 => decide)
    | (with_reducible apply OnlyChanges.step State.takeRepeat_only; on_goal 2 => decide)
    | (with_reducible apply OnlyChanges.step State.bumpPort_only; on_goal 2 => decide)
    | with_reducible apply only_ite
    | split

theorem State.placeOther_only {u : State} {a1 : ℕ} {a2 : ℕ} {a3 : CellFields} :
    OnlyChanges [.events, .stats] u (State.placeOther u a1 a2 a3) := by
  unfold State.placeOther
  repeat' first
    | with_reducible assumption
    | with_reducible apply OnlyChanges.refl
    | (extract_lets +onlyGivenNames y; first | (apply only_cut (v := y); (on_goal 2 => (intro hy; clear_value y)); subst y) | clear_value y | subst y)
    | (with_reducible apply OnlyChanges.step State.bumpPort_only; on_goal 2 => decide)
    | with_reducible apply only_ite

theorem State.receiveSlot_only {u : State} {a1 : ℕ} {a2 : ℕ} {a3 : ℕ} {a4 : Bool} {a5 : Bytes} :
    OnlyChanges [.ports, .groups, .staging, .blockRx, .events, .stats] u (State.receiveSlot u a1 a2 a3 a4 a5) := by
  unfold State.receiveSlot
  repeat' first
    | with_reducible assumption
    | with_reducible apply OnlyChanges.refl
    | (extract_lets +onlyGivenNames y; first | (apply only_cut (v := y); (on_goal 2 => (intro hy; clear_value y)); subst y) | clear_value y | subst y)
    | (with_reducible apply OnlyChanges.step State.placeOther_only; on_goal 2 => decide)
    | (with_reducible apply OnlyChanges.step State.placeCell_only; on_goal 2 => decide)
    | (with_reducible apply OnlyChanges.step State.missing_only; on_goal 2 => decide)
    | (with_reducible apply OnlyChanges.step State.bumpPort_only; on_goal 2 => decide)
    | (with_reducible apply OnlyChanges.step State.collectRequest_only; on_goal 2 => decide)
    | (with_reducible apply OnlyChanges.step State.badCell_only; on_goal 2 => decide)
    | with_reducible apply only_ite

theorem State.serveRepeats_only {u : State} {a1 : ℕ} {a2 : ℕ} :
    OnlyChanges [.ports, .events, .stats] u (State.serveRepeats u a1 a2) := by
  unfold State.serveRepeats
  repeat' first
    | with_reducible assumption
    | with_reducible apply OnlyChanges.refl
    | (extract_lets +onlyGivenNames y; first | (apply only_cut (v := y); (on_goal 2 => (intro hy; clear_value y)); subst y) | clear_value y | subst y)
    | (with_reducible apply OnlyChanges.step State.modPort_only; on_goal 2 => decide)
    | (with_reducible apply OnlyChanges.step State.bumpPort_only; on_goal 2 => decide)
    | with_reducible apply only_ite
    | (with_reducible apply only_foldl; on_goal 2 => intro _ _ _)

theorem execPortEnable_only {u t : State} {a0 : ℕ} {a1 : ℕ} (ht : execPortEnable a0 a1 u = .next t) :
    OnlyChanges [.ports, .host, .events, .stats] u t := by
  unfold execPortEnable at ht
  first | refine whenRunning_only ht ?_ | refine whenAlive_only ht ?_ | (injection ht with ht; subst ht)
  repeat' first
    | with_reducible assumption
    | with_reducible apply OnlyChanges.refl
    | (with_reducible apply OnlyChanges.step State.modPort_only; on_goal 2 => decide)
    | (with_reducible apply State.asPriv_only; (on_goal 3 => decide); (on_goal 2 => intro _))
    | (with_reducible apply OnlyChanges.step State.startPort_only; on_goal 2 => decide)
    | with_reducible apply only_ite

theorem execPortDisable_only {u t : State} {a0 : ℕ} {a1 : ℕ} (ht : execPortDisable a0 a1 u = .next t) :
    OnlyChanges [.out, .time, .ports, .host, .groups, .events, .stats, .maint] u t := by
  unfold execPortDisable at ht
  first | refine whenRunning_only ht ?_ | refine whenAlive_only ht ?_ | (injection ht with ht; subst ht)
  repeat' first
    | with_reducible assumption
    | with_reducible apply OnlyChanges.refl
    | (with_reducible apply OnlyChanges.step State.modPort_only; on_goal 2 => decide)
    | (with_reducible apply State.asPriv_only; (on_goal 3 => decide); (on_goal 2 => intro _))
    | (with_reducible apply OnlyChanges.step State.leaveTraining_only; on_goal 2 => decide)
    | with_reducible apply only_ite

theorem execRetrain_only {u t : State} {a0 : ℕ} {a1 : ℕ} (ht : execRetrain a0 a1 u = .next t) :
    OnlyChanges [.out, .time, .ports, .host, .groups, .events, .stats, .maint] u t := by
  unfold execRetrain at ht
  first | refine whenRunning_only ht ?_ | refine whenAlive_only ht ?_ | (injection ht with ht; subst ht)
  repeat' first
    | with_reducible assumption
    | with_reducible apply OnlyChanges.refl
    | (with_reducible apply State.asPriv_only; (on_goal 3 => decide); (on_goal 2 => intro _))
    | (with_reducible apply OnlyChanges.step State.retrainPort_only; on_goal 2 => decide)
    | with_reducible apply only_ite

theorem execPrbsEnable_only {u t : State} {a0 : ℕ} {a1 : ℕ} (ht : execPrbsEnable a0 a1 u = .next t) :
    OnlyChanges [.ports, .host, .events, .stats, .maint] u t := by
  unfold execPrbsEnable at ht
  first | refine whenRunning_only ht ?_ | refine whenAlive_only ht ?_ | (injection ht with ht; subst ht)
  repeat' first
    | with_reducible assumption
    | with_reducible apply OnlyChanges.refl
    | (with_reducible apply State.asPriv_only; (on_goal 3 => decide); (on_goal 2 => intro _))
    | (with_reducible apply OnlyChanges.step State.setPrbs_only; on_goal 2 => decide)
    | with_reducible apply only_ite

theorem execDelayMeas_only {u t : State} {a0 : ℕ} {a1 : ℕ} (ht : execDelayMeas a0 a1 u = .next t) :
    OnlyChanges [.ports, .host, .events, .stats] u t := by
  unfold execDelayMeas at ht
  first | refine whenRunning_only ht ?_ | refine whenAlive_only ht ?_ | (injection ht with ht; subst ht)
  repeat' first
    | with_reducible assumption
    | with_reducible apply OnlyChanges.refl
    | (with_reducible apply OnlyChanges.step State.askRemeasure_only; on_goal 2 => decide)
    | (with_reducible apply State.asPriv_only; (on_goal 3 => decide); (on_goal 2 => intro _))
    | with_reducible apply only_ite

theorem execSignalLock_only {u t : State} {a0 : ℕ} {a1 : BitVec 4} (ht : execSignalLock a0 a1 u = .next t) :
    OnlyChanges [.ports] u t := by
  unfold execSignalLock at ht
  first | refine whenRunning_only ht ?_ | refine whenAlive_only ht ?_ | (injection ht with ht; subst ht)
  repeat' first
    | with_reducible assumption
    | with_reducible apply OnlyChanges.refl
    | (with_reducible apply OnlyChanges.step State.modPort_only; on_goal 2 => decide)
    | with_reducible apply only_ite

theorem execSignalTrainTimeout_only {u t : State} {a0 : ℕ} (ht : execSignalTrainTimeout a0 u = .next t) :
    OnlyChanges [.events, .stats] u t := by
  unfold execSignalTrainTimeout at ht
  first | refine whenRunning_only ht ?_ | refine whenAlive_only ht ?_ | (injection ht with ht; subst ht)
  repeat' first
    | with_reducible assumption
    | with_reducible apply OnlyChanges.refl
    | (with_reducible apply OnlyChanges.step State.bumpPort_only; on_goal 2 => decide)
    | with_reducible apply only_ite

theorem execFrameLock_only {u t : State} {a0 : ℕ} (ht : execFrameLock a0 u = .next t) :
    OnlyChanges [.ports] u t := by
  unfold execFrameLock at ht
  first | refine whenRunning_only ht ?_ | refine whenAlive_only ht ?_ | (injection ht with ht; subst ht)
  repeat' first
    | with_reducible assumption
    | with_reducible apply OnlyChanges.refl
    | (extract_lets +onlyGivenNames y; first | (apply only_cut (v := y); (on_goal 2 => (intro hy; clear_value y)); subst y) | clear_value y | subst y)
    | (with_reducible apply OnlyChanges.step State.modPort_only; on_goal 2 => decide)
    | (with_reducible apply OnlyChanges.step State.enterDiscover_only; on_goal 2 => decide)
    | with_reducible apply only_ite

theorem execAlignComplete_only {u t : State} {a0 : ℕ} (ht : execAlignComplete a0 u = .next t) :
    OnlyChanges [.ports, .groups, .events, .stats] u t := by
  unfold execAlignComplete at ht
  first | refine whenRunning_only ht ?_ | refine whenAlive_only ht ?_ | (injection ht with ht; subst ht)
  repeat' first
    | with_reducible assumption
    | with_reducible apply OnlyChanges.refl
    | (extract_lets +onlyGivenNames y; first | (apply only_cut (v := y); (on_goal 2 => (intro hy; clear_value y)); subst y) | clear_value y | subst y)
    | (with_reducible apply OnlyChanges.step State.modPort_only; on_goal 2 => decide)
    | (with_reducible apply OnlyChanges.step State.openOperand_only; on_goal 2 => decide)
    | with_reducible apply only_ite
    | (with_reducible apply only_foldl; on_goal 2 => intro _ _ _)

theorem execLinkLoss_only {u t : State} {a0 : ℕ} {a1 : LossCause} (ht : execLinkLoss a0 a1 u = .next t) :
    OnlyChanges [.out, .time, .ports, .groups, .events, .stats, .maint] u t := by
  unfold execLinkLoss at ht
  first | refine whenRunning_only ht ?_ | refine whenAlive_only ht ?_ | (injection ht with ht; subst ht)
  repeat' first
    | with_reducible assumption
    | with_reducible apply OnlyChanges.refl
    | (with_reducible apply OnlyChanges.step State.leaveTraining_only; on_goal 2 => decide)
    | with_reducible apply only_ite

theorem execFecDegradeCheck_only {u t : State} {a0 : ℕ} {a1 : ℕ} (ht : execFecDegradeCheck a0 a1 u = .next t) :
    OnlyChanges [.events, .stats] u t := by
  unfold execFecDegradeCheck at ht
  first | refine whenRunning_only ht ?_ | refine whenAlive_only ht ?_ | (injection ht with ht; subst ht)
  repeat' first
    | with_reducible assumption
    | with_reducible apply OnlyChanges.refl
    | (with_reducible apply OnlyChanges.step State.raise_only; on_goal 2 => decide)
    | (with_reducible apply OnlyChanges.step State.bumpPort_only; on_goal 2 => decide)
    | with_reducible apply only_ite

theorem execChunkCellReceived_only {u t : State} {a0 : ℕ} {a1 : ℕ} {a2 : ℕ} {a3 : Bool} {a4 : Bytes} (ht :
      execChunkCellReceived a0 a1 a2 a3 a4 u = .next t) :
    OnlyChanges [.ports, .groups, .staging, .blockRx, .events, .stats] u t := by
  unfold execChunkCellReceived at ht
  first | refine whenRunning_only ht ?_ | refine whenAlive_only ht ?_ | (injection ht with ht; subst ht)
  repeat' first
    | with_reducible assumption
    | with_reducible apply OnlyChanges.refl
    | (with_reducible apply OnlyChanges.step State.receiveSlot_only; on_goal 2 => decide)
    | with_reducible apply only_ite

theorem execRetransmission_only {u t : State} {a0 : ℕ} {a1 : ℕ} (ht : execRetransmission a0 a1 u = .next t) :
    OnlyChanges [.ports, .events, .stats] u t := by
  unfold execRetransmission at ht
  first | refine whenRunning_only ht ?_ | refine whenAlive_only ht ?_ | (injection ht with ht; subst ht)
  repeat' first
    | with_reducible assumption
    | with_reducible apply OnlyChanges.refl
    | (with_reducible apply OnlyChanges.step State.serveRepeats_only; on_goal 2 => decide)
    | with_reducible apply only_ite

theorem execHailSend_only {u t : State} {a0 : ℕ} (ht : execHailSend a0 u = .next t) :
    OnlyChanges [.ports] u t := by
  unfold execHailSend at ht
  first | refine whenRunning_only ht ?_ | refine whenAlive_only ht ?_ | (injection ht with ht; subst ht)
  repeat' first
    | with_reducible assumption
    | with_reducible apply OnlyChanges.refl
    | (with_reducible apply OnlyChanges.step State.askHail_only; on_goal 2 => decide)
    | with_reducible apply only_ite

theorem execHailReceived_only {u t : State} {a0 : ℕ} {a1 : Bytes} (ht : execHailReceived a0 a1 u = .next t) :
    OnlyChanges [.out, .time, .cal, .ports, .groups, .events, .stats, .maint] u t := by
  unfold execHailReceived at ht
  first | refine whenRunning_only ht ?_ | refine whenAlive_only ht ?_ | (injection ht with ht; subst ht)
  repeat' first
    | with_reducible assumption
    | with_reducible apply OnlyChanges.refl
    | (with_reducible apply OnlyChanges.step State.takeHail_only; on_goal 2 => decide)
    | (with_reducible apply State.withCell_only; (on_goal 3 => decide); (on_goal 2 => intro _ _))

theorem execQuarantineEffect_only {u t : State} {a0 : ℕ} (ht : execQuarantineEffect a0 u = .next t) :
    OnlyChanges [.out, .time, .ports, .groups, .events, .stats] u t := by
  unfold execQuarantineEffect at ht
  first | refine whenRunning_only ht ?_ | refine whenAlive_only ht ?_ | (injection ht with ht; subst ht)
  repeat' first
    | with_reducible assumption
    | with_reducible apply OnlyChanges.refl
    | (with_reducible apply OnlyChanges.step State.quarantineDue_only; on_goal 2 => decide)

theorem execHailTimeout_only {u t : State} {a0 : ℕ} (ht : execHailTimeout a0 u = .next t) :
    OnlyChanges [.out, .time, .ports, .events, .stats] u t := by
  unfold execHailTimeout at ht
  first | refine whenRunning_only ht ?_ | refine whenAlive_only ht ?_ | (injection ht with ht; subst ht)
  repeat' first
    | with_reducible assumption
    | with_reducible apply OnlyChanges.refl
    | (extract_lets +onlyGivenNames y; first | (apply only_cut (v := y); (on_goal 2 => (intro hy; clear_value y)); subst y) | clear_value y | subst y)
    | (with_reducible apply OnlyChanges.step State.modPort_only; on_goal 2 => decide)
    | (with_reducible apply OnlyChanges.step State.bumpPort_only; on_goal 2 => decide)
    | (with_reducible apply OnlyChanges.step State.quarantine_only; on_goal 2 => decide)
    | with_reducible apply only_ite

theorem execDelayExchange_only {u t : State} {a0 : ℕ} {a1 : Stamp} (ht : execDelayExchange a0 a1 u = .next t) :
    OnlyChanges [.ports] u t := by
  unfold execDelayExchange at ht
  first | refine whenRunning_only ht ?_ | refine whenAlive_only ht ?_ | (injection ht with ht; subst ht)
  repeat' first
    | with_reducible assumption
    | with_reducible apply OnlyChanges.refl
    | (with_reducible apply OnlyChanges.step State.askDelay_only; on_goal 2 => decide)
    | with_reducible apply only_ite

theorem execDelayRequestReceived_only {u t : State} {a0 : ℕ} {a1 : Stamp} {a2 : Stamp} {a3 : Bytes} (ht :
      execDelayRequestReceived a0 a1 a2 a3 u = .next t) :
    OnlyChanges [.ports, .events, .stats] u t := by
  unfold execDelayRequestReceived at ht
  first | refine whenRunning_only ht ?_ | refine whenAlive_only ht ?_ | (injection ht with ht; subst ht)
  repeat' first
    | with_reducible assumption
    | with_reducible apply OnlyChanges.refl
    | (with_reducible apply OnlyChanges.step State.answerDelay_only; on_goal 2 => decide)
    | (with_reducible apply State.withCell_only; (on_goal 3 => decide); (on_goal 2 => intro _ _))

theorem execDelayResponseReceived_only {u t : State} {a0 : ℕ} {a1 : Stamp} {a2 : Bytes} (ht :
      execDelayResponseReceived a0 a1 a2 u = .next t) :
    OnlyChanges [.out, .time, .cal, .ports, .groups, .events, .stats, .maint] u t := by
  unfold execDelayResponseReceived at ht
  first | refine whenRunning_only ht ?_ | refine whenAlive_only ht ?_ | (injection ht with ht; subst ht)
  repeat' first
    | with_reducible assumption
    | with_reducible apply OnlyChanges.refl
    | (with_reducible apply State.withCell_only; (on_goal 3 => decide); (on_goal 2 => intro _ _))
    | (with_reducible apply OnlyChanges.step State.takeDelay_only; on_goal 2 => decide)

theorem execDelayTimeout_only {u t : State} {a0 : ℕ} (ht : execDelayTimeout a0 u = .next t) :
    OnlyChanges [.ports, .events, .stats] u t := by
  unfold execDelayTimeout at ht
  first | refine whenRunning_only ht ?_ | refine whenAlive_only ht ?_ | (injection ht with ht; subst ht)
  repeat' first
    | with_reducible assumption
    | with_reducible apply OnlyChanges.refl
    | (with_reducible apply OnlyChanges.step State.bumpPort_only; on_goal 2 => decide)
    | (with_reducible apply OnlyChanges.step State.endExchange_only; on_goal 2 => decide)
    | with_reducible apply only_ite
    | split

theorem execPrbsCellReceived_only {u t : State} {a0 : ℕ} {a1 : Bytes} (ht : execPrbsCellReceived a0 a1 u = .next t) :
    OnlyChanges [.ports, .events, .stats] u t := by
  unfold execPrbsCellReceived at ht
  first | refine whenRunning_only ht ?_ | refine whenAlive_only ht ?_ | (injection ht with ht; subst ht)
  repeat' first
    | with_reducible assumption
    | with_reducible apply OnlyChanges.refl
    | (with_reducible apply OnlyChanges.step State.takePrbs_only; on_goal 2 => decide)
    | (with_reducible apply State.withCell_only; (on_goal 3 => decide); (on_goal 2 => intro _ _))

theorem State.indexEvent_only {u : State} {a1 : ℕ} {a2 : ℕ} {a3 : Word32} :
    OnlyChanges [.events] u (State.indexEvent u a1 a2 a3) := by
  unfold State.indexEvent
  repeat' first
    | with_reducible assumption
    | with_reducible apply OnlyChanges.refl
    | (with_reducible apply OnlyChanges.step State.raise_only; on_goal 2 => decide)

theorem State.badIndex_only {u : State} {a1 : ℕ} {a2 : ℕ} {a3 : Word32} :
    OnlyChanges [.queues, .events] u (State.badIndex u a1 a2 a3) := by
  unfold State.badIndex
  repeat' first
    | with_reducible assumption
    | with_reducible apply OnlyChanges.refl
    | (with_reducible apply OnlyChanges.step State.indexEvent_only; on_goal 2 => decide)
    | (with_reducible apply OnlyChanges.step State.modQueue_only; on_goal 2 => decide)

theorem State.writeTail_only {u : State} {a1 : ℕ} {a2 : Word32} :
    OnlyChanges [.queues, .events] u (State.writeTail u a1 a2) := by
  unfold State.writeTail
  repeat' first
    | with_reducible assumption
    | with_reducible apply OnlyChanges.refl
    | (with_reducible apply OnlyChanges.step State.badIndex_only; on_goal 2 => decide)
    | (with_reducible apply OnlyChanges.step State.modQueue_only; on_goal 2 => decide)
    | with_reducible apply only_ite

theorem State.writeComplHead_only {u : State} {a1 : ℕ} {a2 : Word32} :
    OnlyChanges [.out, .queues, .triggers, .events, .stats] u (State.writeComplHead u a1 a2) := by
  unfold State.writeComplHead
  repeat' first
    | with_reducible assumption
    | with_reducible apply OnlyChanges.refl
    | (extract_lets +onlyGivenNames y; first | (apply only_cut (v := y); (on_goal 2 => (intro hy; clear_value y)); subst y) | clear_value y | subst y)
    | (with_reducible apply OnlyChanges.step State.setQueue_only; on_goal 2 => decide)
    | (with_reducible apply OnlyChanges.step State.flushQueue_only; on_goal 2 => decide)
    | (with_reducible apply OnlyChanges.step State.badIndex_only; on_goal 2 => decide)
    | with_reducible apply only_ite

theorem State.startQueue_only {u : State} {a1 : ℕ} :
    OnlyChanges [.out, .power, .ports, .books, .queues, .triggers, .groups, .events, .stats] u (State.startQueue u a1)
          := by
  unfold State.startQueue
  repeat' first
    | with_reducible assumption
    | with_reducible apply OnlyChanges.refl
    | (extract_lets +onlyGivenNames y; first | (apply only_cut (v := y); (on_goal 2 => (intro hy; clear_value y)); subst y) | clear_value y | subst y)
    | (with_reducible apply OnlyChanges.step State.setQueue_only; on_goal 2 => decide)
    | (with_reducible apply OnlyChanges.step State.flushQueue_only; on_goal 2 => decide)
    | (with_reducible apply OnlyChanges.step State.tryEnterOpen_only; on_goal 2 => decide)
    | (with_reducible apply OnlyChanges.step State.askWake_only; on_goal 2 => decide)
    | with_reducible apply only_ite

theorem State.stopQueue_only {u : State} {a1 : ℕ} :
    OnlyChanges [.queues] u (State.stopQueue u a1) := by
  unfold State.stopQueue
  repeat' first
    | with_reducible assumption
    | with_reducible apply OnlyChanges.refl
    | (with_reducible apply OnlyChanges.step State.modQueue_only; on_goal 2 => decide)
    | with_reducible apply only_ite

theorem State.clearQueueErr_only {u : State} {a1 : ℕ} :
    OnlyChanges [.queues] u (State.clearQueueErr u a1) := by
  unfold State.clearQueueErr
  repeat' first
    | with_reducible assumption
    | with_reducible apply OnlyChanges.refl
    | (with_reducible apply OnlyChanges.step State.modQueue_only; on_goal 2 => decide)
    | with_reducible apply only_ite

theorem State.queueCtrl_only {u : State} {a1 : ℕ} {a2 : ℕ} :
    OnlyChanges [.out, .power, .ports, .books, .queues, .triggers, .groups, .events, .stats] u (State.queueCtrl u a1
          a2) := by
  unfold State.queueCtrl
  repeat' first
    | with_reducible assumption
    | with_reducible apply OnlyChanges.refl
    | (extract_lets +onlyGivenNames y; first | (apply only_cut (v := y); (on_goal 2 => (intro hy; clear_value y)); subst y) | clear_value y | subst y)
    | (with_reducible apply OnlyChanges.step State.stopQueue_only; on_goal 2 => decide)
    | (with_reducible apply OnlyChanges.step State.startQueue_only; on_goal 2 => decide)
    | (with_reducible apply OnlyChanges.step State.clearQueueErr_only; on_goal 2 => decide)
    | with_reducible apply only_ite

theorem State.queueFault_only {u : State} {a1 : ℕ} {a2 : ℕ} {a3 : ℕ} :
    OnlyChanges [.queues, .events] u (State.queueFault u a1 a2 a3) := by
  unfold State.queueFault
  repeat' first
    | with_reducible assumption
    | with_reducible apply OnlyChanges.refl
    | (with_reducible apply OnlyChanges.step State.raise_only; on_goal 2 => decide)
    | (with_reducible apply OnlyChanges.step State.modQueue_only; on_goal 2 => decide)

theorem State.unwrite_only {u : State} {a1 : ℕ} {a2 : ℕ} :
    OnlyChanges [.queues, .triggers, .events] u (State.unwrite u a1 a2) := by
  unfold State.unwrite
  repeat' first
    | with_reducible assumption
    | with_reducible apply OnlyChanges.refl
    | (extract_lets +onlyGivenNames y; first | (apply only_cut (v := y); (on_goal 2 => (intro hy; clear_value y)); subst y) | clear_value y | subst y)
    | (with_reducible apply OnlyChanges.step State.setQueue_only; on_goal 2 => decide)
    | (with_reducible apply OnlyChanges.step State.queueFault_only; on_goal 2 => decide)
    | (with_reducible apply OnlyChanges.step State.setTrigger_only; on_goal 2 => decide)
    | with_reducible apply only_ite
    | (with_reducible apply only_foldl; on_goal 2 => intro _ _ _)
    | split

theorem State.takeDescriptor_only {u : State} {a1 : ℕ} {a2 : Bytes} :
    OnlyChanges [.ports, .books, .queues, .groups, .events, .stats] u (State.takeDescriptor u a1 a2) := by
  unfold State.takeDescriptor
  repeat' first
    | with_reducible assumption
    | with_reducible apply OnlyChanges.refl
    | (extract_lets +onlyGivenNames y; first | (apply only_cut (v := y); (on_goal 2 => (intro hy; clear_value y)); subst y) | clear_value y | subst y)
    | (with_reducible apply OnlyChanges.step State.setQueue_only; on_goal 2 => decide)
    | (with_reducible apply OnlyChanges.step State.completeAlone_only; on_goal 2 => decide)
    | (with_reducible apply OnlyChanges.step State.complete_only; on_goal 2 => decide)
    | (with_reducible apply OnlyChanges.step State.pollReady_only; on_goal 2 => decide)
    | (with_reducible apply OnlyChanges.step State.noteRefusal_only; on_goal 2 => decide)
    | (with_reducible apply OnlyChanges.step State.dropStepOps_only; on_goal 2 => decide)
    | (with_reducible apply OnlyChanges.step State.checkReleased_only; on_goal 2 => decide)
    | with_reducible apply only_ite
    | split

theorem State.asTrigger_only {u s : State} {a1 : ℕ} {a2 : ℕ} {a3 : ℕ} {f4 : State → State} {P : List Part} (h :
      OnlyChanges P s u) (hf4 : ∀ v, OnlyChanges P v (f4 v)) (hP : ∀ p ∈ ([.host, .events, .stats] : List Part), p ∈
      P) :
    OnlyChanges P s (State.asTrigger u a1 a2 a3 f4) := by
  apply OnlyChanges.trans h
  unfold State.asTrigger
  repeat' first
    | with_reducible assumption
    | with_reducible apply OnlyChanges.refl
    | (extract_lets +onlyGivenNames y; first | (apply only_cut (v := y); (on_goal 2 => (intro hy; clear_value y)); subst y) | clear_value y | subst y)
    | (with_reducible apply OnlyChanges.step State.touch_only; on_goal 2 => exact fun p hp => hP p (by revert p hp; decide))
    | (with_reducible apply OnlyChanges.step State.violation_only; on_goal 2 => exact fun p hp => hP p (by revert p hp; decide))
    | with_reducible apply OnlyChanges.trans' (hf4 _)
    | with_reducible apply only_ite

theorem State.writeTrigger_only {u : State} {a1 : ℕ} {a2 : Word32} :
    OnlyChanges [.power, .ports, .triggers, .groups, .events, .stats] u (State.writeTrigger u a1 a2) := by
  unfold State.writeTrigger
  repeat' first
    | with_reducible assumption
    | with_reducible apply OnlyChanges.refl
    | (with_reducible apply OnlyChanges.step State.pollReadyAll_only; on_goal 2 => decide)
    | (with_reducible apply OnlyChanges.step State.wakeIfReady_only; on_goal 2 => decide)
    | (with_reducible apply OnlyChanges.step State.setTrigger_only; on_goal 2 => decide)

theorem State.agentAdd_only {u : State} {a1 : ℕ} {a2 : ℕ} {a3 : ℕ} {a4 : ℕ} :
    OnlyChanges [.power, .ports, .triggers, .groups, .events, .stats] u (State.agentAdd u a1 a2 a3 a4) := by
  unfold State.agentAdd
  repeat' first
    | with_reducible assumption
    | with_reducible apply OnlyChanges.refl
    | (with_reducible apply OnlyChanges.step State.addTrigger_only; on_goal 2 => decide)
    | (with_reducible apply OnlyChanges.step State.dropAdd_only; on_goal 2 => decide)
    | (with_reducible apply OnlyChanges.step State.pollReadyAll_only; on_goal 2 => decide)
    | (with_reducible apply OnlyChanges.step State.wakeIfReady_only; on_goal 2 => decide)
    | with_reducible apply only_ite

theorem execQueueTailWrite_only {u t : State} {a0 : ℕ} {a1 : ℕ} {a2 : Word32} (ht : execQueueTailWrite a0 a1 a2 u =
      .next t) :
    OnlyChanges [.host, .queues, .events, .stats] u t := by
  unfold execQueueTailWrite at ht
  first | refine whenRunning_only ht ?_ | refine whenAlive_only ht ?_ | (injection ht with ht; subst ht)
  repeat' first
    | with_reducible assumption
    | with_reducible apply OnlyChanges.refl
    | (with_reducible apply State.asQueue_only; (on_goal 3 => decide); (on_goal 2 => intro _))
    | (with_reducible apply OnlyChanges.step State.writeTail_only; on_goal 2 => decide)

theorem execComplHeadWrite_only {u t : State} {a0 : ℕ} {a1 : ℕ} {a2 : Word32} (ht : execComplHeadWrite a0 a1 a2 u =
      .next t) :
    OnlyChanges [.out, .host, .queues, .triggers, .events, .stats] u t := by
  unfold execComplHeadWrite at ht
  first | refine whenRunning_only ht ?_ | refine whenAlive_only ht ?_ | (injection ht with ht; subst ht)
  repeat' first
    | with_reducible assumption
    | with_reducible apply OnlyChanges.refl
    | (with_reducible apply State.asQueue_only; (on_goal 3 => decide); (on_goal 2 => intro _))
    | (with_reducible apply OnlyChanges.step State.writeComplHead_only; on_goal 2 => decide)

theorem execQueueStart_only {u t : State} {a0 : ℕ} {a1 : ℕ} (ht : execQueueStart a0 a1 u = .next t) :
    OnlyChanges [.out, .power, .ports, .books, .host, .queues, .triggers, .groups, .events, .stats] u t := by
  unfold execQueueStart at ht
  first | refine whenRunning_only ht ?_ | refine whenAlive_only ht ?_ | (injection ht with ht; subst ht)
  repeat' first
    | with_reducible assumption
    | with_reducible apply OnlyChanges.refl
    | (with_reducible apply OnlyChanges.step State.startQueue_only; on_goal 2 => decide)
    | (with_reducible apply State.asQueue_only; (on_goal 3 => decide); (on_goal 2 => intro _))

theorem execQueueStop_only {u t : State} {a0 : ℕ} {a1 : ℕ} (ht : execQueueStop a0 a1 u = .next t) :
    OnlyChanges [.host, .queues, .events, .stats] u t := by
  unfold execQueueStop at ht
  first | refine whenRunning_only ht ?_ | refine whenAlive_only ht ?_ | (injection ht with ht; subst ht)
  repeat' first
    | with_reducible assumption
    | with_reducible apply OnlyChanges.refl
    | (with_reducible apply OnlyChanges.step State.stopQueue_only; on_goal 2 => decide)
    | (with_reducible apply State.asQueue_only; (on_goal 3 => decide); (on_goal 2 => intro _))

theorem execClearErr_only {u t : State} {a0 : ℕ} {a1 : ℕ} (ht : execClearErr a0 a1 u = .next t) :
    OnlyChanges [.host, .queues, .events, .stats] u t := by
  unfold execClearErr at ht
  first | refine whenRunning_only ht ?_ | refine whenAlive_only ht ?_ | (injection ht with ht; subst ht)
  repeat' first
    | with_reducible assumption
    | with_reducible apply OnlyChanges.refl
    | (with_reducible apply State.asQueue_only; (on_goal 3 => decide); (on_goal 2 => intro _))
    | (with_reducible apply OnlyChanges.step State.clearQueueErr_only; on_goal 2 => decide)

theorem execQueueStopped_only {u t : State} {a0 : ℕ} (ht : execQueueStopped a0 u = .next t) :
    OnlyChanges [.queues] u t := by
  unfold execQueueStopped at ht
  first | refine whenRunning_only ht ?_ | refine whenAlive_only ht ?_ | (injection ht with ht; subst ht)
  repeat' first
    | with_reducible assumption
    | with_reducible apply OnlyChanges.refl
    | (with_reducible apply OnlyChanges.step State.modQueue_only; on_goal 2 => decide)
    | with_reducible apply only_ite

theorem execDescriptorFetch_only {u t : State} {a0 : ℕ} {a1 : FetchResult} (ht : execDescriptorFetch a0 a1 u = .next
      t) :
    OnlyChanges [.power, .ports, .books, .queues, .triggers, .groups, .events, .stats] u t := by
  unfold execDescriptorFetch at ht
  first | refine whenRunning_only ht ?_ | refine whenAlive_only ht ?_ | (injection ht with ht; subst ht)
  repeat' first
    | with_reducible assumption
    | with_reducible apply OnlyChanges.refl
    | (with_reducible apply OnlyChanges.step State.queueFault_only; on_goal 2 => decide)
    | (with_reducible apply OnlyChanges.step State.takeDescriptor_only; on_goal 2 => decide)
    | (with_reducible apply OnlyChanges.step State.wakeIfReady_only; on_goal 2 => decide)
    | (with_reducible apply OnlyChanges.step State.unwrite_only; on_goal 2 => decide)
    | with_reducible apply only_ite
    | split

theorem execTrigValueWrite_only {u t : State} {a0 : ℕ} {a1 : ℕ} {a2 : Word32} (ht : execTrigValueWrite a0 a1 a2 u =
      .next t) :
    OnlyChanges [.power, .ports, .host, .triggers, .groups, .events, .stats] u t := by
  unfold execTrigValueWrite at ht
  first | refine whenRunning_only ht ?_ | refine whenAlive_only ht ?_ | (injection ht with ht; subst ht)
  repeat' first
    | with_reducible assumption
    | with_reducible apply OnlyChanges.refl
    | (with_reducible apply State.asTrigger_only; (on_goal 3 => decide); (on_goal 2 => intro _))
    | (with_reducible apply OnlyChanges.step State.writeTrigger_only; on_goal 2 => decide)

theorem execTrigAdd_only {u t : State} {a0 : ℕ} {a1 : ℕ} {a2 : Word32} (ht : execTrigAdd a0 a1 a2 u = .next t) :
    OnlyChanges [.power, .ports, .host, .triggers, .groups, .events, .stats] u t := by
  unfold execTrigAdd at ht
  first | refine whenRunning_only ht ?_ | refine whenAlive_only ht ?_ | (injection ht with ht; subst ht)
  repeat' first
    | with_reducible assumption
    | with_reducible apply OnlyChanges.refl
    | (with_reducible apply OnlyChanges.step State.agentAdd_only; on_goal 2 => decide)
    | (with_reducible apply State.asTrigger_only; (on_goal 3 => decide); (on_goal 2 => intro _))

theorem execTriggerAdd_only {u t : State} {a0 : ℕ} {a1 : ℕ} (ht : execTriggerAdd a0 a1 u = .next t) :
    OnlyChanges [.ports, .queues, .triggers, .groups, .events, .stats] u t := by
  unfold execTriggerAdd at ht
  first | refine whenRunning_only ht ?_ | refine whenAlive_only ht ?_ | (injection ht with ht; subst ht)
  repeat' first
    | with_reducible assumption
    | with_reducible apply OnlyChanges.refl
    | (with_reducible apply OnlyChanges.step State.pollReadyAll_only; on_goal 2 => decide)
    | (with_reducible apply OnlyChanges.step State.completeAlone_only; on_goal 2 => decide)
    | (with_reducible apply OnlyChanges.step State.queueAdd_only; on_goal 2 => decide)
    | split

theorem execFence_only {u t : State} {a0 : ℕ} {a1 : ℕ} (ht : execFence a0 a1 u = .next t) :
    OnlyChanges [.ports, .queues, .groups, .events, .stats] u t := by
  unfold execFence at ht
  first | refine whenRunning_only ht ?_ | refine whenAlive_only ht ?_ | (injection ht with ht; subst ht)
  repeat' first
    | with_reducible assumption
    | with_reducible apply OnlyChanges.refl
    | (with_reducible apply OnlyChanges.step State.pollReadyAll_only; on_goal 2 => decide)
    | (with_reducible apply OnlyChanges.step State.completeAlone_only; on_goal 2 => decide)
    | (with_reducible apply OnlyChanges.step State.checkReleased_only; on_goal 2 => decide)
    | with_reducible apply only_ite
    | split

theorem State.clearTriggers_only {u : State} {a1 : ℕ} :
    OnlyChanges [.triggers] u (State.clearTriggers u a1) := by
  unfold State.clearTriggers
  repeat' first
    | with_reducible assumption
    | with_reducible apply OnlyChanges.refl
    | (extract_lets +onlyGivenNames y; first | (apply only_cut (v := y); (on_goal 2 => (intro hy; clear_value y)); subst y) | clear_value y | subst y)
    | ((with_reducible apply only_triggers (h1 := by decide)); first | with_reducible assumption | with_reducible exact OnlyChanges.refl)

end Sys2Proof.Machine
end

