-- ==== Sys2Proof/Laws/Frame6.lean ====
section
/-! SUPPORT. Frame lemmas, part 6 of 8: for each operation and command, the parts of the state that it can change. -/

namespace Sys2Proof.Machine

open Sys2Proof State

set_option linter.unreachableTactic false
set_option linter.unusedTactic false

theorem State.clearCopies_only {u : State} {a1 : ℕ} :
    OnlyChanges [.stats] u (State.clearCopies u a1) := by
  unfold State.clearCopies
  repeat' first
    | with_reducible assumption
    | with_reducible apply OnlyChanges.refl
    | (extract_lets +onlyGivenNames y; first | (apply only_cut (v := y); (on_goal 2 => (intro hy; clear_value y)); subst y) | clear_value y | subst y)
    | ((with_reducible apply only_stats (h1 := by decide)); first | with_reducible assumption | with_reducible exact OnlyChanges.refl)

theorem State.resetWindow_only {u : State} {a1 : ℕ} :
    OnlyChanges [.queues, .triggers, .areas, .rings, .stats, .snaps] u (State.resetWindow u a1) := by
  unfold State.resetWindow
  repeat' first
    | with_reducible assumption
    | with_reducible apply OnlyChanges.refl
    | (extract_lets +onlyGivenNames y; first | (apply only_cut (v := y); (on_goal 2 => (intro hy; clear_value y)); subst y) | clear_value y | subst y)
    | (with_reducible apply OnlyChanges.step State.clearTriggers_only; on_goal 2 => decide)
    | (with_reducible apply OnlyChanges.step State.clearCopies_only; on_goal 2 => decide)
    | (with_reducible apply OnlyChanges.step State.setRing_only; on_goal 2 => decide)
    | (with_reducible apply OnlyChanges.step State.setSnap_only; on_goal 2 => decide)
    | ((with_reducible apply only_queues_areas (h1 := by decide) (h2 := by decide)); first | with_reducible assumption | with_reducible exact OnlyChanges.refl)

theorem State.ignorePart_only {u : State}  :
    OnlyChanges [.parts] u (State.ignorePart u) := by
  unfold State.ignorePart
  repeat' first
    | with_reducible assumption
    | with_reducible apply OnlyChanges.refl
    | (extract_lets +onlyGivenNames y; first | (apply only_cut (v := y); (on_goal 2 => (intro hy; clear_value y)); subst y) | clear_value y | subst y)
    | ((with_reducible apply only_parts (h1 := by decide)); first | with_reducible assumption | with_reducible exact OnlyChanges.refl)

theorem State.releaseHeld_only {u : State}  :
    OnlyChanges [.ports, .books, .queues, .groups, .events, .stats] u (State.releaseHeld u) := by
  unfold State.releaseHeld
  repeat' first
    | with_reducible assumption
    | with_reducible apply OnlyChanges.refl
    | (extract_lets +onlyGivenNames y; first | (apply only_cut (v := y); (on_goal 2 => (intro hy; clear_value y)); subst y) | clear_value y | subst y)
    | (with_reducible apply OnlyChanges.step State.modGroup_only; on_goal 2 => decide)
    | (with_reducible apply OnlyChanges.step State.tryEnterOpens_only; on_goal 2 => decide)
    | (with_reducible apply only_foldl; on_goal 2 => intro _ _ _)

theorem State.cancelActivation_only {u : State} {a1 : ℕ} :
    OnlyChanges [.ports, .image, .books, .queues, .groups, .events, .stats] u (State.cancelActivation u a1) := by
  unfold State.cancelActivation
  repeat' first
    | with_reducible assumption
    | with_reducible apply OnlyChanges.refl
    | (extract_lets +onlyGivenNames y; first | (apply only_cut (v := y); (on_goal 2 => (intro hy; clear_value y)); subst y) | clear_value y | subst y)
    | (with_reducible apply OnlyChanges.step State.releaseHeld_only; on_goal 2 => decide)
    | with_reducible apply only_ite
    | ((with_reducible apply only_image (h1 := by decide)); first | with_reducible assumption | with_reducible exact OnlyChanges.refl)
    | split

theorem State.attach_only {u : State} {a1 : ℕ} :
    OnlyChanges [.ports, .image, .books, .parts, .queues, .triggers, .groups, .areas, .rings, .events, .stats, .snaps]
          u (State.attach u a1) := by
  unfold State.attach
  repeat' first
    | with_reducible assumption
    | with_reducible apply OnlyChanges.refl
    | (extract_lets +onlyGivenNames y; first | (apply only_cut (v := y); (on_goal 2 => (intro hy; clear_value y)); subst y) | clear_value y | subst y)
    | (with_reducible apply OnlyChanges.step State.ignorePart_only; on_goal 2 => decide)
    | (with_reducible apply OnlyChanges.step State.cancelActivation_only; on_goal 2 => decide)
    | (with_reducible apply OnlyChanges.step State.resetWindow_only; on_goal 2 => decide)
    | with_reducible apply only_ite
    | ((with_reducible apply only_parts (h1 := by decide)); first | with_reducible assumption | with_reducible exact OnlyChanges.refl)

theorem State.detach_only {u : State} {a1 : ℕ} :
    OnlyChanges [.parts] u (State.detach u a1) := by
  unfold State.detach
  repeat' first
    | with_reducible assumption
    | with_reducible apply OnlyChanges.refl
    | (with_reducible apply OnlyChanges.step State.setPstate_only; on_goal 2 => decide)
    | (with_reducible apply OnlyChanges.step State.ignorePart_only; on_goal 2 => decide)
    | with_reducible apply only_ite

theorem State.stopTransfers_only {u : State} {a1 : ℕ} :
    OnlyChanges [.ports, .queues, .xfers, .flows] u (State.stopTransfers u a1) := by
  unfold State.stopTransfers
  repeat' first
    | with_reducible assumption
    | with_reducible apply OnlyChanges.refl
    | (extract_lets +onlyGivenNames y; first | (apply only_cut (v := y); (on_goal 2 => (intro hy; clear_value y)); subst y) | clear_value y | subst y)
    | (with_reducible apply OnlyChanges.step State.modPort_only; on_goal 2 => decide)
    | (with_reducible apply OnlyChanges.step State.setFlow_only; on_goal 2 => decide)
    | (with_reducible apply OnlyChanges.step State.modQueue_only; on_goal 2 => decide)
    | with_reducible apply only_ite
    | (with_reducible apply only_foldl; on_goal 2 => intro _ _ _)
    | ((with_reducible apply only_xfers (h1 := by decide)); first | with_reducible assumption | with_reducible exact OnlyChanges.refl)
    | split

theorem State.forceDetach_only {u : State} {a1 : ℕ} :
    OnlyChanges (.ports :: .books :: .parts :: .queues :: .groups :: .buckets :: .staging :: .stack :: .badUnits ::
          .xfers :: .flows :: .events :: .stats :: []) u (State.forceDetach u a1) := by
  unfold State.forceDetach
  repeat' first
    | with_reducible assumption
    | with_reducible apply OnlyChanges.refl
    | (extract_lets +onlyGivenNames y; first | (apply only_cut (v := y); (on_goal 2 => (intro hy; clear_value y)); subst y) | clear_value y | subst y)
    | (with_reducible apply OnlyChanges.step State.discardStep_only; on_goal 2 => decide)
    | (with_reducible apply OnlyChanges.step State.ignorePart_only; on_goal 2 => decide)
    | (with_reducible apply OnlyChanges.step State.stopTransfers_only; on_goal 2 => decide)
    | with_reducible apply only_ite
    | (with_reducible apply only_foldl; on_goal 2 => intro _ _ _)
    | ((with_reducible apply only_parts (h1 := by decide)); first | with_reducible assumption | with_reducible exact OnlyChanges.refl)

theorem State.finishDetach_only {u : State} {a1 : ℕ} :
    OnlyChanges [.out, .parts, .queues, .triggers, .areas, .rings, .events, .stats, .snaps] u (State.finishDetach u
          a1) := by
  unfold State.finishDetach
  repeat' first
    | with_reducible assumption
    | with_reducible apply OnlyChanges.refl
    | (extract_lets +onlyGivenNames y; first | (apply only_cut (v := y); (on_goal 2 => (intro hy; clear_value y)); subst y) | clear_value y | subst y)
    | (with_reducible apply OnlyChanges.step State.flushDue_only; on_goal 2 => decide)
    | (with_reducible apply OnlyChanges.step State.setPstate_only; on_goal 2 => decide)
    | (with_reducible apply OnlyChanges.step State.raise_only; on_goal 2 => decide)
    | (with_reducible apply OnlyChanges.step State.resetWindow_only; on_goal 2 => decide)
    | (with_reducible apply only_foldl; on_goal 2 => intro _ _ _)
    | ((with_reducible apply only_parts (h1 := by decide)); first | with_reducible assumption | with_reducible exact OnlyChanges.refl)

theorem State.quiesce_only {u : State} {a1 : ℕ} :
    OnlyChanges [.parts] u (State.quiesce u a1) := by
  unfold State.quiesce
  repeat' first
    | with_reducible assumption
    | with_reducible apply OnlyChanges.refl
    | (extract_lets +onlyGivenNames y; first | (apply only_cut (v := y); (on_goal 2 => (intro hy; clear_value y)); subst y) | clear_value y | subst y)
    | (with_reducible apply OnlyChanges.step State.setPstate_only; on_goal 2 => decide)
    | ((with_reducible apply only_parts (h1 := by decide)); first | with_reducible assumption | with_reducible exact OnlyChanges.refl)

theorem State.grant_only {u : State} {a1 : ℕ} :
    OnlyChanges [.parts] u (State.grant u a1) := by
  unfold State.grant
  repeat' first
    | with_reducible assumption
    | with_reducible apply OnlyChanges.refl
    | (extract_lets +onlyGivenNames y; first | (apply only_cut (v := y); (on_goal 2 => (intro hy; clear_value y)); subst y) | clear_value y | subst y)
    | (with_reducible apply only_foldl; on_goal 2 => intro _ _ _)
    | ((with_reducible apply only_parts (h1 := by decide)); first | with_reducible assumption | with_reducible exact OnlyChanges.refl)

theorem execAttach_only {u t : State} {a0 : ℕ} {a1 : ℕ} (ht : execAttach a0 a1 u = .next t) :
    OnlyChanges (.ports :: .image :: .books :: .parts :: .host :: .queues :: .triggers :: .groups :: .areas :: .rings
          :: .events :: .stats :: .snaps :: []) u t := by
  unfold execAttach at ht
  first | refine whenRunning_only ht ?_ | refine whenAlive_only ht ?_ | (injection ht with ht; subst ht)
  repeat' first
    | with_reducible assumption
    | with_reducible apply OnlyChanges.refl
    | (with_reducible apply State.asPriv_only; (on_goal 3 => decide); (on_goal 2 => intro _))
    | (with_reducible apply OnlyChanges.step State.attach_only; on_goal 2 => decide)

theorem execDetach_only {u t : State} {a0 : ℕ} {a1 : ℕ} (ht : execDetach a0 a1 u = .next t) :
    OnlyChanges [.parts, .host, .events, .stats] u t := by
  unfold execDetach at ht
  first | refine whenRunning_only ht ?_ | refine whenAlive_only ht ?_ | (injection ht with ht; subst ht)
  repeat' first
    | with_reducible assumption
    | with_reducible apply OnlyChanges.refl
    | (with_reducible apply State.asPriv_only; (on_goal 3 => decide); (on_goal 2 => intro _))
    | (with_reducible apply OnlyChanges.step State.detach_only; on_goal 2 => decide)

theorem execForceDetach_only {u t : State} {a0 : ℕ} {a1 : ℕ} (ht : execForceDetach a0 a1 u = .next t) :
    OnlyChanges (.ports :: .books :: .parts :: .host :: .queues :: .groups :: .buckets :: .staging :: .stack ::
          .badUnits :: .xfers :: .flows :: .events :: .stats :: []) u t := by
  unfold execForceDetach at ht
  first | refine whenRunning_only ht ?_ | refine whenAlive_only ht ?_ | (injection ht with ht; subst ht)
  repeat' first
    | with_reducible assumption
    | with_reducible apply OnlyChanges.refl
    | (with_reducible apply OnlyChanges.step State.forceDetach_only; on_goal 2 => decide)
    | (with_reducible apply State.asPriv_only; (on_goal 3 => decide); (on_goal 2 => intro _))

theorem execQuiesced_only {u t : State} {a0 : ℕ} (ht : execQuiesced a0 u = .next t) :
    OnlyChanges [.parts] u t := by
  unfold execQuiesced at ht
  first | refine whenRunning_only ht ?_ | refine whenAlive_only ht ?_ | (injection ht with ht; subst ht)
  repeat' first
    | with_reducible assumption
    | with_reducible apply OnlyChanges.refl
    | (with_reducible apply OnlyChanges.step State.quiesce_only; on_goal 2 => decide)
    | with_reducible apply only_ite

theorem execDetachComplete_only {u t : State} {a0 : ℕ} (ht : execDetachComplete a0 u = .next t) :
    OnlyChanges [.out, .parts, .queues, .triggers, .areas, .rings, .events, .stats, .snaps] u t := by
  unfold execDetachComplete at ht
  first | refine whenRunning_only ht ?_ | refine whenAlive_only ht ?_ | (injection ht with ht; subst ht)
  repeat' first
    | with_reducible assumption
    | with_reducible apply OnlyChanges.refl
    | (with_reducible apply OnlyChanges.step State.finishDetach_only; on_goal 2 => decide)
    | with_reducible apply only_ite

theorem execPrivGrantWrite_only {u t : State} {a0 : ℕ} {a1 : Word32} (ht : execPrivGrantWrite a0 a1 u = .next t) :
    OnlyChanges [.parts, .host, .events, .stats] u t := by
  unfold execPrivGrantWrite at ht
  first | refine whenRunning_only ht ?_ | refine whenAlive_only ht ?_ | (injection ht with ht; subst ht)
  repeat' first
    | with_reducible assumption
    | with_reducible apply OnlyChanges.refl
    | (with_reducible apply OnlyChanges.step State.grant_only; on_goal 2 => decide)
    | (with_reducible apply State.asPriv_only; (on_goal 3 => decide); (on_goal 2 => intro _))

theorem State.sendFlow_only {u : State} {a1 : ℕ} {a2 : ℕ} {a3 : BlockHeader} {a4 : Bytes} :
    OnlyChanges [.flows] u (State.sendFlow u a1 a2 a3 a4) := by
  unfold State.sendFlow
  repeat' first
    | with_reducible assumption
    | with_reducible apply OnlyChanges.refl
    | (extract_lets +onlyGivenNames y; first | (apply only_cut (v := y); (on_goal 2 => (intro hy; clear_value y)); subst y) | clear_value y | subst y)
    | (with_reducible apply OnlyChanges.step State.setFlow_only; on_goal 2 => decide)
    | with_reducible apply only_ite

theorem State.sendBlock_only {u : State} {a1 : ℕ} {a2 : ℕ} {a3 : ℕ} {a4 : BlockHeader} {a5 : Bytes} :
    OnlyChanges [.ports] u (State.sendBlock u a1 a2 a3 a4 a5) := by
  unfold State.sendBlock
  repeat' first
    | with_reducible assumption
    | with_reducible apply OnlyChanges.refl
    | (extract_lets +onlyGivenNames y; first | (apply only_cut (v := y); (on_goal 2 => (intro hy; clear_value y)); subst y) | clear_value y | subst y)
    | (with_reducible apply OnlyChanges.step State.modPort_only; on_goal 2 => decide)
    | with_reducible apply only_ite

theorem State.sendOut_only {u : State} {a1 : ℕ} {a2 : ℕ} {a3 : ℕ} {a4 : ℕ} {a5 : ℕ} {a6 : BlockHeader} {a7 : Bytes} :
    OnlyChanges [.ports, .flows] u (State.sendOut u a1 a2 a3 a4 a5 a6 a7) := by
  unfold State.sendOut
  repeat' first
    | with_reducible assumption
    | with_reducible apply OnlyChanges.refl
    | (with_reducible apply OnlyChanges.step State.sendBlock_only; on_goal 2 => decide)
    | (with_reducible apply OnlyChanges.step State.sendFlow_only; on_goal 2 => decide)
    | with_reducible apply only_ite

theorem State.sendBlocks_only {u : State} {a1 : ℕ} {a2 : ℕ} {a3 : ℕ} {a4 : ℕ} {a5 : ℕ} {a6 : List (BlockHeader ×
      Bytes)} :
    OnlyChanges [.ports, .flows] u (State.sendBlocks u a1 a2 a3 a4 a5 a6) := by
  unfold State.sendBlocks
  repeat' first
    | with_reducible assumption
    | with_reducible apply OnlyChanges.refl
    | (with_reducible apply OnlyChanges.step State.sendOut_only; on_goal 2 => decide)
    | (with_reducible apply only_foldl; on_goal 2 => intro _ _ _)

theorem State.startTransfer_only {u : State} {a1 : ℕ} {a2 : ℕ} {a3 : ℕ} {a4 : QueueOp → List (BlockHeader × Bytes)} :
    OnlyChanges [.out, .power, .ports, .queues, .xfers, .flows] u (State.startTransfer u a1 a2 a3 a4) := by
  unfold State.startTransfer
  repeat' first
    | with_reducible assumption
    | with_reducible apply OnlyChanges.refl
    | (extract_lets +onlyGivenNames y; first | (apply only_cut (v := y); (on_goal 2 => (intro hy; clear_value y)); subst y) | clear_value y | subst y)
    | (with_reducible apply OnlyChanges.step State.askWake_only; on_goal 2 => decide)
    | (with_reducible apply OnlyChanges.step State.modOp_only; on_goal 2 => decide)
    | (with_reducible apply OnlyChanges.step State.emit_only; on_goal 2 => decide)
    | (with_reducible apply OnlyChanges.step State.sendBlocks_only; on_goal 2 => decide)
    | with_reducible apply only_ite
    | ((with_reducible apply only_xfers (h1 := by decide)); first | with_reducible assumption | with_reducible exact OnlyChanges.refl)
    | split

theorem State.endTransfer_only {u : State} {a1 : ℕ} {a2 : ℕ} {a3 : ℕ} :
    OnlyChanges [.ports, .queues, .groups, .xfers, .events, .stats] u (State.endTransfer u a1 a2 a3) := by
  unfold State.endTransfer
  repeat' first
    | with_reducible assumption
    | with_reducible apply OnlyChanges.refl
    | (extract_lets +onlyGivenNames y; first | (apply only_cut (v := y); (on_goal 2 => (intro hy; clear_value y)); subst y) | clear_value y | subst y)
    | (with_reducible apply OnlyChanges.step State.pollReadyAll_only; on_goal 2 => decide)
    | (with_reducible apply OnlyChanges.step State.completeAlone_only; on_goal 2 => decide)
    | (with_reducible apply OnlyChanges.step State.enterLedger_only; on_goal 2 => decide)
    | with_reducible apply only_ite
    | ((with_reducible apply only_xfers (h1 := by decide)); first | with_reducible assumption | with_reducible exact OnlyChanges.refl)
    | split

theorem State.countBlock_only {u : State} {a1 : Transfer} {a2 : ℕ} :
    OnlyChanges [.ports, .queues, .groups, .xfers, .events, .stats] u (State.countBlock u a1 a2) := by
  unfold State.countBlock
  repeat' first
    | with_reducible assumption
    | with_reducible apply OnlyChanges.refl
    | (with_reducible apply OnlyChanges.step State.endTransfer_only; on_goal 2 => decide)
    | with_reducible apply only_ite
    | ((with_reducible apply only_xfers (h1 := by decide)); first | with_reducible assumption | with_reducible exact OnlyChanges.refl)

theorem State.dropBlock_only {u : State} {a1 : ℕ} {a2 : ℕ} {a3 : ℕ} :
    OnlyChanges [.ports, .groups, .staging, .blockRx, .events, .stats] u (State.dropBlock u a1 a2 a3) := by
  unfold State.dropBlock
  repeat' first
    | with_reducible assumption
    | with_reducible apply OnlyChanges.refl
    | (extract_lets +onlyGivenNames y; first | (apply only_cut (v := y); (on_goal 2 => (intro hy; clear_value y)); subst y) | clear_value y | subst y)
    | (with_reducible apply OnlyChanges.step State.abortGroup_only; on_goal 2 => decide)
    | (with_reducible apply OnlyChanges.step State.modBlock_only; on_goal 2 => decide)
    | (with_reducible apply OnlyChanges.step State.countMissing_only; on_goal 2 => decide)
    | with_reducible apply only_ite
    | ((with_reducible apply only_staging (h1 := by decide)); first | with_reducible assumption | with_reducible exact OnlyChanges.refl)

theorem State.withBlock_only {u s : State} {a1 : BlockFrom} {a2 : ℕ} {f3 : State → ℕ → RxBlock → State} {P : List
      Part} (h : OnlyChanges P s u) (hf3 : ∀ v w0 w1, OnlyChanges P v (f3 v w0 w1)) (hP : ∀ p ∈ ([.ports, .groups,
      .staging, .blockRx, .flows, .events, .stats] : List Part), p ∈ P) :
    OnlyChanges P s (State.withBlock u a1 a2 f3) := by
  apply OnlyChanges.trans h
  unfold State.withBlock
  repeat' first
    | with_reducible assumption
    | with_reducible apply OnlyChanges.refl
    | (extract_lets +onlyGivenNames y; first | (apply only_cut (v := y); (on_goal 2 => (intro hy; clear_value y)); subst y) | clear_value y | subst y)
    | (with_reducible apply OnlyChanges.step State.setFlow_only; on_goal 2 => exact fun p hp => hP p (by revert p hp; decide))
    | (with_reducible apply OnlyChanges.step State.dropBlock_only; on_goal 2 => exact fun p hp => hP p (by revert p hp; decide))
    | with_reducible apply OnlyChanges.trans' (hf3 _ _ _)
    | with_reducible apply only_ite
    | split
    | (dsimp only; split)

theorem State.writeBlock_only {u : State} {a1 : BlockFrom} {a2 : ℕ} {a3 : BlockHeader} {a4 : RxBlock} :
    OnlyChanges [.out, .events, .stats] u (State.writeBlock u a1 a2 a3 a4) := by
  unfold State.writeBlock
  repeat' first
    | with_reducible assumption
    | with_reducible apply OnlyChanges.refl
    | (extract_lets +onlyGivenNames y; first | (apply only_cut (v := y); (on_goal 2 => (intro hy; clear_value y)); subst y) | clear_value y | subst y)
    | (with_reducible apply OnlyChanges.step State.bumpG_only; on_goal 2 => decide)
    | (with_reducible apply OnlyChanges.step State.emit_only; on_goal 2 => decide)
    | with_reducible apply only_ite

theorem State.takePut_only {u : State} {a1 : BlockFrom} {a2 : Nat} {a3 : RxBlock} :
    OnlyChanges [.out, .ports, .flows, .events, .stats] u (State.takePut u a1 a2 a3) := by
  unfold State.takePut
  dsimp only
  split
  · exact State.sendOut_only.step .refl (by decide)
  · exact State.sendOut_only.step (State.writeBlock_only.step .refl (by decide)) (by decide)

theorem State.serveGet_only {u : State} {a1 : BlockFrom} {a2 : ℕ} {a3 : BlockHeader} {a4 : Bytes} :
    OnlyChanges [.out, .ports, .flows, .events, .stats] u (State.serveGet u a1 a2 a3 a4) := by
  unfold State.serveGet
  repeat' first
    | with_reducible assumption
    | with_reducible apply OnlyChanges.refl
    | (with_reducible apply OnlyChanges.step State.bumpG_only; on_goal 2 => decide)
    | (with_reducible apply OnlyChanges.step State.sendOut_only; on_goal 2 => decide)
    | (with_reducible apply OnlyChanges.step State.emit_only; on_goal 2 => decide)
    | (with_reducible apply OnlyChanges.step State.sendBlocks_only; on_goal 2 => decide)
    | with_reducible apply only_ite

theorem State.takeGetData_only {u : State} {a1 : BlockFrom} {a2 : ℕ} {a3 : RxBlock} :
    OnlyChanges [.out, .ports, .queues, .groups, .xfers, .events, .stats] u (State.takeGetData u a1 a2 a3) := by
  unfold State.takeGetData
  repeat' first
    | with_reducible assumption
    | with_reducible apply OnlyChanges.refl
    | (with_reducible apply OnlyChanges.step State.writeBlock_only; on_goal 2 => decide)
    | (with_reducible apply OnlyChanges.step State.countBlock_only; on_goal 2 => decide)
    | with_reducible apply only_ite
    | split

theorem State.endOnRoute_only {u : State} {a1 : BlockFrom} {a2 : ℕ} :
    OnlyChanges [.ports, .queues, .groups, .xfers, .events, .stats] u (State.endOnRoute u a1 a2) := by
  unfold State.endOnRoute
  repeat' first
    | with_reducible assumption
    | with_reducible apply OnlyChanges.refl
    | (with_reducible apply OnlyChanges.step State.countBlock_only; on_goal 2 => decide)
    | split

theorem State.takePutAck_only {u : State} {a1 : BlockFrom} {a2 : RxBlock} :
    OnlyChanges [.ports, .queues, .groups, .xfers, .events, .stats] u (State.takePutAck u a1 a2) := by
  unfold State.takePutAck
  repeat' first
    | with_reducible assumption
    | with_reducible apply OnlyChanges.refl
    | (with_reducible apply OnlyChanges.step State.countBlock_only; on_goal 2 => decide)
    | (with_reducible apply OnlyChanges.step State.endOnRoute_only; on_goal 2 => decide)
    | with_reducible apply only_ite
    | split

theorem State.ackFlow_only {u : State} {a1 : ℕ} {a2 : ℕ} {a3 : Word32} :
    OnlyChanges [.flows] u (State.ackFlow u a1 a2 a3) := by
  unfold State.ackFlow
  repeat' first
    | with_reducible assumption
    | with_reducible apply OnlyChanges.refl
    | (extract_lets +onlyGivenNames y; first | (apply only_cut (v := y); (on_goal 2 => (intro hy; clear_value y)); subst y) | clear_value y | subst y)
    | (with_reducible apply OnlyChanges.step State.setFlow_only; on_goal 2 => decide)
    | with_reducible apply only_ite

theorem State.takeFlow_only {u : State} {a1 : ℕ} {a2 : ℕ} {a3 : Word32} {a4 : Bytes} {a5 : Bool} :
    OnlyChanges [.flows] u (State.takeFlow u a1 a2 a3 a4 a5) := by
  unfold State.takeFlow
  repeat' first
    | with_reducible assumption
    | with_reducible apply OnlyChanges.refl
    | (extract_lets +onlyGivenNames y; first | (apply only_cut (v := y); (on_goal 2 => (intro hy; clear_value y)); subst y) | clear_value y | subst y)
    | (with_reducible apply OnlyChanges.step State.setFlow_only; on_goal 2 => decide)
    | with_reducible apply only_ite

theorem State.receiveFlow_only {u : State} {a1 : ℕ} {a2 : CellFields} :
    OnlyChanges [.flows, .events, .stats] u (State.receiveFlow u a1 a2) := by
  unfold State.receiveFlow
  repeat' first
    | with_reducible assumption
    | with_reducible apply OnlyChanges.refl
    | (extract_lets +onlyGivenNames y; first | (apply only_cut (v := y); (on_goal 2 => (intro hy; clear_value y)); subst y) | clear_value y | subst y)
    | (with_reducible apply OnlyChanges.step State.ackFlow_only; on_goal 2 => decide)
    | (with_reducible apply OnlyChanges.step State.takeFlow_only; on_goal 2 => decide)
    | (with_reducible apply OnlyChanges.step State.bumpPort_only; on_goal 2 => decide)
    | with_reducible apply only_ite

theorem State.giveUpFlow_only {u : State} {a1 : ℕ} {a2 : ℕ} :
    OnlyChanges [.ports, .queues, .groups, .xfers, .flows, .events, .stats] u (State.giveUpFlow u a1 a2) := by
  unfold State.giveUpFlow
  repeat' first
    | with_reducible assumption
    | with_reducible apply OnlyChanges.refl
    | (extract_lets +onlyGivenNames y; first | (apply only_cut (v := y); (on_goal 2 => (intro hy; clear_value y)); subst y) | clear_value y | subst y)
    | (with_reducible apply OnlyChanges.step State.setFlow_only; on_goal 2 => decide)
    | (with_reducible apply OnlyChanges.step State.endTransfer_only; on_goal 2 => decide)
    | (with_reducible apply only_foldl; on_goal 2 => intro _ _ _)

theorem State.resendFlow_only {u : State} {a1 : ℕ} {a2 : ℕ} :
    OnlyChanges [.ports, .queues, .groups, .xfers, .flows, .events, .stats] u (State.resendFlow u a1 a2) := by
  unfold State.resendFlow
  repeat' first
    | with_reducible assumption
    | with_reducible apply OnlyChanges.refl
    | (extract_lets +onlyGivenNames y; first | (apply only_cut (v := y); (on_goal 2 => (intro hy; clear_value y)); subst y) | clear_value y | subst y)
    | (with_reducible apply OnlyChanges.step State.setFlow_only; on_goal 2 => decide)
    | (with_reducible apply OnlyChanges.step State.giveUpFlow_only; on_goal 2 => decide)
    | with_reducible apply only_ite

theorem execPut_only {u t : State} {a0 : ℕ} {a1 : ℕ} {a2 : Bytes} (ht : execPut a0 a1 a2 u = .next t) :
    OnlyChanges [.out, .power, .ports, .queues, .xfers, .flows] u t := by
  unfold execPut at ht
  first | refine whenRunning_only ht ?_ | refine whenAlive_only ht ?_ | (injection ht with ht; subst ht)
  repeat' first
    | with_reducible assumption
    | with_reducible apply OnlyChanges.refl
    | (with_reducible apply OnlyChanges.step State.startTransfer_only; on_goal 2 => decide)

theorem execGet_only {u t : State} {a0 : ℕ} {a1 : ℕ} (ht : execGet a0 a1 u = .next t) :
    OnlyChanges [.out, .power, .ports, .queues, .xfers, .flows] u t := by
  unfold execGet at ht
  first | refine whenRunning_only ht ?_ | refine whenAlive_only ht ?_ | (injection ht with ht; subst ht)
  repeat' first
    | with_reducible assumption
    | with_reducible apply OnlyChanges.refl
    | (with_reducible apply OnlyChanges.step State.startTransfer_only; on_goal 2 => decide)

theorem execPutBlockReceived_only {u t : State} {a0 : BlockFrom} (ht : execPutBlockReceived a0 u = .next t) :
    OnlyChanges [.out, .ports, .groups, .staging, .blockRx, .flows, .events, .stats] u t := by
  unfold execPutBlockReceived at ht
  first | refine whenRunning_only ht ?_ | refine whenAlive_only ht ?_ | (injection ht with ht; subst ht)
  repeat' first
    | with_reducible assumption
    | with_reducible apply OnlyChanges.refl
    | (with_reducible apply State.withBlock_only; (on_goal 3 => decide); (on_goal 2 => intro _ _ _))
    | (with_reducible apply OnlyChanges.step State.takePut_only; on_goal 2 => decide)

theorem execGetRequestReceived_only {u t : State} {a0 : BlockFrom} {a1 : Bytes} (ht : execGetRequestReceived a0 a1 u =
      .next t) :
    OnlyChanges [.out, .ports, .groups, .staging, .blockRx, .flows, .events, .stats] u t := by
  unfold execGetRequestReceived at ht
  first | refine whenRunning_only ht ?_ | refine whenAlive_only ht ?_ | (injection ht with ht; subst ht)
  repeat' first
    | with_reducible assumption
    | with_reducible apply OnlyChanges.refl
    | (with_reducible apply OnlyChanges.step State.serveGet_only; on_goal 2 => decide)
    | (with_reducible apply State.withBlock_only; (on_goal 3 => decide); (on_goal 2 => intro _ _ _))
    | split

theorem execGetDataReceived_only {u t : State} {a0 : BlockFrom} (ht : execGetDataReceived a0 u = .next t) :
    OnlyChanges [.out, .ports, .queues, .groups, .staging, .xfers, .blockRx, .flows, .events, .stats] u t := by
  unfold execGetDataReceived at ht
  first | refine whenRunning_only ht ?_ | refine whenAlive_only ht ?_ | (injection ht with ht; subst ht)
  repeat' first
    | with_reducible assumption
    | with_reducible apply OnlyChanges.refl
    | (with_reducible apply OnlyChanges.step State.takeGetData_only; on_goal 2 => decide)
    | (with_reducible apply State.withBlock_only; (on_goal 3 => decide); (on_goal 2 => intro _ _ _))

theorem execPutAckReceived_only {u t : State} {a0 : BlockFrom} (ht : execPutAckReceived a0 u = .next t) :
    OnlyChanges [.ports, .queues, .groups, .staging, .xfers, .blockRx, .flows, .events, .stats] u t := by
  unfold execPutAckReceived at ht
  first | refine whenRunning_only ht ?_ | refine whenAlive_only ht ?_ | (injection ht with ht; subst ht)
  repeat' first
    | with_reducible assumption
    | with_reducible apply OnlyChanges.refl
    | (with_reducible apply State.withBlock_only; (on_goal 3 => decide); (on_goal 2 => intro _ _ _))
    | (with_reducible apply OnlyChanges.step State.takePutAck_only; on_goal 2 => decide)

theorem execFlowCellReceived_only {u t : State} {a0 : ℕ} {a1 : Bytes} (ht : execFlowCellReceived a0 a1 u = .next t) :
    OnlyChanges [.ports, .flows, .events, .stats] u t := by
  unfold execFlowCellReceived at ht
  first | refine whenRunning_only ht ?_ | refine whenAlive_only ht ?_ | (injection ht with ht; subst ht)
  repeat' first
    | with_reducible assumption
    | with_reducible apply OnlyChanges.refl
    | (with_reducible apply State.withCell_only; (on_goal 3 => decide); (on_goal 2 => intro _ _))
    | (with_reducible apply OnlyChanges.step State.receiveFlow_only; on_goal 2 => decide)

theorem execFlowResend_only {u t : State} {a0 : ℕ} {a1 : ℕ} (ht : execFlowResend a0 a1 u = .next t) :
    OnlyChanges [.ports, .queues, .groups, .xfers, .flows, .events, .stats] u t := by
  unfold execFlowResend at ht
  first | refine whenRunning_only ht ?_ | refine whenAlive_only ht ?_ | (injection ht with ht; subst ht)
  repeat' first
    | with_reducible assumption
    | with_reducible apply OnlyChanges.refl
    | (with_reducible apply OnlyChanges.step State.resendFlow_only; on_goal 2 => decide)

theorem State.writeStack_only {u : State} {a1 : ℕ} {a2 : Bytes} :
    OnlyChanges [.stack, .badUnits, .maint] u (State.writeStack u a1 a2) := by
  unfold State.writeStack
  repeat' first
    | with_reducible assumption
    | with_reducible apply OnlyChanges.refl
    | (with_reducible apply OnlyChanges.step State.writeUnits_only; on_goal 2 => decide)
    | ((with_reducible apply only_stack (h1 := by decide)); first | with_reducible assumption | with_reducible exact OnlyChanges.refl)

theorem State.useEscape_only {u : State} {a1 : ℕ} :
    OnlyChanges [.areas] u (State.useEscape u a1) := by
  unfold State.useEscape
  repeat' first
    | with_reducible assumption
    | with_reducible apply OnlyChanges.refl
    | (extract_lets +onlyGivenNames y; first | (apply only_cut (v := y); (on_goal 2 => (intro hy; clear_value y)); subst y) | clear_value y | subst y)
    | (with_reducible apply OnlyChanges.step State.setArea_only; on_goal 2 => decide)

theorem State.modSpill_only {u : State} {a1 : ℕ} {a2 : SpillOp → SpillOp} :
    OnlyChanges [.areas] u (State.modSpill u a1 a2) := by
  unfold State.modSpill
  repeat' first
    | with_reducible assumption
    | with_reducible apply OnlyChanges.refl
    | (extract_lets +onlyGivenNames y; first | (apply only_cut (v := y); (on_goal 2 => (intro hy; clear_value y)); subst y) | clear_value y | subst y)
    | (with_reducible apply OnlyChanges.step State.setArea_only; on_goal 2 => decide)

theorem State.startSpill_only {u : State} {a1 : ℕ} {a2 : ℕ} {a3 : ℕ} :
    OnlyChanges [.power, .areas] u (State.startSpill u a1 a2 a3) := by
  unfold State.startSpill
  repeat' first
    | with_reducible assumption
    | with_reducible apply OnlyChanges.refl
    | (extract_lets +onlyGivenNames y; first | (apply only_cut (v := y); (on_goal 2 => (intro hy; clear_value y)); subst y) | clear_value y | subst y)
    | (with_reducible apply OnlyChanges.step State.askWake_only; on_goal 2 => decide)
    | (with_reducible apply OnlyChanges.step State.setArea_only; on_goal 2 => decide)
    | with_reducible apply only_ite
    | split

theorem State.finishSpill_only {u : State} {a1 : ℕ} :
    OnlyChanges [.ports, .queues, .groups, .areas, .events, .stats] u (State.finishSpill u a1) := by
  unfold State.finishSpill
  repeat' first
    | with_reducible assumption
    | with_reducible apply OnlyChanges.refl
    | (extract_lets +onlyGivenNames y; first | (apply only_cut (v := y); (on_goal 2 => (intro hy; clear_value y)); subst y) | clear_value y | subst y)
    | (with_reducible apply OnlyChanges.step State.pollReadyAll_only; on_goal 2 => decide)
    | (with_reducible apply OnlyChanges.step State.completeAlone_only; on_goal 2 => decide)
    | (with_reducible apply OnlyChanges.step State.setArea_only; on_goal 2 => decide)
    | with_reducible apply only_ite
    | split

theorem State.writeSlot_only {u : State} {a1 : ImgArea} {a2 : SlotHeader} {a3 : Bytes} {a4 : Bytes} :
    OnlyChanges [.stack, .badUnits, .maint] u (State.writeSlot u a1 a2 a3 a4) := by
  unfold State.writeSlot
  repeat' first
    | with_reducible assumption
    | with_reducible apply OnlyChanges.refl
    | (with_reducible apply OnlyChanges.step State.writeStack_only; on_goal 2 => decide)

theorem State.noteEscape_only {u : State} {a1 : ImgArea} {a2 : ℕ} :
    OnlyChanges [.events, .stats] u (State.noteEscape u a1 a2) := by
  unfold State.noteEscape
  repeat' first
    | with_reducible assumption
    | with_reducible apply OnlyChanges.refl
    | (with_reducible apply OnlyChanges.step State.raise_only; on_goal 2 => decide)
    | (with_reducible apply OnlyChanges.step State.bumpP_only; on_goal 2 => decide)
    | with_reducible apply only_ite

theorem State.storeEscaped_only {u : State} {a1 : ImgArea} {a2 : SlotHeader} {a3 : ℕ} {a4 : Bytes} :
    OnlyChanges [.stack, .badUnits, .areas, .events, .stats, .maint] u (State.storeEscaped u a1 a2 a3 a4) := by
  unfold State.storeEscaped
  repeat' first
    | with_reducible assumption
    | with_reducible apply OnlyChanges.refl
    | (extract_lets +onlyGivenNames y; first | (apply only_cut (v := y); (on_goal 2 => (intro hy; clear_value y)); subst y) | clear_value y | subst y)
    | (with_reducible apply OnlyChanges.step State.modSpill_only; on_goal 2 => decide)
    | (with_reducible apply OnlyChanges.step State.writeSlot_only; on_goal 2 => decide)
    | (with_reducible apply OnlyChanges.step State.useEscape_only; on_goal 2 => decide)
    | (with_reducible apply OnlyChanges.step State.setArea_only; on_goal 2 => decide)
    | (with_reducible apply OnlyChanges.step State.writeStack_only; on_goal 2 => decide)
    | (with_reducible apply OnlyChanges.step State.bumpP_only; on_goal 2 => decide)

theorem State.storeFactors_only {u : State} {a1 : ImgArea} {a2 : SlotHeader} {a3 : Factors} {a4 : ℕ} {a5 : ℕ} :
    OnlyChanges [.stack, .badUnits, .maint] u (State.storeFactors u a1 a2 a3 a4 a5) := by
  unfold State.storeFactors
  repeat' first
    | with_reducible assumption
    | with_reducible apply OnlyChanges.refl
    | (extract_lets +onlyGivenNames y; first | (apply only_cut (v := y); (on_goal 2 => (intro hy; clear_value y)); subst y) | clear_value y | subst y)
    | (with_reducible apply OnlyChanges.step State.writeSlot_only; on_goal 2 => decide)

theorem State.storeFinite_only {u : State} {a1 : ImgArea} {a2 : SlotHeader} {a3 : List Dy} {a4 : Bytes} {a5 : ℕ} :
    OnlyChanges [.stack, .badUnits, .areas, .events, .stats, .maint] u (State.storeFinite u a1 a2 a3 a4 a5) := by
  unfold State.storeFinite
  repeat' first
    | with_reducible assumption
    | with_reducible apply OnlyChanges.refl
    | (extract_lets +onlyGivenNames y; first | (apply only_cut (v := y); (on_goal 2 => (intro hy; clear_value y)); subst y) | clear_value y | subst y)
    | (with_reducible apply OnlyChanges.step State.modSpill_only; on_goal 2 => decide)
    | (with_reducible apply OnlyChanges.step State.noteEscape_only; on_goal 2 => decide)
    | (with_reducible apply OnlyChanges.step State.writeSlot_only; on_goal 2 => decide)
    | (with_reducible apply OnlyChanges.step State.storeEscaped_only; on_goal 2 => decide)
    | (with_reducible apply OnlyChanges.step State.storeFactors_only; on_goal 2 => decide)
    | with_reducible apply only_ite
    | split

theorem State.readRows_only {u : State} {a1 : ImgArea} {a2 : SpillOp} :
    OnlyChanges [.out] u (State.readRows u a1 a2) := by
  unfold State.readRows
  repeat' first
    | with_reducible assumption
    | with_reducible apply OnlyChanges.refl
    | (with_reducible apply OnlyChanges.step State.emits_only; on_goal 2 => decide)

theorem State.storeTile_only {u : State} {a1 : ImgArea} {a2 : Bytes} :
    OnlyChanges [.out, .stack, .badUnits, .areas, .events, .stats, .maint] u (State.storeTile u a1 a2) := by
  unfold State.storeTile
  repeat' first
    | with_reducible assumption
    | with_reducible apply OnlyChanges.refl
    | (extract_lets +onlyGivenNames y; first | (apply only_cut (v := y); (on_goal 2 => (intro hy; clear_value y)); subst y) | clear_value y | subst y)
    | (with_reducible apply OnlyChanges.step State.storeFinite_only; on_goal 2 => decide)
    | (with_reducible apply OnlyChanges.step State.modSpill_only; on_goal 2 => decide)
    | (with_reducible apply OnlyChanges.step State.noteEscape_only; on_goal 2 => decide)
    | (with_reducible apply OnlyChanges.step State.readRows_only; on_goal 2 => decide)
    | (with_reducible apply OnlyChanges.step State.storeEscaped_only; on_goal 2 => decide)
    | (with_reducible apply OnlyChanges.step State.bumpP_only; on_goal 2 => decide)
    | with_reducible apply only_ite
    | split

theorem State.writeTile_only {u : State} {a1 : ImgArea} {a2 : SpillOp} {a3 : Bytes} :
    OnlyChanges [.out] u (State.writeTile u a1 a2 a3) := by
  unfold State.writeTile
  repeat' first
    | with_reducible assumption
    | with_reducible apply OnlyChanges.refl
    | (with_reducible apply OnlyChanges.step State.emits_only; on_goal 2 => decide)

theorem State.noteBadTile_only {u : State} {a1 : ImgArea} {a2 : ℕ} {a3 : Option ℕ} :
    OnlyChanges [.power, .badUnits, .events, .stats, .maint] u (State.noteBadTile u a1 a2 a3) := by
  unfold State.noteBadTile
  repeat' first
    | with_reducible assumption
    | with_reducible apply OnlyChanges.refl
    | (extract_lets +onlyGivenNames y; first | (apply only_cut (v := y); (on_goal 2 => (intro hy; clear_value y)); subst y) | clear_value y | subst y)
    | (with_reducible apply OnlyChanges.step State.raise_only; on_goal 2 => decide)
    | (with_reducible apply OnlyChanges.step State.stackUE_only; on_goal 2 => decide)
    | (with_reducible apply OnlyChanges.step State.bumpP_only; on_goal 2 => decide)
    | (with_reducible apply OnlyChanges.step State.markBad_only; on_goal 2 => decide)
    | split

theorem State.tileDone_only {u : State} {a1 : ImgArea} {a2 : SpillOp → SpillOp} :
    OnlyChanges [.areas] u (State.tileDone u a1 a2) := by
  unfold State.tileDone
  repeat' first
    | with_reducible assumption
    | with_reducible apply OnlyChanges.refl
    | (extract_lets +onlyGivenNames y; first | (apply only_cut (v := y); (on_goal 2 => (intro hy; clear_value y)); subst y) | clear_value y | subst y)
    | (with_reducible apply OnlyChanges.step State.modSpill_only; on_goal 2 => decide)

theorem State.loadTile_only {u : State} {a1 : ImgArea} {a2 : SpillOp} {a3 : State.Loaded} :
    OnlyChanges [.out, .power, .badUnits, .areas, .events, .stats, .maint] u (State.loadTile u a1 a2 a3) := by
  unfold State.loadTile
  repeat' first
    | with_reducible assumption
    | with_reducible apply OnlyChanges.refl
    | (extract_lets +onlyGivenNames y; first | (apply only_cut (v := y); (on_goal 2 => (intro hy; clear_value y)); subst y) | clear_value y | subst y)
    | (with_reducible apply OnlyChanges.step State.tileDone_only; on_goal 2 => decide)
    | (with_reducible apply OnlyChanges.step State.writeTile_only; on_goal 2 => decide)
    | (with_reducible apply OnlyChanges.step State.bumpP_only; on_goal 2 => decide)
    | (with_reducible apply OnlyChanges.step State.noteBadTile_only; on_goal 2 => decide)
    | with_reducible apply only_ite
    | split

theorem State.loadNext_only {u : State} {a1 : ImgArea} {a2 : SpillOp} {a3 : List ℕ} :
    OnlyChanges [.out, .power, .badUnits, .areas, .events, .stats, .maint] u (State.loadNext u a1 a2 a3) := by
  unfold State.loadNext
  repeat' first
    | with_reducible assumption
    | with_reducible apply OnlyChanges.refl
    | (extract_lets +onlyGivenNames y; first | (apply only_cut (v := y); (on_goal 2 => (intro hy; clear_value y)); subst y) | clear_value y | subst y)
    | (with_reducible apply OnlyChanges.step State.loadTile_only; on_goal 2 => decide)
    | (with_reducible apply OnlyChanges.step State.useEscape_only; on_goal 2 => decide)
    | with_reducible apply only_ite

theorem State.loadTiles_only {u : State} {a0 : Nat} {a2 : ImgArea} {a3 : List Nat} :
    OnlyChanges [.out, .power, .badUnits, .areas, .events, .stats, .maint] u (State.loadTiles a0 u a2 a3) := by
  induction a0 generalizing u with
  | zero => exact OnlyChanges.refl
  | succ n ih =>
    unfold State.loadTiles
    repeat' first
      | with_reducible apply OnlyChanges.refl
      | with_reducible apply OnlyChanges.trans' ih
      | (with_reducible apply OnlyChanges.step State.loadNext_only; on_goal 2 => decide)
      | with_reducible apply only_ite
      | split

theorem State.takeTurn_only {u : State} {a1 : ImgArea} {a2 : SpillOp} :
    OnlyChanges [.areas, .maint] u (State.takeTurn u a1 a2) := by
  unfold State.takeTurn
  repeat' first
    | with_reducible assumption
    | with_reducible apply OnlyChanges.refl
    | (extract_lets +onlyGivenNames y; first | (apply only_cut (v := y); (on_goal 2 => (intro hy; clear_value y)); subst y) | clear_value y | subst y)
    | (with_reducible apply OnlyChanges.step State.modSpill_only; on_goal 2 => decide)
    | with_reducible apply only_ite
    | ((with_reducible apply only_maint (h1 := by decide)); first | with_reducible assumption | with_reducible exact OnlyChanges.refl)

theorem State.countTiles_only {u : State} {a1 : ℕ} {a2 : SpillOp} :
    OnlyChanges [.groups] u (State.countTiles u a1 a2) := by
  unfold State.countTiles
  repeat' first
    | with_reducible assumption
    | with_reducible apply OnlyChanges.refl
    | (extract_lets +onlyGivenNames y; first | (apply only_cut (v := y); (on_goal 2 => (intro hy; clear_value y)); subst y) | clear_value y | subst y)
    | (with_reducible apply OnlyChanges.step State.modGroup_only; on_goal 2 => decide)
    | (with_reducible apply OnlyChanges.step State.noteMovable_only; on_goal 2 => decide)
    | with_reducible apply only_ite

theorem State.storeTiles_only {u : State} {a1 : ImgArea} {a2 : ℕ} {a3 : List Bytes} :
    OnlyChanges [.out, .stack, .badUnits, .areas, .events, .stats, .maint] u (State.storeTiles u a1 a2 a3) := by
  unfold State.storeTiles
  repeat' first
    | with_reducible assumption
    | with_reducible apply OnlyChanges.refl
    | (with_reducible apply OnlyChanges.step State.storeTile_only; on_goal 2 => decide)
    | (with_reducible apply only_foldl; on_goal 2 => intro _ _ _)

theorem execSpillStore_only {u t : State} {a0 : ℕ} {a1 : ℕ} (ht : execSpillStore a0 a1 u = .next t) :
    OnlyChanges [.power, .areas] u t := by
  unfold execSpillStore at ht
  first | refine whenRunning_only ht ?_ | refine whenAlive_only ht ?_ | (injection ht with ht; subst ht)
  repeat' first
    | with_reducible assumption
    | with_reducible apply OnlyChanges.refl
    | (with_reducible apply OnlyChanges.step State.startSpill_only; on_goal 2 => decide)

theorem execSpillLoad_only {u t : State} {a0 : ℕ} {a1 : ℕ} (ht : execSpillLoad a0 a1 u = .next t) :
    OnlyChanges [.power, .areas] u t := by
  unfold execSpillLoad at ht
  first | refine whenRunning_only ht ?_ | refine whenAlive_only ht ?_ | (injection ht with ht; subst ht)
  repeat' first
    | with_reducible assumption
    | with_reducible apply OnlyChanges.refl
    | (with_reducible apply OnlyChanges.step State.startSpill_only; on_goal 2 => decide)

theorem execSpillStoreTile_only {u t : State} {a0 : ℕ} {a1 : List Bytes} (ht : execSpillStoreTile a0 a1 u = .next t) :
    OnlyChanges [.out, .ports, .queues, .groups, .stack, .badUnits, .areas, .events, .stats, .maint] u t := by
  unfold execSpillStoreTile at ht
  first | refine whenRunning_only ht ?_ | refine whenAlive_only ht ?_ | (injection ht with ht; subst ht)
  repeat' first
    | with_reducible assumption
    | with_reducible apply OnlyChanges.refl
    | (with_reducible apply OnlyChanges.step State.storeTiles_only; on_goal 2 => decide)
    | (with_reducible apply OnlyChanges.step State.takeTurn_only; on_goal 2 => decide)
    | (with_reducible apply OnlyChanges.step State.countTiles_only; on_goal 2 => decide)
    | (with_reducible apply OnlyChanges.step State.finishSpill_only; on_goal 2 => decide)
    | with_reducible apply only_ite
    | split

theorem execSpillLoadTile_only {u t : State} {a0 : ℕ} {a1 : StackReads} (ht : execSpillLoadTile a0 a1 u = .next t) :
    OnlyChanges [.out, .power, .ports, .queues, .groups, .badUnits, .areas, .events, .stats, .maint] u t := by
  unfold execSpillLoadTile at ht
  first | refine whenRunning_only ht ?_ | refine whenAlive_only ht ?_ | (injection ht with ht; subst ht)
  repeat' first
    | with_reducible assumption
    | with_reducible apply OnlyChanges.refl
    | (with_reducible apply OnlyChanges.step State.takeTurn_only; on_goal 2 => decide)
    | (with_reducible apply OnlyChanges.step State.countTiles_only; on_goal 2 => decide)
    | (with_reducible apply OnlyChanges.step State.finishSpill_only; on_goal 2 => decide)
    | (with_reducible apply OnlyChanges.step State.loadTiles_only; on_goal 2 => decide)
    | (with_reducible apply OnlyChanges.step State.readStack_only; on_goal 2 => decide)
    | with_reducible apply only_ite
    | split

theorem State.writeNv_only {u : State} {a1 : ℕ} {a2 : Bytes} :
    OnlyChanges [.nv] u (State.writeNv u a1 a2) := by
  unfold State.writeNv
  repeat' first
    | with_reducible assumption
    | with_reducible apply OnlyChanges.refl
    | (extract_lets +onlyGivenNames y; first | (apply only_cut (v := y); (on_goal 2 => (intro hy; clear_value y)); subst y) | clear_value y | subst y)
    | ((with_reducible apply only_nv (h1 := by decide)); first | with_reducible assumption | with_reducible exact OnlyChanges.refl)

theorem State.setDescFlags_only {u : State} {a1 : ℕ} {a2 : ℕ} :
    OnlyChanges [.nv] u (State.setDescFlags u a1 a2) := by
  unfold State.setDescFlags
  repeat' first
    | with_reducible assumption
    | with_reducible apply OnlyChanges.refl
    | (extract_lets +onlyGivenNames y; first | (apply only_cut (v := y); (on_goal 2 => (intro hy; clear_value y)); subst y) | clear_value y | subst y)
    | (with_reducible apply OnlyChanges.step State.writeNv_only; on_goal 2 => decide)

theorem State.markBoot_only {u : State}  :
    OnlyChanges [.nv] u (State.markBoot u) := by
  unfold State.markBoot
  repeat' first
    | with_reducible assumption
    | with_reducible apply OnlyChanges.refl
    | (extract_lets +onlyGivenNames y; first | (apply only_cut (v := y); (on_goal 2 => (intro hy; clear_value y)); subst y) | clear_value y | subst y)
    | (with_reducible apply OnlyChanges.step State.setDescFlags_only; on_goal 2 => decide)
    | with_reducible apply only_ite
    | split

theorem State.followBoot_only {u : State}  :
    OnlyChanges [.ident] u (State.followBoot u) := by
  unfold State.followBoot
  repeat' first
    | with_reducible assumption
    | with_reducible apply OnlyChanges.refl
    | (extract_lets +onlyGivenNames y; first | (apply only_cut (v := y); (on_goal 2 => (intro hy; clear_value y)); subst y) | clear_value y | subst y)
    | with_reducible apply only_ite
    | ((with_reducible apply only_ident (h1 := by decide)); first | with_reducible assumption | with_reducible exact OnlyChanges.refl)

theorem State.draw_only {u : State}  :
    OnlyChanges [.nv] u (State.draw u) := by
  unfold State.draw
  repeat' first
    | with_reducible assumption
    | with_reducible apply OnlyChanges.refl
    | (extract_lets +onlyGivenNames y; first | (apply only_cut (v := y); (on_goal 2 => (intro hy; clear_value y)); subst y) | clear_value y | subst y)
    | ((with_reducible apply only_nv (h1 := by decide)); first | with_reducible assumption | with_reducible exact OnlyChanges.refl)

theorem State.cutImage_only {u : State} {a1 : ℕ} :
    OnlyChanges [.nv] u (State.cutImage u a1) := by
  unfold State.cutImage
  repeat' first
    | with_reducible assumption
    | with_reducible apply OnlyChanges.refl
    | (extract_lets +onlyGivenNames y; first | (apply only_cut (v := y); (on_goal 2 => (intro hy; clear_value y)); subst y) | clear_value y | subst y)
    | (with_reducible apply OnlyChanges.step State.draw_only; on_goal 2 => decide)
    | ((with_reducible apply only_nv (h1 := by decide)); first | with_reducible assumption | with_reducible exact OnlyChanges.refl)

theorem State.cutCal_only {u : State}  :
    OnlyChanges [.nv] u (State.cutCal u) := by
  unfold State.cutCal
  repeat' first
    | with_reducible assumption
    | with_reducible apply OnlyChanges.refl
    | (extract_lets +onlyGivenNames y; first | (apply only_cut (v := y); (on_goal 2 => (intro hy; clear_value y)); subst y) | clear_value y | subst y)
    | (with_reducible apply OnlyChanges.step State.draw_only; on_goal 2 => decide)
    | ((with_reducible apply only_nv (h1 := by decide)); first | with_reducible assumption | with_reducible exact OnlyChanges.refl)

theorem State.cutFuses_only {u : State}  :
    OnlyChanges [.nv] u (State.cutFuses u) := by
  unfold State.cutFuses
  repeat' first
    | with_reducible assumption
    | with_reducible apply OnlyChanges.refl
    | (extract_lets +onlyGivenNames y; first | (apply only_cut (v := y); (on_goal 2 => (intro hy; clear_value y)); subst y) | clear_value y | subst y)
    | (with_reducible apply OnlyChanges.step State.draw_only; on_goal 2 => decide)
    | with_reducible apply only_ite
    | ((with_reducible apply only_nv (h1 := by decide)); first | with_reducible assumption | with_reducible exact OnlyChanges.refl)
    | split
    | (dsimp only; split)

theorem State.cutWrites_only {u : State}  :
    OnlyChanges [.nv] u (State.cutWrites u) := by
  unfold State.cutWrites
  repeat' first
    | with_reducible assumption
    | with_reducible apply OnlyChanges.refl
    | (extract_lets +onlyGivenNames y; first | (apply only_cut (v := y); (on_goal 2 => (intro hy; clear_value y)); subst y) | clear_value y | subst y)
    | (with_reducible apply OnlyChanges.step State.cutCal_only; on_goal 2 => decide)
    | (with_reducible apply OnlyChanges.step State.cutFuses_only; on_goal 2 => decide)
    | (with_reducible apply OnlyChanges.step State.cutImage_only; on_goal 2 => decide)
    | with_reducible apply only_ite
    | split

theorem State.coldBase_only {u : State} : OnlyChanges (.out :: .ident :: .power :: .saved :: .nv :: .clock :: .time :: .cal :: .ports :: .image :: .books :: .bookRegs :: .parts :: .host :: .queues :: .triggers :: .groups :: .buckets :: .staging :: .stack :: .badUnits :: .units :: .xfers :: .blockCount :: .blockRx :: .flows :: .areas :: .rings :: .events :: .stats :: .snaps :: .ctxView :: .recSel :: .maint :: []) u (State.coldBase u) := by
  unfold State.coldBase
  extract_lets s nv
  have h : OnlyChanges (.out :: .ident :: .power :: .saved :: .nv :: .clock :: .time :: .cal :: .ports :: .image :: .books :: .bookRegs :: .parts :: .host :: .queues :: .triggers :: .groups :: .buckets :: .staging :: .stack :: .badUnits :: .units :: .xfers :: .blockCount :: .blockRx :: .flows :: .areas :: .rings :: .events :: .stats :: .snaps :: .ctxView :: .recSel :: .maint :: []) u s := State.cutPps_only.step (State.cutWrites_only.step .refl (by decide)) (by decide)
  clear_value nv s
  intro p hp
  have a := h p hp
  cases p <;> first | exact (hp (by decide)).elim | exact a

theorem State.setCause_only {u : State} {a1 : ℕ} :
    OnlyChanges [.power] u (State.setCause u a1) := by
  unfold State.setCause
  repeat' first
    | with_reducible assumption
    | with_reducible apply OnlyChanges.refl
    | (extract_lets +onlyGivenNames y; first | (apply only_cut (v := y); (on_goal 2 => (intro hy; clear_value y)); subst y) | clear_value y | subst y)
    | ((with_reducible apply only_power (h1 := by decide)); first | with_reducible assumption | with_reducible exact OnlyChanges.refl)

theorem State.coldStart_only {u : State}  :
    OnlyChanges (.out :: .ident :: .power :: .saved :: .nv :: .clock :: .time :: .cal :: .ports :: .image :: .books ::
          .bookRegs :: .parts :: .host :: .queues :: .triggers :: .groups :: .buckets :: .staging :: .stack ::
          .badUnits :: .units :: .xfers :: .blockCount :: .blockRx :: .flows :: .areas :: .rings :: .events :: .stats
          :: .snaps :: .ctxView :: .recSel :: .maint :: []) u (State.coldStart u) := by
  unfold State.coldStart
  repeat' first
    | with_reducible assumption
    | with_reducible apply OnlyChanges.refl
    | (extract_lets +onlyGivenNames y; first | (apply only_cut (v := y); (on_goal 2 => (intro hy; clear_value y)); subst y) | clear_value y | subst y)
    | (with_reducible apply OnlyChanges.step State.coldBase_only; on_goal 2 => decide)
    | ((with_reducible apply only_power (h1 := by decide)); first | with_reducible assumption | with_reducible exact OnlyChanges.refl)

theorem State.holdLoop_only {u : State}  :
    OnlyChanges [.out, .time, .events, .stats] u (State.holdLoop u) := by
  unfold State.holdLoop
  repeat' first
    | with_reducible assumption
    | with_reducible apply OnlyChanges.refl
    | with_reducible refine only_fun1 (by assumption) ?_
    | (extract_lets +onlyGivenNames y; first | (apply only_cut (v := y); (on_goal 2 => (intro hy; clear_value y)); subst y) | (apply only_cut_fun1 y; (on_goal 2 => (intro hfun; clear_value y)); (intro _; subst y; beta_reduce)) | (have hy : TimeState := y; clear hy; subst y) | clear_value y | subst y)
    | (with_reducible apply OnlyChanges.step State.enterLoop_only; on_goal 2 => decide)
    | with_reducible apply only_ite
    | ((with_reducible apply only_still (h1 := by decide)); (on_goal 2 => exact ⟨rfl, rfl, rfl, rfl⟩); first | with_reducible assumption | with_reducible exact OnlyChanges.refl)

theorem State.enterHold_only {u : State} {a1 : Bool} {a2 : Restart} :
    OnlyChanges (.out :: .ident :: .power :: .saved :: .nv :: .clock :: .time :: .cal :: .ports :: .image :: .books :: .bookRegs :: .parts :: .host :: .queues :: .triggers :: .groups :: .buckets :: .staging :: .stack :: .badUnits :: .units :: .xfers :: .blockCount :: .blockRx :: .flows :: .areas :: .rings :: .events :: .stats :: .snaps :: .ctxView :: .recSel :: .maint :: []) u (State.enterHold u a1 a2) := by
  unfold State.enterHold
  extract_lets s k b p power
  have h : OnlyChanges (.out :: .ident :: .power :: .saved :: .nv :: .clock :: .time :: .cal :: .ports :: .image :: .books :: .bookRegs :: .parts :: .host :: .queues :: .triggers :: .groups :: .buckets :: .staging :: .stack :: .badUnits :: .units :: .xfers :: .blockCount :: .blockRx :: .flows :: .areas :: .rings :: .events :: .stats :: .snaps :: .ctxView :: .recSel :: .maint :: []) u b := State.coldBase_only.step (State.holdLoop_only.step .refl (by decide)) (by decide)
  have hs : OnlyChanges (.out :: .ident :: .power :: .saved :: .nv :: .clock :: .time :: .cal :: .ports :: .image :: .books :: .bookRegs :: .parts :: .host :: .queues :: .triggers :: .groups :: .buckets :: .staging :: .stack :: .badUnits :: .units :: .xfers :: .blockCount :: .blockRx :: .flows :: .areas :: .rings :: .events :: .stats :: .snaps :: .ctxView :: .recSel :: .maint :: []) u s := State.holdLoop_only.step .refl (by decide)
  clear_value k b power s
  intro p hp
  have a := h p hp
  cases p <;> first | exact (hp (by decide)).elim | exact a

theorem State.dropTime_only {u : State}  :
    OnlyChanges [.out, .power, .time, .events, .stats] u (State.dropTime u) := by
  unfold State.dropTime
  repeat' first
    | with_reducible assumption
    | with_reducible apply OnlyChanges.refl
    | (extract_lets +onlyGivenNames y; first | (apply only_cut (v := y); (on_goal 2 => (intro hy; clear_value y)); subst y) | clear_value y | subst y)
    | (with_reducible apply OnlyChanges.step State.enterLoop_only; on_goal 2 => decide)
    | (with_reducible apply OnlyChanges.step State.bump_only; on_goal 2 => decide)
    | with_reducible apply only_ite
    | ((with_reducible apply only_power (h1 := by decide)); first | with_reducible assumption | with_reducible exact OnlyChanges.refl)

theorem State.startWarm_only {u : State}  :
    OnlyChanges [.out, .power, .time, .events, .stats] u (State.startWarm u) := by
  unfold State.startWarm
  repeat' first
    | with_reducible assumption
    | with_reducible apply OnlyChanges.refl
    | (extract_lets +onlyGivenNames y; first | (apply only_cut (v := y); (on_goal 2 => (intro hy; clear_value y)); subst y) | clear_value y | subst y)
    | (with_reducible apply OnlyChanges.step State.dropTime_only; on_goal 2 => decide)
    | ((with_reducible apply only_power (h1 := by decide)); first | with_reducible assumption | with_reducible exact OnlyChanges.refl)

theorem State.proceedRestart_only {u : State}  :
    OnlyChanges (.out :: .ident :: .power :: .saved :: .nv :: .clock :: .time :: .cal :: .ports :: .image :: .books ::
          .bookRegs :: .parts :: .host :: .queues :: .triggers :: .groups :: .buckets :: .staging :: .stack ::
          .badUnits :: .units :: .xfers :: .blockCount :: .blockRx :: .flows :: .areas :: .rings :: .events :: .stats
          :: .snaps :: .ctxView :: .recSel :: .maint :: []) u (State.proceedRestart u) := by
  unfold State.proceedRestart
  repeat' first
    | with_reducible assumption
    | with_reducible apply OnlyChanges.refl
    | (with_reducible apply OnlyChanges.step State.enterHold_only; on_goal 2 => decide)
    | (with_reducible apply OnlyChanges.step State.coldStart_only; on_goal 2 => decide)
    | (with_reducible apply OnlyChanges.step State.dropHoldEntry_only; on_goal 2 => decide)
    | with_reducible apply only_ite
    | split

theorem State.askRestart_only {u : State} {a1 : Restart} :
    OnlyChanges (.out :: .ident :: .power :: .saved :: .nv :: .clock :: .time :: .cal :: .ports :: .image :: .books ::
          .bookRegs :: .parts :: .host :: .queues :: .triggers :: .groups :: .buckets :: .staging :: .stack ::
          .badUnits :: .units :: .xfers :: .blockCount :: .blockRx :: .flows :: .areas :: .rings :: .events :: .stats
          :: .snaps :: .ctxView :: .recSel :: .maint :: []) u (State.askRestart u a1) := by
  unfold State.askRestart
  repeat' first
    | with_reducible assumption
    | with_reducible apply OnlyChanges.refl
    | (extract_lets +onlyGivenNames y; first | (apply only_cut (v := y); (on_goal 2 => (intro hy; clear_value y)); subst y) | clear_value y | subst y)
    | (with_reducible apply OnlyChanges.step State.proceedRestart_only; on_goal 2 => decide)
    | ((with_reducible apply only_power (h1 := by decide)); first | with_reducible assumption | with_reducible exact OnlyChanges.refl)

theorem State.exchangeBanks_only {u : State}  :
    OnlyChanges [.image] u (State.exchangeBanks u) := by
  unfold State.exchangeBanks
  repeat' first
    | with_reducible assumption
    | with_reducible apply OnlyChanges.refl
    | (extract_lets +onlyGivenNames y; first | (apply only_cut (v := y); (on_goal 2 => (intro hy; clear_value y)); subst y) | clear_value y | subst y)
    | with_reducible apply only_ite
    | ((with_reducible apply only_image (h1 := by decide)); first | with_reducible assumption | with_reducible exact OnlyChanges.refl)

theorem State.discardResiduals_only {u : State} {a1 : Image} {a2 : Image} :
    OnlyChanges [.image, .events, .stats] u (State.discardResiduals u a1 a2) := by
  unfold State.discardResiduals
  repeat' first
    | with_reducible assumption
    | with_reducible apply OnlyChanges.refl
    | (extract_lets +onlyGivenNames y; first | (apply only_cut (v := y); (on_goal 2 => (intro hy; clear_value y)); subst y) | clear_value y | subst y)
    | (with_reducible apply OnlyChanges.step State.bumpBy_only; on_goal 2 => decide)
    | (with_reducible apply OnlyChanges.step State.exchangeBanks_only; on_goal 2 => decide)
    | (with_reducible apply OnlyChanges.step State.raise_only; on_goal 2 => decide)
    | with_reducible apply only_ite
    | (with_reducible apply only_foldl; on_goal 2 => intro _ _ _)

theorem State.discardAreas_only {u : State} {a1 : Image} {a2 : Image} :
    OnlyChanges [.areas, .events] u (State.discardAreas u a1 a2) := by
  unfold State.discardAreas
  repeat' first
    | with_reducible assumption
    | with_reducible apply OnlyChanges.refl
    | (extract_lets +onlyGivenNames y; first | (apply only_cut (v := y); (on_goal 2 => (intro hy; clear_value y)); subst y) | clear_value y | subst y)
    | (with_reducible apply OnlyChanges.step State.raise_only; on_goal 2 => decide)
    | (with_reducible apply only_foldl; on_goal 2 => intro _ _ _)
    | ((with_reducible apply only_areas (h1 := by decide)); first | with_reducible assumption | with_reducible exact OnlyChanges.refl)

theorem State.newBuckets_only {u : State} {a1 : Image} {a2 : Image} :
    OnlyChanges [.buckets] u (State.newBuckets u a1 a2) := by
  unfold State.newBuckets
  repeat' first
    | with_reducible assumption
    | with_reducible apply OnlyChanges.refl
    | (extract_lets +onlyGivenNames y; first | (apply only_cut (v := y); (on_goal 2 => (intro hy; clear_value y)); subst y) | clear_value y | subst y)
    | with_reducible apply only_ite
    | (with_reducible apply only_foldl; on_goal 2 => intro _ _ _)
    | ((with_reducible apply only_buckets (h1 := by decide)); first | with_reducible assumption | with_reducible exact OnlyChanges.refl)

theorem State.newBooks_only {u : State} {a1 : Image} :
    OnlyChanges [.books] u (State.newBooks u a1) := by
  unfold State.newBooks
  repeat' first
    | with_reducible assumption
    | with_reducible apply OnlyChanges.refl
    | (extract_lets +onlyGivenNames y; first | (apply only_cut (v := y); (on_goal 2 => (intro hy; clear_value y)); subst y) | clear_value y | subst y)
    | with_reducible apply only_ite
    | (with_reducible apply only_foldl; on_goal 2 => intro _ _ _)
    | ((with_reducible apply only_books (h1 := by decide)); first | with_reducible assumption | with_reducible exact OnlyChanges.refl)

theorem State.freshGroup_only {u : State} {a1 : ℕ} {a2 : ℕ} :
    OnlyChanges [.groups] u (State.freshGroup u a1 a2) := by
  unfold State.freshGroup
  repeat' first
    | with_reducible assumption
    | with_reducible apply OnlyChanges.refl
    | (with_reducible apply OnlyChanges.step State.setGroup_only; on_goal 2 => decide)

theorem State.newGroups_only {u : State} {a1 : Image} {a2 : Image} :
    OnlyChanges [.groups, .blockCount, .blockRx] u (State.newGroups u a1 a2) := by
  unfold State.newGroups
  repeat' first
    | with_reducible assumption
    | with_reducible apply OnlyChanges.refl
    | (extract_lets +onlyGivenNames y; first | (apply only_cut (v := y); (on_goal 2 => (intro hy; clear_value y)); subst y) | clear_value y | subst y)
    | (with_reducible apply OnlyChanges.step State.resetBlocks_only; on_goal 2 => decide)
    | (with_reducible apply OnlyChanges.step State.modGroup_only; on_goal 2 => decide)
    | (with_reducible apply OnlyChanges.step State.freshGroup_only; on_goal 2 => decide)
    | with_reducible apply only_ite
    | (with_reducible apply only_foldl; on_goal 2 => intro _ _ _)
    | ((with_reducible apply only_groups (h1 := by decide)); first | with_reducible assumption | with_reducible exact OnlyChanges.refl)

theorem State.dropGroups_only {u : State} {a1 : Image} {a2 : Image} :
    OnlyChanges [.books, .queues, .groups, .buckets, .staging, .stack, .badUnits, .events, .stats] u (State.dropGroups
          u a1 a2) := by
  unfold State.dropGroups
  repeat' first
    | with_reducible assumption
    | with_reducible apply OnlyChanges.refl
    | (extract_lets +onlyGivenNames y; first | (apply only_cut (v := y); (on_goal 2 => (intro hy; clear_value y)); subst y) | clear_value y | subst y)
    | (with_reducible apply OnlyChanges.step State.endStepOps_only; on_goal 2 => decide)
    | (with_reducible apply OnlyChanges.step State.discardStep_only; on_goal 2 => decide)
    | (with_reducible apply OnlyChanges.step State.dropStepOps_only; on_goal 2 => decide)
    | (with_reducible apply only_foldl; on_goal 2 => intro _ _ _)

theorem State.takeEntry_only {u : State}  :
    OnlyChanges [.ident] u (State.takeEntry u) := by
  unfold State.takeEntry
  repeat' first
    | with_reducible assumption
    | with_reducible apply OnlyChanges.refl
    | (extract_lets +onlyGivenNames y; first | (apply only_cut (v := y); (on_goal 2 => (intro hy; clear_value y)); subst y) | clear_value y | subst y)
    | ((with_reducible apply only_ident (h1 := by decide)); first | with_reducible assumption | with_reducible exact OnlyChanges.refl)
    | split

theorem State.checkMap_only {u : State}  :
    OnlyChanges [.image, .events] u (State.checkMap u) := by
  unfold State.checkMap
  repeat' first
    | with_reducible assumption
    | with_reducible apply OnlyChanges.refl
    | (extract_lets +onlyGivenNames y; first | (apply only_cut (v := y); (on_goal 2 => (intro hy; clear_value y)); subst y) | clear_value y | subst y)
    | (with_reducible apply OnlyChanges.step State.raise_only; on_goal 2 => decide)
    | with_reducible apply only_ite
    | ((with_reducible apply only_image (h1 := by decide)); first | with_reducible assumption | with_reducible exact OnlyChanges.refl)
    | split

end Sys2Proof.Machine
end

