-- ==== Sys2Proof/Laws/Frame7.lean ====
section
/-! SUPPORT. Frame lemmas, part 7 of 8: for each operation and command, the parts of the state that it can change. -/

namespace Sys2Proof.Machine

open Sys2Proof State

set_option linter.unreachableTactic false
set_option linter.unusedTactic false

theorem State.takeRoles_only {u : State}  :
    OnlyChanges [.out, .time, .ports, .groups, .events, .stats, .maint] u (State.takeRoles u) := by
  unfold State.takeRoles
  repeat' first
    | with_reducible assumption
    | with_reducible apply OnlyChanges.refl
    | (with_reducible apply OnlyChanges.step State.leaveTraining_only; on_goal 2 => decide)
    | (with_reducible apply OnlyChanges.step State.startPort_only; on_goal 2 => decide)
    | with_reducible apply only_ite
    | (with_reducible apply only_foldl; on_goal 2 => intro _ _ _)

theorem State.newTide_only {u : State}  :
    OnlyChanges [.clock] u (State.newTide u) := by
  unfold State.newTide
  repeat' first
    | with_reducible assumption
    | with_reducible apply OnlyChanges.refl
    | (extract_lets +onlyGivenNames y; first | (apply only_cut (v := y); (on_goal 2 => (intro hy; clear_value y)); subst y) | (have hy : TimeState := y; clear hy; subst y) | clear_value y | subst y)
    | ((with_reducible apply only_tick (h1 := by decide)); (on_goal 2 => exact rfl); first | with_reducible assumption | with_reducible exact OnlyChanges.refl)

theorem State.realign_only {u : State} {a1 : ℕ} :
    OnlyChanges [.out, .time, .ports, .events, .stats] u (State.realign u a1) := by
  unfold State.realign
  repeat' first
    | with_reducible assumption
    | with_reducible apply OnlyChanges.refl
    | (with_reducible apply OnlyChanges.step State.modPort_only; on_goal 2 => decide)
    | (with_reducible apply OnlyChanges.step State.enterAlign_only; on_goal 2 => decide)
    | with_reducible apply only_ite

theorem State.takeEpoch_only {u : State} {a1 : Image} {a2 : Image} :
    OnlyChanges [.out, .clock, .time, .ports, .events, .stats] u (State.takeEpoch u a1 a2) := by
  unfold State.takeEpoch
  repeat' first
    | with_reducible assumption
    | with_reducible apply OnlyChanges.refl
    | (with_reducible apply OnlyChanges.step State.newTide_only; on_goal 2 => decide)
    | (with_reducible apply OnlyChanges.step State.realign_only; on_goal 2 => decide)
    | with_reducible apply only_ite
    | (with_reducible apply only_foldl; on_goal 2 => intro _ _ _)

theorem State.retakeReference_only {u : State}  :
    OnlyChanges [.out, .time, .events, .stats] u (State.retakeReference u) := by
  unfold State.retakeReference
  repeat' first
    | with_reducible assumption
    | with_reducible apply OnlyChanges.refl
    | (extract_lets +onlyGivenNames y; first | (apply only_cut (v := y); (on_goal 2 => (intro hy; clear_value y)); subst y) | (have hy : TimeState := y; clear hy; subst y) | clear_value y | subst y)
    | (with_reducible apply OnlyChanges.step State.enterLoop_only; on_goal 2 => decide)
    | (with_reducible apply OnlyChanges.step State.loseReference_only; on_goal 2 => decide)
    | with_reducible apply only_ite
    | ((with_reducible apply only_still (h1 := by decide)); (on_goal 2 => exact ⟨rfl, rfl, rfl, rfl⟩); first | with_reducible assumption | with_reducible exact OnlyChanges.refl)
    | split

theorem State.newSeeds_only {u : State} {a1 : Image} {a2 : Image} :
    OnlyChanges [.maint] u (State.newSeeds u a1 a2) := by
  unfold State.newSeeds
  repeat' first
    | with_reducible assumption
    | with_reducible apply OnlyChanges.refl
    | (extract_lets +onlyGivenNames y; first | (apply only_cut (v := y); (on_goal 2 => (intro hy; clear_value y)); subst y) | clear_value y | subst y)
    | with_reducible apply only_ite
    | ((with_reducible apply only_maint (h1 := by decide)); first | with_reducible assumption | with_reducible exact OnlyChanges.refl)

theorem State.swapTide_only {u : State}  :
    OnlyChanges [.clock, .image] u (State.swapTide u) := by
  unfold State.swapTide
  repeat' first
    | with_reducible assumption
    | with_reducible apply OnlyChanges.refl
    | (extract_lets +onlyGivenNames y; first | (apply only_cut (v := y); (on_goal 2 => (intro hy; clear_value y)); subst y) | (have hy : TimeState := y; clear hy; subst y) | clear_value y | subst y)
    | (with_reducible apply OnlyChanges.step State.exchangeBanks_only; on_goal 2 => decide)
    | ((with_reducible apply only_tick (h1 := by decide)); (on_goal 2 => exact rfl); first | with_reducible assumption | with_reducible exact OnlyChanges.refl)

theorem State.discardOld_only {u : State} {a1 : Image} {a2 : Image} :
    OnlyChanges [.image, .books, .queues, .groups, .buckets, .staging, .stack, .badUnits, .areas, .events, .stats] u
          (State.discardOld u a1 a2) := by
  unfold State.discardOld
  repeat' first
    | with_reducible assumption
    | with_reducible apply OnlyChanges.refl
    | (with_reducible apply OnlyChanges.step State.discardAreas_only; on_goal 2 => decide)
    | (with_reducible apply OnlyChanges.step State.discardResiduals_only; on_goal 2 => decide)
    | (with_reducible apply OnlyChanges.step State.dropGroups_only; on_goal 2 => decide)

theorem State.swapBanks_only {u : State} {a1 : Image} {a2 : Image} {a3 : Bool} :
    OnlyChanges (.clock :: .image :: .books :: .queues :: .groups :: .buckets :: .staging :: .stack :: .badUnits ::
          .areas :: .events :: .stats :: .maint :: []) u (State.swapBanks u a1 a2 a3) := by
  unfold State.swapBanks
  repeat' first
    | with_reducible assumption
    | with_reducible apply OnlyChanges.refl
    | (extract_lets +onlyGivenNames y; first | (apply only_cut (v := y); (on_goal 2 => (intro hy; clear_value y)); subst y) | clear_value y | subst y)
    | (with_reducible apply OnlyChanges.step State.exchangeBanks_only; on_goal 2 => decide)
    | (with_reducible apply OnlyChanges.step State.discardOld_only; on_goal 2 => decide)
    | (with_reducible apply OnlyChanges.step State.swapTide_only; on_goal 2 => decide)
    | (with_reducible apply OnlyChanges.step State.raise_only; on_goal 2 => decide)
    | with_reducible apply only_ite
    | (with_reducible apply only_foldl; on_goal 2 => intro _ _ _)
    | ((with_reducible apply only_events (h1 := by decide)); first | with_reducible assumption | with_reducible exact OnlyChanges.refl)
    | ((with_reducible apply only_stack_badUnits_events_maint (h1 := by decide) (h2 := by decide) (h3 := by decide) (h4 := by decide)); first | with_reducible assumption | with_reducible exact OnlyChanges.refl)

theorem State.takeImage_only {u : State} {a1 : Image} {a2 : Image} {a3 : Bool} :
    OnlyChanges (.out :: .ident :: .clock :: .time :: .ports :: .books :: .groups :: .buckets :: .staging ::
          .blockCount :: .blockRx :: .events :: .stats :: .maint :: []) u (State.takeImage u a1 a2 a3) := by
  unfold State.takeImage
  repeat' first
    | with_reducible assumption
    | with_reducible apply OnlyChanges.refl
    | (extract_lets +onlyGivenNames y; first | (apply only_cut (v := y); (on_goal 2 => (intro hy; clear_value y)); subst y) | clear_value y | subst y)
    | (with_reducible apply OnlyChanges.step State.newBooks_only; on_goal 2 => decide)
    | (with_reducible apply OnlyChanges.step State.newBuckets_only; on_goal 2 => decide)
    | (with_reducible apply OnlyChanges.step State.takeEntry_only; on_goal 2 => decide)
    | (with_reducible apply OnlyChanges.step State.takeEpoch_only; on_goal 2 => decide)
    | (with_reducible apply OnlyChanges.step State.newGroups_only; on_goal 2 => decide)
    | (with_reducible apply OnlyChanges.step State.newTide_only; on_goal 2 => decide)
    | (with_reducible apply OnlyChanges.step State.newSeeds_only; on_goal 2 => decide)
    | with_reducible apply only_ite
    | ((with_reducible apply only_staging (h1 := by decide)); first | with_reducible assumption | with_reducible exact OnlyChanges.refl)

theorem State.activate_only {u : State} {a1 : Image} {a2 : Image} :
    OnlyChanges (.out :: .ident :: .nv :: .clock :: .time :: .ports :: .image :: .books :: .queues :: .groups ::
          .buckets :: .staging :: .stack :: .badUnits :: .blockCount :: .blockRx :: .areas :: .events :: .stats ::
          .maint :: []) u (State.activate u a1 a2) := by
  unfold State.activate
  repeat' first
    | with_reducible assumption
    | with_reducible apply OnlyChanges.refl
    | (extract_lets +onlyGivenNames y; first | (apply only_cut (v := y); (on_goal 2 => (intro hy; clear_value y)); subst y) | clear_value y | subst y)
    | (with_reducible apply OnlyChanges.step State.setFrame_only; on_goal 2 => decide)
    | (with_reducible apply OnlyChanges.step State.retakeReference_only; on_goal 2 => decide)
    | (with_reducible apply OnlyChanges.step State.tryAlign_only; on_goal 2 => decide)
    | (with_reducible apply OnlyChanges.step State.checkMap_only; on_goal 2 => decide)
    | (with_reducible apply OnlyChanges.step State.markBoot_only; on_goal 2 => decide)
    | (with_reducible apply OnlyChanges.step State.withdraw_only; on_goal 2 => decide)
    | (with_reducible apply OnlyChanges.step State.raise_only; on_goal 2 => decide)
    | (with_reducible apply OnlyChanges.step State.tryEnterOpens_only; on_goal 2 => decide)
    | (with_reducible apply OnlyChanges.step State.swapBanks_only; on_goal 2 => decide)
    | (with_reducible apply OnlyChanges.step State.takeRoles_only; on_goal 2 => decide)
    | (with_reducible apply OnlyChanges.step State.takeImage_only; on_goal 2 => decide)
    | (with_reducible apply OnlyChanges.step State.askHails_only; on_goal 2 => decide)
    | with_reducible apply only_ite
    | (with_reducible apply only_foldl; on_goal 2 => intro _ _ _)

theorem State.askActivation_only {u : State}  :
    OnlyChanges [.image, .groups] u (State.askActivation u) := by
  unfold State.askActivation
  repeat' first
    | with_reducible assumption
    | with_reducible apply OnlyChanges.refl
    | (extract_lets +onlyGivenNames y; first | (apply only_cut (v := y); (on_goal 2 => (intro hy; clear_value y)); subst y) | clear_value y | subst y)
    | (with_reducible apply OnlyChanges.step State.modGroup_only; on_goal 2 => decide)
    | with_reducible apply only_ite
    | (with_reducible apply only_foldl; on_goal 2 => intro _ _ _)
    | ((with_reducible apply only_image (h1 := by decide)); first | with_reducible assumption | with_reducible exact OnlyChanges.refl)
    | split

theorem State.ignoreCmd_only {u : State}  :
    OnlyChanges [.image] u (State.ignoreCmd u) := by
  unfold State.ignoreCmd
  repeat' first
    | with_reducible assumption
    | with_reducible apply OnlyChanges.refl
    | (extract_lets +onlyGivenNames y; first | (apply only_cut (v := y); (on_goal 2 => (intro hy; clear_value y)); subst y) | clear_value y | subst y)
    | ((with_reducible apply only_image (h1 := by decide)); first | with_reducible assumption | with_reducible exact OnlyChanges.refl)

theorem State.loseShadow_only {u : State} {a1 : Bool} :
    OnlyChanges [.ports, .image, .books, .queues, .groups, .events, .stats] u (State.loseShadow u a1) := by
  unfold State.loseShadow
  repeat' first
    | with_reducible assumption
    | with_reducible apply OnlyChanges.refl
    | (extract_lets +onlyGivenNames y; first | (apply only_cut (v := y); (on_goal 2 => (intro hy; clear_value y)); subst y) | clear_value y | subst y)
    | (with_reducible apply OnlyChanges.step State.cancelActivation_only; on_goal 2 => decide)
    | with_reducible apply only_ite
    | ((with_reducible apply only_image (h1 := by decide)); first | with_reducible assumption | with_reducible exact OnlyChanges.refl)

theorem State.writeWindow_only {u : State} {a1 : ℕ} {a2 : ℕ} {a3 : ℕ} :
    OnlyChanges [.ports, .image, .books, .queues, .groups, .events, .stats] u (State.writeWindow u a1 a2 a3) := by
  unfold State.writeWindow
  repeat' first
    | with_reducible assumption
    | with_reducible apply OnlyChanges.refl
    | (extract_lets +onlyGivenNames y; first | (apply only_cut (v := y); (on_goal 2 => (intro hy; clear_value y)); subst y) | clear_value y | subst y)
    | (with_reducible apply OnlyChanges.step State.loseShadow_only; on_goal 2 => decide)
    | (with_reducible apply OnlyChanges.step State.ignoreCmd_only; on_goal 2 => decide)
    | with_reducible apply only_ite
    | ((with_reducible apply only_image (h1 := by decide)); first | with_reducible assumption | with_reducible exact OnlyChanges.refl)

theorem State.imageCmd_only {u s : State} {f1 : State → State} {P : List Part} (h : OnlyChanges P s u) (hf1 : ∀ v,
      OnlyChanges P v (f1 v)) (hP : ∀ p ∈ ([.image] : List Part), p ∈ P) :
    OnlyChanges P s (State.imageCmd u f1) := by
  apply OnlyChanges.trans h
  unfold State.imageCmd
  repeat' first
    | with_reducible assumption
    | with_reducible apply OnlyChanges.refl
    | (with_reducible apply OnlyChanges.step State.ignoreCmd_only; on_goal 2 => exact fun p hp => hP p (by revert p hp; decide))
    | with_reducible apply OnlyChanges.trans' (hf1 _)
    | with_reducible apply only_ite

theorem State.setJob_only {u : State} {a1 : ImageJob} :
    OnlyChanges [.image] u (State.setJob u a1) := by
  unfold State.setJob
  repeat' first
    | with_reducible assumption
    | with_reducible apply OnlyChanges.refl
    | (extract_lets +onlyGivenNames y; first | (apply only_cut (v := y); (on_goal 2 => (intro hy; clear_value y)); subst y) | clear_value y | subst y)
    | ((with_reducible apply only_image (h1 := by decide)); first | with_reducible assumption | with_reducible exact OnlyChanges.refl)

theorem State.loadSlot_only {u : State} {a1 : ℕ} :
    OnlyChanges [.ports, .image, .books, .queues, .groups, .events, .stats] u (State.loadSlot u a1) := by
  unfold State.loadSlot
  repeat' first
    | with_reducible assumption
    | with_reducible apply OnlyChanges.refl
    | (extract_lets +onlyGivenNames y; first | (apply only_cut (v := y); (on_goal 2 => (intro hy; clear_value y)); subst y) | clear_value y | subst y)
    | (with_reducible apply OnlyChanges.step State.loseShadow_only; on_goal 2 => decide)
    | (with_reducible apply OnlyChanges.step State.setJob_only; on_goal 2 => decide)
    | with_reducible apply only_ite
    | ((with_reducible apply only_image (h1 := by decide)); first | with_reducible assumption | with_reducible exact OnlyChanges.refl)

theorem State.judge_only {u : State}  :
    OnlyChanges [.ports, .image, .books, .queues, .groups, .events, .stats] u (State.judge u) := by
  unfold State.judge
  repeat' first
    | with_reducible assumption
    | with_reducible apply OnlyChanges.refl
    | (extract_lets +onlyGivenNames y; first | (apply only_cut (v := y); (on_goal 2 => (intro hy; clear_value y)); subst y) | clear_value y | subst y)
    | (with_reducible apply OnlyChanges.step State.cancelActivation_only; on_goal 2 => decide)
    | with_reducible apply only_ite
    | ((with_reducible apply only_image (h1 := by decide)); first | with_reducible assumption | with_reducible exact OnlyChanges.refl)

theorem State.reloadImage_only {u : State}  :
    OnlyChanges [.ports, .image, .books, .queues, .groups, .events, .stats] u (State.reloadImage u) := by
  unfold State.reloadImage
  repeat' first
    | with_reducible assumption
    | with_reducible apply OnlyChanges.refl
    | (extract_lets +onlyGivenNames y; first | (apply only_cut (v := y); (on_goal 2 => (intro hy; clear_value y)); subst y) | clear_value y | subst y)
    | (with_reducible apply OnlyChanges.step State.openOperand_only; on_goal 2 => decide)
    | (with_reducible apply OnlyChanges.step State.tryEnterOpens_only; on_goal 2 => decide)
    | with_reducible apply only_ite
    | (with_reducible apply only_foldl; on_goal 2 => intro _ _ _)
    | ((with_reducible apply only_image (h1 := by decide)); first | with_reducible assumption | with_reducible exact OnlyChanges.refl)
    | split

theorem State.refuseStore_only {u : State}  :
    OnlyChanges [.image] u (State.refuseStore u) := by
  unfold State.refuseStore
  repeat' first
    | with_reducible assumption
    | with_reducible apply OnlyChanges.refl
    | (extract_lets +onlyGivenNames y; first | (apply only_cut (v := y); (on_goal 2 => (intro hy; clear_value y)); subst y) | clear_value y | subst y)
    | ((with_reducible apply only_image (h1 := by decide)); first | with_reducible assumption | with_reducible exact OnlyChanges.refl)

theorem State.startStore_only {u : State} {a1 : ℕ} {a2 : Bool} :
    OnlyChanges [.ident, .nv, .image] u (State.startStore u a1 a2) := by
  unfold State.startStore
  repeat' first
    | with_reducible assumption
    | with_reducible apply OnlyChanges.refl
    | (with_reducible apply OnlyChanges.step State.followBoot_only; on_goal 2 => decide)
    | (with_reducible apply OnlyChanges.step State.refuseStore_only; on_goal 2 => decide)
    | (with_reducible apply OnlyChanges.step State.setJob_only; on_goal 2 => decide)
    | (with_reducible apply OnlyChanges.step State.setDescFlags_only; on_goal 2 => decide)
    | (with_reducible apply OnlyChanges.step State.ignoreCmd_only; on_goal 2 => decide)
    | with_reducible apply only_ite
    | split

theorem State.finishStore_only {u : State} {a1 : ℕ} {a2 : Bool} {a3 : Bool} :
    OnlyChanges [.ident, .nv, .image] u (State.finishStore u a1 a2 a3) := by
  unfold State.finishStore
  repeat' first
    | with_reducible assumption
    | with_reducible apply OnlyChanges.refl
    | (extract_lets +onlyGivenNames y; first | (apply only_cut (v := y); (on_goal 2 => (intro hy; clear_value y)); subst y) | clear_value y | subst y)
    | (with_reducible apply OnlyChanges.step State.writeNv_only; on_goal 2 => decide)
    | (with_reducible apply OnlyChanges.step State.followBoot_only; on_goal 2 => decide)
    | (with_reducible apply OnlyChanges.step State.setJob_only; on_goal 2 => decide)
    | (with_reducible apply OnlyChanges.step State.cutImage_only; on_goal 2 => decide)
    | with_reducible apply only_ite
    | ((with_reducible apply only_image (h1 := by decide)); first | with_reducible assumption | with_reducible exact OnlyChanges.refl)
    | ((with_reducible apply only_nv_image (h1 := by decide) (h2 := by decide)); first | with_reducible assumption | with_reducible exact OnlyChanges.refl)

theorem State.fuseFailed_only {u : State}  :
    OnlyChanges [.nv] u (State.fuseFailed u) := by
  unfold State.fuseFailed
  repeat' first
    | with_reducible assumption
    | with_reducible apply OnlyChanges.refl
    | (extract_lets +onlyGivenNames y; first | (apply only_cut (v := y); (on_goal 2 => (intro hy; clear_value y)); subst y) | clear_value y | subst y)
    | ((with_reducible apply only_nv (h1 := by decide)); first | with_reducible assumption | with_reducible exact OnlyChanges.refl)

theorem State.keyCtrl_only {u : State} {a1 : ℕ} :
    OnlyChanges [.nv] u (State.keyCtrl u a1) := by
  unfold State.keyCtrl
  repeat' first
    | with_reducible assumption
    | with_reducible apply OnlyChanges.refl
    | (extract_lets +onlyGivenNames y; first | (apply only_cut (v := y); (on_goal 2 => (intro hy; clear_value y)); subst y) | clear_value y | subst y)
    | (with_reducible apply OnlyChanges.step State.fuseFailed_only; on_goal 2 => decide)
    | with_reducible apply only_ite
    | ((with_reducible apply only_nv (h1 := by decide)); first | with_reducible assumption | with_reducible exact OnlyChanges.refl)

theorem State.finishFuse_only {u : State}  :
    OnlyChanges [.nv] u (State.finishFuse u) := by
  unfold State.finishFuse
  repeat' first
    | with_reducible assumption
    | with_reducible apply OnlyChanges.refl
    | (extract_lets +onlyGivenNames y; first | (apply only_cut (v := y); (on_goal 2 => (intro hy; clear_value y)); subst y) | clear_value y | subst y)
    | ((with_reducible apply only_nv (h1 := by decide)); first | with_reducible assumption | with_reducible exact OnlyChanges.refl)
    | split
    | (dsimp only; split)

theorem State.rollbackCtrl_only {u : State} {a1 : ℕ} :
    OnlyChanges [.nv, .image] u (State.rollbackCtrl u a1) := by
  unfold State.rollbackCtrl
  repeat' first
    | with_reducible assumption
    | with_reducible apply OnlyChanges.refl
    | (extract_lets +onlyGivenNames y; first | (apply only_cut (v := y); (on_goal 2 => (intro hy; clear_value y)); subst y) | clear_value y | subst y)
    | with_reducible apply only_ite
    | ((with_reducible apply only_image (h1 := by decide)); first | with_reducible assumption | with_reducible exact OnlyChanges.refl)
    | ((with_reducible apply only_nv (h1 := by decide)); first | with_reducible assumption | with_reducible exact OnlyChanges.refl)

theorem State.replaceBook_only {u : State}  :
    OnlyChanges [.books, .events, .stats] u (State.replaceBook u) := by
  unfold State.replaceBook
  repeat' first
    | with_reducible assumption
    | with_reducible apply OnlyChanges.refl
    | with_reducible refine only_fun1 (by assumption) ?_
    | (extract_lets +onlyGivenNames y; first | (apply only_cut (v := y); (on_goal 2 => (intro hy; clear_value y)); subst y) | (apply only_cut_fun1 y; (on_goal 2 => (intro hfun; clear_value y)); (intro _; subst y; beta_reduce)) | clear_value y | subst y)
    | (with_reducible apply OnlyChanges.step State.bump_only; on_goal 2 => decide)
    | (with_reducible apply OnlyChanges.step State.setBook_only; on_goal 2 => decide)
    | with_reducible apply only_ite

theorem asImage_only {u s : State} {a1 : ℕ} {a2 : ℕ} {f3 : State → State} {P : List Part} (h : OnlyChanges P s u) (hf3
      : ∀ v, OnlyChanges P v (f3 v)) (hP : ∀ p ∈ ([.host, .events, .stats] : List Part), p ∈ P) :
    OnlyChanges P s (asImage u a1 a2 f3) := by
  apply OnlyChanges.trans h
  unfold asImage
  repeat' first
    | with_reducible assumption
    | with_reducible apply OnlyChanges.refl
    | (with_reducible apply State.asPriv_only; (on_goal 3 => exact fun p hp => hP p (by revert p hp; decide)); (on_goal 2 => intro _))
    | with_reducible apply OnlyChanges.trans' (hf3 _)

theorem execImageWindowWrite_only {u t : State} {a0 : ℕ} {a1 : ℕ} {a2 : ℕ} {a3 : Word64} (ht : execImageWindowWrite a0
      a1 a2 a3 u = .next t) :
    OnlyChanges [.ports, .image, .books, .host, .queues, .groups, .events, .stats] u t := by
  unfold execImageWindowWrite at ht
  first | refine whenRunning_only ht ?_ | refine whenAlive_only ht ?_ | (injection ht with ht; subst ht)
  repeat' first
    | with_reducible assumption
    | with_reducible apply OnlyChanges.refl
    | (with_reducible apply OnlyChanges.step State.touch_only; on_goal 2 => decide)
    | (with_reducible apply State.asPriv_only; (on_goal 3 => decide); (on_goal 2 => intro _))
    | (with_reducible apply OnlyChanges.step State.writeWindow_only; on_goal 2 => decide)
    | (with_reducible apply OnlyChanges.step State.bumpP_only; on_goal 2 => decide)
    | with_reducible apply only_ite

theorem execVerify_only {u t : State} {a0 : ℕ} (ht : execVerify a0 u = .next t) :
    OnlyChanges [.image, .host, .events, .stats] u t := by
  unfold execVerify at ht
  first | refine whenRunning_only ht ?_ | refine whenAlive_only ht ?_ | (injection ht with ht; subst ht)
  repeat' first
    | with_reducible assumption
    | with_reducible apply OnlyChanges.refl
    | (with_reducible apply State.imageCmd_only; (on_goal 3 => decide); (on_goal 2 => intro _))
    | (with_reducible apply OnlyChanges.step State.setJob_only; on_goal 2 => decide)
    | (with_reducible apply asImage_only; (on_goal 3 => decide); (on_goal 2 => intro _))

theorem execVerifyDone_only {u t : State}  (ht : execVerifyDone u = .next t) :
    OnlyChanges [.ports, .image, .books, .queues, .groups, .events, .stats] u t := by
  unfold execVerifyDone at ht
  first | refine whenRunning_only ht ?_ | refine whenAlive_only ht ?_ | (injection ht with ht; subst ht)
  repeat' first
    | with_reducible assumption
    | with_reducible apply OnlyChanges.refl
    | (with_reducible apply OnlyChanges.step State.judge_only; on_goal 2 => decide)
    | with_reducible apply only_ite

theorem execLoadNv_only {u t : State} {a0 : ℕ} {a1 : ℕ} (ht : execLoadNv a0 a1 u = .next t) :
    OnlyChanges [.ports, .image, .books, .host, .queues, .groups, .events, .stats] u t := by
  unfold execLoadNv at ht
  first | refine whenRunning_only ht ?_ | refine whenAlive_only ht ?_ | (injection ht with ht; subst ht)
  repeat' first
    | with_reducible assumption
    | with_reducible apply OnlyChanges.refl
    | (with_reducible apply OnlyChanges.step State.loadSlot_only; on_goal 2 => decide)
    | (with_reducible apply State.imageCmd_only; (on_goal 3 => decide); (on_goal 2 => intro _))
    | (with_reducible apply asImage_only; (on_goal 3 => decide); (on_goal 2 => intro _))

theorem execStore_only {u t : State} {a0 : ℕ} {a1 : ℕ} (ht : execStore a0 a1 u = .next t) :
    OnlyChanges [.ident, .nv, .image, .host, .events, .stats] u t := by
  unfold execStore at ht
  first | refine whenRunning_only ht ?_ | refine whenAlive_only ht ?_ | (injection ht with ht; subst ht)
  repeat' first
    | with_reducible assumption
    | with_reducible apply OnlyChanges.refl
    | (with_reducible apply OnlyChanges.step State.startStore_only; on_goal 2 => decide)
    | (with_reducible apply asImage_only; (on_goal 3 => decide); (on_goal 2 => intro _))

theorem execStoreActive_only {u t : State} {a0 : ℕ} {a1 : ℕ} (ht : execStoreActive a0 a1 u = .next t) :
    OnlyChanges [.ident, .nv, .image, .host, .events, .stats] u t := by
  unfold execStoreActive at ht
  first | refine whenRunning_only ht ?_ | refine whenAlive_only ht ?_ | (injection ht with ht; subst ht)
  repeat' first
    | with_reducible assumption
    | with_reducible apply OnlyChanges.refl
    | (with_reducible apply OnlyChanges.step State.startStore_only; on_goal 2 => decide)
    | (with_reducible apply asImage_only; (on_goal 3 => decide); (on_goal 2 => intro _))

theorem execStoreDone_only {u t : State} {a0 : Bool} (ht : execStoreDone a0 u = .next t) :
    OnlyChanges (.out :: .ident :: .power :: .saved :: .nv :: .clock :: .time :: .cal :: .ports :: .image :: .books ::
          .bookRegs :: .parts :: .host :: .queues :: .triggers :: .groups :: .buckets :: .staging :: .stack ::
          .badUnits :: .units :: .xfers :: .blockCount :: .blockRx :: .flows :: .areas :: .rings :: .events :: .stats
          :: .snaps :: .ctxView :: .recSel :: .maint :: []) u t := by
  unfold execStoreDone at ht
  first | refine whenRunning_only ht ?_ | refine whenAlive_only ht ?_ | (injection ht with ht; subst ht)
  repeat' first
    | with_reducible assumption
    | with_reducible apply OnlyChanges.refl
    | (with_reducible apply OnlyChanges.step State.finishStore_only; on_goal 2 => decide)
    | (with_reducible apply OnlyChanges.step State.proceedRestart_only; on_goal 2 => decide)
    | split

theorem execActivate_only {u t : State} {a0 : ℕ} (ht : execActivate a0 u = .next t) :
    OnlyChanges [.image, .host, .groups, .events, .stats] u t := by
  unfold execActivate at ht
  first | refine whenRunning_only ht ?_ | refine whenAlive_only ht ?_ | (injection ht with ht; subst ht)
  repeat' first
    | with_reducible assumption
    | with_reducible apply OnlyChanges.refl
    | (with_reducible apply OnlyChanges.step State.askActivation_only; on_goal 2 => decide)
    | (with_reducible apply State.imageCmd_only; (on_goal 3 => decide); (on_goal 2 => intro _))
    | (with_reducible apply asImage_only; (on_goal 3 => decide); (on_goal 2 => intro _))

theorem execCancel_only {u t : State} {a0 : ℕ} (ht : execCancel a0 u = .next t) :
    OnlyChanges [.ports, .image, .books, .host, .queues, .groups, .events, .stats] u t := by
  unfold execCancel at ht
  first | refine whenRunning_only ht ?_ | refine whenAlive_only ht ?_ | (injection ht with ht; subst ht)
  repeat' first
    | with_reducible assumption
    | with_reducible apply OnlyChanges.refl
    | (with_reducible apply State.imageCmd_only; (on_goal 3 => decide); (on_goal 2 => intro _))
    | (with_reducible apply OnlyChanges.step State.cancelActivation_only; on_goal 2 => decide)
    | (with_reducible apply asImage_only; (on_goal 3 => decide); (on_goal 2 => intro _))

theorem execActivation_only {u t : State}  (ht : execActivation u = .next t) :
    OnlyChanges (.out :: .ident :: .power :: .nv :: .clock :: .time :: .cal :: .ports :: .image :: .books :: .parts ::
          .queues :: .groups :: .buckets :: .staging :: .stack :: .badUnits :: .blockCount :: .blockRx :: .areas ::
          .events :: .stats :: .snaps :: .maint :: []) u t := by
  unfold execActivation at ht
  first | refine whenRunning_only ht ?_ | refine whenAlive_only ht ?_ | (injection ht with ht; subst ht)
  repeat' first
    | with_reducible assumption
    | with_reducible apply OnlyChanges.refl
    | (extract_lets +onlyGivenNames y; first | (apply only_cut (v := y); (on_goal 2 => (intro hy; clear_value y)); subst y) | clear_value y | subst y)
    | (with_reducible apply OnlyChanges.step State.settle_only; on_goal 2 => decide)
    | (with_reducible apply OnlyChanges.step State.cancelActivation_only; on_goal 2 => decide)
    | (with_reducible apply OnlyChanges.step State.activate_only; on_goal 2 => decide)
    | with_reducible apply only_ite
    | split

theorem execKeyProgram_only {u t : State} {a0 : ℕ} {a1 : Word32} (ht : execKeyProgram a0 a1 u = .next t) :
    OnlyChanges [.nv, .host, .events, .stats] u t := by
  unfold execKeyProgram at ht
  first | refine whenRunning_only ht ?_ | refine whenAlive_only ht ?_ | (injection ht with ht; subst ht)
  repeat' first
    | with_reducible assumption
    | with_reducible apply OnlyChanges.refl
    | (with_reducible apply OnlyChanges.step State.keyCtrl_only; on_goal 2 => decide)
    | (with_reducible apply asImage_only; (on_goal 3 => decide); (on_goal 2 => intro _))

theorem execKeyRevoke_only {u t : State} {a0 : ℕ} {a1 : Word32} (ht : execKeyRevoke a0 a1 u = .next t) :
    OnlyChanges [.nv, .host, .events, .stats] u t := by
  unfold execKeyRevoke at ht
  first | refine whenRunning_only ht ?_ | refine whenAlive_only ht ?_ | (injection ht with ht; subst ht)
  repeat' first
    | with_reducible assumption
    | with_reducible apply OnlyChanges.refl
    | (with_reducible apply OnlyChanges.step State.keyCtrl_only; on_goal 2 => decide)
    | (with_reducible apply asImage_only; (on_goal 3 => decide); (on_goal 2 => intro _))

theorem execFuseDone_only {u t : State}  (ht : execFuseDone u = .next t) :
    OnlyChanges [.nv] u t := by
  unfold execFuseDone at ht
  first | refine whenRunning_only ht ?_ | refine whenAlive_only ht ?_ | (injection ht with ht; subst ht)
  repeat' first
    | with_reducible assumption
    | with_reducible apply OnlyChanges.refl
    | (with_reducible apply OnlyChanges.step State.finishFuse_only; on_goal 2 => decide)

theorem execRollbackCtrlWrite_only {u t : State} {a0 : ℕ} {a1 : Word32} (ht : execRollbackCtrlWrite a0 a1 u = .next t) :
    OnlyChanges [.nv, .image, .host, .events, .stats] u t := by
  unfold execRollbackCtrlWrite at ht
  first | refine whenRunning_only ht ?_ | refine whenAlive_only ht ?_ | (injection ht with ht; subst ht)
  repeat' first
    | with_reducible assumption
    | with_reducible apply OnlyChanges.refl
    | (with_reducible apply OnlyChanges.step State.rollbackCtrl_only; on_goal 2 => decide)
    | (with_reducible apply asImage_only; (on_goal 3 => decide); (on_goal 2 => intro _))

theorem execCodebookCmd_only {u t : State} {a0 : ℕ} {a1 : Word32} (ht : execCodebookCmd a0 a1 u = .next t) :
    OnlyChanges [.books, .host, .events, .stats] u t := by
  unfold execCodebookCmd at ht
  first | refine whenRunning_only ht ?_ | refine whenAlive_only ht ?_ | (injection ht with ht; subst ht)
  repeat' first
    | with_reducible assumption
    | with_reducible apply OnlyChanges.refl
    | (with_reducible apply OnlyChanges.step State.replaceBook_only; on_goal 2 => decide)
    | (with_reducible apply asImage_only; (on_goal 3 => decide); (on_goal 2 => intro _))
    | with_reducible apply only_ite

theorem execImageReloadDone_only {u t : State}  (ht : execImageReloadDone u = .next t) :
    OnlyChanges [.ports, .image, .books, .queues, .groups, .events, .stats] u t := by
  unfold execImageReloadDone at ht
  first | refine whenRunning_only ht ?_ | refine whenAlive_only ht ?_ | (injection ht with ht; subst ht)
  repeat' first
    | with_reducible assumption
    | with_reducible apply OnlyChanges.refl
    | (with_reducible apply OnlyChanges.step State.reloadImage_only; on_goal 2 => decide)
    | with_reducible apply only_ite

theorem State.writeCal_only {u : State} {a1 : ℕ} :
    OnlyChanges [.cal] u (State.writeCal u a1) := by
  unfold State.writeCal
  repeat' first
    | with_reducible assumption
    | with_reducible apply OnlyChanges.refl
    | (extract_lets +onlyGivenNames y; first | (apply only_cut (v := y); (on_goal 2 => (intro hy; clear_value y)); subst y) | clear_value y | subst y)
    | with_reducible apply only_ite
    | ((with_reducible apply only_cal (h1 := by decide)); first | with_reducible assumption | with_reducible exact OnlyChanges.refl)

theorem State.readCal_only {u : State} {a1 : ℕ} :
    OnlyChanges [.out, .cal] u (State.readCal u a1) := by
  unfold State.readCal
  repeat' first
    | with_reducible assumption
    | with_reducible apply OnlyChanges.refl
    | (extract_lets +onlyGivenNames y; first | (apply only_cut (v := y); (on_goal 2 => (intro hy; clear_value y)); subst y) | clear_value y | subst y)
    | (with_reducible apply OnlyChanges.step State.emit_only; on_goal 2 => decide)
    | ((with_reducible apply only_cal (h1 := by decide)); first | with_reducible assumption | with_reducible exact OnlyChanges.refl)

theorem State.calAccess_only {u : State} {a1 : ℕ} :
    OnlyChanges [.cal] u (State.calAccess u a1) := by
  unfold State.calAccess
  repeat' first
    | with_reducible assumption
    | with_reducible apply OnlyChanges.refl
    | (extract_lets +onlyGivenNames y; first | (apply only_cut (v := y); (on_goal 2 => (intro hy; clear_value y)); subst y) | clear_value y | subst y)
    | ((with_reducible apply only_cal (h1 := by decide)); first | with_reducible assumption | with_reducible exact OnlyChanges.refl)

theorem State.commitCal_only {u : State}  :
    OnlyChanges [.cal] u (State.commitCal u) := by
  unfold State.commitCal
  repeat' first
    | with_reducible assumption
    | with_reducible apply OnlyChanges.refl
    | (extract_lets +onlyGivenNames y; first | (apply only_cut (v := y); (on_goal 2 => (intro hy; clear_value y)); subst y) | clear_value y | subst y)
    | with_reducible apply only_ite
    | ((with_reducible apply only_cal (h1 := by decide)); first | with_reducible assumption | with_reducible exact OnlyChanges.refl)

theorem State.finishCal_only {u : State} {a1 : Bool} :
    OnlyChanges (.out :: .ident :: .power :: .saved :: .nv :: .clock :: .time :: .cal :: .ports :: .image :: .books ::
          .bookRegs :: .parts :: .host :: .queues :: .triggers :: .groups :: .buckets :: .staging :: .stack ::
          .badUnits :: .units :: .xfers :: .blockCount :: .blockRx :: .flows :: .areas :: .rings :: .events :: .stats
          :: .snaps :: .ctxView :: .recSel :: .maint :: []) u (State.finishCal u a1) := by
  unfold State.finishCal
  repeat' first
    | with_reducible assumption
    | with_reducible apply OnlyChanges.refl
    | (extract_lets +onlyGivenNames y; first | (apply only_cut (v := y); (on_goal 2 => (intro hy; clear_value y)); subst y) | clear_value y | subst y)
    | (with_reducible apply OnlyChanges.step State.cutCal_only; on_goal 2 => decide)
    | (with_reducible apply OnlyChanges.step State.proceedRestart_only; on_goal 2 => decide)
    | with_reducible apply only_ite
    | ((with_reducible apply only_nv (h1 := by decide)); first | with_reducible assumption | with_reducible exact OnlyChanges.refl)
    | ((with_reducible apply only_cal (h1 := by decide)); first | with_reducible assumption | with_reducible exact OnlyChanges.refl)

theorem State.reloadCal_only {u : State}  :
    OnlyChanges [.cal] u (State.reloadCal u) := by
  unfold State.reloadCal
  repeat' first
    | with_reducible assumption
    | with_reducible apply OnlyChanges.refl
    | (extract_lets +onlyGivenNames y; first | (apply only_cut (v := y); (on_goal 2 => (intro hy; clear_value y)); subst y) | clear_value y | subst y)
    | with_reducible apply only_ite
    | ((with_reducible apply only_cal (h1 := by decide)); first | with_reducible assumption | with_reducible exact OnlyChanges.refl)

theorem State.judgeHeat_only {u : State}  :
    OnlyChanges [.power] u (State.judgeHeat u) := by
  unfold State.judgeHeat
  repeat' first
    | with_reducible assumption
    | with_reducible apply OnlyChanges.refl
    | (extract_lets +onlyGivenNames y; first | (apply only_cut (v := y); (on_goal 2 => (intro hy; clear_value y)); subst y) | clear_value y | subst y)
    | ((with_reducible apply only_power (h1 := by decide)); first | with_reducible assumption | with_reducible exact OnlyChanges.refl)

theorem State.readTemps_only {u : State} {a1 : List ℤ} :
    OnlyChanges [.power] u (State.readTemps u a1) := by
  unfold State.readTemps
  repeat' first
    | with_reducible assumption
    | with_reducible apply OnlyChanges.refl
    | (extract_lets +onlyGivenNames y; first | (apply only_cut (v := y); (on_goal 2 => (intro hy; clear_value y)); subst y) | clear_value y | subst y)
    | (with_reducible apply OnlyChanges.step State.judgeHeat_only; on_goal 2 => decide)
    | ((with_reducible apply only_power (h1 := by decide)); first | with_reducible assumption | with_reducible exact OnlyChanges.refl)

theorem State.updateTemps_only {u : State} {a1 : List ℤ} :
    OnlyChanges [.power, .cal] u (State.updateTemps u a1) := by
  unfold State.updateTemps
  repeat' first
    | with_reducible assumption
    | with_reducible apply OnlyChanges.refl
    | (extract_lets +onlyGivenNames y; first | (apply only_cut (v := y); (on_goal 2 => (intro hy; clear_value y)); subst y) | clear_value y | subst y)
    | (with_reducible apply OnlyChanges.step State.readTemps_only; on_goal 2 => decide)
    | with_reducible apply only_ite
    | ((with_reducible apply only_cal (h1 := by decide)); first | with_reducible assumption | with_reducible exact OnlyChanges.refl)

theorem execTemperatureUpdate_only {u t : State} {a0 : List ℤ} (ht : execTemperatureUpdate a0 u = .next t) :
    OnlyChanges [.power, .cal] u t := by
  unfold execTemperatureUpdate at ht
  first | refine whenRunning_only ht ?_ | refine whenAlive_only ht ?_ | (injection ht with ht; subst ht)
  repeat' first
    | with_reducible assumption
    | with_reducible apply OnlyChanges.refl
    | (with_reducible apply OnlyChanges.step State.updateTemps_only; on_goal 2 => decide)
    | with_reducible apply only_ite

theorem execThermalShutdown_only {u t : State}  (ht : execThermalShutdown u = .next t) :
    OnlyChanges (.out :: .ident :: .power :: .saved :: .nv :: .clock :: .time :: .cal :: .ports :: .image :: .books ::
          .bookRegs :: .parts :: .host :: .queues :: .triggers :: .groups :: .buckets :: .staging :: .stack ::
          .badUnits :: .units :: .xfers :: .blockCount :: .blockRx :: .flows :: .areas :: .rings :: .events :: .stats
          :: .snaps :: .ctxView :: .recSel :: .maint :: []) u t := by
  unfold execThermalShutdown at ht
  first | refine whenRunning_only ht ?_ | refine whenAlive_only ht ?_ | (injection ht with ht; subst ht)
  repeat' first
    | with_reducible assumption
    | with_reducible apply OnlyChanges.refl
    | (with_reducible apply OnlyChanges.step State.enterHold_only; on_goal 2 => decide)
    | (with_reducible apply OnlyChanges.step State.setCause_only; on_goal 2 => decide)
    | with_reducible apply only_ite

theorem execCalDataWrite_only {u t : State} {a0 : ℕ} {a1 : Word32} (ht : execCalDataWrite a0 a1 u = .next t) :
    OnlyChanges [.cal, .host, .events, .stats] u t := by
  unfold execCalDataWrite at ht
  first | refine whenRunning_only ht ?_ | refine whenAlive_only ht ?_ | (injection ht with ht; subst ht)
  repeat' first
    | with_reducible assumption
    | with_reducible apply OnlyChanges.refl
    | (with_reducible apply State.asPriv_only; (on_goal 3 => decide); (on_goal 2 => intro _))
    | (with_reducible apply OnlyChanges.step State.writeCal_only; on_goal 2 => decide)

theorem execCalDataRead_only {u t : State} {a0 : ℕ} (ht : execCalDataRead a0 u = .next t) :
    OnlyChanges [.out, .cal, .host, .events, .stats] u t := by
  unfold execCalDataRead at ht
  first | refine whenRunning_only ht ?_ | refine whenAlive_only ht ?_ | (injection ht with ht; subst ht)
  repeat' first
    | with_reducible assumption
    | with_reducible apply OnlyChanges.refl
    | (extract_lets +onlyGivenNames y; first | (apply only_cut (v := y); (on_goal 2 => (intro hy; clear_value y)); subst y) | clear_value y | subst y)
    | (with_reducible apply OnlyChanges.step State.touch_only; on_goal 2 => decide)
    | (with_reducible apply OnlyChanges.step State.violation_only; on_goal 2 => decide)
    | (with_reducible apply OnlyChanges.step State.readCal_only; on_goal 2 => decide)
    | (with_reducible apply OnlyChanges.step State.emit_only; on_goal 2 => decide)
    | with_reducible apply only_ite

theorem execCalCommit_only {u t : State} {a0 : ℕ} {a1 : Word32} (ht : execCalCommit a0 a1 u = .next t) :
    OnlyChanges [.cal, .host, .events, .stats] u t := by
  unfold execCalCommit at ht
  first | refine whenRunning_only ht ?_ | refine whenAlive_only ht ?_ | (injection ht with ht; subst ht)
  repeat' first
    | with_reducible assumption
    | with_reducible apply OnlyChanges.refl
    | (with_reducible apply State.asPriv_only; (on_goal 3 => decide); (on_goal 2 => intro _))
    | (with_reducible apply OnlyChanges.step State.commitCal_only; on_goal 2 => decide)
    | with_reducible apply only_ite

theorem execCalCommitDone_only {u t : State} {a0 : Bool} (ht : execCalCommitDone a0 u = .next t) :
    OnlyChanges (.out :: .ident :: .power :: .saved :: .nv :: .clock :: .time :: .cal :: .ports :: .image :: .books ::
          .bookRegs :: .parts :: .host :: .queues :: .triggers :: .groups :: .buckets :: .staging :: .stack ::
          .badUnits :: .units :: .xfers :: .blockCount :: .blockRx :: .flows :: .areas :: .rings :: .events :: .stats
          :: .snaps :: .ctxView :: .recSel :: .maint :: []) u t := by
  unfold execCalCommitDone at ht
  first | refine whenRunning_only ht ?_ | refine whenAlive_only ht ?_ | (injection ht with ht; subst ht)
  repeat' first
    | with_reducible assumption
    | with_reducible apply OnlyChanges.refl
    | (with_reducible apply OnlyChanges.step State.finishCal_only; on_goal 2 => decide)
    | with_reducible apply only_ite

theorem execCalReload_only {u t : State} {a0 : ℕ} {a1 : Word32} (ht : execCalReload a0 a1 u = .next t) :
    OnlyChanges [.cal, .host, .events, .stats] u t := by
  unfold execCalReload at ht
  first | refine whenRunning_only ht ?_ | refine whenAlive_only ht ?_ | (injection ht with ht; subst ht)
  repeat' first
    | with_reducible assumption
    | with_reducible apply OnlyChanges.refl
    | (with_reducible apply OnlyChanges.step State.reloadCal_only; on_goal 2 => decide)
    | (with_reducible apply State.asPriv_only; (on_goal 3 => decide); (on_goal 2 => intro _))
    | with_reducible apply only_ite

theorem State.setDumap_only {u : State} {a1 : DuMap} :
    OnlyChanges [.power] u (State.setDumap u a1) := by
  unfold State.setDumap
  repeat' first
    | with_reducible assumption
    | with_reducible apply OnlyChanges.refl
    | (extract_lets +onlyGivenNames y; first | (apply only_cut (v := y); (on_goal 2 => (intro hy; clear_value y)); subst y) | clear_value y | subst y)
    | ((with_reducible apply only_power (h1 := by decide)); first | with_reducible assumption | with_reducible exact OnlyChanges.refl)

theorem State.retireCove_only {u : State} {a1 : ℕ} {a2 : ℕ} :
    OnlyChanges [.power, .events, .stats, .maint] u (State.retireCove u a1 a2) := by
  unfold State.retireCove
  repeat' first
    | with_reducible assumption
    | with_reducible apply OnlyChanges.refl
    | (extract_lets +onlyGivenNames y; first | (apply only_cut (v := y); (on_goal 2 => (intro hy; clear_value y)); subst y) | clear_value y | subst y)
    | (with_reducible apply OnlyChanges.step State.setDumap_only; on_goal 2 => decide)
    | (with_reducible apply OnlyChanges.step State.bump_only; on_goal 2 => decide)
    | (with_reducible apply OnlyChanges.step State.setFaults_only; on_goal 2 => decide)
    | (with_reducible apply OnlyChanges.step State.setBay_only; on_goal 2 => decide)

theorem State.retireBay_only {u : State} {a1 : ℕ} :
    OnlyChanges [.power, .events, .stats] u (State.retireBay u a1) := by
  unfold State.retireBay
  repeat' first
    | with_reducible assumption
    | with_reducible apply OnlyChanges.refl
    | (extract_lets +onlyGivenNames y; first | (apply only_cut (v := y); (on_goal 2 => (intro hy; clear_value y)); subst y) | clear_value y | subst y)
    | (with_reducible apply OnlyChanges.step State.setDumap_only; on_goal 2 => decide)
    | (with_reducible apply OnlyChanges.step State.bump_only; on_goal 2 => decide)
    | (with_reducible apply OnlyChanges.step State.setFaults_only; on_goal 2 => decide)

theorem State.retirePort_only {u : State} {a1 : ℕ} :
    OnlyChanges [.out, .power, .time, .ports, .groups, .events, .stats, .maint] u (State.retirePort u a1) := by
  unfold State.retirePort
  repeat' first
    | with_reducible assumption
    | with_reducible apply OnlyChanges.refl
    | (extract_lets +onlyGivenNames y; first | (apply only_cut (v := y); (on_goal 2 => (intro hy; clear_value y)); subst y) | clear_value y | subst y)
    | (with_reducible apply OnlyChanges.step State.setDumap_only; on_goal 2 => decide)
    | (with_reducible apply OnlyChanges.step State.leaveTraining_only; on_goal 2 => decide)

theorem State.firstStandby_only {u : State}  :
    OnlyChanges [.maint] u (State.firstStandby u) := by
  unfold State.firstStandby
  repeat' first
    | with_reducible assumption
    | with_reducible apply OnlyChanges.refl
    | (extract_lets +onlyGivenNames y; first | (apply only_cut (v := y); (on_goal 2 => (intro hy; clear_value y)); subst y) | clear_value y | subst y)
    | (with_reducible apply OnlyChanges.step State.setBay_only; on_goal 2 => decide)
    | with_reducible apply only_ite
    | (with_reducible apply only_foldl; on_goal 2 => intro _ _ _)

theorem State.coveBayTest_only {u : State} {a1 : StartReport} :
    OnlyChanges [.power, .events, .stats, .maint] u (State.coveBayTest u a1) := by
  unfold State.coveBayTest
  repeat' first
    | with_reducible assumption
    | with_reducible apply OnlyChanges.refl
    | (extract_lets +onlyGivenNames y; first | (apply only_cut (v := y); (on_goal 2 => (intro hy; clear_value y)); subst y) | clear_value y | subst y)
    | (with_reducible apply OnlyChanges.step State.setDumap_only; on_goal 2 => decide)
    | (with_reducible apply OnlyChanges.step State.retireCove_only; on_goal 2 => decide)
    | (with_reducible apply OnlyChanges.step State.retireBay_only; on_goal 2 => decide)
    | (with_reducible apply only_foldl; on_goal 2 => intro _ _ _)

theorem State.portLoopback_only {u : State} {a1 : StartReport} :
    OnlyChanges [.out, .power, .time, .ports, .groups, .events, .stats, .maint] u (State.portLoopback u a1) := by
  unfold State.portLoopback
  repeat' first
    | with_reducible assumption
    | with_reducible apply OnlyChanges.refl
    | (with_reducible apply OnlyChanges.step State.retirePort_only; on_goal 2 => decide)
    | (with_reducible apply only_foldl; on_goal 2 => intro _ _ _)

theorem State.selfTest_only {u : State} {a1 : StartReport} :
    OnlyChanges [.out, .power, .time, .ports, .image, .groups, .events, .stats, .maint] u (State.selfTest u a1) := by
  unfold State.selfTest
  repeat' first
    | with_reducible assumption
    | with_reducible apply OnlyChanges.refl
    | (extract_lets +onlyGivenNames y; first | (apply only_cut (v := y); (on_goal 2 => (intro hy; clear_value y)); subst y) | clear_value y | subst y)
    | (with_reducible apply OnlyChanges.step State.portLoopback_only; on_goal 2 => decide)
    | (with_reducible apply OnlyChanges.step State.bumpBy_only; on_goal 2 => decide)
    | (with_reducible apply OnlyChanges.step State.coveBayTest_only; on_goal 2 => decide)
    | (with_reducible apply OnlyChanges.step State.checkMap_only; on_goal 2 => decide)
    | (with_reducible apply OnlyChanges.step State.firstStandby_only; on_goal 2 => decide)
    | with_reducible apply only_ite
    | ((with_reducible apply only_maint (h1 := by decide)); first | with_reducible assumption | with_reducible exact OnlyChanges.refl)

theorem State.bootActivate_only {u : State}  :
    OnlyChanges (.out :: .ident :: .nv :: .clock :: .time :: .ports :: .image :: .books :: .queues :: .groups ::
          .buckets :: .staging :: .stack :: .badUnits :: .blockCount :: .blockRx :: .areas :: .events :: .stats ::
          .maint :: []) u (State.bootActivate u) := by
  unfold State.bootActivate
  repeat' first
    | with_reducible assumption
    | with_reducible apply OnlyChanges.refl
    | (extract_lets +onlyGivenNames y; first | (apply only_cut (v := y); (on_goal 2 => (intro hy; clear_value y)); subst y) | clear_value y | subst y)
    | (with_reducible apply OnlyChanges.step State.activate_only; on_goal 2 => decide)
    | with_reducible apply only_ite
    | ((with_reducible apply only_stack_badUnits (h1 := by decide) (h2 := by decide)); first | with_reducible assumption | with_reducible exact OnlyChanges.refl)
    | split

theorem State.bootImage_only {u : State}  :
    OnlyChanges (.out :: .ident :: .nv :: .clock :: .time :: .ports :: .image :: .books :: .queues :: .groups ::
          .buckets :: .staging :: .stack :: .badUnits :: .blockCount :: .blockRx :: .areas :: .events :: .stats ::
          .maint :: []) u (State.bootImage u) := by
  unfold State.bootImage
  repeat' first
    | with_reducible assumption
    | with_reducible apply OnlyChanges.refl
    | (extract_lets +onlyGivenNames y; first | (apply only_cut (v := y); (on_goal 2 => (intro hy; clear_value y)); subst y) | (apply only_cut (v := y.1); (on_goal 2 => (intro hy; clear_value y)); subst y) | clear_value y | subst y)
    | (with_reducible apply OnlyChanges.step State.judge_only; on_goal 2 => decide)
    | (with_reducible apply OnlyChanges.step State.loadSlot_only; on_goal 2 => decide)
    | (with_reducible apply OnlyChanges.step State.raise_only; on_goal 2 => decide)
    | (with_reducible apply OnlyChanges.step State.bootActivate_only; on_goal 2 => decide)
    | with_reducible apply only_ite
    | with_reducible apply only_ite_fst
    | (with_reducible apply only_foldl; on_goal 2 => intro _ _ _)
    | (with_reducible apply only_foldl_fst; on_goal 2 => intro _ _ _)
    | ((with_reducible apply only_image (h1 := by decide)); first | with_reducible assumption | with_reducible exact OnlyChanges.refl)
    | dsimp only

theorem State.restoreGroup_only {u : State} {a1 : ℕ} {a2 : Group} :
    OnlyChanges [.groups] u (State.restoreGroup u a1 a2) := by
  unfold State.restoreGroup
  repeat' first
    | with_reducible assumption
    | with_reducible apply OnlyChanges.refl
    | (extract_lets +onlyGivenNames y; first | (apply only_cut (v := y); (on_goal 2 => (intro hy; clear_value y)); subst y) | clear_value y | subst y)
    | (with_reducible apply OnlyChanges.step State.modGroup_only; on_goal 2 => decide)
    | with_reducible apply only_ite
    | split

theorem State.restore_only {u : State} {a1 : Saved} :
    OnlyChanges [.parts, .queues, .triggers, .groups, .buckets, .areas, .rings, .events] u (State.restore u a1) := by
  unfold State.restore
  repeat' first
    | with_reducible assumption
    | with_reducible apply OnlyChanges.refl
    | (extract_lets +onlyGivenNames y; first | (apply only_cut (v := y); (on_goal 2 => (intro hy; clear_value y)); subst y) | clear_value y | subst y)
    | (with_reducible apply OnlyChanges.step State.restoreGroup_only; on_goal 2 => decide)
    | with_reducible apply only_ite
    | (with_reducible apply only_foldl; on_goal 2 => intro _ _ _)
    | ((with_reducible apply only_parts_queues_triggers_buckets_areas_rings_events (h1 := by decide) (h2 := by decide) (h3 := by decide) (h4 := by decide) (h5 := by decide) (h6 := by decide) (h7 := by decide)); first | with_reducible assumption | with_reducible exact OnlyChanges.refl)

theorem State.restoreNone_only {u : State} {a1 : Saved} :
    OnlyChanges [.events, .stats] u (State.restoreNone u a1) := by
  unfold State.restoreNone
  repeat' first
    | with_reducible assumption
    | with_reducible apply OnlyChanges.refl
    | (with_reducible apply OnlyChanges.step State.bumpG_only; on_goal 2 => decide)
    | (with_reducible apply OnlyChanges.step State.raise_only; on_goal 2 => decide)
    | (with_reducible apply only_foldl; on_goal 2 => intro _ _ _)
    | split

theorem State.reapplyChunk_only {u : State} {a1 : ℕ} {a2 : List ℕ} {a3 : RecEntry} :
    OnlyChanges [.out, .power, .ports, .groups, .badUnits, .units, .events, .stats, .maint] u (State.reapplyChunk u a1
          a2 a3) := by
  unfold State.reapplyChunk
  repeat' first
    | with_reducible assumption
    | with_reducible apply OnlyChanges.refl
    | (with_reducible apply OnlyChanges.step State.sendRelease_only; on_goal 2 => decide)
    | (with_reducible apply State.withRedelivery_only; (on_goal 3 => decide); (on_goal 2 => intro _))
    | with_reducible apply only_ite
    | split

theorem State.rejoin_only {u : State} {a1 : ℕ} {a2 : List ℕ} :
    OnlyChanges [.out, .power, .ports, .groups, .badUnits, .units, .events, .stats, .maint] u (State.rejoin u a1 a2)
          := by
  unfold State.rejoin
  repeat' first
    | with_reducible assumption
    | with_reducible apply OnlyChanges.refl
    | (extract_lets +onlyGivenNames y; first | (apply only_cut (v := y); (on_goal 2 => (intro hy; clear_value y)); subst y) | clear_value y | subst y)
    | (with_reducible apply OnlyChanges.step State.modGroup_only; on_goal 2 => decide)
    | (with_reducible apply OnlyChanges.step State.sendCensus_only; on_goal 2 => decide)
    | (with_reducible apply OnlyChanges.step State.reapplyChunk_only; on_goal 2 => decide)
    | (with_reducible apply OnlyChanges.step State.bumpG_only; on_goal 2 => decide)
    | (with_reducible apply only_foldl; on_goal 2 => intro _ _ _)

theorem State.rejoinAll_only {u : State} {a1 : StackReads} :
    OnlyChanges (.out :: .power :: .ports :: .books :: .queues :: .groups :: .buckets :: .staging :: .stack ::
          .badUnits :: .units :: .events :: .stats :: .maint :: []) u (State.rejoinAll u a1) := by
  unfold State.rejoinAll
  repeat' first
    | with_reducible assumption
    | with_reducible apply OnlyChanges.refl
    | (with_reducible apply OnlyChanges.step State.discardStep_only; on_goal 2 => decide)
    | (with_reducible apply OnlyChanges.step State.rejoin_only; on_goal 2 => decide)
    | (with_reducible apply OnlyChanges.step State.readStack_only; on_goal 2 => decide)
    | with_reducible apply only_ite
    | (with_reducible apply only_foldl; on_goal 2 => intro _ _ _)

theorem State.restoreSaved_only {u : State} {a1 : Bool} {a2 : StackReads} :
    OnlyChanges (.out :: .power :: .saved :: .ports :: .books :: .parts :: .queues :: .triggers :: .groups :: .buckets
          :: .staging :: .stack :: .badUnits :: .units :: .areas :: .rings :: .events :: .stats :: .maint :: []) u
          (State.restoreSaved u a1 a2) := by
  unfold State.restoreSaved
  repeat' first
    | with_reducible assumption
    | with_reducible apply OnlyChanges.refl
    | (extract_lets +onlyGivenNames y; first | (apply only_cut (v := y); (on_goal 2 => (intro hy; clear_value y)); subst y) | clear_value y | subst y)
    | (with_reducible apply OnlyChanges.step State.restore_only; on_goal 2 => decide)
    | (with_reducible apply OnlyChanges.step State.rejoinAll_only; on_goal 2 => decide)
    | (with_reducible apply OnlyChanges.step State.sramUE_only; on_goal 2 => decide)
    | (with_reducible apply OnlyChanges.step State.restoreNone_only; on_goal 2 => decide)
    | with_reducible apply only_ite
    | ((with_reducible apply only_stack_badUnits (h1 := by decide) (h2 := by decide)); first | with_reducible assumption | with_reducible exact OnlyChanges.refl)
    | ((with_reducible apply only_saved (h1 := by decide)); first | with_reducible assumption | with_reducible exact OnlyChanges.refl)
    | split

theorem State.setStep_only {u : State} {a1 : ℕ} :
    OnlyChanges [.power] u (State.setStep u a1) := by
  unfold State.setStep
  repeat' first
    | with_reducible assumption
    | with_reducible apply OnlyChanges.refl
    | (extract_lets +onlyGivenNames y; first | (apply only_cut (v := y); (on_goal 2 => (intro hy; clear_value y)); subst y) | clear_value y | subst y)
    | ((with_reducible apply only_power (h1 := by decide)); first | with_reducible assumption | with_reducible exact OnlyChanges.refl)

theorem State.startTimePorts_only {u : State}  :
    OnlyChanges [.ports] u (State.startTimePorts u) := by
  unfold State.startTimePorts
  repeat' first
    | with_reducible assumption
    | with_reducible apply OnlyChanges.refl
    | (with_reducible apply OnlyChanges.step State.startPort_only; on_goal 2 => decide)
    | with_reducible apply only_ite
    | (with_reducible apply only_foldl; on_goal 2 => intro _ _ _)

theorem State.startPorts_only {u : State}  :
    OnlyChanges [.ports] u (State.startPorts u) := by
  unfold State.startPorts
  repeat' first
    | with_reducible assumption
    | with_reducible apply OnlyChanges.refl
    | (with_reducible apply OnlyChanges.step State.startPort_only; on_goal 2 => decide)
    | (with_reducible apply only_foldl; on_goal 2 => intro _ _ _)

theorem State.loadStep_only {u : State}  :
    OnlyChanges [.power, .time, .cal, .ports, .events] u (State.loadStep u) := by
  unfold State.loadStep
  repeat' first
    | with_reducible assumption
    | with_reducible apply OnlyChanges.refl
    | (extract_lets +onlyGivenNames y; first | (apply only_cut (v := y); (on_goal 2 => (intro hy; clear_value y)); subst y) | (have hy : TimeState := y; clear hy; subst y) | clear_value y | subst y)
    | (with_reducible apply OnlyChanges.step State.startTimePorts_only; on_goal 2 => decide)
    | (with_reducible apply OnlyChanges.step State.startPorts_only; on_goal 2 => decide)
    | (with_reducible apply OnlyChanges.step State.setStep_only; on_goal 2 => decide)
    | (with_reducible apply OnlyChanges.step State.loadCal_only; on_goal 2 => decide)
    | with_reducible apply only_ite
    | ((with_reducible apply only_still (h1 := by decide)); (on_goal 2 => exact ⟨rfl, rfl, rfl, rfl⟩); first | with_reducible assumption | with_reducible exact OnlyChanges.refl)

theorem State.oweTime_only {u : State} {a1 : Bool} :
    OnlyChanges [.power] u (State.oweTime u a1) := by
  unfold State.oweTime
  repeat' first
    | with_reducible assumption
    | with_reducible apply OnlyChanges.refl
    | (extract_lets +onlyGivenNames y; first | (apply only_cut (v := y); (on_goal 2 => (intro hy; clear_value y)); subst y) | clear_value y | subst y)
    | ((with_reducible apply only_power (h1 := by decide)); first | with_reducible assumption | with_reducible exact OnlyChanges.refl)

theorem State.timeStep_only {u : State}  :
    OnlyChanges [.power, .ports] u (State.timeStep u) := by
  unfold State.timeStep
  repeat' first
    | with_reducible assumption
    | with_reducible apply OnlyChanges.refl
    | (extract_lets +onlyGivenNames y; first | (apply only_cut (v := y); (on_goal 2 => (intro hy; clear_value y)); subst y) | clear_value y | subst y)
    | (with_reducible apply OnlyChanges.step State.startPorts_only; on_goal 2 => decide)
    | (with_reducible apply OnlyChanges.step State.setStep_only; on_goal 2 => decide)
    | (with_reducible apply OnlyChanges.step State.oweTime_only; on_goal 2 => decide)
    | with_reducible apply only_ite

theorem State.imageStep_only {u : State}  :
    OnlyChanges (.out :: .ident :: .power :: .nv :: .clock :: .time :: .ports :: .image :: .books :: .queues ::
          .groups :: .buckets :: .staging :: .stack :: .badUnits :: .blockCount :: .blockRx :: .areas :: .events ::
          .stats :: .maint :: []) u (State.imageStep u) := by
  unfold State.imageStep
  repeat' first
    | with_reducible assumption
    | with_reducible apply OnlyChanges.refl
    | (extract_lets +onlyGivenNames y; first | (apply only_cut (v := y); (on_goal 2 => (intro hy; clear_value y)); subst y) | clear_value y | subst y)
    | (with_reducible apply OnlyChanges.step State.startTimePorts_only; on_goal 2 => decide)
    | (with_reducible apply OnlyChanges.step State.enterLoop_only; on_goal 2 => decide)
    | (with_reducible apply OnlyChanges.step State.setStep_only; on_goal 2 => decide)
    | (with_reducible apply OnlyChanges.step State.oweTime_only; on_goal 2 => decide)
    | (with_reducible apply OnlyChanges.step State.bootImage_only; on_goal 2 => decide)
    | with_reducible apply only_ite

theorem State.readyStep_only {u : State} {a1 : StartReport} :
    OnlyChanges (.out :: .power :: .saved :: .ports :: .books :: .parts :: .queues :: .triggers :: .groups :: .buckets
          :: .staging :: .stack :: .badUnits :: .units :: .areas :: .rings :: .events :: .stats :: .maint :: []) u
          (State.readyStep u a1) := by
  unfold State.readyStep
  repeat' first
    | with_reducible assumption
    | with_reducible apply OnlyChanges.refl
    | (extract_lets +onlyGivenNames y; first | (apply only_cut (v := y); (on_goal 2 => (intro hy; clear_value y)); subst y) | clear_value y | subst y)
    | (with_reducible apply OnlyChanges.step State.flushQueue_only; on_goal 2 => decide)
    | (with_reducible apply OnlyChanges.step State.restoreSaved_only; on_goal 2 => decide)
    | (with_reducible apply OnlyChanges.step State.tryEnterOpens_only; on_goal 2 => decide)
    | (with_reducible apply only_foldl; on_goal 2 => intro _ _ _)
    | ((with_reducible apply only_power (h1 := by decide)); first | with_reducible assumption | with_reducible exact OnlyChanges.refl)

theorem State.stacksLost_only {u : State}  :
    OnlyChanges (.out :: .ident :: .power :: .saved :: .nv :: .clock :: .time :: .cal :: .ports :: .image :: .books ::
          .bookRegs :: .parts :: .host :: .queues :: .triggers :: .groups :: .buckets :: .staging :: .stack ::
          .badUnits :: .units :: .xfers :: .blockCount :: .blockRx :: .flows :: .areas :: .rings :: .events :: .stats
          :: .snaps :: .ctxView :: .recSel :: .maint :: []) u (State.stacksLost u) := by
  unfold State.stacksLost
  repeat' first
    | with_reducible assumption
    | with_reducible apply OnlyChanges.refl
    | (with_reducible apply OnlyChanges.step State.setCause_only; on_goal 2 => decide)
    | (with_reducible apply OnlyChanges.step State.coldStart_only; on_goal 2 => decide)

theorem State.testStep_only {u : State} {a1 : StartReport} :
    OnlyChanges [.out, .power, .time, .ports, .image, .groups, .events, .stats, .maint] u (State.testStep u a1) := by
  unfold State.testStep
  repeat' first
    | with_reducible assumption
    | with_reducible apply OnlyChanges.refl
    | (extract_lets +onlyGivenNames y; first | (apply only_cut (v := y); (on_goal 2 => (intro hy; clear_value y)); subst y) | clear_value y | subst y)
    | (with_reducible apply OnlyChanges.step State.selfTest_only; on_goal 2 => decide)
    | (with_reducible apply OnlyChanges.step State.setStep_only; on_goal 2 => decide)
    | (with_reducible apply OnlyChanges.step State.coveBayTest_only; on_goal 2 => decide)
    | (with_reducible apply OnlyChanges.step State.stackUE_only; on_goal 2 => decide)
    | with_reducible apply only_ite
    | ((with_reducible apply only_power (h1 := by decide)); first | with_reducible assumption | with_reducible exact OnlyChanges.refl)
    | split

theorem State.startUp_only {u : State} {a1 : StartReport} :
    OnlyChanges (.out :: .ident :: .power :: .saved :: .nv :: .clock :: .time :: .cal :: .ports :: .image :: .books ::
          .bookRegs :: .parts :: .host :: .queues :: .triggers :: .groups :: .buckets :: .staging :: .stack ::
          .badUnits :: .units :: .xfers :: .blockCount :: .blockRx :: .flows :: .areas :: .rings :: .events :: .stats
          :: .snaps :: .ctxView :: .recSel :: .maint :: []) u (State.startUp u a1) := by
  unfold State.startUp
  repeat' first
    | with_reducible assumption
    | with_reducible apply OnlyChanges.refl
    | (with_reducible apply OnlyChanges.step State.timeStep_only; on_goal 2 => decide)
    | (with_reducible apply OnlyChanges.step State.imageStep_only; on_goal 2 => decide)
    | (with_reducible apply OnlyChanges.step State.startPorts_only; on_goal 2 => decide)
    | (with_reducible apply OnlyChanges.step State.setStep_only; on_goal 2 => decide)
    | (with_reducible apply OnlyChanges.step State.readyStep_only; on_goal 2 => decide)
    | (with_reducible apply OnlyChanges.step State.stacksLost_only; on_goal 2 => decide)
    | (with_reducible apply OnlyChanges.step State.loadStep_only; on_goal 2 => decide)
    | (with_reducible apply OnlyChanges.step State.testStep_only; on_goal 2 => decide)
    | (with_reducible apply OnlyChanges.step State.oweTime_only; on_goal 2 => decide)
    | with_reducible apply only_ite
    | split

theorem State.ignorePower_only {u : State}  :
    OnlyChanges [.power] u (State.ignorePower u) := by
  unfold State.ignorePower
  repeat' first
    | with_reducible assumption
    | with_reducible apply OnlyChanges.refl
    | (extract_lets +onlyGivenNames y; first | (apply only_cut (v := y); (on_goal 2 => (intro hy; clear_value y)); subst y) | clear_value y | subst y)
    | ((with_reducible apply only_power (h1 := by decide)); first | with_reducible assumption | with_reducible exact OnlyChanges.refl)

theorem State.setCtrl_only {u : State} {a1 : ℕ} :
    OnlyChanges [.power] u (State.setCtrl u a1) := by
  unfold State.setCtrl
  repeat' first
    | with_reducible assumption
    | with_reducible apply OnlyChanges.refl
    | (extract_lets +onlyGivenNames y; first | (apply only_cut (v := y); (on_goal 2 => (intro hy; clear_value y)); subst y) | clear_value y | subst y)
    | ((with_reducible apply only_power (h1 := by decide)); first | with_reducible assumption | with_reducible exact OnlyChanges.refl)

theorem State.askWarm_only {u : State}  :
    OnlyChanges (.out :: .ident :: .power :: .saved :: .nv :: .clock :: .time :: .cal :: .ports :: .image :: .books ::
          .bookRegs :: .parts :: .host :: .queues :: .triggers :: .groups :: .buckets :: .staging :: .stack ::
          .badUnits :: .units :: .xfers :: .blockCount :: .blockRx :: .flows :: .areas :: .rings :: .events :: .stats
          :: .snaps :: .ctxView :: .recSel :: .maint :: []) u (State.askWarm u) := by
  unfold State.askWarm
  repeat' first
    | with_reducible assumption
    | with_reducible apply OnlyChanges.refl
    | (extract_lets +onlyGivenNames y; first | (apply only_cut (v := y); (on_goal 2 => (intro hy; clear_value y)); subst y) | clear_value y | subst y)
    | (with_reducible apply OnlyChanges.step State.askRestart_only; on_goal 2 => decide)
    | (with_reducible apply OnlyChanges.step State.startWarm_only; on_goal 2 => decide)
    | (with_reducible apply OnlyChanges.step State.ignorePower_only; on_goal 2 => decide)
    | (with_reducible apply OnlyChanges.step State.setCause_only; on_goal 2 => decide)
    | with_reducible apply only_ite
    | ((with_reducible apply only_power (h1 := by decide)); first | with_reducible assumption | with_reducible exact OnlyChanges.refl)

theorem State.askCold_only {u : State}  :
    OnlyChanges (.out :: .ident :: .power :: .saved :: .nv :: .clock :: .time :: .cal :: .ports :: .image :: .books ::
          .bookRegs :: .parts :: .host :: .queues :: .triggers :: .groups :: .buckets :: .staging :: .stack ::
          .badUnits :: .units :: .xfers :: .blockCount :: .blockRx :: .flows :: .areas :: .rings :: .events :: .stats
          :: .snaps :: .ctxView :: .recSel :: .maint :: []) u (State.askCold u) := by
  unfold State.askCold
  repeat' first
    | with_reducible assumption
    | with_reducible apply OnlyChanges.refl
    | (extract_lets +onlyGivenNames y; first | (apply only_cut (v := y); (on_goal 2 => (intro hy; clear_value y)); subst y) | clear_value y | subst y)
    | (with_reducible apply OnlyChanges.step State.askRestart_only; on_goal 2 => decide)
    | (with_reducible apply OnlyChanges.step State.setCause_only; on_goal 2 => decide)
    | (with_reducible apply OnlyChanges.step State.coldStart_only; on_goal 2 => decide)
    | with_reducible apply only_ite

theorem State.resetCtrl_only {u : State} {a1 : ℕ} :
    OnlyChanges (.out :: .ident :: .power :: .saved :: .nv :: .clock :: .time :: .cal :: .ports :: .image :: .books ::
          .bookRegs :: .parts :: .host :: .queues :: .triggers :: .groups :: .buckets :: .staging :: .stack ::
          .badUnits :: .units :: .xfers :: .blockCount :: .blockRx :: .flows :: .areas :: .rings :: .events :: .stats
          :: .snaps :: .ctxView :: .recSel :: .maint :: []) u (State.resetCtrl u a1) := by
  unfold State.resetCtrl
  repeat' first
    | with_reducible assumption
    | with_reducible apply OnlyChanges.refl
    | (with_reducible apply OnlyChanges.step State.askCold_only; on_goal 2 => decide)
    | (with_reducible apply OnlyChanges.step State.setCause_only; on_goal 2 => decide)
    | (with_reducible apply OnlyChanges.step State.askWarm_only; on_goal 2 => decide)
    | with_reducible apply only_ite

theorem State.powerCtrl_only {u : State} {a1 : ℕ} :
    OnlyChanges (.out :: .ident :: .power :: .saved :: .nv :: .clock :: .time :: .cal :: .ports :: .image :: .books ::
          .bookRegs :: .parts :: .host :: .queues :: .triggers :: .groups :: .buckets :: .staging :: .stack ::
          .badUnits :: .units :: .xfers :: .blockCount :: .blockRx :: .flows :: .areas :: .rings :: .events :: .stats
          :: .snaps :: .ctxView :: .recSel :: .maint :: []) u (State.powerCtrl u a1) := by
  unfold State.powerCtrl
  repeat' first
    | with_reducible assumption
    | with_reducible apply OnlyChanges.refl
    | (extract_lets +onlyGivenNames y; first | (apply only_cut (v := y); (on_goal 2 => (intro hy; clear_value y)); subst y) | clear_value y | subst y)
    | (with_reducible apply OnlyChanges.step State.askRestart_only; on_goal 2 => decide)
    | (with_reducible apply OnlyChanges.step State.askWake_only; on_goal 2 => decide)
    | (with_reducible apply OnlyChanges.step State.ignorePower_only; on_goal 2 => decide)
    | (with_reducible apply OnlyChanges.step State.askWarm_only; on_goal 2 => decide)
    | (with_reducible apply OnlyChanges.step State.setCtrl_only; on_goal 2 => decide)
    | with_reducible apply only_ite
    | ((with_reducible apply only_power (h1 := by decide)); first | with_reducible assumption | with_reducible exact OnlyChanges.refl)

theorem State.asPower_only {u s : State} {a1 : ℕ} {a2 : ℕ} {f3 : State → State} {P : List Part} (h : OnlyChanges P s
      u) (hf3 : ∀ v, OnlyChanges P v (f3 v)) (hP : ∀ p ∈ ([.host, .events, .stats] : List Part), p ∈ P) :
    OnlyChanges P s (State.asPower u a1 a2 f3) := by
  apply OnlyChanges.trans h
  unfold State.asPower
  repeat' first
    | with_reducible assumption
    | with_reducible apply OnlyChanges.refl
    | (with_reducible apply State.asPriv_only; (on_goal 3 => exact fun p hp => hP p (by revert p hp; decide)); (on_goal 2 => intro _))
    | with_reducible apply OnlyChanges.trans' (hf3 _)
    | with_reducible apply only_ite

theorem State.moduleReset_only {u : State}  :
    OnlyChanges (.out :: .ident :: .power :: .saved :: .nv :: .clock :: .time :: .cal :: .ports :: .image :: .books ::
          .bookRegs :: .parts :: .host :: .queues :: .triggers :: .groups :: .buckets :: .staging :: .stack ::
          .badUnits :: .units :: .xfers :: .blockCount :: .blockRx :: .flows :: .areas :: .rings :: .events :: .stats
          :: .snaps :: .ctxView :: .recSel :: .maint :: []) u (State.moduleReset u) := by
  unfold State.moduleReset
  repeat' first
    | with_reducible assumption
    | with_reducible apply OnlyChanges.refl
    | (extract_lets +onlyGivenNames y; first | (apply only_cut (v := y); (on_goal 2 => (intro hy; clear_value y)); subst y) | clear_value y | subst y)
    | (with_reducible apply OnlyChanges.step State.coldBase_only; on_goal 2 => decide)
    | (with_reducible apply OnlyChanges.step State.setCause_only; on_goal 2 => decide)
    | with_reducible apply only_ite
    | ((with_reducible apply only_power (h1 := by decide)); first | with_reducible assumption | with_reducible exact OnlyChanges.refl)

theorem State.moduleRelease_only {u : State}  :
    OnlyChanges (.out :: .ident :: .power :: .saved :: .nv :: .clock :: .time :: .cal :: .ports :: .image :: .books ::
          .bookRegs :: .parts :: .host :: .queues :: .triggers :: .groups :: .buckets :: .staging :: .stack ::
          .badUnits :: .units :: .xfers :: .blockCount :: .blockRx :: .flows :: .areas :: .rings :: .events :: .stats
          :: .snaps :: .ctxView :: .recSel :: .maint :: .tap :: []) u (State.moduleRelease u) := by
  unfold State.moduleRelease
  repeat' first
    | with_reducible assumption
    | with_reducible apply OnlyChanges.refl
    | (extract_lets +onlyGivenNames y; first | (apply only_cut (v := y); (on_goal 2 => (intro hy; clear_value y)); subst y) | clear_value y | subst y)
    | (with_reducible apply OnlyChanges.step State.coldStart_only; on_goal 2 => decide)
    | with_reducible apply only_ite
    | ((with_reducible apply only_power_tap (h1 := by decide) (h2 := by decide)); first | with_reducible assumption | with_reducible exact OnlyChanges.refl)
    | split

theorem State.tapReset_only {u : State}  :
    OnlyChanges [.tap] u (State.tapReset u) := by
  unfold State.tapReset
  repeat' first
    | with_reducible assumption
    | with_reducible apply OnlyChanges.refl
    | ((with_reducible apply only_tap (h1 := by decide)); first | with_reducible assumption | with_reducible exact OnlyChanges.refl)

end Sys2Proof.Machine
end

