-- ==== Sys2Proof/Laws/Frame8.lean ====
section
/-! SUPPORT. Frame lemmas, part 8 of 8: for each operation and command, the parts of the state that it can change. -/

namespace Sys2Proof.Machine

open Sys2Proof State

set_option linter.unreachableTactic false
set_option linter.unusedTactic false

theorem State.powerUp_only {u : State}  :
    OnlyChanges (.out :: .ident :: .power :: .saved :: .nv :: .clock :: .time :: .cal :: .ports :: .image :: .books ::
          .bookRegs :: .parts :: .host :: .queues :: .triggers :: .groups :: .buckets :: .staging :: .stack ::
          .badUnits :: .units :: .xfers :: .blockCount :: .blockRx :: .flows :: .areas :: .rings :: .events :: .stats
          :: .snaps :: .ctxView :: .recSel :: .maint :: .tap :: []) u (State.powerUp u) := by
  unfold State.powerUp
  repeat' first
    | with_reducible assumption
    | with_reducible apply OnlyChanges.refl
    | (extract_lets +onlyGivenNames y; first | (apply only_cut (v := y); (on_goal 2 => (intro hy; clear_value y)); subst y) | clear_value y | subst y)
    | (with_reducible apply OnlyChanges.step State.coldBase_only; on_goal 2 => decide)
    | (with_reducible apply OnlyChanges.step State.tapReset_only; on_goal 2 => decide)
    | with_reducible apply only_ite
    | ((with_reducible apply only_power (h1 := by decide)); first | with_reducible assumption | with_reducible exact OnlyChanges.refl)

theorem State.powerDown_only {u : State}  :
    OnlyChanges (.out :: .ident :: .power :: .saved :: .nv :: .clock :: .time :: .cal :: .ports :: .image :: .books ::
          .bookRegs :: .parts :: .host :: .queues :: .triggers :: .groups :: .buckets :: .staging :: .stack ::
          .badUnits :: .units :: .xfers :: .blockCount :: .blockRx :: .flows :: .areas :: .rings :: .events :: .stats
          :: .snaps :: .ctxView :: .recSel :: .maint :: .tap :: []) u (State.powerDown u) := by
  unfold State.powerDown
  repeat' first
    | with_reducible assumption
    | with_reducible apply OnlyChanges.refl
    | (extract_lets +onlyGivenNames y; first | (apply only_cut (v := y); (on_goal 2 => (intro hy; clear_value y)); subst y) | clear_value y | subst y)
    | (with_reducible apply OnlyChanges.step State.coldBase_only; on_goal 2 => decide)
    | (with_reducible apply OnlyChanges.step State.tapReset_only; on_goal 2 => decide)
    | ((with_reducible apply only_power (h1 := by decide)); first | with_reducible assumption | with_reducible exact OnlyChanges.refl)

theorem execPowerOn_only {u t : State}  (ht : execPowerOn u = .next t) :
    OnlyChanges (.out :: .ident :: .power :: .saved :: .nv :: .clock :: .time :: .cal :: .ports :: .image :: .books ::
          .bookRegs :: .parts :: .host :: .queues :: .triggers :: .groups :: .buckets :: .staging :: .stack ::
          .badUnits :: .units :: .xfers :: .blockCount :: .blockRx :: .flows :: .areas :: .rings :: .events :: .stats
          :: .snaps :: .ctxView :: .recSel :: .maint :: .tap :: []) u t := by
  unfold execPowerOn at ht
  first | refine whenRunning_only ht ?_ | refine whenAlive_only ht ?_ | (injection ht with ht; subst ht)
  repeat' first
    | with_reducible assumption
    | with_reducible apply OnlyChanges.refl
    | (with_reducible apply OnlyChanges.step State.powerUp_only; on_goal 2 => decide)
    | with_reducible apply only_ite

theorem execPwrGoodLoss_only {u t : State}  (ht : execPwrGoodLoss u = .next t) :
    OnlyChanges (.out :: .ident :: .power :: .saved :: .nv :: .clock :: .time :: .cal :: .ports :: .image :: .books ::
          .bookRegs :: .parts :: .host :: .queues :: .triggers :: .groups :: .buckets :: .staging :: .stack ::
          .badUnits :: .units :: .xfers :: .blockCount :: .blockRx :: .flows :: .areas :: .rings :: .events :: .stats
          :: .snaps :: .ctxView :: .recSel :: .maint :: .tap :: []) u t := by
  unfold execPwrGoodLoss at ht
  first | refine whenRunning_only ht ?_ | refine whenAlive_only ht ?_ | (injection ht with ht; subst ht)
  repeat' first
    | with_reducible assumption
    | with_reducible apply OnlyChanges.refl
    | (with_reducible apply OnlyChanges.step State.powerDown_only; on_goal 2 => decide)
    | with_reducible apply only_ite

theorem execModuleReset_only {u t : State}  (ht : execModuleReset u = .next t) :
    OnlyChanges (.out :: .ident :: .power :: .saved :: .nv :: .clock :: .time :: .cal :: .ports :: .image :: .books ::
          .bookRegs :: .parts :: .host :: .queues :: .triggers :: .groups :: .buckets :: .staging :: .stack ::
          .badUnits :: .units :: .xfers :: .blockCount :: .blockRx :: .flows :: .areas :: .rings :: .events :: .stats
          :: .snaps :: .ctxView :: .recSel :: .maint :: []) u t := by
  unfold execModuleReset at ht
  first | refine whenRunning_only ht ?_ | refine whenAlive_only ht ?_ | (injection ht with ht; subst ht)
  repeat' first
    | with_reducible assumption
    | with_reducible apply OnlyChanges.refl
    | (with_reducible apply OnlyChanges.step State.moduleReset_only; on_goal 2 => decide)
    | with_reducible apply only_ite

theorem execModuleResetRelease_only {u t : State}  (ht : execModuleResetRelease u = .next t) :
    OnlyChanges (.out :: .ident :: .power :: .saved :: .nv :: .clock :: .time :: .cal :: .ports :: .image :: .books ::
          .bookRegs :: .parts :: .host :: .queues :: .triggers :: .groups :: .buckets :: .staging :: .stack ::
          .badUnits :: .units :: .xfers :: .blockCount :: .blockRx :: .flows :: .areas :: .rings :: .events :: .stats
          :: .snaps :: .ctxView :: .recSel :: .maint :: .tap :: []) u t := by
  unfold execModuleResetRelease at ht
  first | refine whenRunning_only ht ?_ | refine whenAlive_only ht ?_ | (injection ht with ht; subst ht)
  repeat' first
    | with_reducible assumption
    | with_reducible apply OnlyChanges.refl
    | (with_reducible apply OnlyChanges.step State.moduleRelease_only; on_goal 2 => decide)
    | with_reducible apply only_ite

theorem execModWarm_only {u t : State}  (ht : execModWarm u = .next t) :
    OnlyChanges (.out :: .ident :: .power :: .saved :: .nv :: .clock :: .time :: .cal :: .ports :: .image :: .books ::
          .bookRegs :: .parts :: .host :: .queues :: .triggers :: .groups :: .buckets :: .staging :: .stack ::
          .badUnits :: .units :: .xfers :: .blockCount :: .blockRx :: .flows :: .areas :: .rings :: .events :: .stats
          :: .snaps :: .ctxView :: .recSel :: .maint :: []) u t := by
  unfold execModWarm at ht
  first | refine whenRunning_only ht ?_ | refine whenAlive_only ht ?_ | (injection ht with ht; subst ht)
  repeat' first
    | with_reducible assumption
    | with_reducible apply OnlyChanges.refl
    | (with_reducible apply OnlyChanges.step State.askWarm_only; on_goal 2 => decide)

theorem execWarmRestart_only {u t : State} {a0 : ℕ} {a1 : Word32} (ht : execWarmRestart a0 a1 u = .next t) :
    OnlyChanges (.out :: .ident :: .power :: .saved :: .nv :: .clock :: .time :: .cal :: .ports :: .image :: .books ::
          .bookRegs :: .parts :: .host :: .queues :: .triggers :: .groups :: .buckets :: .staging :: .stack ::
          .badUnits :: .units :: .xfers :: .blockCount :: .blockRx :: .flows :: .areas :: .rings :: .events :: .stats
          :: .snaps :: .ctxView :: .recSel :: .maint :: []) u t := by
  unfold execWarmRestart at ht
  first | refine whenRunning_only ht ?_ | refine whenAlive_only ht ?_ | (injection ht with ht; subst ht)
  repeat' first
    | with_reducible assumption
    | with_reducible apply OnlyChanges.refl
    | (with_reducible apply OnlyChanges.step State.resetCtrl_only; on_goal 2 => decide)
    | (with_reducible apply State.asPower_only; (on_goal 3 => decide); (on_goal 2 => intro _))

theorem execColdRestart_only {u t : State} {a0 : ℕ} {a1 : Word32} (ht : execColdRestart a0 a1 u = .next t) :
    OnlyChanges (.out :: .ident :: .power :: .saved :: .nv :: .clock :: .time :: .cal :: .ports :: .image :: .books ::
          .bookRegs :: .parts :: .host :: .queues :: .triggers :: .groups :: .buckets :: .staging :: .stack ::
          .badUnits :: .units :: .xfers :: .blockCount :: .blockRx :: .flows :: .areas :: .rings :: .events :: .stats
          :: .snaps :: .ctxView :: .recSel :: .maint :: []) u t := by
  unfold execColdRestart at ht
  first | refine whenRunning_only ht ?_ | refine whenAlive_only ht ?_ | (injection ht with ht; subst ht)
  repeat' first
    | with_reducible assumption
    | with_reducible apply OnlyChanges.refl
    | (with_reducible apply OnlyChanges.step State.resetCtrl_only; on_goal 2 => decide)
    | (with_reducible apply State.asPower_only; (on_goal 3 => decide); (on_goal 2 => intro _))

theorem execWatchdog_only {u t : State}  (ht : execWatchdog u = .next t) :
    OnlyChanges (.out :: .ident :: .power :: .saved :: .nv :: .clock :: .time :: .cal :: .ports :: .image :: .books ::
          .bookRegs :: .parts :: .host :: .queues :: .triggers :: .groups :: .buckets :: .staging :: .stack ::
          .badUnits :: .units :: .xfers :: .blockCount :: .blockRx :: .flows :: .areas :: .rings :: .events :: .stats
          :: .snaps :: .ctxView :: .recSel :: .maint :: []) u t := by
  unfold execWatchdog at ht
  first | refine whenRunning_only ht ?_ | refine whenAlive_only ht ?_ | (injection ht with ht; subst ht)
  repeat' first
    | with_reducible assumption
    | with_reducible apply OnlyChanges.refl
    | (with_reducible apply OnlyChanges.step State.askRestart_only; on_goal 2 => decide)
    | (with_reducible apply OnlyChanges.step State.setCause_only; on_goal 2 => decide)

theorem execPowerCtrlFull_only {u t : State} {a0 : ℕ} (ht : execPowerCtrlFull a0 u = .next t) :
    OnlyChanges (.out :: .ident :: .power :: .saved :: .nv :: .clock :: .time :: .cal :: .ports :: .image :: .books ::
          .bookRegs :: .parts :: .host :: .queues :: .triggers :: .groups :: .buckets :: .staging :: .stack ::
          .badUnits :: .units :: .xfers :: .blockCount :: .blockRx :: .flows :: .areas :: .rings :: .events :: .stats
          :: .snaps :: .ctxView :: .recSel :: .maint :: []) u t := by
  unfold execPowerCtrlFull at ht
  first | refine whenRunning_only ht ?_ | refine whenAlive_only ht ?_ | (injection ht with ht; subst ht)
  repeat' first
    | with_reducible assumption
    | with_reducible apply OnlyChanges.refl
    | (with_reducible apply OnlyChanges.step State.powerCtrl_only; on_goal 2 => decide)
    | (with_reducible apply State.asPower_only; (on_goal 3 => decide); (on_goal 2 => intro _))

theorem execPowerCtrlIdle_only {u t : State} {a0 : ℕ} (ht : execPowerCtrlIdle a0 u = .next t) :
    OnlyChanges (.out :: .ident :: .power :: .saved :: .nv :: .clock :: .time :: .cal :: .ports :: .image :: .books ::
          .bookRegs :: .parts :: .host :: .queues :: .triggers :: .groups :: .buckets :: .staging :: .stack ::
          .badUnits :: .units :: .xfers :: .blockCount :: .blockRx :: .flows :: .areas :: .rings :: .events :: .stats
          :: .snaps :: .ctxView :: .recSel :: .maint :: []) u t := by
  unfold execPowerCtrlIdle at ht
  first | refine whenRunning_only ht ?_ | refine whenAlive_only ht ?_ | (injection ht with ht; subst ht)
  repeat' first
    | with_reducible assumption
    | with_reducible apply OnlyChanges.refl
    | (with_reducible apply OnlyChanges.step State.powerCtrl_only; on_goal 2 => decide)
    | (with_reducible apply State.asPower_only; (on_goal 3 => decide); (on_goal 2 => intro _))

theorem execPowerCtrlHold_only {u t : State} {a0 : ℕ} (ht : execPowerCtrlHold a0 u = .next t) :
    OnlyChanges (.out :: .ident :: .power :: .saved :: .nv :: .clock :: .time :: .cal :: .ports :: .image :: .books ::
          .bookRegs :: .parts :: .host :: .queues :: .triggers :: .groups :: .buckets :: .staging :: .stack ::
          .badUnits :: .units :: .xfers :: .blockCount :: .blockRx :: .flows :: .areas :: .rings :: .events :: .stats
          :: .snaps :: .ctxView :: .recSel :: .maint :: []) u t := by
  unfold execPowerCtrlHold at ht
  first | refine whenRunning_only ht ?_ | refine whenAlive_only ht ?_ | (injection ht with ht; subst ht)
  repeat' first
    | with_reducible assumption
    | with_reducible apply OnlyChanges.refl
    | (with_reducible apply OnlyChanges.step State.powerCtrl_only; on_goal 2 => decide)
    | (with_reducible apply State.asPower_only; (on_goal 3 => decide); (on_goal 2 => intro _))

theorem execHoldEntryDone_only {u t : State}  (ht : execHoldEntryDone u = .next t) :
    OnlyChanges [.out, .power, .time, .events, .stats] u t := by
  unfold execHoldEntryDone at ht
  first | refine whenRunning_only ht ?_ | refine whenAlive_only ht ?_ | (injection ht with ht; subst ht)
  repeat' first
    | with_reducible assumption
    | with_reducible apply OnlyChanges.refl
    | (extract_lets +onlyGivenNames y; first | (apply only_cut (v := y); (on_goal 2 => (intro hy; clear_value y)); subst y) | clear_value y | subst y)
    | (with_reducible apply OnlyChanges.step State.startWarm_only; on_goal 2 => decide)
    | with_reducible apply only_ite
    | ((with_reducible apply only_power (h1 := by decide)); first | with_reducible assumption | with_reducible exact OnlyChanges.refl)

theorem State.lateOpen_only {u : State} {a1 : ℕ} :
    OnlyChanges [.groups] u (State.lateOpen u a1) := by
  unfold State.lateOpen
  repeat' first
    | with_reducible assumption
    | with_reducible apply OnlyChanges.refl
    | (with_reducible apply OnlyChanges.step State.modGroup_only; on_goal 2 => decide)
    | with_reducible apply only_ite

theorem State.wakeOpens_only {u : State}  :
    OnlyChanges [.ports, .books, .queues, .groups, .events, .stats] u (State.wakeOpens u) := by
  unfold State.wakeOpens
  repeat' first
    | with_reducible assumption
    | with_reducible apply OnlyChanges.refl
    | (with_reducible apply OnlyChanges.step State.openOperand_only; on_goal 2 => decide)
    | (with_reducible apply OnlyChanges.step State.tryEnterOpens_only; on_goal 2 => decide)
    | (with_reducible apply OnlyChanges.step State.lateOpen_only; on_goal 2 => decide)
    | (with_reducible apply only_foldl; on_goal 2 => intro _ _ _)

theorem execWakeComplete_only {u t : State}  (ht : execWakeComplete u = .next t) :
    OnlyChanges [.power, .ports, .books, .queues, .groups, .events, .stats] u t := by
  unfold execWakeComplete at ht
  first | refine whenRunning_only ht ?_ | refine whenAlive_only ht ?_ | (injection ht with ht; subst ht)
  repeat' first
    | with_reducible assumption
    | with_reducible apply OnlyChanges.refl
    | (extract_lets +onlyGivenNames y; first | (apply only_cut (v := y); (on_goal 2 => (intro hy; clear_value y)); subst y) | clear_value y | subst y)
    | (with_reducible apply OnlyChanges.step State.pollReadyAll_only; on_goal 2 => decide)
    | (with_reducible apply OnlyChanges.step State.wakeOpens_only; on_goal 2 => decide)
    | with_reducible apply only_ite
    | ((with_reducible apply only_power (h1 := by decide)); first | with_reducible assumption | with_reducible exact OnlyChanges.refl)
    | split

theorem execStartUpStep_only {u t : State} {a0 : StartReport} (ht : execStartUpStep a0 u = .next t) :
    OnlyChanges (.out :: .ident :: .power :: .saved :: .nv :: .clock :: .time :: .cal :: .ports :: .image :: .books ::
          .bookRegs :: .parts :: .host :: .queues :: .triggers :: .groups :: .buckets :: .staging :: .stack ::
          .badUnits :: .units :: .xfers :: .blockCount :: .blockRx :: .flows :: .areas :: .rings :: .events :: .stats
          :: .snaps :: .ctxView :: .recSel :: .maint :: []) u t := by
  unfold execStartUpStep at ht
  first | refine whenRunning_only ht ?_ | refine whenAlive_only ht ?_ | (injection ht with ht; subst ht)
  repeat' first
    | with_reducible assumption
    | with_reducible apply OnlyChanges.refl
    | (with_reducible apply OnlyChanges.step State.startUp_only; on_goal 2 => decide)
    | with_reducible apply only_ite

theorem State.ringCtrl_only {u : State} {a1 : ℕ} {a2 : ℕ} :
    OnlyChanges [.rings] u (State.ringCtrl u a1 a2) := by
  unfold State.ringCtrl
  repeat' first
    | with_reducible assumption
    | with_reducible apply OnlyChanges.refl
    | (with_reducible apply OnlyChanges.step State.modRing_only; on_goal 2 => decide)
    | with_reducible apply only_ite

theorem State.ringHead_only {u : State} {a1 : ℕ} {a2 : Word32} :
    OnlyChanges [.rings, .events] u (State.ringHead u a1 a2) := by
  unfold State.ringHead
  repeat' first
    | with_reducible assumption
    | with_reducible apply OnlyChanges.refl
    | (extract_lets +onlyGivenNames y; first | (apply only_cut (v := y); (on_goal 2 => (intro hy; clear_value y)); subst y) | clear_value y | subst y)
    | (with_reducible apply OnlyChanges.step State.raise_only; on_goal 2 => decide)
    | (with_reducible apply OnlyChanges.step State.setRing_only; on_goal 2 => decide)
    | with_reducible apply only_ite

theorem State.ringBase_only {u : State} {a1 : ℕ} {a2 : ℕ} :
    OnlyChanges [.rings] u (State.ringBase u a1 a2) := by
  unfold State.ringBase
  repeat' first
    | with_reducible assumption
    | with_reducible apply OnlyChanges.refl
    | (with_reducible apply OnlyChanges.step State.modRing_only; on_goal 2 => decide)
    | with_reducible apply only_ite

theorem State.asRing_only {u s : State} {a1 : ℕ} {a2 : ℕ} {a3 : ℕ} {a4 : Bool} {f5 : State → State} {P : List Part} (h
      : OnlyChanges P s u) (hf5 : ∀ v, OnlyChanges P v (f5 v)) (hP : ∀ p ∈ ([.host, .events, .stats] : List Part), p ∈
      P) :
    OnlyChanges P s (State.asRing u a1 a2 a3 a4 f5) := by
  apply OnlyChanges.trans h
  unfold State.asRing
  repeat' first
    | with_reducible assumption
    | with_reducible apply OnlyChanges.refl
    | (with_reducible apply State.asPart_only; (on_goal 3 => exact fun p hp => hP p (by revert p hp; decide)); (on_goal 2 => intro _))
    | (with_reducible apply State.asPriv_only; (on_goal 3 => exact fun p hp => hP p (by revert p hp; decide)); (on_goal 2 => intro _))
    | with_reducible apply OnlyChanges.trans' (hf5 _)
    | with_reducible apply only_ite

theorem execEventCtrlWrite_only {u t : State} {a0 : ℕ} {a1 : ℕ} {a2 : Word32} (ht : execEventCtrlWrite a0 a1 a2 u =
      .next t) :
    OnlyChanges [.host, .rings, .events, .stats] u t := by
  unfold execEventCtrlWrite at ht
  first | refine whenRunning_only ht ?_ | refine whenAlive_only ht ?_ | (injection ht with ht; subst ht)
  repeat' first
    | with_reducible assumption
    | with_reducible apply OnlyChanges.refl
    | (with_reducible apply OnlyChanges.step State.ringCtrl_only; on_goal 2 => decide)
    | (with_reducible apply State.asRing_only; (on_goal 3 => decide); (on_goal 2 => intro _))

theorem execEventHeadWrite_only {u t : State} {a0 : ℕ} {a1 : ℕ} {a2 : Word32} (ht : execEventHeadWrite a0 a1 a2 u =
      .next t) :
    OnlyChanges [.host, .rings, .events, .stats] u t := by
  unfold execEventHeadWrite at ht
  first | refine whenRunning_only ht ?_ | refine whenAlive_only ht ?_ | (injection ht with ht; subst ht)
  repeat' first
    | with_reducible assumption
    | with_reducible apply OnlyChanges.refl
    | (with_reducible apply OnlyChanges.step State.ringHead_only; on_goal 2 => decide)
    | (with_reducible apply State.asRing_only; (on_goal 3 => decide); (on_goal 2 => intro _))

theorem execEventRecordWrite_only {u t : State} {a0 : List ℕ} (ht : execEventRecordWrite a0 u = .next t) :
    OnlyChanges [.out, .rings, .events, .stats] u t := by
  unfold execEventRecordWrite at ht
  first | refine whenRunning_only ht ?_ | refine whenAlive_only ht ?_ | (injection ht with ht; subst ht)
  repeat' first
    | with_reducible assumption
    | with_reducible apply OnlyChanges.refl
    | (with_reducible apply OnlyChanges.step State.catchUpAll_only; on_goal 2 => decide)
    | (with_reducible apply OnlyChanges.step State.writeEvent_only; on_goal 2 => decide)

theorem State.clearStats_only {u : State} {a1 : ℕ} :
    OnlyChanges [.stats] u (State.clearStats u a1) := by
  unfold State.clearStats
  repeat' first
    | with_reducible assumption
    | with_reducible apply OnlyChanges.refl
    | (extract_lets +onlyGivenNames y; first | (apply only_cut (v := y); (on_goal 2 => (intro hy; clear_value y)); subst y) | clear_value y | subst y)
    | with_reducible apply only_ite
    | ((with_reducible apply only_stats (h1 := by decide)); first | with_reducible assumption | with_reducible exact OnlyChanges.refl)

theorem State.selectCtx_only {u : State} {a1 : ℕ} :
    OnlyChanges [.ctxView] u (State.selectCtx u a1) := by
  unfold State.selectCtx
  repeat' first
    | with_reducible assumption
    | with_reducible apply OnlyChanges.refl
    | (extract_lets +onlyGivenNames y; first | (apply only_cut (v := y); (on_goal 2 => (intro hy; clear_value y)); subst y) | clear_value y | subst y)
    | with_reducible apply only_ite
    | ((with_reducible apply only_ctxView (h1 := by decide)); first | with_reducible assumption | with_reducible exact OnlyChanges.refl)

theorem State.copyCtx_only {u : State}  :
    OnlyChanges [.ctxView] u (State.copyCtx u) := by
  unfold State.copyCtx
  repeat' first
    | with_reducible assumption
    | with_reducible apply OnlyChanges.refl
    | (extract_lets +onlyGivenNames y; first | (apply only_cut (v := y); (on_goal 2 => (intro hy; clear_value y)); subst y) | clear_value y | subst y)
    | ((with_reducible apply only_ctxView (h1 := by decide)); first | with_reducible assumption | with_reducible exact OnlyChanges.refl)

theorem execSnapReq_only {u t : State} {a0 : ℕ} {a1 : ℕ} {a2 : Word32} (ht : execSnapReq a0 a1 a2 u = .next t) :
    OnlyChanges [.host, .events, .stats, .snaps] u t := by
  unfold execSnapReq at ht
  first | refine whenRunning_only ht ?_ | refine whenAlive_only ht ?_ | (injection ht with ht; subst ht)
  repeat' first
    | with_reducible assumption
    | with_reducible apply OnlyChanges.refl
    | (with_reducible apply OnlyChanges.step State.askSnap_only; on_goal 2 => decide)
    | (with_reducible apply State.asSnap_only; (on_goal 3 => decide); (on_goal 2 => intro _))

theorem execSnapshotLatch_only {u t : State} {a0 : ℕ} (ht : execSnapshotLatch a0 u = .next t) :
    OnlyChanges [.snaps] u t := by
  unfold execSnapshotLatch at ht
  first | refine whenRunning_only ht ?_ | refine whenAlive_only ht ?_ | (injection ht with ht; subst ht)
  repeat' first
    | with_reducible assumption
    | with_reducible apply OnlyChanges.refl
    | (with_reducible apply OnlyChanges.step State.showPage_only; on_goal 2 => decide)
    | with_reducible apply only_ite

theorem execTimeSnapshotRead_only {u t : State} {a0 : ℕ} {a1 : ℕ} (ht : execTimeSnapshotRead a0 a1 u = .next t) :
    OnlyChanges [.out, .host, .events, .stats, .snaps] u t := by
  unfold execTimeSnapshotRead at ht
  first | refine whenRunning_only ht ?_ | refine whenAlive_only ht ?_ | (injection ht with ht; subst ht)
  repeat' first
    | with_reducible assumption
    | with_reducible apply OnlyChanges.refl
    | (extract_lets +onlyGivenNames y; first | (apply only_cut (v := y); (on_goal 2 => (intro hy; clear_value y)); subst y) | clear_value y | subst y)
    | (with_reducible apply OnlyChanges.step State.touch_only; on_goal 2 => decide)
    | (with_reducible apply OnlyChanges.step State.violation_only; on_goal 2 => decide)
    | (with_reducible apply OnlyChanges.step State.freezeTime_only; on_goal 2 => decide)
    | (with_reducible apply OnlyChanges.step State.emit_only; on_goal 2 => decide)
    | with_reducible apply only_ite

theorem execStatClear_only {u t : State} {a0 : ℕ} {a1 : Option ℕ} {a2 : Word32} (ht : execStatClear a0 a1 a2 u = .next
      t) :
    OnlyChanges [.host, .events, .stats] u t := by
  unfold execStatClear at ht
  first | refine whenRunning_only ht ?_ | refine whenAlive_only ht ?_ | (injection ht with ht; subst ht)
  repeat' first
    | with_reducible assumption
    | with_reducible apply OnlyChanges.refl
    | (with_reducible apply State.asPriv_only; (on_goal 3 => decide); (on_goal 2 => intro _))
    | (with_reducible apply State.asSnap_only; (on_goal 3 => decide); (on_goal 2 => intro _))
    | (with_reducible apply OnlyChanges.step State.clearCopies_only; on_goal 2 => decide)
    | (with_reducible apply OnlyChanges.step State.clearStats_only; on_goal 2 => decide)
    | with_reducible apply only_ite
    | split

theorem execCtxSelWrite_only {u t : State} {a0 : ℕ} {a1 : Word32} (ht : execCtxSelWrite a0 a1 u = .next t) :
    OnlyChanges [.host, .events, .stats, .ctxView] u t := by
  unfold execCtxSelWrite at ht
  first | refine whenRunning_only ht ?_ | refine whenAlive_only ht ?_ | (injection ht with ht; subst ht)
  repeat' first
    | with_reducible assumption
    | with_reducible apply OnlyChanges.refl
    | (with_reducible apply State.asPriv_only; (on_goal 3 => decide); (on_goal 2 => intro _))
    | (with_reducible apply OnlyChanges.step State.selectCtx_only; on_goal 2 => decide)

theorem execCtxCopy_only {u t : State}  (ht : execCtxCopy u = .next t) :
    OnlyChanges [.ctxView] u t := by
  unfold execCtxCopy at ht
  first | refine whenRunning_only ht ?_ | refine whenAlive_only ht ?_ | (injection ht with ht; subst ht)
  repeat' first
    | with_reducible assumption
    | with_reducible apply OnlyChanges.refl
    | (with_reducible apply OnlyChanges.step State.copyCtx_only; on_goal 2 => decide)
    | with_reducible apply only_ite

theorem State.failCove_only {u : State} {a1 : ℕ} :
    OnlyChanges [.power, .ports, .events, .stats, .maint] u (State.failCove u a1) := by
  unfold State.failCove
  repeat' first
    | with_reducible assumption
    | with_reducible apply OnlyChanges.refl
    | (extract_lets +onlyGivenNames y; first | (apply only_cut (v := y); (on_goal 2 => (intro hy; clear_value y)); subst y) | clear_value y | subst y)
    | (with_reducible apply OnlyChanges.step State.setFaults_only; on_goal 2 => decide)
    | (with_reducible apply OnlyChanges.step State.retireCove_only; on_goal 2 => decide)
    | (with_reducible apply OnlyChanges.step State.raise_only; on_goal 2 => decide)
    | (with_reducible apply OnlyChanges.step State.askHails_only; on_goal 2 => decide)

theorem State.judgeSlice_only {u : State} {a1 : ℕ} {a2 : ℕ} :
    OnlyChanges [.power, .ports, .events, .stats, .maint] u (State.judgeSlice u a1 a2) := by
  unfold State.judgeSlice
  repeat' first
    | with_reducible assumption
    | with_reducible apply OnlyChanges.refl
    | (extract_lets +onlyGivenNames y; first | (apply only_cut (v := y); (on_goal 2 => (intro hy; clear_value y)); subst y) | clear_value y | subst y)
    | (with_reducible apply OnlyChanges.step State.bump_only; on_goal 2 => decide)
    | (with_reducible apply OnlyChanges.step State.failCove_only; on_goal 2 => decide)
    | (with_reducible apply OnlyChanges.step State.setBay_only; on_goal 2 => decide)
    | with_reducible apply only_ite
    | ((with_reducible apply only_maint (h1 := by decide)); first | with_reducible assumption | with_reducible exact OnlyChanges.refl)

theorem State.moveClips_only {u : State} {a1 : ℕ} {a2 : ℕ} {a3 : ℕ} :
    OnlyChanges [.groups] u (State.moveClips u a1 a2 a3) := by
  unfold State.moveClips
  repeat' first
    | with_reducible assumption
    | with_reducible apply OnlyChanges.refl
    | (extract_lets +onlyGivenNames y; first | (apply only_cut (v := y); (on_goal 2 => (intro hy; clear_value y)); subst y) | clear_value y | subst y)
    | ((with_reducible apply only_groups (h1 := by decide)); first | with_reducible assumption | with_reducible exact OnlyChanges.refl)

theorem State.replaceCove_only {u : State} {a1 : ℕ} {a2 : ℕ} {a3 : ℕ} :
    OnlyChanges [.groups, .maint] u (State.replaceCove u a1 a2 a3) := by
  unfold State.replaceCove
  repeat' first
    | with_reducible assumption
    | with_reducible apply OnlyChanges.refl
    | (extract_lets +onlyGivenNames y; first | (apply only_cut (v := y); (on_goal 2 => (intro hy; clear_value y)); subst y) | clear_value y | subst y)
    | (with_reducible apply OnlyChanges.step State.moveClips_only; on_goal 2 => decide)
    | (with_reducible apply OnlyChanges.step State.setBay_only; on_goal 2 => decide)
    | with_reducible apply only_ite

theorem State.handover_only {u : State} {a1 : ℕ} :
    OnlyChanges [.groups, .maint] u (State.handover u a1) := by
  unfold State.handover
  repeat' first
    | with_reducible assumption
    | with_reducible apply OnlyChanges.refl
    | (extract_lets +onlyGivenNames y; first | (apply only_cut (v := y); (on_goal 2 => (intro hy; clear_value y)); subst y) | clear_value y | subst y)
    | (with_reducible apply OnlyChanges.step State.replaceCove_only; on_goal 2 => decide)
    | (with_reducible apply OnlyChanges.step State.setBay_only; on_goal 2 => decide)

theorem State.takeOver_only {u : State} {a1 : ℕ} {a2 : ℕ} :
    OnlyChanges [.power, .ports, .groups, .events, .stats, .maint] u (State.takeOver u a1 a2) := by
  unfold State.takeOver
  repeat' first
    | with_reducible assumption
    | with_reducible apply OnlyChanges.refl
    | (extract_lets +onlyGivenNames y; first | (apply only_cut (v := y); (on_goal 2 => (intro hy; clear_value y)); subst y) | clear_value y | subst y)
    | (with_reducible apply OnlyChanges.step State.setFaults_only; on_goal 2 => decide)
    | (with_reducible apply OnlyChanges.step State.replaceCove_only; on_goal 2 => decide)
    | (with_reducible apply OnlyChanges.step State.retireCove_only; on_goal 2 => decide)
    | (with_reducible apply OnlyChanges.step State.raise_only; on_goal 2 => decide)
    | (with_reducible apply OnlyChanges.step State.askHails_only; on_goal 2 => decide)
    | with_reducible apply only_ite
    | ((with_reducible apply only_maint (h1 := by decide)); first | with_reducible assumption | with_reducible exact OnlyChanges.refl)

theorem State.loseBay_only {u : State} {a1 : ℕ} :
    OnlyChanges [.power, .ports, .groups, .events, .stats, .maint] u (State.loseBay u a1) := by
  unfold State.loseBay
  repeat' first
    | with_reducible assumption
    | with_reducible apply OnlyChanges.refl
    | (extract_lets +onlyGivenNames y; first | (apply only_cut (v := y); (on_goal 2 => (intro hy; clear_value y)); subst y) | clear_value y | subst y)
    | (with_reducible apply OnlyChanges.step State.abortGroup_only; on_goal 2 => decide)
    | (with_reducible apply OnlyChanges.step State.modGroup_only; on_goal 2 => decide)
    | (with_reducible apply OnlyChanges.step State.raise_only; on_goal 2 => decide)
    | (with_reducible apply OnlyChanges.step State.retireBay_only; on_goal 2 => decide)
    | (with_reducible apply OnlyChanges.step State.askHails_only; on_goal 2 => decide)
    | with_reducible apply only_ite
    | (with_reducible apply only_foldl; on_goal 2 => intro _ _ _)
    | ((with_reducible apply only_maint (h1 := by decide)); first | with_reducible assumption | with_reducible exact OnlyChanges.refl)

theorem State.scrub_only {u : State} {a1 : List ℕ} {a2 : List ℕ} :
    OnlyChanges [.maint] u (State.scrub u a1 a2) := by
  unfold State.scrub
  repeat' first
    | with_reducible assumption
    | with_reducible apply OnlyChanges.refl
    | (extract_lets +onlyGivenNames y; first | (apply only_cut (v := y); (on_goal 2 => (intro hy; clear_value y)); subst y) | clear_value y | subst y)
    | with_reducible apply only_ite
    | ((with_reducible apply only_maint (h1 := by decide)); first | with_reducible assumption | with_reducible exact OnlyChanges.refl)

theorem State.passLocal_only {u : State} {a1 : ℕ} :
    OnlyChanges [.out, .ports, .blockCount, .flows] u (State.passLocal u a1) := by
  unfold State.passLocal
  repeat' first
    | with_reducible assumption
    | with_reducible apply OnlyChanges.refl
    | (with_reducible apply OnlyChanges.step State.modPort_only; on_goal 2 => decide)
    | (with_reducible apply OnlyChanges.step State.sendFrame_only; on_goal 2 => decide)

theorem State.setRotate_only {u : State} {a1 : ℕ} :
    OnlyChanges [.maint] u (State.setRotate u a1) := by
  unfold State.setRotate
  repeat' first
    | with_reducible assumption
    | with_reducible apply OnlyChanges.refl
    | (extract_lets +onlyGivenNames y; first | (apply only_cut (v := y); (on_goal 2 => (intro hy; clear_value y)); subst y) | clear_value y | subst y)
    | ((with_reducible apply only_maint (h1 := by decide)); first | with_reducible assumption | with_reducible exact OnlyChanges.refl)

theorem execMaintReq_only {u t : State} {a0 : ℕ} {a1 : Word32} (ht : execMaintReq a0 a1 u = .next t) :
    OnlyChanges [.ports, .host, .events, .stats, .maint] u t := by
  unfold execMaintReq at ht
  first | refine whenRunning_only ht ?_ | refine whenAlive_only ht ?_ | (injection ht with ht; subst ht)
  repeat' first
    | with_reducible assumption
    | with_reducible apply OnlyChanges.refl
    | (with_reducible apply State.asPriv_only; (on_goal 3 => decide); (on_goal 2 => intro _))
    | (with_reducible apply OnlyChanges.step State.maintRequest_only; on_goal 2 => decide)

theorem execMaintRelease_only {u t : State} {a0 : ℕ} (ht : execMaintRelease a0 u = .next t) :
    OnlyChanges [.ports, .host, .events, .stats, .maint] u t := by
  unfold execMaintRelease at ht
  first | refine whenRunning_only ht ?_ | refine whenAlive_only ht ?_ | (injection ht with ht; subst ht)
  repeat' first
    | with_reducible assumption
    | with_reducible apply OnlyChanges.refl
    | (with_reducible apply State.asPriv_only; (on_goal 3 => decide); (on_goal 2 => intro _))
    | (with_reducible apply OnlyChanges.step State.releaseHall_only; on_goal 2 => decide)

theorem execTokenLapse_only {u t : State}  (ht : execTokenLapse u = .next t) :
    OnlyChanges [.ports, .maint] u t := by
  unfold execTokenLapse at ht
  first | refine whenRunning_only ht ?_ | refine whenAlive_only ht ?_ | (injection ht with ht; subst ht)
  repeat' first
    | with_reducible assumption
    | with_reducible apply OnlyChanges.refl
    | (with_reducible apply OnlyChanges.step State.endTokens_only; on_goal 2 => decide)

theorem execBistCtrlWrite_only {u t : State} {a0 : ℕ} {a1 : Word32} (ht : execBistCtrlWrite a0 a1 u = .next t) :
    OnlyChanges [.host, .events, .stats, .maint] u t := by
  unfold execBistCtrlWrite at ht
  first | refine whenRunning_only ht ?_ | refine whenAlive_only ht ?_ | (injection ht with ht; subst ht)
  repeat' first
    | with_reducible assumption
    | with_reducible apply OnlyChanges.refl
    | (with_reducible apply State.asPriv_only; (on_goal 3 => decide); (on_goal 2 => intro _))
    | (with_reducible apply OnlyChanges.step State.setRotate_only; on_goal 2 => decide)

theorem execBistSlice_only {u t : State} {a0 : Word32} (ht : execBistSlice a0 u = .next t) :
    OnlyChanges [.power, .ports, .events, .stats, .maint] u t := by
  unfold execBistSlice at ht
  first | refine whenRunning_only ht ?_ | refine whenAlive_only ht ?_ | (injection ht with ht; subst ht)
  repeat' first
    | with_reducible assumption
    | with_reducible apply OnlyChanges.refl
    | (extract_lets +onlyGivenNames y; first | (apply only_cut (v := y); (on_goal 2 => (intro hy; clear_value y)); subst y) | clear_value y | subst y)
    | (with_reducible apply OnlyChanges.step State.judgeSlice_only; on_goal 2 => decide)
    | with_reducible apply only_ite
    | ((with_reducible apply only_maint (h1 := by decide)); first | with_reducible assumption | with_reducible exact OnlyChanges.refl)

theorem execStandbyHandover_only {u t : State} {a0 : ℕ} (ht : execStandbyHandover a0 u = .next t) :
    OnlyChanges (.out :: .power :: .time :: .cal :: .ports :: .books :: .parts :: .queues :: .groups :: .areas ::
          .events :: .stats :: .snaps :: .maint :: []) u t := by
  unfold execStandbyHandover at ht
  first | refine whenRunning_only ht ?_ | refine whenAlive_only ht ?_ | (injection ht with ht; subst ht)
  repeat' first
    | with_reducible assumption
    | with_reducible apply OnlyChanges.refl
    | (with_reducible apply OnlyChanges.step State.handover_only; on_goal 2 => decide)
    | (with_reducible apply OnlyChanges.step State.settle_only; on_goal 2 => decide)
    | with_reducible apply only_ite

theorem execPatrolScrub_only {u t : State} {a0 : List ℕ} {a1 : List ℕ} (ht : execPatrolScrub a0 a1 u = .next t) :
    OnlyChanges [.maint] u t := by
  unfold execPatrolScrub at ht
  first | refine whenRunning_only ht ?_ | refine whenAlive_only ht ?_ | (injection ht with ht; subst ht)
  repeat' first
    | with_reducible assumption
    | with_reducible apply OnlyChanges.refl
    | (with_reducible apply OnlyChanges.step State.scrub_only; on_goal 2 => decide)
    | with_reducible apply only_ite

theorem execSweepComplete_only {u t : State}  (ht : execSweepComplete u = .next t) :
    OnlyChanges [.ports, .maint] u t := by
  unfold execSweepComplete at ht
  first | refine whenRunning_only ht ?_ | refine whenAlive_only ht ?_ | (injection ht with ht; subst ht)
  repeat' first
    | with_reducible assumption
    | with_reducible apply OnlyChanges.refl
    | (with_reducible apply OnlyChanges.step State.endTokens_only; on_goal 2 => decide)
    | with_reducible apply only_ite
    | split

theorem execCoveTakeover_only {u t : State} {a0 : ℕ} (ht : execCoveTakeover a0 u = .next t) :
    OnlyChanges (.out :: .power :: .time :: .cal :: .ports :: .books :: .parts :: .queues :: .groups :: .areas ::
          .events :: .stats :: .snaps :: .maint :: []) u t := by
  unfold execCoveTakeover at ht
  first | refine whenRunning_only ht ?_ | refine whenAlive_only ht ?_ | (injection ht with ht; subst ht)
  repeat' first
    | with_reducible assumption
    | with_reducible apply OnlyChanges.refl
    | (with_reducible apply OnlyChanges.step State.takeOver_only; on_goal 2 => decide)
    | (with_reducible apply OnlyChanges.step State.settle_only; on_goal 2 => decide)
    | with_reducible apply only_ite
    | split

theorem execBayRetirement_only {u t : State} {a0 : ℕ} (ht : execBayRetirement a0 u = .next t) :
    OnlyChanges [.power, .ports, .groups, .events, .stats, .maint] u t := by
  unfold execBayRetirement at ht
  first | refine whenRunning_only ht ?_ | refine whenAlive_only ht ?_ | (injection ht with ht; subst ht)
  repeat' first
    | with_reducible assumption
    | with_reducible apply OnlyChanges.refl
    | (with_reducible apply OnlyChanges.step State.loseBay_only; on_goal 2 => decide)
    | with_reducible apply only_ite

theorem execLocalFrameBoundary_only {u t : State} {a0 : ℕ} (ht : execLocalFrameBoundary a0 u = .next t) :
    OnlyChanges [.out, .ports, .blockCount, .flows] u t := by
  unfold execLocalFrameBoundary at ht
  first | refine whenRunning_only ht ?_ | refine whenAlive_only ht ?_ | (injection ht with ht; subst ht)
  repeat' first
    | with_reducible assumption
    | with_reducible apply OnlyChanges.refl
    | (with_reducible apply OnlyChanges.step State.passLocal_only; on_goal 2 => decide)
    | with_reducible apply only_ite

theorem execTestAccessPortInstruction_only {u t : State} {a0 : TapEvent} (ht : execTestAccessPortInstruction a0 u =
      .next t) :
    OnlyChanges [.out, .tap] u t := by
  unfold execTestAccessPortInstruction at ht
  first | refine whenRunning_only ht ?_ | refine whenAlive_only ht ?_ | (injection ht with ht; subst ht)
  repeat' first
    | with_reducible assumption
    | with_reducible apply OnlyChanges.refl
    | (extract_lets +onlyGivenNames y; first | (apply only_cut (v := y); (on_goal 2 => (intro hy; clear_value y)); subst y) | clear_value y | subst y)
    | (with_reducible apply OnlyChanges.step State.emit_only; on_goal 2 => decide)
    | with_reducible apply only_ite
    | ((with_reducible apply only_tap (h1 := by decide)); first | with_reducible assumption | with_reducible exact OnlyChanges.refl)
    | split

theorem State.writeTime_only {u : State} {a1 : ℕ} {a2 : ℕ} :
    OnlyChanges [.out, .time] u (State.writeTime u a1 a2) := by
  unfold State.writeTime
  repeat' first
    | with_reducible assumption
    | with_reducible apply OnlyChanges.refl
    | (extract_lets +onlyGivenNames y; first | (apply only_cut (v := y); (on_goal 2 => (intro hy; clear_value y)); subst y) | (have hy : TimeState := y; clear hy; subst y) | clear_value y | subst y)
    | (with_reducible apply OnlyChanges.step State.cutPps_only; on_goal 2 => decide)
    | with_reducible apply only_ite
    | ((with_reducible apply only_still (h1 := by decide)); (on_goal 2 => exact ⟨rfl, rfl, rfl, rfl⟩); first | with_reducible assumption | with_reducible exact OnlyChanges.refl)

theorem State.writeCalReg_only {u : State} {a1 : ℕ} {a2 : ℕ} :
    OnlyChanges [.cal] u (State.writeCalReg u a1 a2) := by
  unfold State.writeCalReg
  repeat' first
    | with_reducible assumption
    | with_reducible apply OnlyChanges.refl
    | (extract_lets +onlyGivenNames y; first | (apply only_cut (v := y); (on_goal 2 => (intro hy; clear_value y)); subst y) | clear_value y | subst y)
    | (with_reducible apply OnlyChanges.step State.reloadCal_only; on_goal 2 => decide)
    | (with_reducible apply OnlyChanges.step State.commitCal_only; on_goal 2 => decide)
    | (with_reducible apply OnlyChanges.step State.calAccess_only; on_goal 2 => decide)
    | (with_reducible apply OnlyChanges.step State.writeCal_only; on_goal 2 => decide)
    | with_reducible apply only_ite
    | ((with_reducible apply only_cal (h1 := by decide)); first | with_reducible assumption | with_reducible exact OnlyChanges.refl)

theorem State.writeImageCmd_only {u : State} {a1 : ℕ} :
    OnlyChanges [.ident, .nv, .ports, .image, .books, .queues, .groups, .events, .stats] u (State.writeImageCmd u a1)
          := by
  unfold State.writeImageCmd
  repeat' first
    | with_reducible assumption
    | with_reducible apply OnlyChanges.refl
    | (extract_lets +onlyGivenNames y; first | (apply only_cut (v := y); (on_goal 2 => (intro hy; clear_value y)); subst y) | clear_value y | subst y)
    | (with_reducible apply OnlyChanges.step State.askActivation_only; on_goal 2 => decide)
    | (with_reducible apply OnlyChanges.step State.loadSlot_only; on_goal 2 => decide)
    | (with_reducible apply State.imageCmd_only; (on_goal 3 => decide); (on_goal 2 => intro _))
    | (with_reducible apply OnlyChanges.step State.setJob_only; on_goal 2 => decide)
    | (with_reducible apply OnlyChanges.step State.startStore_only; on_goal 2 => decide)
    | (with_reducible apply OnlyChanges.step State.cancelActivation_only; on_goal 2 => decide)
    | (with_reducible apply OnlyChanges.step State.ignoreCmd_only; on_goal 2 => decide)
    | split

theorem State.writeImageReg_only {u : State} {a1 : ℕ} {a2 : ℕ} :
    OnlyChanges [.ident, .nv, .ports, .image, .books, .bookRegs, .queues, .groups, .events, .stats] u
          (State.writeImageReg u a1 a2) := by
  unfold State.writeImageReg
  repeat' first
    | with_reducible assumption
    | with_reducible apply OnlyChanges.refl
    | (extract_lets +onlyGivenNames y; first | (apply only_cut (v := y); (on_goal 2 => (intro hy; clear_value y)); subst y) | clear_value y | subst y)
    | (with_reducible apply OnlyChanges.step State.keyCtrl_only; on_goal 2 => decide)
    | (with_reducible apply OnlyChanges.step State.rollbackCtrl_only; on_goal 2 => decide)
    | (with_reducible apply OnlyChanges.step State.replaceBook_only; on_goal 2 => decide)
    | (with_reducible apply OnlyChanges.step State.writeImageCmd_only; on_goal 2 => decide)
    | with_reducible apply only_ite
    | ((with_reducible apply only_image (h1 := by decide)); first | with_reducible assumption | with_reducible exact OnlyChanges.refl)
    | ((with_reducible apply only_nv (h1 := by decide)); first | with_reducible assumption | with_reducible exact OnlyChanges.refl)
    | ((with_reducible apply only_bookRegs (h1 := by decide)); first | with_reducible assumption | with_reducible exact OnlyChanges.refl)

theorem State.partCtrl_only {u : State} {a1 : ℕ} :
    OnlyChanges (.ports :: .image :: .books :: .parts :: .queues :: .triggers :: .groups :: .buckets :: .staging ::
          .stack :: .badUnits :: .xfers :: .flows :: .areas :: .rings :: .events :: .stats :: .snaps :: []) u
          (State.partCtrl u a1) := by
  unfold State.partCtrl
  repeat' first
    | with_reducible assumption
    | with_reducible apply OnlyChanges.refl
    | (extract_lets +onlyGivenNames y; first | (apply only_cut (v := y); (on_goal 2 => (intro hy; clear_value y)); subst y) | clear_value y | subst y)
    | (with_reducible apply OnlyChanges.step State.forceDetach_only; on_goal 2 => decide)
    | (with_reducible apply OnlyChanges.step State.detach_only; on_goal 2 => decide)
    | (with_reducible apply OnlyChanges.step State.attach_only; on_goal 2 => decide)
    | split

theorem State.writePartReg_only {u : State} {a1 : ℕ} {a2 : ℕ} :
    OnlyChanges (.ports :: .image :: .books :: .parts :: .queues :: .triggers :: .groups :: .buckets :: .staging ::
          .stack :: .badUnits :: .xfers :: .flows :: .areas :: .rings :: .events :: .stats :: .snaps :: []) u
          (State.writePartReg u a1 a2) := by
  unfold State.writePartReg
  repeat' first
    | with_reducible assumption
    | with_reducible apply OnlyChanges.refl
    | (extract_lets +onlyGivenNames y; first | (apply only_cut (v := y); (on_goal 2 => (intro hy; clear_value y)); subst y) | clear_value y | subst y)
    | (with_reducible apply OnlyChanges.step State.grant_only; on_goal 2 => decide)
    | (with_reducible apply OnlyChanges.step State.partCtrl_only; on_goal 2 => decide)
    | with_reducible apply only_ite
    | ((with_reducible apply only_parts (h1 := by decide)); first | with_reducible assumption | with_reducible exact OnlyChanges.refl)

theorem State.clearPower_only {u : State} {a1 : ℕ} :
    OnlyChanges [.power] u (State.clearPower u a1) := by
  unfold State.clearPower
  repeat' first
    | with_reducible assumption
    | with_reducible apply OnlyChanges.refl
    | (extract_lets +onlyGivenNames y; first | (apply only_cut (v := y); (on_goal 2 => (intro hy; clear_value y)); subst y) | clear_value y | subst y)
    | ((with_reducible apply only_power (h1 := by decide)); first | with_reducible assumption | with_reducible exact OnlyChanges.refl)

theorem State.clearFaults_only {u : State} {a1 : ℕ} :
    OnlyChanges [.power] u (State.clearFaults u a1) := by
  unfold State.clearFaults
  repeat' first
    | with_reducible assumption
    | with_reducible apply OnlyChanges.refl
    | (extract_lets +onlyGivenNames y; first | (apply only_cut (v := y); (on_goal 2 => (intro hy; clear_value y)); subst y) | clear_value y | subst y)
    | ((with_reducible apply only_power (h1 := by decide)); first | with_reducible assumption | with_reducible exact OnlyChanges.refl)

theorem State.writePowerCore_only {u : State} {a1 : ℕ} {a2 : ℕ} :
    OnlyChanges (.out :: .ident :: .power :: .saved :: .nv :: .clock :: .time :: .cal :: .ports :: .image :: .books ::
          .bookRegs :: .parts :: .host :: .queues :: .triggers :: .groups :: .buckets :: .staging :: .stack ::
          .badUnits :: .units :: .xfers :: .blockCount :: .blockRx :: .flows :: .areas :: .rings :: .events :: .stats
          :: .snaps :: .ctxView :: .recSel :: .maint :: []) u (State.writePowerCore u a1 a2) := by
  unfold State.writePowerCore
  repeat' first
    | with_reducible assumption
    | with_reducible apply OnlyChanges.refl
    | (extract_lets +onlyGivenNames y; first | (apply only_cut (v := y); (on_goal 2 => (intro hy; clear_value y)); subst y) | clear_value y | subst y)
    | (with_reducible apply OnlyChanges.step State.powerCtrl_only; on_goal 2 => decide)
    | (with_reducible apply OnlyChanges.step State.clearPower_only; on_goal 2 => decide)
    | (with_reducible apply OnlyChanges.step State.resetCtrl_only; on_goal 2 => decide)
    | with_reducible apply only_ite
    | ((with_reducible apply only_power (h1 := by decide)); first | with_reducible assumption | with_reducible exact OnlyChanges.refl)

theorem State.writePowerReg_only {u : State} {a1 : ℕ} {a2 : ℕ} :
    OnlyChanges (.out :: .ident :: .power :: .saved :: .nv :: .clock :: .time :: .cal :: .ports :: .image :: .books ::
          .bookRegs :: .parts :: .host :: .queues :: .triggers :: .groups :: .buckets :: .staging :: .stack ::
          .badUnits :: .units :: .xfers :: .blockCount :: .blockRx :: .flows :: .areas :: .rings :: .events :: .stats
          :: .snaps :: .ctxView :: .recSel :: .maint :: []) u (State.writePowerReg u a1 a2) := by
  unfold State.writePowerReg
  repeat' first
    | with_reducible assumption
    | with_reducible apply OnlyChanges.refl
    | (with_reducible apply OnlyChanges.step State.clearFaults_only; on_goal 2 => decide)
    | (with_reducible apply OnlyChanges.step State.writePowerCore_only; on_goal 2 => decide)
    | with_reducible apply only_ite

theorem State.writeMaintReg_only {u : State} {a1 : ℕ} {a2 : ℕ} :
    OnlyChanges [.ports, .maint] u (State.writeMaintReg u a1 a2) := by
  unfold State.writeMaintReg
  repeat' first
    | with_reducible assumption
    | with_reducible apply OnlyChanges.refl
    | (with_reducible apply OnlyChanges.step State.maintRequest_only; on_goal 2 => decide)
    | (with_reducible apply OnlyChanges.step State.setRotate_only; on_goal 2 => decide)
    | with_reducible apply only_ite

theorem State.portCtrl_only {u : State} {a1 : ℕ} {a2 : ℕ} :
    OnlyChanges [.out, .time, .ports, .groups, .events, .stats, .maint] u (State.portCtrl u a1 a2) := by
  unfold State.portCtrl
  repeat' first
    | with_reducible assumption
    | with_reducible apply OnlyChanges.refl
    | (extract_lets +onlyGivenNames y; first | (apply only_cut (v := y); (on_goal 2 => (intro hy; clear_value y)); subst y) | clear_value y | subst y)
    | (with_reducible apply OnlyChanges.step State.modPort_only; on_goal 2 => decide)
    | (with_reducible apply OnlyChanges.step State.askRemeasure_only; on_goal 2 => decide)
    | (with_reducible apply OnlyChanges.step State.setPrbs_only; on_goal 2 => decide)
    | (with_reducible apply OnlyChanges.step State.leaveTraining_only; on_goal 2 => decide)
    | (with_reducible apply OnlyChanges.step State.retrainPort_only; on_goal 2 => decide)
    | (with_reducible apply OnlyChanges.step State.startPort_only; on_goal 2 => decide)
    | with_reducible apply only_ite

theorem State.clearDiag_only {u : State} {a1 : ℕ} {a2 : ℕ} :
    OnlyChanges [.groups] u (State.clearDiag u a1 a2) := by
  unfold State.clearDiag
  repeat' first
    | with_reducible assumption
    | with_reducible apply OnlyChanges.refl
    | (extract_lets +onlyGivenNames y; first | (apply only_cut (v := y); (on_goal 2 => (intro hy; clear_value y)); subst y) | clear_value y | subst y)
    | (with_reducible apply OnlyChanges.step State.modGroup_only; on_goal 2 => decide)

theorem State.diagCtrl_only {u : State} {a1 : ℕ} {a2 : ℕ} :
    OnlyChanges [.groups, .events, .stats] u (State.diagCtrl u a1 a2) := by
  unfold State.diagCtrl
  repeat' first
    | with_reducible assumption
    | with_reducible apply OnlyChanges.refl
    | (with_reducible apply OnlyChanges.step State.clearDiag_only; on_goal 2 => decide)
    | (with_reducible apply OnlyChanges.step State.startDiag_only; on_goal 2 => decide)
    | with_reducible apply only_ite

theorem State.writeGroupReg_only {u : State} {a1 : ℕ} {a2 : ℕ} {a3 : ℕ} :
    OnlyChanges (.out :: .power :: .ports :: .books :: .queues :: .groups :: .buckets :: .staging :: .stack ::
          .badUnits :: .units :: .events :: .stats :: .maint :: []) u (State.writeGroupReg u a1 a2 a3) := by
  unfold State.writeGroupReg
  repeat' first
    | with_reducible assumption
    | with_reducible apply OnlyChanges.refl
    | (with_reducible apply OnlyChanges.step State.modGroup_only; on_goal 2 => decide)
    | (with_reducible apply OnlyChanges.step State.recoveryCtrl_only; on_goal 2 => decide)
    | (with_reducible apply OnlyChanges.step State.diagCtrl_only; on_goal 2 => decide)
    | (with_reducible apply OnlyChanges.step State.askDiscard_only; on_goal 2 => decide)
    | (with_reducible apply OnlyChanges.step State.setHold_only; on_goal 2 => decide)
    | with_reducible apply only_ite

theorem State.writeSnapReg_only {u : State} {a1 : ℕ} {a2 : ℕ} {a3 : ℕ} :
    OnlyChanges [.stats, .snaps] u (State.writeSnapReg u a1 a2 a3) := by
  unfold State.writeSnapReg
  repeat' first
    | with_reducible assumption
    | with_reducible apply OnlyChanges.refl
    | (with_reducible apply OnlyChanges.step State.askSnap_only; on_goal 2 => decide)
    | (with_reducible apply OnlyChanges.step State.clearCopies_only; on_goal 2 => decide)
    | (with_reducible apply OnlyChanges.step State.setSel_only; on_goal 2 => decide)
    | with_reducible apply only_ite

theorem State.writeRingReg_only {u : State} {a1 : ℕ} {a2 : ℕ} {a3 : ℕ} :
    OnlyChanges [.rings, .events] u (State.writeRingReg u a1 a2 a3) := by
  unfold State.writeRingReg
  repeat' first
    | with_reducible assumption
    | with_reducible apply OnlyChanges.refl
    | (with_reducible apply OnlyChanges.step State.ringHead_only; on_goal 2 => decide)
    | (with_reducible apply OnlyChanges.step State.ringCtrl_only; on_goal 2 => decide)
    | (with_reducible apply OnlyChanges.step State.modRing_only; on_goal 2 => decide)
    | with_reducible apply only_ite

theorem State.writeDoorbell_only {u : State} {a1 : ℕ} {a2 : ℕ} {a3 : ℕ} :
    OnlyChanges [.out, .queues, .triggers, .events, .stats] u (State.writeDoorbell u a1 a2 a3) := by
  unfold State.writeDoorbell
  repeat' first
    | with_reducible assumption
    | with_reducible apply OnlyChanges.refl
    | (with_reducible apply OnlyChanges.step State.writeTail_only; on_goal 2 => decide)
    | (with_reducible apply OnlyChanges.step State.writeComplHead_only; on_goal 2 => decide)
    | with_reducible apply only_ite

theorem State.writeQueueReg_only {u : State} {a1 : ℕ} {a2 : ℕ} {a3 : ℕ} :
    OnlyChanges [.out, .power, .ports, .books, .queues, .triggers, .groups, .events, .stats] u (State.writeQueueReg u
          a1 a2 a3) := by
  unfold State.writeQueueReg
  repeat' first
    | with_reducible assumption
    | with_reducible apply OnlyChanges.refl
    | (with_reducible apply OnlyChanges.step State.queueCtrl_only; on_goal 2 => decide)
    | (with_reducible apply OnlyChanges.step State.modQueue_only; on_goal 2 => decide)
    | with_reducible apply only_ite

theorem State.writeQueues_only {u : State} {a1 : ℕ} {a2 : ℕ} {a3 : ℕ} :
    OnlyChanges [.out, .power, .ports, .books, .queues, .triggers, .groups, .events, .stats] u (State.writeQueues u a1
          a2 a3) := by
  unfold State.writeQueues
  repeat' first
    | with_reducible assumption
    | with_reducible apply OnlyChanges.refl
    | (extract_lets +onlyGivenNames y; first | (apply only_cut (v := y); (on_goal 2 => (intro hy; clear_value y)); subst y) | clear_value y | subst y)
    | (with_reducible apply OnlyChanges.step State.writeQueueReg_only; on_goal 2 => decide)
    | (with_reducible apply OnlyChanges.step State.writeDoorbell_only; on_goal 2 => decide)
    | with_reducible apply only_ite

theorem State.writeTrigReg_only {u : State} {a1 : ℕ} {a2 : ℕ} {a3 : ℕ} {a4 : ℕ} :
    OnlyChanges [.power, .ports, .triggers, .groups, .events, .stats] u (State.writeTrigReg u a1 a2 a3 a4) := by
  unfold State.writeTrigReg
  repeat' first
    | with_reducible assumption
    | with_reducible apply OnlyChanges.refl
    | (with_reducible apply OnlyChanges.step State.agentAdd_only; on_goal 2 => decide)
    | (with_reducible apply OnlyChanges.step State.writeTrigger_only; on_goal 2 => decide)
    | with_reducible apply only_ite

theorem State.privWrite_only {u : State} {a1 : ℕ} {a2 : ℕ} {a3 : ℕ} :
    OnlyChanges (.out :: .ident :: .power :: .saved :: .nv :: .clock :: .time :: .cal :: .ports :: .image :: .books ::
          .bookRegs :: .parts :: .host :: .queues :: .triggers :: .groups :: .buckets :: .staging :: .stack ::
          .badUnits :: .units :: .xfers :: .blockCount :: .blockRx :: .flows :: .areas :: .rings :: .events :: .stats
          :: .snaps :: .ctxView :: .recSel :: .maint :: []) u (State.privWrite u a1 a2 a3) := by
  unfold State.privWrite
  repeat' first
    | with_reducible assumption
    | with_reducible apply OnlyChanges.refl
    | (with_reducible apply OnlyChanges.step State.portCtrl_only; on_goal 2 => decide)
    | (with_reducible apply OnlyChanges.step State.writePowerReg_only; on_goal 2 => decide)
    | (with_reducible apply OnlyChanges.step State.writePartReg_only; on_goal 2 => decide)
    | (with_reducible apply OnlyChanges.step State.writeRingReg_only; on_goal 2 => decide)
    | (with_reducible apply OnlyChanges.step State.selectCtx_only; on_goal 2 => decide)
    | (with_reducible apply OnlyChanges.step State.writeCalReg_only; on_goal 2 => decide)
    | (with_reducible apply OnlyChanges.step State.writeSnapReg_only; on_goal 2 => decide)
    | (with_reducible apply OnlyChanges.step State.writeMaintReg_only; on_goal 2 => decide)
    | (with_reducible apply OnlyChanges.step State.writeImageReg_only; on_goal 2 => decide)
    | (with_reducible apply OnlyChanges.step State.writeTrigReg_only; on_goal 2 => decide)
    | (with_reducible apply OnlyChanges.step State.writeWindow_only; on_goal 2 => decide)
    | (with_reducible apply OnlyChanges.step State.clearStats_only; on_goal 2 => decide)
    | (with_reducible apply OnlyChanges.step State.writeGroupReg_only; on_goal 2 => decide)
    | (with_reducible apply OnlyChanges.step State.writeQueues_only; on_goal 2 => decide)
    | (with_reducible apply OnlyChanges.step State.writeTime_only; on_goal 2 => decide)
    | with_reducible apply only_ite
    | ((with_reducible apply only_recSel (h1 := by decide)); first | with_reducible assumption | with_reducible exact OnlyChanges.refl)

theorem State.partWrite_only {u : State} {a1 : ℕ} {a2 : ℕ} {a3 : ℕ} {a4 : ℕ} :
    OnlyChanges [.out, .power, .ports, .books, .queues, .triggers, .groups, .rings, .events, .stats, .snaps] u
          (State.partWrite u a1 a2 a3 a4) := by
  unfold State.partWrite
  repeat' first
    | with_reducible assumption
    | with_reducible apply OnlyChanges.refl
    | (extract_lets +onlyGivenNames y; first | (apply only_cut (v := y); (on_goal 2 => (intro hy; clear_value y)); subst y) | clear_value y | subst y)
    | (with_reducible apply OnlyChanges.step State.writeRingReg_only; on_goal 2 => decide)
    | (with_reducible apply OnlyChanges.step State.writeSnapReg_only; on_goal 2 => decide)
    | (with_reducible apply OnlyChanges.step State.writeTrigReg_only; on_goal 2 => decide)
    | (with_reducible apply OnlyChanges.step State.writeQueues_only; on_goal 2 => decide)
    | with_reducible apply only_ite

theorem State.writeWord_only {u : State} {a1 : ℕ} {a2 : ℕ} {a3 : ℕ} :
    OnlyChanges (.out :: .ident :: .power :: .saved :: .nv :: .clock :: .time :: .cal :: .ports :: .image :: .books ::
          .bookRegs :: .parts :: .host :: .queues :: .triggers :: .groups :: .buckets :: .staging :: .stack ::
          .badUnits :: .units :: .xfers :: .blockCount :: .blockRx :: .flows :: .areas :: .rings :: .events :: .stats
          :: .snaps :: .ctxView :: .recSel :: .maint :: []) u (State.writeWord u a1 a2 a3) := by
  unfold State.writeWord
  repeat' first
    | with_reducible assumption
    | with_reducible apply OnlyChanges.refl
    | (with_reducible apply OnlyChanges.step State.partWrite_only; on_goal 2 => decide)
    | (with_reducible apply OnlyChanges.step State.privWrite_only; on_goal 2 => decide)
    | with_reducible apply only_ite

theorem State.writeQueueBase_only {u : State} {a1 : ℕ} {a2 : ℕ} {a3 : ℕ} :
    OnlyChanges [.queues] u (State.writeQueueBase u a1 a2 a3) := by
  unfold State.writeQueueBase
  repeat' first
    | with_reducible assumption
    | with_reducible apply OnlyChanges.refl
    | (with_reducible apply OnlyChanges.step State.modQueue_only; on_goal 2 => decide)
    | with_reducible apply only_ite
    | split

theorem State.privWide_only {u : State} {a1 : ℕ} {a2 : ℕ} :
    OnlyChanges [.ident, .time, .image, .bookRegs, .queues, .groups, .rings] u (State.privWide u a1 a2) := by
  unfold State.privWide
  repeat' first
    | with_reducible assumption
    | with_reducible apply OnlyChanges.refl
    | (extract_lets +onlyGivenNames y; first | (apply only_cut (v := y); (on_goal 2 => (intro hy; clear_value y)); subst y) | clear_value y | subst y)
    | (with_reducible apply OnlyChanges.step State.modGroup_only; on_goal 2 => decide)
    | (with_reducible apply OnlyChanges.step State.setGroupStep_only; on_goal 2 => decide)
    | (with_reducible apply OnlyChanges.step State.ringBase_only; on_goal 2 => decide)
    | (with_reducible apply OnlyChanges.step State.writeQueueBase_only; on_goal 2 => decide)
    | (with_reducible apply OnlyChanges.step State.setPpsTod_only; on_goal 2 => decide)
    | with_reducible apply only_ite
    | ((with_reducible apply only_ident (h1 := by decide)); first | with_reducible assumption | with_reducible exact OnlyChanges.refl)
    | ((with_reducible apply only_image (h1 := by decide)); first | with_reducible assumption | with_reducible exact OnlyChanges.refl)
    | ((with_reducible apply only_bookRegs (h1 := by decide)); first | with_reducible assumption | with_reducible exact OnlyChanges.refl)

theorem State.writeWide_only {u : State} {a1 : ℕ} {a2 : ℕ} :
    OnlyChanges [.ident, .time, .image, .bookRegs, .queues, .groups, .rings] u (State.writeWide u a1 a2) := by
  unfold State.writeWide
  repeat' first
    | with_reducible assumption
    | with_reducible apply OnlyChanges.refl
    | (extract_lets +onlyGivenNames y; first | (apply only_cut (v := y); (on_goal 2 => (intro hy; clear_value y)); subst y) | clear_value y | subst y)
    | (with_reducible apply OnlyChanges.step State.ringBase_only; on_goal 2 => decide)
    | (with_reducible apply OnlyChanges.step State.writeQueueBase_only; on_goal 2 => decide)
    | (with_reducible apply OnlyChanges.step State.privWide_only; on_goal 2 => decide)
    | with_reducible apply only_ite

theorem State.dropLow_only {u : State} {a1 : ℕ} {a2 : ℕ} :
    OnlyChanges [.host] u (State.dropLow u a1 a2) := by
  unfold State.dropLow
  repeat' first
    | with_reducible assumption
    | with_reducible apply OnlyChanges.refl
    | (extract_lets +onlyGivenNames y; first | (apply only_cut (v := y); (on_goal 2 => (intro hy; clear_value y)); subst y) | clear_value y | subst y)
    | ((with_reducible apply only_host (h1 := by decide)); first | with_reducible assumption | with_reducible exact OnlyChanges.refl)

theorem State.holdLow_only {u : State} {a1 : ℕ} {a2 : ℕ} {a3 : ℕ} :
    OnlyChanges [.host] u (State.holdLow u a1 a2 a3) := by
  unfold State.holdLow
  repeat' first
    | with_reducible assumption
    | with_reducible apply OnlyChanges.refl
    | (extract_lets +onlyGivenNames y; first | (apply only_cut (v := y); (on_goal 2 => (intro hy; clear_value y)); subst y) | clear_value y | subst y)
    | (with_reducible apply OnlyChanges.step State.dropLow_only; on_goal 2 => decide)
    | ((with_reducible apply only_host (h1 := by decide)); first | with_reducible assumption | with_reducible exact OnlyChanges.refl)

theorem State.write32_only {u : State} {a1 : ℕ} {a2 : ℕ} {a3 : ℕ} :
    OnlyChanges (.out :: .ident :: .power :: .saved :: .nv :: .clock :: .time :: .cal :: .ports :: .image :: .books ::
          .bookRegs :: .parts :: .host :: .queues :: .triggers :: .groups :: .buckets :: .staging :: .stack ::
          .badUnits :: .units :: .xfers :: .blockCount :: .blockRx :: .flows :: .areas :: .rings :: .events :: .stats
          :: .snaps :: .ctxView :: .recSel :: .maint :: []) u (State.write32 u a1 a2 a3) := by
  unfold State.write32
  repeat' first
    | with_reducible assumption
    | with_reducible apply OnlyChanges.refl
    | (extract_lets +onlyGivenNames y; first | (apply only_cut (v := y); (on_goal 2 => (intro hy; clear_value y)); subst y) | clear_value y | subst y)
    | (with_reducible apply OnlyChanges.step State.writeWord_only; on_goal 2 => decide)
    | (with_reducible apply OnlyChanges.step State.writeWide_only; on_goal 2 => decide)
    | (with_reducible apply OnlyChanges.step State.dropLow_only; on_goal 2 => decide)
    | (with_reducible apply OnlyChanges.step State.holdLow_only; on_goal 2 => decide)
    | with_reducible apply only_ite

theorem State.write64_only {u : State} {a1 : ℕ} {a2 : ℕ} {a3 : ℕ} :
    OnlyChanges (.out :: .ident :: .power :: .saved :: .nv :: .clock :: .time :: .cal :: .ports :: .image :: .books ::
          .bookRegs :: .parts :: .host :: .queues :: .triggers :: .groups :: .buckets :: .staging :: .stack ::
          .badUnits :: .units :: .xfers :: .blockCount :: .blockRx :: .flows :: .areas :: .rings :: .events :: .stats
          :: .snaps :: .ctxView :: .recSel :: .maint :: []) u (State.write64 u a1 a2 a3) := by
  unfold State.write64
  repeat' first
    | with_reducible assumption
    | with_reducible apply OnlyChanges.refl
    | (with_reducible apply OnlyChanges.step State.writeWord_only; on_goal 2 => decide)
    | (with_reducible apply OnlyChanges.step State.writeWide_only; on_goal 2 => decide)
    | (with_reducible apply OnlyChanges.step State.clearDiag_only; on_goal 2 => decide)
    | (with_reducible apply OnlyChanges.step State.dropLow_only; on_goal 2 => decide)
    | (with_reducible apply OnlyChanges.step State.writeWindow_only; on_goal 2 => decide)
    | with_reducible apply only_ite

theorem State.readEffect_only {u : State} {a1 : ℕ} :
    OnlyChanges [.cal, .snaps] u (State.readEffect u a1) := by
  unfold State.readEffect
  repeat' first
    | with_reducible assumption
    | with_reducible apply OnlyChanges.refl
    | (extract_lets +onlyGivenNames y; first | (apply only_cut (v := y); (on_goal 2 => (intro hy; clear_value y)); subst y) | clear_value y | subst y)
    | (with_reducible apply OnlyChanges.step State.freezeTime_only; on_goal 2 => decide)
    | with_reducible apply only_ite
    | ((with_reducible apply only_cal (h1 := by decide)); first | with_reducible assumption | with_reducible exact OnlyChanges.refl)

theorem State.readReg_only {u : State} {a1 : ℕ} {a2 : ℕ} {a3 : ℕ} :
    OnlyChanges [.out, .cal, .host, .snaps] u (State.readReg u a1 a2 a3) := by
  unfold State.readReg
  repeat' first
    | with_reducible assumption
    | with_reducible apply OnlyChanges.refl
    | (extract_lets +onlyGivenNames y; first | (apply only_cut (v := y); (on_goal 2 => (intro hy; clear_value y)); subst y) | clear_value y | subst y)
    | (with_reducible apply OnlyChanges.step State.touch_only; on_goal 2 => decide)
    | (with_reducible apply OnlyChanges.step State.readEffect_only; on_goal 2 => decide)
    | (with_reducible apply OnlyChanges.step State.emit_only; on_goal 2 => decide)
    | with_reducible apply only_ite
    | ((with_reducible apply only_host (h1 := by decide)); first | with_reducible assumption | with_reducible exact OnlyChanges.refl)
    | split

theorem State.hostWrite_only {u : State} {a1 : ℕ} {a2 : ℕ} {a3 : ℕ} {a4 : ℕ} :
    OnlyChanges (.out :: .ident :: .power :: .saved :: .nv :: .clock :: .time :: .cal :: .ports :: .image :: .books ::
          .bookRegs :: .parts :: .host :: .queues :: .triggers :: .groups :: .buckets :: .staging :: .stack ::
          .badUnits :: .units :: .xfers :: .blockCount :: .blockRx :: .flows :: .areas :: .rings :: .events :: .stats
          :: .snaps :: .ctxView :: .recSel :: .maint :: []) u (State.hostWrite u a1 a2 a3 a4) := by
  unfold State.hostWrite
  repeat' first
    | with_reducible assumption
    | with_reducible apply OnlyChanges.refl
    | (extract_lets +onlyGivenNames y; first | (apply only_cut (v := y); (on_goal 2 => (intro hy; clear_value y)); subst y) | clear_value y | subst y)
    | (with_reducible apply OnlyChanges.step State.touch_only; on_goal 2 => decide)
    | (with_reducible apply OnlyChanges.step State.write32_only; on_goal 2 => decide)
    | (with_reducible apply OnlyChanges.step State.write64_only; on_goal 2 => decide)
    | (with_reducible apply OnlyChanges.step State.violation_only; on_goal 2 => decide)
    | (with_reducible apply OnlyChanges.step State.bumpP_only; on_goal 2 => decide)
    | with_reducible apply only_ite

theorem State.hostRead_only {u : State} {a1 : ℕ} {a2 : ℕ} {a3 : ℕ} :
    OnlyChanges [.out, .cal, .host, .events, .stats, .snaps] u (State.hostRead u a1 a2 a3) := by
  unfold State.hostRead
  repeat' first
    | with_reducible assumption
    | with_reducible apply OnlyChanges.refl
    | (with_reducible apply OnlyChanges.step State.touch_only; on_goal 2 => decide)
    | (with_reducible apply OnlyChanges.step State.readReg_only; on_goal 2 => decide)
    | (with_reducible apply OnlyChanges.step State.violation_only; on_goal 2 => decide)
    | (with_reducible apply OnlyChanges.step State.bumpP_only; on_goal 2 => decide)
    | (with_reducible apply OnlyChanges.step State.emit_only; on_goal 2 => decide)
    | with_reducible apply only_ite

theorem State.holdWrite_only {u : State} {a1 : ℕ} {a2 : ℕ} {a3 : ℕ} {a4 : ℕ} :
    OnlyChanges (.out :: .ident :: .power :: .saved :: .nv :: .clock :: .time :: .cal :: .ports :: .image :: .books ::
          .bookRegs :: .parts :: .host :: .queues :: .triggers :: .groups :: .buckets :: .staging :: .stack ::
          .badUnits :: .units :: .xfers :: .blockCount :: .blockRx :: .flows :: .areas :: .rings :: .events :: .stats
          :: .snaps :: .ctxView :: .recSel :: .maint :: []) u (State.holdWrite u a1 a2 a3 a4) := by
  unfold State.holdWrite
  repeat' first
    | with_reducible assumption
    | with_reducible apply OnlyChanges.refl
    | (extract_lets +onlyGivenNames y; first | (apply only_cut (v := y); (on_goal 2 => (intro hy; clear_value y)); subst y) | clear_value y | subst y)
    | (with_reducible apply OnlyChanges.step State.writePowerCore_only; on_goal 2 => decide)
    | with_reducible apply only_ite

theorem State.holdRead_only {u : State} {a1 : ℕ} {a2 : ℕ} {a3 : ℕ} :
    OnlyChanges [.out] u (State.holdRead u a1 a2 a3) := by
  unfold State.holdRead
  repeat' first
    | with_reducible assumption
    | with_reducible apply OnlyChanges.refl
    | (with_reducible apply OnlyChanges.step State.emit_only; on_goal 2 => decide)
    | with_reducible apply only_ite

theorem execRegisterWrite_only {u t : State} {a0 : ℕ} {a1 : ℕ} {a2 : ℕ} {a3 : Word64} (ht : execRegisterWrite a0 a1 a2
      a3 u = .next t) :
    OnlyChanges (.out :: .ident :: .power :: .saved :: .nv :: .clock :: .time :: .cal :: .ports :: .image :: .books ::
          .bookRegs :: .parts :: .host :: .queues :: .triggers :: .groups :: .buckets :: .staging :: .stack ::
          .badUnits :: .units :: .xfers :: .blockCount :: .blockRx :: .flows :: .areas :: .rings :: .events :: .stats
          :: .snaps :: .ctxView :: .recSel :: .maint :: []) u t := by
  unfold execRegisterWrite at ht
  first | refine whenRunning_only ht ?_ | refine whenAlive_only ht ?_ | (injection ht with ht; subst ht)
  repeat' first
    | with_reducible assumption
    | with_reducible apply OnlyChanges.refl
    | (with_reducible apply OnlyChanges.step State.hostWrite_only; on_goal 2 => decide)
    | (with_reducible apply OnlyChanges.step State.holdWrite_only; on_goal 2 => decide)
    | with_reducible apply only_ite

theorem execRegisterRead_only {u t : State} {a0 : ℕ} {a1 : ℕ} {a2 : ℕ} (ht : execRegisterRead a0 a1 a2 u = .next t) :
    OnlyChanges [.out, .cal, .host, .events, .stats, .snaps] u t := by
  unfold execRegisterRead at ht
  first | refine whenRunning_only ht ?_ | refine whenAlive_only ht ?_ | (injection ht with ht; subst ht)
  repeat' first
    | with_reducible assumption
    | with_reducible apply OnlyChanges.refl
    | (with_reducible apply OnlyChanges.step State.holdRead_only; on_goal 2 => decide)
    | (with_reducible apply OnlyChanges.step State.hostRead_only; on_goal 2 => decide)
    | with_reducible apply only_ite

theorem State.heard_only {u : State} {a1 : ℕ} {a2 : Bytes} :
    OnlyChanges [.ports, .events, .stats] u (State.heard u a1 a2) := by
  unfold State.heard
  repeat' first
    | with_reducible assumption
    | with_reducible apply OnlyChanges.refl
    | (with_reducible apply OnlyChanges.step State.collectRequest_only; on_goal 2 => decide)

end Sys2Proof.Machine
end

