-- ==== Sys2Proof/Laws/State.lean ====
section
/-! SUPPORT. Reading after writing, for tables and for the parts of the state: one lemma per accessor and update, and what
each update leaves alone, true by `rfl`. -/

namespace Sys2Proof.Machine

open Sys2Proof

/-! ### Tables -/

@[simp] theorem Tbl.get_set_same {α : Type} (d : α) (t : Tbl α) (i : Nat) (x : α) : Tbl.get d (t.set i x) i = x := by
  induction t with
  | nil => simp [Tbl.set, Tbl.get]
  | cons e t ih =>
    obtain ⟨k, v⟩ := e
    unfold Tbl.set
    split
    · simp [Tbl.get]
    · split
      · simp [Tbl.get]
      · rename_i h; simp [Tbl.get, h, ih]

theorem Tbl.get_set_other {α : Type} (d : α) (t : Tbl α) {i j : Nat} (x : α) (h : j ≠ i) :
    Tbl.get d (t.set i x) j = Tbl.get d t j := by
  induction t with
  | nil => simp [Tbl.set, Tbl.get, Ne.symm h]
  | cons e t ih =>
    obtain ⟨k, v⟩ := e
    unfold Tbl.set
    split
    · simp [Tbl.get, Ne.symm h]
    · split
      · rename_i h'; subst h'; simp [Tbl.get, Ne.symm h]
      · simp only [Tbl.get, ih]

/-- A table read after a write of one entry. -/
theorem Tbl.get_set {α : Type} (d : α) (t : Tbl α) (i j : Nat) (x : α) :
    Tbl.get d (t.set i x) j = if j = i then x else Tbl.get d t j := by
  split
  · rename_i h; subst h; simp
  · rename_i h; exact Tbl.get_set_other d t x h

namespace State

/-! ### ports -/

@[simp] theorem setPort_port (s : State) (i : Nat) (v : PortState) : (s.setPort i v).port i = v := Tbl.get_set_same _ _ _ _
theorem setPort_port_other (s : State) {i j : Nat} (v : PortState) (h : j ≠ i) : (s.setPort i v).port j = s.port j :=
  Tbl.get_set_other _ _ _ h
@[simp] theorem setPort_pending (s : State) (i : Nat) (v : PortState) : (s.setPort i v).pending = s.pending := rfl
@[simp] theorem setPort_out (s : State) (i : Nat) (v : PortState) : (s.setPort i v).out = s.out := rfl
@[simp] theorem setPort_ident (s : State) (i : Nat) (v : PortState) : (s.setPort i v).ident = s.ident := rfl
@[simp] theorem setPort_power (s : State) (i : Nat) (v : PortState) : (s.setPort i v).power = s.power := rfl
@[simp] theorem setPort_saved (s : State) (i : Nat) (v : PortState) : (s.setPort i v).saved = s.saved := rfl
@[simp] theorem setPort_nv (s : State) (i : Nat) (v : PortState) : (s.setPort i v).nv = s.nv := rfl
@[simp] theorem setPort_time (s : State) (i : Nat) (v : PortState) : (s.setPort i v).time = s.time := rfl
@[simp] theorem setPort_cal (s : State) (i : Nat) (v : PortState) : (s.setPort i v).cal = s.cal := rfl
@[simp] theorem setPort_image (s : State) (i : Nat) (v : PortState) : (s.setPort i v).image = s.image := rfl
@[simp] theorem setPort_books (s : State) (i : Nat) (v : PortState) : (s.setPort i v).books = s.books := rfl
@[simp] theorem setPort_bookRegs (s : State) (i : Nat) (v : PortState) : (s.setPort i v).bookRegs = s.bookRegs := rfl
@[simp] theorem setPort_parts (s : State) (i : Nat) (v : PortState) : (s.setPort i v).parts = s.parts := rfl
@[simp] theorem setPort_host (s : State) (i : Nat) (v : PortState) : (s.setPort i v).host = s.host := rfl
@[simp] theorem setPort_queues (s : State) (i : Nat) (v : PortState) : (s.setPort i v).queues = s.queues := rfl
@[simp] theorem setPort_triggers (s : State) (i : Nat) (v : PortState) : (s.setPort i v).triggers = s.triggers := rfl
@[simp] theorem setPort_groups (s : State) (i : Nat) (v : PortState) : (s.setPort i v).groups = s.groups := rfl
@[simp] theorem setPort_buckets (s : State) (i : Nat) (v : PortState) : (s.setPort i v).buckets = s.buckets := rfl
@[simp] theorem setPort_staging (s : State) (i : Nat) (v : PortState) : (s.setPort i v).staging = s.staging := rfl
@[simp] theorem setPort_stack (s : State) (i : Nat) (v : PortState) : (s.setPort i v).stack = s.stack := rfl
@[simp] theorem setPort_badUnits (s : State) (i : Nat) (v : PortState) : (s.setPort i v).badUnits = s.badUnits := rfl
@[simp] theorem setPort_units (s : State) (i : Nat) (v : PortState) : (s.setPort i v).units = s.units := rfl
@[simp] theorem setPort_xfers (s : State) (i : Nat) (v : PortState) : (s.setPort i v).xfers = s.xfers := rfl
@[simp] theorem setPort_blockCount (s : State) (i : Nat) (v : PortState) : (s.setPort i v).blockCount = s.blockCount := rfl
@[simp] theorem setPort_blockRx (s : State) (i : Nat) (v : PortState) : (s.setPort i v).blockRx = s.blockRx := rfl
@[simp] theorem setPort_flows (s : State) (i : Nat) (v : PortState) : (s.setPort i v).flows = s.flows := rfl
@[simp] theorem setPort_areas (s : State) (i : Nat) (v : PortState) : (s.setPort i v).areas = s.areas := rfl
@[simp] theorem setPort_rings (s : State) (i : Nat) (v : PortState) : (s.setPort i v).rings = s.rings := rfl
@[simp] theorem setPort_events (s : State) (i : Nat) (v : PortState) : (s.setPort i v).events = s.events := rfl
@[simp] theorem setPort_stats (s : State) (i : Nat) (v : PortState) : (s.setPort i v).stats = s.stats := rfl
@[simp] theorem setPort_snaps (s : State) (i : Nat) (v : PortState) : (s.setPort i v).snaps = s.snaps := rfl
@[simp] theorem setPort_ctxView (s : State) (i : Nat) (v : PortState) : (s.setPort i v).ctxView = s.ctxView := rfl
@[simp] theorem setPort_recSel (s : State) (i : Nat) (v : PortState) : (s.setPort i v).recSel = s.recSel := rfl
@[simp] theorem setPort_maint (s : State) (i : Nat) (v : PortState) : (s.setPort i v).maint = s.maint := rfl
@[simp] theorem setPort_tap (s : State) (i : Nat) (v : PortState) : (s.setPort i v).tap = s.tap := rfl
@[simp] theorem setPort_group_of (s : State) (i j : Nat) (v : PortState) : (s.setPort i v).group j = s.group j := rfl
@[simp] theorem setPort_queue_of (s : State) (i j : Nat) (v : PortState) : (s.setPort i v).queue j = s.queue j := rfl
@[simp] theorem setPort_bucket_of (s : State) (i j : Nat) (v : PortState) : (s.setPort i v).bucket j = s.bucket j := rfl
@[simp] theorem setPort_area_of (s : State) (i j : Nat) (v : PortState) : (s.setPort i v).area j = s.area j := rfl
@[simp] theorem setPort_ring_of (s : State) (i j : Nat) (v : PortState) : (s.setPort i v).ring j = s.ring j := rfl
@[simp] theorem setPort_book_of (s : State) (i j : Nat) (v : PortState) : (s.setPort i v).book j = s.book j := rfl
@[simp] theorem setPort_unit_of (s : State) (i j : Nat) (v : PortState) : (s.setPort i v).unit j = s.unit j := rfl
@[simp] theorem setPort_flow_of (s : State) (i j : Nat) (v : PortState) : (s.setPort i v).flow j = s.flow j := rfl
@[simp] theorem setPort_snap_of (s : State) (i j : Nat) (v : PortState) : (s.setPort i v).snap j = s.snap j := rfl

/-! ### groups -/

@[simp] theorem setGroup_group (s : State) (i : Nat) (v : Group) : (s.setGroup i v).group i = v := Tbl.get_set_same _ _ _ _
theorem setGroup_group_other (s : State) {i j : Nat} (v : Group) (h : j ≠ i) : (s.setGroup i v).group j = s.group j :=
  Tbl.get_set_other _ _ _ h
@[simp] theorem setGroup_pending (s : State) (i : Nat) (v : Group) : (s.setGroup i v).pending = s.pending := rfl
@[simp] theorem setGroup_out (s : State) (i : Nat) (v : Group) : (s.setGroup i v).out = s.out := rfl
@[simp] theorem setGroup_ident (s : State) (i : Nat) (v : Group) : (s.setGroup i v).ident = s.ident := rfl
@[simp] theorem setGroup_power (s : State) (i : Nat) (v : Group) : (s.setGroup i v).power = s.power := rfl
@[simp] theorem setGroup_saved (s : State) (i : Nat) (v : Group) : (s.setGroup i v).saved = s.saved := rfl
@[simp] theorem setGroup_nv (s : State) (i : Nat) (v : Group) : (s.setGroup i v).nv = s.nv := rfl
@[simp] theorem setGroup_time (s : State) (i : Nat) (v : Group) : (s.setGroup i v).time = s.time := rfl
@[simp] theorem setGroup_cal (s : State) (i : Nat) (v : Group) : (s.setGroup i v).cal = s.cal := rfl
@[simp] theorem setGroup_ports (s : State) (i : Nat) (v : Group) : (s.setGroup i v).ports = s.ports := rfl
@[simp] theorem setGroup_image (s : State) (i : Nat) (v : Group) : (s.setGroup i v).image = s.image := rfl
@[simp] theorem setGroup_books (s : State) (i : Nat) (v : Group) : (s.setGroup i v).books = s.books := rfl
@[simp] theorem setGroup_bookRegs (s : State) (i : Nat) (v : Group) : (s.setGroup i v).bookRegs = s.bookRegs := rfl
@[simp] theorem setGroup_parts (s : State) (i : Nat) (v : Group) : (s.setGroup i v).parts = s.parts := rfl
@[simp] theorem setGroup_host (s : State) (i : Nat) (v : Group) : (s.setGroup i v).host = s.host := rfl
@[simp] theorem setGroup_queues (s : State) (i : Nat) (v : Group) : (s.setGroup i v).queues = s.queues := rfl
@[simp] theorem setGroup_triggers (s : State) (i : Nat) (v : Group) : (s.setGroup i v).triggers = s.triggers := rfl
@[simp] theorem setGroup_buckets (s : State) (i : Nat) (v : Group) : (s.setGroup i v).buckets = s.buckets := rfl
@[simp] theorem setGroup_staging (s : State) (i : Nat) (v : Group) : (s.setGroup i v).staging = s.staging := rfl
@[simp] theorem setGroup_stack (s : State) (i : Nat) (v : Group) : (s.setGroup i v).stack = s.stack := rfl
@[simp] theorem setGroup_badUnits (s : State) (i : Nat) (v : Group) : (s.setGroup i v).badUnits = s.badUnits := rfl
@[simp] theorem setGroup_units (s : State) (i : Nat) (v : Group) : (s.setGroup i v).units = s.units := rfl
@[simp] theorem setGroup_xfers (s : State) (i : Nat) (v : Group) : (s.setGroup i v).xfers = s.xfers := rfl
@[simp] theorem setGroup_blockCount (s : State) (i : Nat) (v : Group) : (s.setGroup i v).blockCount = s.blockCount := rfl
@[simp] theorem setGroup_blockRx (s : State) (i : Nat) (v : Group) : (s.setGroup i v).blockRx = s.blockRx := rfl
@[simp] theorem setGroup_flows (s : State) (i : Nat) (v : Group) : (s.setGroup i v).flows = s.flows := rfl
@[simp] theorem setGroup_areas (s : State) (i : Nat) (v : Group) : (s.setGroup i v).areas = s.areas := rfl
@[simp] theorem setGroup_rings (s : State) (i : Nat) (v : Group) : (s.setGroup i v).rings = s.rings := rfl
@[simp] theorem setGroup_events (s : State) (i : Nat) (v : Group) : (s.setGroup i v).events = s.events := rfl
@[simp] theorem setGroup_stats (s : State) (i : Nat) (v : Group) : (s.setGroup i v).stats = s.stats := rfl
@[simp] theorem setGroup_snaps (s : State) (i : Nat) (v : Group) : (s.setGroup i v).snaps = s.snaps := rfl
@[simp] theorem setGroup_ctxView (s : State) (i : Nat) (v : Group) : (s.setGroup i v).ctxView = s.ctxView := rfl
@[simp] theorem setGroup_recSel (s : State) (i : Nat) (v : Group) : (s.setGroup i v).recSel = s.recSel := rfl
@[simp] theorem setGroup_maint (s : State) (i : Nat) (v : Group) : (s.setGroup i v).maint = s.maint := rfl
@[simp] theorem setGroup_tap (s : State) (i : Nat) (v : Group) : (s.setGroup i v).tap = s.tap := rfl
@[simp] theorem setGroup_port_of (s : State) (i j : Nat) (v : Group) : (s.setGroup i v).port j = s.port j := rfl
@[simp] theorem setGroup_queue_of (s : State) (i j : Nat) (v : Group) : (s.setGroup i v).queue j = s.queue j := rfl
@[simp] theorem setGroup_bucket_of (s : State) (i j : Nat) (v : Group) : (s.setGroup i v).bucket j = s.bucket j := rfl
@[simp] theorem setGroup_area_of (s : State) (i j : Nat) (v : Group) : (s.setGroup i v).area j = s.area j := rfl
@[simp] theorem setGroup_ring_of (s : State) (i j : Nat) (v : Group) : (s.setGroup i v).ring j = s.ring j := rfl
@[simp] theorem setGroup_book_of (s : State) (i j : Nat) (v : Group) : (s.setGroup i v).book j = s.book j := rfl
@[simp] theorem setGroup_unit_of (s : State) (i j : Nat) (v : Group) : (s.setGroup i v).unit j = s.unit j := rfl
@[simp] theorem setGroup_flow_of (s : State) (i j : Nat) (v : Group) : (s.setGroup i v).flow j = s.flow j := rfl
@[simp] theorem setGroup_snap_of (s : State) (i j : Nat) (v : Group) : (s.setGroup i v).snap j = s.snap j := rfl

/-! ### queues -/

@[simp] theorem setQueue_queue (s : State) (i : Nat) (v : Queue) : (s.setQueue i v).queue i = v := Tbl.get_set_same _ _ _ _
theorem setQueue_queue_other (s : State) {i j : Nat} (v : Queue) (h : j ≠ i) : (s.setQueue i v).queue j = s.queue j :=
  Tbl.get_set_other _ _ _ h
@[simp] theorem setQueue_pending (s : State) (i : Nat) (v : Queue) : (s.setQueue i v).pending = s.pending := rfl
@[simp] theorem setQueue_out (s : State) (i : Nat) (v : Queue) : (s.setQueue i v).out = s.out := rfl
@[simp] theorem setQueue_ident (s : State) (i : Nat) (v : Queue) : (s.setQueue i v).ident = s.ident := rfl
@[simp] theorem setQueue_power (s : State) (i : Nat) (v : Queue) : (s.setQueue i v).power = s.power := rfl
@[simp] theorem setQueue_saved (s : State) (i : Nat) (v : Queue) : (s.setQueue i v).saved = s.saved := rfl
@[simp] theorem setQueue_nv (s : State) (i : Nat) (v : Queue) : (s.setQueue i v).nv = s.nv := rfl
@[simp] theorem setQueue_time (s : State) (i : Nat) (v : Queue) : (s.setQueue i v).time = s.time := rfl
@[simp] theorem setQueue_cal (s : State) (i : Nat) (v : Queue) : (s.setQueue i v).cal = s.cal := rfl
@[simp] theorem setQueue_ports (s : State) (i : Nat) (v : Queue) : (s.setQueue i v).ports = s.ports := rfl
@[simp] theorem setQueue_image (s : State) (i : Nat) (v : Queue) : (s.setQueue i v).image = s.image := rfl
@[simp] theorem setQueue_books (s : State) (i : Nat) (v : Queue) : (s.setQueue i v).books = s.books := rfl
@[simp] theorem setQueue_bookRegs (s : State) (i : Nat) (v : Queue) : (s.setQueue i v).bookRegs = s.bookRegs := rfl
@[simp] theorem setQueue_parts (s : State) (i : Nat) (v : Queue) : (s.setQueue i v).parts = s.parts := rfl
@[simp] theorem setQueue_host (s : State) (i : Nat) (v : Queue) : (s.setQueue i v).host = s.host := rfl
@[simp] theorem setQueue_triggers (s : State) (i : Nat) (v : Queue) : (s.setQueue i v).triggers = s.triggers := rfl
@[simp] theorem setQueue_groups (s : State) (i : Nat) (v : Queue) : (s.setQueue i v).groups = s.groups := rfl
@[simp] theorem setQueue_buckets (s : State) (i : Nat) (v : Queue) : (s.setQueue i v).buckets = s.buckets := rfl
@[simp] theorem setQueue_staging (s : State) (i : Nat) (v : Queue) : (s.setQueue i v).staging = s.staging := rfl
@[simp] theorem setQueue_stack (s : State) (i : Nat) (v : Queue) : (s.setQueue i v).stack = s.stack := rfl
@[simp] theorem setQueue_badUnits (s : State) (i : Nat) (v : Queue) : (s.setQueue i v).badUnits = s.badUnits := rfl
@[simp] theorem setQueue_units (s : State) (i : Nat) (v : Queue) : (s.setQueue i v).units = s.units := rfl
@[simp] theorem setQueue_xfers (s : State) (i : Nat) (v : Queue) : (s.setQueue i v).xfers = s.xfers := rfl
@[simp] theorem setQueue_blockCount (s : State) (i : Nat) (v : Queue) : (s.setQueue i v).blockCount = s.blockCount := rfl
@[simp] theorem setQueue_blockRx (s : State) (i : Nat) (v : Queue) : (s.setQueue i v).blockRx = s.blockRx := rfl
@[simp] theorem setQueue_flows (s : State) (i : Nat) (v : Queue) : (s.setQueue i v).flows = s.flows := rfl
@[simp] theorem setQueue_areas (s : State) (i : Nat) (v : Queue) : (s.setQueue i v).areas = s.areas := rfl
@[simp] theorem setQueue_rings (s : State) (i : Nat) (v : Queue) : (s.setQueue i v).rings = s.rings := rfl
@[simp] theorem setQueue_events (s : State) (i : Nat) (v : Queue) : (s.setQueue i v).events = s.events := rfl
@[simp] theorem setQueue_stats (s : State) (i : Nat) (v : Queue) : (s.setQueue i v).stats = s.stats := rfl
@[simp] theorem setQueue_snaps (s : State) (i : Nat) (v : Queue) : (s.setQueue i v).snaps = s.snaps := rfl
@[simp] theorem setQueue_ctxView (s : State) (i : Nat) (v : Queue) : (s.setQueue i v).ctxView = s.ctxView := rfl
@[simp] theorem setQueue_recSel (s : State) (i : Nat) (v : Queue) : (s.setQueue i v).recSel = s.recSel := rfl
@[simp] theorem setQueue_maint (s : State) (i : Nat) (v : Queue) : (s.setQueue i v).maint = s.maint := rfl
@[simp] theorem setQueue_tap (s : State) (i : Nat) (v : Queue) : (s.setQueue i v).tap = s.tap := rfl
@[simp] theorem setQueue_port_of (s : State) (i j : Nat) (v : Queue) : (s.setQueue i v).port j = s.port j := rfl
@[simp] theorem setQueue_group_of (s : State) (i j : Nat) (v : Queue) : (s.setQueue i v).group j = s.group j := rfl
@[simp] theorem setQueue_bucket_of (s : State) (i j : Nat) (v : Queue) : (s.setQueue i v).bucket j = s.bucket j := rfl
@[simp] theorem setQueue_area_of (s : State) (i j : Nat) (v : Queue) : (s.setQueue i v).area j = s.area j := rfl
@[simp] theorem setQueue_ring_of (s : State) (i j : Nat) (v : Queue) : (s.setQueue i v).ring j = s.ring j := rfl
@[simp] theorem setQueue_book_of (s : State) (i j : Nat) (v : Queue) : (s.setQueue i v).book j = s.book j := rfl
@[simp] theorem setQueue_unit_of (s : State) (i j : Nat) (v : Queue) : (s.setQueue i v).unit j = s.unit j := rfl
@[simp] theorem setQueue_flow_of (s : State) (i j : Nat) (v : Queue) : (s.setQueue i v).flow j = s.flow j := rfl
@[simp] theorem setQueue_snap_of (s : State) (i j : Nat) (v : Queue) : (s.setQueue i v).snap j = s.snap j := rfl

/-! ### buckets -/

@[simp] theorem setBucket_bucket (s : State) (i : Nat) (v : BucketState) : (s.setBucket i v).bucket i = v := Tbl.get_set_same _ _ _ _
theorem setBucket_bucket_other (s : State) {i j : Nat} (v : BucketState) (h : j ≠ i) : (s.setBucket i v).bucket j = s.bucket j :=
  Tbl.get_set_other _ _ _ h
@[simp] theorem setBucket_pending (s : State) (i : Nat) (v : BucketState) : (s.setBucket i v).pending = s.pending := rfl
@[simp] theorem setBucket_out (s : State) (i : Nat) (v : BucketState) : (s.setBucket i v).out = s.out := rfl
@[simp] theorem setBucket_ident (s : State) (i : Nat) (v : BucketState) : (s.setBucket i v).ident = s.ident := rfl
@[simp] theorem setBucket_power (s : State) (i : Nat) (v : BucketState) : (s.setBucket i v).power = s.power := rfl
@[simp] theorem setBucket_saved (s : State) (i : Nat) (v : BucketState) : (s.setBucket i v).saved = s.saved := rfl
@[simp] theorem setBucket_nv (s : State) (i : Nat) (v : BucketState) : (s.setBucket i v).nv = s.nv := rfl
@[simp] theorem setBucket_time (s : State) (i : Nat) (v : BucketState) : (s.setBucket i v).time = s.time := rfl
@[simp] theorem setBucket_cal (s : State) (i : Nat) (v : BucketState) : (s.setBucket i v).cal = s.cal := rfl
@[simp] theorem setBucket_ports (s : State) (i : Nat) (v : BucketState) : (s.setBucket i v).ports = s.ports := rfl
@[simp] theorem setBucket_image (s : State) (i : Nat) (v : BucketState) : (s.setBucket i v).image = s.image := rfl
@[simp] theorem setBucket_books (s : State) (i : Nat) (v : BucketState) : (s.setBucket i v).books = s.books := rfl
@[simp] theorem setBucket_bookRegs (s : State) (i : Nat) (v : BucketState) : (s.setBucket i v).bookRegs = s.bookRegs := rfl
@[simp] theorem setBucket_parts (s : State) (i : Nat) (v : BucketState) : (s.setBucket i v).parts = s.parts := rfl
@[simp] theorem setBucket_host (s : State) (i : Nat) (v : BucketState) : (s.setBucket i v).host = s.host := rfl
@[simp] theorem setBucket_queues (s : State) (i : Nat) (v : BucketState) : (s.setBucket i v).queues = s.queues := rfl
@[simp] theorem setBucket_triggers (s : State) (i : Nat) (v : BucketState) : (s.setBucket i v).triggers = s.triggers := rfl
@[simp] theorem setBucket_groups (s : State) (i : Nat) (v : BucketState) : (s.setBucket i v).groups = s.groups := rfl
@[simp] theorem setBucket_staging (s : State) (i : Nat) (v : BucketState) : (s.setBucket i v).staging = s.staging := rfl
@[simp] theorem setBucket_stack (s : State) (i : Nat) (v : BucketState) : (s.setBucket i v).stack = s.stack := rfl
@[simp] theorem setBucket_badUnits (s : State) (i : Nat) (v : BucketState) : (s.setBucket i v).badUnits = s.badUnits := rfl
@[simp] theorem setBucket_units (s : State) (i : Nat) (v : BucketState) : (s.setBucket i v).units = s.units := rfl
@[simp] theorem setBucket_xfers (s : State) (i : Nat) (v : BucketState) : (s.setBucket i v).xfers = s.xfers := rfl
@[simp] theorem setBucket_blockCount (s : State) (i : Nat) (v : BucketState) : (s.setBucket i v).blockCount = s.blockCount := rfl
@[simp] theorem setBucket_blockRx (s : State) (i : Nat) (v : BucketState) : (s.setBucket i v).blockRx = s.blockRx := rfl
@[simp] theorem setBucket_flows (s : State) (i : Nat) (v : BucketState) : (s.setBucket i v).flows = s.flows := rfl
@[simp] theorem setBucket_areas (s : State) (i : Nat) (v : BucketState) : (s.setBucket i v).areas = s.areas := rfl
@[simp] theorem setBucket_rings (s : State) (i : Nat) (v : BucketState) : (s.setBucket i v).rings = s.rings := rfl
@[simp] theorem setBucket_events (s : State) (i : Nat) (v : BucketState) : (s.setBucket i v).events = s.events := rfl
@[simp] theorem setBucket_stats (s : State) (i : Nat) (v : BucketState) : (s.setBucket i v).stats = s.stats := rfl
@[simp] theorem setBucket_snaps (s : State) (i : Nat) (v : BucketState) : (s.setBucket i v).snaps = s.snaps := rfl
@[simp] theorem setBucket_ctxView (s : State) (i : Nat) (v : BucketState) : (s.setBucket i v).ctxView = s.ctxView := rfl
@[simp] theorem setBucket_recSel (s : State) (i : Nat) (v : BucketState) : (s.setBucket i v).recSel = s.recSel := rfl
@[simp] theorem setBucket_maint (s : State) (i : Nat) (v : BucketState) : (s.setBucket i v).maint = s.maint := rfl
@[simp] theorem setBucket_tap (s : State) (i : Nat) (v : BucketState) : (s.setBucket i v).tap = s.tap := rfl
@[simp] theorem setBucket_port_of (s : State) (i j : Nat) (v : BucketState) : (s.setBucket i v).port j = s.port j := rfl
@[simp] theorem setBucket_group_of (s : State) (i j : Nat) (v : BucketState) : (s.setBucket i v).group j = s.group j := rfl
@[simp] theorem setBucket_queue_of (s : State) (i j : Nat) (v : BucketState) : (s.setBucket i v).queue j = s.queue j := rfl
@[simp] theorem setBucket_area_of (s : State) (i j : Nat) (v : BucketState) : (s.setBucket i v).area j = s.area j := rfl
@[simp] theorem setBucket_ring_of (s : State) (i j : Nat) (v : BucketState) : (s.setBucket i v).ring j = s.ring j := rfl
@[simp] theorem setBucket_book_of (s : State) (i j : Nat) (v : BucketState) : (s.setBucket i v).book j = s.book j := rfl
@[simp] theorem setBucket_unit_of (s : State) (i j : Nat) (v : BucketState) : (s.setBucket i v).unit j = s.unit j := rfl
@[simp] theorem setBucket_flow_of (s : State) (i j : Nat) (v : BucketState) : (s.setBucket i v).flow j = s.flow j := rfl
@[simp] theorem setBucket_snap_of (s : State) (i j : Nat) (v : BucketState) : (s.setBucket i v).snap j = s.snap j := rfl

/-! ### areas -/

@[simp] theorem setArea_area (s : State) (i : Nat) (v : Area) : (s.setArea i v).area i = v := Tbl.get_set_same _ _ _ _
theorem setArea_area_other (s : State) {i j : Nat} (v : Area) (h : j ≠ i) : (s.setArea i v).area j = s.area j :=
  Tbl.get_set_other _ _ _ h
@[simp] theorem setArea_pending (s : State) (i : Nat) (v : Area) : (s.setArea i v).pending = s.pending := rfl
@[simp] theorem setArea_out (s : State) (i : Nat) (v : Area) : (s.setArea i v).out = s.out := rfl
@[simp] theorem setArea_ident (s : State) (i : Nat) (v : Area) : (s.setArea i v).ident = s.ident := rfl
@[simp] theorem setArea_power (s : State) (i : Nat) (v : Area) : (s.setArea i v).power = s.power := rfl
@[simp] theorem setArea_saved (s : State) (i : Nat) (v : Area) : (s.setArea i v).saved = s.saved := rfl
@[simp] theorem setArea_nv (s : State) (i : Nat) (v : Area) : (s.setArea i v).nv = s.nv := rfl
@[simp] theorem setArea_time (s : State) (i : Nat) (v : Area) : (s.setArea i v).time = s.time := rfl
@[simp] theorem setArea_cal (s : State) (i : Nat) (v : Area) : (s.setArea i v).cal = s.cal := rfl
@[simp] theorem setArea_ports (s : State) (i : Nat) (v : Area) : (s.setArea i v).ports = s.ports := rfl
@[simp] theorem setArea_image (s : State) (i : Nat) (v : Area) : (s.setArea i v).image = s.image := rfl
@[simp] theorem setArea_books (s : State) (i : Nat) (v : Area) : (s.setArea i v).books = s.books := rfl
@[simp] theorem setArea_bookRegs (s : State) (i : Nat) (v : Area) : (s.setArea i v).bookRegs = s.bookRegs := rfl
@[simp] theorem setArea_parts (s : State) (i : Nat) (v : Area) : (s.setArea i v).parts = s.parts := rfl
@[simp] theorem setArea_host (s : State) (i : Nat) (v : Area) : (s.setArea i v).host = s.host := rfl
@[simp] theorem setArea_queues (s : State) (i : Nat) (v : Area) : (s.setArea i v).queues = s.queues := rfl
@[simp] theorem setArea_triggers (s : State) (i : Nat) (v : Area) : (s.setArea i v).triggers = s.triggers := rfl
@[simp] theorem setArea_groups (s : State) (i : Nat) (v : Area) : (s.setArea i v).groups = s.groups := rfl
@[simp] theorem setArea_buckets (s : State) (i : Nat) (v : Area) : (s.setArea i v).buckets = s.buckets := rfl
@[simp] theorem setArea_staging (s : State) (i : Nat) (v : Area) : (s.setArea i v).staging = s.staging := rfl
@[simp] theorem setArea_stack (s : State) (i : Nat) (v : Area) : (s.setArea i v).stack = s.stack := rfl
@[simp] theorem setArea_badUnits (s : State) (i : Nat) (v : Area) : (s.setArea i v).badUnits = s.badUnits := rfl
@[simp] theorem setArea_units (s : State) (i : Nat) (v : Area) : (s.setArea i v).units = s.units := rfl
@[simp] theorem setArea_xfers (s : State) (i : Nat) (v : Area) : (s.setArea i v).xfers = s.xfers := rfl
@[simp] theorem setArea_blockCount (s : State) (i : Nat) (v : Area) : (s.setArea i v).blockCount = s.blockCount := rfl
@[simp] theorem setArea_blockRx (s : State) (i : Nat) (v : Area) : (s.setArea i v).blockRx = s.blockRx := rfl
@[simp] theorem setArea_flows (s : State) (i : Nat) (v : Area) : (s.setArea i v).flows = s.flows := rfl
@[simp] theorem setArea_rings (s : State) (i : Nat) (v : Area) : (s.setArea i v).rings = s.rings := rfl
@[simp] theorem setArea_events (s : State) (i : Nat) (v : Area) : (s.setArea i v).events = s.events := rfl
@[simp] theorem setArea_stats (s : State) (i : Nat) (v : Area) : (s.setArea i v).stats = s.stats := rfl
@[simp] theorem setArea_snaps (s : State) (i : Nat) (v : Area) : (s.setArea i v).snaps = s.snaps := rfl
@[simp] theorem setArea_ctxView (s : State) (i : Nat) (v : Area) : (s.setArea i v).ctxView = s.ctxView := rfl
@[simp] theorem setArea_recSel (s : State) (i : Nat) (v : Area) : (s.setArea i v).recSel = s.recSel := rfl
@[simp] theorem setArea_maint (s : State) (i : Nat) (v : Area) : (s.setArea i v).maint = s.maint := rfl
@[simp] theorem setArea_tap (s : State) (i : Nat) (v : Area) : (s.setArea i v).tap = s.tap := rfl
@[simp] theorem setArea_port_of (s : State) (i j : Nat) (v : Area) : (s.setArea i v).port j = s.port j := rfl
@[simp] theorem setArea_group_of (s : State) (i j : Nat) (v : Area) : (s.setArea i v).group j = s.group j := rfl
@[simp] theorem setArea_queue_of (s : State) (i j : Nat) (v : Area) : (s.setArea i v).queue j = s.queue j := rfl
@[simp] theorem setArea_bucket_of (s : State) (i j : Nat) (v : Area) : (s.setArea i v).bucket j = s.bucket j := rfl
@[simp] theorem setArea_ring_of (s : State) (i j : Nat) (v : Area) : (s.setArea i v).ring j = s.ring j := rfl
@[simp] theorem setArea_book_of (s : State) (i j : Nat) (v : Area) : (s.setArea i v).book j = s.book j := rfl
@[simp] theorem setArea_unit_of (s : State) (i j : Nat) (v : Area) : (s.setArea i v).unit j = s.unit j := rfl
@[simp] theorem setArea_flow_of (s : State) (i j : Nat) (v : Area) : (s.setArea i v).flow j = s.flow j := rfl
@[simp] theorem setArea_snap_of (s : State) (i j : Nat) (v : Area) : (s.setArea i v).snap j = s.snap j := rfl

/-! ### rings -/

@[simp] theorem setRing_ring (s : State) (i : Nat) (v : EventRing) : (s.setRing i v).ring i = v := Tbl.get_set_same _ _ _ _
theorem setRing_ring_other (s : State) {i j : Nat} (v : EventRing) (h : j ≠ i) : (s.setRing i v).ring j = s.ring j :=
  Tbl.get_set_other _ _ _ h
@[simp] theorem setRing_pending (s : State) (i : Nat) (v : EventRing) : (s.setRing i v).pending = s.pending := rfl
@[simp] theorem setRing_out (s : State) (i : Nat) (v : EventRing) : (s.setRing i v).out = s.out := rfl
@[simp] theorem setRing_ident (s : State) (i : Nat) (v : EventRing) : (s.setRing i v).ident = s.ident := rfl
@[simp] theorem setRing_power (s : State) (i : Nat) (v : EventRing) : (s.setRing i v).power = s.power := rfl
@[simp] theorem setRing_saved (s : State) (i : Nat) (v : EventRing) : (s.setRing i v).saved = s.saved := rfl
@[simp] theorem setRing_nv (s : State) (i : Nat) (v : EventRing) : (s.setRing i v).nv = s.nv := rfl
@[simp] theorem setRing_time (s : State) (i : Nat) (v : EventRing) : (s.setRing i v).time = s.time := rfl
@[simp] theorem setRing_cal (s : State) (i : Nat) (v : EventRing) : (s.setRing i v).cal = s.cal := rfl
@[simp] theorem setRing_ports (s : State) (i : Nat) (v : EventRing) : (s.setRing i v).ports = s.ports := rfl
@[simp] theorem setRing_image (s : State) (i : Nat) (v : EventRing) : (s.setRing i v).image = s.image := rfl
@[simp] theorem setRing_books (s : State) (i : Nat) (v : EventRing) : (s.setRing i v).books = s.books := rfl
@[simp] theorem setRing_bookRegs (s : State) (i : Nat) (v : EventRing) : (s.setRing i v).bookRegs = s.bookRegs := rfl
@[simp] theorem setRing_parts (s : State) (i : Nat) (v : EventRing) : (s.setRing i v).parts = s.parts := rfl
@[simp] theorem setRing_host (s : State) (i : Nat) (v : EventRing) : (s.setRing i v).host = s.host := rfl
@[simp] theorem setRing_queues (s : State) (i : Nat) (v : EventRing) : (s.setRing i v).queues = s.queues := rfl
@[simp] theorem setRing_triggers (s : State) (i : Nat) (v : EventRing) : (s.setRing i v).triggers = s.triggers := rfl
@[simp] theorem setRing_groups (s : State) (i : Nat) (v : EventRing) : (s.setRing i v).groups = s.groups := rfl
@[simp] theorem setRing_buckets (s : State) (i : Nat) (v : EventRing) : (s.setRing i v).buckets = s.buckets := rfl
@[simp] theorem setRing_staging (s : State) (i : Nat) (v : EventRing) : (s.setRing i v).staging = s.staging := rfl
@[simp] theorem setRing_stack (s : State) (i : Nat) (v : EventRing) : (s.setRing i v).stack = s.stack := rfl
@[simp] theorem setRing_badUnits (s : State) (i : Nat) (v : EventRing) : (s.setRing i v).badUnits = s.badUnits := rfl
@[simp] theorem setRing_units (s : State) (i : Nat) (v : EventRing) : (s.setRing i v).units = s.units := rfl
@[simp] theorem setRing_xfers (s : State) (i : Nat) (v : EventRing) : (s.setRing i v).xfers = s.xfers := rfl
@[simp] theorem setRing_blockCount (s : State) (i : Nat) (v : EventRing) : (s.setRing i v).blockCount = s.blockCount := rfl
@[simp] theorem setRing_blockRx (s : State) (i : Nat) (v : EventRing) : (s.setRing i v).blockRx = s.blockRx := rfl
@[simp] theorem setRing_flows (s : State) (i : Nat) (v : EventRing) : (s.setRing i v).flows = s.flows := rfl
@[simp] theorem setRing_areas (s : State) (i : Nat) (v : EventRing) : (s.setRing i v).areas = s.areas := rfl
@[simp] theorem setRing_events (s : State) (i : Nat) (v : EventRing) : (s.setRing i v).events = s.events := rfl
@[simp] theorem setRing_stats (s : State) (i : Nat) (v : EventRing) : (s.setRing i v).stats = s.stats := rfl
@[simp] theorem setRing_snaps (s : State) (i : Nat) (v : EventRing) : (s.setRing i v).snaps = s.snaps := rfl
@[simp] theorem setRing_ctxView (s : State) (i : Nat) (v : EventRing) : (s.setRing i v).ctxView = s.ctxView := rfl
@[simp] theorem setRing_recSel (s : State) (i : Nat) (v : EventRing) : (s.setRing i v).recSel = s.recSel := rfl
@[simp] theorem setRing_maint (s : State) (i : Nat) (v : EventRing) : (s.setRing i v).maint = s.maint := rfl
@[simp] theorem setRing_tap (s : State) (i : Nat) (v : EventRing) : (s.setRing i v).tap = s.tap := rfl
@[simp] theorem setRing_port_of (s : State) (i j : Nat) (v : EventRing) : (s.setRing i v).port j = s.port j := rfl
@[simp] theorem setRing_group_of (s : State) (i j : Nat) (v : EventRing) : (s.setRing i v).group j = s.group j := rfl
@[simp] theorem setRing_queue_of (s : State) (i j : Nat) (v : EventRing) : (s.setRing i v).queue j = s.queue j := rfl
@[simp] theorem setRing_bucket_of (s : State) (i j : Nat) (v : EventRing) : (s.setRing i v).bucket j = s.bucket j := rfl
@[simp] theorem setRing_area_of (s : State) (i j : Nat) (v : EventRing) : (s.setRing i v).area j = s.area j := rfl
@[simp] theorem setRing_book_of (s : State) (i j : Nat) (v : EventRing) : (s.setRing i v).book j = s.book j := rfl
@[simp] theorem setRing_unit_of (s : State) (i j : Nat) (v : EventRing) : (s.setRing i v).unit j = s.unit j := rfl
@[simp] theorem setRing_flow_of (s : State) (i j : Nat) (v : EventRing) : (s.setRing i v).flow j = s.flow j := rfl
@[simp] theorem setRing_snap_of (s : State) (i j : Nat) (v : EventRing) : (s.setRing i v).snap j = s.snap j := rfl

/-! ### books -/

@[simp] theorem setBook_book (s : State) (i : Nat) (v : Codebook) : (s.setBook i v).book i = v := Tbl.get_set_same _ _ _ _
theorem setBook_book_other (s : State) {i j : Nat} (v : Codebook) (h : j ≠ i) : (s.setBook i v).book j = s.book j :=
  Tbl.get_set_other _ _ _ h
@[simp] theorem setBook_pending (s : State) (i : Nat) (v : Codebook) : (s.setBook i v).pending = s.pending := rfl
@[simp] theorem setBook_out (s : State) (i : Nat) (v : Codebook) : (s.setBook i v).out = s.out := rfl
@[simp] theorem setBook_ident (s : State) (i : Nat) (v : Codebook) : (s.setBook i v).ident = s.ident := rfl
@[simp] theorem setBook_power (s : State) (i : Nat) (v : Codebook) : (s.setBook i v).power = s.power := rfl
@[simp] theorem setBook_saved (s : State) (i : Nat) (v : Codebook) : (s.setBook i v).saved = s.saved := rfl
@[simp] theorem setBook_nv (s : State) (i : Nat) (v : Codebook) : (s.setBook i v).nv = s.nv := rfl
@[simp] theorem setBook_time (s : State) (i : Nat) (v : Codebook) : (s.setBook i v).time = s.time := rfl
@[simp] theorem setBook_cal (s : State) (i : Nat) (v : Codebook) : (s.setBook i v).cal = s.cal := rfl
@[simp] theorem setBook_ports (s : State) (i : Nat) (v : Codebook) : (s.setBook i v).ports = s.ports := rfl
@[simp] theorem setBook_image (s : State) (i : Nat) (v : Codebook) : (s.setBook i v).image = s.image := rfl
@[simp] theorem setBook_bookRegs (s : State) (i : Nat) (v : Codebook) : (s.setBook i v).bookRegs = s.bookRegs := rfl
@[simp] theorem setBook_parts (s : State) (i : Nat) (v : Codebook) : (s.setBook i v).parts = s.parts := rfl
@[simp] theorem setBook_host (s : State) (i : Nat) (v : Codebook) : (s.setBook i v).host = s.host := rfl
@[simp] theorem setBook_queues (s : State) (i : Nat) (v : Codebook) : (s.setBook i v).queues = s.queues := rfl
@[simp] theorem setBook_triggers (s : State) (i : Nat) (v : Codebook) : (s.setBook i v).triggers = s.triggers := rfl
@[simp] theorem setBook_groups (s : State) (i : Nat) (v : Codebook) : (s.setBook i v).groups = s.groups := rfl
@[simp] theorem setBook_buckets (s : State) (i : Nat) (v : Codebook) : (s.setBook i v).buckets = s.buckets := rfl
@[simp] theorem setBook_staging (s : State) (i : Nat) (v : Codebook) : (s.setBook i v).staging = s.staging := rfl
@[simp] theorem setBook_stack (s : State) (i : Nat) (v : Codebook) : (s.setBook i v).stack = s.stack := rfl
@[simp] theorem setBook_badUnits (s : State) (i : Nat) (v : Codebook) : (s.setBook i v).badUnits = s.badUnits := rfl
@[simp] theorem setBook_units (s : State) (i : Nat) (v : Codebook) : (s.setBook i v).units = s.units := rfl
@[simp] theorem setBook_xfers (s : State) (i : Nat) (v : Codebook) : (s.setBook i v).xfers = s.xfers := rfl
@[simp] theorem setBook_blockCount (s : State) (i : Nat) (v : Codebook) : (s.setBook i v).blockCount = s.blockCount := rfl
@[simp] theorem setBook_blockRx (s : State) (i : Nat) (v : Codebook) : (s.setBook i v).blockRx = s.blockRx := rfl
@[simp] theorem setBook_flows (s : State) (i : Nat) (v : Codebook) : (s.setBook i v).flows = s.flows := rfl
@[simp] theorem setBook_areas (s : State) (i : Nat) (v : Codebook) : (s.setBook i v).areas = s.areas := rfl
@[simp] theorem setBook_rings (s : State) (i : Nat) (v : Codebook) : (s.setBook i v).rings = s.rings := rfl
@[simp] theorem setBook_events (s : State) (i : Nat) (v : Codebook) : (s.setBook i v).events = s.events := rfl
@[simp] theorem setBook_stats (s : State) (i : Nat) (v : Codebook) : (s.setBook i v).stats = s.stats := rfl
@[simp] theorem setBook_snaps (s : State) (i : Nat) (v : Codebook) : (s.setBook i v).snaps = s.snaps := rfl
@[simp] theorem setBook_ctxView (s : State) (i : Nat) (v : Codebook) : (s.setBook i v).ctxView = s.ctxView := rfl
@[simp] theorem setBook_recSel (s : State) (i : Nat) (v : Codebook) : (s.setBook i v).recSel = s.recSel := rfl
@[simp] theorem setBook_maint (s : State) (i : Nat) (v : Codebook) : (s.setBook i v).maint = s.maint := rfl
@[simp] theorem setBook_tap (s : State) (i : Nat) (v : Codebook) : (s.setBook i v).tap = s.tap := rfl
@[simp] theorem setBook_port_of (s : State) (i j : Nat) (v : Codebook) : (s.setBook i v).port j = s.port j := rfl
@[simp] theorem setBook_group_of (s : State) (i j : Nat) (v : Codebook) : (s.setBook i v).group j = s.group j := rfl
@[simp] theorem setBook_queue_of (s : State) (i j : Nat) (v : Codebook) : (s.setBook i v).queue j = s.queue j := rfl
@[simp] theorem setBook_bucket_of (s : State) (i j : Nat) (v : Codebook) : (s.setBook i v).bucket j = s.bucket j := rfl
@[simp] theorem setBook_area_of (s : State) (i j : Nat) (v : Codebook) : (s.setBook i v).area j = s.area j := rfl
@[simp] theorem setBook_ring_of (s : State) (i j : Nat) (v : Codebook) : (s.setBook i v).ring j = s.ring j := rfl
@[simp] theorem setBook_unit_of (s : State) (i j : Nat) (v : Codebook) : (s.setBook i v).unit j = s.unit j := rfl
@[simp] theorem setBook_flow_of (s : State) (i j : Nat) (v : Codebook) : (s.setBook i v).flow j = s.flow j := rfl
@[simp] theorem setBook_snap_of (s : State) (i j : Nat) (v : Codebook) : (s.setBook i v).snap j = s.snap j := rfl

/-! ### units -/

@[simp] theorem setUnit_unit (s : State) (i : Nat) (v : UpdateUnit) : (s.setUnit i v).unit i = v := Tbl.get_set_same _ _ _ _
theorem setUnit_unit_other (s : State) {i j : Nat} (v : UpdateUnit) (h : j ≠ i) : (s.setUnit i v).unit j = s.unit j :=
  Tbl.get_set_other _ _ _ h
@[simp] theorem setUnit_pending (s : State) (i : Nat) (v : UpdateUnit) : (s.setUnit i v).pending = s.pending := rfl
@[simp] theorem setUnit_out (s : State) (i : Nat) (v : UpdateUnit) : (s.setUnit i v).out = s.out := rfl
@[simp] theorem setUnit_ident (s : State) (i : Nat) (v : UpdateUnit) : (s.setUnit i v).ident = s.ident := rfl
@[simp] theorem setUnit_power (s : State) (i : Nat) (v : UpdateUnit) : (s.setUnit i v).power = s.power := rfl
@[simp] theorem setUnit_saved (s : State) (i : Nat) (v : UpdateUnit) : (s.setUnit i v).saved = s.saved := rfl
@[simp] theorem setUnit_nv (s : State) (i : Nat) (v : UpdateUnit) : (s.setUnit i v).nv = s.nv := rfl
@[simp] theorem setUnit_time (s : State) (i : Nat) (v : UpdateUnit) : (s.setUnit i v).time = s.time := rfl
@[simp] theorem setUnit_cal (s : State) (i : Nat) (v : UpdateUnit) : (s.setUnit i v).cal = s.cal := rfl
@[simp] theorem setUnit_ports (s : State) (i : Nat) (v : UpdateUnit) : (s.setUnit i v).ports = s.ports := rfl
@[simp] theorem setUnit_image (s : State) (i : Nat) (v : UpdateUnit) : (s.setUnit i v).image = s.image := rfl
@[simp] theorem setUnit_books (s : State) (i : Nat) (v : UpdateUnit) : (s.setUnit i v).books = s.books := rfl
@[simp] theorem setUnit_bookRegs (s : State) (i : Nat) (v : UpdateUnit) : (s.setUnit i v).bookRegs = s.bookRegs := rfl
@[simp] theorem setUnit_parts (s : State) (i : Nat) (v : UpdateUnit) : (s.setUnit i v).parts = s.parts := rfl
@[simp] theorem setUnit_host (s : State) (i : Nat) (v : UpdateUnit) : (s.setUnit i v).host = s.host := rfl
@[simp] theorem setUnit_queues (s : State) (i : Nat) (v : UpdateUnit) : (s.setUnit i v).queues = s.queues := rfl
@[simp] theorem setUnit_triggers (s : State) (i : Nat) (v : UpdateUnit) : (s.setUnit i v).triggers = s.triggers := rfl
@[simp] theorem setUnit_groups (s : State) (i : Nat) (v : UpdateUnit) : (s.setUnit i v).groups = s.groups := rfl
@[simp] theorem setUnit_buckets (s : State) (i : Nat) (v : UpdateUnit) : (s.setUnit i v).buckets = s.buckets := rfl
@[simp] theorem setUnit_staging (s : State) (i : Nat) (v : UpdateUnit) : (s.setUnit i v).staging = s.staging := rfl
@[simp] theorem setUnit_stack (s : State) (i : Nat) (v : UpdateUnit) : (s.setUnit i v).stack = s.stack := rfl
@[simp] theorem setUnit_badUnits (s : State) (i : Nat) (v : UpdateUnit) : (s.setUnit i v).badUnits = s.badUnits := rfl
@[simp] theorem setUnit_xfers (s : State) (i : Nat) (v : UpdateUnit) : (s.setUnit i v).xfers = s.xfers := rfl
@[simp] theorem setUnit_blockCount (s : State) (i : Nat) (v : UpdateUnit) : (s.setUnit i v).blockCount = s.blockCount := rfl
@[simp] theorem setUnit_blockRx (s : State) (i : Nat) (v : UpdateUnit) : (s.setUnit i v).blockRx = s.blockRx := rfl
@[simp] theorem setUnit_flows (s : State) (i : Nat) (v : UpdateUnit) : (s.setUnit i v).flows = s.flows := rfl
@[simp] theorem setUnit_areas (s : State) (i : Nat) (v : UpdateUnit) : (s.setUnit i v).areas = s.areas := rfl
@[simp] theorem setUnit_rings (s : State) (i : Nat) (v : UpdateUnit) : (s.setUnit i v).rings = s.rings := rfl
@[simp] theorem setUnit_events (s : State) (i : Nat) (v : UpdateUnit) : (s.setUnit i v).events = s.events := rfl
@[simp] theorem setUnit_stats (s : State) (i : Nat) (v : UpdateUnit) : (s.setUnit i v).stats = s.stats := rfl
@[simp] theorem setUnit_snaps (s : State) (i : Nat) (v : UpdateUnit) : (s.setUnit i v).snaps = s.snaps := rfl
@[simp] theorem setUnit_ctxView (s : State) (i : Nat) (v : UpdateUnit) : (s.setUnit i v).ctxView = s.ctxView := rfl
@[simp] theorem setUnit_recSel (s : State) (i : Nat) (v : UpdateUnit) : (s.setUnit i v).recSel = s.recSel := rfl
@[simp] theorem setUnit_maint (s : State) (i : Nat) (v : UpdateUnit) : (s.setUnit i v).maint = s.maint := rfl
@[simp] theorem setUnit_tap (s : State) (i : Nat) (v : UpdateUnit) : (s.setUnit i v).tap = s.tap := rfl
@[simp] theorem setUnit_port_of (s : State) (i j : Nat) (v : UpdateUnit) : (s.setUnit i v).port j = s.port j := rfl
@[simp] theorem setUnit_group_of (s : State) (i j : Nat) (v : UpdateUnit) : (s.setUnit i v).group j = s.group j := rfl
@[simp] theorem setUnit_queue_of (s : State) (i j : Nat) (v : UpdateUnit) : (s.setUnit i v).queue j = s.queue j := rfl
@[simp] theorem setUnit_bucket_of (s : State) (i j : Nat) (v : UpdateUnit) : (s.setUnit i v).bucket j = s.bucket j := rfl
@[simp] theorem setUnit_area_of (s : State) (i j : Nat) (v : UpdateUnit) : (s.setUnit i v).area j = s.area j := rfl
@[simp] theorem setUnit_ring_of (s : State) (i j : Nat) (v : UpdateUnit) : (s.setUnit i v).ring j = s.ring j := rfl
@[simp] theorem setUnit_book_of (s : State) (i j : Nat) (v : UpdateUnit) : (s.setUnit i v).book j = s.book j := rfl
@[simp] theorem setUnit_flow_of (s : State) (i j : Nat) (v : UpdateUnit) : (s.setUnit i v).flow j = s.flow j := rfl
@[simp] theorem setUnit_snap_of (s : State) (i j : Nat) (v : UpdateUnit) : (s.setUnit i v).snap j = s.snap j := rfl

/-! ### flows -/

@[simp] theorem setFlow_flow (s : State) (i : Nat) (v : Flow) : (s.setFlow i v).flow i = v := Tbl.get_set_same _ _ _ _
theorem setFlow_flow_other (s : State) {i j : Nat} (v : Flow) (h : j ≠ i) : (s.setFlow i v).flow j = s.flow j :=
  Tbl.get_set_other _ _ _ h
@[simp] theorem setFlow_pending (s : State) (i : Nat) (v : Flow) : (s.setFlow i v).pending = s.pending := rfl
@[simp] theorem setFlow_out (s : State) (i : Nat) (v : Flow) : (s.setFlow i v).out = s.out := rfl
@[simp] theorem setFlow_ident (s : State) (i : Nat) (v : Flow) : (s.setFlow i v).ident = s.ident := rfl
@[simp] theorem setFlow_power (s : State) (i : Nat) (v : Flow) : (s.setFlow i v).power = s.power := rfl
@[simp] theorem setFlow_saved (s : State) (i : Nat) (v : Flow) : (s.setFlow i v).saved = s.saved := rfl
@[simp] theorem setFlow_nv (s : State) (i : Nat) (v : Flow) : (s.setFlow i v).nv = s.nv := rfl
@[simp] theorem setFlow_time (s : State) (i : Nat) (v : Flow) : (s.setFlow i v).time = s.time := rfl
@[simp] theorem setFlow_cal (s : State) (i : Nat) (v : Flow) : (s.setFlow i v).cal = s.cal := rfl
@[simp] theorem setFlow_ports (s : State) (i : Nat) (v : Flow) : (s.setFlow i v).ports = s.ports := rfl
@[simp] theorem setFlow_image (s : State) (i : Nat) (v : Flow) : (s.setFlow i v).image = s.image := rfl
@[simp] theorem setFlow_books (s : State) (i : Nat) (v : Flow) : (s.setFlow i v).books = s.books := rfl
@[simp] theorem setFlow_bookRegs (s : State) (i : Nat) (v : Flow) : (s.setFlow i v).bookRegs = s.bookRegs := rfl
@[simp] theorem setFlow_parts (s : State) (i : Nat) (v : Flow) : (s.setFlow i v).parts = s.parts := rfl
@[simp] theorem setFlow_host (s : State) (i : Nat) (v : Flow) : (s.setFlow i v).host = s.host := rfl
@[simp] theorem setFlow_queues (s : State) (i : Nat) (v : Flow) : (s.setFlow i v).queues = s.queues := rfl
@[simp] theorem setFlow_triggers (s : State) (i : Nat) (v : Flow) : (s.setFlow i v).triggers = s.triggers := rfl
@[simp] theorem setFlow_groups (s : State) (i : Nat) (v : Flow) : (s.setFlow i v).groups = s.groups := rfl
@[simp] theorem setFlow_buckets (s : State) (i : Nat) (v : Flow) : (s.setFlow i v).buckets = s.buckets := rfl
@[simp] theorem setFlow_staging (s : State) (i : Nat) (v : Flow) : (s.setFlow i v).staging = s.staging := rfl
@[simp] theorem setFlow_stack (s : State) (i : Nat) (v : Flow) : (s.setFlow i v).stack = s.stack := rfl
@[simp] theorem setFlow_badUnits (s : State) (i : Nat) (v : Flow) : (s.setFlow i v).badUnits = s.badUnits := rfl
@[simp] theorem setFlow_units (s : State) (i : Nat) (v : Flow) : (s.setFlow i v).units = s.units := rfl
@[simp] theorem setFlow_xfers (s : State) (i : Nat) (v : Flow) : (s.setFlow i v).xfers = s.xfers := rfl
@[simp] theorem setFlow_blockCount (s : State) (i : Nat) (v : Flow) : (s.setFlow i v).blockCount = s.blockCount := rfl
@[simp] theorem setFlow_blockRx (s : State) (i : Nat) (v : Flow) : (s.setFlow i v).blockRx = s.blockRx := rfl
@[simp] theorem setFlow_areas (s : State) (i : Nat) (v : Flow) : (s.setFlow i v).areas = s.areas := rfl
@[simp] theorem setFlow_rings (s : State) (i : Nat) (v : Flow) : (s.setFlow i v).rings = s.rings := rfl
@[simp] theorem setFlow_events (s : State) (i : Nat) (v : Flow) : (s.setFlow i v).events = s.events := rfl
@[simp] theorem setFlow_stats (s : State) (i : Nat) (v : Flow) : (s.setFlow i v).stats = s.stats := rfl
@[simp] theorem setFlow_snaps (s : State) (i : Nat) (v : Flow) : (s.setFlow i v).snaps = s.snaps := rfl
@[simp] theorem setFlow_ctxView (s : State) (i : Nat) (v : Flow) : (s.setFlow i v).ctxView = s.ctxView := rfl
@[simp] theorem setFlow_recSel (s : State) (i : Nat) (v : Flow) : (s.setFlow i v).recSel = s.recSel := rfl
@[simp] theorem setFlow_maint (s : State) (i : Nat) (v : Flow) : (s.setFlow i v).maint = s.maint := rfl
@[simp] theorem setFlow_tap (s : State) (i : Nat) (v : Flow) : (s.setFlow i v).tap = s.tap := rfl
@[simp] theorem setFlow_port_of (s : State) (i j : Nat) (v : Flow) : (s.setFlow i v).port j = s.port j := rfl
@[simp] theorem setFlow_group_of (s : State) (i j : Nat) (v : Flow) : (s.setFlow i v).group j = s.group j := rfl
@[simp] theorem setFlow_queue_of (s : State) (i j : Nat) (v : Flow) : (s.setFlow i v).queue j = s.queue j := rfl
@[simp] theorem setFlow_bucket_of (s : State) (i j : Nat) (v : Flow) : (s.setFlow i v).bucket j = s.bucket j := rfl
@[simp] theorem setFlow_area_of (s : State) (i j : Nat) (v : Flow) : (s.setFlow i v).area j = s.area j := rfl
@[simp] theorem setFlow_ring_of (s : State) (i j : Nat) (v : Flow) : (s.setFlow i v).ring j = s.ring j := rfl
@[simp] theorem setFlow_book_of (s : State) (i j : Nat) (v : Flow) : (s.setFlow i v).book j = s.book j := rfl
@[simp] theorem setFlow_unit_of (s : State) (i j : Nat) (v : Flow) : (s.setFlow i v).unit j = s.unit j := rfl
@[simp] theorem setFlow_snap_of (s : State) (i j : Nat) (v : Flow) : (s.setFlow i v).snap j = s.snap j := rfl

/-! ### snaps -/

@[simp] theorem setSnap_snap (s : State) (i : Nat) (v : SnapPage) : (s.setSnap i v).snap i = v := Tbl.get_set_same _ _ _ _
theorem setSnap_snap_other (s : State) {i j : Nat} (v : SnapPage) (h : j ≠ i) : (s.setSnap i v).snap j = s.snap j :=
  Tbl.get_set_other _ _ _ h
@[simp] theorem setSnap_pending (s : State) (i : Nat) (v : SnapPage) : (s.setSnap i v).pending = s.pending := rfl
@[simp] theorem setSnap_out (s : State) (i : Nat) (v : SnapPage) : (s.setSnap i v).out = s.out := rfl
@[simp] theorem setSnap_ident (s : State) (i : Nat) (v : SnapPage) : (s.setSnap i v).ident = s.ident := rfl
@[simp] theorem setSnap_power (s : State) (i : Nat) (v : SnapPage) : (s.setSnap i v).power = s.power := rfl
@[simp] theorem setSnap_saved (s : State) (i : Nat) (v : SnapPage) : (s.setSnap i v).saved = s.saved := rfl
@[simp] theorem setSnap_nv (s : State) (i : Nat) (v : SnapPage) : (s.setSnap i v).nv = s.nv := rfl
@[simp] theorem setSnap_time (s : State) (i : Nat) (v : SnapPage) : (s.setSnap i v).time = s.time := rfl
@[simp] theorem setSnap_cal (s : State) (i : Nat) (v : SnapPage) : (s.setSnap i v).cal = s.cal := rfl
@[simp] theorem setSnap_ports (s : State) (i : Nat) (v : SnapPage) : (s.setSnap i v).ports = s.ports := rfl
@[simp] theorem setSnap_image (s : State) (i : Nat) (v : SnapPage) : (s.setSnap i v).image = s.image := rfl
@[simp] theorem setSnap_books (s : State) (i : Nat) (v : SnapPage) : (s.setSnap i v).books = s.books := rfl
@[simp] theorem setSnap_bookRegs (s : State) (i : Nat) (v : SnapPage) : (s.setSnap i v).bookRegs = s.bookRegs := rfl
@[simp] theorem setSnap_parts (s : State) (i : Nat) (v : SnapPage) : (s.setSnap i v).parts = s.parts := rfl
@[simp] theorem setSnap_host (s : State) (i : Nat) (v : SnapPage) : (s.setSnap i v).host = s.host := rfl
@[simp] theorem setSnap_queues (s : State) (i : Nat) (v : SnapPage) : (s.setSnap i v).queues = s.queues := rfl
@[simp] theorem setSnap_triggers (s : State) (i : Nat) (v : SnapPage) : (s.setSnap i v).triggers = s.triggers := rfl
@[simp] theorem setSnap_groups (s : State) (i : Nat) (v : SnapPage) : (s.setSnap i v).groups = s.groups := rfl
@[simp] theorem setSnap_buckets (s : State) (i : Nat) (v : SnapPage) : (s.setSnap i v).buckets = s.buckets := rfl
@[simp] theorem setSnap_staging (s : State) (i : Nat) (v : SnapPage) : (s.setSnap i v).staging = s.staging := rfl
@[simp] theorem setSnap_stack (s : State) (i : Nat) (v : SnapPage) : (s.setSnap i v).stack = s.stack := rfl
@[simp] theorem setSnap_badUnits (s : State) (i : Nat) (v : SnapPage) : (s.setSnap i v).badUnits = s.badUnits := rfl
@[simp] theorem setSnap_units (s : State) (i : Nat) (v : SnapPage) : (s.setSnap i v).units = s.units := rfl
@[simp] theorem setSnap_xfers (s : State) (i : Nat) (v : SnapPage) : (s.setSnap i v).xfers = s.xfers := rfl
@[simp] theorem setSnap_blockCount (s : State) (i : Nat) (v : SnapPage) : (s.setSnap i v).blockCount = s.blockCount := rfl
@[simp] theorem setSnap_blockRx (s : State) (i : Nat) (v : SnapPage) : (s.setSnap i v).blockRx = s.blockRx := rfl
@[simp] theorem setSnap_flows (s : State) (i : Nat) (v : SnapPage) : (s.setSnap i v).flows = s.flows := rfl
@[simp] theorem setSnap_areas (s : State) (i : Nat) (v : SnapPage) : (s.setSnap i v).areas = s.areas := rfl
@[simp] theorem setSnap_rings (s : State) (i : Nat) (v : SnapPage) : (s.setSnap i v).rings = s.rings := rfl
@[simp] theorem setSnap_events (s : State) (i : Nat) (v : SnapPage) : (s.setSnap i v).events = s.events := rfl
@[simp] theorem setSnap_stats (s : State) (i : Nat) (v : SnapPage) : (s.setSnap i v).stats = s.stats := rfl
@[simp] theorem setSnap_ctxView (s : State) (i : Nat) (v : SnapPage) : (s.setSnap i v).ctxView = s.ctxView := rfl
@[simp] theorem setSnap_recSel (s : State) (i : Nat) (v : SnapPage) : (s.setSnap i v).recSel = s.recSel := rfl
@[simp] theorem setSnap_maint (s : State) (i : Nat) (v : SnapPage) : (s.setSnap i v).maint = s.maint := rfl
@[simp] theorem setSnap_tap (s : State) (i : Nat) (v : SnapPage) : (s.setSnap i v).tap = s.tap := rfl
@[simp] theorem setSnap_port_of (s : State) (i j : Nat) (v : SnapPage) : (s.setSnap i v).port j = s.port j := rfl
@[simp] theorem setSnap_group_of (s : State) (i j : Nat) (v : SnapPage) : (s.setSnap i v).group j = s.group j := rfl
@[simp] theorem setSnap_queue_of (s : State) (i j : Nat) (v : SnapPage) : (s.setSnap i v).queue j = s.queue j := rfl
@[simp] theorem setSnap_bucket_of (s : State) (i j : Nat) (v : SnapPage) : (s.setSnap i v).bucket j = s.bucket j := rfl
@[simp] theorem setSnap_area_of (s : State) (i j : Nat) (v : SnapPage) : (s.setSnap i v).area j = s.area j := rfl
@[simp] theorem setSnap_ring_of (s : State) (i j : Nat) (v : SnapPage) : (s.setSnap i v).ring j = s.ring j := rfl
@[simp] theorem setSnap_book_of (s : State) (i j : Nat) (v : SnapPage) : (s.setSnap i v).book j = s.book j := rfl
@[simp] theorem setSnap_unit_of (s : State) (i j : Nat) (v : SnapPage) : (s.setSnap i v).unit j = s.unit j := rfl
@[simp] theorem setSnap_flow_of (s : State) (i j : Nat) (v : SnapPage) : (s.setSnap i v).flow j = s.flow j := rfl

@[simp] theorem modPort_port (s : State) (i : Nat) (f : PortState → PortState) : (s.modPort i f).port i = f (s.port i) :=
  setPort_port _ _ _
theorem modPort_port_other (s : State) {i j : Nat} (f : PortState → PortState) (h : j ≠ i) : (s.modPort i f).port j = s.port j :=
  setPort_port_other _ _ h
/-- Changing an entry is setting it to the changed entry. -/
theorem modPort_eq (s : State) (i : Nat) (f : PortState → PortState) : s.modPort i f = s.setPort i (f (s.port i)) := rfl

@[simp] theorem modGroup_group (s : State) (i : Nat) (f : Group → Group) : (s.modGroup i f).group i = f (s.group i) :=
  setGroup_group _ _ _
theorem modGroup_group_other (s : State) {i j : Nat} (f : Group → Group) (h : j ≠ i) : (s.modGroup i f).group j = s.group j :=
  setGroup_group_other _ _ h
/-- Changing an entry is setting it to the changed entry. -/
theorem modGroup_eq (s : State) (i : Nat) (f : Group → Group) : s.modGroup i f = s.setGroup i (f (s.group i)) := rfl

@[simp] theorem modQueue_queue (s : State) (i : Nat) (f : Queue → Queue) : (s.modQueue i f).queue i = f (s.queue i) :=
  setQueue_queue _ _ _
theorem modQueue_queue_other (s : State) {i j : Nat} (f : Queue → Queue) (h : j ≠ i) : (s.modQueue i f).queue j = s.queue j :=
  setQueue_queue_other _ _ h
/-- Changing an entry is setting it to the changed entry. -/
theorem modQueue_eq (s : State) (i : Nat) (f : Queue → Queue) : s.modQueue i f = s.setQueue i (f (s.queue i)) := rfl

/-! ### Outputs, self-test bays, time ports, trigger counters -/

@[simp] theorem emit_out (s : State) (x : Output) : (s.emit x).out = s.out ++ [x] := rfl
@[simp] theorem emits_out (s : State) (xs : List Output) : (s.emits xs).out = s.out ++ xs := rfl
@[simp] theorem emit_pending (s : State) (x : Output) : (s.emit x).pending = s.pending := rfl
@[simp] theorem emits_pending (s : State) (xs : List Output) : (s.emits xs).pending = s.pending := rfl
@[simp] theorem emit_ident (s : State) (x : Output) : (s.emit x).ident = s.ident := rfl
@[simp] theorem emits_ident (s : State) (xs : List Output) : (s.emits xs).ident = s.ident := rfl
@[simp] theorem emit_power (s : State) (x : Output) : (s.emit x).power = s.power := rfl
@[simp] theorem emits_power (s : State) (xs : List Output) : (s.emits xs).power = s.power := rfl
@[simp] theorem emit_saved (s : State) (x : Output) : (s.emit x).saved = s.saved := rfl
@[simp] theorem emits_saved (s : State) (xs : List Output) : (s.emits xs).saved = s.saved := rfl
@[simp] theorem emit_nv (s : State) (x : Output) : (s.emit x).nv = s.nv := rfl
@[simp] theorem emits_nv (s : State) (xs : List Output) : (s.emits xs).nv = s.nv := rfl
@[simp] theorem emit_time (s : State) (x : Output) : (s.emit x).time = s.time := rfl
@[simp] theorem emits_time (s : State) (xs : List Output) : (s.emits xs).time = s.time := rfl
@[simp] theorem emit_cal (s : State) (x : Output) : (s.emit x).cal = s.cal := rfl
@[simp] theorem emits_cal (s : State) (xs : List Output) : (s.emits xs).cal = s.cal := rfl
@[simp] theorem emit_ports (s : State) (x : Output) : (s.emit x).ports = s.ports := rfl
@[simp] theorem emits_ports (s : State) (xs : List Output) : (s.emits xs).ports = s.ports := rfl
@[simp] theorem emit_image (s : State) (x : Output) : (s.emit x).image = s.image := rfl
@[simp] theorem emits_image (s : State) (xs : List Output) : (s.emits xs).image = s.image := rfl
@[simp] theorem emit_books (s : State) (x : Output) : (s.emit x).books = s.books := rfl
@[simp] theorem emits_books (s : State) (xs : List Output) : (s.emits xs).books = s.books := rfl
@[simp] theorem emit_bookRegs (s : State) (x : Output) : (s.emit x).bookRegs = s.bookRegs := rfl
@[simp] theorem emits_bookRegs (s : State) (xs : List Output) : (s.emits xs).bookRegs = s.bookRegs := rfl
@[simp] theorem emit_parts (s : State) (x : Output) : (s.emit x).parts = s.parts := rfl
@[simp] theorem emits_parts (s : State) (xs : List Output) : (s.emits xs).parts = s.parts := rfl
@[simp] theorem emit_host (s : State) (x : Output) : (s.emit x).host = s.host := rfl
@[simp] theorem emits_host (s : State) (xs : List Output) : (s.emits xs).host = s.host := rfl
@[simp] theorem emit_queues (s : State) (x : Output) : (s.emit x).queues = s.queues := rfl
@[simp] theorem emits_queues (s : State) (xs : List Output) : (s.emits xs).queues = s.queues := rfl
@[simp] theorem emit_triggers (s : State) (x : Output) : (s.emit x).triggers = s.triggers := rfl
@[simp] theorem emits_triggers (s : State) (xs : List Output) : (s.emits xs).triggers = s.triggers := rfl
@[simp] theorem emit_groups (s : State) (x : Output) : (s.emit x).groups = s.groups := rfl
@[simp] theorem emits_groups (s : State) (xs : List Output) : (s.emits xs).groups = s.groups := rfl
@[simp] theorem emit_buckets (s : State) (x : Output) : (s.emit x).buckets = s.buckets := rfl
@[simp] theorem emits_buckets (s : State) (xs : List Output) : (s.emits xs).buckets = s.buckets := rfl
@[simp] theorem emit_staging (s : State) (x : Output) : (s.emit x).staging = s.staging := rfl
@[simp] theorem emits_staging (s : State) (xs : List Output) : (s.emits xs).staging = s.staging := rfl
@[simp] theorem emit_stack (s : State) (x : Output) : (s.emit x).stack = s.stack := rfl
@[simp] theorem emits_stack (s : State) (xs : List Output) : (s.emits xs).stack = s.stack := rfl
@[simp] theorem emit_badUnits (s : State) (x : Output) : (s.emit x).badUnits = s.badUnits := rfl
@[simp] theorem emits_badUnits (s : State) (xs : List Output) : (s.emits xs).badUnits = s.badUnits := rfl
@[simp] theorem emit_units (s : State) (x : Output) : (s.emit x).units = s.units := rfl
@[simp] theorem emits_units (s : State) (xs : List Output) : (s.emits xs).units = s.units := rfl
@[simp] theorem emit_xfers (s : State) (x : Output) : (s.emit x).xfers = s.xfers := rfl
@[simp] theorem emits_xfers (s : State) (xs : List Output) : (s.emits xs).xfers = s.xfers := rfl
@[simp] theorem emit_blockCount (s : State) (x : Output) : (s.emit x).blockCount = s.blockCount := rfl
@[simp] theorem emit_blockRx (s : State) (x : Output) : (s.emit x).blockRx = s.blockRx := rfl
@[simp] theorem emits_blockCount (s : State) (xs : List Output) : (s.emits xs).blockCount = s.blockCount := rfl
@[simp] theorem emits_blockRx (s : State) (xs : List Output) : (s.emits xs).blockRx = s.blockRx := rfl
@[simp] theorem emit_flows (s : State) (x : Output) : (s.emit x).flows = s.flows := rfl
@[simp] theorem emits_flows (s : State) (xs : List Output) : (s.emits xs).flows = s.flows := rfl
@[simp] theorem emit_areas (s : State) (x : Output) : (s.emit x).areas = s.areas := rfl
@[simp] theorem emits_areas (s : State) (xs : List Output) : (s.emits xs).areas = s.areas := rfl
@[simp] theorem emit_rings (s : State) (x : Output) : (s.emit x).rings = s.rings := rfl
@[simp] theorem emits_rings (s : State) (xs : List Output) : (s.emits xs).rings = s.rings := rfl
@[simp] theorem emit_events (s : State) (x : Output) : (s.emit x).events = s.events := rfl
@[simp] theorem emits_events (s : State) (xs : List Output) : (s.emits xs).events = s.events := rfl
@[simp] theorem emit_stats (s : State) (x : Output) : (s.emit x).stats = s.stats := rfl
@[simp] theorem emits_stats (s : State) (xs : List Output) : (s.emits xs).stats = s.stats := rfl
@[simp] theorem emit_snaps (s : State) (x : Output) : (s.emit x).snaps = s.snaps := rfl
@[simp] theorem emits_snaps (s : State) (xs : List Output) : (s.emits xs).snaps = s.snaps := rfl
@[simp] theorem emit_ctxView (s : State) (x : Output) : (s.emit x).ctxView = s.ctxView := rfl
@[simp] theorem emits_ctxView (s : State) (xs : List Output) : (s.emits xs).ctxView = s.ctxView := rfl
@[simp] theorem emit_recSel (s : State) (x : Output) : (s.emit x).recSel = s.recSel := rfl
@[simp] theorem emits_recSel (s : State) (xs : List Output) : (s.emits xs).recSel = s.recSel := rfl
@[simp] theorem emit_maint (s : State) (x : Output) : (s.emit x).maint = s.maint := rfl
@[simp] theorem emits_maint (s : State) (xs : List Output) : (s.emits xs).maint = s.maint := rfl
@[simp] theorem emit_tap (s : State) (x : Output) : (s.emit x).tap = s.tap := rfl
@[simp] theorem emits_tap (s : State) (xs : List Output) : (s.emits xs).tap = s.tap := rfl
@[simp] theorem emit_port_of (s : State) (x : Output) (j : Nat) : (s.emit x).port j = s.port j := rfl
@[simp] theorem emit_group_of (s : State) (x : Output) (j : Nat) : (s.emit x).group j = s.group j := rfl
@[simp] theorem emit_queue_of (s : State) (x : Output) (j : Nat) : (s.emit x).queue j = s.queue j := rfl
@[simp] theorem emit_bucket_of (s : State) (x : Output) (j : Nat) : (s.emit x).bucket j = s.bucket j := rfl
@[simp] theorem emit_area_of (s : State) (x : Output) (j : Nat) : (s.emit x).area j = s.area j := rfl
@[simp] theorem emit_ring_of (s : State) (x : Output) (j : Nat) : (s.emit x).ring j = s.ring j := rfl
@[simp] theorem emit_book_of (s : State) (x : Output) (j : Nat) : (s.emit x).book j = s.book j := rfl
@[simp] theorem emit_unit_of (s : State) (x : Output) (j : Nat) : (s.emit x).unit j = s.unit j := rfl
@[simp] theorem emit_flow_of (s : State) (x : Output) (j : Nat) : (s.emit x).flow j = s.flow j := rfl
@[simp] theorem emit_snap_of (s : State) (x : Output) (j : Nat) : (s.emit x).snap j = s.snap j := rfl
@[simp] theorem setBay_bay (s : State) (b : Nat) (v : BayTest) : (s.setBay b v).bay b = v := Tbl.get_set_same _ _ _ _
theorem setBay_bay_other (s : State) {b c : Nat} (v : BayTest) (h : c ≠ b) : (s.setBay b v).bay c = s.bay c :=
  Tbl.get_set_other _ _ _ h
@[simp] theorem setTimePort_timePort (s : State) (p : Nat) (v : TimePort) : (s.setTimePort p v).timePort p = v :=
  Tbl.get_set_same _ _ _ _
theorem setTimePort_timePort_other (s : State) {p q : Nat} (v : TimePort) (h : q ≠ p) :
    (s.setTimePort p v).timePort q = s.timePort q := Tbl.get_set_other _ _ _ h
@[simp] theorem setTrigger_trigger (s : State) (n : Nat) (v : Word32) : (s.setTrigger n v).trigger n = v :=
  Tbl.get_set_same _ _ _ _
theorem setTrigger_trigger_other (s : State) {n m : Nat} (v : Word32) (h : m ≠ n) :
    (s.setTrigger n v).trigger m = s.trigger m := Tbl.get_set_other _ _ _ h

end State

/-! ### Ways a meaning ends -/

/-- A running engine does what the command says. -/
theorem whenRunning_run {s : State} {f : State → State} (h : s.running = true) : whenRunning s f = .next (f s) := by
  unfold whenRunning; rw [if_pos h]

/-- An engine that is powered and out of reset does what the command says. -/
theorem whenAlive_run {s : State} {f : State → State} (h : s.alive = true) : whenAlive s f = .next (f s) := by
  unfold whenAlive; rw [if_pos h]

theorem State.alive_of_running {s : State} (h : s.running = true) : s.alive = true := by
  unfold State.running at h; simp_all

theorem State.mode_of_running {s : State} (h : s.running = true) : s.power.mode ≠ .hold := by
  unfold State.running at h; simp_all

end Sys2Proof.Machine
end

