-- ==== Sys2Proof/Laws/Memory.lean ====
section
/-! SUPPORT. Laws of the byte memories: a read after a write, and that every operation keeps the canonical form. -/

namespace Sys2Proof.Machine

open Sys2Proof

namespace Mem

/-- Every listed address is at least `n`. -/
def above (n : Nat) (m : Mem) : Prop := ∀ c ∈ m, n ≤ c.1

theorem wf_cons {k : Nat} {v : Byte} {m : Mem} :
    Mem.wf ((k, v) :: m) = true ↔ v ≠ 0 ∧ above (k + 1) m ∧ Mem.wf m = true := by
  induction m generalizing k v with
  | nil => simp [Mem.wf, above]
  | cons e m ih =>
    obtain ⟨k', v'⟩ := e
    rw [show Mem.wf ((k, v) :: (k', v') :: m) = (v != 0 && decide (k < k') && Mem.wf ((k', v') :: m)) from rfl]
    simp only [Bool.and_eq_true, bne_iff_ne, decide_eq_true_eq]
    constructor
    · rintro ⟨⟨h1, h2⟩, h3⟩
      refine ⟨h1, ?_, h3⟩
      intro c hc
      rcases List.mem_cons.mp hc with rfl | hc
      · exact h2
      · have := (ih.mp h3).2.1 c hc; omega
    · rintro ⟨h1, h2, h3⟩
      exact ⟨⟨h1, h2 (k', v') (by simp)⟩, h3⟩

theorem read_above {m : Mem} {n a : Nat} (h : above n m) (ha : a < n) : m.read a = 0 := by
  induction m with
  | nil => rfl
  | cons e m ih =>
    obtain ⟨k, v⟩ := e
    have hk : k ≠ a := by have := h (k, v) (by simp); simp at this; omega
    rw [show Mem.read ((k, v) :: m) a = if k = a then v else Mem.read m a from rfl, if_neg hk]
    exact ih (fun c hc => h c (by simp [hc]))

theorem above_write {m : Mem} {n a : Nat} {b : Byte} (h : above n m) (ha : n ≤ a) : above n (m.write a b) := by
  induction m with
  | nil => unfold Mem.write; split <;> simp_all [above]
  | cons e m ih =>
    obtain ⟨k, v⟩ := e
    have hm : above n m := fun c hc => h c (by simp [hc])
    have hk : n ≤ k := h (k, v) (by simp)
    unfold Mem.write
    split
    · split
      · exact h
      · intro c hc; rcases List.mem_cons.mp hc with rfl | hc
        · exact ha
        · exact h c hc
    · split
      · split
        · exact hm
        · intro c hc; rcases List.mem_cons.mp hc with rfl | hc
          · exact ha
          · exact hm c hc
      · intro c hc; rcases List.mem_cons.mp hc with rfl | hc
        · exact hk
        · exact ih hm c hc

/-- A write keeps the canonical form. -/
theorem wf_write {m : Mem} {a : Nat} {b : Byte} (h : m.wf = true) : (m.write a b).wf = true := by
  induction m with
  | nil => unfold Mem.write; split <;> simp_all [Mem.wf]
  | cons e m ih =>
    obtain ⟨k, v⟩ := e
    obtain ⟨h1, h2, h3⟩ := wf_cons.mp h
    unfold Mem.write
    split
    · rename_i hlt
      split
      · exact h
      · rename_i hb
        refine wf_cons.mpr ⟨hb, ?_, h⟩
        intro c hc; rcases List.mem_cons.mp hc with rfl | hc
        · exact hlt
        · have := h2 c hc; omega
    · split
      · rename_i hka; subst hka
        split
        · exact h3
        · rename_i hb; exact wf_cons.mpr ⟨hb, h2, h3⟩
      · exact wf_cons.mpr ⟨h1, above_write h2 (by omega), ih h3⟩

/-- Writing bytes keeps the canonical form. -/
theorem wf_writeBytes {m : Mem} {a : Nat} {bs : Bytes} (h : m.wf = true) : (m.writeBytes a bs).wf = true := by
  induction bs generalizing m a with
  | nil => exact h
  | cons b bs ih => exact ih (wf_write h)

/-- Dropping entries keeps the canonical form. -/
theorem wf_filter {m : Mem} {p : Host.Cell → Bool} (h : m.wf = true) : Mem.wf (m.filter p) = true := by
  induction m with
  | nil => rfl
  | cons e m ih =>
    obtain ⟨k, v⟩ := e
    obtain ⟨h1, h2, h3⟩ := wf_cons.mp h
    rw [List.filter_cons]
    split
    · exact wf_cons.mpr ⟨h1, fun c hc => h2 c (List.mem_filter.mp hc).1, ih h3⟩
    · exact ih h3

/-- A memory below a bound and one from it on, together, are in canonical form. -/
theorem wf_append {m n : Mem} {k : Nat} (hm : m.wf = true) (hn : n.wf = true) (h : ∀ c ∈ m, c.1 < k) (h' : above k n) :
    Mem.wf (m ++ n) = true := by
  induction m with
  | nil => exact hn
  | cons e m ih =>
    obtain ⟨a, v⟩ := e
    obtain ⟨h1, h2, h3⟩ := wf_cons.mp hm
    have ha : a < k := h (a, v) (by simp)
    refine wf_cons.mpr ⟨h1, fun c hc => ?_, ih h3 (fun c hc => h c (List.mem_cons_of_mem _ hc))⟩
    rcases List.mem_append.mp hc with hc | hc
    · exact h2 c hc
    · have := h' c hc; omega

/-- What a commit leaves of the store: the part of one memory below a bound and of another from it on (R56). -/
theorem wf_splice {m n : Mem} {k : Nat} (hm : m.wf = true) (hn : n.wf = true) :
    Mem.wf (m.below k ++ n.filter (fun c => decide (k ≤ c.1))) = true :=
  wf_append (wf_filter hm) (wf_filter hn) (fun c hc => by simpa using (List.mem_filter.mp hc).2)
    (fun c hc => by simpa using (List.mem_filter.mp hc).2)

/-- A byte elsewhere is as before, whatever the form. -/
theorem read_write_other {m : Mem} {a x : Nat} {b : Byte} (h : x ≠ a) : (m.write a b).read x = m.read x := by
  induction m with
  | nil => unfold Mem.write; split <;> simp [Mem.read, Ne.symm h]
  | cons e m ih =>
    obtain ⟨k, v⟩ := e
    unfold Mem.write
    split
    · split
      · rfl
      · simp [Mem.read, Ne.symm h]
    · split
      · rename_i hk; subst hk
        split <;> simp [Mem.read, Ne.symm h]
      · simp only [Mem.read, ih]

/-- The byte written is the byte read, in canonical form. -/
theorem read_write_same {m : Mem} {a : Nat} {b : Byte} (h : m.wf = true) : (m.write a b).read a = b := by
  induction m with
  | nil => unfold Mem.write; split <;> simp_all [Mem.read]
  | cons e m ih =>
    obtain ⟨k, v⟩ := e
    obtain ⟨h1, h2, h3⟩ := wf_cons.mp h
    unfold Mem.write
    split
    · rename_i hlt
      split
      · rename_i hb
        rw [hb]
        have hk : k ≠ a := by omega
        rw [show Mem.read ((k, v) :: m) a = if k = a then v else Mem.read m a from rfl, if_neg hk]
        exact read_above h2 (by omega)
      · simp [Mem.read]
    · split
      · rename_i hk; subst hk
        split
        · rename_i hb; rw [hb]; exact read_above h2 (by omega)
        · simp [Mem.read]
      · rename_i hk; simp only [Mem.read, if_neg hk, ih h3]

/-- Bytes outside those written are as before, whatever the form. -/
theorem read_writeBytes_other {m : Mem} {a x : Nat} {bs : Bytes} (h : x < a ∨ a + bs.length ≤ x) :
    (m.writeBytes a bs).read x = m.read x := by
  induction bs generalizing m a with
  | nil => rfl
  | cons b bs ih =>
    simp only [List.length_cons] at h
    rw [show Mem.writeBytes m a (b :: bs) = Mem.writeBytes (m.write a b) (a + 1) bs from rfl, ih (by omega)]
    exact read_write_other (by omega)

/-- Byte `i` of those written is read back, in canonical form. -/
theorem read_writeBytes_same {m : Mem} {a i : Nat} {bs : Bytes} (h : m.wf = true) (hi : i < bs.length) :
    (m.writeBytes a bs).read (a + i) = bs[i] := by
  induction bs generalizing m a i with
  | nil => simp at hi
  | cons b bs ih =>
    rw [show Mem.writeBytes m a (b :: bs) = Mem.writeBytes (m.write a b) (a + 1) bs from rfl]
    cases i with
    | zero =>
      rw [read_writeBytes_other (by omega)]
      exact read_write_same h
    | succ i =>
      have := ih (a := a + 1) (i := i) (wf_write (a := a) (b := b) h) (by simpa using hi)
      rw [show a + (i + 1) = a + 1 + i by omega, this]
      rfl

/-- What was written is read back. -/
theorem readBytes_writeBytes {m : Mem} {a : Nat} {bs : Bytes} (h : m.wf = true) :
    (m.writeBytes a bs).readBytes a bs.length = bs := by
  apply List.ext_getElem
  · simp [Mem.readBytes, rangeFrom]
  · intro i h1 h2
    simp only [Mem.readBytes, rangeFrom, List.getElem_map, List.getElem_range]
    exact read_writeBytes_same h h2

/-- Bytes read outside those written are as before. -/
theorem readBytes_writeBytes_other {m : Mem} {a x n : Nat} {bs : Bytes} (h : x + n ≤ a ∨ a + bs.length ≤ x) :
    (m.writeBytes a bs).readBytes x n = m.readBytes x n := by
  simp only [Mem.readBytes, rangeFrom, List.map_map]
  apply List.map_congr_left
  intro i hi
  have := List.mem_range.mp hi
  exact read_writeBytes_other (show x + i < a ∨ a + bs.length ≤ x + i by omega)

@[simp] theorem length_readBytes {m : Mem} {a n : Nat} : (m.readBytes a n).length = n := by simp [Mem.readBytes, rangeFrom]

theorem getElem_readBytes {m : Mem} {a n i : Nat} (h : i < (m.readBytes a n).length) :
    (m.readBytes a n)[i] = m.read (a + i) := by
  simp [Mem.readBytes, rangeFrom]

/-- Memories in canonical form that read alike are equal. -/
theorem wf_ext {m n : Mem} (hm : m.wf = true) (hn : n.wf = true) (h : ∀ a, m.read a = n.read a) : m = n := by
  induction m generalizing n with
  | nil =>
    cases n with
    | nil => rfl
    | cons e n =>
      obtain ⟨k, v⟩ := e
      obtain ⟨h1, -, -⟩ := wf_cons.mp hn
      have := h k
      simp [Mem.read] at this
      exact absurd this.symm h1
  | cons e m ih =>
    obtain ⟨k, v⟩ := e
    obtain ⟨h1, h2, h3⟩ := wf_cons.mp hm
    cases n with
    | nil =>
      have := h k
      simp [Mem.read] at this
      exact absurd this h1
    | cons e' n =>
      obtain ⟨k', v'⟩ := e'
      obtain ⟨h1', h2', h3'⟩ := wf_cons.mp hn
      have hkk : k = k' := by
        rcases Nat.lt_trichotomy k k' with hlt | heq | hgt
        · have e1 : Mem.read ((k, v) :: m) k = v := by simp [Mem.read]
          have e2 : Mem.read ((k', v') :: n) k = 0 := by
            rw [show Mem.read ((k', v') :: n) k = if k' = k then v' else Mem.read n k from rfl, if_neg (by omega)]
            exact read_above h2' (by omega)
          exact absurd (e1.symm.trans ((h k).trans e2)) h1
        · exact heq
        · have e1 : Mem.read ((k', v') :: n) k' = v' := by simp [Mem.read]
          have e2 : Mem.read ((k, v) :: m) k' = 0 := by
            rw [show Mem.read ((k, v) :: m) k' = if k = k' then v else Mem.read m k' from rfl, if_neg (by omega)]
            exact read_above h2 (by omega)
          exact absurd (e1.symm.trans ((h k').symm.trans e2)) h1'
      subst hkk
      have hv : v = v' := by have := h k; simpa [Mem.read] using this
      subst hv
      congr 1
      refine ih h3 h3' (fun a => ?_)
      by_cases ha : k = a
      · subst ha; rw [read_above h2 (by omega), read_above h2' (by omega)]
      · have := h a; simpa [Mem.read, ha] using this

end Mem

/-- The state after reset has its memories in canonical form. -/
theorem State.reset_memoriesWf : State.reset.memoriesWf = true := by decide

end Sys2Proof.Machine
end

