-- ==== Sys2Proof/Laws/Retention.lean ====
section
/-! SUPPORT. Where a chunk's retention lies: inside the slot that the image gives its bucket (R23, R285). -/

namespace Sys2Proof.Machine

open Sys2Proof

namespace State

/-- A place in a retention slot leaves room for what it is for, where the slot has it. -/
theorem slotPlace_le {d : ImgBucket} {free n : Nat} (h : n ≤ d.retBytes) : slotPlace d free n + n ≤ d.retBytes := by
  have h1 : free % ((d.retBytes - n) / 256 + 1) ≤ (d.retBytes - n) / 256 := Nat.le_of_lt_succ (Nat.mod_lt _ (Nat.succ_pos _))
  have h2 : 256 * ((d.retBytes - n) / 256) ≤ d.retBytes - n := Nat.mul_div_le _ _
  unfold slotPlace
  omega

/-- The flood cells of a chunk fit into their bucket's slot as a whole, where the slot has the room. -/
theorem cellRange_length {s : State} {v : OpView} {c : Nat} (h : 256 * chunkCellsOf v.d ≤ v.d.retBytes) :
    (s.cellRange v c).2 = 256 * chunkCellsOf v.d := by
  have h1 := slotPlace_le (free := Config.retainCells s.image.active.hash v.d.bucket c) h
  show min (256 * chunkCellsOf v.d) (v.d.retBytes - s.cellPlace v c) = _
  unfold cellPlace
  omega

end State

end Sys2Proof.Machine
end

