-- ==== Sys2Proof/Tests/Slice0.lean ====
section
/-! SUPPORT. The model's own tests: an ill-formed command for each check of WellFormed, small steps whose results are
worked out from the spec by hand, and for each statement states and operands that meet its hypotheses together. -/

namespace Sys2Proof.Tests

set_option Elab.async false

open Sys2Proof Sys2Proof.Machine

/-! ### A small machine -/

def hash : Bytes := List.replicate 48 1
def mapHash : Bytes := List.replicate 48 2

/-- The engine is chip 100, serial 7. Group 0 is the ring 100, 101, 102, group 1 the ring 101, 100, 103; ports 0 and 1 carry
group 0, ports 2 and 3 group 1, ports 22 and 23 are the time ports. -/
def chips : List ImgChip :=
  [ { chip := 100, cls := 0, timePrimary := 22, timeBackup := 23, serial := 7, mapHash := mapHash
      ports := [⟨101, 1, 1⟩, ⟨102, 6, 1⟩, ⟨103, 3, 1⟩, ⟨101, 5, 1⟩] ++ List.replicate 18 ⟨0xFFFFF, 0, 0⟩
        ++ [⟨200, 0, 2⟩, ⟨201, 0, 2⟩] },
    { chip := 101, cls := 0, timePrimary := 22, timeBackup := 23, serial := 8, mapHash := mapHash, ports := [] },
    { chip := 102, cls := 0, timePrimary := 22, timeBackup := 23, serial := 9, mapHash := mapHash, ports := [] },
    { chip := 103, cls := 0, timePrimary := 22, timeBackup := 23, serial := 10, mapHash := mapHash, ports := [] } ]

def ringA : ImgRing :=
  { group := 0, table := 0, n := 3, rails := 1, hG := 16, wait := 0, members := [⟨100, [0]⟩, ⟨101, [1]⟩, ⟨102, [6]⟩] }
def ringB : ImgRing :=
  { group := 1, table := 0, n := 3, rails := 1, hG := 16, wait := 0, members := [⟨101, [5]⟩, ⟨100, [2]⟩, ⟨103, [3]⟩] }

def run (first count vc use group dir port : Nat) : ImgRun :=
  { first := first, count := count, vc := vc, use := use, group := group, rail := 0, bay := 0, dir := dir, port := port }

def runs : List ImgRun :=
  [run 16 4 0 0 0 0 0, run 24 4 0 1 0 0 0, run 32 4 1 0 0 0 0, run 40 2 0 2 0 0 0, run 44 2 1 2 0 0 0,
   run 16 4 0 0 0 1 1, run 24 4 0 1 0 1 1, run 32 4 1 0 0 1 1, run 40 2 0 2 0 1 1, run 44 2 1 2 0 1 1,
   run 16 4 0 0 1 0 2, run 24 4 0 1 1 0 2, run 16 4 0 0 1 1 3, run 24 4 0 1 1 1 3]

/-- A T4 bucket of three chunks of one cell. -/
def bucketA : ImgBucket :=
  { bucket := 0, group := 0, enc := .t4, sparse := false, counts := false, l := 1152, chunkCells := 1, outlierCells := 0
    rotSize := 16, rotSeed := 1, extSeed := 2, resFp32 := false, etInit := 0, etMargin := 0, fbKind := .none
    fbParam := 0, codebook := 0, fbHold := 0, clipThresh := 0, ovfThresh := 0, retClip := 0, retOvf := 0, span := 0
    listCells := 0, selK := 0, replayRounds := 1, offsetD := 8, slotPos := 0, resOff := 0, retOff := 0, retBytes := 65536 }

def areaA : ImgArea :=
  { area := 0, part := 0, cls := 0, escPerTide := 2, tiles := 16, base := 0, escBase := 0x100000, escSlots := 4
    errBound := 0, tilesPerTide := 1, sketchSeed := 3, decoders := 1, fabric := 0, coves := 1 }

def image : Image :=
  { rollback := 5, epochSec := 0, chips := chips, tables := [⟨0, true, 0, []⟩, ⟨1, true, 0, []⟩]
    blocks := [{ table := 0, cls := 0, stackLoad := 0, lMax := List.replicate 24 1000, bayLoad := [], runs := runs }]
    res0 := (0, 1), res1 := (16, 1), retain := (32, 1), spill := (48, 16)
    groups := [⟨0, 0, false, 32768, 0⟩, ⟨1, 8, false, 32768, 0⟩], rings := [ringA, ringB]
    buckets := [bucketA, { bucketA with bucket := 5, group := 1, retOff := 65536 }]
    parts := [{ valid := true, privileged := true, trigFirst := 0, trigCount := 16, spillQuota := 16
                stagingShare := 4096, contextShare := 4096, groups := 1, windows := [(0, 0x100000000)]
                flows := [(2, 1)] }]
    bist := { patternSeed := 1, coveSig := List.replicate 512 9 }
    faults := [⟨0, true, false, 8, 64, [(101, 1)]⟩], areas := [areaA] }

def faced (chip serial port : Nat) : PortState :=
  { link := .service, tideFrame := true
    nb := { state := .accepted, chip := chip, serial := serial, port := port, role := 1, imageHash := hash } }

/-- In the tide frame at tide 100, LOCKED, every ring port in SERVICE, both groups established and CLOSED, partition 0
ATTACHED. -/
def base : State :=
  { State.reset with
    ident := { serial := 7, hallChip := 100 }
    power := { ready := true, startStep := 8 }
    time := { hall := 100 * State.tideUnits, tide := 100, ticks := 3000000, loop := .locked, frame := true
              calValid := true, refSource := .primary, refPort := 22 }
    image := { active := { image := some image, hash := hash } }
    ports := [(0, faced 101 8 1), (1, faced 102 9 6), (2, faced 103 10 3), (3, faced 101 8 5),
              (22, { faced 200 0 0 with nb := { (faced 200 0 0).nb with role := 4 } })]
    parts := { state := [.attached, .detached, .detached, .detached, .detached, .detached, .detached, .detached] }
    groups := [(0, { established := true }), (1, { established := true })]
    queues := [(0, { state := .running }), (1, { state := .running })] }

/-! ### Ill-formed commands -/

theorem test_wf_tag : (Instr.attach 16 0).wf = false ∧ (Instr.attach 15 7).wf = true := by decide
theorem test_wf_port : (Instr.frameLock 24).wf = false ∧ (Instr.frameLock 23).wf = true := by decide
theorem test_wf_group : (Instr.commitEffect 256).wf = false ∧ (Instr.commitEffect 255).wf = true := by decide
theorem test_wf_bucket : (Instr.ebbHop 0 4096 0 ⟨[], false, 0, 0, [], [], []⟩).wf = false
    ∧ (Instr.ebbHop 0 4095 0 ⟨[], false, 0, 0, [], [], []⟩).wf = true := by decide
theorem test_wf_chunk : (Instr.ownerHop 0 0 (2 ^ 20 - 1) ⟨[], false, 0, 0, [], [], []⟩).wf = false := by decide
theorem test_wf_units : (Instr.ownerHop 0 0 0 ⟨[], false, 0, 0, [2 ^ 27], [], []⟩).wf = false
    ∧ (Instr.patrolScrub [2 ^ 27] []).wf = false ∧ (Instr.patrolScrub [] [2 ^ 27]).wf = false ∧ (Instr.unitReset 0 ⟨0, [2 ^ 27]⟩).wf = false := by decide
theorem test_wf_tables : (Instr.tideBoundary ⟨0, 0, [.tide 16], false, [], []⟩).wf = false
    ∧ (Instr.tideBoundary ⟨0, 0, [.neighbour 24], false, [], []⟩).wf = false
    ∧ (Instr.tideBoundary ⟨0, 0, [.trigger 4096], false, [], []⟩).wf = false
    ∧ (Instr.tideBoundary ⟨0, 0, [.tide 15], false, [(256, false, false, 0)], []⟩).wf = false
    ∧ (Instr.tideBoundary ⟨0, 0, [], false, [], [(0, 4096, 0)]⟩).wf = false
    ∧ (Instr.tideBoundary ⟨0, 0, [.neighbour 23, .trigger 4095], false, [], [(255, 4095, 0)]⟩).wf = true := by decide
theorem test_wf_report : (Instr.startUpStep ⟨true, [(40, 0)], [], [], none, false, 0, ⟨0, []⟩⟩).wf = false
    ∧ (Instr.startUpStep ⟨true, [(39, 15)], [39], [23], some 0, false, 0, ⟨0, []⟩⟩).wf = true := by decide
theorem test_wf_index : (Instr.fence 0 (2 ^ 32)).wf = false := by decide
theorem test_wf_part : (Instr.quiesced 8).wf = false := by decide
theorem test_wf_bay : (Instr.coveTakeover 40).wf = false := by decide
theorem test_wf_counter : (Instr.trigAdd 0 4096 0).wf = false := by decide
theorem test_wf_nine : (Instr.eventHeadWrite 0 9 0).wf = false ∧ (Instr.eventRecordWrite [9]).wf = false := by decide
theorem test_wf_xtag : (Instr.expressEffect 0 16 0).wf = false ∧ (Instr.expressEffect 0 1 (2 ^ 14)).wf = false := by
  decide
theorem test_wf_area : (Instr.spillStoreTile 64 []).wf = false := by decide
theorem test_wf_cell : (Instr.hailReceived 0 (List.replicate 255 0)).wf = false := by decide +kernel
theorem test_wf_slot : (Instr.store 0 2).wf = false := by decide
theorem test_wf_size : (Instr.registerRead 0 0 0).wf = false ∧ (Instr.registerRead 0 0 9).wf = false := by decide
theorem test_wf_addr : (Instr.registerRead 0 (2 ^ 32) 4).wf = false := by decide
theorem test_wf_cell_slot : (Instr.chunkCellReceived 0 (2 ^ 16) 0 false (List.replicate 256 0)).wf = false := by
  decide +kernel
theorem test_wf_vc : (Instr.retransmission 0 2).wf = false := by decide
theorem test_wf_flow : (Instr.flowResend 0 32).wf = false := by decide
theorem test_wf_window : (Instr.imageWindowWrite 0 0x400000 4 0).wf = false := by decide
theorem test_wf_block : (Instr.putBlockReceived ⟨0, 0, false, 33⟩).wf = false := by decide
theorem test_wf_temps : (Instr.temperatureUpdate [0]).wf = false := by decide

/-! ### Words and the queue -/

/-- No row of the command table gives bits: no word spells a command, and none is put into the queue. -/
theorem test_no_word_spells_a_command : decodeTableWord 8 1 = none ∧ base.withFetchWord 8 1 = base := ⟨rfl, rfl⟩
theorem test_idle : step State.reset = .next State.reset := rfl
theorem test_step_runs_front : step { State.reset with pending := [.ctxCopy, .activation] }
    = exec .ctxCopy { State.reset with pending := [.activation] } := rfl

/-! ### Off, Hold and the tide -/

def held : State := { base with power := { base.power with mode := .hold } }

theorem witness_OffHeldAndHoldEnginesAreInert :
    { base with power := { base.power with mode := .off } }.alive = false ∧ held.power.mode = .hold
      ∧ actsInHold .ctxCopy = false := by decide

theorem witness_TideBoundaryPassesTime : base.running = true ∧ base.img = some image
    ∧ State.epochOf image ≤ base.time.hall ∧ held.alive = true ∧ held.power.mode = .hold := by decide +kernel

/-- A boundary whose actions are done at once. -/
theorem witness_boundary_done : (match exec (.tideBoundary ⟨0, 0, [], false, [], []⟩) base with
    | .next t => decide (t.time.boundaryOpen = false ∧ State.epochOf image ≤ t.time.hall) && (t.port 0).tideFrame
        && (t.port 0).mark.isSome && (t.runAt 0 0 16).map (·.vc) == some 0
    | _ => false) = true := by
  decide +kernel

/-! ### PTP messages -/

/-- A PTP message: type, flags, sequence number, body. -/
def ptp (type flags seq : Nat) (body : Bytes) : Bytes :=
  leBytes 1 type ++ leBytes 1 0x12 ++ beBytes 2 (34 + body.length) ++ leBytes 2 0 ++ leBytes 1 flags ++ leBytes 1 0
    ++ beBytes 8 0 ++ beBytes 4 0 ++ beBytes 10 0 ++ beBytes 2 seq ++ leBytes 2 0 ++ body

def timeFields (m : Bytes) : CellFields :=
  { type := 5, vc := 3, cls := 0, group := 0, ref := 0, seq := 0, payload := timePayload m }
def timeCell (m : Bytes) : Bytes := mkCell (timeFields m)

def stamp : Bytes := beBytes 6 0 ++ beBytes 4 1000
def syncMsg : Bytes := ptp 0 0 7 stamp
def syncTwoStep : Bytes := ptp 0 2 7 stamp
def followUpMsg : Bytes := ptp 8 0 7 stamp
def delayRespMsg : Bytes := ptp 9 0 2 (stamp ++ beBytes 8 7 ++ beBytes 2 23)
def announceMsg (cls : Nat) : Bytes :=
  ptp 11 0 7 (beBytes 10 0 ++ beBytes 3 0 ++ beBytes 1 128 ++ leBytes 1 cls ++ beBytes 15 0)

/-- The time port has sent its request number 2 and waits for the Follow_Up of the Sync number 7. -/
def timed : State := base.setTimePort 22 { lost := false, reqSeq := 3, reqTx := some 5, twoStepSeq := some 7, paired := true }

theorem witness_ptp_sync : timed.running = true ∧ timed.ptpArrives 22 ptpSync (timeCell syncMsg) syncMsg
    ∧ ptpTwoStep syncMsg = false :=
  ⟨by decide, ⟨_, ⟨by decide, cellOk_padTo_mkCell _, rfl, by decide +kernel⟩, by decide +kernel⟩, by decide +kernel⟩

theorem witness_ptp_sync_two_step : timed.ptpArrives 22 ptpSync (timeCell syncTwoStep) syncTwoStep
    ∧ ptpTwoStep syncTwoStep = true :=
  ⟨⟨_, ⟨by decide, cellOk_padTo_mkCell _, rfl, by decide +kernel⟩, by decide +kernel⟩, by decide +kernel⟩

theorem witness_ptp_sync_freerun : State.running { timed with time := { timed.time with loop := .freerun } } = true
    ∧ State.ptpArrives { timed with time := { timed.time with loop := .freerun } } 22 ptpSync (timeCell syncMsg) syncMsg :=
  ⟨by decide, ⟨_, ⟨by decide, cellOk_padTo_mkCell _, rfl, by decide +kernel⟩, by decide +kernel⟩⟩

theorem witness_ptp_follow_up : timed.ptpArrives 22 ptpFollowUp (timeCell followUpMsg) followUpMsg
    ∧ (timed.timePort 22).twoStepSeq = some (readPtp followUpMsg).seq :=
  ⟨⟨_, ⟨by decide, cellOk_padTo_mkCell _, rfl, by decide +kernel⟩, by decide +kernel⟩, by decide +kernel⟩

theorem witness_ptp_delay_resp : timed.ptpArrives 22 ptpDelayResp (timeCell delayRespMsg) delayRespMsg
    ∧ (timed.timePort 22).reqTx = some 5 ∧ (readPtp delayRespMsg).seq = ((timed.timePort 22).reqSeq + 65535) % 65536
    ∧ ptpRequester delayRespMsg = timed.ptpIdentity 22 ∧ (timed.timePort 22).paired = true :=
  ⟨⟨_, ⟨by decide, cellOk_padTo_mkCell _, rfl, by decide +kernel⟩, by decide +kernel⟩, by decide +kernel⟩

theorem witness_ptp_announce : timed.ptpArrives 22 ptpAnnounce (timeCell (announceMsg 6)) (announceMsg 6)
    ∧ ptpClass (announceMsg 6) ≤ timed.timeCfg.classMax :=
  ⟨⟨_, ⟨by decide, cellOk_padTo_mkCell _, rfl, by decide +kernel⟩, by decide +kernel⟩, by decide +kernel⟩

theorem witness_ptp_announce_past : timed.ptpArrives 22 ptpAnnounce (timeCell (announceMsg 7)) (announceMsg 7)
    ∧ timed.timeCfg.classMax < ptpClass (announceMsg 7) :=
  ⟨⟨_, ⟨by decide, cellOk_padTo_mkCell _, rfl, by decide +kernel⟩, by decide +kernel⟩, by decide +kernel⟩

theorem witness_ptp_delay_req : timed.running = true ∧ timed.sourceOf 22 ≠ .none ∧ (timed.port 22).nb.state = .accepted
    ∧ (timed.port 22).link = .service ∧ (timed.timePort 22).lastReq = none := by decide

/-- A peer-delay message (type 2) is not taken. -/
theorem witness_ptp_discard : timed.arrives 22 tTime (timeCell (ptp 2 0 7 stamp)) (readCell (padTo 256 (timeCell (ptp 2 0 7 stamp))))
    ∧ ptpMessage (readCell (padTo 256 (timeCell (ptp 2 0 7 stamp)))).payload = some (ptp 2 0 7 stamp)
    ∧ State.ptpTaken (ptpType (ptp 2 0 7 stamp)) = false :=
  ⟨⟨by decide, cellOk_padTo_mkCell _, rfl, by decide +kernel⟩, by decide +kernel⟩

/-! ### The loss of time -/

theorem witness_ReferenceLossLeadsToHoldoverAndTimeLost :
    passed timed.time.ticks (timed.timePort 22).lastSync 8 timed.timeCfg.syncLog = true
      ∧ passed timed.time.ticks (timed.timePort 22).lastAnnounce 3 timed.timeCfg.announceLog = true
      ∧ timed.running = true ∧ timed.sourceOf 22 ≠ .none ∧ timed.time.refSource = timed.sourceOf 22
      ∧ timed.time.loop = .locked ∧ timed.switchable (State.otherSource (timed.sourceOf 22)) = false := by
  decide +kernel

theorem witness_timeout_not_due : passed 24413 0 8 (-7) = false ∧ passed 24415 0 8 (-7) = true
    ∧ passed 1171874 0 3 0 = false ∧ passed 1171875 0 3 0 = true := by decide

def drifting : State :=
  { base with time := { base.time with
      loop := .holdover, refSource := .none, bound := 212992, boundStart := 212992, boundTide := 3000000
      lostAsked := some 2999999 } }

theorem witness_time_lost : drifting.alive = true ∧ drifting.time.loop = .holdover ∧ drifting.time.refSource = .none
    ∧ 212992 ≤ drifting.boundAt (drifting.time.ticks + 1)
    ∧ { drifting with time := { drifting.time with boundStart := 98304 } }.boundAt (drifting.time.ticks + 1) < 212992
    ∧ drifting.time.lostAsked = some 2999999 ∧ 2999999 < drifting.time.ticks
    ∧ (drifting.port 0).link = .service
    ∧ { timed with time := { timed.time with loop := .freqAcquire } }.time.refSource = timed.sourceOf 22 := by decide +kernel

theorem witness_time_lost_aborts : (let s := drifting.modGroup 0 (fun gr => { gr with state := .exchange })
    0 ∈ s.ownGroups ∧ s.abortable 0 = true ∧ (s.group 0).abort = none ∧ s.running = true) := by decide +kernel

/-! ### Tide marks and PPS -/

def cell3 (type : Nat) (payload : Bytes) : CellFields :=
  { type := type, vc := 3, cls := 0, group := 0, ref := 0, seq := 0, payload := payload }

/-- A mark that carries tide 100, and one that carries tide 99. -/
def markCell (n : Nat) : Bytes := mkCell (cell3 1 (markPayload n 1 0))

/-- Port 0 in ALIGN. -/
def aligning : State := base.modPort 0 (fun q => { q with link := .align, marks := 63 })

theorem witness_mark : base.running = true ∧ base.arrives 0 tMark (markCell 100) (readCell (padTo 256 (markCell 100)))
    ∧ base.time.frame = true ∧ (base.port 0).link = .service
    ∧ (bitAt (rd (readCell (padTo 256 (markCell 100))).payload 4 1) 0
        && rd (readCell (padTo 256 (markCell 100))).payload 0 4 == base.time.tide % 2 ^ 32) = true :=
  ⟨by decide, ⟨by decide, cellOk_padTo_mkCell _, rfl, by decide +kernel⟩, by decide +kernel⟩

theorem witness_mark_align : aligning.arrives 0 tMark (markCell 100) (readCell (padTo 256 (markCell 100)))
    ∧ (aligning.port 0).link = .align ∧ (aligning.markAlign 0 20479200).natAbs ≤ 655360 :=
  ⟨⟨by decide, cellOk_padTo_mkCell _, rfl, by decide +kernel⟩, by decide +kernel⟩

/-- A mark 25 ns late at 10 ns of clearance is out of bounds on either side. -/
theorem witness_mark_far : 655360 < (base.markAlign 0 20482000).natAbs := by decide +kernel

theorem witness_mark_no_frame : { drifting with time := { drifting.time with frame := false } }.arrives 0 tMark
    (markCell 100) (readCell (padTo 256 (markCell 100))) :=
  ⟨by decide, cellOk_padTo_mkCell _, rfl, by decide +kernel⟩

theorem witness_pps_in_and_end : { base with time := { base.time with ppsInEnable := true } }.running = true
    ∧ { drifting with time := { drifting.time with loop := .timeLost } }.frameNow = false := by decide +kernel

theorem witness_pps : base.running = true ∧ base.time.frame = true ∧ base.time.ppsOutEnable = true
    ∧ base.tagPriv 8 = true := by decide

/-- The second that falls into the tide in progress, and a tide in which none does. -/
theorem witness_pps_second :
    (let s : State := { base with time := { base.time with hall := 390625 * State.tideUnits } }
     s.time.hall ≤ 1 * 65536000000000 ∧ 1 * 65536000000000 < s.time.hall + State.tideUnits ∧ s.time.ppsOutSec ≠ some 1)
      ∧ (∀ n : Nat, base.time.hall ≤ n * 65536000000000 → base.time.hall + State.tideUnits ≤ n * 65536000000000) := by
  refine ⟨by decide, fun n h => ?_⟩
  have : base.time.hall = 16777216000 := rfl
  rw [this] at h ⊢
  unfold State.tideUnits State.nsUnits
  omega

/-! ### Calibration, temperature -/

def storing : State := { base with image := { base.image with job := .store 0 true } }
def committing : State := { base with cal := { base.cal with busy := true, committing := [(0, 1)] } }

theorem witness_CalibrationRecordIsWrittenAndCommitted :
    base.running = true ∧ base.tagPriv 8 = true ∧ base.cal.busy = false ∧ committing.cal.busy = true
      ∧ (1 : Word32).toNat % 2 = 1 ∧ base.storeBusy = false ∧ base.cal.work.wf = true ∧ storing.storeBusy = true
      ∧ storing.running = true ∧ storing.tagPriv 8 = true ∧ committing.running = true
      ∧ committing.power.restart = .none ∧ committing.nv.bytes.wf = true ∧ committing.cal.committing.wf = true := by
  decide +kernel

theorem witness_committing_past : ∀ x, 65536 ≤ x → committing.cal.committing.read x = 0 := by
  intro x h
  show Mem.read [(0, 1)] x = 0
  unfold Mem.read Mem.read
  rw [if_neg (by omega)]

def hot : State :=
  { base with power := { base.power with dieTemp := [29441, 0, 0, 0, 0, 0] }, cal := { base.cal with lastTemp := some 2999000 } }

theorem witness_TemperatureWarnsAndShutsDown :
    base.alive = true ∧ base.cal.lastTemp = none ∧ hot.alive = true ∧ hot.cal.lastTemp = some 2999000
      ∧ hot.time.ticks < 2999000 + 4096 ∧ 2999000 < hot.time.ticks ∧ hot.running = true
      ∧ (∃ x ∈ hot.power.dieTemp, 29440 < x) ∧ (∀ x ∈ base.power.dieTemp, x ≤ 29440) := by decide +kernel

/-- The limits of DIE_TEMP at their edges: 100 °C is no warning and no alert, 100 °C and 1/256 is both. -/
theorem test_thermal_warn_edge :
    (match exec (.temperatureUpdate [25600, 0, 0, 0, 0, 0]) base with | .next t => t.power.thermalWarn | _ => true) = false
      ∧ (match exec (.temperatureUpdate [25601, 0, 0, 0, 0, 0]) base with
          | .next t => t.power.thermalWarn && t.power.thermAlert && !t.power.thermalCrit | _ => false) = true := by
  decide +kernel

/-! ### Power, resets, start-up -/

def off : State := { base with power := { base.power with mode := .off } }
def ballLow : State := { base with power := { base.power with modResetLow := true } }
def idle : State := { base with power := { base.power with mode := .idle } }
def entering : State := { base with power := { base.power with mode := .hold, holdEntry := true } }

theorem witness_ResetsAndRestartsStartAgain :
    off.power.mode = .off ∧ base.power.mode ≠ .off ∧ base.power.modResetLow = false ∧ ballLow.power.modResetLow = true
      ∧ ballLow.power.mode ≠ .off ∧ base.running = true ∧ base.storeBusy = false ∧ base.power.restart ≠ .cold
      ∧ base.tagPriv 8 = true ∧ (0x5AFE0001 : Word32).toNat / 65536 = 0x5AFE ∧ (0x5AFE0001 : Word32).toNat % 4 = 1
      ∧ 2 ≤ (0x5AFE0002 : Word32).toNat % 4 ∧ (0x5AFE0003 : Word32).toNat % 4 = 3 ∧ held.alive = true
      ∧ held.power.mode = .hold ∧ held.power.holdEntry = false ∧ (∀ x ∈ held.power.dieTemp, x ≤ 23040)
      ∧ (1 : Word32).toNat / 65536 ≠ 0x5AFE := by decide +kernel

theorem witness_restart_hot : (let s : State := { held with power := { held.power with dieTemp := [23041] } }
    s.alive = true ∧ s.power.mode = .hold ∧ s.power.holdEntry = false ∧ ∃ x ∈ s.power.dieTemp, 23040 < x) := by
  decide +kernel

theorem witness_PowerCtrlMovesBetweenStates :
    idle.running = true ∧ idle.tagPriv 8 = true ∧ idle.power.mode = .idle ∧ idle.resting = true ∧ idle.storeBusy = false
      ∧ idle.power.restart = .none ∧ base.power.mode = .full ∧ base.resting = true ∧ entering.alive = true
      ∧ entering.power.mode = .hold ∧ entering.power.holdEntry = true ∧ entering.power.restart ≠ .warm
      ∧ (let s : State := { idle with cal := { idle.cal with busy := true } }
         s.running = true ∧ s.tagPriv 8 = true ∧ s.power.mode = .idle ∧ s.resting = true ∧ s.storeBusy = true
           ∧ s.power.restart = .none) := by
  decide +kernel

def wakingAt (n : Nat) : State := { idle with power := { idle.power with wakeAt := some n } }

theorem witness_wake : (wakingAt 3000000).running = true ∧ (wakingAt 3000000).power.wakeAt = some 3000000
    ∧ (wakingAt 3000000).power.mode = .idle ∧ 3000000 ≤ (wakingAt 3000000).time.ticks
    ∧ (wakingAt 3000001).time.ticks < 3000001
    ∧ { entering.power with restart := .warm }.restart = .warm := by decide +kernel

/-- What Hold kept of `base` under its image, or another. -/
def keptHold (h : Bytes) : Saved :=
  { buckets := [], areas := [], groups := [(0, { record := some { step := 7 } })], parts := base.parts, queues := [], triggers := [(3, 5)]
    rings := [], events := [], hash := h }
/-- A warm start-up under way with something kept. -/
def warming (n : Nat) (h : Bytes) : State :=
  { base with power := { base.power with ready := false, startStep := n, warm := true }, saved := some (keptHold h) }

theorem witness_hold_keeps : base.saved = none ∧ (warming 3 hash).saved = some (keptHold hash)
    ∧ (warming 3 hash).power.startStep ≠ 0 ∧ (warming 3 hash).power.ready = false ∧ (warming 3 hash).running = true
    ∧ (warming 3 hash).storeBusy = false ∧ (warming 3 hash).power.restart ≠ .cold := by decide +kernel

theorem witness_gave_back : (warming 8 hash).running = true ∧ (warming 8 hash).power.startStep = 8
    ∧ (warming 8 hash).portsServe = false
    ∧ (let s : State := { warming 8 hash with time := { base.time with frame := false } }
       s.portsServe = true ∧ s.img.isSome = true ∧ (keptHold hash).hash = s.image.active.hash
         ∧ (keptHold mapHash).hash ≠ s.image.active.hash)
    ∧ (keptHold hash).queues = [] ∧ ((keptHold hash).groups.map (·.1)).Nodup
    ∧ (base.im.groupDesc 0).isSome = true := by decide +kernel

def atStep (n : Nat) (w : Bool) : State := { base with power := { base.power with ready := false, startStep := n, warm := w } }

theorem witness_StartUpAdvancesStepByStep :
    base.running = true ∧ base.power.ready = true ∧ (atStep 4 false).running = true ∧ (atStep 4 false).power.ready = false
      ∧ (atStep 4 false).power.halted = false ∧ (atStep 4 false).power.startStep = 4 ∧ (atStep 4 false).timeDone = true
      ∧ (atStep 4 false).img.isSome = true ∧ (atStep 2 true).power.warm = true ∧ (atStep 2 false).power.warm = false
      ∧ (atStep 8 false).portsServe = false := by decide +kernel

theorem witness_start_up_waits : (let s : State := { atStep 4 false with time := { base.time with loop := .freerun } }
    s.timeDone = false ∧ s.noTimePort = false)
    ∧ (let s : State := { atStep 8 false with time := { base.time with frame := false } }
       s.running = true ∧ s.power.startStep = 8 ∧ s.portsServe = true) := by decide +kernel

/-- Without an image: time that is LOCKED, and no time port known; a bank with nothing in the store boots no image. -/
theorem witness_start_up_without_image : (let s : State := { atStep 4 false with image := {} }
    s.running = true ∧ s.timeDone = true ∧ s.img = none ∧ s.image.absent = false)
    ∧ (let s : State := { atStep 4 false with image := {}, time := { base.time with loop := .freerun } }
       s.timeDone = false ∧ s.noTimePort = true)
    ∧ (let s : State := { atStep 6 false with image := {} }
       s.running = true ∧ s.img = none ∧ s.bootImage.image.absent = true)
    ∧ (atStep 5 false).power.startStep = 5 ∧ (atStep 7 true).power.warm = true := by decide +kernel

/-! ### Ports -/

def linked (l : Link) : State := base.modPort 0 (fun q => { q with link := l })

theorem witness_TrainingClimbsStateByState :
    (linked .off).running = true ∧ (linked .off).tagPriv 8 = true ∧ ((linked .off).port 0).link = .off
      ∧ (linked .off).power.dumap.ports.contains 0 = false ∧ (linked .off).role 0 ≠ 0
      ∧ ((linked .signal).port 0).link = .signal ∧ ((linked .frame).port 0).link = .frame
      ∧ (let s := (linked .align).modPort 0 (fun q => { q with marks := 64 })
         (s.port 0).link = .align ∧ 64 ≤ (s.port 0).marks ∧ s.time.frame = true ∧ s.running = true)
      ∧ (aligning.port 0).marks < 64 ∧ ((linked .frame).port 0).link ≠ .signal := by decide +kernel

theorem witness_TrainingEndsOnDisableRetrainOrLoss : base.running = true ∧ base.tagPriv 8 = true
    ∧ trained (base.port 0).link = true := by decide +kernel

/-- The hail of the partner that port 0 expects, with a role, a chip number and a FORMAT. -/
def hail (format role chip : Nat) : Hail :=
  { format := format, role := role, port := 1, flags := 0, chip := chip, serial := 8, version := 0x5A340100, firmware := 0
    imageHash := hash, mapHash := mapHash, hailTide := 0, seenChip := 100, seenSerial := 7, seenPort := 0 }
def hailCell (h : Hail) : Bytes := mkCell (cell3 6 (hailPayload h))

def known (c : Nat) : State := base.modPort 0 (fun q => { q with nb := { q.nb with chip := c } })

/-- Port 0 in DISCOVER with a DELAY of `d` units that the record holds for the partner of the hail. -/
def discovering (d : Nat) : State :=
  let s : State := linked .discover
  { s with cal := { s.cal with inEffect := Mem.writeBytes (Mem.writeBytes (Mem.writeBytes [] 0x110 (leBytes 4 d)) 0x11C
      (leBytes 4 (101 + 2 ^ 20) ++ leBytes 8 8)) 0x130 (leBytes 1 4) } }

/-- The hail that takes the port to ALIGN, and the one whose latency fails test 7. -/
theorem witness_hail_aligns : (discovering 163840).running = true
    ∧ (discovering 163840).arrives 0 tHail (hailCell (hail 1 1 101)) (readCell (padTo 256 (hailCell (hail 1 1 101))))
    ∧ (let h := readHail (readCell (padTo 256 (hailCell (hail 1 1 101)))).payload
       let s := discovering 163840
       h.format = 1 ∧ s.hailFault 0 h = none ∧ s.newPartner 0 h = false ∧ (s.port 0).link = .discover
         ∧ s.otherPartner 0 h = false ∧ s.delayValid 0 = true ∧ s.time.frame = true ∧ s.img.isSome = true
         ∧ (s.port 0).driftBar = false ∧ (discovering (401 * 163840)).hailFault 0 h = some 7) :=
  ⟨by decide +kernel, ⟨by decide, cellOk_padTo_mkCell _, rfl, by decide +kernel⟩, by decide +kernel⟩

theorem witness_hail_sent : (let s : State := { base with time := { base.time with tide := 1024 } }
    s.running = true ∧ trained (s.port 0).link = true ∧ s.hailTideDue 0 = true ∧ (s.port 0).delayReq = none)
    ∧ base.hailTideDue 0 = false ∧ (base.modPort 0 (fun q => { q with hailDue := true })).hailGoes 0 = true := by
  decide +kernel

theorem witness_hail_accepted : base.running = true
    ∧ base.arrives 0 tHail (hailCell (hail 1 1 101)) (readCell (padTo 256 (hailCell (hail 1 1 101))))
    ∧ (let h := readHail (readCell (padTo 256 (hailCell (hail 1 1 101)))).payload
       h.format = 1 ∧ base.hailFault 0 h = none ∧ base.newPartner 0 h = false ∧ (known 77).newPartner 0 h = true
         ∧ (known 77).hailFault 0 h = none) :=
  ⟨by decide +kernel, ⟨by decide, cellOk_padTo_mkCell _, rfl, by decide +kernel⟩, by decide +kernel⟩

/-- A hail of another FORMAT; one of the wrong role fails test 1, and one of another chip test 2, with the test's number. -/
theorem witness_hail_refused : base.arrives 0 tHail (hailCell (hail 2 1 101)) (readCell (padTo 256 (hailCell (hail 2 1 101))))
    ∧ (readHail (readCell (padTo 256 (hailCell (hail 2 1 101)))).payload).format ≠ 1
    ∧ base.hailFault 0 (readHail (readCell (padTo 256 (hailCell (hail 1 2 101)))).payload) = some 1
    ∧ base.hailFault 0 (readHail (readCell (padTo 256 (hailCell (hail 1 1 102)))).payload) = some 2
    ∧ base.newPartner 0 (readHail (readCell (padTo 256 (hailCell (hail 1 2 101)))).payload) = false
    ∧ base.newPartner 0 (readHail (readCell (padTo 256 (hailCell (hail 1 1 102)))).payload) = true :=
  ⟨⟨by decide, cellOk_padTo_mkCell _, rfl, by decide +kernel⟩, by decide +kernel⟩

theorem witness_quarantine_and_hail_loss : (let s := base.modPort 0 (fun q => { q with qPending := some 8, qAt := 3000000 })
    s.running = true ∧ (s.port 0).link = .service ∧ (s.port 0).qPending = some 8 ∧ (s.port 0).qAt = s.time.ticks)
    ∧ trained (base.port 0).link = true ∧ (base.port 0).nb.state = .accepted
    ∧ (base.port 0).lastHail + 2048 ≤ base.time.ticks
    ∧ (let s := base.modPort 0 (fun q => { q with link := .quarantine, nb := { q.nb with state := .quarantined } })
       s.running = true ∧ trained (s.port 0).link = true ∧ (s.port 0).nb.state = .quarantined
         ∧ (s.port 0).lastHail + 2048 ≤ s.time.ticks) := by decide +kernel

/-- A ring neighbour whose image is neither the active nor the shadow one, while the group's OPEN is in progress. -/
theorem witness_hail_ends_open : (let s := base.modGroup 0 (fun gr => { gr with openAt := some 90 })
    let h := { readHail (readCell (padTo 256 (hailCell (hail 1 1 101)))).payload with imageHash := List.replicate 48 9 }
    s.hailFault 0 h = some 5 ∧ s.imageMatch h.imageHash = 0 ∧ s.role 0 = 1 ∧ h.format = 1 ∧ 0 ∈ s.groupsOnPort 0
      ∧ (s.group 0).openAt.isSome = true ∧ (s.group 0).abort = none ∧ s.running = true) := by decide +kernel

def delayCell (response : Bool) (id : Nat) : Bytes := mkCell (cell3 7 (delayPayload response id 70000 80000))

/-- Request 9 of port 0, the automatic one or one of a remeasurement with as many exchanges left as `n` says. -/
def asked (auto : Bool) : DelayReq := { id := 9, t1 := 60000, at_ := 2999984, auto := auto }
def remeasure (n : Nat) : Remeasure := { left := n, samples := [] }
def measuring (n : Nat) (auto : Bool := false) : State :=
  base.modPort 0 (fun q => { q with remeasure := some (remeasure n), delayReq := some (asked auto) })

/-- Port 0 has sent its hail, and an exchange is due or a remeasurement under way. -/
def measures (exch : Nat) (m : Option Remeasure) : State :=
  base.modPort 0 (fun q => { q with hailSent := some (base.hailOf 0), exch := exch, remeasure := m })

theorem measures_hailWaits (m : Option Remeasure) (n : Nat) : (measures n m).hailWaits 0 = false := by
  show (true && (false || (some { base.hailOf 0 with hailTide := 0 } != some { base.hailOf 0 with hailTide := 0 }))) = false
  simp

theorem measures_hails : ∀ x ∈ [(1, none), (0, some (remeasure 64))], (List.range 24).filter
    (fun p => ((measures x.1 x.2).hailWaits p || (trained ((measures x.1 x.2).port p).link && (measures x.1 x.2).hailTideDue p))
      && ((measures x.1 x.2).port p).delayReq.isNone) = [1, 2, 3, 22] := by
  intro x hx
  show (0 :: List.range' 1 23).filter _ = _
  rw [List.filter_cons_of_neg (by
    have h : (measures x.1 x.2).hailTideDue 0 = false := by fin_cases hx <;> decide +kernel
    simp [measures_hailWaits, h])]
  fin_cases hx <;> decide +kernel

/-- A remeasurement is under way on port 0, asked for before the hall controller took the calibration token or not. -/
theorem witness_delay_meas_token : base.running = true ∧ base.tagPriv 8 = true ∧ (base.port 0).remeasure = none
    ∧ ((measuring 2).port 0).remeasure = some (remeasure 2) ∧ (measuring 2).calToken 0 = false
    ∧ (let s : State := { measuring 2 with maint := { (measuring 2).maint with tokens := [⟨1, 0, 2, true⟩] } }
       (s.port 0).remeasure = some (remeasure 2) ∧ s.calToken 0 = true ∧ (remeasure 2).under = false) := by decide +kernel

theorem witness_exchange_goes : (measures 1 none).autoGoes 0 = true
    ∧ (measures 0 (some (remeasure 64))).measureGoes 0 = true ∧ (measures 0 (some (remeasure 64))).autoGoes 0 = false := by
  unfold State.autoGoes State.measureGoes State.conflictBut State.holders
  have h := measures_hails (1, none) (by simp)
  have k := measures_hails (0, some (remeasure 64)) (by simp)
  simp only at h k
  simp only [h, k]
  decide +kernel

theorem witness_delay_request : base.running = true ∧ trained (base.port 0).link = true ∧ (base.port 0).delayReq = none
    ∧ (base.port 0).lastReq ≠ some base.time.ticks
    ∧ base.measureGoes 0 = false ∧ base.autoGoes 0 = false ∧ ((measuring 2).port 0).delayReq.isSome = true
    ∧ base.arrives 0 tDelay (delayCell false 9) (readCell (padTo 256 (delayCell false 9)))
    ∧ rd (readCell (padTo 256 (delayCell false 9))).payload 0 1 = 0 :=
  ⟨by decide +kernel, by decide +kernel, by decide +kernel, by decide +kernel, by decide +kernel, by decide +kernel,
    by decide +kernel, ⟨by decide, cellOk_padTo_mkCell _, rfl, by decide +kernel⟩, by decide +kernel⟩

theorem witness_delay_response : (measuring 2).arrives 0 tDelay (delayCell true 9) (readCell (padTo 256 (delayCell true 9)))
    ∧ rd (readCell (padTo 256 (delayCell true 9))).payload 0 1 = 1
    ∧ rd (readCell (padTo 256 (delayCell true 9))).payload 4 4 = 9 ∧ (measuring 2).running = true
    ∧ ((measuring 2).port 0).delayReq = some (asked false) ∧ ((measuring 2 true).port 0).delayReq = some (asked true)
    ∧ ((measuring 2).port 0).remeasure = some (remeasure 2) ∧ ((measuring 1).port 0).remeasure = some (remeasure 1) ∧ (measuring 1).time.calValid = true
    ∧ (measuring 1).cal.inEffect.wf = true ∧ 2999984 + 16 ≤ (measuring 2).time.ticks
    ∧ rd (readCell (padTo 256 (delayCell true 8))).payload 4 4 ≠ 9 :=
  ⟨⟨by decide, cellOk_padTo_mkCell _, rfl, by decide +kernel⟩, by decide +kernel⟩

theorem witness_delay_meas : base.holders.contains (2, 0) = false ∧ (measuring 2).holders.contains (2, 0) = true := by
  decide +kernel

/-- The port's token is free, a bank swap takes every resource, and the token is the check's already. -/
theorem witness_prbs_token : base.holders.contains (3, 5) = false ∧ (base.conflictOf 3 5).isSome = false
    ∧ (let s : State := { base with maint := { base.maint with swapAt := some 3000000 }, time := { base.time with boundaryOpen := true } }
       s.holders.contains (3, 5) = false ∧ (s.conflictOf 3 5).isSome = true ∧ s.running = true)
    ∧ (let s : State := { base with maint := { base.maint with tokens := [⟨3, 5, 2, false⟩] } }
       s.holders.contains (3, 5) = true) := by decide +kernel

def prbsCell : Bytes := mkCell (cell3 8 (prbsPayload 4 [1, 2, 3, 4, 5]))

theorem witness_PrbsAndDegradeChecksCount :
    base.arrives 0 tPrbs prbsCell (readCell (padTo 256 prbsCell)) ∧ rd (readCell (padTo 256 prbsCell)).payload 0 4 = 4
      ∧ (base.port 0).prbsRx = none ∧ 87125000000 < 871251 * 100000 ∧ ¬(87125000000 < 871250 * 100000)
      ∧ (let s := base.modPort 0 (fun q => { q with prbsRx := some 5, prbsSeq := 4 })
         s.running = true ∧ (s.port 0).prbsRx = some 5 ∧ (s.port 0).prbsSeq = 4) :=
  ⟨⟨by decide, cellOk_padTo_mkCell _, rfl, by decide +kernel⟩, by decide +kernel⟩

/-! ### A step in progress -/

/-- A descriptor: opcode, flags, and the bytes from 0x18 on. -/
def desc (opcode flags : Nat) (rest : Bytes) : Bytes :=
  leBytes 1 opcode ++ leBytes 1 flags ++ leBytes 22 0 ++ padTo 40 rest

/-- An EXCHANGE of a bucket: binary32 in from 0x10000 and out to 0x20000, SUM; ready at once (IMMEDIATE). -/
def exchangeOf (bucket : Nat) : Bytes :=
  desc 1 2 (leBytes 2 bucket ++ leBytes 6 0 ++ leBytes 8 0x10000 ++ leBytes 8 0x20000)

def launched : Launch :=
  { bucket := 0, s0 := 110, et := 0, fallback := false, gen := 0, levels := [], n := 3, rails := 1, deferred := false
    chunks := [0, 1, 2], replays := [], waiting := [0, 1, 2], fold := .none, tallyShort := false }

def exchangeOp : QueueOp := { index := 0, raw := exchangeOf 0, phase := .running, launch := some launched }
def commitOp : QueueOp := { index := 1, raw := desc 9 2 [] }

/-- A state at another tide. -/
def at_ (n : Nat) (s : State) : State := { s with time := { s.time with tide := n, hall := n * State.tideUnits } }

/-- Group 0 in EXCHANGE in step 3 with some operations; its base is 102. -/
def stepping (ops : List QueueOp) : State :=
  (base.modGroup 0 (fun gr => { gr with
      step := 3, state := .exchange, base := 102, stepOpen := true
      record := some { step := 3, state := .exchange } })).modQueue 0 (fun q => { q with ops := ops })

/-- The exchange has been launched with start tide 110: the engine is the first member of chunk 2 in tide 110, the middle
one of chunk 1 in tide 111, and the owner of chunk 0 in tide 112. -/
def inStep : State := stepping [exchangeOp, commitOp]

def chunkFields (n cls ref seq : Nat) : CellFields :=
  { type := 2, vc := 0, cls := cls, group := 0, ref := ref, seq := n % 64 * 256 + seq, payload := [], tally := 1 }

theorem witness_chunk_cell : (at_ 110 inStep).running = true ∧ (at_ 110 inStep).inService 1 = true
    ∧ cellOk (padTo 256 (mkCell (chunkFields 110 0 1 0))) = true
    ∧ shapeOk (readCell (padTo 256 (mkCell (chunkFields 110 0 1 0)))) = true
    ∧ (readCell (padTo 256 (mkCell (chunkFields 110 0 1 0)))).seq / 256 = (at_ 110 inStep).now % 64
    ∧ ((at_ 110 inStep).port 1).nb.role ≠ 4 ∧ (at_ 110 inStep).runAt 1 1 16 = some (run 16 4 0 0 0 1 1)
    ∧ ((at_ 110 inStep).expected (run 16 4 0 0 0 1 1) 16).map (fun x => (x.1.g, x.2.1, x.2.2)) = some (0, 1, 0)
    ∧ planRef image bucketA 1 = 1 ∧ (at_ 110 inStep).staging = [] ∧ ((at_ 110 inStep).port 1).asked = [] :=
  ⟨by decide +kernel, by decide +kernel, cellOk_padTo_mkCell _, by decide +kernel⟩

def blockFields (n ref seq : Nat) : CellFields :=
  { type := 3, vc := 1, cls := 0, group := 0, ref := ref, seq := n % 64 * 256 + seq, payload := [] }

theorem witness_transfer_cell : cellOk (padTo 256 (mkCell (blockFields 100 0 0))) = true
    ∧ shapeOk (readCell (padTo 256 (mkCell (blockFields 100 0 0)))) = true
    ∧ base.runAt 1 1 32 = some (run 32 4 1 0 0 1 1) ∧ base.inService 1 = true
    ∧ State.blockFits (base.blockRx.get {} (State.blockKey 0 1)) 0 0 = true :=
  ⟨cellOk_padTo_mkCell _, by decide +kernel⟩

/-- Slot 16 of the tide before is asked for again, and its copy is kept. -/
theorem witness_retransmission : (let s := base.modPort 0 (fun q =>
      { q with requests := [(16, 99)], kept := [⟨99, 16, 0, mkCell (chunkFields 99 0 1 0)⟩] })
    s.running = true ∧ s.inService 0 = true ∧ (s.port 0).retxDone.contains 0 = false ∧ s.wanted 0 0 = [16]
      ∧ s.useSlots 0 0 0 2 (fun _ => true) = [40, 41]) := by decide +kernel

/-- A mark far off, and the quarantine that waits since the tide before, in a step that the port's group runs. -/
theorem witness_port_faults_abort : 655360 < (inStep.markAlign 0 20482000).natAbs ∧ 0 ∈ inStep.groupsOnPort 0
    ∧ inStep.abortable 0 = true ∧ (inStep.group 0).abort = none ∧ (inStep.port 0).link = .service
    ∧ inStep.arrives 0 tMark (markCell 100) (readCell (padTo 256 (markCell 100)))
    ∧ (let s := inStep.modPort 0 (fun q => { q with qPending := some 9, qAt := 2999999 })
       s.running = true ∧ (s.port 0).qPending = some 9 ∧ (s.port 0).qAt < s.time.ticks ∧ s.abortable 0 = true) :=
  ⟨by decide +kernel, by decide +kernel, by decide +kernel, by decide +kernel, by decide +kernel,
    ⟨by decide +kernel, cellOk_padTo_mkCell _, rfl, by decide +kernel⟩, by decide +kernel⟩

/-! ### Queues, triggers, partitions -/

/-- Group 0's queue with other contents. -/
def queued (q : Queue) : State := { base with queues := [(0, q), (1, { state := .running })] }

theorem witness_QueueIndicesMoveWithinTheirRings : base.running = true ∧ base.mayQueue 0 0 = true
    ∧ base.quiescing 0 = false ∧ State.tailOk (base.queue 0) 1024 = true ∧ State.tailOk (base.queue 0) 1025 = false
    ∧ State.headOk (base.queue 0).complHead (base.queue 0).complTail 0 = true
    ∧ State.headOk (base.queue 0).complHead (base.queue 0).complTail 1 = false
    ∧ (let s := base.setPstate 0 .quiescing; s.running = true ∧ s.mayQueue 0 0 = true ∧ s.quiescing 0 = true) := by
  decide +kernel

theorem witness_QueuesStartStopAndFetch :
    (queued {}).running = true ∧ (queued {}).mayQueue 0 0 = true ∧ ((queued {}).queue 0).state = .stopped
      ∧ (queued {}).baseOk 0 0 65536 = true ∧ (queued {}).baseOk 0 0 32768 = true ∧ (base.queue 0).state = .running
      ∧ ((queued { state := .error }).queue 0).state = .error
      ∧ ((queued { state := .stopping }).queue 0).state = .stopping ∧ (queued { state := .stopping }).outstanding 0 = false
      ∧ ((queued { state := .stopping }).queue 0).waitedAt ≠ some (queued {}).now
      ∧ ((queued { state := .stopping, waitedAt := some 100 }).queue 0).waitedAt = some (queued {}).now
      ∧ (queued { state := .running, tail := 1 }).mayFetch 0 = true ∧ base.mayFetch 0 = false
      ∧ (let s := queued { complTail := 3, written := [⟨9, 0, [], none⟩, ⟨9, 1, [], none⟩, ⟨9, 2, [], none⟩] }
         s.running = true ∧ (s.queue 0).complErr = false ∧ ((s.queue 0).complTail - BitVec.ofNat 32 1).toNat = 2
           ∧ 2 ≤ (s.queue 0).written.length) := by decide +kernel

def triggerAddOp : QueueOp := { index := 0, raw := desc 10 2 (leBytes 2 3 ++ leBytes 2 0 ++ leBytes 4 5) }
def fenceOp : QueueOp := { index := 1, raw := desc 11 2 [] }

theorem witness_TriggersAndFencesComplete : base.running = true ∧ base.trigReach 0 3 = true ∧ base.trigReach 8 4095 = true
    ∧ base.trigDetached 3 = false
    ∧ (queued { ops := [triggerAddOp] }).readyOp 0 0 Desc.opTriggerAdd = some triggerAddOp ∧ triggerAddOp.recorded = false
    ∧ (queued { ops := [{ triggerAddOp with phase := .done }, fenceOp] }).readyOp 0 1 Desc.opFence = some fenceOp
    ∧ ([{ triggerAddOp with phase := .done }].all (fun o => o.phase == .done)) = true := by decide +kernel

/-- A queue of the hall controller, and its tag, reach a counter of partition 0, which is DETACHED. -/
theorem witness_trigger_detached : (let s : State := { base with parts := { base.parts with state := [.detached] } }
    s.running = true ∧ s.trigReach 8 3 = true ∧ s.trigDetached 3 = true)
    ∧ (let s := (queued { ops := [triggerAddOp] }).setQueue 1 { ops := [triggerAddOp] }
       let s : State := { s with parts := { s.parts with state := [.detached] } }
       s.running = true ∧ s.readyOp 1 0 Desc.opTriggerAdd = some triggerAddOp
         ∧ s.trigDetached (Desc.target triggerAddOp.raw) = true) := by decide +kernel

def inState (x : PState) : State := base.setPstate 0 x

/-- An ATTACH is taken at a boundary whose actions are done. -/
theorem witness_attach_taken : (let s : State := { inState .detached with parts := { (inState .detached).parts with attachAsked := [0] } }
    0 ∈ s.parts.attachAsked ∧ 0 < s.parts.state.length
      ∧ (match exec (.tideBoundary ⟨0, 0, [], false, [], []⟩) s with | .next t => !t.time.boundaryOpen | _ => false) = true) := by
  decide +kernel

theorem witness_PartitionsAttachQuiesceAndDetach : base.running = true ∧ base.tagPriv 8 = true
    ∧ (inState .detached).pstate 0 = .detached ∧ (inState .detached).running = true ∧ (base.im.partDesc 0).valid = true
    ∧ base.pstate 0 = .attached ∧ 0 < base.parts.state.length ∧ (inState .quiescing).pstate 0 = .quiescing
    ∧ (inState .quiescing).quiet 0 = true ∧ (inState .quiesced).pstate 0 = .quiesced
    ∧ (inState .quiesced).parts.quietAt.get 0 0 < (inState .quiesced).time.ticks := by decide +kernel

theorem witness_PrivilegedRegistersRefuseOtherTags : privilegedTag (.portEnable 0 1) = some 0 ∧ base.running = true
    ∧ base.tagPriv 0 = false ∧ privilegedTag (.attach 9 1) = some 9 ∧ base.tagPriv 9 = false := by decide +kernel

def raised : Event := { type := 0x0020, severity := 2, rings := [8], tide := 99 }
def ringed : State := { base with rings := [(8, { base := 4096, enable := true, size := 4 })], events := [raised] }

theorem witness_EventRingsTakeRecords : ringed.running = true ∧ ringed.mayRing 8 8 = true ∧ field (10 * 2) 1 4 ≤ 10
    ∧ 10 < field (11 * 2) 1 4 ∧ bitAt (10 * 2 + 1) 0 = true ∧ ringed.ringPlaced 8 (ringed.ring 8).base 10 = true
    ∧ ringed.ringPlaced 8 (({ base with rings := [(8, { base := 4100 })] } : State).ring 8).base 10 = false
    ∧ State.headOk (ringed.ring 8).head (ringed.ring 8).tail 0 = true
    ∧ State.headOk (ringed.ring 8).head (ringed.ring 8).tail 1 = false ∧ ringed.nextEvent = some raised
    ∧ raised.rings = [8] ∧ (ringed.ring 8).enable = true ∧ (ringed.ring 8).dropped = 0 ∧ 0 < ringFree (ringed.ring 8)
    ∧ State.windowOf (ringed.ring 8) raised = none := by decide +kernel

/-- Ring 8 with other contents; a ring that dropped events and has room again owes a record. -/
def ringed' (x : EventRing) (es : List Event) : State := { base with rings := [(8, x)], events := es }
def owing : EventRing := { base := 4096, enable := true, size := 4, tail := 3, head := 3, overflow := true, dropped := 2, dropTide := 98 }

theorem witness_event_overflow : ringed.withEvent raised = [raised] ∧ (∀ q, q < 9 → State.owesRecord (ringed.ring q) = false)
    ∧ ((ringed' { base := 4096, enable := false, size := 4 } [raised]).ring 8).enable = false
    ∧ (∀ q, q < 9 → State.owesRecord ((ringed' { base := 4096, enable := true, size := 4, tail := 16 } [raised]).ring q) = false)
    ∧ ringFree ((ringed' { base := 4096, enable := true, size := 4, tail := 1024 } [raised]).ring 8) = 0
    ∧ (ringed' { base := 4096, enable := true, size := 4, tail := 1024 } [raised]).nextEvent = some raised
    ∧ (ringed' owing []).running = true ∧ (ringed' owing []).nextEvent = none
    ∧ State.owesRecord ((ringed' owing []).ring 8) = true
    ∧ (∀ q, q < 9 → q ≠ 8 → State.owesRecord ((ringed' owing []).ring q) = false) := by decide +kernel

theorem witness_RegisterAccessesAreJudgedAndRouted : base.running = true ∧ State.goodAccess 4 8 = false
    ∧ State.goodAccess 0x18 8 = true ∧ base.mayReach 0 0x18 = false ∧ base.mayReach 8 0x18 = true
    ∧ base.latched 8 0x18 = none ∧ base.tagPriv 8 = true ∧ held.alive = true ∧ State.holdAnswers 0x18 = false := by
  decide +kernel

theorem witness_SnapshotsAndInspectionReadTheBoundary : base.running = true ∧ base.maySnap 0 1 = true
    ∧ base.maySnap 8 0 = true
    ∧ (let s : State := { base.setSnap 1 { pending := true, askedAt := 2999999, sel := [(0, 0x18), (1, 0x20), (2, 4)] } with
                          time := { base.time with boundaryOpen := true } }
       s.running = true ∧ s.pageDue 1 = true ∧ s.latchTurn = true ∧ (s.snap 1).sel.get 0xFFFFFFFF 2 % 8 ≠ 0
         ∧ (s.snap 1).sel.get 0xFFFFFFFF 0 % 8 = 0 ∧ (s.snap 1).sel.get 0xFFFFFFFF 3 = 0xFFFFFFFF)
    ∧ base.pageReaches 0 0x18 = true ∧ base.pageReaches 1 0x18 = false
    ∧ (let s := base.setSnap 0 { pending := true, caught := some { invalid := 0, tag := 99, vals := [(0, 7)] } }
       (s.snap 0).caught = some { invalid := 0, tag := 99, vals := [(0, 7)] }) ∧ (base.snap 0).caught = none
    ∧ (let s : State := { base with ctxView := { asked := true } }
       s.running = true ∧ s.ctxView.asked = true ∧ s.boundaryDone s.ctxView.askedAt = true ∧ s.selectedCtx = none) := by
  decide +kernel

/-- A boundary whose actions are done has taken the page. -/
theorem witness_boundary_takes_pages : (match exec (.tideBoundary ⟨0, 0, [], false, [], []⟩)
      (base.setSnap 0 { pending := true, askedAt := 3000000, sel := [(0, 0x18)] }) with
    | .next t => !t.time.boundaryOpen && (t.snap 0).pending && (t.snap 0).caught.isSome && decide ((t.snap 0).askedAt < t.time.ticks)
    | _ => false) = true := by decide +kernel

/-! ### Maintenance, test access -/

def withTokens (l : List Token) : State := { base with maint := { base.maint with tokens := l } }
def onBay (n : Nat) (b : BayTest) : State := base.setBay n b
/-- Cove 5 of bay 2 waits to be replaced, at a boundary in progress or not. -/
def takingOver (s : State) (at_ : Bool) : State :=
  { s with maint := { s.maint with takeovers := [(2, 5)] }, time := { s.time with boundaryOpen := at_ } }

theorem witness_TokensTestPortAndLocalFrames : base.running = true ∧ base.tagPriv 8 = true ∧ base.maint.status = 0
    ∧ (0x173 : Word32).toNat = 3 + 16 * 23 ∧ base.deferral 3 23 = none ∧ base.deferral 1 0 = none ∧ base.deferral 2 5 = none
    ∧ (0x8034 : Word32).toNat = 4 + 16 * 3 + 0x8000 ∧ base.conflictOf 4 3 = none
    ∧ (withTokens [⟨1, 0, 2, false⟩]).deferral 1 0 = some (1, 0)
    ∧ (base.modPort 5 (fun q => { q with remeasure := some (remeasure 64) })).deferral 2 5 = some (2, 5)
    ∧ base.power.mode ≠ .off ∧ base.tap.trstLow = false ∧ base.power.modResetLow = false
    ∧ (let s := base.modPort 0 (fun q => { q with link := .discover, tideFrame := false })
       s.running = true ∧ s.localFrame 0 = true ∧ (s.port 0).mark = none)
    ∧ (let s : State := { base with maint := { base.maint with sweep := some (1, 4), tokens := [⟨4, 1, 4, true⟩] } }
       s.running = true ∧ s.maint.sweep = some (1, 4) ∧ 4 + 65536 ≤ s.time.ticks ∧ ∃ x ∈ s.maint.tokens, x.activity = 4) := by
  decide +kernel

/-- The IDCODE leaves with its lowest bit first. -/
theorem test_idcode_leaves_lowest_bit_first :
    exec (.testAccessPortInstruction (.instruction .idcode [])) base
      = .next { base with tap := { base.tap with instr := .idcode },
                          out := base.out ++ [.tapData .idcode (tapOrder 32 0x15A3476B)] } := by rfl

/-- The slice of the tide has been granted at its boundary. -/
def granted (s : State) : State := { s with maint := { s.maint with sliceAt := some s.time.ticks } }

theorem witness_SelfTestScrubAndRetirementAdvance : (granted base).running = true ∧ (granted base).turnBay = 20
    ∧ (granted base).sliceDue 20 = true ∧ (9 : Word32).toNat = (granted base).im.bist.coveSig.getD ((granted base).bay 20).slice 0
    ∧ ((granted base).bay 20).slice ≠ 511 ∧ ((granted (onBay 20 { slice := 511 })).bay 20).slice = 511
    ∧ (granted (onBay 20 { slice := 511 })).sliceDue 20 = true
    ∧ (granted (onBay 20 { passed := true })).sliceDue 20 = false ∧ base.sliceDue 20 = false
    ∧ (8 : Word32).toNat ≠ base.im.bist.coveSig.getD (base.bay 20).slice 0 ∧ ((granted base).bay 20).failed = false
    ∧ (granted (onBay 20 { failed := true })).sliceDue 20 = true ∧ ((granted (onBay 20 { failed := true })).bay 20).failed = true
    ∧ (granted (onBay 20 { failed := true })).turnBay = 20 ∧ base.maint.scrubAt + 1024 < 134217728
    ∧ ({ base with maint := { base.maint with fixed := [3, 4], wrote := [4] } } : State).maint.found = []
    ∧ ({ base with maint := { base.maint with fixed := [3, 4], wrote := [4] } } : State).maint.fixed.countP
        (fun u => !([4] : List Nat).contains u) = 1
    ∧ ({ base with maint := { base.maint with found := [3] } } : State).maint.found = [3] ∧ 3 ∉ base.maint.wrote
    ∧ ({ base with maint := { base.maint with found := [3], wrote := [3] } } : State).maint.found = [3]
    ∧ base.inRegion 3 = true ∧ base.inRegion 134217000 = false
    ∧ (let s : State := { onBay 3 { passed := true } with time := { base.time with boundaryOpen := true } }
       s.running = true ∧ s.handoverDue 3 = true)
    ∧ base.handoverDue 3 = false ∧ base.maint.lastScrub ≠ some base.time.ticks
    ∧ (let s := takingOver base true
       s.running = true ∧ s.maint.takeovers.find? (fun x => x.1 == 2) = some (2, 5) ∧ s.takeoverDue 2 = true
         ∧ s.hasStandby 2 = true)
    ∧ (let s := takingOver (onBay 2 { absent := true }) true
       s.running = true ∧ s.takeoverDue 2 = true ∧ s.hasStandby 2 = false)
    ∧ (takingOver base false).takeoverDue 2 = false
    ∧ (let s : State := { base with maint := { base.maint with retiring := [2] } }
       s.running = true ∧ s.maint.retiring.contains 2 = true ∧ s.atStepBoundary 2 = true) := by decide +kernel

/-! ### Descriptors of a step -/

def waitingExchange : QueueOp := { index := 0, raw := exchangeOf 0 }
/-- The same descriptor with trigger 1 at threshold 1 in place of IMMEDIATE, and MAY_VARY. -/
def unready : QueueOp :=
  { index := 0, raw := leBytes 1 1 ++ leBytes 1 1 ++ leBytes 2 1 ++ leBytes 4 1 ++ (exchangeOf 0).drop 8 }

theorem witness_ExchangesLaunchAtTheirCheck :
    (let s := at_ 108 (stepping [waitingExchange, commitOp])
     s.running = true
       ∧ (s.queue 0).ops.find? (fun o => o.index == 0 && Desc.opcode o.raw == Desc.opExchange) = some waitingExchange
       ∧ s.checkDue 0 waitingExchange = true ∧ s.ringOf 0 = some ringA ∧ s.railsOk 0 = true
       ∧ s.descFault 0 waitingExchange.raw = none ∧ s.im.bucketDesc (Desc.bucket waitingExchange.raw) = some bucketA
       ∧ s.admitted 0 bucketA 3 1 = true ∧ s.carried 0 bucketA ≠ [] ∧ s.opReady 0 waitingExchange = true)
    ∧ (let s := at_ 108 (stepping [unready, commitOp])
       s.checkDue 0 unready = true ∧ s.descFault 0 unready.raw = none ∧ s.opReady 0 unready = false
         ∧ s.slipGroup 0 = false ∧ Desc.mayVary unready.raw = true ∧ s.admitted 0 bucketA 3 1 = true)
    ∧ (at_ 107 (stepping [waitingExchange, commitOp])).checkDue 0 waitingExchange = false := by decide +kernel

/-- One group of the image in SLIP. -/
def slipping (s : State) : State :=
  { s with image := { s.image with active := { s.image.active with
      image := some { image with groups := [⟨0, 0, true, 32768, 0⟩, ⟨1, 8, false, 32768, 0⟩] } } } }
/-- The exchange not ready, and not one that may vary; one with bits in a reserved field; one of a bucket that the image does
not hold, and of another group's; one that writes where it reads; one outside its partition; a sum of counts. -/
def strict : QueueOp := { index := 0, raw := leBytes 1 1 ++ leBytes 1 0 ++ leBytes 2 1 ++ leBytes 4 1 ++ (exchangeOf 0).drop 8 }
def reserved : QueueOp := { index := 0, raw := (exchangeOf 0).take 0x38 ++ leBytes 8 1 }
def overlapping : QueueOp :=
  { index := 0, raw := desc 1 2 (leBytes 2 0 ++ leBytes 6 0 ++ leBytes 8 0x10000 ++ leBytes 8 0x10100) }
def outside : QueueOp :=
  { index := 0, raw := desc 1 2 (leBytes 2 0 ++ leBytes 6 0 ++ leBytes 8 0x10000 ++ leBytes 8 0x200000000) }
def counting : QueueOp := 
  { index := 0, raw := desc 2 2 (leBytes 2 0 ++ leBytes 2 0 ++ leBytes 1 2 ++ leBytes 3 0 ++ leBytes 8 0x10000 ++ leBytes 8 0x20000) }
def checked (o : QueueOp) : State := at_ 108 (stepping [o, commitOp])

theorem witness_exchange_refusals :
    (let s := (checked waitingExchange).modPort 0 (fun q => { q with link := .discover })
     s.checkDue 0 waitingExchange = true ∧ s.ringOf 0 = some ringA ∧ s.railsOk 0 = false)
    ∧ (checked strict).checkDue 0 strict = true ∧ (checked strict).railsOk 0 = true ∧ (checked strict).opReady 0 strict = false
    ∧ (checked strict).slipGroup 0 = false ∧ Desc.mayVary strict.raw = false
    ∧ (checked reserved).checkDue 0 reserved = true ∧ (checked reserved).opReady 0 reserved = true
    ∧ (checked reserved).descViolation 0 reserved.raw = false ∧ Desc.reservedOk reserved.raw = false
    ∧ (let o : QueueOp := { index := 0, raw := exchangeOf 77 }
       (checked o).checkDue 0 o = true ∧ (checked o).im.bucketDesc (Desc.bucket o.raw) = none
         ∧ (checked o).descViolation 0 o.raw = false)
    ∧ (let o : QueueOp := { index := 0, raw := exchangeOf 5 }
       (checked o).checkDue 0 o = true ∧ ((checked o).im.bucketDesc (Desc.bucket o.raw)).map (·.group) = some 1
         ∧ (checked o).descViolation 0 o.raw = false)
    ∧ (checked overlapping).checkDue 0 overlapping = true ∧ (checked overlapping).descViolation 0 overlapping.raw = false
    ∧ (checked overlapping).descRegions overlapping.raw = [(0x10000, 4608), (0x10100, 4608)]
    ∧ overlap 0x10000 4608 0x10100 4608 = true
    ∧ (checked outside).checkDue 0 outside = true ∧ (checked outside).descViolation 0 outside.raw = true
    ∧ (checked outside).opReady 0 outside = true
    ∧ (checked counting).checkDue 0 counting = true ∧ (checked counting).selModeBad counting.raw = true
    ∧ (checked counting).descViolation 0 counting.raw = false
    ∧ (let s : State := { checked waitingExchange with image := { (checked waitingExchange).image with active :=
          { (checked waitingExchange).image.active with image := some { image with parts :=
              [{ image.parts.getD 0 {} with stagingShare := 0, contextShare := 0 }] } } } }
       s.checkDue 0 waitingExchange = true ∧ s.railsOk 0 = true ∧ s.descFault 0 waitingExchange.raw = none
         ∧ s.admitted 0 bucketA 3 1 = false) := by decide +kernel

/-- Under SLIP: the check waits for its tide, and for the result of its ready barrier. -/
theorem witness_exchange_slips :
    (let s := slipping (at_ 107 (stepping [{ waitingExchange with slip := some 0 }, commitOp]))
     s.slipGroup 0 = true ∧ s.now + 2 < s.plannedStart 0 bucketA
       ∧ (s.queue 0).ops.find? (fun o => o.index == 0 && Desc.opcode o.raw == Desc.opExchange)
           = some { waitingExchange with slip := some 0 })
    ∧ (let o : QueueOp := { waitingExchange with slip := some 4 }
       let s := (slipping (at_ 112 (stepping [o, commitOp]))).modGroup 0 (fun gr => { gr with sigma := 4 })
       s.checkDue 0 o = true ∧ s.slipGroup 0 = true ∧ s.plannedStart 0 bucketA = 114 ∧ s.railsOk 0 = true
         ∧ s.descFault 0 o.raw = none ∧ s.admitted 0 bucketA 3 1 = true ∧ s.carried 0 bucketA ≠ [])
    ∧ waitingExchange.slip = none := by decide +kernel

/-- The boundary into the tide before the start of the first chunk. -/
theorem witness_first_reads : (at_ 108 inStep).running = true
    ∧ (match exec (.tideBoundary ⟨0, 0, [], false, [], []⟩) (at_ 108 inStep) with
        | .next t => !t.time.boundaryOpen && t.stepRuns 0
            && (t.opAt 0 0).any (fun v => v.op.phase == .running && v.l.s0 == t.now + 1 && !v.l.chunks.isEmpty)
        | _ => false) = true := by decide +kernel

def barrierOp : QueueOp := { index := 0, raw := desc 5 2 [], seq := 4 }
def scalarOp : QueueOp := { index := 0, raw := desc 6 2 (leBytes 4 0 ++ leBytes 4 77), seq := 4 }

theorem witness_StepDescriptorsGiveTheirOperands :
    (let s := stepping [barrierOp, commitOp]
     s.running = true ∧ (s.stepOps 0).find? (fun o => o.index == 0 && Desc.opcode o.raw == Desc.opBarrier) = some barrierOp
       ∧ s.stepRuns 0 = true ∧ barrierOp.phase = .waiting ∧ s.opReady 0 barrierOp = true ∧ s.expressWaits 0 0 = false
       ∧ s.descFault 0 barrierOp.raw = none ∧ s.heldMismatch 0 barrierOp = false ∧ s.commitOp 0 = some commitOp
       ∧ commitOp.phase = .waiting ∧ s.fenced 0 1 = false ∧ s.descFault 0 commitOp.raw = none)
    ∧ (let s := stepping [scalarOp, commitOp]
       (s.stepOps 0).find? (fun o => o.index == 0 && Desc.opcode o.raw == Desc.opScalar) = some scalarOp
         ∧ s.descFault 0 scalarOp.raw = none ∧ Desc.operand scalarOp.raw = 77) := by decide +kernel

/-! ### Transfers and flows -/

/-- A PUT of four bytes over rail 0 to the successor, and a GET on flow 2. -/
def putOp : QueueOp :=
  { index := 3, readyAt := some 99
    raw := desc 3 2 (leBytes 4 0 ++ leBytes 4 4 ++ leBytes 8 0x10000 ++ leBytes 8 0x20000) }
def getOp : QueueOp :=
  { index := 4, readyAt := some 99
    raw := desc 4 3 (leBytes 2 0 ++ leBytes 1 1 ++ leBytes 1 2 ++ leBytes 4 4 ++ leBytes 8 0x10000 ++ leBytes 8 0x20000) }

theorem witness_put_and_get :
    (let s := queued { ops := [putOp] }
     s.running = true ∧ s.readyOp 0 3 Desc.opPut = some putOp
       ∧ s.transferPort 0 (Desc.rail putOp.raw) (Desc.peer putOp.raw == 0) = some 0 ∧ s.quiescing 0 = false
       ∧ s.transferWaits 0 putOp = false ∧ s.power.mode = .full ∧ s.readyBefore putOp = true)
    ∧ (let s := queued { ops := [getOp] }
       s.readyOp 0 4 Desc.opGet = some getOp ∧ s.transferWaits 0 getOp = false ∧ s.readyBefore getOp = true
         ∧ Desc.service getOp.raw = 1 ∧ Desc.flowNo getOp.raw = 2) := by decide +kernel

/-- A block of a kind staged on port 1, one cell, from the predecessor. -/
def header (kind len addr : Nat) : BlockHeader :=
  { kind := kind, status := 0, length := len, addr := addr, replyAddr := 0x30000, transfer := 3, block := 0 }
def arrived (kind len addr : Nat) : State :=
  { (queued { ops := [{ putOp with phase := .running }] }) with
    staging := [{ group := 0, lap := 2, rail := 0, ref := 0, index := 0, tide := 99, port := 1
                  cell := mkCell { blockFields 99 0 0 with
                    payload := transferHeader (header kind len addr) ++ [1, 2, 3, 4], last := true } }] }
def fromPred : BlockFrom := ⟨0, 0, false, 0⟩

theorem witness_put_block : (let s := arrived 0 4 0x20000
    s.running = true ∧ s.transferPort 0 0 false = some 1 ∧ (s.vc1Block 0 1).isSome = true
      ∧ (s.vc1Block 0 1).map (·.hdr) = some (some (header 0 4 0x20000)) ∧ (s.vc1Block 0 1).map (·.missing) = some 0
      ∧ s.badRegion 0 0x20000 4 = false ∧ s.badRegion 0 0x100000000 4 = true) := by decide +kernel

theorem witness_put_block_next : ∃ r u, (arrived 0 4 0x20000).blockNext fromPred 1 r u ∧ r.hdr = some (header 0 4 0x20000)
    ∧ r.missing = 0 := by
  obtain ⟨-, -, hs, hh, hm, -⟩ := witness_put_block
  obtain ⟨r, hr⟩ := Option.isSome_iff_exists.1 hs
  rw [hr] at hh hm
  exact ⟨r, _, ⟨by decide +kernel, Or.inl ⟨rfl, hr, rfl⟩⟩, by simpa using hh, by simpa using hm⟩

theorem witness_other_blocks : ((arrived 1 4 0x20000).vc1Block 0 1).map (·.hdr) = some (some (header 1 4 0x20000))
    ∧ ((arrived 2 4 0x20000).vc1Block 0 1).map (·.hdr) = some (some (header 2 4 0x20000))
    ∧ ((arrived 3 0 0).vc1Block 0 1).map (·.hdr) = some (some (header 3 0 0)) := by decide +kernel

/-- Data of a GET and an acknowledgement come back on the route of the transfer that waits for them. -/
def transferring (put : Bool) (blocks : Nat) (o : QueueOp) : State :=
  { queued { ops := [{ o with phase := .running }] } with
    xfers := [{ group := 0, index := o.index, isPut := put, blocks := blocks, acked := 0 }] }

theorem witness_transfer_answers :
    (transferring true 1 putOp).transferOf ⟨0, 0, true, 0⟩ 3 true = some ⟨0, 3, true, 1, 0⟩
      ∧ (transferring true 2 putOp).transferOf ⟨0, 0, true, 0⟩ 3 true = some ⟨0, 3, true, 2, 0⟩
      ∧ (transferring false 1 getOp).transferOf ⟨0, 0, true, 3⟩ 4 false = some ⟨0, 4, false, 1, 0⟩
      ∧ ((transferring true 1 putOp).queue 0).ops.find? (fun o => o.index == 3) = some { putOp with phase := .running }
      ∧ putOp.recorded = false := by decide +kernel

/-- Where a port serves two rails of a group, a slot carries the cells of its own rail only, and no block begins within one of
the other rail. -/
theorem test_vc1_slots_keep_to_their_rail :
    (let c (rail seq : Nat) : Nat × CellFields :=
       (rail, { type := 3, vc := 1, cls := 0, group := 0, ref := 0, seq := seq, payload := [] })
     (State.nextVc1 0 1 [c 0 1, c 1 0]).isNone = true ∧ State.nextVc1 0 0 [c 0 1, c 1 0] = some (c 0 1)
       ∧ State.nextVc1 0 1 [c 0 0, c 1 0] = some (c 1 0)) := by decide

/-- A block that claims more bytes than it carries is short. -/
theorem witness_put_block_short : ((arrived 0 4000 0x20000).vc1Block 0 1).map (fun r => r.hdr == some (header 0 4000 0x20000)
      && decide (r.data.length < 4000)) = some true
    ∧ (arrived 0 4000 0x20000).badRegion 0 0x20000 4000 = false := by decide +kernel

/-- An acknowledgement of a block whose header was lost names no transfer. -/
def ackHeader : BlockHeader :=
  { kind := 3, status := 4, length := 0, addr := 0, replyAddr := 0, transfer := noTransfer, block := noTransfer }
theorem witness_ack_without_transfer :
    (let s : State := { arrived 3 0 0 with
        staging := [{ group := 0, lap := 2, rail := 0, ref := 0, index := 0, tide := 99, port := 0
                      cell := mkCell { blockFields 99 0 0 with payload := transferHeader ackHeader, last := true } }]
        xfers := [{ group := 0, index := 3, isPut := true, blocks := 1, acked := 0 }] }
     (s.vc1Block 0 0).map (·.hdr) = some (some ackHeader) ∧ (s.vc1Block 0 0).map (·.missing) = some 0
       ∧ s.runningOn ⟨0, 0, true, 0⟩ true = some ⟨0, 3, true, 1, 0⟩) := by decide +kernel

def flowCell (seq ack : Word32) : Bytes :=
  mkCell { type := 4, vc := 2, cls := 0, group := 0, ref := 0, seq := 0, payload := flowPayload 2 seq ack [1] }
def windowed (n : Nat) : State :=
  base.setFlow (flowKey 1 2) { acked := 7, expect := 5, unacked := List.replicate n ([1], true), sent := n }

theorem witness_flow_cells : (windowed 3).running = true
    ∧ (windowed 3).arrives 1 tFlow (flowCell 5 7) (readCell (padTo 256 (flowCell 5 7)))
    ∧ rd (readCell (padTo 256 (flowCell 5 7))).payload 8 1 = 2 ∧ rd (readCell (padTo 256 (flowCell 5 7))).payload 0 4 = 5
    ∧ rd (readCell (padTo 256 (flowCell 5 7))).payload 4 4 = 7 ∧ (windowed 3).inService 1 = true
    ∧ ((windowed 3).port 1).nb.role ≠ 4 ∧ ((5 : Word32) - 4).toNat ≤ 1024 ∧ 1024 < ((5 : Word32) - 0x80000000).toNat
    ∧ 1024 < ((0x80000000 : Word32) - 5).toNat ∧ ((9 : Word32) - 7).toNat ≤ 3
    ∧ (9 : Word32) ≠ 7 ∧ ((base.modPort 1 (fun q => { q with link := .quarantine })).port 1).link = .quarantine
    ∧ (base.port 22).nb.role = 4 :=
  ⟨by decide +kernel, ⟨by decide, cellOk_padTo_mkCell _, rfl, by decide +kernel⟩, by decide +kernel⟩

theorem witness_flow_resend : (let s := at_ 256 (windowed 3)
    s.running = true ∧ (s.flow (flowKey 1 2)).sent ≠ 0 ∧ (s.flow (flowKey 1 2)).since + 256 ≤ s.now
      ∧ (s.flow (flowKey 1 2)).resends < 16) ∧ (windowed 3).now < ((windowed 3).flow (flowKey 1 2)).since + 256
    ∧ ((base.setFlow (flowKey 1 2) { sent := 1, resends := 16, unacked := [([1], true)] }).flow (flowKey 1 2)).resends = 16 := by
  decide +kernel

/-! ### Hops -/

def env : HopEnv := ⟨[], false, 0, 0, [], [], []⟩
def opView (o : QueueOp) (l : Launch) : OpView := { g := 0, op := o, l := l, d := bucketA, q := 0 }
def chunkCell (n cls c ledger : Nat) : Bytes :=
  mkCell { chunkFields n cls c 0 with ledger := ledger, tally := 1, last := true }
def stagedAt (n cls c ledger : Nat) : State :=
  { at_ n inStep with staging := [{ group := 0, lap := cls, rail := 0, ref := c, index := 0, tide := n - 1, port := 1
                                    cell := chunkCell (n - 1) cls c ledger }] }

theorem witness_EbbHopsAddToTheLedger :
    (at_ 110 inStep).running = true
      ∧ (at_ 110 inStep).hopAt 0 0 2 (fun v => v.hop 2 == 1) = some (opView exchangeOp launched)
      ∧ env.contextUE = false ∧ (at_ 110 inStep).genBad (opView exchangeOp launched) false 2 [] = []
      ∧ (stagedAt 111 0 1 5).hopAt 0 0 1 (fun v => v.hop 1 != 1 && v.hop 1 != v.l.n) = some (opView exchangeOp launched)
      ∧ (stagedAt 111 0 1 5).genBad (opView exchangeOp launched) false 1 [] = []
      ∧ (stagedAt 111 0 1 5).genBad (opView exchangeOp launched) false 1 [3] = [3]
      ∧ (at_ 111 inStep).hopAt 0 0 2 (fun v => v.hop 2 == 1) = none := by decide +kernel

/-- The chunks' rail may carry the cells sent, and their slots are those of the tide's frame. -/
theorem witness_cells_sent : ((at_ 110 inStep).ringOf 0).bind (fun r => (at_ 110 inStep).txPort r
      ((opView exchangeOp launched).railOf 2)) = some 0
    ∧ (at_ 110 inStep).railServes 0 ((opView exchangeOp launched).railOf 2) = true
    ∧ (at_ 110 inStep).sequence 0 0 0 0 0 = [16, 17, 18, 19] ∧ (at_ 110 inStep).sequence 0 0 0 0 1 = [24, 25, 26, 27] := by
  decide +kernel

/-- The trailer and the items of a cell as the first member sends it with nothing in it pass. -/
theorem witness_middle_hop_passes :
    (State.trailerOf 0 ((stagedAt 111 0 1 5).replaysOf (opView exchangeOp launched) 1) [chunkCell 110 0 1 5]).ok = true
      ∧ (State.trailerOf 0 0 [chunkCell 110 0 1 lcMod]).ok = false := by decide +kernel

/-- The engine's ebb work on chunk 2 is done, and its flood cells are here in tide 113. -/
def flooding : State :=
  (stagedAt 113 1 2 (2 ^ 61)).modGroup 0 (fun gr =>
    { gr with ctxs := [{ group := 0, bucket := 0, chunk := 2, ebbDone := true, start := 110 }] })

theorem witness_OwnerAndReceiversCheckTheLedger :
    (stagedAt 112 0 0 5).hopAt 0 0 0 (fun v => v.hop 0 == v.l.n) = some (opView exchangeOp launched)
      ∧ (stagedAt 112 0 0 5).released (opView exchangeOp launched) 0 = false
      ∧ (stagedAt 112 0 0 5).genBad (opView exchangeOp launched) false 0 [] = []
      ∧ flooding.floodAt 0 0 2 = some (opView exchangeOp launched)
      ∧ ((at_ 112 inStep).stagedCells (opView exchangeOp launched) 0 0).any (·.isNone) = true := by decide +kernel

theorem witness_staged_cells :
    (stagedAt 111 0 1 5).stagedCells (opView exchangeOp launched) 1 0 = [chunkCell 110 0 1 5].map some
      ∧ (stagedAt 112 0 0 5).stagedCells (opView exchangeOp launched) 0 0 = [chunkCell 111 0 0 5].map some
      ∧ flooding.stagedCells (opView exchangeOp launched) 2 1 = [chunkCell 112 1 2 (2 ^ 61)].map some := ⟨rfl, rfl, rfl⟩

/-! ### Verdicts, replays, folds -/

def finished (c bits : Nat) : Ctx :=
  { group := 0, bucket := 0, chunk := c, start := 110, ebbDone := true, floodDone := true, checked := true, ownPass := true
    vResult := some bits }
def judged (b : Nat) : State :=
  (at_ 116 inStep).modGroup 0 (fun gr => { gr with ctxs := [finished 0 0, finished 1 0, finished 2 b] })

theorem witness_VerdictsReleaseOrEndTheStep :
    (judged 0).running = true ∧ (judged 0).opAt 0 0 = some (opView exchangeOp launched) ∧ (judged 0).stepRuns 0 = true
      ∧ (opView exchangeOp launched).op.phase ≠ .done ∧ (judged 0).now = (opView exchangeOp launched).verdictTide 0
      ∧ ((opView exchangeOp launched).chunksOf 0).any
          (fun c => !(((judged 0).ctx 0 0 c).map (·.vTaken)).getD false) = true
      ∧ (∀ c ∈ (opView exchangeOp launched).chunksOf 0,
          (judged 0).verdictOf (opView exchangeOp launched) c = some 0) ∧ (judged 0).skipNow 0 = none
      ∧ ((judged 0).group 0).record.isSome = true
      ∧ (at_ 116 inStep).verdictOf (opView exchangeOp launched) 1 = none
      ∧ (at_ 115 inStep).now ≠ (opView exchangeOp launched).verdictTide 0 := by decide +kernel

/-- Chunk 2 has failed and is parked; the replay round starts at tide 118. -/
def failed : State :=
  (at_ 116 inStep).modGroup 0 (fun gr =>
    { gr with ctxs := [{ finished 2 1 with vTaken := true, parked := some 0, replayKind := 1 }] })

def deferredLaunch (f : FoldPhase) : Launch := { launched with deferred := true, fold := f }
def deferredOp (f : FoldPhase) : QueueOp := { exchangeOp with phase := .deferred, launch := some (deferredLaunch f) }

theorem witness_ReplaysAndFoldsRun :
    failed.opAt 0 0 = some (opView exchangeOp launched) ∧ failed.stepRuns 0 = true
      ∧ launched.replays.length < bucketA.replayRounds
      ∧ (opView exchangeOp launched).replayStart 0 ≤ failed.now + 2
      ∧ failed.now < (opView exchangeOp launched).replayStart 0 ∧ failed.replaySet (opView exchangeOp launched) = [2]
      ∧ (stepping [deferredOp .due, commitOp]).opAt 0 0 = some (opView (deferredOp .due) (deferredLaunch .due))
      ∧ (stepping [deferredOp .due, commitOp]).opReady 0 (deferredOp .due) = true
      ∧ (stepping [deferredOp .due, commitOp]).foldBad (opView (deferredOp .due) (deferredLaunch .due)) env = none
      ∧ (stepping [deferredOp .running, commitOp]).opAt 0 0
          = some (opView (deferredOp .running) (deferredLaunch .running))
      ∧ (let s := (stepping [waitingExchange, commitOp]).modGroup 0 (fun gr =>
            { gr with recovery := { gr.recovery with substituted := true, spare := true, releasedSet := [1] } })
         s.running = true ∧ (s.stepOps 0).find? (fun o => o.index == 0) = some waitingExchange ∧ s.ringPos 0 = some 0
           ∧ s.isSpare 0 = true ∧ Desc.isExchange waitingExchange.raw = true ∧ s.opReady 0 waitingExchange = true
           ∧ waitingExchange.spareDone = false ∧ s.spareChunks 0 0 = [1]) := by decide +kernel

/-- The owner of chunk 0 in a flood replay in tide 120, the chunk's wide sum in retention: all zero. -/
def replayLaunch : Launch := { launched with replays := [[0]], waiting := [0] }
def replayOp : QueueOp := { exchangeOp with launch := some replayLaunch }
def zeros : List Int := List.replicate 384 0
def kept : Retained :=
  { bucket := 0, chunk := 0, cells := [], wide := some zeros, indices := [], marks := [], ebbCells := [], clip := 0, ovf := 0
    cove := 0, ebbBay := 0, launch := some replayLaunch, bay := 0 }
def replaying : State :=
  (at_ 120 (stepping [replayOp, commitOp])).modGroup 0 (fun gr =>
    { gr with ctxs := [{ finished 0 2 with replayKind := 2, floodDone := false, flood := 0, vResult := none }]
              retained := [kept] })

theorem witness_flood_replay : replaying.running = true ∧ replaying.opOf 0 0 = some (opView replayOp replayLaunch)
    ∧ replaying.stepRuns 0 = true ∧ (opView replayOp replayLaunch).rounds ≤ (opView replayOp replayLaunch).roundOf 0
    ∧ (opView replayOp replayLaunch).hop 0 = 3 ∧ (replaying.ctx 0 0 0).map (·.replayKind) = some 2
    ∧ replaying.now = (opView replayOp replayLaunch).startOf ((opView replayOp replayLaunch).roundOf 0) + 3 - 1
    ∧ replaying.retainedOf 0 0 0 = some kept ∧ kept.wide = some zeros := by decide +kernel

theorem witness_flood_replay_readable : replaying.retainBad (opView replayOp replayLaunch) 0 [] = [] := by
  have h : replaying.badUnits = [] := rfl
  simp [State.retainBad, h]

/-- Chunk 0 released before, with the payloads of its cells kept: the hop's own are the same or others. -/
def releasedBefore : State :=
  (stagedAt 112 0 0 5).modGroup 0 (fun gr => { gr with
    record := gr.record.map (fun r => { r with entries := [{ chunk := 0, bucket := 0, released := true }] })
    retained := [{ bucket := 0, chunk := 0, cells := [mkCell { chunkFields 112 1 0 0 with payload := [1] }], wide := none
                   indices := [], marks := [], ebbCells := [], clip := 0, ovf := 0, cove := 0, ebbBay := 0, launch := none
                   bay := 0 }] })

theorem witness_released_before : releasedBefore.hopAt 0 0 0 (fun v => v.hop 0 == v.l.n) = some (opView exchangeOp launched)
    ∧ releasedBefore.released (opView exchangeOp launched) 0 = true
    ∧ releasedBefore.sameAsHeld (opView exchangeOp launched) 0 [List.replicate 224 0] = false
    ∧ releasedBefore.sameAsHeld (opView exchangeOp launched) 0 [padTo 224 [1]] = true
    ∧ releasedBefore.genBad (opView exchangeOp launched) false 0 [] = [] := by decide +kernel

theorem unitsOf_ne_nil (a n : Nat) (h : n ≠ 0) : State.unitsOf a n ≠ [] := by
  unfold State.unitsOf rangeFrom
  rw [if_neg h]
  simp

theorem witness_released_unreadable : releasedBefore.floodBad (opView exchangeOp launched) 0 [] = []
    ∧ releasedBefore.retainUnits (opView exchangeOp launched) 0 ≠ []
    ∧ (∃ r, releasedBefore.retainedOf 0 0 0 = some r ∧ r.cells ≠ []) := by
  refine ⟨?_, ?_, ?_⟩
  · have h : releasedBefore.badUnits = [] := rfl
    unfold State.floodBad
    split
    · simp [h]
    · rfl
  · exact unitsOf_ne_nil _ _ (by rw [State.cellRange_length (by decide)]; decide)
  · cases h : releasedBefore.retainedOf 0 0 0 with
    | none => exact absurd h (by decide +kernel)
    | some r => exact ⟨r, rfl, by
        have := Option.some.inj h
        subst this
        decide +kernel⟩

/-- A launch of chunk 2 alone, whose check has failed, and the three chunks of which one is nonfinite. -/
def lone : Launch := { launched with chunks := [2], waiting := [2] }
def loneOp : QueueOp := { exchangeOp with launch := some lone }
def loneFailed (b : Nat) : State :=
  (at_ 116 (stepping [loneOp, commitOp])).modGroup 0 (fun gr => { gr with ctxs := [finished 2 b] })

theorem witness_failing_verdict : (loneFailed 1).running = true ∧ (loneFailed 1).opAt 0 0 = some (opView loneOp lone)
    ∧ (loneFailed 1).stepRuns 0 = true ∧ (loneFailed 1).now = (opView loneOp lone).verdictTide 0
    ∧ (opView loneOp lone).chunksOf 0 = [2] ∧ (loneFailed 1).ctx 0 0 2 = some (finished 2 1)
    ∧ (loneFailed 1).verdictOf (opView loneOp lone) 2 = some 1 ∧ (loneFailed 2).verdictOf (opView loneOp lone) 2 = some 2
    ∧ (loneFailed 1).skipNow 0 = none ∧ 0 + 1 < (opView loneOp lone).rounds + bucketA.replayRounds
    ∧ (loneFailed 0).released (opView loneOp lone) 2 = false ∧ (loneFailed 0).verdictOf (opView loneOp lone) 2 = some 0 := by
  decide +kernel

theorem witness_skip : (judged 4).skipNow 0 = some (0, 2)
    ∧ (∀ c ∈ (opView exchangeOp launched).chunksOf 0, ((judged 4).verdictOf (opView exchangeOp launched) c).isSome = true)
    ∧ (judged 4).now = (opView exchangeOp launched).verdictTide 0 := by decide +kernel

theorem witness_missing_verdict : (let s := (at_ 116 inStep).modGroup 0 (fun gr => { gr with ctxs := [finished 0 0, finished 2 0] })
    s.verdictOf (opView exchangeOp launched) 1 = none
      ∧ ((s.ctx 0 0 1).map (·.vTaken)).getD false = false ∧ s.now = (opView exchangeOp launched).verdictTide 0) := by
  decide +kernel

theorem witness_flood_replay_check :
    (let e := State.encodeChunk (opView replayOp replayLaunch) false kept.marks zeros kept.indices
     (finished 0 2).flood = (replaying.lcOf (opView replayOp replayLaunch) 0 e.sent
       + replaying.structOf (opView replayOp replayLaunch) 0 e.entries) % lcMod)
    ∧ 0 ∈ replayLaunch.chunks := by decide +kernel

/-! ### Express messages -/

def word (k : Nat) (lap flag : Bool) (g tag op v : Nat) : Word64 := msgWord ⟨k, lap, flag, g, tag, op, v⟩

/-- Group 1, in whose ring the engine is the second member, has an express instance. -/
def waits (g : Nat) (e : Express) (s : State) : State := s.modGroup g (fun gr => { gr with express := [e] })

/-- The laps of a BARRIER, a SCALAR and a COMMIT reach the second member of group 1 as their broadcasts. -/
theorem witness_broadcasts : base.running = true ∧ base.taken 3 (word 1 true false 1 7 0 120) false ⟨1, true, false, 1, 7, 0, 120⟩
    ∧ base.taken 3 (word 2 true true 1 7 3 120) true ⟨2, true, true, 1, 7, 3, 120⟩
    ∧ base.taken 3 (word 5 true true 1 0 0 120) false ⟨5, true, true, 1, 0, 0, 120⟩
    ∧ base.ringPos 1 ≠ some 0 ∧ (base.group 1).abort = none ∧ base.msgSettled ⟨1, true, false, 1, 7, 0, 120⟩
    ∧ base.msgSettled ⟨5, true, true, 1, 0, 0, 120⟩ := by
  unfold State.taken State.msgSettled
  refine ⟨?_, ?_, ?_, ?_, ?_, ?_, ⟨?_, ?_⟩, ⟨?_, ?_⟩⟩ <;> decide +kernel

theorem witness_open_broadcast :
    (let s := (waits 1 { kind := 8, tag := 0, own := some 0 } base).modGroup 1 (fun gr => { gr with openAt := some 99 })
     s.taken 3 (word 8 true false 1 0 0 120) false ⟨8, true, false, 1, 0, 0, 120⟩
       ∧ s.msgSettled ⟨8, true, false, 1, 0, 0, 120⟩ ∧ (s.group 1).abort = none) := by
  unfold State.taken State.msgSettled
  refine ⟨by decide +kernel, ⟨fun h => by revert h; decide, fun _ => by decide +kernel⟩, by decide +kernel⟩

theorem witness_verdict_broadcast : (judged 0).running = true
    ∧ (judged 0).taken 1 (word 4 true false 0 0 0 1) false ⟨4, true, false, 0, 0, 0, 1⟩
    ∧ ((judged 0).group 0).abort = none
    ∧ (judged 0).verdictChunk ⟨4, true, false, 0, 0, 0, 1⟩ = some (opView exchangeOp launched, 0)
    ∧ (judged 0).ctx 0 0 0 = some (finished 0 0) := by unfold State.taken; decide +kernel

/-- A SCALAR message on its first lap at the second member of group 1, which has its operand of the instance or none. -/
def scalarOwn : State := waits 1 { kind := 2, tag := 7, own := some 5 } base
def scalarAlone : State := waits 1 { kind := 2, tag := 7 } base

theorem witness_reduce : scalarOwn.taken 3 (word 2 false false 1 7 0 9) false ⟨2, false, false, 1, 7, 0, 9⟩
    ∧ scalarOwn.findExpress 1 2 7 = some { kind := 2, tag := 7, own := some 5 }
    ∧ scalarAlone.findExpress 1 2 7 = some { kind := 2, tag := 7 }
    ∧ scalarOwn.expressOpAt 1 7 = none ∧ scalarOwn.running = true := by unfold State.taken; decide +kernel

theorem witness_reduce_settled : scalarOwn.msgSettled ⟨2, false, false, 1, 7, 0, 9⟩ := by
  unfold State.msgSettled
  refine ⟨fun _ _ op h => ?_, fun h => by revert h; decide⟩
  have : scalarOwn.expressOpAt 1 7 = none := witness_reduce.2.2.2.1
  exact absurd (this.symm.trans h) (by simp)

theorem witness_commit_lap : (let s := waits 0 { kind := 5, tag := 3, own := some 0, forwarded := some 90 } (at_ 100 inStep)
    s.running = true ∧ s.taken 1 (word 5 false true 0 3 0 0) false ⟨5, false, true, 0, 3, 0, 0⟩ ∧ s.ringPos 0 = some 0
      ∧ (s.group 0).abort = none ∧ s.findExpress 0 kCommit 3 = some { kind := 5, tag := 3, own := some 0, forwarded := some 90 }
      ∧ 1 ≤ s.hG 0) := by unfold State.taken; decide +kernel

/-- A SCALAR arrives where the member's descriptor of TAG 4 is a BARRIER. -/
theorem witness_mismatch : (let s := stepping [barrierOp, commitOp]
    s.running = true ∧ s.taken 1 (word 2 false false 0 4 0 9) false ⟨2, false, false, 0, 4, 0, 9⟩
      ∧ (s.group 0).abort = none ∧ s.abortable 0 = true ∧ s.expressOpAt 0 4 = some barrierOp
      ∧ State.expressKind barrierOp.raw ≠ 2) := by unfold State.taken; decide +kernel

theorem witness_messages_not_taken : msgOk (readMsg (word 9 false false 1 0 0 0)) = false
    ∧ base.expressRx 0 ≠ some 3 ∧ word 9 false false 1 0 0 0 ≠ 0 ∧ base.inService 4 = false
    ∧ (let s := base.modPort 3 (fun q => { q with exprFirst := [(word 1 true false 1 7 0 120, 99)] })
       (s.port 3).exprFirst.any (fun x => State.sameMsg (readMsg x.1) ⟨1, true, false, 1, 7, 0, 120⟩) = true
         ∧ s.inService 3 = true) := by decide +kernel

theorem witness_ExpressEffectsCompleteOperations :
    (let s := waits 0 { kind := 1, tag := 4, effectAt := some 100, result := some 100 } (stepping [barrierOp, commitOp])
     s.running = true ∧ s.findExpress 0 1 4 = some { kind := 1, tag := 4, effectAt := some 100, result := some 100 }
       ∧ 100 ≤ s.now ∧ s.stepRuns 0 = true ∧ s.expressOpAt 0 4 = some barrierOp ∧ barrierOp.recorded = false)
    ∧ (let s := waits 0 { kind := 6, tag := 0, effectAt := some 100, result := some 112 } (stepping [waitingExchange, commitOp])
       s.findExpress 0 kReady 0 = some { kind := 6, tag := 0, effectAt := some 100, result := some 112 }
         ∧ (s.stepOps 0).find? (fun o => Desc.isExchange o.raw && o.index % 1024 == 0) = some waitingExchange
         ∧ s.im.bucketDesc (Desc.bucket waitingExchange.raw) = some bucketA ∧ s.stepRuns 0 = true)
    ∧ (let s := waits 0 { kind := 1, tag := 4, effectAt := some 101, result := some 101 } (stepping [barrierOp, commitOp])
       s.now < 101) := by decide +kernel

/-! ### Overdue waits, aborts -/

/-- Tide 40,000, past the group timeout of 32,768 tides. -/
def late (s : State) : State := at_ 40000 s

def slipWaits : State := late (slipping (stepping [waitingExchange, commitOp]))
def foldWaits : State := late (stepping [deferredOp .due, commitOp])
def openWaits : State := late (base.modGroup 0 (fun gr => { gr with openAt := some 100 }))
/-- A neighbour hails with the hash of the verified shadow image. -/
def laterOpen : State :=
  { openWaits.modPort 0 (fun q => { q with nb := { q.nb with imageHash := List.replicate 48 3 } }) with
    image := { openWaits.image with shadowState := .verified, shadow := { image := some image, hash := List.replicate 48 3 } } }
def reduceWaits : State := late (waits 0 { kind := 1, tag := 4, forwarded := some 100 } (stepping [barrierOp, commitOp]))
def commitWaits : State :=
  late (inStep.modGroup 0 (fun gr => { gr with state := .released, releasedAt := some 100 }))
def lapWaits : State :=
  late ((waits 0 { kind := 5, tag := 3, own := some 0, forwarded := some 100 } inStep).modGroup 0
    (fun gr => { gr with state := .applied, releasedAt := some 100 }))
def broadcastWaits : State :=
  late (waits 1 { kind := 1, tag := 4, forwarded := some 100 } (base.modGroup 1 (fun gr => { gr with state := .exchange })))

theorem witness_overdue_waits :
    slipWaits.running = true ∧ slipWaits.overdueWait (.slipBarrierTimeout 0 0) 0 ∧ foldWaits.overdueWait (.foldTimeout 0 0) 0
      ∧ openWaits.overdueWait (.openTimeout 0) 0 ∧ reduceWaits.overdueWait (.expressHoldTimeout 0 1 4) 0
      ∧ commitWaits.overdueWait (.commitHoldTimeout 0) 0 ∧ lapWaits.overdueWait (.commitHoldTimeout 0) 0
      ∧ broadcastWaits.overdueWait (.broadcastLossTimeout 1 1 4) 1 :=
  ⟨by decide +kernel,
    ⟨by decide +kernel, by decide +kernel,
      Or.inl ⟨0, waitingExchange, bucketA, rfl, by decide +kernel⟩⟩,
    ⟨by decide +kernel, by decide +kernel,
      Or.inr (Or.inl ⟨0, opView (deferredOp .due) (deferredLaunch .due), rfl, by decide +kernel, by decide +kernel,
        Or.inl rfl, by decide +kernel⟩)⟩,
    ⟨by decide +kernel, by decide +kernel,
      Or.inr (Or.inr (Or.inl ⟨100, rfl, by decide +kernel⟩))⟩,
    ⟨by decide +kernel, by decide +kernel,
      Or.inr (Or.inr (Or.inr (Or.inl ⟨1, 4, { kind := 1, tag := 4, forwarded := some 100 }, 100, rfl, by decide +kernel,
        Or.inl rfl, by decide +kernel, rfl, rfl, by decide +kernel⟩)))⟩,
    ⟨by decide +kernel, by decide +kernel,
      Or.inr (Or.inr (Or.inr (Or.inr (Or.inl ⟨100, rfl, by decide +kernel, by decide +kernel, Or.inl (by decide +kernel),
        by decide +kernel⟩))))⟩,
    ⟨by decide +kernel, by decide +kernel,
      Or.inr (Or.inr (Or.inr (Or.inr (Or.inr (Or.inl ⟨100, rfl, by decide +kernel⟩)))))⟩,
    ⟨by decide +kernel, by decide +kernel,
      Or.inr (Or.inr (Or.inr (Or.inr (Or.inr (Or.inr ⟨1, 4, { kind := 1, tag := 4, forwarded := some 100 }, 100, rfl,
        by decide +kernel, rfl, by decide, rfl, by decide +kernel⟩)))))⟩⟩

def statLost (l : Bool) : Express := { kind := 3, tag := 0, forwarded := some 100, lost := l }

theorem witness_open_and_stat_overdue :
    laterOpen.running = true ∧ (laterOpen.group 0).abort = none ∧ (laterOpen.group 0).openAt = some 100
      ∧ laterOpen.overdue 0 100 = true ∧ laterOpen.neighboursWith 0 2 = true
      ∧ (laterOpen.group 0).express.any (fun e => e.kind == kOpen && e.result.isSome) = false
    ∧ (let s := late (waits 1 (statLost false) base)
       s.running = true ∧ s.findExpress 1 kStat 0 = some (statLost false) ∧ (s.group 1).abort = none
         ∧ s.overdue 1 (100 + s.hG 1) = true ∧ s.expressRx 1 = some 3)
    ∧ (late (waits 1 (statLost true) base)).findExpress 1 kStat 0 = some (statLost true) := by decide +kernel

/-- Group 0 keeps a token of code 4 for chunk 1 and has sent its own. -/
def ending : AbortState :=
  { kept := (4, 1), own := [(4, 1)], sentAt := 90, changedAt := 90, firstAt := 90, returned := false, reported := false }
def aborting (a : AbortState) : State := inStep.modGroup 0 (fun gr => { gr with abort := some a })

theorem witness_AbortsAgreeAndAreReported : inStep.running = true
    ∧ inStep.taken 1 (word 7 false false 0 4 0 1) false ⟨7, false, false, 0, 4, 0, 1⟩ ∧ (inStep.group 0).abort = none
    ∧ inStep.takesToken 0 = true
    ∧ (inStep.modGroup 0 (fun gr => { gr with state := .aborted })).takesToken 0 = false
    ∧ (aborting ending).taken 1 (word 7 false false 0 1 0 0) false ⟨7, false, false, 0, 1, 0, 0⟩
    ∧ ((aborting ending).group 0).abort = some ending ∧ ending.own.contains (1, 0) = false
    ∧ ending.own.contains (4, 1) = true ∧ 90 + 2 * lambda ((aborting ending).ringN 0) ≤ (aborting ending).now
    ∧ (aborting { ending with changedAt := 99 }).now < 99 + 2 * lambda ((aborting ending).ringN 0)
    ∧ 90 + lambda ((aborting ending).ringN 0) ≤ (aborting ending).now := by unfold State.taken; decide +kernel

/-- A group whose FAULT entry is in MANUAL mode. -/
theorem witness_manual : (let s : State := { aborting ending with image := { base.image with active := { base.image.active with
      image := some { image with faults := [⟨0, false, false, 8, 64, []⟩] } } } }
    s.autoMode 0 = false ∧ s.running = true) := by decide +kernel

/-! ### Step commit -/

/-- Chunk 0 released to unit 0 with RSEQ 6 and kept in retention; the unit has applied RSEQ 5 and been given 10. -/
def keptRelease : Release := { bucket := 0, chunk := 0, unit := 0, rseq := 6, tide := 99, length := 1024, addr := 0x20000 }
def releasing : State :=
  { inStep.modGroup 0 (fun gr => { gr with releases := [keptRelease], retained := [{ kept with launch := some launched }] }) with
    units := [(0, { rseq := 10, applied := 5 })] }

theorem witness_applied_report : releasing.running = true
    ∧ atOrAfter 32 (releasing.unit 0).rseq.toNat (7 : Word32).toNat = true
    ∧ atOrAfter 32 (7 : Word32).toNat (releasing.unit 0).applied.toNat = true
    ∧ atOrAfter 32 (7 : Word32).toNat (releasing.unit 0).rseq.toNat = false
    ∧ atOrAfter 32 (10 : Word32).toNat (releasing.unit 0).rseq.toNat = true := by decide +kernel

theorem witness_unit_reset : releasing.unappliedAll 0 = [(0, keptRelease)]
    ∧ releasing.retView 0 0 0 = some (opView exchangeOp launched) ∧ releasing.abortable 0 = true
    ∧ (releasing.group 0).abort = none := by decide +kernel

theorem witness_redelivery : releasing.redeliveryBad (opView exchangeOp launched) 0 [] = []
    ∧ releasing.redeliveryBad (opView exchangeOp launched) 0 (releasing.retainUnits (opView exchangeOp launched) 0) ≠ [] := by
  have h : releasing.badUnits = [] := rfl
  have k : releasing.retainUnits (opView exchangeOp launched) 0 ≠ [] :=
    unitsOf_ne_nil _ _ (by rw [State.cellRange_length (by decide)]; decide)
  refine ⟨by simp [State.redeliveryBad, h], ?_⟩
  obtain ⟨u, hu⟩ := List.exists_mem_of_ne_nil _ k
  refine List.ne_nil_of_mem (a := u) (List.mem_filter.mpr ⟨hu, ?_⟩)
  simp [hu]

def stat (i : Nat) : Express := { kind := 3, tag := 4096 * i, result := some 0 }
def committingStep (flag : Bool) (at_ : Nat) : State :=
  (waits 0 { kind := 5, tag := 3, own := some 0, forwarded := some 90, result := some 100, flag := flag, effectAt := some at_ }
    inStep).modGroup 0 (fun gr => { gr with state := .applied })

theorem witness_vote : (let s := inStep.modGroup 0 (fun gr => { gr with state := .released, express := [stat 0, stat 1, stat 2] })
    s.running = true ∧ s.mayVote 0 = true) ∧ inStep.mayVote 0 = false := by decide +kernel

def openEffect (state : StepState) (from_ : StepState) : State :=
  (waits 0 { kind := 8, tag := 0, own := some 0, result := some 104, effectAt := some 100 } base).modGroup 0 (fun gr =>
    { gr with state := state, openAt := some 90, recovery := { gr.recovery with fromState := from_ } })

theorem witness_CommitAdvancesAndOpenBeginsTheStep :
    (∀ flag : Bool, (committingStep flag 100).running = true ∧ (committingStep flag 100).commitInstance 0
        = some { kind := 5, tag := 3, own := some 0, forwarded := some 90, result := some 100, flag := flag, effectAt := some 100 }
      ∧ 100 ≤ (committingStep flag 100).now ∧ ((committingStep flag 100).group 0).abort = none
      ∧ ((committingStep flag 100).group 0).state = .applied)
    ∧ ((committingStep true 101).commitInstance 0).map (·.effectAt) = some (some 101) ∧ (committingStep true 101).now < 101
    ∧ (openEffect .closed .closed).running = true
    ∧ (openEffect .closed .closed).findExpress 0 kOpen 0
        = some { kind := 8, tag := 0, own := some 0, result := some 104, effectAt := some 100 }
    ∧ 100 ≤ (openEffect .closed .closed).now ∧ ((openEffect .closed .closed).group 0).abort = none
    ∧ ((openEffect .closed .closed).group 0).openAt.isSome = true ∧ ((openEffect .closed .closed).group 0).state = .closed
    ∧ ((openEffect .recovering .released).group 0).state = .recovering
    ∧ ((openEffect .recovering .released).group 0).recovery.fromState ≠ .closed
    ∧ ((openEffect .recovering .closed).group 0).recovery.fromState = .closed
    ∧ (at_ 99 (openEffect .closed .closed)).now < 100 := by decide +kernel

/-- The commit of the step: bucket 0 was exchanged with every chunk written, or with none, bucket 5 belongs to group 1. Its
codebook's fall-back is given a threshold, and the reduced values stand in its STAT instances. -/
def statOf (k v : Nat) : Express := { kind := 3, tag := 4096 * k, result := some (BitVec.ofNat 32 v) }
def latching (flag : Bool) (written : List Nat) (substituted : Bool) : State :=
  (committingStep flag 100).modGroup 0 (fun gr => { gr with
    written := written, express := gr.express ++ [statOf 0 3, statOf 1 2, statOf 2 1]
    recovery := { gr.recovery with substituted := substituted, releasedSet := [1] } })

theorem witness_commit_buckets :
    (let s := latching false [0, 1, 2] false
     s.running = true ∧ (s.commitInstance 0).map (·.effectAt) = some (some 100) ∧ s.now = 100
       ∧ ((s.im.bucketsOf 0).map (·.bucket)).Nodup ∧ ((s.stepExchanges 0).map (·.2.bucket)).Nodup
       ∧ bucketA ∈ s.im.bucketsOf 0 ∧ s.writtenWhole 0 bucketA = true ∧ (exchangeOp, launched) ∈ s.stepExchanges 0
       ∧ s.im.bucketDesc 0 = some bucketA ∧ (s.group 0).recovery.substituted = false
       ∧ signed 16 ((s.statResult 0 0 0).getD 0) = 3 ∧ (s.statResult 0 0 1).getD 0 = 2 ∧ (s.statResult 0 0 2).getD 0 = 1)
    ∧ (latching false [0] false).writtenWhole 0 bucketA = false
    ∧ (let s := latching false [] true
       (s.group 0).recovery.substituted = true ∧ (s.group 0).recovery.releasedSet.any (fun y => y / 2 ^ 20 == 0) = true)
    ∧ { openEffect .closed .closed with power := { base.power with mode := .idle } }.power.mode ≠ .full := by decide +kernel

/-- A fall-back of each kind on either side of its thresholds (R108). -/
theorem witness_fall_back :
    (let d : ImgBucket := { bucketA with fbKind := .margin, clipThresh := 1, ovfThresh := 4, retClip := 1, retOvf := 2, fbHold := 3 }
     inStep.triggers108 0 d 1000000 0 ∧ inStep.triggers108 0 d 0 5 ∧ ¬inStep.triggers108 0 d 0 4
       ∧ inStep.returns108 0 d 0 2 ∧ ¬inStep.returns108 0 d 0 3) := by
  unfold State.triggers108 State.returns108
  decide +kernel

def inGroupState (x : StepState) : State := inStep.modGroup 0 (fun gr => { gr with state := x })
def diagnosing : State :=
  (inGroupState .aborted).modGroup 0 (fun gr => { gr with
    diag := { gr.diag with busy := true }, record := some { step := 3, entries := [{ chunk := 0, bucket := 0 }] } })

theorem witness_GroupBlockWritesActInTheirStates : (inGroupState .aborted).running = true
    ∧ (inGroupState .aborted).tagPriv 8 = true ∧ ((inGroupState .aborted).group 0).state = .aborted
    ∧ (inStep.group 0).state = .exchange
    ∧ ((queued {}).queue 0).state = .stopped ∧ ((queued {}).group 0).state = .closed
    ∧ ((inGroupState .aborted).group 0).diag.busy = false ∧ (diagnosing.group 0).diag.busy = true
    ∧ (diagnosing.group 0).record = some { step := 3, entries := [{ chunk := 0, bucket := 0 }] }
    ∧ (diagnosing.group 0).recovery.heldDecide = false := by decide +kernel

def diagnosingKept : State := diagnosing.modGroup 0 (fun gr => { gr with retained := [{ kept with launch := some launched }] })

/-- A record entry that is lost, and one whose generation A is bad. -/
theorem witness_diagnosis_unavailable :
    (({ chunk := 0, bucket := 0, lost := true } : RecEntry).lost = true)
    ∧ diagnosingKept.diagBad 0 [0] { chunk := 0, bucket := 0 } ≠ [] := by
  have h : diagnosingKept.retView 0 0 0 = some (opView exchangeOp launched) := by decide +kernel
  have k : diagnosingKept.genBad (opView exchangeOp launched) false 0 [0] ≠ [] := by decide +kernel
  exact ⟨rfl, by simp [State.diagBad, h, k]⟩

/-! ### Recovery -/

/-- A recovery message of chip 101 about step 3 of group 0, round 1, in one part. -/
def recoveryMsg (state lost : Nat) : RecoveryCell :=
  { port := 0, group := 0, code := 5, state := state, sender := 101, step := 3, table := 0, lost := lost, part := 0, parts := 1
    tR := 70000, round := 1, list := [] }
def recoveryBytes (kind : Nat) (c : RecoveryCell) : Bytes :=
  mkCell { type := 9, vc := 3, cls := 0, group := 0, ref := 0, seq := 0, payload := recoveryPayload kind c }
def recoveryRead : RecoveryCell := readRecovery 0 (readCell (padTo 256 (recoveryBytes 0 (recoveryMsg 0 noChip)))).payload

theorem witness_recovery_cell : inStep.arrives 0 tRecovery (recoveryBytes 0 (recoveryMsg 0 noChip))
      (readCell (padTo 256 (recoveryBytes 0 (recoveryMsg 0 noChip))))
    ∧ rd (readCell (padTo 256 (recoveryBytes 0 (recoveryMsg 0 noChip)))).payload 0 1 = 0
    ∧ rd (readCell (padTo 256 (recoveryBytes 2 (recoveryMsg 0 noChip)))).payload 0 1 = 2
    ∧ recoveryRead = recoveryMsg 0 noChip ∧ inStep.running = true ∧ (inStep.port 0).link = .service
    ∧ inStep.im.rings.any (fun r => r.group == 0 && (inStep.posIn r).isSome) = true ∧ (inStep.group 0).step = 3
    ∧ atOrAfter 8 1 (inStep.group 0).recovery.round = true ∧ (inStep.group 0).recovery.round = 0
    ∧ ((linked .align).port 0).link ≠ .service
    ∧ inStep.missedCommit 0 recoveryRead = false
    ∧ (let s := (inGroupState .applied).modGroup 0 (fun gr => { gr with step := 2 })
       s.missedCommit 0 recoveryRead = true ∧ (s.port 0).link = .service) :=
  ⟨⟨by decide +kernel, cellOk_padTo_mkCell _, rfl, by decide +kernel⟩, by decide +kernel⟩

/-- Group 0 is ABORTED with a code and the abort reported; PROPOSE and CENSUS cells of its members have arrived. -/
def coordinating (code : Nat) (cells : List (Nat × RecoveryCell)) : State :=
  (aborting { ending with reported := true }).modGroup 0 (fun gr => { gr with
    state := .aborted, abortCode := code
    recovery := { gr.recovery with round := 1, cells := cells, firstPropose := some 90 } })

def proposal (lost : Nat) : Nat × RecoveryCell := (0, recoveryMsg 1 lost)
def census (chip state : Nat) : Nat × RecoveryCell := (1, { recoveryMsg state noChip with sender := chip })

def poisoned : State := coordinating 5 [proposal noChip]
def transient : State := coordinating 4 [proposal noChip, census 100 1, census 101 1, census 102 1]
def memberGone : State := coordinating 9 [proposal 101, census 100 1, census 102 1]

theorem witness_coordinator :
    poisoned.running = true ∧ (poisoned.group 0).recovery.firstPropose = some 90 ∧ poisoned.undecided 0 = true
      ∧ 90 + 2 * poisoned.ringN 0 ≤ poisoned.now ∧ (poisoned.group 0).abortCode = 5
      ∧ transient.undecided 0 = true ∧ (transient.group 0).abortCode = 4
      ∧ ((transient.proposedLost 0).filter (transient.ringChips 0).contains ++ transient.missingCensus 0).eraseDups = []
      ∧ memberGone.undecided 0 = true ∧ (memberGone.group 0).abortCode ∉ [0x05, 0x06, 0x07, 0x08, 0x0C, 0x0D]
      ∧ ((memberGone.proposedLost 0).filter (memberGone.ringChips 0).contains ++ memberGone.missingCensus 0).eraseDups = [101]
      ∧ memberGone.alternateFor 0 101 = some 1 ∧ memberGone.allReleasedStates 0 [101] = false
      ∧ inStep.undecided 0 = false
      ∧ (let s := (inGroupState .aborted).modGroup 0 (fun gr => { gr with
            recovery := { gr.recovery with rejoinUntil := some 99, lostChip := 101 } })
         s.running = true ∧ (s.group 0).recovery.rejoinUntil = some 99 ∧ 99 ≤ s.now
           ∧ (s.group 0).recovery.decision = none ∧ s.alternateFor 0 (s.group 0).recovery.lostChip = some 1) := by
  decide +kernel

def ordered (action tR : Nat) : Decision := { action := action, table := 0, tR := tR, set := [], acked := true, code := 4 }
def deciding (d : Decision) (from_ : StepState) (step : Nat) : State :=
  (inGroupState .recovering).modGroup 0 (fun gr => { gr with
    step := step, recovery := { gr.recovery with decision := some d, fromState := from_ } })

theorem witness_resume_and_skip : (deciding (ordered 0 100) .released 3).running = true
    ∧ ((deciding (ordered 0 100) .released 3).group 0).state = .recovering
    ∧ ((deciding (ordered 0 100) .released 3).group 0).recovery.decision = some (ordered 0 100)
    ∧ (ordered 0 100).tR ≤ (deciding (ordered 0 100) .released 3).now
    ∧ ((deciding (ordered 0 100) .released 3).group 0).openAt = none
    ∧ ((deciding (ordered 0 100) .released 3).group 0).recovery.fromState ≠ .closed
    ∧ ((deciding (ordered 0 100) .closed (2 ^ 48 - 1)).group 0).recovery.fromState = .closed
    ∧ ((deciding (ordered 0 100) .closed (2 ^ 48 - 1)).group 0).step = 2 ^ 48 - 1
    ∧ ((deciding (ordered 2 100) .released 3).group 0).recovery.decision = some (ordered 2 100)
    ∧ ((deciding (ordered 0 100) .released 3).group 0).abort = none
    ∧ ((deciding (ordered 2 100) .released 3).group 0).abort = none
    ∧ ((((deciding (ordered 0 100) .released 3).modGroup 0 (fun gr =>
          { gr with abort := some (freshAbort 0x0C 0xFFFFF 0xFFF 99) })).group 0).abort.isSome = true)
    ∧ (deciding (ordered 0 101) .released 3).decisionAt 0 = some (ordered 0 101)
    ∧ (deciding (ordered 0 101) .released 3).now < (ordered 0 101).tR := by decide +kernel

theorem witness_recovery_ctrl :
    (let s := (inGroupState .aborted).modGroup 0 (fun gr => { gr with rc := { gr.rc with tR := 4196 } })
     s.running = true ∧ s.tagPriv 8 = true ∧ (s.group 0).state = .aborted ∧ (s.group 0).recovery.decision = none
       ∧ s.now + 4096 ≤ (s.group 0).rc.tR ∧ bitAt (0x100 : Word32).toNat 8 = true
       ∧ (s.im.tableDesc (field (0x100 : Word32).toNat 1 4)).isSome = true
       ∧ bitAt (0x1E : Word32).toNat 8 = false ∧ s.im.tableDesc (field (0x11E : Word32).toNat 1 4) = none
       ∧ bitAt (0x11E : Word32).toNat 5 = false)
    ∧ (inGroupState .aborted).now + 4096 > ((inGroupState .aborted).group 0).rc.tR
    ∧ ((inGroupState .recovering).group 0).state = .recovering := by decide +kernel

/-- A timeout's token reaches the member that holds the OPEN for a neighbour's hash. -/
theorem witness_token_answered : laterOpen.running = true
    ∧ laterOpen.taken 1 (word 7 false false 0 1 0 0xFFFFFFFF) false ⟨7, false, false, 0, 1, 0, 0xFFFFFFFF⟩
    ∧ (laterOpen.group 0).abort = none ∧ laterOpen.takesToken 0 = true ∧ (laterOpen.group 0).openAt.isSome = true
    ∧ laterOpen.neighboursWith 0 2 = true := by unfold State.taken; decide +kernel

/-- No READY of the member is due, so a READY message waits for its operand. -/
theorem witness_ready_waits : (∀ op ∈ (waits 1 { kind := 6, tag := 0 } base).stepOps 1,
    ((waits 1 { kind := 6, tag := 0 } base).readyOpen 1 op && (waits 1 { kind := 6, tag := 0 } base).opReady 1 op) = false) := by
  decide +kernel

/-- A coordinator that decides nothing, and one that waits for the lost member. -/
theorem witness_coordinator_waits :
    (let s := coordinating 6 [proposal 101, census 100 1, census 102 1]
     s.undecided 0 = true ∧ (s.group 0).abortCode = 6)
    ∧ (let s := coordinating 9 [proposal 101, census 100 1]
       s.undecided 0 = true ∧ (s.group 0).abortCode ≠ 5
         ∧ ((s.proposedLost 0).filter (s.ringChips 0).contains ++ s.missingCensus 0).eraseDups = [101, 102])
    ∧ (let s := coordinating 9 [proposal 101, census 100 2, census 102 3]
       s.undecided 0 = true ∧ (s.group 0).abortCode ∉ [0x05, 0x06, 0x07, 0x08, 0x0C, 0x0D]
         ∧ ((s.proposedLost 0).filter (s.ringChips 0).contains ++ s.missingCensus 0).eraseDups = [101]
         ∧ s.allReleasedStates 0 [101] = true)
    ∧ (let s := coordinating 9 [proposal 102, census 100 1, census 101 1]
       s.undecided 0 = true ∧ s.alternateFor 0 102 = none
         ∧ ((s.proposedLost 0).filter (s.ringChips 0).contains ++ s.missingCensus 0).eraseDups = [102]) := by decide +kernel

/-- RECOVERY_CTRL is armed for an ABORTED group, and for a CLOSED one that its table leaves out. -/
def armedFor (x : StepState) (table tR : Nat) : State :=
  (inGroupState x).modGroup 0 (fun gr => { gr with
    rc := { gr.rc with status := 1, armed := some { action := 0, table := table, tR := tR } }
    recovery := { gr.recovery with fromState := .exchange } })
/-- Table 1 gives group 0 a ring without the engine. -/
def leftOut : State :=
  let s := armedFor .closed 1 100
  { s with image := { s.image with active := { s.image.active with
      image := some { image with rings := image.rings ++ [{ ringA with table := 1, n := 2, members := [⟨101, [1]⟩, ⟨102, [6]⟩] }] } } } }

theorem witness_armed : (armedFor .aborted 0 100).running = true
    ∧ ((armedFor .aborted 0 100).group 0).recovery.decision = none
    ∧ ((armedFor .aborted 0 100).group 0).rc.armed = some { action := 0, table := 0, tR := 100 }
    ∧ 100 ≤ (armedFor .aborted 0 100).now ∧ ((armedFor .aborted 0 100).group 0).openAt = none
    ∧ ((armedFor .aborted 0 100).group 0).state = .aborted ∧ ((armedFor .aborted 0 100).group 0).diag.busy = false
    ∧ (armedFor .aborted 0 100).inRing 0 0 = true ∧ ((armedFor .aborted 0 100).group 0).recovery.fromState ≠ .closed
    ∧ leftOut.running = true ∧ (leftOut.group 0).state = .closed ∧ leftOut.inRing 0 1 = false
    ∧ (leftOut.group 0).rc.armed = some { action := 0, table := 1, tR := 100 } ∧ (leftOut.group 0).openAt = none
    ∧ (armedFor .aborted 0 101).decisionAt 0
        = some { action := 0, table := 0, tR := 101, set := [], acked := false, code := 0 } := by decide +kernel

/-- An ARM of SKIP, and a group whose table 1 the image gives the same ring, or one without the engine. -/
def armedSkip (x : StepState) : State :=
  (armedFor x 0 100).modGroup 0 (fun gr => { gr with rc := { gr.rc with armed := some { action := 2, table := 0, tR := 100 } } })
def withTable (r : ImgRing) (s : State) : State :=
  { s with image := { s.image with active := { s.image.active with image := some { image with rings := image.rings ++ [r] } } } }
def without : ImgRing := { ringA with table := 1, n := 2, members := [⟨101, [1]⟩, ⟨102, [6]⟩] }

/-- What is armed for tide 100 differs from the DECIDE held, which it has not acknowledged. -/
def contradicted (s : State) : State :=
  s.modGroup 0 (fun gr => { gr with
    recovery := { gr.recovery with decision := some { ordered 1 5000 with acked := false }, heldDecide := false } })

theorem witness_contradicted : (contradicted (armedFor .aborted 0 100)).running = true
    ∧ ((contradicted (armedFor .aborted 0 100)).group 0).recovery.decision = some { ordered 1 5000 with acked := false }
    ∧ ((contradicted (armedFor .aborted 0 100)).group 0).recovery.heldDecide = false
    ∧ ((contradicted (armedFor .aborted 0 100)).group 0).rc.armed = some { action := 0, table := 0, tR := 100 }
    ∧ State.agrees { action := 0, table := 0, tR := 100 } 1 0 5000 = false
    ∧ 100 ≤ (contradicted (armedFor .aborted 0 100)).now
    ∧ ((contradicted (armedSkip .aborted)).group 0).rc.armed = some { action := 2, table := 0, tR := 100 }
    ∧ State.agrees { action := 2, table := 0, tR := 100 } 1 0 5000 = false := by decide +kernel

theorem witness_armed_others :
    (let s := armedFor .closed 0 100
     s.running = true ∧ s.inRing 0 0 = true ∧ (s.group 0).state = .closed ∧ (s.group 0).openAt = none
       ∧ (s.group 0).step ≠ 2 ^ 48 - 1 ∧ s.tableDue 0 = false ∧ (s.group 0).recovery.decision = none)
    ∧ (let s := withTable without (armedFor .aborted 1 100)
       s.inRing 0 1 = false ∧ (s.group 0).state = .aborted ∧ (s.group 0).openAt = none ∧ s.tableDue 0 = false)
    ∧ leftOut.tableDue 0 = true ∧ leftOut.effectsDue = false
    ∧ (let s := withTable { ringA with table := 1 } (deciding { ordered 0 100 with table := 1 } .released 3)
       s.tableDue 0 = true ∧ s.effectsDue = false
         ∧ (let u := waits 1 { kind := 1, tag := 4, effectAt := some 100, result := some 100 }
              (s.modGroup 1 (fun gr => { gr with state := .exchange }))
            u.tableDue 0 = true ∧ u.effectsDue = true))
    ∧ ((armedSkip .aborted).group 0).state = .aborted ∧ (armedSkip .aborted).member 0 = true
    ∧ ((armedSkip .aborted).group 0).diag.busy = false ∧ (armedSkip .aborted).running = true
    ∧ ((armedSkip .aborted).group 0).recovery.decision = none
    ∧ ((armedSkip .aborted).group 0).rc.armed = some { action := 2, table := 0, tR := 100 }
    ∧ ((armedSkip .closed).group 0).state = .closed ∧ (armedSkip .closed).member 0 = true
    ∧ (let s := (withTable without (armedSkip .closed)).modGroup 0 (fun gr => { gr with table := 1 })
       s.member 0 = false ∧ (s.group 0).state ≠ .recovering ∧ (s.group 0).recovery.decision = none
         ∧ (s.group 0).rc.armed = some { action := 2, table := 0, tR := 100 }) := by decide +kernel

theorem witness_missed_resume : (let s := coordinating 4 [(2, { recoveryMsg 0 noChip with tR := 100 })]
    s.running = true ∧ (s.group 0).recovery.decision = none ∧ (s.group 0).rc.armed = none ∧ (s.group 0).state = .aborted
      ∧ s.missedResume 0 = true ∧ (s.group 0).recovery.timedOut = false) := by decide +kernel

/-- What RECOVERY_CTRL refuses, and a decision held that it differs from. -/
theorem witness_recovery_ctrl_refuses :
    ((inGroupState .exchange).group 0).state = .exchange ∧ ((inGroupState .released).group 0).state = .released
      ∧ ((inGroupState .applied).group 0).state = .applied ∧ ((inGroupState .closed).group 0).state = .closed
      ∧ (inGroupState .closed).heldBit 0 = false
      ∧ ((deciding (ordered 0 100) .released 3).group 0).recovery.decision = some (ordered 0 100)
      ∧ (let s := (inGroupState .aborted).modGroup 0 (fun gr => { gr with
            rc := { gr.rc with tR := 4196 }
            recovery := { gr.recovery with decision := some { ordered 1 5000 with acked := false } } })
         s.running = true ∧ (s.group 0).state = .aborted ∧ s.now + 4096 ≤ (s.group 0).rc.tR
           ∧ (s.group 0).recovery.decision = some { ordered 1 5000 with acked := false } ∧ (5000 : Nat) ≠ (s.group 0).rc.tR) := by
  decide +kernel

/-! ### Spill -/

/-- A SPILL_STORE with a new pass, and a SPILL_LOAD: tiles 0 to 3 of area 0, two tiles a row of the grid. -/
def spillOf (opcode sflags : Nat) : QueueOp :=
  { index := 5, readyAt := some 99
    raw := desc opcode 2 (leBytes 1 0 ++ leBytes 1 sflags ++ leBytes 2 0 ++ leBytes 4 0 ++ leBytes 4 4 ++ leBytes 4 256
      ++ leBytes 4 2 ++ leBytes 4 0 ++ leBytes 8 0x40000) }
def spilling (o : QueueOp) : State := queued { ops := [o] }
/-- The area runs the operation and has done two of its four tiles. -/
def spillRuns (o : QueueOp) (n : Nat) : State :=
  (spilling { o with phase := .running }).setArea 0 { running := some { (spilling o).spillOp 0 o with next := n } }
def spillQueued (o : QueueOp) : State := (spilling o).setArea 0 { waiting := [(spilling o).spillOp 0 o] }

theorem witness_spill_queues : (spilling (spillOf 7 1)).running = true
    ∧ (spilling (spillOf 7 1)).readyOp 0 5 Desc.opSpillStore = some (spillOf 7 1) ∧ (spilling (spillOf 7 1)).quiescing 0 = false
    ∧ ((spilling (spillOf 7 1)).area 0).waiting = [] ∧ (spilling (spillOf 7 1)).power.mode = .full
    ∧ (spilling (spillOf 8 0)).readyOp 0 5 Desc.opSpillLoad = some (spillOf 8 0)
    ∧ ((spillQueued (spillOf 7 1)).area 0).waiting = [(spilling (spillOf 7 1)).spillOp 0 (spillOf 7 1)]
    ∧ ((spillQueued (spillOf 7 1)).area 0).running = none
    ∧ ((spilling (spillOf 7 1)).spillOp 0 (spillOf 7 1)).readyAt < (spillQueued (spillOf 7 1)).now
    ∧ (spillQueued (spillOf 7 1)).areaForeign 0 (spillOf 7 1).raw = false
    ∧ (spillQueued (spillOf 7 1)).im.areaDesc 0 = some areaA ∧ 0 + 4 ≤ areaA.tiles
    ∧ (let s : State := { spilling (spillOf 7 1) with power := { base.power with mode := .idle } }
       s.power.mode = .idle ∧ s.power.wakeAt = none ∧ s.running = true) := by decide +kernel

theorem witness_spill_tiles :
    (spillRuns (spillOf 7 1) 2).runs 0 true = some (areaA, { (spilling (spillOf 7 1)).spillOp 0 (spillOf 7 1) with next := 2 })
      ∧ 2 + Nat.min areaA.tilesPerTide (4 - 2) < 4 ∧ 4 ≤ 3 + Nat.min areaA.tilesPerTide (4 - 3)
      ∧ (spillRuns (spillOf 7 1) 3).runs 0 true = some (areaA, { (spilling (spillOf 7 1)).spillOp 0 (spillOf 7 1) with next := 3 })
      ∧ ((spillRuns (spillOf 7 1) 3).queue 0).ops.find? (fun x => x.index == 5) = some { spillOf 7 1 with phase := .running }
      ∧ (spillRuns (spillOf 8 0) 2).runs 0 false = some (areaA, { (spilling (spillOf 8 0)).spillOp 0 (spillOf 8 0) with next := 2 })
      ∧ (spillRuns (spillOf 8 0) 2).readTile areaA 2 [] = (.stale, false) ∧ 2 + 1 < 4
      ∧ ((spilling (spillOf 7 1)).area 0).running = none := by decide +kernel

/-- The image lets tiles run above their planned rate, and the area has had its turn and the tide's escapes. -/
def spillFast (used : Nat) : State :=
  let s := spillRuns (spillOf 7 1) 2
  let s : State := { s with image := { s.image with active := { s.image.active with
    image := some { image with dynBalance := true } } } }
  s.setArea 0 { s.area 0 with
    escTide := 100, escUsed := used, running := (s.area 0).running.map (fun o => { o with lastTide := some 100 }) }
def fastOp : SpillOp := { (spilling (spillOf 7 1)).spillOp 0 (spillOf 7 1) with next := 2, lastTide := some 100 }

/-- A further turn of the tide: one that runs, and one whose nonfinite tile would be the third escape of the tide. -/
theorem witness_spill_fast : (spillFast 2).running = true ∧ (spillFast 2).runs 0 true = some (areaA, fastOp)
    ∧ fastOp.lastTide = some (spillFast 2).now
    ∧ (spillFast 2).escapesWait areaA fastOp [List.replicate tileBytes 0xFF] = true
    ∧ (spillFast 0).runs 0 true = some (areaA, fastOp)
    ∧ (spillFast 0).escapesWait areaA fastOp [List.replicate tileBytes 0xFF] = false := by decide +kernel

/-- The slot of tile 2 says all zeros, in pass 0. -/
def zeroHeader (crc : Nat) : Bytes :=
  leBytes 4 2 ++ leBytes 2 0 ++ leBytes 2 0 ++ leBytes 2 0 ++ leBytes 2 3 ++ leBytes 8 0 ++ leBytes 4 crc

theorem witness_spill_good_tile : (let s := spillRuns (spillOf 8 0) 2
    let t : State := { s with stack := s.stack.writeBytes (s.slotAddr areaA 2) (zeroHeader (crc32c (padTo 64 (zeroHeader 0)))) }
    (match t.readTile areaA 2 [] with | (.good _ over_, esc) => !over_ && !esc | _ => false) = true) := by decide +kernel

/-- The first that waits in area 0: one refused because its tiles pass the area's, one without a tile, and that one while the
area runs another. -/
def spillBeyond : QueueOp := { spillOf 7 1 with raw := (spillOf 7 1).raw.take 0x1C ++ leBytes 4 15 ++ (spillOf 7 1).raw.drop 0x20 }
def spillNone : QueueOp := { spillOf 7 1 with raw := (spillOf 7 1).raw.take 0x20 ++ leBytes 4 0 ++ (spillOf 7 1).raw.drop 0x24 }

theorem witness_spill_starts :
    ((spillQueued (spillOf 7 1)).queue 0).ops.find? (fun x => x.index == 5 && x.phase == .waiting) = some (spillOf 7 1)
    ∧ (spillQueued (spillOf 7 1)).quiescing 0 = false ∧ ((spilling (spillOf 7 1)).spillOp 0 (spillOf 7 1)).count = 4
    ∧ (let s := spillQueued spillBeyond
       let o := (spilling spillBeyond).spillOp 0 spillBeyond
       (s.area 0).waiting = [o] ∧ o.count ≠ 0 ∧ (s.area 0).running = none ∧ o.readyAt < s.now
         ∧ s.waitsStill o = some spillBeyond ∧ s.spillRefusal 0 o spillBeyond = some 0x06 ∧ spillBeyond.recorded = false)
    ∧ (let s := spillQueued spillNone
       let o := (spilling spillNone).spillOp 0 spillNone
       (s.area 0).waiting = [o] ∧ o.count = 0 ∧ o.readyAt < s.now ∧ s.quiescing o.group = false
         ∧ s.waitsStill o = some spillNone ∧ s.spillRefusal 0 o spillNone = none ∧ spillNone.recorded = false
         ∧ (s.area 0).running = none
         ∧ (let t := s.setArea 0 { (s.area 0) with running := some { o with count := 4, index := 6 } }
            (t.area 0).waiting = [o] ∧ (t.area 0).running.isSome = true ∧ t.waitsStill o = some spillNone
              ∧ t.spillRefusal 0 o spillNone = none)) := by decide +kernel

theorem witness_area_done_this_tide : image.dynBalance = false ∧ (((spillRuns (spillOf 7 1) 2).area 0).running).isSome = true
   ∧ (let s := (spilling (spillOf 7 1)).setArea 0 { running := some { (spilling (spillOf 7 1)).spillOp 0 (spillOf 7 1) with lastTide := some 100 } }
      ∃ o, (s.area 0).running = some o ∧ o.lastTide = some s.now) := ⟨by decide, by decide +kernel, _, rfl, rfl⟩

/-- A tile whose slot header cannot be read, in the store that reports it. -/
theorem witness_spill_bad_tile : (let s := spillRuns (spillOf 8 0) 2
    s.readTile areaA 2 [s.slotAddr areaA 2 / 256] = (.bad (some (s.slotAddr areaA 2 / 256)), false)) := by decide +kernel
/-! ### The structure image -/

/-- A shadow bank with bytes that are no image, verified as the engine sees it, and one not written. -/
def withShadow (x : ShadowState) (j : ImageJob) : State :=
  { base with image := { base.image with job := j, shadowState := x, shadow := { image := some image, hash := List.replicate 48 3 } } }

theorem witness_ShadowBankIsWrittenAndVerified : base.running = true ∧ base.tagPriv 8 = true ∧ base.imageBusy = false
    ∧ base.shadowInUse = false ∧ (withShadow .verified .verify).imageBusy = true
    ∧ (let s := (withShadow .verified .none).modPort 0 (fun q => { q with nb := { q.nb with role := 1, imageHash := List.replicate 48 3 } })
       s.imageBusy = false ∧ s.shadowInUse = true)
    ∧ (withShadow .written .verify).image.job = .verify := by decide +kernel

theorem witness_StoreKeepsAnImageInASlot : base.img.isSome = true ∧ base.image.job = .none ∧ base.cal.busy = false
    ∧ base.nv.bytes.wf = true ∧ (withShadow .verified .none).verified.isSome = true ∧ base.verified.isSome = false
    ∧ committing.cal.busy = true ∧ storing.image.job = .store 0 true ∧ storing.power.restart = .none
    ∧ (State.imageBytes storing.image.active.bytes).length ≤ slotBytes := by decide +kernel

/-- Without an active image the hall chip number follows the BOOT slot. -/
theorem witness_store_without_image : (let s : State := { withShadow .verified .none with image :=
      { (withShadow .verified .none).image with active := {} } }
    s.img = none ∧ s.running = true ∧ s.verified.isSome = true ∧ s.image.job = .none ∧ s.cal.busy = false)
    ∧ (let s : State := { storing with image := { storing.image with active := {} } }
       s.img = none ∧ s.image.job = .store 0 true) := by decide +kernel

/-- A verified image like the active one, and one whose epoch is another. -/
def activating : State := { withShadow .verified .none with image := { (withShadow .verified .none).image with pending := some 0 } }
def nextImage (e : Nat) : State :=
  { withShadow .verified .none with image := { (withShadow .verified .none).image with
      shadow := { image := some { image with epochSec := e, bist := { image.bist with patternSeed := e } }
                  hash := List.replicate 48 3 } } }
def turned (s : State) : State :=
  { s with image := { s.image with pending := some 0 }, time := { s.time with boundaryOpen := true } }
def spillBars (s : State) : State := s.setArea 9 { running := some ((spilling (spillOf 7 1)).spillOp 0 (spillOf 7 1)) }

theorem witness_ActivationSwapsTheBanks : (nextImage 0).running = true ∧ (nextImage 0).tagPriv 8 = true
    ∧ (nextImage 0).imageBusy = false ∧ (nextImage 0).verified.map (·.epochSec) = some 0
    ∧ (nextImage 0).verified.map (fun n => (nextImage 0).actRefusal n true) = some 0
    ∧ (nextImage 0).rests 0 = true ∧ 0 ∈ (nextImage 0).bothGroups
    ∧ base.verified = none
    ∧ (let s := (nextImage 7).modGroup 0 (fun gr => { gr with state := .exchange })
       s.verified.map (fun n => s.actRefusal n true) = some 2)
    ∧ (turned (nextImage 0)).image.pending.isSome = true ∧ base.image.pending = none
    ∧ (turned (nextImage 0)).activationDue = true ∧ (turned (nextImage 0)).effectsDue = false
    ∧ (turned (nextImage 0)).verified.map (fun n => (turned (nextImage 0)).actRefusal n false) = some 0
    ∧ base.activationDue = false ∧ base.image.reloading = false := by decide +kernel

theorem witness_pattern_seed : (turned (nextImage 1)).verified.map (fun n => decide ((turned (nextImage 1)).im.bist.patternSeed = n.bist.patternSeed)) = some true
    ∧ (turned (nextImage 2)).verified.map (fun n => decide ((turned (nextImage 2)).im.bist.patternSeed = n.bist.patternSeed)) = some false := by
  decide +kernel

/-- Slot 1 holds the active image's descriptor. -/
def reloadable : State :=
  { (base.writeNv (descAt 1) (State.makeDesc 4096 hash 100 1)) with image := { base.image with reloading := true } }

theorem witness_reload : reloadable.running = true ∧ reloadable.image.reloading = true ∧ reloadable.activeSlot = some 1 := by
  decide +kernel

/-! ### Keys, codebooks -/

def keyed (k : KeySlot) (j : FuseJob) : State := { base with nv := { base.nv with keys := [k, {}, {}, {}], job := j } }

theorem witness_KeysAndRollbackFloorAreFused : field (0xF05E0004 : Word32).toNat 0 2 = 0
    ∧ field (0xF05E0004 : Word32).toNat 16 16 = 0xF05E ∧ bitAt (0xF05E0004 : Word32).toNat 2 = true ∧ base.nv.job = .none
    ∧ (base.nv.keys.getD 0 {}).programmed = false ∧ bitAt (0xF05E0008 : Word32).toNat 2 = false
    ∧ bitAt (0xF05E0008 : Word32).toNat 3 = true ∧ field (4 : Word32).toNat 16 16 ≠ 0xF05E
    ∧ ((keyed ⟨hash, true, false⟩ .none).nv.keys.getD 0 {}).programmed = true
    ∧ ((keyed ⟨hash, true, false⟩ .none).nv.keys.getD 0 {}).revoked = false
    ∧ (keyed {} (.program 0 hash)).nv.job = .program 0 hash ∧ (keyed {} (.revoke 0)).nv.job = .revoke 0
    ∧ 0 < (keyed {} (.revoke 0)).nv.keys.length ∧ (keyed {} (.revoke 0)).running = true
    ∧ (base.img.map (·.rollback)).getD 0 = 5 ∧ (5 : Word32).toNat % 2 ^ 7 ≤ 5 ∧ 5 < (6 : Word32).toNat % 2 ^ 7 := by decide +kernel

/-- Sixteen good levels, -80 to 70, in CODEBOOK_LEVELS for codebook 0. -/
def levels : List Int := [-80, -70, -60, -50, -40, -30, -20, -10, 0, 10, 20, 30, 40, 50, 60, 70]
def booking (l : List Int) : State :=
  { base with bookRegs := { sel := 0, step := 9, levels := l.map (fun x => BitVec.ofInt 8 x) } }

theorem witness_CodebookReplacementFillsTheOtherGeneration : (booking levels).running = true ∧ (booking levels).tagPriv 8 = true
    ∧ bitAt (1 : Word32).toNat 0 = true
    ∧ Check.levelsOk ((padTo 16 (booking levels).bookRegs.levels).map (fun x => signed 8 x.toNat)) = true
    ∧ Check.levelsOk ((padTo 16 (booking [1]).bookRegs.levels).map (fun x => signed 8 x.toNat)) = false
    ∧ ((booking levels).book 0).pending = none
    ∧ (booking levels).im.buckets.any (fun d => d.fbKind == .codebook && d.fbParam == 0) = false
    ∧ (State.slotOf ((booking levels).book 0) (!((booking levels).book 0).cur)).refs = 0
    ∧ State.bookGroups image 0 = [] := by decide +kernel

/-! ### The register block, counters, invariants -/

theorem witness_HostAccessesFollowSizeAndHalves : State.goodAccess 0x18 6 = false ∧ State.goodAccess 0x1C 8 = false
    ∧ State.isWide 0x18 = true ∧ base.mayReach 8 0x18 = true ∧ base.mayReach 8 0x1C = true := by decide +kernel

theorem witness_pps_control : base.latched 8 0x001004 = none ∧ base.time.ppsWidth ≤ 500000 := by decide +kernel

def fullCounter (n : Nat) : State :=
  { base with stats := { base.stats with engine := [((EStat.codebookBusy).index, { count := n, ovf := false })] } }

theorem witness_CountersSaturateWithOneEvent :
    (fullCounter 0xFFFFFFFFFFFF).stats.engine.get {} (EStat.codebookBusy).index = { count := 0xFFFFFFFFFFFF, ovf := false }
      ∧ 0xFFFFFFFFFFFF < 0xFFFFFFFFFFFF + 1 ∧ (fullCounter 0xFFFFFFFFFFFE).stats.engine.get {} (EStat.codebookBusy).index
        = { count := 0xFFFFFFFFFFFE, ovf := false } := by decide +kernel

theorem witness_counters_fill : Counter.fills { count := 0xFFFFFFFFFFFF, ovf := false } 1
    ∧ ¬ Counter.fills { count := 5, ovf := false } 1
    ∧ ({ base with stats := { base.stats with port := [(32, { count := 0xFFFFFFFFFFFF, ovf := false })],
                                              part := [(32, { count := 0xFFFFFFFFFFFF, ovf := false })] } } : State).stats.port.get {} (32 * 1 + 0)
        = { count := 0xFFFFFFFFFFFF, ovf := false }
    ∧ EStat.copyIndex .eventLost = some 0 ∧ EStat.copyIndex .codebookBusy = none := by
  unfold Counter.fills
  decide

/-- A dense block with an outlier and a list, of values within their fields. -/
theorem witness_codec : (let acc : List Int := [2 ^ 40, -3, 2 ^ 33, 0]
    acc.length ≤ 1 * elemsPerCell .t4 ∧ acc.length ≤ 0xFFFFF ∧ (∀ l ∈ levels, -128 ≤ l ∧ l ≤ 127))
    ∧ (let union : List (Nat × Nat) := [(1, 1), (3, 2)]
       union.Pairwise (fun x y => x.1 < y.1) ∧ (∀ x ∈ union, x.1 < 4 ∧ 0 < x.2 ∧ x.2 < 2 ^ 16)) := by decide +kernel

theorem witness_hop_work : (let v := opView exchangeOp launched
    (State.noInput (v.limit 0)).exact.length
      = (State.hopWork v 0 true true [] ((at_ 110 inStep).readGen v false 0) (State.noInput (v.limit 0)) []).enc.sent.length) := by
  decide +kernel

theorem witness_MessagesAndCellsReadBackAsWritten : (readCell (mkCell (cell3 1 (List.replicate 224 0)))).payload.length = 224 := by
  decide +kernel

theorem witness_EveryStepKeepsMemoriesCanonical : base.memoriesWf = true ∧ step base = .next base := ⟨by decide +kernel, rfl⟩

theorem witness_EveryStepKeepsFusesOneWay : (keyed ⟨hash, true, false⟩ .none).nv.keys.getD 0 {} = ⟨hash, true, false⟩
    ∧ step (keyed ⟨hash, true, false⟩ .none) = .next (keyed ⟨hash, true, false⟩ .none) := ⟨rfl, rfl⟩

end Sys2Proof.Tests
end

/-! ## Every step keeps the byte memories in canonical form

Only a few operations write a byte memory, and each does so by a memory operation that keeps the canonical form. Every
other operation leaves the four parts that hold byte memories alone, which its frame lemma says. What follows goes from the
operations to the commands, in the order of the model. -/

section

namespace Sys2Proof.Machine

-- One declaration at a time: the check's memory limit leaves no room for the stacks of many threads.
set_option Elab.async false

open Sys2Proof

/-! ### Memory operations that the laws of memories leave out -/

namespace Mem

/-- Masking the bytes of a memory, and dropping those that become zero, keeps the canonical form. -/
theorem wf_mask {m : Mem} {mask : Nat → Byte} (h : m.wf = true) :
    Mem.wf (m.filterMap fun c => if c.2 &&& mask c.1 = 0 then none else some (c.1, c.2 &&& mask c.1)) = true := by
  induction m with
  | nil => rfl
  | cons e m ih =>
    obtain ⟨k, v⟩ := e
    obtain ⟨-, habove, hm⟩ := wf_cons.mp h
    rw [List.filterMap_cons]
    dsimp only
    split
    · exact ih hm
    · rename_i hv
      split at hv
      · cases hv
      · rename_i hne
        cases hv
        refine wf_cons.mpr ⟨hne, fun c hc => ?_, ih hm⟩
        obtain ⟨x, hx, hcx⟩ := List.mem_filterMap.mp hc
        split at hcx
        · cases hcx
        · cases hcx
          exact habove x hx

end Mem

theorem cleanRecord_wf {m : Mem} (h : m.wf = true) : (cleanRecord m).wf = true :=
  Mem.wf_mask (Mem.wf_filter h)

namespace State

theorem commitRecord_wf {s : State} (h : s.cal.work.wf = true) : s.commitRecord.wf = true :=
  Mem.wf_writeBytes (Mem.wf_writeBytes (cleanRecord_wf h))

/-- What moves is written byte by byte into an empty memory, wherever it goes. -/
theorem moved_wf (m : Mem) (l : List (Nat × Nat × Nat)) : (moved m l).wf = true :=
  List.foldlRecOn (motive := fun acc : Mem => acc.wf = true) l _ rfl fun _ h _ _ =>
    List.foldlRecOn (motive := fun acc : Mem => acc.wf = true) _ _ h fun _ h _ _ => Mem.wf_write h

/-! ### The invariant and how it passes through a meaning -/

/-- The byte memories of a state are in canonical form, memory by memory (log entry 7). -/
structure Canonical (s : State) : Prop where
  stack : s.stack.wf = true
  store : s.nv.bytes.wf = true
  work : s.cal.work.wf = true
  inEffect : s.cal.inEffect.wf = true
  committing : s.cal.committing.wf = true
  active : s.image.active.bytes.wf = true
  shadow : s.image.shadow.bytes.wf = true

theorem memoriesWf_iff {s : State} : s.memoriesWf = true ↔ s.Canonical := by
  simp only [memoriesWf, Bool.and_eq_true, and_assoc]
  exact ⟨fun ⟨a, b, c, d, e, f, g⟩ => ⟨a, b, c, d, e, f, g⟩, fun ⟨a, b, c, d, e, f, g⟩ => ⟨a, b, c, d, e, f, g⟩⟩

end State

/-- The parts of the state that hold a byte memory. -/
def Part.holdsMemory : Part → Bool
  | .stack | .nv | .cal | .image => true
  | _ => false

/-- A change that spares the parts with byte memories keeps their canonical form. -/
theorem OnlyChanges.canonical {P : List Part} {s t : State} (h : OnlyChanges P s t) (hs : s.Canonical)
    (hP : ∀ p ∈ P, p.holdsMemory = false := by decide) : t.Canonical := by
  have same (p : Part) (hp : p.holdsMemory = true) : p.same s t := h p fun hm => by simp [hP p hm] at hp
  have hstack : t.stack = s.stack := same .stack rfl
  have hnv : t.nv = s.nv := same .nv rfl
  have hcal : t.cal = s.cal := same .cal rfl
  have himage : t.image = s.image := same .image rfl
  exact ⟨hstack ▸ hs.stack, hnv ▸ hs.store, hcal ▸ hs.work, hcal ▸ hs.inEffect, hcal ▸ hs.committing,
    himage ▸ hs.active, himage ▸ hs.shadow⟩

namespace State

theorem Canonical.ite {a b : State} {c : Prop} {_ : Decidable c} (ha : a.Canonical) (hb : b.Canonical) :
    (if c then a else b).Canonical := by
  split
  · exact ha
  · exact hb

theorem Canonical.foldl {α : Type} {s : State} {l : List α} {f : State → α → State} (h : s.Canonical)
    (hf : ∀ u a, u.Canonical → (f u a).Canonical) : (l.foldl f s).Canonical :=
  List.foldlRecOn l f h fun u hu a _ => hf u a hu

theorem Canonical.foldl_fst {α β : Type} {x : State × β} {l : List α} {f : State × β → α → State × β}
    (h : x.1.Canonical) (hf : ∀ y a, y.1.Canonical → (f y a).1.Canonical) : (l.foldl f x).1.Canonical :=
  List.foldlRecOn (motive := fun y => y.1.Canonical) l f h fun y hy a _ => hf y a hy

end State

theorem whenRunning_canonical {s t : State} {f : State → State} (ht : whenRunning s f = .next t) (h : s.Canonical)
    (hf : (f s).Canonical) : t.Canonical := by
  cases ht
  exact .ite hf h

theorem whenAlive_canonical {s t : State} {f : State → State} (ht : whenAlive s f = .next t) (h : s.Canonical)
    (hf : (f s).Canonical) : t.Canonical := by
  cases ht
  exact .ite hf h

namespace State

variable {s : State}

/-! Fields that hold no byte memory, each where it is set alone. -/

theorem Canonical.withPower {x} (h : s.Canonical) : ({ s with power := x } : State).Canonical := { h with }
theorem Canonical.withSaved {x} (h : s.Canonical) : ({ s with saved := x } : State).Canonical := { h with }
theorem Canonical.withTime {x} (h : s.Canonical) : ({ s with time := x } : State).Canonical := { h with }
theorem Canonical.withParts {x} (h : s.Canonical) : ({ s with parts := x } : State).Canonical := { h with }
theorem Canonical.withHost {x} (h : s.Canonical) : ({ s with host := x } : State).Canonical := { h with }
theorem Canonical.withEvents {x} (h : s.Canonical) : ({ s with events := x } : State).Canonical := { h with }
theorem Canonical.withIdent {x} (h : s.Canonical) : ({ s with ident := x } : State).Canonical := { h with }
theorem Canonical.withBookRegs {x} (h : s.Canonical) : ({ s with bookRegs := x } : State).Canonical := { h with }
theorem Canonical.withRecSel {x} (h : s.Canonical) : ({ s with recSel := x } : State).Canonical := { h with }
theorem Canonical.withMaint {x} (h : s.Canonical) : ({ s with maint := x } : State).Canonical := { h with }

/-- The stacks and what is known unreadable of them are set together. -/
theorem Canonical.withStack {m us} (h : s.Canonical) (hm : m.wf = true) :
    ({ s with stack := m, badUnits := us } : State).Canonical := { h with stack := hm }

/-! ### Accesses and received cells: what is run on a state that passed the checks -/

section
variable {f : State → State}

theorem asPriv_canonical {tag a w} (h : s.Canonical) (hf : ∀ u : State, u.Canonical → (f u).Canonical) :
    (s.asPriv tag a w f).Canonical := by
  unfold asPriv
  exact .ite h (.ite (hf _ (touch_only.canonical h)) (violation_only.canonical (touch_only.canonical h)))

theorem asGroup_canonical {tag g off} (h : s.Canonical) (hf : ∀ u : State, u.Canonical → (f u).Canonical) :
    (s.asGroup tag g off f).Canonical := by
  unfold asGroup
  exact .ite h (asPriv_canonical h hf)

theorem asPower_canonical {tag off} (h : s.Canonical) (hf : ∀ u : State, u.Canonical → (f u).Canonical) :
    (s.asPower tag off f).Canonical := by
  unfold asPower
  exact .ite (.ite (hf _ h) h) (asPriv_canonical h hf)

end

theorem withCell_canonical {p type cell} {f : State → CellFields → State} (h : s.Canonical)
    (hf : ∀ (u : State) c, u.Canonical → (f u c).Canonical) : (s.withCell p type cell f).Canonical := by
  unfold withCell
  have hbad : (s.bumpPort p .crcFail 1).Canonical := bumpPort_only.canonical h
  have hgood : (s.collectRequest p (padTo 256 cell)).Canonical := collectRequest_only.canonical h
  exact .ite h <| .ite (.ite (bumpPort_only.canonical hbad) hbad) <| .ite h <|
    .ite (hf _ _ hgood) (bumpPort_only.canonical hgood)

/-! ### Hops and folds: generation B is written -/

theorem writeGen_canonical {v c r} (h : s.Canonical) : (s.writeGen v c r).Canonical := by
  unfold writeGen
  extract_lets +onlyGivenNames st a s₁ s₂ s₃
  have h₁ : s₁.Canonical := writeUnits_only.canonical { h with stack := Mem.wf_writeBytes h.stack }
  have h₂ : s₂.Canonical := .ite h₁ (raise_only.canonical <| bumpBy_only.canonical h₁)
  have h₃ : s₃.Canonical := .ite h₂ (bumpBy_only.canonical h₂)
  exact modGroup_only.canonical h₃

theorem finishEbb_canonical {v c env w inp li lo tally cells} (h : s.Canonical) :
    (s.finishEbb v c env w inp li lo tally cells).Canonical := by
  unfold finishEbb
  exact modEntry_only.canonical <| retain_only.canonical <| modCtx_only.canonical <| sendChunk_only.canonical <|
    selfCheck_only.canonical <| writeGen_canonical <| keepStats_only.canonical <| countHop_only.canonical h

theorem withReads_canonical {v c env} {f : State → State} (h : s.Canonical)
    (hf : ∀ u : State, u.Canonical → (f u).Canonical) : (s.withReads v c env f).Canonical := by
  unfold withReads
  extract_lets +onlyGivenNames s₁
  have h₁ : s₁.Canonical := noteErrors_only.canonical h
  exact .ite (abort_only.canonical <| sramUE_only.canonical h₁) <|
    .ite (hf _ (.ite h₁ (emit_only.canonical h₁))) (residualLost_only.canonical h₁)

theorem withCells_canonical {v c lap env} {f : State → List Bytes → State} (h : s.Canonical)
    (hf : ∀ (u : State) cells, u.Canonical → (f u cells).Canonical) : (s.withCells v c lap env f).Canonical := by
  unfold withCells
  exact .ite (missingCells_only.canonical h) (dropStaged_only.canonical (hf _ _ h))

theorem ebbFirst_canonical {v c env} (h : s.Canonical) : (s.ebbFirst v c env).Canonical := by
  unfold ebbFirst
  exact withReads_canonical (takeCtx_only.canonical h) fun _ hu => finishEbb_canonical hu

theorem ebbMiddle_canonical {v c env} (h : s.Canonical) : (s.ebbMiddle v c env).Canonical := by
  unfold ebbMiddle
  exact withReads_canonical (takeCtx_only.canonical h) fun _ hu =>
    withCells_canonical hu fun _ _ hw => finishEbb_canonical (countBad_only.canonical hw)

theorem ownerStep_canonical {v c env} (h : s.Canonical) : (s.ownerStep v c env).Canonical := by
  unfold ownerStep
  refine withReads_canonical (takeCtx_only.canonical h) fun _ hu => withCells_canonical hu fun u cells hw => ?_
  extract_lets +onlyGivenNames t d s₁ w tally pass s₂ s₃ s₄ flood out staged s₅ bad
  have h₂ : s₂.Canonical := .ite (countBad_only.canonical hw) (bump_only.canonical <| countBad_only.canonical hw)
  have h₄ : s₄.Canonical := writeGen_canonical <| keepStats_only.canonical <| countHop_only.canonical h₂
  have h₅ : s₅.Canonical := selfCheck_only.canonical h₄
  exact .ite (residualLost_only.canonical h₅) <| .ite (abort_only.canonical <| bump_only.canonical h₅) <|
    startVerdict_only.canonical <| modEntry_only.canonical <| modCtx_only.canonical <| sendChunk_only.canonical <|
    deliver_only.canonical <| writeRetention_only.canonical <| retain_only.canonical h₅

theorem foldChunk_canonical {v grad c} (h : s.Canonical) : (s.foldChunk v grad c).Canonical := by
  unfold foldChunk
  exact writeGen_canonical <| foldNonfinite_only.canonical <| noteMax_only.canonical <| emit_only.canonical h

theorem spareChunk_canonical {v grad c} (h : s.Canonical) : (s.spareChunk v grad c).Canonical := by
  unfold spareChunk
  exact writeGen_canonical <| foldNonfinite_only.canonical <| emit_only.canonical h

/-! ### The end of a step: residuals are zeroed or copied -/

theorem clearGenerations_canonical {g} (h : s.Canonical) : (s.clearGenerations g).Canonical := by
  unfold clearGenerations
  exact h.foldl fun _ _ hu => hu.foldl fun _ _ hw => { hw with stack := Mem.wf_filter hw.stack }

theorem establishFresh_canonical {g} (h : s.Canonical) : (s.establishFresh g).Canonical := by
  unfold establishFresh
  exact (clearGenerations_canonical h).foldl fun _ _ => setBucket_only.canonical

theorem zeroBadUnits_canonical {g} (h : s.Canonical) : (s.zeroBadUnits g).Canonical := by
  unfold zeroBadUnits
  exact .ite h <| h.foldl fun _ _ hu => hu.foldl fun _ _ hw =>
    raise_only.canonical <| bump_only.canonical { hw with stack := Mem.wf_filter hw.stack }

theorem discardStep_canonical {g} (h : s.Canonical) : (s.discardStep g).Canonical := by
  unfold discardStep
  extract_lets +onlyGivenNames gr step ops s₁ ended s₂ s₃ s₄ s₅ s₆
  have h₁ : s₁.Canonical := .ite (zeroBadUnits_canonical h) h
  have h₂ : s₂.Canonical := .ite (endStepOps_only.canonical h₁) h₁
  have h₃ : s₃.Canonical := .ite h₂ (dropStepOps_only.canonical h₂)
  exact raise_only.canonical <| bumpG_only.canonical <| modGroup_only.canonical <| freeStep_only.canonical <|
    establishFresh_canonical h₃

theorem askDiscard_canonical {g} (h : s.Canonical) : (s.askDiscard g).Canonical := by
  unfold askDiscard
  exact .ite (tryEnterOpen_only.canonical (discardStep_canonical h)) (ignoreGroup_only.canonical h)

theorem copyChunk_canonical {met d c} (h : s.Canonical) : (s.copyChunk met d c).Canonical := by
  unfold copyChunk
  exact markBad_only.canonical <| noteBad_only.canonical <| writeUnits_only.canonical
    { h with stack := Mem.wf_writeBytes h.stack }

theorem copyReleased_canonical {met d cs} (h : s.Canonical) : (s.copyReleased met d cs).Canonical := by
  unfold copyReleased
  exact h.foldl fun _ _ => copyChunk_canonical

theorem skipStep_canonical {g met} (h : s.Canonical) : (s.skipStep g met).Canonical := by
  unfold skipStep
  refine tryEnterOpen_only.canonical <| modGroup_only.canonical <| dropStepOps_only.canonical <|
    freeStep_only.canonical <| endStepOps_only.canonical <| enterLedger_only.canonical <|
    (readStack_only.canonical h).foldl fun u d hu => ?_
  exact .ite hu (.ite (flipSelector_only.canonical hu) (copyReleased_canonical hu))

/-! ### Recovery -/

theorem acknowledge_canonical {g d met} (h : s.Canonical) : (s.acknowledge g d met).Canonical := by
  unfold acknowledge
  exact sendMessage_only.canonical <| forgetLost_only.canonical <| modRecord_only.canonical <|
    modGroup_only.canonical <| (zeroBadUnits_canonical h).foldl fun _ _ => lateRelease_only.canonical

theorem takeDecide_canonical {g d met} (h : s.Canonical) : (s.takeDecide g d met).Canonical := by
  unfold takeDecide
  exact .ite (conflict_only.canonical (.ite h (modGroup_only.canonical h))) <| .ite h <| .ite h <|
    .ite (modGroup_only.canonical h) (acknowledge_canonical h)

theorem sendDecide_canonical {g action table tR} (h : s.Canonical) : (s.sendDecide g action table tR).Canonical := by
  unfold sendDecide
  exact takeDecide_canonical (sendMessage_only.canonical h)

theorem decideAuto_canonical {g action table} (h : s.Canonical) : (s.decideAuto g action table).Canonical := by
  unfold decideAuto
  exact sendDecide_canonical h

theorem choose_canonical {g lost} (h : s.Canonical) : (s.choose g lost).Canonical := by
  unfold choose
  refine .ite (decideAuto_canonical h) (.ite h ?_)
  split
  · exact .ite (decideAuto_canonical h) h
  · split
    · exact .ite (modGroup_only.canonical h) (decideAuto_canonical h)
    · exact modGroup_only.canonical h
  · exact h

theorem coordinate_canonical {g} (h : s.Canonical) : (s.coordinate g).Canonical := by
  unfold coordinate
  refine .ite (choose_canonical h) ?_
  split
  · exact .ite (decideAuto_canonical (modGroup_only.canonical h)) h
  · exact h

theorem actOn_canonical {kind c met} (h : s.Canonical) : (s.actOn kind c met).Canonical := by
  unfold actOn
  refine .ite ?_ (coordinate_canonical h)
  split
  · exact .ite (.ite (conflict_only.canonical h) h) (takeDecide_canonical h)
  · exact h

theorem receiveCell_canonical {kind c met} (h : s.Canonical) : (s.receiveCell kind c met).Canonical := by
  unfold receiveCell
  extract_lets +onlyGivenNames g s₁ r
  have h₁ : s₁.Canonical := .ite (sendCensus_only.canonical (lostCommit_only.canonical h)) h
  have hr : r.1.Canonical := takeCell_only.canonical h₁
  exact .ite (actOn_canonical hr) hr

theorem receiveRecovery_canonical {p kind cell met} (h : s.Canonical) :
    (s.receiveRecovery p kind cell met).Canonical := by
  unfold receiveRecovery
  exact withCell_canonical h fun _ _ hu => .ite (receiveCell_canonical hu) hu

theorem reportAbort_canonical {g a} (h : s.Canonical) : (s.reportAbort g a).Canonical := by
  unfold reportAbort
  extract_lets +onlyGivenNames gr from_ n keep s₁ s₂ s₃
  have h₂ : s₂.Canonical := modGroup_only.canonical <| clearStaging_only.canonical <| noteAbort_only.canonical h
  exact coordinate_canonical <| sendCensus_only.canonical <| .ite h₂ (sendPropose_only.canonical h₂)

theorem resumeAt_canonical {g d} (h : s.Canonical) : (s.resumeAt g d).Canonical := by
  unfold resumeAt
  extract_lets +onlyGivenNames old joins byCtrl before s₁ s₂ _ s₃ s₄
  have h₁ : s₁.Canonical := modGroup_only.canonical h
  have h₂ : s₂.Canonical := .ite (establishFresh_canonical h₁) h₁
  have h₃ : s₃.Canonical := .ite h₂ (resetBlocks_only.canonical h₂.withMaint)
  have h₄ : s₄.Canonical := noteReplaced_only.canonical (enterRecovery_only.canonical h₃)
  exact .ite (refuseOpen_only.canonical (modGroup_only.canonical h₄)) (askWake_only.canonical (enterOpen_only.canonical h₄))

theorem recoveryCtrl_canonical {g v} (h : s.Canonical) : (s.recoveryCtrl g v).Canonical := by
  unfold recoveryCtrl
  refine .ite (modGroup_only.canonical h) (.ite (modGroup_only.canonical h) ?_)
  extract_lets +onlyGivenNames a _ s₁
  have h₁ : s₁.Canonical := modGroup_only.canonical h
  split
  · exact .ite (takeDecide_canonical h₁) (conflict_only.canonical h₁)
  · exact .ite (sendDecide_canonical h₁) h₁

theorem takeResume_canonical {g d} (h : s.Canonical) : (s.takeResume g d).Canonical := by
  unfold takeResume
  have resumed : ((s.acknowledge g d []).resumeAt g d).Canonical := resumeAt_canonical (acknowledge_canonical h)
  split
  · exact resumeAt_canonical h
  · exact .ite resumed (endArm_only.canonical h)
  · exact .ite resumed (leaveOut_only.canonical h)

theorem takeSkip_canonical {g d met} (h : s.Canonical) : (s.takeSkip g d met).Canonical := by
  unfold takeSkip
  exact .ite (.ite (skipStep_canonical h) h) <| .ite (.ite (endArm_only.canonical h) h) <|
    .ite (skipStep_canonical (acknowledge_canonical h)) h

/-! ### The calibration record -/

theorem calWr_canonical {off b} (h : s.Canonical) : (s.calWr off b).Canonical := by
  refine { h with work := Mem.wf_writeBytes h.work, inEffect := ?_ }
  show (if s.time.calValid then _ else _ : Mem).wf = true
  split
  · exact Mem.wf_writeBytes h.inEffect
  · exact h.inEffect

theorem dropDelay_canonical {p} (h : s.Canonical) : (s.dropDelay p).Canonical := by
  unfold dropDelay
  exact calWr_canonical (calWr_canonical h)

theorem loadCal_canonical (h : s.Canonical) : s.loadCal.Canonical := by
  unfold loadCal
  extract_lets +onlyGivenNames m bad _ _ s₁
  have hrecord : (if bad = 0 then m else []).wf = true := by
    split
    · exact Mem.wf_filter h.store
    · rfl
  have h₁ : s₁.Canonical := { h with work := hrecord, inEffect := hrecord }
  exact .ite h₁ (raise_only.canonical h₁.withPower)

theorem applyTemps_canonical {c} (h : s.Canonical) : (s.applyTemps c).Canonical := { h with }

theorem recompensate_canonical (h : s.Canonical) : s.recompensate.Canonical := by
  unfold recompensate
  exact .ite h { h with }

theorem storeDelay_canonical {p} (h : s.Canonical) : (s.storeDelay p).Canonical := by
  unfold storeDelay
  split
  · exact tryAlign_only.canonical <| refreshPhi_only.canonical <| recalibrated_only.canonical <| calWr_canonical <|
      calWr_canonical <| calWr_canonical <| calWr_canonical <| dropTokens_only.canonical <| modPort_only.canonical h
  · exact h

theorem countExchange_canonical {p d} (h : s.Canonical) : (s.countExchange p d).Canonical := by
  unfold countExchange
  split
  · exact .ite (storeDelay_canonical (modPort_only.canonical h)) (modPort_only.canonical h)
  · exact h

theorem applyCal_canonical (h : s.Canonical) : s.applyCal.Canonical := by
  unfold applyCal
  extract_lets +onlyGivenNames s₁ old now next _ s₂ s₃ s₄
  have h₁ : s₁.Canonical := .ite (recompensate_canonical (loadCal_canonical h)) h
  have hnow : now.wf = true := by
    unfold now
    split
    · exact h₁.work
    · rfl
  have h₂ : s₂.Canonical := { h₁ with inEffect := hnow }
  have h₃ : s₃.Canonical := by
    unfold s₃
    clear_value next
    split
    · exact applyTemps_canonical h₂
    · exact h₂
  have h₄ : s₄.Canonical := .ite h₃ <| (recompensate_canonical h₃).foldl fun _ _ hu =>
    .ite (refreshPhi_only.canonical (recalibrated_only.canonical hu)) hu
  exact .ite h₄.withTime h₄

theorem writeCal_canonical {v} (h : s.Canonical) : (s.writeCal v).Canonical := by
  unfold writeCal
  exact .ite { h with } { h with work := Mem.wf_writeBytes h.work }

theorem readCal_canonical {tag} (h : s.Canonical) : (s.readCal tag).Canonical := by
  unfold readCal
  exact emit_only.canonical { h with }

theorem commitCal_canonical (h : s.Canonical) : s.commitCal.Canonical := by
  unfold commitCal
  refine .ite { h with } ?_
  extract_lets +onlyGivenNames m
  have hm : m.wf = true := commitRecord_wf h.work
  clear_value m
  exact { h with work := hm, committing := hm }

theorem reloadCal_canonical (h : s.Canonical) : s.reloadCal.Canonical := by
  unfold reloadCal
  exact .ite { h with } { h with }

theorem updateTemps_canonical {temps} (h : s.Canonical) : (s.updateTemps temps).Canonical := by
  unfold updateTemps
  have h₁ : (s.readTemps temps).Canonical := readTemps_only.canonical h
  exact .ite { h₁ with } { h₁ with }

/-! ### Links: a partner seen and a delay measured change the record -/

theorem meetPartner_canonical {p m} (h : s.Canonical) : (s.meetPartner p m).Canonical := by
  unfold meetPartner
  extract_lets +onlyGivenNames s₁
  have h₁ : s₁.Canonical := .ite (dropRemeasure_only.canonical h) h
  exact noteHail_only.canonical (.ite (dropDelay_canonical h₁) h₁)

theorem acceptHail_canonical {p m} (h : s.Canonical) : (s.acceptHail p m).Canonical := by
  unfold acceptHail
  extract_lets +onlyGivenNames fresh s₁ s₂ s₃ s₄
  have h₂ : s₂.Canonical := modPort_only.canonical (meetPartner_canonical h)
  have h₃ : s₃.Canonical := .ite (hailInQuarantine_only.canonical h₂) (.ite (quarantine_only.canonical h₂) h₂)
  exact (tryAlign_only.canonical (needDelay_only.canonical h₃)).foldl fun _ _ => openOperand_only.canonical

theorem takeHail_canonical {p m} (h : s.Canonical) : (s.takeHail p m).Canonical := by
  unfold takeHail
  refine .ite (bumpPort_only.canonical h) ?_
  split
  · exact modPort_only.canonical <| quarantine_only.canonical <| endOpens_only.canonical (meetPartner_canonical h)
  · exact acceptHail_canonical h

theorem takeDelay_canonical {p t4 response} (h : s.Canonical) : (s.takeDelay p t4 response).Canonical := by
  unfold takeDelay
  split
  · refine .ite ?_ h
    extract_lets +onlyGivenNames d s₁
    have h₁ : s₁.Canonical :=
      .ite (endExchange_only.canonical h) (countExchange_canonical (endExchange_only.canonical h))
    exact .ite (measured_only.canonical h₁) h₁
  · exact h

/-! ### The tide boundary -/

theorem scrubBad_canonical {u} (h : s.Canonical) : (s.scrubBad u).Canonical := by
  unfold scrubBad
  exact .ite (stackUE_only.canonical (markBad_only.canonical h))
    (bump_only.canonical { h with stack := Mem.wf_filter h.stack })

theorem scrubOutcome_canonical (h : s.Canonical) : s.scrubOutcome.Canonical := by
  unfold scrubOutcome
  extract_lets +onlyGivenNames m fixed s₁ s₂
  have h₁ : s₁.Canonical := h.withMaint
  have h₂ : s₂.Canonical := .ite h₁ (bumpBy_only.canonical h₁)
  exact h₂.foldl fun _ _ => scrubBad_canonical

theorem sramErrors_canonical {env} (h : s.Canonical) : (s.sramErrors env).Canonical := by
  unfold sramErrors
  extract_lets +onlyGivenNames s₁ s₂ s₃ sUE sAbort _ s₄ s₅
  have h₁ : s₁.Canonical := .ite h (bumpBy_only.canonical h)
  have h₂ : s₂.Canonical := h₁.foldl fun _ _ => sramUE_only.canonical
  have h₃ : s₃.Canonical := h₂.foldl fun _ _ hu => abortGroups_only.canonical (sramUE_only.canonical hu)
  have hAbort : sAbort.Canonical := abortGroups_only.canonical (sramUE_only.canonical h₃)
  have h₄ : s₄.Canonical := .ite { hAbort with } h₃
  have h₅ : s₅.Canonical := h₄.foldl fun _ _ hu => .ite (abort_only.canonical (sramUE_only.canonical hu)) hu
  exact h₅.foldl fun _ _ => loseEntry_only.canonical

theorem laterActions_canonical (h : s.Canonical) : s.laterActions.Canonical := by
  unfold laterActions
  extract_lets +onlyGivenNames wasFramed s₁ s₂ s₃ s₄ s₅ s₆ s₇
  have h₂ : s₂.Canonical := applyAttach_only.canonical <| setFrame_only.canonical <| applyCal_canonical <|
    catchPages_only.canonical (latchTime_only.canonical h)
  have h₃ : s₃.Canonical := .ite (withdraw_only.canonical h₂) h₂
  have h₄ : s₄.Canonical := h₃.foldl fun _ _ => checkLatency_only.canonical
  have h₅ : s₅.Canonical := h₄.foldl fun _ _ => tryAlign_only.canonical
  have h₇ : s₇.Canonical := wakeIfReady_only.canonical <| captureMarks_only.canonical <| fetchFirst_only.canonical <|
    beginTide_only.canonical <| applyIdle_only.canonical (grantWaiting_only.canonical h₅)
  exact h₇.withTime

theorem settle_canonical (h : s.Canonical) : s.settle.Canonical := by
  unfold settle
  exact .ite (laterActions_canonical h) h

theorem missedEffects_canonical (h : s.Canonical) : s.missedEffects.Canonical := by
  unfold missedEffects
  extract_lets +onlyGivenNames s₁ s₂
  have h₁ : s₁.Canonical := h.foldl fun _ _ => quarantineDue_only.canonical
  have h₂ : s₂.Canonical := h₁.foldl fun _ _ hu => hu.foldl fun _ _ => runEffect_only.canonical
  refine h₂.foldl fun u x hu => ?_
  split
  · exact .ite (takeResume_canonical hu) hu
  · exact .ite (endConflict_only.canonical hu) hu

theorem endTide_canonical (h : s.Canonical) : s.endTide.Canonical := by
  unfold endTide
  have h₁ := missedEffects_canonical h
  exact showPages_only.canonical (.ite (laterActions_canonical h₁) h₁)

theorem boundary_canonical {env} (h : s.Canonical) : (s.boundary env).Canonical := by
  unfold boundary
  extract_lets +onlyGivenNames s₁ wasFramed s₂ s₃ s₄ _ s₅ s₆ s₇
  have h₁ : s₁.Canonical := markReady_only.canonical (sendFrames_only.canonical (endTide_canonical h))
  have h₂ : s₂.Canonical := sramErrors_canonical <| scrubOutcome_canonical <|
    h₁.foldl fun _ _ => failBlocks_only.canonical
  have h₃ : s₃.Canonical := writeOverdue_only.canonical <| passTide_only.canonical (flushTide_only.canonical h₂)
  have h₄ : s₄.Canonical := .ite (withdraw_only.canonical h₃) h₃
  have h₅ : s₅.Canonical := h₄.withMaint
  have h₆ : s₆.Canonical := h₅.foldl fun _ _ => agePort_only.canonical
  have h₇ : s₇.Canonical := settleBooks_only.canonical (freeContexts_only.canonical h₆)
  exact settle_canonical h₇.withTime

/-! ### Partitions -/

theorem cancelActivation_canonical {reason} (h : s.Canonical) : (s.cancelActivation reason).Canonical := by
  unfold cancelActivation
  split
  · exact releaseHeld_only.canonical { h with }
  · exact h

theorem attach_canonical {p} (h : s.Canonical) : (s.attach p).Canonical := by
  unfold attach
  have h₁ : (s.resetWindow p).Canonical := resetWindow_only.canonical h
  exact .ite (Canonical.ite (cancelActivation_canonical h₁) h₁).withParts (ignorePart_only.canonical h)

theorem forceDetach_canonical {p} (h : s.Canonical) : (s.forceDetach p).Canonical := by
  unfold forceDetach
  refine .ite (h.withParts.foldl fun u g hu => ?_) (ignorePart_only.canonical h)
  have h₁ : (u.stopTransfers g).Canonical := stopTransfers_only.canonical hu
  exact .ite (discardStep_canonical h₁) h₁

/-! ### Spill tiles -/

theorem writeStack_canonical {a b} (h : s.Canonical) : (s.writeStack a b).Canonical := by
  unfold writeStack
  exact writeUnits_only.canonical { h with stack := Mem.wf_writeBytes h.stack }

theorem writeSlot_canonical {d hdr rest crcOver} (h : s.Canonical) : (s.writeSlot d hdr rest crcOver).Canonical := by
  unfold writeSlot
  exact writeStack_canonical h

theorem storeEscaped_canonical {d hdr rank raw} (h : s.Canonical) : (s.storeEscaped d hdr rank raw).Canonical := by
  unfold storeEscaped
  exact bumpP_only.canonical <| modSpill_only.canonical <| writeSlot_canonical <| writeStack_canonical <|
    setArea_only.canonical (useEscape_only.canonical h)

theorem storeFactors_canonical {d hdr f err flags} (h : s.Canonical) :
    (s.storeFactors d hdr f err flags).Canonical := by
  unfold storeFactors
  exact writeSlot_canonical h

theorem storeFinite_canonical {d hdr x raw flags} (h : s.Canonical) :
    (s.storeFinite d hdr x raw flags).Canonical := by
  unfold storeFinite
  exact .ite (writeSlot_canonical h) <| .ite (storeFactors_canonical h) <| .ite (storeEscaped_canonical h) <|
    storeFactors_canonical <| modSpill_only.canonical (noteEscape_only.canonical h)

theorem storeTile_canonical {d raw} (h : s.Canonical) : (s.storeTile d raw).Canonical := by
  unfold storeTile
  split
  · have h₁ (o) : (s.readRows d o).Canonical := readRows_only.canonical h
    exact modSpill_only.canonical <| .ite (storeFinite_canonical (h₁ _)) <| .ite (storeEscaped_canonical (h₁ _)) <|
      storeFinite_canonical <| modSpill_only.canonical <| bumpP_only.canonical (noteEscape_only.canonical (h₁ _))
  · exact h

theorem storeTiles_canonical {d n tiles} (h : s.Canonical) : (s.storeTiles d n tiles).Canonical := by
  unfold storeTiles
  exact h.foldl fun _ _ => storeTile_canonical

/-! ### The store and the fuses -/

theorem writeNv_canonical {a b} (h : s.Canonical) : (s.writeNv a b).Canonical :=
  { h with store := Mem.wf_writeBytes h.store }

theorem setDescFlags_canonical {n flags} (h : s.Canonical) : (s.setDescFlags n flags).Canonical := by
  unfold setDescFlags
  exact writeNv_canonical h

theorem markBoot_canonical (h : s.Canonical) : s.markBoot.Canonical := by
  unfold markBoot
  split
  · extract_lets +onlyGivenNames m s₁
    have h₁ : s₁.Canonical := .ite (setDescFlags_canonical h) h
    exact .ite h₁ (setDescFlags_canonical h₁)
  · exact h

theorem cutImage_canonical {n} (h : s.Canonical) : (s.cutImage n).Canonical := { h with }

theorem cutCal_canonical (h : s.Canonical) : s.cutCal.Canonical := { h with }

theorem cutFuses_canonical (h : s.Canonical) : s.cutFuses.Canonical := by
  unfold cutFuses
  split
  · exact { h with }
  · exact { h with }
  · exact h

theorem cutWrites_canonical (h : s.Canonical) : s.cutWrites.Canonical := by
  unfold cutWrites
  extract_lets +onlyGivenNames s₁ s₂
  have h₁ : s₁.Canonical := cutFuses_canonical h
  have h₂ : s₂.Canonical := by
    unfold s₂
    split
    · exact cutImage_canonical h₁
    · exact h₁
  exact .ite (cutCal_canonical h₂) h₂

theorem fuseFailed_canonical (h : s.Canonical) : s.fuseFailed.Canonical := { h with }

theorem keyCtrl_canonical {v} (h : s.Canonical) : (s.keyCtrl v).Canonical := by
  unfold keyCtrl
  have failed := fuseFailed_canonical h
  exact .ite h <| .ite failed <| .ite h <| .ite (.ite failed { h with }) <| .ite failed { h with }

theorem finishFuse_canonical (h : s.Canonical) : s.finishFuse.Canonical := by
  unfold finishFuse
  split
  · exact { h with }
  · exact { h with }
  · exact h

theorem rollbackCtrl_canonical {v} (h : s.Canonical) : (s.rollbackCtrl v).Canonical := by
  unfold rollbackCtrl
  exact .ite { h with } (.ite h { h with })

/-! ### Resets: the store stays, the stacks stay in Hold, every other memory is empty -/

theorem coldBase_canonical (h : s.Canonical) : s.coldBase.Canonical :=
  { stack := rfl, store := (cutPps_only.canonical (cutWrites_canonical h)).store, work := rfl, inEffect := rfl,
    committing := rfl, active := rfl, shadow := rfl }

theorem coldStart_canonical (h : s.Canonical) : s.coldStart.Canonical := by
  unfold coldStart
  exact (coldBase_canonical h).withPower

theorem enterHold_canonical {rails next} (h : s.Canonical) : (s.enterHold rails next).Canonical := by
  have hloop := holdLoop_only.canonical h
  exact { coldBase_canonical hloop with stack := hloop.stack }

theorem proceedRestart_canonical (h : s.Canonical) : s.proceedRestart.Canonical := by
  unfold proceedRestart
  refine .ite h ?_
  split
  · exact h
  · exact enterHold_canonical h
  · exact coldStart_canonical h
  · exact .ite (enterHold_canonical h) (dropHoldEntry_only.canonical h)

theorem askRestart_canonical {r} (h : s.Canonical) : (s.askRestart r).Canonical := by
  unfold askRestart
  exact proceedRestart_canonical h.withPower

theorem finishCal_canonical {ok} (h : s.Canonical) : (s.finishCal ok).Canonical := by
  unfold finishCal
  extract_lets +onlyGivenNames rest _ cal record _ s₁
  have h₁ : s₁.Canonical := .ite { h with store := Mem.wf_splice h.committing h.store } (cutCal_canonical h)
  exact proceedRestart_canonical { h₁ with work := h.work, inEffect := h.inEffect, committing := rfl }

/-! ### Image banks -/

theorem exchangeBanks_canonical (h : s.Canonical) : s.exchangeBanks.Canonical :=
  { h with active := h.shadow, shadow := h.active }

theorem discardResiduals_canonical {old new} (h : s.Canonical) : (s.discardResiduals old new).Canonical := by
  unfold discardResiduals
  exact h.foldl fun _ _ hu => raise_only.canonical (.ite hu (bumpBy_only.canonical hu))

theorem dropGroups_canonical {old new} (h : s.Canonical) : (s.dropGroups old new).Canonical := by
  unfold dropGroups
  exact h.foldl fun _ _ hu => discardStep_canonical (dropStepOps_only.canonical (endStepOps_only.canonical hu))

theorem discardOld_canonical {old new} (h : s.Canonical) : (s.discardOld old new).Canonical := by
  unfold discardOld
  exact dropGroups_canonical (discardAreas_only.canonical (discardResiduals_canonical h))

theorem swapTide_canonical (h : s.Canonical) : s.swapTide.Canonical := { h with }

theorem swapBanks_canonical {old new had} (h : s.Canonical) : (s.swapBanks old new had).Canonical := by
  unfold swapBanks
  extract_lets +onlyGivenNames s₁ before s₂ said l _ s₃
  have h₁ : s₁.Canonical := .ite h (swapTide_canonical h)
  have h₂ : s₂.Canonical := discardOld_canonical h₁.withEvents
  have h₃ : s₃.Canonical := { h₂ with stack := moved_wf _ _ }
  exact (exchangeBanks_canonical h₃).foldl fun _ _ => raise_only.canonical

theorem checkMap_canonical (h : s.Canonical) : s.checkMap.Canonical := by
  unfold checkMap
  split
  · exact .ite (raise_only.canonical { h with }) { h with }
  · exact h

theorem activate_canonical {old new} (h : s.Canonical) : (s.activate old new).Canonical := by
  unfold activate
  extract_lets +onlyGivenNames had wasFramed s₁ s₂ s₃ s₄ s₅ s₆ s₇ s₈ s₉
  have h₁ : s₁.Canonical := takeImage_only.canonical (swapBanks_canonical h)
  have h₂ : s₂.Canonical := .ite h₁ (checkMap_canonical h₁)
  have h₄ : s₄.Canonical := setFrame_only.canonical (retakeReference_only.canonical (markBoot_canonical h₂))
  have h₅ : s₅.Canonical := .ite (withdraw_only.canonical h₄) h₄
  have h₈ : s₈.Canonical := askHails_only.canonical (raise_only.canonical (takeRoles_only.canonical h₅))
  have h₉ : s₉.Canonical := .ite (h₈.foldl fun _ _ => tryAlign_only.canonical) h₈
  exact tryEnterOpens_only.canonical h₉

theorem askActivation_canonical (h : s.Canonical) : s.askActivation.Canonical := by
  unfold askActivation
  split
  · exact { h with }
  · exact .ite { h with } (Canonical.foldl { h with } fun _ _ hu => .ite (modGroup_only.canonical hu) hu)

theorem ignoreCmd_canonical (h : s.Canonical) : s.ignoreCmd.Canonical := { h with }

theorem loseShadow_canonical {keep} (h : s.Canonical) : (s.loseShadow keep).Canonical := by
  unfold loseShadow
  have h₁ := cancelActivation_canonical (reason := 5) h
  refine { h₁ with shadow := ?_ }
  show (if keep then _ else _ : Mem).wf = true
  split
  · exact h₁.shadow
  · rfl

theorem writeWindow_canonical {off n v} (h : s.Canonical) : (s.writeWindow off n v).Canonical := by
  unfold writeWindow
  refine .ite (ignoreCmd_canonical h) (.ite { h with } ?_)
  extract_lets +onlyGivenNames s₁
  have h₁ : s₁.Canonical := loseShadow_canonical h
  clear_value s₁
  exact { h₁ with shadow := Mem.wf_writeBytes h₁.shadow }

theorem imageCmd_canonical {f : State → State} (h : s.Canonical) (hf : (f s).Canonical) :
    (s.imageCmd f).Canonical := by
  unfold imageCmd
  exact .ite (ignoreCmd_canonical h) hf

theorem setJob_canonical {j} (h : s.Canonical) : (s.setJob j).Canonical := { h with }

theorem loadSlot_canonical {n} (h : s.Canonical) : (s.loadSlot n).Canonical := by
  unfold loadSlot
  extract_lets +onlyGivenNames _ s₁ b
  have h₁ : s₁.Canonical := loseShadow_canonical h
  have hb : b.wf = true := Mem.wf_writeBytes rfl
  clear_value s₁ b
  exact .ite { h with } (setJob_canonical { h₁ with shadow := hb })

theorem judge_canonical (h : s.Canonical) : s.judge.Canonical := by
  unfold judge
  exact .ite { h with } (cancelActivation_canonical { h with })

theorem reloadImage_canonical (h : s.Canonical) : s.reloadImage.Canonical := by
  unfold reloadImage
  split
  · refine .ite (tryEnterOpens_only.canonical (Canonical.foldl ?_ fun _ _ => openOperand_only.canonical)) h
    exact { h with active := Mem.wf_writeBytes rfl }
  · exact h

theorem refuseStore_canonical (h : s.Canonical) : s.refuseStore.Canonical := { h with }

theorem startStore_canonical {n active} (h : s.Canonical) : (s.startStore n active).Canonical := by
  unfold startStore
  split
  · exact refuseStore_canonical (ignoreCmd_canonical h)
  · exact ignoreCmd_canonical h
  · exact .ite (refuseStore_canonical h) (followBoot_only.canonical (setJob_canonical (setDescFlags_canonical h)))

theorem finishStore_canonical {n active ok} (h : s.Canonical) : (s.finishStore n active ok).Canonical := by
  unfold finishStore
  extract_lets +onlyGivenNames s₁ _ k chip b boot s₂ s₃
  have h₁ : s₁.Canonical := setJob_canonical h
  have h₃ : s₃.Canonical := writeNv_canonical (writeNv_canonical h₁)
  clear_value s₃ s₁
  exact .ite (followBoot_only.canonical (cutImage_canonical { h₁ with })) (followBoot_only.canonical { h₃ with })

/-! ### Start-up -/

theorem selfTest_canonical {rep} (h : s.Canonical) : (s.selfTest rep).Canonical := by
  unfold selfTest
  extract_lets +onlyGivenNames s₁ s₂ s₃ s₄
  have h₁ : s₁.Canonical := coveBayTest_only.canonical h
  have h₂ : s₂.Canonical := .ite (bumpBy_only.canonical h₁) h₁
  have h₃ : s₃.Canonical := portLoopback_only.canonical h₂
  exact checkMap_canonical (firstStandby_only.canonical h₃.withMaint)

theorem bootActivate_canonical (h : s.Canonical) : s.bootActivate.Canonical := by
  unfold bootActivate
  split
  · exact .ite ((activate_canonical h).withStack h.stack) (activate_canonical h)
  · exact h

theorem bootImage_canonical (h : s.Canonical) : s.bootImage.Canonical := by
  unfold bootImage
  extract_lets +onlyGivenNames r
  have hr : r.1.Canonical := by
    unfold r
    refine Canonical.foldl_fst h fun y n hy => ?_
    split
    · exact hy
    · dsimp only
      exact bootActivate_canonical (judge_canonical (loadSlot_canonical hy))
  clear_value r
  exact .ite hr (raise_only.canonical { hr with })

theorem rejoinAll_canonical {met} (h : s.Canonical) : (s.rejoinAll met).Canonical := by
  unfold rejoinAll
  exact (readStack_only.canonical h).foldl fun _ _ hu => .ite (rejoin_only.canonical hu) (discardStep_canonical hu)

theorem restoreSaved_canonical {unreadable met} (h : s.Canonical) : (s.restoreSaved unreadable met).Canonical := by
  unfold restoreSaved
  split
  · extract_lets +onlyGivenNames s₁ _ s₂
    have h₁ : s₁.Canonical := .ite (sramUE_only.canonical h) h
    have h₂ : s₂.Canonical :=
      .ite (rejoinAll_canonical (restore_only.canonical h₁)) ((restoreNone_only.canonical h₁).withStack rfl)
    exact h₂.withSaved
  · exact h

theorem loadStep_canonical (h : s.Canonical) : s.loadStep.Canonical := by
  unfold loadStep
  extract_lets +onlyGivenNames s₁ boot _ s₂
  have h₂ : s₂.Canonical := (loadCal_canonical h).withTime
  exact setStep_only.canonical (.ite (startPorts_only.canonical h₂) (startTimePorts_only.canonical h₂))

theorem imageStep_canonical (h : s.Canonical) : s.imageStep.Canonical := by
  unfold imageStep
  have h₁ := bootImage_canonical h
  exact .ite (setStep_only.canonical h) <| .ite (setStep_only.canonical (oweTime_only.canonical h₁)) <|
    .ite (setStep_only.canonical h₁) <| startTimePorts_only.canonical <| setStep_only.canonical <|
    .ite (enterLoop_only.canonical h₁) h₁

theorem readyStep_canonical {rep} (h : s.Canonical) : (s.readyStep rep).Canonical := by
  unfold readyStep
  extract_lets +onlyGivenNames s₁ _ s₂ s₃
  have h₁ : s₁.Canonical := restoreSaved_canonical h
  have h₂ : s₂.Canonical := h₁.withPower
  exact tryEnterOpens_only.canonical (h₂.foldl fun _ _ => flushQueue_only.canonical)

theorem testStep_canonical {rep} (h : s.Canonical) : (s.testStep rep).Canonical := by
  unfold testStep
  have tested : ((s.selfTest rep).setStep 8).Canonical := setStep_only.canonical (selfTest_canonical h)
  split
  · exact .ite tested (stackUE_only.canonical (coveBayTest_only.canonical h)).withPower
  · exact tested

theorem startUp_canonical {rep} (h : s.Canonical) : (s.startUp rep).Canonical := by
  unfold startUp
  split
  · exact setStep_only.canonical h
  · exact .ite (coldStart_canonical (setCause_only.canonical h)) (setStep_only.canonical h)
  · exact loadStep_canonical h
  · exact .ite (timeStep_only.canonical h) <|
      .ite (setStep_only.canonical (oweTime_only.canonical (startPorts_only.canonical h))) h
  · exact .ite (setStep_only.canonical h) h
  · exact imageStep_canonical h
  · exact testStep_canonical h
  · exact .ite (readyStep_canonical h) h
  · exact h

/-! ### Power and reset -/

theorem askWarm_canonical (h : s.Canonical) : s.askWarm.Canonical := by
  unfold askWarm
  exact .ite (.ite (ignorePower_only.canonical h) (.ite (setCause_only.canonical h).withPower
    (startWarm_only.canonical (setCause_only.canonical h)))) (askRestart_canonical (setCause_only.canonical h))

theorem askCold_canonical (h : s.Canonical) : s.askCold.Canonical := by
  unfold askCold
  have h₁ : (s.setCause 3).Canonical := setCause_only.canonical h
  exact .ite (coldStart_canonical h₁) (askRestart_canonical h₁)

theorem resetCtrl_canonical {v} (h : s.Canonical) : (s.resetCtrl v).Canonical := by
  unfold resetCtrl
  exact .ite h (.ite (askCold_canonical (.ite (setCause_only.canonical h) h)) (.ite (askWarm_canonical h) h))

theorem powerCtrl_canonical {v} (h : s.Canonical) : (s.powerCtrl v).Canonical := by
  unfold powerCtrl
  have ignored := ignorePower_only.canonical h
  exact .ite (.ite (askWake_only.canonical (setCtrl_only.canonical h))
      (.ite (.ite ignored (askWarm_canonical (setCtrl_only.canonical h))) ignored)) <|
    .ite (.ite (setCtrl_only.canonical h).withPower ignored) <|
    .ite (.ite (askRestart_canonical (setCtrl_only.canonical h)) ignored) ignored

theorem moduleReset_canonical (h : s.Canonical) : s.moduleReset.Canonical := by
  unfold moduleReset
  extract_lets +onlyGivenNames off s₁
  have h₁ : s₁.Canonical := .ite h (setCause_only.canonical (coldBase_canonical h))
  exact h₁.withPower

theorem moduleRelease_canonical (h : s.Canonical) : s.moduleRelease.Canonical := by
  unfold moduleRelease
  extract_lets +onlyGivenNames other _ _ s₁
  have h₁ : s₁.Canonical := { h with }
  exact .ite h₁ (coldStart_canonical h₁)

theorem powerUp_canonical (h : s.Canonical) : s.powerUp.Canonical := by
  unfold powerUp
  exact (tapReset_only.canonical (coldBase_canonical h)).withPower

theorem powerDown_canonical (h : s.Canonical) : s.powerDown.Canonical := by
  unfold powerDown
  exact (tapReset_only.canonical (coldBase_canonical h)).withPower

/-! ### Writes and reads by address -/

theorem writeCalReg_canonical {o v} (h : s.Canonical) : (s.writeCalReg o v).Canonical := by
  unfold writeCalReg
  exact .ite { h with } <| .ite (writeCal_canonical h) <| .ite (.ite (commitCal_canonical h) h) <| .ite { h with } <|
    .ite (.ite (reloadCal_canonical h) h) h

theorem writeImageCmd_canonical {v} (h : s.Canonical) : (s.writeImageCmd v).Canonical := by
  unfold writeImageCmd
  split
  · exact imageCmd_canonical h (setJob_canonical h)
  · exact imageCmd_canonical h (loadSlot_canonical h)
  · exact startStore_canonical h
  · exact startStore_canonical h
  · exact imageCmd_canonical h (askActivation_canonical h)
  · exact imageCmd_canonical h (cancelActivation_canonical h)
  · exact ignoreCmd_canonical h

theorem writeImageReg_canonical {o v} (h : s.Canonical) : (s.writeImageReg o v).Canonical := by
  unfold writeImageReg
  have hkey (x) : ({ s with nv := { s.nv with keyHash := x } } : State).Canonical := { h with }
  exact .ite (writeImageCmd_canonical h) <| .ite { h with } <| .ite (keyCtrl_canonical h) <| .ite { h with } <|
    .ite (rollbackCtrl_canonical h) <| .ite (hkey _) <| .ite h.withBookRegs <|
    .ite (.ite (replaceBook_only.canonical h) h) <| .ite h.withBookRegs h

theorem partCtrl_canonical {v} (h : s.Canonical) : (s.partCtrl v).Canonical := by
  unfold partCtrl
  split
  · exact attach_canonical h
  · exact detach_only.canonical h
  · exact forceDetach_canonical h
  · exact h

theorem writePartReg_canonical {o v} (h : s.Canonical) : (s.writePartReg o v).Canonical := by
  unfold writePartReg
  exact .ite (grant_only.canonical h) <| .ite (partCtrl_canonical h) <| .ite h.withParts h

theorem writePowerCore_canonical {o v} (h : s.Canonical) : (s.writePowerCore o v).Canonical := by
  unfold writePowerCore
  exact .ite (clearPower_only.canonical h) <| .ite (powerCtrl_canonical h) <| .ite h.withPower <|
    .ite (resetCtrl_canonical h) h

theorem writePowerReg_canonical {o v} (h : s.Canonical) : (s.writePowerReg o v).Canonical := by
  unfold writePowerReg
  exact .ite (clearFaults_only.canonical h) (writePowerCore_canonical h)

theorem writeGroupReg_canonical {g o v} (h : s.Canonical) : (s.writeGroupReg g o v).Canonical := by
  unfold writeGroupReg
  exact .ite (modGroup_only.canonical h) <| .ite (setHold_only.canonical h) <| .ite (.ite (askDiscard_canonical h) h) <|
    .ite (diagCtrl_only.canonical h) <| .ite (recoveryCtrl_canonical h) h

theorem privWrite_canonical {tag a v} (h : s.Canonical) : (s.privWrite tag a v).Canonical := by
  unfold privWrite
  exact .ite h <| .ite (writeTime_only.canonical h) <| .ite (writeCalReg_canonical h) <|
    .ite (writeImageReg_canonical h) <| .ite (writePartReg_canonical h) <| .ite (writePowerReg_canonical h) <|
    .ite (writeMaintReg_only.canonical h) <| .ite h <| .ite (.ite (portCtrl_only.canonical h) h) <| .ite h <|
    .ite (writeGroupReg_canonical h) <| .ite h <| .ite (clearStats_only.canonical h) <| .ite h <|
    .ite (writeSnapReg_only.canonical h) <| .ite (writeRingReg_only.canonical h) <| .ite h <|
    .ite (writeQueues_only.canonical h) <| .ite (writeTrigReg_only.canonical h) <| .ite (selectCtx_only.canonical h) <|
    .ite h.withRecSel <| .ite h <| .ite (writeWindow_canonical h) h

theorem writeWord_canonical {tag a v} (h : s.Canonical) : (s.writeWord tag a v).Canonical := by
  unfold writeWord
  exact .ite (privWrite_canonical h) (.ite (partWrite_only.canonical h) h)

theorem privWide_canonical {a v} (h : s.Canonical) : (s.privWide a v).Canonical := by
  unfold privWide
  exact .ite h.withIdent <| .ite (setPpsTod_only.canonical h) <| .ite { h with } <| .ite h.withBookRegs <|
    .ite (.ite (setGroupStep_only.canonical h) (modGroup_only.canonical h)) <| .ite (ringBase_only.canonical h)
      (writeQueueBase_only.canonical h)

theorem writeWide_canonical {a v} (h : s.Canonical) : (s.writeWide a v).Canonical := by
  unfold writeWide
  exact .ite (privWide_canonical h) <| .ite h <| .ite (ringBase_only.canonical h) (writeQueueBase_only.canonical h)

theorem write32_canonical {tag a v} (h : s.Canonical) : (s.write32 tag a v).Canonical := by
  unfold write32
  exact .ite (holdLow_only.canonical h) <| .ite (writeWide_canonical (dropLow_only.canonical h)) (writeWord_canonical h)

theorem write64_canonical {tag a v} (h : s.Canonical) : (s.write64 tag a v).Canonical := by
  unfold write64
  exact .ite (writeWide_canonical (dropLow_only.canonical h)) <| .ite (writeWindow_canonical h) <|
    .ite (writeWord_canonical (writeWord_canonical (clearDiag_only.canonical h))) <|
    .ite (writeWord_canonical (writeWord_canonical h)) (writeWord_canonical (writeWord_canonical h))

theorem readEffect_canonical {a} (h : s.Canonical) : (s.readEffect a).Canonical := by
  unfold readEffect
  exact .ite { h with } <| .ite (freezeTime_only.canonical h) <| .ite (.ite h (freezeTime_only.canonical h)) h

theorem readReg_canonical {tag a size} (h : s.Canonical) : (s.readReg tag a size).Canonical := by
  unfold readReg
  extract_lets +onlyGivenNames held s₁
  have h₁ : s₁.Canonical := touch_only.canonical h
  clear_value held
  refine .ite (emit_only.canonical (readEffect_canonical (readEffect_canonical h₁))) ?_
  split
  · exact emit_only.canonical h₁
  · have h₂ := readEffect_canonical (a := a) h₁
    exact emit_only.canonical (.ite h₂.withHost h₂)

theorem hostWrite_canonical {tag a size v} (h : s.Canonical) : (s.hostWrite tag a size v).Canonical := by
  unfold hostWrite
  have h₁ : (s.touch tag).Canonical := touch_only.canonical h
  exact .ite h <| .ite (bumpP_only.canonical h₁) <| .ite (violation_only.canonical h₁) <|
    .ite (write64_canonical h₁) (write32_canonical h₁)

theorem hostRead_canonical {tag a size} (h : s.Canonical) : (s.hostRead tag a size).Canonical := by
  unfold hostRead
  have h₁ : (s.touch tag).Canonical := touch_only.canonical h
  exact .ite h <| .ite (emit_only.canonical (bumpP_only.canonical h₁)) <|
    .ite (emit_only.canonical (violation_only.canonical h₁)) (readReg_canonical h)

theorem holdWrite_canonical {tag a size v} (h : s.Canonical) : (s.holdWrite tag a size v).Canonical := by
  unfold holdWrite
  extract_lets +onlyGivenNames s₁
  have h₁ : s₁.Canonical := writePowerCore_canonical h
  exact .ite h (.ite (writePowerCore_canonical h₁) h₁)

end State

/-! ### Commands whose meaning has cases of its own -/

section

open State

variable {s t : State}

theorem asImage_canonical {tag off} {f : State → State} (h : s.Canonical)
    (hf : ∀ u : State, u.Canonical → (f u).Canonical) : (asImage s tag off f).Canonical :=
  asPriv_canonical h hf

theorem execTideBoundary_canonical {env} (ht : execTideBoundary env s = .next t) (h : s.Canonical) : t.Canonical :=
  whenAlive_canonical ht h (.ite (passTide_only.canonical h) (boundary_canonical h))

theorem execTemperatureUpdate_canonical {temps} (ht : execTemperatureUpdate temps s = .next t) (h : s.Canonical) :
    t.Canonical :=
  whenAlive_canonical ht h (.ite (updateTemps_canonical h) h)

theorem execThermalShutdown_canonical (ht : execThermalShutdown s = .next t) (h : s.Canonical) : t.Canonical :=
  whenRunning_canonical ht h (.ite (enterHold_canonical (setCause_only.canonical h)) h)

theorem execCalDataWrite_canonical {tag v} (ht : execCalDataWrite tag v s = .next t) (h : s.Canonical) : t.Canonical :=
  whenRunning_canonical ht h (asPriv_canonical h fun _ => writeCal_canonical)

theorem execCalDataRead_canonical {tag} (ht : execCalDataRead tag s = .next t) (h : s.Canonical) : t.Canonical := by
  have h₁ : (s.touch tag).Canonical := touch_only.canonical h
  exact whenRunning_canonical ht h <| .ite h <| .ite (readCal_canonical h₁) <|
    emit_only.canonical (violation_only.canonical h₁)

theorem execCalCommit_canonical {tag v} (ht : execCalCommit tag v s = .next t) (h : s.Canonical) : t.Canonical :=
  whenRunning_canonical ht h (asPriv_canonical h fun _ hu => .ite (commitCal_canonical hu) hu)

theorem execCalCommitDone_canonical {ok} (ht : execCalCommitDone ok s = .next t) (h : s.Canonical) : t.Canonical :=
  whenRunning_canonical ht h (.ite (finishCal_canonical h) h)

theorem execCalReload_canonical {tag v} (ht : execCalReload tag v s = .next t) (h : s.Canonical) : t.Canonical :=
  whenRunning_canonical ht h (asPriv_canonical h fun _ hu => .ite (reloadCal_canonical hu) hu)

theorem execPowerOn_canonical (ht : execPowerOn s = .next t) (h : s.Canonical) : t.Canonical := by
  cases ht
  exact .ite (powerUp_canonical h) h

theorem execPwrGoodLoss_canonical (ht : execPwrGoodLoss s = .next t) (h : s.Canonical) : t.Canonical := by
  cases ht
  exact .ite h (powerDown_canonical h)

theorem execModuleReset_canonical (ht : execModuleReset s = .next t) (h : s.Canonical) : t.Canonical := by
  cases ht
  exact .ite h (moduleReset_canonical h)

theorem execModuleResetRelease_canonical (ht : execModuleResetRelease s = .next t) (h : s.Canonical) : t.Canonical := by
  cases ht
  exact .ite (moduleRelease_canonical h) h

theorem execModWarm_canonical (ht : execModWarm s = .next t) (h : s.Canonical) : t.Canonical :=
  whenAlive_canonical ht h (askWarm_canonical h)

theorem execWarmRestart_canonical {tag v} (ht : execWarmRestart tag v s = .next t) (h : s.Canonical) : t.Canonical :=
  whenAlive_canonical ht h (asPower_canonical h fun _ => resetCtrl_canonical)

theorem execColdRestart_canonical {tag v} (ht : execColdRestart tag v s = .next t) (h : s.Canonical) : t.Canonical :=
  whenAlive_canonical ht h (asPower_canonical h fun _ => resetCtrl_canonical)

theorem execWatchdog_canonical (ht : execWatchdog s = .next t) (h : s.Canonical) : t.Canonical :=
  whenRunning_canonical ht h (askRestart_canonical (setCause_only.canonical h))

theorem execPowerCtrlFull_canonical {tag} (ht : execPowerCtrlFull tag s = .next t) (h : s.Canonical) : t.Canonical :=
  whenAlive_canonical ht h (asPower_canonical h fun _ => powerCtrl_canonical)

theorem execPowerCtrlIdle_canonical {tag} (ht : execPowerCtrlIdle tag s = .next t) (h : s.Canonical) : t.Canonical :=
  whenAlive_canonical ht h (asPower_canonical h fun _ => powerCtrl_canonical)

theorem execPowerCtrlHold_canonical {tag} (ht : execPowerCtrlHold tag s = .next t) (h : s.Canonical) : t.Canonical :=
  whenAlive_canonical ht h (asPower_canonical h fun _ => powerCtrl_canonical)

theorem execStartUpStep_canonical {rep} (ht : execStartUpStep rep s = .next t) (h : s.Canonical) : t.Canonical :=
  whenRunning_canonical ht h (.ite h (startUp_canonical h))

theorem execHailReceived_canonical {p cell} (ht : execHailReceived p cell s = .next t) (h : s.Canonical) :
    t.Canonical :=
  whenRunning_canonical ht h (withCell_canonical h fun _ _ => takeHail_canonical)

theorem execDelayResponseReceived_canonical {p t4 cell}
    (ht : execDelayResponseReceived p t4 cell s = .next t) (h : s.Canonical) : t.Canonical :=
  whenRunning_canonical ht h (withCell_canonical h fun _ _ => takeDelay_canonical)

theorem execAttach_canonical {tag part} (ht : execAttach tag part s = .next t) (h : s.Canonical) : t.Canonical :=
  whenRunning_canonical ht h (asPriv_canonical h fun _ => attach_canonical)

theorem execForceDetach_canonical {tag part} (ht : execForceDetach tag part s = .next t) (h : s.Canonical) :
    t.Canonical :=
  whenRunning_canonical ht h (asPriv_canonical h fun _ => forceDetach_canonical)

theorem execRegisterWrite_canonical {tag addr n v} (ht : execRegisterWrite tag addr n v s = .next t) (h : s.Canonical) :
    t.Canonical :=
  whenAlive_canonical ht h (.ite (holdWrite_canonical h) (hostWrite_canonical h))

theorem execEbbFirstHop_canonical {g b c env} (ht : execEbbFirstHop g b c env s = .next t) (h : s.Canonical) :
    t.Canonical := by
  refine whenRunning_canonical ht h ?_
  split
  · exact ebbFirst_canonical h
  · exact h

theorem execEbbHop_canonical {g b c env} (ht : execEbbHop g b c env s = .next t) (h : s.Canonical) :
    t.Canonical := by
  refine whenRunning_canonical ht h ?_
  split
  · exact ebbMiddle_canonical h
  · exact h

theorem execOwnerHop_canonical {g b c env} (ht : execOwnerHop g b c env s = .next t) (h : s.Canonical) :
    t.Canonical := by
  refine whenRunning_canonical ht h ?_
  split
  · exact ownerStep_canonical h
  · exact h

theorem execCoveTakeover_canonical {bay} (ht : execCoveTakeover bay s = .next t) (h : s.Canonical) :
    t.Canonical := by
  refine whenRunning_canonical ht h ?_
  split
  · exact .ite (settle_canonical (takeOver_only.canonical h)) h
  · exact h

theorem execFold_canonical {g i env} (ht : execFold g i env s = .next t) (h : s.Canonical) : t.Canonical := by
  refine whenRunning_canonical ht h ?_
  split
  · refine .ite ?_ h
    have h₁ : (s.noteErrors env).Canonical := noteErrors_only.canonical h
    dsimp only
    split
    · exact residualLost_only.canonical h₁
    · exact modLaunch_only.canonical (bumpG_only.canonical (h₁.foldl fun _ _ => foldChunk_canonical))
  · exact h

theorem execSpareResidualWrite_canonical {g i env} (ht : execSpareResidualWrite g i env s = .next t)
    (h : s.Canonical) : t.Canonical := by
  refine whenRunning_canonical ht h ?_
  split
  · split
    · exact .ite (modOp_only.canonical ((noteErrors_only.canonical h).foldl fun _ _ => spareChunk_canonical)) h
    · exact h
  · exact h

theorem execCommitEffect_canonical {g} (ht : execCommitEffect g s = .next t) (h : s.Canonical) : t.Canonical :=
  whenRunning_canonical ht h (settle_canonical (commitEffect_only.canonical h))

theorem execOpenEffect_canonical {g} (ht : execOpenEffect g s = .next t) (h : s.Canonical) : t.Canonical :=
  whenRunning_canonical ht h (settle_canonical (openEffect_only.canonical h))

theorem execExpressEffect_canonical {g kind xtag} (ht : execExpressEffect g kind xtag s = .next t) (h : s.Canonical) :
    t.Canonical :=
  whenRunning_canonical ht h (settle_canonical (expressEffect_only.canonical h))

theorem execAbortReport_canonical {g} (ht : execAbortReport g s = .next t) (h : s.Canonical) : t.Canonical := by
  refine whenRunning_canonical ht h ?_
  split
  · exact .ite (reportAbort_canonical h) h
  · exact h

theorem execPropose_canonical {p cell} (ht : execPropose p cell s = .next t) (h : s.Canonical) : t.Canonical :=
  whenRunning_canonical ht h (receiveRecovery_canonical h)

theorem execCensus_canonical {p cell} (ht : execCensus p cell s = .next t) (h : s.Canonical) : t.Canonical :=
  whenRunning_canonical ht h (receiveRecovery_canonical h)

theorem execDecide_canonical {p cell met} (ht : execDecide p cell met s = .next t) (h : s.Canonical) : t.Canonical :=
  whenRunning_canonical ht h (receiveRecovery_canonical (readStack_only.canonical h))

theorem execAck_canonical {p cell} (ht : execAck p cell s = .next t) (h : s.Canonical) : t.Canonical :=
  whenRunning_canonical ht h (receiveRecovery_canonical h)

theorem execCoordinatorDeadline_canonical {g} (ht : execCoordinatorDeadline g s = .next t) (h : s.Canonical) :
    t.Canonical := by
  refine whenRunning_canonical ht h ?_
  split
  · exact .ite (choose_canonical h) h
  · exact h

theorem execRejoinWaitExpiry_canonical {g} (ht : execRejoinWaitExpiry g s = .next t) (h : s.Canonical) :
    t.Canonical := by
  refine whenRunning_canonical ht h ?_
  dsimp only
  split
  · refine .ite ?_ h
    split
    · exact decideAuto_canonical h
    · exact h
  · exact h

theorem execResumeTide_canonical {g} (ht : execResumeTide g s = .next t) (h : s.Canonical) : t.Canonical := by
  refine whenRunning_canonical ht h ?_
  dsimp only
  split
  · exact .ite (settle_canonical (takeResume_canonical h)) h
  · exact .ite (endConflict_only.canonical h) (.ite (bump_only.canonical (modGroup_only.canonical h)) h)

theorem execSkipClose_canonical {close} (ht : execSkipClose close s = .next t) (h : s.Canonical) : t.Canonical := by
  refine whenRunning_canonical ht h ?_
  split
  · exact .ite (takeSkip_canonical h) h
  · exact .ite (endConflict_only.canonical h) h

theorem execRecoveryCtrlArm_canonical {tag g v} (ht : execRecoveryCtrlArm tag g v s = .next t) (h : s.Canonical) :
    t.Canonical :=
  whenRunning_canonical ht h (asGroup_canonical h fun _ => recoveryCtrl_canonical)

theorem execStepDiscard_canonical {tag g} (ht : execStepDiscard tag g s = .next t) (h : s.Canonical) : t.Canonical :=
  whenRunning_canonical ht h (asGroup_canonical h fun _ => askDiscard_canonical)

theorem execDiagDone_canonical {g inputs} (ht : execDiagDone g inputs s = .next t) (h : s.Canonical) :
    t.Canonical := by
  refine whenRunning_canonical ht h (.ite ?_ h)
  have h₁ : ((s.readStack inputs.met).reportDiag g inputs.chunks inputs.met.bad).Canonical :=
    reportDiag_only.canonical (readStack_only.canonical h)
  split
  · exact .ite (takeDecide_canonical (modGroup_only.canonical h₁)) h₁
  · exact h₁

theorem execSpillStoreTile_canonical {a tiles} (ht : execSpillStoreTile a tiles s = .next t) (h : s.Canonical) :
    t.Canonical := by
  refine whenRunning_canonical ht h ?_
  split
  · exact .ite h <| finishSpill_only.canonical <| countTiles_only.canonical <| storeTiles_canonical <|
      takeTurn_only.canonical h
  · exact h

theorem execImageWindowWrite_canonical {tag off n v} (ht : execImageWindowWrite tag off n v s = .next t)
    (h : s.Canonical) : t.Canonical :=
  whenRunning_canonical ht h <| .ite h <| .ite (bumpP_only.canonical (touch_only.canonical h)) <|
    asPriv_canonical h fun _ => writeWindow_canonical

theorem execVerify_canonical {tag} (ht : execVerify tag s = .next t) (h : s.Canonical) : t.Canonical :=
  whenRunning_canonical ht h (asImage_canonical h fun _ hu => imageCmd_canonical hu (setJob_canonical hu))

theorem execVerifyDone_canonical (ht : execVerifyDone s = .next t) (h : s.Canonical) : t.Canonical :=
  whenRunning_canonical ht h (.ite (judge_canonical h) h)

theorem execLoadNv_canonical {tag slot} (ht : execLoadNv tag slot s = .next t) (h : s.Canonical) : t.Canonical :=
  whenRunning_canonical ht h (asImage_canonical h fun _ hu => imageCmd_canonical hu (loadSlot_canonical hu))

theorem execStore_canonical {tag slot} (ht : execStore tag slot s = .next t) (h : s.Canonical) : t.Canonical :=
  whenRunning_canonical ht h (asImage_canonical h fun _ => startStore_canonical)

theorem execStoreActive_canonical {tag slot} (ht : execStoreActive tag slot s = .next t) (h : s.Canonical) :
    t.Canonical :=
  whenRunning_canonical ht h (asImage_canonical h fun _ => startStore_canonical)

theorem execStoreDone_canonical {ok} (ht : execStoreDone ok s = .next t) (h : s.Canonical) : t.Canonical := by
  refine whenRunning_canonical ht h ?_
  split
  · exact proceedRestart_canonical (finishStore_canonical h)
  · exact h

theorem execActivate_canonical {tag} (ht : execActivate tag s = .next t) (h : s.Canonical) : t.Canonical :=
  whenRunning_canonical ht h (asImage_canonical h fun _ hu => imageCmd_canonical hu (askActivation_canonical hu))

theorem execCancel_canonical {tag} (ht : execCancel tag s = .next t) (h : s.Canonical) : t.Canonical :=
  whenRunning_canonical ht h (asImage_canonical h fun _ hu => imageCmd_canonical hu (cancelActivation_canonical hu))

theorem execActivation_canonical (ht : execActivation s = .next t) (h : s.Canonical) : t.Canonical := by
  refine whenRunning_canonical ht h ?_
  split
  · exact .ite (settle_canonical (.ite (cancelActivation_canonical h) (activate_canonical h))) h
  · exact h

theorem execKeyProgram_canonical {tag v} (ht : execKeyProgram tag v s = .next t) (h : s.Canonical) : t.Canonical :=
  whenRunning_canonical ht h (asImage_canonical h fun _ => keyCtrl_canonical)

theorem execKeyRevoke_canonical {tag v} (ht : execKeyRevoke tag v s = .next t) (h : s.Canonical) : t.Canonical :=
  whenRunning_canonical ht h (asImage_canonical h fun _ => keyCtrl_canonical)

theorem execFuseDone_canonical (ht : execFuseDone s = .next t) (h : s.Canonical) : t.Canonical :=
  whenRunning_canonical ht h (finishFuse_canonical h)

theorem execRollbackCtrlWrite_canonical {tag v} (ht : execRollbackCtrlWrite tag v s = .next t) (h : s.Canonical) :
    t.Canonical :=
  whenRunning_canonical ht h (asImage_canonical h fun _ => rollbackCtrl_canonical)

theorem execStandbyHandover_canonical {bay} (ht : execStandbyHandover bay s = .next t) (h : s.Canonical) :
    t.Canonical :=
  whenRunning_canonical ht h (.ite (settle_canonical (handover_only.canonical h)) h)

theorem execRegisterRead_canonical {tag addr n} (ht : execRegisterRead tag addr n s = .next t) (h : s.Canonical) :
    t.Canonical :=
  whenAlive_canonical ht h (.ite (holdRead_only.canonical h) (hostRead_canonical h))

theorem execImageReloadDone_canonical (ht : execImageReloadDone s = .next t) (h : s.Canonical) : t.Canonical :=
  whenRunning_canonical ht h (.ite (reloadImage_canonical h) h)

/-! ### Every command, and the step -/

/-- A command whose frame spares the byte memories keeps them as they are; any other keeps their form by the lemma about the
operation that it does. -/
theorem exec_canonical {i : Instr} (ht : exec i s = .next t) (h : s.Canonical) : t.Canonical := by
  cases i with
  | tideBoundary => exact execTideBoundary_canonical ht h
  | tideMarkReceived => exact (execTideMarkReceived_only ht).canonical h
  | sync => exact (execSync_only ht).canonical h
  | followUp => exact (execFollowUp_only ht).canonical h
  | delayResp => exact (execDelayResp_only ht).canonical h
  | announce => exact (execAnnounce_only ht).canonical h
  | delayReqSend => exact (execDelayReqSend_only ht).canonical h
  | syncTimeout => exact (execSyncTimeout_only ht).canonical h
  | announceReceiptTimeout => exact (execAnnounceReceiptTimeout_only ht).canonical h
  | holdoverBoundReached => exact (execHoldoverBoundReached_only ht).canonical h
  | timeLost => exact (execTimeLost_only ht).canonical h
  | ppsOut => exact (execPpsOut_only ht).canonical h
  | ppsInEdge => exact (execPpsInEdge_only ht).canonical h
  | ppsTodWrite => exact (execPpsTodWrite_only ht).canonical h
  | temperatureUpdate => exact execTemperatureUpdate_canonical ht h
  | thermalShutdown => exact execThermalShutdown_canonical ht h
  | calDataWrite => exact execCalDataWrite_canonical ht h
  | calDataRead => exact execCalDataRead_canonical ht h
  | calCommit => exact execCalCommit_canonical ht h
  | calCommitDone => exact execCalCommitDone_canonical ht h
  | calReload => exact execCalReload_canonical ht h
  | delayMeas => exact (execDelayMeas_only ht).canonical h
  | powerOn => exact execPowerOn_canonical ht h
  | pwrGoodLoss => exact execPwrGoodLoss_canonical ht h
  | moduleReset => exact execModuleReset_canonical ht h
  | moduleResetRelease => exact execModuleResetRelease_canonical ht h
  | modWarm => exact execModWarm_canonical ht h
  | warmRestart => exact execWarmRestart_canonical ht h
  | coldRestart => exact execColdRestart_canonical ht h
  | watchdog => exact execWatchdog_canonical ht h
  | powerCtrlFull => exact execPowerCtrlFull_canonical ht h
  | powerCtrlIdle => exact execPowerCtrlIdle_canonical ht h
  | powerCtrlHold => exact execPowerCtrlHold_canonical ht h
  | holdEntryDone => exact (execHoldEntryDone_only ht).canonical h
  | wakeComplete => exact (execWakeComplete_only ht).canonical h
  | startUpStep => exact execStartUpStep_canonical ht h
  | portEnable => exact (execPortEnable_only ht).canonical h
  | portDisable => exact (execPortDisable_only ht).canonical h
  | retrain => exact (execRetrain_only ht).canonical h
  | prbsEnable => exact (execPrbsEnable_only ht).canonical h
  | signalLock => exact (execSignalLock_only ht).canonical h
  | signalTrainTimeout => exact (execSignalTrainTimeout_only ht).canonical h
  | frameLock => exact (execFrameLock_only ht).canonical h
  | alignComplete => exact (execAlignComplete_only ht).canonical h
  | linkLoss _ cause => exact (execLinkLoss_only (a1 := cause) ht).canonical h
  | fecDegradeCheck => exact (execFecDegradeCheck_only ht).canonical h
  | chunkCellReceived => exact (execChunkCellReceived_only ht).canonical h
  | retransmission => exact (execRetransmission_only ht).canonical h
  | hailSend => exact (execHailSend_only ht).canonical h
  | hailReceived => exact execHailReceived_canonical ht h
  | quarantineEffect => exact (execQuarantineEffect_only ht).canonical h
  | hailTimeout => exact (execHailTimeout_only ht).canonical h
  | delayExchange => exact (execDelayExchange_only ht).canonical h
  | delayRequestReceived => exact (execDelayRequestReceived_only ht).canonical h
  | delayResponseReceived => exact execDelayResponseReceived_canonical ht h
  | delayTimeout => exact (execDelayTimeout_only ht).canonical h
  | prbsCellReceived => exact (execPrbsCellReceived_only ht).canonical h
  | queueTailWrite => exact (execQueueTailWrite_only ht).canonical h
  | complHeadWrite => exact (execComplHeadWrite_only ht).canonical h
  | queueStart => exact (execQueueStart_only ht).canonical h
  | queueStop => exact (execQueueStop_only ht).canonical h
  | clearErr => exact (execClearErr_only ht).canonical h
  | queueStopped => exact (execQueueStopped_only ht).canonical h
  | descriptorFetch => exact (execDescriptorFetch_only ht).canonical h
  | trigValueWrite => exact (execTrigValueWrite_only ht).canonical h
  | trigAdd => exact (execTrigAdd_only ht).canonical h
  | eventCtrlWrite => exact (execEventCtrlWrite_only ht).canonical h
  | eventHeadWrite => exact (execEventHeadWrite_only ht).canonical h
  | eventRecordWrite => exact (execEventRecordWrite_only ht).canonical h
  | attach => exact execAttach_canonical ht h
  | detach => exact (execDetach_only ht).canonical h
  | forceDetach => exact execForceDetach_canonical ht h
  | quiesced => exact (execQuiesced_only ht).canonical h
  | detachComplete => exact (execDetachComplete_only ht).canonical h
  | privGrantWrite => exact (execPrivGrantWrite_only ht).canonical h
  | registerWrite => exact execRegisterWrite_canonical ht h
  | exchange => exact (execExchange_only ht).canonical h
  | sparseExchange => exact (execSparseExchange_only ht).canonical h
  | barrier => exact (execBarrier_only ht).canonical h
  | scalar => exact (execScalar_only ht).canonical h
  | commit => exact (execCommit_only ht).canonical h
  | triggerAdd => exact (execTriggerAdd_only ht).canonical h
  | fence => exact (execFence_only ht).canonical h
  | put => exact (execPut_only ht).canonical h
  | get => exact (execGet_only ht).canonical h
  | putBlockReceived => exact (execPutBlockReceived_only ht).canonical h
  | getRequestReceived => exact (execGetRequestReceived_only ht).canonical h
  | getDataReceived => exact (execGetDataReceived_only ht).canonical h
  | putAckReceived => exact (execPutAckReceived_only ht).canonical h
  | flowCellReceived => exact (execFlowCellReceived_only ht).canonical h
  | flowResend => exact (execFlowResend_only ht).canonical h
  | ebbFirstHop => exact execEbbFirstHop_canonical ht h
  | ebbHop => exact execEbbHop_canonical ht h
  | ownerHop => exact execOwnerHop_canonical ht h
  | floodReceive => exact (execFloodReceive_only ht).canonical h
  | verdict => exact (execVerdict_only ht).canonical h
  | coveTakeover => exact execCoveTakeover_canonical ht h
  | bayRetirement => exact (execBayRetirement_only ht).canonical h
  | replayRoundLaunch => exact (execReplayRoundLaunch_only ht).canonical h
  | floodReplay => exact (execFloodReplay_only ht).canonical h
  | fold => exact execFold_canonical ht h
  | foldComplete => exact (execFoldComplete_only ht).canonical h
  | spareResidualWrite => exact execSpareResidualWrite_canonical ht h
  | appliedSeqReport => exact (execAppliedSeqReport_only ht).canonical h
  | unitReset => exact (execUnitReset_only ht).canonical h
  | appliedVote => exact (execAppliedVote_only ht).canonical h
  | commitEffect => exact execCommitEffect_canonical ht h
  | openEffect => exact execOpenEffect_canonical ht h
  | barrierMessage => exact (execBarrierMessage_only ht).canonical h
  | scalarMessage => exact (execScalarMessage_only ht).canonical h
  | statMessage => exact (execStatMessage_only ht).canonical h
  | verdictMessage => exact (execVerdictMessage_only ht).canonical h
  | commitMessage => exact (execCommitMessage_only ht).canonical h
  | readyMessage => exact (execReadyMessage_only ht).canonical h
  | openMessage => exact (execOpenMessage_only ht).canonical h
  | expressEffect => exact execExpressEffect_canonical ht h
  | abortToken => exact (execAbortToken_only ht).canonical h
  | abortReport => exact execAbortReport_canonical ht h
  | abortResend => exact (execAbortResend_only ht).canonical h
  | slipBarrierTimeout => exact (execSlipBarrierTimeout_only ht).canonical h
  | foldTimeout => exact (execFoldTimeout_only ht).canonical h
  | openTimeout => exact (execOpenTimeout_only ht).canonical h
  | expressHoldTimeout => exact (execExpressHoldTimeout_only ht).canonical h
  | commitHoldTimeout => exact (execCommitHoldTimeout_only ht).canonical h
  | broadcastLossTimeout => exact (execBroadcastLossTimeout_only ht).canonical h
  | propose => exact execPropose_canonical ht h
  | census => exact execCensus_canonical ht h
  | decide => exact execDecide_canonical ht h
  | ack => exact execAck_canonical ht h
  | coordinatorDeadline => exact execCoordinatorDeadline_canonical ht h
  | rejoinWaitExpiry => exact execRejoinWaitExpiry_canonical ht h
  | resumeTide => exact execResumeTide_canonical ht h
  | skipClose => exact execSkipClose_canonical ht h
  | recoveryCtrlArm => exact execRecoveryCtrlArm_canonical ht h
  | stepDiscard => exact execStepDiscard_canonical ht h
  | stepHoldWrite => exact (execStepHoldWrite_only ht).canonical h
  | groupStepWrite => exact (execGroupStepWrite_only ht).canonical h
  | diagStart => exact (execDiagStart_only ht).canonical h
  | diagDone => exact execDiagDone_canonical ht h
  | spillStore => exact (execSpillStore_only ht).canonical h
  | spillLoad => exact (execSpillLoad_only ht).canonical h
  | spillStoreTile => exact execSpillStoreTile_canonical ht h
  | spillLoadTile => exact (execSpillLoadTile_only ht).canonical h
  | imageWindowWrite => exact execImageWindowWrite_canonical ht h
  | verify => exact execVerify_canonical ht h
  | verifyDone => exact execVerifyDone_canonical ht h
  | loadNv => exact execLoadNv_canonical ht h
  | store => exact execStore_canonical ht h
  | storeActive => exact execStoreActive_canonical ht h
  | storeDone => exact execStoreDone_canonical ht h
  | activate => exact execActivate_canonical ht h
  | cancel => exact execCancel_canonical ht h
  | activation => exact execActivation_canonical ht h
  | keyProgram => exact execKeyProgram_canonical ht h
  | keyRevoke => exact execKeyRevoke_canonical ht h
  | fuseDone => exact execFuseDone_canonical ht h
  | rollbackCtrlWrite => exact execRollbackCtrlWrite_canonical ht h
  | codebookCmd => exact (execCodebookCmd_only ht).canonical h
  | snapReq => exact (execSnapReq_only ht).canonical h
  | snapshotLatch => exact (execSnapshotLatch_only ht).canonical h
  | timeSnapshotRead => exact (execTimeSnapshotRead_only ht).canonical h
  | statClear => exact (execStatClear_only ht).canonical h
  | ctxSelWrite => exact (execCtxSelWrite_only ht).canonical h
  | ctxCopy => exact (execCtxCopy_only ht).canonical h
  | maintReq => exact (execMaintReq_only ht).canonical h
  | maintRelease => exact (execMaintRelease_only ht).canonical h
  | tokenLapse => exact (execTokenLapse_only ht).canonical h
  | bistCtrlWrite => exact (execBistCtrlWrite_only ht).canonical h
  | bistSlice => exact (execBistSlice_only ht).canonical h
  | standbyHandover => exact execStandbyHandover_canonical ht h
  | patrolScrub => exact (execPatrolScrub_only ht).canonical h
  | sweepComplete => exact (execSweepComplete_only ht).canonical h
  | localFrameBoundary => exact (execLocalFrameBoundary_only ht).canonical h
  | registerRead => exact execRegisterRead_canonical ht h
  | testAccessPortInstruction => exact (execTestAccessPortInstruction_only ht).canonical h
  | imageReloadDone => exact execImageReloadDone_canonical ht h

theorem step_canonical (ht : step s = .next t) (h : s.Canonical) : t.Canonical := by
  unfold step at ht
  split at ht
  · cases ht
    exact h
  · exact exec_canonical ht { h with }

/-- Settles O59: the command at the front of the queue keeps each byte memory in canonical form, and an empty queue changes
nothing. -/
theorem everyStepKeepsMemoriesCanonical : Obligations.EveryStepKeepsMemoriesCanonical := by
  unfold Obligations.EveryStepKeepsMemoriesCanonical
  intro s t hs ht
  exact memoriesWf_iff.mpr (step_canonical ht (memoriesWf_iff.mp hs))

end

end Sys2Proof.Machine

end

/-! ## Self-test, patrol scrub and retirement

The later actions of a boundary touch neither the coves of the bays nor what is retired, so what a handover or a takeover
leaves of them still stands once the boundary has gone on. -/

section

namespace Sys2Proof.Machine

set_option Elab.async false

open Sys2Proof

/-! ### Fields that a frame spares -/

section

variable {P : List Part} {s t : State} (h : OnlyChanges P s t)

include h

theorem OnlyChanges.out_eq (hp : .out ∉ P := by decide) : t.out = s.out := h .out hp
theorem OnlyChanges.power_eq (hp : .power ∉ P := by decide) : t.power = s.power := h .power hp
theorem OnlyChanges.ports_eq (hp : .ports ∉ P := by decide) : t.ports = s.ports := h .ports hp
theorem OnlyChanges.image_eq (hp : .image ∉ P := by decide) : t.image = s.image := h .image hp
theorem OnlyChanges.queues_eq (hp : .queues ∉ P := by decide) : t.queues = s.queues := h .queues hp
theorem OnlyChanges.groups_eq (hp : .groups ∉ P := by decide) : t.groups = s.groups := h .groups hp
theorem OnlyChanges.stack_eq (hp : .stack ∉ P := by decide) : t.stack = s.stack := h .stack hp
theorem OnlyChanges.badUnits_eq (hp : .badUnits ∉ P := by decide) : t.badUnits = s.badUnits := h .badUnits hp
theorem OnlyChanges.events_eq (hp : .events ∉ P := by decide) : t.events = s.events := h .events hp
theorem OnlyChanges.maint_eq (hp : .maint ∉ P := by decide) : t.maint = s.maint := h .maint hp

theorem OnlyChanges.img_eq (hp : .image ∉ P := by decide) : t.img = s.img := by
  unfold State.img; rw [h.image_eq hp]
theorem OnlyChanges.im_eq (hp : .image ∉ P := by decide) : t.im = s.im := by
  unfold State.im; rw [h.img_eq hp]
theorem OnlyChanges.group_eq (g : Nat) (hp : .groups ∉ P := by decide) : t.group g = s.group g := by
  unfold State.group; rw [h.groups_eq hp]
theorem OnlyChanges.queue_eq (g : Nat) (hp : .queues ∉ P := by decide) : t.queue g = s.queue g := by
  unfold State.queue; rw [h.queues_eq hp]
theorem OnlyChanges.port_eq (p : Nat) (hp : .ports ∉ P := by decide) : t.port p = s.port p := by
  unfold State.port; rw [h.ports_eq hp]
theorem OnlyChanges.bay_eq (b : Nat) (hp : .maint ∉ P := by decide) : t.bay b = s.bay b := by
  unfold State.bay; rw [h.maint_eq hp]

end

namespace Mem

/-- Bytes that a filter of the addresses drops read as zero, the others as before. -/
theorem read_filter (m : Mem) (p : Nat → Bool) (a : Nat) :
    Mem.read (m.filter (fun c => p c.1)) a = if p a then m.read a else 0 := by
  induction m with
  | nil => simp [Mem.read]
  | cons e m ih =>
    obtain ⟨k, v⟩ := e
    by_cases hk : k = a
    · subst hk
      cases hp : p k <;> simp_all [Mem.read]
    · cases hp : p k <;> simp_all [Mem.read]

end Mem

namespace State

/-- What every step of a fold leaves as it was, the fold leaves as it was. -/
theorem view_foldl {α β : Type} {view : State → β} {f : State → α → State} (hf : ∀ u a, view (f u a) = view u)
    (l : List α) (s : State) : view (l.foldl f s) = view s := by
  induction l generalizing s with
  | nil => rfl
  | cons a l ih => exact (ih _).trans (hf s a)

/-! ### Events -/

/-- An event of a type and a subject waits for its rings. -/
def waitsEvent (s : State) (type subject : Nat) : Prop := ∃ e ∈ s.events, e.type = type ∧ e.subject = subject

/-- A raised event waits, as a record of its own or folded into one alike (R387). -/
theorem raise_waitsEvent (s : State) (e : Event) : (s.raise e).waitsEvent e.type e.subject := by
  unfold raise
  dsimp only
  split
  · rename_i h
    simp only [Bool.and_eq_true, List.any_eq_true] at h
    obtain ⟨-, x, hx, hsame⟩ := h
    have hsame' := hsame
    simp only [sameEvent, Bool.and_eq_true, beq_iff_eq] at hsame'
    obtain ⟨⟨⟨⟨htype, -⟩, hsubject⟩, -⟩, -⟩ := hsame'
    refine ⟨{ x with repeats := Nat.min (x.repeats + 1) 0xFFFFFFFF }, ?_, htype.symm, hsubject.symm⟩
    exact List.mem_map.mpr ⟨x, hx, by rw [if_pos hsame]⟩
  · exact ⟨_, List.mem_append_right _ (List.mem_singleton_self _), rfl, rfl⟩

theorem waitsEvent_congr {s t : State} {type subject : Nat} (h : t.events = s.events) :
    t.waitsEvent type subject ↔ s.waitsEvent type subject := by
  unfold waitsEvent; rw [h]

/-! ### Self-test bays, retired units and lists of maintenance (R18 to R20, R186) -/

/-- The bays with their coves, the positions that wait for a takeover and the bays that wait for retirement, and the units
that are retired with the faults that show it. -/
structure UnitsView where
  bays : Tbl BayTest
  takeovers : List (Nat × Nat)
  retiring : List Nat
  dumap : DuMap
  coveRetired : Bool
  coverageLost : Bool

/-- What a state holds of them. -/
def unitsView (s : State) : UnitsView where
  bays := s.maint.bays
  takeovers := s.maint.takeovers
  retiring := s.maint.retiring
  dumap := s.power.dumap
  coveRetired := s.power.faults.coveRetired
  coverageLost := s.power.faults.coverageLost

end State

theorem OnlyChanges.unitsView {P : List Part} {s t : State} (h : OnlyChanges P s t)
    (hm : .maint ∉ P := by decide) (hp : .power ∉ P := by decide) : t.unitsView = s.unitsView := by
  unfold State.unitsView; rw [h.maint_eq hm, h.power_eq hp]

namespace State

theorem loadCal_unitsView (s : State) : s.loadCal.unitsView = s.unitsView := by
  unfold loadCal
  dsimp only
  split
  · rfl
  · exact raise_only.unitsView

theorem applyCal_unitsView (s : State) : s.applyCal.unitsView = s.unitsView := by
  have reload : (if s.cal.reloadAsked then s.loadCal.recompensate else s).unitsView = s.unitsView := by
    split
    · exact recompensate_only.unitsView.trans s.loadCal_unitsView
    · rfl
  have change (u : State) (c : Option CompValues) :
      (match c with | some c => u.applyTemps c | none => u).unitsView = u.unitsView := by
    cases c
    · rfl
    · exact applyTemps_only.unitsView
  have entry (old now : Mem) (u : State) (p : Nat) :
      (if entryChanged old now p then (u.recalibrated p).refreshPhi p else u).unitsView = u.unitsView := by
    split
    · exact refreshPhi_only.unitsView.trans recalibrated_only.unitsView
    · rfl
  have entries (u : State) (old now : Mem) :
      (if old = now then u
        else (List.range 24).foldl (fun s p => if entryChanged old now p then (s.recalibrated p).refreshPhi p else s)
          u.recompensate).unitsView = u.unitsView := by
    split
    · rfl
    · exact (view_foldl (view := unitsView) (entry old now) _ _).trans recompensate_only.unitsView
  have trim (u : State) :
      (if u.time.loop == .freerun then { u with time := { u.time with loopFreq := u.oscTrim } } else u).unitsView
        = u.unitsView := by
    split <;> rfl
  unfold applyCal
  exact (trim _).trans ((entries _ _ _).trans ((change _ _).trans reload))

theorem askWake_unitsView (s : State) : s.askWake.unitsView = s.unitsView := by
  unfold askWake dropHoldEntry
  dsimp only
  repeat' split
  all_goals rfl

theorem wakeIfReady_unitsView (s : State) : s.wakeIfReady.unitsView = s.unitsView := by
  unfold wakeIfReady
  split
  · exact s.askWake_unitsView
  · rfl

theorem applyIdle_unitsView (s : State) : s.applyIdle.unitsView = s.unitsView := by
  unfold applyIdle
  split
  · rfl
  · split
    · dsimp only
      split
      · exact (askWake_unitsView _).trans rfl
      · rfl
    · rfl

theorem takePrbsToken_unitsView (s : State) (p : Nat) : (s.takePrbsToken p).unitsView = s.unitsView := by
  unfold takePrbsToken
  repeat' split
  all_goals exact modPort_only.unitsView.trans rfl

theorem requestHall_unitsView (s : State) (activity n : Nat) : (s.requestHall activity n).unitsView = s.unitsView := by
  unfold requestHall startActivity
  split
  · rfl
  · dsimp only
    repeat' split
    · exact beginRemeasure_only.unitsView.trans rfl
    · exact modPort_only.unitsView.trans rfl
    all_goals rfl

theorem grantWaiting_unitsView (s : State) : s.grantWaiting.unitsView = s.unitsView := by
  have slice : s.grantSlice.unitsView = s.unitsView := by
    unfold grantSlice
    dsimp only
    split <;> rfl
  have remeasure (u : State) (p : Nat) :
      (match (u.port p).measWaits with
        | some under => if (u.port p).remeasure.isNone then u.beginRemeasure p under else u
        | none => u).unitsView = u.unitsView := by
    repeat' split
    · exact beginRemeasure_only.unitsView
    all_goals rfl
  have prbs (u : State) (p : Nat) : (if (u.port p).prbsWaits then u.takePrbsToken p else u).unitsView = u.unitsView := by
    split
    · exact u.takePrbsToken_unitsView p
    · rfl
  unfold grantWaiting
  extract_lets s₁ s₂ s₃ s₄
  have h₂ : s₂.unitsView = s₁.unitsView := view_foldl (view := unitsView) remeasure _ _
  have h₃ : s₃.unitsView = s₂.unitsView := view_foldl (view := unitsView) (fun _ _ => turnExchange_only.unitsView) _ _
  have h₄ : s₄.unitsView = s₃.unitsView := view_foldl (view := unitsView) prbs _ _
  refine Eq.trans ?_ (h₄.trans (h₃.trans (h₂.trans slice)))
  clear_value s₄
  repeat' split
  · exact s₄.requestHall_unitsView _ _
  all_goals rfl

theorem beginTide_unitsView (s : State) : s.beginTide.unitsView = s.unitsView := by
  unfold beginTide
  exact tryEnterOpens_only.unitsView.trans
    ((view_foldl (view := unitsView) (fun _ _ => pollReady_only.unitsView.trans openOperand_only.unitsView) _ _).trans startSpills_only.unitsView)

/-- The later actions of a boundary touch neither the bays' coves nor what is retired or waits for it. -/
theorem laterActions_unitsView (s : State) : s.laterActions.unitsView = s.unitsView := by
  have values : ((s.latchTime.catchPages.applyCal).setFrame).applyAttach.unitsView = s.unitsView :=
    applyAttach_only.unitsView.trans (setFrame_only.unitsView.trans ((applyCal_unitsView _).trans
      (catchPages_only.unitsView.trans latchTime_only.unitsView)))
  have withdrawn (u : State) (b : Bool) : (if b then u.withdraw else u).unitsView = u.unitsView := by
    split
    · exact withdraw_only.unitsView
    · rfl
  have begun (u : State) : (u.grantWaiting.applyIdle.beginTide.fetchFirst.captureMarks).wakeIfReady.unitsView = u.unitsView :=
    (wakeIfReady_unitsView _).trans (captureMarks_only.unitsView.trans (fetchFirst_only.unitsView.trans
      ((beginTide_unitsView _).trans ((applyIdle_unitsView _).trans (grantWaiting_unitsView u)))))
  unfold laterActions
  extract_lets wasFramed s₁ s₂ s₃ s₄ s₅ s₆ s₇
  have h₃ : s₃.unitsView = s₂.unitsView := withdrawn _ _
  have h₄ : s₄.unitsView = s₃.unitsView := view_foldl (view := unitsView) (fun _ _ => checkLatency_only.unitsView) _ _
  have h₅ : s₅.unitsView = s₄.unitsView := view_foldl (view := unitsView) (fun _ _ => tryAlign_only.unitsView) _ _
  have h₇ : s₇.unitsView = s₅.unitsView := begun s₅
  clear_value s₇
  exact h₇.trans (h₅.trans (h₄.trans (h₃.trans values)))

theorem settle_unitsView (s : State) : s.settle.unitsView = s.unitsView := by
  unfold settle
  split
  · exact s.laterActions_unitsView
  · rfl

/-! ### The privileged view -/

/-- A tag with the privileged view has the access forwarded (R302, R303). -/
theorem asPriv_of_tagPriv {s : State} {tag : Nat} (h : s.tagPriv tag = true) (addr : Nat) (write : Bool)
    (f : State → State) : s.asPriv tag addr write f = f (s.touch tag) := by
  have hle : ¬tag > 8 := by
    simp only [tagPriv, tagLive, Bool.or_eq_true, Bool.and_eq_true, beq_iff_eq, decide_eq_true_eq] at h
    omega
  unfold asPriv
  rw [if_neg hle]
  exact if_pos h

/-! ### Self-test slices (R390, R391) -/

section

variable {s : State} {sig : Word32}

/-- The state in which the slice of the tide has run. -/
def sliceRun (s : State) : State := { s with maint := { s.maint with lastSlice := some s.time.ticks } }

theorem sliceRun_bay (s : State) (b : Nat) : s.sliceRun.bay b = s.bay b := rfl

theorem execBistSlice_of_due (hr : s.running = true) (hd : s.sliceDue s.turnBay = true) :
    execBistSlice sig s = .next (s.sliceRun.judgeSlice s.turnBay sig.toNat) := by
  unfold execBistSlice
  rw [whenRunning_run hr]
  exact congrArg _ (if_pos hd)

theorem execBistSlice_of_not_due (hr : s.running = true) (hd : s.sliceDue s.turnBay = false) :
    execBistSlice sig s = .next s := by
  unfold execBistSlice
  rw [whenRunning_run hr]
  exact congrArg _ (if_neg (by simp [hd]))

end

section

variable {s : State} {b sig : Nat}

theorem judgeSlice_of_good (h : sig = s.im.bist.coveSig.getD (s.bay b).slice 0) (hs : (s.bay b).slice ≠ 511) :
    s.judgeSlice b sig = s.setBay b { s.bay b with slice := (s.bay b).slice + 1, failed := false } := by
  unfold judgeSlice
  simp only [beq_iff_eq]
  rw [if_pos h]
  exact if_neg hs

theorem judgeSlice_of_last (h : sig = s.im.bist.coveSig.getD 511 0) (hs : (s.bay b).slice = 511) :
    s.judgeSlice b sig = (s.setBay b { s.bay b with slice := 0, failed := false, passed := true }).bump .bistPass := by
  unfold judgeSlice
  simp only [beq_iff_eq]
  rw [if_pos (by rw [hs]; exact h)]
  exact if_pos hs

/-- The failing slice is noted in BIST_STATUS. -/
def noteFail (s : State) (n : Nat) : State := { s with maint := { s.maint with lastFail := n } }

theorem noteFail_lastFail (s : State) (n : Nat) : (s.noteFail n).maint.lastFail = n := rfl
theorem noteFail_lastSlice (s : State) (n : Nat) : (s.noteFail n).maint.lastSlice = s.maint.lastSlice := rfl
theorem noteFail_bay (s : State) (n b : Nat) : (s.noteFail n).bay b = s.bay b := rfl
theorem noteFail_only (s : State) (n : Nat) : OnlyChanges [.maint] s (s.noteFail n) :=
  only_maint OnlyChanges.refl (by decide)

theorem judgeSlice_of_first_fail (h : sig ≠ s.im.bist.coveSig.getD (s.bay b).slice 0) (hf : (s.bay b).failed = false) :
    s.judgeSlice b sig = (s.setBay b { s.bay b with failed := true }).noteFail
      (b + (s.bay b).standby * 64 + (s.bay b).slice * 1024 + sig * 4294967296) := by
  unfold judgeSlice noteFail
  simp only [beq_iff_eq]
  rw [if_neg h, if_neg (by simp [hf])]
  norm_num only

theorem judgeSlice_of_second_fail (h : sig ≠ s.im.bist.coveSig.getD (s.bay b).slice 0) (hf : (s.bay b).failed = true) :
    s.judgeSlice b sig = (s.setBay b { s.bay b with failed := false }).failCove b := by
  unfold judgeSlice
  simp only [beq_iff_eq]
  rw [if_neg h, if_pos hf]

end

/-! ### Coves and bays that are retired (R20, R186) -/

theorem mem_addOnce {α : Type} [DecidableEq α] (l : List α) (x : α) : x ∈ addOnce l x := by
  unfold addOnce
  split
  · assumption
  · simp

/-- A cove is retired for good: it stands in the map, its bay has no standby, and the faults show it with the lost coverage
(R20). -/
def loseCoverage (s : State) (b cove : Nat) : State :=
  (s.retireCove b cove).setFaults (fun f => { f with coverageLost := true })

theorem loseCoverage_unitsView (s : State) (b cove : Nat) :
    (s.loseCoverage b cove).unitsView = { s.unitsView with
      bays := s.maint.bays.set b { s.bay b with absent := true }
      dumap := { s.power.dumap with coves := addOnce s.power.dumap.coves (b, cove) }
      coveRetired := true
      coverageLost := true } := by
  unfold loseCoverage retireCove unitsView
  dsimp only [setFaults]
  rw [bump_only.maint_eq, bump_only.power_eq]
  rfl

/-- The event of a retired cove, and the hails that tell it, leave the coves as they are. -/
def tellCove (s : State) (b cove : Nat) : State :=
  (s.raise { type := 0x0061, severity := 2, subject := b + cove * 2 ^ 6, rings := s.ringsE }).askHails

theorem tellCove_unitsView (s : State) (b cove : Nat) : (s.tellCove b cove).unitsView = s.unitsView :=
  askHails_only.unitsView.trans raise_only.unitsView

theorem tellCove_waitsEvent (s : State) (b cove : Nat) : (s.tellCove b cove).waitsEvent 0x0061 (b + cove * 64) :=
  (waitsEvent_congr askHails_only.events_eq).mpr (raise_waitsEvent s _)

theorem failCove_eq {s : State} {b cove : Nat} (h : (s.bay b).standby = cove) :
    s.failCove b = (s.loseCoverage b cove).tellCove b cove := by
  subst h; rfl

/-! ### The parts of the view -/

section

variable (s : State)

theorem unitsView_bays : s.unitsView.bays = s.maint.bays := rfl
theorem unitsView_retiring : s.unitsView.retiring = s.maint.retiring := rfl
theorem unitsView_dumap : s.unitsView.dumap = s.power.dumap := rfl

end

section

variable {s t : State} (h : t.unitsView = s.unitsView)

include h

theorem bay_of_unitsView (b : Nat) : t.bay b = s.bay b := by
  unfold bay; rw [← unitsView_bays, h]; rfl
theorem takeovers_of_unitsView : t.maint.takeovers = s.maint.takeovers := congrArg UnitsView.takeovers h
theorem retiring_of_unitsView : t.maint.retiring = s.maint.retiring := congrArg UnitsView.retiring h
theorem dumap_of_unitsView : t.power.dumap = s.power.dumap := congrArg UnitsView.dumap h
theorem coveRetired_of_unitsView : t.power.faults.coveRetired = s.power.faults.coveRetired :=
  congrArg UnitsView.coveRetired h
theorem coverageLost_of_unitsView : t.power.faults.coverageLost = s.power.faults.coverageLost :=
  congrArg UnitsView.coverageLost h

end

section

variable (s : State) (b cove : Nat)

theorem loseCoverage_bay : (s.loseCoverage b cove).bay b = { s.bay b with absent := true } := by
  unfold bay
  rw [← unitsView_bays, loseCoverage_unitsView]
  exact Tbl.get_set_same _ _ _ _

theorem loseCoverage_bay_other {c : Nat} (h : c ≠ b) : (s.loseCoverage b cove).bay c = s.bay c := by
  unfold bay
  rw [← unitsView_bays, loseCoverage_unitsView]
  exact Tbl.get_set_other _ _ _ h

theorem loseCoverage_takeovers : (s.loseCoverage b cove).maint.takeovers = s.maint.takeovers :=
  congrArg UnitsView.takeovers (s.loseCoverage_unitsView b cove)

theorem mem_loseCoverage_coves : (b, cove) ∈ (s.loseCoverage b cove).power.dumap.coves := by
  rw [← unitsView_dumap, loseCoverage_unitsView]
  exact mem_addOnce _ _

theorem loseCoverage_coveRetired : (s.loseCoverage b cove).power.faults.coveRetired = true :=
  congrArg UnitsView.coveRetired (s.loseCoverage_unitsView b cove)

theorem loseCoverage_coverageLost : (s.loseCoverage b cove).power.faults.coverageLost = true :=
  congrArg UnitsView.coverageLost (s.loseCoverage_unitsView b cove)

end

/-! ### Handovers and takeovers (R19, R186) -/

theorem replaceCove_bay (s : State) (b old new : Nat) :
    (s.replaceCove b old new).bay b = { s.bay b with
      phys := (s.bay b).phys.map (fun c => if c = old then new else c), slice := 0, failed := false, passed := false } :=
  setBay_bay _ _ _

theorem replaceCove_bay_other (s : State) {b c : Nat} (old new : Nat) (h : c ≠ b) :
    (s.replaceCove b old new).bay c = s.bay c :=
  setBay_bay_other _ _ h

theorem handover_bay (s : State) (b : Nat) :
    (s.handover b).bay b = { s.bay b with
      standby := ((s.bay b).standby + 1) % 16, slice := 0, failed := false, passed := false,
      phys := (s.bay b).phys.map (fun c => if c = ((s.bay b).standby + 1) % 16 then (s.bay b).standby else c) } := by
  unfold handover
  rw [setBay_bay, replaceCove_bay]

theorem handover_bay_other (s : State) {b c : Nat} (h : c ≠ b) : (s.handover b).bay c = s.bay c :=
  (setBay_bay_other _ _ h).trans (replaceCove_bay_other s _ _ h)

/-- The position that waits for the cove is taken from the list. -/
def takeoverBegun (s : State) (b cove : Nat) : State :=
  { s with maint := { s.maint with takeovers := s.maint.takeovers.filter (· != (b, cove)) } }

theorem not_mem_takeoverBegun (s : State) (b cove : Nat) : (b, cove) ∉ (s.takeoverBegun b cove).maint.takeovers := by
  simp [takeoverBegun]

theorem takeOver_of_standby {s : State} {b : Nat} (cove : Nat) (h : s.hasStandby b = true) :
    s.takeOver b cove
      = (((s.takeoverBegun b cove).replaceCove b cove (s.bay b).standby).loseCoverage b cove).tellCove b cove := by
  unfold takeOver
  exact if_neg (show ¬(!s.hasStandby b) = true by simp [h])

theorem takeOver_of_no_standby {s : State} {b : Nat} (cove : Nat) (h : s.hasStandby b = false) :
    s.takeOver b cove = { s.takeoverBegun b cove with
      maint := { (s.takeoverBegun b cove).maint with retiring := addOnce s.maint.retiring b } } := by
  unfold takeOver
  exact if_pos (show (!s.hasStandby b) = true by simp [h])

theorem execCoveTakeover_of_due {s : State} {b cove : Nat} (hr : s.running = true)
    (hf : s.maint.takeovers.find? (fun x => x.1 == b) = some (b, cove)) (hd : s.takeoverDue b = true) :
    execCoveTakeover b s = .next (s.takeOver b cove).settle := by
  unfold execCoveTakeover
  rw [whenRunning_run hr]
  simp only [hf, hd, if_true]

theorem execCoveTakeover_of_not_due {s : State} {b : Nat} (hd : s.takeoverDue b = false) :
    execCoveTakeover b s = .next s := by
  unfold execCoveTakeover whenRunning
  simp only [hd]
  repeat' split
  all_goals simp_all

/-! ### Patrol scrub (R396) -/

theorem execPatrolScrub_run {s : State} {fixed bad : List Nat} (hr : s.running = true)
    (h : s.maint.lastScrub ≠ some s.time.ticks) : execPatrolScrub fixed bad s = .next (s.scrub fixed bad) := by
  unfold execPatrolScrub
  rw [whenRunning_run hr]
  exact congrArg _ (if_neg h)

/-- What patrol and a requested sweep read in the tide in progress. -/
def scrubReads (s : State) (u : Nat) : Bool :=
  decide (s.maint.scrubAt ≤ u ∧ u < s.maint.scrubAt + 1024) || s.sweepReads u

theorem mem_scrub_found {s : State} {fixed bad : List Nat} {u : Nat} :
    u ∈ (s.scrub fixed bad).maint.found ↔ (u ∈ s.badUnits ∨ u ∈ bad) ∧ s.scrubReads u = true := by
  rw [show (s.scrub fixed bad).maint.found
    = (s.badUnits.filter s.scrubReads ++ bad.filter s.scrubReads).eraseDups from rfl]
  simp only [List.mem_eraseDups, List.mem_append, List.mem_filter]
  tauto

theorem mem_scrub_fixed {s : State} {fixed bad : List Nat} {u : Nat} :
    u ∈ (s.scrub fixed bad).maint.fixed ↔ u ∈ fixed ∧ s.scrubReads u = true := List.mem_filter

theorem scrubReads_iff {s : State} {u : Nat} : s.scrubReads u = true
    ↔ (s.maint.scrubAt ≤ u ∧ u < s.maint.scrubAt + 1024) ∨ s.sweepReads u = true := by
  simp [scrubReads]

section

variable (s : State) (fixed bad : List Nat)

theorem scrub_scrubAt : (s.scrub fixed bad).maint.scrubAt
    = if stackUnits ≤ s.maint.scrubAt + scrubUnits then 0 else s.maint.scrubAt + scrubUnits := by
  unfold scrub
  dsimp only

theorem scrub_sweeps : (s.scrub fixed bad).maint.sweeps
    = if stackUnits ≤ s.maint.scrubAt + scrubUnits then (s.maint.sweeps + 1) % 2 ^ 32 else s.maint.sweeps := by
  unfold scrub
  dsimp only

end

/-- The tide's findings are taken up. -/
def scrubTaken (s : State) : State := { s with maint := { s.maint with found := [], fixed := [], wrote := [] } }

/-- The corrected errors of a tide that are counted (R396). -/
def scrubCount (s : State) : Nat := s.maint.fixed.countP (fun u => !s.maint.wrote.contains u)

theorem scrubOutcome_eq (s : State) : s.scrubOutcome = (s.maint.found.filter (fun u => !s.maint.wrote.contains u)).foldl
    scrubBad (if s.scrubCount = 0 then s.scrubTaken else s.scrubTaken.bumpBy .stackCe s.scrubCount) := by
  unfold scrubOutcome scrubTaken scrubCount
  rfl

theorem scrubOutcome_of_none {s : State} (h : s.maint.found = []) :
    s.scrubOutcome = if s.scrubCount = 0 then s.scrubTaken else s.scrubTaken.bumpBy .stackCe s.scrubCount := by
  rw [scrubOutcome_eq, h]
  rfl

theorem scrubOutcome_of_one {s : State} {u : Nat} (h : s.maint.found = [u]) (hf : s.maint.fixed = []) :
    s.scrubOutcome = if u ∈ s.maint.wrote then s.scrubTaken else s.scrubTaken.scrubBad u := by
  have h0 : s.scrubCount = 0 := by unfold scrubCount; rw [hf]; rfl
  rw [scrubOutcome_eq, h, if_pos h0]
  by_cases hw : u ∈ s.maint.wrote
  · rw [if_pos hw, List.filter_cons_of_neg (by simp [hw]), List.filter_nil, List.foldl_nil]
  · rw [if_neg hw, List.filter_cons_of_pos (by simp [hw]), List.filter_nil, List.foldl_cons, List.foldl_nil]

theorem scrubBad_of_inRegion {s : State} {u : Nat} (h : s.inRegion u = true) :
    s.scrubBad u = (s.markBad [u]).stackUE u 0 := by
  unfold scrubBad; rw [if_pos h]

/-- A unit outside every region is written zero (R396). -/
def zeroUnit (s : State) (u : Nat) : State :=
  { s with badUnits := s.badUnits.filter (· != u), stack := s.stack.filter (fun c => decide (c.1 / 256 ≠ u)) }

theorem scrubBad_of_outside {s : State} {u : Nat} (h : s.inRegion u = false) :
    s.scrubBad u = (s.zeroUnit u).bump .stackUe := by
  unfold scrubBad; rw [if_neg (by simp [h])]; rfl

theorem zeroUnit_read (s : State) (u a : Nat) :
    (s.zeroUnit u).stack.read a = if a / 256 = u then 0 else s.stack.read a := by
  rw [zeroUnit, Mem.read_filter s.stack (fun k => decide (k / 256 ≠ u)) a]
  by_cases h : a / 256 = u <;> simp [h]

/-! ### Retired bays (R20, R186) -/

/-- A bay is taken from those that wait and retired. -/
def bayTaken (s : State) (b : Nat) : State :=
  ({ s with maint := { s.maint with retiring := s.maint.retiring.filter (· != b) } } : State).retireBay b

/-- An event tells it, with the groups that it served. -/
def bayGone (s : State) (b : Nat) : State :=
  (s.bayTaken b).raise
    { type := 0x0062, severity := 4, code := 0x02, subject := b,
      arg := (((s.bayGroups b).filter (· < 32)).map (2 ^ ·)).foldl (· + ·) 0, rings := (s.bayTaken b).ringsA }

theorem bayGone_unitsView (s : State) (b : Nat) :
    (s.bayGone b).unitsView = { s.unitsView with
      retiring := s.maint.retiring.filter (· != b)
      dumap := { s.power.dumap with bays := addOnce s.power.dumap.bays b } } := by
  unfold bayGone bayTaken retireBay
  rw [raise_only.unitsView, bump_only.unitsView]
  rfl

theorem bayGone_bayRetired (s : State) (b : Nat) : (s.bayGone b).power.faults.bayRetired = true := by
  unfold bayGone bayTaken retireBay
  rw [raise_only.power_eq, bump_only.power_eq]
  rfl

/-- The members of the groups that a bay served are lost, and hails tell it: that touches ports and groups alone. -/
theorem loseBay_after_bayGone (s : State) (b : Nat) : OnlyChanges [.ports, .groups] (s.bayGone b) (s.loseBay b) := by
  unfold loseBay
  refine OnlyChanges.trans' (askHails_only.mono (by decide)) (only_foldl OnlyChanges.refl fun u g hu => ?_)
  split
  · exact (abortGroup_only.trans' (modGroup_only.mono (by decide))).trans' hu
  · exact hu

theorem execBayRetirement_of_due {s : State} {b : Nat} (hr : s.running = true) (hb : s.maint.retiring.contains b = true)
    (hd : s.atStepBoundary b = true) : execBayRetirement b s = .next (s.loseBay b) := by
  unfold execBayRetirement
  rw [whenRunning_run hr]
  exact congrArg _ (if_pos (by rw [hb, hd]; rfl))

/-! ### The commands of self-test, scrub and retirement -/

section

variable {s : State}

theorem execBistCtrlWrite_run {tag : Nat} {v : Word32} (hr : s.running = true) (hp : s.tagPriv tag = true) :
    ∃ t, execBistCtrlWrite tag v s = .next t ∧ t.maint = { s.maint with rotate := bitAt v.toNat 0 }
      ∧ OnlyChanges [.host, .maint] s t := by
  have h : execBistCtrlWrite tag v s = .next ((s.touch tag).setRotate v.toNat) := by
    unfold execBistCtrlWrite
    rw [whenRunning_run hr, asPriv_of_tagPriv hp]
  exact ⟨_, h, rfl, (setRotate_only.mono (by decide)).trans' (touch_only.mono (by decide))⟩

theorem execBistSlice_good {sig : Word32} (hr : s.running = true) (hd : s.sliceDue s.turnBay = true)
    (h : sig.toNat = s.im.bist.coveSig.getD (s.bay s.turnBay).slice 0) (hs : (s.bay s.turnBay).slice ≠ 511) :
    ∃ t, execBistSlice sig s = .next t ∧ t.maint.lastSlice = some s.time.ticks
      ∧ t.bay s.turnBay = { s.bay s.turnBay with slice := (s.bay s.turnBay).slice + 1, failed := false }
      ∧ (∀ b, b ≠ s.turnBay → t.bay b = s.bay b) ∧ OnlyChanges [.maint] s t := by
  refine ⟨_, execBistSlice_of_due hr hd, ?_⟩
  rw [judgeSlice_of_good (s := s.sliceRun) h hs]
  exact ⟨rfl, setBay_bay _ _ _, fun b hb => setBay_bay_other s.sliceRun _ hb,
    setBay_only.trans' (only_maint OnlyChanges.refl (by decide))⟩

theorem execBistSlice_last {sig : Word32} (hr : s.running = true) (hd : s.sliceDue s.turnBay = true)
    (h : sig.toNat = s.im.bist.coveSig.getD 511 0) (hs : (s.bay s.turnBay).slice = 511) :
    ∃ t, execBistSlice sig s = .next t ∧ t.maint.lastSlice = some s.time.ticks
      ∧ t.bay s.turnBay = { s.bay s.turnBay with slice := 0, failed := false, passed := true }
      ∧ (∀ b, b ≠ s.turnBay → t.bay b = s.bay b) ∧ OnlyChanges [.events, .stats, .maint] s t := by
  refine ⟨_, execBistSlice_of_due hr hd, ?_⟩
  rw [judgeSlice_of_last (s := s.sliceRun) h hs]
  refine ⟨by rw [bump_only.maint_eq]; rfl, by rw [bump_only.bay_eq]; exact setBay_bay _ _ _, fun b hb => ?_, ?_⟩
  · rw [bump_only.bay_eq]; exact setBay_bay_other s.sliceRun _ hb
  · exact (bump_only.mono (by decide)).trans' ((setBay_only.mono (by decide)).trans' (only_maint OnlyChanges.refl (by decide)))

theorem execBistSlice_first_fail {sig : Word32} (hr : s.running = true) (hd : s.sliceDue s.turnBay = true)
    (h : sig.toNat ≠ s.im.bist.coveSig.getD (s.bay s.turnBay).slice 0) (hf : (s.bay s.turnBay).failed = false) :
    ∃ t, execBistSlice sig s = .next t ∧ t.bay s.turnBay = { s.bay s.turnBay with failed := true }
      ∧ t.maint.lastFail = s.turnBay + (s.bay s.turnBay).standby * 64 + (s.bay s.turnBay).slice * 1024
          + sig.toNat * 4294967296
      ∧ t.maint.lastSlice = some s.time.ticks ∧ (∀ b, b ≠ s.turnBay → t.bay b = s.bay b)
      ∧ OnlyChanges [.maint] s t := by
  refine ⟨_, execBistSlice_of_due hr hd, ?_⟩
  rw [judgeSlice_of_first_fail (s := s.sliceRun) h hf]
  refine ⟨?_, ?_, ?_, fun b hb => ?_,
    (noteFail_only _ _).trans' (setBay_only.trans' (only_maint OnlyChanges.refl (by decide)))⟩
  · rw [noteFail_bay, setBay_bay, sliceRun_bay]
  · rw [noteFail_lastFail, sliceRun_bay]
  · rw [noteFail_lastSlice]; rfl
  · rw [noteFail_bay, setBay_bay_other _ _ hb, sliceRun_bay]

theorem execBistSlice_second_fail {sig : Word32} (hr : s.running = true) (hd : s.sliceDue s.turnBay = true)
    (h : sig.toNat ≠ s.im.bist.coveSig.getD (s.bay s.turnBay).slice 0) (hf : (s.bay s.turnBay).failed = true) :
    ∃ t, execBistSlice sig s = .next t ∧ (s.turnBay, (s.bay s.turnBay).standby) ∈ t.power.dumap.coves
      ∧ t.bay s.turnBay = { s.bay s.turnBay with failed := false, absent := true }
      ∧ t.power.faults.coverageLost = true ∧ t.power.faults.coveRetired = true
      ∧ (∃ e ∈ t.events, e.type = 0x0061 ∧ e.subject = s.turnBay + (s.bay s.turnBay).standby * 64)
      ∧ (∀ b, b ≠ s.turnBay → t.bay b = s.bay b) ∧ OnlyChanges [.power, .ports, .events, .stats, .maint] s t := by
  let u : State := s.sliceRun.setBay s.turnBay { s.bay s.turnBay with failed := false }
  have hu : u.bay s.turnBay = { s.bay s.turnBay with failed := false } := setBay_bay _ _ _
  have hcove : (u.bay s.turnBay).standby = (s.bay s.turnBay).standby := by rw [hu]
  have ht : execBistSlice sig s
      = .next ((u.loseCoverage s.turnBay (s.bay s.turnBay).standby).tellCove s.turnBay (s.bay s.turnBay).standby) := by
    rw [execBistSlice_of_due hr hd, judgeSlice_of_second_fail (s := s.sliceRun) h hf]
    exact congrArg _ (failCove_eq hcove)
  have told := tellCove_unitsView (u.loseCoverage s.turnBay (s.bay s.turnBay).standby) s.turnBay (s.bay s.turnBay).standby
  refine ⟨_, ht, ?_, ?_, ?_, ?_, tellCove_waitsEvent _ _ _, fun b hb => ?_, execBistSlice_only ht⟩
  · rw [dumap_of_unitsView told]; exact mem_loseCoverage_coves _ _ _
  · rw [bay_of_unitsView told, loseCoverage_bay, hu]
  · rw [coverageLost_of_unitsView told]; exact loseCoverage_coverageLost _ _ _
  · rw [coveRetired_of_unitsView told]; exact loseCoverage_coveRetired _ _ _
  · rw [bay_of_unitsView told, loseCoverage_bay_other _ _ _ hb]; exact setBay_bay_other s.sliceRun _ hb

theorem execStandbyHandover_due {b n : Nat} (hr : s.running = true) (hd : s.handoverDue b = true)
    (hn : n = ((s.bay b).standby + 1) % 16) :
    ∃ t, execStandbyHandover b s = .next t ∧ t.bay b = { s.bay b with
        standby := n, slice := 0, failed := false, passed := false,
        phys := (s.bay b).phys.map (fun c => if c = n then (s.bay b).standby else c) }
      ∧ (∀ c, c ≠ b → t.bay c = s.bay c)
      ∧ OnlyChanges [.out, .power, .time, .cal, .ports, .books, .parts, .queues, .groups, .areas, .events, .stats, .snaps,
          .maint] s t := by
  subst hn
  have ht : execStandbyHandover b s = .next (s.handover b).settle := by
    unfold execStandbyHandover
    rw [whenRunning_run hr]
    exact congrArg _ (if_pos hd)
  have settled := (s.handover b).settle_unitsView
  refine ⟨_, ht, ?_, fun c hc => ?_, settle_only.trans' (handover_only.mono (by decide))⟩
  · rw [bay_of_unitsView settled, handover_bay]
  · rw [bay_of_unitsView settled, handover_bay_other _ hc]

theorem execStandbyHandover_of_not_due {b : Nat} (hd : s.handoverDue b = false) : execStandbyHandover b s = .next s := by
  unfold execStandbyHandover whenRunning
  simp [hd]

theorem execPatrolScrub_reads {fixed bad : List Nat} (hr : s.running = true)
    (h : s.maint.lastScrub ≠ some s.time.ticks) :
    ∃ t, execPatrolScrub fixed bad s = .next t ∧ t.maint.lastScrub = some s.time.ticks
      ∧ (s.maint.scrubAt + 1024 < 134217728 → t.maint.scrubAt = s.maint.scrubAt + 1024 ∧ t.maint.sweeps = s.maint.sweeps)
      ∧ (134217728 ≤ s.maint.scrubAt + 1024 → t.maint.scrubAt = 0 ∧ t.maint.sweeps = (s.maint.sweeps + 1) % 2 ^ 32)
      ∧ (∀ u, u ∈ t.maint.found ↔ (u ∈ s.badUnits ∨ u ∈ bad)
          ∧ ((s.maint.scrubAt ≤ u ∧ u < s.maint.scrubAt + 1024) ∨ s.sweepReads u = true))
      ∧ (∀ u, u ∈ t.maint.fixed ↔ u ∈ fixed
          ∧ ((s.maint.scrubAt ≤ u ∧ u < s.maint.scrubAt + 1024) ∨ s.sweepReads u = true))
      ∧ OnlyChanges [.maint] s t := by
  refine ⟨_, execPatrolScrub_run hr h, rfl, fun hn => ?_, fun hn => ?_, fun u => ?_, fun u => ?_, scrub_only⟩
  · rw [scrub_scrubAt, scrub_sweeps, if_neg (by unfold stackUnits scrubUnits; omega),
      if_neg (by unfold stackUnits scrubUnits; omega)]
    exact ⟨rfl, rfl⟩
  · rw [scrub_scrubAt, scrub_sweeps, if_pos (by unfold stackUnits scrubUnits; omega),
      if_pos (by unfold stackUnits scrubUnits; omega)]
    exact ⟨rfl, rfl⟩
  · rw [mem_scrub_found, scrubReads_iff]
  · rw [mem_scrub_fixed, scrubReads_iff]

theorem execPatrolScrub_once {fixed bad : List Nat} (h : s.maint.lastScrub = some s.time.ticks) :
    execPatrolScrub fixed bad s = .next s := by
  unfold execPatrolScrub whenRunning
  simp [h]

theorem bumpBy_stats_congr {s t : State} (h : t.stats = s.stats) (c : EStat) (k : Nat) :
    (t.bumpBy c k).stats = (s.bumpBy c k).stats := by
  have raised (u : State) (b : Bool) (e : Event) : (if b then u.raise e else u).stats = u.stats := by
    split
    · exact raise_only .stats (by decide)
    · rfl
  unfold bumpBy
  rw [raised, raised, h]

theorem scrubOutcome_corrected (h : s.maint.found = []) :
    s.scrubOutcome.maint = { s.maint with fixed := [], wrote := [] }
      ∧ s.scrubOutcome.stats = (if s.scrubCount = 0 then s else s.bumpBy .stackCe s.scrubCount).stats
      ∧ OnlyChanges [.events, .stats, .maint] s s.scrubOutcome := by
  have taken : s.scrubTaken.maint = { s.maint with fixed := [], wrote := [] } := by
    unfold scrubTaken; rw [← h]
  have frame : OnlyChanges [.events, .stats, .maint] s s.scrubTaken := only_maint OnlyChanges.refl (by decide)
  rw [scrubOutcome_of_none h]
  split
  · exact ⟨taken, rfl, frame⟩
  · exact ⟨bumpBy_only.maint_eq.trans taken, bumpBy_stats_congr (show s.scrubTaken.stats = s.stats from rfl) _ _, (bumpBy_only.mono (by decide)).trans' frame⟩

theorem scrubOutcome_written {u : Nat} (h : s.maint.found = [u]) (hf : s.maint.fixed = []) (hw : u ∈ s.maint.wrote) :
    s.scrubOutcome = { s with maint := { s.maint with found := [], wrote := [] } } := by
  rw [scrubOutcome_of_one h hf, if_pos hw, scrubTaken, ← hf]

theorem scrubOutcome_region {u : Nat} (h : s.maint.found = [u]) (hf : s.maint.fixed = []) (hw : u ∉ s.maint.wrote)
    (hi : s.inRegion u = true) :
    u ∈ s.scrubOutcome.badUnits ∧ s.scrubOutcome.power.faults.stackUE = true
      ∧ (∃ e ∈ s.scrubOutcome.events, e.type = 0x0063 ∧ e.subject = 1 + u * 256)
      ∧ OnlyChanges [.power, .badUnits, .events, .stats, .maint] s s.scrubOutcome := by
  have ht : s.scrubOutcome = (s.scrubTaken.markBad [u]).stackUE u 0 := by
    rw [scrubOutcome_of_one h hf, if_neg hw, scrubBad_of_inRegion (s := s.scrubTaken) hi]
  rw [ht]
  refine ⟨?_, ?_, raise_waitsEvent _ _, ?_⟩
  · rw [stackUE_only.badUnits_eq]; exact mem_addOnce _ _
  · unfold stackUE
    dsimp only
    rw [raise_only.power_eq, bump_only.power_eq]
    rfl
  · exact (stackUE_only.mono (by decide)).trans' ((markBad_only.mono (by decide)).trans'
      (only_maint OnlyChanges.refl (by decide)))

theorem scrubOutcome_outside {u : Nat} (h : s.maint.found = [u]) (hf : s.maint.fixed = []) (hw : u ∉ s.maint.wrote)
    (hi : s.inRegion u = false) :
    u ∉ s.scrubOutcome.badUnits
      ∧ (∀ a, s.scrubOutcome.stack.read a = if a / 256 = u then 0 else s.stack.read a)
      ∧ OnlyChanges [.stack, .badUnits, .events, .stats, .maint] s s.scrubOutcome := by
  have ht : s.scrubOutcome = (s.scrubTaken.zeroUnit u).bump .stackUe := by
    rw [scrubOutcome_of_one h hf, if_neg hw, scrubBad_of_outside (s := s.scrubTaken) hi]
  rw [ht]
  refine ⟨?_, fun a => ?_, ?_⟩
  · rw [bump_only.badUnits_eq]; simp [zeroUnit]
  · rw [bump_only.stack_eq]; exact zeroUnit_read s.scrubTaken u a
  · exact (bump_only.mono (by decide)).trans' (only_stack_badUnits (only_maint OnlyChanges.refl (by decide)) (by decide)
      (by decide))

theorem execCoveTakeover_standby {b cove : Nat} (hr : s.running = true)
    (hf : s.maint.takeovers.find? (fun x => x.1 == b) = some (b, cove)) (hd : s.takeoverDue b = true)
    (hs : s.hasStandby b = true) :
    ∃ t, execCoveTakeover b s = .next t ∧ (b, cove) ∈ t.power.dumap.coves ∧ (t.bay b).absent = true
      ∧ t.power.faults.coveRetired = true
      ∧ (t.bay b).phys = (s.bay b).phys.map (fun c => if c = cove then (s.bay b).standby else c)
      ∧ t.power.faults.coverageLost = true ∧ (b, cove) ∉ t.maint.takeovers
      ∧ OnlyChanges [.out, .power, .time, .cal, .ports, .books, .parts, .queues, .groups, .areas, .events, .stats, .snaps,
          .maint] s t := by
  have ht := execCoveTakeover_of_due hr hf hd
  have hv : (s.takeOver b cove).settle.unitsView
      = (((s.takeoverBegun b cove).replaceCove b cove (s.bay b).standby).loseCoverage b cove).unitsView := by
    rw [settle_unitsView, takeOver_of_standby cove hs, tellCove_unitsView]
  refine ⟨_, ht, ?_, ?_, ?_, ?_, ?_, ?_, execCoveTakeover_only ht⟩
  · rw [dumap_of_unitsView hv]; exact mem_loseCoverage_coves _ _ _
  · rw [bay_of_unitsView hv, loseCoverage_bay]
  · rw [coveRetired_of_unitsView hv]; exact loseCoverage_coveRetired _ _ _
  · rw [bay_of_unitsView hv, loseCoverage_bay, replaceCove_bay]; rfl
  · rw [coverageLost_of_unitsView hv]; exact loseCoverage_coverageLost _ _ _
  · rw [takeovers_of_unitsView hv, loseCoverage_takeovers]; exact not_mem_takeoverBegun s b cove

theorem execCoveTakeover_no_standby {b cove : Nat} (hr : s.running = true)
    (hf : s.maint.takeovers.find? (fun x => x.1 == b) = some (b, cove)) (hd : s.takeoverDue b = true)
    (hs : s.hasStandby b = false) :
    ∃ t, execCoveTakeover b s = .next t ∧ b ∈ t.maint.retiring ∧ (b, cove) ∉ t.maint.takeovers
      ∧ OnlyChanges [.out, .power, .time, .cal, .ports, .books, .parts, .queues, .groups, .areas, .events, .stats, .snaps,
          .maint] s t := by
  have ht := execCoveTakeover_of_due hr hf hd
  have settled := (s.takeOver b cove).settle_unitsView
  refine ⟨_, ht, ?_, ?_, execCoveTakeover_only ht⟩
  · rw [retiring_of_unitsView settled, takeOver_of_no_standby cove hs]; exact mem_addOnce _ _
  · rw [takeovers_of_unitsView settled, takeOver_of_no_standby cove hs]; exact not_mem_takeoverBegun s b cove

theorem execBayRetirement_due {b : Nat} (hr : s.running = true) (hb : s.maint.retiring.contains b = true)
    (hd : s.atStepBoundary b = true) :
    ∃ t, execBayRetirement b s = .next t ∧ b ∈ t.power.dumap.bays ∧ t.power.faults.bayRetired = true
      ∧ b ∉ t.maint.retiring ∧ (∃ e ∈ t.events, e.type = 0x0062 ∧ e.subject = b)
      ∧ OnlyChanges [.power, .ports, .groups, .events, .stats, .maint] s t := by
  have after := s.loseBay_after_bayGone b
  have hv := after.unitsView.trans (s.bayGone_unitsView b)
  refine ⟨_, execBayRetirement_of_due hr hb hd, ?_, ?_, ?_, ?_, loseBay_only⟩
  · rw [← unitsView_dumap, hv]; exact mem_addOnce _ _
  · rw [after.power_eq]; exact s.bayGone_bayRetired b
  · rw [← unitsView_retiring, hv]; simp
  · exact (waitsEvent_congr after.events_eq).mpr (raise_waitsEvent _ _)

end

end State

/-- Settles O29, command by command. -/
theorem selfTestScrubAndRetirementAdvance : Obligations.SelfTestScrubAndRetirementAdvance := by
  unfold Obligations.SelfTestScrubAndRetirementAdvance
  refine ⟨⟨?_, ?_, ?_, ?_, ?_, ?_, ?_, ?_, ?_, ?_, ?_⟩, ?_, ?_, ?_, ?_⟩
  · exact fun tag v s hr hp => State.execBistCtrlWrite_run hr hp
  · exact fun sig s hr hd h hs => State.execBistSlice_good hr hd h hs
  · exact fun sig s hr hd h hs => State.execBistSlice_last hr hd h hs
  · exact fun sig s hr hd h => ⟨State.execBistSlice_first_fail hr hd h, State.execBistSlice_second_fail hr hd h⟩
  · exact fun sig s hr hd => State.execBistSlice_of_not_due hr hd
  · exact fun b n s hr hd hn => State.execStandbyHandover_due hr hd hn
  · exact fun b s hd => State.execStandbyHandover_of_not_due hd
  · exact fun fixed bad s hr h => State.execPatrolScrub_reads hr h
  · rintro n s t h rfl rfl
    exact State.scrubOutcome_corrected h
  · rintro u s t h hf rfl
    exact ⟨State.scrubOutcome_written h hf, State.scrubOutcome_region h hf, State.scrubOutcome_outside h hf⟩
  · exact fun fixed bad s h => State.execPatrolScrub_once h
  · exact fun b cove s hr hf hd hs => State.execCoveTakeover_standby hr hf hd hs
  · exact fun b cove s hr hf hd hs => State.execCoveTakeover_no_standby hr hf hd hs
  · exact fun b s hd => State.execCoveTakeover_of_not_due hd
  · exact fun b s hr hb hd => State.execBayRetirement_due hr hb hd

end Sys2Proof.Machine

end

/-! ## Activation of an image

An activation exchanges the banks; what it does beside that touches neither bank. -/

section

namespace Sys2Proof.Machine

set_option Elab.async false

open Sys2Proof

namespace State

/-! ### Accesses to the image registers -/

theorem asImage_of_tagPriv {s : State} {tag : Nat} (h : s.tagPriv tag = true) (off : Nat) (f : State → State) :
    asImage s tag off f = f (s.touch tag) := asPriv_of_tagPriv h _ _ _

theorem imageCmd_of_not_busy {s : State} (h : s.imageBusy = false) (f : State → State) : s.imageCmd f = f s := by
  unfold imageCmd
  rw [h]
  rfl

theorem execActivate_run {s : State} {tag : Nat} (hr : s.running = true) (hp : s.tagPriv tag = true)
    (hb : s.imageBusy = false) : execActivate tag s = .next (s.touch tag).askActivation := by
  unfold execActivate
  rw [whenRunning_run hr, asImage_of_tagPriv hp, imageCmd_of_not_busy (s := s.touch tag) hb]

theorem execCancel_run {s : State} {tag : Nat} (hr : s.running = true) (hp : s.tagPriv tag = true)
    (hb : s.imageBusy = false) : execCancel tag s = .next ((s.touch tag).cancelActivation 0) := by
  unfold execCancel
  rw [whenRunning_run hr, asImage_of_tagPriv hp, imageCmd_of_not_busy (s := s.touch tag) hb]

/-! ### ACTIVATE and CANCEL (R294, R297) -/

/-- A group at rest is held. -/
def holdGroup (s : State) (g : Nat) : State :=
  if s.rests g then s.modGroup g (fun x => { x with actHeld := true }) else s

/-- The groups of a list that are at rest are held. -/
def holdGroups (s : State) (gs : List Nat) : State := gs.foldl holdGroup s

theorem holdGroup_only (s : State) (g : Nat) : OnlyChanges [.groups] s (s.holdGroup g) := by
  unfold holdGroup
  exact only_ite modGroup_only OnlyChanges.refl

theorem holdGroups_only (s : State) (gs : List Nat) : OnlyChanges [.groups] s (s.holdGroups gs) :=
  only_foldl OnlyChanges.refl fun _ _ h => (holdGroup_only _ _).trans' h

/-- Holding a group moves no group's step. -/
theorem holdGroup_step (s : State) (g h : Nat) : ((s.holdGroup g).group h).state = (s.group h).state
    ∧ ((s.holdGroup g).group h).step = (s.group h).step := by
  unfold holdGroup
  split
  · by_cases hg : h = g
    · subst hg; rw [modGroup_group]; exact ⟨rfl, rfl⟩
    · rw [modGroup_group_other _ _ hg]; exact ⟨rfl, rfl⟩
  · exact ⟨rfl, rfl⟩

theorem holdGroups_step (s : State) (gs : List Nat) (h : Nat) : ((s.holdGroups gs).group h).state = (s.group h).state
    ∧ ((s.holdGroups gs).group h).step = (s.group h).step := by
  induction gs generalizing s with
  | nil => exact ⟨rfl, rfl⟩
  | cons g gs ih =>
    obtain ⟨hstate, hstep⟩ := ih (s.holdGroup g)
    obtain ⟨hstate', hstep'⟩ := s.holdGroup_step g h
    exact ⟨hstate.trans hstate', hstep.trans hstep'⟩

theorem holdGroup_rests (s : State) (g h : Nat) : (s.holdGroup g).rests h = s.rests h := by
  unfold rests
  rw [(s.holdGroup_step g h).1]

theorem holdGroup_actHeld (s : State) {g : Nat} (hr : s.rests g = true) : ((s.holdGroup g).group g).actHeld = true := by
  unfold holdGroup
  rw [if_pos hr, modGroup_group]

/-- A group once held stays held. -/
theorem holdGroup_keeps_actHeld (s : State) (g h : Nat) (hh : (s.group h).actHeld = true) :
    ((s.holdGroup g).group h).actHeld = true := by
  unfold holdGroup
  split
  · by_cases hg : h = g
    · subst hg; rw [modGroup_group]
    · rw [modGroup_group_other _ _ hg, hh]
  · exact hh

theorem holdGroups_keeps_actHeld (s : State) (gs : List Nat) (h : Nat) (hh : (s.group h).actHeld = true) :
    ((s.holdGroups gs).group h).actHeld = true := by
  induction gs generalizing s with
  | nil => exact hh
  | cons g gs ih => exact ih _ (s.holdGroup_keeps_actHeld g h hh)

theorem holdGroups_actHeld (s : State) {gs : List Nat} {g : Nat} (hg : g ∈ gs) (hr : s.rests g = true) :
    ((s.holdGroups gs).group g).actHeld = true := by
  induction gs generalizing s with
  | nil => simp at hg
  | cons h gs ih =>
    rcases List.mem_cons.mp hg with rfl | hg
    · exact holdGroups_keeps_actHeld _ gs g (s.holdGroup_actHeld hr)
    · exact ih (s.holdGroup h) hg ((s.holdGroup_rests h g).trans hr)

/-- The activation is pending for the step that ACT_STEP names. -/
def setPending (s : State) : State := { s with image := { s.image with pending := some s.image.actStep } }

theorem askActivation_of_none {s : State} (h : s.verified = none) :
    s.askActivation = { s with image := { s.image with actRefusal := 1 } } := by
  unfold askActivation; rw [h]

theorem askActivation_of_refused {s : State} {new : Image} (h : s.verified = some new) (hr : s.actRefusal new true ≠ 0) :
    s.askActivation = { s with image := { s.image with actRefusal := s.actRefusal new true } } := by
  unfold askActivation; rw [h]; exact if_pos hr

theorem askActivation_of_admitted {s : State} {new : Image} (h : s.verified = some new) (hr : s.actRefusal new true = 0) :
    s.askActivation = s.setPending.holdGroups s.bothGroups := by
  unfold askActivation; rw [h]; exact if_neg (by simp [hr])

/-- What is verified, and what bars it, does not depend on the access. -/
theorem touch_actRefusal (s : State) (tag : Nat) (new : Image) (b : Bool) :
    (s.touch tag).actRefusal new b = s.actRefusal new b := rfl
theorem touch_bothGroups (s : State) (tag : Nat) : (s.touch tag).bothGroups = s.bothGroups := rfl

section

variable {s : State} {tag : Nat}

theorem execActivate_admitted {new : Image} (hr : s.running = true) (hp : s.tagPriv tag = true) (hb : s.imageBusy = false)
    (hv : s.verified = some new) (h0 : s.actRefusal new true = 0) :
    ∃ t, execActivate tag s = .next t ∧ t.image = { s.image with pending := some s.image.actStep }
      ∧ (∀ g, (t.group g).state = (s.group g).state ∧ (t.group g).step = (s.group g).step)
      ∧ (∀ g ∈ s.bothGroups, s.rests g = true → (t.group g).actHeld = true)
      ∧ OnlyChanges [.image, .host, .groups] s t := by
  refine ⟨_, execActivate_run hr hp hb, ?_⟩
  rw [askActivation_of_admitted (s := s.touch tag) hv h0, touch_bothGroups]
  have held := (s.touch tag).setPending.holdGroups_only s.bothGroups
  refine ⟨held.image_eq, fun g => holdGroups_step _ _ g, fun g hg hrest => holdGroups_actHeld _ hg hrest, ?_⟩
  exact (held.mono (by decide)).trans' (only_image (touch_only.mono (by decide)) (by decide))

theorem execActivate_refused {r : Nat} (hr : s.running = true) (hp : s.tagPriv tag = true) (hb : s.imageBusy = false)
    (h : (s.verified = none ∧ r = 1) ∨ (∃ new, s.verified = some new ∧ r = s.actRefusal new true ∧ r ≠ 0)) :
    ∃ t, execActivate tag s = .next t ∧ t.image = { s.image with actRefusal := r } ∧ OnlyChanges [.image, .host] s t := by
  have frame (i : ImageState) : OnlyChanges [.image, .host] s { s.touch tag with image := i } :=
    only_image (touch_only.mono (by decide)) (by decide)
  refine ⟨_, execActivate_run hr hp hb, ?_⟩
  rcases h with ⟨hv, rfl⟩ | ⟨new, hv, rfl, hne⟩
  · rw [askActivation_of_none (s := s.touch tag) hv]
    exact ⟨rfl, frame _⟩
  · rw [askActivation_of_refused (s := s.touch tag) hv hne, touch_actRefusal]
    exact ⟨rfl, frame _⟩

theorem cancelActivation_of_none (r : Nat) (h : s.image.pending = none) : s.cancelActivation r = s := by
  unfold cancelActivation; rw [h]

theorem cancelActivation_image (r : Nat) (h : s.image.pending.isSome = true) :
    (s.cancelActivation r).image
      = { s.image with pending := none, actRefusal := if r = 0 then s.image.actRefusal else r } := by
  obtain ⟨n, hn⟩ := Option.isSome_iff_exists.mp h
  unfold cancelActivation
  rw [hn]
  exact releaseHeld_only.image_eq

theorem execCancel_pending (hr : s.running = true) (hp : s.tagPriv tag = true) (hb : s.imageBusy = false)
    (h : s.image.pending.isSome = true) :
    ∃ t, execCancel tag s = .next t ∧ t.image = { s.image with pending := none }
      ∧ OnlyChanges [.ports, .image, .books, .host, .queues, .groups, .events, .stats] s t :=
  ⟨_, execCancel_run hr hp hb, cancelActivation_image (s := s.touch tag) 0 h, execCancel_only (execCancel_run hr hp hb)⟩

theorem execCancel_idle (hr : s.running = true) (hp : s.tagPriv tag = true) (hb : s.imageBusy = false)
    (h : s.image.pending = none) : ∃ t, execCancel tag s = .next t ∧ OnlyChanges [.host] s t := by
  refine ⟨_, execCancel_run hr hp hb, ?_⟩
  rw [cancelActivation_of_none (s := s.touch tag) 0 h]
  exact touch_only

end

/-! ### What an activation leaves of the banks (R293, R296) -/

/-- The banks, what the image block says of them, and the staging. -/
structure BankView where
  active : Bank
  shadow : Bank
  shadowState : ShadowState
  pending : Option Nat
  absent : Bool
  reloading : Bool
  staging : List StagedCell

/-- What a state holds of them. -/
def bankView (s : State) : BankView where
  active := s.image.active
  shadow := s.image.shadow
  shadowState := s.image.shadowState
  pending := s.image.pending
  absent := s.image.absent
  reloading := s.image.reloading
  staging := s.staging

end State

theorem OnlyChanges.bankView {P : List Part} {s t : State} (h : OnlyChanges P s t)
    (hi : .image ∉ P := by decide) (hs : .staging ∉ P := by decide) : t.bankView = s.bankView := by
  unfold State.bankView; rw [h.image_eq hi, show t.staging = s.staging from h .staging hs]

namespace State

theorem discardResiduals_image (s : State) (old new : Image) : (s.discardResiduals old new).image = s.image := by
  unfold discardResiduals
  refine view_foldl (view := State.image) (fun u d => raise_only.image_eq.trans ?_) _ _
  split
  · rfl
  · exact bumpBy_only.image_eq

theorem discardOld_image (s : State) (old new : Image) : (s.discardOld old new).image = s.image :=
  dropGroups_only.image_eq.trans (discardAreas_only.image_eq.trans (s.discardResiduals_image old new))

theorem exchangeBanks_image_congr {s t : State} (h : t.image = s.image) : t.exchangeBanks.image = s.exchangeBanks.image := by
  unfold exchangeBanks; rw [h]

theorem swapBanks_image (s : State) (old new : Image) (had : Bool) :
    (s.swapBanks old new had).image = s.exchangeBanks.image := by
  unfold swapBanks
  extract_lets +onlyGivenNames s₁ before s₂ said l _ s₃
  have h₁ : s₁.image = s.image := by
    show (if _ then s else s.swapTide).image = s.image
    split <;> rfl
  have h₂ : s₂.image = s₁.image := discardOld_image _ old new
  have h₃ : s₃.image = s₂.image := rfl
  have hsaid : (said.foldl State.raise s₃.exchangeBanks).image = s₃.exchangeBanks.image :=
    view_foldl (view := State.image) (fun _ _ => raise_only.image_eq) _ _
  rw [hsaid]
  exact exchangeBanks_image_congr (h₃.trans (h₂.trans h₁))

theorem takeImage_staging (s : State) (old new : Image) (had : Bool) : (s.takeImage old new had).staging = [] := by
  unfold takeImage
  exact takeEntry_only .staging (by decide)

theorem checkMap_bankView (s : State) : s.checkMap.bankView = s.bankView := by
  unfold checkMap
  split
  · dsimp only
    split
    · exact raise_only.bankView
    · rfl
  · rfl

/-- After an activation the banks stand exchanged, and nothing is staged. -/
theorem activate_bankView (s : State) (old new : Image) :
    (s.activate old new).bankView = { s.exchangeBanks.bankView with staging := [] } := by
  unfold activate
  extract_lets +onlyGivenNames had wasFramed s₁ s₂ s₃ s₄ s₅ s₆ s₇ s₈ s₉
  have h₁ : s₁.bankView = { s.exchangeBanks.bankView with staging := [] } := by
    unfold bankView
    rw [show s₁.image = s.exchangeBanks.image from takeImage_only.image_eq.trans (s.swapBanks_image old new had),
      show s₁.staging = [] from takeImage_staging _ old new had]
  have h₂ : s₂.bankView = s₁.bankView := by
    show (if _ then s₁ else s₁.checkMap).bankView = s₁.bankView
    split
    · rfl
    · exact s₁.checkMap_bankView
  have h₄ : s₄.bankView = s₂.bankView :=
    setFrame_only.bankView.trans (retakeReference_only.bankView.trans markBoot_only.bankView)
  have h₅ : s₅.bankView = s₄.bankView := by
    show (if _ then s₄.withdraw else s₄).bankView = s₄.bankView
    split
    · exact withdraw_only.bankView
    · rfl
  have h₈ : s₈.bankView = s₅.bankView :=
    askHails_only.bankView.trans (raise_only.bankView.trans takeRoles_only.bankView)
  have h₉ : s₉.bankView = s₈.bankView := by
    show (if _ then (List.range 24).foldl tryAlign s₈ else s₈).bankView = s₈.bankView
    split
    · exact view_foldl (view := bankView) (fun _ _ => tryAlign_only.bankView) _ _
    · rfl
  exact tryEnterOpens_only.bankView.trans (h₉.trans (h₈.trans (h₅.trans (h₄.trans (h₂.trans h₁)))))

/-- What the exchange says of a state whose banks stand so. -/
theorem exchanged_of_bankView {s u : State} (h : u.bankView = { s.exchangeBanks.bankView with staging := [] }) :
    u.image.active = s.image.shadow ∧ u.image.shadow = s.image.active ∧ u.image.pending = none ∧ u.image.absent = false
      ∧ u.image.reloading = false ∧ u.staging = []
      ∧ u.image.shadowState = (if s.img.isSome then .verified else .empty) :=
  ⟨congrArg BankView.active h, congrArg BankView.shadow h, congrArg BankView.pending h, congrArg BankView.absent h,
    congrArg BankView.reloading h, congrArg BankView.staging h, congrArg BankView.shadowState h⟩

/-! ### The activation at its boundary -/

section

variable {s : State} {new : Image}

theorem execActivation_due (hr : s.running = true) (hv : s.verified = some new) (hd : s.activationDue = true)
    (he : s.effectsDue = false) : execActivation s = .next (if s.actRefusal new false ≠ 0 then
      s.cancelActivation (s.actRefusal new false) else s.activate s.im new).settle := by
  unfold execActivation
  rw [whenRunning_run hr, hv]
  exact congrArg _ (if_pos (by rw [hd, he]; rfl))

theorem execActivation_not_due (h : s.activationDue = false ∨ s.effectsDue = true) : execActivation s = .next s := by
  have hd : (s.activationDue && !s.effectsDue) = false := by rcases h with h | h <;> simp [h]
  unfold execActivation whenRunning
  simp only [hd, Bool.false_eq_true, if_false]
  repeat' split
  all_goals rfl

theorem verified_image (hv : s.verified = some new) : s.image.shadow.image = some new := by
  unfold verified at hv
  split at hv
  · exact hv
  · cases hv

theorem activation_swaps (hr : s.running = true) (hv : s.verified = some new) (hd : s.activationDue = true)
    (he : s.effectsDue = false) (h0 : s.actRefusal new false = 0) :
    ∃ u, execActivation s = .next u.settle ∧ u.img = some new ∧ u.image.active = s.image.shadow
      ∧ u.image.shadow = s.image.active ∧ u.image.pending = none ∧ u.image.absent = false ∧ u.image.reloading = false
      ∧ u.staging = [] ∧ u.image.shadowState = (if s.img.isSome then .verified else .empty)
      ∧ OnlyChanges [.out, .ident, .nv, .time, .clock, .ports, .image, .books, .queues, .groups, .buckets, .staging,
          .stack, .badUnits, .blockCount, .blockRx, .areas, .events, .stats, .maint] s u := by
  have hx : execActivation s = .next (s.activate s.im new).settle := by
    rw [execActivation_due hr hv hd he, if_neg (by simp [h0])]
  obtain ⟨hactive, hshadow, hpending, habsent, hreloading, hstaging, hstate⟩ :=
    exchanged_of_bankView (s.activate_bankView s.im new)
  refine ⟨_, hx, ?_, hactive, hshadow, hpending, habsent, hreloading, hstaging, hstate, activate_only.mono (by decide)⟩
  unfold img
  rw [hactive, verified_image hv]

theorem activation_cancelled {r : Nat} (hr : s.running = true) (hv : s.verified = some new) (hd : s.activationDue = true)
    (he : s.effectsDue = false) (h : r = s.actRefusal new false) (hne : r ≠ 0) :
    ∃ u, execActivation s = .next u.settle ∧ u.image = { s.image with pending := none, actRefusal := r }
      ∧ OnlyChanges [.ports, .image, .books, .queues, .groups, .events, .stats] s u := by
  have hpending : s.image.pending.isSome = true := by
    unfold activationDue at hd
    simp only [Bool.and_eq_true] at hd
    exact hd.1.1.1.2
  have hx : execActivation s = .next (s.cancelActivation r).settle := by
    rw [execActivation_due hr hv hd he, ← h, if_pos hne]
  refine ⟨_, hx, ?_, cancelActivation_only⟩
  rw [cancelActivation_image r hpending, if_neg hne]

end

/-! ### The reload of a lost active image (R22) -/

section

variable {s : State} {n : Nat} {m : Mem}

/-- A copy is what the active image was, and authentic. -/
def copyGood (s : State) (m : Mem) : Prop :=
  Check.verify s.nv.keys s.nv.floor s.ident.serial (imageBytes m) = 0 ∧ Check.hash (imageBytes m) = s.image.active.hash

/-- The active bank holds the copy again. -/
def reloaded (s : State) (m : Mem) : State :=
  { s with image := { s.image with reloading := false, active := { s.image.active with bytes := m } } }

theorem reloadImage_good (hn : s.activeSlot = some n) (hm : m = Mem.writeBytes [] 0 (s.slotContent n)) (h : s.copyGood m) :
    s.reloadImage = ((s.reloaded m).ownGroups.foldl openOperand (s.reloaded m)).tryEnterOpens (s.reloaded m).ownGroups := by
  subst hm
  obtain ⟨hverify, hhash⟩ := h
  unfold reloadImage
  rw [hn]
  exact if_pos (by rw [hverify, hhash]; simp)

theorem reloadImage_bad (hn : s.activeSlot = some n) (hm : m = Mem.writeBytes [] 0 (s.slotContent n)) (h : ¬s.copyGood m) :
    s.reloadImage = s := by
  subst hm
  unfold reloadImage
  rw [hn]
  refine if_neg ?_
  simpa [copyGood] using h

theorem execImageReloadDone_good (hr : s.running = true) (hl : s.image.reloading = true) (hn : s.activeSlot = some n)
    (hm : m = Mem.writeBytes [] 0 (s.slotContent n)) (h : s.copyGood m) :
    ∃ t, execImageReloadDone s = .next t
      ∧ t.image = { s.image with reloading := false, active := { s.image.active with bytes := m } }
      ∧ OnlyChanges [.ports, .image, .books, .queues, .groups, .events, .stats] s t := by
  have hx : execImageReloadDone s = .next s.reloadImage := by
    unfold execImageReloadDone
    rw [whenRunning_run hr]
    exact congrArg _ (if_pos hl)
  refine ⟨_, hx, ?_, reloadImage_only⟩
  rw [reloadImage_good hn hm h]
  exact tryEnterOpens_only.image_eq.trans
    (view_foldl (view := State.image) (fun _ _ => openOperand_only.image_eq) _ (s.reloaded m))

theorem execImageReloadDone_bad (hr : s.running = true) (hn : s.activeSlot = some n)
    (hm : m = Mem.writeBytes [] 0 (s.slotContent n)) (h : ¬s.copyGood m) : execImageReloadDone s = .next s := by
  unfold execImageReloadDone
  rw [whenRunning_run hr, reloadImage_bad hn hm h, ite_self]

theorem execImageReloadDone_idle (h : s.image.reloading = false ∨ s.activeSlot = none) :
    execImageReloadDone s = .next s := by
  unfold execImageReloadDone whenRunning
  rcases h with h | h
  · simp [h]
  · simp [reloadImage, h]

end

end State

/-- Settles O50, clause by clause: the commands, the activation at its boundary, and the reload. -/
theorem activationSwapsTheBanks : Obligations.ActivationSwapsTheBanks := by
  unfold Obligations.ActivationSwapsTheBanks
  refine ⟨fun tag s hr hp hb => ⟨?_, ?_, ?_, ?_⟩, fun new s hr hv hd he => ⟨?_, ?_⟩, ?_,
    fun n m authentic s hr hl hn hm ha => ⟨fun h => ?_, fun h => ?_⟩, ?_⟩
  · exact fun new hv h0 => State.execActivate_admitted hr hp hb hv h0
  · exact fun r h => State.execActivate_refused hr hp hb h
  · exact State.execCancel_pending hr hp hb
  · exact State.execCancel_idle hr hp hb
  · exact State.activation_swaps hr hv hd he
  · exact fun r h hne => State.activation_cancelled hr hv hd he h hne
  · exact fun s h => State.execActivation_not_due h
  · exact State.execImageReloadDone_good hr hl hn hm (ha.mp h)
  · exact State.execImageReloadDone_bad hr hn hm (mt ha.mpr h)
  · exact fun s h => State.execImageReloadDone_idle h

end Sys2Proof.Machine

end

/-! ## What a hop reads

Between the start of a hop and the cells that it sends, the plan that it reads - the image, the ring and slots in force,
the step - stays as it was; of its group only contexts, statistics and the list of written residuals move. -/

section

namespace Sys2Proof.Machine

set_option Elab.async false

open Sys2Proof

namespace State

/-! ### The plan in force -/

/-- Both states have the same plan in force: the image and the engine's place in it, the tide, the ports, the buckets'
selectors, the units in use, and each group's table and step. -/
structure SamePlan (s t : State) : Prop where
  image : t.image = s.image
  ident : t.ident = s.ident
  time : t.time = s.time
  ports : t.ports = s.ports
  buckets : t.buckets = s.buckets
  dumap : t.power.dumap = s.power.dumap
  table : ∀ h, (t.group h).table = (s.group h).table
  step : ∀ h, (t.group h).step = (s.group h).step

namespace SamePlan

theorem refl (s : State) : s.SamePlan s := ⟨rfl, rfl, rfl, rfl, rfl, rfl, fun _ => rfl, fun _ => rfl⟩

theorem trans {s t u : State} (h : s.SamePlan t) (k : t.SamePlan u) : s.SamePlan u :=
  ⟨k.image.trans h.image, k.ident.trans h.ident, k.time.trans h.time, k.ports.trans h.ports, k.buckets.trans h.buckets,
    k.dumap.trans h.dumap, fun g => (k.table g).trans (h.table g), fun g => (k.step g).trans (h.step g)⟩

section

variable {s t : State} (h : s.SamePlan t)

include h

theorem img_eq : t.img = s.img := by unfold img; rw [h.image]
theorem im_eq : t.im = s.im := by unfold im; rw [h.img_eq]
theorem now_eq : t.now = s.now := by unfold now; rw [h.time]
theorem self_eq : t.self = s.self := by unfold self; rw [h.im_eq, h.ident]
theorem port_eq (p : Nat) : t.port p = s.port p := by unfold port; rw [h.ports]
theorem ringOf_eq (g : Nat) : t.ringOf g = s.ringOf g := by unfold ringOf; rw [h.im_eq, h.table]
theorem posIn_eq (r : ImgRing) : t.posIn r = s.posIn r := by unfold posIn; rw [h.ident]
theorem txPort_eq (r : ImgRing) (k : Nat) : t.txPort r k = s.txPort r k := by unfold txPort; rw [h.posIn_eq]
theorem rxPort_eq (r : ImgRing) (k : Nat) : t.rxPort r k = s.rxPort r k := by unfold rxPort; rw [h.posIn_eq, h.self_eq]
theorem blockFor_eq (k : Nat) : t.blockFor k = s.blockFor k := by unfold blockFor; rw [h.self_eq, h.im_eq]
theorem runsOf_eq (p dir : Nat) : t.runsOf p dir = s.runsOf p dir := by
  unfold runsOf; simp only [h.im_eq, h.blockFor_eq, h.table]
theorem runAt_eq (p dir slot : Nat) : t.runAt p dir slot = s.runAt p dir slot := by unfold runAt; rw [h.runsOf_eq]
theorem sequence_eq (g k p dir use : Nat) : t.sequence g k p dir use = s.sequence g k p dir use := by
  unfold sequence useSlots; rw [h.runsOf_eq]
theorem groupBays_eq (g : Nat) : t.groupBays g = s.groupBays g := by unfold groupBays; rw [h.table, h.blockFor_eq]
theorem bayLost_eq (g : Nat) : t.bayLost g = s.bayLost g := by unfold bayLost; rw [h.groupBays_eq, h.dumap]
theorem bayFabric_eq (k b : Nat) : t.bayFabric k b = s.bayFabric k b := by unfold bayFabric; rw [h.self_eq, h.im_eq]
theorem inService_eq (p : Nat) : t.inService p = s.inService p := by unfold inService; rw [h.port_eq]
theorem railServes_eq (g k : Nat) : t.railServes g k = s.railServes g k := by
  unfold railServes
  simp only [h.ringOf_eq, h.posIn_eq, h.txPort_eq, h.rxPort_eq, h.port_eq, h.im_eq, h.bayLost_eq, h.inService_eq]
theorem txOf_eq (v : OpView) (c : Nat) : t.txOf v c = s.txOf v c := by unfold txOf; simp only [h.ringOf_eq, h.txPort_eq]
theorem rxOf_eq (v : OpView) (c : Nat) : t.rxOf v c = s.rxOf v c := by unfold rxOf; simp only [h.ringOf_eq, h.rxPort_eq]
theorem chunkSlot_eq (v : OpView) (c p dir use : Nat) : t.chunkSlot v c p dir use = s.chunkSlot v c p dir use := by
  unfold chunkSlot; rw [h.sequence_eq]
theorem chunkBay_eq (v : OpView) (c p dir use : Nat) : t.chunkBay v c p dir use = s.chunkBay v c p dir use := by
  unfold chunkBay; rw [h.runAt_eq, h.chunkSlot_eq]
theorem hopBay_eq (v : OpView) (c : Nat) : t.hopBay v c = s.hopBay v c := by
  unfold hopBay; simp only [h.chunkBay_eq, h.txOf_eq, h.rxOf_eq]
theorem gradReads_eq (v : OpView) (c : Nat) : t.gradReads v c = s.gradReads v c := by
  unfold gradReads; rw [h.bayFabric_eq, h.table, h.hopBay_eq]
theorem genAddr_eq (d : ImgBucket) (b : Bool) (p : Nat) : t.genAddr d b p = s.genAddr d b p := by
  unfold genAddr genBase bucket; rw [h.buckets, h.im_eq]
theorem lcOf_eq (v : OpView) (c : Nat) (x : List Int) : t.lcOf v c x = s.lcOf v c x := by unfold lcOf; rw [h.step]
theorem structOf_eq (v : OpView) (c : Nat) (l : List (Nat × Nat)) : t.structOf v c l = s.structOf v c l := by
  unfold structOf; rw [h.step]
theorem chunkCells_eq (v : OpView) (c lap tally ledger : Nat) (ps : List Bytes) :
    t.chunkCells v c lap tally ledger ps = s.chunkCells v c lap tally ledger ps := by
  unfold chunkCells; rw [h.im_eq, h.now_eq]
theorem forwarded_eq (cells : List Bytes) : t.forwarded cells = s.forwarded cells := by unfold forwarded; rw [h.now_eq]
theorem chunkWrite_eq (v : OpView) (c bay tally : Nat) (x : List Int) (l : List (Nat × Nat)) :
    t.chunkWrite v c bay tally x l = s.chunkWrite v c bay tally x l := by
  unfold chunkWrite; simp only [h.bayFabric_eq, h.table]
theorem cellRange_eq (v : OpView) (c : Nat) : t.cellRange v c = s.cellRange v c := by
  unfold cellRange slotRange cellPlace; rw [h.im_eq, h.image]
theorem retainUnits_eq (v : OpView) (c : Nat) : t.retainUnits v c = s.retainUnits v c := by
  unfold retainUnits; rw [h.cellRange_eq]

end

end SamePlan

/-! ### Where only contexts, statistics and written residuals of the group move -/

/-- From `s` to `t` the plan stays, and so do the other groups, and of the group all but its contexts, its statistics and
the list of chunks whose residuals are written. -/
structure HopReads (g : Nat) (s t : State) : Prop where
  plan : s.SamePlan t
  others : OtherGroups g s t
  group : ∃ ctxs stats written, t.group g = { s.group g with ctxs := ctxs, stats := stats, written := written }

namespace HopReads

variable {g : Nat} {s t u : State}

theorem refl : HopReads g s s := ⟨.refl s, fun _ _ => rfl, _, _, _, rfl⟩

theorem trans (h : HopReads g s t) (k : HopReads g t u) : HopReads g s u := by
  obtain ⟨c, st, w, hg⟩ := h.group
  obtain ⟨c', st', w', hg'⟩ := k.group
  exact ⟨h.plan.trans k.plan, fun i hi => (k.others i hi).trans (h.others i hi), c', st', w', by rw [hg', hg]⟩

/-- A change of other parts. -/
theorem of_only {P : List Part} (h : OnlyChanges P s t) (hi : .image ∉ P := by decide) (hn : .ident ∉ P := by decide)
    (hc : .clock ∉ P := by decide) (ht : .time ∉ P := by decide) (hp : .ports ∉ P := by decide)
    (hb : .buckets ∉ P := by decide) (hw : .power ∉ P := by decide) (hg : .groups ∉ P := by decide) : HopReads g s t where
  plan :=
    { image := h.image_eq hi
      ident := h .ident hn
      time := by
        obtain ⟨hhall, htide, hlocal, hticks⟩ := h .clock hc
        have hstill : t.time.still = s.time.still := h .time ht
        revert hhall htide hlocal hticks hstill
        cases t.time; cases s.time
        simp only [TimeState.still]
        rintro rfl rfl rfl rfl hstill
        cases hstill
        rfl
      ports := h.ports_eq hp
      buckets := h .buckets hb
      dumap := by rw [h.power_eq hw]
      table := fun i => by rw [h.group_eq i hg]
      step := fun i => by rw [h.group_eq i hg] }
  others := fun i _ => h.group_eq i hg
  group := ⟨_, _, _, h.group_eq g hg⟩

/-- A change of the group's contexts, statistics or written residuals. -/
theorem modGroup {f : Group → Group}
    (hf : ∀ x, ∃ ctxs stats written, f x = { x with ctxs := ctxs, stats := stats, written := written }) :
    HopReads g s (s.modGroup g f) := by
  have others : OtherGroups g s (s.modGroup g f) := fun i hi => modGroup_group_other _ _ hi
  have group : ∃ ctxs stats written, (s.modGroup g f).group g
      = { s.group g with ctxs := ctxs, stats := stats, written := written } := by
    rw [modGroup_group]; exact hf _
  obtain ⟨c, st, w, hg⟩ := group
  have both (view : Group → Nat) (hv : view ((s.modGroup g f).group g) = view (s.group g)) (i : Nat) :
      view ((s.modGroup g f).group i) = view (s.group i) := by
    by_cases hi : i = g
    · subst hi; exact hv
    · rw [others i hi]
  exact ⟨⟨rfl, rfl, rfl, rfl, rfl, rfl, both Group.table (by rw [hg]), both Group.step (by rw [hg])⟩, others, c, st, w, hg⟩

variable (h : HopReads g s t)

include h

theorem stepRuns_eq : t.stepRuns g = s.stepRuns g := by
  obtain ⟨_, _, _, hg⟩ := h.group
  unfold stepRuns; rw [hg]

theorem entry_eq (b c : Nat) : t.entry g b c = s.entry g b c := by
  obtain ⟨_, _, _, hg⟩ := h.group
  unfold entry; rw [hg]

theorem retainedOf_eq (b c : Nat) : t.retainedOf g b c = s.retainedOf g b c := by
  obtain ⟨_, _, _, hg⟩ := h.group
  unfold retainedOf; rw [hg]

end HopReads

/-! ### Contexts -/

theorem find?_updateWhere {α : Type} {p : α → Bool} {f : α → α} (hf : ∀ x, p x = true → p (f x) = true) (l : List α) :
    (updateWhere p f l).find? p = (l.find? p).map f := by
  induction l with
  | nil => rfl
  | cons x l ih =>
    unfold updateWhere at ih ⊢
    rw [List.map_cons]
    by_cases hx : p x = true
    · rw [if_pos hx, List.find?_cons_of_pos (hf x hx), List.find?_cons_of_pos hx]; rfl
    · rw [if_neg hx, List.find?_cons_of_neg hx, List.find?_cons_of_neg hx, ih]

theorem modCtx_ctx {s : State} {g b c : Nat} {f : Ctx → Ctx} (hf : ∀ x, (f x).bucket = x.bucket ∧ (f x).chunk = x.chunk) :
    (s.modCtx g b c f).ctx g b c = (s.ctx g b c).map f := by
  unfold modCtx ctx
  rw [modGroup_group]
  refine find?_updateWhere (fun x hx => ?_) _
  rw [(hf x).1, (hf x).2]
  exact hx

theorem ctx_congr {s t : State} {g : Nat} (h : (t.group g).ctxs = (s.group g).ctxs) (b c : Nat) : t.ctx g b c = s.ctx g b c := by
  unfold ctx; rw [h]

theorem modCtx_reads (s : State) (g b c : Nat) (f : Ctx → Ctx) : HopReads g s (s.modCtx g b c f) :=
  .modGroup fun _ => ⟨_, _, _, rfl⟩

theorem modStats_reads (s : State) (g b : Nat) (f : BucketStats → BucketStats) : HopReads g s (s.modStats g b f) :=
  .modGroup fun _ => ⟨_, _, _, rfl⟩

theorem takeCtx_reads (s : State) (v : OpView) (c bay : Nat) (ph : CtxPhase) : HopReads v.g s (s.takeCtx v c bay ph) := by
  unfold takeCtx
  split
  · exact .refl
  · exact .modGroup fun _ => ⟨_, _, _, rfl⟩

/-- The chunk has a context once one is taken, the one it had or a new one. -/
theorem takeCtx_ctx (s : State) (v : OpView) (c bay : Nat) (ph : CtxPhase) :
    (s.takeCtx v c bay ph).ctx v.g v.d.bucket c = some ((s.ctx v.g v.d.bucket c).getD (s.newCtx v c bay ph)) := by
  unfold takeCtx
  cases h : s.ctx v.g v.d.bucket c with
  | some x => exact h
  | none =>
    unfold ctx at h ⊢
    rw [if_neg (by simp), modGroup_group]
    dsimp only
    rw [List.find?_append, h]
    simp [newCtx]

theorem setFaults_reads (s : State) (g : Nat) (f : FaultStatus → FaultStatus) : HopReads g s (s.setFaults f) :=
  ⟨⟨rfl, rfl, rfl, rfl, rfl, rfl, fun _ => rfl, fun _ => rfl⟩, fun _ _ => rfl, _, _, _, rfl⟩

theorem sramUE_reads (s : State) (g region code : Nat) : HopReads g s (s.sramUE region code) := by
  unfold sramUE
  exact ((s.setFaults_reads g _).trans (.of_only bump_only)).trans (.of_only raise_only)

theorem stackUE_reads (s : State) (g unit code : Nat) : HopReads g s (s.stackUE unit code) := by
  unfold stackUE
  exact ((s.setFaults_reads g _).trans (.of_only bump_only)).trans (.of_only raise_only)

theorem HopReads.foldl {α : Type} {g : Nat} {f : State → α → State} (hf : ∀ u a, HopReads g u (f u a)) (l : List α)
    (s : State) : HopReads g s (l.foldl f s) := by
  induction l generalizing s with
  | nil => exact .refl
  | cons a l ih => exact (hf s a).trans (ih _)

theorem noteErrors_reads (s : State) (g : Nat) (env : HopEnv) : HopReads g s (s.noteErrors env) := by
  have counted (u : State) (k : EStat) (n : Nat) : HopReads g u (if n = 0 then u else u.bumpBy k n) := by
    split
    · exact .refl
    · exact .of_only bumpBy_only
  unfold noteErrors
  exact (counted s _ _).trans ((counted _ _ _).trans (.foldl (fun u _ => u.sramUE_reads g 0 0) _ _))

/-! ### Residuals (R89, R198) -/

/-- Generation B of a chunk is written, but for the group's list of it. -/
def genStored (s : State) (v : OpView) (c : Nat) (st : ResidualStore) : State :=
  let a := s.genAddr v.d true (v.base c)
  let s := ({ s with stack := s.stack.writeBytes a st.bytes } : State).writeUnits a st.bytes.length
  let s := if st.sat.isEmpty then s else
    (s.bumpBy .resSat st.sat.length).raise
      { type := 0x0015, severity := 1, group := some v.g, subject := v.d.bucket,
        arg := (v.base c + st.sat.headD 0) % 2 ^ 32, rings := s.ringsG v.g }
  if st.under = 0 then s else s.bumpBy .resUnderflow st.under

theorem writeGen_eq (s : State) (v : OpView) (c : Nat) (r : Vec) :
    s.writeGen v c r = (s.genStored v c (storeResiduals v.d r)).modGroup v.g
      (fun gr => { gr with written := addOnce gr.written (v.d.bucket * 2 ^ 20 + c) }) := rfl

/-- The stacks hold the bytes, and nothing else of them changes. -/
theorem genStored_only (s : State) (v : OpView) (c : Nat) (st : ResidualStore) :
    OnlyChanges [.badUnits, .events, .stats, .maint]
      { s with stack := s.stack.writeBytes (s.genAddr v.d true (v.base c)) st.bytes } (s.genStored v c st) := by
  unfold genStored
  extract_lets +onlyGivenNames a s₁ s₂
  have h₁ : OnlyChanges [.badUnits, .events, .stats, .maint] { s with stack := s.stack.writeBytes a st.bytes } s₁ :=
    writeUnits_only.mono (by decide)
  have h₂ : OnlyChanges [.badUnits, .events, .stats, .maint] s₁ s₂ :=
    only_ite .refl ((raise_only.mono (by decide)).trans' (bumpBy_only.mono (by decide)))
  exact (h₁.trans h₂).trans (only_ite .refl (bumpBy_only.mono (by decide)))

theorem genStored_reads (s : State) (v : OpView) (g c : Nat) (st : ResidualStore) : HopReads g s (s.genStored v c st) :=
  .of_only (P := [.stack, .badUnits, .events, .stats, .maint])
    (((s.genStored_only v c st).mono (by decide)).trans' (only_stack .refl (by decide)))

theorem writeGen_reads (s : State) (v : OpView) (c : Nat) (r : Vec) : HopReads v.g s (s.writeGen v c r) := by
  rw [writeGen_eq]
  exact (s.genStored_reads v v.g c _).trans (.modGroup fun _ => ⟨_, _, _, rfl⟩)

theorem writeGen_stack (s : State) (v : OpView) (c : Nat) (r : Vec) :
    (s.writeGen v c r).stack = s.stack.writeBytes (s.genAddr v.d true (v.base c)) (storeResiduals v.d r).bytes := by
  rw [writeGen_eq]
  exact (s.genStored_only v c _).stack_eq

theorem writeGen_ctx (s : State) (v : OpView) (c : Nat) (r : Vec) (b e : Nat) :
    (s.writeGen v c r).ctx v.g b e = s.ctx v.g b e := by
  refine ctx_congr ?_ b e
  rw [writeGen_eq, modGroup_group]
  show ((s.genStored v c _).group v.g).ctxs = _
  rw [(s.genStored_only v c _).group_eq v.g]
  rfl

theorem writeGen_written (s : State) (v : OpView) (c : Nat) (r : Vec) :
    ((s.writeGen v c r).group v.g).written = addOnce (s.group v.g).written (v.d.bucket * 2 ^ 20 + c) := by
  rw [writeGen_eq, modGroup_group]
  show addOnce ((s.genStored v c _).group v.g).written _ = _
  rw [(s.genStored_only v c _).group_eq v.g]
  rfl

/-! ### Counting, statistics, the self-check -/

theorem keepStats_reads (s : State) (v : OpView) (c bay cove : Nat) (w : HopWork) :
    HopReads v.g s (s.keepStats v c bay cove w) :=
  (s.modCtx_reads _ _ _ _).trans (modStats_reads _ _ _ _)

/-- A context with what the hop found entered in it. -/
def ctxFound (w : HopWork) (cove : Nat) (x : Ctx) : Ctx :=
  { x with
    clip := w.enc.count.clipped
    ovf := w.enc.overflow
    nonfinite := decide (w.con.nonfinite ≠ 0)
    cove := cove }

theorem keepStats_ctx (s : State) (v : OpView) (c bay cove : Nat) (w : HopWork) :
    (s.keepStats v c bay cove w).ctx v.g v.d.bucket c = (s.ctx v.g v.d.bucket c).map (ctxFound w cove) := by
  have stats : ((s.keepStats v c bay cove w).group v.g).ctxs
      = ((s.modCtx v.g v.d.bucket c (ctxFound w cove)).group v.g).ctxs := by
    unfold keepStats noteMax modStats
    rw [modGroup_group]
    rfl
  rw [ctx_congr stats]
  exact modCtx_ctx fun _ => ⟨rfl, rfl⟩

/-- Counting, forming the statistics and writing the residual, in the order of the hop. -/
def hopKept (s : State) (v : OpView) (c bay : Nat) (w : HopWork) : State :=
  ((s.countHop v c w).keepStats v c bay (s.hopCove v c) w).writeGen v c
    (newResidual v.d v.ext (v.base c) v.l.et w.con.u w.delta)

theorem hopKept_reads (s : State) (v : OpView) (c bay : Nat) (w : HopWork) : HopReads v.g s (s.hopKept v c bay w) :=
  (HopReads.of_only countHop_only).trans ((keepStats_reads _ _ _ _ _ _).trans (writeGen_reads _ _ _ _))

theorem hopKept_stack (s : State) (v : OpView) (c bay : Nat) (w : HopWork) :
    (s.hopKept v c bay w).stack = s.genWrites v (fun _ _ => newResidual v.d v.ext (v.base c) v.l.et w.con.u w.delta) [c] := by
  have plan : s.SamePlan ((s.countHop v c w).keepStats v c bay (s.hopCove v c) w) :=
    ((HopReads.of_only (g := v.g) countHop_only).trans (keepStats_reads _ _ _ _ _ _)).plan
  unfold hopKept
  rw [writeGen_stack, plan.genAddr_eq, keepStats_only.stack_eq, countHop_only.stack_eq]
  rfl

theorem hopKept_ctx {s : State} {v : OpView} {c : Nat} {x : Ctx} (hx : s.ctx v.g v.d.bucket c = some x) (bay : Nat)
    (w : HopWork) : (s.hopKept v c bay w).ctx v.g v.d.bucket c
      = some (ctxFound w (s.hopCove v c) x) := by
  unfold hopKept
  rw [writeGen_ctx, keepStats_ctx, ctx_congr (congrArg Group.ctxs (countHop_only.group_eq v.g)), hx]
  rfl

theorem hopKept_only (s : State) (v : OpView) (c bay : Nat) (w : HopWork) :
    OnlyChanges [.groups, .stack, .badUnits, .events, .stats, .maint] s (s.hopKept v c bay w) :=
  (writeGen_only.trans' (keepStats_only.mono (by decide))).trans' (countHop_only.mono (by decide))

/-! ### The cells that go out -/

theorem otherGroups_trans {g : Nat} {s t u : State} (h : OtherGroups g s t) (k : OtherGroups g t u) : OtherGroups g s u :=
  fun i hi => (k i hi).trans (h i hi)

theorem modGroup_others (s : State) (g : Nat) (f : Group → Group) : OtherGroups g s (s.modGroup g f) :=
  fun _ hi => modGroup_group_other _ _ hi

theorem sendChunk_cellsSent (s : State) (v : OpView) (c lap : Nat) (cells : List Bytes) :
    s.cellsSent (s.sendChunk v c lap cells) v c lap cells := by
  rintro p placed hp rfl
  unfold sendChunk
  rw [hp]
  dsimp only
  cases s.railServes v.g (v.railOf c)
  · exact ⟨rfl, (List.append_nil _).symm⟩
  · unfold placeCells
    rw [if_pos rfl, modPort_port]
    exact ⟨rfl, rfl⟩

/-- No cell goes out where the member forwards none. -/
theorem cellsSent_nil (s : State) (v : OpView) (c lap : Nat) : s.cellsSent s v c lap [] := by
  rintro p placed - rfl
  simp

/-- What was sent, a state with the same plan and the ports' slots and copies as they were left, shows. -/
theorem cellsSent_congr {s s' t t' : State} {v : OpView} {c lap : Nat} {cells : List Bytes} (h : s'.cellsSent t v c lap cells)
    (plan : s.SamePlan s') (ht : ∀ p, (t'.port p).tx = (t.port p).tx ∧ (t'.port p).kept = (t.port p).kept) :
    s.cellsSent t' v c lap cells := by
  intro p placed hp hplaced
  have hp' : (s'.ringOf v.g).bind (fun r => s'.txPort r (v.railOf c)) = some p := by
    simp only [plan.ringOf_eq, plan.txPort_eq]; exact hp
  obtain ⟨htx, hkept⟩ := h p placed hp' (by rw [plan.railServes_eq, plan.sequence_eq]; exact hplaced)
  rw [(ht p).1, (ht p).2, htx, hkept, plan.port_eq, plan.now_eq]
  exact ⟨rfl, rfl⟩

theorem portSlots_of_ports {s t : State} (h : t.ports = s.ports) (p : Nat) :
    (t.port p).tx = (s.port p).tx ∧ (t.port p).kept = (s.port p).kept := by
  unfold port; rw [h]; exact ⟨rfl, rfl⟩

/-- An express message takes no slot. -/
theorem send_portSlots (s : State) (m : Msg) (p : Nat) :
    ((s.send m).port p).tx = (s.port p).tx ∧ ((s.send m).port p).kept = (s.port p).kept := by
  unfold send
  split
  · rename_i q _
    unfold sendOn
    by_cases hp : p = q
    · subst hp; rw [modPort_port]; exact ⟨rfl, rfl⟩
    · rw [modPort_port_other _ _ hp]; exact ⟨rfl, rfl⟩
  · exact ⟨rfl, rfl⟩

/-! ### What a hop enters at its end -/

theorem retain_others (s : State) (v : OpView) (c : Nat) (f : Retained → Retained) : OtherGroups v.g s (s.retain v c f) :=
  modGroup_others _ _ _

theorem retain_ctx (s : State) (v : OpView) (c : Nat) (f : Retained → Retained) (b e : Nat) :
    (s.retain v c f).ctx v.g b e = s.ctx v.g b e := by
  refine ctx_congr ?_ b e
  unfold retain
  rw [modGroup_group]
  dsimp only
  split <;> rfl

theorem modEntry_others (s : State) (g b c : Nat) (f : RecEntry → RecEntry) : OtherGroups g s (s.modEntry g b c f) :=
  modGroup_others _ _ _

theorem modEntry_ctx (s : State) (g b c : Nat) (f : RecEntry → RecEntry) (b' c' : Nat) :
    (s.modEntry g b c f).ctx g b' c' = s.ctx g b' c' := by
  refine ctx_congr ?_ b' c'
  unfold modEntry modRecord
  rw [modGroup_group]

theorem modCtx_others (s : State) (g b c : Nat) (f : Ctx → Ctx) : OtherGroups g s (s.modCtx g b c f) :=
  modGroup_others _ _ _

theorem replaysOf_of_ctx {s : State} {v : OpView} {c : Nat} {x : Ctx} (hx : s.ctx v.g v.d.bucket c = some x) :
    s.replaysOf v c = x.replays := by unfold replaysOf; rw [hx]; rfl

end State

end Sys2Proof.Machine
end

/-! ## The ebb hops (R143, R181, R182) -/

section

namespace Sys2Proof.Machine

set_option Elab.async false

open Sys2Proof

namespace State

/-! ### Before the contribution is formed -/

theorem readGen_congr {s t : State} (plan : s.SamePlan t) (hs : t.stack = s.stack) (v : OpView) (b : Bool) (c : Nat) :
    t.readGen v b c = s.readGen v b c := by
  unfold readGen
  rw [plan.genAddr_eq, hs]

/-- The state in which a hop forms its contribution: the chunk has its context, what the reads met is noted, and the part
of the input region has been asked for. -/
def hopOpened (s : State) (v : OpView) (c : Nat) (ph : CtxPhase) (env : HopEnv) : State :=
  let s := (s.takeCtx v c (s.hopBay v c) ph).noteErrors env
  if v.l.deferred then s else s.emit (s.gradReads v c)

section

variable (s : State) (v : OpView) (c : Nat) (ph : CtxPhase) (env : HopEnv)

/-- A hop's context is taken and its errors are noted. -/
theorem noted_reads : HopReads v.g s ((s.takeCtx v c (s.hopBay v c) ph).noteErrors env) :=
  (takeCtx_reads _ _ _ _ _).trans (noteErrors_reads _ _ _)

theorem noted_only : OnlyChanges [.power, .groups, .events, .stats] s
    ((s.takeCtx v c (s.hopBay v c) ph).noteErrors env) :=
  (noteErrors_only.mono (by decide)).trans' (takeCtx_only.mono (by decide))

theorem hopOpened_reads : HopReads v.g s (s.hopOpened v c ph env) := by
  unfold hopOpened
  extract_lets +onlyGivenNames s₁
  have h₁ : HopReads v.g s s₁ := s.noted_reads v c ph env
  split
  · exact h₁
  · exact h₁.trans (.of_only emit_only)

theorem hopOpened_only : OnlyChanges [.out, .power, .groups, .events, .stats] s (s.hopOpened v c ph env) :=
  (only_ite .refl (emit_only.mono (by decide))).trans' ((s.noted_only v c ph env).mono (by decide))

theorem hopOpened_out :
    (s.hopOpened v c ph env).out = s.out ++ (if v.l.deferred then [] else [s.gradReads v c]) := by
  have hout : ((s.takeCtx v c (s.hopBay v c) ph).noteErrors env).out = s.out := (s.noted_only v c ph env).out_eq
  have hreads := (s.noted_reads v c ph env).plan.gradReads_eq v c
  unfold hopOpened
  cases v.l.deferred
  · simp [emit, hout, hreads]
  · simp [hout]

theorem hopOpened_ctx : (s.hopOpened v c ph env).ctx v.g v.d.bucket c
    = some ((s.ctx v.g v.d.bucket c).getD (s.newCtx v c (s.hopBay v c) ph)) := by
  have kept : OnlyChanges [.out, .power, .events, .stats] (s.takeCtx v c (s.hopBay v c) ph) (s.hopOpened v c ph env) :=
    (only_ite .refl (emit_only.mono (by decide))).trans' (noteErrors_only.mono (by decide))
  rw [ctx_congr (congrArg Group.ctxs (kept.group_eq v.g)), takeCtx_ctx]

theorem hopOpened_replaysOf : (s.hopOpened v c ph env).replaysOf v c = s.replaysOf v c := by
  unfold replaysOf
  rw [hopOpened_ctx]
  cases s.ctx v.g v.d.bucket c <;> rfl

theorem hopOpened_readGen (b : Bool) : (s.hopOpened v c ph env).readGen v b c = s.readGen v b c :=
  readGen_congr (s.hopOpened_reads v c ph env).plan (s.hopOpened_only v c ph env).stack_eq v b c

theorem noted_genBad (b : Bool) (met : List Nat) :
    ((s.takeCtx v c (s.hopBay v c) ph).noteErrors env).genBad v b c met = s.genBad v b c met := by
  unfold genBad badIn
  rw [(s.noted_reads v c ph env).plan.genAddr_eq, (s.noted_only v c ph env).badUnits_eq]

end

theorem stagedCells_congr {s t : State} (him : t.im = s.im) (hs : t.staging = s.staging) (v : OpView) (c lap : Nat) :
    t.stagedCells v c lap = s.stagedCells v c lap := by
  unfold stagedCells; rw [him, hs]

theorem hopOpened_stagedCells (s : State) (v : OpView) (c : Nat) (ph : CtxPhase) (env : HopEnv) (lap : Nat) :
    (s.hopOpened v c ph env).stagedCells v c lap = s.stagedCells v c lap :=
  stagedCells_congr (s.hopOpened_reads v c ph env).plan.im_eq ((s.hopOpened_only v c ph env) .staging (by decide)) v c lap

/-- Where no context error and no unreadable residual comes first, the hop goes on in the opened state. -/
theorem withReads_opened {s : State} {v : OpView} {c : Nat} {env : HopEnv} (hue : env.contextUE = false)
    (hbad : s.genBad v false c env.stackUE = []) (ph : CtxPhase) (f : State → State) :
    (s.takeCtx v c (s.hopBay v c) ph).withReads v c env f = f (s.hopOpened v c ph env) := by
  unfold withReads
  dsimp only
  rw [if_neg (by simp [hue]), noted_genBad, hbad]
  rfl

/-- The cells of a lap that are all there. -/
theorem withCells_all {s : State} {v : OpView} {c lap : Nat} {got : List Bytes} (h : s.stagedCells v c lap = got.map some)
    (env : HopEnv) (f : State → List Bytes → State) :
    s.withCells v c lap env f = (f s (withErrors got env.stagedIn)).dropStaged v c lap := by
  unfold withCells
  dsimp only
  rw [h, if_neg (by simp), List.filterMap_map]
  simp

/-! ### After the encoding -/

/-- Generation B of one chunk as a hop leaves it. -/
theorem genWrites_single (s : State) (v : OpView) (c : Nat) (r : Vec) :
    s.genWrites v (fun _ _ => r) [c] = s.stack.writeBytes (s.genAddr v.d true (v.base c)) (storeResiduals v.d r).bytes := rfl

/-- Nothing else of the stacks changes with it. -/
theorem genWrites_outside {s : State} {v : OpView} {c a : Nat} {r : Vec}
    (ha : s.outsideGenB v c (storeResiduals v.d r).bytes.length a) :
    (s.genWrites v (fun _ _ => r) [c]).read a = s.stack.read a := by
  unfold outsideGenB at ha
  rw [genWrites_single]
  exact Mem.read_writeBytes_other (by omega)

/-- What an ebb hop leaves of its chunk, and what it gave out. -/
structure EbbFinished (s t : State) (v : OpView) (c : Nat) (env : HopEnv) (w : HopWork) (ledgerIn ledgerOut tally : Nat)
    (outs : List Output) : Prop where
  ctx : ∃ x, t.ctx v.g v.d.bucket c = some x ∧ x.ebbDone = true ∧ x.ebbIn = ledgerIn ∧ x.ebbOut = ledgerOut
    ∧ x.tally = tally ∧ x.clip = w.enc.count.clipped
  out : t.out = s.out ++ outs
  sent : s.cellsSent t v c 0
    (withErrors (s.chunkCells v c 0 tally (ledgerOut + s.replaysOf v c % 4 * 2 ^ 62) w.enc.payloads) env.stagedOut)
  stack : t.stack = s.genWrites v (fun _ _ => newResidual v.d v.ext (v.base c) v.l.et w.con.u w.delta) [c]
  others : OtherGroups v.g s t

/-- A hop that began in `s` and went on in `s'`. -/
theorem EbbFinished.of_reads {s s' t : State} {v : OpView} {c : Nat} {env : HopEnv} {w : HopWork}
    {ledgerIn ledgerOut tally : Nat} {outs : List Output} (h : EbbFinished s' t v c env w ledgerIn ledgerOut tally [])
    (reads : HopReads v.g s s') (hout : s'.out = s.out ++ outs) (hstack : s'.stack = s.stack)
    (hreplays : s'.replaysOf v c = s.replaysOf v c) : EbbFinished s t v c env w ledgerIn ledgerOut tally outs where
  ctx := h.ctx
  out := by rw [h.out, hout, List.append_nil]
  sent := by
    have sent := h.sent
    rw [reads.plan.chunkCells_eq, hreplays] at sent
    exact cellsSent_congr sent reads.plan (fun _ => ⟨rfl, rfl⟩)
  stack := by rw [h.stack, genWrites_single, genWrites_single, reads.plan.genAddr_eq, hstack]
  others := otherGroups_trans reads.others h.others

/-- The staged cells are dropped at its end. -/
theorem EbbFinished.dropStaged {s t : State} {v : OpView} {c : Nat} {env : HopEnv} {w : HopWork}
    {ledgerIn ledgerOut tally : Nat} {outs : List Output} (h : EbbFinished s t v c env w ledgerIn ledgerOut tally outs)
    (lap : Nat) : EbbFinished s (t.dropStaged v c lap) v c env w ledgerIn ledgerOut tally outs :=
  ⟨h.ctx, h.out, h.sent, h.stack, h.others⟩

theorem hopKept_replaysOf {s : State} {v : OpView} {c : Nat} {x : Ctx} (hx : s.ctx v.g v.d.bucket c = some x) (bay : Nat)
    (w : HopWork) : (s.hopKept v c bay w).replaysOf v c = s.replaysOf v c := by
  rw [replaysOf_of_ctx hx, replaysOf_of_ctx (hopKept_ctx hx bay w)]
  rfl

/-- The context of a chunk whose ebb hop is done. -/
def ebbSentCtx (ledgerIn ledgerOut tally : Nat) (x : Ctx) : Ctx :=
  { x with phase := phaseOr x .ebbSent, ebbIn := ledgerIn, ebbOut := ledgerOut, ledger := ledgerOut, tally := tally,
           ebbDone := true }

/-- Residual, self-check, cells and record of an ebb hop, for a chunk that has its context. -/
theorem finishEbb_finished {s : State} {v : OpView} {c : Nat} {x : Ctx} (hx : s.ctx v.g v.d.bucket c = some x) (env : HopEnv)
    (w : HopWork) (inp : List Int) (ledgerIn ledgerOut tally : Nat) (ebbCells : List Bytes) :
    EbbFinished s (s.finishEbb v c env w inp ledgerIn ledgerOut tally ebbCells) v c env w ledgerIn ledgerOut tally [] := by
  unfold finishEbb
  extract_lets +onlyGivenNames b bay s₀ s₁ cells staged s₂ s₃ s₄ s₅
  have e₁ : s₁ = s.hopKept v c bay w := rfl
  have reads₁ : HopReads v.g s s₁ := e₁ ▸ s.hopKept_reads v c bay w
  have hcells : cells = s.chunkCells v c 0 tally (ledgerOut + s.replaysOf v c % 4 * 2 ^ 62) w.enc.payloads := by
    show s₁.chunkCells v c 0 tally (ledgerOut + s₁.replaysOf v c % 4 * 2 ^ 62) w.enc.payloads = _
    rw [reads₁.plan.chunkCells_eq, e₁, hopKept_replaysOf hx]
  have reads₂ : HopReads v.g s s₂ := reads₁.trans (.of_only selfCheck_only)
  have sent : s₂.cellsSent s₃ v c 0 staged := sendChunk_cellsSent _ _ _ _ _
  have ctx₃ : s₃.ctx v.g v.d.bucket c = some (ctxFound w (s.hopCove v c) x) := by
    have kept : (s₃.group v.g) = s₁.group v.g := (sendChunk_only.group_eq v.g).trans (selfCheck_only.group_eq v.g)
    rw [ctx_congr (congrArg Group.ctxs kept), e₁, hopKept_ctx hx]
  have ctx₄ : s₄.ctx v.g v.d.bucket c
      = some (ebbSentCtx ledgerIn ledgerOut tally (ctxFound w (s.hopCove v c) x)) :=
    (modCtx_ctx (f := ebbSentCtx ledgerIn ledgerOut tally) fun _ => ⟨rfl, rfl⟩).trans (congrArg _ ctx₃)
  have others₃ : OtherGroups v.g s s₃ := otherGroups_trans reads₂.others (fun i _ => sendChunk_only.group_eq i)
  have stack₃ : s₃.stack = s.genWrites v (fun _ _ => newResidual v.d v.ext (v.base c) v.l.et w.con.u w.delta) [c] := by
    rw [sendChunk_only.stack_eq, selfCheck_only.stack_eq, e₁, hopKept_stack]
  have out₃ : s₃.out = s.out := by
    rw [sendChunk_only.out_eq, selfCheck_only.out_eq, e₁, (s.hopKept_only v c bay w).out_eq]
  have ctx₅ : s₅.ctx v.g v.d.bucket c = s₄.ctx v.g v.d.bucket c := retain_ctx _ _ _ _ _ _
  have others₅ : OtherGroups v.g s s₅ :=
    otherGroups_trans others₃ (otherGroups_trans (modCtx_others _ _ _ _ _) (retain_others _ _ _ _))
  have ports₅ : s₅.ports = s₃.ports := retain_only.ports_eq.trans modCtx_only.ports_eq
  have stack₅ : s₅.stack = s₃.stack := retain_only.stack_eq.trans modCtx_only.stack_eq
  have out₅ : s₅.out = s₃.out := retain_only.out_eq.trans modCtx_only.out_eq
  clear_value s₅ s₄ s₃ s₂ s₁
  have ctx₆ (f : RecEntry → RecEntry) := (modEntry_ctx s₅ v.g b c f v.d.bucket c).trans (ctx₅.trans ctx₄)
  refine ⟨⟨_, ctx₆ _, rfl, rfl, rfl, rfl, rfl⟩, ?_, ?_, ?_, ?_⟩
  · rw [modEntry_only.out_eq, out₅, out₃, List.append_nil]
  · rw [← hcells]
    exact cellsSent_congr sent reads₂.plan (portSlots_of_ports (modEntry_only.ports_eq.trans ports₅))
  · exact modEntry_only.stack_eq.trans (stack₅.trans stack₃)
  · exact otherGroups_trans others₅ (modEntry_others _ _ _ _ _)

/-! ### The hops -/

section

variable {s : State} {v : OpView} {c : Nat} {env : HopEnv} {w : HopWork}

/-- The first member's hop, where its reads succeed. -/
theorem ebbFirst_finished (hue : env.contextUE = false) (hbad : s.genBad v false c env.stackUE = [])
    (hw : w = hopWork v c v.l.deferred v.l.deferred env.grad (s.readGen v false c) (noInput (v.limit c)) []) :
    EbbFinished s (s.ebbFirst v c env) v c env w 0 (s.lcOf v c w.delta) (bnat (!v.l.deferred))
      (if v.l.deferred then [] else [s.gradReads v c]) := by
  have opened := s.hopOpened_reads v c .launched env
  suffices h : EbbFinished (s.hopOpened v c .launched env) (s.ebbFirst v c env) v c env w 0 (s.lcOf v c w.delta)
      (bnat (!v.l.deferred)) [] from
    h.of_reads opened (hopOpened_out ..) (s.hopOpened_only v c .launched env).stack_eq (hopOpened_replaysOf ..)
  subst hw
  unfold ebbFirst
  extract_lets +onlyGivenNames s₁
  rw [show s₁.withReads v c env _ = _ from withReads_opened hue hbad .launched _]
  dsimp only
  rw [hopOpened_readGen, opened.plan.lcOf_eq]
  exact finishEbb_finished (s.hopOpened_ctx v c .launched env) _ _ _ _ _ _ _

theorem countBad_reads (s : State) (v : OpView) (g malformed : Nat) (t : Trailer) : HopReads g s (s.countBad v malformed t) :=
  .of_only countBad_only

/-- A middle member's hop, where its reads succeed and every cell is there. -/
theorem ebbMiddle_finished {got cells : List Bytes} {u : Trailer} {d : Decoded} (hue : env.contextUE = false)
    (hbad : s.genBad v false c env.stackUE = []) (hgot : s.stagedCells v c 0 = got.map some)
    (hcells : cells = withErrors got env.stagedIn) (hu : u = trailerOf 0 (s.replaysOf v c) cells)
    (hd : d = (decodeCells v c cells).1)
    (hw : w = hopWork v c v.l.deferred v.l.deferred env.grad (s.readGen v false c) d (decodeCells v c cells).2) :
    EbbFinished s (s.ebbMiddle v c env) v c env w u.ledger
      (if u.ok && d.malformed == 0 then (u.ledger + s.lcOf v c w.delta) % lcMod else lcMod)
      ((u.tally + bnat (!v.l.deferred)) % 2 ^ 15) (if v.l.deferred then [] else [s.gradReads v c]) := by
  have counted := (s.hopOpened_reads v c .ebbWait env).trans (countBad_reads _ v v.g d.malformed u)
  have opened := s.hopOpened_only v c .ebbWait env
  have ctx := s.hopOpened_ctx v c .ebbWait env
  rw [← ctx_congr (congrArg Group.ctxs ((countBad_only (a1 := v) (a2 := d.malformed) (a3 := u)).group_eq v.g))] at ctx
  suffices h : EbbFinished ((s.hopOpened v c .ebbWait env).countBad v d.malformed u) (s.ebbMiddle v c env) v c env w u.ledger
      (if u.ok && d.malformed == 0 then (u.ledger + s.lcOf v c w.delta) % lcMod else lcMod)
      ((u.tally + bnat (!v.l.deferred)) % 2 ^ 15) [] from
    h.of_reads counted (countBad_only.out_eq.trans (hopOpened_out ..)) (countBad_only.stack_eq.trans opened.stack_eq)
      (by rw [replaysOf_of_ctx ctx, ← hopOpened_replaysOf, replaysOf_of_ctx (s.hopOpened_ctx v c .ebbWait env)])
  subst hcells hu hd hw
  unfold ebbMiddle
  extract_lets +onlyGivenNames s₁
  rw [show s₁.withReads v c env _ = _ from withReads_opened hue hbad .ebbWait _,
    withCells_all ((s.hopOpened_stagedCells v c .ebbWait env 0).trans hgot)]
  dsimp only
  rw [hopOpened_replaysOf, counted.plan.lcOf_eq,
    readGen_congr counted.plan (countBad_only.stack_eq.trans opened.stack_eq)]
  exact (finishEbb_finished ctx _ _ _ _ _ _ _).dropStaged 0

end

/-! ### Where a read fails -/

/-- The token of an abort that ends a step in which nothing has been aborted is the one kept. -/
theorem abort_kept {s : State} {g : Nat} (h : s.stepRuns g = true) (code chunk bucket : Nat) :
    ((s.abort g code chunk bucket).group g).abort.map (·.kept) = some (code, abortValue chunk bucket) := by
  unfold stepRuns at h
  simp only [Bool.and_eq_true, Bool.or_eq_true, beq_iff_eq, Option.isNone_iff_eq_none] at h
  obtain ⟨hnone, hstate⟩ := h
  have able : s.abortable g = true := by
    unfold abortable
    obtain (h | h) | h := hstate <;> simp [h]
  unfold abort
  dsimp only
  rw [if_pos (by rw [able, hnone]; rfl), send_only.group_eq]
  unfold keepToken
  rw [modGroup_group, hnone]
  rfl

theorem abort_others (s : State) (g code chunk bucket : Nat) : OtherGroups g s (s.abort g code chunk bucket) := by
  unfold abort
  split
  · exact fun i hi => (send_only.group_eq i).trans (modGroup_group_other _ _ hi)
  · exact fun _ _ => rfl

/-- A context that cannot be read ends the step with 0x04, a residual that cannot with 0x0B. -/
structure EndsStep (s t : State) (g code c b : Nat) : Prop where
  kept : (t.group g).abort.map (·.kept) = some (code, abortValue c b)
  others : OtherGroups g s t
  only : OnlyChanges [.power, .ports, .groups, .badUnits, .events, .stats, .maint] s t

theorem EndsStep.of_abort {s s' : State} {g : Nat} (h : s.stepRuns g = true) (reads : HopReads g s s')
    (only : OnlyChanges [.power, .groups, .badUnits, .events, .stats, .maint] s s') (code c b : Nat) :
    EndsStep s (s'.abort g code c b) g code c b where
  kept := abort_kept (reads.stepRuns_eq.trans h) code c b
  others := otherGroups_trans reads.others (abort_others _ _ _ _ _)
  only := (abort_only.mono (by decide)).trans' (only.mono (by decide))

theorem EndsStep.of_residualLost {s s' : State} {g : Nat} (h : s.stepRuns g = true) (reads : HopReads g s s')
    (only : OnlyChanges [.power, .groups, .badUnits, .events, .stats, .maint] s s') (b c : Nat) (units : List Nat) :
    EndsStep s (s'.residualLost g b c units) g 0x0B c b :=
  .of_abort h ((reads.trans (.of_only markBad_only)).trans (stackUE_reads _ _ _ _))
    ((stackUE_only.mono (by decide)).trans' ((markBad_only.mono (by decide)).trans' only)) _ _ _

theorem EndsStep.of_sramUE {s s' : State} {g : Nat} (h : s.stepRuns g = true) (reads : HopReads g s s')
    (only : OnlyChanges [.power, .groups, .badUnits, .events, .stats, .maint] s s') (region code c b : Nat) :
    EndsStep s ((s'.sramUE region code).abort g code c b) g code c b :=
  .of_abort h (reads.trans (sramUE_reads _ _ _ _)) ((sramUE_only.mono (by decide)).trans' only) _ _ _

theorem withReads_ends {s : State} {v : OpView} {c : Nat} {env : HopEnv} (h : s.stepRuns v.g = true)
    (hfail : env.contextUE = true ∨ s.genBad v false c env.stackUE ≠ []) (ph : CtxPhase) (f : State → State) :
    EndsStep s ((s.takeCtx v c (s.hopBay v c) ph).withReads v c env f) v.g (if env.contextUE then 0x04 else 0x0B) c v.d.bucket := by
  have reads := s.noted_reads v c ph env
  have only := (s.noted_only v c ph env).mono (Q := [.power, .groups, .badUnits, .events, .stats, .maint]) (by decide)
  unfold withReads
  dsimp only
  rw [noted_genBad]
  cases hue : env.contextUE with
  | true => exact .of_sramUE h reads only _ _ _ _
  | false =>
    have bad : s.genBad v false c env.stackUE ≠ [] := by simpa [hue] using hfail
    rw [if_neg (by simp), if_neg (by simpa using bad), if_neg (by simp)]
    exact .of_residualLost h reads only _ _ _

end State

/-! ### The commands -/

/-- A hop is due only while its group runs its step. -/
theorem hopAt_runs {s : State} {g b c : Nat} {place : OpView → Bool} {v : OpView} (h : s.hopAt g b c place = some v) :
    s.stepRuns v.g = true := by
  unfold State.hopAt at h
  split at h
  · split at h
    · rename_i u _ hdue
      obtain rfl := Option.some.inj h
      simp only [State.ebbDue, Bool.and_eq_true] at hdue
      obtain ⟨⟨⟨⟨⟨hruns, -⟩, -⟩, -⟩, -⟩, -⟩ := hdue
      exact hruns
    · exact absurd h (by simp)
  · exact absurd h (by simp)

/-- A member that defers adds nothing to the tally. -/
theorem bnat_not (b : Bool) : bnat (!b) = if b then 0 else 1 := by cases b <;> rfl

section

variable {s : State} {g b c : Nat} {env : HopEnv} {v : OpView} (hr : s.running = true)

include hr

theorem exec_ebbFirstHop (hat : s.hopAt g b c (fun v => v.hop c == 1) = some v) :
    exec (.ebbFirstHop g b c env) s = .next (s.ebbFirst v c env) := by
  show execEbbFirstHop g b c env s = _
  unfold execEbbFirstHop
  rw [whenRunning_run hr, hat]

theorem exec_ebbHop (hat : s.hopAt g b c (fun v => v.hop c != 1 && v.hop c != v.l.n) = some v) :
    exec (.ebbHop g b c env) s = .next (s.ebbMiddle v c env) := by
  show execEbbHop g b c env s = _
  unfold execEbbHop
  rw [whenRunning_run hr, hat]

theorem exec_ownerHop (hat : s.hopAt g b c (fun v => v.hop c == v.l.n) = some v) :
    exec (.ownerHop g b c env) s = .next (s.ownerStep v c env) := by
  show execOwnerHop g b c env s = _
  unfold execOwnerHop
  rw [whenRunning_run hr, hat]

end

theorem exec_ebbFirstHop_idle {s : State} {g b c : Nat} {env : HopEnv} (hat : s.hopAt g b c (fun v => v.hop c == 1) = none) :
    exec (.ebbFirstHop g b c env) s = .next s := by
  show execEbbFirstHop g b c env s = _
  unfold execEbbFirstHop whenRunning
  dsimp only
  rw [hat, ite_self]

/-- Settles O34: each hop is its opened state, the work on it and the end of R143's steps 4 to 6, whose lemmas name the
context, the cells and the residual; where a read fails the abort of a running step keeps its token. -/
theorem ebbHopsAddToTheLedger : Obligations.EbbHopsAddToTheLedger := by
  unfold Obligations.EbbHopsAddToTheLedger
  refine ⟨?_, ?_, ?_, ?_⟩
  · intro g b c env v w s hr hat hue hbad hw
    have done := State.ebbFirst_finished hue hbad hw
    rw [bnat_not] at done
    obtain ⟨x, hx, hdone, hin, hout, htally, hclip⟩ := done.ctx
    exact ⟨_, x, exec_ebbFirstHop hr hat, hx, hdone, hin, hout, htally, hclip, done.out, done.sent, done.stack,
      fun a ha => done.stack ▸ State.genWrites_outside ha, done.others, State.ebbFirst_only⟩
  · intro g b c env v got cells u d w s hr hat hue hbad hgot hcells hu hd hw
    have done := State.ebbMiddle_finished hue hbad hgot hcells hu hd hw
    simp only [bnat_not, Bool.and_eq_true, beq_iff_eq] at done
    obtain ⟨x, hx, hdone, hin, hout, htally, -⟩ := done.ctx
    exact ⟨_, x, exec_ebbHop hr hat, hx, hdone, hin, hout, htally, done.out, done.sent, done.stack,
      fun a ha => done.stack ▸ State.genWrites_outside ha, done.others, State.ebbMiddle_only⟩
  · rintro i g b c env v s hr (⟨rfl, hat⟩ | ⟨rfl, hat⟩ | ⟨rfl, hat⟩) hfail
    · obtain ⟨kept, others, only⟩ := State.withReads_ends (hopAt_runs hat) hfail .launched _
      exact ⟨_, exec_ebbFirstHop hr hat, kept, others, only⟩
    · obtain ⟨kept, others, only⟩ := State.withReads_ends (hopAt_runs hat) hfail .ebbWait _
      exact ⟨_, exec_ebbHop hr hat, kept, others, only⟩
    · obtain ⟨kept, others, only⟩ := State.withReads_ends (hopAt_runs hat) hfail .ebbWait _
      exact ⟨_, exec_ownerHop hr hat, kept, others, only⟩
  · intro g b c env s hat
    exact exec_ebbFirstHop_idle hat

end Sys2Proof.Machine
end

/-! ## The owner's hop and the flood (R145, R147, R183, R184) -/

section

namespace Sys2Proof.Machine

set_option Elab.async false

open Sys2Proof

namespace State

/-! ### Delivery -/

theorem SamePlan.of_only {P : List Part} {s t : State} (h : OnlyChanges P s t) (hi : .image ∉ P := by decide)
    (hn : .ident ∉ P := by decide) (hc : .clock ∉ P := by decide) (ht : .time ∉ P := by decide)
    (hp : .ports ∉ P := by decide) (hb : .buckets ∉ P := by decide) (hw : .power ∉ P := by decide)
    (hg : .groups ∉ P := by decide) : s.SamePlan t :=
  (HopReads.of_only (g := 0) h hi hn hc ht hp hb hw hg).plan

theorem SamePlan.modGroup {s : State} {g : Nat} {f : Group → Group} (hf : ∀ x, (f x).table = x.table ∧ (f x).step = x.step) :
    s.SamePlan (s.modGroup g f) := by
  have both (view : Group → Nat) (hv : ∀ x, view (f x) = view x) (i : Nat) :
      view ((s.modGroup g f).group i) = view (s.group i) := by
    by_cases hi : i = g
    · subst hi; rw [modGroup_group]; exact hv _
    · rw [modGroup_group_other _ _ hi]
  exact ⟨rfl, rfl, rfl, rfl, rfl, rfl, both Group.table fun x => (hf x).1, both Group.step fun x => (hf x).2⟩

/-- From `s` to `t` the plan, the other groups, the group's contexts and which chunks it has released stay: what a delivery
leaves of its chunk. -/
structure DeliveryKeeps (g : Nat) (s t : State) : Prop where
  plan : s.SamePlan t
  others : OtherGroups g s t
  ctxs : (t.group g).ctxs = (s.group g).ctxs
  released : ∀ b c, ((t.entry g b c).map (·.released)).getD false = ((s.entry g b c).map (·.released)).getD false

namespace DeliveryKeeps

variable {g : Nat} {s t u : State}

theorem refl : DeliveryKeeps g s s := ⟨.refl s, fun _ _ => rfl, rfl, fun _ _ => rfl⟩

theorem trans (h : DeliveryKeeps g s t) (k : DeliveryKeeps g t u) : DeliveryKeeps g s u :=
  ⟨h.plan.trans k.plan, otherGroups_trans h.others k.others, k.ctxs.trans h.ctxs,
    fun b c => (k.released b c).trans (h.released b c)⟩

theorem of_only {P : List Part} (h : OnlyChanges P s t) (hi : .image ∉ P := by decide) (hn : .ident ∉ P := by decide)
    (hc : .clock ∉ P := by decide) (ht : .time ∉ P := by decide) (hp : .ports ∉ P := by decide)
    (hb : .buckets ∉ P := by decide) (hw : .power ∉ P := by decide) (hg : .groups ∉ P := by decide) :
    DeliveryKeeps g s t where
  plan := .of_only h hi hn hc ht hp hb hw hg
  others := fun i _ => h.group_eq i hg
  ctxs := by rw [h.group_eq g hg]
  released := fun b c => by unfold entry; rw [h.group_eq g hg]

theorem modGroup {f : Group → Group} (hf : ∀ x, (f x).table = x.table ∧ (f x).step = x.step ∧ (f x).ctxs = x.ctxs
      ∧ (f x).record = x.record) : DeliveryKeeps g s (s.modGroup g f) where
  plan := .modGroup fun x => ⟨(hf x).1, (hf x).2.1⟩
  others := modGroup_others _ _ _
  ctxs := by rw [modGroup_group]; exact (hf _).2.2.1
  released := fun b c => by unfold entry; rw [modGroup_group, (hf _).2.2.2]

end DeliveryKeeps

theorem find?_updateWhere_view {α β : Type} {p q : α → Bool} {f : α → α} {view : α → β} (hq : ∀ x, q (f x) = q x)
    (hv : ∀ x, view (f x) = view x) (l : List α) : ((updateWhere p f l).find? q).map view = (l.find? q).map view := by
  induction l with
  | nil => rfl
  | cons x l ih =>
    unfold updateWhere at ih ⊢
    rw [List.map_cons, List.find?_cons, List.find?_cons]
    have hqx : q (if p x = true then f x else x) = q x := by split <;> simp [hq]
    have hvx : view (if p x = true then f x else x) = view x := by split <;> simp [hv]
    rw [hqx]
    cases q x
    · exact ih
    · exact congrArg some hvx

/-- A chunk's entry keeps what it says of the release. -/
theorem modEntry_released (s : State) (g b c : Nat) {f : RecEntry → RecEntry} (hf : ∀ e, (f e).bucket = e.bucket
      ∧ (f e).chunk = e.chunk ∧ (f e).released = e.released) (b' c' : Nat) :
    (((s.modEntry g b c f).entry g b' c').map (·.released)).getD false = ((s.entry g b' c').map (·.released)).getD false := by
  have key (e : RecEntry) : ((f e).bucket == b' && (f e).chunk == c') = (e.bucket == b' && e.chunk == c') := by
    rw [(hf e).1, (hf e).2.1]
  unfold modEntry modRecord entry
  rw [modGroup_group]
  cases (s.group g).record with
  | none => rfl
  | some r =>
    simp only [Option.map_some, Option.bind_some]
    split
    · rw [find?_updateWhere_view key fun e => (hf e).2.2]
    · rw [List.find?_append]
      cases h : r.entries.find? (fun e => e.bucket == b' && e.chunk == c') with
      | some e => rfl
      | none =>
        rw [Option.none_or, List.find?_singleton]
        split
        · rw [Option.map_some, (hf _).2.2]; rfl
        · rfl

theorem modEntry_keeps (s : State) (g b c : Nat) {f : RecEntry → RecEntry} (hf : ∀ e, (f e).bucket = e.bucket
      ∧ (f e).chunk = e.chunk ∧ (f e).released = e.released) : DeliveryKeeps g s (s.modEntry g b c f) where
  plan := by unfold modEntry modRecord; exact .modGroup fun _ => ⟨rfl, rfl⟩
  others := modEntry_others _ _ _ _ _
  ctxs := by unfold modEntry modRecord; rw [modGroup_group]
  released := modEntry_released s g b c hf

theorem enterLedger_keeps (s : State) (g kind bucket arg : Nat) : DeliveryKeeps g s (s.enterLedger g kind bucket arg) := by
  unfold enterLedger
  extract_lets +onlyGivenNames gr e s₁
  have h₁ : DeliveryKeeps g s s₁ :=
    (DeliveryKeeps.modGroup (f := fun x => { x with ledger := ledgerAdd x.ledger e }) fun _ => ⟨rfl, rfl, rfl, rfl⟩).trans
      (.of_only ledgerEvent_only)
  split
  · exact h₁.trans (.of_only ledgerEvent_only)
  · exact h₁

theorem noteTally_keeps (s : State) (v : OpView) (tally : Nat) : DeliveryKeeps v.g s (s.noteTally v tally) := by
  have varied : DeliveryKeeps v.g s (s.markVaried v.g v.op.index) := .of_only markVaried_only
  unfold noteTally
  dsimp only
  split
  · split
    · exact varied
    · exact (varied.trans (.of_only modLaunch_only)).trans (enterLedger_keeps _ _ _ _ _)
  · exact .refl

/-- The values of a chunk not released before are written, and nothing else goes out. -/
theorem writeOutput_out (s : State) (v : OpView) (c bay tally : Nat) (values : List Int) (slots : List (Nat × Nat)) :
    (s.writeOutput v c bay tally values slots).out = s.out ++ s.chunkWrite v c bay tally values slots := by
  unfold writeOutput
  extract_lets +onlyGivenNames d add s₁ s₂ s₃
  have h₂ : OnlyChanges [.events, .stats] s s₂ := addG_only.trans' addG_only
  have h₃ : OnlyChanges [.events, .stats] s s₃ := (only_ite addG_only .refl).trans' h₂
  show s₃.out ++ s₃.chunkWrite v c bay tally values slots = _
  rw [h₃.out_eq, (SamePlan.of_only h₃).chunkWrite_eq]

theorem deliver_keeps (s : State) (v : OpView) (c bay tally : Nat) (values : List Int) (slots : List (Nat × Nat)) :
    DeliveryKeeps v.g s (s.deliver v c bay tally values slots) := by
  have entered : DeliveryKeeps v.g s ((s.noteTally v tally).modEntry v.g v.d.bucket c (fun e => { e with delivered := true })) :=
    (noteTally_keeps s v tally).trans (modEntry_keeps _ _ _ _ fun _ => ⟨rfl, rfl, rfl⟩)
  unfold deliver
  dsimp only
  split
  · exact entered
  · exact entered.trans (.of_only writeOutput_only)

theorem deliver_out (s : State) (v : OpView) (c bay tally : Nat) (values : List Int) (slots : List (Nat × Nat)) :
    (s.deliver v c bay tally values slots).out
      = s.out ++ (if s.released v c then [] else s.chunkWrite v c bay tally values slots) := by
  have entered : DeliveryKeeps v.g s ((s.noteTally v tally).modEntry v.g v.d.bucket c (fun e => { e with delivered := true })) :=
    (noteTally_keeps s v tally).trans (modEntry_keeps _ _ _ _ fun _ => ⟨rfl, rfl, rfl⟩)
  have out : ((s.noteTally v tally).modEntry v.g v.d.bucket c (fun e => { e with delivered := true })).out = s.out :=
    modEntry_only.out_eq.trans noteTally_only.out_eq
  have released := entered.released v.d.bucket c
  unfold deliver
  dsimp only
  rw [show ((s.noteTally v tally).modEntry v.g v.d.bucket c (fun e => { e with delivered := true })).released v c
    = s.released v c from released]
  cases s.released v c
  · rw [if_neg (by simp), if_neg (by simp), writeOutput_out, out, entered.plan.chunkWrite_eq]
  · rw [if_pos rfl, if_pos rfl, out, List.append_nil]

theorem startVerdict_portSlots (s : State) (v : OpView) (c p : Nat) :
    ((s.startVerdict v c).port p).tx = (s.port p).tx ∧ ((s.startVerdict v c).port p).kept = (s.port p).kept := by
  unfold startVerdict
  split
  · exact send_portSlots _ _ _
  · exact ⟨rfl, rfl⟩

theorem retain_keeps (s : State) (v : OpView) (c : Nat) (f : Retained → Retained) : DeliveryKeeps v.g s (s.retain v c f) := by
  unfold retain
  refine .modGroup fun x => ?_
  split <;> exact ⟨rfl, rfl, rfl, rfl⟩

/-! ### What the owner holds before it delivers -/

theorem writeUnits_badUnits {s : State} {a n k : Nat} (h : k ∈ (s.writeUnits a n).badUnits) : k ∈ s.badUnits :=
  List.mem_of_mem_filter h

theorem genStored_badUnits {s : State} {v : OpView} {c k : Nat} {st : ResidualStore}
    (h : k ∈ (s.genStored v c st).badUnits) : k ∈ s.badUnits := by
  revert h
  unfold genStored
  extract_lets +onlyGivenNames a s₁ s₂
  intro h
  have h₂ : s₂.badUnits = s₁.badUnits :=
    (show OnlyChanges [.events, .stats, .maint] s₁ s₂ from
      only_ite .refl ((raise_only.mono (by decide)).trans' (bumpBy_only.mono (by decide)))).badUnits_eq
  have h₃ : (if st.under = 0 then s₂ else s₂.bumpBy .resUnderflow st.under).badUnits = s₂.badUnits :=
    (only_ite .refl bumpBy_only).badUnits_eq
  rw [h₃, h₂] at h
  exact writeUnits_badUnits h

/-- Writing a residual makes no unit bad. -/
theorem hopKept_badUnits {s : State} {v : OpView} {c bay k : Nat} {w : HopWork} (h : k ∈ (s.hopKept v c bay w).badUnits) :
    k ∈ s.badUnits := by
  unfold hopKept at h
  rw [writeGen_eq] at h
  have h' := genStored_badUnits h
  rwa [keepStats_only.badUnits_eq, countHop_only.badUnits_eq] at h'

/-- The state in which the owner, whose hop began in `s`, has written its residual and put its cells together. -/
structure OwnerFormed (s t : State) (v : OpView) (c : Nat) (w : HopWork) : Prop where
  reads : HopReads v.g s t
  stack : t.stack = s.genWrites v (fun _ _ => newResidual v.d v.ext (v.base c) v.l.et w.con.u w.delta) [c]
  bad : ∀ k ∈ t.badUnits, k ∈ s.badUnits
  out : t.out = s.out ++ (if v.l.deferred then [] else [s.gradReads v c])
  ctx : ∃ x, t.ctx v.g v.d.bucket c = some x
  only : OnlyChanges [.out, .power, .groups, .stack, .badUnits, .events, .stats, .maint] s t

/-- The owner's state up to its self-check, from one that has only counted since the hop was opened. -/
theorem ownerFormed {s p : State} {v : OpView} {c : Nat} {env : HopEnv}
    (counted : OnlyChanges [.events, .stats] (s.hopOpened v c .ebbWait env) p) (bay : Nat) (w : HopWork) (cells : List Bytes)
    (inp delta : List Int) : OwnerFormed s ((p.hopKept v c bay w).selfCheck v c bay cells inp delta) v c w := by
  have reads : HopReads v.g s p := (s.hopOpened_reads v c .ebbWait env).trans (.of_only counted)
  have opened := s.hopOpened_only v c .ebbWait env
  have ctx := (ctx_congr (congrArg Group.ctxs (counted.group_eq v.g)) _ _).trans (s.hopOpened_ctx v c .ebbWait env)
  refine ⟨(reads.trans (hopKept_reads _ _ _ _ _)).trans (.of_only selfCheck_only), ?_, fun k hk => ?_, ?_, ⟨_,
    (ctx_congr (congrArg Group.ctxs (selfCheck_only.group_eq v.g)) _ _).trans (hopKept_ctx ctx bay w)⟩,
    (selfCheck_only.mono (by decide)).trans' (((p.hopKept_only v c bay w).mono (by decide)).trans'
      ((counted.mono (by decide)).trans' (opened.mono (by decide))))⟩
  · rw [selfCheck_only.stack_eq, hopKept_stack, genWrites_single, genWrites_single, reads.plan.genAddr_eq,
      counted.stack_eq, opened.stack_eq]
  · rw [selfCheck_only.badUnits_eq] at hk
    have := hopKept_badUnits hk
    rwa [counted.badUnits_eq, opened.badUnits_eq] at this
  · rw [selfCheck_only.out_eq, (hopKept_only _ _ _ _ _).out_eq, counted.out_eq, hopOpened_out]

namespace OwnerFormed

variable {s t : State} {v : OpView} {c : Nat} {w : HopWork} (h : OwnerFormed s t v c w)

include h

theorem released_eq : t.released v c = s.released v c := by unfold released; rw [h.reads.entry_eq]

theorem sameAsHeld_eq (ps : List Bytes) : t.sameAsHeld v c ps = s.sameAsHeld v c ps := by
  unfold sameAsHeld; rw [h.reads.retainedOf_eq]

/-- Retained cells that could be read still can. -/
theorem floodBad_nil {met : List Nat} (hs : s.floodBad v c met = []) : t.floodBad v c met = [] := by
  unfold floodBad at hs ⊢
  rw [h.reads.retainedOf_eq, h.reads.plan.retainUnits_eq]
  split
  · rename_i r hr
    rw [hr] at hs
    dsimp only at hs
    split
    · rfl
    · rename_i hcells
      rw [if_neg hcells, List.filter_eq_nil_iff] at hs
      refine List.filter_eq_nil_iff.mpr fun k hk hbad => hs k hk ?_
      simp only [Bool.or_eq_true, List.contains_iff_mem] at hbad ⊢
      exact hbad.imp_left (h.bad k)
  · rfl

/-- Retained cells on a unit that the read meets cannot. -/
theorem floodBad_met {met : List Nat} {k : Nat} (hk : k ∈ s.retainUnits v c) (hmet : k ∈ met)
    (hcells : ∃ r, s.retainedOf v.g v.d.bucket c = some r ∧ r.cells ≠ []) : t.floodBad v c met ≠ [] := by
  obtain ⟨r, hr, hne⟩ := hcells
  unfold floodBad
  rw [h.reads.retainedOf_eq, h.reads.plan.retainUnits_eq, hr]
  dsimp only
  rw [if_neg (by simpa using hne)]
  exact List.ne_nil_of_mem (List.mem_filter.mpr ⟨hk, by simp [hmet]⟩)

end OwnerFormed

/-! ### Cells and context at the end of the lap -/

/-- What sending a chunk and entering it leaves: the context as entered, the cells in their slots, all else as it was. -/
structure LapEnds (s t : State) (v : OpView) (c : Nat) (f : Ctx → Ctx) (cells : List Bytes) : Prop where
  ctx : t.ctx v.g v.d.bucket c = (s.ctx v.g v.d.bucket c).map f
  sent : s.cellsSent t v c 1 cells
  others : OtherGroups v.g s t
  out : t.out = s.out
  stack : t.stack = s.stack

theorem lapEntered {s s' : State} {v : OpView} {c : Nat} {cells : List Bytes} (sent : s.cellsSent s' v c 1 cells)
    (only : OnlyChanges [.ports] s s') {f : Ctx → Ctx} (hf : ∀ x, (f x).bucket = x.bucket ∧ (f x).chunk = x.chunk) :
    LapEnds s (s'.modCtx v.g v.d.bucket c f) v c f cells where
  ctx := by rw [modCtx_ctx hf, ctx_congr (congrArg Group.ctxs (only.group_eq v.g))]
  sent := cellsSent_congr sent (.refl s) (portSlots_of_ports modCtx_only.ports_eq)
  others := otherGroups_trans (fun i _ => only.group_eq i) (modCtx_others _ _ _ _ _)
  out := modCtx_only.out_eq.trans only.out_eq
  stack := modCtx_only.stack_eq.trans only.stack_eq

theorem LapEnds.modEntry {s t : State} {v : OpView} {c : Nat} {f : Ctx → Ctx} {cells : List Bytes} (h : LapEnds s t v c f cells)
    (e : RecEntry → RecEntry) : LapEnds s (t.modEntry v.g v.d.bucket c e) v c f cells where
  ctx := (modEntry_ctx _ _ _ _ _ _ _).trans h.ctx
  sent := cellsSent_congr h.sent (.refl s) (portSlots_of_ports modEntry_only.ports_eq)
  others := otherGroups_trans h.others (modEntry_others _ _ _ _ _)
  out := modEntry_only.out_eq.trans h.out
  stack := modEntry_only.stack_eq.trans h.stack

theorem LapEnds.startVerdict {s t : State} {v : OpView} {c : Nat} {f : Ctx → Ctx} {cells : List Bytes}
    (h : LapEnds s t v c f cells) : LapEnds s (t.startVerdict v c) v c f cells where
  ctx := (ctx_congr (congrArg Group.ctxs (startVerdict_only.group_eq v.g)) _ _).trans h.ctx
  sent := cellsSent_congr h.sent (.refl s) (startVerdict_portSlots _ _ _)
  others := otherGroups_trans h.others (fun i _ => startVerdict_only.group_eq i)
  out := startVerdict_only.out_eq.trans h.out
  stack := startVerdict_only.stack_eq.trans h.stack

theorem LapEnds.dropStaged {s t : State} {v : OpView} {c : Nat} {f : Ctx → Ctx} {cells : List Bytes}
    (h : LapEnds s t v c f cells) (lap : Nat) : LapEnds s (t.dropStaged v c lap) v c f cells :=
  ⟨h.ctx, h.sent, h.others, h.out, h.stack⟩

/-! ### The owner's hop -/

/-- The context of a chunk that the owner has delivered. -/
def ownerDoneCtx (ebbIn ebbOut flood tally : Nat) (pass : Bool) (x : Ctx) : Ctx :=
  { x with phase := phaseOr x .ownerDone, ebbIn := ebbIn, ebbOut := ebbOut, flood := flood, ledger := flood, tally := tally,
           ebbDone := true, floodDone := true, ownPass := pass, checked := true }

/-- The abort of the owner's step, the cells of the ebb lap dropped. -/
structure OwnerAborts (s t : State) (v : OpView) (c code : Nat) : Prop where
  kept : (t.group v.g).abort.map (·.kept) = some (code, abortValue c v.d.bucket)
  out : t.out = s.out ++ (if v.l.deferred then [] else [s.gradReads v c])
  others : OtherGroups v.g s t
  only : OnlyChanges [.out, .power, .ports, .groups, .staging, .stack, .badUnits, .events, .stats, .maint] s t

theorem OwnerFormed.aborts {s t t' : State} {v : OpView} {c code : Nat} {w : HopWork} (h : OwnerFormed s t v c w)
    (runs : s.stepRuns v.g = true) (reads : HopReads v.g t t')
    (only : OnlyChanges [.power, .badUnits, .events, .stats, .maint] t t') :
    OwnerAborts s ((t'.abort v.g code c v.d.bucket).dropStaged v c 0) v c code where
  kept := abort_kept ((h.reads.trans reads).stepRuns_eq.trans runs) _ _ _
  out := (abort_only.out_eq.trans only.out_eq).trans h.out
  others := otherGroups_trans (h.reads.trans reads).others (abort_others _ _ _ _ _)
  only := (dropStaged_only.mono (by decide)).trans' ((abort_only.mono (by decide)).trans'
    ((only.mono (by decide)).trans' (h.only.mono (by decide))))

/-- What the owner's delivery leaves. -/
structure OwnerDelivers (s t : State) (v : OpView) (c : Nat) (env : HopEnv) (u : Trailer) (d : Decoded) (w : HopWork) : Prop where
  ctx : ∃ x, t.ctx v.g v.d.bucket c = some x ∧ x.ebbDone = true ∧ x.floodDone = true ∧ x.ebbIn = u.ledger
    ∧ x.flood = (s.lcOf v c w.enc.sent + s.structOf v c w.enc.entries) % lcMod
    ∧ (x.ownPass = true ↔ u.ok = true ∧ d.malformed = 0
        ∧ s.lcOf v c w.acc.acc = (u.ledger + s.lcOf v c w.acc.added) % lcMod)
  sent : s.cellsSent t v c 1 (withErrors (s.chunkCells v c 1 ((u.tally + bnat (!v.l.deferred)) % 2 ^ 15)
    ((s.lcOf v c w.enc.sent + s.structOf v c w.enc.entries) % lcMod + 2 ^ 61 + s.replaysOf v c % 4 * 2 ^ 62)
    w.enc.payloads) env.stagedOut)
  out : t.out = s.out ++ (if v.l.deferred then [] else [s.gradReads v c]) ++ (if s.released v c then [] else
    s.chunkWrite v c (s.hopBay v c) ((u.tally + bnat (!v.l.deferred)) % 2 ^ 15) w.enc.sent w.enc.entries)
  stack : t.stack = s.genWrites v (fun _ _ => newResidual v.d v.ext (v.base c) v.l.et w.con.u w.delta) [c]
  others : OtherGroups v.g s t

theorem ownerStep_ends {s : State} {v : OpView} {c : Nat} {env : HopEnv} {got cells : List Bytes} {u : Trailer} {d : Decoded}
    {w : HopWork} (runs : s.stepRuns v.g = true) (hue : env.contextUE = false) (hbad : s.genBad v false c env.stackUE = [])
    (hgot : s.stagedCells v c 0 = got.map some) (hcells : cells = withErrors got env.stagedIn)
    (hu : u = trailerOf 0 (s.replaysOf v c) cells) (hd : d = (decodeCells v c cells).1)
    (hw : w = hopWork v c v.l.deferred false env.grad (s.readGen v false c) d (decodeCells v c cells).2) :
    ∃ f, OwnerFormed s f v c w
      ∧ (s.released v c = true ∧ f.floodBad v c env.stackUE ≠ [] → OwnerAborts s (s.ownerStep v c env) v c 0x0B)
      ∧ (s.released v c = true ∧ f.floodBad v c env.stackUE = [] ∧ s.sameAsHeld v c w.enc.payloads = false →
          OwnerAborts s (s.ownerStep v c env) v c 0x03)
      ∧ (s.released v c = false ∨ (f.floodBad v c env.stackUE = [] ∧ s.sameAsHeld v c w.enc.payloads = true) →
          OwnerDelivers s (s.ownerStep v c env) v c env u d w) := by
  unfold ownerStep
  extract_lets +onlyGivenNames b bay s₁
  rw [show s₁.withReads v c env _ = _ from withReads_opened hue hbad .ebbWait _,
    withCells_all ((s.hopOpened_stagedCells v c .ebbWait env 0).trans hgot), ← hcells]
  extract_lets +onlyGivenNames t₀ d₀ s₂ w₀ tally pass s₃ s₄ s₅ flood out staged s₆ bad s₇ s₈ s₉ s₁₀ s₁₁ s₁₂
  have opened := s.hopOpened_only v c .ebbWait env
  have plan₂ : s.SamePlan s₂ := (s.hopOpened_reads v c .ebbWait env).plan.trans (.of_only countBad_only)
  have ht : t₀ = u := by
    show trailerOf 0 ((s.hopOpened v c .ebbWait env).replaysOf v c) cells = u
    rw [hopOpened_replaysOf, hu]
  have hw₀ : w₀ = w := by
    show hopWork v c v.l.deferred false env.grad (s₂.readGen v false c) (decodeCells v c cells).1 (decodeCells v c cells).2 = w
    rw [readGen_congr plan₂ (countBad_only.stack_eq.trans opened.stack_eq), hw, hd]
  have hpass : pass = true ↔ u.ok = true ∧ d.malformed = 0
      ∧ s.lcOf v c w.acc.acc = (u.ledger + s.lcOf v c w.acc.added) % lcMod := by
    show (t₀.ok && d₀.1.malformed == 0 && decide (s₂.lcOf v c w₀.acc.acc = (t₀.ledger + s₂.lcOf v c w₀.acc.added) % lcMod))
      = true ↔ _
    rw [ht, hw₀, hd, plan₂.lcOf_eq, plan₂.lcOf_eq]
    simp only [Bool.and_eq_true, beq_iff_eq, decide_eq_true_eq, and_assoc]
    rfl
  have counted : OnlyChanges [.events, .stats] (s.hopOpened v c .ebbWait env) s₃ :=
    (only_ite .refl bump_only).trans' countBad_only
  clear_value t₀ w₀ pass s₃
  subst ht hw₀
  have formed : OwnerFormed s s₆ v c w₀ := ownerFormed counted bay w₀ staged d₀.1.exact w₀.delta
  have ctx₃ := (ctx_congr (congrArg Group.ctxs (counted.group_eq v.g)) _ _).trans (s.hopOpened_ctx v c .ebbWait env)
  have plan₅ : s.SamePlan s₅ := ((s.hopOpened_reads v c .ebbWait env).trans
    ((HopReads.of_only counted).trans (hopKept_reads s₃ v c bay w₀))).plan
  have hflood : flood = (s.lcOf v c w₀.enc.sent + s.structOf v c w₀.enc.entries) % lcMod := by
    show (s₅.lcOf v c w₀.enc.sent + s₅.structOf v c w₀.enc.entries) % lcMod = _
    rw [plan₅.lcOf_eq, plan₅.structOf_eq]
  have replays₅ : s₅.replaysOf v c = s.replaysOf v c := by
    rw [show s₅.replaysOf v c = s₃.replaysOf v c from hopKept_replaysOf ctx₃ bay w₀, replaysOf_of_ctx ctx₃,
      ← hopOpened_replaysOf s v c .ebbWait env, replaysOf_of_ctx (s.hopOpened_ctx v c .ebbWait env)]
  have hout : out = s.chunkCells v c 1 tally (flood + 2 ^ 61 + s.replaysOf v c % 4 * 2 ^ 62) w₀.enc.payloads := by
    show s₅.chunkCells v c 1 tally (flood + 2 ^ 61 + s₅.replaysOf v c % 4 * 2 ^ 62) w₀.enc.payloads = _
    rw [plan₅.chunkCells_eq, replays₅]
  clear_value s₆
  refine ⟨s₆, formed, ?_, ?_, ?_⟩
  · rintro ⟨hrel, hmet⟩
    have hbad' : bad = s₆.floodBad v c env.stackUE := if_pos (formed.released_eq.trans hrel)
    rw [if_pos (by rw [hbad']; simpa using hmet)]
    exact formed.aborts runs ((HopReads.of_only markBad_only).trans (stackUE_reads _ _ _ _))
      ((stackUE_only.mono (by decide)).trans' (markBad_only.mono (by decide)))
  · rintro ⟨hrel, hmet, hheld⟩
    have hbad' : bad = [] := (if_pos (formed.released_eq.trans hrel)).trans hmet
    rw [if_neg (by simp [hbad']), if_pos (by rw [formed.released_eq, formed.sameAsHeld_eq, hrel, hheld]; rfl)]
    exact formed.aborts runs (.of_only bump_only) (bump_only.mono (by decide))
  · intro hgood
    have hbad' : bad = [] := by
      show (if s₆.released v c = true then s₆.floodBad v c env.stackUE else []) = []
      rw [formed.released_eq]
      obtain hrel | ⟨hmet, -⟩ := hgood
      · rw [hrel]; rfl
      · rw [hmet, ite_self]
    have hheld : (s₆.released v c && !s₆.sameAsHeld v c w₀.enc.payloads) = false := by
      rw [formed.released_eq, formed.sameAsHeld_eq]
      obtain hrel | ⟨-, hheld⟩ := hgood
      · rw [hrel]; rfl
      · rw [hheld]; exact Bool.and_false _
    rw [if_neg (by simp [hbad']), if_neg (by simp [hheld])]
    have written : DeliveryKeeps v.g s₆ s₈ := (retain_keeps _ _ _ _).trans (.of_only writeRetention_only)
    have delivered : DeliveryKeeps v.g s₆ s₉ := written.trans (deliver_keeps _ _ _ _ _ _ _)
    have plan₉ : s.SamePlan s₉ := formed.reads.plan.trans delivered.plan
    have out₉ : s₉.out = _ := (deliver_out s₈ v c bay tally w₀.enc.sent w₀.enc.entries).trans
      (congrArg (· ++ _) (writeRetention_only.out_eq.trans (retain_only.out_eq.trans formed.out)))
    rw [show s₈.released v c = s.released v c from (written.released _ _).trans formed.released_eq,
      (formed.reads.plan.trans written.plan).chunkWrite_eq] at out₉
    have stack₉ : s₉.stack = _ := deliver_only.stack_eq.trans
      (writeRetention_only.stack_eq.trans (retain_only.stack_eq.trans formed.stack))
    have sent : s₉.cellsSent s₁₀ v c 1 staged := sendChunk_cellsSent _ _ _ _ _
    have entered : LapEnds s₉ s₁₁ v c
        (ownerDoneCtx t₀.ledger ((t₀.ledger + s₁₀.lcOf v c w₀.delta) % lcMod) flood tally pass) staged :=
      lapEntered sent sendChunk_only fun _ => ⟨rfl, rfl⟩
    have ends : LapEnds s₉ s₁₂ v c _ staged := entered.modEntry _
    clear_value s₉ s₁₀ s₁₁ s₁₂
    obtain ⟨x, hx⟩ := formed.ctx
    replace ends := ends.startVerdict.dropStaged 0
    have ctx := ends.ctx.trans (congrArg _ ((ctx_congr delivered.ctxs _ _).trans hx))
    refine ⟨⟨_, ctx, rfl, rfl, rfl, hflood, hpass⟩, ?_, ends.out.trans out₉, ends.stack.trans stack₉,
      otherGroups_trans (otherGroups_trans formed.reads.others delivered.others) ends.others⟩
    rw [← hflood, ← hout]
    exact cellsSent_congr ends.sent plan₉ fun _ => ⟨rfl, rfl⟩

/-! ### A flood receiver -/

/-- The launched operation of a bucket is of the group and the bucket. -/
theorem opOf_named {s : State} {g b : Nat} {v : OpView} (h : s.opOf g b = some v) : v.g = g ∧ v.d.bucket = b := by
  unfold opOf at h
  simp only [Option.bind_eq_some_iff, Option.map_eq_some_iff] at h
  obtain ⟨o, -, l, -, d, hd, q, -, rfl⟩ := h
  have hb := List.find?_some hd
  exact ⟨rfl, by simpa using hb⟩

/-- A flood command is due for the operation that it names, in a step that runs, for a chunk that has its context. -/
theorem floodAt_due {s : State} {g b c : Nat} {v : OpView} (h : s.floodAt g b c = some v) :
    s.stepRuns g = true ∧ v.g = g ∧ v.d.bucket = b ∧ ∃ x, s.ctx g b c = some x := by
  unfold floodAt at h
  split at h
  · rename_i u hu
    split at h
    · rename_i hdue
      obtain rfl := Option.some.inj h
      simp only [Bool.and_eq_true] at hdue
      obtain ⟨⟨⟨⟨hruns, -⟩, -⟩, hctx⟩, -⟩ := hdue
      obtain ⟨hg, hb⟩ := opOf_named hu
      refine ⟨hruns, hg, hb, ?_⟩
      cases hx : s.ctx g b c with
      | some x => exact ⟨x, rfl⟩
      | none => rw [hx] at hctx; exact absurd hctx (by simp)
    · exact absurd h (by simp)
  · exact absurd h (by simp)

/-- Forwarding the verdict changes of a context what it holds and the result. -/
theorem forwardVerdict_ctx {s : State} {v : OpView} {c : Nat} {x : Ctx} (hx : s.ctx v.g v.d.bucket c = some x) :
    ∃ held result, (s.forwardVerdict v c).ctx v.g v.d.bucket c = some { x with vHeld := held, vResult := result } := by
  have sent (t : State) (m : Msg) : (t.send m).ctx v.g v.d.bucket c = t.ctx v.g v.d.bucket c :=
    ctx_congr (congrArg Group.ctxs (send_only.group_eq v.g)) _ _
  have changed (f : Ctx → Ctx) (hf : ∀ x, (f x).bucket = x.bucket ∧ (f x).chunk = x.chunk) :
      (s.modCtx v.g v.d.bucket c f).ctx v.g v.d.bucket c = some (f x) :=
    (modCtx_ctx hf).trans (congrArg _ hx)
  unfold forwardVerdict
  rw [hx]
  dsimp only
  split
  · split
    · split
      · exact ⟨_, _, (sent _ _).trans (changed _ fun _ => ⟨rfl, rfl⟩)⟩
      · exact ⟨_, _, (sent _ _).trans (changed _ fun _ => ⟨rfl, rfl⟩)⟩
    · exact ⟨_, _, hx⟩
  · exact ⟨_, _, hx⟩

/-- It takes no slot and concerns no other group. -/
theorem forwardVerdict_keeps (s : State) (v : OpView) (c : Nat) :
    (∀ p, ((s.forwardVerdict v c).port p).tx = (s.port p).tx ∧ ((s.forwardVerdict v c).port p).kept = (s.port p).kept)
      ∧ OtherGroups v.g s (s.forwardVerdict v c) := by
  have sent (f : Ctx → Ctx) (m : Msg) :
      (∀ p, (((s.modCtx v.g v.d.bucket c f).send m).port p).tx = (s.port p).tx
        ∧ (((s.modCtx v.g v.d.bucket c f).send m).port p).kept = (s.port p).kept)
      ∧ OtherGroups v.g s ((s.modCtx v.g v.d.bucket c f).send m) :=
    ⟨fun p => send_portSlots _ m p, otherGroups_trans (modCtx_others _ _ _ _ _) fun i _ => send_only.group_eq i⟩
  have same : (∀ p, (s.port p).tx = (s.port p).tx ∧ (s.port p).kept = (s.port p).kept) ∧ OtherGroups v.g s s :=
    ⟨fun _ => ⟨rfl, rfl⟩, fun _ _ => rfl⟩
  unfold forwardVerdict
  split
  · split
    · split
      · dsimp only
        split
        · exact sent _ _
        · exact sent _ _
      · exact same
    · exact same
  · exact same

/-- What a flood receiver's delivery leaves. -/
structure ReceiverDelivers (s t : State) (v : OpView) (c : Nat) (env : HopEnv) (cells : List Bytes) (u : Trailer) (d : Decoded)
    (slots : List (Nat × Nat)) : Prop where
  ctx : ∃ x, t.ctx v.g v.d.bucket c = some x ∧ x.floodDone = true ∧ x.checked = true ∧ x.flood = u.ledger
    ∧ x.tally = u.tally ∧ (x.ownPass = true ↔ u.ok = true ∧ d.malformed = 0
        ∧ (s.lcOf v c d.exact + s.structOf v c d.entries) % lcMod = u.ledger)
  sent : s.cellsSent t v c 1 (if v.floodNo c + 1 = v.l.n then [] else withErrors (s.forwarded cells) env.stagedOut)
  out : t.out = s.out ++ (if s.released v c then [] else
    s.chunkWrite v c (s.chunkBay v c (s.rxOf v c) 1 1) u.tally d.values slots)
  others : OtherGroups v.g s t

/-- The context of a chunk that a receiver has delivered. -/
def deliveredCtx (u : Trailer) (role : Nat) (pass : Bool) (x : Ctx) : Ctx :=
  { x with phase := phaseOr x .delivered, flood := u.ledger, ledger := u.ledger, tally := u.tally, floodDone := true,
           role := role, ownPass := pass, checked := true }

theorem floodDeliver_delivers {s : State} {v : OpView} {c : Nat} {env : HopEnv} {got cells : List Bytes} {u : Trailer}
    {d : Decoded} {slots : List (Nat × Nat)} {x : Ctx} (hx : s.ctx v.g v.d.bucket c = some x) (hue : env.contextUE = false)
    (hgot : s.stagedCells v c 1 = got.map some) (hcells : cells = withErrors got env.stagedIn)
    (hu : u = trailerOf 1 (s.replaysOf v c) cells) (hd : d = (decodeCells v c cells).1)
    (hslots : slots = (if v.d.sparse = true then (decodeCells v c cells).2 ++ List.replicate
      (listCap v.d - (decodeCells v c cells).2.length) (sentinel, 0) else [])) :
    ReceiverDelivers s (s.floodDeliver v c env) v c env cells u d slots := by
  unfold floodDeliver
  extract_lets +onlyGivenNames b bay s₁
  have noted : HopReads v.g s s₁ := noteErrors_reads _ _ _
  have ctx₁ : s₁.ctx v.g v.d.bucket c = some x := (ctx_congr (congrArg Group.ctxs (noteErrors_only.group_eq v.g)) _ _).trans hx
  have replays₁ : s₁.replaysOf v c = s.replaysOf v c := (replaysOf_of_ctx ctx₁).trans (replaysOf_of_ctx hx).symm
  rw [if_neg (by simp [hue]), withCells_all ((stagedCells_congr noted.plan.im_eq (noteErrors_only .staging (by decide)) v c 1).trans
    hgot), ← hcells]
  extract_lets +onlyGivenNames t₀ d₀ s₂ pass s₃ s₄ s₅ s₆ s₇ s₈
  have ht : t₀ = u := by
    show trailerOf 1 (s₁.replaysOf v c) cells = u
    rw [replays₁, hu]
  have counted : OnlyChanges [.power, .events, .stats] s s₂ :=
    (noteMarks_only.mono (by decide)).trans' ((countBad_only.mono (by decide)).trans' noteErrors_only)
  have plan₂ : s.SamePlan s₂ := noted.plan.trans ((SamePlan.of_only countBad_only).trans (.of_only noteMarks_only))
  have hpass : pass = true ↔ u.ok = true ∧ d.malformed = 0
      ∧ (s.lcOf v c d.exact + s.structOf v c d.entries) % lcMod = u.ledger := by
    show (t₀.ok && d₀.1.malformed == 0 &&
      decide ((s₂.lcOf v c d₀.1.exact + s₂.structOf v c d₀.1.entries) % lcMod = t₀.ledger)) = true ↔ _
    rw [ht, hd, plan₂.lcOf_eq, plan₂.structOf_eq]
    simp only [Bool.and_eq_true, beq_iff_eq, decide_eq_true_eq, and_assoc]
    rfl
  have checked : OnlyChanges [.events, .stats] s₂ s₃ := only_ite .refl bump_only
  have plan₃ : s.SamePlan s₃ := plan₂.trans (.of_only checked)
  have group₃ (i : Nat) : s₃.group i = s.group i := (checked.group_eq i).trans (counted.group_eq i)
  have out₃ : s₃.out = s.out := checked.out_eq.trans counted.out_eq
  have out₄ : s₄.out = _ := deliver_out s₃ v c bay t₀.tally d₀.1.values _
  have released₃ : s₃.released v c = s.released v c := by unfold released entry; rw [group₃]
  clear_value t₀ pass s₃
  subst ht hd hslots
  rw [released₃, plan₃.chunkWrite_eq, out₃] at out₄
  have delivered : DeliveryKeeps v.g s₃ s₅ := (deliver_keeps _ _ _ _ _ _ _).trans
    ((retain_keeps s₄ v c _).trans (.of_only writeRetention_only))
  have plan₅ : s.SamePlan s₅ := plan₃.trans delivered.plan
  have out₅ : s₅.out = _ := writeRetention_only.out_eq.trans (retain_only.out_eq.trans out₄)
  have ctx₅ : s₅.ctx v.g v.d.bucket c = some x :=
    (ctx_congr (delivered.ctxs.trans (congrArg Group.ctxs (group₃ v.g))) _ _).trans hx
  have sent : s₅.cellsSent s₆ v c 1
      (if v.floodNo c + 1 = v.l.n then [] else withErrors (s.forwarded cells) env.stagedOut) := by
    rw [← plan₅.forwarded_eq cells]
    show s₅.cellsSent (if v.floodNo c + 1 = v.l.n then s₅ else _) v c 1 _
    split
    · exact cellsSent_nil _ _ _ _
    · exact sendChunk_cellsSent _ _ _ _ _
  have moved : OnlyChanges [.ports] s₅ s₆ := only_ite .refl sendChunk_only
  clear_value s₆ s₅
  have entered : LapEnds s₅ s₇ v c (deliveredCtx t₀ (if v.floodNo c + 1 = v.l.n then 4 else 3) pass) _ :=
    lapEntered sent moved fun _ => ⟨rfl, rfl⟩
  have ends : LapEnds s₅ s₈ v c _ _ := entered.modEntry _
  clear_value s₇ s₈
  obtain ⟨held, result, ctx₉⟩ := forwardVerdict_ctx (ends.ctx.trans (congrArg _ ctx₅))
  obtain ⟨slots₉, others₉⟩ := forwardVerdict_keeps s₈ v c
  exact ⟨⟨_, ctx₉, rfl, rfl, rfl, rfl, hpass⟩, cellsSent_congr (cellsSent_congr ends.sent (.refl _) slots₉) plan₅ fun _ => ⟨rfl, rfl⟩,
    forwardVerdict_only.out_eq.trans (ends.out.trans out₅), otherGroups_trans (otherGroups_trans
      (otherGroups_trans (fun i _ => group₃ i) delivered.others) ends.others) others₉⟩

/-! ### A missing cell -/

/-- What a missing cell at processing leaves: the abort with 0x04. -/
structure MissingEnds (s s' t : State) (v : OpView) (c : Nat) : Prop where
  kept : (t.group v.g).abort.map (·.kept) = some (0x04, abortValue c v.d.bucket)
  out : t.out = s'.out
  others : OtherGroups v.g s t
  only : OnlyChanges [.out, .power, .ports, .groups, .events, .stats] s t

theorem withCells_missing {s s' : State} {v : OpView} {c lap : Nat} (runs : s.stepRuns v.g = true) (reads : HopReads v.g s s')
    (only : OnlyChanges [.out, .power, .groups, .events, .stats] s s')
    (hmissing : (s.stagedCells v c lap).any (·.isNone) = true) (env : HopEnv) (f : State → List Bytes → State) :
    MissingEnds s s' (s'.withCells v c lap env f) v c := by
  have staged := stagedCells_congr reads.plan.im_eq (only .staging (by decide)) v c lap
  unfold withCells
  dsimp only
  rw [if_pos (by rw [staged]; exact hmissing)]
  unfold missingCells
  exact {
    kept := abort_kept ((reads.trans (.of_only countMissing_only)).stepRuns_eq.trans runs) _ _ _
    out := abort_only.out_eq.trans countMissing_only.out_eq
    others := otherGroups_trans (reads.trans (.of_only countMissing_only)).others (abort_others _ _ _ _ _)
    only := (abort_only.mono (by decide)).trans' ((countMissing_only.mono (by decide)).trans' (only.mono (by decide))) }

theorem hopOpened_out_if (s : State) (v : OpView) (c : Nat) (ph : CtxPhase) (env : HopEnv) : (s.hopOpened v c ph env).out
    = s.out ++ (if 0 = 0 ∧ v.l.deferred = false then [s.gradReads v c] else []) := by
  rw [hopOpened_out]
  cases v.l.deferred <;> simp

/-- The hop of a middle member or the owner, where a cell of the ebb lap is missing. -/
theorem withReads_missing {s : State} {v : OpView} {c : Nat} {env : HopEnv} (runs : s.stepRuns v.g = true)
    (hue : env.contextUE = false) (hbad : s.genBad v false c env.stackUE = [])
    (hmissing : (s.stagedCells v c 0).any (·.isNone) = true) (f : State → List Bytes → State) :
    MissingEnds s (s.hopOpened v c .ebbWait env)
      ((s.takeCtx v c (s.hopBay v c) .ebbWait).withReads v c env (fun s => s.withCells v c 0 env f)) v c := by
  rw [withReads_opened hue hbad]
  exact withCells_missing runs (s.hopOpened_reads v c .ebbWait env) (s.hopOpened_only v c .ebbWait env) hmissing env f

theorem floodDeliver_missing {s : State} {v : OpView} {c : Nat} {env : HopEnv} (runs : s.stepRuns v.g = true)
    (hue : env.contextUE = false) (hmissing : (s.stagedCells v c 1).any (·.isNone) = true) :
    MissingEnds s s (s.floodDeliver v c env) v c := by
  have ends (f : State → List Bytes → State) := withCells_missing runs (noteErrors_reads s v.g env)
    (noteErrors_only.mono (by decide)) hmissing env f
  unfold floodDeliver
  dsimp only
  rw [if_neg (by simp [hue])]
  exact ⟨(ends _).kept, (ends _).out.trans noteErrors_only.out_eq, (ends _).others, (ends _).only⟩

end State

theorem exec_floodReceive {s : State} {g b c : Nat} {env : HopEnv} {v : OpView} (hr : s.running = true)
    (hat : s.floodAt g b c = some v) : exec (.floodReceive g b c env) s = .next (s.floodDeliver v c env) := by
  show execFloodReceive g b c env s = _
  unfold execFloodReceive
  rw [whenRunning_run hr, hat]

/-- Settles O35: the owner's hop, once formed, aborts or delivers, and a receiver delivers; the ends of the lap say what each
sent and entered, and a missing cell ends the step of either. -/
theorem ownerAndReceiversCheckTheLedger : Obligations.OwnerAndReceiversCheckTheLedger := by
  unfold Obligations.OwnerAndReceiversCheckTheLedger
  refine ⟨?_, ?_, ?_⟩
  · intro g b c env v got cells u d w s hr hat hue hbad hgot hcells hu hd hw
    obtain ⟨f, formed, unreadable, differs, delivers⟩ :=
      State.ownerStep_ends (hopAt_runs hat) hue hbad hgot hcells hu hd hw
    have run := exec_ownerHop (env := env) hr hat
    refine ⟨?_, ?_, ?_⟩
    · rintro ⟨hrel, hfb, hheld⟩
      obtain ⟨kept, out, others, only⟩ := differs ⟨hrel, formed.floodBad_nil hfb, hheld⟩
      exact ⟨_, run, kept, out, others, only⟩
    · intro k hk hrel hmet hcells
      obtain ⟨kept, out, others, only⟩ := unreadable ⟨hrel, formed.floodBad_met hk hmet hcells⟩
      exact ⟨_, run, kept, out, others, only⟩
    · intro hgood
      have done := delivers (hgood.imp_right fun ⟨hfb, hheld⟩ => ⟨formed.floodBad_nil hfb, hheld⟩)
      obtain ⟨x, hx, hebb, hflood, hin, hsum, hpass⟩ := done.ctx
      have sent := done.sent
      have out := done.out
      rw [← hsum] at sent
      rw [bnat_not] at sent out
      exact ⟨_, x, run, hx, hebb, hflood, hin, hsum, hpass, sent, out, done.stack,
        fun a ha => done.stack ▸ State.genWrites_outside ha, done.others, State.ownerStep_only⟩
  · intro g b c env v got cells u d slots s hr hat hue hgot hcells hu hd hslots
    obtain ⟨hruns, rfl, rfl, x, hx⟩ := State.floodAt_due hat
    have done := State.floodDeliver_delivers hx hue hgot hcells hu hd hslots
    obtain ⟨x, hx, hflood, hchecked, hledger, htally, hpass⟩ := done.ctx
    exact ⟨_, x, exec_floodReceive hr hat, hx, hflood, hchecked, hledger, htally, hpass, done.sent, done.out, done.others,
      State.floodDeliver_only⟩
  · rintro i g b c lap env v s hr (⟨rfl, rfl, hat, hbad⟩ | ⟨rfl, rfl, hat, hbad⟩ | ⟨rfl, rfl, hat⟩) hue hmissing rfl
    · have ends : State.MissingEnds s (s.hopOpened v c .ebbWait env) (s.ebbMiddle v c env) v c :=
        State.withReads_missing (hopAt_runs hat) hue hbad hmissing _
      exact ⟨_, exec_ebbHop hr hat, ends.kept, ends.out.trans (State.hopOpened_out_if ..), ends.others, ends.only⟩
    · have ends : State.MissingEnds s (s.hopOpened v c .ebbWait env) (s.ownerStep v c env) v c :=
        State.withReads_missing (hopAt_runs hat) hue hbad hmissing _
      exact ⟨_, exec_ownerHop hr hat, ends.kept, ends.out.trans (State.hopOpened_out_if ..), ends.others, ends.only⟩
    · obtain ⟨hruns, -, -, -⟩ := State.floodAt_due hat
      obtain ⟨kept, out, others, only⟩ := State.floodDeliver_missing hruns hue hmissing
      exact ⟨_, exec_floodReceive hr hat, kept, out.trans (List.append_nil _).symm, others, only⟩

end Sys2Proof.Machine
end

/-! ## Replay rounds, folds and a spare's writes (R154, R190 to R194, R216) -/

section

namespace Sys2Proof.Machine

set_option Elab.async false

open Sys2Proof

/-! ### Lengths of residuals -/

theorem storeResiduals_length (d : ImgBucket) (r : Vec) : (storeResiduals d r).bytes.length = resWidth d * r.v.length := by
  unfold storeResiduals
  simp [List.length_flatMap, Vec.toDys, Function.comp_def, Nat.mul_comm]

theorem readResiduals_length (d : ImgBucket) (b : Bytes) : (readResiduals d b).v.length = b.length / resWidth d := by
  unfold readResiduals Vec.ofDys
  simp

theorem mem_addOnce_iff {α : Type} [DecidableEq α] {l : List α} {x y : α} : y ∈ addOnce l x ↔ y ∈ l ∨ y = x := by
  unfold addOnce
  split
  · rename_i hx
    exact ⟨.inl, fun h => h.elim id fun e => e ▸ hx⟩
  · simp

theorem vec_add_length_le (x y : Vec) : (x.add y).v.length ≤ x.v.length := by
  unfold Vec.add Vec.toUnit
  simp

namespace State

theorem readGen_length (s : State) (v : OpView) (b : Bool) (c : Nat) : (s.readGen v b c).v.length = v.limit c := by
  unfold readGen
  rw [readResiduals_length, Mem.length_readBytes]
  refine Nat.mul_div_cancel_left _ ?_
  unfold resWidth
  split <;> decide

/-- What the stacks hold of generation B, read under the same plan. -/
theorem SamePlan.readGenB_eq {s t : State} (h : s.SamePlan t) (m : Mem) (v : OpView) (c : Nat) :
    ({ t with stack := m } : State).readGenB v c = ({ s with stack := m } : State).readGenB v c :=
  readGen_congr (s := { s with stack := m }) (t := { t with stack := m })
    ⟨h.image, h.ident, h.time, h.ports, h.buckets, h.dumap, h.table, h.step⟩ rfl v true c

/-- What is added to a residual takes no more bytes than it. -/
theorem foldedResidual_length (s : State) (v : OpView) (c : Nat) (x : Vec) :
    (storeResiduals v.d ((s.readGenB v c).add x)).bytes.length ≤ resWidth v.d * v.limit c := by
  rw [storeResiduals_length]
  exact Nat.mul_le_mul_left _ ((vec_add_length_le _ _).trans (s.readGen_length v true c).le)

/-! ### Writing generation B of chunks in turn -/

/-- One chunk's part of the input region is read and generation B of it is written. -/
structure ChunkStored (s t : State) (v : OpView) (c : Nat) (r : Vec) : Prop where
  plan : s.SamePlan t
  others : OtherGroups v.g s t
  out : t.out = s.out ++ [s.gradReads v c]
  stack : t.stack = s.stack.writeBytes (s.genAddr v.d true (v.base c)) (storeResiduals v.d r).bytes
  written : (t.group v.g).written = addOnce (s.group v.g).written (v.d.bucket * 2 ^ 20 + c)
  only : OnlyChanges [.out, .groups, .stack, .badUnits, .events, .stats, .maint] s t

/-- Chunks' parts of the input region are read and generation B of them is written, each from what the stacks then hold. -/
structure ChunksStored (s t : State) (v : OpView) (r : State → Nat → Vec) (cs : List Nat) : Prop where
  plan : s.SamePlan t
  others : OtherGroups v.g s t
  out : t.out = s.out ++ cs.map (s.gradReads v)
  stack : t.stack = s.genWrites v r cs
  written : ∀ k, (k ∈ (s.group v.g).written ∨ ∃ c ∈ cs, k = v.d.bucket * 2 ^ 20 + c) → k ∈ (t.group v.g).written
  only : OnlyChanges [.out, .groups, .stack, .badUnits, .events, .stats, .maint] s t

/-- Storing a first chunk and then the rest, where what is stored reads the plan and the stacks only. -/
theorem ChunksStored.cons {s t u : State} {v : OpView} {r : State → Nat → Vec} {c : Nat} {cs : List Nat}
    (h : ChunkStored s t v c (r s c)) (k : ChunksStored t u v r cs)
    (hr : ∀ m c, r { t with stack := m } c = r { s with stack := m } c) : ChunksStored s u v r (c :: cs) where
  plan := h.plan.trans k.plan
  others := otherGroups_trans h.others k.others
  out := by
    rw [k.out, h.out, show t.gradReads v = s.gradReads v from funext (h.plan.gradReads_eq v), List.append_assoc]
    rfl
  stack := by
    rw [k.stack]
    unfold genWrites
    simp only [List.foldl_cons, h.plan.genAddr_eq, hr, h.stack]
  written := fun x hx => by
    refine k.written x ?_
    rw [h.written, mem_addOnce_iff]
    simpa [List.mem_cons, or_assoc] using hx
  only := k.only.trans' h.only

theorem ChunksStored.nil (s : State) (v : OpView) (r : State → Nat → Vec) : ChunksStored s s v r [] where
  plan := .refl s
  others := fun _ _ => rfl
  out := (List.append_nil _).symm
  stack := rfl
  written := fun k hk => hk.elim id fun ⟨c, hc, _⟩ => absurd hc (by simp)
  only := .refl

theorem chunksStored {p : State} {v : OpView} {r : State → Nat → Vec} {f : State → Nat → State}
    (hf : ∀ u c, p.SamePlan u → ChunkStored u (f u c) v c (r u c))
    (hr : ∀ {u t : State}, u.SamePlan t → ∀ m c, r { t with stack := m } c = r { u with stack := m } c) (cs : List Nat)
    {s : State} (hs : p.SamePlan s) : ChunksStored s (cs.foldl f s) v r cs := by
  induction cs generalizing s with
  | nil => exact .nil s v r
  | cons c cs ih => exact .cons (hf s c hs) (ih (hs.trans (hf s c hs).plan)) (hr (hf s c hs).plan)

/-- Outside generation B of the chunks the stacks stay. -/
theorem genWrites_read {s : State} {v : OpView} {r : State → Nat → Vec} {cs : List Nat} {n : Nat → Nat} {a : Nat}
    (hn : ∀ m, ∀ c ∈ cs, (storeResiduals v.d (r { s with stack := m } c)).bytes.length ≤ n c)
    (ha : ∀ c ∈ cs, s.outsideGenB v c (n c) a) : (s.genWrites v r cs).read a = s.stack.read a := by
  have steps (m : Mem) : (cs.foldl (fun m c => m.writeBytes (s.genAddr v.d true (v.base c))
      (storeResiduals v.d (r { s with stack := m } c)).bytes) m).read a = m.read a := by
    induction cs generalizing m with
    | nil => rfl
    | cons c cs ih =>
      have hlen := hn m c List.mem_cons_self
      have hout := ha c List.mem_cons_self
      unfold outsideGenB at hout
      rw [List.foldl_cons, ih (fun m d hd => hn m d (List.mem_cons_of_mem _ hd)) fun d hd => ha d (List.mem_cons_of_mem _ hd)]
      exact Mem.read_writeBytes_other (by omega)
  exact steps s.stack

/-! ### A fold's chunk and a spare's -/

/-- Before the residual is written: the read has gone out, maxima and nonfinite elements are noted. -/
structure ChunkRead (s t : State) (v : OpView) (c : Nat) : Prop where
  plan : s.SamePlan t
  others : OtherGroups v.g s t
  out : t.out = s.out ++ [s.gradReads v c]
  written : (t.group v.g).written = (s.group v.g).written
  only : OnlyChanges [.out, .groups, .events, .stats] s t

theorem ChunkRead.stored {s t : State} {v : OpView} {c : Nat} (h : ChunkRead s t v c) (r : Vec) :
    ChunkStored s (t.writeGen v c r) v c r where
  plan := h.plan.trans (writeGen_reads _ _ _ _).plan
  others := otherGroups_trans h.others (writeGen_reads _ _ _ _).others
  out := writeGen_only.out_eq.trans h.out
  stack := by rw [writeGen_stack, h.plan.genAddr_eq, h.only.stack_eq]
  written := by rw [writeGen_written, h.written]
  only := (writeGen_only.mono (by decide)).trans' (h.only.mono (by decide))

theorem emit_read (s : State) (v : OpView) (c : Nat) : ChunkRead s (s.emit (s.gradReads v c)) v c where
  plan := .of_only emit_only
  others := fun _ _ => rfl
  out := rfl
  written := rfl
  only := emit_only.mono (by decide)

theorem ChunkRead.noteMax {s t : State} {v : OpView} {c : Nat} (h : ChunkRead s t v c) (bay bits : Nat) :
    ChunkRead s (t.noteMax v.g v.d.bucket bay bits) v c where
  plan := h.plan.trans (modStats_reads _ _ _ _).plan
  others := otherGroups_trans h.others (modStats_reads _ _ _ _).others
  out := noteMax_only.out_eq.trans h.out
  written := by
    unfold State.noteMax modStats
    rw [modGroup_group]
    exact h.written
  only := (noteMax_only.mono (by decide)).trans' h.only

theorem enterLedger_written (s : State) (g kind bucket arg : Nat) :
    ((s.enterLedger g kind bucket arg).group g).written = (s.group g).written := by
  unfold enterLedger
  extract_lets +onlyGivenNames gr e s₁
  have h₁ : (s₁.group g).written = (s.group g).written := by
    rw [show s₁.group g = _ from ledgerEvent_only.group_eq g, modGroup_group]
  split
  · rw [ledgerEvent_only.group_eq, h₁]
  · exact h₁

theorem ChunkRead.foldNonfinite {s t : State} {v : OpView} {c : Nat} (h : ChunkRead s t v c) (n : Nat) :
    ChunkRead s (t.foldNonfinite v c n) v c := by
  have counted : OnlyChanges [.events, .stats] t ((t.bumpG .nonfiniteIn v.g n).bumpBy .nonfiniteZero n) :=
    (bumpBy_only.mono (by decide)).trans' bumpG_only
  have entered := enterLedger_keeps ((t.bumpG .nonfiniteIn v.g n).bumpBy .nonfiniteZero n) v.g 7 v.d.bucket c
  have written := enterLedger_written ((t.bumpG .nonfiniteIn v.g n).bumpBy .nonfiniteZero n) v.g 7 v.d.bucket c
  unfold State.foldNonfinite
  split
  · exact h
  · exact {
      plan := (h.plan.trans (.of_only counted)).trans entered.plan
      others := otherGroups_trans (otherGroups_trans h.others fun i _ => counted.group_eq i) entered.others
      out := enterLedger_only.out_eq.trans (counted.out_eq.trans h.out)
      written := written.trans ((congrArg Group.written (counted.group_eq v.g)).trans h.written)
      only := (enterLedger_only.mono (by decide)).trans' ((counted.mono (by decide)).trans' h.only) }

theorem foldChunk_stored (s : State) (v : OpView) (grad : Bytes) (c : Nat) :
    ChunkStored s (s.foldChunk v grad c) v c ((s.readGenB v c).add (rotatedInput v grad c).1) := by
  unfold foldChunk
  extract_lets +onlyGivenNames x xd s₁
  have read : ChunkRead s s₁ v c := (s.emit_read v c).noteMax _ _
  rw [show s₁.readGenB v c = s.readGenB v c from readGen_congr read.plan read.only.stack_eq _ _ _]
  exact (read.foldNonfinite _).stored _

theorem spareChunk_stored (s : State) (v : OpView) (grad : Bytes) (c : Nat) :
    ChunkStored s (s.spareChunk v grad c) v c (rotatedInput v grad c).1 :=
  ((s.emit_read v c).foldNonfinite _).stored _

/-! ### Operations of a queue -/

/-- The operation at an index, as a change leaves it. -/
theorem modOp_find (s : State) (g i : Nat) {f : QueueOp → QueueOp} (hf : ∀ o, (f o).index = o.index) :
    ((s.modOp g i f).queue g).ops.find? (fun o => o.index == i)
      = ((s.queue g).ops.find? (fun o => o.index == i)).map f := by
  unfold modOp modQueue
  rw [setQueue_queue]
  exact find?_updateWhere (fun o ho => by rw [hf]; exact ho) _

theorem modOp_otherQueues (s : State) (g i : Nat) (f : QueueOp → QueueOp) : OtherQueues g s (s.modOp g i f) :=
  fun _ hj => setQueue_queue_other _ _ hj

theorem modLaunch_otherQueues (s : State) (g i : Nat) (f : Launch → Launch) : OtherQueues g s (s.modLaunch g i f) :=
  modOp_otherQueues _ _ _ _

/-- The launched operation at an index is that of the queue. -/
theorem opAt_find {s : State} {g i : Nat} {v : OpView} (h : s.opAt g i = some v) :
    (s.queue g).ops.find? (fun o => o.index == i) = some v.op ∧ v.op.launch = some v.l := by
  unfold opAt at h
  simp only [Option.bind_eq_some_iff, Option.map_eq_some_iff] at h
  obtain ⟨o, ho, l, hl, d, -, q, -, rfl⟩ := h
  exact ⟨ho, hl⟩

theorem modOp_found {s t : State} {g i : Nat} {o : QueueOp}
    (ho : (s.queue g).ops.find? (fun o => o.index == i) = some o) (hq : t.queue g = s.queue g) {f : QueueOp → QueueOp}
    (hf : ∀ o, (f o).index = o.index) : ((t.modOp g i f).queue g).ops.find? (fun o => o.index == i) = some (f o) := by
  rw [modOp_find _ _ _ hf, hq, ho]
  rfl

/-- The launch at an index after a change of it. -/
theorem modLaunch_found {s t : State} {g i : Nat} {o : QueueOp} {l : Launch}
    (ho : (s.queue g).ops.find? (fun o => o.index == i) = some o) (hl : o.launch = some l) (hq : t.queue g = s.queue g)
    (f : Launch → Launch) : ∃ o, ((t.modLaunch g i f).queue g).ops.find? (fun o => o.index == i) = some o
      ∧ o.launch = some (f l) :=
  ⟨{ o with launch := o.launch.map f }, modOp_found ho hq fun _ => rfl, by rw [hl]; rfl⟩

/-! ### Replay rounds -/

theorem restoreCtxs_others (s : State) (v : OpView) (start round : Nat) (cs : List Nat) :
    OtherGroups v.g s (cs.foldl (fun s c => s.restoreCtx v c start round) s) := by
  induction cs generalizing s with
  | nil => exact fun _ _ => rfl
  | cons c cs ih => exact otherGroups_trans (modCtx_others _ _ _ _ _) (ih _)

/-- A replay round takes the set of R190. -/
theorem launchReplay_takes {s : State} {v : OpView} (h : s.opAt v.g v.op.index = some v) (q : Nat) :
    (∃ o l, ((s.launchReplay v q).queue v.g).ops.find? (fun x => x.index == v.op.index) = some o ∧ o.launch = some l
        ∧ l.replays = v.l.replays ++ [s.replaySet v])
      ∧ OtherQueues v.g s (s.launchReplay v q) ∧ OtherGroups v.g s (s.launchReplay v q) := by
  obtain ⟨ho, hl⟩ := opAt_find h
  unfold launchReplay
  extract_lets +onlyGivenNames set s₁ s₂
  have restored : OnlyChanges [.groups] s s₁ := only_foldl .refl fun _ _ h => h.trans restoreCtx_only
  have queue₁ (i : Nat) : s₁.queue i = s.queue i := restored.queue_eq i
  have others₁ : OtherGroups v.g s s₁ := restoreCtxs_others _ _ _ _ _
  have queue₂ : ∃ o, (s₂.queue v.g).ops.find? (fun x => x.index == v.op.index) = some o ∧ o.launch = some v.l := by
    show ∃ o, (State.queue (if set.isEmpty then s₁ else _) v.g).ops.find? _ = _ ∧ _
    split
    · exact ⟨v.op, by rw [queue₁]; exact ho, hl⟩
    · exact ⟨_, modOp_found ho (queue₁ v.g) fun _ => rfl, hl⟩
  have otherQueues₂ : OtherQueues v.g s s₂ := by
    show OtherQueues v.g s (if set.isEmpty then s₁ else _)
    split
    · exact fun i _ => queue₁ i
    · exact fun i hi => (modOp_otherQueues _ _ _ _ i hi).trans (queue₁ i)
  have groups₂ : OnlyChanges [.queues] s₁ s₂ := only_ite .refl modOp_only
  obtain ⟨o, ho₂, hl₂⟩ := queue₂
  obtain ⟨o', ho', hl'⟩ := modLaunch_found ho₂ hl₂ rfl (fun l => { l with replays := l.replays ++ [set] })
  refine ⟨⟨o', _, ho', hl', rfl⟩, ?_, ?_⟩
  · exact fun i hi => (modLaunch_otherQueues _ _ _ _ i hi).trans (otherQueues₂ i hi)
  · exact fun i hi => (modLaunch_only.group_eq i).trans ((groups₂.group_eq i).trans (others₁ i hi))

/-! ### Statistics -/

/-- From `s` to `t` the other groups and the group's statistics stay. -/
structure StatsKept (g : Nat) (s t : State) : Prop where
  others : OtherGroups g s t
  stats : (t.group g).stats = (s.group g).stats

namespace StatsKept

variable {g : Nat} {s t u : State}

theorem refl : StatsKept g s s := ⟨fun _ _ => rfl, rfl⟩

theorem trans (h : StatsKept g s t) (k : StatsKept g t u) : StatsKept g s u :=
  ⟨otherGroups_trans h.others k.others, k.stats.trans h.stats⟩

theorem of_only {P : List Part} (h : OnlyChanges P s t) (hg : .groups ∉ P := by decide) : StatsKept g s t :=
  ⟨fun i _ => h.group_eq i hg, by rw [h.group_eq g hg]⟩

theorem modGroup {f : Group → Group} (hf : ∀ x, (f x).stats = x.stats) : StatsKept g s (s.modGroup g f) :=
  ⟨modGroup_others _ _ _, by rw [modGroup_group]; exact hf _⟩

end StatsKept

theorem modExpress_statsKept (s : State) (g kind tag : Nat) (f : Express → Express) :
    StatsKept g s (s.modExpress g kind tag f) := by
  unfold modExpress
  refine .modGroup fun x => ?_
  split <;> rfl

theorem forwardReduce_statsKept (s : State) (g kind tag : Nat) : StatsKept g s (s.forwardReduce g kind tag) := by
  unfold forwardReduce
  split
  · split
    · split
      · exact .refl
      · exact (StatsKept.of_only countScalar_only).trans ((modExpress_statsKept _ _ _ _ _).trans (.of_only send_only))
    · exact .refl
  · exact .refl

theorem giveOperand_statsKept (s : State) (g kind tag op own : Nat) (flag : Bool) :
    StatsKept g s (s.giveOperand g kind tag op own flag) := by
  unfold giveOperand
  extract_lets +onlyGivenNames s₁
  have h₁ : StatsKept g s s₁ := modExpress_statsKept _ _ _ _ _
  clear_value s₁
  refine h₁.trans ?_
  split
  · split
    · split
      · exact .refl
      · rename_i e _ _
        have counted : OnlyChanges [.events, .stats] s₁ (if (originMsg g e own).kind = kScalar ∧ (originMsg g e own).flag then
            s₁.bumpG .scalarSat g 1 else s₁) := only_ite bumpG_only .refl
        exact (StatsKept.of_only counted).trans ((modExpress_statsKept _ _ _ _ _).trans (.of_only send_only))
    · exact .refl
  · exact forwardReduce_statsKept _ _ _ _

/-- A bucket's statistics are entered once. -/
theorem enterStats_enters (s : State) (g b : Nat) :
    OtherGroups g s (s.enterStats g b) ∧ (((s.enterStats g b).group g).stats.get {} b).entered = true := by
  unfold enterStats
  extract_lets +onlyGivenNames st s₁ s₂
  split
  · exact ⟨fun _ _ => rfl, ‹_›⟩
  · have kept : StatsKept g s₁ ((s₂.giveCount g (b + 2 ^ 12) (engineClip st)).giveCount g (b + 2 ^ 13) (engineOvf st)) :=
      (giveOperand_statsKept _ _ _ _ _ _ _).trans
        ((giveOperand_statsKept _ _ _ _ _ _ _).trans (giveOperand_statsKept _ _ _ _ _ _ _))
    refine ⟨otherGroups_trans (modGroup_others _ _ _) kept.others, ?_⟩
    rw [kept.stats, show s₁ = s.modStats g b (fun x => { x with entered := true }) from rfl]
    unfold modStats
    rw [modGroup_group]
    unfold Tbl.mod
    dsimp only
    rw [Tbl.get_set_same]

/-! ### A flood replay -/

/-- The context of a chunk whose flood the owner has replayed. -/
def floodReplayedCtx (x : Ctx) : Ctx :=
  { x with phase := phaseOr x .ownerDone, floodDone := true, ownPass := true, checked := true }

theorem SamePlan.wideUnits_eq {s t : State} (h : s.SamePlan t) (v : OpView) (c : Nat) : t.wideUnits v c = s.wideUnits v c := by
  unfold wideUnits wideRange slotRange widePlace
  rw [h.im_eq, h.image]

/-- The owner puts the cells of the retained sum into its slots of the flood lap again. -/
theorem replayFlood_sends {s : State} {v : OpView} {c : Nat} {env : HopEnv} {x : Ctx} {r : Retained} {wide : List Int} {e : Encoded}
    (hx : s.ctx v.g v.d.bucket c = some x) (hue : env.contextUE = false) (hbad : s.retainBad v c env.stackUE = [])
    (hr : s.retainedOf v.g v.d.bucket c = some r) (hw : r.wide = some wide) (he : e = encodeChunk v false r.marks wide r.indices)
    (hflood : x.flood = (s.lcOf v c e.sent + s.structOf v c e.entries) % lcMod) :
    (s.replayFlood v c env).ctx v.g v.d.bucket c = some (floodReplayedCtx x)
      ∧ s.cellsSent (s.replayFlood v c env) v c 1 (withErrors (s.chunkCells v c 1 x.tally
          (x.flood + 2 ^ 61 + x.replays % 4 * 2 ^ 62) e.payloads) env.stagedOut)
      ∧ OtherGroups v.g s (s.replayFlood v c env) := by
  unfold replayFlood
  extract_lets +onlyGivenNames b s₁
  have reads : HopReads v.g s s₁ := noteErrors_reads _ _ _
  have group₁ (i : Nat) : s₁.group i = s.group i := noteErrors_only.group_eq i
  have hx₁ : s₁.ctx v.g b c = some x := (ctx_congr (congrArg Group.ctxs (group₁ v.g)) _ _).trans hx
  have hr₁ : s₁.retainedOf v.g b c = some r := (reads.retainedOf_eq _ _).trans hr
  have hbad₁ : s₁.retainBad v c env.stackUE = [] := by
    unfold retainBad at hbad ⊢
    rw [reads.plan.wideUnits_eq, show s₁.badUnits = s.badUnits from noteErrors_only.badUnits_eq, hbad]
  rw [if_neg (by simp [hue]), hbad₁, if_neg (by simp), hr₁, hx₁]
  simp only [Option.bind_some, hw, Option.map_some, Option.getD_some, ← he, reads.plan.lcOf_eq, reads.plan.structOf_eq,
    ← hflood, reads.plan.chunkCells_eq]
  rw [if_neg (by simp)]
  have kept (f : Retained → Retained) : DeliveryKeeps v.g s₁ (((s₁.countEnc v.g e).retain v c f).writeRetention v c false) :=
    (DeliveryKeeps.of_only countEnc_only).trans ((retain_keeps _ _ _ _).trans (.of_only writeRetention_only))
  have ends (u : State) (cells : List Bytes) : LapEnds u (((u.sendChunk v c 1 cells).modCtx v.g v.d.bucket c
      floodReplayedCtx).startVerdict v c) v c floodReplayedCtx cells :=
    (lapEntered (f := floodReplayedCtx) (sendChunk_cellsSent u v c 1 cells) sendChunk_only fun _ => ⟨rfl, rfl⟩).startVerdict
  refine ⟨(ends _ _).ctx.trans (congrArg _ ((ctx_congr (kept _).ctxs _ _).trans hx₁)),
    cellsSent_congr (ends _ _).sent (reads.plan.trans (kept _).plan) fun _ => ⟨rfl, rfl⟩,
    otherGroups_trans (otherGroups_trans (fun i _ => group₁ i) (kept _).others) (ends _ _).others⟩

theorem foldBad_noted (s : State) (v : OpView) (env : HopEnv) : (s.noteErrors env).foldBad v env = s.foldBad v env := by
  have plan : s.SamePlan (s.noteErrors env) := (noteErrors_reads s 0 env).plan
  have same (b : Bool) (c : Nat) : (s.noteErrors env).genBad v b c env.stackUE = s.genBad v b c env.stackUE := by
    unfold genBad badIn
    rw [plan.genAddr_eq, noteErrors_only.badUnits_eq]
  unfold foldBad
  simp only [same]

/-- The chunks of a fold, from the state in which its errors are noted. -/
theorem foldChunks_stored (s : State) (v : OpView) (grad : Bytes) (cs : List Nat) :
    ChunksStored s (cs.foldl (fun s c => s.foldChunk v grad c) s) v
      (fun u c => (u.readGenB v c).add (rotatedInput v grad c).1) cs :=
  chunksStored (fun u c _ => u.foldChunk_stored v grad c) (fun plan m c => congrArg (Vec.add · _) (plan.readGenB_eq m v c)) cs
    (.refl s)

theorem SamePlan.spareView_eq {s t : State} (h : s.SamePlan t) (g : Nat) (op : QueueOp) (d : ImgBucket) (q : Nat) :
    t.spareView g op d q = s.spareView g op d q := by
  unfold spareView ringN
  rw [h.ringOf_eq]

/-- The chunks of a spare's writes, in the view of the ring in force. -/
theorem spareChunks_stored {p s : State} (hs : p.SamePlan s) (g : Nat) (op : QueueOp) (d : ImgBucket) (q : Nat) (grad : Bytes)
    (cs : List Nat) : ChunksStored s (cs.foldl (fun s c => s.spareChunk (s.spareView g op d q) grad c) s)
      (p.spareView g op d q) (fun _ c => (rotatedInput (p.spareView g op d q) grad c).1) cs := by
  refine chunksStored (fun u c hu => ?_) (fun _ _ _ => rfl) cs hs
  rw [hu.spareView_eq]
  exact u.spareChunk_stored _ grad c

/-- They begin once the errors of the reads are noted. -/
theorem ChunksStored.noted {s t : State} {v : OpView} {r : State → Nat → Vec} {cs : List Nat} {env : HopEnv}
    (h : ChunksStored (s.noteErrors env) t v r cs)
    (hr : ∀ m c, r { s.noteErrors env with stack := m } c = r { s with stack := m } c) :
    t.out = s.out ++ cs.map (s.gradReads v) ∧ t.stack = s.genWrites v r cs
      ∧ (∀ c ∈ cs, v.d.bucket * 2 ^ 20 + c ∈ (t.group v.g).written) ∧ OtherGroups v.g s t
      ∧ OnlyChanges [.out, .power, .groups, .stack, .badUnits, .events, .stats, .maint] s t := by
  have plan : s.SamePlan (s.noteErrors env) := (noteErrors_reads s 0 env).plan
  refine ⟨?_, ?_, fun c hc => h.written _ (.inr ⟨c, hc, rfl⟩),
    otherGroups_trans (fun i _ => noteErrors_only.group_eq i) h.others,
    (h.only.mono (by decide)).trans' (noteErrors_only.mono (by decide))⟩
  · rw [h.out, noteErrors_only.out_eq, show (s.noteErrors env).gradReads v = s.gradReads v from funext (plan.gradReads_eq v)]
  · rw [h.stack]
    unfold genWrites
    simp only [plan.genAddr_eq, hr, noteErrors_only.stack_eq]

/-- The state after a fold. -/
def folded (s : State) (v : OpView) (env : HopEnv) : State :=
  ((v.l.chunks.foldl (fun s c => s.foldChunk v env.grad c) (s.noteErrors env)).bumpG .deferFold v.g 1).modLaunch v.g v.op.index
    (fun l => { l with fold := .running })

theorem fold_folds {s : State} {v : OpView} {env : HopEnv} (hat : s.opAt v.g v.op.index = some v) : ∃ o l,
    ((s.folded v env).queue v.g).ops.find? (fun x => x.index == v.op.index) = some o ∧ o.launch = some l ∧ l.fold = .running
      ∧ (s.folded v env).out = s.out ++ v.l.chunks.map (s.gradReads v)
      ∧ (∀ c ∈ v.l.chunks, v.d.bucket * 2 ^ 20 + c ∈ ((s.folded v env).group v.g).written)
      ∧ (s.folded v env).stack = s.genWrites v (fun u c => (u.readGenB v c).add (rotatedInput v env.grad c).1) v.l.chunks
      ∧ (∀ a, (∀ c ∈ v.l.chunks, s.outsideGenB v c (resWidth v.d * v.limit c) a) →
          (s.folded v env).stack.read a = s.stack.read a)
      ∧ OtherQueues v.g s (s.folded v env) ∧ OtherGroups v.g s (s.folded v env)
      ∧ OnlyChanges [.out, .power, .queues, .groups, .stack, .badUnits, .events, .stats, .maint] s (s.folded v env) := by
  obtain ⟨ho, hl⟩ := opAt_find hat
  have plan : s.SamePlan (s.noteErrors env) := (noteErrors_reads s 0 env).plan
  obtain ⟨out, stack, written, groups, only⟩ := (foldChunks_stored (s.noteErrors env) v env.grad v.l.chunks).noted
    (fun m c => congrArg (Vec.add · _) (plan.readGenB_eq m v c))
  unfold folded
  generalize v.l.chunks.foldl (fun s c => s.foldChunk v env.grad c) (s.noteErrors env) = u at out stack written groups only ⊢
  have tail : OnlyChanges [.queues, .events, .stats] u ((u.bumpG .deferFold v.g 1).modLaunch v.g v.op.index
    (fun l => { l with fold := .running })) := (modLaunch_only.mono (by decide)).trans' (bumpG_only.mono (by decide))
  have queue (i : Nat) : (u.bumpG .deferFold v.g 1).queue i = s.queue i := (bumpG_only.queue_eq i).trans (only.queue_eq i)
  obtain ⟨o, ho', hl'⟩ := modLaunch_found ho hl (queue v.g) (fun l => { l with fold := .running })
  refine ⟨o, _, ho', hl', rfl, tail.out_eq.trans out, ?_, tail.stack_eq.trans stack, fun a ha => ?_, ?_, ?_,
    (tail.mono (by decide)).trans' (only.mono (by decide))⟩
  · rw [tail.group_eq]
    exact written
  · rw [tail.stack_eq, stack]
    exact genWrites_read (fun m c _ => foldedResidual_length _ _ _ _) ha
  · exact fun i hi => (modLaunch_otherQueues _ _ _ _ i hi).trans (queue i)
  · exact otherGroups_trans groups fun i _ => tail.group_eq i

/-- A complete fold's member enters the bucket's statistics. -/
theorem foldComplete_completes {s : State} {v : OpView} (hat : s.opAt v.g v.op.index = some v) : ∃ o l,
    ((((s.modLaunch v.g v.op.index (fun l => { l with fold := .done })).noteMovable v.g 1).enterStats v.g v.d.bucket).queue
        v.g).ops.find? (fun x => x.index == v.op.index) = some o ∧ o.launch = some l ∧ l.fold = .done
      ∧ ((((((s.modLaunch v.g v.op.index (fun l => { l with fold := .done })).noteMovable v.g 1).enterStats v.g
          v.d.bucket).group v.g).stats).get {} v.d.bucket).entered = true
      ∧ OtherQueues v.g s (((s.modLaunch v.g v.op.index (fun l => { l with fold := .done })).noteMovable v.g 1).enterStats v.g
          v.d.bucket)
      ∧ OtherGroups v.g s (((s.modLaunch v.g v.op.index (fun l => { l with fold := .done })).noteMovable v.g 1).enterStats v.g
          v.d.bucket) := by
  obtain ⟨ho, hl⟩ := opAt_find hat
  obtain ⟨o, ho', hl'⟩ := modLaunch_found ho hl rfl (fun l => { l with fold := .done })
  have others : OtherGroups v.g s ((s.modLaunch v.g v.op.index (fun l => { l with fold := .done })).noteMovable v.g 1) := by
    unfold noteMovable
    split
    · exact otherGroups_trans (fun i _ => modLaunch_only.group_eq i) (modGroup_others _ _ _)
    · exact fun i _ => modLaunch_only.group_eq i
  have queue (i : Nat) := (enterStats_only (u := (s.modLaunch v.g v.op.index
    (fun l => { l with fold := .done })).noteMovable v.g 1) (a1 := v.g) (a2 := v.d.bucket)).queue_eq i
  obtain ⟨groups, entered⟩ := enterStats_enters ((s.modLaunch v.g v.op.index
    (fun l => { l with fold := .done })).noteMovable v.g 1) v.g v.d.bucket
  refine ⟨o, _, ?_, hl', rfl, entered, fun i hi => ?_, otherGroups_trans others groups⟩
  · rw [queue, noteMovable_only.queue_eq]
    exact ho'
  · rw [queue, noteMovable_only.queue_eq]
    exact modLaunch_otherQueues _ _ _ _ i hi

/-- The operations of the step are of the queue. -/
theorem mem_of_mem_stepOps {s : State} {g : Nat} {op : QueueOp} (h : op ∈ s.stepOps g) : op ∈ (s.queue g).ops := by
  unfold stepOps at h
  extract_lets ops front at h
  obtain h | h := List.mem_append.mp h
  · exact List.mem_of_mem_filter ((List.takeWhile_sublist _).subset h)
  · exact List.mem_of_mem_filter (List.mem_of_mem_drop (List.mem_of_mem_take h))

/-- The state after a spare's writes. -/
def spareWritten (s : State) (g i : Nat) (env : HopEnv) (op : QueueOp) (d : ImgBucket) (n : Nat) : State :=
  ((s.spareChunks g d.bucket).foldl (fun s c => s.spareChunk (s.spareView g op d n) env.grad c) (s.noteErrors env)).modOp g i
    (fun o => { o with spareDone := true })

theorem spare_writes {s : State} {g i : Nat} {env : HopEnv} {op : QueueOp}
    (hop : (s.stepOps g).find? (fun o => o.index == i) = some op) (d : ImgBucket) (n : Nat) : ∃ o,
    ((s.spareWritten g i env op d n).queue g).ops.find? (fun x => x.index == i) = some o ∧ o.spareDone = true
      ∧ (s.spareWritten g i env op d n).out = s.out ++ (s.spareChunks g d.bucket).map (s.gradReads (s.spareView g op d n))
      ∧ (∀ c ∈ s.spareChunks g d.bucket, d.bucket * 2 ^ 20 + c ∈ ((s.spareWritten g i env op d n).group g).written)
      ∧ (s.spareWritten g i env op d n).stack = s.genWrites (s.spareView g op d n)
          (fun _ c => (rotatedInput (s.spareView g op d n) env.grad c).1) (s.spareChunks g d.bucket)
      ∧ (∀ a, (∀ c ∈ s.spareChunks g d.bucket, s.outsideGenB (s.spareView g op d n) c
            (storeResiduals d (rotatedInput (s.spareView g op d n) env.grad c).1).bytes.length a) →
          (s.spareWritten g i env op d n).stack.read a = s.stack.read a)
      ∧ OtherQueues g s (s.spareWritten g i env op d n) ∧ OtherGroups g s (s.spareWritten g i env op d n)
      ∧ OnlyChanges [.out, .power, .queues, .groups, .stack, .badUnits, .events, .stats, .maint] s
          (s.spareWritten g i env op d n) := by
  obtain ⟨out, stack, written, groups, only⟩ := (spareChunks_stored (noteErrors_reads s g env).plan g op d n env.grad
    (s.spareChunks g d.bucket)).noted (fun _ _ => rfl)
  unfold spareWritten
  generalize (s.spareChunks g d.bucket).foldl (fun s c => s.spareChunk (s.spareView g op d n) env.grad c)
    (s.noteErrors env) = u at out stack written groups only ⊢
  obtain ⟨o, ho⟩ := Option.isSome_iff_exists.mp (List.find?_isSome.mpr
    ⟨op, mem_of_mem_stepOps (List.mem_of_find?_eq_some hop), List.find?_some hop⟩)
  refine ⟨_, modOp_found ho (only.queue_eq g) fun _ => rfl, rfl, modOp_only.out_eq.trans out, ?_,
    modOp_only.stack_eq.trans stack, fun a ha => ?_, ?_, ?_, (modOp_only.mono (by decide)).trans' (only.mono (by decide))⟩
  · rw [modOp_only.group_eq]
    exact written
  · rw [modOp_only.stack_eq, stack]
    exact genWrites_read (fun m c _ => le_refl _) ha
  · exact fun j hj => (modOp_otherQueues _ _ _ _ j hj).trans (only.queue_eq j)
  · exact otherGroups_trans groups fun j _ => modOp_only.group_eq j

end State

/-- Settles O37: replay rounds, folds and a spare's writes chunk by chunk, each chunk's write from what the stacks then
hold, and the owner's flood replay as the end of a flood lap. -/
theorem replaysAndFoldsRun : Obligations.ReplaysAndFoldsRun := by
  unfold Obligations.ReplaysAndFoldsRun
  refine ⟨?_, ?_, ?_, ?_, ?_⟩
  · rintro g i v s hr hat hruns hphase hrounds hfrom hto rfl rfl
    obtain ⟨⟨o, l, ho, hl, hset⟩, queues, groups⟩ := State.launchReplay_takes hat v.l.replays.length
    refine ⟨_, o, l, ?_, ho, hl, hset, queues, groups, State.launchReplay_only⟩
    show execReplayRoundLaunch v.g v.op.index v.l.replays.length s = _
    unfold execReplayRoundLaunch State.replayRounds
    rw [whenRunning_run hr, hat]
    dsimp only
    rw [if_pos (by simp [hruns, hphase, hrounds, hfrom, hto])]
  · rintro g i env v s hr hat habort hdefer hfold hready hbad rfl rfl
    obtain ⟨o, l, ho, hl, hrunning, out, written, stack, outside, queues, groups, only⟩ :=
      State.fold_folds (env := env) hat
    refine ⟨_, o, l, ?_, ho, hl, hrunning, out, written, stack, outside, queues, groups, only⟩
    show execFold v.g v.op.index env s = _
    unfold execFold
    rw [whenRunning_run hr, hat]
    dsimp only
    rw [if_pos (by simp [habort, hdefer, hfold, hready]), State.foldBad_noted, hbad]
    rfl
  · rintro g i v s hr hat habort hfold rfl rfl
    obtain ⟨o, l, ho, hl, hdone, entered, queues, groups⟩ := State.foldComplete_completes hat
    refine ⟨_, o, l, ?_, ho, hl, hdone, entered, queues, groups, State.enterStats_only.mono (by decide) |>.trans'
      ((State.noteMovable_only.mono (by decide)).trans' (State.modLaunch_only.mono (by decide)))⟩
    show execFoldComplete v.g v.op.index s = _
    unfold execFoldComplete
    rw [whenRunning_run hr, hat]
    dsimp only
    rw [if_pos (by simp [habort, hfold])]
  · rintro g i n env op d v s hr rfl hop hd hpos hspare hexch hready
    refine ⟨fun hdone => ?_, fun hdone => ?_⟩
    · obtain ⟨o, ho, hwritten, out, written, stack, outside, queues, groups, only⟩ :=
        State.spare_writes (env := env) hop d n
      refine ⟨_, o, ?_, ho, hwritten, out, written, stack, outside, queues, groups, only⟩
      show execSpareResidualWrite g i env s = _
      unfold execSpareResidualWrite
      rw [whenRunning_run hr, hop]
      dsimp only
      rw [hd, hpos]
      dsimp only
      rw [if_pos (by simp [hspare, hexch, hready, hdone])]
      rfl
    · show execSpareResidualWrite g i env s = _
      unfold execSpareResidualWrite
      rw [whenRunning_run hr, hop]
      dsimp only
      rw [hd, hpos]
      dsimp only
      rw [if_neg (by simp [hdone])]
  · rintro g b c env v x r wide e s hr hop hruns hc hround howner rfl rfl hx hkind hflood hnow hue hbad hretained hwide he hsum
    obtain ⟨hy, sent, groups⟩ := State.replayFlood_sends hx hue hbad hretained hwide he hsum
    refine ⟨_, State.floodReplayedCtx x, ?_, hy, rfl, rfl, rfl, rfl, sent, groups, State.replayFlood_only⟩
    show execFloodReplay v.g v.d.bucket c env s = _
    unfold execFloodReplay
    rw [whenRunning_run hr, hop]
    dsimp only
    rw [if_pos (by simp [hruns, hc, hround, howner, hx, hkind, hflood, hnow])]

end Sys2Proof.Machine
end

/-! ## The check tide of an exchange (R133, R140 to R142, R152, R153) -/

section

namespace Sys2Proof.Machine

set_option Elab.async false

open Sys2Proof

namespace State

/-! ### The first reads of an operation -/

theorem SamePlan.firstReads_eq {s t : State} (h : s.SamePlan t) (v : OpView) : t.firstReads v = s.firstReads v := by
  unfold firstReads
  dsimp only
  rw [h.bayFabric_eq, h.table, h.txOf_eq, h.chunkBay_eq]

theorem SamePlan.opAt_eq {s t : State} (h : s.SamePlan t) {g : Nat} (hq : t.queue g = s.queue g) (i : Nat) :
    t.opAt g i = s.opAt g i := by
  unfold opAt
  rw [hq, h.im_eq, h.ringOf_eq]
  simp only [funext h.posIn_eq]

/-- An output that a step of a fold gives out for one of its items, under what the fold keeps, is out at the end. -/
theorem mem_foldl_out {α : Type} {e : Output} {f : State → α → State} {keeps : State → Prop}
    (stays : ∀ u a, keeps u → keeps (f u a)) (grows : ∀ u a, e ∈ u.out → e ∈ (f u a).out) {a : α}
    (gives : ∀ u, keeps u → e ∈ (f u a).out) {l : List α} (ha : a ∈ l) {s : State} (hs : keeps s) :
    e ∈ (l.foldl f s).out := by
  have later (l : List α) (s : State) (h : e ∈ s.out) : e ∈ (l.foldl f s).out := by
    induction l generalizing s with
    | nil => exact h
    | cons b l ih => exact ih _ (grows _ _ h)
  induction l generalizing s with
  | nil => exact absurd ha (by simp)
  | cons b l ih =>
    rw [List.foldl_cons]
    obtain rfl | h := List.mem_cons.mp ha
    · exact later _ _ (gives s hs)
    · exact ih h (stays s b hs)

theorem Tbl.mem_of_get_ne {α : Type} {d : α} {t : Tbl α} {i : Nat} (h : Tbl.get d t i ≠ d) : (i, Tbl.get d t i) ∈ t := by
  induction t with
  | nil => exact absurd rfl h
  | cons e t ih =>
    obtain ⟨k, v⟩ := e
    unfold Tbl.get at h ⊢
    split
    · rename_i hk
      rw [hk]
      exact List.mem_cons_self
    · rename_i hk
      rw [if_neg hk] at h
      exact List.mem_cons_of_mem _ (ih h)

/-- One operation's part of the boundary into the tide before its start. -/
def fetchOp (g : Nat) (s : State) (o : QueueOp) : State :=
  match o.launch with
  | some l =>
    if o.phase == .running && decide (l.s0 = s.now + 1) && !l.chunks.isEmpty && s.stepRuns g then
      match s.opAt g o.index with
      | some v => s.readFirst v
      | none => s
    else s
  | none => s

theorem fetchFirst_eq (s : State) :
    s.fetchFirst = s.queues.foldl (fun s (x : Nat × Queue) => x.2.ops.foldl (fetchOp x.1) s) s := rfl

theorem fetchOp_only (g : Nat) (s : State) (o : QueueOp) : OnlyChanges [.out] s (fetchOp g s o) := by
  unfold fetchOp
  split
  · split
    · split
      · exact readFirst_only
      · exact .refl
    · exact .refl
  · exact .refl

theorem fetchOp_grows {g : Nat} {s : State} {o : QueueOp} {e : Output} (h : e ∈ s.out) : e ∈ (fetchOp g s o).out := by
  unfold fetchOp
  split
  · split
    · split
      · exact List.mem_append_left _ h
      · exact h
    · exact h
  · exact h

/-- An operation that is to start in the next tide gets its first reads. -/
theorem fetchOp_gives {s u : State} {g i : Nat} {v : OpView} (same : OnlyChanges [.out] s u) (hat : s.opAt g i = some v)
    (hi : v.op.index = i) (hphase : v.op.phase = .running) (hstart : v.l.s0 = s.now + 1) (hchunks : v.l.chunks ≠ [])
    (hruns : s.stepRuns g = true) : s.firstReads v ∈ (fetchOp g u v.op).out := by
  obtain ⟨-, hl⟩ := opAt_find hat
  have plan : s.SamePlan u := .of_only same
  have runs : u.stepRuns g = true := by unfold stepRuns at hruns ⊢; rw [same.group_eq]; exact hruns
  unfold fetchOp
  rw [hl]
  dsimp only
  rw [if_pos (by simp [hphase, hstart, plan.now_eq, hchunks, runs]), hi, plan.opAt_eq (same.queue_eq g), hat]
  show s.firstReads v ∈ u.out ++ [u.firstReads v]
  rw [plan.firstReads_eq]
  exact List.mem_append_right _ (List.mem_singleton_self _)

theorem fetchFirst_gives {s : State} {g i : Nat} {v : OpView} (hat : s.opAt g i = some v) (hphase : v.op.phase = .running)
    (hstart : v.l.s0 = s.now + 1) (hchunks : v.l.chunks ≠ []) (hruns : s.stepRuns g = true) :
    s.firstReads v ∈ s.fetchFirst.out := by
  obtain ⟨ho, -⟩ := opAt_find hat
  have hop : v.op ∈ (s.queue g).ops := List.mem_of_find?_eq_some ho
  have hi : v.op.index = i := by simpa using List.find?_some ho
  have hqueue : (g, s.queue g) ∈ s.queues := by
    refine Tbl.mem_of_get_ne fun h => ?_
    rw [show s.queue g = {} from h] at hop
    exact absurd hop (by simp)
  have queue_only (u : State) (x : Nat × Queue) : OnlyChanges [.out] u (x.2.ops.foldl (fetchOp x.1) u) :=
    only_foldl .refl fun _ _ h => h.trans (fetchOp_only _ _ _)
  rw [fetchFirst_eq]
  refine mem_foldl_out (keeps := OnlyChanges [.out] s) (fun u x hu => hu.trans (queue_only u x)) (fun u x h => ?_)
    (fun u hu => ?_) hqueue .refl
  · exact List.foldlRecOn (motive := fun u : State => s.firstReads v ∈ u.out) x.2.ops (fetchOp x.1) h fun _ h _ _ => fetchOp_grows h
  · exact mem_foldl_out (f := fetchOp g) (a := v.op) (keeps := OnlyChanges [.out] s) (fun w o hw => hw.trans (fetchOp_only _ _ _)) (fun _ _ => fetchOp_grows)
      (fun w hw => fetchOp_gives hw hat hi hphase hstart hchunks hruns) hop hu

/-- The state `t` with the ports, the power state and the time of `s`, none of which an operation's first reads read. -/
def withPlanOf (s t : State) : State := { t with ports := s.ports, power := s.power, time := s.time }

theorem withPlanOf_samePlan {s t : State} (h : OnlyChanges [.out, .ports, .power, .time] s t) : s.SamePlan (s.withPlanOf t) where
  image := h.image_eq
  ident := h .ident (by decide)
  time := rfl
  ports := rfl
  buckets := h .buckets (by decide)
  dumap := rfl
  table := fun i => congrArg Group.table (h.group_eq i)
  step := fun i => congrArg Group.step (h.group_eq i)

/-- What goes out after the first reads of a boundary leaves the operations that they are for. -/
theorem firstReads_out {s t : State} (h : OnlyChanges [.ports, .power, .time] s.fetchFirst t) {g i : Nat} {v : OpView}
    (hat : t.opAt g i = some v) (hphase : v.op.phase = .running) (hstart : v.l.s0 = t.now + 1) (hchunks : v.l.chunks ≠ [])
    (hruns : t.stepRuns g = true) : t.firstReads v ∈ t.out := by
  have only : OnlyChanges [.out, .ports, .power, .time] s t := (h.mono (by decide)).trans' (fetchFirst_only.mono (by decide))
  have plan := withPlanOf_samePlan only
  have hat' : s.opAt g i = some v := (plan.opAt_eq (only.queue_eq g) i).symm.trans hat
  have hnow : t.now = s.now := (only .clock (by decide)).2.1
  have hruns' : s.stepRuns g = true := by unfold stepRuns at hruns ⊢; rw [← only.group_eq g]; exact hruns
  rw [h.out_eq, show t.firstReads v = s.firstReads v from plan.firstReads_eq v]
  exact fetchFirst_gives hat' hphase (hnow ▸ hstart) hchunks hruns'

theorem laterActions_reads (s : State) : ∃ u : State, OnlyChanges [.ports, .power, .time] u.fetchFirst s.laterActions := by
  unfold laterActions
  extract_lets +onlyGivenNames wasFramed s₁ s₂ s₃ s₄ s₅ s₆ s₇
  refine ⟨s₆, ?_⟩
  have h₇ : OnlyChanges [.ports, .power] s₆.fetchFirst s₇ := (wakeIfReady_only.mono (by decide)).trans' (captureMarks_only.mono (by decide))
  clear_value s₇
  exact only_still (h₇.mono (by decide)) ⟨rfl, rfl, rfl, rfl⟩ (by decide)

theorem settle_reads {s : State} (h : s.settle.time.boundaryOpen = false) (hopen : s.time.boundaryOpen = true) :
    ∃ u : State, OnlyChanges [.ports, .power, .time] u.fetchFirst s.settle := by
  unfold settle at h ⊢
  split
  · exact s.laterActions_reads
  · rename_i hturn
    rw [if_neg hturn, hopen] at h
    exact absurd h (by simp)

theorem settleOpened_reads (s : State)
    (h : ({ s with time := { s.time with boundaryOpen := true } } : State).settle.time.boundaryOpen = false) :
    ∃ u : State, OnlyChanges [.ports, .power, .time] u.fetchFirst
      ({ s with time := { s.time with boundaryOpen := true } } : State).settle := settle_reads h rfl

/-- A boundary sets about its actions in the state in which the tide has begun. -/
theorem boundary_settles (s : State) (env : TideEnv) :
    ∃ u : State, s.boundary env = ({ u with time := { u.time with boundaryOpen := true } } : State).settle := by
  unfold boundary
  extract_lets +onlyGivenNames s₁ wasFramed s₂ s₃ s₄ m s₅ s₆ s₇
  exact ⟨s₇, rfl⟩

/-- A boundary that has come to its end began its later actions with the first reads. -/
theorem boundary_reads {s : State} {env : TideEnv} (h : (s.boundary env).time.boundaryOpen = false) :
    ∃ u : State, OnlyChanges [.ports, .power, .time] u.fetchFirst (s.boundary env) := by
  obtain ⟨u, hu⟩ := s.boundary_settles env
  rw [hu] at h ⊢
  exact settleOpened_reads u h

/-! ### The launch -/

theorem find?_updateWhere_stable {α : Type} {p q : α → Bool} {f : α → α} (hf : ∀ x, p (f x) = p x) (l : List α) :
    (updateWhere q f l).find? p = (l.find? p).map (fun x => if q x then f x else x) := by
  induction l with
  | nil => rfl
  | cons x l ih =>
    unfold updateWhere at ih ⊢
    rw [List.map_cons, List.find?_cons, List.find?_cons]
    have hp : p (if q x = true then f x else x) = p x := by split <;> simp [hf]
    rw [hp]
    cases p x
    · exact ih
    · rfl

theorem modOp_findBy (s : State) (g i : Nat) {p : QueueOp → Bool} {f : QueueOp → QueueOp} (hp : ∀ o, p (f o) = p o) :
    ((s.modOp g i f).queue g).ops.find? p = ((s.queue g).ops.find? p).map (fun o => if o.index == i then f o else o) := by
  unfold modOp modQueue
  rw [setQueue_queue]
  exact find?_updateWhere_stable hp _

theorem SamePlan.ringPos_eq {s t : State} (h : s.SamePlan t) (g : Nat) : t.ringPos g = s.ringPos g := by
  unfold ringPos
  rw [h.ringOf_eq]
  simp only [funext h.posIn_eq]

/-- What the launch of an operation leaves: the operation with its launch, the plan and what went out. -/
structure Launched (s t : State) (g i k : Nat) (op : QueueOp) (d : ImgBucket) (r : ImgRing) (deferred : Bool) (o : QueueOp)
    (l : Launch) : Prop where
  found : (t.queue g).ops.find? (fun x => x.index == i && Desc.opcode x.raw == k) = some o
  launch : o.launch = some l
  phase : o.phase = if deferred then .deferred else .running
  readyAt : o.readyAt = some s.now
  varied : o.varied = (op.varied || deferred || (s.group g).sigma != 0)
  bucket : l.bucket = d.bucket
  start : l.s0 = s.plannedStart g d
  latched : l.et = (s.bucket d.bucket).et ∧ l.fallback = (s.bucket d.bucket).fallback
  ring : l.n = r.n ∧ l.rails = r.rails
  isDeferred : l.deferred = deferred
  chunks : l.chunks = s.carried g d ∧ l.waiting = s.carried g d ∧ l.replays = []
  out : t.out = s.out ++ (if deferred then [] else if s.plannedStart g d = s.now + 1 then
    [s.firstReads (OpView.mk g op l d ((s.ringPos g).getD 0))] else [])
  queues : OtherQueues g s t
  groups : OtherGroups g s t
  defers : deferred = true → OnlyChanges [.books, .queues, .groups, .events, .stats] s t
  runs : deferred = false → OnlyChanges [.out, .books, .queues, .groups] s t

/-- What follows the entry of a launch: a deferred one is counted and entered, another may have its first reads issued. -/
structure LaunchTail (s t : State) (g : Nat) (deferred : Bool) (reads : List Output) : Prop where
  queue : ∀ j, t.queue j = s.queue j
  groups : OtherGroups g s t
  out : t.out = s.out ++ (if deferred then [] else reads)
  defers : deferred = true → OnlyChanges [.groups, .events, .stats] s t
  runs : deferred = false → OnlyChanges [.out] s t

theorem launchTail_deferred (s : State) (g b i : Nat) (reads : List Output) :
    LaunchTail s ((s.bumpG .deferOps g 1).enterLedger g 1 b i) g true reads := by
  have only : OnlyChanges [.groups, .events, .stats] s ((s.bumpG .deferOps g 1).enterLedger g 1 b i) :=
    (enterLedger_only.mono (by decide)).trans' (bumpG_only.mono (by decide))
  exact {
    queue := only.queue_eq
    groups := otherGroups_trans (fun i _ => bumpG_only.group_eq i) (enterLedger_keeps _ _ _ _ _).others
    out := only.out_eq.trans (List.append_nil _).symm
    defers := fun _ => only
    runs := fun h => absurd h (by simp) }

theorem launchTail_reads (s : State) (g start : Nat) (v : OpView) : LaunchTail s
    (if start = s.now + 1 then s.readFirst v else s) g false (if start = s.now + 1 then [s.firstReads v] else []) where
  queue := fun j => (only_ite readFirst_only .refl).queue_eq j
  groups := fun i _ => (only_ite readFirst_only .refl).group_eq i
  out := by
    split
    · rfl
    · exact (List.append_nil _).symm
  defers := fun h => absurd h (by simp)
  runs := fun _ => only_ite readFirst_only .refl

/-- An operation with its launch entered. -/
def launchedOp (l : Launch) (now : Nat) (books : List (Nat × Nat)) (deferred slipped : Bool) (o : QueueOp) : QueueOp :=
  { o with launch := some l, books := o.books ++ books, phase := if deferred then .deferred else .running,
           readyAt := some now, varied := o.varied || deferred || slipped }

/-- The codebook that an operation latches, if it has one. -/
theorem latched_only (s : State) (g : Nat) (c : Option Nat) :
    OnlyChanges [.books] s (match c with | some c => s.latchBook g c | none => (s, [], 0, [])).1 := by
  split
  · exact latchBook_only
  · exact .refl

theorem launch_launched {s : State} {g i k : Nat} {op : QueueOp} {d : ImgBucket}
    (ho : (s.queue g).ops.find? (fun o => o.index == i && Desc.opcode o.raw == k) = some op) (hcarried : s.carried g d ≠ [])
    (r : ImgRing) (deferred : Bool) : ∃ o l, Launched s (s.launch g op d r deferred) g i k op d r deferred o l := by
  unfold launch
  extract_lets +onlyGivenNames b cb cs l s₁ s₂ s₃ s₄
  have books : OnlyChanges [.books] s s₁ := latched_only _ _ _
  have moved : OnlyChanges [.books, .queues, .groups] s s₃ :=
    (modGroup_only.mono (by decide)).trans' ((modOp_only.mono (by decide)).trans' (books.mono (by decide)))
  have plan₃ : s.SamePlan s₃ :=
    (SamePlan.of_only books).trans ((SamePlan.of_only modOp_only).trans (.modGroup fun _ => ⟨rfl, rfl⟩))
  have others₃ : OtherGroups g s s₃ := otherGroups_trans (fun i _ => (modOp_only.group_eq i).trans (books.group_eq i))
    (modGroup_others _ _ _)
  have hop : (op.index == op.index) = true := beq_self_eq_true _
  have entered : s₂ = s₁.modOp g op.index (launchedOp l s₁.now cb.2.2.2 deferred ((s₁.group g).sigma != 0)) := rfl
  have found₂ : (s₂.queue g).ops.find? (fun x => x.index == i && Desc.opcode x.raw == k)
      = some (launchedOp l s.now cb.2.2.2 deferred ((s.group g).sigma != 0) op) := by
    rw [entered, modOp_findBy (f := launchedOp l _ _ _ _) _ _ _ (fun _ => rfl), books.group_eq, (SamePlan.of_only books).now_eq, books.queue_eq, ho,
      Option.map_some, if_pos hop]
  have queues₂ : OtherQueues g s s₂ := fun j hj => (modOp_otherQueues _ _ _ _ j hj).trans (books.queue_eq j)
  have moved : OnlyChanges [.books, .queues, .groups] s s₃ :=
    (modGroup_only.mono (by decide)).trans' ((modOp_only.mono (by decide)).trans' (books.mono (by decide)))
  have plan₃ : s.SamePlan s₃ :=
    (SamePlan.of_only books).trans ((SamePlan.of_only modOp_only).trans (.modGroup fun _ => ⟨rfl, rfl⟩))
  have others₃ : OtherGroups g s s₃ := otherGroups_trans (fun i _ => (modOp_only.group_eq i).trans (books.group_eq i))
    (modGroup_others _ _ _)
  have queue₃ (j : Nat) : s₃.queue j = s₂.queue j := modGroup_only.queue_eq j
  have tail : LaunchTail s₃ s₄ g deferred (if s.plannedStart g d = s.now + 1 then
      [s.firstReads (OpView.mk g op l d ((s.ringPos g).getD 0))] else []) := by
    rw [← plan₃.firstReads_eq, ← plan₃.now_eq, ← plan₃.ringPos_eq]
    show LaunchTail s₃ (if deferred = true then _ else _) _ _ _
    split
    · rename_i h
      rw [h]
      exact launchTail_deferred _ _ _ _ _
    · rename_i h
      rw [Bool.eq_false_iff.mpr h]
      exact launchTail_reads _ _ _ _
  rw [if_neg (by simpa using hcarried)]
  clear_value s₄
  exact ⟨launchedOp l s.now cb.2.2.2 deferred ((s.group g).sigma != 0) op, l, {
    found := by rw [tail.queue, queue₃]; exact found₂
    launch := rfl
    phase := rfl
    readyAt := rfl
    varied := rfl
    bucket := rfl
    start := rfl
    latched := ⟨rfl, rfl⟩
    ring := ⟨rfl, rfl⟩
    isDeferred := rfl
    chunks := ⟨rfl, rfl, rfl⟩
    out := by rw [tail.out, moved.out_eq]
    queues := fun j hj => (tail.queue j).trans ((queue₃ j).trans (queues₂ j hj))
    groups := otherGroups_trans others₃ tail.groups
    defers := fun h => ((tail.defers h).mono (by decide)).trans' (moved.mono (by decide))
    runs := fun h => ((tail.runs h).mono (by decide)).trans' (moved.mono (by decide)) }⟩

/-! ### The check that ends the step -/

/-- The abort that a running step begins. -/
theorem abort_fresh {s : State} {g : Nat} (h : s.stepRuns g = true) (code chunk bucket : Nat) :
    ((s.abort g code chunk bucket).group g).abort = some (freshAbort code chunk bucket s.now) := by
  unfold stepRuns at h
  simp only [Bool.and_eq_true, Bool.or_eq_true, beq_iff_eq, Option.isNone_iff_eq_none] at h
  obtain ⟨hnone, hstate⟩ := h
  have able : s.abortable g = true := by
    unfold abortable
    obtain (h | h) | h := hstate <;> simp [h]
  unfold abort
  dsimp only
  rw [if_pos (by rw [able, hnone]; rfl), send_only.group_eq]
  unfold keepToken
  rw [modGroup_group, hnone]
  rfl

/-- A check that ends the step with a code, after what is counted and raised. -/
structure CheckEnds (s t : State) (g i code : Nat) : Prop where
  abort : (t.group g).abort = some (freshAbort code 0xFFFFF 0xFFF s.now)
  event : code = 0x08 → t.waitsEvent 0x0020 i
  groups : OtherGroups g s t
  only : OnlyChanges [.ports, .groups, .events, .stats] s t

theorem checkEnds {s s' : State} {g i code : Nat} (h : s.stepRuns g = true) (counted : OnlyChanges [.events, .stats] s s')
    (event : code = 0x08 → s'.waitsEvent 0x0020 i) : CheckEnds s (s'.abortGroup g code) g i code where
  abort := by
    have runs : s'.stepRuns g = true := by unfold stepRuns at h ⊢; rw [counted.group_eq]; exact h
    rw [← (SamePlan.of_only counted).now_eq]
    exact abort_fresh runs _ _ _
  event := fun h => (waitsEvent_congr abortGroup_only.events_eq).mpr (event h)
  groups := otherGroups_trans (fun i _ => counted.group_eq i) (abort_others _ _ _ _ _)
  only := (abortGroup_only.mono (by decide)).trans' (counted.mono (by decide))

theorem noteRefusal_waitsEvent (s : State) (g i : Nat) (b : Bytes) : (s.noteRefusal g i 0x08 b).waitsEvent 0x0020 i := by
  unfold noteRefusal
  dsimp only
  rw [if_pos rfl]
  exact raise_waitsEvent _ _

theorem refuseStep_ends {s : State} {g : Nat} (h : s.stepRuns g = true) (i code : Nat) (b : Bytes) :
    CheckEnds s (s.refuseStep g i code b) g i code :=
  checkEnds h noteRefusal_only fun e => e ▸ noteRefusal_waitsEvent s g i b

/-- The faults that R142 names of an exchange's descriptor. -/
theorem exchange_malformed {s : State} {g k : Nat} {b : Bytes} (hk : k = Desc.opExchange ∨ k = Desc.opSparse)
    (hop : Desc.opcode b = k) (h : Desc.reservedOk b = false ∨ s.im.bucketDesc (Desc.bucket b) = none ∨ s.selModeBad b = true
      ∨ (∃ d, s.im.bucketDesc (Desc.bucket b) = some d ∧ (d.group ≠ g ∨ d.sparse ≠ (k == Desc.opSparse)))
      ∨ (∃ x y, s.descRegions b = [x, y] ∧ overlap x.1 x.2 y.1 y.2 = true)) : s.descMalformed g b = true := by
  have exch : Desc.isExchange b = true := by
    unfold Desc.isExchange
    obtain rfl | rfl := hk <;> simp [hop]
  unfold descMalformed
  rw [exch, hop]
  cases hd : s.im.bucketDesc (Desc.bucket b) with
  | none => simp
  | some d =>
    rw [hd] at h
    obtain h | h | h | ⟨_, ⟨rfl⟩, h | h⟩ | ⟨x, y, hr, h⟩ := h
    · simp [h]
    · exact absurd h (by simp)
    · simp [h]
    · simp [h]
    · simp [h]
    · simp [hr, h]

/-! ### The check tide -/

section

variable {s : State} {g : Nat} {op : QueueOp} {r : ImgRing} (hr : s.ringOf g = some r)

include hr

theorem checkTide_rails (h : s.railsOk g = false) : s.checkTide g op = s.abortGroup g 0x02 := by
  unfold checkTide
  rw [hr]
  dsimp only
  rw [if_pos (by simp [h])]

theorem checkTide_late (h : s.railsOk g = true) (hready : s.opReady g op = false) (hslip : s.slipGroup g = false)
    (hvary : Desc.mayVary op.raw = false) : s.checkTide g op = s.abortGroup g 0x01 := by
  unfold checkTide
  rw [hr]
  dsimp only
  rw [if_neg (by simp [h]), if_pos (by simp [hready, hslip, hvary])]

theorem checkTide_faulty (h : s.railsOk g = true)
    (hmay : s.opReady g op = true ∨ s.slipGroup g = true ∨ Desc.mayVary op.raw = true) {code : Nat}
    (hfault : s.descFault g op.raw = some code) : s.checkTide g op = s.refuseStep g op.index code op.raw := by
  unfold checkTide
  rw [hr]
  dsimp only
  rw [if_neg (by simp [h]), if_neg (by obtain h | h | h := hmay <;> simp [h]), hfault]

theorem checkTide_sound (h : s.railsOk g = true)
    (hmay : s.opReady g op = true ∨ s.slipGroup g = true ∨ Desc.mayVary op.raw = true) (hfault : s.descFault g op.raw = none)
    {d : ImgBucket} (hd : s.im.bucketDesc (Desc.bucket op.raw) = some d) : s.checkTide g op
      = if s.admitted g d r.n r.rails then s.launch g op d r (!s.opReady g op && !s.slipGroup g)
        else (s.bumpG .admitRefused g 1).abortGroup g 0x06 := by
  unfold checkTide
  rw [hr]
  dsimp only
  rw [if_neg (by simp [h]), if_neg (by obtain h | h | h := hmay <;> simp [h]), hfault, hd]

end

theorem checkDue_runs {s : State} {g : Nat} {op : QueueOp} (h : s.checkDue g op = true) : s.stepRuns g = true := by
  unfold checkDue at h
  simp only [Bool.and_eq_true] at h
  obtain ⟨⟨⟨⟨⟨⟨h, -⟩, -⟩, -⟩, -⟩, -⟩, -⟩ := h
  exact h

/-- Under SLIP the check waits for the exchange's own ready barrier and for its slip. -/
theorem checkDue_slips {s : State} {g : Nat} {op : QueueOp} {d : ImgBucket} (hslip : s.slipGroup g = true)
    (hd : s.im.bucketDesc (Desc.bucket op.raw) = some d) (h : op.slip = none ∨ s.now + 2 < s.plannedStart g d) :
    s.checkDue g op = false := by
  unfold checkDue
  rw [hd]
  dsimp only
  rw [if_pos hslip]
  obtain h | h := h
  · simp [h]
  · simp [show ¬ s.plannedStart g d ≤ s.now + 2 by omega]

end State

/-! ### The commands -/

section

variable {c : Instr} {g i k : Nat} {op : QueueOp} {s : State}
  (hc : (c = .exchange g i ∧ k = Desc.opExchange) ∨ (c = .sparseExchange g i ∧ k = Desc.opSparse))

include hc

theorem exec_exchange : exec c s = whenRunning s (fun s => s.checkExchange g i k) := by
  obtain ⟨rfl, rfl⟩ | ⟨rfl, rfl⟩ := hc <;> rfl

theorem exec_exchange_due (hr : s.running = true)
    (ho : (s.queue g).ops.find? (fun o => o.index == i && Desc.opcode o.raw == k) = some op) (hdue : s.checkDue g op = true) :
    exec c s = .next (s.checkTide g op) := by
  rw [exec_exchange hc, whenRunning_run hr]
  unfold State.checkExchange
  rw [ho]
  dsimp only
  rw [if_pos hdue]

theorem exec_exchange_idle (ho : (s.queue g).ops.find? (fun o => o.index == i && Desc.opcode o.raw == k) = some op)
    (hdue : s.checkDue g op = false) : exec c s = .next s := by
  rw [exec_exchange hc]
  unfold whenRunning State.checkExchange
  dsimp only
  rw [ho]
  simp [hdue]

end

/-- Settles O30: the tests of the check tide in their order, each with its equation; the launch enters the operation with its
plan, and a boundary that has come to its end began with the first reads. -/
theorem exchangesLaunchAtTheirCheck : Obligations.ExchangesLaunchAtTheirCheck := by
  unfold Obligations.ExchangesLaunchAtTheirCheck
  refine ⟨?_, ?_, ?_, ?_, ?_⟩
  · intro c g i k op r s hc hrun ho hdue hring
    have run := exec_exchange_due hc hrun ho hdue
    have runs := State.checkDue_runs hdue
    have named := List.find?_some ho
    simp only [Bool.and_eq_true, beq_iff_eq] at named
    obtain ⟨hindex, hopcode⟩ := named
    have hk : k = Desc.opExchange ∨ k = Desc.opSparse := hc.imp And.right And.right
    refine ⟨?_, ?_⟩
    · intro d hrails hfault hd hadmit hcarried
      refine ⟨fun hready => ?_, fun hready hslip hvary => ?_⟩
      · have flag : (!s.opReady g op && !s.slipGroup g) = false := by obtain h | h := hready <;> simp [h]
        obtain ⟨o, l, launched⟩ := State.launch_launched ho hcarried r false
        refine ⟨_, o, l, ?_, launched.found, launched.launch, launched.phase, launched.readyAt, ?_, launched.bucket,
          launched.start, launched.latched.1, launched.latched.2, launched.ring.1, launched.ring.2, launched.isDeferred,
          launched.chunks.1, launched.chunks.2.1, launched.chunks.2.2, launched.out, launched.queues, launched.groups,
          launched.runs rfl⟩
        · rw [run, State.checkTide_sound hring hrails (hready.imp_right .inl) hfault hd, if_pos hadmit, flag]
        · rw [launched.varied, Bool.or_false]
      · obtain ⟨o, l, launched⟩ := State.launch_launched ho hcarried r true
        refine ⟨_, o, l, ?_, launched.found, launched.launch, launched.phase, ?_, launched.isDeferred, launched.chunks.1,
          ?_, launched.queues, launched.groups, launched.defers rfl⟩
        · rw [run, State.checkTide_sound hring hrails (.inr (.inr hvary)) hfault hd, if_pos hadmit, hready, hslip]
          rfl
        · rw [launched.varied, Bool.or_true, Bool.true_or]
        · rw [launched.out]
          exact List.append_nil _
    · intro code hcode
      suffices h : State.CheckEnds s (s.checkTide g op) g i code from ⟨_, run, h.abort, h.event, h.groups, h.only⟩
      obtain ⟨hrails, rfl⟩ | ⟨hrails, hready, hslip, hvary, rfl⟩ | ⟨hrails, hmay, hcode⟩ := hcode
      · rw [State.checkTide_rails hring hrails]
        exact State.checkEnds runs .refl (fun h => absurd h (by decide))
      · rw [State.checkTide_late hring hrails hready hslip hvary]
        exact State.checkEnds runs .refl (fun h => absurd h (by decide))
      · obtain ⟨hviol, rfl⟩ | ⟨hviol, rfl, hbad⟩ | ⟨hfault, rfl, d, hd, hadmit⟩ := hcode
        · rw [State.checkTide_faulty hring hrails hmay (by unfold State.descFault; rw [if_pos hviol]), hindex]
          exact State.refuseStep_ends runs _ _ _
        · have hmal := State.exchange_malformed hk hopcode hbad
          rw [State.checkTide_faulty hring hrails hmay (by unfold State.descFault; rw [hviol, hmal]; rfl), hindex]
          exact State.refuseStep_ends runs _ _ _
        · rw [State.checkTide_sound hring hrails hmay hfault hd, hadmit]
          exact State.checkEnds runs State.bumpG_only (fun h => absurd h (by decide))
  · intro g d s
    rfl
  · intro g i k c op d s hc ho hslip hd hwait
    exact exec_exchange_idle hc ho (State.checkDue_slips hslip hd hwait)
  · intro c g i k op s hc ho hdue
    exact exec_exchange_idle hc ho hdue
  · intro env s hr
    refine ⟨s.boundary env, ?_, fun hdone g i v hat hruns hphase hstart hchunks => ?_⟩
    · show execTideBoundary env s = _
      unfold execTideBoundary
      rw [whenAlive_run (State.alive_of_running hr), if_neg (by simpa using State.mode_of_running hr)]
    · obtain ⟨u, only⟩ := State.boundary_reads hdone
      exact State.firstReads_out only hat hphase hstart hchunks hruns

end Sys2Proof.Machine
end

/-! ## Plain transfers (R323 to R326) -/

section

namespace Sys2Proof.Machine

set_option Elab.async false

open Sys2Proof

/-! ### Cells that join a queue -/

/-- A cell begins a PUT block of a group and rail. -/
def startsPut (g rail : Nat) (c : Nat × CellFields) : Bool :=
  c.2.group == g && c.1 == rail && c.2.seq == 0 && beginsPut c.2.payload

/-- Where a GET's cells join: before the first PUT block of the group and rail that has not begun. -/
structure JoinsAt (g rail : Nat) (q a b : List (Nat × CellFields)) : Prop where
  split : q = a ++ b
  before : ∀ c ∈ a, startsPut g rail c = false
  after : ∀ c l, b = c :: l → startsPut g rail c = true

theorem exists_joinsAt (g rail : Nat) (q : List (Nat × CellFields)) : ∃ a b, JoinsAt g rail q a b := by
  induction q with
  | nil => exact ⟨[], [], rfl, by simp, by simp⟩
  | cons c q ih =>
    cases hc : startsPut g rail c with
    | true => exact ⟨[], c :: q, rfl, by simp, by rintro _ _ ⟨⟩; exact hc⟩
    | false =>
      obtain ⟨a, b, rfl, before, after⟩ := ih
      exact ⟨c :: a, b, rfl, by simpa [hc] using before, after⟩

theorem joinCells_eq {g rail : Nat} {q a b : List (Nat × CellFields)} (h : JoinsAt g rail q a b) (new : List (Nat × CellFields)) :
    joinCells g rail new q = a ++ new ++ b := by
  obtain ⟨rfl, before, after⟩ := h
  induction a with
  | nil =>
    cases b with
    | nil => simp [joinCells]
    | cons c l =>
      have hc := after c l rfl
      unfold startsPut at hc
      simp [joinCells, hc]
  | cons c a ih =>
    have hc := before c List.mem_cons_self
    unfold startsPut at hc
    rw [List.cons_append, joinCells, hc, if_neg (by simp), ih fun d hd => before d (List.mem_cons_of_mem _ hd)]
    rfl

/-- Cells that begin no PUT block leave the next ones their place behind them. -/
theorem JoinsAt.joined {g rail : Nat} {q a b new : List (Nat × CellFields)} (h : JoinsAt g rail q a b)
    (hnew : ∀ c ∈ new, startsPut g rail c = false) : JoinsAt g rail (a ++ new ++ b) (a ++ new) b :=
  ⟨rfl, fun c hc => (List.mem_append.mp hc).elim (h.before c) (hnew c), h.after⟩

theorem joinFlow_split (new : List (Bytes × Bool)) (starts : Bool) (q : List (Bytes × Bool)) :
    ∃ a b, q = a ++ b ∧ joinFlow new starts q = a ++ new ++ b := by
  induction q generalizing starts with
  | nil => exact ⟨[], [], rfl, by simp [joinFlow]⟩
  | cons c q ih =>
    unfold joinFlow
    split
    · exact ⟨[], c :: q, rfl, rfl⟩
    · obtain ⟨a, b, hq, hj⟩ := ih c.2
      exact ⟨c :: a, b, by rw [hq]; rfl, by rw [hj]; rfl⟩

/-- Filling the window moves no cell. -/
theorem fillWindow_cells (w : Flow) : (fillWindow w).unacked ++ (fillWindow w).waiting = w.unacked ++ w.waiting := by
  unfold fillWindow
  simp [List.append_assoc]

theorem joinBegun_cells (w : Flow) (cells : List (Bytes × Bool)) : ∃ a b, w.unacked ++ w.waiting = a ++ b
    ∧ (joinBegun w cells).unacked ++ (joinBegun w cells).waiting = a ++ cells ++ b := by
  obtain ⟨a, b, hq, hj⟩ := joinFlow_split cells (flowStarts w) (w.unacked.drop w.begun ++ w.waiting)
  refine ⟨w.unacked.take w.begun ++ a, b, ?_, ?_⟩
  · rw [List.append_assoc, ← hq, ← List.append_assoc, List.take_append_drop]
  · show w.unacked.take w.begun ++ joinFlow cells (flowStarts w) (w.unacked.drop w.begun ++ w.waiting) = _
    rw [hj]
    simp [List.append_assoc]

theorem rd_kind (h : BlockHeader) (data : Bytes) (n : Nat) :
    rd ((transferHeader h ++ data).take (n + 1)) 0 1 = h.kind % 256 := by
  simp [rd, transferHeader, leBytes, leNat, BitVec.toNat_ofNat]

/-- The first payload of a block begins with its header. -/
theorem blockPayloads_head {n : Nat} {h : BlockHeader} {data : Bytes} {y : Bytes × Bool}
    (hy : (blockPayloads n h data)[0]? = some y) : y.1 = (transferHeader h ++ data).take n := by
  unfold blockPayloads at hy
  dsimp only at hy
  generalize ceilDiv (transferHeader h ++ data).length n = k at hy
  cases k with
  | zero => exact absurd hy (by simp [pieces])
  | succ k =>
    simp only [pieces, List.zipIdx_cons, List.map_cons, List.getElem?_cons_zero, Option.some.injEq] at hy
    rw [← hy]

/-- The cells of a GET's data begin no PUT block. -/
theorem blockCells_startsPut {g g' rail rail' : Nat} {h : BlockHeader} (hk : h.kind = kGetData) (data : Bytes) :
    ∀ c ∈ (blockCells g h data).map (fun c => (rail, c)), startsPut g' rail' c = false := by
  intro c hc
  obtain ⟨x, hx, rfl⟩ := List.mem_map.mp hc
  unfold blockCells at hx
  obtain ⟨⟨y, i⟩, hy, rfl⟩ := List.mem_map.mp hx
  have hget : (blockPayloads 224 h data)[i]? = some y := List.mk_mem_zipIdx_iff_getElem?.mp hy
  cases i with
  | zero =>
    have hbegins : beginsPut y.1 = false := by
      unfold beginsPut
      rw [blockPayloads_head hget, rd_kind, hk]
      decide
    simp [startsPut, hbegins]
  | succ i => simp [startsPut]

namespace State

/-! ### Blocks that join a queue -/

/-- The VC1 cells of blocks of a rail. -/
def vc1Cells (g rail : Nat) (bs : List (BlockHeader × Bytes)) : List (Nat × CellFields) :=
  (bs.flatMap (fun x => blockCells g x.1 x.2)).map (fun c => (rail, c))

theorem vc1Cells_cons (g rail : Nat) (x : BlockHeader × Bytes) (bs : List (BlockHeader × Bytes)) :
    vc1Cells g rail (x :: bs) = (blockCells g x.1 x.2).map (fun c => (rail, c)) ++ vc1Cells g rail bs := by
  simp [vc1Cells]

/-- The cells of a flow that wait for their window or for their acknowledgement. -/
def flowCells (s : State) (p flow : Nat) : List (Bytes × Bool) :=
  (s.flow (flowKey p flow)).unacked ++ (s.flow (flowKey p flow)).waiting

theorem sendFlow_cells {s : State} {p flow : Nat} {h : BlockHeader} (hk : h.kind ≠ kGetData) (data : Bytes) :
    (s.sendFlow p flow h data).flowCells p flow = s.flowCells p flow ++ blockPayloads 208 h data := by
  unfold flowCells sendFlow State.flow setFlow
  dsimp only
  rw [Tbl.get_set_same, fillWindow_cells, if_neg hk, List.append_assoc]

theorem sendFlow_joins {s : State} {p flow : Nat} {h : BlockHeader} (hk : h.kind = kGetData) (data : Bytes) :
    ∃ a b, s.flowCells p flow = a ++ b
      ∧ (s.sendFlow p flow h data).flowCells p flow = a ++ blockPayloads 208 h data ++ b := by
  unfold flowCells sendFlow State.flow setFlow
  dsimp only
  rw [Tbl.get_set_same, fillWindow_cells, if_pos hk]
  exact joinBegun_cells _ _

theorem sendBlock_vc1 (s : State) (g rail p : Nat) {h : BlockHeader} (hk : h.kind ≠ kGetData) (data : Bytes) :
    ((s.sendBlock g rail p h data).port p).vc1 = (s.port p).vc1 ++ (blockCells g h data).map (fun c => (rail, c)) := by
  unfold sendBlock
  dsimp only
  rw [modPort_port, if_neg hk]

theorem sendBlock_joins (s : State) (g rail p : Nat) {h : BlockHeader} (hk : h.kind = kGetData) (data : Bytes) :
    ((s.sendBlock g rail p h data).port p).vc1
      = joinCells g rail ((blockCells g h data).map (fun c => (rail, c))) (s.port p).vc1 := by
  unfold sendBlock
  dsimp only
  rw [modPort_port, if_pos hk]

/-- Blocks that are no GET data go to the end. -/
theorem sendBlocks_append {bs : List (BlockHeader × Bytes)} (hbs : ∀ x ∈ bs, x.1.kind ≠ kGetData) (s : State)
    (g rail p service flow : Nat) :
    (service = 0 → ((s.sendBlocks g rail p service flow bs).port p).vc1 = (s.port p).vc1 ++ vc1Cells g rail bs)
      ∧ (service ≠ 0 → (s.sendBlocks g rail p service flow bs).flowCells p flow
          = s.flowCells p flow ++ bs.flatMap (fun x => blockPayloads 208 x.1 x.2)) := by
  induction bs generalizing s with
  | nil => exact ⟨fun _ => (List.append_nil _).symm, fun _ => (List.append_nil _).symm⟩
  | cons x bs ih =>
    have hx := hbs x List.mem_cons_self
    obtain ⟨ihv, ihf⟩ := ih (fun y hy => hbs y (List.mem_cons_of_mem _ hy)) (s.sendOut g rail p service flow x.1 x.2)
    refine ⟨fun h => (ihv h).trans ?_, fun h => (ihf h).trans ?_⟩
    · rw [vc1Cells_cons, ← List.append_assoc]
      unfold sendOut
      rw [if_pos h, sendBlock_vc1 _ _ _ _ hx]
    · rw [List.flatMap_cons, ← List.append_assoc]
      unfold sendOut
      rw [if_neg h, sendFlow_cells hx]

/-- GET data goes, block by block, to one place of the VC1 queue. -/
theorem sendBlocks_join {bs : List (BlockHeader × Bytes)} (hbs : ∀ x ∈ bs, x.1.kind = kGetData) {s : State}
    {g rail p flow : Nat} {a b : List (Nat × CellFields)} (h : JoinsAt g rail (s.port p).vc1 a b) :
    ((s.sendBlocks g rail p 0 flow bs).port p).vc1 = a ++ vc1Cells g rail bs ++ b := by
  induction bs generalizing s a with
  | nil => simpa [vc1Cells, sendBlocks] using h.split
  | cons x bs ih =>
    have hx := hbs x List.mem_cons_self
    have joined : ((s.sendOut g rail p 0 flow x.1 x.2).port p).vc1
        = a ++ (blockCells g x.1 x.2).map (fun c => (rail, c)) ++ b := by
      unfold sendOut
      rw [if_pos rfl, sendBlock_joins _ _ _ _ hx, joinCells_eq h]
    have next : JoinsAt g rail ((s.sendOut g rail p 0 flow x.1 x.2).port p).vc1
        (a ++ (blockCells g x.1 x.2).map (fun c => (rail, c))) b := by
      rw [joined]
      exact h.joined (blockCells_startsPut hx _)
    have rest := ih (fun y hy => hbs y (List.mem_cons_of_mem _ hy)) next
    rw [vc1Cells_cons, ← List.append_assoc]
    exact rest

theorem blocksQueued_append {bs : List (BlockHeader × Bytes)} (hbs : ∀ x ∈ bs, x.1.kind ≠ kGetData) (s : State)
    (g rail p service flow : Nat) : s.blocksQueued (s.sendBlocks g rail p service flow bs) g rail p service flow bs := by
  obtain ⟨vc1, flow⟩ := sendBlocks_append hbs s g rail p service flow
  exact ⟨fun h => ⟨_, [], (List.append_nil _).symm, (vc1 h).trans (List.append_nil _).symm, fun _ => rfl⟩,
    fun h => ⟨_, [], (List.append_nil _).symm, (flow h).trans (List.append_nil _).symm, fun _ => rfl⟩⟩

/-- GET data on VC1, or one block of it on a flow. -/
theorem blocksQueued_join {bs : List (BlockHeader × Bytes)} (hbs : ∀ x ∈ bs, x.1.kind = kGetData) (s : State)
    (g rail p : Nat) {service : Nat} (flow : Nat) (hone : service ≠ 0 → bs.length ≤ 1) :
    s.blocksQueued (s.sendBlocks g rail p service flow bs) g rail p service flow bs := by
  cases bs with
  | nil => exact blocksQueued_append (by simp) s g rail p service flow
  | cons x bs =>
    have hx := hbs x List.mem_cons_self
    have nodata (b : List (Nat × CellFields)) : (∀ y ∈ x :: bs, y.1.kind ≠ kGetData) → b = [] :=
      fun h => absurd hx (h x List.mem_cons_self)
    have nocells (b : List (Bytes × Bool)) : (∀ y ∈ x :: bs, y.1.kind ≠ kGetData) → b = [] :=
      fun h => absurd hx (h x List.mem_cons_self)
    refine ⟨?_, fun h => ?_⟩
    · rintro rfl
      obtain ⟨a, b, joins⟩ := exists_joinsAt g rail (s.port p).vc1
      exact ⟨a, b, joins.split, sendBlocks_join hbs joins, nodata b⟩
    · obtain rfl : bs = [] := List.eq_nil_of_length_eq_zero (by simpa using hone h)
      obtain ⟨a, b, hq, hj⟩ := sendFlow_joins (s := s) (p := p) (flow := flow) hx x.2
      refine ⟨a, b, hq, ?_, nocells b⟩
      rw [List.flatMap_cons, List.flatMap_nil, List.append_nil]
      show State.flowCells (s.sendOut g rail p service flow x.1 x.2) p flow = _
      unfold sendOut
      rw [if_neg h]
      exact hj

theorem sendOut_otherPorts (s : State) (g rail p service flow : Nat) (h : BlockHeader) (data : Bytes) :
    OtherPorts p s (s.sendOut g rail p service flow h data) := by
  unfold sendOut
  split
  · exact fun q hq => modPort_port_other _ _ hq
  · exact fun q _ => rfl

theorem sendBlocks_otherPorts (s : State) (g rail p service flow : Nat) (bs : List (BlockHeader × Bytes)) :
    OtherPorts p s (s.sendBlocks g rail p service flow bs) := by
  induction bs generalizing s with
  | nil => exact fun _ _ => rfl
  | cons x bs ih => exact fun q hq => (ih _ q hq).trans (sendOut_otherPorts _ _ _ _ _ _ _ _ q hq)

/-! ### Starting -/

theorem SamePlan.blockFabric_eq {s t : State} (h : s.SamePlan t) (g rail service p dir : Nat) :
    t.blockFabric g rail service p dir = s.blockFabric g rail service p dir := by
  unfold blockFabric
  rw [h.runsOf_eq, h.table]
  simp only [h.bayFabric_eq]

theorem dataBlocks_kind {kind addr transfer : Nat} {data : Bytes} :
    ∀ x ∈ dataBlocks kind addr transfer data, x.1.kind = kind := by
  intro x hx
  obtain ⟨y, -, rfl⟩ := List.mem_map.mp hx
  rfl

/-- A started transfer: its record, its operation, its cells and the read of its source region. -/
structure TransferStarts (s t : State) (g i k p : Nat) (op : QueueOp) (bs : List (BlockHeader × Bytes)) : Prop where
  xfers : t.xfers = s.xfers ++
    [{ group := g, index := i, isPut := k == Desc.opPut, blocks := ceilDiv (Desc.length op.raw) blockMax, acked := 0 }]
  queue : t.queue g = { s.queue g with ops := updateWhere (fun o => o.index == i) (fun o => { o with phase := .running }) (s.queue g).ops }
  queued : s.blocksQueued t g (Desc.rail op.raw) p (Desc.service op.raw) (Desc.flowNo op.raw) bs
  out : t.out = s.out ++ (if k = Desc.opPut then [s.putReads g op p] else [])
  ports : OtherPorts p s t
  queues : OtherQueues g s t
  only : OnlyChanges [.out, .ports, .queues, .xfers, .flows] s t

/-- Cells queued from a state with the same ports and flows. -/
theorem blocksQueued_congr {s s' t : State} {g rail p service flow : Nat} {bs : List (BlockHeader × Bytes)}
    (h : s'.blocksQueued t g rail p service flow bs) (hports : s'.ports = s.ports) (hflows : s'.flows = s.flows) :
    s.blocksQueued t g rail p service flow bs := by
  unfold blocksQueued port State.flow at h ⊢
  rw [hports, hflows] at h
  exact h

theorem startTransfer_starts {s : State} {g i k p : Nat} {op : QueueOp} {blocks : QueueOp → List (BlockHeader × Bytes)}
    (hop : s.readyOp g i k = some op) (hport : s.transferPort g (Desc.rail op.raw) (Desc.peer op.raw == 0) = some p)
    (hquiet : s.quiescing g = false) (hfree : s.transferWaits g op = false) (hfull : s.power.mode = .full)
    (hready : s.readyBefore op = true) (hbs : ∀ x ∈ blocks op, x.1.kind ≠ kGetData) :
    TransferStarts s (s.startTransfer g i k blocks) g i k p op (blocks op) := by
  unfold startTransfer
  rw [hop]
  dsimp -zeta only
  rw [hport]
  dsimp -zeta only
  rw [if_neg (by simp [hquiet, hfree]), if_neg (by simp [hfull]), if_neg (by simp [hready])]
  extract_lets +onlyGivenNames x s₁ s₂ s₃
  have only₁ : OnlyChanges [.queues] s s₁ := modOp_only
  have only₂ : OnlyChanges [.queues, .xfers] s s₂ := only_xfers (only₁.mono (by decide)) (by decide)
  have queue₂ : s₂.queue g = { s.queue g with
      ops := updateWhere (fun o => o.index == i) (fun o => { o with phase := .running }) (s.queue g).ops } := by
    show State.queue s₁ g = _
    unfold s₁ modOp modQueue
    rw [setQueue_queue]
  have queues₂ : OtherQueues g s s₂ := modOp_otherQueues _ _ _ _
  have plan₂ : s.SamePlan s₂ := .of_only only₂
  have xfers₂ : s₂.xfers = s.xfers ++ [x] := congrArg (· ++ [x]) (only₁ .xfers (by decide))
  clear_value s₂
  have only₃ : OnlyChanges [.out] s₂ s₃ := only_ite emit_only .refl
  have out₃ : s₃.out = s.out ++ (if k = Desc.opPut then [s.putReads g op p] else []) := by
    have reads : s₂.putReads g op p = s.putReads g op p := by unfold putReads; rw [plan₂.blockFabric_eq]
    rw [← reads, ← only₂.out_eq]
    show State.out (if (k == Desc.opPut) = true then s₂.emit (s₂.putReads g op p) else s₂) = _
    by_cases hk : k = Desc.opPut
    · rw [if_pos (by simpa using hk), if_pos hk]
      rfl
    · rw [if_neg (by simpa using hk), if_neg hk, List.append_nil]
  have sent : OnlyChanges [.ports, .flows] s₃ (s₃.sendBlocks g (Desc.rail op.raw) p (Desc.service op.raw) (Desc.flowNo op.raw)
    (blocks op)) := sendBlocks_only
  exact {
    xfers := (sent .xfers (by decide)).trans ((only₃ .xfers (by decide)).trans xfers₂)
    queue := (sent.queue_eq g).trans ((only₃.queue_eq g).trans queue₂)
    queued := blocksQueued_congr (blocksQueued_append hbs _ _ _ _ _ _) (only₃.ports_eq.trans only₂.ports_eq)
      ((only₃ .flows (by decide)).trans (only₂ .flows (by decide)))
    out := sent.out_eq.trans out₃
    ports := fun q hq => (sendBlocks_otherPorts _ _ _ _ _ _ _ q hq).trans ((only₃.port_eq q).trans (only₂.port_eq q))
    queues := fun j hj => (sent.queue_eq j).trans ((only₃.queue_eq j).trans (queues₂ j hj))
    only := (sent.mono (by decide)).trans' ((only₃.mono (by decide)).trans' (only₂.mono (by decide))) }

/-! ### The next block of a source -/

theorem dropBlock_whole (s : State) (g p : Nat) : OnlyChanges [.staging, .blockRx] s (s.dropBlock g p 0) := by
  unfold dropBlock
  extract_lets +onlyGivenNames x s₁ next
  have h₁ : s₁ = s := if_pos rfl
  rw [h₁]
  exact modBlock_only.mono (by decide) |>.trans' (only_staging .refl (by decide))

section

variable {s u : State} {f : BlockFrom} {p : Nat} {r : RxBlock} (h : s.blockNext f p r u)

include h

theorem blockNext_used : OnlyChanges [.ports, .groups, .staging, .blockRx, .flows, .events, .stats] s u := by
  obtain ⟨-, ⟨-, -, rfl⟩ | ⟨-, b, rest, -, -, rfl⟩⟩ := h
  · exact dropBlock_only.mono (by decide)
  · exact setFlow_only.mono (by decide)

theorem blockNext_whole (hm : r.missing = 0) : OnlyChanges [.staging, .blockRx, .flows] s u := by
  obtain ⟨-, ⟨-, -, rfl⟩ | ⟨-, b, rest, -, -, rfl⟩⟩ := h
  · rw [hm]
    exact (s.dropBlock_whole _ _).mono (by decide)
  · exact setFlow_only.mono (by decide)

/-- A command of its kind takes the next block. -/
theorem withBlock_next {hd : BlockHeader} (hh : r.hdr = some hd) {kind : Nat} (hk : hd.kind = kind)
    (F : State → Nat → RxBlock → State) : s.withBlock f kind F = F u p r := by
  have hkind : s.kindOf f r = kind := by unfold kindOf; rw [hh]; exact hk
  obtain ⟨hport, ⟨hservice, hblock, rfl⟩ | ⟨hservice, b, rest, hflow, rfl, rfl⟩⟩ := h
  · unfold withBlock
    rw [hport]
    dsimp only
    rw [if_pos hservice, hblock]
    dsimp only
    rw [if_pos hkind]
  · unfold withBlock
    rw [hport]
    dsimp only
    rw [if_neg hservice, hflow]
    dsimp only
    rw [if_pos hkind]

end

/-! ### What becomes of a block's data -/

theorem badRegion_eq {s t : State} (h : t.image = s.image) (g addr len : Nat) : t.badRegion g addr len = s.badRegion g addr len := by
  unfold badRegion regionOk ownerOr8 groupOwner im img
  rw [h]

section

variable {u : State} {f : BlockFrom} {p : Nat} {h : BlockHeader} {r : RxBlock}

theorem blockStatus_whole (hb : u.badRegion f.group h.addr h.length = false) (hm : r.missing = 0)
    (hl : h.length ≤ r.data.length) : u.blockStatus f.group h r = 0 := by
  unfold blockStatus
  rw [if_neg (by simp [hb]), if_neg (by omega)]

theorem blockStatus_refused (hb : u.badRegion f.group h.addr h.length = true) : u.blockStatus f.group h r = 0x08 := if_pos hb

theorem blockStatus_short (hb : u.badRegion f.group h.addr h.length = false)
    (hm : r.missing ≠ 0 ∨ r.data.length < h.length) : u.blockStatus f.group h r = 0x04 := by
  unfold blockStatus
  rw [if_neg (by simp [hb]), if_pos hm]

theorem writeBlock_whole (hc : u.blockStatus f.group h r = 0) : u.writeBlock f p h r
    = u.emit (.memWrite (u.blockFabric f.group f.rail f.service p 1) h.addr (r.data.take h.length)) := by
  unfold writeBlock
  dsimp only
  rw [hc, if_neg (by simp), if_pos rfl]

theorem writeBlock_refused (hc : u.blockStatus f.group h r = 0x08) :
    u.writeBlock f p h r = u.bumpG .transferViolation f.group 1 := by
  unfold writeBlock
  dsimp only
  rw [hc, if_pos rfl]

theorem writeBlock_short (hc : u.blockStatus f.group h r = 0x04) : u.writeBlock f p h r = u := by
  unfold writeBlock
  dsimp only
  rw [hc, if_neg (by simp), if_neg (by simp)]

/-- The acknowledgement of a PUT block. -/
def putAck (h : BlockHeader) (status : Nat) : BlockHeader :=
  { kind := 3, status := status, length := 0, addr := 0, replyAddr := 0, transfer := h.transfer, block := h.block }

/-- A PUT block is acknowledged with its status once what it brings is written. -/
theorem takePut_acks (hh : r.hdr = some h) :
    u.blocksQueued (u.takePut f p r) f.group f.rail p f.service (replyFlow f) [(putAck h (u.blockStatus f.group h r), [])]
      ∧ OtherPorts p u (u.takePut f p r) ∧ OnlyChanges [.ports, .flows] (u.writeBlock f p h r) (u.takePut f p r) := by
  have taken : u.takePut f p r = (u.writeBlock f p h r).sendBlocks f.group f.rail p f.service (replyFlow f)
      [(putAck h (u.blockStatus f.group h r), [])] := by
    unfold takePut
    rw [hh]
    rfl
  have wrote : OnlyChanges [.out, .events, .stats] u (u.writeBlock f p h r) := writeBlock_only
  rw [taken]
  exact ⟨blocksQueued_congr (blocksQueued_append (by simp [putAck, kGetData]) _ _ _ _ _ _) wrote.ports_eq (wrote .flows (by decide)),
    fun q hq => (sendBlocks_otherPorts _ _ _ _ _ _ _ q hq).trans (wrote.port_eq q), sendBlocks_only⟩

end

end State

theorem pieces_length {α : Type} (n k : Nat) (l : List α) : (pieces n k l).length = k := by
  induction k generalizing l with
  | zero => rfl
  | succ k ih => rw [pieces, List.length_cons, ih]

/-- What fits in one block is one block. -/
theorem dataBlocks_one {kind addr transfer : Nat} {data : Bytes} (hd : data.length ≤ blockMax) :
    (dataBlocks kind addr transfer data).length ≤ 1 := by
  unfold dataBlocks
  rw [List.length_map, List.length_zipIdx, pieces_length]
  unfold ceilDiv
  unfold blockMax at hd ⊢
  omega

namespace State

/-! ### Served requests -/

theorem serveGet_serves {u : State} {f : BlockFrom} {p : Nat} {h : BlockHeader} (b : Bytes)
    (hone : f.service = 0 ∨ h.length ≤ blockMax) (hb : u.badRegion f.group h.addr h.length = false) :
    u.blocksQueued (u.serveGet f p h b) f.group f.rail p f.service (replyFlow f)
        (dataBlocks kGetData h.replyAddr h.transfer (padTo h.length b))
      ∧ (u.serveGet f p h b).out = u.out ++ [.memRead (u.blockFabric f.group f.rail f.service p 0) h.addr h.length]
      ∧ OtherPorts p u (u.serveGet f p h b) ∧ OnlyChanges [.out, .ports, .flows] u (u.serveGet f p h b) := by
  unfold serveGet
  rw [if_neg (by simp [hb])]
  have reads : OnlyChanges [.out] u (u.emit (.memRead (u.blockFabric f.group f.rail f.service p 0) h.addr h.length)) := emit_only
  have out : (u.emit (.memRead (u.blockFabric f.group f.rail f.service p 0) h.addr h.length)).out
    = u.out ++ [.memRead (u.blockFabric f.group f.rail f.service p 0) h.addr h.length] := rfl
  generalize u.emit (.memRead (u.blockFabric f.group f.rail f.service p 0) h.addr h.length) = v at reads out ⊢
  have sent : OnlyChanges [.ports, .flows] v (v.sendBlocks f.group f.rail p f.service (replyFlow f)
    (dataBlocks kGetData h.replyAddr h.transfer (padTo h.length b))) := sendBlocks_only
  have one : f.service ≠ 0 → (dataBlocks kGetData h.replyAddr h.transfer (padTo h.length b)).length ≤ 1 := fun hs =>
    dataBlocks_one (by rw [padTo_length]; exact hone.resolve_left hs)
  exact ⟨blocksQueued_congr (blocksQueued_join dataBlocks_kind v _ _ _ _ one) reads.ports_eq (reads .flows (by decide)),
    sent.out_eq.trans out, fun q hq => (sendBlocks_otherPorts _ _ _ _ _ _ _ q hq).trans (reads.port_eq q),
    (sent.mono (by decide)).trans' (reads.mono (by decide))⟩

/-! ### Transfers that count or end -/

/-- No transfer of the group has the index. -/
def TransferGone (t : State) (g i : Nat) : Prop := ∀ y ∈ t.xfers, ¬(y.group = g ∧ y.index = i)

theorem onRoute_eq {s t : State} (h : t.queues = s.queues) (f : BlockFrom) (i : Nat) : t.onRoute f i = s.onRoute f i := by
  unfold onRoute queue
  rw [h]

theorem transferOf_eq {s t : State} (hq : t.queues = s.queues) (hx : t.xfers = s.xfers) (f : BlockFrom) (i : Nat) (put : Bool) :
    t.transferOf f i put = s.transferOf f i put := by
  unfold transferOf
  rw [hx]
  simp only [onRoute_eq hq]

theorem runningOn_eq {s t : State} (hq : t.queues = s.queues) (hx : t.xfers = s.xfers) (f : BlockFrom) (put : Bool) :
    t.runningOn f put = s.runningOn f put := by
  unfold runningOn
  rw [hx]
  simp only [onRoute_eq hq]

theorem countBlock_counts {s : State} {x : Transfer} (h : x.acked + 1 < x.blocks) :
    (s.countBlock x 0).xfers = s.xfers.map (fun y => if y.group = x.group ∧ y.index = x.index
        then { y with acked := y.acked + 1 } else y)
      ∧ OnlyChanges [.xfers] s (s.countBlock x 0) := by
  unfold countBlock
  rw [if_neg (by simp), if_neg (by omega)]
  exact ⟨by simp [updateWhere], only_xfers .refl (by decide)⟩

theorem countBlock_ends {s : State} {x : Transfer} {status : Nat} (h : status ≠ 0 ∨ x.blocks ≤ x.acked + 1) :
    s.countBlock x status = s.endTransfer x.group x.index status := by
  unfold countBlock
  by_cases hs : status = 0
  · rw [if_neg (by simpa using hs), if_pos (h.resolve_left (by simpa using hs)), hs]
  · rw [if_pos hs]

/-- A completion changes its own queue, whose due records gain that of the operation where it has none. -/
theorem completeAlone_records (s : State) (g : Nat) (op : QueueOp) (code result : Nat) :
    OtherQueues g s (s.completeAlone g op code result) ∧ (op.recorded = false → ∃ d, d.index = op.index
      ∧ ((s.completeAlone g op code result).queue g).due = insertDue d (s.queue g).due) := by
  unfold completeAlone dropDone complete
  extract_lets +onlyGivenNames add d s₁ s₂
  have due₁ : (s₁.queue g).due = (s.queue g).due := by
    unfold s₁ modOp modQueue
    rw [setQueue_queue]
  have queues₁ : OtherQueues g s s₁ := modOp_otherQueues _ _ _ _
  have due₂ : (s₂.queue g).due = (s.queue g).due := by
    unfold s₂
    split
    · unfold modQueue
      rw [setQueue_queue]
      exact due₁
    · exact due₁
  have queues₂ : OtherQueues g s s₂ := by
    unfold s₂
    split
    · exact fun j hj => (setQueue_queue_other _ _ hj).trans (queues₁ j hj)
    · exact queues₁
  clear_value s₂
  split
  · case isTrue h => exact ⟨fun j hj => (setQueue_queue_other _ _ hj).trans (queues₂ j hj), fun hr => by simp [hr] at h⟩
  · refine ⟨fun j hj => (setQueue_queue_other _ _ hj).trans ((setQueue_queue_other _ _ hj).trans (queues₂ j hj)),
      fun _ => ⟨d, rfl, ?_⟩⟩
    unfold modQueue
    rw [setQueue_queue, setQueue_queue]
    exact congrArg (insertDue d) due₂

/-- An ended transfer is gone, and its operation is recorded in its own queue alone. -/
theorem endTransfer_ends (s : State) (g i code : Nat) :
    TransferGone (s.endTransfer g i code) g i ∧ OtherQueues g s (s.endTransfer g i code)
      ∧ (∀ op, (s.queue g).ops.find? (fun o => o.index == i) = some op → op.recorded = false →
          ∃ d, d.index = i ∧ ((s.endTransfer g i code).queue g).due = insertDue d (s.queue g).due) := by
  unfold endTransfer
  extract_lets +onlyGivenNames s₁
  have gone₁ : TransferGone s₁ g i := by
    intro y hy
    obtain ⟨-, kept⟩ := List.mem_filter.mp hy
    exact not_and_or.mpr (by simpa using kept)
  have queues₁ (j : Nat) : s₁.queue j = s.queue j := rfl
  clear_value s₁
  rw [← queues₁]
  split
  · case h_1 op hop =>
    generalize hs₂ : (if Desc.service op.raw = 1 then s₁.enterLedger g 4 0xFFF (i % 1024) else s₁) = s₂
    have only₂ : OnlyChanges [.groups, .events] s₁ s₂ := by
      rw [← hs₂]
      exact only_ite enterLedger_only .refl
    obtain ⟨queues₃, records⟩ := completeAlone_records s₂ g op code 0
    have only₃ : OnlyChanges [.queues] s₂ (s₂.completeAlone g op code 0) := completeAlone_only
    generalize s₂.completeAlone g op code 0 = s₃ at queues₃ records only₃ ⊢
    have only₄ : OnlyChanges [.ports, .groups, .events, .stats] s₃ s₃.pollReadyAll := pollReadyAll_only
    refine ⟨?_, fun j hj => (only₄.queue_eq j).trans ((queues₃ j hj).trans ((only₂.queue_eq j).trans (queues₁ j))), ?_⟩
    · unfold TransferGone
      rw [only₄ .xfers (by decide), only₃ .xfers (by decide), only₂ .xfers (by decide)]
      exact gone₁
    · rintro op' hop' hr
      obtain rfl : op = op' := Option.some.inj (hop.symm.trans hop')
      obtain ⟨d, hd, due⟩ := records hr
      refine ⟨d, hd.trans (by simpa using List.find?_some hop), ?_⟩
      rw [only₄.queue_eq g, due, only₂.queue_eq g]
  · case h_2 hop =>
    refine ⟨gone₁, fun j _ => queues₁ j, fun op hop' => ?_⟩
    rw [hop] at hop'
    exact absurd hop' (by simp)

/-! ### Answers that come in -/

theorem takeGetData_takes {u : State} {f : BlockFrom} {p : Nat} {h : BlockHeader} {r : RxBlock} {x : Transfer}
    (hh : r.hdr = some h) (hx : u.transferOf f h.transfer false = some x) (hst : h.status = 0)
    (hc : u.blockStatus f.group h r = 0) : u.takeGetData f p r = (u.writeBlock f p h r).countBlock x 0 := by
  unfold takeGetData
  rw [hh]
  dsimp only
  rw [hx]
  dsimp only
  rw [if_neg (by simpa using hst), hc]

theorem takePutAck_named {u : State} {f : BlockFrom} {h : BlockHeader} {r : RxBlock} {x : Transfer}
    (hh : r.hdr = some h) (hblock : h.block ≠ noTransfer) (hx : u.transferOf f h.transfer true = some x) :
    u.takePutAck f r = u.countBlock x h.status := by
  unfold takePutAck
  rw [hh]
  dsimp only
  rw [if_neg hblock, hx]

theorem takePutAck_unnamed {u : State} {f : BlockFrom} {h : BlockHeader} {r : RxBlock} {x : Transfer}
    (hh : r.hdr = some h) (hblock : h.block = noTransfer) (hx : u.runningOn f true = some x) :
    u.takePutAck f r = u.countBlock x h.status := by
  unfold takePutAck endOnRoute
  rw [hh]
  dsimp only
  rw [if_pos hblock, hx]
  rfl

/-! ### The commands -/

theorem exec_put {s : State} (run : s.running = true) (g i : Nat) (b : Bytes) : exec (.put g i b) s
    = .next (s.startTransfer g i Desc.opPut (fun op => dataBlocks kPut (Desc.remoteAddr op.raw) i (padTo (Desc.length op.raw) b))) := by
  show execPut g i b s = _
  exact whenRunning_run run

/-- The request of a GET. -/
def getRequest (op : QueueOp) (i : Nat) : BlockHeader :=
  { kind := 1, status := 0, length := Desc.length op.raw, addr := Desc.remoteAddr op.raw, replyAddr := Desc.localAddr op.raw,
    transfer := i, block := 0 }

theorem exec_get {s : State} (run : s.running = true) (g i : Nat) : exec (.get g i) s
    = .next (s.startTransfer g i Desc.opGet (fun op => [(getRequest op i, [])])) := by
  show execGet g i s = _
  exact whenRunning_run run

section

variable {s u : State} {f : BlockFrom} {p : Nat} {h : BlockHeader} {r : RxBlock}
  (run : s.running = true) (next : s.blockNext f p r u) (hh : r.hdr = some h)

include run next hh

theorem exec_putBlock (hk : h.kind = kPut) : exec (.putBlockReceived f) s = .next (u.takePut f p r) := by
  show execPutBlockReceived f s = _
  unfold execPutBlockReceived
  rw [whenRunning_run run, withBlock_next next hh hk]

theorem exec_getRequest (hk : h.kind = kGetRequest) (b : Bytes) : exec (.getRequestReceived f b) s = .next (u.serveGet f p h b) := by
  show execGetRequestReceived f b s = _
  unfold execGetRequestReceived
  rw [whenRunning_run run, withBlock_next next hh hk]
  rw [hh]

theorem exec_getData (hk : h.kind = kGetData) : exec (.getDataReceived f) s = .next (u.takeGetData f p r) := by
  show execGetDataReceived f s = _
  unfold execGetDataReceived
  rw [whenRunning_run run, withBlock_next next hh hk]

theorem exec_putAck (hk : h.kind = kPutAck) : exec (.putAckReceived f) s = .next (u.takePutAck f r) := by
  show execPutAckReceived f s = _
  unfold execPutAckReceived
  rw [whenRunning_run run, withBlock_next next hh hk]

end

end State

open State

theorem transferStarts {c : Instr} {g i k p : Nat} {b : Bytes} {op : QueueOp} {bs : List (BlockHeader × Bytes)} {s : State}
    (hc : (c = .put g i b ∧ k = Desc.opPut ∧ bs = dataBlocks kPut (Desc.remoteAddr op.raw) i (padTo (Desc.length op.raw) b))
      ∨ (c = .get g i ∧ k = Desc.opGet ∧ bs = [(getRequest op i, [])])) (run : s.running = true)
    (hop : s.readyOp g i k = some op) (hport : s.transferPort g (Desc.rail op.raw) (Desc.peer op.raw == 0) = some p)
    (hquiet : s.quiescing g = false) (hfree : s.transferWaits g op = false) (hfull : s.power.mode = .full)
    (hready : s.readyBefore op = true) : ∃ t, exec c s = .next t ∧ TransferStarts s t g i k p op bs := by
  obtain ⟨rfl, rfl, rfl⟩ | ⟨rfl, rfl, rfl⟩ := hc
  · refine ⟨_, exec_put run g i b, startTransfer_starts (blocks := fun op => dataBlocks kPut (Desc.remoteAddr op.raw) i
      (padTo (Desc.length op.raw) b)) hop hport hquiet hfree hfull hready fun x hx => ?_⟩
    rw [dataBlocks_kind x hx]
    decide
  · exact ⟨_, exec_get run g i, startTransfer_starts (blocks := fun op => [(getRequest op i, [])]) hop hport hquiet hfree hfull
      hready (by simp [getRequest, kGetData])⟩

section

variable {s u : State} {f : BlockFrom} {p : Nat} {h : BlockHeader} {r : RxBlock}
  (run : s.running = true) (next : s.blockNext f p r u) (hh : r.hdr = some h)

include run next hh

theorem putBlock_written (hk : h.kind = kPut) (hm : r.missing = 0) (hl : h.length ≤ r.data.length)
    (hb : s.badRegion f.group h.addr h.length = false) : ∃ t, exec (.putBlockReceived f) s = .next t
      ∧ t.out = s.out ++ [.memWrite (s.blockFabric f.group f.rail f.service p 1) h.addr (r.data.take h.length)]
      ∧ u.blocksQueued t f.group f.rail p f.service (replyFlow f) [(putAck h 0, [])]
      ∧ OtherPorts p s t ∧ OnlyChanges [.out, .ports, .flows] u t
      ∧ OnlyChanges [.out, .ports, .staging, .blockRx, .flows] s t := by
  have whole := blockNext_whole next hm
  have plan : s.SamePlan u := .of_only whole
  have hc : u.blockStatus f.group h r = 0 := blockStatus_whole ((badRegion_eq whole.image_eq _ _ _).trans hb) hm hl
  obtain ⟨queued, ports, sent⟩ := takePut_acks (u := u) (f := f) (p := p) hh
  rw [hc] at queued
  rw [writeBlock_whole hc, plan.blockFabric_eq] at sent
  have only : OnlyChanges [.out, .ports, .flows] u (u.takePut f p r) :=
    (sent.mono (by decide)).trans' (emit_only.mono (by decide))
  refine ⟨_, exec_putBlock run next hh hk, sent.out_eq.trans ?_, queued, fun q hq => (ports q hq).trans (whole.port_eq q), only,
    (only.mono (by decide)).trans' (whole.mono (by decide))⟩
  rw [← whole.out_eq]
  rfl

theorem putBlock_refused (hk : h.kind = kPut) (hm : r.missing = 0)
    (hb : s.badRegion f.group h.addr h.length = true) : ∃ t, exec (.putBlockReceived f) s = .next t ∧ t.out = s.out
      ∧ u.blocksQueued t f.group f.rail p f.service (replyFlow f) [(putAck h 8, [])]
      ∧ OtherPorts p s t ∧ OnlyChanges [.ports, .staging, .blockRx, .flows, .events, .stats] s t := by
  have whole := blockNext_whole next hm
  have hc : u.blockStatus f.group h r = 0x08 := blockStatus_refused ((badRegion_eq whole.image_eq _ _ _).trans hb)
  obtain ⟨queued, ports, sent⟩ := takePut_acks (u := u) (f := f) (p := p) hh
  rw [hc] at queued
  rw [writeBlock_refused hc] at sent
  have counted : OnlyChanges [.events, .stats] u (u.bumpG .transferViolation f.group 1) := bumpG_only
  have only : OnlyChanges [.ports, .staging, .blockRx, .flows, .events, .stats] s (u.takePut f p r) :=
    (sent.mono (by decide)).trans' ((counted.mono (by decide)).trans' (whole.mono (by decide)))
  exact ⟨_, exec_putBlock run next hh hk, only.out_eq, queued, fun q hq => (ports q hq).trans (whole.port_eq q), only⟩

theorem putBlock_short (hk : h.kind = kPut) (hm : r.missing ≠ 0 ∨ r.data.length < h.length)
    (hb : s.badRegion f.group h.addr h.length = false) : ∃ t, exec (.putBlockReceived f) s = .next t ∧ t.out = s.out
      ∧ u.blocksQueued t f.group f.rail p f.service (replyFlow f) [(putAck h 4, [])]
      ∧ OtherPorts p u t ∧ OnlyChanges [.ports, .flows, .events, .stats] u t
      ∧ OnlyChanges [.ports, .groups, .staging, .blockRx, .flows, .events, .stats] s t := by
  have used := blockNext_used next
  have hc : u.blockStatus f.group h r = 0x04 := blockStatus_short ((badRegion_eq used.image_eq _ _ _).trans hb) hm
  obtain ⟨queued, ports, sent⟩ := takePut_acks (u := u) (f := f) (p := p) hh
  rw [hc] at queued
  rw [writeBlock_short hc] at sent
  exact ⟨_, exec_putBlock run next hh hk, sent.out_eq.trans used.out_eq, queued, ports, sent.mono (by decide),
    (sent.mono (by decide)).trans' (used.mono (by decide))⟩

theorem getRequest_answered (b : Bytes) (hk : h.kind = kGetRequest) (hm : r.missing = 0)
    (hone : f.service = 0 ∨ h.length ≤ blockMax) (hb : s.badRegion f.group h.addr h.length = false) :
    ∃ t, exec (.getRequestReceived f b) s = .next t
      ∧ u.blocksQueued t f.group f.rail p f.service (replyFlow f)
          (dataBlocks kGetData h.replyAddr h.transfer (padTo h.length b))
      ∧ t.out = s.out ++ [.memRead (s.blockFabric f.group f.rail f.service p 0) h.addr h.length]
      ∧ OtherPorts p s t ∧ OnlyChanges [.out, .ports, .flows] u t
      ∧ OnlyChanges [.out, .ports, .staging, .blockRx, .flows] s t := by
  have whole := blockNext_whole next hm
  have plan : s.SamePlan u := .of_only whole
  obtain ⟨queued, out, ports, only⟩ := serveGet_serves (p := p) b hone ((badRegion_eq whole.image_eq _ _ _).trans hb)
  rw [plan.blockFabric_eq, whole.out_eq] at out
  exact ⟨_, exec_getRequest run next hh hk b, queued, out, fun q hq => (ports q hq).trans (whole.port_eq q), only,
    (only.mono (by decide)).trans' (whole.mono (by decide))⟩

/-- A GET's data is written and then counted. -/
theorem getData_counted {x : Transfer} (hk : h.kind = kGetData) (hm : r.missing = 0) (hl : h.length ≤ r.data.length)
    (hx : s.transferOf f h.transfer false = some x) (hst : h.status = 0)
    (hb : s.badRegion f.group h.addr h.length = false) : ∃ v : State, exec (.getDataReceived f) s = .next (v.countBlock x 0)
      ∧ v.out = s.out ++ [.memWrite (s.blockFabric f.group f.rail f.service p 1) h.addr (r.data.take h.length)]
      ∧ OnlyChanges [.out] u v ∧ OnlyChanges [.out, .staging, .blockRx, .flows] s v := by
  have whole := blockNext_whole next hm
  have plan : s.SamePlan u := .of_only whole
  have hc : u.blockStatus f.group h r = 0 := blockStatus_whole ((badRegion_eq whole.image_eq _ _ _).trans hb) hm hl
  have hxu := (transferOf_eq (whole .queues (by decide)) (whole .xfers (by decide)) f h.transfer false).trans hx
  have wrote := writeBlock_whole (p := p) hc
  rw [plan.blockFabric_eq] at wrote
  refine ⟨_, (exec_getData run next hh hk).trans (congrArg _ (takeGetData_takes hh hxu hst hc)), ?_⟩
  rw [wrote]
  refine ⟨?_, emit_only, (emit_only.mono (by decide)).trans' (whole.mono (by decide))⟩
  rw [← whole.out_eq]
  rfl

theorem putAck_counted {x : Transfer} (hk : h.kind = kPutAck) (hm : r.missing = 0) (hblock : h.block ≠ noTransfer)
    (hx : s.transferOf f h.transfer true = some x) : exec (.putAckReceived f) s = .next (u.countBlock x h.status) := by
  have whole := blockNext_whole next hm
  have hxu := (transferOf_eq (whole .queues (by decide)) (whole .xfers (by decide)) f h.transfer true).trans hx
  rw [exec_putAck run next hh hk, takePutAck_named hh hblock hxu]

theorem putAck_ends_route {x : Transfer} (hk : h.kind = kPutAck) (hm : r.missing = 0) (hblock : h.block = noTransfer)
    (hst : h.status ≠ 0) (hx : s.runningOn f true = some x) :
    exec (.putAckReceived f) s = .next (u.endTransfer x.group x.index h.status) := by
  have whole := blockNext_whole next hm
  have hxu := (runningOn_eq (whole .queues (by decide)) (whole .xfers (by decide)) f true).trans hx
  rw [exec_putAck run next hh hk, takePutAck_unnamed hh hblock hxu, countBlock_ends (.inl hst)]

end

/-- Settles O32: each command is the model's one step on the block that is next, taken apart by what the block says. -/
theorem transfersRunAndAreAnswered : Obligations.TransfersRunAndAreAnswered := by
  unfold Obligations.TransfersRunAndAreAnswered
  refine ⟨?starts, ⟨?put, ?short, ?get, ?data, ?ack, ?unnamed⟩⟩
  case starts =>
    intro c g i k p b op bs s hc run hop hport hquiet hfree hfull hready
    obtain ⟨t, step, begun⟩ := transferStarts hc run hop hport hquiet hfree hfull hready
    obtain ⟨xfers, queue, queued, out, ports, queues, only⟩ := begun
    refine ⟨t, _, step, xfers, rfl, rfl, rfl, rfl, rfl, ?_, queued, out, ports, queues, only⟩
    simpa [updateWhere] using queue
  case put =>
    intro f h r p s u run next hh hk hm hl
    exact ⟨putBlock_written run next hh hk hm hl, putBlock_refused run next hh hk hm⟩
  case short =>
    intro f h r p s u run next hh hk hm hb
    exact putBlock_short run next hh hk hm hb
  case get =>
    intro f h r b p s u run next hh hk hm hone hb
    exact getRequest_answered run next hh b hk hm hone hb
  case data =>
    intro f h r x p s u run next hh hk hm hl hx hst hb
    have whole := blockNext_whole next hm
    obtain ⟨v, step, out, wrote, only⟩ := getData_counted run next hh hk hm hl hx hst hb
    refine ⟨fun more => ?_, fun last => ?_⟩
    · obtain ⟨xfers, counted⟩ := countBlock_counts (s := v) more
      refine ⟨_, step, counted.out_eq.trans out, ?_, (counted.mono (by decide)).trans' (wrote.mono (by decide)),
        (counted.mono (by decide)).trans' (only.mono (by decide))⟩
      rw [xfers, only .xfers (by decide)]
    · rw [countBlock_ends (.inr last)] at step
      obtain ⟨gone, queues, -⟩ := endTransfer_ends v x.group x.index 0
      have ended : OnlyChanges [.ports, .queues, .groups, .xfers, .events, .stats] v (v.endTransfer x.group x.index 0) :=
        endTransfer_only
      exact ⟨_, step, ended.out_eq.trans out, gone, fun j hj => (queues j hj).trans (only.queue_eq j),
        (ended.mono (by decide)).trans' (wrote.mono (by decide))⟩
  case ack =>
    intro f h r x p s u run next hh hk hm hblock hx hst
    have whole := blockNext_whole next hm
    have step := putAck_counted run next hh hk hm hblock hx
    rw [hst] at step
    refine ⟨fun more => ?_, fun op last hop hr => ?_⟩
    · obtain ⟨xfers, counted⟩ := countBlock_counts (s := u) more
      refine ⟨_, step, ?_, counted, (counted.mono (by decide)).trans' (whole.mono (by decide))⟩
      rw [xfers, whole .xfers (by decide)]
    · rw [countBlock_ends (.inr last)] at step
      obtain ⟨gone, queues, records⟩ := endTransfer_ends u x.group x.index 0
      rw [whole.queue_eq] at records
      obtain ⟨d, hd, due⟩ := records op hop hr
      exact ⟨_, d, step, gone, hd, due, fun j hj => (queues j hj).trans (whole.queue_eq j), endTransfer_only⟩
  case unnamed =>
    intro f h r x p s u run next hh hk hm hblock hst hx
    have whole := blockNext_whole next hm
    obtain ⟨gone, queues, -⟩ := endTransfer_ends u x.group x.index h.status
    exact ⟨_, putAck_ends_route run next hh hk hm hblock hst hx, gone, fun j hj => (queues j hj).trans (whole.queue_eq j),
      endTransfer_only⟩

end Sys2Proof.Machine

end

/-! ## Calibration accesses and commits (R54 to R56, R338) -/

section

namespace Sys2Proof.Machine

set_option Elab.async false

open Sys2Proof

theorem only_nv_cal {P : List Part} {s u : State} {x y} (h : OnlyChanges P s u) (hn : .nv ∈ P) (hc : .cal ∈ P) :
    OnlyChanges P s { u with nv := x, cal := y } :=
  (only_nv (x1 := x) h hn).trans (only_cal (u := { u with nv := x }) .refl hc)

namespace State

/-- A write of a register of the privileged view does its work after the access has been noted. -/
theorem whenRunning_asPriv {s : State} {tag addr : Nat} {f : State → State} (hr : s.running = true)
    (hp : s.tagPriv tag = true) :
    whenRunning s (fun s => s.asPriv tag addr true f) = .next (f (s.touch tag)) := by
  rw [whenRunning_run hr, asPriv_of_tagPriv hp]

theorem not_gt_of_tagPriv {s : State} {tag : Nat} (h : s.tagPriv tag = true) : ¬tag > 8 := by
  simp only [tagPriv, tagLive, Bool.or_eq_true, Bool.and_eq_true, beq_iff_eq, decide_eq_true_eq] at h
  omega

/-! ### CAL_DATA -/

theorem writeCal_of_idle {s : State} (h : s.cal.busy = false) (v : Nat) : s.writeCal v = { s with cal := { s.cal with
    work := s.cal.work.writeBytes s.cal.offset (leBytes 4 v), offset := nextOffset s.cal } } := by
  unfold writeCal
  rw [h]
  rfl

theorem writeCal_of_busy {s : State} (h : s.cal.busy = true) (v : Nat) :
    s.writeCal v = { s with cal := { s.cal with writeBlocked := true } } := if_pos h

/-! ### The commit -/

theorem commitCal_of_busy {s : State} (h : s.storeBusy = true) :
    s.commitCal = { s with cal := { s.cal with result := 2 } } := if_pos h

theorem commitCal_of_free {s : State} (h : s.storeBusy = false) : s.commitCal = { s with cal := { s.cal with
    busy := true, work := s.commitRecord, committing := s.commitRecord } } := by
  unfold commitCal
  rw [h]
  rfl

/-- The CRC at the end of a committed record is that of the record before it (R55). -/
theorem commitRecord_crc {s : State} (h : s.cal.work.wf = true) :
    leNat (s.commitRecord.readBytes 0xFFFC 4) = crc32c (s.commitRecord.readBytes 0 0xFFFC) := by
  have sealed (m : Mem) (hm : m.wf = true) (c : Nat) (hc : c < 2 ^ 32) :
      leNat ((m.writeBytes 0xFFFC (leBytes 4 c)).readBytes 0xFFFC 4) = c := by
    have back := Mem.readBytes_writeBytes (a := 0xFFFC) (bs := leBytes 4 c) hm
    rw [leBytes_length] at back
    rw [back, leNat_leBytes]
    exact Nat.mod_eq_of_lt hc
  unfold commitRecord
  extract_lets count m₁ m₂
  have hm₂ : m₂.wf = true := Mem.wf_writeBytes (cleanRecord_wf h)
  clear_value m₂
  rw [sealed m₂ hm₂ _ (crc32c_lt _), Mem.readBytes_writeBytes_other (.inl (by omega))]

theorem reloadCal_of_idle {s : State} (h : s.cal.busy = false) :
    s.reloadCal = { s with cal := { s.cal with reloadAsked := true } } := by
  unfold reloadCal
  rw [h]
  rfl

/-! ### The end of a commit (R54, R269) -/

theorem proceedRestart_of_none {s : State} (h : s.power.restart = .none) : s.proceedRestart = s := by
  unfold proceedRestart
  rw [h]
  split <;> rfl

end State

namespace Mem

theorem read_append_of_absent {m n : Mem} {x : Nat} (h : ∀ c ∈ m, c.1 ≠ x) : Mem.read (m ++ n) x = n.read x := by
  induction m with
  | nil => rfl
  | cons e m ih =>
    obtain ⟨k, v⟩ := e
    rw [List.cons_append, Mem.read, if_neg (h (k, v) (by simp))]
    exact ih fun c hc => h c (by simp [hc])

theorem read_append_of_above {m n : Mem} {x : Nat} (h : above (x + 1) n) : Mem.read (m ++ n) x = m.read x := by
  induction m with
  | nil => exact read_above h (by omega)
  | cons e m ih => simp only [List.cons_append, Mem.read, ih]

/-- A splice reads as the one memory below the bound and as the other from it on (R56). -/
theorem read_splice (m n : Mem) (k x : Nat) :
    Mem.read (m.below k ++ n.filter (fun c => decide (k ≤ c.1))) x = if x < k then m.read x else n.read x := by
  split
  · rename_i hx
    rw [read_append_of_above]
    · exact (read_filter m (fun a => decide (a < k)) x).trans (if_pos (by simpa using hx))
    · intro c hc
      have := (List.mem_filter.mp hc).2
      simp only [decide_eq_true_eq] at this
      omega
  · rename_i hx
    rw [read_append_of_absent]
    · exact (read_filter n (fun a => decide (k ≤ a)) x).trans (if_pos (by simpa using hx))
    · rintro c hc rfl
      exact hx (by simpa using (List.mem_filter.mp hc).2)

end Mem

namespace State

/-- A commit that ends well takes the record's place in the store and nothing past it. -/
theorem finishCal_good {s : State} (hn : s.power.restart = .none) : s.finishCal true = { s with
    nv := { s.nv with bytes := s.cal.committing.below calBytes ++ s.nv.bytes.filter (fun c => decide (calBytes ≤ c.1))
                      calCut := none }
    cal := { s.cal with busy := false, committing := [], result := 1 } } := proceedRestart_of_none hn

theorem finishCal_bad {s : State} (hn : s.power.restart = .none) : s.finishCal false = { s.cutCal with
    cal := { s.cal with busy := false, committing := [], result := 3 } } := proceedRestart_of_none hn

end State

/-! ### The commands -/

section

variable {s : State} {tag : Nat} (run : s.running = true)

include run

theorem calDataWrite_writes (view : s.tagPriv tag = true) (idle : s.cal.busy = false) (v : Word32) :
    ∃ t, exec (.calDataWrite tag v) s = .next t
      ∧ t.cal = { s.cal with work := s.cal.work.writeBytes s.cal.offset (leBytes 4 v.toNat)
                             offset := if s.cal.autoInc then (s.cal.offset + 4) % 65536 else s.cal.offset }
      ∧ OnlyChanges [.cal, .host] s t :=
  ⟨_, State.whenRunning_asPriv run view, by rw [State.writeCal_of_idle (s := s.touch tag) idle]; rfl,
    (State.writeCal_only.mono (by decide)).trans' (State.touch_only.mono (by decide))⟩

theorem calDataWrite_blocked (view : s.tagPriv tag = true) (busy : s.cal.busy = true) (v : Word32) :
    ∃ t, exec (.calDataWrite tag v) s = .next t ∧ t.cal = { s.cal with writeBlocked := true }
      ∧ OnlyChanges [.cal, .host] s t :=
  ⟨_, State.whenRunning_asPriv run view, by rw [State.writeCal_of_busy (s := s.touch tag) busy]; rfl,
    (State.writeCal_only.mono (by decide)).trans' (State.touch_only.mono (by decide))⟩

theorem calDataRead_answers (view : s.tagPriv tag = true) :
    ∃ t, exec (.calDataRead tag) s = .next t
      ∧ t.out = s.out ++ [.readData tag (leNat (s.cal.work.readBytes s.cal.offset 4))]
      ∧ t.cal = { s.cal with offset := if s.cal.autoInc then (s.cal.offset + 4) % 65536 else s.cal.offset }
      ∧ OnlyChanges [.out, .cal, .host] s t := by
  have step : exec (.calDataRead tag) s = .next ((s.touch tag).readCal tag) := by
    show execCalDataRead tag s = _
    unfold execCalDataRead
    rw [whenRunning_run run, if_neg (State.not_gt_of_tagPriv view)]
    exact congrArg _ (if_pos view)
  exact ⟨_, step, rfl, rfl, (State.readCal_only.mono (by decide)).trans' (State.touch_only.mono (by decide))⟩

theorem calCommit_begins (view : s.tagPriv tag = true) {v : Word32} (go : v.toNat % 2 = 1) (free : s.storeBusy = false)
    (wf : s.cal.work.wf = true) : ∃ t, exec (.calCommit tag v) s = .next t ∧ t.cal.busy = true
      ∧ t.cal.work = t.cal.committing
      ∧ leNat (t.cal.committing.readBytes 0xFFFC 4) = crc32c (t.cal.committing.readBytes 0 0xFFFC)
      ∧ t.cal.inEffect = s.cal.inEffect ∧ OnlyChanges [.cal, .host] s t := by
  have step : exec (.calCommit tag v) s = .next (s.touch tag).commitCal :=
    (State.whenRunning_asPriv run view).trans (congrArg _ (if_pos (by simpa [bitAt] using go)))
  have only : OnlyChanges [.cal, .host] s (s.touch tag).commitCal :=
    (State.commitCal_only.mono (by decide)).trans' (State.touch_only.mono (by decide))
  have crc := State.commitRecord_crc (s := s.touch tag) wf
  rw [State.commitCal_of_free (s := s.touch tag) free] at step only
  generalize (s.touch tag).commitRecord = m at step only crc
  exact ⟨_, step, rfl, rfl, crc, rfl, only⟩

theorem calCommit_refused (view : s.tagPriv tag = true) {v : Word32} (go : v.toNat % 2 = 1) (busy : s.storeBusy = true) :
    ∃ t, exec (.calCommit tag v) s = .next t ∧ t.cal = { s.cal with result := 2 } ∧ OnlyChanges [.cal, .host] s t := by
  have step : exec (.calCommit tag v) s = .next (s.touch tag).commitCal :=
    (State.whenRunning_asPriv run view).trans (congrArg _ (if_pos (by simpa [bitAt] using go)))
  exact ⟨_, step, by rw [State.commitCal_of_busy (s := s.touch tag) busy]; rfl,
    (State.commitCal_only.mono (by decide)).trans' (State.touch_only.mono (by decide))⟩

theorem exec_calCommitDone (busy : s.cal.busy = true) (ok : Bool) :
    exec (.calCommitDone ok) s = .next (s.finishCal ok) := by
  show execCalCommitDone ok s = _
  unfold execCalCommitDone
  rw [whenRunning_run run, if_pos busy]

theorem calReload_asked (view : s.tagPriv tag = true) {v : Word32} (go : v.toNat % 2 = 1) (idle : s.cal.busy = false) :
    ∃ t, exec (.calReload tag v) s = .next t ∧ t.cal = { s.cal with reloadAsked := true }
      ∧ OnlyChanges [.cal, .host] s t := by
  have step : exec (.calReload tag v) s = .next (s.touch tag).reloadCal :=
    (State.whenRunning_asPriv run view).trans (congrArg _ (if_pos (by simpa [bitAt] using go)))
  exact ⟨_, step, by rw [State.reloadCal_of_idle (s := s.touch tag) idle]; rfl,
    (State.reloadCal_only.mono (by decide)).trans' (State.touch_only.mono (by decide))⟩

end

/-- Settles O9: accesses and commits change the calibration state as their equations say, and the store is then a splice of
the record and of what lay past it. -/
theorem calibrationRecordIsWrittenAndCommitted : Obligations.CalibrationRecordIsWrittenAndCommitted := by
  unfold Obligations.CalibrationRecordIsWrittenAndCommitted
  refine ⟨⟨?write, ?blocked, ?read⟩, ?commit, ?refused, ?good, ?bad, ?reload⟩
  case write => exact fun tag v s run view idle => calDataWrite_writes run view idle v
  case blocked => exact fun tag v s run view busy => calDataWrite_blocked run view busy v
  case read => exact fun tag s run view => calDataRead_answers run view
  case commit => exact fun tag v s run view go free wf => calCommit_begins run view go free wf
  case refused => exact fun tag v s run view go busy => calCommit_refused run view go busy
  case good =>
    intro s run busy hn
    refine ⟨_, exec_calCommitDone run busy true, ?_⟩
    rw [State.finishCal_good hn]
    refine ⟨rfl, rfl, rfl, fun _ _ _ => ⟨fun x hx => ?_, fun x hx => ?_⟩, ?_⟩
    · exact (Mem.read_splice ..).trans (if_pos hx)
    · exact (Mem.read_splice ..).trans (if_neg (by unfold State.calBytes; omega))
    · exact only_nv_cal .refl (by decide) (by decide)
  case bad =>
    intro s run busy hn
    refine ⟨_, exec_calCommitDone run busy false, ?_⟩
    rw [State.finishCal_bad hn]
    exact ⟨rfl, rfl, rfl, rfl, only_cal (State.cutCal_only.mono (by decide)) (by decide)⟩
  case reload => exact fun tag v s run view go idle => calReload_asked run view go idle

end Sys2Proof.Machine

end

/-! ## Temperature and thermal shutdown (R59, R409, R413) -/

section

namespace Sys2Proof.Machine

set_option Elab.async false

open Sys2Proof

/-! ### The hottest reading -/

theorem lt_foldl_max {l : List Int} {a n : Int} : n < l.foldl max a ↔ n < a ∨ ∃ x ∈ l, n < x := by
  induction l generalizing a with
  | nil => simp
  | cons x l ih => rw [List.foldl_cons, ih]; simp [or_assoc]

theorem lt_maximum {l : List Int} {n : Int} (h : l = [] → 0 ≤ n) :
    n < l.foldl max (l.headD 0) ↔ ∃ x ∈ l, n < x := by
  rw [lt_foldl_max]
  cases l with
  | nil => simpa using h rfl
  | cons x l => simp

theorem le_maximum {l : List Int} {n : Int} (h : l ≠ []) : n ≤ l.foldl max (l.headD 0) ↔ ∃ x ∈ l, n ≤ x := by
  simpa [Int.sub_one_lt_iff] using lt_maximum (n := n - 1) (fun e => absurd e h)

/-- Where an entry changed shows what another view shows of the entry itself, the table changed shows it too. -/
theorem Tbl.get_map_view {α β : Type} {d : α} {f : Nat → α → α} {view shown : α → β} {i : Nat} (hd : view d = shown d)
    (hf : ∀ x, view (f i x) = shown x) (t : Tbl α) :
    view (Tbl.get d (t.map (fun x => (x.1, f x.1 x.2))) i) = shown (Tbl.get d t i) := by
  induction t with
  | nil => exact hd
  | cons e t ih =>
    obtain ⟨k, x⟩ := e
    simp only [List.map_cons, Tbl.get]
    split
    · rename_i hk
      subst hk
      exact hf x
    · exact ih

namespace State

/-! ### Reading the sensors -/

/-- The six readings that a temperature update takes. -/
def sixReadings (temps : List Int) : List Int := (List.range 6).map (fun i => temps.getD i 0)

theorem sixReadings_ne_nil (temps : List Int) : sixReadings temps ≠ [] := by simp [sixReadings]

theorem tempDue_iff {s : State} :
    s.tempDue = true ↔ s.cal.lastTemp = none ∨ ∃ n, s.cal.lastTemp = some n ∧ n + 4096 ≤ s.time.ticks := by
  unfold tempDue
  cases s.cal.lastTemp <;> simp

theorem execTemperatureUpdate_due {s : State} (alive : s.alive = true) (due : s.tempDue = true) (temps : List Int) :
    exec (.temperatureUpdate temps) s = .next (s.updateTemps temps) := by
  show execTemperatureUpdate temps s = _
  unfold execTemperatureUpdate
  rw [whenAlive_run alive, if_pos due]

theorem execTemperatureUpdate_early {s : State} (early : s.tempDue = false) (temps : List Int) :
    exec (.temperatureUpdate temps) s = .next s := by
  show execTemperatureUpdate temps s = _
  unfold execTemperatureUpdate whenAlive
  simp [early]

section

variable (s : State) (temps : List Int)

theorem updateTemps_power : (s.updateTemps temps).power = (s.readTemps temps).power := by
  unfold updateTemps
  extract_lets u v
  split <;> rfl

theorem updateTemps_cal : (s.updateTemps temps).cal
    = { s.cal with lastTemp := some s.time.ticks, compNext := (s.updateTemps temps).cal.compNext } := by
  unfold updateTemps
  extract_lets u v
  split <;> rfl

theorem updateTemps_compNext : (s.power.mode ≠ .hold → (s.updateTemps temps).cal.compNext.isSome = true)
    ∧ (s.power.mode = .hold → (s.updateTemps temps).cal.compNext = s.cal.compNext) := by
  have mode : (s.readTemps temps).power.mode = s.power.mode := rfl
  unfold updateTemps
  extract_lets u c v
  have hv : v.power.mode = s.power.mode := mode
  refine ⟨fun h => ?_, fun h => ?_⟩
  · rw [if_neg (by simpa [hv] using h)]
    rfl
  · rw [if_pos (by simpa [hv] using h)]
    rfl

theorem readTemps_hottest : ((s.readTemps temps).power.thermalWarn = true ↔ s.power.thermalWarn = true ∨ ∃ x ∈ sixReadings temps, 25600 < x)
    ∧ ((s.readTemps temps).power.thermalCrit = true ↔ s.power.thermalCrit = true ∨ ∃ x ∈ sixReadings temps, 27648 < x)
    ∧ ((s.readTemps temps).power.thermAlert = true ↔
        (∃ x ∈ sixReadings temps, 25600 < x) ∨ (s.power.thermAlert = true ∧ ∃ x ∈ sixReadings temps, 24320 ≤ x)) := by
  have lt (n : Int) := lt_maximum (n := n) (fun e => absurd e (sixReadings_ne_nil temps))
  have le (n : Int) := le_maximum (n := n) (sixReadings_ne_nil temps)
  rw [← lt, ← lt, ← le]
  simp [readTemps, judgeHeat, hottest, celsius, sixReadings]

end

/-! ### Entry into Hold (R409) -/

theorem save_keeps (s : State) : s.keptBy s.save := by
  have area {β : Type} {view : Area → β} (a : Nat) (h : ∀ x : Area, view { cursor := x.cursor, pass := x.pass } = view x) :
      view (s.save.areas.get {} a) = view (s.area a) :=
    Tbl.get_map_view (f := fun _ (x : Area) => { cursor := x.cursor, pass := x.pass }) rfl h s.areas
  have queue {β : Type} {view : Queue → β} (g : Nat) (h : ∀ q, view (s.savedQueue g q) = view q) :
      view (s.save.queues.get {} g) = view (s.queue g) := Tbl.get_map_view (f := s.savedQueue) rfl h s.queues
  have ring {β : Type} {view : EventRing → β} (r : Nat) (h : ∀ x : EventRing, view { x with windows := [] } = view x) :
      view (s.save.rings.get {} r) = view (s.ring r) :=
    Tbl.get_map_view (f := fun _ (x : EventRing) => { x with windows := [] }) rfl h s.rings
  refine ⟨rfl, rfl, rfl, rfl, rfl, rfl, fun a => ⟨area a fun _ => rfl, area a fun _ => rfl⟩, fun g => ?_,
    fun r => ⟨ring r fun _ => rfl, ring r fun _ => rfl, ring r fun _ => rfl, ring r fun _ => rfl, ring r fun _ => rfl⟩⟩
  refine ⟨queue g fun _ => rfl, queue g fun _ => rfl, queue g fun _ => rfl, queue g fun _ => rfl, queue g fun _ => rfl,
    queue g fun _ => rfl, queue g fun _ => rfl, queue g fun _ => rfl, fun inStep => ⟨queue g fun q => ?_, ?_⟩⟩
  · simp [savedQueue, inStep]
  · exact Tbl.get_map_view (f := s.savedQueue) (view := Queue.ops) (shown := fun q => q.ops.filter (fun o => Desc.isStep o.raw))
      rfl (fun q => by simp [savedQueue, inStep]) s.queues

/-- What a state keeps rests on the parts that Hold copies alone. -/
theorem keptBy_of_only {P : List Part} {s t : State} {k : Saved} (h : OnlyChanges P s t) (kept : t.keptBy k)
    (hP : ∀ p ∈ [Part.buckets, .groups, .triggers, .parts, .image, .areas, .queues, .rings], p ∉ P := by decide) :
    s.keptBy k := by
  have same (p : Part) (hp : p ∈ [Part.buckets, .groups, .triggers, .parts, .image, .areas, .queues, .rings]) : p.same s t :=
    h p (hP p hp)
  have hb : t.buckets = s.buckets := same .buckets (by decide)
  have hg : t.groups = s.groups := same .groups (by decide)
  have ht : t.triggers = s.triggers := same .triggers (by decide)
  have hp : t.parts = s.parts := same .parts (by decide)
  have hi : t.image = s.image := same .image (by decide)
  have ha : t.areas = s.areas := same .areas (by decide)
  have hq : t.queues = s.queues := same .queues (by decide)
  have hr : t.rings = s.rings := same .rings (by decide)
  unfold keptBy area queue ring group at *
  rw [← hb, ← hg, ← ht, ← hp, ← hi, ← ha, ← hq, ← hr]
  exact kept

theorem enterHold_saved (s : State) (rails : Bool) (next : Restart) : (s.enterHold rails next).saved
    = some (match s.saved with
      | some k => if s.power.startStep ≠ 0 && !s.power.ready then k else s.holdLoop.save
      | none => s.holdLoop.save) := by
  have only : OnlyChanges [.out, .time, .events, .stats] s s.holdLoop := holdLoop_only
  have hs : s.holdLoop.saved = s.saved := only .saved (by decide)
  rw [← hs, ← only.power_eq]
  rfl

theorem enterHold_keeps (s : State) (rails : Bool) (next : Restart) : s.holdKeeps (s.enterHold rails next) := by
  have kept : s.keptBy s.holdLoop.save := keptBy_of_only holdLoop_only s.holdLoop.save_keeps
  rw [holdKeeps, enterHold_saved]
  refine ⟨fun h => ?_, fun k hk step off => ?_⟩
  · cases hsaved : s.saved with
    | none => exact ⟨_, rfl, kept⟩
    | some k =>
      refine ⟨_, rfl, ?_⟩
      dsimp only
      rw [if_neg (by rw [hsaved] at h; simpa [Decidable.or_iff_not_imp_left] using h)]
      exact kept
  · simp [hk, step, off]

theorem cutWrites_store (s : State) : s.cutWrites.nv.bytes = s.nv.bytes ∧ s.cutWrites.nv.floor = s.nv.floor := by
  have fuses : s.cutFuses.nv.bytes = s.nv.bytes ∧ s.cutFuses.nv.floor = s.nv.floor := by
    unfold cutFuses
    extract_lets done
    split <;> exact ⟨rfl, rfl⟩
  unfold cutWrites
  extract_lets u v
  have image : v.nv.bytes = s.nv.bytes ∧ v.nv.floor = s.nv.floor := by
    unfold v
    split <;> exact fuses
  clear_value v
  split <;> exact image

/-- Entry into Hold leaves the store and the stacks as they were (R407, R408). -/
theorem enterHold_memories (s : State) (rails : Bool) (next : Restart) : (s.enterHold rails next).stack = s.stack
    ∧ (s.enterHold rails next).nv.bytes = s.nv.bytes ∧ (s.enterHold rails next).nv.floor = s.nv.floor := by
  have only : OnlyChanges [.out, .time, .events, .stats] s s.holdLoop := holdLoop_only
  have nv : s.holdLoop.nv = s.nv := only .nv (by decide)
  have cut : s.holdLoop.cutWrites.cutPps.nv = s.holdLoop.cutWrites.nv := cutPps_only .nv (by decide)
  obtain ⟨bytes, floor⟩ := s.holdLoop.cutWrites_store
  rw [nv, ← cut] at bytes floor
  exact ⟨only.stack_eq, bytes, floor⟩

theorem execThermalShutdown_hot {s : State} {n : Nat} (run : s.running = true) (hot : ∃ x ∈ s.power.dieTemp, 29440 < x)
    (read : s.cal.lastTemp = some n) (past : n < s.time.ticks) :
    exec .thermalShutdown s = .next ((s.setCause 4).enterHold true .none) := by
  have hottest : 29440 < s.hottest := (lt_maximum fun _ => by omega).mpr hot
  show execThermalShutdown s = _
  unfold execThermalShutdown
  rw [whenRunning_run run, if_pos (by simp [celsius, tempBefore, read, past, hottest])]

theorem execThermalShutdown_cool {s : State} (run : s.running = true) (cool : ∀ x ∈ s.power.dieTemp, x ≤ 29440) :
    exec .thermalShutdown s = .next s := by
  have hottest : ¬29440 < s.hottest := by
    rw [hottest, lt_maximum fun _ => by omega]
    rintro ⟨x, hx, lt⟩
    exact absurd (cool x hx) (by omega)
  show execThermalShutdown s = _
  unfold execThermalShutdown
  rw [whenRunning_run run, if_neg (by simp [celsius, hottest])]

end State

/-- Settles O10: an update reads the sensors and judges the hottest; the shutdown enters Hold, which keeps the parts it
copies. -/
theorem temperatureWarnsAndShutsDown : Obligations.TemperatureWarnsAndShutsDown := by
  unfold Obligations.TemperatureWarnsAndShutsDown
  refine ⟨?update, ?early, ?hot, ?cool⟩
  case update =>
    rintro temps l s alive due rfl
    obtain ⟨warn, crit, alert⟩ := s.readTemps_hottest temps
    obtain ⟨prepared, kept⟩ := s.updateTemps_compNext temps
    refine ⟨_, State.execTemperatureUpdate_due alive (State.tempDue_iff.mpr due) temps, ?_⟩
    rw [s.updateTemps_power]
    exact ⟨rfl, warn, crit, alert, s.updateTemps_cal temps, prepared, kept, State.updateTemps_only⟩
  case early =>
    intro temps n s alive read early
    refine State.execTemperatureUpdate_early ?_ temps
    unfold State.tempDue
    rw [read]
    simpa using early
  case hot =>
    intro n s run hot read past
    obtain ⟨stack, bytes, floor⟩ := (s.setCause 4).enterHold_memories true .none
    have power : (s.setCause 4).holdLoop.power = (s.setCause 4).power := State.holdLoop_only .power (by decide)
    refine ⟨_, State.execThermalShutdown_hot run hot read past, rfl, rfl, ?_, (s.setCause 4).enterHold_keeps true .none,
      stack, bytes, floor⟩
    exact congrArg Power.resetCause power
  case cool => exact fun s run cool => State.execThermalShutdown_cool run cool

end Sys2Proof.Machine

end

/-! ## Cells that arrive, messages that leave, steps that end

What the commands of time and of the links share: a good cell brings its repeat request and nothing else to its port, an
express message joins a queue and changes nothing else of a port, and an abort reaches the groups it is for. -/

section

namespace Sys2Proof.Machine

set_option Elab.async false

open Sys2Proof

theorem OnlyChanges.now_eq {P : List Part} {s t : State} (h : OnlyChanges P s t) (hp : .clock ∉ P := by decide) :
    t.now = s.now := by
  obtain ⟨-, tide, -⟩ := h .clock hp
  exact tide

theorem OnlyChanges.time_eq {P : List Part} {s t : State} (h : OnlyChanges P s t) (hc : .clock ∉ P := by decide)
    (ht : .time ∉ P := by decide) : t.time = s.time := by
  obtain ⟨hall, tide, frames, ticks⟩ := h .clock hc
  have still : t.time.still = s.time.still := h .time ht
  have whole (x : TimeState) :
      x = { x.still with hall := x.hall, tide := x.tide, localFrames := x.localFrames, ticks := x.ticks } := rfl
  rw [whole t.time, whole s.time, still, hall, tide, frames, ticks]

/-- Where only ports, events and counters change, the rest of the state is the record's own. -/
theorem OnlyChanges.eq_ports {s t : State} (h : OnlyChanges [.ports, .events, .stats] s t) :
    t = { s with ports := t.ports, events := t.events, stats := t.stats } := by
  have time : t.time = s.time := h.time_eq
  have same (p : Part) (hp : p ∉ [Part.ports, .events, .stats] := by decide) : p.same s t := h p hp
  obtain ⟨⟩ := t
  simp only [State.mk.injEq, true_and]
  exact ⟨same .pending, same .out, same .ident, same .power, same .saved, same .nv, time, same .cal, same .image, same .books,
    same .bookRegs, same .parts, same .host, same .queues, same .triggers, same .groups, same .buckets, same .staging,
    same .stack, same .badUnits, same .units, same .xfers, same .blockCount, same .blockRx, same .flows, same .areas,
    same .rings, same .snaps, same .ctxView, same .recSel, same .maint, same .tap⟩

namespace State

/-! ### Cells that arrive (R175, R176) -/

theorem withCell_of_arrives {s : State} {p type : Nat} {cell : Bytes} {c : CellFields} (h : s.arrives p type cell c)
    (f : State → CellFields → State) : s.withCell p type cell f = f (s.heard p cell) c := by
  obtain ⟨link, good, rfl, type_eq, shape⟩ := h
  simp [withCell, heard, link, good, type_eq, shape]

theorem port_of_ports {s t : State} (h : t.ports = s.ports) (p : Nat) : t.port p = s.port p := by
  unfold port
  rw [h]

/-- A command that brings a good cell of its type works on what it holds. -/
theorem whenRunning_withCell {s : State} {p type : Nat} {cell : Bytes} {c : CellFields} (run : s.running = true)
    (h : s.arrives p type cell c) (f : State → CellFields → State) :
    whenRunning s (fun s => s.withCell p type cell f) = .next (f (s.heard p cell) c) := by
  rw [whenRunning_run run, withCell_of_arrives h]

/-- From `s` to `t` a port's repeat requests change and nothing else of the ports. -/
structure RequestsOnly (p : Nat) (s t : State) : Prop where
  port : ∃ seen asked, t.port p = { s.port p with seenReq := seen, requests := asked }
  others : OtherPorts p s t

namespace RequestsOnly

variable {p : Nat} {s t u : State}

theorem of_ports (h : t.ports = s.ports) : RequestsOnly p s t :=
  ⟨⟨(s.port p).seenReq, (s.port p).requests, port_of_ports h p⟩, fun q _ => port_of_ports h q⟩

theorem refl : RequestsOnly p s s := of_ports rfl

theorem trans (h : RequestsOnly p s t) (k : RequestsOnly p t u) : RequestsOnly p s u := by
  obtain ⟨⟨_, _, ht⟩, ho⟩ := h
  obtain ⟨⟨_, _, hu⟩, ko⟩ := k
  exact ⟨⟨_, _, by rw [hu, ht]⟩, fun q hq => (ko q hq).trans (ho q hq)⟩

theorem modPort {f : PortState → PortState} (hf : ∀ x, ∃ seen asked, f x = { x with seenReq := seen, requests := asked }) :
    RequestsOnly p s (s.modPort p f) := by
  refine ⟨?_, fun q hq => modPort_port_other _ _ hq⟩
  rw [modPort_port]
  exact hf _

end RequestsOnly

theorem keepRequest_requestsOnly (s : State) (p slot tide : Nat) : RequestsOnly p s (s.keepRequest p slot tide) := by
  have kept : RequestsOnly p s (s.modPort p (fun x => { x with requests := x.requests ++ [(slot, tide)] })) :=
    .modPort fun _ => ⟨_, _, rfl⟩
  have stale : RequestsOnly p s (s.bumpPort p .retxStale 1) := .of_ports bumpPort_only.ports_eq
  unfold keepRequest
  dsimp only
  split
  · split <;> assumption
  · split_ifs <;> assumption

theorem heard_requestsOnly (s : State) (p : Nat) (cell : Bytes) : RequestsOnly p s (s.heard p cell) := by
  have noted (q : Nat × Nat × Nat) : RequestsOnly p s (s.modPort p (fun x => { x with seenReq := x.seenReq ++ [q] })) :=
    .modPort fun _ => ⟨_, _, rfl⟩
  unfold heard collectRequest
  split
  · dsimp only
    split_ifs
    · exact .refl
    · exact .refl
    · exact (noted _).trans (keepRequest_requestsOnly ..)
    · exact (noted _).trans (keepRequest_requestsOnly ..)
    · exact (noted _).trans (.of_ports bumpPort_only.ports_eq)
  · exact .refl

/-- The cell that brought it leaves no trace but on ports, events and counters. -/
theorem heard_eq (s : State) (p : Nat) (cell : Bytes) : ∃ ports events stats,
    s.heard p cell = { s with ports := ports, events := events, stats := stats } :=
  ⟨_, _, _, heard_only.eq_ports⟩

/-- What a port shows beside its repeat requests, a cell that arrives leaves. -/
theorem heard_view {β : Type} (view : PortState → β) (s : State) (p : Nat) (cell : Bytes) (q : Nat)
    (hv : ∀ x seen asked, view { x with seenReq := seen, requests := asked } = view x := by intros; rfl) :
    view ((s.heard p cell).port q) = view (s.port q) := by
  obtain ⟨⟨_, _, port⟩, others⟩ := s.heard_requestsOnly p cell
  by_cases h : q = p
  · subst h
    rw [port, hv]
  · rw [others q h]

/-! ### Express messages that leave (R171) -/

/-- From `s` to `t` the express queues of ports change and nothing else of them. -/
def SendsOnly (s t : State) : Prop := ∀ p, ∃ queue, t.port p = { s.port p with exprQueue := queue }

namespace SendsOnly

variable {s t u : State}

theorem of_ports (h : t.ports = s.ports) : SendsOnly s t := fun p => ⟨(s.port p).exprQueue, port_of_ports h p⟩

theorem refl : SendsOnly s s := of_ports rfl

theorem trans (h : SendsOnly s t) (k : SendsOnly t u) : SendsOnly s u := fun p => by
  obtain ⟨_, ht⟩ := h p
  obtain ⟨_, hu⟩ := k p
  exact ⟨_, by rw [hu, ht]⟩

theorem foldl {α : Type} {f : State → α → State} (hf : ∀ u a, SendsOnly u (f u a)) (l : List α) (s : State) :
    SendsOnly s (l.foldl f s) := by
  induction l generalizing s with
  | nil => exact .refl
  | cons a l ih => exact (hf s a).trans (ih _)

theorem ite {c : Prop} [Decidable c] (ht : SendsOnly s t) (hu : SendsOnly s u) : SendsOnly s (if c then t else u) := by
  split
  · exact ht
  · exact hu

/-- What a port shows beside its express queue is as it was. -/
theorem view {β : Type} (h : SendsOnly s t) (view : PortState → β) (p : Nat)
    (hv : ∀ x queue, view { x with exprQueue := queue } = view x := by intros; rfl) : view (t.port p) = view (s.port p) := by
  obtain ⟨_, ht⟩ := h p
  rw [ht, hv]

end SendsOnly

theorem send_sendsOnly (s : State) (m : Msg) : SendsOnly s (s.send m) := by
  unfold send
  split
  · rename_i q _
    intro p
    unfold sendOn
    by_cases h : p = q
    · subst h
      exact ⟨_, modPort_port _ _ _⟩
    · exact ⟨_, modPort_port_other _ _ h⟩
  · exact .refl

theorem abort_sendsOnly (s : State) (g code chunk bucket : Nat) : SendsOnly s (s.abort g code chunk bucket) := by
  unfold abort
  exact .ite ((SendsOnly.of_ports keepToken_only.ports_eq).trans (send_sendsOnly _ _)) .refl

theorem abortGroups_sendsOnly (s : State) (gs : List Nat) (code : Nat) : SendsOnly s (s.abortGroups gs code) :=
  .foldl (fun u g => u.abort_sendsOnly g _ _ _) gs s

theorem forwardReduce_sendsOnly (s : State) (g kind tag : Nat) : SendsOnly s (s.forwardReduce g kind tag) := by
  unfold forwardReduce
  split
  · split
    · refine .ite .refl (SendsOnly.trans (.of_ports ?_) (send_sendsOnly _ _))
      exact modExpress_only.ports_eq.trans countScalar_only.ports_eq
    · exact .refl
  · exact .refl

theorem giveOperand_sendsOnly (s : State) (g kind tag op own : Nat) (flag : Bool) :
    SendsOnly s (s.giveOperand g kind tag op own flag) := by
  unfold giveOperand
  extract_lets u
  have given : SendsOnly s u := .of_ports modExpress_only.ports_eq
  clear_value u
  refine given.trans (.ite ?_ (forwardReduce_sendsOnly _ _ _ _))
  split
  · refine .ite .refl (SendsOnly.trans (.of_ports (modExpress_only.ports_eq.trans ?_)) (send_sendsOnly _ _))
    split
    · exact bumpG_only.ports_eq
    · rfl
  · exact .refl

theorem openOperand_sendsOnly (s : State) (g : Nat) : SendsOnly s (s.openOperand g) := by
  have mismatch : SendsOnly s ((s.bump .imageMismatch).abortGroup g 0x07) :=
    SendsOnly.trans (.of_ports bump_only.ports_eq) (abort_sendsOnly _ _ _ _ _)
  unfold openOperand
  exact .ite (.ite mismatch (.ite .refl (giveOperand_sendsOnly _ _ _ _ _ _ _))) .refl

theorem openOperands_sendsOnly (s : State) (gs : List Nat) : SendsOnly s (gs.foldl (fun s g => s.openOperand g) s) :=
  .foldl openOperand_sendsOnly gs s

/-! ### Steps that end (R157, R169) -/

/-- An abort begins on a member that has something to end and no abort yet. -/
theorem abortGroup_fresh {s : State} {g : Nat} (able : s.abortable g = true) (none : (s.group g).abort = none) (code : Nat) :
    ((s.abortGroup g code).group g).abort = some (freshAbort code 0xFFFFF 0xFFF s.now) := by
  unfold abortGroup abort
  dsimp only
  rw [if_pos (by rw [able, none]; rfl), send_only.group_eq]
  unfold keepToken
  rw [modGroup_group, none]
  rfl

/-- An abort that a member holds already stands. -/
theorem abortGroup_of_aborted {s : State} {g : Nat} (h : (s.group g).abort.isSome = true) (code : Nat) :
    s.abortGroup g code = s := by
  unfold abortGroup abort
  rw [if_neg]
  cases hg : (s.group g).abort <;> simp_all

theorem abortGroups_others (s : State) {gs : List Nat} {g : Nat} (h : g ∉ gs) (code : Nat) :
    (s.abortGroups gs code).group g = s.group g := by
  unfold abortGroups
  induction gs generalizing s with
  | nil => rfl
  | cons x gs ih =>
    obtain ⟨hx, hgs⟩ := not_or.mp (mt List.mem_cons.mpr h)
    exact (ih _ hgs).trans (abort_others s x _ _ _ g hx)

theorem abortGroups_of_aborted {s : State} {g : Nat} (h : (s.group g).abort.isSome = true) (gs : List Nat) (code : Nat) :
    (s.abortGroups gs code).group g = s.group g := by
  unfold abortGroups
  induction gs generalizing s with
  | nil => rfl
  | cons x gs ih =>
    have same : (s.abortGroup x code).group g = s.group g := by
      by_cases hx : g = x
      · subst hx
        rw [abortGroup_of_aborted h]
      · exact abort_others s x _ _ _ g hx
    exact (ih (by rw [same]; exact h)).trans same

theorem abortGroups_aborts (s : State) (gs : List Nat) (code : Nat) : s.groupsAbort (s.abortGroups gs code) gs code := by
  induction gs generalizing s with
  | nil => exact fun g h => absurd h List.not_mem_nil
  | cons x gs ih =>
    intro g hg able none
    show (((s.abortGroup x code).abortGroups gs code).group g).abort = _
    by_cases hx : g = x
    · subst hx
      have fresh := abortGroup_fresh able none code
      rw [abortGroups_of_aborted (by rw [fresh]; rfl), fresh]
    · have same : (s.abortGroup x code).group g = s.group g := abort_others s x _ _ _ g hx
      have now : (s.abortGroup x code).now = s.now := abort_only.now_eq
      rw [← now]
      exact ih _ g (List.mem_of_ne_of_mem hx hg) (by unfold abortable at able ⊢; rw [same]; exact able) (by rw [same]; exact none)

theorem groupsAbort_congr {s s' t t' : State} {gs : List Nat} {code : Nat} (h : s'.groupsAbort t' gs code)
    (groups : s'.groups = s.groups) (now : s'.now = s.now) (after : t.groups = t'.groups) : s.groupsAbort t gs code := by
  unfold groupsAbort abortable group at *
  rw [groups, now] at h
  rw [after]
  exact h

end State

end Sys2Proof.Machine

end

/-! ## Training of a port (R58, R251, R261, R262) -/

section

namespace Sys2Proof.Machine

set_option Elab.async false

open Sys2Proof

namespace State

/-! ### Steps that a port takes by itself -/

/-- An enabled port in OFF goes to SIGNAL where it is not retired and its role is not OFF. -/
theorem startPort_enabled {s : State} {p : Nat} (h : (s.port p).enable = true) : (s.startPort p).port p = { s.port p with
    link := if (s.port p).link = .off ∧ s.power.dumap.ports.contains p = false ∧ s.role p ≠ 0 then .signal
            else (s.port p).link } := by
  have goes : ((s.port p).link == .off && s.mayTrain p) = true ↔
      (s.port p).link = .off ∧ s.power.dumap.ports.contains p = false ∧ s.role p ≠ 0 := by
    simp [mayTrain, h]
  unfold startPort
  split
  · rename_i hgo
    rw [if_pos (goes.mp hgo), modPort_port]
  · rename_i hstay
    rw [if_neg (mt goes.mpr hstay)]

theorem modPort_others (s : State) (p : Nat) (f : PortState → PortState) : OtherPorts p s (s.modPort p f) :=
  fun _ h => modPort_port_other _ _ h

theorem otherPorts_trans {p : Nat} {s t u : State} (h : OtherPorts p s t) (k : OtherPorts p t u) : OtherPorts p s u :=
  fun q hq => (k q hq).trans (h q hq)

theorem startPort_others (s : State) (p : Nat) : OtherPorts p s (s.startPort p) := by
  unfold startPort
  split
  · exact modPort_others _ _ _
  · exact fun _ _ => rfl

/-! ### A hail that passes its tests (R49, R58, R261 to R264) -/

/-- A hail that fails no test has an L_p that R49 allows, where the image is active and DELAY is valid for its partner. -/
theorem latency_of_hailFault {s : State} {p : Nat} {h : Hail} (pass : s.hailFault p h = none) (image : s.img.isSome = true)
    (valid : s.delayValid p = true) (same : s.otherPartner p h = false) (link : (s.port p).link = .discover) :
    s.latencyOf p ≤ 400 ∧ s.latencyOf p ≤ s.imageLatency p := by
  have ok : s.latencyFails p h = false := by
    by_contra fails
    unfold hailFault at pass
    dsimp only at pass
    rw [if_pos (Bool.eq_true_of_not_eq_false fails)] at pass
    split_ifs at pass
  simpa [latencyFails, image, valid, same, link] using ok

/-- A hail of a type and of a partner that the record knows, on a port that goes on from DISCOVER: what R58, R60, R251 and
R262 ask. -/
structure HailAligns (s : State) (p : Nat) (h : Hail) : Prop where
  pass : s.hailFault p h = none
  known : s.newPartner p h = false
  same : s.otherPartner p h = false
  valid : s.delayValid p = true
  link : (s.port p).link = .discover
  frame : s.time.frame = true
  image : s.img.isSome = true
  free : (s.port p).driftBar = false

/-- The state in which the neighbour entry has taken an accepted hail. -/
def hailNoted (s : State) (p : Nat) (h : Hail) : State :=
  (s.noteHail p h).modPort p (fun x => { x with lastHail := s.time.ticks, nb :=
    { x.nb with state := .accepted, lastHail := s.now, seenChip := h.chip, seenSerial := h.serial.toNat, seenPort := h.port } })

/-- The state in which a port has entered ALIGN, with its L_p and φ_p fixed (R48). -/
def aligned (s : State) (p : Nat) : State :=
  (s.modPort p (fun x => { x with lp := s.latencyOf p, phi := s.offsetOf p (s.latencyOf p), marks := 0 })).modPort p
    (fun x => { x with link := .align, qreason := 0, tideFrame := true })

theorem hailNoted_port (s : State) (p : Nat) (h : Hail) : (s.hailNoted p h).port p = { s.port p with
    lastHail := s.time.ticks
    nb := { (s.port p).nb with
      chip := h.chip, serial := h.serial.toNat, port := h.port, role := h.role, version := h.version.toNat
      firmware := h.firmware.toNat, imageHash := h.imageHash, mapHash := h.mapHash, state := .accepted, lastHail := s.now
      seenChip := h.chip, seenSerial := h.serial.toNat, seenPort := h.port } } := by
  unfold hailNoted noteHail
  rw [modPort_port, modPort_port]

theorem hailNoted_others (s : State) (p : Nat) (h : Hail) : OtherPorts p s (s.hailNoted p h) :=
  otherPorts_trans (modPort_others _ _ _) (modPort_others _ _ _)

theorem aligned_port (s : State) (p : Nat) : (s.aligned p).port p = { s.port p with
    lp := s.latencyOf p, phi := s.offsetOf p (s.latencyOf p), marks := 0, link := .align, qreason := 0, tideFrame := true } := by
  unfold aligned
  rw [modPort_port, modPort_port]

theorem aligned_others (s : State) (p : Nat) : OtherPorts p s (s.aligned p) :=
  otherPorts_trans (modPort_others _ _ _) (modPort_others _ _ _)

/-- DELAY is valid for the partner that the entry has taken from a hail of the record's partner. -/
theorem hailNoted_delayForPartner {s : State} {p : Nat} {h : Hail} (valid : s.delayValid p = true)
    (same : s.otherPartner p h = false) : (s.hailNoted p h).delayForPartner p = true := by
  unfold delayForPartner
  rw [hailNoted_port]
  show (s.delayValid p && s.calPartner p == h.chip % 2 ^ 20 + h.port % 32 * 2 ^ 20 && s.calSerial p == h.serial.toNat) = true
  simpa [otherPartner, valid] using same

theorem enterAlign_of_good {s : State} {p : Nat} (good : s.latencyBad p (s.latencyOf p) = false) : s.enterAlign p = s.aligned p := by
  have good' : (s.modPort p (fun x => { x with lp := s.latencyOf p, phi := s.offsetOf p (s.latencyOf p), marks := 0 })).latencyBad p
      (s.latencyOf p) = false := by
    rw [← good]
    unfold latencyBad delayForPartner
    rw [modPort_port]
    rfl
  unfold enterAlign
  dsimp only
  rw [if_neg (by rw [good']; simp)]
  rfl

/-- A hail that passes takes the port to ALIGN (R251, R262); its groups may then have an operand of their OPEN to give. -/
theorem takeHail_aligns {s : State} {p : Nat} {h : Hail} (format : h.format = 1) (a : s.HailAligns p h) :
    SendsOnly ((s.hailNoted p h).aligned p) (s.takeHail p h) := by
  have partner := hailNoted_delayForPartner a.valid a.same
  have fits := latency_of_hailFault a.pass a.image a.valid a.same a.link
  have fits' : (s.hailNoted p h).latencyOf p ≤ 400 ∧ (s.hailNoted p h).latencyOf p ≤ (s.hailNoted p h).imageLatency p := fits
  have noted : (s.hailNoted p h).port p = _ := s.hailNoted_port p h
  have good : (s.hailNoted p h).latencyBad p ((s.hailNoted p h).latencyOf p) = false := by
    unfold latencyBad
    rw [partner]
    simpa using fits'
  have need : (s.hailNoted p h).needDelay p = s.hailNoted p h := by
    unfold needDelay
    rw [if_neg (by simp [partner])]
  have try_ : (s.hailNoted p h).tryAlign p = (s.hailNoted p h).aligned p := by
    unfold tryAlign
    have frame : (s.hailNoted p h).time.frame = true := a.frame
    rw [if_pos (by simp [noted, a.link, partner, frame, a.free]), enterAlign_of_good good]
  have met : s.meetPartner p h = s.noteHail p h := by
    simp [meetPartner, a.known, a.same]
  have taken : s.takeHail p h
      = (((s.hailNoted p h).aligned p).groupsOnPort p).foldl (fun s g => s.openOperand g) ((s.hailNoted p h).aligned p) := by
    unfold takeHail
    rw [if_neg (by simp [format]), a.pass]
    unfold acceptHail
    rw [a.known, met]
    extract_lets fresh u v w x
    have hw : w = s.hailNoted p h :=
      (if_neg (show ¬((((s.hailNoted p h).port p).link == .quarantine) = true) by simp [noted, a.link])).trans (if_neg Bool.false_ne_true)
    have hx : x = (s.hailNoted p h).aligned p := by
      unfold x
      rw [hw, need, try_]
    rw [hx]
  rw [taken]
  exact openOperands_sendsOnly _ _


/-- What the tests of a hail read of the ports is the state and the latency of the port that it came on. -/
theorem hailFault_of_port {s : State} {ports events stats} {p : Nat} (h : Hail)
    (link : (({ s with ports := ports, events := events, stats := stats } : State).port p).link = (s.port p).link)
    (lp : (({ s with ports := ports, events := events, stats := stats } : State).port p).lp = (s.port p).lp) :
    ({ s with ports := ports, events := events, stats := stats } : State).hailFault p h = s.hailFault p h := by
  have fails : ({ s with ports := ports, events := events, stats := stats } : State).latencyFails p h = s.latencyFails p h := by
    unfold latencyFails
    dsimp only
    rw [link, lp]
    rfl
  unfold hailFault
  dsimp only
  rw [fails]
  rfl

theorem HailAligns.heard {s : State} {p : Nat} {h : Hail} (a : s.HailAligns p h) (cell : Bytes) : (s.heard p cell).HailAligns p h := by
  have link : ((s.heard p cell).port p).link = (s.port p).link := heard_view PortState.link s p cell p
  have lp : ((s.heard p cell).port p).lp = (s.port p).lp := heard_view PortState.lp s p cell p
  have nb : ((s.heard p cell).port p).nb = (s.port p).nb := heard_view PortState.nb s p cell p
  have bar : ((s.heard p cell).port p).driftBar = (s.port p).driftBar := heard_view PortState.driftBar s p cell p
  obtain ⟨ports, events, stats, eq⟩ := s.heard_eq p cell
  rw [eq] at link lp nb bar ⊢
  exact {
    pass := (hailFault_of_port h link lp).trans a.pass
    known := by
      have known := a.known
      unfold newPartner at known ⊢
      rw [nb]
      exact known
    same := a.same
    valid := a.valid
    link := link.trans a.link
    frame := a.frame
    image := a.image
    free := bar.trans a.free }

/-- The state in which a port has entered SERVICE. -/
def intoService (s : State) (p : Nat) : State := s.modPort p (fun x => { x with link := .service, marks := 0 })

end State

/-! ### The commands -/

section

variable {s : State} {p : Nat} (run : s.running = true)

include run

theorem portEnable_enables {tag : Nat} (view : s.tagPriv tag = true) (hp : p < 24) : ∃ t, exec (.portEnable tag p) s = .next t
    ∧ t.port p = { s.port p with
        enable := true
        link := if (s.port p).link = .off ∧ s.power.dumap.ports.contains p = false ∧ s.role p ≠ 0 then .signal
                else (s.port p).link }
    ∧ OtherPorts p s t ∧ OnlyChanges [.ports, .host] s t := by
  have step : exec (.portEnable tag p) s
      = .next (((s.touch tag).modPort p (fun x => { x with enable := true })).startPort p) :=
    (State.whenRunning_asPriv run view).trans (congrArg _ (if_pos hp))
  refine ⟨_, step, ?_, State.otherPorts_trans (State.modPort_others (s.touch tag) _ _) (State.startPort_others _ _),
    (State.startPort_only.mono (by decide)).trans' ((State.modPort_only.mono (by decide)).trans'
      (State.touch_only.mono (by decide)))⟩
  rw [State.startPort_enabled (by rw [State.modPort_port]), State.modPort_port]
  rfl

theorem signalLock_frames {pol : BitVec 4} (link : (s.port p).link = .signal) : ∃ t, exec (.signalLock p pol) s = .next t
    ∧ t.port p = { s.port p with link := .frame, polarity := pol, leftSignal := true }
    ∧ OtherPorts p s t ∧ OnlyChanges [.ports] s t := by
  refine ⟨_, (whenRunning_run run).trans (congrArg _ (if_pos (by simp [link]))), ?_⟩
  exact ⟨State.modPort_port _ _ _, State.modPort_others _ _ _, State.modPort_only⟩

theorem signalTrainTimeout_counts (link : (s.port p).link = .signal) :
    exec (.signalTrainTimeout p) s = .next (s.bumpPort p .linkTrainFail 1) :=
  (whenRunning_run run).trans (congrArg _ (if_pos (by simp [link])))

theorem frameLock_discovers (link : (s.port p).link = .frame) : ∃ t, exec (.frameLock p) s = .next t
    ∧ (t.port p).link = .discover ∧ (t.port p).marks = 0 ∧ (t.port p).nb.state = .none
    ∧ (t.port p).lastHail = s.time.ticks ∧ (t.port p).hailDue = true ∧ (t.port p).tideFrame = false
    ∧ OtherPorts p s t ∧ OnlyChanges [.ports] s t := by
  refine ⟨_, (whenRunning_run run).trans (congrArg _ (if_pos (by simp [link]))), ?_⟩
  unfold State.enterDiscover
  rw [State.modPort_port, State.modPort_port]
  exact ⟨rfl, rfl, rfl, rfl, rfl, rfl, State.otherPorts_trans (State.modPort_others _ _ _) (State.modPort_others _ _ _),
    State.modPort_only.trans' State.modPort_only⟩

theorem hailReceived_aligns {cell : Bytes} {c : CellFields} (arrives : s.arrives p tHail cell c)
    (format : (readHail c.payload).format = 1) (a : s.HailAligns p (readHail c.payload)) : ∃ t,
    exec (.hailReceived p cell) s = .next t ∧ (t.port p).link = .align ∧ (t.port p).nb.state = .accepted
    ∧ (t.port p).lp = s.latencyOf p ∧ (t.port p).phi = s.offsetOf p (s.latencyOf p) ∧ (t.port p).marks = 0
    ∧ (t.port p).tideFrame = true ∧ (∀ q, q ≠ p → (t.port q).link = (s.port q).link)
    ∧ OnlyChanges [.out, .time, .cal, .ports, .groups, .events, .stats, .maint] s t := by
  have step : exec (.hailReceived p cell) s = .next ((s.heard p cell).takeHail p (readHail c.payload)) :=
    State.whenRunning_withCell run arrives _
  have sends := State.takeHail_aligns format (a.heard cell)
  have port := ((s.heard p cell).hailNoted p (readHail c.payload)).aligned_port p
  rw [State.hailNoted_port] at port
  obtain ⟨ports, events, stats, eq⟩ := s.heard_eq p cell
  have shown {β : Type} (view : PortState → β) (hv : ∀ x queue, view { x with exprQueue := queue } = view x) :=
    (sends.view view p hv).trans (congrArg view port)
  refine ⟨_, step, shown PortState.link fun _ _ => rfl, shown (fun x => x.nb.state) fun _ _ => rfl,
    (shown PortState.lp fun _ _ => rfl).trans (by rw [eq]; rfl), (shown PortState.phi fun _ _ => rfl).trans (by rw [eq]; rfl),
    shown PortState.marks fun _ _ => rfl, shown PortState.tideFrame fun _ _ => rfl, fun q hq => ?_, execHailReceived_only step⟩
  rw [sends.view PortState.link q, State.aligned_others _ _ q hq, State.hailNoted_others _ _ _ q hq]
  exact State.heard_view PortState.link s p cell q

theorem alignComplete_serves (link : (s.port p).link = .align) (marks : 64 ≤ (s.port p).marks) (frame : s.time.frame = true) :
    ∃ t, exec (.alignComplete p) s = .next t ∧ (t.port p).link = .service
    ∧ (∀ q, q ≠ p → (t.port q).link = (s.port q).link) ∧ OnlyChanges [.ports, .groups, .events, .stats] s t := by
  have step : exec (.alignComplete p) s = .next (((s.intoService p).groupsOnPort p).foldl (fun s g => s.openOperand g)
      (s.intoService p)) := (whenRunning_run run).trans (congrArg _ (if_pos (by simp [link, marks, frame])))
  have sends := State.openOperands_sendsOnly (s.intoService p) ((s.intoService p).groupsOnPort p)
  have port : (s.intoService p).port p = _ := State.modPort_port _ _ _
  refine ⟨_, step, (sends.view PortState.link p).trans (by rw [port]), fun q hq => ?_, execAlignComplete_only step⟩
  exact (sends.view PortState.link q).trans (congrArg _ (State.modPort_others _ _ _ q hq))

end

/-- Settles O14, state by state: each command moves the port from its own state, and elsewhere leaves the engine as it was. -/
theorem trainingClimbsStateByState : Obligations.TrainingClimbsStateByState := by
  unfold Obligations.TrainingClimbsStateByState
  refine ⟨?enable, ?signal, ?timeout, ?frame, ?hail, ?align, ?idle⟩
  case enable => exact fun tag p s run view hp => portEnable_enables run view hp
  case signal => exact fun p pol s run link => signalLock_frames run link
  case timeout => exact fun p s run link => signalTrainTimeout_counts run link
  case frame => exact fun p s run link => frameLock_discovers run link
  case hail =>
    rintro p cell c h s run arrives rfl format pass known link same valid frame image free
    exact hailReceived_aligns run arrives format ⟨pass, known, same, valid, link, frame, image, free⟩
  case align => exact fun p s run link marks frame => alignComplete_serves run link marks frame
  case idle =>
    rintro p pol c s run (⟨rfl | rfl, link⟩ | ⟨rfl, link⟩ | ⟨rfl, early⟩)
    · exact (whenRunning_run run).trans (congrArg _ (if_neg (by simpa using link)))
    · exact (whenRunning_run run).trans (congrArg _ (if_neg (by simpa using link)))
    · exact (whenRunning_run run).trans (congrArg _ (if_neg (by simpa using link)))
    · refine (whenRunning_run run).trans (congrArg _ (if_neg ?_))
      intro h
      simp only [Bool.and_eq_true, beq_iff_eq, decide_eq_true_eq] at h
      obtain ⟨⟨link, marks⟩, frame⟩ := h
      obtain hl | hm | hf := early
      · exact hl link
      · omega
      · rw [hf] at frame
        exact absurd frame Bool.false_ne_true

end Sys2Proof.Machine

end

/-! ## The loss of a time reference (R32, R36, R38, R61, R268) -/

section

namespace Sys2Proof.Machine

set_option Elab.async false

open Sys2Proof

namespace State

/-! ### The discipline loop -/

theorem cutPps_view {β : Type} (view : TimeState → β) (s : State)
    (hv : ∀ x until_, view { x with ppsUntil := until_ } = view x := by intros; rfl) : view s.cutPps.time = view s.time := by
  unfold cutPps
  split
  · rw [← hv s.time none]
    dsimp only
    split <;> rfl
  · rfl

/-- What the time unit shows beside TIDE_VALID and the pulse in progress, TIDE_VALID leaves as it follows the loop. -/
theorem setFrame_view {β : Type} (view : TimeState → β) (s : State)
    (hv : ∀ x frame until_, view { x with frame := frame, ppsUntil := until_ } = view x := by intros; rfl) :
    view s.setFrame.time = view s.time := by
  have cut : view s.cutPps.time = view s.time := cutPps_view view s fun x u => hv x x.frame u
  unfold setFrame
  extract_lets u
  have hu : view u.time = view s.time := by
    unfold u
    split
    · rfl
    · exact cut
  rw [← hu]
  exact hv u.time _ u.time.ppsUntil

theorem cutPps_frameNow (s : State) : s.cutPps.frameNow = s.frameNow := by
  have shown (u : State) : u.frameNow = ((u.time.loop == .locked || (u.time.loop == .holdover
      && decide (u.time.bound ≤ boundLimit))) && u.img.isSome && !u.beforeEpoch && u.time.calValid) := rfl
  have image : s.cutPps.img = s.img := cutPps_only.img_eq
  have hall : s.cutPps.time.hall = s.time.hall := cutPps_view TimeState.hall s
  rw [shown, shown, beforeEpoch, beforeEpoch, cutPps_view TimeState.loop, cutPps_view TimeState.bound, cutPps_view TimeState.calValid, image, hall]

theorem setFrame_frame (s : State) : s.setFrame.time.frame = s.frameNow := by
  unfold setFrame
  dsimp only
  split
  · rfl
  · exact s.cutPps_frameNow

theorem timeEvent_time (s : State) (old : Loop) (severity code : Nat) (ref : RefSource) (port : Nat) :
    (s.timeEvent old severity code ref port).time = s.time := timeEvent_only.time_eq

theorem bump_time (s : State) (c : EStat) : (s.bump c).time = s.time := bump_only.time_eq

theorem enterHoldover_view {β : Type} (view : TimeState → β) (s : State)
    (hv : ∀ x frame until_, view { x with frame := frame, ppsUntil := until_ } = view x := by intros; rfl) :
    view (s.enterLoop .holdover).time = view { s.time with
      loop := .holdover, bound := 98304, boundStart := 98304, loopFreq := s.heldFreq, boundTide := s.time.ticks
      holdoverSeen := true, refSource := .none, refPort := 0, lockCount := 0 } := by
  unfold enterLoop
  dsimp only
  rw [timeEvent_time, setFrame_view view _ hv, bump_time]
  rfl

theorem enterFreerun_view {β : Type} (view : TimeState → β) (s : State)
    (hv : ∀ x frame until_, view { x with frame := frame, ppsUntil := until_ } = view x := by intros; rfl) :
    view (s.enterLoop .freerun).time = view { s.time with
      loop := .freerun, bound := 0, refSource := .none, refPort := 0, lockCount := 0, loopFreq := s.oscTrim } := by
  unfold enterLoop
  dsimp only
  rw [setFrame_view view _ hv]

theorem enterTimeLost_view {β : Type} (view : TimeState → β) (s : State)
    (hv : ∀ x frame until_, view { x with frame := frame, ppsUntil := until_ } = view x := by intros; rfl) :
    view (s.enterLoop .timeLost).time = view { s.time with
      loop := .timeLost, bound := 0, refSource := .none, refPort := 0, lockCount := 0, loopFreq := s.heldFreq } := by
  unfold enterLoop
  dsimp only
  rw [timeEvent_time, setFrame_view view _ hv]

/-- What the time unit holds beside the loop: the entries of the time ports, the PPS input and the alignment fault. -/
def besideLoop (x : TimeState) : Tbl TimePort × Units × Bool × Bool := (x.ports, x.ppsInOffset, x.ppsInValid, x.alignFault)

/-- The loop changes its state and leaves what stands beside it. -/
theorem enterLoop_beside (s : State) (l : Loop) : besideLoop (s.enterLoop l).time = besideLoop s.time := by
  cases l
  case freerun => exact enterFreerun_view besideLoop s
  case freqAcquire => exact setFrame_view besideLoop _
  case phaseAcquire => exact setFrame_view besideLoop _
  case locked => exact (congrArg _ (timeEvent_time ..)).trans (setFrame_view besideLoop _)
  case holdover => exact enterHoldover_view besideLoop s
  case timeLost => exact enterTimeLost_view besideLoop s

theorem loseReference_beside (s : State) : besideLoop s.loseReference.time = besideLoop s.time := by
  unfold loseReference
  dsimp only
  split
  · split
    · rfl
    · exact enterLoop_beside _ _
  · exact enterLoop_beside _ _
  · exact enterLoop_beside _ _
  · rfl
  · rfl

theorem ports_of_beside {s t : State} (h : besideLoop t.time = besideLoop s.time) : t.time.ports = s.time.ports :=
  congrArg Prod.fst h

/-! ### A port whose reference is lost (R32, R39) -/

/-- The state in which a time port counts as lost. -/
def portLost (s : State) (p : Nat) : State :=
  s.setTimePort p { s.timePort p with lost := true, syncs := 0, paired := false }

theorem loseTimePort_eq {s : State} {p : Nat} (h : s.sourceOf p ≠ .none) : s.loseTimePort p =
    if s.time.refSource = s.sourceOf p then (s.portLost p).loseReference
    else if s.time.refSource = .none && s.time.loop == .locked && s.sourceOf p == otherSource s.time.lastRef then
      (s.portLost p).enterLoop .holdover
    else s.portLost p := by
  unfold loseTimePort
  dsimp only
  rw [if_neg h]
  rfl

theorem loseTimePort_ports {s : State} {p : Nat} (h : s.sourceOf p ≠ .none) (q : Nat) :
    (s.loseTimePort p).timePort q = (s.portLost p).timePort q := by
  have ports : (s.loseTimePort p).time.ports = (s.portLost p).time.ports := by
    rw [loseTimePort_eq h]
    split_ifs
    · exact ports_of_beside (loseReference_beside _)
    · exact ports_of_beside (enterLoop_beside _ _)
    · rfl
  unfold timePort
  rw [ports]

theorem portLost_port (s : State) (p : Nat) :
    (s.portLost p).timePort p = { s.timePort p with lost := true, syncs := 0, paired := false } := setTimePort_timePort _ _ _

theorem portLost_port_other (s : State) {p q : Nat} (h : q ≠ p) : (s.portLost p).timePort q = s.timePort q :=
  setTimePort_timePort_other _ _ h

/-- A port that is lost is none to switch to, and no other becomes one. -/
theorem portLost_not_switchable {s : State} {p : Nat} {r : RefSource} (h : s.switchable r = false) :
    (s.portLost p).switchable r = false := by
  unfold switchable at h ⊢
  have source : (s.portLost p).sourcePort r = s.sourcePort r := rfl
  rw [source]
  cases hq : s.sourcePort r with
  | none => rfl
  | some q =>
    by_cases hqp : q = p
    · subst hqp
      simp [portLost]
    · rw [hq] at h
      simp only [portLost, setTimePort_timePort_other _ _ hqp]
      exact h

/-- The state that remembers which reference was active. -/
def refNoted (s : State) : State :=
  { s with time := { s.time with lastRef := s.time.refSource, lastRefPort := s.time.refPort } }

theorem loseReference_alone {s : State} (locked : s.time.loop = .locked)
    (alone : s.switchable (otherSource s.time.refSource) = false) : s.loseReference = s.refNoted.enterLoop .holdover := by
  unfold loseReference
  extract_lets t u
  rw [show u.time.loop = .locked from locked]
  exact if_neg (Bool.eq_false_iff.mp alone)

theorem loseReference_acquires {s : State} (h : s.time.loop = .freqAcquire ∨ s.time.loop = .phaseAcquire) :
    s.loseReference = s.refNoted.enterLoop .freerun := by
  unfold loseReference
  extract_lets t u
  obtain h | h := h
  · rw [show u.time.loop = .freqAcquire from h]
    rfl
  · rw [show u.time.loop = .phaseAcquire from h]
    rfl

/-- The active reference is lost and no other can be taken: LOCKED goes to HOLDOVER, an acquisition to FREERUN (R36, R39). -/
theorem loseTimePort_active {s : State} {p : Nat} (h : s.sourceOf p ≠ .none) (active : s.time.refSource = s.sourceOf p) :
    (s.time.loop = .locked → s.switchable (otherSource (s.sourceOf p)) = false →
      (s.loseTimePort p).time.loop = .holdover ∧ (s.loseTimePort p).time.bound = 98304
        ∧ (s.loseTimePort p).time.refSource = .none)
    ∧ (s.time.loop = .freqAcquire ∨ s.time.loop = .phaseAcquire → (s.loseTimePort p).time.loop = .freerun) := by
  rw [loseTimePort_eq h, if_pos active]
  refine ⟨fun locked alone => ?_, fun acquires => ?_⟩
  · have alone' : (s.portLost p).switchable (otherSource (s.portLost p).time.refSource) = false :=
      portLost_not_switchable (by rw [show (s.portLost p).time.refSource = _ from active]; exact alone)
    rw [loseReference_alone (s := s.portLost p) locked alone']
    exact ⟨enterHoldover_view TimeState.loop _, enterHoldover_view TimeState.bound _, enterHoldover_view TimeState.refSource _⟩
  · rw [loseReference_acquires (s := s.portLost p) acquires]
    exact enterFreerun_view TimeState.loop _

/-- What the loss of a port's reference leaves, `silent` telling whether the port is without an Announce (R32, R39). -/
structure ReferenceLost (s t : State) (p : Nat) (silent : Bool) : Prop where
  port : t.timePort p = { s.timePort p with lost := true, syncs := 0, paired := false, silent := silent }
  others : ∀ q, q ≠ p → t.timePort q = s.timePort q
  locked : s.time.refSource = s.sourceOf p → s.time.loop = .locked →
    s.switchable (otherSource (s.sourceOf p)) = false →
    t.time.loop = .holdover ∧ t.time.bound = 98304 ∧ t.time.refSource = .none
  acquires : s.time.refSource = s.sourceOf p → s.time.loop = .freqAcquire ∨ s.time.loop = .phaseAcquire →
    t.time.loop = .freerun

theorem loseTimePort_loses {s : State} {p : Nat} (h : s.sourceOf p ≠ .none) :
    ReferenceLost s (s.loseTimePort p) p (s.timePort p).silent where
  port := (loseTimePort_ports h p).trans (portLost_port s p)
  others q hq := (loseTimePort_ports h q).trans (portLost_port_other s hq)
  locked active := (loseTimePort_active h active).1
  acquires active := (loseTimePort_active h active).2

/-- The state in which a port is known to have had no Announce. -/
def portSilent (s : State) (p : Nat) : State := s.setTimePort p { s.timePort p with silent := true }

theorem portSilent_switchable (s : State) (p : Nat) (r : RefSource) : (s.portSilent p).switchable r = s.switchable r := by
  unfold switchable
  have source : (s.portSilent p).sourcePort r = s.sourcePort r := rfl
  rw [source]
  split
  · rename_i q _
    by_cases hq : q = p
    · subst hq
      simp [portSilent]
    · simp only [portSilent, setTimePort_timePort_other _ _ hq]
  · rfl

theorem portSilent_loses {s : State} {p : Nat} (h : s.sourceOf p ≠ .none) :
    ReferenceLost s ((s.portSilent p).loseTimePort p) p true := by
  have silent : (s.portSilent p).timePort p = { s.timePort p with silent := true } := setTimePort_timePort _ _ _
  have lost : ReferenceLost (s.portSilent p) ((s.portSilent p).loseTimePort p) p ((s.portSilent p).timePort p).silent :=
    loseTimePort_loses h
  exact {
    port := lost.port.trans (by rw [silent])
    others := fun q hq => (lost.others q hq).trans (setTimePort_timePort_other _ _ hq)
    locked := fun active loop alone => lost.locked active loop ((s.portSilent_switchable p _).trans alone)
    acquires := fun active loop => lost.acquires active loop }

/-! ### Ports changed one by one -/

/-- Where each step of a fold over different ports changes its own port alone, each port is changed by its own step. -/
theorem foldl_port {f : State → Nat → State} {change : Nat → PortState → PortState}
    (own : ∀ u q, (f u q).port q = change q (u.port q)) (others : ∀ u q, OtherPorts q u (f u q)) {l : List Nat}
    (nodup : l.Nodup) (s : State) (p : Nat) : (l.foldl f s).port p = if p ∈ l then change p (s.port p) else s.port p := by
  induction l generalizing s with
  | nil => rfl
  | cons q l ih =>
    obtain ⟨hq, hl⟩ := List.nodup_cons.mp nodup
    rw [List.foldl_cons, ih hl]
    by_cases h : p = q
    · subst h
      rw [if_neg hq, if_pos List.mem_cons_self, own]
    · simp only [others s q p h, List.mem_cons, h, false_or]

/-- What the end of the tide frame leaves of a port (R38, R251, R268). -/
def withdrawn (x : PortState) : PortState :=
  if x.link == .service || x.link == .align then
    { clearScheduled x with
      link := .discover, qreason := 0, qPending := none, marks := 0, tideFrame := false, mark := none, hailDue := true }
  else { x with tideFrame := false, mark := none }

theorem withdraw_port (s : State) (p : Nat) : s.withdraw.port p = if p < 24 then withdrawn (s.port p) else s.port p := by
  unfold withdraw
  rw [foldl_port (change := fun _ => withdrawn) ?own ?others List.nodup_range]
  case own =>
    intro u q
    unfold withdrawn
    split
    · exact modPort_port _ _ _
    · exact modPort_port _ _ _
  case others =>
    intro u q
    split
    · exact modPort_others _ _ _
    · exact modPort_others _ _ _
  simp only [List.mem_range]

theorem withdrawn_link (x : PortState) :
    (withdrawn x).link = if x.link = .service ∨ x.link = .align then .discover else x.link := by
  unfold withdrawn
  by_cases h : x.link = .service ∨ x.link = .align
  · rw [if_pos h, if_pos (by simpa using h)]
  · rw [if_neg h, if_neg (by simpa using h)]

/-! ### TIME_LOST (R38, R61, R268) -/

/-- The state in which the fault that TIME_LOST sets stands. -/
def lossNoted (s : State) : State :=
  { s with time := { s.time with lostAsked := none }
           power := { s.power with faults := { s.power.faults with timeLost := true } } }

/-- The state in which time is lost, before the ports leave scheduled service. -/
def lossEntered (s : State) : State := ((s.lossNoted.bump .timeLost).abortGroups s.ownGroups 0x0C).enterLoop .timeLost

theorem execTimeLost_due {s : State} {n : Nat} (alive : s.alive = true) (asked : s.time.lostAsked = some n)
    (past : n < s.time.ticks) (loop : s.time.loop = .holdover) : exec .timeLost s = .next s.lossEntered.withdraw := by
  show execTimeLost s = _
  unfold execTimeLost
  rw [whenAlive_run alive, asked]
  dsimp only
  rw [if_pos (by simp [loop, past])]
  rfl

theorem lossEntered_view {β : Type} (view : TimeState → β) (s : State)
    (hv : ∀ x frame until_, view { x with frame := frame, ppsUntil := until_ } = view x := by intros; rfl) :
    view s.lossEntered.time = view { s.lossNoted.time with
      loop := .timeLost, bound := 0, refSource := .none, refPort := 0, lockCount := 0
      loopFreq := ((s.lossNoted.bump .timeLost).abortGroups s.ownGroups 0x0C).heldFreq } := by
  have before : ((s.lossNoted.bump .timeLost).abortGroups s.ownGroups 0x0C).time = s.lossNoted.time :=
    abortGroups_only.time_eq.trans (bump_time _ _)
  unfold lossEntered
  rw [enterTimeLost_view view _ hv, before]

theorem enterTimeLost_frame (s : State) : (s.enterLoop .timeLost).time.frame = false := by
  unfold enterLoop
  dsimp only
  rw [timeEvent_time, setFrame_frame]
  simp [frameNow]

theorem lossEntered_link (s : State) (p : Nat) : (s.lossEntered.port p).link = (s.port p).link := by
  have sends := (s.lossNoted.bump .timeLost).abortGroups_sendsOnly s.ownGroups 0x0C
  have ports : (s.lossNoted.bump .timeLost).ports = s.ports := bump_only.ports_eq
  unfold lossEntered
  rw [enterLoop_only.port_eq, sends.view PortState.link p]
  exact congrArg _ (port_of_ports ports p)

theorem lossEntered_groups (s : State) : s.groupsAbort s.lossEntered s.ownGroups 0x0C
    ∧ ∀ g, g ∉ s.ownGroups → s.lossEntered.group g = s.group g := by
  have groups : (s.lossNoted.bump .timeLost).groups = s.groups := bump_only.groups_eq
  have now : (s.lossNoted.bump .timeLost).now = s.now := bump_only.now_eq
  have after : s.lossEntered.groups = ((s.lossNoted.bump .timeLost).abortGroups s.ownGroups 0x0C).groups :=
    enterLoop_only.groups_eq
  refine ⟨groupsAbort_congr (abortGroups_aborts _ _ _) groups now after, fun g hg => ?_⟩
  have kept := abortGroups_others (s.lossNoted.bump .timeLost) hg 0x0C
  unfold group at kept ⊢
  rw [after, kept, groups]

end State

/-! ### The commands -/

section

variable {s : State}

theorem exec_syncTimeout_due {p : Nat} (run : s.running = true)
    (due : passed s.time.ticks (s.timePort p).lastSync 8 s.timeCfg.syncLog = true) :
    exec (.syncTimeout p) s = .next (s.loseTimePort p) := (whenRunning_run run).trans (congrArg _ (if_pos due))

theorem exec_announceReceiptTimeout_due {p : Nat} (run : s.running = true) (source : s.sourceOf p ≠ .none)
    (due : passed s.time.ticks (s.timePort p).lastAnnounce 3 s.timeCfg.announceLog = true) :
    exec (.announceReceiptTimeout p) s = .next ((s.portSilent p).loseTimePort p) :=
  (whenRunning_run run).trans (congrArg _ (if_pos (by simp [source, due])))

theorem exec_holdoverBoundReached (alive : s.alive = true) (loop : s.time.loop = .holdover) (alone : s.time.refSource = .none)
    (bound : State.boundLimit ≤ s.boundAt (s.time.ticks + 1)) : exec .holdoverBoundReached s
      = .next { s with time := { s.time with lostAsked := some (s.time.lostAsked.getD s.time.ticks) } } := by
  show execHoldoverBoundReached s = _
  unfold execHoldoverBoundReached
  have due : (s.time.loop == .holdover && s.time.refSource == .none
      && decide (State.boundLimit ≤ s.boundAt (s.time.ticks + 1))) = true := by
    rw [loop, alone, decide_eq_true bound]
    rfl
  rw [whenAlive_run alive, if_pos due]
  unfold State.askLost
  cases s.time.lostAsked <;> rfl

theorem exec_holdoverBoundReached_early (bound : s.boundAt (s.time.ticks + 1) < State.boundLimit) :
    exec .holdoverBoundReached s = .next s := by
  show execHoldoverBoundReached s = _
  unfold execHoldoverBoundReached whenAlive
  simp [Nat.not_le.mpr bound]

end

/-- Settles O7: both timeouts lose the port's reference by the same rule; the bound and TIME_LOST follow their own. -/
theorem referenceLossLeadsToHoldoverAndTimeLost : Obligations.ReferenceLossLeadsToHoldoverAndTimeLost := by
  unfold Obligations.ReferenceLossLeadsToHoldoverAndTimeLost
  refine ⟨?timeout, ?syncEarly, ?announceEarly, ?reached, ?below, ?lost⟩
  case timeout =>
    rintro p c s (⟨rfl, due⟩ | ⟨rfl, due⟩) run source
    · have step := exec_syncTimeout_due run due
      have lost := State.loseTimePort_loses source
      refine ⟨_, step, ?_, ?_, ?_, lost.others, lost.locked, lost.acquires, execSyncTimeout_only step⟩
      all_goals simp [lost.port]
    · have step := exec_announceReceiptTimeout_due run source due
      have lost := State.portSilent_loses source
      refine ⟨_, step, ?_, ?_, ?_, lost.others, lost.locked, lost.acquires, execAnnounceReceiptTimeout_only step⟩
      all_goals simp [lost.port]
  case syncEarly => exact fun p s run early => (whenRunning_run run).trans (congrArg _ (if_neg (by simp [early])))
  case announceEarly => exact fun p s run early => (whenRunning_run run).trans (congrArg _ (if_neg (by simp [early])))
  case reached => exact fun s alive loop alone bound => exec_holdoverBoundReached alive loop alone bound
  case below => exact fun s bound => exec_holdoverBoundReached_early bound
  case lost =>
    intro n s alive asked past loop
    have step := State.execTimeLost_due alive asked past loop
    obtain ⟨aborts, others⟩ := s.lossEntered_groups
    have time : s.lossEntered.withdraw.time = s.lossEntered.time := State.withdraw_only.time_eq
    have groups : s.lossEntered.withdraw.groups = s.lossEntered.groups := State.withdraw_only.groups_eq
    have power : s.lossEntered.power = s.lossNoted.power :=
      State.enterLoop_only.power_eq.trans (State.abortGroups_only.power_eq.trans State.bump_only.power_eq)
    have link (p : Nat) : (s.lossEntered.withdraw.port p).link
        = if p < 24 ∧ ((s.port p).link = .service ∨ (s.port p).link = .align) then .discover else (s.port p).link := by
      rw [State.withdraw_port]
      split
      · rename_i hp
        simp only [State.withdrawn_link, State.lossEntered_link, hp, true_and]
      · rename_i hp
        simp only [State.lossEntered_link, hp, false_and, if_false]
    refine ⟨_, step, ?_, ?_, ?_, ?_, ?_, fun p hp served => ?_, fun p away off => ?_, ?_, fun g hg => ?_, execTimeLost_only step⟩
    · rw [time]; exact State.lossEntered_view TimeState.loop s
    · rw [time]; exact State.enterTimeLost_frame _
    · rw [State.withdraw_only.power_eq, power]; rfl
    · rw [time]; exact State.lossEntered_view TimeState.lostAsked s
    · rw [time]; exact State.lossEntered_view TimeState.refSource s
    · rw [link, if_pos ⟨hp, served⟩]
    · rw [link, if_neg (by simp [away, off])]
    · exact State.groupsAbort_congr (s' := s) aborts rfl rfl groups
    · exact (State.withdraw_only.group_eq g).trans (others g hg)

end Sys2Proof.Machine

end

/-! ## PTP messages (R30, R31, R32, R255) -/

section

namespace Sys2Proof.Machine

set_option Elab.async false

open Sys2Proof

namespace State

/-! ### Messages that arrive -/

theorem ptpOk_heard (s : State) (p q : Nat) (cell : Bytes) (h : PtpHeader) : (s.heard p cell).ptpOk q h = s.ptpOk q h := by
  have link : ((s.heard p cell).port q).link = (s.port q).link := heard_view PortState.link s p cell q
  have nb : ((s.heard p cell).port q).nb = (s.port q).nb := heard_view PortState.nb s p cell q
  obtain ⟨_, _, _, heard⟩ := s.heard_eq p cell
  unfold ptpOk
  rw [link, nb, heard]
  rfl

/-- A message that is processed is given to the operation of its type, once the cell is heard. -/
theorem whenRunning_withPtp {s : State} {p type : Nat} {cell m : Bytes} (run : s.running = true)
    (h : s.ptpArrives p type cell m) (taken : ptpTaken type = true) (f : State → PtpHeader → Bytes → State) :
    whenRunning s (fun s => s.withPtp p type cell f) = .next (f (s.heard p cell) (readPtp m) m) := by
  obtain ⟨c, arrives, message, ok, rfl⟩ := h
  have ok' : (s.heard p cell).ptpOk p (readPtp m) = true := (ptpOk_heard ..).trans ok
  refine (whenRunning_withCell run arrives _).trans (congrArg _ ?_)
  simp [message, ok', taken]

/-- A message that is not processed is counted and has no other effect. -/
theorem whenRunning_withPtp_discards {s : State} {p : Nat} {cell m : Bytes} {c : CellFields} (run : s.running = true)
    (arrives : s.arrives p tTime cell c) (message : ptpMessage c.payload = some m)
    (bad : s.ptpOk p (readPtp m) = false ∨ ptpTaken (ptpType m) = false) (type : Nat)
    (f : State → PtpHeader → Bytes → State) :
    whenRunning s (fun s => s.withPtp p type cell f) = .next ((s.heard p cell).bumpPort p .ptpDiscard 1) := by
  have refused : (!(s.heard p cell).ptpOk p (readPtp m) || !ptpTaken (ptpType m)) = true := by
    rw [ptpOk_heard]
    simpa using bad
  refine (whenRunning_withCell run arrives _).trans (congrArg _ ?_)
  simp only [message, refused, if_true]

/-- What is known of the time ports, a cell that arrives leaves. -/
theorem heard_timePort (s : State) (p : Nat) (cell : Bytes) (q : Nat) : (s.heard p cell).timePort q = s.timePort q := by
  obtain ⟨_, _, _, heard⟩ := s.heard_eq p cell
  rw [heard]
  rfl

/-! ### What the loop leaves -/

theorem countLock_beside (s : State) (m : LoopMeas) : besideLoop (s.countLock m).time = besideLoop s.time := by
  unfold countLock
  extract_lets n u
  split
  · exact enterLoop_beside _ _
  · rfl

theorem judgeFreq_beside (s : State) (m : LoopMeas) : besideLoop (s.judgeFreq m).time = besideLoop s.time := by
  unfold judgeFreq
  dsimp only
  split
  · rfl
  · split
    · exact enterLoop_beside _ _
    · rfl

theorem holdoverRef_beside (s : State) (off : Units) (m : LoopMeas) : besideLoop (s.holdoverRef off m).time = besideLoop s.time := by
  unfold holdoverRef
  split
  · extract_lets b n t u
    split
    · exact (enterLoop_beside _ _).trans (show _ = besideLoop u.time from congrArg besideLoop (bump_time u _))
    · rfl
  · rfl

theorem switchTo_beside (s : State) (r : RefSource) (p : Nat) : besideLoop (s.switchTo r p).time = besideLoop s.time := by
  unfold switchTo
  extract_lets t u
  have bumped : besideLoop (u.bump .timePortSwitch).time = besideLoop u.time := congrArg besideLoop (bump_time u _)
  exact (congrArg besideLoop (timeEvent_time ..)).trans bumped

/-- A reference drives the loop and changes nothing of what stands beside it. -/
theorem reference_beside (s : State) (r : RefSource) (p : Nat) (off : Option Units) (m : LoopMeas) :
    besideLoop (s.reference r p off m).time = besideLoop s.time := by
  unfold reference
  dsimp only
  cases s.time.loop
  case freerun => exact enterLoop_beside _ _
  case timeLost =>
    dsimp only
    split
    · rfl
    · exact enterLoop_beside _ _
  case freqAcquire =>
    dsimp only
    split_ifs
    · exact judgeFreq_beside _ _
    · exact judgeFreq_beside _ _
    · rfl
  case phaseAcquire =>
    dsimp only
    split_ifs
    · rfl
    · cases off with
      | none => exact countLock_beside _ _
      | some o =>
        dsimp only
        split
        · rfl
        · exact countLock_beside _ _
    · rfl
  case locked =>
    dsimp only
    split_ifs
    · rfl
    · rfl
    · exact switchTo_beside _ _ _
    · exact enterLoop_beside _ _
    · exact switchTo_beside _ _ _
    · rfl
  case holdover =>
    cases off with
    | none => rfl
    | some o =>
      dsimp only
      split
      · exact holdoverRef_beside _ _ _
      · rfl

theorem timePort_of_ports {s t : State} (h : t.time.ports = s.time.ports) (q : Nat) : t.timePort q = s.timePort q := by
  unfold timePort
  rw [h]

theorem enterFreqAcquire_view {β : Type} (view : TimeState → β) (s : State)
    (hv : ∀ x frame until_, view { x with frame := frame, ppsUntil := until_ } = view x := by intros; rfl) :
    view (s.enterLoop .freqAcquire).time
      = view { s.time with loop := .freqAcquire, bound := 0, lockCount := 0, freqSince := none } :=
  setFrame_view view _ hv

/-- In FREERUN a reference starts acquisition (R36). -/
theorem reference_acquires {s : State} (loop : s.time.loop = .freerun) (r : RefSource) (p : Nat) (off : Option Units)
    (m : LoopMeas) : (s.reference r p off m).time.loop = .freqAcquire ∧ (s.reference r p off m).time.refSource = r
      ∧ (s.reference r p off m).time.refPort = p := by
  unfold reference
  dsimp only
  rw [loop]
  exact ⟨enterFreqAcquire_view TimeState.loop _, enterFreqAcquire_view TimeState.refSource _,
    enterFreqAcquire_view TimeState.refPort _⟩

/-! ### Sync and Follow_Up -/

/-- What is known of a port once its Sync is counted. -/
def syncNoted (s : State) (p : Nat) : TimePort :=
  { s.timePort p with
    syncs := (s.timePort p).syncs + 1, lastSync := s.time.ticks
    lost := (s.timePort p).silent || decide (s.timeCfg.classMax < (s.timePort p).clockClass) }

/-- The state in which a Sync is taken, before it drives the loop. -/
def syncTaken (s : State) (p : Nat) (rx : Units) (h : PtpHeader) (msg : Bytes) : State :=
  let s := s.setTimePort p (s.syncNoted p)
  if ptpTwoStep msg then
    s.setTimePort p { s.timePort p with twoStepSeq := some h.seq, rxNext := rx, corrNext := h.correction }
  else s.setOffset p rx (ptpStamp msg 34) h.correction

theorem takeSync_eq (s : State) (p : Nat) (rx : Units) (h : PtpHeader) (msg : Bytes) (m : LoopMeas) :
    s.takeSync p rx h msg m = if (s.syncNoted p).lost then s.syncTaken p rx h msg
      else (s.syncTaken p rx h msg).reference ((s.syncTaken p rx h msg).sourceOf p) p
        ((s.syncTaken p rx h msg).measuredAt p) m := by
  have same : (if ptpTwoStep msg then (s.setTimePort p (s.syncNoted p)).setTimePort p
        { s.syncNoted p with twoStepSeq := some h.seq, rxNext := rx, corrNext := h.correction }
      else (s.setTimePort p (s.syncNoted p)).setOffset p rx (ptpStamp msg 34) h.correction) = s.syncTaken p rx h msg := by
    unfold syncTaken
    dsimp only
    rw [setTimePort_timePort]
  unfold takeSync
  extract_lets t u
  rw [← same]
  rfl

theorem setOffset_timePort (s : State) (p : Nat) (rx origin corr : Units) : (s.setOffset p rx origin corr).timePort p
    = { s.timePort p with
        rx := rx, origin := origin, corr := corr, paired := true, twoStepSeq := none
        offset := rx - origin - corr - ((s.timePort p).pathDelay + s.asymOf p) } := setTimePort_timePort _ _ _

theorem setOffset_timePort_other (s : State) {p q : Nat} (rx origin corr : Units) (h : q ≠ p) :
    (s.setOffset p rx origin corr).timePort q = s.timePort q := setTimePort_timePort_other _ _ h

theorem syncTaken_one (s : State) (p : Nat) (rx : Units) (h : PtpHeader) {msg : Bytes} (one : ptpTwoStep msg = false) :
    (s.syncTaken p rx h msg).timePort p = { s.syncNoted p with
        rx := rx, origin := ptpStamp msg 34, corr := h.correction, paired := true, twoStepSeq := none
        offset := rx - ptpStamp msg 34 - h.correction - ((s.timePort p).pathDelay + s.asymOf p) } := by
  unfold syncTaken
  dsimp only
  rw [one, if_neg Bool.false_ne_true, setOffset_timePort, setTimePort_timePort]
  rfl

theorem syncTaken_two (s : State) (p : Nat) (rx : Units) (h : PtpHeader) {msg : Bytes} (two : ptpTwoStep msg = true) :
    (s.syncTaken p rx h msg).timePort p
      = { s.syncNoted p with twoStepSeq := some h.seq, rxNext := rx, corrNext := h.correction } := by
  unfold syncTaken
  dsimp only
  rw [two, if_pos rfl, setTimePort_timePort, setTimePort_timePort]

theorem syncTaken_noted {β : Type} (view : TimePort → β) (s : State) (p : Nat) (rx : Units) (h : PtpHeader) (msg : Bytes)
    (one : ∀ x a b c d e f, view { x with rx := a, origin := b, corr := c, paired := d, twoStepSeq := e, offset := f } = view x
      := by intros; rfl)
    (two : ∀ x a b c, view { x with twoStepSeq := a, rxNext := b, corrNext := c } = view x := by intros; rfl) :
    view ((s.syncTaken p rx h msg).timePort p) = view (s.syncNoted p) := by
  cases hm : ptpTwoStep msg with
  | false => rw [syncTaken_one s p rx h hm, one]
  | true => rw [syncTaken_two s p rx h hm, two]

theorem syncTaken_other (s : State) {p q : Nat} (rx : Units) (h : PtpHeader) (msg : Bytes) (hq : q ≠ p) :
    (s.syncTaken p rx h msg).timePort q = s.timePort q := by
  unfold syncTaken
  dsimp only
  split
  · rw [setTimePort_timePort_other _ _ hq, setTimePort_timePort_other _ _ hq]
  · rw [setOffset_timePort_other _ _ _ _ hq, setTimePort_timePort_other _ _ hq]

theorem takeSync_timePort (s : State) (p q : Nat) (rx : Units) (h : PtpHeader) (msg : Bytes) (m : LoopMeas) :
    (s.takeSync p rx h msg m).timePort q = (s.syncTaken p rx h msg).timePort q := by
  rw [takeSync_eq]
  split
  · rfl
  · exact timePort_of_ports (ports_of_beside (reference_beside ..)) q

theorem syncTaken_loop (s : State) (p : Nat) (rx : Units) (h : PtpHeader) (msg : Bytes) :
    (s.syncTaken p rx h msg).time.loop = s.time.loop := by
  unfold syncTaken
  dsimp only
  split <;> rfl

theorem syncTaken_sourceOf (s : State) (p : Nat) (rx : Units) (h : PtpHeader) (msg : Bytes) (q : Nat) :
    (s.syncTaken p rx h msg).sourceOf q = s.sourceOf q := by
  unfold syncTaken
  dsimp only
  split <;> rfl

theorem takeSync_acquires {s : State} {p : Nat} (loop : s.time.loop = .freerun) (good : (s.syncNoted p).lost = false)
    (rx : Units) (h : PtpHeader) (msg : Bytes) (m : LoopMeas) :
    (s.takeSync p rx h msg m).time.loop = .freqAcquire ∧ (s.takeSync p rx h msg m).time.refSource = s.sourceOf p
      ∧ (s.takeSync p rx h msg m).time.refPort = p := by
  rw [takeSync_eq, if_neg (by simp [good]), syncTaken_sourceOf]
  exact reference_acquires ((syncTaken_loop ..).trans loop) _ _ _ _

/-! ### A new measured delay, as the time ports see it (R60) -/

/-- From `s` to `t` what is known of port `p` changes in its losses alone, and nothing of the others. -/
def LossOnly (p : Nat) (s t : State) : Prop :=
  (∃ lost syncs paired drift, t.timePort p
      = { s.timePort p with lost := lost, syncs := syncs, paired := paired, driftLost := drift })
    ∧ ∀ q, q ≠ p → t.timePort q = s.timePort q

namespace LossOnly

variable {p : Nat} {s t u : State}

theorem of_time (h : t.time.ports = s.time.ports) : LossOnly p s t :=
  ⟨⟨_, _, _, _, timePort_of_ports h p⟩, fun q _ => timePort_of_ports h q⟩

theorem trans (h : LossOnly p s t) (k : LossOnly p t u) : LossOnly p s u := by
  obtain ⟨⟨_, _, _, _, ht⟩, ho⟩ := h
  obtain ⟨⟨_, _, _, _, hu⟩, ko⟩ := k
  exact ⟨⟨_, _, _, _, by rw [hu, ht]⟩, fun q hq => (ko q hq).trans (ho q hq)⟩

end LossOnly

theorem loseTimePort_lossOnly (s : State) (p : Nat) : LossOnly p s (s.loseTimePort p) := by
  by_cases h : s.sourceOf p = .none
  · unfold loseTimePort
    dsimp only
    rw [if_pos h]
    exact .of_time rfl
  · exact ⟨⟨_, _, _, _, (loseTimePort_loses h).port⟩, (loseTimePort_loses h).others⟩

/-- A quarantine loses no time port, but for a changed identity (R263). -/
theorem enterQuarantine_time {s : State} {p r : Nat} (h : r ≠ 11) : (s.enterQuarantine p r).time = s.time := by
  have raised : ((s.bumpPort p .quarantine 1).raise { type := 0x0052, severity := 2
                                                      subject := p + (s.port p).nb.chip % 2 ^ 20 * 2 ^ 32, arg := r
                                                      rings := s.ringsE }).time = s.time :=
    raise_only.time_eq.trans bumpPort_only.time_eq
  unfold enterQuarantine
  dsimp only
  rw [if_neg h]
  split
  · rfl
  · split <;> exact raised

theorem quarantine_time {s : State} {p r : Nat} (h : r ≠ 11) : (s.quarantine p r).time = s.time := by
  unfold quarantine
  split
  · rfl
  · exact enterQuarantine_time h

theorem driftEnd_lossOnly (s : State) (p : Nat) (rho : Int) : LossOnly p s (s.driftEnd p rho) := by
  unfold driftEnd
  extract_lets t u v w x
  have before : LossOnly p s x := .of_time <| by
    have hx : x.time = w.time := (quarantine_time (by decide)).trans abortGroups_only.time_eq
    have hw : w.time = v.time := driftEvent_only.time_eq.trans bumpPort_only.time_eq
    rw [hx, hw]
    rfl
  clear_value x
  split
  · exact before
  · refine (before.trans ?_).trans (loseTimePort_lossOnly _ _)
    exact ⟨⟨_, _, _, _, setTimePort_timePort _ _ _⟩, fun q hq => setTimePort_timePort_other _ _ hq⟩

theorem measured_lossOnly (s : State) (p : Nat) (d : Units) : LossOnly p s (s.measured p d) := by
  unfold measured
  split
  · exact .of_time rfl
  · extract_lets l k n sum rho was warn t u v w
    have warned : LossOnly p s w := .of_time <| by
      unfold w
      split
      · have hv : (v.bumpPort p .calDrift 1 |>.driftEvent p rho false).time = v.time :=
          driftEvent_only.time_eq.trans bumpPort_only.time_eq
        rw [hv]
        rfl
      · rfl
    clear_value w
    split
    · exact warned.trans (driftEnd_lossOnly _ _ _)
    · exact warned

/-! ### Announce and Delay_Req -/

theorem sourceOf_of_ptpArrives {s : State} {p type : Nat} {cell m : Bytes} (h : s.ptpArrives p type cell m) :
    (s.heard p cell).sourceOf p ≠ .none := by
  obtain ⟨c, -, -, ok, -⟩ := h
  obtain ⟨_, _, _, heard⟩ := s.heard_eq p cell
  have source : (s.heard p cell).sourceOf p = s.sourceOf p := by rw [heard]; rfl
  rw [source]
  intro none
  simp [ptpOk, none] at ok

/-- The state in which the class of an Announce is known. -/
def announced (s : State) (p : Nat) (m : Bytes) : State :=
  s.setTimePort p { s.timePort p with clockClass := ptpClass m, silent := false, lastAnnounce := s.time.ticks }

theorem announced_timePort (s : State) (p : Nat) (m : Bytes) : (s.announced p m).timePort p
    = { s.timePort p with clockClass := ptpClass m, silent := false, lastAnnounce := s.time.ticks } :=
  setTimePort_timePort _ _ _

theorem announced_timePort_other (s : State) {p q : Nat} (m : Bytes) (h : q ≠ p) :
    (s.announced p m).timePort q = s.timePort q := setTimePort_timePort_other _ _ h

/-- The state in which a Delay_Req is queued. -/
def delayAsked (s : State) (p : Nat) (x : Stamp) : State :=
  (s.setTimePort p
    { s.timePort p with reqTx := some (s.txPlane p x), reqSeq := ((s.timePort p).reqSeq + 1) % 2 ^ 16
                        lastReq := some s.time.ticks }).sendVc3
    p rankTime tTime 0
    (timePayload (delayReqMessage s.timeCfg.sdo s.timeCfg.domain (s.timePort p).reqSeq (s.ptpIdentity p) 0x7F))

end State

/-- Settles O6: each message is the operation of its type on the state in which its cell is heard. -/
theorem ptpMessagesSetOffsetAndDelay : Obligations.PtpMessagesSetOffsetAndDelay := by
  unfold Obligations.PtpMessagesSetOffsetAndDelay
  refine ⟨?sync, ?followUp, ?delayResp, ?announce, ?delayReq, ?discarded⟩
  case sync =>
    intro p x cell m l s run h
    have step : exec (.sync p x cell l) s
        = .next ((s.heard p cell).takeSync p ((s.heard p cell).rxPlane p x) (readPtp m) m l) :=
      State.whenRunning_withPtp run h (by rfl) _
    obtain ⟨_, _, _, heard⟩ := s.heard_eq p cell
    have noted : (s.heard p cell).syncNoted p = s.syncNoted p := by rw [heard]; rfl
    have plane : (s.heard p cell).rxPlane p x = s.rxPlane p x := by rw [heard]; rfl
    have asym : (s.heard p cell).asymOf p = s.asymOf p := by rw [heard]; rfl
    rw [plane] at step
    refine ⟨_, step, ?_, ?_, ?_, fun one => ?_, fun two => ?_, fun loop good => ?_, fun q hq => ?_,
      State.takeSync_only.ports_eq, execSync_only step⟩
    · rw [State.takeSync_timePort, State.syncTaken_noted TimePort.syncs, noted]
      rfl
    · rw [State.takeSync_timePort, State.syncTaken_noted TimePort.lastSync, noted]
      rfl
    · rw [State.takeSync_timePort, State.syncTaken_noted TimePort.lost, noted]
      rfl
    · rw [State.takeSync_timePort, State.syncTaken_one _ _ _ _ one, asym, s.heard_timePort]
      exact ⟨rfl, rfl, rfl, rfl, rfl⟩
    · rw [State.takeSync_timePort, State.syncTaken_two _ _ _ _ two, noted]
      exact ⟨rfl, rfl, rfl, rfl, rfl, rfl, rfl⟩
    · have good' : ((s.heard p cell).syncNoted p).lost = false := by
        rw [State.takeSync_timePort, State.syncTaken_noted TimePort.lost] at good
        exact good
      have loop' : (s.heard p cell).time.loop = .freerun := by rw [heard]; exact loop
      have source : (s.heard p cell).sourceOf p = s.sourceOf p := by rw [heard]; rfl
      rw [← source]
      exact State.takeSync_acquires loop' good' _ _ _ _
    · rw [State.takeSync_timePort, State.syncTaken_other _ _ _ _ hq, s.heard_timePort]
  case followUp =>
    intro p cell m s run h seq
    obtain ⟨_, _, _, heard⟩ := s.heard_eq p cell
    have asym : (s.heard p cell).asymOf p = s.asymOf p := by rw [heard]; rfl
    have step : exec (.followUp p cell) s = .next ((s.heard p cell).setOffset p (s.timePort p).rxNext (ptpStamp m 34)
        ((s.timePort p).corrNext + (readPtp m).correction)) := by
      refine (State.whenRunning_withPtp run h (by rfl) _).trans (congrArg _ ?_)
      simp only [s.heard_timePort, seq, beq_self_eq_true, if_true]
    refine ⟨_, step, ?_, ?_, ?_, ?_, ?_, ?_, fun q hq => ?_, ?_, rfl, execFollowUp_only step⟩
    case refine_7 => rw [State.setOffset_timePort_other _ _ _ _ hq, s.heard_timePort]
    case refine_8 => rw [heard]; rfl
    all_goals rw [State.setOffset_timePort, s.heard_timePort]
    rw [asym]
  case delayResp =>
    intro p cell m tx s run h sent seq requester paired
    obtain ⟨_, _, _, heard⟩ := s.heard_eq p cell
    have identity : (s.heard p cell).ptpIdentity p = s.ptpIdentity p := by rw [heard]; rfl
    set d := roundAwayDiv
      (((s.timePort p).rx - (s.timePort p).origin - (s.timePort p).corr) + (ptpStamp m 34 - tx - (readPtp m).correction)) 2
    have step : exec (.delayResp p cell) s = .next (((s.heard p cell).setTimePort p
        { s.timePort p with pathDelay := d, reqTx := none }).measured p d) := by
      refine (State.whenRunning_withPtp run h (by rfl) _).trans (congrArg _ ?_)
      simp only [s.heard_timePort, sent, identity]
      exact if_pos ⟨seq, requester, paired⟩
    obtain ⟨⟨_, _, _, _, port⟩, others⟩ := State.measured_lossOnly ((s.heard p cell).setTimePort p
      { s.timePort p with pathDelay := d, reqTx := none }) p d
    refine ⟨_, step, ?_, ?_, fun q hq => ?_, execDelayResp_only step⟩
    · rw [port, State.setTimePort_timePort]
    · rw [port, State.setTimePort_timePort]
    · rw [others q hq, State.setTimePort_timePort_other _ _ hq, s.heard_timePort]
  case announce =>
    intro p cell m s run h
    have source : (s.heard p cell).sourceOf p ≠ .none := State.sourceOf_of_ptpArrives h
    obtain ⟨_, _, _, heard⟩ := s.heard_eq p cell
    have classes : (s.heard p cell).timeCfg.classMax = s.timeCfg.classMax := by rw [heard]; rfl
    have ticks : (s.heard p cell).time.ticks = s.time.ticks := by rw [heard]
    have time : (s.heard p cell).time = s.time := by rw [heard]
    have step : exec (.announce p cell) s = .next (if s.timeCfg.classMax < ptpClass m
        then ((s.heard p cell).announced p m).loseTimePort p else (s.heard p cell).announced p m) := by
      refine (State.whenRunning_withPtp run h (by rfl) _).trans (congrArg _ ?_)
      rw [← classes]
      rfl
    refine ⟨_, step, ?_⟩
    have only := execAnnounce_only step
    by_cases beyond : s.timeCfg.classMax < ptpClass m
    · rw [if_pos beyond] at only ⊢
      have lost : State.ReferenceLost _ (((s.heard p cell).announced p m).loseTimePort p) p _ :=
        State.loseTimePort_loses (s := (s.heard p cell).announced p m) source
      rw [lost.port, State.announced_timePort]
      refine ⟨rfl, rfl, ticks, fun good => absurd beyond (Nat.not_lt.mpr good), fun _ => rfl, fun q hq => ?_, only⟩
      rw [lost.others q hq, State.announced_timePort_other _ _ hq, s.heard_timePort]
    · rw [if_neg beyond] at only ⊢
      rw [State.announced_timePort]
      refine ⟨rfl, rfl, ticks, fun _ => ⟨?_, ?_⟩, fun bad => absurd bad beyond, fun q hq => ?_, only⟩
      · unfold State.announced State.setTimePort
        rw [time]
      · rw [s.heard_timePort]
      · rw [State.announced_timePort_other _ _ hq, s.heard_timePort]
  case delayReq =>
    intro p x s run source accepted link due
    have step : exec (.delayReqSend p x) s = .next (s.delayAsked p x) := by
      refine (whenRunning_run run).trans (congrArg _ (if_pos ?_))
      have trained_ : trained (s.port p).link = true := by
        obtain h | h | h := link <;> rw [h] <;> rfl
      have away : (s.port p).link ≠ .quarantine := by
        obtain h | h | h := link <;> rw [h] <;> exact Link.noConfusion
      obtain never | ⟨k, last, past⟩ := due
      · simp [source, accepted, trained_, away, never]
      · simp [source, accepted, trained_, away, last, past]
    refine ⟨_, step, State.setTimePort_timePort _ _ _, State.modPort_port _ _ _, State.modPort_others _ _ _,
      fun q hq => State.setTimePort_timePort_other _ _ hq, rfl, execDelayReqSend_only step⟩
  case discarded =>
    intro p cell m c l x i s hi run arrives message bad
    obtain rfl | rfl | rfl | rfl := hi
    all_goals exact State.whenRunning_withPtp_discards run arrives message bad _ _

end Sys2Proof.Machine

end

/-! ## Tide marks and PPS (R34, R35, R51, R251, R254, R262) -/

section

namespace Sys2Proof.Machine

set_option Elab.async false

open Sys2Proof

namespace State

/-! ### Tide marks -/

/-- A mark arrives more than 10 ns off. -/
def markLate (s : State) (p : Nat) (a : Stamp) : Bool := decide (655360 < (s.markAlign p a).natAbs)

/-- A mark carries the engine's own tide. -/
def ownMark (s : State) (mark : Bytes) : Bool := bitAt (rd mark 4 1) 0 && rd mark 0 4 == s.time.tide % 2 ^ 32

/-- The state in which the frame that the partner sends is known. -/
def markRead (s : State) (p : Nat) (mark : Bytes) : State := s.modPort p (fun x => { x with rxTide := bitAt (rd mark 4 1) 0 })

/-- The state in which a mark is measured, before it is judged. -/
def markTaken (s : State) (p : Nat) (a : Stamp) (mark : Bytes) : State :=
  (s.markRead p mark).modPort p (fun x => { x with align := s.markAlign p a })

theorem markTaken_port (s : State) (p : Nat) (a : Stamp) (mark : Bytes) : (s.markTaken p a mark).port p
    = { s.port p with rxTide := bitAt (rd mark 4 1) 0, align := s.markAlign p a } := by
  unfold markTaken markRead
  rw [modPort_port, modPort_port]

theorem markTaken_others (s : State) (p : Nat) (a : Stamp) (mark : Bytes) : OtherPorts p s (s.markTaken p a mark) :=
  otherPorts_trans (modPort_others _ _ _) (modPort_others _ _ _)

theorem markTaken_only {s : State} {p : Nat} {a : Stamp} {mark : Bytes} : OnlyChanges [.ports] s (s.markTaken p a mark) :=
  modPort_only.trans' modPort_only

theorem takeMark_unframed {s : State} (frame : s.time.frame = false) (p : Nat) (a : Stamp) (mark : Bytes) :
    s.takeMark p a mark = s.markRead p mark := by
  unfold takeMark
  exact if_pos (by rw [show (s.modPort p _).time.frame = false from frame]; rfl)

/-- While the tide frame is valid a mark is measured, and judged by the state of its port. -/
theorem takeMark_framed {s : State} (frame : s.time.frame = true) (p : Nat) (a : Stamp) (mark : Bytes) :
    s.takeMark p a mark =
      if (s.port p).link == .align then (s.markTaken p a mark).modPort p (fun x =>
        { x with marks := if !s.markLate p a && s.ownMark mark then x.marks + 1 else 0 })
      else if (s.port p).link != .service then s.markTaken p a mark
      else if s.markLate p a then (s.markTaken p a mark).alignFault p
      else if !s.ownMark mark then (s.markTaken p a mark).quarantine p 8
      else s.markTaken p a mark := by
  have framed : ¬(!(s.markRead p mark).time.frame) = true := by rw [show (s.markRead p mark).time.frame = true from frame]; decide
  have link : ((s.markTaken p a mark).port p).link = (s.port p).link := by rw [markTaken_port]
  rw [← link]
  unfold takeMark
  exact if_neg framed

/-- The reason of a quarantine that waits once another arises: the lowest (R263). -/
def joinWaiting (waits : Option Nat) (r : Nat) : Nat :=
  match waits with
  | some q => min q r
  | none => r

theorem quarantine_of_service {s : State} {p : Nat} (link : (s.port p).link = .service) (r : Nat) : s.quarantine p r
    = s.modPort p (fun x => { x with
        qPending := some (joinWaiting x.qPending r)
        qAt := if x.qPending.isSome then x.qAt else s.time.ticks }) := by
  unfold quarantine
  exact if_pos (by simp [link])

/-- The state in which a mark that is too far off has left its flag and its count. -/
def faultNoted (s : State) (p : Nat) : State :=
  ({ s with time := { s.time with alignFault := true } } : State).bumpPort p .tideAlignFault 1

theorem faultNoted_eq (s : State) (p : Nat) : ∃ events stats, s.faultNoted p
    = { s with time := { s.time with alignFault := true }, events := events, stats := stats } := by
  have only : OnlyChanges [.ports, .events, .stats] { s with time := { s.time with alignFault := true } } (s.faultNoted p) :=
    bumpPort_only.mono (by decide)
  have ports : (s.faultNoted p).ports = s.ports := bumpPort_only.ports_eq
  exact ⟨_, _, only.eq_ports.trans (by rw [ports])⟩

/-- The state in which the groups on the port have ended their steps. -/
def faultAborted (s : State) (p : Nat) : State := (s.faultNoted p).abortGroups (s.groupsOnPort p) 0x0D

theorem alignFault_eq (s : State) (p : Nat) : s.alignFault p = (s.faultAborted p).quarantine p 8
    ∨ s.alignFault p = ((s.faultAborted p).quarantine p 8).loseTimePort p := by
  have groups : (s.faultNoted p).groupsOnPort p = s.groupsOnPort p := by
    obtain ⟨_, _, h⟩ := s.faultNoted_eq p
    rw [h]
    rfl
  unfold faultAborted
  rw [← groups]
  unfold alignFault
  dsimp only
  split
  · exact .inr rfl
  · exact .inl rfl

theorem loseTimePort_alignFault (s : State) (p : Nat) : (s.loseTimePort p).time.alignFault = s.time.alignFault := by
  have flag {t u : State} (h : besideLoop t.time = besideLoop u.time) : t.time.alignFault = u.time.alignFault :=
    congrArg (fun x => x.2.2.2) h
  by_cases h : s.sourceOf p = .none
  · unfold loseTimePort
    dsimp only
    rw [if_pos h]
  · rw [loseTimePort_eq h]
    split_ifs
    · exact (flag (loseReference_beside (s.portLost p))).trans rfl
    · exact (flag (enterLoop_beside (s.portLost p) _)).trans rfl
    · rfl

theorem alignFault_flag (s : State) (p : Nat) : (s.alignFault p).time.alignFault = true := by
  have before : ((s.faultAborted p).quarantine p 8).time.alignFault = true := by
    have aborted : (s.faultAborted p).time = (s.faultNoted p).time := abortGroups_only.time_eq
    obtain ⟨_, _, h⟩ := s.faultNoted_eq p
    rw [quarantine_time (by decide), aborted, h]
  obtain h | h := s.alignFault_eq p
  · rw [h, before]
  · rw [h, loseTimePort_alignFault, before]

theorem alignFault_aborts (s : State) (p : Nat) : s.groupsAbort (s.alignFault p) (s.groupsOnPort p) 0x0D := by
  have after : (s.alignFault p).groups = (s.faultAborted p).groups := by
    obtain h | h := s.alignFault_eq p
    · rw [h, quarantine_only.groups_eq]
    · rw [h, loseTimePort_only.groups_eq, quarantine_only.groups_eq]
  obtain ⟨_, _, h⟩ := s.faultNoted_eq p
  exact groupsAbort_congr (abortGroups_aborts (s.faultNoted p) _ _) (by rw [h]) (by rw [h]; rfl) after

/-- What a port in SERVICE holds beside its express queue, the fault leaves, but for the quarantine that waits. -/
theorem alignFault_port {β : Type} (view : PortState → β) {s : State} {p : Nat} (link : (s.port p).link = .service)
    (hv : ∀ x queue at_, view { x with exprQueue := queue, qAt := at_ } = view x := by intros; rfl) :
    view ((s.alignFault p).port p) = view { s.port p with qPending := some (joinWaiting (s.port p).qPending 8) } := by
  have ports : (s.alignFault p).ports = ((s.faultAborted p).quarantine p 8).ports := by
    obtain h | h := s.alignFault_eq p
    · rw [h]
    · rw [h, loseTimePort_only.ports_eq]
  have noted : (s.faultNoted p).port p = s.port p := port_of_ports bumpPort_only.ports_eq p
  obtain ⟨queue, port⟩ := (s.faultNoted p).abortGroups_sendsOnly (s.groupsOnPort p) 0x0D p
  have aborted : (s.faultAborted p).port p = { s.port p with exprQueue := queue } := port.trans (by rw [noted])
  have link' : ((s.faultAborted p).port p).link = .service := by rw [aborted]; exact link
  rw [port_of_ports ports, quarantine_of_service link', modPort_port, aborted]
  exact hv { s.port p with qPending := some (joinWaiting (s.port p).qPending 8) } queue _

/-! ### PPS -/

theorem second_eq : second = 65536000000000 := by norm_num [second, nsUnits]

/-- A whole second that falls into the tide in progress is the next one. -/
theorem nextSecond_of_falls {s : State} {n : Nat} (after : s.time.hall ≤ n * second)
    (before : n * second < s.time.hall + tideUnits) : s.nextSecond = n := by
  have tide : tideUnits = 167772160 := by norm_num [tideUnits, nsUnits]
  unfold nextSecond ceilDiv
  rw [second_eq] at *
  omega

theorem nextSecond_after (s : State) : s.time.hall ≤ s.nextSecond * second := by
  unfold nextSecond ceilDiv
  rw [second_eq]
  omega

theorem cutPps_out (s : State) : s.cutPps.out = s.out ++ s.ppsEnd := by
  unfold cutPps ppsEnd
  cases s.time.ppsUntil with
  | none => simp
  | some u =>
    dsimp only
    split
    · rfl
    · simp

theorem cutPps_until (s : State) : s.cutPps.time.ppsUntil = none := by
  unfold cutPps
  cases h : s.time.ppsUntil with
  | none => exact h
  | some u =>
    dsimp only
    split <;> rfl

theorem setFrame_of_invalid {s : State} (h : s.frameNow = false) :
    s.setFrame = { s.cutPps with time := { s.cutPps.time with frame := false } } := by
  unfold setFrame
  rw [if_neg (by simp [h])]
  dsimp only
  rw [s.cutPps_frameNow, h]

/-- The offset of an edge is measured against the nearest whole second. -/
def edgeOffset (s : State) (e : Stamp) : Units :=
  stampUnits e - s.ppsInLat - (stampUnits e - s.ppsInLat + second / 2) / second * second

theorem edgeOffset_bounds (s : State) (e : Stamp) : -32768000000000 ≤ s.edgeOffset e ∧ s.edgeOffset e < 32768000000000 := by
  have nearest (t : Int) : -32768000000000 ≤ t - (t + 65536000000000 / 2) / 65536000000000 * 65536000000000
      ∧ t - (t + 65536000000000 / 2) / 65536000000000 * 65536000000000 < 32768000000000 := by omega
  unfold edgeOffset
  rw [second_eq]
  exact nearest _

/-- The state in which the edge is measured. -/
def edgeTaken (s : State) (e : Stamp) : State :=
  { s with time := { s.time with ppsInOffset := s.edgeOffset e, ppsInValid := true } }

theorem takeEdge_beside (s : State) (e : Stamp) (m : LoopMeas) :
    besideLoop (s.takeEdge e m).time = besideLoop (s.edgeTaken e).time := by
  unfold takeEdge
  dsimp only
  split_ifs
  · rfl
  · refine (congrArg besideLoop (bump_time _ _)).trans ?_
    rfl
  · rfl
  · refine (reference_beside _ _ _ _ _).trans ?_
    rfl

/-! ### What a heard cell leaves of both -/

theorem heard_markLate (s : State) (p : Nat) (cell : Bytes) (a : Stamp) : (s.heard p cell).markLate p a = s.markLate p a := by
  obtain ⟨_, _, _, h⟩ := s.heard_eq p cell
  rw [h]
  rfl

theorem heard_markAlign (s : State) (p : Nat) (cell : Bytes) (a : Stamp) : (s.heard p cell).markAlign p a = s.markAlign p a := by
  obtain ⟨_, _, _, h⟩ := s.heard_eq p cell
  rw [h]
  rfl

end State

section

variable {s : State} {p : Nat} {a : Stamp} {cell : Bytes} {c : CellFields}

theorem exec_tideMarkReceived (run : s.running = true) (arrives : s.arrives p tMark cell c) :
    exec (.tideMarkReceived p a cell) s = .next ((s.heard p cell).takeMark p a c.payload) :=
  State.whenRunning_withCell run arrives _

variable (run : s.running = true) (arrives : s.arrives p tMark cell c) (frame : s.time.frame = true)

include run arrives frame

/-- A mark on a framed engine is judged by the state of its port, as it stood before its cell. -/
theorem exec_tideMarkReceived_framed : exec (.tideMarkReceived p a cell) s = .next (
      if (s.port p).link == .align then ((s.heard p cell).markTaken p a c.payload).modPort p (fun x =>
        { x with marks := if !s.markLate p a && s.ownMark c.payload then x.marks + 1 else 0 })
      else if (s.port p).link != .service then (s.heard p cell).markTaken p a c.payload
      else if s.markLate p a then ((s.heard p cell).markTaken p a c.payload).alignFault p
      else if !s.ownMark c.payload then ((s.heard p cell).markTaken p a c.payload).quarantine p 8
      else (s.heard p cell).markTaken p a c.payload) := by
  have time : (s.heard p cell).time = s.time := State.heard_only.time_eq
  have own : (s.heard p cell).ownMark c.payload = s.ownMark c.payload := by
    unfold State.ownMark
    rw [time]
  have link : ((s.heard p cell).port p).link = (s.port p).link := State.heard_view PortState.link s p cell p
  rw [exec_tideMarkReceived run arrives, State.takeMark_framed (by rw [time]; exact frame), own, link, s.heard_markLate]

theorem exec_tideMark_aligns (link : (s.port p).link = .align) : ∃ t, exec (.tideMarkReceived p a cell) s = .next t
    ∧ t.port p = { (s.heard p cell).port p with
        rxTide := bitAt (rd c.payload 4 1) 0
        align := s.markAlign p a
        marks := if !s.markLate p a && s.ownMark c.payload then (s.port p).marks + 1 else 0 }
    ∧ OtherPorts p s t ∧ OnlyChanges [.ports, .events, .stats] s t := by
  have marks : ((s.heard p cell).port p).marks = (s.port p).marks := State.heard_view PortState.marks s p cell p
  have step := exec_tideMarkReceived_framed (a := a) run arrives frame
  rw [if_pos (by simp [link])] at step
  refine ⟨_, step, ?_, ?_, ?_⟩
  · rw [State.modPort_port, State.markTaken_port, s.heard_markAlign, ← marks]
  · exact State.otherPorts_trans ((s.heard_requestsOnly p cell).others)
      (State.otherPorts_trans (State.markTaken_others _ _ _ _) (State.modPort_others _ _ _))
  · exact (State.modPort_only.mono (by decide)).trans' ((State.markTaken_only.mono (by decide)).trans' State.heard_only)

theorem exec_tideMark_good (link : (s.port p).link = .service) (near : s.markLate p a = false)
    (own : s.ownMark c.payload = true) : ∃ t, exec (.tideMarkReceived p a cell) s = .next t
    ∧ t.port p = { (s.heard p cell).port p with rxTide := bitAt (rd c.payload 4 1) 0, align := s.markAlign p a }
    ∧ OtherPorts p s t ∧ OnlyChanges [.ports, .events, .stats] s t := by
  have step := exec_tideMarkReceived_framed (a := a) run arrives frame
  rw [if_neg (by simp [link]), if_neg (by simp [link]), if_neg (by simp [near]), if_neg (by simp [own])] at step
  refine ⟨_, step, ?_, ?_, ?_⟩
  · rw [State.markTaken_port, s.heard_markAlign]
  · exact State.otherPorts_trans ((s.heard_requestsOnly p cell).others) (State.markTaken_others _ _ _ _)
  · exact (State.markTaken_only.mono (by decide)).trans' State.heard_only

theorem exec_tideMark_bad (link : (s.port p).link = .service) (bad : s.markLate p a = true ∨ s.ownMark c.payload = false) :
    ∃ t, exec (.tideMarkReceived p a cell) s = .next t
      ∧ t.time.alignFault = (s.time.alignFault || s.markLate p a)
      ∧ (t.port p).align = s.markAlign p a ∧ (t.port p).link = .service
      ∧ (t.port p).qPending = some (State.joinWaiting (s.port p).qPending 8)
      ∧ (s.markLate p a = true → s.groupsAbort t (s.groupsOnPort p) 0x0D)
      ∧ OnlyChanges [.out, .time, .ports, .groups, .events, .stats] s t := by
  have waits : ((s.heard p cell).port p).qPending = (s.port p).qPending := State.heard_view PortState.qPending s p cell p
  have heardLink : ((s.heard p cell).port p).link = (s.port p).link := State.heard_view PortState.link s p cell p
  have time : (s.heard p cell).time = s.time := State.heard_only.time_eq
  have groups : (s.heard p cell).groups = s.groups := State.heard_only.groups_eq
  have onPort : ((s.heard p cell).markTaken p a c.payload).groupsOnPort p = s.groupsOnPort p := by
    obtain ⟨_, _, _, h⟩ := s.heard_eq p cell
    rw [h]
    rfl
  have taken := (s.heard p cell).markTaken_port p a c.payload
  have takenLink : (((s.heard p cell).markTaken p a c.payload).port p).link = .service := by
    rw [taken]
    exact heardLink.trans link
  have step := exec_tideMarkReceived_framed (a := a) run arrives frame
  rw [if_neg (by simp [link]), if_neg (by simp [link])] at step
  cases late : s.markLate p a with
  | true =>
    rw [late, if_pos rfl] at step
    refine ⟨_, step, ?_, ?_, ?_, ?_, fun _ => ?_, execTideMarkReceived_only step⟩
    · rw [State.alignFault_flag, Bool.or_true]
    · rw [State.alignFault_port PortState.align takenLink, taken, s.heard_markAlign]
    · rw [State.alignFault_port PortState.link takenLink, takenLink]
    · rw [State.alignFault_port PortState.qPending takenLink, taken, waits]
    · rw [← onPort]
      exact State.groupsAbort_congr (State.alignFault_aborts ((s.heard p cell).markTaken p a c.payload) p) groups
        (congrArg TimeState.tide time) rfl
  | false =>
    have other : s.ownMark c.payload = false := bad.resolve_left (by simp [late])
    rw [late, if_neg Bool.false_ne_true, if_pos (by simp [other])] at step
    have only := execTideMarkReceived_only step
    rw [State.quarantine_of_service takenLink] at step only
    refine ⟨_, step, ?_, ?_, ?_, ?_, fun h => absurd h Bool.false_ne_true, only⟩
    · rw [Bool.or_false]
      exact congrArg TimeState.alignFault time
    · rw [State.modPort_port, taken, s.heard_markAlign]
    · rw [State.modPort_port, takenLink]
    · rw [State.modPort_port, taken, waits]

end

section

variable {s : State}

theorem exec_ppsOut_drives {n : Nat} (run : s.running = true) (frame : s.time.frame = true)
    (enable : s.time.ppsOutEnable = true) (after : s.time.hall ≤ n * State.second)
    (before : n * State.second < s.time.hall + State.tideUnits) (once : s.time.ppsOutSec ≠ some n) :
    exec .ppsOut s = .next { s with
      out := s.out ++ [.ppsPulse (((n * State.second : Nat) : Int) - s.ppsOutLat) s.time.ppsWidth]
      time := { s.time with
        ppsOutSec := some n, ppsUntil := some (n * State.second + s.time.ppsWidth * 1000 * State.nsUnits) } } := by
  refine (whenRunning_run run).trans (congrArg _ ?_)
  unfold State.drivePps
  rw [State.nextSecond_of_falls after before]
  exact if_pos (by simp [frame, enable, before, once])

theorem exec_ppsOut_rests (run : s.running = true) (h : s.time.frame = false ∨ s.time.ppsOutEnable = false
    ∨ ∀ n, s.time.hall ≤ n * State.second → s.time.hall + State.tideUnits ≤ n * State.second) :
    exec .ppsOut s = .next s := by
  refine (whenRunning_run run).trans (congrArg _ (if_neg ?_))
  obtain h | h | h := h
  · simp [h]
  · simp [h]
  · have none : s.time.hall + State.tideUnits ≤ s.nextSecond * State.second := h _ s.nextSecond_after
    simp [Nat.not_lt.mpr none]

theorem exec_ppsInEdge (run : s.running = true) (enable : s.time.ppsInEnable = true) (e : Stamp) (m : LoopMeas) :
    exec (.ppsInEdge e m) s = .next (s.takeEdge e m) := (whenRunning_run run).trans (congrArg _ (if_pos enable))

end

/-- Settles O8: a mark by the state of its port, PPS by the whole second that falls into the tide. -/
theorem tideMarksAndPpsAreTimed : Obligations.TideMarksAndPpsAreTimed := by
  unfold Obligations.TideMarksAndPpsAreTimed
  rw [← State.second_eq]
  refine ⟨⟨?marks, ?unframed⟩, ?pulse, ?rests, ?edge, ?ends, ?tod⟩
  case marks =>
    intro p a cell c own s run arrives frame hown
    have owned : own = s.ownMark c.payload := hown
    have marks (n : Nat) : (if !s.markLate p a && s.ownMark c.payload then n else 0)
        = if (s.markAlign p a).natAbs ≤ 655360 ∧ own = true then n else 0 :=
      if_congr (by simp [State.markLate, owned]) rfl rfl
    refine ⟨fun link => ?_, fun link near good => ?_, fun link bad => ?_⟩
    · obtain ⟨t, step, port, others, only⟩ := exec_tideMark_aligns (a := a) run arrives frame link
      exact ⟨t, step, by rw [port, marks], others, only⟩
    · exact exec_tideMark_good run arrives frame link (decide_eq_false (Nat.not_lt.mpr near)) (owned.symm.trans good)
    · obtain ⟨t, step, flag, align, service, waits, aborts, only⟩ :=
        exec_tideMark_bad (a := a) run arrives frame link (bad.imp decide_eq_true owned.symm.trans)
      exact ⟨t, step, flag, align, service, waits, fun late => aborts (decide_eq_true late), only⟩
  case unframed =>
    intro p a cell c s run arrives frame
    have time : (s.heard p cell).time = s.time := State.heard_only.time_eq
    rw [exec_tideMarkReceived run arrives, State.takeMark_unframed (by rw [time]; exact frame)]
    rfl
  case pulse => exact fun n s run frame enable after before once => exec_ppsOut_drives run frame enable after before once
  case rests => exact fun s run h => exec_ppsOut_rests run h
  case edge =>
    intro e m s run enable
    have step := exec_ppsInEdge run enable e m
    have beside := s.takeEdge_beside e m
    have valid : (s.takeEdge e m).time.ppsInValid = true := congrArg (fun x => x.2.2.1) beside
    have offset : (s.takeEdge e m).time.ppsInOffset = s.edgeOffset e := congrArg (fun x => x.2.1) beside
    obtain ⟨low, high⟩ := s.edgeOffset_bounds e
    rw [← offset] at low high
    exact ⟨_, step, valid, ⟨_, offset⟩, low, high, execPpsInEdge_only step⟩
  case ends =>
    intro s invalid
    rw [State.setFrame_of_invalid invalid]
    refine ⟨s.cutPps_out, s.cutPps_until, rfl, ?_⟩
    rw [← State.setFrame_of_invalid invalid]
    exact State.setFrame_only
  case tod =>
    intro tag v s run priv
    have time : (s.touch tag).time = s.time := State.touch_only.time_eq
    refine ⟨_, State.whenRunning_asPriv run priv, ?_, ?_⟩
    · unfold State.setPpsTod
      rw [time]
    · exact (State.setPpsTod_only.mono (by decide)).trans' (State.touch_only.mono (by decide))

end Sys2Proof.Machine

end

/-! ## Delay exchanges (R58, R256, R268, R399, R402) -/

section

namespace Sys2Proof.Machine

set_option Elab.async false

open Sys2Proof

theorem OnlyChanges.cal_eq {P : List Part} {s t : State} (h : OnlyChanges P s t) (hp : .cal ∉ P := by decide) :
    t.cal = s.cal := h .cal hp

namespace State

/-! ### Requests and answers -/

theorem endExchange_eq (s : State) (p : Nat) : s.endExchange p = s.modPort p (fun x =>
    { x with delayReq := none, hailHold := if s.hailWaits p then some s.time.ticks else x.hailHold }) := rfl

theorem askDelay_port (s : State) (p : Nat) (t1 : Stamp) : (s.askDelay p t1).port p = { s.port p with
    delayReq := some { id := (s.port p).delayId, t1 := s.txPlane p t1, at_ := s.time.ticks, auto := s.autoGoes p }
    exch := if s.autoGoes p = true then 0 else (s.port p).exch
    delayId := ((s.port p).delayId + 1) % 2 ^ 32, lastReq := some s.time.ticks
    vc3 := (s.port p).vc3 ++ [⟨rankDelay, tDelay, 0, delayPayload false (s.port p).delayId 0 0⟩] } := by
  unfold askDelay sendVc3
  dsimp only
  rw [modPort_port, modPort_port]

theorem askDelay_others (s : State) (p : Nat) (t1 : Stamp) : OtherPorts p s (s.askDelay p t1) :=
  otherPorts_trans (modPort_others _ _ _) (modPort_others _ _ _)

theorem askDelay_ports {s : State} {p : Nat} {t1 : Stamp} : OnlyChanges [.ports] s (s.askDelay p t1) :=
  sendVc3_only.trans' modPort_only

/-! ### What a port measures, and what leaves it -/

/-- The exchange and the remeasurement of a port. -/
def measures (x : PortState) : Option DelayReq × Option Remeasure := (x.delayReq, x.remeasure)

theorem measures_of_ports {s t : State} (h : t.ports = s.ports) (p : Nat) : measures (t.port p) = measures (s.port p) :=
  congrArg measures (port_of_ports h p)

theorem modPort_measures {s : State} {p : Nat} {f : PortState → PortState}
    (h : ∀ x, measures (f x) = measures x := by intros; rfl) : measures ((s.modPort p f).port p) = measures (s.port p) := by
  rw [modPort_port, h]

theorem enterQuarantine_measures (s : State) (p r : Nat) :
    measures ((s.enterQuarantine p r).port p) = measures (s.port p) := by
  unfold enterQuarantine
  extract_lets mark u v
  have entered : measures (v.port p) = measures (s.port p) := by
    unfold v
    split
    · exact modPort_measures
    · have raised : measures (u.port p) = measures (s.port p) :=
        measures_of_ports (raise_only.ports_eq.trans bumpPort_only.ports_eq) p
      split
      · exact (modPort_measures).trans raised
      · exact (modPort_measures).trans raised
  split
  · exact (measures_of_ports loseTimePort_only.ports_eq p).trans entered
  · exact entered

theorem quarantine_measures (s : State) (p r : Nat) : measures ((s.quarantine p r).port p) = measures (s.port p) := by
  unfold quarantine
  split
  · exact modPort_measures
  · exact enterQuarantine_measures s p r

theorem driftEnd_measures (s : State) (p : Nat) (rho : Int) : measures ((s.driftEnd p rho).port p) = measures (s.port p) := by
  unfold driftEnd
  extract_lets t u v w x
  have taken : measures (v.port p) = measures (s.port p) := modPort_measures
  have raised : measures (w.port p) = measures (s.port p) :=
    (measures_of_ports (driftEvent_only.ports_eq.trans bumpPort_only.ports_eq) p).trans taken
  have ended : measures (x.port p) = measures (s.port p) :=
    (quarantine_measures _ _ _).trans (((abortGroups_sendsOnly w _ _).view measures p).trans raised)
  clear_value x
  split
  · exact ended
  · refine (measures_of_ports loseTimePort_only.ports_eq p).trans ?_
    exact ended

theorem measured_measures (s : State) (p : Nat) (d : Units) : measures ((s.measured p d).port p) = measures (s.port p) := by
  unfold measured
  split
  · rfl
  · extract_lets l k n sum rho was warn t u v w
    have taken : measures (t.port p) = measures (s.port p) := modPort_measures
    have warned : measures (w.port p) = measures (s.port p) := by
      unfold w
      split
      · exact (measures_of_ports (driftEvent_only.ports_eq.trans bumpPort_only.ports_eq) p).trans taken
      · exact taken
    split
    · exact (driftEnd_measures _ _ _).trans warned
    · exact warned

theorem tryAlign_measures (s : State) (p : Nat) : measures ((s.tryAlign p).port p) = measures (s.port p) := by
  unfold tryAlign
  split
  · unfold enterAlign
    extract_lets lp u
    have noted : measures (u.port p) = measures (s.port p) := modPort_measures
    split
    · refine (enterQuarantine_measures _ _ _).trans (Eq.trans ?_ noted)
      exact measures_of_ports refuseLatency_only.ports_eq p
    · exact (modPort_measures).trans noted
  · rfl

theorem refreshPhi_measures (s : State) (p : Nat) : measures ((s.refreshPhi p).port p) = measures (s.port p) := by
  unfold refreshPhi
  split
  · exact modPort_measures
  · rfl

theorem recalibrated_measures (s : State) (p : Nat) : measures ((s.recalibrated p).port p) = measures (s.port p) := by
  unfold recalibrated
  extract_lets u
  have freed : measures (u.port p) = measures (s.port p) := modPort_measures
  split
  · exact freed
  · exact freed

/-! ### DELAY is stored (R58) -/

theorem calWr_rd_same {s : State} (valid : s.time.calValid = true) (wf : s.cal.inEffect.wf = true) (off : Nat) (b : Bytes) :
    (s.calWr off b).calRd off b.length = leNat b := by
  unfold calWr calRd
  rw [if_pos valid]
  exact congrArg leNat (Mem.readBytes_writeBytes wf)

theorem calWr_rd_other (s : State) {off x n : Nat} {b : Bytes} (h : x + n ≤ off ∨ off + b.length ≤ x) :
    (s.calWr off b).calRd x n = s.calRd x n := by
  unfold calWr calRd
  dsimp only
  split
  · rw [Mem.readBytes_writeBytes_other h]
  · rfl

theorem calWr_wf {s : State} (wf : s.cal.inEffect.wf = true) (off : Nat) (b : Bytes) :
    (s.calWr off b).cal.inEffect.wf = true := by
  unfold calWr
  dsimp only
  split
  · exact Mem.wf_writeBytes wf
  · exact wf

theorem calRd_of_cal {s t : State} (h : t.cal = s.cal) (off n : Nat) : t.calRd off n = s.calRd off n := by
  unfold calRd
  rw [h]

/-- The bit that says DELAY is valid, set where it was not. -/
theorem bitAt_set_two (f : Nat) : bitAt ((f + bnat (!bitAt f 2) * 4) % 256 ^ 1) 2 = true := by
  unfold bitAt
  simp only [Nat.shiftRight_eq_div_pow]
  by_cases h : f / 2 ^ 2 % 2 = 1
  · simp only [h, bnat]
    norm_num
    omega
  · have h0 : f / 2 ^ 2 % 2 = 0 := by omega
    simp only [h0, bnat]
    norm_num
    omega

/-- The state in which a remeasurement has ended and its token with it. -/
def measureEnded (s : State) (p : Nat) : State :=
  (s.modPort p (fun x => { x with remeasure := none, samples := [], residual := 0, drifted := false })).dropTokens
    (fun t => t.activity == 2 && t.resource == p)

/-- The state in which what the record says beside DELAY is written: the temperature, the load, the partner, the time. -/
def delayWritten (s : State) (p d : Nat) : State :=
  let n := (s.port p).nb
  let e := calEntry p
  let s := s.calWr (e + 0x10) (leBytes 4 (d % 2 ^ 32))
  let s := s.calWr (e + 0x18) (leBytes 2 (unsigned 16 (s.power.dieTemp.getD (p / 4) 0)) ++ leBytes 2 (s.port p).load)
  s.calWr (e + 0x1C) (leBytes 4 (n.chip % 2 ^ 20 + n.port % 32 * 2 ^ 20) ++ leBytes 8 n.serial ++ leBytes 6 s.hallSec)

/-- The state in which DELAY is valid too. -/
def delayStored (s : State) (p d : Nat) : State :=
  let s := s.delayWritten p d
  let f := s.calFlags p
  s.calWr (calEntry p + 0x30) (leBytes 1 (f + bnat (!bitAt f 2) * 4))

theorem delayStored_ports (s : State) (p d : Nat) : (s.delayStored p d).ports = s.ports :=
  (calWr_only.trans' (calWr_only.trans' (calWr_only.trans' calWr_only))).ports_eq

theorem storeDelay_eq {s : State} {p : Nat} {r : Remeasure} (h : (s.port p).remeasure = some r) : s.storeDelay p
    = ((((s.measureEnded p).delayStored p (meanOf r.samples).toNat).recalibrated p).refreshPhi p).tryAlign p := by
  unfold storeDelay
  rw [h]
  rfl

theorem delayWritten_delayOf {s : State} (valid : s.time.calValid = true) (wf : s.cal.inEffect.wf = true) (p d : Nat) :
    (s.delayWritten p d).delayOf p = d % 2 ^ 32 := by
  unfold delayWritten delayOf
  dsimp only
  rw [calWr_rd_other _ (.inl (by omega)), calWr_rd_other _ (.inl (by omega))]
  have read := calWr_rd_same valid wf (calEntry p + 0x10) (leBytes 4 (d % 2 ^ 32))
  rw [leBytes_length, leNat_leBytes] at read
  rw [read]
  omega

theorem delayWritten_wf {s : State} (wf : s.cal.inEffect.wf = true) (p d : Nat) : (s.delayWritten p d).cal.inEffect.wf = true :=
  calWr_wf (calWr_wf (calWr_wf wf _ _) _ _) _ _

theorem delayStored_delayOf {s : State} (valid : s.time.calValid = true) (wf : s.cal.inEffect.wf = true) (p d : Nat) :
    (s.delayStored p d).delayOf p = d % 2 ^ 32 :=
  (calWr_rd_other _ (.inl (by omega))).trans (delayWritten_delayOf valid wf p d)

theorem delayStored_delayValid {s : State} (valid : s.time.calValid = true) (wf : s.cal.inEffect.wf = true) (p d : Nat) :
    (s.delayStored p d).delayValid p = true := by
  have valid' : (s.delayWritten p d).time.calValid = true := valid
  have read := calWr_rd_same valid' (delayWritten_wf wf p d) (calEntry p + 0x30)
    (leBytes 1 ((s.delayWritten p d).calFlags p + bnat (!bitAt ((s.delayWritten p d).calFlags p) 2) * 4))
  rw [leBytes_length, leNat_leBytes] at read
  unfold delayValid calFlags
  exact (congrArg (bitAt · 2) read).trans (bitAt_set_two _)

/-- What the 64th exchange leaves of the port and of the record. -/
theorem storeDelay_stores {s : State} {p : Nat} {r : Remeasure} (h : (s.port p).remeasure = some r) :
    measures ((s.storeDelay p).port p) = ((s.port p).delayReq, none)
      ∧ (s.time.calValid = true → s.cal.inEffect.wf = true →
        (s.storeDelay p).delayValid p = true ∧ (s.storeDelay p).delayOf p = (meanOf r.samples).toNat % 2 ^ 32) := by
  rw [storeDelay_eq h]
  generalize (meanOf r.samples).toNat = d
  have ended : measures ((s.measureEnded p).port p) = ((s.port p).delayReq, none) := by
    refine (measures_of_ports dropTokens_only.ports_eq p).trans ?_
    rw [modPort_port]
    rfl
  have cal : (((((s.measureEnded p).delayStored p d).recalibrated p).refreshPhi p).tryAlign p).cal
      = ((s.measureEnded p).delayStored p d).cal :=
    tryAlign_only.cal_eq.trans (refreshPhi_only.cal_eq.trans recalibrated_only.cal_eq)
  have calBefore : (s.measureEnded p).cal = s.cal := dropTokens_only.cal_eq
  have timeBefore : (s.measureEnded p).time = s.time := dropTokens_only.time_eq
  refine ⟨?_, fun valid wf => ?_⟩
  · rw [tryAlign_measures, refreshPhi_measures, recalibrated_measures, measures_of_ports (delayStored_ports ..), ended]
  · rw [← timeBefore] at valid
    rw [← calBefore] at wf
    unfold delayValid calFlags delayOf
    rw [calRd_of_cal cal, calRd_of_cal cal]
    exact ⟨delayStored_delayValid valid wf p d, delayStored_delayOf valid wf p d⟩

/-! ### A response (R60, R256) -/

/-- The state in which a remeasurement has one sample more. -/
def sampled (s : State) (p : Nat) (m : Remeasure) (d : Units) : State :=
  s.modPort p (fun x => { x with remeasure := some { m with left := m.left - 1, samples := m.samples ++ [d] } })

theorem sampled_port (s : State) (p : Nat) (m : Remeasure) (d : Units) : (s.sampled p m d).port p
    = { s.port p with remeasure := some { m with left := m.left - 1, samples := m.samples ++ [d] } } := modPort_port _ _ _

theorem sampled_only {s : State} {p : Nat} {m : Remeasure} {d : Units} : OnlyChanges [.ports] s (s.sampled p m d) :=
  modPort_only

theorem countExchange_goesOn {s : State} {p : Nat} {m : Remeasure} (h : (s.port p).remeasure = some m) (more : 2 ≤ m.left)
    (d : Units) : s.countExchange p d = s.sampled p m d := by
  unfold countExchange
  rw [h]
  exact if_neg (by dsimp only; omega)

theorem countExchange_ends {s : State} {p : Nat} {m : Remeasure} (h : (s.port p).remeasure = some m) (last : m.left ≤ 1)
    (d : Units) : s.countExchange p d = (s.sampled p m d).storeDelay p := by
  unfold countExchange
  rw [h]
  exact if_pos (by dsimp only; omega)

/-- The residual is judged with the delay of every port but a time port (R60). -/
def delayJudged (s : State) (p : Nat) (d : Units) : State := if s.sourceOf p == .none then s.measured p d else s

theorem delayJudged_measures (s : State) (p : Nat) (d : Units) : measures ((s.delayJudged p d).port p) = measures (s.port p) := by
  unfold delayJudged
  split
  · exact measured_measures s p d
  · rfl

theorem delayJudged_only {s : State} {p : Nat} {d : Units} :
    OnlyChanges [.out, .time, .ports, .groups, .events, .stats] s (s.delayJudged p d) := by
  unfold delayJudged
  split
  · exact measured_only
  · exact .refl

/-- The delay that a response brings: half of the round trip less the partner's turn-around. -/
def delayGiven (s : State) (p : Nat) (t4 : Stamp) (r : DelayReq) (response : Bytes) : Units :=
  roundAwayDiv ((s.rxPlane p t4 - r.t1) - (readTime (response.drop 0x14) - readTime (response.drop 8))) 2

theorem takeDelay_completes {s : State} {p : Nat} {r : DelayReq} {response : Bytes} (h : (s.port p).delayReq = some r)
    (kind : rd response 0 1 = 1) (id : rd response 4 4 = r.id) (t4 : Stamp) : s.takeDelay p t4 response
      = (if r.auto then s.endExchange p
          else (s.endExchange p).countExchange p (s.delayGiven p t4 r response)).delayJudged p
          (s.delayGiven p t4 r response) := by
  unfold takeDelay
  rw [h]
  exact if_pos ⟨kind, id⟩

theorem endExchange_measures (s : State) (p : Nat) : measures ((s.endExchange p).port p) = (none, (s.port p).remeasure) := by
  rw [endExchange_eq, modPort_port]
  rfl

/-! ### A request of DELAY_MEAS (R399, R402) -/

theorem askRemeasure_begins {s : State} {p : Nat} (h : (s.port p).remeasure = none) :
    s.askRemeasure p = s.beginRemeasure p (s.calToken p) := by
  unfold askRemeasure
  rw [h]

theorem askRemeasure_port {s : State} {p : Nat} {m : Remeasure} (h : (s.port p).remeasure = some m) :
    (s.askRemeasure p).port p = if s.calToken p = true ∧ m.under = false
      then { s.port p with measWaits := some false, remeasure := some { left := 64, samples := [], under := true } }
      else { s.port p with measWaits := some (s.calToken p) } := by
  unfold askRemeasure
  rw [h]
  by_cases before : s.calToken p = true ∧ m.under = false
  · dsimp only
    rw [if_pos before, if_pos (by simp [before]), modPort_port, beginRemeasure, modPort_port]
  · dsimp only
    rw [if_neg before, if_neg (by simpa using before), modPort_port]

theorem askRemeasure_others (s : State) (p : Nat) : OtherPorts p s (s.askRemeasure p) := by
  unfold askRemeasure
  split
  · split
    · exact otherPorts_trans (modPort_others _ _ _) (modPort_others _ _ _)
    · exact modPort_others _ _ _
  · exact modPort_others _ _ _

end State

section

variable {s : State} {p : Nat}

theorem exec_delayResponse {t4 : Stamp} {cell : Bytes} {c : CellFields} (run : s.running = true)
    (arrives : s.arrives p tDelay cell c) :
    exec (.delayResponseReceived p t4 cell) s = .next ((s.heard p cell).takeDelay p t4 c.payload) :=
  State.whenRunning_withCell run arrives _

end

/-- Settles O17: an exchange is its request, its response or its timeout; the 64th sample stores their mean. -/
theorem delayExchangesMeasureTheLink : Obligations.DelayExchangesMeasureTheLink := by
  unfold Obligations.DelayExchangesMeasureTheLink
  refine ⟨?request, ?answer, ?response, ?other, ?timeout, ?begins, ?waits⟩
  case request =>
    intro p t1 s run
    refine ⟨fun trained_ free once goes => ?_, fun rests => ?_⟩
    · have may : s.mayAskDelay p = true := by
        obtain goes | goes := goes <;> simp [State.mayAskDelay, trained_, free, once, goes]
      exact ⟨_, (whenRunning_run run).trans (congrArg _ (if_pos may)), s.askDelay_port p t1, s.askDelay_others p t1,
        State.askDelay_ports⟩
    · refine (whenRunning_run run).trans (congrArg _ (if_neg ?_))
      unfold State.mayAskDelay
      obtain busy | once | ⟨measure, auto⟩ := rests
      · simp [Option.isSome_iff_ne_none.mp busy]
      · simp [once]
      · simp [measure, auto]
  case answer =>
    intro p t2 t3 cell c s run arrives kind
    have step : exec (.delayRequestReceived p t2 t3 cell) s = .next ((s.heard p cell).sendVc3 p rankDelay tDelay 0
        (delayPayload true (rd c.payload 4 4) ((s.heard p cell).rxPlane p t2) ((s.heard p cell).txPlane p t3))) :=
      (State.whenRunning_withCell run arrives _).trans (congrArg _ (if_pos kind))
    have vc3 : ((s.heard p cell).port p).vc3 = (s.port p).vc3 := State.heard_view PortState.vc3 s p cell p
    obtain ⟨_, _, _, heard⟩ := s.heard_eq p cell
    have rx : (s.heard p cell).rxPlane p t2 = s.rxPlane p t2 := by rw [heard]; rfl
    have tx : (s.heard p cell).txPlane p t3 = s.txPlane p t3 := by rw [heard]; rfl
    rw [rx, tx] at step
    refine ⟨_, step, ?_, ?_, ?_⟩
    · rw [State.sendVc3, State.modPort_port, vc3]
    · exact State.otherPorts_trans (s.heard_requestsOnly p cell).others (State.modPort_others _ _ _)
    · exact (State.sendVc3_only.mono (by decide)).trans' State.heard_only
  case response =>
    intro p t4 cell c r m d s run arrives kind id asked measuring hd
    obtain ⟨_, _, _, heard⟩ := s.heard_eq p cell
    have asked' : ((s.heard p cell).port p).delayReq = some r :=
      (State.heard_view PortState.delayReq s p cell p).trans asked
    have measuring' : ((s.heard p cell).port p).remeasure = some m :=
      (State.heard_view PortState.remeasure s p cell p).trans measuring
    have given : (s.heard p cell).delayGiven p t4 r c.payload = d := by rw [heard, hd]; rfl
    have step := exec_delayResponse (t4 := t4) run arrives
    rw [State.takeDelay_completes asked' kind id, given] at step
    have ended := (s.heard p cell).endExchange_measures p
    rw [measuring'] at ended
    set u := (s.heard p cell).endExchange p
    have endedOnly : OnlyChanges [.ports, .events, .stats] s u :=
      (State.endExchange_only.mono (by decide)).trans' State.heard_only
    have left : (u.port p).remeasure = some m := congrArg Prod.snd ended
    refine ⟨fun auto => ?_, fun auto more => ?_, fun auto last => ?_⟩
    · rw [auto, if_pos rfl] at step
      have after := (u.delayJudged_measures p d).trans ended
      exact ⟨_, step, congrArg Prod.fst after, congrArg Prod.snd after,
        State.delayJudged_only.trans' (endedOnly.mono (by decide))⟩
    · rw [auto, if_neg Bool.false_ne_true, State.countExchange_goesOn left more] at step
      have after := (u.sampled p m d).delayJudged_measures p d
      rw [State.sampled_port] at after
      have only : OnlyChanges [.ports, .events, .stats] s (u.sampled p m d) :=
        (State.sampled_only.mono (by decide)).trans' endedOnly
      exact ⟨_, step, (congrArg Prod.fst after).trans (congrArg Prod.fst ended), congrArg Prod.snd after,
        State.delayJudged_only.trans' (only.mono (by decide))⟩
    · rw [auto, if_neg Bool.false_ne_true, State.countExchange_ends left last] at step
      have only : OnlyChanges [.ports, .events, .stats] s (u.sampled p m d) :=
        (State.sampled_only.mono (by decide)).trans' endedOnly
      obtain ⟨stored, valid⟩ := State.storeDelay_stores (congrArg PortState.remeasure (u.sampled_port p m d))
      have after := (((u.sampled p m d).storeDelay p).delayJudged_measures p d).trans stored
      have cal : (((u.sampled p m d).storeDelay p).delayJudged p d).cal = ((u.sampled p m d).storeDelay p).cal := State.delayJudged_only.cal_eq
      rw [State.sampled_port] at after
      refine ⟨_, step, (congrArg Prod.fst after).trans (congrArg Prod.fst ended), congrArg Prod.snd after,
        fun calValid wf => ?_, ?_⟩
      · unfold State.delayValid State.calFlags State.delayOf
        rw [State.calRd_of_cal cal, State.calRd_of_cal cal]
        exact valid (by rw [only.time_eq]; exact calValid) (by rw [only.cal_eq]; exact wf)
      · exact (State.delayJudged_only.mono (by decide)).trans'
          ((State.storeDelay_only.mono (by decide)).trans' (only.mono (by decide)))
  case other =>
    intro p t4 cell c r s run arrives asked id
    have asked' : ((s.heard p cell).port p).delayReq = some r :=
      (State.heard_view PortState.delayReq s p cell p).trans asked
    rw [exec_delayResponse run arrives]
    unfold State.takeDelay
    rw [asked']
    exact congrArg _ (if_neg fun h => id h.2.symm)
  case timeout =>
    intro p r s run asked late
    have step : exec (.delayTimeout p) s = .next ((s.bumpPort p .delayTimeout 1).endExchange p) := by
      show execDelayTimeout p s = _
      unfold execDelayTimeout
      rw [whenRunning_run run, asked]
      exact congrArg _ (if_pos late)
    have counted : OnlyChanges [.ports, .events, .stats] s (s.bumpPort p .delayTimeout 1) :=
      State.bumpPort_only.mono (by decide)
    have ports : (s.bumpPort p .delayTimeout 1).ports = s.ports := State.bumpPort_only.ports_eq
    have time : (s.bumpPort p .delayTimeout 1).time = s.time := State.bumpPort_only.time_eq
    have waits : (s.bumpPort p .delayTimeout 1).hailWaits p = s.hailWaits p := by
      rw [counted.eq_ports, ports]
      rfl
    refine ⟨_, step, ?_, rfl, ?_, ?_⟩
    · rw [State.endExchange_eq, State.modPort_port, waits, time, State.port_of_ports ports]
    · exact State.otherPorts_trans (fun q _ => State.port_of_ports ports q) (State.modPort_others _ _ _)
    · exact (State.endExchange_only.mono (by decide)).trans' counted
  case begins =>
    intro tag p s run view hp idle
    have ports : (s.touch tag).ports = s.ports := State.touch_only.ports_eq
    have token : (s.touch tag).calToken p = s.calToken p := by
      unfold State.calToken
      rw [State.touch_only.maint_eq]
    have step : exec (.delayMeas tag p) s = .next ((s.touch tag).askRemeasure p) :=
      (State.whenRunning_asPriv run view).trans (congrArg _ (if_pos hp))
    have idle' : ((s.touch tag).port p).remeasure = none := by rw [State.port_of_ports ports]; exact idle
    refine ⟨_, step, ?_, ?_, ?_⟩
    · rw [State.askRemeasure_begins idle', State.beginRemeasure, State.modPort_port, token, State.port_of_ports ports]
    · exact State.otherPorts_trans (fun q _ => State.port_of_ports ports q) (State.askRemeasure_others _ _)
    · exact (State.askRemeasure_only.mono (by decide)).trans' (State.touch_only.mono (by decide))
  case waits =>
    intro tag p m s run view hp measuring
    have ports : (s.touch tag).ports = s.ports := State.touch_only.ports_eq
    have token : (s.touch tag).calToken p = s.calToken p := by
      unfold State.calToken
      rw [State.touch_only.maint_eq]
    have step : exec (.delayMeas tag p) s = .next ((s.touch tag).askRemeasure p) :=
      (State.whenRunning_asPriv run view).trans (congrArg _ (if_pos hp))
    have measuring' : ((s.touch tag).port p).remeasure = some m := by rw [State.port_of_ports ports]; exact measuring
    refine ⟨_, step, ?_, ?_, ?_⟩
    · rw [State.askRemeasure_port measuring', token, State.port_of_ports ports]
    · exact State.otherPorts_trans (fun q _ => State.port_of_ports ports q) (State.askRemeasure_others _ _)
    · exact (State.askRemeasure_only.mono (by decide)).trans' (State.touch_only.mono (by decide))

end Sys2Proof.Machine

end

/-! ## Resume tides and RECOVERY_CTRL (R199, R210 to R219, R351, R352)

What an action of a group leaves of it: a view of the group that the action keeps, and every other group. -/

section

namespace Sys2Proof.Machine

set_option Elab.async false

open Sys2Proof

namespace State

/-! ### What an action on a group keeps -/

/-- From `s` to `t` only group `g` changes, and what `view` shows of it stays. -/
def GroupKeeps {β : Type} (view : Group → β) (g : Nat) (s t : State) : Prop :=
  OtherGroups g s t ∧ view (t.group g) = view (s.group g)

namespace GroupKeeps

variable {β : Type} {view : Group → β} {g : Nat} {s t u : State}

theorem of_groups (h : t.groups = s.groups) : GroupKeeps view g s t := by
  unfold GroupKeeps OtherGroups group
  rw [h]
  exact ⟨fun _ _ => rfl, rfl⟩

theorem of_only {P : List Part} (h : OnlyChanges P s t) (hp : .groups ∉ P := by decide) : GroupKeeps view g s t :=
  .of_groups (h.groups_eq hp)

theorem refl : GroupKeeps view g s s := .of_groups rfl

theorem trans (h : GroupKeeps view g s t) (k : GroupKeeps view g t u) : GroupKeeps view g s u :=
  ⟨otherGroups_trans h.1 k.1, k.2.trans h.2⟩

theorem modGroup {f : Group → Group} (hf : ∀ x, view (f x) = view x := by intros; rfl) : GroupKeeps view g s (s.modGroup g f) :=
  ⟨modGroup_others _ _ _, by rw [modGroup_group, hf]⟩

theorem ite {c : Prop} [Decidable c] (ht : GroupKeeps view g s t) (hu : GroupKeeps view g s u) :
    GroupKeeps view g s (if c then t else u) := by
  split
  · exact ht
  · exact hu

theorem foldl {α : Type} {f : State → α → State} (hf : ∀ u a, GroupKeeps view g u (f u a)) (l : List α) (s : State) :
    GroupKeeps view g s (l.foldl f s) := by
  induction l generalizing s with
  | nil => exact .refl
  | cons a l ih => exact (hf s a).trans (ih _)

/-- What a coarser view shows stays too. -/
theorem map {γ : Type} (h : GroupKeeps view g s t) (f : β → γ) : GroupKeeps (fun x => f (view x)) g s t :=
  ⟨h.1, congrArg f h.2⟩

end GroupKeeps

/-! ### Entering the OPEN barrier -/

/-- A group beside what its exchange of messages changes: express instances, the kept token, the codes of its contexts, the
ledger, the recovery cells, and the note of a refused OPEN. -/
def besideExchange (x : Group) : Group :=
  { x with express := [], abort := none, ctxs := [], ledger := [], openRefused := false
           recovery := { x.recovery with cells := [] } }

/-- A group beside the entry into its OPEN too. -/
def besideOpen (x : Group) : Group := { besideExchange x with openAt := none, stepOpen := false }

/-- What two groups show alike that are the same beside their exchange and their entry into the OPEN. -/
structure ShowsSame (x y : Group) : Prop where
  table : x.table = y.table
  step : x.step = y.step
  state : x.state = y.state
  hold : x.hold = y.hold
  rc : x.rc = y.rc
  decision : x.recovery.decision = y.recovery.decision
  fromState : x.recovery.fromState = y.recovery.fromState
  record : x.record = y.record
  lastRecord : x.lastRecord = y.lastRecord
  retained : x.retained = y.retained

theorem ShowsSame.of_besideOpen {x y : Group} (h : besideOpen x = besideOpen y) : ShowsSame x y where
  table := congrArg (·.table) h
  step := congrArg (·.step) h
  state := congrArg (·.state) h
  hold := congrArg (·.hold) h
  rc := congrArg (·.rc) h
  decision := congrArg (·.recovery.decision) h
  fromState := congrArg (·.recovery.fromState) h
  record := congrArg (·.record) h
  lastRecord := congrArg (·.lastRecord) h
  retained := congrArg (·.retained) h

theorem ShowsSame.of_besideExchange {x y : Group} (h : besideExchange x = besideExchange y) : ShowsSame x y :=
  .of_besideOpen (congrArg (fun x : Group => { x with openAt := none, stepOpen := false }) h)

theorem openAt_of_besideExchange {x y : Group} (h : besideExchange x = besideExchange y) : x.openAt = y.openAt :=
  congrArg (·.openAt) h

theorem modExpress_keeps (s : State) (g kind tag : Nat) (f : Express → Express) :
    GroupKeeps besideExchange g s (s.modExpress g kind tag f) := by
  refine .modGroup fun x => ?_
  split <;> rfl

theorem keepToken_keeps (s : State) (g : Nat) (t : Nat × Nat) (own : Bool) :
    GroupKeeps besideExchange g s (s.keepToken g t own) := by
  refine .modGroup fun x => ?_
  extract_lets better y
  have coded : besideExchange y = besideExchange x := by
    unfold y
    split <;> rfl
  clear_value y
  split
  · exact coded
  · exact coded

theorem abort_keeps (s : State) (g code chunk bucket : Nat) : GroupKeeps besideExchange g s (s.abort g code chunk bucket) := by
  unfold abort
  exact .ite ((keepToken_keeps _ _ _ _).trans (.of_only send_only)) .refl

theorem forwardReduce_keeps (s : State) (g kind tag : Nat) : GroupKeeps besideExchange g s (s.forwardReduce g kind tag) := by
  unfold forwardReduce
  split
  · split
    · refine .ite .refl (GroupKeeps.trans (.of_only countScalar_only) (.trans (modExpress_keeps _ _ _ _ _) (.of_only send_only)))
    · exact .refl
  · exact .refl

theorem giveOperand_keeps (s : State) (g kind tag op own : Nat) (flag : Bool) :
    GroupKeeps besideExchange g s (s.giveOperand g kind tag op own flag) := by
  unfold giveOperand
  extract_lets u
  have given : GroupKeeps besideExchange g s u := modExpress_keeps _ _ _ _ _
  clear_value u
  refine given.trans (.ite ?_ (forwardReduce_keeps _ _ _ _))
  split
  · have counted (c : Prop) [Decidable c] : GroupKeeps besideExchange g u (if c then u.bumpG .scalarSat g 1 else u) :=
      .ite (.of_only bumpG_only) .refl
    exact .ite .refl ((counted _).trans ((modExpress_keeps _ _ _ _ _).trans (.of_only send_only)))
  · exact .refl

theorem openOperand_keeps (s : State) (g : Nat) : GroupKeeps besideExchange g s (s.openOperand g) := by
  have mismatch : GroupKeeps besideExchange g s ((s.bump .imageMismatch).abortGroup g 0x07) :=
    .trans (.of_only bump_only) (abort_keeps _ _ _ _ _)
  unfold openOperand
  exact .ite (.ite mismatch (.ite .refl (giveOperand_keeps _ _ _ _ _ _ _))) .refl

/-- The entry into the OPEN, as its group shows it. -/
theorem enterOpen_keeps (s : State) (g : Nat) :
    OtherGroups g s (s.enterOpen g) ∧ besideExchange ((s.enterOpen g).group g)
      = besideExchange { s.group g with openAt := some s.now, stepOpen := true } := by
  have operand := openOperand_keeps (s.modGroup g (fun gr => { gr with openAt := some s.now, stepOpen := true })) g
  exact ⟨otherGroups_trans (modGroup_others _ _ _) operand.1, operand.2.trans (by rw [modGroup_group])⟩

/-! ### A refused OPEN -/

theorem complete_otherQueues (s : State) (g : Nat) (op : QueueOp) (code result : Nat) (flag : Bool) :
    OtherQueues g s (s.complete g op code result flag) := by
  intro q hq
  unfold complete
  extract_lets add r u v
  have done : u.queue q = s.queue q := modOp_otherQueues _ _ _ _ q hq
  have waited : v.queue q = s.queue q := by
    unfold v
    split
    · exact (setQueue_queue_other _ _ hq).trans done
    · exact done
  split
  · exact waited
  · exact (setQueue_queue_other _ _ hq).trans waited

theorem endStepOps_otherQueues (s : State) (g code : Nat) (ops : List QueueOp) :
    OtherQueues g s (s.endStepOps g code ops) := by
  intro q hq
  unfold endStepOps
  refine view_foldl (view := fun u => u.queue q) (fun u o => ?_) _ _
  split
  · exact complete_otherQueues _ _ _ _ _ _ q hq
  · rfl

theorem dropStepOps_otherQueues (s : State) (g : Nat) (ops : List QueueOp) : OtherQueues g s (s.dropStepOps g ops) := by
  intro q hq
  have returned : (s.returnBooks ops).queues = s.queues := returnBooks_only.queues_eq
  unfold dropStepOps modQueue
  rw [setQueue_queue_other _ _ hq]
  unfold queue
  rw [returned]

theorem refuseOpen_otherQueues (s : State) (g : Nat) : OtherQueues g s (s.refuseOpen g) := by
  intro q hq
  unfold refuseOpen
  split
  · rfl
  · extract_lets u ops
    have same : u.queue q = s.queue q := by
      have queues : u.queues = s.queues := bumpG_only.queues_eq
      unfold queue
      rw [queues]
    exact (dropStepOps_otherQueues _ _ _ q hq).trans ((endStepOps_otherQueues _ _ _ _ q hq).trans same)

/-- What a refusal leaves of the group: the note of it. -/
theorem refuseOpen_group (s : State) (g : Nat) : OtherGroups g s (s.refuseOpen g)
    ∧ (s.refuseOpen g).group g = { s.group g with openRefused := true } := by
  unfold refuseOpen
  split
  · rename_i h
    refine ⟨fun _ _ => rfl, ?_⟩
    rw [← h]
  · extract_lets u ops
    have ended : ((u.endStepOps g 0x09 ops).dropStepOps g ops).groups = u.groups :=
      dropStepOps_only.groups_eq.trans endStepOps_only.groups_eq
    have noted : u.groups = (s.modGroup g (fun gr => { gr with openRefused := true })).groups := bumpG_only.groups_eq
    have groups (i : Nat) : ((u.endStepOps g 0x09 ops).dropStepOps g ops).group i
        = (s.modGroup g (fun gr => { gr with openRefused := true })).group i := by
      unfold group
      rw [ended, noted]
    exact ⟨fun i hi => (groups i).trans (modGroup_group_other _ _ hi), (groups g).trans (modGroup_group _ _ _)⟩

theorem tryEnterOpen_keeps (s : State) (g : Nat) : GroupKeeps besideOpen g s (s.tryEnterOpen g) := by
  have entered := s.enterOpen_keeps g
  have refused := s.refuseOpen_group g
  unfold tryEnterOpen
  refine .ite (.ite ⟨refused.1, ?_⟩ ⟨entered.1, ?_⟩) .refl
  · rw [refused.2]
    rfl
  · exact congrArg (fun x : Group => { x with openAt := none, stepOpen := false }) entered.2

/-! ### Cells of the member's own, and an acknowledged decision (R211) -/

/-- A group beside what its recovery cells and its step record change. -/
def besideCells (x : Group) : Group :=
  { x with record := none
           recovery := { x.recovery with cells := [], lostChip := noChip, rejoined := false, wasLost := false } }

theorem sendMessage_keeps (s : State) (g kind : Nat) (c : RecoveryCell) (list : List Nat) :
    GroupKeeps besideCells g s (s.sendMessage g kind c list) :=
  .foldl (fun _ _ => .trans (.modGroup) (.of_only sendCell_only)) _ _

theorem forgetLost_keeps (s : State) (g : Nat) (d : Decision) : GroupKeeps besideCells g s (s.forgetLost g d) :=
  .ite .modGroup .refl

/-- The group of a member that acknowledges a decision, beside its cells and its record. -/
def acknowledged (x : Group) (d : Decision) : Group :=
  { x with state := .recovering, abort := none
           recovery := { x.recovery with
             decision := some { d with acked := true }
             fromState := if x.state == .closed then .closed else x.recovery.fromState } }

/-- A decision without releases of its own is acknowledged: what was zeroed leaves the group as it was. -/
theorem acknowledge_group (s : State) (g : Nat) {d : Decision} (none : d.set = []) (met : List Nat) :
    OtherGroups g s (s.acknowledge g d met)
      ∧ besideCells ((s.acknowledge g d met).group g) = besideCells (acknowledged (s.group g) d) := by
  unfold acknowledge
  rw [none]
  extract_lets u v closed from_ code w x
  have zeroed : v.groups = s.groups := zeroBadUnits_only.groups_eq
  have group : v.group g = s.group g := by
    unfold State.group
    rw [zeroed]
  have took : OtherGroups g s w ∧ w.group g = acknowledged (s.group g) d := by
    refine ⟨otherGroups_trans (GroupKeeps.of_groups (view := id) zeroed).1 (modGroup_others _ _ _), ?_⟩
    rw [modGroup_group, group]
    unfold acknowledged from_ closed
    rw [group, none]
  have told : GroupKeeps besideCells g w x :=
    .trans (.modGroup (f := fun x => { x with record := x.record.map (fun r => { r with state := .recovering }) }))
      (forgetLost_keeps _ _ _)
  have sent := told.trans (sendMessage_keeps x g rAck { blankCell with code := code, tR := d.tR } [])
  exact ⟨otherGroups_trans took.1 sent.1, sent.2.trans (by rw [took.2])⟩

theorem acknowledge_only_of_none {s : State} {g : Nat} {d : Decision} (none : d.set = []) {met : List Nat} :
    OnlyChanges [.ports, .groups, .stack, .badUnits, .events, .stats] s (s.acknowledge g d met) := by
  unfold acknowledge
  rw [none]
  exact (sendMessage_only.mono (by decide)).trans' ((forgetLost_only.mono (by decide)).trans'
    ((modGroup_only.mono (by decide)).trans' ((modGroup_only.mono (by decide)).trans' (zeroBadUnits_only.mono (by decide)))))

/-! ### The resume tide (R199, R211, R212) -/

/-- The state in which T_R has brought the table and the end of an ARM. -/
def resumeNoted (s : State) (g : Nat) (d : Decision) : State :=
  let joins := !s.member g
  let byCtrl := (s.group g).rc.armed.isSome
  s.modGroup g (fun x =>
    { x with table := d.table, abort := none, hold := x.hold && !byCtrl
             rc := if byCtrl then { x.rc with status := 2, armed := none } else x.rc
             recovery := { x.recovery with
               decision := none, heldDecide := false, cells := [], firstPropose := none, lostChip := noChip
               rejoined := false, wasLost := false, substituted := x.recovery.substituted || d.action == 1
               spare := x.recovery.spare || (joins && d.action == 1), action := d.action
               releasedSet := if d.action = 1 then d.set else x.recovery.releasedSet } })

/-- The state in which another table is in force, its blocks counted afresh. -/
def tableTurned (s : State) (g : Nat) : State :=
  ({ s with maint := { s.maint with tableAt := some s.time.ticks } } : State).resetBlocks g

/-- The state in which the RECOVERY entry is made, before the OPEN. -/
def resumeEntered (s : State) (g : Nat) (d : Decision) : State :=
  let t := s.resumeNoted g d
  let t := if !s.member g then t.establishFresh g else t
  let t := if (t.group g).table = (s.group g).table then t else t.tableTurned g
  (t.enterRecovery g d.action (s.ringChips g)).noteReplaced g (s.ringChips g)

theorem resumeAt_eq (s : State) (g : Nat) (d : Decision) : s.resumeAt g d =
    if ((s.resumeEntered g d).group g).recovery.fromState == .closed && ((s.resumeEntered g d).group g).step == stepMax
    then ((s.resumeEntered g d).modGroup g (fun x => { x with state := .closed })).refuseOpen g
    else ((s.resumeEntered g d).enterOpen g).askWake := by
  unfold resumeAt
  extract_lets old joins byCtrl before t u m v w
  have entered : w = s.resumeEntered g d := rfl
  rw [← entered]

theorem resumeNoted_only {s : State} {g : Nat} {d : Decision} : OnlyChanges [.groups] s (s.resumeNoted g d) := by
  unfold resumeNoted
  exact modGroup_only

theorem resumeNoted_group (s : State) (g : Nat) (d : Decision) : ((s.resumeNoted g d).group g).table = d.table
    ∧ ((s.resumeNoted g d).group g).recovery.decision = none ∧ ((s.resumeNoted g d).group g).step = (s.group g).step
    ∧ ((s.resumeNoted g d).group g).state = (s.group g).state ∧ ((s.resumeNoted g d).group g).openAt = (s.group g).openAt
    ∧ ((s.resumeNoted g d).group g).recovery.fromState = (s.group g).recovery.fromState := by
  unfold resumeNoted
  dsimp only
  rw [modGroup_group]
  exact ⟨rfl, rfl, rfl, rfl, rfl, rfl⟩

theorem resumeNoted_armed {s : State} {g : Nat} (armed : (s.group g).rc.armed.isSome = true) (d : Decision) :
    ((s.resumeNoted g d).group g).hold = false ∧ ((s.resumeNoted g d).group g).rc.status = 2
      ∧ ((s.resumeNoted g d).group g).rc.armed = none := by
  unfold resumeNoted
  dsimp only
  rw [modGroup_group, armed]
  exact ⟨Bool.and_false _, rfl, rfl⟩

theorem enterLedger_beside (s : State) (g kind bucket arg : Nat) : GroupKeeps besideExchange g s (s.enterLedger g kind bucket arg) := by
  unfold enterLedger
  extract_lets +onlyGivenNames gr e u
  have entered : GroupKeeps besideExchange g s u := .trans .modGroup (.of_only ledgerEvent_only)
  split
  · exact entered.trans (.of_only ledgerEvent_only)
  · exact entered

theorem resumeEntered_keeps (s : State) (g : Nat) (d : Decision) :
    GroupKeeps besideExchange g (s.resumeNoted g d) (s.resumeEntered g d) := by
  unfold resumeEntered
  extract_lets t u v
  have joined : GroupKeeps besideExchange g t u := .ite (.of_only establishFresh_only) .refl
  have tabled : GroupKeeps besideExchange g u v := .ite .refl (.of_groups rfl)
  exact (joined.trans tabled).trans (.trans (enterLedger_beside _ _ _ _ _) (.of_only noteReplaced_only))

theorem resumeEntered_only {s : State} {g : Nat} {d : Decision} :
    OnlyChanges [.groups, .buckets, .stack, .badUnits, .blockCount, .blockRx, .events, .stats, .maint] s
      (s.resumeEntered g d) := by
  unfold resumeEntered
  extract_lets t u v
  have noted : OnlyChanges [.groups, .buckets, .stack, .badUnits, .blockCount, .blockRx, .events, .stats, .maint] s t :=
    resumeNoted_only.mono (by decide)
  have joined : OnlyChanges [.groups, .buckets, .stack, .badUnits, .blockCount, .blockRx, .events, .stats, .maint] s u :=
    only_ite (establishFresh_only.step noted (by decide)) noted
  have tabled : OnlyChanges [.groups, .buckets, .stack, .badUnits, .blockCount, .blockRx, .events, .stats, .maint] s v :=
    only_ite joined (resetBlocks_only.step (only_maint joined (by decide)) (by decide))
  exact noteReplaced_only.step (enterRecovery_only.step tabled (by decide)) (by decide)

theorem resumeEntered_fields (s : State) (g : Nat) (d : Decision) :
    ((s.resumeEntered g d).group g).recovery.fromState = (s.group g).recovery.fromState
      ∧ ((s.resumeEntered g d).group g).step = (s.group g).step
      ∧ ((s.resumeEntered g d).group g).openAt = (s.group g).openAt := by
  have kept := (s.resumeEntered_keeps g d).2
  have same := ShowsSame.of_besideExchange kept
  obtain ⟨-, -, step, -, openAt, fromState⟩ := s.resumeNoted_group g d
  exact ⟨same.fromState.trans fromState, same.step.trans step, (openAt_of_besideExchange kept).trans openAt⟩

theorem resumeNoted_others (s : State) (g : Nat) (d : Decision) : OtherGroups g s (s.resumeNoted g d) := by
  unfold resumeNoted
  exact modGroup_others _ _ _

theorem resumeEntered_others (s : State) (g : Nat) (d : Decision) : OtherGroups g s (s.resumeEntered g d) :=
  otherGroups_trans (s.resumeNoted_others g d) (s.resumeEntered_keeps g d).1

/-- A resume tide that goes on: the member enters the OPEN on the ring of the decision's table. -/
theorem resumeAt_goesOn {s : State} {g : Nat} (go : (s.group g).recovery.fromState ≠ .closed ∨ (s.group g).step ≠ stepMax)
    (d : Decision) : s.resumeAt g d = ((s.resumeEntered g d).enterOpen g).askWake := by
  obtain ⟨fromState, step, -⟩ := s.resumeEntered_fields g d
  rw [resumeAt_eq, fromState, step]
  refine if_neg ?_
  obtain h | h := go <;> simp [h]

theorem resumeAt_refuses {s : State} {g : Nat} (closed : (s.group g).recovery.fromState = .closed)
    (last : (s.group g).step = stepMax) (d : Decision) :
    s.resumeAt g d = ((s.resumeEntered g d).modGroup g (fun x => { x with state := .closed })).refuseOpen g := by
  obtain ⟨fromState, step, -⟩ := s.resumeEntered_fields g d
  rw [resumeAt_eq, fromState, step]
  exact if_pos (by simp [closed, last])

/-- What a resume tide that goes on brings its group. -/
structure Resumes (g : Nat) (d : Decision) (s u : State) : Prop where
  table : (u.group g).table = d.table
  openAt : (u.group g).openAt = some s.now
  decision : (u.group g).recovery.decision = none
  step : (u.group g).step = (s.group g).step
  state : (u.group g).state = (s.group g).state
  armed : (s.group g).rc.armed.isSome = true →
    (u.group g).hold = false ∧ (u.group g).rc.status = 2 ∧ (u.group g).rc.armed = none
  others : OtherGroups g s u
  only : OnlyChanges [.power, .ports, .groups, .buckets, .stack, .badUnits, .blockCount, .blockRx, .events, .stats, .maint] s u

theorem resumeAt_resumes {s : State} {g : Nat} (go : (s.group g).recovery.fromState ≠ .closed ∨ (s.group g).step ≠ stepMax)
    (d : Decision) : Resumes g d s (s.resumeAt g d) := by
  rw [resumeAt_goesOn go]
  have entered := (s.resumeEntered g d).enterOpen_keeps g
  have woken : ((s.resumeEntered g d).enterOpen g).askWake.groups = ((s.resumeEntered g d).enterOpen g).groups :=
    askWake_only.groups_eq
  have now : (s.resumeEntered g d).now = s.now := resumeEntered_only.now_eq
  have group (i : Nat) : ((s.resumeEntered g d).enterOpen g).askWake.group i = ((s.resumeEntered g d).enterOpen g).group i := by
    unfold State.group
    rw [woken]
  have noted := ShowsSame.of_besideExchange (s.resumeEntered_keeps g d).2
  obtain ⟨table, decision, step, state, -, -⟩ := s.resumeNoted_group g d
  rw [now] at entered
  have same := ShowsSame.of_besideExchange entered.2
  exact {
    table := by rw [group, same.table, ← table, ← noted.table]
    openAt := by rw [group, openAt_of_besideExchange entered.2]
    decision := by rw [group, same.decision, ← decision, ← noted.decision]
    step := by rw [group, same.step, ← step, ← noted.step]
    state := by rw [group, same.state, ← state, ← noted.state]
    armed := fun h => by
      obtain ⟨hold, status, armed⟩ := resumeNoted_armed h d
      rw [group, same.hold, same.rc]
      dsimp only
      rw [noted.hold, noted.rc]
      exact ⟨hold, status, armed⟩
    others := fun i hi => (group i).trans ((entered.1 i hi).trans (s.resumeEntered_others g d i hi))
    only := askWake_only.step (enterOpen_only.step (resumeEntered_only.mono (by decide)) (by decide)) (by decide) }

/-- What a resume tide brings a member held from CLOSED whose step counter is at its maximum (R199). -/
structure Refuses (g : Nat) (s u : State) : Prop where
  state : (u.group g).state = .closed
  openAt : (u.group g).openAt = (s.group g).openAt
  refused : (u.group g).openRefused = true
  step : (u.group g).step = (s.group g).step
  others : OtherGroups g s u
  queues : OtherQueues g s u
  only : OnlyChanges [.books, .queues, .groups, .buckets, .stack, .badUnits, .blockCount, .blockRx, .events, .stats, .maint] s u

theorem resumeAt_refused {s : State} {g : Nat} (closed : (s.group g).recovery.fromState = .closed)
    (last : (s.group g).step = stepMax) (d : Decision) : Refuses g s (s.resumeAt g d) := by
  rw [resumeAt_refuses closed last]
  obtain ⟨others, group⟩ := refuseOpen_group ((s.resumeEntered g d).modGroup g (fun x => { x with state := .closed })) g
  obtain ⟨-, step, openAt⟩ := s.resumeEntered_fields g d
  rw [modGroup_group] at group
  exact {
    state := by rw [group]
    openAt := by rw [group, ← openAt]
    refused := by rw [group]
    step := by rw [group, ← step]
    others := otherGroups_trans (s.resumeEntered_others g d) (otherGroups_trans (modGroup_others _ _ _) others)
    queues := fun q hq => by
      rw [refuseOpen_otherQueues _ _ q hq]
      have queues : ((s.resumeEntered g d).modGroup g (fun x => { x with state := .closed })).queues = s.queues :=
        modGroup_only.queues_eq.trans resumeEntered_only.queues_eq
      unfold queue
      rw [queues]
    only := refuseOpen_only.step (modGroup_only.step (resumeEntered_only.mono (by decide)) (by decide)) (by decide) }

/-! ### The skip close (R218) -/

/-- The state in which the bucket generations of the released chunks are in force or copied. -/
def skipCopied (s : State) (g : Nat) (met : StackReads) : State :=
  (s.im.bucketsOf g).foldl (fun s d =>
    let cs := s.releasedOf g d
    if cs.isEmpty then s
    else if cs.length = chunkCount d then s.flipSelector d else s.copyReleased met.bad d cs) s

/-- The state in which the step has ended, its operations done and its record the last committed one. -/
def skipEnded (s : State) (g : Nat) (met : StackReads) : State :=
  let ops := s.stepOps g
  let s := (s.skipCopied g met).enterLedger g 8 0xFFF
    ((s.skipCopied g met).ringN g % 2 ^ 15 + (s.group g).table % 16 * 2 ^ 15 + 2 ^ 22)
  let s := s.endStepOps g 0x05 ops
  let r := (s.group g).record.map (fun r => { r with done := s.now, state := .closed, abortCode := 0x05 })
  (s.freeStep g r).dropStepOps g ops

/-- The state in which the group is CLOSED after the step that was skipped. -/
def skipClosed (s : State) (g : Nat) (met : StackReads) : State :=
  let armed := (s.group g).rc.armed.isSome
  let s := s.skipEnded g met
  s.modGroup g (fun x =>
    { x with step := Nat.min (x.step + 1) stepMax, attempt := 0, state := .closed
             actHeld := s.image.pending.isSome, hold := x.hold && !armed
             rc := if armed then { x.rc with status := 2, armed := none } else x.rc })

theorem skipStep_eq (s : State) (g : Nat) (met : StackReads) :
    s.skipStep g met = ((s.readStack met).skipClosed g met).tryEnterOpen g := by
  unfold skipStep
  extract_lets u gr ops armed v w x r y
  have ended : y = u.skipEnded g met := rfl
  rw [ended]
  rfl

theorem skipCopied_only {s : State} {g : Nat} {met : StackReads} :
    OnlyChanges [.power, .buckets, .stack, .badUnits, .events, .stats, .maint] s (s.skipCopied g met) :=
  only_foldl .refl fun u d h => by
    dsimp only
    exact only_ite h (only_ite (flipSelector_only.step h (by decide)) (copyReleased_only.step h (by decide)))

theorem queue_of_queues {s t : State} (h : t.queues = s.queues) (q : Nat) : t.queue q = s.queue q := by
  unfold queue
  rw [h]

theorem group_of_groups {s t : State} (h : t.groups = s.groups) (g : Nat) : t.group g = s.group g := by
  unfold group
  rw [h]

theorem tryEnterOpen_otherQueues (s : State) (g : Nat) : OtherQueues g s (s.tryEnterOpen g) := by
  intro q hq
  unfold tryEnterOpen
  dsimp only
  split
  · split
    · exact refuseOpen_otherQueues _ _ q hq
    · exact queue_of_queues enterOpen_only.queues_eq q
  · rfl

/-- The state in which the entry of a skip close is made and the step's operations are done. -/
def skipEntered (s : State) (g : Nat) (met : StackReads) : State :=
  ((s.skipCopied g met).enterLedger g 8 0xFFF
    ((s.skipCopied g met).ringN g % 2 ^ 15 + (s.group g).table % 16 * 2 ^ 15 + 2 ^ 22)).endStepOps g 0x05 (s.stepOps g)

theorem skipEntered_group (s : State) (g : Nat) (met : StackReads) :
    OtherGroups g s (s.skipEntered g met) ∧ ShowsSame ((s.skipEntered g met).group g) (s.group g) := by
  have entered : GroupKeeps besideExchange g s (s.skipEntered g met) :=
    .trans (.of_only skipCopied_only) (.trans (enterLedger_beside _ _ _ _ _) (.of_only endStepOps_only))
  exact ⟨entered.1, .of_besideExchange entered.2⟩

theorem skipEntered_otherQueues (s : State) (g : Nat) (met : StackReads) : OtherQueues g s (s.skipEntered g met) :=
  fun q hq => (endStepOps_otherQueues _ _ _ _ q hq).trans
    (queue_of_queues (enterLedger_only.queues_eq.trans skipCopied_only.queues_eq) q)

theorem skipEnded_eq (s : State) (g : Nat) (met : StackReads) : s.skipEnded g met
    = ((s.skipEntered g met).freeStep g (((s.skipEntered g met).group g).record.map
        (fun r => { r with done := (s.skipEntered g met).now, state := .closed, abortCode := 0x05 }))).dropStepOps g
        (s.stepOps g) := rfl

theorem freeStep_group (s : State) (g : Nat) (r : Option StepRecord) : OtherGroups g s (s.freeStep g r)
    ∧ ((s.freeStep g r).group g).retained = [] ∧ ((s.freeStep g r).group g).record = none
    ∧ ((s.freeStep g r).group g).lastRecord = r ∧ ((s.freeStep g r).group g).step = (s.group g).step
    ∧ ((s.freeStep g r).group g).hold = (s.group g).hold ∧ ((s.freeStep g r).group g).rc = (s.group g).rc := by
  refine ⟨fun i hi => modGroup_group_other _ _ hi, ?_⟩
  unfold freeStep
  rw [modGroup_group]
  exact ⟨rfl, rfl, rfl, rfl, rfl, rfl⟩

/-- What a skip close brings its group. -/
structure SkipCloses (g : Nat) (s u : State) : Prop where
  state : (u.group g).state = .closed
  step : (u.group g).step = Nat.min ((s.group g).step + 1) stepMax
  record : (u.group g).record = none
  committed : (u.group g).lastRecord.map (·.abortCode) = (s.group g).record.map (fun _ => 0x05)
  retained : (u.group g).retained = []
  armed : (s.group g).rc.armed.isSome = true →
    (u.group g).hold = false ∧ (u.group g).rc.status = 2 ∧ (u.group g).rc.armed = none
  others : OtherGroups g s u
  queues : OtherQueues g s u

theorem skipClosed_closes (s : State) (g : Nat) (met : StackReads) : SkipCloses g s (s.skipClosed g met) := by
  obtain ⟨entered, same⟩ := s.skipEntered_group g met
  set r := ((s.skipEntered g met).group g).record.map
    (fun r => { r with done := (s.skipEntered g met).now, state := .closed, abortCode := 0x05 })
  obtain ⟨others, retained, record, committed, step, hold, rc⟩ := (s.skipEntered g met).freeStep_group g r
  have dropped : (s.skipEnded g met).groups = ((s.skipEntered g met).freeStep g r).groups := dropStepOps_only.groups_eq
  have group (i : Nat) : (s.skipEnded g met).group i = ((s.skipEntered g met).freeStep g r).group i :=
    group_of_groups dropped i
  have code : r.map (·.abortCode) = (s.group g).record.map (fun _ => 0x05) := by
    rw [← same.record]
    exact Option.map_map _ _ _
  unfold skipClosed
  exact {
    state := by rw [modGroup_group]
    step := by
      rw [modGroup_group]
      dsimp only
      rw [group, step, same.step]
    record := by
      rw [modGroup_group]
      dsimp only
      rw [group, record]
    committed := by
      rw [modGroup_group]
      dsimp only
      rw [group, committed, code]
    retained := by
      rw [modGroup_group]
      dsimp only
      rw [group, retained]
    armed := fun h => by
      rw [modGroup_group]
      dsimp only
      rw [h]
      exact ⟨Bool.and_false _, rfl, rfl⟩
    others := fun i hi =>
      (modGroup_group_other _ _ hi).trans ((group i).trans ((others i hi).trans (entered i hi)))
    queues := fun q hq => by
      have freed : ((s.skipEntered g met).freeStep g r).queue q = (s.skipEntered g met).queue q :=
        queue_of_queues freeStep_only.queues_eq q
      exact (dropStepOps_otherQueues _ _ _ q hq).trans (freed.trans (s.skipEntered_otherQueues g met q hq)) }

theorem skipStep_closes (s : State) (g : Nat) (met : StackReads) : SkipCloses g s (s.skipStep g met) := by
  have read : (s.readStack met).groups = s.groups := readStack_only.groups_eq
  have closed := (s.readStack met).skipClosed_closes g met
  have tried := ((s.readStack met).skipClosed g met).tryEnterOpen_keeps g
  have same := ShowsSame.of_besideOpen tried.2
  have group (i : Nat) : (s.readStack met).group i = s.group i := group_of_groups read i
  rw [skipStep_eq]
  exact {
    state := by rw [same.state, closed.state]
    step := by rw [same.step, closed.step, group]
    record := by rw [same.record, closed.record]
    committed := by rw [same.lastRecord, closed.committed, group]
    retained := by rw [same.retained, closed.retained]
    armed := fun h => by
      rw [same.hold, same.rc]
      exact closed.armed (by rw [group]; exact h)
    others := fun i hi => (tried.1 i hi).trans ((closed.others i hi).trans (group i))
    queues := fun q hq => (tryEnterOpen_otherQueues _ _ q hq).trans ((closed.queues q hq).trans
      (queue_of_queues readStack_only.queues_eq q)) }

/-! ### The end of an ARM -/

theorem endArm_group (s : State) (g : Nat) : OtherGroups g s (s.endArm g) ∧ (s.endArm g).group g
    = { s.group g with hold := false, rc := { (s.group g).rc with status := 2, armed := none } } :=
  ⟨modGroup_others _ _ _, modGroup_group _ _ _⟩

theorem leaveOut_group (s : State) (g table : Nat) : OtherGroups g s (s.leaveOut g table) ∧ (s.leaveOut g table).group g
    = { s.group g with table := table, hold := false, rc := { (s.group g).rc with status := 2, armed := none } } := by
  unfold leaveOut
  extract_lets m u
  have noted : u.groups = s.groups := by
    unfold u
    split <;> rfl
  obtain ⟨others, group⟩ := (u.modGroup g (fun x => { x with table := table })).endArm_group g
  refine ⟨fun i hi => (others i hi).trans ((modGroup_group_other _ _ hi).trans (group_of_groups noted i)), ?_⟩
  rw [group, modGroup_group, group_of_groups noted]

/-- The end of a contradicted ARM (R210). -/
theorem endConflict_keeps (s : State) (g : Nat) : OtherGroups g s (s.endConflict g)
    ∧ ShowsSame ((s.endConflict g).group g)
        { s.group g with hold := false, rc := { (s.group g).rc with status := 0, armed := none } } := by
  have tried := (s.modGroup g (fun x => { x with hold := false, rc := { x.rc with status := 0, armed := none } })).tryEnterOpen_keeps g
  refine ⟨otherGroups_trans (modGroup_others _ _ _) tried.1, .of_besideOpen (tried.2.trans ?_)⟩
  rw [modGroup_group]

/-! ### A decision under RECOVERY_CTRL (R352) -/

theorem modRecord_keeps (s : State) (g : Nat) (f : StepRecord → StepRecord) :
    GroupKeeps Group.rc g s (s.modRecord g f) := .modGroup

theorem modEntry_keepsRc (s : State) (g b c : Nat) (f : RecEntry → RecEntry) :
    GroupKeeps Group.rc g s (s.modEntry g b c f) := modRecord_keeps _ _ _

theorem release_keeps (s : State) (v : OpView) (c kind : Nat) : GroupKeeps Group.rc v.g s (s.release v c kind) := by
  have sent (b len addr : Nat) : GroupKeeps Group.rc v.g s (s.sendRelease v.g kind b c len addr) := by
    unfold sendRelease
    exact .trans (.of_groups rfl) .modGroup
  unfold release
  exact .ite .refl ((sent _ _ _).trans (modEntry_keepsRc _ _ _ _ _))

theorem abort_keepsRc (s : State) (g code chunk bucket : Nat) : GroupKeeps Group.rc g s (s.abort g code chunk bucket) :=
  ⟨(s.abort_keeps g code chunk bucket).1, (ShowsSame.of_besideExchange (s.abort_keeps g code chunk bucket).2).rc⟩

theorem residualLost_keeps (s : State) (g b c : Nat) (units : List Nat) :
    GroupKeeps Group.rc g s (s.residualLost g b c units) :=
  .trans (.of_only markBad_only) (.trans (.of_only stackUE_only) (abort_keepsRc _ _ _ _ _))

theorem retView_group {s : State} {g b c : Nat} {v : OpView} (h : s.retView g b c = some v) : v.g = g := by
  unfold retView at h
  simp only [Option.bind_eq_some_iff, Option.map_eq_some_iff] at h
  obtain ⟨r, -, l, -, d, -, o, -, rfl⟩ := h
  rfl

theorem lateRelease_keeps (s : State) (g : Nat) (met : List Nat) (x : Nat) : GroupKeeps Group.rc g s (s.lateRelease g met x) := by
  unfold lateRelease
  extract_lets b c
  split
  · rename_i v r hv _
    have hg : v.g = g := retView_group hv
    refine .ite .refl ?_
    have go (u : State) : GroupKeeps Group.rc g u (((u.addCounts g b r.ebbBay r.cove r.clip r.ovf).bumpG .lateRelease g 1).release v c 2) := by
      have counted : GroupKeeps Group.rc g u (u.addCounts g b r.ebbBay r.cove r.clip r.ovf) := .modGroup
      have released := release_keeps ((u.addCounts g b r.ebbBay r.cove r.clip r.ovf).bumpG .lateRelease g 1) v c 2
      rw [hg] at released
      exact (counted.trans (.of_only bumpG_only)).trans released
    refine .ite (go s) ?_
    unfold withRedelivery
    split
    · exact .ite (.trans (.of_only redeliver_only) (go _)) (residualLost_keeps _ _ _ _ _)
    · exact go s
  · exact .refl

theorem acknowledge_keeps (s : State) (g : Nat) (d : Decision) (met : List Nat) :
    GroupKeeps Group.rc g s (s.acknowledge g d met) := by
  unfold acknowledge
  extract_lets u v closed from_ code w x
  have released : GroupKeeps Group.rc g s v := .trans (.of_only zeroBadUnits_only) (.foldl (fun u x => lateRelease_keeps u g met x) _ _)
  have took : GroupKeeps Group.rc g v w := .modGroup
  have told : GroupKeeps Group.rc g w x :=
    .trans (modRecord_keeps w g fun r => { r with state := .recovering }) ((forgetLost_keeps _ g d).map Group.rc)
  exact ((released.trans took).trans told).trans ((sendMessage_keeps x g rAck _ []).map Group.rc)

theorem takeDecide_keeps {s : State} {g : Nat} {d : Decision} (agree : s.disagrees g d.action d.table d.tR = false)
    (met : List Nat) : GroupKeeps Group.rc g s (s.takeDecide g d met) := by
  unfold takeDecide
  extract_lets gr held
  rw [agree, if_neg Bool.false_ne_true]
  exact .ite .refl (.ite .refl (.ite .modGroup (acknowledge_keeps _ _ _ _)))

theorem disagrees_of_armed {s : State} {g : Nat} {a : Armed} (h : (s.group g).rc.armed = some a) (action table tR : Nat) :
    s.disagrees g action table tR = !agrees a action table tR := by
  unfold disagrees
  rw [h]

theorem agrees_self (a : Armed) : agrees a a.action a.table a.tR = true := by simp [agrees]

/-- The coordinator's own DECIDE agrees with the ARM that it carries out. -/
theorem sendDecide_keeps {s : State} {g : Nat} {a : Armed} (h : (s.group g).rc.armed = some a) :
    GroupKeeps Group.rc g s (s.sendDecide g a.action a.table a.tR) := by
  unfold sendDecide
  extract_lets set code blank u
  have sent : GroupKeeps Group.rc g s u := (sendMessage_keeps s g rDecide _ set).map Group.rc
  have armed : (u.group g).rc.armed = some a := by
    rw [← h]
    exact congrArg RecoveryCtrl.armed sent.2
  refine sent.trans (takeDecide_keeps ?_ [])
  rw [disagrees_of_armed armed, agrees_self]
  rfl

/-- What a write of RECOVERY_CTRL leaves in the register. -/
def ctrlWritten (s : State) (g v : Nat) : RecoveryCtrl :=
  { (s.group g).rc with
    action := field v 0 1, table := field v 1 4, skip := bitAt v 5
    conflict := (s.group g).rc.conflict && !bitAt v 11 }

/-- An ARM is taken (R352). -/
def ctrlTaken (s : State) (g v : Nat) : Bool :=
  let gr := s.group g
  let busy := gr.state == .recovering || (match gr.recovery.decision with | some d => d.acked | none => false)
  (gr.state == .aborted || s.heldBit g) && decide (s.now + 4096 ≤ gr.rc.tR)
    && (bitAt v 5 || (s.im.tableDesc (field v 1 4)).isSome) && !busy

theorem recoveryCtrl_unarmed {s : State} {g v : Nat} (h : bitAt v 8 = false) :
    s.recoveryCtrl g v = s.modGroup g (fun x => { x with rc := s.ctrlWritten g v }) := by
  unfold recoveryCtrl
  exact if_pos (by simp [h])

theorem recoveryCtrl_ignored {s : State} {g v : Nat} (h : bitAt v 8 = true) (bad : s.ctrlTaken g v = false) :
    s.recoveryCtrl g v = s.modGroup g (fun x => { x with rc := { s.ctrlWritten g v with status := 3 } }) := by
  unfold recoveryCtrl
  extract_lets gr rc
  rw [if_neg (by simp [h])]
  exact if_pos (congrArg (!·) bad)

/-- The state in which an ARM stands. -/
def ctrlArmed (s : State) (g v : Nat) : State :=
  s.modGroup g (fun x =>
    { x with rc := { s.ctrlWritten g v with status := 1, armed := some (armedNow (s.ctrlWritten g v)) } })

theorem recoveryCtrl_taken {s : State} {g v : Nat} (h : bitAt v 8 = true) (good : s.ctrlTaken g v = true) :
    s.recoveryCtrl g v = match (s.group g).recovery.decision with
      | some d => if agrees (armedNow (s.ctrlWritten g v)) d.action d.table d.tR then (s.ctrlArmed g v).takeDecide g d []
          else (s.ctrlArmed g v).conflict g d.action d.table
      | none => if (s.ctrlArmed g v).isCoordinator g then (s.ctrlArmed g v).sendDecide g
          (armedNow (s.ctrlWritten g v)).action (armedNow (s.ctrlWritten g v)).table (armedNow (s.ctrlWritten g v)).tR
        else s.ctrlArmed g v := by
  unfold recoveryCtrl
  extract_lets gr old rc busy ok
  rw [if_neg (by simp [h])]
  have taken : ok = true := good
  rw [taken, if_neg (by decide)]
  rfl

theorem ctrlArmed_group (s : State) (g v : Nat) : (s.ctrlArmed g v).group g = { s.group g with
    rc := { s.ctrlWritten g v with status := 1, armed := some (armedNow (s.ctrlWritten g v)) } } := modGroup_group _ _ _

/-! ### When T_R brings what (R211, R219, R222) -/

/-- The decision that an ARM stands for. -/
def armedDecision (a : Armed) : Decision :=
  { action := a.action, table := a.table, tR := a.tR, set := [], acked := false, code := 0 }

theorem decisionAt_acked {s : State} {g : Nat} {d : Decision} (h : (s.group g).recovery.decision = some d)
    (acked : d.acked = true) : s.decisionAt g = some d := by
  unfold decisionAt
  dsimp only
  rw [h]
  exact if_pos acked

theorem decisionAt_unacked {s : State} {g : Nat} {d : Decision} (h : (s.group g).recovery.decision = some d)
    (unacked : d.acked = false) : s.decisionAt g = none := by
  unfold decisionAt
  dsimp only
  rw [h]
  exact if_neg (by simp [unacked])

theorem decisionAt_armed {s : State} {g : Nat} {a : Armed} (none : (s.group g).recovery.decision = none)
    (h : (s.group g).rc.armed = some a) : s.decisionAt g = some (armedDecision a) := by
  unfold decisionAt
  dsimp only
  rw [none, h]
  rfl

theorem decisionAt_none {s : State} {g : Nat} (undecided : (s.group g).recovery.decision = none)
    (h : (s.group g).rc.armed = none) : s.decisionAt g = none := by
  unfold decisionAt
  dsimp only
  rw [undecided, h]
  rfl

/-- The members that a resume tide concerns: one that acknowledged it and has seen no further abort, one in ABORTED, but for
a diagnosis replay of a member that the table names, and one in CLOSED that is armed. -/
def resumeConcerns (s : State) (g : Nat) (d : Decision) : Prop :=
  ((s.group g).state = .recovering ∧ (s.group g).abort = none)
    ∨ ((s.group g).state = .aborted ∧ ((s.group g).diag.busy = false ∨ s.inRing g d.table = false))
    ∨ ((s.group g).state = .closed ∧ (s.group g).rc.armed.isSome = true)

theorem resumeDue_of_concerns {s : State} {g : Nat} {d : Decision} (h : s.decisionAt g = some d) (past : d.tR ≤ s.now)
    (resumes : d.action ≠ 2) (unopened : (s.group g).openAt = none) (concerns : s.resumeConcerns g d) :
    s.resumeDue g = true := by
  unfold resumeDue
  rw [h]
  obtain ⟨state, abort⟩ | ⟨state, free | away⟩ | ⟨state, armed⟩ := concerns
  · simp [past, resumes, unopened, state, abort]
  · simp [past, resumes, unopened, state, free]
  · simp [past, resumes, unopened, state, away]
  · simp [past, resumes, unopened, state, armed]

theorem resumeDue_future {s : State} {g : Nat} {d : Decision} (h : s.decisionAt g = some d) (future : s.now < d.tR) :
    s.resumeDue g = false := by
  unfold resumeDue
  rw [h]
  simp [Nat.not_le.mpr future]

theorem resumeDue_aborted {s : State} {g : Nat} (state : (s.group g).state = .recovering)
    (abort : (s.group g).abort.isSome = true) : s.resumeDue g = false := by
  have again : (s.group g).abort.isNone = false := by simp [← Option.not_isSome, abort]
  unfold resumeDue
  split
  · simp [state, again]
  · rfl

/-- A table comes with the resume tide only where the member takes its place in it. -/
theorem tableDue_of_away {s : State} {g : Nat} {d : Decision} (h : s.decisionAt g = some d)
    (state : (s.group g).state = .aborted) (away : s.inRing g d.table = false) : s.tableDue g = false := by
  unfold tableDue
  rw [h]
  simp [state, away]

theorem conflictDue_of_agrees {s : State} {g : Nat} {d : Decision} {a : Armed}
    (h : (s.group g).recovery.decision = some d) (unacked : d.acked = false) (free : (s.group g).recovery.heldDecide = false)
    (armed : (s.group g).rc.armed = some a) (differs : agrees a d.action d.table d.tR = false) (past : a.tR ≤ s.now) :
    s.conflictDue g (a.action == 2) = true := by
  unfold conflictDue
  simp [h, armed, unacked, free, differs, past]

theorem conflictDue_undecided {s : State} {g : Nat} (none : (s.group g).recovery.decision = none) (skip : Bool) :
    s.conflictDue g skip = false := by
  unfold conflictDue
  simp [none]

/-! ### What a member in ABORTED or CLOSED is given at T_R -/

/-- What an acknowledgement without releases leaves of the group. -/
structure Acknowledges (g : Nat) (s t : State) : Prop where
  state : (t.group g).state = .recovering
  fromState : (t.group g).recovery.fromState = if (s.group g).state == .closed then .closed else (s.group g).recovery.fromState
  step : (t.group g).step = (s.group g).step
  rc : (t.group g).rc = (s.group g).rc
  others : OtherGroups g s t
  now : t.now = s.now
  only : OnlyChanges [.ports, .groups, .stack, .badUnits, .events, .stats] s t

theorem acknowledge_acknowledges (s : State) (g : Nat) {d : Decision} (none : d.set = []) (met : List Nat) :
    Acknowledges g s (s.acknowledge g d met) := by
  obtain ⟨others, group⟩ := s.acknowledge_group g none met
  have only : OnlyChanges _ s (s.acknowledge g d met) := acknowledge_only_of_none none
  have fields {x y : Group} (h : besideCells x = besideCells y) : x.state = y.state
      ∧ x.recovery.fromState = y.recovery.fromState ∧ x.step = y.step ∧ x.rc = y.rc :=
    ⟨congrArg (·.state) h, congrArg (·.recovery.fromState) h, congrArg (·.step) h, congrArg (·.rc) h⟩
  obtain ⟨state, fromState, step, rc⟩ := fields group
  exact { state, fromState, step, rc, others, now := only.now_eq, only }

/-- A member in ABORTED or CLOSED whose armed table has a place for it acknowledges the decision and goes on. -/
theorem takeResume_joins {s : State} {g : Nat} {d : Decision} (state : (s.group g).state ≠ .recovering)
    (place : s.inRing g d.table = true) : s.takeResume g d = (s.acknowledge g d []).resumeAt g d := by
  unfold takeResume
  cases h : (s.group g).state
  case recovering => exact absurd h state
  all_goals exact if_pos place

/-- Where it goes on, it enters the OPEN from RECOVERING, out of HOLD and with STATUS 2. -/
theorem takeResume_armed {s : State} {g : Nat} {a : Armed} (armed : (s.group g).rc.armed = some a)
    (place : s.inRing g a.table = true)
    (go : ((s.group g).state = .aborted ∧ (s.group g).recovery.fromState ≠ .closed)
      ∨ ((s.group g).state = .closed ∧ (s.group g).step ≠ stepMax)) :
    let u := s.takeResume g (armedDecision a)
    (u.group g).table = a.table ∧ (u.group g).state = .recovering ∧ (u.group g).openAt = some s.now
      ∧ (u.group g).hold = false ∧ (u.group g).rc.status = 2 ∧ (u.group g).rc.armed = none ∧ OtherGroups g s u
      ∧ OnlyChanges [.power, .ports, .groups, .buckets, .stack, .badUnits, .blockCount, .blockRx, .events, .stats,
          .maint] s u := by
  have away : (s.group g).state ≠ .recovering := by
    obtain ⟨h, -⟩ | ⟨h, -⟩ := go <;> rw [h] <;> exact StepState.noConfusion
  have acks := s.acknowledge_acknowledges g (d := armedDecision a) rfl []
  have goes : ((s.acknowledge g (armedDecision a) []).group g).recovery.fromState ≠ .closed
      ∨ ((s.acknowledge g (armedDecision a) []).group g).step ≠ stepMax := by
    rw [acks.fromState, acks.step]
    obtain ⟨state, fromState⟩ | ⟨-, step⟩ := go
    · rw [state]
      exact .inl fromState
    · exact .inr step
  have resumes := resumeAt_resumes goes (armedDecision a)
  obtain ⟨hold, status, ended⟩ := resumes.armed (by rw [acks.rc, armed]; rfl)
  intro u
  have hu : u = (s.acknowledge g (armedDecision a) []).resumeAt g (armedDecision a) := takeResume_joins away place
  rw [hu]
  exact ⟨resumes.table, resumes.state.trans acks.state, resumes.openAt.trans (congrArg some acks.now), hold, status, ended,
    otherGroups_trans acks.others resumes.others, resumes.only.trans' (acks.only.mono (by decide))⟩

theorem takeResume_stays {s : State} {g : Nat} {d : Decision} (state : (s.group g).state = .aborted)
    (away : s.inRing g d.table = false) : s.takeResume g d = s.endArm g := by
  unfold takeResume
  rw [state]
  exact if_neg (by simp [away])

theorem takeResume_leaves {s : State} {g : Nat} {d : Decision} (state : (s.group g).state = .closed)
    (away : s.inRing g d.table = false) : s.takeResume g d = s.leaveOut g d.table := by
  unfold takeResume
  rw [state]
  exact if_neg (by simp [away])

theorem takeSkip_decided {s : State} {g : Nat} (state : (s.group g).state = .recovering) (abort : (s.group g).abort = none)
    (d : Decision) (met : StackReads) : s.takeSkip g d met = s.skipStep g met := by
  unfold takeSkip
  extract_lets gr
  rw [if_pos (by simp [gr, state]), if_pos (by simp [gr, abort])]

theorem takeSkip_aborted {s : State} {g : Nat} (state : (s.group g).state = .recovering)
    (abort : (s.group g).abort.isSome = true) (d : Decision) (met : StackReads) : s.takeSkip g d met = s := by
  unfold takeSkip
  extract_lets gr
  rw [if_pos (by simp [gr, state]), if_neg (by simpa [gr] using Option.isSome_iff_ne_none.mp abort)]

theorem takeSkip_armed {s : State} {g : Nat} (armed : (s.group g).rc.armed.isSome = true) (member : s.member g = true)
    (stands : ((s.group g).state = .aborted ∧ (s.group g).diag.busy = false) ∨ (s.group g).state = .closed)
    (d : Decision) (met : StackReads) : s.takeSkip g d met = (s.acknowledge g d []).skipStep g met := by
  unfold takeSkip
  extract_lets gr
  obtain ⟨state, idle⟩ | state := stands
  · rw [if_neg (by simp [gr, state]), if_neg (by simp [member]), if_pos (by simp [gr, state, idle])]
  · rw [if_neg (by simp [gr, state]), if_neg (by simp [member]), if_pos (by simp [gr, state, armed])]

theorem takeSkip_outside {s : State} {g : Nat} (armed : (s.group g).rc.armed.isSome = true) (outside : s.member g = false)
    (state : (s.group g).state ≠ .recovering) (d : Decision) (met : StackReads) : s.takeSkip g d met = s.endArm g := by
  unfold takeSkip
  extract_lets gr
  rw [if_neg (by simpa [gr] using state), if_pos (by simp [outside]), if_pos armed]

/-! ### A write of RECOVERY_CTRL -/

theorem closed_of_heldBit {s : State} {g : Nat} (h : s.heldBit g = true) : (s.group g).state = .closed := by
  unfold heldBit at h
  simp only [Bool.and_eq_true, beq_iff_eq] at h
  exact h.1.1

/-- An ARM is taken for an ABORTED group or one held in CLOSED, not yet decided, in time, whose table exists or is not
used. -/
theorem ctrlTaken_of {s : State} {g v : Nat} (stands : (s.group g).state = .aborted ∨ s.heldBit g = true)
    (early : s.now + 4096 ≤ (s.group g).rc.tR)
    (table : bitAt v 5 = true ∨ (s.im.tableDesc (field v 1 4)).isSome = true)
    (undecided : ∀ d, (s.group g).recovery.decision = some d → d.acked = false) : s.ctrlTaken g v = true := by
  have away : (s.group g).state ≠ .recovering := by
    obtain h | h := stands
    · rw [h]
      exact StepState.noConfusion
    · rw [closed_of_heldBit h]
      exact StepState.noConfusion
  have free : (match (s.group g).recovery.decision with | some d => d.acked | none => false) = false := by
    split
    · rename_i d hd
      exact undecided d hd
    · rfl
  have stood : ((s.group g).state == .aborted || s.heldBit g) = true := by simpa using stands
  have known : (bitAt v 5 || (s.im.tableDesc (field v 1 4)).isSome) = true := by simpa using table
  unfold ctrlTaken
  dsimp only
  rw [stood, known, free, decide_eq_true early, beq_false_of_ne away]
  rfl

/-- An ARM in another state, too late, once decided, or for a table that does not exist, is refused. -/
theorem ctrlTaken_refused {s : State} {g v : Nat}
    (h : s.now + 4096 > (s.group g).rc.tR ∨ (s.group g).state = .recovering ∨ (s.group g).state = .exchange
      ∨ (s.group g).state = .released ∨ (s.group g).state = .applied
      ∨ ((s.group g).state = .closed ∧ s.heldBit g = false)
      ∨ (∃ d, (s.group g).recovery.decision = some d ∧ d.acked = true)
      ∨ (bitAt v 5 = false ∧ s.im.tableDesc (field v 1 4) = none)) : s.ctrlTaken g v = false := by
  have unheld (away : (s.group g).state ≠ .closed) : s.heldBit g = false :=
    Bool.eq_false_iff.mpr fun held => away (closed_of_heldBit held)
  unfold ctrlTaken
  obtain late | state | state | state | state | ⟨state, free⟩ | ⟨d, decision, acked⟩ | ⟨used, none⟩ := h
  · simp [Nat.not_le.mpr late]
  · simp [state]
  · simp [state, unheld (by rw [state]; exact StepState.noConfusion)]
  · simp [state, unheld (by rw [state]; exact StepState.noConfusion)]
  · simp [state, unheld (by rw [state]; exact StepState.noConfusion)]
  · simp [state, free]
  · simp [decision, acked]
  · simp [used, none]

theorem conflict_group (s : State) (g action table : Nat) : OtherGroups g s (s.conflict g action table)
    ∧ (s.conflict g action table).group g = { s.group g with rc := { (s.group g).rc with conflict := true } } := by
  unfold conflict
  extract_lets u
  have raised (e : Event) : ((u.bump .recoveryConflict).raise e).groups = u.groups :=
    raise_only.groups_eq.trans bump_only.groups_eq
  exact ⟨fun i hi => (group_of_groups (raised _) i).trans (modGroup_group_other _ _ hi),
    (group_of_groups (raised _) g).trans (modGroup_group _ _ _)⟩

/-- An event that is not folded has a record of its own (R387). -/
theorem raise_mem {s : State} {e : Event} (h : coalesces e = false) : { e with tide := s.eventTide } ∈ (s.raise e).events := by
  have single : coalesces { e with tide := s.eventTide } = false := h
  unfold raise
  dsimp only
  rw [single, if_neg (by simp)]
  exact List.mem_append_right _ (List.mem_singleton_self _)

theorem conflict_event (s : State) (g action table : Nat) :
    ∃ e ∈ (s.conflict g action table).events, e.type = 0x0012 ∧ e.group = some g :=
  ⟨_, raise_mem rfl, rfl, rfl⟩

/-- Where nothing is decided, the ARM stands as it was written (R352). -/
theorem recoveryCtrl_arms {s : State} {g v : Nat} (arm : bitAt v 8 = true) (taken : s.ctrlTaken g v = true)
    (undecided : (s.group g).recovery.decision = none) : OtherGroups g s (s.recoveryCtrl g v)
      ∧ ((s.recoveryCtrl g v).group g).rc
        = { s.ctrlWritten g v with status := 1, armed := some (armedNow (s.ctrlWritten g v)) } := by
  have group := s.ctrlArmed_group g v
  have armed : ((s.ctrlArmed g v).group g).rc.armed = some (armedNow (s.ctrlWritten g v)) := by rw [group]
  rw [recoveryCtrl_taken arm taken, undecided]
  have kept : GroupKeeps Group.rc g (s.ctrlArmed g v) (if (s.ctrlArmed g v).isCoordinator g
      then (s.ctrlArmed g v).sendDecide g (armedNow (s.ctrlWritten g v)).action (armedNow (s.ctrlWritten g v)).table
        (armedNow (s.ctrlWritten g v)).tR
      else s.ctrlArmed g v) := .ite (sendDecide_keeps armed) .refl
  exact ⟨otherGroups_trans (modGroup_others _ _ _) kept.1, kept.2.trans (by rw [group])⟩

/-- A decision that the ARM contradicts stays, and the conflict shows (R210). -/
theorem recoveryCtrl_conflicts {s : State} {g v : Nat} {d : Decision} (arm : bitAt v 8 = true)
    (taken : s.ctrlTaken g v = true) (decision : (s.group g).recovery.decision = some d)
    (differs : agrees (armedNow (s.ctrlWritten g v)) d.action d.table d.tR = false) :
    s.recoveryCtrl g v = (s.ctrlArmed g v).conflict g d.action d.table := by
  rw [recoveryCtrl_taken arm taken, decision]
  exact if_neg (by simp [differs])

/-- An ARM that differs from a DECIDE in its action, its table where one is used, or its tide, disagrees with it. -/
theorem not_agrees_of {a : Armed} {d : Decision}
    (h : d.action ≠ a.action ∨ (d.action ≠ 2 ∧ d.table ≠ a.table) ∨ d.tR ≠ a.tR) :
    agrees a d.action d.table d.tR = false := by
  unfold agrees
  obtain action | ⟨used, table⟩ | tide := h
  · simp [action.symm]
  · simp [used, table.symm]
  · simp [tide.symm]

end State

/-! ### The commands -/

section

variable {s : State} {g : Nat} {d : Decision}

theorem whenRunning_rests {f : State → State} (h : f s = s) : whenRunning s f = .next s := by
  unfold whenRunning
  rw [h, ite_self]

theorem exec_resumeTide_takes (run : s.running = true) (h : s.decisionAt g = some d) (due : s.resumeDue g = true)
    (free : s.tableDue g = true → s.effectsDue = false) :
    exec (.resumeTide g) s = .next (s.takeResume g d).settle := by
  show execResumeTide g s = _
  unfold execResumeTide
  rw [whenRunning_run run, h]
  refine congrArg _ (if_pos ?_)
  cases table : s.tableDue g with
  | false => simp [due]
  | true => simp [due, free table]

theorem exec_resumeTide_rests (h : s.decisionAt g = some d)
    (rests : s.resumeDue g = false ∨ (s.tableDue g = true ∧ s.effectsDue = true)) : exec (.resumeTide g) s = .next s := by
  show execResumeTide g s = _
  unfold execResumeTide
  refine whenRunning_rests ?_
  dsimp only
  rw [h]
  refine if_neg ?_
  obtain rests | ⟨table, effects⟩ := rests
  · simp [rests]
  · simp [table, effects]

theorem exec_skipClose_takes {met : StackReads} (run : s.running = true) (h : s.decisionAt g = some d) (past : d.tR ≤ s.now)
    (skips : d.action = 2) : exec (.skipClose ⟨g, met⟩) s = .next (s.takeSkip g d met) := by
  show execSkipClose ⟨g, met⟩ s = _
  unfold execSkipClose
  rw [whenRunning_run run, h]
  exact congrArg _ (if_pos (by simp [past, skips]))

theorem exec_skipClose_rests {met : StackReads} (h : s.decisionAt g = some d)
    (rests : s.now < d.tR ∨ s.takeSkip g d met = s) : exec (.skipClose ⟨g, met⟩) s = .next s := by
  show execSkipClose ⟨g, met⟩ s = _
  unfold execSkipClose
  refine whenRunning_rests ?_
  dsimp only
  rw [h]
  dsimp only
  obtain future | same := rests
  · exact if_neg (by simp [Nat.not_le.mpr future])
  · rw [same, ite_self]

theorem exec_resumeTide_misses (run : s.running = true) (undecided : (s.group g).recovery.decision = none)
    (unarmed : (s.group g).rc.armed = none) (state : (s.group g).state = .aborted) (missed : s.missedResume g = true)
    (first : (s.group g).recovery.timedOut = false) : exec (.resumeTide g) s
      = .next ((s.modGroup g (fun x => { x with recovery := { x.recovery with timedOut := true } })).bump .recoveryTimeout) := by
  show execResumeTide g s = _
  unfold execResumeTide
  rw [whenRunning_run run, State.decisionAt_none undecided unarmed]
  refine congrArg _ ((if_neg ?_).trans (if_pos ?_))
  · rw [State.conflictDue_undecided undecided]
    decide
  · simp [state, undecided, missed, first]

/-- At the resume tide, of either kind, of an ARM that a DECIDE contradicts, HOLD alone ends (R210). -/
theorem exec_endsConflict {a : Armed} {c : Instr} {met : StackReads} (run : s.running = true)
    (decision : (s.group g).recovery.decision = some d) (unacked : d.acked = false)
    (due : s.conflictDue g (a.action == 2) = true)
    (which : (c = .resumeTide g ∧ a.action ≠ 2) ∨ (c = .skipClose ⟨g, met⟩ ∧ a.action = 2)) :
    exec c s = .next (s.endConflict g) := by
  have found := State.decisionAt_unacked decision unacked
  obtain ⟨rfl, action⟩ | ⟨rfl, action⟩ := which
  · have due' : s.conflictDue g false = true := by rw [beq_false_of_ne action] at due; exact due
    show execResumeTide g s = _
    unfold execResumeTide
    rw [whenRunning_run run, found]
    exact congrArg _ (if_pos due')
  · have skips : (a.action == 2) = true := by rw [action]; rfl
    have due' : s.conflictDue g true = true := by rw [skips] at due; exact due
    show execSkipClose ⟨g, met⟩ s = _
    unfold execSkipClose
    rw [whenRunning_run run, found]
    exact congrArg _ (if_pos due')

theorem exec_recoveryCtrlArm {tag : Nat} (run : s.running = true) (view : s.tagPriv tag = true) (hg : g < 256)
    (v : Word32) : exec (.recoveryCtrlArm tag g v) s = .next ((s.touch tag).recoveryCtrl g v.toNat) := by
  have reached : (fun s : State => s.asGroup tag g 0x20 (fun s => s.recoveryCtrl g v.toNat))
      = fun s => s.asPriv tag (State.groupReg g 0x20) true (fun s => s.recoveryCtrl g v.toNat) :=
    funext fun s => if_neg (by omega)
  show whenRunning s (fun s => s.asGroup tag g 0x20 (fun s => s.recoveryCtrl g v.toNat)) = _
  rw [reached, State.whenRunning_asPriv run view]

end

/-- Settles O46: T_R by what the member holds, a decision or an ARM; RECOVERY_CTRL by whether its ARM is taken. -/
theorem decisionsAreArmedAndTaken : Obligations.DecisionsAreArmedAndTaken := by
  unfold Obligations.DecisionsAreArmedAndTaken
  refine ⟨⟨?decided, ?armed, ?missed, ?waits, ?aborted, ?conflict, ?skips, ?armedSkip, ?early⟩, ?ctrl⟩
  case decided =>
    intro g d s run state abort decision acked past resumes unopened free
    have found := State.decisionAt_acked decision acked
    have step := exec_resumeTide_takes run found
      (State.resumeDue_of_concerns found past resumes unopened (.inl ⟨state, abort⟩)) free
    have takes : s.takeResume g d = s.resumeAt g d := by
      unfold State.takeResume
      rw [state]
    rw [takes] at step
    refine ⟨fun go => ?_, fun closed last => ?_⟩
    · have u := State.resumeAt_resumes (d := d) go
      exact ⟨_, step, u.table, u.openAt, u.decision, u.step, u.state.trans state, u.others, u.only⟩
    · have u := State.resumeAt_refused (d := d) closed last
      exact ⟨_, step, u.state, u.openAt.trans unopened, u.refused, u.step, u.others, u.queues, u.only⟩
  case armed =>
    intro g a s run undecided armed past resumes unopened
    have found := State.decisionAt_armed undecided armed
    have isArmed : (s.group g).rc.armed.isSome = true := by rw [armed]; rfl
    have takes (concerns : s.resumeConcerns g (State.armedDecision a)) :=
      exec_resumeTide_takes run found (State.resumeDue_of_concerns found past resumes unopened concerns)
    refine ⟨fun state idle place free fromState => ?_, fun state place free last => ?_, fun state away => ?_,
      fun state away free => ?_⟩
    · exact ⟨_, takes (.inr (.inl ⟨state, .inl idle⟩)) free, State.takeResume_armed armed place (.inl ⟨state, fromState⟩)⟩
    · exact ⟨_, takes (.inr (.inr ⟨state, isArmed⟩)) free, State.takeResume_armed armed place (.inr ⟨state, last⟩)⟩
    · have step := takes (.inr (.inl ⟨state, .inr away⟩)) fun due =>
        absurd due (by rw [State.tableDue_of_away found state away]; decide)
      rw [State.takeResume_stays state away] at step
      exact ⟨_, step, (s.endArm_group g).2, (s.endArm_group g).1, State.endArm_only⟩
    · have step := takes (.inr (.inr ⟨state, isArmed⟩)) free
      rw [State.takeResume_leaves state away] at step
      exact ⟨_, step, (s.leaveOut_group g _).2, (s.leaveOut_group g _).1, State.leaveOut_only⟩
  case missed =>
    intro g s run undecided unarmed state missed first
    have bumped : ((s.modGroup g (fun x => { x with recovery := { x.recovery with timedOut := true } })).bump
        .recoveryTimeout).groups = _ := State.bump_only.groups_eq
    refine ⟨_, exec_resumeTide_misses run undecided unarmed state missed first, ?_, ?_, ?_, fun i hi => ?_, ?_⟩
    · rw [State.group_of_groups bumped, State.modGroup_group]
    · rw [State.group_of_groups bumped, State.modGroup_group]
      exact state
    · exact State.bumpBy_stats_congr (State.modGroup_only .stats (by decide)) _ _
    · rw [State.group_of_groups bumped, State.modGroup_group_other _ _ hi]
    · exact State.bump_only.step (State.modGroup_only.mono (by decide)) (by decide)
  case waits =>
    intro g s table effects
    obtain ⟨d, found⟩ : ∃ d, s.decisionAt g = some d := by
      cases h : s.decisionAt g with
      | none => simp [State.tableDue, h] at table
      | some d => exact ⟨d, rfl⟩
    exact exec_resumeTide_rests found (.inr ⟨table, effects⟩)
  case aborted =>
    intro g d met s run state decision acked abort
    have found := State.decisionAt_acked decision acked
    exact ⟨exec_resumeTide_rests found (.inl (State.resumeDue_aborted state abort)),
      exec_skipClose_rests found (.inr (State.takeSkip_aborted state abort d met))⟩
  case conflict =>
    intro g d a c met s run decision unacked free armed differs past which
    have step := exec_endsConflict run decision unacked
      (State.conflictDue_of_agrees decision unacked free armed differs past) which
    obtain ⟨others, same⟩ := s.endConflict_keeps g
    refine ⟨_, step, same.hold, ?_, ?_, same.state, same.step, others, State.endConflict_only⟩
    · rw [same.rc]
    · rw [same.rc]
  case skips =>
    intro g d met s run state abort decision acked past action
    have found := State.decisionAt_acked decision acked
    have step := exec_skipClose_takes (met := met) run found past action
    rw [State.takeSkip_decided state abort] at step
    have closes := s.skipStep_closes g met
    exact ⟨_, step, closes.state, closes.step, closes.record, closes.committed, closes.retained, closes.others, closes.queues,
      State.skipStep_only⟩
  case armedSkip =>
    intro g a met s run undecided armed past action
    have found := State.decisionAt_armed undecided armed
    have isArmed : (s.group g).rc.armed.isSome = true := by rw [armed]; rfl
    have step := exec_skipClose_takes (met := met) run found past action
    refine ⟨fun member stands => ?_, fun outside state => ?_⟩
    · rw [State.takeSkip_armed isArmed member stands] at step
      have acks := s.acknowledge_acknowledges g (d := State.armedDecision a) rfl []
      have closes := (s.acknowledge g (State.armedDecision a) []).skipStep_closes g met
      obtain ⟨hold, status, ended⟩ := closes.armed (by rw [acks.rc]; exact isArmed)
      refine ⟨_, step, closes.state, ?_, closes.record, hold, status, ended,
        State.otherGroups_trans acks.others closes.others, fun q hq => ?_, ?_⟩
      · rw [closes.step, acks.step]
        rfl
      · rw [closes.queues q hq, State.queue_of_queues acks.only.queues_eq]
      · exact State.skipStep_only.step (acks.only.mono (by decide)) (by decide)
    · rw [State.takeSkip_outside isArmed outside state] at step
      exact ⟨_, step, (s.endArm_group g).2, (s.endArm_group g).1, State.endArm_only⟩
  case early =>
    intro g d met s found future
    exact ⟨exec_resumeTide_rests found (.inl (State.resumeDue_future found future)), exec_skipClose_rests found (.inl future)⟩
  case ctrl =>
    intro tag g v s run view hg
    have step := exec_recoveryCtrlArm run view hg v
    have touched : OnlyChanges [.host] s (s.touch tag) := State.touch_only
    refine ⟨fun plain => ?_, fun arm stands early table => ⟨fun undecided => ?_, fun d decision unacked differs => ?_⟩,
      fun arm refused => ?_⟩
    · rw [State.recoveryCtrl_unarmed plain] at step
      exact ⟨_, step, State.modGroup_group _ _ _, State.modGroup_others (s.touch tag) _ _,
        State.modGroup_only.step (touched.mono (by decide)) (by decide)⟩
    · have taken : (s.touch tag).ctrlTaken g v.toNat = true :=
        State.ctrlTaken_of (s := s) stands early table fun d decided => by rw [undecided] at decided; cases decided
      obtain ⟨others, rc⟩ := State.recoveryCtrl_arms (s := s.touch tag) arm taken undecided
      refine ⟨_, step, ?_, ?_, ?_, others, State.recoveryCtrl_only.step (touched.mono (by decide)) (by decide)⟩
      · rw [rc]
      · rw [rc]
        rfl
      · rw [rc]
        rfl
    · have taken : (s.touch tag).ctrlTaken g v.toNat = true :=
        State.ctrlTaken_of (s := s) stands early table fun e decided => by
          rw [decision] at decided
          cases decided
          exact unacked
      have contradicts : State.agrees (State.armedNow ((s.touch tag).ctrlWritten g v.toNat)) d.action d.table d.tR = false :=
        State.not_agrees_of differs
      rw [State.recoveryCtrl_conflicts (s := s.touch tag) arm taken decision contradicts] at step
      obtain ⟨others, group⟩ := ((s.touch tag).ctrlArmed g v.toNat).conflict_group g d.action d.table
      rw [State.ctrlArmed_group] at group
      refine ⟨_, step, ?_, ?_, ?_, State.conflict_event _ _ _ _,
        State.otherGroups_trans (State.modGroup_others (s.touch tag) _ _) others,
        State.conflict_only.step (State.modGroup_only.step (touched.mono (by decide)) (by decide)) (by decide)⟩
      · rw [group]
      · rw [group]
        rfl
      · rw [group]
        rfl
    · have bad : (s.touch tag).ctrlTaken g v.toNat = false := State.ctrlTaken_refused (s := s) refused
      rw [State.recoveryCtrl_ignored arm bad] at step
      refine ⟨_, step, ?_, ?_, ?_, State.modGroup_others (s.touch tag) _ _,
        State.modGroup_only.step (touched.mono (by decide)) (by decide)⟩
      · rw [State.modGroup_group]
      · rw [State.modGroup_group]
        rfl
      · rw [State.modGroup_group]
        rfl

end Sys2Proof.Machine

end

/-! ## A slot of two groups: the frames of a tide boundary

The clause on VC0 slots fails where two groups run under two alternates. An alternate keeps the slots of the groups that it
does not change (R212), and so leaves free only those of table 0: the slots that two alternates give to two groups may be the
same. The first run that covers such a slot then says its VC, while the other run has a waiting TRANSFER cell placed in it. -/

section

namespace Sys2Proof.Machine

set_option Elab.async false

open Sys2Proof

/-! ### Two groups under two alternates -/

namespace Crossing

/-- A run of one slot that a group sends in on port 0. -/
def slotRun (slot vc group : Nat) : ImgRun :=
  { first := slot, count := 1, vc := vc, use := 0, group := group, rail := 0, bay := 0, dir := 0, port := 0 }

def block (table : Nat) (runs : List ImgRun) : ImgBlock :=
  { table := table, cls := 0, stackLoad := 0, lMax := [], bayLoad := [], runs := runs }

def chip (number partner serial : Nat) : ImgChip :=
  { chip := number, cls := 0, timePrimary := 0xFF, timeBackup := 0xFF, serial := serial, mapHash := []
    ports := [⟨partner, 1, 1⟩, ⟨partner, 0, 1⟩] }

def ring (group : Nat) : ImgRing :=
  { group := group, table := 0, n := 2, rails := 1, hG := 0, wait := 0, members := [⟨100, [0]⟩, ⟨101, [0]⟩] }

/-- Group 0 has the VC0 slot 16 and the VC1 slot 40, group 1 the VC1 slot 24; table 1 moves group 0's VC0 slot to 32 and
table 2 moves group 1's VC1 slot there. The runs of no table overlap. -/
def image : Image :=
  { chips := [chip 100 101 7, chip 101 100 8]
    tables := [⟨0, true, 0, []⟩, ⟨1, true, 1, []⟩, ⟨2, true, 2, []⟩]
    blocks := [block 0 [slotRun 16 0 0, slotRun 24 1 1, slotRun 40 1 0],
               block 1 [slotRun 24 1 1, slotRun 32 0 0, slotRun 40 1 0],
               block 2 [slotRun 16 0 0, slotRun 32 1 1, slotRun 40 1 0]]
    groups := [⟨0, 0, false, 0, 0⟩, ⟨1, 0, false, 0, 0⟩]
    rings := [ring 0, ring 1] }

/-- A port in scheduled service whose neighbour is chip 101. -/
def facing (port : Nat) : PortState :=
  { link := .service, nb := { state := .accepted, chip := 101, serial := 8, port := port, role := 1 } }

/-- A TRANSFER cell of group 0. -/
def transfer : CellFields := { type := 3, vc := 1, cls := 0, group := 0, ref := 0, seq := 0, payload := [], last := true }

/-- Chip 100 with group 0 under table 1 and group 1 under table 2; a TRANSFER cell of group 0 waits on port 0, which sends
the tide frame. -/
def crossed : State :=
  { State.reset with
    ident := { serial := 7, hallChip := 100 }
    image := { active := { image := some image } }
    ports := [(0, { facing 1 with tideFrame := true, vc1 := [(0, transfer)] }), (1, facing 0)]
    groups := [(0, { established := true, table := 1 }), (1, { established := true, table := 2 })] }

theorem slot_is_vc0 : (crossed.runAt 0 0 32).map (·.vc) = some 0 := by decide

theorem sent_first : ∃ ports, (List.range 24).filter (fun p => (crossed.port p).tideFrame) = 0 :: ports := ⟨[], by decide⟩

/-- The TRANSFER cell takes slot 32, the 24th of those after slot 7. -/
theorem slot_holds_transfer : (crossed.frameSlotsOf 0 true).2[24]?.bind List.head? = some 0x13 := by decide +kernel

end Crossing

/-! ### What goes out of a frame's contents -/

/-- A cell goes out with the first byte of its content, which names its type and VC (R245). -/
theorem fillCell_head {a : Byte} {b : Bytes} (h : b.head? = some a) (x : Nat) (r : Option (Nat × Nat)) :
    (fillCell b x r).head? = some a := by
  obtain ⟨rest, rfl⟩ := List.head?_eq_some_iff.mp h
  rfl

theorem fillFrame_getD {contents : List Bytes} {k : Nat} {c : Bytes} (h : contents[k]? = some c) (swash : List Nat)
    (again : List (Nat × Nat × Nat)) : ∃ x r, (fillFrame contents swash again).getD k [] = fillCell c x r :=
  ⟨_, _, by simp [fillFrame, List.getD, List.getElem?_zipIdx, h]; rfl⟩

namespace State

/-- A port's frame is one output, whose cells from slot 8 on are those that the port's slots are filled with. -/
theorem sendFrame_out (s : State) (p : Nat) (tide : Bool) : ∃ n cells line,
    (s.sendFrame p tide).out = s.out ++ [.frame p tide n cells line]
      ∧ ∀ k c, (s.frameSlotsOf p tide).2[k]? = some c → ∃ x r, cells.getD (8 + k) [] = fillCell c x r := by
  have kept : (s.frameSlotsOf p tide).1.out = s.out := (frameSlotsOf_only (u := s)) .out (by decide)
  refine ⟨_, _, _, congrArg (· ++ _) kept, fun k c h => fillFrame_getD ?_ _ _⟩
  rw [Nat.add_comm, List.getElem?_cons_succ, List.getElem?_append_right (by simp)]
  simpa using h

/-- Later frames come after those sent before. -/
theorem sendFrame_foldl_out (ports : List Nat) (s : State) :
    ∃ after, (ports.foldl (fun s p => if (s.port p).tideFrame then s.sendFrame p true else s) s).out = s.out ++ after := by
  induction ports generalizing s with
  | nil => exact ⟨[], (List.append_nil _).symm⟩
  | cons p ports ih =>
    obtain ⟨after, h⟩ := ih (if (s.port p).tideFrame then s.sendFrame p true else s)
    rw [List.foldl_cons, h]
    split
    · obtain ⟨_, _, _, sent, _⟩ := s.sendFrame_out p true
      exact ⟨_, by rw [sent, List.append_assoc]⟩
    · exact ⟨after, rfl⟩

/-- Where port 0 is in the tide frame, its frame is the first that a boundary sends. -/
theorem sendFrames_first (s : State) (h : (s.port 0).tideFrame = true) :
    ∃ after, s.sendFrames.out = (s.sendFrame 0 true).out ++ after := by
  have first : s.sendFrames = ((List.range' 1 23).foldl
      (fun s p => if (s.port p).tideFrame then s.sendFrame p true else s) (s.sendFrame 0 true)) := by
    rw [sendFrames, show List.range 24 = 0 :: List.range' 1 23 from rfl, List.foldl_cons, if_pos h]
  rw [first]
  exact sendFrame_foldl_out _ _

end State

/-- Refutes O5: on the boundary that ends the tide of `Crossing.crossed`, slot 32 of port 0, which its first run gives to VC0
and in which no cell was placed, goes out with group 0's TRANSFER cell instead of an idle one. -/
theorem not_tideBoundaryPassesTime : ¬ Obligations.TideBoundaryPassesTime := by
  rintro ⟨-, frames, -⟩
  obtain ⟨f, out, clauses⟩ := frames Crossing.crossed
  obtain ⟨cells, line, frame, -, -, -, vc0⟩ := clauses 0 (by decide) rfl
  obtain ⟨x, r, idle⟩ := vc0 32 (by decide) (by decide) Crossing.slot_is_vc0
  obtain ⟨_, cells', _, sent, filled⟩ := Crossing.crossed.sendFrame_out 0 true
  obtain ⟨after, first⟩ := Crossing.crossed.sendFrames_first rfl
  obtain ⟨ports, listed⟩ := Crossing.sent_first
  have same : cells' = cells := by
    rw [first, sent, listed, List.append_assoc, List.append_cancel_left_eq, List.map_cons, frame] at out
    injection (List.cons.inj out).1
  obtain ⟨c, slot, head⟩ := Option.bind_eq_some_iff.mp Crossing.slot_holds_transfer
  obtain ⟨y, q, goesOut⟩ := filled 24 c slot
  have transferOut := fillCell_head head y q
  rw [← goesOut, same, idle] at transferOut
  have idleOut := fillCell_head (b := idleCell 0) (a := 0) (by decide) x r
  exact absurd (idleOut.symm.trans transferOut) (by decide)

end Sys2Proof.Machine

end

/-! ## What is written reads back

Bytes stand at a place of other bytes when they are what those go on with there. A cell, a payload of blocks, a list and stored
residuals are all records behind one another, so each reads back by saying at which place its record stands. -/

section

namespace Sys2Proof.Machine

set_option Elab.async false

open Sys2Proof

/-! ### Bytes at a place -/

/-- `m` stands in `b` from offset `off` on. -/
def StandsAt (b : Bytes) (off : Nat) (m : Bytes) : Prop := m <+: b.drop off

namespace StandsAt

variable {b m : Bytes} {off : Nat}

theorem slice (h : StandsAt b off m) : (b.drop off).take m.length = m := (List.prefix_iff_eq_take.mp h).symm

theorem rd_length (h : StandsAt b off m) : rd b off m.length = leNat m := by rw [rd, h.slice]

/-- A little-endian number reads back as what its bytes can hold (R5). -/
theorem rd {n v : Nat} (h : StandsAt b off (leBytes n v)) : rd b off n = v % 256 ^ n := by
  have read := h.rd_length
  rwa [leBytes_length, leNat_leBytes] at read

theorem trans {k : Nat} {x : Bytes} (h : StandsAt b off m) (hx : StandsAt m k x) : StandsAt b (off + k) x := by
  have inner := List.IsPrefix.trans hx (List.IsPrefix.drop h k)
  rwa [List.drop_drop] at inner

theorem left {x y : Bytes} (h : StandsAt b off (x ++ y)) : StandsAt b off x := (List.prefix_append x y).trans h

theorem right {x y : Bytes} (h : StandsAt b off (x ++ y)) : StandsAt b (off + x.length) y := by
  have behind := List.IsPrefix.drop h x.length
  rwa [List.drop_left, List.drop_drop] at behind

/-- What is padded stands at the front. -/
theorem padTo {n : Nat} (h : m.length ≤ n) : StandsAt (padTo n m) 0 m := by
  unfold StandsAt Machine.padTo
  rw [List.take_of_length_le h]
  exact List.prefix_append _ _

theorem whole : StandsAt m 0 m := List.prefix_rfl

/-- Of records of one size behind one another, the j-th stands at j sizes. -/
theorem flatMap {α : Type} {f : α → Bytes} {w : Nat} {l : List α} (hw : ∀ x ∈ l, (f x).length = w) {j : Nat} {x : α}
    (hx : l[j]? = some x) : StandsAt (l.flatMap f) (w * j) (f x) := by
  induction l generalizing j with
  | nil => cases hx
  | cons y l ih =>
    rw [List.flatMap_cons]
    cases j with
    | zero =>
      cases hx
      exact whole.left
    | succ j =>
      have behind := whole (m := f y ++ l.flatMap f).right.trans (ih (fun z hz => hw z (List.mem_cons_of_mem _ hz)) hx)
      rwa [hw y List.mem_cons_self, Nat.zero_add, Nat.add_comm, ← Nat.mul_succ] at behind

end StandsAt

/-! ### Bit fields as quotients -/

theorem field_eq (w lo n : Nat) : field w lo n = w / 2 ^ lo % 2 ^ n := by
  rw [field, Nat.shiftRight_eq_div_pow]

theorem bitAt_eq (w i : Nat) : bitAt w i = decide (w / 2 ^ i % 2 = 1) := by
  rw [bitAt, Nat.shiftRight_eq_div_pow]
  rfl

theorem bnat_bitAt (w i : Nat) : bnat (bitAt w i) = w / 2 ^ i % 2 := by
  rw [bitAt_eq, bnat]
  split <;> simp_all

@[simp] theorem bnat_true : bnat true = 1 := rfl
@[simp] theorem bnat_false : bnat false = 0 := rfl

theorem bnat_le (b : Bool) : bnat b ≤ 1 := by cases b <;> decide

theorem bitAt_of_div {w i : Nat} {b : Bool} (h : w / 2 ^ i % 2 = bnat b) : bitAt w i = b := by
  rw [bitAt_eq, h]
  cases b <;> rfl

/-! ### Express messages (R158) -/

theorem readMsg_msgWord {m : Msg} (hk : m.kind < 16) (hg : m.group < 256) (ht : m.tag < 2 ^ 14) (ho : m.op < 16)
    (hv : m.value < 2 ^ 32) : readMsg (msgWord m) = m := by
  obtain ⟨kind, lap, flag, group, tag, op, value⟩ := m
  have := bnat_le lap
  have := bnat_le flag
  simp only [readMsg, msgWord, field_eq, BitVec.toNat_ofNat, Msg.mk.injEq] at *
  exact ⟨by omega, bitAt_of_div (by omega), bitAt_of_div (by omega), by omega, by omega, by omega, by omega⟩

theorem msgWord_readMsg (w : Word64) : msgWord (readMsg w) = w := by
  have := w.isLt
  apply BitVec.eq_of_toNat_eq
  simp only [msgWord, readMsg, field_eq, bnat_bitAt, BitVec.toNat_ofNat]
  omega

/-! ### Cells (R244, R245, R248) -/

/-- Every field of a cell lies within its width, and the payload fills its place. -/
structure CellFields.Fits (c : CellFields) : Prop where
  type    : c.type < 16
  vc      : c.vc < 4
  cls     : c.cls < 4
  group   : c.group < 256
  ref     : c.ref < 2 ^ 18
  seq     : c.seq < 2 ^ 14
  swash   : c.swash < 2 ^ 64
  payload : c.payload.length = 224
  ledger  : c.ledger < 2 ^ 64
  tally   : c.tally < 2 ^ 15
  again   : ∀ slot tide, c.again = some (slot, tide) → slot < 2 ^ 10 ∧ tide < 4

/-- A cell with its payload and ledger word as one run of bytes. -/
def framed (head : Bytes) (swash : Nat) (body : Bytes) (flags : Nat) : Bytes :=
  withCrc (head ++ leBytes 8 swash ++ body ++ leBytes 4 flags)

theorem mkCell_eq_framed (c : CellFields) :
    mkCell c = framed (controlBytes c) c.swash (padTo 224 c.payload ++ leBytes 8 c.ledger) (flagsWord c) := by
  simp [mkCell, framed]

section

variable {head body : Bytes} (hh : head.length = 8) (hb : body.length = 232) (swash flags : Nat)

include hh hb

theorem framed_content : (framed head swash body flags).take 248 = head ++ leBytes 8 swash ++ body := by
  have len : (head ++ leBytes 8 swash ++ body).length = 248 := by simp [hh, hb]
  rw [framed, withCrc, List.append_assoc _ (leBytes 4 flags), List.take_left' len]

theorem framed_head : (framed head swash body flags).take 8 = head := by
  have content := congrArg (List.take 8) (framed_content hh hb swash flags)
  rwa [List.take_take, List.append_assoc, List.take_left' hh] at content

theorem framed_body : ((framed head swash body flags).drop 16).take 232 = body := by
  have len : (head ++ leBytes 8 swash).length = 16 := by simp [hh]
  have content := congrArg (List.drop 16) (framed_content hh hb swash flags)
  rwa [List.drop_take, List.drop_left' len] at content

theorem framed_flags : StandsAt (framed head swash body flags) 248 (leBytes 4 flags) := by
  have behind := (StandsAt.whole (m := framed head swash body flags)).left.right
  simpa [hh, hb] using behind

end

/-- What the flags word holds is below its reserved bits. -/
theorem flagsWord_parts (c : CellFields) : flagsWord c
    = c.tally % 2 ^ 15 + repeatBits c.again + (bnat c.retx + 2 * bnat c.last) * 2 ^ 28 := by
  unfold flagsWord
  omega

theorem repeatBits_lt (r : Option (Nat × Nat)) : repeatBits r < 2 ^ 28 ∧ repeatBits r % 2 ^ 15 = 0 := by
  cases r with
  | none => decide
  | some x =>
    obtain ⟨slot, tide⟩ := x
    simp only [repeatBits]
    omega

theorem flagsWord_lt (c : CellFields) : flagsWord c < 256 ^ 4 := by
  have bits := repeatBits_lt c.again
  have := bnat_le c.retx
  have := bnat_le c.last
  rw [flagsWord_parts]
  omega

section

variable (c : CellFields)

theorem mkCell_flags : rd (mkCell c) 248 4 = flagsWord c := by
  rw [mkCell_eq_framed, (framed_flags (by simp) (by simp) _ _).rd, Nat.mod_eq_of_lt (flagsWord_lt c)]

/-- A cell that goes out is the cell of its fields with the swash field and the repeat request due then (R171, R175). -/
theorem fillCell_mkCell (swash : Nat) (again : Option (Nat × Nat)) :
    fillCell (mkCell c) swash again = mkCell { c with swash := swash, again := again } := by
  have flags : flagsWord c % 2 ^ 15 + repeatBits again + flagsWord c / 2 ^ 28 * 2 ^ 28
      = flagsWord { c with swash := swash, again := again } := by
    have bits := repeatBits_lt c.again
    simp only [flagsWord_parts]
    omega
  unfold fillCell
  rw [mkCell_flags]
  dsimp only
  rw [flags, mkCell_eq_framed, mkCell_eq_framed, framed_head (by simp) (by simp),
    framed_body (by simp) (by simp)]
  rfl

/-- A cell sent again is the cell of its fields with RETX (R176). -/
theorem asRepeat_mkCell : asRepeat (mkCell c) = mkCell { c with retx := true } := by
  have flags : flagsWord c - bnat (bitAt (flagsWord c) 28) * 2 ^ 28 + 2 ^ 28 = flagsWord { c with retx := true } := by
    have bits := repeatBits_lt c.again
    have retx := bnat_le c.retx
    simp only [bnat_bitAt, flagsWord_parts, bnat_true]
    omega
  unfold asRepeat
  rw [mkCell_flags]
  dsimp only
  rw [flags, mkCell_eq_framed, mkCell_eq_framed, framed_content (by simp) (by simp)]
  rfl

/-- The parts of a cell at their places (R244, R245). -/
theorem mkCell_stands : StandsAt (mkCell c) 0 (leBytes 6 (controlLow c)) ∧ StandsAt (mkCell c) 8 (leBytes 8 c.swash)
    ∧ StandsAt (mkCell c) 16 (padTo 224 c.payload) ∧ StandsAt (mkCell c) 240 (leBytes 8 c.ledger) := by
  have whole := (StandsAt.whole (m := mkCell c)).left.left
  have payload := whole.left.right
  have ledger := whole.right
  have swash := whole.left.left.right
  simp only [List.length_append, leBytes_length, padTo_length, controlBytes_length] at payload ledger swash
  exact ⟨whole.left.left.left.left, swash, payload, ledger⟩

end

theorem repeatOf_mkCell {c : CellFields} (h : c.Fits) : repeatOf (mkCell c) = c.again := by
  have range := h.again
  have := bnat_le c.retx
  have := bnat_le c.last
  unfold repeatOf
  rw [mkCell_flags, flagsWord_parts]
  generalize c.again = again at range
  dsimp only
  cases again with
  | none =>
    rw [repeatBits, bitAt_of_div (b := false)]
    · rfl
    · rw [bnat_false]
      omega
  | some x =>
    obtain ⟨slot, tide⟩ := x
    obtain ⟨hslot, htide⟩ := range slot tide rfl
    rw [repeatBits, bitAt_of_div (b := true), if_pos rfl]
    · simp only [field_eq, Option.some.injEq, Prod.mk.injEq]
      omega
    · rw [bnat_true]
      omega

theorem readCell_mkCell {c : CellFields} (h : c.Fits) : readCell (mkCell c) = c := by
  obtain ⟨control, swash, payload, ledger⟩ := mkCell_stands c
  have bits := repeatBits_lt c.again
  have := bnat_le c.retx
  have := bnat_le c.last
  have stays := payload.slice
  rw [padTo_length, padTo_of_length h.payload] at stays
  unfold readCell
  rw [repeatOf_mkCell h, mkCell_flags, control.rd, swash.rd, ledger.rd, stays]
  obtain ⟨htype, hvc, hcls, hgroup, href, hseq, hswash, -, hledger, htally, -⟩ := h
  cases c
  simp only [field_eq, flagsWord_parts, controlLow, CellFields.mk.injEq] at *
  refine ⟨by omega, by omega, by omega, by omega, by omega, by omega, by omega, trivial, by omega, by omega, trivial,
    bitAt_of_div (by omega), bitAt_of_div (by omega)⟩

end Sys2Proof.Machine

end

/-! ## Outlier entries read back (R72, R79, R102)

A value rounded to bfloat16 is a count of at most 256 units of one power of two. Where that unit is coarser than the
accumulator's, the rounded value is whole in units of the accumulator; where it is finer, nothing was rounded. So no entry
that an encoder forms is malformed. -/

section

namespace Sys2Proof.Machine

set_option Elab.async false

open Sys2Proof

/-! ### bfloat16 codes -/

/-- The value of a bfloat16 code without its sign. -/
def bf16Size (c : Nat) : Dy := ⟨if c < 128 then c else 128 + c % 128, (max (c / 128) 1 : Nat) - 134⟩

theorem bf16_decode {c : Nat} (h : c ≤ 32639) (s : Bool) :
    bf16.decode (c + bnat s * 2 ^ 15) = some (if s then (bf16Size c).neg else bf16Size c) := by
  have := bnat_le s
  have exponent : field (c + bnat s * 2 ^ 15) 7 8 = c / 128 := by rw [field_eq]; omega
  have fraction : field (c + bnat s * 2 ^ 15) 0 7 = c % 128 := by rw [field_eq]; omega
  have sign : bitAt (c + bnat s * 2 ^ 15) 15 = s := bitAt_of_div (by omega)
  have finite : c / 128 ≠ 2 ^ 8 - 1 := by omega
  simp only [Fmt.decode, bf16, exponent, fraction, sign, if_neg finite]
  by_cases hc : c < 128
  · have zero : c / 128 = 0 := by omega
    have low : c % 128 = c := by omega
    cases s <;> simp [bf16Size, Dy.neg, zero, hc, low]
  · have pos : c / 128 ≠ 0 := by omega
    have unit : max (c / 128) 1 = c / 128 := by omega
    rw [if_neg pos]
    cases s <;> simp [bf16Size, Dy.neg, hc, unit] <;> omega

theorem bf16Size_le (c : Nat) : (bf16Size c).m.natAbs ≤ 255 := by
  unfold bf16Size
  dsimp only
  split <;> omega

/-- The code of `n` units of 2^(k − 133). -/
theorem bf16Size_units {k n : Nat} (hn : n ≤ 256) (hk : k = 0 ∨ 128 ≤ n) :
    bf16Size (k * 128 + n) = if n = 256 then ⟨128, (k : Int) - 132⟩ else ⟨n, (k : Int) - 133⟩ := by
  unfold bf16Size
  by_cases h : n = 256
  · subst h
    rw [if_pos rfl, if_neg (by omega), Dy.mk.injEq]
    omega
  · rw [if_neg h]
    by_cases hc : k * 128 + n < 128
    · rw [if_pos hc, Dy.mk.injEq]
      omega
    · rw [if_neg hc, Dy.mk.injEq]
      omega

/-! ### Rounding to bfloat16 (R73) -/

/-- The exponent of the unit that a · 2^e is rounded to. -/
def bf16Unit (a : Nat) (e : Int) : Int := max ((Nat.log2 a : Int) + e - 7) (-133)

/-- How many of these units a · 2^e is rounded to. -/
def bf16Count (a : Nat) (e : Int) : Nat :=
  if e < bf16Unit a e then (2 * a + 2 ^ (bf16Unit a e - e).toNat) / (2 * 2 ^ (bf16Unit a e - e).toNat)
  else a * 2 ^ (e - bf16Unit a e).toNat

/-- The code of a · 2^e without its sign, before saturation. -/
def bf16Code (a : Nat) (e : Int) : Nat := (bf16Unit a e + 133).toNat * 128 + bf16Count a e

theorem roundAwayDiv_natCast (a d : Nat) : roundAwayDiv a d = ((2 * a + d) / (2 * d) : Nat) := by
  unfold roundAwayDiv
  rw [Int.natAbs_natCast, if_neg (by omega)]

theorem roundAwayDiv_one (a : Int) : roundAwayDiv a 1 = a := by
  unfold roundAwayDiv
  dsimp only
  split <;> omega

/-- The count of units, as the rounding takes it. -/
theorem bf16Count_eq (x : Dy) :
    (if x.e - bf16Unit x.m.natAbs x.e < 0
      then roundAwayDiv x.m.natAbs (1 * 2 ^ (-(x.e - bf16Unit x.m.natAbs x.e)).toNat)
      else roundAwayDiv (x.m.natAbs * 2 ^ (x.e - bf16Unit x.m.natAbs x.e).toNat) 1) = (bf16Count x.m.natAbs x.e : Int) := by
  unfold bf16Count
  by_cases hu : x.e < bf16Unit x.m.natAbs x.e
  · rw [if_pos (by omega), if_pos hu, Nat.one_mul, roundAwayDiv_natCast, Int.neg_sub]
  · rw [if_neg (by omega), if_neg hu, roundAwayDiv_one]
    push_cast
    rfl

theorem bf16_round {x : Dy} (h : x.m ≠ 0) :
    ∃ s, (bf16.round x).code = min (bf16Code x.m.natAbs x.e) 32639 + bnat s * 2 ^ 15
      ∧ (bf16.round x).sat = decide (32639 < bf16Code x.m.natAbs x.e) := by
  have top : ¬ x.m.natAbs < 1 * 2 ^ (Nat.log2 x.m.natAbs) := by
    have := Nat.log2_self_le (n := x.m.natAbs) (by omega)
    omega
  have pos : bf16Unit x.m.natAbs x.e + 133 = ((bf16Unit x.m.natAbs x.e + 133).toNat : Int) := by
    have : -133 ≤ bf16Unit x.m.natAbs x.e := le_max_right _ _
    omega
  unfold Fmt.round Fmt.roundQuot
  extract_lets a la below t q sh mant code sat c
  have hla : la = (Nat.log2 x.m.natAbs : Int) := by
    show (Nat.log2 x.m.natAbs : Int) - Nat.log2 1 = _
    rw [show Nat.log2 1 = 0 by decide, Int.ofNat_zero, Int.sub_zero]
  have hbelow : below = false := by
    show (if la < 0 then _ else decide (x.m.natAbs < 1 * 2 ^ la.toNat)) = false
    rw [if_neg (by omega), hla, Int.toNat_natCast, decide_eq_false top]
  have hq : q = bf16Unit x.m.natAbs x.e := by
    show max ((if below then la - 1 else la) + x.e - ((7 : Nat) : Int)) (1 - 127 - ((7 : Nat) : Int)) = _
    rw [hbelow, if_neg Bool.false_ne_true, hla]
    rfl
  have hmant : mant = bf16Count x.m.natAbs x.e := by
    rw [← bf16Count_eq, ← hq]
  have hcode : code = bf16Code x.m.natAbs x.e := by
    show ((q + ((7 : Nat) : Int) + 127 - 1) * 2 ^ 7 + mant).toNat = _
    rw [hq, hmant, bf16Code]
    omega
  have hsat : sat = decide (32639 < bf16Code x.m.natAbs x.e) := by rw [← hcode]; rfl
  have hc : c = min (bf16Code x.m.natAbs x.e) 32639 := by
    show (if sat then 32639 else code) = _
    rw [hsat, hcode]
    generalize bf16Code x.m.natAbs x.e = n
    simp only [decide_eq_true_eq]
    split <;> omega
  rw [if_neg (Int.natAbs_ne_zero.mpr h), hc, hsat]
  refine ⟨decide (x.m < 0 ∧ min (bf16Code x.m.natAbs x.e) 32639 ≠ 0), ?_, rfl⟩
  have hsign : bf16.signBit = 2 ^ 15 := by decide
  dsimp only
  rw [hsign]
  generalize min (bf16Code x.m.natAbs x.e) 32639 = n
  by_cases zero : n = 0
  · simp [zero]
  · by_cases minus : x.m < 0 <;> simp [zero, minus]

theorem bf16Count_le (a : Nat) (e : Int) : bf16Count a e ≤ 256 := by
  have large : a < 2 ^ (Nat.log2 a + 1) := Nat.lt_log2_self
  have unit : (Nat.log2 a : Int) + e - 7 ≤ bf16Unit a e := le_max_left _ _
  unfold bf16Count
  split
  · obtain ⟨k, hk⟩ : ∃ k : Nat, (bf16Unit a e - e).toNat = k := ⟨_, rfl⟩
    rw [hk]
    have : a < 2 ^ 8 * 2 ^ k := large.trans_le (by rw [← pow_add]; exact Nat.pow_le_pow_right (by decide) (by omega))
    have pos : 0 < 2 ^ k := Nat.two_pow_pos k
    rw [Nat.div_le_iff_le_mul_add_pred (by omega)]
    omega
  · have : a * 2 ^ (e - bf16Unit a e).toNat < 2 ^ (Nat.log2 a + 1) * 2 ^ (e - bf16Unit a e).toNat :=
      Nat.mul_lt_mul_of_pos_right large (Nat.two_pow_pos _)
    rw [← pow_add] at this
    exact (this.trans_le (Nat.pow_le_pow_right (by decide) (by omega) : _ ≤ 2 ^ 8)).le

theorem bf16Count_ge {a : Nat} (ha : a ≠ 0) {e : Int} (h : bf16Unit a e ≠ -133) : 128 ≤ bf16Count a e := by
  have small : 2 ^ Nat.log2 a ≤ a := Nat.log2_self_le ha
  have unit : bf16Unit a e = (Nat.log2 a : Int) + e - 7 := by unfold bf16Unit at h ⊢; omega
  unfold bf16Count
  split
  · obtain ⟨k, hk⟩ : ∃ k : Nat, (bf16Unit a e - e).toNat = k := ⟨_, rfl⟩
    rw [hk]
    have : 2 ^ 7 * 2 ^ k ≤ a := le_trans (by rw [← pow_add]; exact Nat.pow_le_pow_right (by decide) (by omega)) small
    have pos : 0 < 2 ^ k := Nat.two_pow_pos k
    rw [Nat.le_div_iff_mul_le (by omega)]
    omega
  · calc 128 = 2 ^ 7 := rfl
      _ ≤ 2 ^ (Nat.log2 a + (e - bf16Unit a e).toNat) := Nat.pow_le_pow_right (by decide) (by omega)
      _ = 2 ^ Nat.log2 a * 2 ^ (e - bf16Unit a e).toNat := pow_add _ _ _
      _ ≤ _ := Nat.mul_le_mul_right _ small

/-! ### Whole values -/

/-- A value that is an integer. -/
def Dy.Whole (x : Dy) : Prop := ∀ k : Nat, x.e = -(k : Int) → (2 ^ k : Int) ∣ x.m

theorem Dy.Whole.neg {x : Dy} (h : x.Whole) : x.neg.Whole := fun k hk => (h k hk).neg_right

/-- What is whole stays so in a finer unit. -/
theorem Dy.Whole.finer {x : Dy} {j k : Int} (h : (x.scale j).Whole) (hjk : j ≤ k) : (x.scale k).Whole := fun n hn => by
  have := h (n + (k - j).toNat) (by simp only [Dy.scale] at hn ⊢; omega)
  exact (pow_dvd_pow 2 (Nat.le_add_right n _)).trans this

theorem Dy.whole_of_nonneg {x : Dy} (h : 0 ≤ x.e) : x.Whole := fun k hk => by
  obtain rfl : k = 0 := by omega
  exact one_dvd _

/-- What is not saturated is whole in units that the rounded value was whole in. -/
theorem bf16Size_whole {a : Nat} (ha : a ≠ 0) (e : Int) : ((bf16Size (bf16Code a e)).scale (-e)).Whole := by
  have unit : -133 ≤ bf16Unit a e := le_max_right _ _
  rw [bf16Code, bf16Size_units (bf16Count_le a e)
    (if h : bf16Unit a e = -133 then .inl (by omega) else .inr (bf16Count_ge ha h))]
  by_cases fine : e < bf16Unit a e
  · split
    · exact Dy.whole_of_nonneg (by simp only [Dy.scale]; omega)
    · exact Dy.whole_of_nonneg (by simp only [Dy.scale]; omega)
  · have exact : bf16Count a e = a * 2 ^ (e - bf16Unit a e).toNat := by rw [bf16Count, if_neg fine]
    split
    · rename_i full
      intro k hk
      simp only [Dy.scale] at hk ⊢
      have twice : (a * 2 ^ k) * 2 = 128 * 2 := by
        rw [show 128 * 2 = bf16Count a e from full.symm, exact, show (e - bf16Unit a e).toNat = k + 1 by omega, pow_succ,
          Nat.mul_assoc]
      exact ⟨a, by have := Nat.mul_right_cancel (by decide) twice; zify at this; rw [← this, mul_comm]⟩
    · intro k hk
      simp only [Dy.scale] at hk ⊢
      rw [exact, show (e - bf16Unit a e).toNat = k by omega]
      exact ⟨a, by push_cast; rw [mul_comm]⟩

/-- A value rounded to bfloat16 reads back as a finite value, which is whole where the value was and nothing saturated. -/
theorem bf16_round_reads (x : Dy) : ∃ v, bf16.decode (bf16.round x).code = some v ∧ (bf16.round x).code < 2 ^ 16
    ∧ v.m.natAbs ≤ 255 ∧ ((bf16.round x).sat = false → (v.scale (-x.e)).Whole) := by
  by_cases h : x.m = 0
  · have zero : bf16.round x = ⟨0, false, false⟩ := by rw [Fmt.round, Fmt.roundQuot, h]; rfl
    rw [zero]
    exact ⟨_, rfl, by decide, by decide, fun _ _ _ => dvd_zero _⟩
  · obtain ⟨s, code, sat⟩ := bf16_round h
    have finite : min (bf16Code x.m.natAbs x.e) 32639 ≤ 32639 := min_le_right _ _
    have := bnat_le s
    refine ⟨_, by rw [code]; exact bf16_decode finite s, by omega, ?_, fun unsat => ?_⟩
    · split
      · exact (Int.natAbs_neg _).trans_le (bf16Size_le _)
      · exact bf16Size_le _
    · have whole := bf16Size_whole (Int.natAbs_ne_zero.mpr h) x.e
      rw [sat, decide_eq_false_iff_not, not_lt] at unsat
      rw [min_eq_left unsat]
      split
      · exact whole.neg
      · exact whole

theorem bf16_value {c : Nat} {v : Dy} (h : bf16.decode c = some v) : bf16.value c = v := by rw [Fmt.value, h]; rfl

theorem natAbs_roundAwayDiv_le (a : Int) {d : Nat} (hd : 0 < d) : (roundAwayDiv a d).natAbs ≤ a.natAbs + 1 := by
  have : (2 * a.natAbs + d) / (2 * d) ≤ a.natAbs + 1 := by
    apply Nat.div_le_of_le_mul
    nlinarith [Nat.mul_le_mul_right a.natAbs hd]
  unfold roundAwayDiv
  generalize (2 * a.natAbs + d) / (2 * d) = q at this
  dsimp only
  split <;> omega

theorem Dy.round_zero {x : Dy} (h : x.m = 0) : x.round = 0 := by
  unfold Dy.round roundAwayDiv
  rw [h]
  split
  · have pos := Nat.two_pow_pos (-x.e).toNat
    have none : (2 * Int.natAbs 0 + 2 ^ (-x.e).toNat) / (2 * 2 ^ (-x.e).toNat) = 0 :=
      Nat.div_eq_of_lt (by simp only [Int.natAbs_zero]; omega)
    rw [none]
    rfl
  · exact Int.zero_mul _

/-! ### Outlier entries (R72, R79, R104) -/

/-- A value of at most the cap is small in units of the accumulator. -/
theorem round_le_of_cap {et : Int} (hl : -128 ≤ et) (hu : et ≤ 127) {v : Dy} (hm : v.m.natAbs ≤ 255)
    (hc : (outlierCap et).lt v.abs = false) : (v.scale (40 - et)).round.natAbs ≤ 2 ^ 57 := by
  have cap : v.m.natAbs * 2 ^ (v.e - min (et + 8) 120).toNat ≤ 255 := by
    by_cases above : min (et + 8) 120 ≤ v.e
    · simp only [outlierCap, Dy.lt, Dy.abs, Dy.inUnits, min_eq_left above, decide_eq_false_iff_not, not_lt, sub_self,
        Int.toNat_zero, pow_zero, mul_one] at hc
      exact_mod_cast hc
    · rw [show (v.e - min (et + 8) 120).toNat = 0 by omega, pow_zero, mul_one]
      exact hm
  unfold Dy.round
  split
  · exact (natAbs_roundAwayDiv_le _ (Nat.two_pow_pos _)).trans (by simp only [Dy.scale]; omega)
  · simp only [Dy.scale]
    rw [Int.natAbs_mul, Int.natAbs_pow, show Int.natAbs 2 = 2 from rfl]
    calc v.m.natAbs * 2 ^ (v.e + (40 - et)).toNat
      _ ≤ v.m.natAbs * 2 ^ ((v.e - min (et + 8) 120).toNat + 48) :=
        Nat.mul_le_mul_left _ (Nat.pow_le_pow_right (by decide) (by omega))
      _ = v.m.natAbs * 2 ^ (v.e - min (et + 8) 120).toNat * 2 ^ 48 := by rw [pow_add, mul_assoc]
      _ ≤ 255 * 2 ^ 48 := Nat.mul_le_mul_right _ cap
      _ ≤ 2 ^ 57 := by decide

/-- The cap is a bfloat16 value. -/
theorem bf16_round_cap {et : Int} (hl : -128 ≤ et) {x : Dy} (hm : x.m.natAbs = 255) (he : x.e = min (et + 8) 120) :
    (bf16.round x).sat = false ∧ (outlierCap et).lt (bf16.value (bf16.round x).code).abs = false := by
  have log : Nat.log2 255 = 7 := by decide
  have unit : bf16Unit 255 x.e = x.e := by unfold bf16Unit; rw [log]; omega
  have count : bf16Count 255 x.e = 255 := by unfold bf16Count; rw [unit, if_neg (lt_irrefl _), sub_self]; rfl
  have code : bf16Code 255 x.e ≤ 32639 := by unfold bf16Code; rw [unit, count]; omega
  obtain ⟨s, hcode, hsat⟩ := bf16_round (x := x) (by omega)
  rw [hm] at hcode hsat
  rw [min_eq_left code] at hcode
  refine ⟨hsat.trans (decide_eq_false (by omega)), ?_⟩
  have size : bf16Size (bf16Code 255 x.e) = ⟨255, x.e⟩ := by
    rw [bf16Code, unit, count, bf16Size_units (by decide) (.inr (by decide)), if_neg (by decide), Dy.mk.injEq]
    omega
  have magnitude : (bf16.value (bf16.round x).code).abs = outlierCap et := by
    rw [hcode, bf16_value (bf16_decode code s), size, outlierCap, ← he]
    cases s <;> rfl
  rw [magnitude, Dy.lt]
  exact decide_eq_false (lt_irrefl _)

/-- The value of an entry is a rounded value within the cap, in a unit not below the accumulator's. -/
theorem mkOutlier_rounds {et : Int} (hl : -128 ≤ et) (hu : et ≤ 127) (i : Nat) (a : Int) : ∃ x,
    (mkOutlier et i a).1.value = (bf16.round x).code ∧ et - 40 ≤ x.e ∧ (bf16.round x).sat = false
      ∧ (outlierCap et).lt (bf16.value (bf16.round x).code).abs = false := by
  unfold mkOutlier
  extract_lets x r cap capped code v back
  by_cases h : capped = true
  · have value : code = (bf16.round (if a < 0 then cap.neg else cap)).code := if_pos h
    have size : (if a < 0 then cap.neg else cap).m.natAbs = 255 := by split <;> rfl
    have unit : (if a < 0 then cap.neg else cap).e = min (et + 8) 120 := by split <;> rfl
    exact ⟨_, value, by omega, bf16_round_cap hl size unit⟩
  · have value : code = r.code := if_neg h
    have within : r.sat = false ∧ cap.lt (bf16.value r.code).abs = false := by
      rw [Bool.not_eq_true, Bool.or_eq_false_iff] at h
      exact h
    exact ⟨x, value, le_refl _, within⟩

/-- An entry's value reads back as a whole number of the accumulator's units, which a sum of the wide accumulator can hold. -/
theorem mkOutlier_reads {et : Int} (hl : -128 ≤ et) (hu : et ≤ 127) (i : Nat) (a : Int) : ∃ v,
    (mkOutlier et i a).1.value < 2 ^ 16 ∧ bf16.decode (mkOutlier et i a).1.value = some v ∧ (v.scale (40 - et)).Whole
      ∧ (mkOutlier et i a).2 = (v.scale (40 - et)).round ∧ (v.scale (40 - et)).round.natAbs ≤ 2 ^ 57 := by
  obtain ⟨x, value, unit, unsat, within⟩ := mkOutlier_rounds hl hu i a
  obtain ⟨v, decodes, code, size, whole⟩ := bf16_round_reads x
  have back : (mkOutlier et i a).2 = ((bf16.value (mkOutlier et i a).1.value).scale (40 - et)).round := rfl
  rw [bf16_value decodes] at within
  rw [back, value, bf16_value decodes]
  exact ⟨v, code, decodes, (whole unsat).finer (by omega), rfl, round_le_of_cap hl hu size within⟩

theorem mkOutlier_index (et : Int) (i : Nat) (a : Int) : (mkOutlier et i a).1.index = i := rfl

/-- The bits of an entry (R72). -/
def outlierWord (o : OutEntry) : Nat := o.index + o.value * 2 ^ 20 + bnat o.rounded * 2 ^ 36 + bnat o.sat * 2 ^ 37

theorem leNat_outlierBytes (o : OutEntry) : leNat (outlierBytes o) = outlierWord o % 256 ^ 5 := leNat_leBytes 5 _

/-- An entry reads back as the position and the value that its encoder took from it. -/
theorem readOutlier_outlierBytes {et : Int} (hl : -128 ≤ et) (hu : et ≤ 127) {i span : Nat} (a : Int) (hi : i < span)
    (hs : span ≤ 0xFFFFF) : readOutlier et span (leNat (outlierBytes (mkOutlier et i a).1)) = .at i (mkOutlier et i a).2 := by
  obtain ⟨v, value, decodes, whole, back, -⟩ := mkOutlier_reads hl hu i a
  have index := mkOutlier_index et i a
  have := bnat_le (mkOutlier et i a).1.rounded
  have := bnat_le (mkOutlier et i a).1.sat
  have readIndex : field (outlierWord (mkOutlier et i a).1 % 256 ^ 5) 0 20 = i := by
    rw [field_eq, outlierWord, index]
    omega
  have readValue : field (outlierWord (mkOutlier et i a).1 % 256 ^ 5) 20 16 = (mkOutlier et i a).1.value := by
    rw [field_eq, outlierWord, index]
    omega
  rw [leNat_outlierBytes, readOutlier, readIndex, readValue, decodes, back]
  dsimp only
  rw [if_neg (by omega), if_neg (by omega)]
  split
  · rename_i zero
    rw [Dy.round_zero (by simpa [Dy.isZero] using zero)]
  · rw [if_neg]
    rintro ⟨below, rest⟩
    exact rest (Int.emod_eq_zero_of_dvd (by exact_mod_cast whole (-(v.scale (40 - et)).e).toNat (by omega)))

theorem readOutlier_sentinel (et : Int) (span : Nat) : readOutlier et span (leNat outlierSentinel) = .none := by
  rw [show leNat outlierSentinel = 0xFFFFF % 256 ^ 5 from leNat_leBytes 5 _, readOutlier]
  exact if_pos (by decide)

end Sys2Proof.Machine

end

/-! ## Dense chunks read back (R66 to R81, R102)

A block that is encoded keeps its header fields within their widths, so the block read from its payload is that block, and the
decoder adds the same outlier entries to the same decoded codes as the encoder does. Every code and every entry is small next to
the bound of R81, which therefore cuts nothing. -/

section

namespace Sys2Proof.Machine

set_option Elab.async false

open Sys2Proof

/-! ### Lists in pieces, and sorted lists -/

theorem flatten_pieces {α : Type} {n k : Nat} {l : List α} (h : l.length ≤ n * k) : (pieces n k l).flatten = l := by
  induction k generalizing l with
  | zero => rw [List.eq_nil_of_length_eq_zero (by omega : l.length = 0)]; rfl
  | succ k ih =>
    rw [pieces, List.flatten_cons, ih (by rw [List.length_drop, Nat.mul_succ] at *; omega), List.take_append_drop]

theorem length_of_mem_pieces {α : Type} {n k : Nat} {l : List α} (h : l.length = n * k) :
    ∀ p ∈ pieces n k l, p.length = n := by
  induction k generalizing l with
  | zero => intro p hp; cases hp
  | succ k ih =>
    rw [Nat.mul_succ] at h
    intro p hp
    rcases List.mem_cons.mp hp with rfl | hp
    · rw [List.length_take]
      omega
    · exact ih (by rw [List.length_drop]; omega) p hp

theorem insertBy_perm {α : Type} (le : α → α → Bool) (x : α) (l : List α) : (insertBy le x l).Perm (x :: l) := by
  induction l with
  | nil => exact .refl _
  | cons y l ih =>
    unfold insertBy
    split
    · exact .refl _
    · exact (ih.cons y).trans (.swap x y l)

theorem sortBy_perm {α : Type} (le : α → α → Bool) (l : List α) : (sortBy le l).Perm l := by
  induction l with
  | nil => exact .refl _
  | cons x l ih => exact (insertBy_perm le x _).trans (ih.cons x)

/-! ### What an encoded block holds (R66, R74) -/

/-- The largest zero point of an encoding. -/
def zTop : Enc → Nat
  | .t4 => 15
  | .t8 => 255
  | _ => 0

/-- A block whose fields lie within their widths. -/
structure Block.Fits (c : Coding) (b : Block) : Prop where
  length : b.codes.length = 32
  codes  : ∀ k ∈ b.codes, k < 2 ^ codeBits c.enc
  eb     : ∀ e, b.eb = some e → -31 ≤ e ∧ e ≤ 7
  z      : b.z ≤ zTop c.enc

theorem clampInt_bounds {lo hi : Int} (h : lo ≤ hi) (v : Int) : lo ≤ clampInt lo hi v ∧ clampInt lo hi v ≤ hi := by
  unfold clampInt
  split_ifs <;> omega

theorem clampCode_le (top : Nat) (v : Int) : (clampCode top v).1 ≤ top := by
  have := clampInt_bounds (Int.natCast_nonneg top) v
  unfold clampCode
  omega

theorem nearestLevel_lt (c : Coding) (a : Int) (u : Nat) : nearestLevel c a u < 16 := by
  unfold nearestLevel
  refine List.foldlRecOn (motive := (· < 16)) _ _ (by decide) fun best hbest i hi => ?_
  have := List.mem_range.mp hi
  dsimp only
  split_ifs <;> assumption

theorem codeOf_lt (c : Coding) (z u : Nat) (sat : Bool) (a : Int) : (codeOf c z u sat a).1 < 2 ^ codeBits c.enc := by
  unfold codeOf
  cases c.enc with
  | t4 => exact Nat.lt_succ_of_le (clampCode_le 15 _)
  | k4 => exact nearestLevel_lt c a u
  | s1 => exact Nat.lt_succ_of_le (bnat_le _)
  | t8 => exact Nat.lt_succ_of_le (clampCode_le 255 _)

theorem zPick_le {top mp mn u : Nat} (h : ceilDiv mn u + ceilDiv mp u ≤ top) : zPick top mp mn u ≤ top := by
  unfold zPick zBounds
  dsimp only
  omega

theorem zSaturated_le (top mp mn : Nat) : zSaturated top mp mn ≤ top := by
  have := clampInt_bounds (Int.natCast_nonneg top) (roundAwayDiv ((top * mn : Nat) : Int) (mp + mn))
  unfold zSaturated
  omega

theorem mem_exponents {e : Int} (h : e ∈ exponents) : -31 ≤ e ∧ e ≤ 7 := by
  obtain ⟨i, hi, rfl⟩ := List.mem_map.mp h
  have := List.mem_range.mp hi
  omega

theorem zeroBlock_fits (c : Coding) : zeroBlock.Fits c where
  length := List.length_replicate
  codes k hk := by rw [List.eq_of_mem_replicate hk]; exact Nat.two_pow_pos _
  eb e he := by cases he
  z := Nat.zero_le _

/-- Codes of 32 values under an exponent and a zero point of their ranges. -/
theorem Block.Fits.of_codes {c : Coding} {x : List Int} (hx : x.length = 32) {e : Int} (he : -31 ≤ e ∧ e ≤ 7) {z : Nat}
    (hz : z ≤ zTop c.enc) (zc u : Nat) (s o sat d : Bool) : Block.Fits c
      { eb := some e, z := z, codes := (x.map (codeOf c zc u s)).map (·.1), outlier := o, sat := sat, defer := d } where
  length := by rw [List.length_map, List.length_map, hx]
  codes k hk := by
    rw [List.map_map] at hk
    obtain ⟨a, -, rfl⟩ := List.mem_map.mp hk
    exact codeOf_lt ..
  eb e' h := by cases h; exact he
  z := hz

/-- The zero point of a block that fits. -/
theorem zPick_fits {c : Coding} (henc : c.enc ≠ .s1) {mp mn u : Nat} (h : fits c mp mn u) :
    (if c.enc == .k4 then 0 else zPick (if c.enc == .t8 then 255 else 15) mp mn u) ≤ zTop c.enc := by
  unfold fits at h
  cases he : c.enc with
  | k4 => exact Nat.zero_le _
  | s1 => exact absurd he henc
  | t4 => rw [he] at h; exact zPick_le (of_decide_eq_true h)
  | t8 => rw [he] at h; exact zPick_le (of_decide_eq_true h)

/-- The zero point of a block that fits nowhere. -/
theorem zSaturated_fits {c : Coding} (henc : c.enc ≠ .s1) (mp mn : Nat) :
    (if c.enc == .k4 then 0 else zSaturated (if c.enc == .t8 then 255 else 15) mp mn) ≤ zTop c.enc := by
  cases he : c.enc with
  | k4 => exact Nat.zero_le _
  | s1 => exact absurd he henc
  | t4 => exact zSaturated_le ..
  | t8 => exact zSaturated_le ..

theorem encodeBlock_fits (c : Coding) {x : List Int} (hx : x.length = 32) : (encodeBlock c x).1.Fits c := by
  unfold encodeBlock
  dsimp only
  split
  · exact zeroBlock_fits c
  · split
    · exact .of_codes hx (clampInt_bounds (by decide) _) (Nat.zero_le _) ..
    · rename_i henc
      split
      · rename_i found
        have fit := List.find?_some found
        have hz := zPick_fits henc fit
        generalize (if c.enc == .k4 then 0 else zPick _ _ _ _) = z at hz ⊢
        split
        · exact zeroBlock_fits c
        · exact .of_codes hx (mem_exponents (List.mem_of_find?_eq_some found)) hz ..
      · exact .of_codes hx (by decide) (zSaturated_fits henc _ _) ..

theorem unitAt_le {sh e : Int} {n : Nat} (h : e + sh ≤ n) : unitAt sh e ≤ 2 ^ n :=
  Nat.pow_le_pow_right (by decide) (by omega)

theorem level_bounds {c : Coding} (hl : ∀ l ∈ c.levels, -128 ≤ l ∧ l ≤ 127) (i : Nat) : (level c i).natAbs ≤ 128 := by
  unfold level
  rw [List.getD_eq_getElem?_getD]
  cases h : c.levels[i]? with
  | none => decide
  | some l =>
    have := hl l (List.mem_of_getElem? h)
    rw [Option.getD_some]
    omega

theorem decodeCode_le {c : Coding} (hl : ∀ l ∈ c.levels, -128 ≤ l ∧ l ≤ 127) {e : Int} (he : e ≤ 7) {z k : Nat}
    (hz : z ≤ zTop c.enc) (hk : k < 2 ^ codeBits c.enc) : (decodeCode c e z k).natAbs ≤ 2 ^ 57 := by
  have product {a : Int} {u n : Nat} (ha : a.natAbs ≤ 256) (hu : u ≤ 2 ^ n) (hn : n ≤ 49) : (a * u).natAbs ≤ 2 ^ 57 := by
    rw [Int.natAbs_mul, Int.natAbs_natCast]
    calc a.natAbs * u ≤ 256 * 2 ^ 49 := Nat.mul_le_mul ha (hu.trans (Nat.pow_le_pow_right (by decide) hn))
      _ = 2 ^ 57 := by decide
  unfold decodeCode
  cases henc : c.enc <;> rw [henc] at hz hk
  case t4 => 
    exact product (by simp only [zTop, codeBits] at hz hk; omega) (unitAt_le (n := 47) (by omega)) (by decide)
  case k4 => exact product ((level_bounds hl k).trans (by decide)) (unitAt_le (n := 44) (by omega)) (by decide)
  case s1 => exact product (by split <;> decide) (unitAt_le (n := 47) (by omega)) (by decide)
  case t8 => exact product (by simp only [zTop, codeBits] at hz hk; omega) (unitAt_le (n := 43) (by omega)) (by decide)

/-- The values of a block are small. -/
theorem decodeBlock_le {c : Coding} {b : Block} (h : b.Fits c) (hl : ∀ l ∈ c.levels, -128 ≤ l ∧ l ≤ 127) :
    ∀ a ∈ decodeBlock c b, a.natAbs ≤ 2 ^ 57 := by
  intro a ha
  unfold decodeBlock at ha
  split at ha
  · rw [List.eq_of_mem_replicate ha]
    decide
  · rename_i e heb
    obtain ⟨k, hk, rfl⟩ := List.mem_map.mp ha
    exact decodeCode_le hl (h.eb e heb).2 h.z (h.codes k hk)

theorem decodeBlock_length {c : Coding} {b : Block} (h : b.Fits c) : (decodeBlock c b).length = 32 := by
  unfold decodeBlock
  split
  · exact List.length_replicate
  · rw [List.length_map, h.length]

/-! ### The block read from a payload (R67, R70) -/

theorem unsigned_six_lt (v : Int) : unsigned 6 v < 64 := by
  unfold unsigned
  omega

theorem signed_unsigned_six {v : Int} (hl : -32 ≤ v) (hu : v ≤ 31) : signed 6 (unsigned 6 v) = v := by
  unfold signed unsigned
  split <;> omega

theorem packCodes_lt (w : Nat) (codes : List Nat) : packCodes w codes < 2 ^ (w * codes.length) := by
  induction codes with
  | nil => exact Nat.two_pow_pos _
  | cons k l ih =>
    have low : k % 2 ^ w < 2 ^ w := Nat.mod_lt _ (Nat.two_pow_pos w)
    have high : 2 ^ w * (packCodes w l + 1) ≤ 2 ^ w * 2 ^ (w * l.length) := Nat.mul_le_mul_left _ ih
    calc packCodes w (k :: l) = k % 2 ^ w + 2 ^ w * packCodes w l := rfl
      _ < 2 ^ w * (packCodes w l + 1) := by rw [Nat.mul_add]; omega
      _ ≤ 2 ^ w * 2 ^ (w * l.length) := high
      _ = 2 ^ (w * (k :: l).length) := by rw [← pow_add, List.length_cons, Nat.mul_succ, Nat.add_comm]

/-- Packed codes unpack (R6). -/
theorem unpackCodes_packCodes {w : Nat} {codes : List Nat} (h : ∀ k ∈ codes, k < 2 ^ w) :
    unpackCodes w codes.length (packCodes w codes) = codes := by
  induction codes with
  | nil => rfl
  | cons k l ih =>
    have low : k % 2 ^ w = k := Nat.mod_eq_of_lt (h k List.mem_cons_self)
    have pack : packCodes w (k :: l) = k + 2 ^ w * packCodes w l := by
      show k % 2 ^ w + 2 ^ w * packCodes w l = _
      rw [low]
    rw [pack, List.length_cons, unpackCodes, Nat.add_mul_mod_self_left, low, Nat.add_mul_div_left _ _ (Nat.two_pow_pos w),
      Nat.div_eq_of_lt (h k List.mem_cons_self), Nat.zero_add, ih fun x hx => h x (List.mem_cons_of_mem _ hx)]

/-- The fields of a header word (R66). -/
theorem blockHeader_fields {c : Coding} {b : Block} (h : b.Fits c) :
    blockHeader c b < 2 ^ 16
      ∧ field (blockHeader c b) 0 6 = unsigned 6 (b.eb.getD (-32))
      ∧ field (blockHeader c b) 6 4 = (if c.enc == .t4 then b.z else 0)
      ∧ bitAt (blockHeader c b) 10 = b.outlier ∧ bitAt (blockHeader c b) 11 = b.sat
      ∧ bitAt (blockHeader c b) 12 = c.fb ∧ bitAt (blockHeader c b) 13 = b.defer
      ∧ field (blockHeader c b) 14 2 = (if c.enc == .k4 then c.gen % 4 else 0) := by
  have exponent := unsigned_six_lt (b.eb.getD (-32))
  have zero : (if c.enc == .t4 then b.z else 0) < 16 := by
    have := h.z
    cases henc : c.enc <;> rw [henc] at this
    case t4 => exact Nat.lt_succ_of_le this
    all_goals exact Nat.succ_pos 15
  have gen : (if c.enc == .k4 then c.gen % 4 else 0) < 4 := by split <;> omega
  have := bnat_le b.outlier
  have := bnat_le b.sat
  have := bnat_le c.fb
  have := bnat_le b.defer
  simp only [blockHeader, field_eq]
  generalize unsigned 6 (b.eb.getD (-32)) = e at *
  generalize (if c.enc == .t4 then b.z else 0) = z at *
  generalize (if c.enc == .k4 then c.gen % 4 else 0) = g at *
  exact ⟨by omega, by omega, by omega, bitAt_of_div (by omega), bitAt_of_div (by omega), bitAt_of_div (by omega),
    bitAt_of_div (by omega), by omega⟩

theorem headerBytes_length (c : Coding) (b : Block) : (headerBytes c b).length = headerSize c.enc := by
  unfold headerBytes
  cases c.enc <;> simp [headerSize]

theorem length_flatMap_of_const {α : Type} {f : α → Bytes} {w : Nat} (l : List α) (hw : ∀ x ∈ l, (f x).length = w) :
    (l.flatMap f).length = w * l.length := by
  rw [List.length_flatMap, List.map_congr_left hw, List.map_const', List.sum_replicate, smul_eq_mul, Nat.mul_comm]

/-- The codes of a block in their bytes. -/
def codesOf (c : Coding) (b : Block) : Bytes := leBytes (codeBytes c.enc) (packCodes (codeBits c.enc) b.codes)

section

variable {c : Coding} {blocks : List Block} (hn : blocks.length = blocksPerCell c.enc)

include hn

/-- Headers, then codes, fill no more than a payload (R70). -/
theorem cellPayload_stands : StandsAt (cellPayload c blocks) 0 (blocks.flatMap (headerBytes c))
    ∧ StandsAt (cellPayload c blocks) (codesAt c.enc) (blocks.flatMap (codesOf c)) := by
  have headers := length_flatMap_of_const blocks fun b _ => headerBytes_length c b
  have codes := length_flatMap_of_const (f := codesOf c) blocks fun b _ => leBytes_length _ _
  rw [hn] at headers codes
  have room : (blocks.flatMap (headerBytes c) ++ blocks.flatMap (codesOf c)).length ≤ 224 := by
    rw [List.length_append, headers, codes]
    cases c.enc <;> decide
  have whole : StandsAt (cellPayload c blocks) 0 (blocks.flatMap (headerBytes c) ++ blocks.flatMap (codesOf c)) := .padTo room
  have behind := whole.right
  rw [headers, Nat.zero_add] at behind
  exact ⟨whole.left, behind⟩

variable {j : Nat} {b : Block} (hb : blocks[j]? = some b)

include hb

theorem headerBytes_stands : StandsAt (cellPayload c blocks) (headerSize c.enc * j) (headerBytes c b) := by
  have at_ := (cellPayload_stands hn).1.trans (.flatMap (fun b _ => headerBytes_length c b) hb)
  rwa [Nat.zero_add] at at_

theorem rd_header (h : b.Fits c) : rd (cellPayload c blocks) (headerSize c.enc * j) 2 = blockHeader c b := by
  rw [(headerBytes_stands hn hb).left.rd]
  exact Nat.mod_eq_of_lt (blockHeader_fields h).1

/-- T8 has its zero point behind the header word, and a reserved byte of 0 (R66). -/
theorem rd_zeroPoint (h : b.Fits c) (ht : c.enc = .t8) :
    rd (cellPayload c blocks) (4 * j + 2) 1 = b.z ∧ rd (cellPayload c blocks) (4 * j + 3) 1 = 0 := by
  have hz := h.z
  have word := (headerBytes_stands hn hb).right
  rw [ht] at hz word
  have split : leBytes 2 b.z = leBytes 1 b.z ++ leBytes 1 (b.z / 256) := rfl
  simp only [beq_self_eq_true, if_true, leBytes_length, split] at word
  have low := word.left.rd
  have high := word.right.rd
  simp only [headerSize, leBytes_length, zTop] at low high hz
  rw [low, high]
  omega

theorem unpack_codes (h : b.Fits c) : unpackCodes (codeBits c.enc) 32
    (rd (cellPayload c blocks) (codesAt c.enc + codeBytes c.enc * j) (codeBytes c.enc)) = b.codes := by
  have place := (cellPayload_stands hn).2.trans (.flatMap (fun b _ => leBytes_length _ _) hb)
  have room : packCodes (codeBits c.enc) b.codes < 256 ^ codeBytes c.enc := by
    have := packCodes_lt (codeBits c.enc) b.codes
    rw [h.length] at this
    refine this.trans_le (le_of_eq ?_)
    cases c.enc <;> rfl
  have packed := unpackCodes_packCodes h.codes
  rw [h.length] at packed
  rw [place.rd, Nat.mod_eq_of_lt room, packed]

/-- A block read back from the payload that it was encoded into is that block, and not malformed. -/
theorem readBlock_cellPayload (h : b.Fits c) : readBlock c (cellPayload c blocks) j = (b, false) := by
  obtain ⟨-, eb, zp, outlier, sat, fb, defer, gen⟩ := blockHeader_fields h
  have range : -32 ≤ b.eb.getD (-32) ∧ b.eb.getD (-32) ≤ 7 := by
    cases he : b.eb with
    | none => decide
    | some e => have := h.eb e he; rw [Option.getD_some]; omega
  unfold readBlock
  rw [rd_header hn hb h, unpack_codes hn hb h]
  have exponent : (if b.eb.getD (-32) == -32 then none else some (b.eb.getD (-32))) = b.eb := by
    cases he : b.eb with
    | none => rfl
    | some e =>
      have := h.eb e he
      rw [Option.getD_some, if_neg (by rw [beq_iff_eq]; omega)]
  have valid : decide (7 < b.eb.getD (-32)) = false := decide_eq_false (by omega)
  have whole (z : Nat) (hz : z = b.z) : (⟨b.eb, z, b.codes, b.outlier, b.sat, b.defer⟩ : Block) = b := by rw [hz]
  have hz := h.z
  simp only [eb, zp, outlier, sat, fb, defer, gen, signed_unsigned_six range.1 (by omega), valid, exponent]
  cases henc : c.enc <;> rw [henc] at hz
  case t4 => simp
  case k4 => simpa using whole 0 (Nat.le_zero.mp hz).symm
  case s1 => simpa using whole 0 (Nat.le_zero.mp hz).symm
  case t8 =>
    obtain ⟨z, reserved⟩ := rd_zeroPoint hn hb h henc
    simp [z, reserved]

end

/-! ### Payloads of blocks, and of outlier entries (R70, R72) -/

section

variable {c : Coding}

theorem readBlocks_cellPayload {blocks : List Block} (hn : blocks.length = blocksPerCell c.enc)
    (h : ∀ b ∈ blocks, b.Fits c) :
    (List.range (blocksPerCell c.enc)).map (readBlock c (cellPayload c blocks)) = blocks.map (·, false) := by
  refine List.ext_getElem (by rw [List.length_map, List.length_range, List.length_map, hn]) fun j _ hj => ?_
  rw [List.length_map] at hj
  rw [List.getElem_map, List.getElem_map, List.getElem_range]
  exact readBlock_cellPayload hn (List.getElem?_eq_getElem hj) (h _ (List.getElem_mem hj))

/-- The blocks of a chunk read back from its data cells. -/
theorem readBlocks_payloads {cells : Nat} {blocks : List Block} (hn : blocks.length = blocksPerCell c.enc * cells)
    (h : ∀ b ∈ blocks, b.Fits c) :
    ((pieces (blocksPerCell c.enc) cells blocks).map (cellPayload c)).flatMap
      (fun p => (List.range (blocksPerCell c.enc)).map (readBlock c p)) = blocks.map (·, false) := by
  have whole := flatten_pieces (le_of_eq hn)
  have cell : ∀ p ∈ pieces (blocksPerCell c.enc) cells blocks,
      (List.range (blocksPerCell c.enc)).map (readBlock c (cellPayload c p)) = p.map (·, false) := fun p hp =>
    readBlocks_cellPayload (length_of_mem_pieces hn p hp) fun b hb =>
      h b (by rw [← whole]; exact List.mem_flatten_of_mem hp hb)
  rw [List.flatMap_map, List.flatMap_congr cell, List.flatMap_def, ← List.map_flatten, whole]

end

/-- Records of five bytes read back from a payload that holds 44 of them. -/
theorem readEntries_payload {p : List Bytes} (hn : p.length = 44) (h : ∀ x ∈ p, x.length = 5) :
    (List.range 44).map (fun j => rd (padTo 224 p.flatten) (5 * j) 5) = p.map leNat := by
  have room : p.flatten.length ≤ 224 := by
    rw [← List.flatMap_id', length_flatMap_of_const p h, hn]
    decide
  refine List.ext_getElem (by rw [List.length_map, List.length_range, List.length_map, hn]) fun j _ hj => ?_
  rw [List.length_map] at hj
  rw [List.getElem_map, List.getElem_map, List.getElem_range]
  have record : StandsAt p.flatten (5 * j) p[j] := by
    rw [← List.flatMap_id']
    exact .flatMap h (List.getElem?_eq_getElem hj)
  have place := (StandsAt.padTo room).trans record
  have read := place.rd_length
  rwa [h _ (List.getElem_mem hj), Nat.zero_add] at read

/-- The words of a chunk's outlier cells: its entries, then sentinels (R72). -/
theorem readEntries_payloads {cells : Nat} {es : List OutEntry} (hn : es.length ≤ 44 * cells) :
    (outlierPayloads cells es).flatMap (fun p => (List.range 44).map (fun j => rd p (5 * j) 5))
      = es.map (fun o => leNat (outlierBytes o)) ++ List.replicate (44 * cells - es.length) (leNat outlierSentinel) := by
  unfold outlierPayloads
  extract_lets all
  have hall : all.length = 44 * cells := by
    show (es.map outlierBytes ++ List.replicate (44 * cells - es.length) outlierSentinel).length = _
    rw [List.length_append, List.length_map, List.length_replicate]
    omega
  have records : ∀ x ∈ all, x.length = 5 := by
    intro x hx
    rcases List.mem_append.mp hx with hx | hx
    · obtain ⟨o, -, rfl⟩ := List.mem_map.mp hx
      exact leBytes_length ..
    · rw [List.eq_of_mem_replicate hx]
      exact leBytes_length ..
  have whole := flatten_pieces (le_of_eq hall)
  have cell : ∀ p ∈ pieces 44 cells all, (List.range 44).map (fun j => rd (padTo 224 p.flatten) (5 * j) 5) = p.map leNat :=
    fun p hp => readEntries_payload (length_of_mem_pieces hall p hp) fun x hx =>
      records x (by rw [← whole]; exact List.mem_flatten_of_mem hp hx)
  rw [List.flatMap_map, List.flatMap_congr cell, List.flatMap_def, ← List.map_flatten, whole, List.map_append, List.map_map,
    List.map_replicate]
  rfl

/-! ### Outlier entries added to the codes (R81, R102) -/

/-- Add a value at a position. -/
def addAt (l : List Int) (x : Nat × Int) : List Int := setAt l x.1 (l.getD x.1 0 + x.2)

theorem addAt_length (l : List Int) (x : Nat × Int) : (addAt l x).length = l.length := List.length_set

theorem foldl_addAt_length (xs : List (Nat × Int)) (l : List Int) : (xs.foldl addAt l).length = l.length := by
  induction xs generalizing l with
  | nil => rfl
  | cons x xs ih => rw [List.foldl_cons, ih, addAt_length]

theorem addAt_getD_other (l : List Int) {x : Nat × Int} {i : Nat} (h : i ≠ x.1) : (addAt l x).getD i 0 = l.getD i 0 := by
  rw [addAt, setAt, List.getD_eq_getElem?_getD, List.getElem?_set_ne h.symm, ← List.getD_eq_getElem?_getD]

/-- What a decoder adds of an item read. -/
def addRead (l : List Int) : OutRead → List Int
  | .at i a => addAt l (i, a)
  | _ => l

/-- The same within the bound of R81, with the positions that it cut. -/
def addReadWithin (r : List Int × List Nat) : OutRead → List Int × List Nat
  | .at i a => (setAt r.1 i (clampInt (-accMax) accMax (r.1.getD i 0 + a)),
      if accMax < (r.1.getD i 0 + a).natAbs then addOnce r.2 i else r.2)
  | _ => r

theorem addOutliers_eq (outs : List OutRead) (plain : List Int) :
    addOutliers outs plain = outs.foldl addReadWithin (plain, []) := rfl

/-- What a decoder reads of a chunk's entries: the entries, then sentinels. -/
def readsOf (xs : List (Nat × Int)) (n : Nat) : List OutRead := xs.map (fun x => .at x.1 x.2) ++ List.replicate n .none

theorem foldl_readsOf {β : Type} (f : β → OutRead → β) (hf : ∀ b, f b .none = b) (xs : List (Nat × Int)) (n : Nat)
    (b : β) : (readsOf xs n).foldl f b = xs.foldl (fun b x => f b (.at x.1 x.2)) b := by
  rw [readsOf, List.foldl_append, List.foldl_map]
  exact List.foldlRecOn (motive := (· = _)) _ _ rfl fun c hc o ho => by rw [List.eq_of_mem_replicate ho, hf, hc]

/-- The decoder's exact sum takes the entries and passes over the sentinels. -/
theorem foldl_addRead (xs : List (Nat × Int)) (n : Nat) (l : List Int) :
    (readsOf xs n).foldl addRead l = xs.foldl addAt l := foldl_readsOf addRead (fun _ => rfl) xs n l

theorem countP_bad_readsOf (xs : List (Nat × Int)) (n : Nat) : (readsOf xs n).countP (fun o => o == .bad) = 0 := by
  rw [List.countP_eq_zero]
  intro o ho
  rcases List.mem_append.mp ho with ho | ho
  · obtain ⟨x, -, rfl⟩ := List.mem_map.mp ho
    exact Bool.false_ne_true
  · rw [List.eq_of_mem_replicate ho]
    exact Bool.false_ne_true

theorem addReadWithin_small {l : List Int} {x : Nat × Int} (marks : List Nat) (hx : x.2.natAbs ≤ 2 ^ 57)
    (hl : (l.getD x.1 0).natAbs ≤ 2 ^ 57) : addReadWithin (l, marks) (.at x.1 x.2) = (addAt l x, marks) := by
  unfold addReadWithin addAt clampInt accMax
  dsimp only
  generalize l.getD x.1 0 = v at *
  rw [if_neg (by omega), if_neg (by omega), if_neg (by omega)]

/-- Small entries at different positions, added to small codes, stay within the bound of R81. -/
theorem addOutliers_readsOf {xs : List (Nat × Int)} (n : Nat) {l : List Int} (hnd : (xs.map (·.1)).Nodup)
    (hx : ∀ x ∈ xs, x.2.natAbs ≤ 2 ^ 57) (hl : ∀ x ∈ xs, (l.getD x.1 0).natAbs ≤ 2 ^ 57) :
    addOutliers (readsOf xs n) l = (xs.foldl addAt l, []) := by
  rw [addOutliers_eq, foldl_readsOf addReadWithin fun _ => rfl]
  induction xs generalizing l with
  | nil => rfl
  | cons x xs ih =>
    rw [List.map_cons, List.nodup_cons] at hnd
    obtain ⟨apart, hnd⟩ := hnd
    rw [List.foldl_cons, List.foldl_cons, addReadWithin_small [] (hx x List.mem_cons_self) (hl x List.mem_cons_self)]
    refine ih hnd (fun y hy => hx y (List.mem_cons_of_mem _ hy)) fun y hy => ?_
    rw [addAt_getD_other l fun same => apart (same ▸ List.mem_map_of_mem hy)]
    exact hl y (List.mem_cons_of_mem _ hy)

/-! ### What is taken as an outlier (R102) -/

theorem topByMagnitude_length_le (b : Nat) (l : List (Nat × Int)) : (topByMagnitude b l).length ≤ b :=
  List.length_take_le ..

theorem topByMagnitude_subperm (b : Nat) (l : List (Nat × Int)) : (topByMagnitude b l).Subperm l :=
  (List.take_sublist ..).subperm.trans (sortBy_perm _ l).subperm

theorem takeOutliers_length_le (c : Coding) (capacity : Nat) (acc : List Int) :
    (takeOutliers c capacity acc).1.length ≤ capacity :=
  (sortBy_perm _ _).length_eq.trans_le (topByMagnitude_length_le ..)

/-- Outliers are taken at different positions of the chunk. -/
theorem takeOutliers_positions (c : Coding) (capacity : Nat) (acc : List Int) :
    ((takeOutliers c capacity acc).1.map (·.1)).Nodup ∧ ∀ x ∈ (takeOutliers c capacity acc).1, x.1 < acc.length := by
  have sorted := (sortBy_perm (fun x y => decide (x.1 ≤ y.1)) _).subperm.trans (topByMagnitude_subperm capacity
    ((acc.zipIdx.map (fun x => (x.2, x.1))).filter (fun x => decide (clipLimit c < x.2.natAbs))))
  have positions : (acc.zipIdx.map (fun x => (x.2, x.1))).map (·.1) = List.range acc.length := by
    rw [List.map_map, List.range_eq_range', ← List.zipIdx_map_snd]
    rfl
  constructor
  · obtain ⟨l, perm, sub⟩ := sorted
    have nodup : (l.map (·.1)).Nodup :=
      List.nodup_range.sublist (positions ▸ (sub.trans List.filter_sublist).map _)
    exact (perm.map _).nodup nodup
  · intro x hx
    have listed := List.mem_map_of_mem (f := (·.1)) (List.mem_of_mem_filter (sorted.subset hx))
    rw [positions] at listed
    exact List.mem_range.mp listed

/-! ### A dense chunk (R102, R143) -/

/-- What the codes of blocks decode to, for the first `n` positions. -/
def blockValues (c : Coding) (n : Nat) (blocks : List Block) : List Int := (blocks.flatMap (decodeBlock c)).take n

theorem Block.Fits.of_flags {c : Coding} {b : Block} (h : b.Fits c) (o s d : Bool) :
    Block.Fits c { b with outlier := o, sat := s, defer := d } :=
  ⟨h.length, h.codes, h.eb, h.z⟩

/-- The outlier values that a chunk sends, with their positions. -/
def sentOutliers (c : Coding) (outCells : Nat) (acc : List Int) : List (Nat × Int) :=
  (takeOutliers c (44 * outCells) acc).1.map (fun x => (x.1, (mkOutlier c.et x.1 x.2).2))

/-- The outlier entries that a chunk sends. -/
def sentEntries (c : Coding) (outCells : Nat) (acc : List Int) : List OutEntry :=
  (takeOutliers c (44 * outCells) acc).1.map (fun x => (mkOutlier c.et x.1 x.2).1)

/-- What a chunk sends: blocks that fit, and its outliers on top of what they decode to. -/
theorem encodeDense_parts {c : Coding} {cells outCells : Nat} (defer : Bool) (marks : List Nat) {acc : List Int}
    (h : acc.length ≤ cells * elemsPerCell c.enc) : ∃ blocks : List Block,
      blocks.length = blocksPerCell c.enc * cells ∧ (∀ b ∈ blocks, b.Fits c)
        ∧ (encodeDense c cells outCells defer marks acc).payloads
            = (pieces (blocksPerCell c.enc) cells blocks).map (cellPayload c)
              ++ outlierPayloads outCells (sentEntries c outCells acc)
        ∧ (encodeDense c cells outCells defer marks acc).sent
            = (sentOutliers c outCells acc).foldl addAt (blockValues c acc.length blocks) := by
  unfold encodeDense
  extract_lets t outs isOut rest blockIn enc blocks plain sent
  have entries : outs.map (·.1) = sentEntries c outCells acc := List.map_map
  have added : sent = (sentOutliers c outCells acc).foldl addAt plain := by
    show (t.1.map _).foldl _ plain = (t.1.map _).foldl _ plain
    rw [List.foldl_map, List.foldl_map]
    rfl
  have whole : blockIn.length = cells * blocksPerCell c.enc := pieces_length ..
  have inputs : ∀ x ∈ blockIn, x.length = 32 := by
    refine length_of_mem_pieces ?_
    have same : rest.length = acc.length := by rw [List.length_map, List.length_zipIdx]
    have size : cells * elemsPerCell c.enc = 32 * (cells * blocksPerCell c.enc) := by
      rw [elemsPerCell]
      ring
    rw [List.length_append, List.length_replicate, same]
    omega
  refine ⟨blocks, ?_, ?_, by rw [entries], added⟩
  · show (enc.zipIdx.map _).length = _
    rw [List.length_map, List.length_zipIdx, List.length_map, whole, Nat.mul_comm]
  · intro b hb
    obtain ⟨⟨x, i⟩, hx, rfl⟩ := List.mem_map.mp hb
    obtain ⟨y, hy, rfl⟩ := List.mem_map.mp (List.fst_mem_of_mem_zipIdx hx)
    exact (encodeBlock_fits c (inputs y hy)).of_flags _ _ _

theorem decodeDense_of_reads {c : Coding} {cells outCells limit n : Nat} {payloads : List Bytes} {blocks : List Block}
    {xs : List (Nat × Int)}
    (hb : (payloads.take cells).flatMap (fun p => (List.range (blocksPerCell c.enc)).map (readBlock c p))
      = blocks.map (·, false))
    (hx : (((payloads.drop cells).take outCells).flatMap (fun p => (List.range 44).map (fun j => rd p (5 * j) 5))).map
      (readOutlier c.et limit) = readsOf xs n) :
    decodeDense c cells outCells limit payloads =
      { values := (addOutliers (readsOf xs n) (blockValues c limit blocks)).1
        exact := (readsOf xs n).foldl addRead (blockValues c limit blocks)
        marks := sortBy (fun a b => decide (a ≤ b)) (addOutliers (readsOf xs n) (blockValues c limit blocks)).2
        malformed := 0 } := by
  have good : (blocks.map (·, false)).countP (·.2) = 0 := by
    rw [List.countP_map]
    exact congrFun List.countP_false blocks
  have valid := countP_bad_readsOf xs n
  unfold decodeDense
  simp only [hb, hx, good, valid, List.flatMap_map]
  rfl

/-- The entries of a chunk's outlier cells read back. -/
theorem readOutliers_payloads {c : Coding} (hl : -128 ≤ c.et) (hu : c.et ≤ 127) (outCells : Nat) {acc : List Int}
    (h : acc.length ≤ 0xFFFFF) :
    ((outlierPayloads outCells (sentEntries c outCells acc)).flatMap
        (fun p => (List.range 44).map (fun j => rd p (5 * j) 5))).map (readOutlier c.et acc.length)
      = readsOf (sentOutliers c outCells acc) (44 * outCells - (sentEntries c outCells acc).length) := by
  have room : (sentEntries c outCells acc).length ≤ 44 * outCells := by
    rw [sentEntries, List.length_map]
    exact takeOutliers_length_le ..
  have entry : ∀ x ∈ (takeOutliers c (44 * outCells) acc).1,
      readOutlier c.et acc.length (leNat (outlierBytes (mkOutlier c.et x.1 x.2).1)) = .at x.1 (mkOutlier c.et x.1 x.2).2 :=
    fun x hx => readOutlier_outlierBytes hl hu x.2 ((takeOutliers_positions ..).2 x hx) h
  rw [readEntries_payloads room, List.map_append, List.map_replicate, readOutlier_sentinel, readsOf, sentOutliers]
  rw [sentEntries, List.map_map, List.map_map, List.map_map, List.length_map]
  refine congrArg (· ++ _) (List.map_congr_left fun x hx => ?_)
  rw [Function.comp_apply, Function.comp_apply, entry x hx, Function.comp_apply]

/-- The values that outliers add, at their positions, are small. -/
theorem sentOutliers_small {c : Coding} (hl : -128 ≤ c.et) (hu : c.et ≤ 127) (outCells : Nat) (acc : List Int) :
    ((sentOutliers c outCells acc).map (·.1)).Nodup ∧ ∀ x ∈ sentOutliers c outCells acc, x.2.natAbs ≤ 2 ^ 57 := by
  constructor
  · rw [sentOutliers, List.map_map]
    exact (takeOutliers_positions ..).1
  · intro x hx
    obtain ⟨y, -, rfl⟩ := List.mem_map.mp hx
    obtain ⟨v, -, -, -, back, small⟩ := mkOutlier_reads hl hu y.1 y.2
    exact back ▸ small

/-- The decoded codes of a chunk are small. -/
theorem blockValues_small {c : Coding} {blocks : List Block} (fit : ∀ b ∈ blocks, b.Fits c)
    (hlevels : ∀ l ∈ c.levels, -128 ≤ l ∧ l ≤ 127) (n i : Nat) :
    ((blockValues c n blocks).getD i 0).natAbs ≤ 2 ^ 57 := by
  rw [List.getD_eq_getElem?_getD]
  cases h : (blockValues c n blocks)[i]? with
  | none => decide
  | some a =>
    obtain ⟨b, hb, ha⟩ := List.mem_flatMap.mp (List.mem_of_mem_take (List.mem_of_getElem? h))
    exact decodeBlock_le (fit b hb) hlevels a ha

theorem decodeBlocks_length {c : Coding} {blocks : List Block} (fit : ∀ b ∈ blocks, b.Fits c) :
    (blocks.flatMap (decodeBlock c)).length = 32 * blocks.length := by
  rw [List.length_flatMap, List.map_congr_left fun b hb => decodeBlock_length (fit b hb), List.map_const',
    List.sum_replicate, smul_eq_mul, Nat.mul_comm]

section

variable {c : Coding} {cells outCells : Nat} (defer : Bool) (marks : List Nat) {acc : List Int}
  (hcap : acc.length ≤ cells * elemsPerCell c.enc)

include hcap

theorem encodeDense_sent_length : (encodeDense c cells outCells defer marks acc).sent.length = acc.length := by
  obtain ⟨blocks, count, fit, -, sent⟩ := encodeDense_parts (outCells := outCells) defer marks hcap
  rw [sent, foldl_addAt_length, blockValues, List.length_take, decodeBlocks_length fit, count]
  refine Nat.min_eq_left (hcap.trans (le_of_eq ?_))
  rw [elemsPerCell]
  ring

/-- What a dense chunk decodes to is what was sent of it (R79, R81). -/
theorem decodeDense_encodeDense (hlen : acc.length ≤ 0xFFFFF) (hl : -128 ≤ c.et) (hu : c.et ≤ 127)
    (hlevels : ∀ l ∈ c.levels, -128 ≤ l ∧ l ≤ 127) :
    decodeDense c cells outCells acc.length (encodeDense c cells outCells defer marks acc).payloads
      = { values := (encodeDense c cells outCells defer marks acc).sent
          exact := (encodeDense c cells outCells defer marks acc).sent, malformed := 0 } := by
  obtain ⟨blocks, count, fit, payloads, sent⟩ := encodeDense_parts (outCells := outCells) defer marks hcap
  have data : ((pieces (blocksPerCell c.enc) cells blocks).map (cellPayload c)).length = cells := by
    rw [List.length_map, pieces_length]
  have outliers : (outlierPayloads outCells (sentEntries c outCells acc)).length = outCells := by
    rw [outlierPayloads, List.length_map, pieces_length]
  have blocksRead := readBlocks_payloads count fit
  have entriesRead := readOutliers_payloads hl hu outCells hlen
  rw [← List.take_left' (l₂ := outlierPayloads outCells (sentEntries c outCells acc)) data, ← payloads] at blocksRead
  rw [← List.take_of_length_le outliers.le,
    ← List.drop_left' (l₂ := outlierPayloads outCells (sentEntries c outCells acc)) data, ← payloads] at entriesRead
  obtain ⟨positions, small⟩ := sentOutliers_small hl hu outCells acc
  rw [decodeDense_of_reads blocksRead entriesRead, foldl_addRead,
    addOutliers_readsOf _ positions small fun x _ => blockValues_small fit hlevels _ x.1, sent]
  rfl

end

end Sys2Proof.Machine

end

/-! ## Sparse lists read back (R71, R113, R119 to R121)

The slots of a list are the kept entries in ascending order, group after group, and then sentinels. Each slot reads back with
the exponent of its group, so the well-formed part of what a decoder reads is the kept entries with the values sent for them. -/

section

namespace Sys2Proof.Machine

set_option Elab.async false

open Sys2Proof

/-! ### The groups of a list (R74, R121) -/

/-- A group of `n` entries whose fields lie within their widths. -/
structure SparseGroup.Fits (g : SparseGroup) (n : Nat) : Prop where
  length : g.codes.length = n
  codes  : ∀ k ∈ g.codes, k < 16
  eb     : ∀ e, g.eb = some e → -31 ≤ e ∧ e ≤ 7
  zero   : g.eb = none → ∀ k ∈ g.codes, k = 8

theorem SparseGroup.Fits.of_codes (x : List Int) {e : Int} (he : -31 ≤ e ∧ e ≤ 7) (s : Bool) (u : Nat) (n : EncCount) :
    SparseGroup.Fits ⟨some e, s, (x.map (sparseCode u)).map (·.1), n⟩ x.length where
  length := by rw [List.length_map, List.length_map]
  codes k hk := by
    rw [List.map_map] at hk
    obtain ⟨a, -, rfl⟩ := List.mem_map.mp hk
    exact Nat.lt_succ_of_le (clampCode_le 15 _)
  eb e' h := by cases h; exact he
  zero h := by cases h

theorem SparseGroup.Fits.of_zeros (x : List Int) (n : EncCount) :
    SparseGroup.Fits ⟨none, false, x.map (fun _ => 8), n⟩ x.length where
  length := List.length_map ..
  codes k hk := by
    obtain ⟨a, -, rfl⟩ := List.mem_map.mp hk
    decide
  eb e h := by cases h
  zero _ k hk := by
    obtain ⟨a, -, rfl⟩ := List.mem_map.mp hk
    rfl

theorem encodeGroup_fits (x : List Int) : (encodeGroup x).Fits x.length := by
  unfold encodeGroup
  dsimp only
  split
  · rename_i empty
    rw [List.isEmpty_iff.mp empty]
    exact .of_zeros [] _
  · split
    · exact .of_zeros x _
    · split
      · rename_i found
        split
        · exact .of_zeros x _
        · exact .of_codes x (mem_exponents (List.mem_of_find?_eq_some found)) ..
      · exact .of_codes x (by decide) ..

/-- A group's exponent as its byte gives it: −32 for a zero group. -/
def SparseGroup.exponent (g : SparseGroup) : Int := g.eb.getD (-32)

/-- Entries with the group that encodes their values. -/
def groupOf (vals : List Int) (es : List (Nat × Nat)) : List (Nat × Nat) × SparseGroup :=
  (es, encodeGroup (es.map (fun x => vals.getD x.1 0)))

/-- The slots of a group: INDEX, CODE and COUNT of each entry. -/
def groupSlots (g : List (Nat × Nat) × SparseGroup) : List (Nat × Nat × Nat) :=
  List.zipWith (fun x k => (x.1, k, x.2)) g.1 g.2.codes

/-- The values sent of a group, with their positions. -/
def groupSent (g : List (Nat × Nat) × SparseGroup) : List (Nat × Int) :=
  List.zipWith (fun x v => (x.1, v)) g.1 (groupValues g.2)

theorem groupOf_fits (vals : List Int) (es : List (Nat × Nat)) : (groupOf vals es).2.Fits es.length := by
  have fit := encodeGroup_fits (es.map (fun x => vals.getD x.1 0))
  rwa [List.length_map] at fit

theorem groupSlots_length (vals : List Int) (es : List (Nat × Nat)) : (groupSlots (groupOf vals es)).length = es.length := by
  rw [groupSlots, List.length_zipWith, (groupOf_fits vals es).length]
  exact Nat.min_self _

/-! ### The slot that is read -/

/-- A slot under its group's exponent. -/
def slotOf (counts : Bool) (x : Nat × Nat × Nat) (eb : Int) : Slot :=
  { index := x.1, code := x.2.1, count := if counts then x.2.2 else 0, eb := eb }

/-- The value of a slot (R113). -/
def slotValue (s : Slot) : Int := if s.eb = -32 then 0 else ((s.code : Int) - 8) * (unitAt 40 s.eb : Nat)

/-- A slot's fields lie within their widths. -/
def SlotFits (x : Nat × Nat × Nat) : Prop := x.1 < 2 ^ 20 ∧ x.2.1 < 16 ∧ x.2.2 < 2 ^ 16

theorem getElem?_pieces {α : Type} {n k i : Nat} (l : List α) (hi : i < k) :
    (pieces n k l)[i]? = some ((l.drop (n * i)).take n) := by
  induction k generalizing i l with
  | zero => omega
  | succ k ih =>
    cases i with
    | zero => rfl
    | succ i => rw [pieces, List.getElem?_cons_succ, ih _ (by omega), List.drop_drop, Nat.mul_succ, Nat.add_comm]

theorem pieces_nil {α : Type} (n k : Nat) : pieces n k ([] : List α) = List.replicate k [] := by
  induction k with
  | zero => rfl
  | succ k ih => rw [pieces, List.take_nil, List.drop_nil, ih, List.replicate_succ]

/-- What is built piece by piece, entry for entry, has at each place what the place's piece has there. -/
theorem getElem?_flatMap_pieces {α β : Type} {F : List α → List β} (hF : ∀ es, (F es).length = es.length) {n : Nat}
    (hn : 0 < n) (k : Nat) (l : List α) (j : Nat) :
    ((pieces n k l).flatMap F)[j]? = ((pieces n k l)[j / n]?).bind (fun es => (F es)[j % n]?) := by
  have nothing : F [] = [] := List.eq_nil_of_length_eq_zero (hF [])
  have rest (m : Nat) : ((pieces n m []).flatMap F) = [] := by
    rw [pieces_nil, List.flatMap_eq_nil_iff]
    intro es hes
    rw [List.eq_of_mem_replicate hes, nothing]
  induction k generalizing l j with
  | zero => rfl
  | succ k ih =>
    rw [pieces, List.flatMap_cons]
    by_cases full : n ≤ l.length
    · have first : (F (l.take n)).length = n := by rw [hF, List.length_take, Nat.min_eq_left full]
      by_cases hj : j < n
      · rw [List.getElem?_append_left (by omega), Nat.div_eq_of_lt hj, Nat.mod_eq_of_lt hj]
        rfl
      · obtain ⟨m, rfl⟩ : ∃ m, j = m + n := ⟨j - n, by omega⟩
        rw [List.getElem?_append_right (by omega), first, Nat.add_sub_cancel, ih, Nat.add_div_right _ hn, Nat.add_mod_right,
          List.getElem?_cons_succ]
    · rw [List.drop_eq_nil_of_le (by omega), rest, List.append_nil, List.take_of_length_le (by omega)]
      by_cases hj : j < n
      · rw [Nat.div_eq_of_lt hj, Nat.mod_eq_of_lt hj]
        rfl
      · obtain ⟨m, rfl⟩ : ∃ m, j = m + n := ⟨j - n, by omega⟩
        rw [List.getElem?_eq_none (by rw [hF]; omega), Nat.add_div_right _ hn, List.getElem?_cons_succ, pieces_nil,
          List.getElem?_replicate]
        split
        · rw [Option.bind_some, nothing, List.getElem?_nil]
        · rfl

/-- The word of a slot in its list cell (R71). -/
def listEntryBytes (x : Nat × Nat) : Bytes := leBytes 3 (x.1 + x.2 * 2 ^ 20)

theorem listPayload_stands {bytes : List Nat} {entries : List (Nat × Nat)} (hb : bytes.length = 4) (he : entries.length = 64) :
    StandsAt (listPayload bytes entries) 0 (bytes.flatMap (leBytes 1))
      ∧ StandsAt (listPayload bytes entries) 4 (entries.flatMap listEntryBytes) := by
  have groups := length_flatMap_of_const bytes fun x _ => leBytes_length 1 x
  have slots := length_flatMap_of_const (f := listEntryBytes) entries fun x _ => leBytes_length 3 _
  have room : (bytes.flatMap (leBytes 1) ++ entries.flatMap listEntryBytes).length ≤ 224 := by
    rw [List.length_append, groups, slots, hb, he]
    decide
  have whole : StandsAt (listPayload bytes entries) 0 (bytes.flatMap (leBytes 1) ++ entries.flatMap listEntryBytes) :=
    .padTo room
  have behind := whole.right
  rw [groups, hb] at behind
  exact ⟨whole.left, behind⟩

section

variable {cells : Nat} {bytes : List Nat} {slots : List (Nat × Nat × Nat)} (counts : Bool) {j : Nat} (hj : j < 64 * cells)

include hj

theorem sparsePayloads_list : (sparsePayloads cells counts bytes slots).getD (j / 64) []
    = listPayload ((bytes.drop (4 * (j / 64))).take 4)
        (((slots.drop (64 * (j / 64))).take 64).map (fun x => (x.1, x.2.1))) := by
  unfold sparsePayloads
  rw [List.getD_eq_getElem?_getD, List.getElem?_append_left (by rw [List.length_map, List.length_range]; omega),
    List.getElem?_map, List.getElem?_range (by omega)]
  rfl

theorem sparsePayloads_counts : (sparsePayloads cells true bytes slots).getD (cells + j / 112) []
    = padTo 224 (((slots.drop (112 * (j / 112))).take 112).flatMap (fun x => leBytes 2 x.2.2)) := by
  have lists : ((List.range cells).map (fun i => listPayload ((bytes.drop (4 * i)).take 4)
      (((slots.drop (64 * i)).take 64).map (fun x => (x.1, x.2.1))))).length = cells := by
    rw [List.length_map, List.length_range]
  unfold sparsePayloads
  rw [List.getD_eq_getElem?_getD, List.getElem?_append_right (by rw [lists]; omega), lists, Nat.add_sub_cancel_left, if_pos rfl,
    List.getElem?_map, getElem?_pieces _ (by unfold ceilDiv; omega)]
  rfl

section

variable (hb : bytes.length = 4 * cells) (hs : slots.length = 64 * cells)

include hb hs

/-- A list cell holds its four group bytes, and behind them its 64 slots. -/
theorem sparsePayloads_stands :
    StandsAt ((sparsePayloads cells counts bytes slots).getD (j / 64) []) 0
        (((bytes.drop (4 * (j / 64))).take 4).flatMap (leBytes 1))
      ∧ StandsAt ((sparsePayloads cells counts bytes slots).getD (j / 64) []) 4
        ((((slots.drop (64 * (j / 64))).take 64).map (fun x => (x.1, x.2.1))).flatMap listEntryBytes) := by
  rw [sparsePayloads_list counts hj]
  exact listPayload_stands (by rw [List.length_take, List.length_drop]; omega)
    (by rw [List.length_map, List.length_take, List.length_drop]; omega)

theorem rd_group : rd ((sparsePayloads cells counts bytes slots).getD (j / 64) []) (j % 64 / 16) 1
    = bytes.getD (j / 16) 0 % 256 := by
  have byte : ((bytes.drop (4 * (j / 64))).take 4)[j % 64 / 16]? = some (bytes.getD (j / 16) 0) := by
    rw [List.getElem?_take_of_lt (by omega), List.getElem?_drop, show 4 * (j / 64) + j % 64 / 16 = j / 16 by omega,
      List.getD_eq_getElem?_getD, List.getElem?_eq_getElem (by omega)]
    rfl
  have place := (sparsePayloads_stands counts hj hb hs).1.trans (.flatMap (fun x _ => leBytes_length 1 x) byte)
  rw [Nat.zero_add, Nat.one_mul] at place
  exact place.rd

theorem rd_slot {x : Nat × Nat × Nat} (hx : slots[j]? = some x) :
    rd ((sparsePayloads cells counts bytes slots).getD (j / 64) []) (4 + 3 * (j % 64)) 3
      = (x.1 + x.2.1 * 2 ^ 20) % 256 ^ 3 := by
  have entry : (((slots.drop (64 * (j / 64))).take 64).map (fun x => (x.1, x.2.1)))[j % 64]? = some (x.1, x.2.1) := by
    rw [List.getElem?_map, List.getElem?_take_of_lt (by omega), List.getElem?_drop, Nat.div_add_mod, hx]
    rfl
  exact ((sparsePayloads_stands counts hj hb hs).2.trans (.flatMap (fun x _ => leBytes_length 3 _) entry)).rd

end

theorem rd_count {x : Nat × Nat × Nat} (hx : slots[j]? = some x) :
    rd ((sparsePayloads cells true bytes slots).getD (cells + j / 112) []) (2 * (j % 112)) 2 = x.2.2 % 256 ^ 2 := by
  rw [sparsePayloads_counts hj]
  have entry : ((slots.drop (112 * (j / 112))).take 112)[j % 112]? = some x := by
    rw [List.getElem?_take_of_lt (by omega), List.getElem?_drop, Nat.div_add_mod, hx]
  have size := length_flatMap_of_const (f := fun x : Nat × Nat × Nat => leBytes 2 x.2.2)
    ((slots.drop (112 * (j / 112))).take 112) fun x _ => leBytes_length 2 _
  have room : (((slots.drop (112 * (j / 112))).take 112).flatMap (fun x => leBytes 2 x.2.2)).length ≤ 224 := by
    have := List.length_take_le 112 (slots.drop (112 * (j / 112)))
    rw [size]
    omega
  have at_ := (StandsAt.padTo room).trans (.flatMap (fun x _ => leBytes_length 2 _) entry)
  rw [Nat.zero_add] at at_
  exact at_.rd

end

theorem readSlots_sparsePayloads {cells : Nat} {bytes : List Nat} {slots : List (Nat × Nat × Nat)} (counts : Bool)
    (hb : bytes.length = 4 * cells) (hs : slots.length = 64 * cells) (fit : ∀ x ∈ slots, SlotFits x) :
    readSlots cells counts (sparsePayloads cells counts bytes slots)
      = slots.zipIdx.map (fun x => slotOf counts x.1 (signed 6 (bytes.getD (x.2 / 16) 0 % 256))) := by
  unfold readSlots
  refine List.ext_getElem (by simp [hs]) fun j inside _ => ?_
  have hj : j < 64 * cells := by rwa [List.length_map, List.length_range] at inside
  have hx : slots[j]? = some slots[j] := List.getElem?_eq_getElem (by omega)
  obtain ⟨index, code, count⟩ := fit _ (List.mem_of_getElem? hx)
  rw [List.getElem_map, List.getElem_map, List.getElem_range, List.getElem_zipIdx]
  dsimp only
  rw [rd_group counts hj hb hs, rd_slot counts hj hb hs hx]
  simp only [slotOf, field_eq, Nat.zero_add, Slot.mk.injEq, and_true]
  refine ⟨by omega, by omega, ?_⟩
  cases counts with
  | false => rfl
  | true =>
    rw [if_pos rfl, if_pos rfl, rd_count hj hx]
    omega

/-! ### The well-formed part (R113) -/

/-- A valid entry of a list. -/
structure SlotValid (limit : Nat) (counts : Bool) (s : Slot) : Prop where
  index  : s.index < limit
  eb     : s.eb ≤ 7
  zero   : s.eb = -32 → s.code = 8
  count  : counts = true → s.count ≠ 0

/-- A sentinel as an encoder writes it. -/
def SlotEmpty (s : Slot) : Prop := s.index = sentinel ∧ s.code = 0 ∧ s.count = 0

theorem slotOk_empty {s : Slot} (h : SlotEmpty s) (limit : Nat) (counts : Bool) (last : Nat) (ended : Bool) :
    slotOk limit counts last ended s = true := by
  obtain ⟨index, code, count⟩ := h
  simp [slotOk, index, code, count]

theorem slotOk_valid {limit : Nat} {counts : Bool} {last : Nat} {s : Slot} (h : SlotValid limit counts s)
    (hl : limit ≤ sentinel) (hi : last ≤ s.index) : slotOk limit counts last false s = true := by
  have := h.index
  rw [slotOk, if_neg (by omega)]
  have zero := h.zero
  have count := h.count
  simp only [Bool.not_false, hi, h.index, h.eb, decide_true, Bool.true_and, Bool.and_eq_true, Bool.or_eq_true, bne_iff_ne,
    beq_iff_eq, Bool.not_eq_true']
  refine ⟨?_, ?_⟩
  · by_cases he : s.eb = -32
    · exact .inr (zero he)
    · exact .inl he
  · cases hc : counts with
    | false => exact .inl rfl
    | true => exact .inr (count hc)

theorem wellFormedPart_empty {l : List Slot} (h : ∀ s ∈ l, SlotEmpty s) (limit : Nat) (counts : Bool) (last : Nat)
    (ended : Bool) : wellFormedPart limit counts last ended l = ([], false) := by
  induction l generalizing ended with
  | nil => rfl
  | cons s l ih =>
    have hs := h s List.mem_cons_self
    rw [wellFormedPart, if_pos (slotOk_empty hs ..), if_pos hs.1, ih fun x hx => h x (List.mem_cons_of_mem _ hx)]

/-- Valid entries in ascending order, and then sentinels, are well formed as a whole. -/
theorem wellFormedPart_valid {limit : Nat} {counts : Bool} {l rest : List Slot} (hl : limit ≤ sentinel)
    (valid : ∀ s ∈ l, SlotValid limit counts s) (empty : ∀ s ∈ rest, SlotEmpty s)
    (order : l.Pairwise (fun s t => s.index < t.index)) {last : Nat} (hlast : ∀ s ∈ l, last ≤ s.index) :
    wellFormedPart limit counts last false (l ++ rest) = (l.map (fun s => (s.index, slotValue s, s.count)), false) := by
  induction l generalizing last with
  | nil => exact wellFormedPart_empty empty ..
  | cons s l ih =>
    obtain ⟨next, order⟩ := List.pairwise_cons.mp order
    have hs := valid s List.mem_cons_self
    have index := hs.index
    rw [List.cons_append, wellFormedPart, if_pos (slotOk_valid hs hl (hlast s List.mem_cons_self)), if_neg (by omega),
      ih (fun x hx => valid x (List.mem_cons_of_mem _ hx)) order next]
    rfl

/-! ### The list of a chunk (R119 to R121) -/

/-- The groups of a list's kept entries. -/
def listGroups (cells : Nat) (vals : List Int) (kept : List (Nat × Nat)) : List (List (Nat × Nat) × SparseGroup) :=
  (pieces 16 (4 * cells) kept).map (groupOf vals)

/-- The kept entries as slots. -/
def listSlots (cells : Nat) (vals : List Int) (kept : List (Nat × Nat)) : List (Nat × Nat × Nat) :=
  (listGroups cells vals kept).flatMap groupSlots

/-- The slots of a list with its sentinels. -/
def allSlots (cells : Nat) (vals : List Int) (kept : List (Nat × Nat)) : List (Nat × Nat × Nat) :=
  listSlots cells vals kept ++ List.replicate (64 * cells - (listSlots cells vals kept).length) (sentinel, 0, 0)

/-- The entries that a list of `n` slots has room for: those of the largest values. -/
def keptOf (n : Nat) (value : Nat × Nat → Int) (union : List (Nat × Nat)) : List (Nat × Nat) :=
  union.filter (fun x => (topByMagnitude n (union.map (fun x => (x.1, value x)))).any (fun y => y.1 == x.1))

theorem keptOf_length_le (n : Nat) (value : Nat × Nat → Int) {union : List (Nat × Nat)}
    (order : union.Pairwise (fun x y => x.1 < y.1)) : (keptOf n value union).length ≤ n := by
  have apart : ((keptOf n value union).map (·.1)).Nodup :=
    List.pairwise_map.mpr ((order.sublist List.filter_sublist).imp Nat.ne_of_lt)
  have among : (keptOf n value union).map (·.1) ⊆ (topByMagnitude n (union.map (fun x => (x.1, value x)))).map (·.1) := by
    intro i hi
    obtain ⟨x, hx, rfl⟩ := List.mem_map.mp hi
    obtain ⟨y, hy, same⟩ := List.any_eq_true.mp (List.mem_filter.mp hx).2
    exact beq_iff_eq.mp same ▸ List.mem_map_of_mem hy
  have count := (apart.subperm among).length_le
  rw [List.length_map, List.length_map] at count
  exact count.trans (topByMagnitude_length_le ..)

theorem encodeSparse_parts (cells : Nat) (counts defer : Bool) (marks : List Nat) (vals : List Int) {union : List (Nat × Nat)}
    (order : union.Pairwise (fun x y => x.1 < y.1)) :
    ∃ (kept : List (Nat × Nat)) (byteOf : List (Nat × Nat) × SparseGroup → Nat),
      kept.Sublist union ∧ kept.length ≤ 64 * cells
      ∧ (∀ g, byteOf g % 64 = unsigned 6 g.2.exponent)
      ∧ (encodeSparse cells counts defer marks vals union).payloads
          = sparsePayloads cells counts ((listGroups cells vals kept).map byteOf) (allSlots cells vals kept)
      ∧ (encodeSparse cells counts defer marks vals union).sent = ((listGroups cells vals kept).flatMap groupSent).foldl
          (fun l x => setAt l x.1 x.2) (List.replicate vals.length 0)
      ∧ (encodeSparse cells counts defer marks vals union).entries
          = (allSlots cells vals kept).map (fun x => (x.1, if counts then x.2.2 else 0)) := by
  unfold encodeSparse
  extract_lets kc ranked kept gs byteOf slots all sentAt
  refine ⟨kept, byteOf, List.filter_sublist, keptOf_length_le kc (fun x => vals.getD x.1 0) order, fun g => ?_, rfl, rfl, rfl⟩
  have exponent := unsigned_six_lt (g.2.eb.getD (-32))
  have sat := bnat_le (g.2.sat || g.1.any (fun x => marks.contains x.1))
  have := bnat_le defer
  have byte : byteOf g = unsigned 6 (g.2.eb.getD (-32)) + bnat (g.2.sat || g.1.any (fun x => marks.contains x.1)) * 64
    + bnat defer * 128 := rfl
  rw [byte, SparseGroup.exponent]
  omega

/-- A group's slots are its entries with their codes. -/
theorem groupSlots_entries (vals : List Int) (es : List (Nat × Nat)) :
    (groupSlots (groupOf vals es)).map (fun x => (x.1, x.2.2)) = es := by
  rw [groupSlots, List.map_zipWith]
  rw [← List.map_uncurry_zip_eq_zipWith]
  exact List.map_fst_zip (groupOf_fits vals es).length.ge

/-- Each slot of a group comes from an entry and a code of it. -/
theorem mem_groupSlots {g : List (Nat × Nat) × SparseGroup} {x : Nat × Nat × Nat} (h : x ∈ groupSlots g) :
    (x.1, x.2.2) ∈ g.1 ∧ x.2.1 ∈ g.2.codes := by
  rw [groupSlots, ← List.map_uncurry_zip_eq_zipWith] at h
  obtain ⟨⟨y, k⟩, pair, rfl⟩ := List.mem_map.mp h
  exact List.of_mem_zip pair

/-- The value of a code of a group. -/
def SparseGroup.value (g : SparseGroup) (k : Nat) : Int :=
  match g.eb with
  | none => 0
  | some e => ((k : Int) - 8) * (unitAt 40 e : Nat)

theorem groupValues_eq (g : SparseGroup) : groupValues g = g.codes.map g.value := by
  unfold groupValues SparseGroup.value
  cases g.eb <;> rfl

/-- The exponent of a group that holds values is no −32. -/
theorem slotValue_slotOf {n : Nat} {g : SparseGroup} (h : g.Fits n) (counts : Bool) (x : Nat × Nat × Nat) :
    slotValue (slotOf counts x g.exponent) = g.value x.2.1 := by
  unfold slotValue slotOf SparseGroup.value SparseGroup.exponent
  cases he : g.eb with
  | none => rfl
  | some e =>
    have := h.eb e he
    exact if_neg (show e ≠ -32 by omega)

section

variable (counts : Bool) {cells : Nat} (vals : List Int) {kept : List (Nat × Nat)}

/-- The slots of a group as they read back. -/
def groupReads (g : List (Nat × Nat) × SparseGroup) : List Slot := (groupSlots g).map (fun x => slotOf counts x g.2.exponent)

theorem groupReads_sent (es : List (Nat × Nat)) :
    (groupReads counts (groupOf vals es)).map (fun s => (s.index, slotValue s)) = groupSent (groupOf vals es) := by
  have value (x : Nat × Nat × Nat) := slotValue_slotOf (groupOf_fits vals es) counts x
  rw [groupReads, groupSent, groupValues_eq, groupSlots, List.zipWith_map_right, List.map_zipWith, List.map_zipWith]
  simp only [value]
  rfl

theorem getElem?_listSlots (j : Nat) : (listSlots cells vals kept)[j]?
    = ((pieces 16 (4 * cells) kept)[j / 16]?).bind (fun es => (groupSlots (groupOf vals es))[j % 16]?) := by
  rw [listSlots, listGroups, List.flatMap_map]
  exact getElem?_flatMap_pieces (groupSlots_length vals) (by decide) ..

/-- The kept entries read back group by group, each under its group's exponent. -/
theorem listSlots_reads {ebAt : Nat → Int}
    (heb : ∀ i es, (pieces 16 (4 * cells) kept)[i]? = some es → ebAt i = (groupOf vals es).2.exponent) :
    (listSlots cells vals kept).zipIdx.map (fun x => slotOf counts x.1 (ebAt (x.2 / 16)))
      = (listGroups cells vals kept).flatMap (groupReads counts) := by
  refine List.ext_getElem? fun j => ?_
  have reads : ((listGroups cells vals kept).flatMap (groupReads counts))[j]?
      = ((pieces 16 (4 * cells) kept)[j / 16]?).bind (fun es => (groupReads counts (groupOf vals es))[j % 16]?) := by
    rw [listGroups, List.flatMap_map]
    exact getElem?_flatMap_pieces (fun es => by rw [groupReads, List.length_map, groupSlots_length]) (by decide) ..
  rw [reads, List.getElem?_map, List.getElem?_zipIdx, getElem?_listSlots]
  cases piece : (pieces 16 (4 * cells) kept)[j / 16]? with
  | none => rfl
  | some es =>
    rw [Option.bind_some, Option.bind_some, groupReads, List.getElem?_map, Option.map_map, Nat.zero_add, ← heb _ es piece]
    rfl

/-- The values that read back are the values sent. -/
theorem reads_sent : ((listGroups cells vals kept).flatMap (groupReads counts)).map (fun s => (s.index, slotValue s))
    = (listGroups cells vals kept).flatMap groupSent := by
  rw [listGroups, List.map_flatMap, List.flatMap_map, List.flatMap_map]
  exact List.flatMap_congr fun es _ => groupReads_sent counts vals es

variable (h : kept.length ≤ 64 * cells)

include h

theorem listSlots_entries : (listSlots cells vals kept).map (fun x => (x.1, x.2.2)) = kept := by
  have whole : (pieces 16 (4 * cells) kept).flatten = kept := flatten_pieces (by omega)
  rw [listSlots, listGroups, List.flatMap_map, List.map_flatMap, List.flatMap_congr fun es _ => groupSlots_entries vals es,
    List.flatMap_id', whole]

theorem listSlots_length : (listSlots cells vals kept).length = kept.length := by
  rw [← List.length_map (f := fun x : Nat × Nat × Nat => (x.1, x.2.2)), listSlots_entries vals h]

theorem allSlots_length : (allSlots cells vals kept).length = 64 * cells := by
  rw [allSlots, List.length_append, List.length_replicate, listSlots_length vals h]
  omega

end

section

variable {counts : Bool} {cells : Nat} {vals : List Int} {kept : List (Nat × Nat)}

/-- Behind the kept entries only sentinels read back. -/
theorem allSlots_reads {ebAt : Nat → Int}
    (heb : ∀ i es, (pieces 16 (4 * cells) kept)[i]? = some es → ebAt i = (groupOf vals es).2.exponent) :
    ∃ rest, (allSlots cells vals kept).zipIdx.map (fun x => slotOf counts x.1 (ebAt (x.2 / 16)))
        = (listGroups cells vals kept).flatMap (groupReads counts) ++ rest ∧ ∀ s ∈ rest, SlotEmpty s := by
  refine ⟨_, by rw [allSlots, List.zipIdx_append, List.map_append, listSlots_reads counts vals heb], fun s hs => ?_⟩
  obtain ⟨⟨x, i⟩, hx, rfl⟩ := List.mem_map.mp hs
  rw [List.eq_of_mem_replicate (List.fst_mem_of_mem_zipIdx hx)]
  exact ⟨rfl, rfl, by cases counts <;> rfl⟩

variable (h : kept.length ≤ 64 * cells)

include h

/-- A slot that reads back is an entry kept, with a code of its group. -/
theorem mem_reads {s : Slot} (hs : s ∈ (listGroups cells vals kept).flatMap (groupReads counts)) : ∃ es x,
    s = slotOf counts x (groupOf vals es).2.exponent ∧ (x.1, x.2.2) ∈ kept ∧ x.2.1 ∈ (groupOf vals es).2.codes := by
  have whole : (pieces 16 (4 * cells) kept).flatten = kept := flatten_pieces (by omega)
  obtain ⟨g, hg, hs⟩ := List.mem_flatMap.mp hs
  obtain ⟨es, hes, rfl⟩ := List.mem_map.mp hg
  obtain ⟨x, hx, rfl⟩ := List.mem_map.mp hs
  obtain ⟨entry, code⟩ := mem_groupSlots hx
  exact ⟨es, x, rfl, by rw [← whole]; exact List.mem_flatten_of_mem hes entry, code⟩

theorem reads_valid {limit : Nat} (hk : ∀ x ∈ kept, x.1 < limit ∧ 0 < x.2) :
    ∀ s ∈ (listGroups cells vals kept).flatMap (groupReads counts), SlotValid limit counts s := by
  intro s hs
  obtain ⟨es, x, rfl, entry, code⟩ := mem_reads h hs
  obtain ⟨index, count⟩ := hk _ entry
  have fit := groupOf_fits vals es
  refine ⟨index, ?_, fun zero => ?_, fun on => ?_⟩
  · show (groupOf vals es).2.eb.getD (-32) ≤ 7
    cases he : (groupOf vals es).2.eb with
    | none => decide
    | some e => exact (fit.eb e he).2
  · refine fit.zero ?_ _ code
    cases he : (groupOf vals es).2.eb with
    | none => rfl
    | some e =>
      have := fit.eb e he
      have same : (groupOf vals es).2.eb.getD (-32) = -32 := zero
      rw [he, Option.getD_some] at same
      omega
  · subst on
    exact Nat.ne_of_gt count

/-- The slots of a list lie within their fields. -/
theorem allSlots_fit {limit : Nat} (hl : limit ≤ 0xFFFFF) (hk : ∀ x ∈ kept, x.1 < limit ∧ x.2 < 2 ^ 16) :
    ∀ x ∈ allSlots cells vals kept, SlotFits x := by
  intro x hx
  rcases List.mem_append.mp hx with hx | hx
  · obtain ⟨index, count⟩ := hk (x.1, x.2.2) (by
      rw [← listSlots_entries vals h]
      exact List.mem_map_of_mem (f := fun x : Nat × Nat × Nat => (x.1, x.2.2)) hx)
    obtain ⟨g, hg, hx⟩ := List.mem_flatMap.mp hx
    obtain ⟨es, -, rfl⟩ := List.mem_map.mp hg
    exact ⟨by dsimp only at index; omega, (groupOf_fits vals es).codes _ (mem_groupSlots hx).2, count⟩
  · rw [List.eq_of_mem_replicate hx]
    exact ⟨by decide, by decide, by decide⟩

theorem reads_index : ((listGroups cells vals kept).flatMap (groupReads counts)).map (·.index) = kept.map (·.1) := by
  rw [List.map_flatMap]
  conv_rhs => rw [← listSlots_entries vals h, listSlots, List.map_flatMap, List.map_flatMap]
  exact List.flatMap_congr fun g _ => by rw [groupReads, List.map_map, List.map_map]; rfl

theorem reads_order (order : kept.Pairwise (fun x y => x.1 < y.1)) :
    ((listGroups cells vals kept).flatMap (groupReads counts)).Pairwise (fun s t => s.index < t.index) := by
  have ordered := List.pairwise_map.mpr order
  rw [← reads_index (counts := counts) (vals := vals) h] at ordered
  exact List.pairwise_map.mp ordered

end

/-- A group's exponent as its byte gives it back (R71). -/
theorem signed_groupByte {b n : Nat} {g : SparseGroup} (h : g.Fits n) (hb : b % 64 = unsigned 6 g.exponent) :
    signed 6 (b % 256) = g.exponent := by
  have range : -32 ≤ g.exponent ∧ g.exponent ≤ 31 := by
    unfold SparseGroup.exponent
    cases he : g.eb with
    | none => decide
    | some e =>
      have := h.eb e he
      rw [Option.getD_some]
      omega
  have low : b % 256 % 2 ^ 6 = unsigned 6 g.exponent % 2 ^ 6 := by omega
  calc signed 6 (b % 256) = signed 6 (unsigned 6 g.exponent) := by unfold signed; rw [low]
    _ = g.exponent := signed_unsigned_six range.1 range.2

section

variable {cells : Nat} {counts defer : Bool} {marks : List Nat} {vals : List Int} {union : List (Nat × Nat)}
  (order : union.Pairwise (fun x y => x.1 < y.1)) (range : ∀ x ∈ union, x.1 < vals.length ∧ 0 < x.2 ∧ x.2 < 2 ^ 16)
  (hlen : vals.length ≤ 0xFFFFF)

include order range hlen

/-- What a sparse list decodes to is what was sent of it, with its entries (R113, R121). -/
theorem decodeSparse_encodeSparse :
    (decodeSparse cells counts vals.length (encodeSparse cells counts defer marks vals union).payloads).1
      = { values := (encodeSparse cells counts defer marks vals union).sent
          exact := (encodeSparse cells counts defer marks vals union).sent
          malformed := 0
          entries := (encodeSparse cells counts defer marks vals union).entries } := by
  obtain ⟨kept, byteOf, sub, room, byte, payloads, sent, entries⟩ := encodeSparse_parts cells counts defer marks vals order
  have kept_range (x) (hx : x ∈ kept) := range x (sub.subset hx)
  have group_count : ((listGroups cells vals kept).map byteOf).length = 4 * cells := by
    rw [List.length_map, listGroups, List.length_map, pieces_length]
  have exponent : ∀ i es, (pieces 16 (4 * cells) kept)[i]? = some es →
      signed 6 (((listGroups cells vals kept).map byteOf).getD i 0 % 256) = (groupOf vals es).2.exponent := by
    intro i es hes
    refine signed_groupByte (groupOf_fits vals es) ?_
    rw [List.getD_eq_getElem?_getD, listGroups, List.getElem?_map, List.getElem?_map, hes]
    exact byte _
  have slots := readSlots_sparsePayloads counts group_count (allSlots_length vals room)
    (allSlots_fit room hlen fun x hx => ⟨(kept_range x hx).1, (kept_range x hx).2.2⟩)
  obtain ⟨rest, reads, empty⟩ := allSlots_reads (counts := counts) exponent
  have wellFormed := wellFormedPart_valid (limit := vals.length) hlen
    (reads_valid (counts := counts) (vals := vals) room fun x hx => ⟨(kept_range x hx).1, (kept_range x hx).2.1⟩) empty
    (reads_order room (order.sublist sub)) (last := 0) fun _ _ => Nat.zero_le _
  rw [← reads, ← slots, ← payloads] at wellFormed
  rw [← payloads] at slots
  have values : ((listGroups cells vals kept).flatMap (groupReads counts)).foldl (fun l s => setAt l s.index (slotValue s))
      (List.replicate vals.length 0) = (encodeSparse cells counts defer marks vals union).sent := by
    rw [sent, ← reads_sent counts, List.foldl_map]
  have listed : (readSlots cells counts (encodeSparse cells counts defer marks vals union).payloads).map
      (fun s => (s.index, s.count)) = (encodeSparse cells counts defer marks vals union).entries := by
    rw [slots, entries, List.map_map, ← List.zipIdx_map_fst 0 (allSlots cells vals kept), List.map_map, List.zipIdx_map_fst]
    rfl
  unfold decodeSparse
  dsimp only
  rw [wellFormed, listed, List.foldl_map, values]
  rfl

end

end Sys2Proof.Machine

end

/-! ## Residuals and the arithmetic of a hop; the settlement -/

section

namespace Sys2Proof.Machine

set_option Elab.async false

open Sys2Proof

/-! ### Residuals read back (R89) -/

/-- Rounding saturates, so a code lies within its format (R73). -/
theorem roundQuot_code_le (f : Fmt) (num : Int) (den : Nat) (e : Int) :
    (f.roundQuot num den e).code ≤ f.maxCode + f.signBit := by
  unfold Fmt.roundQuot
  extract_lets a la below top q sh mant code sat c
  have within : c ≤ f.maxCode := by
    by_cases h : f.maxCode < code
    · exact (if_pos (decide_eq_true h)).le
    · exact (if_neg (by rw [decide_eq_true_eq]; exact h)).trans_le (not_lt.mp h)
  split
  · exact Nat.zero_le _
  · dsimp only
    split_ifs <;> omega

theorem residualCode_lt (d : ImgBucket) (x : Dy) : ((resFmt d).round x).code < 256 ^ resWidth d := by
  have bound := roundQuot_code_le (resFmt d) x.m 1 x.e
  refine Nat.lt_of_le_of_lt bound ?_
  unfold resFmt resWidth
  cases d.resFp32 <;> decide

/-- Stored residuals read back as their values rounded to the residual's format. -/
theorem readResiduals_storeResiduals (d : ImgBucket) (r : Vec) : readResiduals d (storeResiduals d r).bytes
    = Vec.ofDys (r.toDys.map (fun x => (resFmt d).value ((resFmt d).round x).code)) := by
  have width : 0 < resWidth d := by unfold resWidth; split <;> decide
  have count : r.v.length = r.toDys.length := (List.length_map ..).symm
  unfold readResiduals
  dsimp only
  rw [storeResiduals_length, Nat.mul_div_cancel_left _ width, count]
  refine congrArg Vec.ofDys (List.ext_getElem (by simp) fun i hi _ => ?_)
  have inside : i < r.toDys.length := by rwa [List.length_map, List.length_range] at hi
  have place : StandsAt (storeResiduals d r).bytes (resWidth d * i) (leBytes (resWidth d) ((resFmt d).round r.toDys[i]).code) :=
    .flatMap (fun x _ => leBytes_length _ _) (by rw [List.getElem?_map, List.getElem?_eq_getElem inside]; rfl)
  rw [List.getElem_map, List.getElem_range, List.getElem_map, place.rd, Nat.mod_eq_of_lt (residualCode_lt d _)]

/-! ### The arithmetic of a hop (R88, R182) -/

/-- What is received and what a hop adds to it is what it sends. -/
theorem zipWith_add_sub {a b : List Int} (h : a.length = b.length) :
    List.zipWith (· + ·) a (List.zipWith (· - ·) b a) = b := by
  refine List.ext_getElem (by simp [h]) fun i _ _ => ?_
  simp

/-- Settles O57, clause by clause: a cell that goes out is the cell of the fields that it then has, and chunks and residuals are
records at their places. -/
theorem messagesAndCellsReadBackAsWritten : Obligations.MessagesAndCellsReadBackAsWritten := by
  unfold Obligations.MessagesAndCellsReadBackAsWritten
  refine ⟨fun m => readMsg_msgWord, msgWord_readMsg, ?cells, ?dense, ?sparse, ?hop, readResiduals_storeResiduals⟩
  case cells =>
    intro c type vc cls group ref seq swash payload ledger tally again
    have fits : c.Fits := ⟨type, vc, cls, group, ref, seq, swash, payload, ledger, tally, again⟩
    refine ⟨readCell_mkCell fits, mkCell_length c, cellOk_mkCell c, repeatOf_mkCell fits,
      fun w slot tide hw hslot htide => ?_, ?_⟩
    · rw [fillCell_mkCell]
      refine ⟨readCell_mkCell { fits with swash := hw, again := fun _ _ same => ?_ }, cellOk_mkCell _⟩
      cases same
      exact ⟨hslot, htide⟩
    · rw [asRepeat_mkCell]
      exact ⟨readCell_mkCell { fits with }, cellOk_mkCell _⟩
  case dense =>
    intro c cells outCells defer marks acc e d room length low high levels he hd
    rw [hd, he, decodeDense_encodeDense defer marks room length low high levels]
    exact ⟨rfl, rfl, rfl, rfl, encodeDense_sent_length defer marks room⟩
  case sparse =>
    intro cells counts defer marks vals union e d order range length he hd
    rw [hd, he, decodeSparse_encodeSparse order range length]
    exact ⟨rfl, rfl, rfl, rfl, rfl⟩
  case hop =>
    intro v c deferred mark grad resA inp union w hw length
    have delta : w.delta = List.zipWith (· - ·) w.enc.sent inp.exact := by rw [hw]; rfl
    exact ⟨by rw [delta, zipWith_add_sub length], rfl⟩

end Sys2Proof.Machine

end

/-! ## Commit and OPEN (R98, R100, R101, R108, R138, R199, R203, R204, R211)

The commit of a step as its stages: the step's entry and its COMMIT, the selectors, the reduced values, and the step's end.
A stage reads the group beside its ledger, the image and the launches, which the stages before it leave as they were. -/

section

namespace Sys2Proof.Machine

set_option Elab.async false

open Sys2Proof

theorem OnlyChanges.bucket_eq {P : List Part} {s t : State} (h : OnlyChanges P s t) (b : Nat)
    (hp : .buckets ∉ P := by decide) : t.bucket b = s.bucket b := by
  have buckets : t.buckets = s.buckets := h .buckets hp
  unfold State.bucket
  rw [buckets]

namespace State

@[simp] theorem raise_bucket (s : State) (e : Event) (b : Nat) : (s.raise e).bucket b = s.bucket b := raise_only.bucket_eq b
@[simp] theorem bumpG_bucket (s : State) (c : EStat) (g k b : Nat) : (s.bumpG c g k).bucket b = s.bucket b :=
  bumpG_only.bucket_eq b

/-! ### The fall-back of a bucket (R98, R108) -/

section

variable {s : State} {g : Nat} {d : ImgBucket} {clip ovf : Nat}

/-- The model's test of reduced values against the thresholds. -/
theorem above_iff_triggers : (decide (clip * 2 ^ 24 > d.clipThresh * (s.ringN g * rotLength d))
      || (s.statFlag g d.bucket 1 && decide (d.clipThresh < clipOff)) || decide (ovf > d.ovfThresh)
      || (s.statFlag g d.bucket 2 && decide (d.ovfThresh < ovfOff))) = true ↔ s.triggers108 g d clip ovf := by
  unfold triggers108 clipOff ovfOff
  simp only [Bool.or_eq_true, Bool.and_eq_true, decide_eq_true_eq, gt_iff_lt]
  tauto

theorem low_iff_returns : (decide (clip * 2 ^ 24 ≤ d.retClip * (s.ringN g * rotLength d)) && !s.statFlag g d.bucket 1
      && decide (ovf ≤ d.retOvf) && !s.statFlag g d.bucket 2) = true ↔ s.returns108 g d clip ovf := by
  unfold returns108
  simp only [Bool.and_eq_true, decide_eq_true_eq, Bool.not_eq_true']
  tauto

open Classical in
/-- R108 as one choice: what becomes of the bucket on either side of its thresholds. -/
theorem nextFallback_bucket (s : State) (g : Nat) (d : ImgBucket) (clip ovf : Nat) :
    (s.nextFallback g d clip ovf).bucket d.bucket =
      if d.fbKind = .none then s.bucket d.bucket
      else if s.triggers108 g d clip ovf then { s.bucket d.bucket with fallback := true, hold := 1 }
      else if (s.bucket d.bucket).fallback = false then s.bucket d.bucket
      else if s.returns108 g d clip ovf ∧ d.fbHold ≤ (s.bucket d.bucket).hold then
        { s.bucket d.bucket with fallback := false, hold := 0 }
      else { s.bucket d.bucket with fallback := true, hold := min ((s.bucket d.bucket).hold + 1) 65535 } := by
  unfold nextFallback
  extract_lets b m clipSat ovfSat above low
  have habove : above = decide (s.triggers108 g d clip ovf) :=
    Bool.eq_iff_iff.mpr (above_iff_triggers.trans decide_eq_true_iff.symm)
  have hlow : low = decide (s.returns108 g d clip ovf) :=
    Bool.eq_iff_iff.mpr (low_iff_returns.trans decide_eq_true_iff.symm)
  have hb : b = s.bucket d.bucket := rfl
  rw [habove, hlow, ← hb]
  clear_value b
  by_cases kind : d.fbKind = .none
  · simp [kind, hb]
  by_cases triggers : s.triggers108 g d clip ovf
  · cases before : b.fallback
    · simp [kind, triggers]
    · simp [kind, triggers]
  cases before : b.fallback
  · simp [kind, triggers, hb]
  by_cases returns : s.returns108 g d clip ovf ∧ d.fbHold ≤ b.hold
  · simp [kind, triggers, returns]
  · simp only [Bool.and_eq_true, decide_eq_true_eq]
    simp [kind, triggers, returns]

/-- A bucket's state beside its fall-back state and hold count. -/
def besideFallback (b : BucketState) : BucketState := { b with fallback := false, hold := 0 }

theorem nextFallback_beside (s : State) (g : Nat) (d : ImgBucket) (clip ovf : Nat) :
    besideFallback ((s.nextFallback g d clip ovf).bucket d.bucket) = besideFallback (s.bucket d.bucket) := by
  rw [nextFallback_bucket]
  split_ifs <;> rfl

theorem nextFallback_other {b : Nat} (h : b ≠ d.bucket) : (s.nextFallback g d clip ovf).bucket b = s.bucket b := by
  have set (v : BucketState) : (s.setBucket d.bucket v).bucket b = s.bucket b := setBucket_bucket_other _ _ h
  unfold nextFallback
  dsimp only
  split_ifs <;> simp only [raise_bucket, bumpG_bucket, set]

end

/-! ### E_t (R100, R101) -/

/-- E_t after reduced values that have a Q_MAX. -/
def scaleAfter (d : ImgBucket) (fallback : Bool) (q : Int) : Int :=
  clampInt (-128) 127 (q - 6 + (d.etMargin + (if fallback = true ∧ d.fbKind = .margin then (d.fbParam : Int) else 0)))

/-- A bucket's state beside its E_t. -/
def besideScale (b : BucketState) : BucketState := { b with et := 0 }

theorem nextScale_bucket (s : State) (g : Nat) (d : ImgBucket) (q : Int) : (s.nextScale g d q).bucket d.bucket =
    if q = -32768 then s.bucket d.bucket
    else { s.bucket d.bucket with et := scaleAfter d (s.bucket d.bucket).fallback q } := by
  unfold nextScale
  extract_lets b m e c u
  by_cases none : q = -32768
  · rw [if_pos none, if_pos none, bumpG_bucket]
  · rw [if_neg none, if_neg none]
    have scale : c = scaleAfter d b.fallback q := by simp [c, e, m, scaleAfter]
    have moved : u.bucket d.bucket = { b with et := c } := setBucket_bucket _ _ _
    rw [← scale, ← moved]
    split
    · rfl
    · rw [raise_bucket, bumpG_bucket]

theorem nextScale_other {s : State} {g : Nat} {d : ImgBucket} {q : Int} {b : Nat} (h : b ≠ d.bucket) :
    (s.nextScale g d q).bucket b = s.bucket b := by
  have set (v : BucketState) : (s.setBucket d.bucket v).bucket b = s.bucket b := setBucket_bucket_other _ _ h
  unfold nextScale
  dsimp only
  split_ifs <;> simp only [raise_bucket, bumpG_bucket, set]

/-! ### The latch of a bucket (R98, R99, R217) -/

/-- A chunk of the bucket was released before a SUBSTITUTE. -/
def releasedBeforeSubstitute (s : State) (g b : Nat) : Prop :=
  (s.group g).recovery.substituted = true ∧ (s.group g).recovery.releasedSet.any (fun y => y / 2 ^ 20 == b) = true

/-- The state in which the reduced values of a bucket are latched. -/
def reducedKept (s : State) (g : Nat) (l : Launch) (d : ImgBucket) : State :=
  s.setBucket d.bucket { s.bucket d.bucket with
    qMax := unsigned 16 (signed 16 ((s.statResult g d.bucket 0).getD 0)), clip := (s.statResult g d.bucket 1).getD 0
    ovf := (s.statResult g d.bucket 2).getD 0, step := (s.group g).step, gen := l.gen % 4 }

section

variable {s : State} {g : Nat} {l : Launch} {d : ImgBucket}

theorem latchBucket_kept (h : s.releasedBeforeSubstitute g d.bucket) : s.latchBucket g l d = s := by
  unfold latchBucket
  exact if_pos (by simp only [h.1, h.2, Bool.and_self])

theorem latchBucket_eq (h : ¬s.releasedBeforeSubstitute g d.bucket) : s.latchBucket g l d =
    ((s.reducedKept g l d).nextFallback g d ((s.statResult g d.bucket 1).getD 0) ((s.statResult g d.bucket 2).getD 0)).nextScale
      g d (signed 16 ((s.statResult g d.bucket 0).getD 0)) := by
  unfold latchBucket
  refine if_neg ?_
  rw [Bool.and_eq_true]
  exact h

theorem latchBucket_other {b : Nat} (h : b ≠ d.bucket) : (s.latchBucket g l d).bucket b = s.bucket b := by
  by_cases before : s.releasedBeforeSubstitute g d.bucket
  · rw [latchBucket_kept before]
  · rw [latchBucket_eq before, nextScale_other h, nextFallback_other h]
    exact setBucket_bucket_other _ _ h

/-- E_t follows from the bucket's next fall-back state; the rest of the bucket is as the fall-back left it. -/
theorem nextScale_fields (s : State) (g : Nat) (d : ImgBucket) (q : Int) :
    besideScale ((s.nextScale g d q).bucket d.bucket) = besideScale (s.bucket d.bucket)
      ∧ (q = -32768 → ((s.nextScale g d q).bucket d.bucket).et = (s.bucket d.bucket).et)
      ∧ (q ≠ -32768 → ((s.nextScale g d q).bucket d.bucket).et = scaleAfter d (s.bucket d.bucket).fallback q) := by
  rw [nextScale_bucket]
  split_ifs with none
  · exact ⟨rfl, fun _ => rfl, fun some => absurd none some⟩
  · exact ⟨rfl, fun h => absurd h none, fun _ => rfl⟩

/-- A bucket's state beside what R108 and R100 derive. -/
def besideDerived (b : BucketState) : BucketState := besideFallback (besideScale b)

theorem latchBucket_beside (h : ¬s.releasedBeforeSubstitute g d.bucket) :
    besideDerived ((s.latchBucket g l d).bucket d.bucket) = besideDerived ((s.reducedKept g l d).bucket d.bucket) := by
  rw [latchBucket_eq h]
  exact (congrArg besideFallback (nextScale_fields _ g d _).1).trans (congrArg besideScale (nextFallback_beside _ g d _ _))

/-- What the latch of a bucket leaves of it. -/
theorem latchBucket_latches (h : ¬s.releasedBeforeSubstitute g d.bucket) :
    s.latchedAfter g l d ((s.latchBucket g l d).bucket d.bucket) := by
  rintro old q clip ovf rfl rfl rfl rfl
  set q := signed 16 ((s.statResult g d.bucket 0).getD 0)
  set clip := (s.statResult g d.bucket 1).getD 0
  set ovf := (s.statResult g d.bucket 2).getD 0
  have kept : (s.reducedKept g l d).bucket d.bucket = _ := setBucket_bucket _ _ _
  have beside := s.latchBucket_beside (l := l) h
  rw [kept] at beside
  have fell := (s.reducedKept g l d).nextFallback_bucket g d clip ovf
  have fellEt := congrArg (·.et) ((s.reducedKept g l d).nextFallback_beside g d clip ovf)
  rw [kept, show (s.reducedKept g l d).triggers108 g d clip ovf = s.triggers108 g d clip ovf from rfl,
    show (s.reducedKept g l d).returns108 g d clip ovf = s.returns108 g d clip ovf from rfl] at fell
  rw [kept] at fellEt
  obtain ⟨scaled, held, moved⟩ := ((s.reducedKept g l d).nextFallback g d clip ovf).nextScale_fields g d q
  rw [← latchBucket_eq h] at scaled held moved
  set f := ((s.reducedKept g l d).nextFallback g d clip ovf).bucket d.bucket
  set b := (s.latchBucket g l d).bucket d.bucket
  have fallback : b.fallback = f.fallback := congrArg (·.fallback) scaled
  have hold : b.hold = f.hold := congrArg (·.hold) scaled
  refine ⟨congrArg (·.qMax) beside, congrArg (·.clip) beside, congrArg (·.ovf) beside, congrArg (·.step) beside,
    congrArg (·.gen) beside, fun kind => ?_, fun kind triggers => ?_, fun kind rests off => ?_,
    fun kind rests on => ⟨fun low => ?_, fun high => ?_⟩, fun none => (held none).trans fellEt, fun some => ?_⟩
  · rw [fallback, hold, fell, if_pos kind]
    exact ⟨rfl, rfl⟩
  · rw [fallback, hold, fell, if_neg kind, if_pos triggers]
    exact ⟨rfl, rfl⟩
  · rw [fallback, hold, fell, if_neg kind, if_neg rests, if_pos off]
    exact ⟨off, rfl⟩
  · rw [fallback, hold, fell, if_neg kind, if_neg rests, if_neg (by simp [on]), if_pos low]
    exact ⟨rfl, rfl⟩
  · rw [fallback, hold, fell, if_neg kind, if_neg rests, if_neg (by simp [on]), if_neg high]
    exact ⟨rfl, rfl⟩
  · rw [moved some, fallback]
    rfl

theorem latchBucket_selector (s : State) (g : Nat) (l : Launch) (d : ImgBucket) (b : Nat) :
    ((s.latchBucket g l d).bucket b).selector = (s.bucket b).selector := by
  by_cases before : s.releasedBeforeSubstitute g d.bucket
  · rw [latchBucket_kept before]
  by_cases same : b = d.bucket
  · have beside := congrArg (·.selector) (s.latchBucket_beside (l := l) before)
    rw [reducedKept, setBucket_bucket] at beside
    rw [same]
    exact beside
  · rw [latchBucket_other same]

end

/-! ### What the stages of a commit read -/

/-- A group beside its ledger. -/
def besideLedger (x : Group) : Group := { x with ledger := [] }

/-- A bucket's state beside its selector. -/
def besideSelector (b : BucketState) : BucketState := { b with selector := false }

theorem eq_of_besideSelector {b c : BucketState} (h : besideSelector b = besideSelector c) :
    b = { c with selector := b.selector } :=
  congrArg (fun x : BucketState => { x with selector := b.selector }) h

/-- From `s` to `t` the image stays, and of the group all but its ledger: what the latch of a bucket reads beside the bucket. -/
structure SameStep (g : Nat) (s t : State) : Prop where
  image : t.image = s.image
  group : besideLedger (t.group g) = besideLedger (s.group g)

namespace SameStep

variable {g : Nat} {s t u : State}

theorem of_only {P : List Part} (h : OnlyChanges P s t) (hi : .image ∉ P := by decide) (hg : .groups ∉ P := by decide) :
    SameStep g s t := ⟨h.image_eq hi, by rw [h.group_eq g hg]⟩

theorem trans (h : SameStep g s t) (k : SameStep g t u) : SameStep g s u :=
  ⟨k.image.trans h.image, k.group.trans h.group⟩

section

variable (h : SameStep g s t)

include h

theorem im_eq : t.im = s.im := by
  unfold im img
  rw [h.image]

theorem step_eq : (t.group g).step = (s.group g).step := congrArg (·.step) h.group
theorem table_eq : (t.group g).table = (s.group g).table := congrArg (·.table) h.group
theorem express_eq : (t.group g).express = (s.group g).express := congrArg (·.express) h.group
theorem recovery_eq : (t.group g).recovery = (s.group g).recovery := congrArg (·.recovery) h.group
theorem written_eq : (t.group g).written = (s.group g).written := congrArg (·.written) h.group

theorem ringN_eq : t.ringN g = s.ringN g := by
  unfold ringN ringOf
  rw [h.im_eq, h.table_eq]

theorem writtenWhole_eq (d : ImgBucket) : t.writtenWhole g d = s.writtenWhole g d := by
  unfold writtenWhole
  rw [h.written_eq]

theorem statResult_eq (b stat : Nat) : t.statResult g b stat = s.statResult g b stat := by
  unfold statResult
  rw [h.express_eq]

theorem statFlag_eq (b stat : Nat) : t.statFlag g b stat = s.statFlag g b stat := by
  unfold statFlag
  rw [h.express_eq]

theorem releasedBeforeSubstitute_iff (b : Nat) : t.releasedBeforeSubstitute g b ↔ s.releasedBeforeSubstitute g b := by
  unfold releasedBeforeSubstitute
  rw [h.recovery_eq]

theorem triggers108_iff (d : ImgBucket) (clip ovf : Nat) : t.triggers108 g d clip ovf ↔ s.triggers108 g d clip ovf := by
  unfold triggers108
  rw [h.ringN_eq, h.statFlag_eq, h.statFlag_eq]

theorem returns108_iff (d : ImgBucket) (clip ovf : Nat) : t.returns108 g d clip ovf ↔ s.returns108 g d clip ovf := by
  unfold returns108
  rw [h.ringN_eq, h.statFlag_eq, h.statFlag_eq]

/-- The latch follows from the bucket as it was, but for its selector, and from what `SameStep` keeps. -/
theorem latchedAfter_of {l : Launch} {d : ImgBucket} {b : BucketState} (hl : t.latchedAfter g l d b)
    (old : besideSelector (t.bucket d.bucket) = besideSelector (s.bucket d.bucket)) :
    s.latchedAfter g l d b := by
  have fallback : (t.bucket d.bucket).fallback = (s.bucket d.bucket).fallback := congrArg (·.fallback) old
  have hold : (t.bucket d.bucket).hold = (s.bucket d.bucket).hold := congrArg (·.hold) old
  have et : (t.bucket d.bucket).et = (s.bucket d.bucket).et := congrArg (·.et) old
  rintro was q clip ovf rfl hq hclip hovf
  rw [← fallback, ← hold, ← et, ← h.step_eq, ← h.triggers108_iff, ← h.returns108_iff]
  exact hl _ q clip ovf rfl (by rw [h.statResult_eq, hq]) (by rw [h.statResult_eq, hclip]) (by rw [h.statResult_eq, hovf])

end

end SameStep

/-! ### One action for each bucket -/

/-- Where each item of a list acts on a bucket of its own, a bucket of no item stays. -/
theorem foldl_bucket_other {α : Type} {f : State → α → State} {key : α → Nat}
    (other : ∀ u a b, b ≠ key a → (f u a).bucket b = u.bucket b) {l : List α} {b : Nat} (hb : ∀ a ∈ l, key a ≠ b)
    (s : State) : (l.foldl f s).bucket b = s.bucket b := by
  induction l generalizing s with
  | nil => rfl
  | cons a l ih =>
    rw [List.foldl_cons, ih (fun x hx => hb x (List.mem_cons_of_mem _ hx)), other s a b (hb a List.mem_cons_self).symm]

/-- Each item acts in a state with its bucket as it was at first, and the bucket then stays as it left it. -/
theorem foldl_bucket_mem {α : Type} {P : List Part} {f : State → α → State} {key : α → Nat}
    (other : ∀ u a b, b ≠ key a → (f u a).bucket b = u.bucket b) (only : ∀ u a, OnlyChanges P u (f u a)) {l : List α}
    (nodup : (l.map key).Nodup) {a : α} (ha : a ∈ l) (s : State) : ∃ u, OnlyChanges P s u
      ∧ u.bucket (key a) = s.bucket (key a) ∧ (l.foldl f s).bucket (key a) = (f u a).bucket (key a) := by
  induction l generalizing s with
  | nil => exact absurd ha List.not_mem_nil
  | cons x l ih =>
    obtain ⟨fresh, rest⟩ := List.nodup_cons.mp nodup
    rw [List.foldl_cons]
    obtain rfl | later := List.mem_cons.mp ha
    · exact ⟨s, .refl, rfl, foldl_bucket_other other (fun y hy same => fresh (List.mem_map.mpr ⟨y, hy, same⟩)) _⟩
    · obtain ⟨u, hu, before, after⟩ := ih rest later (f s x)
      refine ⟨u, (only s x).trans hu, before.trans (other s x _ fun same => ?_), after⟩
      exact fresh (List.mem_map.mpr ⟨a, later, same⟩)

/-! ### The buckets of a commit (R98, R203) -/

/-- One bucket's selector at a commit. -/
def flipWritten (g : Nat) (s : State) (d : ImgBucket) : State := if s.writtenWhole g d then s.flipSelector d else s

/-- One exchange's latch at a commit. -/
def latchExchange (g : Nat) (s : State) (x : QueueOp × Launch) : State :=
  match s.im.bucketDesc x.2.bucket with
  | some d => s.latchBucket g x.2 d
  | none => s

/-- The state in which the selectors of the group's buckets stand for the next step. -/
def selectorsTurned (s : State) (g : Nat) : State := (s.im.bucketsOf g).foldl (flipWritten g) s

/-- The state in which the exchanges' buckets are latched. -/
def bucketsLatched (s : State) (g : Nat) : State := (s.stepExchanges g).foldl (latchExchange g) s

section

variable {s : State} {g : Nat}

theorem flipWritten_only {d : ImgBucket} : OnlyChanges [.buckets] s (flipWritten g s d) := only_ite flipSelector_only .refl

theorem flipWritten_other {d : ImgBucket} {b : Nat} (h : b ≠ d.bucket) : (flipWritten g s d).bucket b = s.bucket b := by
  unfold flipWritten flipSelector
  split
  · exact setBucket_bucket_other _ _ h
  · rfl

theorem flipWritten_bucket (d : ImgBucket) : (flipWritten g s d).bucket d.bucket = { s.bucket d.bucket with
    selector := if s.writtenWhole g d = true then !(s.bucket d.bucket).selector else (s.bucket d.bucket).selector } := by
  unfold flipWritten flipSelector
  split
  · exact setBucket_bucket _ _ _
  · rfl

theorem selectorsTurned_only : OnlyChanges [.buckets] s (s.selectorsTurned g) :=
  only_foldl .refl fun _ _ h => h.trans flipWritten_only

theorem selectorsTurned_beside (b : Nat) : besideSelector ((s.selectorsTurned g).bucket b) = besideSelector (s.bucket b) := by
  refine view_foldl (view := fun u => besideSelector (u.bucket b)) (fun u d => ?_) _ _
  by_cases same : b = d.bucket
  · rw [same, flipWritten_bucket]
    rfl
  · rw [flipWritten_other same]

theorem selectorsTurned_selector (nodup : ((s.im.bucketsOf g).map (·.bucket)).Nodup) {d : ImgBucket}
    (hd : d ∈ s.im.bucketsOf g) : ((s.selectorsTurned g).bucket d.bucket).selector
      = if s.writtenWhole g d = true then !(s.bucket d.bucket).selector else (s.bucket d.bucket).selector := by
  obtain ⟨u, hu, before, after⟩ := foldl_bucket_mem (f := flipWritten g) (key := (·.bucket))
    (fun _ _ _ h => flipWritten_other h) (fun _ _ => flipWritten_only) nodup hd s
  have same : SameStep g s u := .of_only hu
  unfold selectorsTurned
  rw [after, flipWritten_bucket, before, same.writtenWhole_eq]

theorem bucketDesc_bucket {im : Image} {b : Nat} {d : ImgBucket} (h : im.bucketDesc b = some d) : d.bucket = b := by
  unfold Image.bucketDesc at h
  exact beq_iff_eq.mp (List.find?_some (p := fun d : ImgBucket => d.bucket == b) h)

theorem latchExchange_of_desc {x : QueueOp × Launch} {d : ImgBucket} (h : s.im.bucketDesc x.2.bucket = some d) :
    latchExchange g s x = s.latchBucket g x.2 d := by
  unfold latchExchange
  rw [h]

theorem latchExchange_kept {x : QueueOp × Launch} (released : s.releasedBeforeSubstitute g x.2.bucket) :
    latchExchange g s x = s := by
  unfold latchExchange
  split
  · rename_i d hd
    exact latchBucket_kept (by rwa [bucketDesc_bucket hd])
  · rfl

theorem latchExchange_only {x : QueueOp × Launch} : OnlyChanges [.buckets, .events, .stats] s (latchExchange g s x) := by
  unfold latchExchange
  split
  · exact latchBucket_only
  · exact .refl

theorem latchExchange_other {x : QueueOp × Launch} {b : Nat} (h : b ≠ x.2.bucket) :
    (latchExchange g s x).bucket b = s.bucket b := by
  unfold latchExchange
  split
  · rename_i d hd
    exact latchBucket_other (by rwa [bucketDesc_bucket hd])
  · rfl

theorem bucketsLatched_only : OnlyChanges [.buckets, .events, .stats] s (s.bucketsLatched g) :=
  only_foldl .refl fun _ _ h => h.trans latchExchange_only

theorem bucketsLatched_selector (b : Nat) : ((s.bucketsLatched g).bucket b).selector = (s.bucket b).selector := by
  refine view_foldl (view := fun u => (u.bucket b).selector) (fun u x => ?_) _ _
  unfold latchExchange
  split
  · exact latchBucket_selector _ _ _ _ _
  · rfl

/-- A bucket that the step did not exchange stays. -/
theorem bucketsLatched_other {b : Nat} (h : ∀ x ∈ s.stepExchanges g, x.2.bucket ≠ b) :
    (s.bucketsLatched g).bucket b = s.bucket b :=
  foldl_bucket_other (fun _ _ _ => latchExchange_other) h s

theorem bucketsLatched_mem (nodup : ((s.stepExchanges g).map (·.2.bucket)).Nodup) {x : QueueOp × Launch}
    (hx : x ∈ s.stepExchanges g) : ∃ u, SameStep g s u ∧ u.bucket x.2.bucket = s.bucket x.2.bucket
      ∧ (s.bucketsLatched g).bucket x.2.bucket = (latchExchange g u x).bucket x.2.bucket := by
  obtain ⟨u, hu, before, after⟩ := foldl_bucket_mem (f := latchExchange g) (key := (·.2.bucket))
    (fun _ _ _ => latchExchange_other) (fun _ _ => latchExchange_only) nodup hx s
  exact ⟨u, .of_only hu, before, after⟩

/-- An exchanged bucket without a release before a SUBSTITUTE is latched. -/
theorem bucketsLatched_latches (nodup : ((s.stepExchanges g).map (·.2.bucket)).Nodup) {x : QueueOp × Launch}
    (hx : x ∈ s.stepExchanges g) {d : ImgBucket} (hd : s.im.bucketDesc x.2.bucket = some d)
    (free : ¬s.releasedBeforeSubstitute g d.bucket) : s.latchedAfter g x.2 d ((s.bucketsLatched g).bucket d.bucket) := by
  obtain ⟨u, same, before, after⟩ := bucketsLatched_mem nodup hx
  rw [← bucketDesc_bucket hd] at before after
  rw [after, latchExchange_of_desc (by rw [same.im_eq, hd])]
  exact same.latchedAfter_of (latchBucket_latches fun h => free ((same.releasedBeforeSubstitute_iff _).mp h)) (by rw [before])

/-- One with such a release stays. -/
theorem bucketsLatched_kept (nodup : ((s.stepExchanges g).map (·.2.bucket)).Nodup) {b : Nat}
    (released : s.releasedBeforeSubstitute g b) : (s.bucketsLatched g).bucket b = s.bucket b := by
  by_cases exchanged : ∃ x ∈ s.stepExchanges g, x.2.bucket = b
  · obtain ⟨x, hx, rfl⟩ := exchanged
    obtain ⟨u, same, before, after⟩ := bucketsLatched_mem nodup hx
    rw [after, latchExchange_kept ((same.releasedBeforeSubstitute_iff _).mpr released), before]
  · exact bucketsLatched_other fun x hx same => exchanged ⟨x, hx, same⟩

end

/-! ### The step's entry and its COMMIT -/

/-- Operations changed beside their descriptors leave the step's operations in their places. -/
theorem stepOps_map {s t : State} {g : Nat} {f : QueueOp → QueueOp} (raw : ∀ o, (f o).raw = o.raw)
    (ops : (t.queue g).ops = (s.queue g).ops.map f) : t.stepOps g = (s.stepOps g).map f := by
  have isStep : (fun o : QueueOp => Desc.isStep o.raw) ∘ f = fun o => Desc.isStep o.raw := funext fun o => by simp [raw]
  have isCommit : (fun o : QueueOp => Desc.opcode o.raw != Desc.opCommit) ∘ f = fun o => Desc.opcode o.raw != Desc.opCommit :=
    funext fun o => by simp [raw]
  unfold stepOps
  simp only [ops, List.filter_map, isStep, List.takeWhile_map, isCommit, List.length_map, List.map_append, List.map_take,
    List.map_drop]

/-- Launches of the step's exchanges that a change of the operations leaves as they were. -/
theorem stepExchanges_launches {s t : State} {g : Nat} {f : QueueOp → QueueOp} (raw : ∀ o, (f o).raw = o.raw)
    (launch : ∀ o, (f o).launch = o.launch) (ops : (t.queue g).ops = (s.queue g).ops.map f) :
    (t.stepExchanges g).map (·.2) = (s.stepExchanges g).map (·.2) := by
  unfold stepExchanges
  rw [stepOps_map raw ops, List.filterMap_map, List.map_filterMap, List.map_filterMap]
  congr 1
  funext o
  rw [Function.comp_apply, launch]
  cases o.launch with
  | none => rfl
  | some l =>
    simp only [Option.bind_some]
    split <;> rfl

/-- A completion changes the phase and the mark of operations, and no more of them. -/
theorem complete_ops (s : State) (g : Nat) (op : QueueOp) (code result : Nat) (flag : Bool) : ∃ f : QueueOp → QueueOp,
    (∀ o, (f o).raw = o.raw) ∧ (∀ o, (f o).launch = o.launch)
      ∧ ((s.complete g op code result flag).queue g).ops = (s.queue g).ops.map f := by
  refine ⟨fun o => if o.index == op.index then { o with phase := .done, recorded := true } else o, fun o => ?_,
    fun o => ?_, ?_⟩
  · dsimp only
    split <;> rfl
  · dsimp only
    split <;> rfl
  · unfold complete
    extract_lets add r u v
    have done : (u.queue g).ops = (s.queue g).ops.map
        (fun o => if o.index == op.index then { o with phase := .done, recorded := true } else o) := by
      unfold u modOp
      rw [modQueue_queue]
      rfl
    have waited : (v.queue g).ops = (u.queue g).ops := by
      unfold v
      split
      · rw [modQueue_queue]
      · rfl
    split
    · rw [waited, done]
    · rw [modQueue_queue]
      exact waited.trans done

theorem enterLedger_besideLedger (s : State) (g kind bucket arg : Nat) :
    GroupKeeps besideLedger g s (s.enterLedger g kind bucket arg) := by
  unfold enterLedger
  extract_lets +onlyGivenNames gr e u
  have entered : GroupKeeps besideLedger g s u := .trans .modGroup (.of_only ledgerEvent_only)
  exact .ite (entered.trans (.of_only ledgerEvent_only)) entered

theorem lateEffect_besideLedger (s : State) (g : Nat) (e : Express) : GroupKeeps besideLedger g s (s.lateEffect g e) := by
  unfold lateEffect
  exact .ite (.trans (.of_only bumpG_only) (enterLedger_besideLedger _ _ _ _ _)) .refl

theorem enterBalanced_besideLedger (s : State) (g : Nat) : GroupKeeps besideLedger g s (s.enterBalanced g) := by
  unfold enterBalanced
  exact .ite (enterLedger_besideLedger _ _ _ _ _) .refl

/-- The state in which the step's entries are made and its COMMIT is done. -/
def stepEntered (s : State) (g : Nat) : State :=
  let s := s.enterBalanced g
  match s.commitOp g with
  | some op => s.complete g op 0 0 false
  | none => s

/-- From `s` to `t` entries of the group's ledger are made and operations end: the step, the buckets, the launches, the other
groups and the other queues stay. -/
structure EntersOnly (g : Nat) (s t : State) : Prop where
  same : SameStep g s t
  buckets : ∀ b, t.bucket b = s.bucket b
  launches : (t.stepExchanges g).map (·.2) = (s.stepExchanges g).map (·.2)
  others : OtherGroups g s t
  queues : OtherQueues g s t

namespace EntersOnly

variable {g : Nat} {s t u : State}

theorem trans (h : EntersOnly g s t) (k : EntersOnly g t u) : EntersOnly g s u where
  same := h.same.trans k.same
  buckets := fun b => (k.buckets b).trans (h.buckets b)
  launches := k.launches.trans h.launches
  others := otherGroups_trans h.others k.others
  queues := fun q hq => (k.queues q hq).trans (h.queues q hq)

/-- Entries in the ledger alone. -/
theorem of_ledger (h : GroupKeeps besideLedger g s t) (only : OnlyChanges [.groups, .events, .stats] s t) :
    EntersOnly g s t where
  same := ⟨only.image_eq, h.2⟩
  buckets := only.bucket_eq
  launches := stepExchanges_launches (f := id) (fun _ => rfl) (fun _ => rfl) (by rw [List.map_id, only.queue_eq])
  others := h.1
  queues := fun q _ => only.queue_eq q

theorem complete (s : State) (g : Nat) (op : QueueOp) (code result : Nat) (flag : Bool) :
    EntersOnly g s (s.complete g op code result flag) where
  same := .of_only complete_only
  buckets := complete_only.bucket_eq
  launches := by
    obtain ⟨f, raw, launch, ops⟩ := s.complete_ops g op code result flag
    exact stepExchanges_launches raw launch ops
  others := fun i _ => complete_only.group_eq i
  queues := complete_otherQueues _ _ _ _ _ _

end EntersOnly

theorem lateEffect_enters (s : State) (g : Nat) (e : Express) : EntersOnly g s (s.lateEffect g e) :=
  .of_ledger (s.lateEffect_besideLedger g e) (lateEffect_only.mono (by decide))

theorem stepEntered_enters (s : State) (g : Nat) : EntersOnly g s (s.stepEntered g) := by
  have balanced : EntersOnly g s (s.enterBalanced g) :=
    .of_ledger (s.enterBalanced_besideLedger g) (enterBalanced_only.mono (by decide))
  unfold stepEntered
  extract_lets u
  split
  · exact balanced.trans (.complete _ _ _ _ _ _)
  · exact balanced

/-! ### The buckets after a commit -/

/-- What a commit leaves of the buckets: the selectors of the group's, the reduced values of those exchanged, and of the
others all but the selector (R98, R203, R217). -/
structure CommitsBuckets (g : Nat) (s u : State) : Prop where
  selector : ∀ d ∈ s.im.bucketsOf g, (u.bucket d.bucket).selector
    = if s.writtenWhole g d = true then !(s.bucket d.bucket).selector else (s.bucket d.bucket).selector
  latched : ∀ x ∈ s.stepExchanges g, ∀ d, s.im.bucketDesc x.2.bucket = some d → ¬s.releasedBeforeSubstitute g d.bucket →
    s.latchedAfter g x.2 d (u.bucket d.bucket)
  kept : ∀ b, (∀ x ∈ s.stepExchanges g, x.2.bucket ≠ b) ∨ s.releasedBeforeSubstitute g b →
    besideSelector (u.bucket b) = besideSelector (s.bucket b)

theorem CommitsBuckets.congr {g : Nat} {s u v : State} (h : CommitsBuckets g s u) (buckets : ∀ b, v.bucket b = u.bucket b) :
    CommitsBuckets g s v where
  selector := fun d hd => by rw [buckets, h.selector d hd]
  latched := fun x hx d hd free => by
    rw [buckets]
    exact h.latched x hx d hd free
  kept := fun b away => by rw [buckets, h.kept b away]

/-- A launch of one list is one of the other. -/
theorem exists_of_launches {l m : List (QueueOp × Launch)} (h : l.map (·.2) = m.map (·.2)) {x : QueueOp × Launch}
    (hx : x ∈ l) : ∃ y ∈ m, y.2 = x.2 :=
  List.mem_map.mp (h ▸ List.mem_map_of_mem hx)

/-- The buckets are turned and latched once the step's entries are made. -/
theorem commitsBuckets_of {s t u : State} {g : Nat} (enters : EntersOnly g s t)
    (after : ∀ b, u.bucket b = ((t.selectorsTurned g).bucketsLatched g).bucket b)
    (nodup : ((s.im.bucketsOf g).map (·.bucket)).Nodup) (once : ((s.stepExchanges g).map (·.2.bucket)).Nodup) :
    CommitsBuckets g s u := by
  have same := enters.same
  have turned : SameStep g s (t.selectorsTurned g) := same.trans (.of_only selectorsTurned_only)
  have exchanges : (t.selectorsTurned g).stepExchanges g = t.stepExchanges g := by
    unfold stepExchanges stepOps
    rw [selectorsTurned_only.queue_eq]
  have launches : ((t.selectorsTurned g).stepExchanges g).map (·.2) = (s.stepExchanges g).map (·.2) := by
    rw [exchanges, enters.launches]
  have numbers : (((t.selectorsTurned g).stepExchanges g).map (·.2.bucket)).Nodup := by
    have mapped := congrArg (List.map Launch.bucket) launches
    rw [List.map_map, List.map_map] at mapped
    exact mapped.symm ▸ once
  have beside (b : Nat) : besideSelector ((t.selectorsTurned g).bucket b) = besideSelector (s.bucket b) := by
    rw [selectorsTurned_beside, enters.buckets]
  exact {
    selector := fun d hd => by
      rw [after, bucketsLatched_selector, selectorsTurned_selector (by rwa [same.im_eq]) (by rwa [same.im_eq]),
        same.writtenWhole_eq, enters.buckets]
    latched := fun x hx d hd free => by
      obtain ⟨y, hy, launch⟩ := exists_of_launches launches.symm hx
      rw [after, ← launch]
      exact turned.latchedAfter_of (bucketsLatched_latches numbers hy (by rw [turned.im_eq, launch, hd])
        fun h => free ((turned.releasedBeforeSubstitute_iff _).mp h)) (beside _)
    kept := fun b h => by
      obtain away | released := h
      · rw [after, bucketsLatched_other fun x hx => ?_, beside]
        obtain ⟨y, hy, launch⟩ := exists_of_launches launches hx
        rw [← launch]
        exact away y hy
      · rw [after, bucketsLatched_kept numbers ((turned.releasedBeforeSubstitute_iff b).mpr released), beside] }

/-! ### The end of a step (R203, R204) -/

/-- The state in which the committed step has ended, before the next one. -/
def stepEnded (s : State) (g : Nat) (ops : List QueueOp) : State :=
  let s := s.freeStep g ((s.group g).record.map (fun r => { r with done := s.now }))
  let s := s.modGroup g (fun gr => { gr with step := gr.step + 1, attempt := 0 })
  (s.dropStepOps g ops).bumpG .commit g 1

/-- The state before the next step of a group. -/
def stepCommitted (s : State) (g : Nat) : State :=
  (((s.stepEntered g).selectorsTurned g).bucketsLatched g).stepEnded g (s.stepOps g)

theorem commitStep_eq (s : State) (g e : Nat) (close : Bool) : s.commitStep g e close =
    if close || decide (((s.stepCommitted g).group g).step = stepMax) then
      ((s.stepCommitted g).modGroup g (fun gr =>
        { gr with state := .closed, actHeld := (s.stepCommitted g).image.pending.isSome })).tryEnterOpen g
    else (s.stepCommitted g).beginStep g (e + 1) := rfl

theorem stepEnded_only {s : State} {g : Nat} {ops : List QueueOp} :
    OnlyChanges [.books, .queues, .groups, .staging, .events, .stats] s (s.stepEnded g ops) :=
  bumpG_only.step (dropStepOps_only.step (modGroup_only.step (freeStep_only.mono (by decide)) (by decide)) (by decide))
    (by decide)

theorem stepEnded_group (s : State) (g : Nat) (ops : List QueueOp) : OtherGroups g s (s.stepEnded g ops)
    ∧ ((s.stepEnded g ops).group g).step = (s.group g).step + 1 ∧ ((s.stepEnded g ops).group g).retained = []
    ∧ ((s.stepEnded g ops).group g).releases = [] := by
  unfold stepEnded
  extract_lets u v
  have ended (i : Nat) : ((v.dropStepOps g ops).bumpG .commit g 1).group i = v.group i :=
    (bumpG_only.group_eq i).trans (dropStepOps_only.group_eq i)
  have freed : OtherGroups g s v := otherGroups_trans (freeStep_group s g _).1 (modGroup_others _ _ _)
  refine ⟨fun i hi => (ended i).trans (freed i hi), ?_⟩
  rw [ended, modGroup_group, show u.group g = _ from modGroup_group _ _ _]
  exact ⟨rfl, rfl, rfl⟩

theorem stepEnded_otherQueues (s : State) (g : Nat) (ops : List QueueOp) : OtherQueues g s (s.stepEnded g ops) := by
  intro q hq
  unfold stepEnded
  extract_lets u v
  have freed : v.queue q = s.queue q := (modGroup_only.queue_eq q).trans (freeStep_only.queue_eq q)
  exact (bumpG_only.queue_eq q).trans ((dropStepOps_otherQueues _ _ _ q hq).trans freed)

/-- What the end of a step leaves, before the next one begins. -/
structure CommitsStep (g : Nat) (s u : State) : Prop where
  step : (u.group g).step = (s.group g).step + 1
  retained : (u.group g).retained = []
  releases : (u.group g).releases = []
  buckets : ((s.im.bucketsOf g).map (·.bucket)).Nodup → ((s.stepExchanges g).map (·.2.bucket)).Nodup → CommitsBuckets g s u
  others : OtherGroups g s u
  queues : OtherQueues g s u

theorem stepCommitted_commits {s t : State} {g : Nat} (enters : EntersOnly g s t) : CommitsStep g s (t.stepCommitted g) := by
  have entered := enters.trans (t.stepEntered_enters g)
  have latched : OnlyChanges [.buckets, .events, .stats] (t.stepEntered g)
      (((t.stepEntered g).selectorsTurned g).bucketsLatched g) :=
    bucketsLatched_only.trans' (selectorsTurned_only.mono (by decide))
  obtain ⟨others, step, retained, releases⟩ :=
    (((t.stepEntered g).selectorsTurned g).bucketsLatched g).stepEnded_group g (t.stepOps g)
  exact {
    step := by rw [stepCommitted, step, latched.group_eq, entered.same.step_eq]
    retained := retained
    releases := releases
    buckets := commitsBuckets_of entered stepEnded_only.bucket_eq
    others := fun i hi => (others i hi).trans ((latched.group_eq i).trans (entered.others i hi))
    queues := fun q hq => (stepEnded_otherQueues _ _ _ q hq).trans ((latched.queue_eq q).trans (entered.queues q hq)) }

/-- What comes after the end of a step leaves what the end of the step brought. -/
theorem CommitsStep.followed {g : Nat} {s u v : State} (h : CommitsStep g s u) (step : (v.group g).step = (u.group g).step)
    (retained : (v.group g).retained = (u.group g).retained) (releases : (v.group g).releases = (u.group g).releases)
    (buckets : ∀ b, v.bucket b = u.bucket b) (others : OtherGroups g u v) (queues : OtherQueues g u v) :
    CommitsStep g s v where
  step := step.trans h.step
  retained := retained.trans h.retained
  releases := releases.trans h.releases
  buckets := fun nodup once => (h.buckets nodup once).congr buckets
  others := otherGroups_trans h.others others
  queues := fun q hq => (queues q hq).trans (h.queues q hq)

theorem releases_of_besideOpen {x y : Group} (h : besideOpen x = besideOpen y) : x.releases = y.releases :=
  congrArg (·.releases) h

/-- The COMMIT with HOLD, or at the step counter's maximum, closes the group. -/
theorem commitStep_closes {s t : State} {g : Nat} {close : Bool} (enters : EntersOnly g s t) (e : Nat)
    (h : close = true ∨ (s.group g).step + 1 = stepMax) :
    CommitsStep g s (t.commitStep g e close) ∧ ((t.commitStep g e close).group g).state = .closed := by
  have ends := stepCommitted_commits enters
  have closes : (close || decide (((t.stepCommitted g).group g).step = stepMax)) = true := by
    rw [ends.step]
    simpa using h
  rw [commitStep_eq, if_pos closes]
  set f : Group → Group := fun gr => { gr with state := .closed, actHeld := (t.stepCommitted g).image.pending.isSome }
  set v := (t.stepCommitted g).modGroup g f
  have group : v.group g = f ((t.stepCommitted g).group g) := modGroup_group _ _ _
  have tried := v.tryEnterOpen_keeps g
  have same := ShowsSame.of_besideOpen tried.2
  refine ⟨ends.followed ?_ ?_ ?_ ?_ ?_ ?_, ?_⟩
  · exact same.step.trans (by rw [group])
  · exact same.retained.trans (by rw [group])
  · exact (releases_of_besideOpen tried.2).trans (by rw [group])
  · exact fun b => (tryEnterOpen_only.bucket_eq b).trans (modGroup_only.bucket_eq b)
  · exact otherGroups_trans (modGroup_others _ _ _) tried.1
  · exact fun q hq => (tryEnterOpen_otherQueues _ _ q hq).trans (modGroup_only.queue_eq q)
  · exact same.state.trans (by rw [group])

theorem beginStep_group (s : State) (g base : Nat) : OtherGroups g s (s.beginStep g base)
    ∧ (s.beginStep g base).group g = { s.group g with
        state := .exchange, base := base, sigma := 0, attempt := 0, openAt := none, stepOpen := true, releasedAt := none
        ctxs := [], parkCount := 0, stats := [], record := some (s.newRecord g base) } :=
  ⟨modGroup_others (s.clearStaging g) _ _, modGroup_group (s.clearStaging g) _ _⟩

/-- Without either the next step begins in EXCHANGE on the tide after the commit's. -/
theorem commitStep_goesOn {s t : State} {g : Nat} (enters : EntersOnly g s t) (e : Nat)
    (h : (s.group g).step + 1 ≠ stepMax) : CommitsStep g s (t.commitStep g e false)
      ∧ ((t.commitStep g e false).group g).state = .exchange ∧ ((t.commitStep g e false).group g).base = e + 1
      ∧ ((t.commitStep g e false).group g).ctxs = [] := by
  have ends := stepCommitted_commits enters
  have goes : ¬(false || decide (((t.stepCommitted g).group g).step = stepMax)) = true := by
    rw [ends.step]
    simpa using h
  rw [commitStep_eq, if_neg goes]
  obtain ⟨others, group⟩ := (t.stepCommitted g).beginStep_group g (e + 1)
  have followed (b : Nat) : ((t.stepCommitted g).beginStep g (e + 1)).bucket b = (t.stepCommitted g).bucket b :=
    beginStep_only.bucket_eq b
  refine ⟨ends.followed ?_ ?_ ?_ followed others fun q _ => beginStep_only.queue_eq q, ?_⟩
  · rw [group]
  · rw [group]
  · rw [group]
  · rw [group]
    exact ⟨rfl, rfl, rfl⟩

theorem commitStep_commits {s t : State} {g : Nat} (enters : EntersOnly g s t) (e : Nat) (close : Bool) :
    CommitsStep g s (t.commitStep g e close) := by
  by_cases last : (s.group g).step + 1 = stepMax
  · exact (commitStep_closes enters e (.inr last)).1
  · cases close
    · exact (commitStep_goesOn enters e last).1
    · exact (commitStep_closes enters e (.inl rfl)).1

/-! ### The effect of the COMMIT (R161, R203) -/

section

variable {s : State} {g n : Nat} {v : Word32} {e : Express}

theorem commitEffect_takes (found : s.commitInstance g = some e) (tide : e.effectAt = some s.now) (result : e.result = some v)
    (abort : (s.group g).abort = none) (state : (s.group g).state = .applied) :
    s.commitEffect g = (s.lateEffect g e).commitStep g (s.tideNear v.toNat) e.flag := by
  unfold commitEffect
  rw [found]
  dsimp only
  rw [tide, result]
  exact if_pos (by simp [abort, state])

theorem commitEffect_waits (found : s.commitInstance g = some e) (tide : e.effectAt = some n) (other : n ≠ s.now) :
    s.commitEffect g = s := by
  unfold commitEffect
  rw [found]
  dsimp only
  rw [tide]
  cases e.result with
  | none => rfl
  | some r => exact if_neg (by simp [other])

/-! ### The OPEN (R138, R199, R211) -/

/-- The OPEN is used up, and a pending activation may hold the group again. -/
def openUsed (s : State) (g : Nat) (e : Express) : State :=
  (s.lateEffect g e).modGroup g (fun x => { x with express := x.express.filter (fun y => y.kind != kOpen), actHeld := false })

theorem openEffect_takes (found : s.findExpress g kOpen 0 = some e) (tide : e.effectAt = some s.now)
    (result : e.result = some v) (abort : (s.group g).abort = none) (mode : s.power.mode = .full)
    (entered : (s.group g).openAt.isSome = true) : s.openEffect g =
      if (s.group g).state == .recovering && (s.group g).recovery.fromState != .closed then
        (s.openUsed g e).resumeStep g (s.tideNear v.toNat)
      else if (s.group g).state == .recovering || (s.group g).state == .closed then
        (s.openUsed g e).joinStep g (s.tideNear v.toNat)
      else s.openUsed g e := by
  unfold openEffect
  rw [found]
  dsimp only
  rw [tide, result]
  exact if_pos (by simp [abort, mode, entered])

theorem openEffect_waits (found : s.findExpress g kOpen 0 = some e) (tide : e.effectAt = some n)
    (h : n ≠ s.now ∨ s.power.mode ≠ .full) : s.openEffect g = s := by
  unfold openEffect
  rw [found]
  dsimp only
  rw [tide]
  cases e.result with
  | none => rfl
  | some r => exact if_neg (by obtain h | h := h <;> simp [h])

end

/-- What of a group says where its step stands: its attempt, its base, its number, and its entry into the OPEN. -/
def standing (x : Group) : Nat × Nat × Nat × Option Nat := (x.attempt, x.base, x.step, x.openAt)

theorem standing_eq_iff {x : Group} {attempt base step : Nat} {openAt : Option Nat} :
    standing x = (attempt, base, step, openAt)
      ↔ x.attempt = attempt ∧ x.base = base ∧ x.step = step ∧ x.openAt = openAt := by
  simp only [standing, Prod.mk.injEq]

theorem openUsed_keeps (s : State) (g : Nat) (e : Express) : GroupKeeps standing g s (s.openUsed g e) :=
  ((s.lateEffect_besideLedger g e).map standing).trans .modGroup

/-- The step begins where the group's OPEN came from CLOSED; a spare's counts as a further attempt. -/
theorem joinStep_group (s : State) (g base : Nat) : OtherGroups g s (s.joinStep g base)
    ∧ ((s.joinStep g base).group g).state = .exchange ∧ ((s.joinStep g base).group g).base = base
    ∧ ((s.joinStep g base).group g).step = (s.group g).step ∧ ((s.joinStep g base).group g).openAt = none
    ∧ ((s.joinStep g base).group g).record.isSome = true := by
  obtain ⟨others, group⟩ := s.beginStep_group g base
  unfold joinStep
  extract_lets gr n u
  split
  · refine ⟨others, ?_⟩
    rw [group]
    exact ⟨rfl, rfl, rfl, rfl, rfl⟩
  · refine ⟨otherGroups_trans others (modGroup_others _ _ _), ?_⟩
    rw [modGroup_group, group]
    exact ⟨rfl, rfl, rfl, rfl, rfl⟩

/-! ### A further attempt (R211, R214, R215) -/

theorem GroupKeeps.foldl_mem {α β : Type} {view : Group → β} {g : Nat} {f : State → α → State} {l : List α}
    (hf : ∀ u, ∀ a ∈ l, GroupKeeps view g u (f u a)) (s : State) : GroupKeeps view g s (l.foldl f s) := by
  induction l generalizing s with
  | nil => exact .refl
  | cons a l ih =>
    exact (hf s a List.mem_cons_self).trans (ih (fun u x hx => hf u x (List.mem_cons_of_mem _ hx)) _)

theorem giveOperand_standing (s : State) (g kind tag op own : Nat) (flag : Bool) :
    GroupKeeps standing g s (s.giveOperand g kind tag op own flag) := (giveOperand_keeps s g kind tag op own flag).map standing

theorem enterStats_standing (s : State) (g b : Nat) : GroupKeeps standing g s (s.enterStats g b) := by
  unfold enterStats
  extract_lets st u v
  have entered : GroupKeeps standing g s v := .trans (t := u) .modGroup (giveOperand_standing _ _ _ _ _ _ _)
  exact .ite .refl (entered.trans ((giveOperand_standing _ _ _ _ _ _ _).trans (giveOperand_standing _ _ _ _ _ _ _)))

theorem checkReleased_standing (s : State) (g : Nat) : GroupKeeps standing g s (s.checkReleased g) := by
  unfold checkReleased
  exact .ite (.trans .modGroup (.modGroup)) .refl

theorem finishOp_standing (s : State) (v : OpView) : GroupKeeps standing v.g s (s.finishOp v) := by
  unfold finishOp
  extract_lets u
  have counted : GroupKeeps standing v.g s u := .ite (.of_only modLaunch_only) (enterStats_standing _ _ _)
  split
  · exact counted.trans (.trans (.of_only complete_only) (checkReleased_standing _ _))
  · exact counted

theorem reenter_standing (s : State) (v : OpView) : GroupKeeps standing v.g s (s.reenter v) := by
  unfold reenter
  exact .ite (finishOp_standing _ _) (.ite .refl (.trans .modGroup (enterStats_standing _ _ _)))

theorem opAt_group {s : State} {g i : Nat} {v : OpView} (h : s.opAt g i = some v) : v.g = g := by
  unfold opAt at h
  simp only [Option.bind_eq_some_iff, Option.map_eq_some_iff] at h
  obtain ⟨o, -, l, -, d, -, q, -, rfl⟩ := h
  rfl

theorem launched_group {s : State} {g : Nat} {v : OpView} (h : v ∈ s.launched g) : v.g = g := by
  obtain ⟨o, -, at_⟩ := List.mem_filterMap.mp h
  exact opAt_group at_

/-- The state in which the further attempt stands, before its operations. -/
def attemptBegun (s : State) (g base : Nat) (ended : Bool) : State :=
  let t := (s.clearStaging g).modGroup g (fun gr =>
    { gr with state := .exchange, base := base, sigma := 0, attempt := gr.attempt + 1, openAt := none, stepOpen := true,
              releasedAt := none, ctxs := [], parkCount := 0, stats := if ended then gr.stats else [], express := [] })
  t.modRecord g (fun r =>
    { r with state := .exchange, base := base, attempt := (t.group g).attempt, done := 0, table := (t.group g).table,
             n := t.ringN g, position := (t.ringPos g).getD 0 })

theorem attemptBegun_group (s : State) (g base : Nat) (ended : Bool) : OtherGroups g s (s.attemptBegun g base ended)
    ∧ standing ((s.attemptBegun g base ended).group g) = ((s.group g).attempt + 1, base, (s.group g).step, none) := by
  unfold attemptBegun
  extract_lets t
  have begun : t.group g = _ := modGroup_group (s.clearStaging g) _ _
  refine ⟨otherGroups_trans (modGroup_others (s.clearStaging g) _ _) (modGroup_others _ _ _), ?_⟩
  rw [modRecord, modGroup_group, begun]
  rfl

theorem resumeStep_eq (s : State) (g base : Nat) : s.resumeStep g base =
    let ended := (s.group g).recovery.action == 0 && s.allReleased g
    let t := s.attemptBegun g base ended
    if ended then (((t.modStepOps g keepOp).launched g).foldl reenter (t.modStepOps g keepOp)).checkReleased g
    else t.modStepOps g (fun o => rewindOp o (t.chunksStand g o)) := rfl

theorem resumeStep_group (s : State) (g base : Nat) : OtherGroups g s (s.resumeStep g base)
    ∧ standing ((s.resumeStep g base).group g) = ((s.group g).attempt + 1, base, (s.group g).step, none) := by
  rw [resumeStep_eq]
  extract_lets ended t
  obtain ⟨others, stands⟩ := s.attemptBegun_group g base ended
  have kept : GroupKeeps standing g t (if ended then
      (((t.modStepOps g keepOp).launched g).foldl reenter (t.modStepOps g keepOp)).checkReleased g
      else t.modStepOps g (fun o => rewindOp o (t.chunksStand g o))) := by
    have again : GroupKeeps standing g (t.modStepOps g keepOp)
        (((t.modStepOps g keepOp).launched g).foldl reenter (t.modStepOps g keepOp)) :=
      .foldl_mem (fun u v hv => launched_group hv ▸ reenter_standing u v) _
    exact .ite (.trans (.of_only modStepOps_only) (again.trans (checkReleased_standing _ _))) (.of_only modStepOps_only)
  exact ⟨otherGroups_trans others kept.1, kept.2.trans stands⟩

end State

/-! ### The commands -/

theorem exec_commitEffect {s : State} (run : s.running = true) (g : Nat) :
    exec (.commitEffect g) s = .next (s.commitEffect g).settle := by
  show execCommitEffect g s = _
  exact whenRunning_run run

theorem exec_openEffect {s : State} (run : s.running = true) (g : Nat) :
    exec (.openEffect g) s = .next (s.openEffect g).settle := by
  show execOpenEffect g s = _
  exact whenRunning_run run

theorem openUsed_only {s : State} {g : Nat} {e : Express} : OnlyChanges [.groups, .events, .stats] s (s.openUsed g e) :=
  State.modGroup_only.step (State.lateEffect_only.mono (by decide)) (by decide)

/-- Settles O43: the COMMIT's effect is the end of the step and what follows it, the OPEN's a step that begins or one more
attempt. -/
theorem commitAdvancesAndOpenBeginsTheStep : Obligations.CommitAdvancesAndOpenBeginsTheStep := by
  unfold Obligations.CommitAdvancesAndOpenBeginsTheStep
  refine ⟨?commit, ?commitWaits, ?begins, ?resumes, ?openWaits⟩
  case commit =>
    rintro g n v e s run found tide result rfl abort state
    have enters := s.lateEffect_enters g e
    have ends := State.commitStep_commits enters (s.tideNear v.toNat) e.flag
    have only : OnlyChanges _ s (s.commitEffect g) := State.commitEffect_only
    have step := exec_commitEffect run g
    rw [State.commitEffect_takes found tide result abort state] at step only
    refine ⟨_, step, ends.step, ends.retained, ends.releases, fun closes => ?_, fun goes below => ?_,
      fun nodup once => ?_, ends.others, ends.queues, only⟩
    · exact (State.commitStep_closes enters _ closes).2
    · rw [goes]
      exact (State.commitStep_goesOn enters _ below).2
    · obtain ⟨selector, latched, kept⟩ := ends.buckets nodup once
      refine ⟨selector, fun x hx d hd free => latched x hx d hd fun released => ?_, fun d _ h => ?_⟩
      · obtain ⟨substituted, before⟩ := released
        obtain free | free := free
        · exact Bool.false_ne_true (free.symm.trans substituted)
        · exact Bool.false_ne_true (free.symm.trans before)
      · exact State.eq_of_besideSelector (kept d.bucket h)
  case commitWaits =>
    intro g n e s run found tide other
    have step := exec_commitEffect run g
    rwa [State.commitEffect_waits found tide other] at step
  case begins =>
    rintro g n v e s run found tide result rfl abort mode entered held
    have step := exec_openEffect run g
    have used := s.openUsed_keeps g e
    obtain ⟨others, state, base, number, openAt, record⟩ := (s.openUsed g e).joinStep_group g (s.tideNear v.toNat)
    rw [State.openEffect_takes found tide result abort mode entered, if_neg (by
      obtain closed | ⟨-, closed⟩ := held <;> simp [closed]), if_pos (by
      obtain closed | ⟨recovering, -⟩ := held <;> simp [*])] at step
    exact ⟨_, step, state, base, number.trans (congrArg (·.2.2.1) used.2), openAt, record,
      State.otherGroups_trans used.1 others, State.joinStep_only.step (openUsed_only.mono (by decide)) (by decide)⟩
  case resumes =>
    rintro g n v e s run found tide result rfl abort mode entered recovering came
    have step := exec_openEffect run g
    have used := s.openUsed_keeps g e
    obtain ⟨others, stands⟩ := (s.openUsed g e).resumeStep_group g (s.tideNear v.toNat)
    obtain ⟨attempt, base, number, openAt⟩ := State.standing_eq_iff.mp stands
    obtain ⟨attempt', -, number', -⟩ := State.standing_eq_iff.mp used.2
    rw [attempt'] at attempt
    rw [State.openEffect_takes found tide result abort mode entered, if_pos (by simp [recovering, came])] at step
    exact ⟨_, step, attempt, base, number.trans number', openAt, State.otherGroups_trans used.1 others,
      State.resumeStep_only.step (openUsed_only.mono (by decide)) (by decide)⟩
  case openWaits =>
    intro g n e s run found tide waits
    have step := exec_openEffect run g
    rwa [State.openEffect_waits found tide waits] at step

end Sys2Proof.Machine

end

/-! ## Trigger counters and fences (R139, R318, R321, R322, R328, R331)

Ready barriers are polled when a counter moves, and what that raises is added to the events that wait; a completion outside a
step leaves no operation at its index. -/

section

namespace Sys2Proof.Machine

set_option Elab.async false

open Sys2Proof

namespace State

/-! ### Events that go on waiting (R387) -/

/-- From `s` to `t` no event ceases to wait: further ones join, or count as repeats. -/
def EventsWait (s t : State) : Prop := ∀ type subject, s.waitsEvent type subject → t.waitsEvent type subject

namespace EventsWait

variable {s t u : State}

theorem of_only {P : List Part} (h : OnlyChanges P s t) (hp : .events ∉ P := by decide) : EventsWait s t :=
  fun _ _ waits => (waitsEvent_congr (h.events_eq hp)).mpr waits

theorem refl : EventsWait s s := fun _ _ waits => waits

theorem trans (h : EventsWait s t) (k : EventsWait t u) : EventsWait s u := fun _ _ waits => k _ _ (h _ _ waits)

theorem ite {c : Prop} [Decidable c] (ht : EventsWait s t) (hu : EventsWait s u) : EventsWait s (if c then t else u) := by
  split
  · exact ht
  · exact hu

theorem foldl {α : Type} {f : State → α → State} (hf : ∀ u a, EventsWait u (f u a)) (l : List α) (s : State) :
    EventsWait s (l.foldl f s) := by
  induction l generalizing s with
  | nil => exact .refl
  | cons a l ih => exact (hf s a).trans (ih _)

end EventsWait

theorem raise_eventsWait {s u : State} (h : u.events = s.events) (e : Event) : EventsWait s (u.raise e) := by
  rintro type subject ⟨x, waits, htype, hsubject⟩
  rw [← h] at waits
  unfold raise
  dsimp only
  split
  · refine ⟨_, List.mem_map_of_mem waits, ?_⟩
    split
    · exact ⟨htype, hsubject⟩
    · exact ⟨htype, hsubject⟩
  · exact ⟨x, List.mem_append_left _ waits, htype, hsubject⟩

theorem bumpBy_eventsWait (s : State) (c : EStat) (k : Nat) : EventsWait s (s.bumpBy c k) := by
  refine .ite (raise_eventsWait ?_ _) .refl
  rfl

theorem bumpCopy_eventsWait (s : State) (c : EStat) (p k : Nat) : EventsWait s (s.bumpCopy c p k) := by
  unfold bumpCopy
  split
  · exact .refl
  · refine .ite (.ite (raise_eventsWait ?_ _) .refl) .refl
    rfl

theorem bumpG_eventsWait (s : State) (c : EStat) (g k : Nat) : EventsWait s (s.bumpG c g k) := by
  unfold bumpG
  split
  · exact (bumpBy_eventsWait _ _ _).trans (bumpCopy_eventsWait _ _ _ _)
  · exact bumpBy_eventsWait _ _ _

theorem forwardReduce_eventsWait (s : State) (g kind tag : Nat) : EventsWait s (s.forwardReduce g kind tag) := by
  unfold forwardReduce
  split
  · split
    · have counted (m m' : Msg) (own : Nat) : EventsWait s (s.countScalar m m' own) := by
        unfold countScalar
        exact .ite (.ite (bumpG_eventsWait _ _ _ _) .refl) .refl
      exact .ite .refl ((counted _ _ _).trans (.trans (.of_only modExpress_only) (.of_only send_only)))
    · exact .refl
  · exact .refl

theorem giveOperand_eventsWait (s : State) (g kind tag op own : Nat) (flag : Bool) :
    EventsWait s (s.giveOperand g kind tag op own flag) := by
  unfold giveOperand
  extract_lets u
  have given : EventsWait s u := .of_only modExpress_only
  clear_value u
  refine given.trans (.ite ?_ (forwardReduce_eventsWait _ _ _ _))
  split
  · exact .ite .refl (.trans (.ite (bumpG_eventsWait _ _ _ _) .refl) (.trans (.of_only modExpress_only) (.of_only send_only)))
  · exact .refl

theorem pollReady_eventsWait (s : State) (g : Nat) : EventsWait s (s.pollReady g) :=
  .foldl (fun _ _ => .ite (giveOperand_eventsWait _ _ _ _ _ _ _) .refl) _ s

theorem pollReadyAll_eventsWait (s : State) : EventsWait s s.pollReadyAll := .foldl pollReady_eventsWait _ s

/-- A dropped add is reported (R331). -/
theorem dropAdd_waitsEvent (s : State) (tag subject arg : Nat) : (s.dropAdd tag subject arg).waitsEvent 0x0020 subject :=
  raise_waitsEvent _ _

/-! ### A completion outside a step (R316, R322) -/

/-- A completed operation is done. -/
theorem complete_done {s : State} {g : Nat} {op o : QueueOp} {code result : Nat} {flag : Bool}
    (h : o ∈ ((s.complete g op code result flag).queue g).ops) (index : o.index = op.index) : o.phase = .done := by
  have ops : ((s.complete g op code result flag).queue g).ops = ((s.modOp g op.index
      (fun o => { o with phase := .done, recorded := true })).queue g).ops := by
    unfold complete
    dsimp only
    repeat' split
    all_goals simp only [modQueue_queue]
  rw [ops, modOp, modQueue_queue] at h
  obtain ⟨x, -, rfl⟩ := List.mem_map.mp h
  by_cases same : x.index = op.index
  · rw [if_pos (by simpa using same)]
  · rw [if_neg (by simpa using same)] at index
    exact absurd index same

/-- No operation is left at the index of one that has completed alone, but of a step. -/
theorem completeAlone_gone {s : State} {g : Nat} {op o : QueueOp} {code result : Nat}
    (h : o ∈ ((s.completeAlone g op code result).queue g).ops) (index : o.index = op.index) : Desc.isStep o.raw = true := by
  rw [completeAlone, dropDone, modQueue_queue] at h
  obtain ⟨mem, stays⟩ := List.mem_filter.mp h
  simpa [complete_done mem index] using stays

/-- What a completion outside a step leaves of the queues: one record more to write, and no operation at its index. -/
structure CompletesAlone (s t : State) (g i : Nat) : Prop where
  due : ∃ r, r.index = i ∧ (t.queue g).due = insertDue r (s.queue g).due
  gone : ∀ o ∈ (t.queue g).ops, o.index = i → Desc.isStep o.raw = true
  others : OtherQueues g s t

theorem completesAlone {s u t : State} {g : Nat} {op : QueueOp} {P : List Part} (code result : Nat)
    (before : ∀ q, u.queue q = s.queue q) (record : op.recorded = false)
    (after : OnlyChanges P (u.completeAlone g op code result) t) (hp : .queues ∉ P := by decide) :
    CompletesAlone s t g op.index := by
  obtain ⟨others, records⟩ := u.completeAlone_records g op code result
  obtain ⟨r, index, due⟩ := records record
  exact {
    due := ⟨r, index, by rw [after.queue_eq g hp, due, before]⟩
    gone := fun o ho => completeAlone_gone (by rwa [after.queue_eq g hp] at ho)
    others := fun q hq => (after.queue_eq q hp).trans ((others q hq).trans (before q)) }

theorem readyOp_index {s : State} {g i k : Nat} {op : QueueOp} (h : s.readyOp g i k = some op) : op.index = i := by
  have found := List.find?_some h
  simp only [Bool.and_eq_true, beq_iff_eq] at found
  exact found.1.1.1

/-! ### Accesses to trigger counters -/

section

variable {s : State} {tag n : Nat}

theorem asTrigger_of_reach (counter : n < 4096) (reach : s.trigReach tag n = true) (host : tag ≤ 8) (off : Nat)
    (f : State → State) : s.asTrigger tag n off f = f (s.touch tag) := by
  unfold asTrigger
  have reach' : (s.touch tag).trigReach tag n = true := reach
  rw [if_neg (by omega)]
  dsimp only
  rw [if_pos reach']

theorem trigPolled_triggers (s : State) : s.pollReadyAll.wakeIfReady.triggers = s.triggers :=
  Eq.trans (wakeIfReady_only .triggers (by decide)) (pollReadyAll_only .triggers (by decide))

theorem writeTrigger_triggers (s : State) (n : Nat) (v : Word32) : (s.writeTrigger n v).triggers = s.triggers.set n v :=
  trigPolled_triggers _

theorem agentAdd_triggers (attached : s.trigDetached n = false) (addr v : Nat) :
    (s.agentAdd tag n addr v).triggers = s.triggers.set n (s.trigger n + BitVec.ofNat 32 v) := by
  unfold agentAdd
  rw [if_neg (by simp [attached])]
  exact trigPolled_triggers _

theorem agentAdd_detached (detached : s.trigDetached n = true) (addr v : Nat) :
    s.agentAdd tag n addr v = s.dropAdd tag addr (tag + 2 ^ 4) :=
  if_pos detached

end

theorem queueAdd_triggers {s : State} {n : Nat} (attached : s.trigDetached n = false) (g i v : Nat) :
    (s.queueAdd g i n v).triggers = s.triggers.set n (s.trigger n + BitVec.ofNat 32 v) := by
  unfold queueAdd
  rw [if_neg (by simp [attached])]
  rfl

theorem queueAdd_detached {s : State} {n : Nat} (detached : s.trigDetached n = true) (g i v : Nat) :
    (s.queueAdd g i n v).triggers = s.triggers ∧ (s.queueAdd g i n v).waitsEvent 0x0020 i := by
  unfold queueAdd
  rw [if_pos detached]
  exact ⟨dropAdd_only .triggers (by decide), dropAdd_waitsEvent _ _ _ _⟩

end State

/-! ### The commands -/

section

variable {s : State} {g i : Nat} {op : QueueOp}

/-- The state in which the add of a TRIGGER_ADD is made and its completion taken. -/
def State.triggerAdded (s : State) (g i : Nat) (op : QueueOp) : State :=
  (s.queueAdd g i (Desc.target op.raw) (Desc.amount op.raw)).completeAlone g op 0 0

theorem exec_triggerAdd (run : s.running = true) (ready : s.readyOp g i Desc.opTriggerAdd = some op) :
    exec (.triggerAdd g i) s = .next (s.triggerAdded g i op).pollReadyAll := by
  show execTriggerAdd g i s = _
  rw [execTriggerAdd, whenRunning_run run, ready]
  rfl

theorem exec_fence (run : s.running = true) (ready : s.readyOp g i Desc.opFence = some op)
    (earlier : ((s.queue g).ops.takeWhile (fun o => o.index != i)).all (fun o => o.phase == .done) = true) :
    exec (.fence g i) s = .next ((s.completeAlone g op 0 0).checkReleased g).pollReadyAll := by
  show execFence g i s = _
  rw [execFence, whenRunning_run run, ready]
  dsimp only
  rw [if_pos earlier]

end

/-- Settles O22: an access is its counter's new value and what it lets go on; a descriptor is its add and its completion. -/
theorem triggersAndFencesComplete : Obligations.TriggersAndFencesComplete := by
  unfold Obligations.TriggersAndFencesComplete
  refine ⟨?write, ?add, ?dropped, ?triggerAdd, ?fence⟩
  case write =>
    intro tag n v s run counter reach host
    have step : exec (.trigValueWrite tag n v) s = .next ((s.touch tag).writeTrigger n v) := by
      show execTrigValueWrite tag n v s = _
      rw [execTrigValueWrite, whenRunning_run run, State.asTrigger_of_reach counter reach host]
    exact ⟨_, step, State.writeTrigger_triggers _ n v, execTrigValueWrite_only step⟩
  case add =>
    intro tag n v s run counter reach host attached
    have step : exec (.trigAdd tag n v) s = .next ((s.touch tag).agentAdd tag n (s.trigAddr tag n 4) v.toNat) := by
      show execTrigAdd tag n v s = _
      rw [execTrigAdd, whenRunning_run run, State.asTrigger_of_reach counter reach host]
      rfl
    have triggers := State.agentAdd_triggers (s := s.touch tag) (tag := tag) attached (s.trigAddr tag n 4) v.toNat
    rw [BitVec.ofNat_toNat, BitVec.setWidth_eq] at triggers
    exact ⟨_, step, triggers, execTrigAdd_only step⟩
  case dropped =>
    intro tag n v s run counter reach host detached
    have step : exec (.trigAdd tag n v) s = .next ((s.touch tag).dropAdd tag (s.trigAddr tag n 4) (tag + 2 ^ 4)) := by
      show execTrigAdd tag n v s = _
      rw [execTrigAdd, whenRunning_run run, State.asTrigger_of_reach counter reach host,
        State.agentAdd_detached (s := s.touch tag) detached]
      rfl
    exact ⟨_, step, State.dropAdd_waitsEvent _ _ _ _,
      State.dropAdd_only.step (State.touch_only.mono (by decide)) (by decide)⟩
  case triggerAdd =>
    intro g i op s run ready record
    have step := exec_triggerAdd run ready
    have polled : OnlyChanges _ (s.triggerAdded g i op) (s.triggerAdded g i op).pollReadyAll := State.pollReadyAll_only
    have completed : OnlyChanges [.queues] _ (s.triggerAdded g i op) := State.completeAlone_only
    have triggers := Eq.trans (polled .triggers (by decide)) (completed .triggers (by decide))
    obtain ⟨⟨r, index, due⟩, gone, others⟩ := State.completesAlone 0 0 State.queueAdd_only.queue_eq record polled
    rw [State.readyOp_index ready] at index gone
    refine ⟨_, r, step, fun attached => ?_, fun detached => ?_, index, due, gone, others, execTriggerAdd_only step⟩
    · exact triggers.trans (State.queueAdd_triggers attached g i _)
    · obtain ⟨kept, waits⟩ := State.queueAdd_detached detached g i (Desc.amount op.raw)
      exact ⟨triggers.trans kept, (State.EventsWait.of_only completed).trans (State.pollReadyAll_eventsWait _) _ _ waits⟩
  case fence =>
    intro g i op s run ready record earlier
    have step := exec_fence run ready earlier
    have after : OnlyChanges [.ports, .groups, .events, .stats] (s.completeAlone g op 0 0)
        ((s.completeAlone g op 0 0).checkReleased g).pollReadyAll :=
      State.pollReadyAll_only.step (State.checkReleased_only.mono (by decide)) (by decide)
    obtain ⟨⟨r, index, due⟩, gone, others⟩ := State.completesAlone 0 0 (fun _ => rfl) record after
    rw [State.readyOp_index ready] at index gone
    exact ⟨_, r, step, index, due, gone, others, execFence_only step⟩

end Sys2Proof.Machine

end

/-! ## Effects of express instances, and waits that run out (R155, R156, R161 to R164, R172, R203, R298) -/

section

namespace Sys2Proof.Machine

set_option Elab.async false

open Sys2Proof

namespace State

/-! ### The instances of a group -/

theorem findExpress_congr {s t : State} {g : Nat} (h : (t.group g).express = (s.group g).express) (kind tag : Nat) :
    t.findExpress g kind tag = s.findExpress g kind tag := by
  unfold findExpress
  rw [h]

/-- A found instance, as a change that leaves it the same and running leaves it. -/
theorem modExpress_find {s : State} {g kind tag : Nat} {e : Express} (found : s.findExpress g kind tag = some e)
    {f : Express → Express} (hf : ∀ x, (f x).kind = x.kind ∧ (f x).tag = x.tag ∧ (f x).done = x.done) :
    (s.modExpress g kind tag f).findExpress g kind tag = some (f e) := by
  unfold findExpress at found
  have runs := List.find?_some found
  have there : (s.group g).express.any (fun e => e.kind == kind && e.tag == tag && !e.done) = true :=
    List.any_eq_true.mpr ⟨e, List.mem_of_find?_eq_some found, runs⟩
  unfold modExpress findExpress
  rw [modGroup_group, if_pos there]
  refine (find?_updateWhere (fun x hx => ?_) _).trans (congrArg (Option.map f) found)
  obtain ⟨kind_eq, tag_eq, done_eq⟩ := hf x
  rwa [kind_eq, tag_eq, done_eq]

/-- No instance that has ended is found. -/
theorem endExpress_find (s : State) (g kind tag : Nat) : (s.endExpress g kind tag).findExpress g kind tag = none := by
  unfold endExpress modExpress findExpress
  rw [modGroup_group, List.find?_eq_none]
  intro x hx
  split at hx
  · obtain ⟨y, -, rfl⟩ := List.mem_map.mp hx
    split
    · simp
    · assumption
  · case isFalse none =>
    obtain old | new := List.mem_append.mp hx
    · exact fun running => none (List.any_eq_true.mpr ⟨x, old, running⟩)
    · rw [List.mem_singleton.mp new]
      simp

/-! ### Completion by an effect (R161, R163, R164) -/

/-- A completion of an operation without a record adds one, of this tide. -/
theorem complete_due {s : State} {g : Nat} {op : QueueOp} (record : op.recorded = false) (code result : Nat) (flag : Bool) :
    ∃ r, r.index = op.index ∧ r.tide = s.now
      ∧ ((s.complete g op code result flag).queue g).due = insertDue r (s.queue g).due := by
  unfold complete
  extract_lets add r u v
  have done : (u.queue g).due = (s.queue g).due := by
    unfold u modOp
    rw [modQueue_queue]
  have waited : (v.queue g).due = (u.queue g).due := by
    unfold v
    split
    · rw [modQueue_queue]
    · rfl
  refine ⟨r, rfl, rfl, ?_⟩
  rw [if_neg (by simp [record]), modQueue_queue]
  exact congrArg (insertDue r) (waited.trans done)

/-- The step's operations are the queue's. -/
theorem stepOps_of_queue {s t : State} {g : Nat} (h : t.queue g = s.queue g) : t.stepOps g = s.stepOps g := by
  unfold stepOps
  rw [h]

theorem expressOpAt_of_queue {s t : State} {g : Nat} (h : t.queue g = s.queue g) (tag : Nat) :
    t.expressOpAt g tag = s.expressOpAt g tag := by
  unfold expressOpAt
  rw [stepOps_of_queue h]

theorem checkReleased_express (s : State) (g : Nat) : GroupKeeps Group.express g s (s.checkReleased g) := by
  unfold checkReleased
  exact .ite (.trans .modGroup .modGroup) .refl

theorem expressEffect_takes {s : State} {g kind tag : Nat} {e : Express} (found : s.findExpress g kind tag = some e)
    (tide : e.effectAt = some s.now) (runs : s.stepRuns g = true) (kinds : kind = kBarrier ∨ kind = kScalar ∨ kind = kReady) :
    s.expressEffect g kind tag = s.effectOf g kind tag e := by
  unfold expressEffect
  rw [found]
  dsimp only
  rw [tide]
  exact if_pos (by obtain rfl | rfl | rfl := kinds <;> simp [runs])

theorem expressEffect_waits {s : State} {g kind tag n : Nat} {e : Express} (found : s.findExpress g kind tag = some e)
    (tide : e.effectAt = some n) (other : n ≠ s.now) : s.expressEffect g kind tag = s := by
  unfold expressEffect
  rw [found]
  dsimp only
  rw [tide]
  exact if_neg (by simp [other])

/-- The effect of a BARRIER or SCALAR: its operation's record, and the end of the instance. -/
structure CompletesExpress (g kind tag : Nat) (op : QueueOp) (s u : State) : Prop where
  ended : u.findExpress g kind tag = none
  due : ∃ r, r.index = op.index ∧ r.tide = s.now ∧ (u.queue g).due = insertDue r (s.queue g).due
  queues : OtherQueues g s u
  others : OtherGroups g s u

theorem effectOf_completes {s : State} {g kind tag : Nat} {op : QueueOp} (kinds : kind = kBarrier ∨ kind = kScalar)
    (at_ : s.expressOpAt g tag = some op) (record : op.recorded = false) (e : Express) :
    CompletesExpress g kind tag op s (s.effectOf g kind tag e) := by
  unfold effectOf
  extract_lets v u w
  have late : OnlyChanges [.groups, .events, .stats] s u := only_ite lateEffect_only .refl
  have lateOthers : OtherGroups g s u := by
    unfold u
    split
    · exact (s.lateEffect_besideLedger g e).1
    · exact fun _ _ => rfl
  have taken : w = u.complete g op 0 (if kind = kScalar then v else 0) (kind == kScalar && e.flag) := by
    unfold w
    rw [expressOpAt_of_queue (late.queue_eq g), at_]
  clear_value w
  obtain ⟨r, index, tide, due⟩ : ∃ r, r.index = op.index ∧ r.tide = u.now
      ∧ (w.queue g).due = insertDue r (u.queue g).due := taken ▸ complete_due record _ _ _
  have completed : OnlyChanges [.queues] u w := taken ▸ complete_only
  have queues : OtherQueues g u w := taken ▸ complete_otherQueues _ _ _ _ _ _
  rw [if_neg (by obtain rfl | rfl := kinds <;> decide)]
  have ends : OnlyChanges [.groups] w ((w.endExpress g kind tag).checkReleased g) :=
    checkReleased_only.step endExpress_only (by decide)
  have released := (w.endExpress g kind tag).checkReleased_express g
  exact {
    ended := (findExpress_congr released.2 kind tag).trans (endExpress_find w g kind tag)
    due := ⟨r, index, tide.trans late.now_eq, by rw [ends.queue_eq, due, late.queue_eq]⟩
    queues := fun q hq => (ends.queue_eq q).trans ((queues q hq).trans (late.queue_eq q))
    others := otherGroups_trans lateOthers (otherGroups_trans (fun i _ => completed.group_eq i)
      (otherGroups_trans (modGroup_others _ _ _) released.1)) }

/-! ### The slip (R155) -/

/-- The state in which the plan has slipped, before the entries that say so. -/
def slipped (s : State) (g i slip : Nat) : State :=
  (s.modOp g i (fun o => { o with slip := some slip, varied := o.varied || slip != 0 })).modGroup g
    (fun gr => { gr with sigma := gr.sigma + slip })

theorem readyEffect_eq {s : State} {g tag e slip : Nat} {op : QueueOp} {d : ImgBucket}
    (found : (s.stepOps g).find? (fun o => Desc.isExchange o.raw && o.index % 1024 == tag) = some op)
    (desc : s.im.bucketDesc (Desc.bucket op.raw) = some d) (h : slip = e + 2 - s.plannedStart g d) :
    s.readyEffect g tag e = if slip = 0 then s.slipped g op.index slip
      else ((s.slipped g op.index slip).enterLedger g 3 d.bucket slip).bumpG .slipTides g slip := by
  unfold readyEffect
  rw [found]
  dsimp only
  rw [desc, h]
  rfl

theorem readyEffect_slips {s : State} {g tag : Nat} {op : QueueOp} {d : ImgBucket}
    (found : (s.stepOps g).find? (fun o => Desc.isExchange o.raw && o.index % 1024 == tag) = some op)
    (desc : s.im.bucketDesc (Desc.bucket op.raw) = some d) (e : Nat) :
    ((s.readyEffect g tag e).group g).sigma = (s.group g).sigma + (e + 2 - s.plannedStart g d)
      ∧ OtherGroups g s (s.readyEffect g tag e) ∧ OtherQueues g s (s.readyEffect g tag e) := by
  rw [readyEffect_eq found desc rfl]
  set slip := e + 2 - s.plannedStart g d
  set u := s.slipped g op.index slip
  have sigma : (u.group g).sigma = (s.group g).sigma + slip := congrArg Group.sigma (modGroup_group _ _ _)
  have others : OtherGroups g s u := modGroup_others _ _ _
  have queues : OtherQueues g s u := modOp_otherQueues _ _ _ _
  have noted : GroupKeeps Group.sigma g u ((u.enterLedger g 3 d.bucket slip).bumpG .slipTides g slip) :=
    ((u.enterLedger_besideLedger g 3 d.bucket slip).map (·.sigma)).trans (.of_only bumpG_only)
  have only : OnlyChanges [.groups, .events, .stats] u ((u.enterLedger g 3 d.bucket slip).bumpG .slipTides g slip) :=
    bumpG_only.step (enterLedger_only.mono (by decide)) (by decide)
  split
  · exact ⟨sigma, others, queues⟩
  · exact ⟨noted.2.trans sigma, otherGroups_trans others noted.1, fun q hq => (only.queue_eq q).trans (queues q hq)⟩

/-- A READY's effect shifts the group's plan by the slip. -/
structure Slips (g tag slip : Nat) (s u : State) : Prop where
  sigma : (u.group g).sigma = (s.group g).sigma + slip
  ended : u.findExpress g kReady tag = none
  others : OtherGroups g s u
  queues : OtherQueues g s u

theorem modExpress_sigma (s : State) (g kind tag : Nat) (f : Express → Express) :
    GroupKeeps Group.sigma g s (s.modExpress g kind tag f) :=
  (s.modExpress_keeps g kind tag f).map Group.sigma

theorem effectOf_slips {s : State} {g tag : Nat} {op : QueueOp} {d : ImgBucket} {e : Express} {v : Word32}
    (result : e.result = some v)
    (found : (s.stepOps g).find? (fun o => Desc.isExchange o.raw && o.index % 1024 == tag) = some op)
    (desc : s.im.bucketDesc (Desc.bucket op.raw) = some d) :
    Slips g tag (s.tideNear v.toNat + 2 - s.plannedStart g d) s (s.effectOf g kReady tag e) := by
  have late := s.lateEffect_besideLedger g e
  have only : OnlyChanges [.groups, .events, .stats] s (s.lateEffect g e) := lateEffect_only
  have sigma : ((s.lateEffect g e).group g).sigma = (s.group g).sigma := congrArg (·.sigma) late.2
  have base : ((s.lateEffect g e).group g).base = (s.group g).base := congrArg (·.base) late.2
  have planned : (s.lateEffect g e).plannedStart g d = s.plannedStart g d := by
    unfold plannedStart
    rw [sigma, base]
  obtain ⟨shifted, others, queues⟩ := readyEffect_slips (s := s.lateEffect g e) (tag := tag)
    (by rw [stepOps_of_queue (only.queue_eq g), found]) (by rw [only.im_eq, desc]) (s.tideNear v.toNat)
  have taken : s.effectOf g kReady tag e
      = ((s.lateEffect g e).readyEffect g tag (s.tideNear v.toNat)).endExpress g kReady tag := by
    unfold effectOf
    rw [result]
    rfl
  have ends := ((s.lateEffect g e).readyEffect g tag (s.tideNear v.toNat)).modExpress_sigma g kReady tag
    (fun e => { e with done := true })
  rw [taken]
  exact {
    sigma := by rw [endExpress, ends.2, shifted, sigma, planned]
    ended := endExpress_find _ _ _ _
    others := otherGroups_trans late.1 (otherGroups_trans others ends.1)
    queues := fun q hq => (endExpress_only.queue_eq q).trans ((queues q hq).trans (only.queue_eq q)) }

/-! ### Waits that run out (R156, R164, R172, R203, R298) -/

/-- What the end of an overdue wait leaves: an abort that concerns no chunk. -/
structure TimesOut (s t : State) (g code : Nat) : Prop where
  abort : (t.group g).abort = some (freshAbort code 0xFFFFF 0xFFF s.now)
  others : OtherGroups g s t
  only : OnlyChanges [.ports, .groups, .events, .stats] s t

/-- A wait ends the step once what is lost has been counted. -/
theorem timesOut {s u : State} {g : Nat} (able : s.abortable g = true) (none : (s.group g).abort = none)
    (counted : OnlyChanges [.events, .stats] s u) (code : Nat) : TimesOut s (u.abortGroup g code) g code where
  abort := by
    rw [← counted.now_eq]
    exact abortGroup_fresh (by unfold abortable at able ⊢; rwa [counted.group_eq]) (by rwa [counted.group_eq]) code
  others := otherGroups_trans (fun i _ => counted.group_eq i) (abort_others _ _ _ _ _)
  only := abortGroup_only.step (counted.mono (by decide)) (by decide)

theorem abortable_of_open {s : State} {g n : Nat} (h : (s.group g).openAt = some n) : s.abortable g = true := by
  simp [abortable, h]

theorem bumpPort_stats_congr {s t : State} (h : t.stats = s.stats) (p : Nat) (c : PStat) (k : Nat) :
    (t.bumpPort p c k).stats = (s.bumpPort p c k).stats := by
  have raised (u : State) (b : Bool) (e : Event) : (if b then u.raise e else u).stats = u.stats := by
    split
    · exact raise_only .stats (by decide)
    · rfl
  unfold bumpPort
  rw [raised, raised, h]

theorem countLost_eq {s : State} {g p : Nat} (h : s.expressRx g = some p) : s.countLost g = s.bumpPort p .expressLost 1 := by
  unfold countLost
  rw [show (s.ringOf g).bind (fun r => s.rxPort r 0) = some p from h]

theorem SamePlan.expressRx_eq {s t : State} (h : s.SamePlan t) (g : Nat) : t.expressRx g = s.expressRx g := by
  unfold expressRx
  simp only [h.ringOf_eq, h.rxPort_eq]

theorem modExpress_samePlan (s : State) (g kind tag : Nat) (f : Express → Express) :
    s.SamePlan (s.modExpress g kind tag f) := by
  refine .modGroup fun x => ?_
  split <;> exact ⟨rfl, rfl⟩

/-- A lost STAT is counted, and the abort state of its group stays (R165, R172). -/
theorem loseStat_counts {s : State} {g tag p : Nat} {e : Express} (found : s.findExpress g kStat tag = some e)
    (port : s.expressRx g = some p) : (s.loseStat g tag).findExpress g kStat tag = some { e with lost := true }
      ∧ GroupKeeps Group.abort g s (s.loseStat g tag) ∧ (s.loseStat g tag).stats = (s.bumpPort p .expressLost 1).stats := by
  set u := s.modExpress g kStat tag (fun e => { e with lost := true })
  have port' : u.expressRx g = some p := ((s.modExpress_samePlan _ _ _ _).expressRx_eq g).trans port
  have counted : s.loseStat g tag = u.bumpPort p .expressLost 1 := countLost_eq port'
  have groups : OnlyChanges [.events, .stats] u (u.bumpPort p .expressLost 1) := bumpPort_only
  have keeps : GroupKeeps Group.abort g s u := .modGroup fun x => by split <;> rfl
  rw [counted]
  refine ⟨?_, keeps.trans (.of_only groups), bumpPort_stats_congr (modExpress_only .stats (by decide)) _ _ _⟩
  rw [findExpress_congr (congrArg Group.express (groups.group_eq g))]
  exact modExpress_find found fun _ => ⟨rfl, rfl, rfl⟩

end State

/-! ### The commands -/

theorem exec_expressEffect {s : State} (run : s.running = true) (g k x : Nat) :
    exec (.expressEffect g k x) s = .next (s.expressEffect g k x).settle := by
  show execExpressEffect g k x s = _
  exact whenRunning_run run

/-- Settles O39: the effect of an instance by its kind, in its tide; in another tide it waits. -/
theorem expressEffectsCompleteOperations : Obligations.ExpressEffectsCompleteOperations := by
  unfold Obligations.ExpressEffectsCompleteOperations
  refine ⟨?completes, ?slips, ?waits⟩
  case completes =>
    rintro g k x n e op s run kinds found tide rfl runs at_ record
    have only : OnlyChanges _ s (s.expressEffect g k x) := State.expressEffect_only
    have step := exec_expressEffect run g k x
    rw [State.expressEffect_takes found tide runs (kinds.imp_right .inl)] at step only
    obtain ⟨ended, ⟨r, index, now, due⟩, queues, others⟩ := State.effectOf_completes kinds at_ record e
    exact ⟨_, r, step, ended, index, now, due, queues, others, only⟩
  case slips =>
    rintro g x n e op d v s run found tide rfl runs result at_ desc
    have only : OnlyChanges _ s (s.expressEffect g kReady x) := State.expressEffect_only
    have step := exec_expressEffect run g kReady x
    rw [State.expressEffect_takes found tide runs (.inr (.inr rfl))] at step only
    obtain ⟨sigma, ended, others, queues⟩ := State.effectOf_slips result at_ desc
    exact ⟨_, step, sigma, ended, others, queues, only⟩
  case waits =>
    intro g k x n e s run found tide other
    have step := exec_expressEffect run g k x
    rwa [State.expressEffect_waits found tide other] at step

section

variable {s : State} {g : Nat} (run : s.running = true) (able : s.abortable g = true) (none : (s.group g).abort = none)

include run able none

open State (TimesOut timesOut)

theorem slipBarrierTimeout_timesOut {i : Nat} {op : QueueOp} {d : ImgBucket}
    (found : (s.stepOps g).find? (fun o => o.index == i) = some op) (desc : s.im.bucketDesc (Desc.bucket op.raw) = some d)
    (waits : s.readyOpen g op = true) (due : s.overdue g (s.plannedStart g d - 2) = true) :
    ∃ t, exec (.slipBarrierTimeout g i) s = .next t ∧ TimesOut s t g 0x01 := by
  refine ⟨(s.countStalled g kReady (op.index % 1024)).abortGroup g 0x01, ?_, timesOut able none State.countStalled_only 0x01⟩
  show execSlipBarrierTimeout g i s = _
  rw [execSlipBarrierTimeout, whenRunning_run run, found]
  dsimp only
  rw [desc]
  dsimp only
  rw [if_pos (by simp [waits, due])]

theorem foldTimeout_timesOut {i : Nat} {v : OpView} (found : s.opAt g i = some v) (runs : s.stepRuns g = true)
    (fold : v.l.fold = .due ∨ v.l.fold = .running)
    (due : s.overdue g (v.verdictTide (v.rounds + v.l.replays.length - 1)) = true) :
    ∃ t, exec (.foldTimeout g i) s = .next t ∧ TimesOut s t g 0x01 := by
  refine ⟨s.abortGroup g 0x01, ?_, timesOut able none .refl 0x01⟩
  show execFoldTimeout g i s = _
  rw [execFoldTimeout, whenRunning_run run, found]
  dsimp only
  rw [if_pos (by obtain fold | fold := fold <;> simp [runs, fold, due])]

theorem expressHoldTimeout_timesOut {k x n : Nat} {e : Express} (found : s.findExpress g k x = some e)
    (kinds : k = kBarrier ∨ k = kScalar) (runs : s.stepRuns g = true) (result : e.result = .none)
    (forwarded : e.forwarded = some n) (origin : s.ringPos g = some 0) (due : s.overdue g n = true) :
    ∃ t, exec (.expressHoldTimeout g k x) s = .next t ∧ TimesOut s t g 0x01 := by
  refine ⟨(s.countLost g).abortGroup g 0x01, ?_, timesOut able none State.countLost_only 0x01⟩
  show execExpressHoldTimeout g k x s = _
  rw [execExpressHoldTimeout, whenRunning_run run, found]
  dsimp only
  rw [forwarded]
  dsimp only
  rw [if_pos (by obtain rfl | rfl := kinds <;> simp [runs, result, origin, due])]

theorem commitHoldTimeout_released {n : Nat} (at_ : (s.group g).releasedAt = some n) (state : (s.group g).state = .released)
    (holds : s.ringPos g = some 0 ∨ ∃ e, s.commitInstance g = some e ∧ e.held.isSome = true) (due : s.overdue g n = true) :
    ∃ t, exec (.commitHoldTimeout g) s = .next t ∧ TimesOut s t g 0x01 := by
  refine ⟨(s.bumpG .commitTimeout g 1).abortGroup g 0x01, ?_, timesOut able none State.bumpG_only 0x01⟩
  show execCommitHoldTimeout g s = _
  rw [execCommitHoldTimeout, whenRunning_run run]
  dsimp only
  rw [at_]
  dsimp only
  rw [if_pos (by
    obtain origin | ⟨e, found, held⟩ := holds
    · simp [state, none, due, origin]
    · simp [state, none, due, found, held])]

theorem commitHoldTimeout_lapLost {n : Nat} (at_ : (s.group g).releasedAt = some n) (state : (s.group g).state = .applied)
    (lost : s.lapLost g = true) : ∃ t, exec (.commitHoldTimeout g) s = .next t ∧ TimesOut s t g 0x01 := by
  refine ⟨(s.countLost g).abortGroup g 0x01, ?_, timesOut able none State.countLost_only 0x01⟩
  show execCommitHoldTimeout g s = _
  rw [execCommitHoldTimeout, whenRunning_run run]
  dsimp only
  rw [at_]
  dsimp only
  rw [if_neg (by simp [state]), if_pos (by simp [state, none, lost])]

theorem broadcastLossTimeout_timesOut {k x n : Nat} {e : Express} (found : s.findExpress g k x = some e)
    (forwarded : e.forwarded = some n) (kind : k ≠ kStat) (result : e.result = .none) (follower : s.ringPos g ≠ some 0)
    (due : s.overdue g (n + s.hG g) = true) : ∃ t, exec (.broadcastLossTimeout g k x) s = .next t ∧ TimesOut s t g 0x01 := by
  refine ⟨(s.countLost g).abortGroup g 0x01, ?_, timesOut able none State.countLost_only 0x01⟩
  show execBroadcastLossTimeout g k x s = _
  rw [execBroadcastLossTimeout, whenRunning_run run, found]
  dsimp only
  rw [forwarded]
  dsimp only
  rw [if_pos (by simp [result, none, due]), if_neg kind, if_neg follower]

end

section

variable {s : State} {g n : Nat} (run : s.running = true) (none : (s.group g).abort = none)

include run none

open State (TimesOut timesOut)

/-- The OPEN times out, with 0x07 where a neighbour holds the shadow image's hash (R298). -/
theorem openTimeout_timesOut (entered : (s.group g).openAt = some n) (due : s.overdue g n = true)
    (unanswered : (s.group g).express.any (fun e => e.kind == kOpen && e.result.isSome) = false) :
    ∃ t, exec (.openTimeout g) s = .next t ∧ TimesOut s t g (if s.neighboursWith g 2 = true then 0x07 else 0x01) := by
  have able := State.abortable_of_open entered
  have step : exec (.openTimeout g) s = .next (if s.neighboursWith g 2 = true then (s.bump .imageMismatch).abortGroup g 0x07
      else (s.countStalled g kOpen 0).abortGroup g 0x01) := by
    show execOpenTimeout g s = _
    rw [execOpenTimeout, whenRunning_run run]
    rw [entered]
    dsimp only
    rw [if_pos (by simp [due, none, unanswered])]
  refine ⟨_, step, ?_⟩
  split
  · exact timesOut able none State.bump_only 0x07
  · exact timesOut able none State.countStalled_only 0x01

theorem exec_broadcastLossTimeout_stat {x : Nat} {e : Express} (found : s.findExpress g kStat x = some e)
    (forwarded : e.forwarded = some n) (result : e.result = .none) (due : s.overdue g (n + s.hG g) = true) :
    exec (.broadcastLossTimeout g kStat x) s = .next (if e.lost then s else s.loseStat g x) := by
  show execBroadcastLossTimeout g kStat x s = _
  rw [execBroadcastLossTimeout, whenRunning_run run, found]
  dsimp only
  rw [forwarded]
  dsimp only
  rw [if_pos (by simp [result, none, due]), if_pos rfl]

end

/-- An overdue wait ends its step or OPEN with 0x01. -/
theorem overdueWait_timesOut {s : State} {g : Nat} {c : Instr} (run : s.running = true) (h : s.overdueWait c g) :
    ∃ t, exec c s = .next t ∧ State.TimesOut s t g 0x01 := by
  obtain ⟨able, none, waits⟩ := h
  obtain ⟨i, op, d, rfl, found, desc, opened, due⟩ | ⟨i, v, rfl, found, runs, fold, due⟩
    | ⟨n, rfl, entered, due, unanswered, apart⟩ | ⟨k, x, e, n, rfl, found, kinds, runs, result, forwarded, origin, due⟩
    | ⟨n, rfl, at_, state, holds, due⟩ | ⟨n, rfl, at_, state, lost⟩
    | ⟨k, x, e, n, rfl, found, forwarded, kind, result, follower, due⟩ := waits
  · exact slipBarrierTimeout_timesOut run able none found desc opened due
  · exact foldTimeout_timesOut run able none found runs fold due
  · have ends := openTimeout_timesOut run none entered due unanswered
    rwa [if_neg (by simp [apart])] at ends
  · exact expressHoldTimeout_timesOut run able none found kinds runs result forwarded origin due
  · exact commitHoldTimeout_released run able none at_ state holds due
  · exact commitHoldTimeout_lapLost run able none at_ state lost
  · exact broadcastLossTimeout_timesOut run able none found forwarded kind result follower due

/-- Settles O40: each wait has its command's own test, and all end in the same abort; a lost STAT is counted instead. -/
theorem overdueWaitsAbortWithTimeout : Obligations.OverdueWaitsAbortWithTimeout := by
  unfold Obligations.OverdueWaitsAbortWithTimeout
  refine ⟨?waits, ?hash, ?stat⟩
  case waits =>
    intro g c s run overdue
    obtain ⟨t, step, ends⟩ := overdueWait_timesOut run overdue
    exact ⟨t, step, ends.abort, ends.others, ends.only⟩
  case hash =>
    intro g n s run none entered due unanswered neighbours
    obtain ⟨t, step, ends⟩ := openTimeout_timesOut run none entered due unanswered
    rw [if_pos neighbours] at ends
    exact ⟨t, step, ends.abort, ends.others, ends.only⟩
  case stat =>
    intro g x n p e s run found forwarded result none due
    have step := exec_broadcastLossTimeout_stat run none found forwarded result due
    refine ⟨fun lost => by rwa [if_pos lost] at step, fun kept port => ?_⟩
    rw [if_neg (by simp [kept])] at step
    obtain ⟨counted, keeps, stats⟩ := State.loseStat_counts found port
    exact ⟨_, _, step, counted, rfl, keeps.2.trans none, stats, keeps.1, State.loseStat_only⟩

end Sys2Proof.Machine

end

/-! ## Verdicts and releases (R149, R166, R167, R187, R189, R194, R201)

A passed verdict is a release with entries beside it, so that what a round puts out is what its releases put out. -/

section

namespace Sys2Proof.Machine

set_option Elab.async false

open Sys2Proof

namespace State

/-! ### Entries of the step record (R206) -/

/-- The entries of a group's step record. -/
def stepEntries (x : Group) : Option (List RecEntry) := x.record.map (·.entries)

theorem entry_of_keeps {g : Nat} {s t : State} (h : GroupKeeps stepEntries g s t) (b c : Nat) :
    t.entry g b c = s.entry g b c := by
  have found (u : State) : u.entry g b c
      = (stepEntries (u.group g)).bind (fun l => l.find? (fun e => e.bucket == b && e.chunk == c)) := by
    unfold entry stepEntries
    cases (u.group g).record <;> rfl
  rw [found, found, h.2]

theorem find?_updateWhere_away {α : Type} {p q : α → Bool} {f : α → α}
    (h : ∀ x, p x = true → q x = false ∧ q (f x) = false) (l : List α) : (updateWhere p f l).find? q = l.find? q := by
  induction l with
  | nil => rfl
  | cons x l ih =>
    unfold updateWhere at ih ⊢
    rw [List.map_cons, List.find?_cons, List.find?_cons, ih]
    by_cases hx : p x = true
    · rw [if_pos hx, (h x hx).1, (h x hx).2]
    · rw [if_neg hx]

/-- A chunk's entry after a change of it, which makes one where there is none. -/
theorem modEntry_entry (s : State) (g b c : Nat) {f : RecEntry → RecEntry}
    (hf : ∀ e, (f e).bucket = e.bucket ∧ (f e).chunk = e.chunk) : (s.modEntry g b c f).entry g b c
      = (s.group g).record.map (fun _ => f ((s.entry g b c).getD { chunk := c, bucket := b })) := by
  unfold modEntry modRecord entry
  rw [modGroup_group]
  cases (s.group g).record with
  | none => rfl
  | some r =>
    simp only [Option.map_some, Option.bind_some]
    split
    · case isTrue there =>
      rw [find?_updateWhere (fun e he => by rwa [(hf e).1, (hf e).2])]
      obtain ⟨e, he⟩ := Option.isSome_iff_exists.mp (List.find?_isSome.mpr (List.any_eq_true.mp there))
      rw [he]
      rfl
    · case isFalse absent =>
      have none : r.entries.find? (fun e => e.bucket == b && e.chunk == c) = none := by
        rw [List.find?_eq_none]
        exact fun e he found => absent (List.any_eq_true.mpr ⟨e, he, found⟩)
      rw [List.find?_append, none, Option.none_or, List.find?_singleton, if_pos (by rw [(hf _).1, (hf _).2]; simp)]
      rfl

theorem modEntry_entry_other (s : State) (g : Nat) {b c b' c' : Nat} (other : ¬(b' = b ∧ c' = c)) {f : RecEntry → RecEntry}
    (hf : ∀ e, (f e).bucket = e.bucket ∧ (f e).chunk = e.chunk) : (s.modEntry g b c f).entry g b' c' = s.entry g b' c' := by
  have away (e : RecEntry) (he : (e.bucket == b && e.chunk == c) = true) : (e.bucket == b' && e.chunk == c') = false := by
    simp only [Bool.and_eq_true, beq_iff_eq] at he
    obtain ⟨rfl, rfl⟩ := he
    rw [Bool.eq_false_iff]
    intro same
    simp only [Bool.and_eq_true, beq_iff_eq] at same
    exact other ⟨same.1.symm, same.2.symm⟩
  unfold modEntry modRecord entry
  rw [modGroup_group]
  cases (s.group g).record with
  | none => rfl
  | some r =>
    simp only [Option.map_some, Option.bind_some]
    split
    · exact find?_updateWhere_away (fun e he => ⟨away e he, by rw [(hf e).1, (hf e).2]; exact away e he⟩) _
    · have made := away { chunk := c, bucket := b } (by simp)
      rw [List.find?_append, List.find?_singleton, (hf _).1, (hf _).2, if_neg (Bool.eq_false_iff.mp made), Option.or_none]

/-- A chunk's entry says that it is released and its verdict taken. -/
def settled (s : State) (g b c : Nat) : Prop := (s.entry g b c).map (fun e => e.released && e.vTaken) = some true

theorem settled_of_keeps {g : Nat} {s t : State} (h : GroupKeeps stepEntries g s t) {b c : Nat} (hs : s.settled g b c) :
    t.settled g b c := by
  unfold settled at *
  rwa [entry_of_keeps h]

theorem modEntry_settled {s : State} {g b c b' c' : Nat} {f : RecEntry → RecEntry}
    (hf : ∀ e, (f e).bucket = e.bucket ∧ (f e).chunk = e.chunk)
    (keeps : ∀ e : RecEntry, (e.released && e.vTaken) = true → ((f e).released && (f e).vTaken) = true)
    (hs : s.settled g b' c') : (s.modEntry g b c f).settled g b' c' := by
  by_cases same : b' = b ∧ c' = c
  · obtain ⟨rfl, rfl⟩ := same
    unfold settled at *
    obtain ⟨e, he, done⟩ := Option.map_eq_some_iff.mp hs
    obtain ⟨r, hr, -⟩ := Option.bind_eq_some_iff.mp he
    rw [modEntry_entry s g _ _ hf, hr, he]
    exact congrArg some (keeps e done)
  · unfold settled at *
    rwa [modEntry_entry_other s g same hf]

/-! ### What a verdict changes of its group -/

/-- A group beside what verdicts and releases change of it: the entries of its record, its ledger, its releases, its statistics
and the count of parked chunks. -/
def besideVerdict (x : Group) : Group :=
  { x with record := x.record.map (fun r => { r with entries := [] }), ledger := [], releases := [], stats := [], parkCount := 0 }

theorem record_of_besideVerdict {x y : Group} (h : besideVerdict x = besideVerdict y) : x.record.isSome = y.record.isSome := by
  have same : (x.record.map (fun r => { r with entries := [] })).isSome
      = (y.record.map (fun r => { r with entries := [] })).isSome := congrArg (·.record.isSome) h
  rwa [Option.isSome_map, Option.isSome_map] at same

/-- Groups beside their releases, their statistics and their contexts. -/
def besideReleases (x : Group) : Group := { x with releases := [] }
def besideStats (x : Group) : Group := { x with stats := [] }
def besideCtxs (x : Group) : Group := { x with ctxs := [] }

theorem modCtx_besideCtxs (s : State) (g b c : Nat) (f : Ctx → Ctx) : GroupKeeps besideCtxs g s (s.modCtx g b c f) := .modGroup

theorem modEntry_besideVerdict (s : State) (g b c : Nat) (f : RecEntry → RecEntry) :
    GroupKeeps besideVerdict g s (s.modEntry g b c f) := by
  unfold modEntry modRecord
  refine .modGroup fun x => ?_
  unfold besideVerdict
  dsimp only
  rw [Option.map_map]
  congr 2
  funext r
  rw [Function.comp_apply]
  split <;> rfl

/-! ### Releases (R149, R201) -/

theorem sendRelease_besideReleases (s : State) (g kind b c len addr : Nat) :
    GroupKeeps besideReleases g s (s.sendRelease g kind b c len addr) := by
  unfold sendRelease
  extract_lets u n old numbered sent
  exact .trans (t := sent) (.of_groups rfl) .modGroup

theorem sendRelease_entries (s : State) (g kind b c len addr : Nat) :
    GroupKeeps stepEntries g s (s.sendRelease g kind b c len addr) :=
  (s.sendRelease_besideReleases g kind b c len addr).map stepEntries

/-- A release record goes to the update unit of its address, with the unit's next RSEQ. -/
theorem sendRelease_sends (s : State) (g kind b c len addr : Nat) : (s.sendRelease g kind b c len addr).out = s.out
      ++ [.release (Config.updateUnit addr) (releaseBytes ((s.unit (Config.updateUnit addr)).rseq + 1).toNat g kind b c
        (s.group g).step len addr)]
    ∧ (s.sendRelease g kind b c len addr).units = s.units.set (Config.updateUnit addr)
        { s.unit (Config.updateUnit addr) with rseq := (s.unit (Config.updateUnit addr)).rseq + 1 } := ⟨rfl, rfl⟩

/-- A release's entry, where there is a step record. -/
def markReleased (s : State) (v : OpView) (c : Nat) : State :=
  s.modEntry v.g v.d.bucket c (fun e => { e with released := true })

theorem markReleased_entry (s : State) (v : OpView) (c : Nat) : ((s.markReleased v c).entry v.g v.d.bucket c).map (·.released)
    = (s.group v.g).record.map (fun _ => true) := by
  rw [markReleased, modEntry_entry]
  · cases (s.group v.g).record <;> rfl
  · exact fun _ => ⟨rfl, rfl⟩

theorem markReleased_entry_other (s : State) (v : OpView) {b c c' : Nat} (other : ¬(b = v.d.bucket ∧ c' = c)) :
    (s.markReleased v c).entry v.g b c' = s.entry v.g b c' :=
  modEntry_entry_other _ _ other fun _ => ⟨rfl, rfl⟩

/-- The record of a chunk's release, sent. -/
def chunkSent (s : State) (v : OpView) (c kind : Nat) : State :=
  s.sendRelease v.g kind v.d.bucket c (outputBytes v c) (Desc.outAddr v.op.raw + outOffset v c)

theorem release_eq (s : State) (v : OpView) (c kind : Nat) :
    s.release v c kind = if s.released v c = true then s else (s.chunkSent v c kind).markReleased v c := rfl

theorem release_besideVerdict (s : State) (v : OpView) (c kind : Nat) : GroupKeeps besideVerdict v.g s (s.release v c kind) :=
  .ite .refl (((s.sendRelease_besideReleases _ _ _ _ _ _).map besideVerdict).trans (modEntry_besideVerdict _ _ _ _ _))

/-- What a release reads and puts out is the same in `s` and `t`. -/
structure ReleasesAlike (g : Nat) (s t : State) : Prop where
  out : t.out = s.out
  units : t.units = s.units
  step : (t.group g).step = (s.group g).step
  record : (t.group g).record.isSome = (s.group g).record.isSome
  released : ∀ b c, ((t.entry g b c).map (·.released)).getD false = ((s.entry g b c).map (·.released)).getD false

namespace ReleasesAlike

variable {g : Nat} {s t u : State}

theorem refl : ReleasesAlike g s s := ⟨rfl, rfl, rfl, rfl, fun _ _ => rfl⟩

theorem trans (h : ReleasesAlike g s t) (k : ReleasesAlike g t u) : ReleasesAlike g s u :=
  ⟨k.out.trans h.out, k.units.trans h.units, k.step.trans h.step, k.record.trans h.record,
    fun b c => (k.released b c).trans (h.released b c)⟩

/-- Where the step and its record stay, and nothing goes out. -/
theorem of_record {P : List Part} (only : OnlyChanges P s t) (step : (t.group g).step = (s.group g).step)
    (record : (t.group g).record = (s.group g).record) (ho : .out ∉ P := by decide) (hu : .units ∉ P := by decide) :
    ReleasesAlike g s t where
  out := only.out_eq ho
  units := only .units hu
  step := step
  record := congrArg Option.isSome record
  released := fun b c => by
    unfold entry
    rw [record]

end ReleasesAlike

theorem sendRelease_alike {s t : State} {g : Nat} (h : ReleasesAlike g s t) (kind b c len addr : Nat) :
    ReleasesAlike g (s.sendRelease g kind b c len addr) (t.sendRelease g kind b c len addr) := by
  have unit : t.unit (Config.updateUnit addr) = s.unit (Config.updateUnit addr) := by
    unfold State.unit
    rw [h.units]
  have keeps (u : State) := (u.sendRelease_besideReleases g kind b c len addr).2
  have step (u : State) : ((u.sendRelease g kind b c len addr).group g).step = (u.group g).step := congrArg (·.step) (keeps u)
  have record (u : State) : ((u.sendRelease g kind b c len addr).group g).record = (u.group g).record :=
    congrArg (·.record) (keeps u)
  obtain ⟨outS, unitsS⟩ := s.sendRelease_sends g kind b c len addr
  obtain ⟨outT, unitsT⟩ := t.sendRelease_sends g kind b c len addr
  exact {
    out := by rw [outT, outS, h.out, unit, h.step]
    units := by rw [unitsT, unitsS, h.units, unit]
    step := by rw [step, step, h.step]
    record := by rw [record, record, h.record]
    released := fun b' c' => by
      rw [entry_of_keeps (t.sendRelease_entries _ _ _ _ _ _), entry_of_keeps (s.sendRelease_entries _ _ _ _ _ _), h.released] }

theorem markReleased_alike {s t : State} {v : OpView} (h : ReleasesAlike v.g s t) (c : Nat) :
    ReleasesAlike v.g (s.markReleased v c) (t.markReleased v c) := by
  have keeps (u : State) : besideVerdict ((u.markReleased v c).group v.g) = besideVerdict (u.group v.g) :=
    (u.modEntry_besideVerdict v.g v.d.bucket c _).2
  have step (u : State) : ((u.markReleased v c).group v.g).step = (u.group v.g).step := congrArg (·.step) (keeps u)
  have record (u : State) := record_of_besideVerdict (keeps u)
  exact {
    out := h.out
    units := h.units
    step := by rw [step, step, h.step]
    record := by rw [record, record, h.record]
    released := fun b c' => by
      by_cases same : b = v.d.bucket ∧ c' = c
      · obtain ⟨rfl, rfl⟩ := same
        have there := h.record
        rw [markReleased_entry, markReleased_entry]
        cases ht : (t.group v.g).record <;> cases hs : (s.group v.g).record <;> simp_all
      · rw [markReleased_entry_other _ _ same, markReleased_entry_other _ _ same, h.released] }

/-- A release is the same where what it reads is the same. -/
theorem release_alike {s t : State} {v : OpView} (h : ReleasesAlike v.g s t) (c kind : Nat) :
    ReleasesAlike v.g (s.release v c kind) (t.release v c kind) := by
  rw [release_eq, release_eq, show t.released v c = s.released v c from h.released _ _]
  split
  · exact h
  · exact markReleased_alike (sendRelease_alike h _ _ _ _ _) c

/-- A released chunk's entry says so, where there is a step record. -/
theorem release_released {s : State} {v : OpView} (record : (s.group v.g).record.isSome = true) (c kind : Nat) :
    ((s.release v c kind).entry v.g v.d.bucket c).map (·.released) = some true := by
  rw [release_eq]
  split
  · case isTrue before =>
    unfold released at before
    cases h : (s.entry v.g v.d.bucket c).map (·.released) <;> simp_all
  · have record' : ((s.chunkSent v c kind).group v.g).record = (s.group v.g).record :=
      congrArg (·.record) (s.sendRelease_besideReleases v.g kind v.d.bucket c _ _).2
    obtain ⟨r, hr⟩ := Option.isSome_iff_exists.mp record
    rw [markReleased_entry, record', hr]
    rfl

/-- What the release of a chunk not released before puts out (R201). -/
theorem release_sends {s : State} {v : OpView} {c a : Nat} (free : s.released v c = false)
    (addr : a = Desc.outAddr v.op.raw + outOffset v c) (kind : Nat) : (s.release v c kind).out = s.out
        ++ [.release (Config.updateUnit a) (releaseBytes ((s.unit (Config.updateUnit a)).rseq + 1).toNat v.g kind v.d.bucket c
          (s.group v.g).step (outputBytes v c) a)]
      ∧ ((s.release v c kind).unit (Config.updateUnit a)).rseq = (s.unit (Config.updateUnit a)).rseq + 1 := by
  obtain ⟨out, units⟩ := s.sendRelease_sends v.g kind v.d.bucket c (outputBytes v c) a
  rw [release_eq, if_neg (by simp [free]), chunkSent, ← addr]
  refine ⟨out, ?_⟩
  show (Tbl.get _ (s.sendRelease v.g kind v.d.bucket c (outputBytes v c) a).units (Config.updateUnit a)).rseq = _
  rw [units, Tbl.get_set_same]

theorem release_settled {s : State} {v : OpView} {b c' : Nat} (hs : s.settled v.g b c') (c kind : Nat) :
    (s.release v c kind).settled v.g b c' := by
  rw [release_eq]
  split
  · exact hs
  · exact modEntry_settled (fun _ => ⟨rfl, rfl⟩) (fun e done => by simp_all)
      (settled_of_keeps (s.sendRelease_entries _ _ _ _ _ _) hs)

/-! ### A verdict's entries (R167, R206) -/

/-- The state in which the entry of a nonfinite verdict is made, before the verdict's own. -/
def nonfiniteNoted (s : State) (v : OpView) (c bits : Nat) : State :=
  if bitAt bits 2 && s.zeroPolicy v.g then s.enterLedger v.g 7 v.d.bucket c else s

theorem noteVerdict_eq (s : State) (v : OpView) (c bits : Nat) : s.noteVerdict v c bits
    = (s.nonfiniteNoted v c bits).modEntry v.g v.d.bucket c (fun e =>
        { e with verdict := bits, vTaken := true, replays := (s.nonfiniteNoted v c bits).replaysOf v c }) := rfl

theorem nonfiniteNoted_besideLedger (s : State) (v : OpView) (c bits : Nat) :
    GroupKeeps besideLedger v.g s (s.nonfiniteNoted v c bits) := .ite (enterLedger_besideLedger _ _ _ _ _) .refl

theorem nonfiniteNoted_entries (s : State) (v : OpView) (c bits : Nat) :
    GroupKeeps stepEntries v.g s (s.nonfiniteNoted v c bits) := (s.nonfiniteNoted_besideLedger v c bits).map stepEntries

theorem noteVerdict_besideVerdict (s : State) (v : OpView) (c bits : Nat) :
    GroupKeeps besideVerdict v.g s (s.noteVerdict v c bits) :=
  ((s.nonfiniteNoted_besideLedger v c bits).map besideVerdict).trans (modEntry_besideVerdict _ _ _ _ _)

theorem noteVerdict_alike (s : State) (v : OpView) (c bits : Nat) : ReleasesAlike v.g s (s.noteVerdict v c bits) where
  out := noteVerdict_only.out_eq
  units := noteVerdict_only .units (by decide)
  step := congrArg (·.step) (s.noteVerdict_besideVerdict v c bits).2
  record := record_of_besideVerdict (s.noteVerdict_besideVerdict v c bits).2
  released := fun b e => by
    rw [noteVerdict_eq, modEntry_released, entry_of_keeps (s.nonfiniteNoted_entries v c bits)]
    exact fun _ => ⟨rfl, rfl, rfl⟩

theorem noteVerdict_settled {s : State} {v : OpView} {b c' : Nat} (hs : s.settled v.g b c') (c bits : Nat) :
    (s.noteVerdict v c bits).settled v.g b c' :=
  modEntry_settled (fun _ => ⟨rfl, rfl⟩) (fun e done => by simp_all) (settled_of_keeps (s.nonfiniteNoted_entries v c bits) hs)

/-- A released chunk whose verdict is entered is settled. -/
theorem noteVerdict_settles {s : State} {v : OpView} {c : Nat}
    (released : (s.entry v.g v.d.bucket c).map (·.released) = some true) (bits : Nat) :
    (s.noteVerdict v c bits).settled v.g v.d.bucket c := by
  obtain ⟨e, he, done⟩ := Option.map_eq_some_iff.mp released
  have he' := (entry_of_keeps (s.nonfiniteNoted_entries v c bits) v.d.bucket c).trans he
  obtain ⟨r, hr, -⟩ := Option.bind_eq_some_iff.mp he'
  rw [noteVerdict_eq, settled, modEntry_entry, hr, he']
  · simp [done]
  · exact fun _ => ⟨rfl, rfl⟩

theorem countFailed_besideLedger (s : State) (v : OpView) (c bits : Nat) :
    GroupKeeps besideLedger v.g s (s.countFailed v c bits) :=
  .trans (.of_only bumpG_only) (enterLedger_besideLedger _ _ _ _ _)

/-! ### A passed chunk (R98, R149, R187) -/

/-- The state in which a passed chunk's statistics count. -/
def chunkCounted (s : State) (v : OpView) (c : Nat) : State :=
  match s.ctx v.g v.d.bucket c with
  | some x => s.addCounts v.g v.d.bucket x.bay x.cove x.clip x.ovf
  | none => s

theorem chunkCounted_besideStats (s : State) (v : OpView) (c : Nat) : GroupKeeps besideStats v.g s (s.chunkCounted v c) := by
  unfold chunkCounted
  split
  · unfold addCounts modStats
    exact .modGroup
  · exact .refl

theorem chunkCounted_only {s : State} {v : OpView} {c : Nat} : OnlyChanges [.groups] s (s.chunkCounted v c) := by
  unfold chunkCounted
  split
  · exact addCounts_only
  · exact .refl

/-- What a passed verdict makes of its context, and of the operation's chunks that wait. -/
def passedCtx (x : Ctx) : Ctx := { x with vTaken := true, vPass := true }
def withoutChunk (c : Nat) (l : Launch) : Launch := { l with waiting := l.waiting.filter (· != c) }

theorem passChunk_eq (s : State) (v : OpView) (c bits : Nat) : s.passChunk v c bits
    = ((((s.chunkCounted v c).release v c 0).noteVerdict v c bits).modCtx v.g v.d.bucket c passedCtx).modLaunch v.g v.op.index
        (withoutChunk c) := rfl

/-- The verdicts of an operation's chunks, where contexts change in other respects. -/
theorem modCtx_verdictOf (s : State) (v : OpView) (c : Nat) {f : Ctx → Ctx}
    (key : ∀ x, (f x).bucket = x.bucket ∧ (f x).chunk = x.chunk)
    (verdict : ∀ x, (f x).floodDone = x.floodDone ∧ (f x).vResult = x.vResult) (c' : Nat) :
    (s.modCtx v.g v.d.bucket c f).verdictOf v c' = s.verdictOf v c' := by
  have given (u : State) : u.verdictOf v c' = ((u.ctx v.g v.d.bucket c').map (fun x => (x.floodDone, x.vResult))).bind
      (fun x => if x.1 then x.2 else none) := by
    unfold verdictOf
    cases u.ctx v.g v.d.bucket c' <;> rfl
  rw [given, given]
  unfold modCtx ctx
  rw [modGroup_group]
  refine congrArg (Option.bind · _) (find?_updateWhere_view (fun x => ?_) (fun x => ?_) _)
  · rw [(key x).1, (key x).2]
  · rw [(verdict x).1, (verdict x).2]

theorem verdictOf_of_ctxs {s t : State} {v : OpView} (h : (t.group v.g).ctxs = (s.group v.g).ctxs) (c : Nat) :
    t.verdictOf v c = s.verdictOf v c := by
  unfold verdictOf
  rw [ctx_congr h]

/-- What a passed chunk leaves: what its release alone would put out, and its entry settled, beside those settled before. -/
structure PassesChunk (s t : State) (v : OpView) (c : Nat) : Prop where
  alike : ReleasesAlike v.g (s.release v c 0) t
  others : OtherGroups v.g s t
  verdicts : ∀ c', t.verdictOf v c' = s.verdictOf v c'
  record : (t.group v.g).record.isSome = (s.group v.g).record.isSome
  settles : (s.group v.g).record.isSome = true → t.settled v.g v.d.bucket c
  stays : ∀ c', s.settled v.g v.d.bucket c' → t.settled v.g v.d.bucket c'

theorem passChunk_passes (s : State) (v : OpView) (c bits : Nat) : PassesChunk s (s.passChunk v c bits) v c := by
  rw [passChunk_eq]
  have beside := s.chunkCounted_besideStats v c
  have counted : ReleasesAlike v.g s (s.chunkCounted v c) :=
    .of_record chunkCounted_only (congrArg (·.step) beside.2) (congrArg (·.record) beside.2)
  have countedEntries : GroupKeeps stepEntries v.g s (s.chunkCounted v c) := beside.map stepEntries
  set u := s.chunkCounted v c
  set r := u.release v c 0
  set w := r.noteVerdict v c bits
  have noted : GroupKeeps besideVerdict v.g s w :=
    (beside.map besideVerdict).trans ((u.release_besideVerdict v c 0).trans (r.noteVerdict_besideVerdict v c bits))
  set x := w.modCtx v.g v.d.bucket c passedCtx
  set t := x.modLaunch v.g v.op.index (withoutChunk c)
  have launched : OnlyChanges [.queues] x t := modLaunch_only
  have taken : GroupKeeps besideCtxs v.g w t := (w.modCtx_besideCtxs _ _ _ _).trans (.of_only launched)
  have entries : GroupKeeps stepEntries v.g w t := taken.map stepEntries
  have record : (t.group v.g).record = (w.group v.g).record := congrArg (·.record) taken.2
  have only : OnlyChanges [.queues, .groups] w t := (launched.mono (by decide)).trans' (modCtx_only.mono (by decide))
  have verdicts (c' : Nat) : x.verdictOf v c' = w.verdictOf v c' :=
    modCtx_verdictOf w v c (f := passedCtx) (fun _ => ⟨rfl, rfl⟩) (fun _ => ⟨rfl, rfl⟩) c'
  exact {
    alike := ((release_alike counted c 0).trans (r.noteVerdict_alike v c bits)).trans
      (.of_record only (congrArg (·.step) taken.2) record)
    others := otherGroups_trans noted.1 taken.1
    verdicts := fun c' => by
      rw [verdictOf_of_ctxs (congrArg Group.ctxs (launched.group_eq v.g)), verdicts,
        verdictOf_of_ctxs (congrArg (·.ctxs) noted.2)]
    record := (congrArg Option.isSome record).trans (record_of_besideVerdict noted.2)
    settles := fun record => settled_of_keeps entries
      (noteVerdict_settles (release_released (by rw [counted.record, record]) c 0) bits)
    stays := fun c' hs => settled_of_keeps entries
      (noteVerdict_settled (release_settled (settled_of_keeps countedEntries hs) c 0) c bits) }

/-! ### A round (R187, R189, R194) -/

/-- The verdict of one chunk takes effect. -/
def chunkTaken (v : OpView) (s : State) (c : Nat) : State :=
  let bits := (s.verdictOf v c).getD 0
  if bits % 4 = 0 then s.passChunk v c bits else s.failChunk v c bits

/-- What follows the verdicts of a round: the end of the operation, or of the step, or a wait for replays. -/
def roundEnded (s : State) (v : OpView) (r : Nat) : State :=
  match s.opAt v.g v.op.index with
  | some v' =>
    if v'.l.waiting.isEmpty then s.finishOp v'
    else
      let left := v'.l.waiting.filter (s.parked v)
      if !left.isEmpty && (replayRounds v == 0 || decide (v.rounds + replayRounds v ≤ r + 1)) then
        let s := if replayRounds v = 0 then s else s.bump .replayExhausted
        s.abort v.g 0x04 (left.headD 0) v.d.bucket
      else s
  | none => s

/-- The verdicts of a tide in which the step ends. -/
def verdictsClosed (s : State) (g : Nat) : State := s.closeVerdicts (s.verdictsNow g)

section

variable {s : State} {v : OpView} {r : Nat}

theorem takeVerdicts_takes (given : ∀ c ∈ v.chunksOf r, (s.verdictOf v c).isSome = true) (skip : s.skipNow v.g = none) :
    s.takeVerdicts v r = ((v.chunksOf r).foldl (chunkTaken v) s).roundEnded v r := by
  have none : (v.chunksOf r).filter (fun c => (s.verdictOf v c).isNone) = [] := by
    simpa [List.filter_eq_nil_iff, Option.isSome_iff_ne_none] using given
  unfold takeVerdicts
  dsimp only
  rw [none]
  dsimp only
  rw [skip]
  rfl

theorem takeVerdicts_skips {b c : Nat} (given : ∀ c ∈ v.chunksOf r, (s.verdictOf v c).isSome = true)
    (skip : s.skipNow v.g = some (b, c)) :
    s.takeVerdicts v r = ((s.verdictsClosed v.g).bump .nonfiniteSkip).abort v.g 0x05 c b := by
  have none : (v.chunksOf r).filter (fun c => (s.verdictOf v c).isNone) = [] := by
    simpa [List.filter_eq_nil_iff, Option.isSome_iff_ne_none] using given
  unfold takeVerdicts
  dsimp only
  rw [none]
  dsimp only
  rw [skip]
  rfl

/-- A missing verdict is counted as lost, and ends the step. -/
theorem takeVerdicts_misses {c : Nat} (mem : c ∈ v.chunksOf r) (missing : s.verdictOf v c = none) : ∃ u c',
    OnlyChanges [.events, .stats] s u ∧ s.takeVerdicts v r = (u.verdictsClosed v.g).abort v.g 0x04 c' v.d.bucket := by
  have mem' : c ∈ (v.chunksOf r).filter (fun c => (s.verdictOf v c).isNone) :=
    List.mem_filter.mpr ⟨mem, by rw [missing]; rfl⟩
  unfold takeVerdicts
  dsimp only
  split
  · case h_1 c' more _ =>
    refine ⟨_, c', ?_, rfl⟩
    split
    · exact bumpPort_only
    · exact .refl
  · case h_2 nil =>
    rw [nil] at mem'
    exact absurd mem' List.not_mem_nil

theorem finishOp_entries (s : State) (v : OpView) : GroupKeeps stepEntries v.g s (s.finishOp v) := by
  have operand (u : State) (kind tag op own : Nat) (flag : Bool) :
      GroupKeeps stepEntries v.g u (u.giveOperand v.g kind tag op own flag) :=
    (u.giveOperand_keeps v.g kind tag op own flag).map stepEntries
  have entered (u : State) : GroupKeeps stepEntries v.g u (u.enterStats v.g v.d.bucket) := by
    unfold enterStats
    extract_lets st w x
    have marked : GroupKeeps stepEntries v.g u w := .modGroup
    exact .ite .refl (marked.trans ((operand _ _ _ _ _ _).trans ((operand _ _ _ _ _ _).trans (operand _ _ _ _ _ _))))
  have released (u : State) : GroupKeeps stepEntries v.g u (u.checkReleased v.g) := by
    unfold checkReleased
    refine .ite (.trans .modGroup (.modGroup fun x => ?_)) .refl
    unfold stepEntries
    cases x.record <;> rfl
  unfold finishOp
  extract_lets u
  have counted : GroupKeeps stepEntries v.g s u := .ite (.of_only modLaunch_only) (entered _)
  split
  · exact counted.trans (.trans (.of_only complete_only) (released _))
  · exact counted

theorem roundEnded_entries (s : State) (v : OpView) (r : Nat) : GroupKeeps stepEntries v.g s (s.roundEnded v r) := by
  unfold roundEnded
  split
  · case h_1 v' found =>
    have finished : GroupKeeps stepEntries v.g s (s.finishOp v') := opAt_group found ▸ s.finishOp_entries v'
    have exhausted (u : State) (c : Nat) : GroupKeeps stepEntries v.g u (u.abort v.g 0x04 c v.d.bucket) :=
      (u.abort_keeps _ _ _ _).map stepEntries
    exact .ite finished (.ite (.trans (.ite .refl (.of_only bump_only)) (exhausted _ _)) .refl)
  · exact .refl

theorem roundEnded_only {s : State} {v : OpView} {r : Nat} :
    OnlyChanges [.ports, .queues, .groups, .events, .stats] s (s.roundEnded v r) := by
  unfold roundEnded
  split
  · refine only_ite finishOp_only (only_ite ?_ .refl)
    exact (abort_only.mono (by decide)).trans' (only_ite .refl (bump_only.mono (by decide)))
  · exact .refl

/-- Where a chunk still waits and a replay round is left, nothing follows. -/
theorem roundEnded_replays {w : State} {c : Nat} (found : s.opAt v.g v.op.index = some v) (queue : w.queue v.g = s.queue v.g)
    (waits : c ∈ v.l.waiting) (rounds : v.d.replayRounds ≠ 0) (left : r + 1 < v.rounds + v.d.replayRounds) :
    w.roundEnded v r = w := by
  unfold roundEnded
  split
  · case h_1 v' found' =>
    obtain ⟨op, launch⟩ := opAt_find found
    obtain ⟨op', launch'⟩ := opAt_find found'
    rw [queue, op] at op'
    have same : v'.l = v.l := by
      rw [← Option.some.inj op', launch] at launch'
      exact (Option.some.inj launch').symm
    have some : v'.l.waiting ≠ [] := by
      rw [same]
      exact List.ne_nil_of_mem waits
    have goesOn : ¬(replayRounds v = 0 ∨ v.rounds + replayRounds v ≤ r + 1) :=
      not_or.mpr ⟨rounds, Nat.not_le.mpr left⟩
    rw [if_neg (by simpa using some)]
    exact if_neg (by simpa using fun _ _ _ => not_or.mp goesOn)
  · rfl

/-- What a round of passed chunks leaves, in turn. -/
structure PassesChunks (s t : State) (v : OpView) (cs : List Nat) : Prop where
  alike : ReleasesAlike v.g (cs.foldl (fun u c => u.release v c 0) s) t
  others : OtherGroups v.g s t
  settles : (s.group v.g).record.isSome = true → ∀ c ∈ cs, t.settled v.g v.d.bucket c
  stays : ∀ c', s.settled v.g v.d.bucket c' → t.settled v.g v.d.bucket c'

theorem releases_alike {s t : State} (h : ReleasesAlike v.g s t) (cs : List Nat) :
    ReleasesAlike v.g (cs.foldl (fun u c => u.release v c 0) s) (cs.foldl (fun u c => u.release v c 0) t) := by
  induction cs generalizing s t with
  | nil => exact h
  | cons c cs ih => exact ih (release_alike h c 0)

theorem chunksTaken_pass {cs : List Nat} {s : State} (pass : ∀ c ∈ cs, ∃ k, s.verdictOf v c = some k ∧ k % 4 = 0) :
    PassesChunks s (cs.foldl (chunkTaken v) s) v cs := by
  induction cs generalizing s with
  | nil => exact ⟨.refl, fun _ _ => rfl, fun _ _ h => absurd h List.not_mem_nil, fun _ h => h⟩
  | cons c cs ih =>
    obtain ⟨k, verdict, passed⟩ := pass c List.mem_cons_self
    have taken : chunkTaken v s c = s.passChunk v c k := by
      unfold chunkTaken
      dsimp only
      rw [verdict]
      exact if_pos passed
    have first := s.passChunk_passes v c k
    rw [List.foldl_cons, taken]
    have rest := ih (s := s.passChunk v c k) fun c' h => by
      rw [first.verdicts]
      exact pass c' (List.mem_cons_of_mem _ h)
    exact {
      alike := (releases_alike first.alike cs).trans rest.alike
      others := otherGroups_trans first.others rest.others
      settles := fun record c' h => by
        obtain rfl | h := List.mem_cons.mp h
        · exact rest.stays _ (first.settles record)
        · exact rest.settles (first.record.trans record) c' h
      stays := fun c' h => rest.stays c' (first.stays c' h) }

/-- What the context of a failed chunk becomes, parked with a number. -/
def failedCtx (park : Nat) (ebb : Bool) (x : Ctx) : Ctx :=
  { x with phase := .replay, vTaken := true, vPass := false, parked := some park,
           replayKind := if ebb then 1 else 2, vHeld := none, vResult := none }

/-- A failed chunk's context is parked, once its verdict is counted and entered. -/
theorem failChunk_parks (s : State) (v : OpView) (c bits : Nat) : ∃ u park, GroupKeeps besideVerdict v.g s u
    ∧ s.failChunk v c bits = u.modCtx v.g v.d.bucket c (failedCtx park (bitAt bits 0)) := by
  unfold failChunk
  extract_lets b ebb counted noted n u
  have replays : OnlyChanges [.events, .stats] s counted := only_ite .refl (only_ite bumpG_only bumpG_only)
  have entered : GroupKeeps besideVerdict v.g s noted :=
    .trans (.of_only replays) (((counted.countFailed_besideLedger v c bits).map besideVerdict).trans
      (noteVerdict_besideVerdict _ v c bits))
  exact ⟨u, _, entered.trans .modGroup, rfl⟩

theorem verdictsNow_group {g : Nat} {x : OpView × Nat × Nat} (h : x ∈ s.verdictsNow g) : x.1.g = g := by
  obtain ⟨v, launched, h⟩ := List.mem_flatMap.mp h
  obtain ⟨r, -, h⟩ := List.mem_flatMap.mp h
  split at h
  · obtain ⟨c, -, h⟩ := List.mem_filterMap.mp h
    split at h
    · exact absurd h (by simp)
    · obtain ⟨k, -, rfl⟩ := Option.map_eq_some_iff.mp h
      exact launched_group launched
  · exact absurd h List.not_mem_nil

theorem verdictsClosed_besideVerdict (s : State) (g : Nat) : GroupKeeps besideVerdict g s (s.verdictsClosed g) := by
  refine .foldl_mem (fun u x mem => ?_) s
  obtain rfl := verdictsNow_group mem
  extract_lets w
  have noted : GroupKeeps besideVerdict x.1.g u w := noteVerdict_besideVerdict _ _ _ _
  exact .ite (noted.trans ((countFailed_besideLedger _ _ _ _).map besideVerdict)) noted

theorem verdictsClosed_only {g : Nat} : OnlyChanges [.groups, .events, .stats] s (s.verdictsClosed g) := closeVerdicts_only

/-- A round that ends the step: the token, with the tide's other verdicts entered. -/
structure EndsRound (s t : State) (g code c b : Nat) : Prop where
  kept : (t.group g).abort.map (·.kept) = some (code, abortValue c b)
  others : OtherGroups g s t
  only : OnlyChanges [.ports, .groups, .events, .stats] s t

theorem endsRound {u w : State} {g : Nat} (runs : s.stepRuns g = true) (before : OnlyChanges [.events, .stats] s u)
    (after : OnlyChanges [.events, .stats] (u.verdictsClosed g) w) (code c b : Nat) :
    EndsRound s (w.abort g code c b) g code c b := by
  have closed : GroupKeeps besideVerdict g s w :=
    .trans (.of_only before) ((u.verdictsClosed_besideVerdict g).trans (.of_only after))
  have runs' : w.stepRuns g = true := by
    have abort : (w.group g).abort = (s.group g).abort := congrArg (·.abort) closed.2
    have state : (w.group g).state = (s.group g).state := congrArg (·.state) closed.2
    unfold stepRuns at runs ⊢
    dsimp only at runs ⊢
    rwa [abort, state]
  have only : OnlyChanges [.groups, .events, .stats] s w :=
    (after.mono (by decide)).trans' (verdictsClosed_only.trans' (before.mono (by decide)))
  exact {
    kept := abort_kept runs' code c b
    others := otherGroups_trans closed.1 (abort_others _ _ _ _ _)
    only := (abort_only.mono (by decide)).trans' (only.mono (by decide)) }

end

end State

/-! ### The command -/

section

variable {s : State} {g i r : Nat} {v : OpView}

theorem exec_verdict_due (run : s.running = true) (found : s.opAt g i = some v) (runs : s.stepRuns g = true)
    (phase : v.op.phase ≠ .done) (round : r < v.rounds + v.l.replays.length) (tide : s.now = v.verdictTide r)
    (untaken : (v.chunksOf r).any (fun c => !((s.ctx g v.d.bucket c).map (·.vTaken)).getD false) = true) :
    exec (.verdict g i r) s = .next (s.takeVerdicts v r) := by
  show execVerdict g i r s = _
  rw [execVerdict, whenRunning_run run, found]
  dsimp only
  rw [if_pos]
  simp only [Bool.and_eq_true, decide_eq_true_eq]
  exact ⟨⟨⟨⟨runs, phase⟩, round⟩, tide⟩, untaken⟩

theorem exec_verdict_early (found : s.opAt g i = some v) (early : s.now ≠ v.verdictTide r) :
    exec (.verdict g i r) s = .next s := by
  show execVerdict g i r s = _
  refine whenRunning_rests ?_
  rw [found]
  exact if_neg (by simp [early])

end

/-- Settles O36: a round that takes effect releases or parks chunk by chunk, and one that does not ends the step. -/
theorem verdictsReleaseOrEndTheStep : Obligations.VerdictsReleaseOrEndTheStep := by
  unfold Obligations.VerdictsReleaseOrEndTheStep
  refine ⟨?passed, ?missing, ?failed, ?skipped, ?early⟩
  case passed =>
    rintro g i r v s run found runs phase round tide untaken rfl pass skip record
    have step := exec_verdict_due run found runs phase round tide untaken
    have only := execVerdict_only step
    have given (c : Nat) (h : c ∈ v.chunksOf r) : (s.verdictOf v c).isSome = true := by
      obtain ⟨k, verdict, -⟩ := pass c h
      rw [verdict]
      rfl
    rw [State.takeVerdicts_takes given skip] at step only
    have chunks := State.chunksTaken_pass pass
    set u := (v.chunksOf r).foldl (State.chunkTaken v) s
    have ends := u.roundEnded_entries v r
    have after : OnlyChanges _ u (u.roundEnded v r) := State.roundEnded_only
    refine ⟨_, step, fun c mem => State.settled_of_keeps ends (chunks.settles record c mem),
      after.out_eq.trans chunks.alike.out, fun c a single free addr => ?_, State.otherGroups_trans chunks.others ends.1, only⟩
    have alike := chunks.alike
    rw [single] at alike
    obtain ⟨out, rseq⟩ := State.release_sends free addr 0
    refine ⟨after.out_eq.trans (alike.out.trans out), Eq.trans ?_ rseq⟩
    unfold State.unit
    rw [after .units (by decide), alike.units]
    rfl
  case missing =>
    rintro g i r v s run found runs phase round tide rfl ⟨c, mem, missing, untaken⟩
    have step := exec_verdict_due run found runs phase round tide (List.any_eq_true.mpr ⟨c, mem, by simp [untaken]⟩)
    obtain ⟨u, c', before, taken⟩ := State.takeVerdicts_misses mem missing
    rw [taken] at step
    have ends := State.endsRound runs before .refl 0x04 c' v.d.bucket
    obtain ⟨a, abort, kept⟩ := Option.map_eq_some_iff.mp ends.kept
    exact ⟨_, a, step, abort, congrArg Prod.fst kept, ends.others, ends.only⟩
  case failed =>
    rintro g i r c k v x s run found runs phase round tide rfl rfl single ctx untaken verdict failed skip waits rounds left
    have step := exec_verdict_due run found runs phase round tide (by simp [single, ctx, untaken])
    have given (c' : Nat) (h : c' ∈ v.chunksOf r) : (s.verdictOf v c').isSome = true := by
      obtain rfl : c' = c := by simpa [single] using h
      rw [verdict]
      rfl
    have taken : (v.chunksOf r).foldl (State.chunkTaken v) s = s.failChunk v c k := by
      rw [single]
      simp [State.chunkTaken, verdict, failed]
    have only : OnlyChanges [.groups, .events, .stats] s (s.failChunk v c k) := State.failChunk_only
    rw [State.takeVerdicts_takes given skip, taken, State.roundEnded_replays found (only.queue_eq v.g) waits rounds left] at step
    obtain ⟨u, park, keeps, parks⟩ := s.failChunk_parks v c k
    have ctxs : (u.group v.g).ctxs = (s.group v.g).ctxs := congrArg (·.ctxs) keeps.2
    have abort : (u.group v.g).abort = (s.group v.g).abort := congrArg (·.abort) keeps.2
    have none : (s.group v.g).abort = none := by
      unfold State.stepRuns at runs
      simp only [Bool.and_eq_true, Option.isNone_iff_eq_none] at runs
      exact runs.1
    have parked := State.modCtx_ctx (s := u) (g := v.g) (b := v.d.bucket) (c := c) (f := State.failedCtx park (bitAt k 0))
      fun _ => ⟨rfl, rfl⟩
    rw [State.ctx_congr ctxs, ctx] at parked
    refine ⟨_, _, step, by rw [parks, parked]; rfl, rfl, rfl, rfl, by simp [State.failedCtx, bitAt], ?_, ?_, only⟩
    · rw [parks, State.modCtx, State.modGroup_group]
      exact abort.trans none
    · rw [parks]
      exact State.otherGroups_trans keeps.1 (State.modCtx_others _ _ _ _ _)
  case skipped =>
    rintro g i r b c v s run found runs phase round tide rfl untaken given skip
    have step := exec_verdict_due run found runs phase round tide untaken
    rw [State.takeVerdicts_skips given skip] at step
    have counted : OnlyChanges [.events, .stats] (s.verdictsClosed v.g) ((s.verdictsClosed v.g).bump .nonfiniteSkip) :=
      State.bump_only
    have ends := State.endsRound runs .refl counted 0x05 c b
    exact ⟨_, step, ends.kept, ends.others, ends.only⟩
  case early =>
    intro g i r v s found early
    exact exec_verdict_early found early

end Sys2Proof.Machine

end
